-- ==== Sys2Proof/Word.lean ====
section
/-! DEFINITION. The word types of the model. Everything computed with them stands under Machine/. -/

namespace Sys2Proof

/-- One byte of memory. -/
abbrev Byte := BitVec 8
/-- One 32-bit register (every register of BAR0 is 32 bits, R387). -/
abbrev W32 := BitVec 32
/-- One 64-bit quantity (a device address is held in 64 bits, R295). -/
abbrev W64 := BitVec 64
/-- A control word, single width in the low half, double width whole (R181). -/
abbrev CWord := BitVec 256
/-- The 128 B of a data-queue entry, byte 0 in the low bits (R143). -/
abbrev Entry := BitVec 1024
/-- The 64 B side-band of a data-queue entry, scale byte 0 in the low bits (R143). -/
abbrev Side := BitVec 512

end Sys2Proof
end

