-- ==== Sys2Proof/Syntax.lean ====
section
/-! DEFINITION. The commands of the block: one constructor of `Instr` for each row of the opcode table, with the operands
the spec gives the step. A core is named by its LOGICAL number unless the operand is called `p`; an engine is 0 for A and
1 for B; `q` is a control queue (1 to 9 by R135; 5 is drain lane A and 10 is drain lane B); `k` is a place in the list of
messages in flight; `i` is a place among the words of a control queue, counted from its head. -/

namespace Sys2Proof

/-- The header flit of a Hextis packet (R325), field by field. `rsvZero`: every reserved field is 0. -/
structure PktHdr where
  typ : Nat
  vc : Nat
  cls : Nat
  mc : Bool
  hops : Nat
  cepoch : Nat
  repoch : Nat
  srcDev : Nat
  dstDev : Nat
  plen : Nat
  lastB : Nat
  srcCore : Nat
  dstCore : Nat
  addr : Nat
  obj : Nat
  dbar : Nat
  dbarEn : Bool
  ret : Bool
  rhq : Nat
  hepoch : Nat
  mseq : Nat
  mgrp : Nat
  route : Nat
  rsvZero : Bool
  /-- PCTR and TAG of the packet's encryption (R327) -/
  pctr : Nat := 0
  tag : Nat := 0
  /-- the 64-byte pieces of the data that carry poison (R26) -/
  pz : List Nat := []
  deriving DecidableEq, Repr

/-- The collective header of a COLL packet (R365). -/
structure CollHdr where
  cdesc : Nat
  inst : Nat
  attempt : Nat
  step : Nat
  phase : Nat
  w : Nat
  instHi : Nat
  nb : Nat
  digest : Nat
  first : Nat
  deriving DecidableEq, Repr

/-- A Felt block: header fields and elements (R66, R67). -/
structure FeltBlk where
  e : Nat
  count : Nat
  nf : Bool
  ovf : Bool
  extra : Nat
  n : List Int
  deriving DecidableEq, Repr

/-- One block of a COLL packet with its slot fields (R361, R365). -/
structure CollBlk where
  ecount : Nat
  mcnt : Nat
  maxc : Nat
  blk : FeltBlk
  deriving DecidableEq, Repr

/-- What a control packet carries (R326): the message kinds the chapters name. -/
inductive CtlMsg where
  /-- a command relayed by the anchor: ring, 64 B command, payload (R400) -/
  | relayed (ring : Nat) (cmd : BitVec 512) (payload : List Byte)
  /-- a member's result of a relayed command: ring, status, sub-status (R400) -/
  | relayResult (ring status subst : Nat)
  /-- a loss notice (R27) -/
  | lossNotice
  /-- a gap notice: multicast group, first missed sequence number (R348) -/
  | gapNotice (g mseq : Nat)
  /-- a resend request (R349) -/
  | resend (g mseq : Nat)
  /-- the answer to a resend request that cannot be served (R349) -/
  | gone (g mseq : Nat)
  /-- a rejoin request (R349) -/
  | rejoin (g : Nat)
  /-- PREPARE with the target epoch (R418) -/
  | prepare (epoch : Nat)
  /-- a vote with its CHECK detail, the devices that the staged table's ports reach for each destination it forwards to (R340, R418), and the
  features of the member with its links (R333) -/
  | vote (ok : Bool) (detail : Nat) (routes : List (Nat × List Nat)) (feat : BitVec 32)
  /-- COMMIT of the group commit with the target epoch (R418) and the feature set of the group (R333) -/
  | groupCommit (epoch : Nat) (feat : BitVec 32)
  /-- ABORT of the group commit (R418) -/
  | groupAbort
  /-- a member reports that its flip is complete (R418) -/
  | flipDone
  /-- a group reset message (R474) -/
  | reset
  /-- a member reports that every link to device `dev` has failed (R345) -/
  | linksFailed (dev : Nat)
  /-- a peer asks for the last group accepted on a failed link, and tells it (R335) -/
  | askGseq (port : Nat)
  | lastGseq (port gseq : Nat)
  deriving DecidableEq, Repr

/-- A core's close report (R244): drain increments, update and norm non-finite, loss, LAMB accumulators, of which each has its saturation flag:
LACC_W then LACC_U of the four sets (R243). -/
structure CloseReport where
  core : Nat
  step : Nat
  attempt : Nat
  drnNf : Nat
  drnSat : Nat
  updNf : Nat
  normNf : Bool
  lossSum : Int
  lossCount : Nat
  lossNf : Nat
  laccW : List Nat
  laccU : List Nat
  laccSat : List Bool
  deriving DecidableEq, Repr

/-- A device's totals of a step (R245). `late`: a collective of the step ended LATE, REFUSED or MISMATCH (R358). `done`: the message says
instead that every core of the device has done its commit (R252). -/
structure Totals where
  step : Nat
  attempt : Nat
  drnNf : Nat
  drnSat : Nat
  updNf : Nat
  normNf : Nat
  collNf : Nat
  lossSum : Int
  lossCount : Nat
  lossNf : Nat
  laccW : List Nat
  laccU : List Nat
  laccSat : List Bool
  late : Bool
  done : Bool := false
  deriving DecidableEq, Repr

/-- The verdict of R245: 1 COMMIT, 2 SKIP, 3 LATE, with the group totals and the loss state (R250). -/
structure Verdict where
  verdict : Nat
  totals : Totals
  lnsat : Bool
  rUpdNf : Bool
  rDrnNf : Bool
  rSat : Bool
  spike : Bool
  loss : BitVec 32
  ewma : BitVec 32
  ewmaValid : Bool
  stepsSeen : Nat
  deriving DecidableEq, Repr

/-- HELLO of link training (R331). -/
structure Hello where
  rev : Nat
  feat : BitVec 32
  dev : Nat
  port : Nat
  gid : BitVec 32
  stepping : Nat
  deriving DecidableEq, Repr

/-- The commands (R6 to R496; spec/opcode_table.json has the rows in this order). -/
inductive Instr where
  | dispatch (c : Nat)
  | fetchFill (c line : Nat)
  | wordStart (c q : Nat)
  | wordComplete (c q : Nat)
  | watchdog (c : Nat)
  | coreDone (c : Nat)
  | nop (c : Nat)
  | qBind (c : Nat)
  | barSet (c : Nat)
  | barSig (c : Nat)
  | sync (c : Nat)
  | loop (c : Nat)
  | br (c : Nat)
  | brc (c : Nat)
  | lcSet (c : Nat)
  | lcAdd (c : Nat)
  | lcPop (c : Nat)
  | flagClr (c : Nat)
  | stepOpen (c : Nat)
  | stepClose (c : Nat)
  | irq (c : Nat)
  | brk (c : Nat)
  | endWord (c : Nat)
  | strLdd (c i : Nat)
  | strCopy (c i : Nat)
  | strCancel (c i : Nat)
  | strL2flush (c i : Nat)
  | strL2inv (c i : Nat)
  | strPin (c i : Nat)
  | strUnpin (c i : Nat)
  /-- `ch`: 0 to 7 an HBM4 stack, 8 to 15 a DDR5 physical channel (R280) -/
  | dmaSegmentIssue (c ch : Nat)
  /-- `tag` is the tag's number; `ce`, `ue`: the channel corrected an error, met an uncorrectable one (R311, R312) -/
  | dmaSegmentDone (c tag : Nat) (ce ue : Bool)
  | ldAgset (c i : Nat)
  /-- `ecc`: 1 when the memory corrects an error of the access, 2 when it meets an uncorrectable one (R25) -/
  | ldVec (c i : Nat) (ecc : Nat := 0)
  | ldPair (c i : Nat)
  | ldCast (c i : Nat)
  | ldSht (c i : Nat)
  | servingRelease (c : Nat)
  | xpose (c i : Nat)
  /-- `res`: what the checks find (R25, R77): 1 a residue mismatch, 2 a corrected and 3 an uncorrectable error of the accumulator buffer, 4 a
  queue's parity error -/
  | mmaRank (c e res : Nat)
  | mmaWl (c e : Nat)
  | mmaSt (c e res : Nat)
  | mmaDrain (c e : Nat)
  | mmaSpill (c e : Nat)
  | mmaFill (c e : Nat)
  | mmaFree (c e : Nat)
  | tileToShadow (c e : Nat)
  | slotMoveDone (c e slot : Nat)
  | startTokenGrant (c e : Nat)
  | rampUpDone (c e : Nat)
  | idleHoldExpiry (c e : Nat)
  | stopSlotGrant (c e : Nat)
  | rampDownDone (c e : Nat)
  | drnTile (c lane : Nat)
  | drainAcceptTile (c e : Nat)
  | drnSrctx (c lane : Nat)
  | drnCfg (c : Nat)
  | drnTbl (c : Nat)
  | drnStat (c : Nat)
  | vecEw (c : Nat)
  | vecRed (c : Nat)
  | vecCmpred (c : Nat)
  | vecSmax (c : Nat)
  | vecNorm (c : Nat)
  | vecGath (c : Nat)
  | vecScat (c : Nat)
  | vecSort (c : Nat)
  | vecNms (c : Nat)
  | vecLoss (c : Nat)
  | vecL1flush (c : Nat)
  | vecL1inv (c : Nat)
  | vecAgset (c : Nat)
  | vecSrctx (c : Nat)
  | vecOpt (c : Nat)
  | wrAgset (c : Nat)
  | wrRows (c : Nat)
  | stashSpill (c : Nat)
  | stashSpillDone (c : Nat)
  | updHp (c : Nat)
  | updRun (c : Nat)
  | updNorm (c : Nat)
  | exPut (c i : Nat)
  | exHbind (c i : Nat)
  | exHfwd (c i : Nat)
  | exMail (c i : Nat)
  | exMrecv (c i : Nat)
  | exFelt (c i : Nat)
  | exColl (c i : Nat)
  | gconv (c i : Nat)
  | putDelivery (k : Nat)
  | handleDelivery (k : Nat)
  | exchAck (k : Nat)
  | creditReturn (k : Nat)
  | mailboxMessage (k : Nat)
  | mailboxRetry (k : Nat)
  /-- the outstanding request of input `port` of cluster `g` arrives at the switch with arrival stamp `stamp` (R20);
  `err`: 1 a parity error of tags, miss registers or switch queues, 2 an L2 data error that is corrected, 3 one that is not (R25) -/
  | clusterRequest (g port stamp err : Nat)
  | l2MissFill (g line : Nat)
  | openNoticeReceive (k : Nat)
  | closeReportReceive (k : Nat)
  /-- `none`: this device's own totals in flight; `some`: a member's totals received by the anchor (R245) -/
  | deviceTotalsReceive (dev : Nat) (t : Option Totals)
  /-- `none`: the verdict formed by this device as anchor; `some`: received from the anchor (R246) -/
  | verdictReceive (v : Option Verdict)
  | pinWaitRelease (c : Nat)
  | commitDone (c : Nat)
  | closeDeadline
  /-- `img`: the bytes of the image the device reads from host memory (R177) -/
  | loadImage (r : Nat) (img : List Byte)
  | start (r : Nat)
  | stop (r : Nat)
  | preempt (r : Nat)
  | resume (r : Nat)
  | migrate (r : Nat)
  /-- `list`: the entries the device reads from LIST, offset and value (R414) -/
  | stage (r : Nat) (list : List (Nat × BitVec 32))
  | check (r : Nat)
  | commit (r : Nat)
  | abort (r : Nat)
  | stepRepeat (r : Nat)
  | attest (r : Nat)
  | fence (r : Nat)
  /-- `pass`: the outcome of the core's built-in test (R426) -/
  | unfence (r : Nat) (pass : Bool)
  | query (r : Nat)
  | sqTail (r tail : Nat)
  | cqHead (r head : Nat)
  | relayedCommandReceive (src ring : Nat) (cmd : BitVec 512) (payload : List Byte)
  | relayResultReceive (r dev status subst : Nat)
  | relayTimeout (r : Nat)
  /-- `isl`: the island, numbered as the model's list of islands (R417) -/
  | islandFlip (isl : Nat)
  | flipComplete
  | flipTimeout
  | prepareReceive (src epoch : Nat)
  /-- `routes`, `feat`: the staged tables and the features that the answer carries (R333, R340) -/
  | voteReceive (dev : Nat) (ok : Bool) (detail : Nat) (routes : List (Nat × List Nat) := []) (feat : BitVec 32 := 0)
  /-- `feat`: the features of the group, which the command carries (R333) -/
  | groupCommitReceive (src epoch : Nat) (feat : BitVec 32 := 0)
  | groupAbortReceive (src : Nat)
  | twoPhaseTimeout
  /-- `pin`: 0 to 3 FRAME_IN, 4 to 11 GPIO, 12 PWRFAIL_N, 13 THERM_ALERT (R403) -/
  | externalInput (pin : Nat) (level : Bool)
  | irqSourceEvent (src : Nat) (level : Bool)
  | claim (cp : Nat)
  | eoi (cp src : Nat)
  | irqHeoi (src : Nat)
  | irqStormWindow
  | irqStatClear (src : Nat) (storm stuck : Bool)
  | frameEdge (n : Nat) (rising : Bool)
  | preemptRequest (c : Nat)
  /-- `cyc`: engine cycles from the request to the boundary (PRE_BWAIT) -/
  | preemptBoundary (c cyc : Nat)
  /-- `stall`: engine cycles lost to mesh requests (R435); `lat`: CP cycles from the latch to the start (R410) -/
  | saveDone (c stall lat : Nat)
  | frameRunEnd (n : Nat)
  /-- `bad`: CRC mismatch, bad MAGIC or an uncorrectable error in the save area (R436) -/
  | restoreDone (c stall : Nat) (bad : Bool)
  | frameDeadline (n : Nat)
  | noAckTimeout (p : Nat)
  | fenceListWrite
  | flashSectorDone
  /-- `mv`: the hold-up node's voltage at HU_SENSE in mV (R477) -/
  | flashDeferRetest (mv : Nat)
  | rcmtGo (c : Nat)
  | rcmtDone (c : Nat)
  | migrationGranuleDone (obj : Nat)
  | codecBlockWrite (obj blk ofs : Nat) (data : List Byte)
  /-- `fail`: the codec engine fails (R25) -/
  | codecBlockRead (obj blk : Nat) (fail : Bool := false)
  | patrolScrubPass (ch ce ue : Nat)
  /-- `fail`: the mask of the lanes on which the training fails (R334) -/
  | portTraining (port fail : Nat)
  | hello (port : Nat) (m : Hello)
  /-- `n`: message 1 to 3; `authOk`: chain and signature verify; `sealedOk`: the peer's configuration block matches (R455) -/
  | keyExchangeMessage (port n : Nat) (authOk sealedOk : Bool)
  /-- a flit group: GSEQ, CRC good, ACKSEQ valid and value, NAK flag, credit returns of the ten pools, flits of packets (R321) -/
  | flitGroupReceive (port gseq : Nat) (crcOk ackValid : Bool) (ack : Nat) (nak : Bool) (cret : List Nat) (flits : Nat)
  | nakReceive (port ack : Nat)
  | replayTimeout (port : Nat)
  | laneErrorWindow (port lane errs : Nat)
  /-- `last`: the last GSEQ the peer accepted, asked over another route (R335) -/
  | portFailed (port : Nat) (last : Option Nat)
  | ctlPacket (port : Nat) (h : PktHdr) (tagOk : Bool) (m : CtlMsg)
  | voilePacket (port : Nat) (h : PktHdr) (tagOk : Bool) (tag : Nat) (data : List Byte)
  | voileRemoteRetry (k : Nat)
  | writePacket (port : Nat) (h : PktHdr) (tagOk : Bool) (data : List Byte)
  | hdelivPacket (port : Nat) (h : PktHdr) (tagOk : Bool) (data : List Byte)
  | readPacket (port : Nat) (h : PktHdr) (tagOk : Bool) (len : Nat)
  | rdrspPacket (port : Nat) (h : PktHdr) (tagOk : Bool) (data : List Byte)
  | ackPacket (port : Nat) (h : PktHdr) (tagOk : Bool)
  | collPacket (port : Nat) (h : PktHdr) (tagOk : Bool) (ch : CollHdr) (blks : List CollBlk) (bytes : List Byte)
  | lossNoticeReceive (dev : Nat)
  | gapNotice (g mseq : Nat)
  | pruneWaitExpiry (g : Nat)
  | hxMcResend (g mseq : Nat)
  | resendRequest (g dev mseq : Nat)
  | rejoin (g : Nat)
  | rejoinRequest (g dev : Nat)
  | prunedClear (g hi : Nat) (mask : BitVec 32)
  | retrain (port : Nat)
  | refclkSerLoss (quad : Nat)
  | collInstanceStart (cdesc : Nat)
  | collBlockArrival (k : Nat)
  | collInstanceEnd (cdesc : Nat)
  | collDeadline (cdesc : Nat)
  | fallbackDeadline (cdesc : Nat)
  | abortColl
  | normMessage (k : Nat)
  /-- `est`: the device power estimate of this evaluation in watts (R466) -/
  | powerLoopEval (est : Nat)
  | avsWriteAck
  | frequencyChange
  /-- READ_VOUT of VDD_CORE in mV and whether STATUS_WORD reports a rail fault (R460, R461) -/
  | pmbusPoll (mv : Nat) (fault : Bool)
  /-- the 64 cluster sensors in °C; `rise`, `fall`: the 100 µs and 1 ms pacing of R467 allow a step -/
  | thermalSample (temps : List Nat) (rise fall : Bool)
  | thermAlert (asserted : Bool)
  | pwrfailN (low : Bool)
  | pwrfailRecovery
  | sysPwrok (high : Bool)
  /-- capacities in GiB of the DDR5 physical channels, 0 for one that fails training (R309) -/
  | memoryTrainingDone (ddrCap : List Nat)
  | sysRstN
  | warmReset
  | flr (perst : Bool)
  | coreReset (c : Nat)
  | coreResetDone
  | groupReset
  | groupResetMessage (src : Nat)
  | restart (c : Nat)
  | seqCtrlStop (c : Nat)
  | releaseWindow
  | hostWindowRead (ofs len : Nat)
  | hostWindowWrite (ofs : Nat) (data : List Byte)
  | sealedPageWrite (ofs : Nat) (b : Byte)
  | sealedPageRead (ofs len : Nat)
  | poolStatCapture (c pool : Nat)
  | cpRun (mask : BitVec 32)
  | cpWatchdog (cp : Nat)
  /-- `wr`: the bytes of a store, none for a load of `len` bytes (R402) -/
  | cpMemoryAccess (cp addr len : Nat) (wr : Option (List Byte))
  | engCntClr (c e : Nat)
  | drnCntClr (c : Nat)
  | seqCntClr (c : Nat)
  | tpCntClr (c : Nat)
  | updCntClr (c : Nat)
  | smCntClr
  | strCntClr (c : Nat)
  | l2CntClr (c : Nat)
  | portCntClr (port : Nat)
  | colCntClr
  | cerrCntClr (c : Nat)
  | secCntClr
  | pwrCntClr
  /-- a write of `width` bytes (4 or 8) at `ofs` of BAR0 or BAR2 (R387) -/
  | registerWrite (bar ofs width : Nat) (val : BitVec 64)
  | getVersion (tr : Nat)
  | getCapabilities (tr : Nat)
  | negotiateAlgorithms (tr : Nat) (offer : List Nat)
  | getDigests (tr slot : Nat)
  | getCertificate (tr slot ofs len : Nat)
  | challenge (tr slot : Nat) (nonce : List Byte)
  | getMeasurements (tr index : Nat) (nonce : List Byte)
  | keyExchange (tr : Nat) (data : List Byte)
  | finish (sess : Nat) (macOk : Bool)
  | keyUpdate (sess : Nat)
  | heartbeat (sess : Nat)
  | endSession (sess : Nat)
  | ideKm (sess : Nat) (data : List Byte)
  | ownerClaim (sess : Nat) (pk sig : List Byte)
  | seal (sess : Nat)
  | release (sess : Nat)
  | ownerInfo (sess : Nat)
  | scrubDone
  /-- `data`: the manifest with its trailer, read from MBX_ADDR (R457) -/
  | manifestWrite (data : List Byte)
  | arbCommit
  | debugUnlock (token : List Byte)
  | pldmFirmwareUpdate (comp : Nat) (img : List Byte)
  | pldmSensorRead (sensor : Nat)
  /-- `what`: 1 mesh link or router ECC, 2 control-complex integrity, 3 tamper, 4 HBM4 stack or controller, 5 DDR5 channel (R25) -/
  | chipError (what unit : Nat)
  | pcieLinkEvent (up : Bool)
  | sessionFault (sess : Nat)
  /-- `addr`: a new SMBus address, where the message sets one (R492) -/
  | mctpControlMessage (bus code : Nat) (addr : Option Nat)
  | dynamicAddressAssignment (addr : Nat)
  | jtagInstruction (ir : Nat) (dr : List Bool)
  deriving DecidableEq, Repr

end Sys2Proof
end

