-- ==== Sys2Proof/Config.lean ====
section
/-! DEFINITION. What the spec leaves open: constants with no body, so that no proof can lean on a value of them. -/

namespace Sys2Proof

/-- A value that the spec leaves open, applied to the state's counter `fresh` (log 1). -/
opaque Config.freeWord : Nat → BitVec 64
/-- A byte string that the spec leaves open (lengths are the spec's), applied to `fresh` and the byte's place (log 1). -/
opaque Config.freeByte : Nat → Nat → Byte
/-- Word `w` of built-in table `tid` of the drain (R120; log 8). -/
opaque Config.builtinTable : Nat → Nat → W32
/-- VEC.SMAX of a row of FP32 values (R196; log 9): the order of its operations is not given. -/
opaque Config.softmax : List W32 → List W32
/-- VEC.NORM of a row with gain, offset and epsilon (R196; log 9); first argument: RMS norm. -/
opaque Config.norm : Bool → List W32 → List W32 → List W32 → W32 → List W32
/-- Intersection over union of two boxes x0, y0, x1, y1 in VEC.NMS (R196; log 9). -/
opaque Config.iou : List W32 → List W32 → W32
/-- The Adam step of VEC.OPT with its one moment (R203; log 39): learning rate, the set's B1, B2, EPS, WD and MU, gradient, weight, moment;
the new weight and moment. -/
opaque Config.adamU1 : W32 → List W32 → W32 → W32 → W32 → W32 × W32
/-- SHA3-256, SHA3-384, SHA3-512 and the KMAC-based functions of 15 (log 10), by name and input. -/
opaque Config.hash : Nat → List Byte → List Byte
/-- Signature verification by algorithm, key, message and signature (15; log 10). -/
opaque Config.verify : Nat → List Byte → List Byte → List Byte → Bool
/-- Signature by algorithm, secret key, message (15; log 10). -/
opaque Config.sign : Nat → List Byte → List Byte → List Byte
/-- Key derivation and key encapsulation by purpose, key and input (15; log 10). -/
opaque Config.derive : Nat → List Byte → List Byte → List Byte
/-- Byte `i` of the AES-256-GCM key stream of a key number and an IV (R316; log 10). -/
opaque Config.gcmStream : Nat → List Byte → Nat → Byte
/-- The AES-256-GCM tag of a key number, IV, additional data and ciphertext (R316; log 10). -/
opaque Config.gcmTag : Nat → List Byte → List Byte → List Byte → List Byte
/-- Shared secret and transcript hash of the nth key set-up of a physical port, and its peer's alias public key hash (R455; log 10). -/
opaque Config.linkSecret : Nat → Nat → List Byte
opaque Config.peerAlias : Nat → Nat → List Byte
/-- The body of a message whose format the spec does not give, by transport code and input (13, 15, 17; log 11). -/
opaque Config.message : Nat → List Nat → List Byte

/-- CERT_HASH, the unique device secret and the hash of the boot ROM (R440, R446; log 10). -/
opaque Config.certHash : List Byte
opaque Config.uds : List Byte
opaque Config.romHash : List Byte
/-- ML-DSA-44 key generation from a seed: public and secret key (R446; log 10). -/
opaque Config.keygenPub : List Byte → List Byte
opaque Config.keygenSec : List Byte → List Byte

/-- Luastan's manufacturer code in IDCODE [11:1] (R492; log 64). -/
opaque Config.makerCode : BitVec 11

end Sys2Proof
end

