-- ==== Sys2Proof/Machine/State.lean ====
section
/-! DEFINITION. The state of the block as plain data, the reasons a step can stop, and the state after reset. Numbers that the spec
treats as indexes, addresses and counts are Nat; bit patterns are BitVec. -/

namespace Sys2Proof.Machine

/-- A finite map from numbers, keys strictly rising; a key that is not listed has the map's default. -/
abbrev Amap (α : Type) := List (Nat × α)

/-- A memory: the bytes that differ from 0, at strictly rising addresses (an unlisted address reads 0, log 3). -/
abbrev Memory := List Host.Cell

/-! ### One core: sequencer and queues (05) -/

/-- SEQ_STAT.STATE. -/
inductive RunState where
  | stopped | running | halted | frozen | done | preempted
  deriving DecidableEq, Repr

/-- A barrier (R147). -/
structure Barrier where
  count : Nat := 0
  target : Nat := 0
  adv : Nat := 0
  owner : Nat := 0
  deriving DecidableEq, Repr

/-- A loop on the loop stack (R160): first word of the body, END, iterations remaining, iteration index, and the LC register
its count was latched from (R161). -/
structure LoopEnt where
  body : Nat
  endA : Nat
  remain : Nat
  idx : Nat
  src : Option Nat
  deriving DecidableEq, Repr

/-- A line of the fetch buffer (R138): control-word address div 32, its 512 bytes, and whether a granule of it came with
poison. -/
structure FetchLine where
  line : Nat
  bytes : List Byte
  poison : Bool
  deriving DecidableEq, Repr

/-- A fill of the fetch buffer in flight: the line, whether a miss waits for it, the DMA segments still out (R279). -/
structure FetchFill where
  line : Nat
  demand : Bool
  segs : Nat
  deriving DecidableEq, Repr

/-- An address generator (R190). -/
structure Agen where
  space : Nat := 0
  layout : Nat := 0
  base : Nat := 0
  stride : List Int := [0, 0, 0, 0]
  count : List Nat := [0, 0, 0, 0]
  deriving DecidableEq, Repr

/-- A word in a control queue or started by its unit. `pc`: its control-word address. `ilev`: the iteration index recorded at
dispatch (R186). `n`: quanta of its work done. `fin`: all its effects are made. `hnd`: the handle it took. `base`: the base
of that handle's buffer, `lim` its size. `ents`, `vals`: operands gathered and numbers kept between quanta.
`cancelled`: R274. `refetched`: R277. `gens`: the address generators as they stood at its start (R190, R191). `held`: for each operand of
a load word its last access and its last scale bytes, each with poison (R258, R261). `epoch`: the configuration epoch
that a copy's requests carry (R302). -/
structure Cqe where
  word : CWord
  seqno : Nat
  pc : Nat
  ilev : Nat
  started : Bool := false
  fin : Bool := false
  n : Nat := 0
  hnd : Option Nat := none
  out : Option Nat := none
  ents : List Entry := []
  vals : List Nat := []
  segs : Nat := 0
  cancelled : Bool := false
  refetched : Bool := false
  wgen : Option Nat := none
  gens : List Agen := []
  held : List (List Byte × Bool) := []
  epoch : Nat := 0
  deriving DecidableEq, Repr

/-- The SEQ word being executed (R135, R136): the word, its address, whether it has passed its wait, and for the step words
whether the close report or open notice has gone out (R174, R244). -/
structure SeqCur where
  word : CWord
  pc : Nat
  released : Bool := false
  sent : Bool := false
  outcome : Option Nat := none
  deriving DecidableEq, Repr

/-- What STEP.OPEN records for a step repeat (R165), with the stash record number of R221. -/
structure StepRec where
  loops : List LoopEnt
  lc : List Nat
  bars : Amap Barrier
  stashNum : Nat
  deriving DecidableEq, Repr

/-- The halt record (HALT_PC, HALT_CAUSE, HALT_INFO; R171). -/
structure HaltRec where
  pc : Nat := 0
  unit : Nat := 0
  reason : Nat := 0
  seqno : Nat := 0
  info : Nat := 0
  deriving DecidableEq, Repr

/-- A freeze record (FRZ_CAUSE, FRZ_ADDR; R172). -/
structure FrzRec where
  unit : Nat := 0
  reason : Nat := 0
  obj : Nat := 0
  addr : Nat := 0
  deriving DecidableEq, Repr

/-- The sequencer (R135 to R174). `stopping`: a STOP waits for the dispatched words. `ending`: END has executed. `mode`: true
in token mode. `open`: a step is open. `repeating`: the next STEP.OPEN is the reissue of a step repeat (R167).
`live`: the sequence numbers dispatched and not completed, oldest first (R157). `seed`, `updRne`: latched at STEP.OPEN (R62). `haltUnits`: the
units that have detected a halt condition in the engine cycle of the halt, `haltOld`: the record before it (R170). -/
structure Sequencer where
  state : RunState := .stopped
  stopping : Bool := false
  ending : Bool := false
  pc : Nat := 0
  start : Nat := 0
  stepPc : Nat := 0
  seqno : Nat := 0
  flags : BitVec 32 := 0
  mode : Bool := false
  wdog : Nat := 0x40
  swirq : Bool := false
  loops : List LoopEnt := []
  lc : List Nat := [0, 0, 0, 0, 0, 0, 0, 0]
  bars : Amap Barrier := []
  open_ : Bool := false
  repeating : Bool := false
  step : Nat := 0
  stepNum : Nat := 0
  attempt : Nat := 0
  seed : W64 := 0
  updRne : Bool := false
  repeatRec : Option StepRec := none
  halt : HaltRec := {}
  frz : FrzRec := {}
  cur : Option SeqCur := none
  fetch : List FetchLine := []
  fills : List FetchFill := []
  live : List Nat := []
  haltUnits : List Nat := []
  haltOld : HaltRec := {}
  deriving DecidableEq, Repr

/-- An entry of a data queue (R143); `side`: the side-band of MX scales, when it carries one (R82); `srv`: the LD.SHT and the
serving that it belongs to (R210, R216). -/
structure DqEnt where
  data : Entry
  side : Option Side := none
  tok : Nat := 0
  poison : Bool := false
  srv : Option (Nat × Nat) := none
  deriving DecidableEq, Repr

/-- A data queue: producer and consumer when bound, and its entries, head first. `served`: the LD.SHT word that serves it
(R210). `fullW`, `emptyW`: the waits counted of its producer on a full and of its consumer on an empty queue (R143). -/
structure DataQ where
  bind : Option (Nat × Nat) := none
  ents : List DqEnt := []
  served : Option Nat := none
  fullW : Nat := 0
  emptyW : Nat := 0
  deriving DecidableEq, Repr

/-- An entry of a handle queue (R143). `la`: pushed by a stream and counted in LA_ISSUED (R273); `bytes`: bytes the
transfer moved (R274). -/
structure HqEnt where
  h : Nat
  epoch : Nat := 0
  poison : Bool := false
  tok : Nat := 0
  la : Bool := false
  bytes : Nat := 0
  deriving DecidableEq, Repr

/-- The sending end of a link (R283, R285): far end, credits, retained handles oldest first. -/
structure SendEnd where
  core : Nat
  dev : Nat
  rhq : Nat
  credits : Nat
  retained : List Nat
  deriving DecidableEq, Repr

/-- The receiving end of a link (R283, R284): far end, its C, pool, the handles reserved, its place in the order of binding, and the handle
whose buffer is being received in parts, with whether its data is dropped (R266, R268). -/
structure RecvEnd where
  core : Nat
  dev : Nat
  rhq : Nat
  c : Nat
  pool : Nat
  reserved : List Nat
  order : Nat
  part : Option (Nat × Bool) := none
  deriving DecidableEq, Repr

/-- A handle queue. `coming`: handles of streams in flight toward it (R273); `late`: an empty pop was counted for the
transfer in flight. `early`: credits that came before the queue became a sending end (log 48). -/
structure HandleQ where
  bind : Option (Nat × Nat) := none
  ents : List HqEnt := []
  send : Option SendEnd := none
  recv : Option RecvEnd := none
  late : Bool := false
  early : Nat := 0
  deriving DecidableEq, Repr

/-- A buffer-table entry (R264). -/
structure BtEnt where
  en : Bool := false
  space : Nat := 0
  pool : Nat := 0
  tag : Nat := 0
  size : Nat := 0
  base : Nat := 0
  deriving DecidableEq, Repr

/-- Who owns a DMA segment (R279): a stream word, a stash spill, a fetch fill. -/
inductive DmaOwner where
  | stream (seqno : Nat)
  | spill
  | fetch (line : Nat)
  deriving DecidableEq, Repr

/-- A segment of at most 2 KiB (R279): channel (0 to 7 HBM4, 8 to 15 DDR5 physical), owner, priority, object and address; the
configuration epoch it was issued in (R302). -/
structure DmaSeg where
  ch : Nat
  owner : DmaOwner
  prio : Nat
  obj : Nat
  addr : Nat
  write : Bool
  epoch : Nat := 0
  deriving DecidableEq, Repr

/-! ### Engines (03) and the shared tile register (07) -/

/-- A cell (R76): the signed integer and the sticky non-finite bit. -/
structure Cell where
  acc : Int := 0
  nf : Bool := false
  deriving DecidableEq, Repr

/-- The quarter word of R98. `scanNone`: the tile has T = 0 because its AUTO scan never returned a value (R100). -/
structure QWord where
  texp : Int := 0
  sat : Bool := false
  nf : Bool := false
  valid : Bool := false
  pack : Nat := 0
  scanNone : Bool := false
  deriving DecidableEq, Repr

/-- A tile of 16 rows of 64 cells with its four quarter words (R95). -/
structure Tile where
  rows : List (List Cell) := List.replicate 16 (List.replicate 64 {})
  q : List QWord := List.replicate 4 {}
  deriving DecidableEq, Repr

/-- The state of a slot's quarter (R96). -/
inductive QState where
  | free | held | busy
  deriving DecidableEq, Repr

/-- A slot (R95, R96). -/
structure Slot where
  st : List QState := [.free, .free, .free, .free]
  tile : Tile := {}
  deriving DecidableEq, Repr

/-- Where a finished tile goes (R86). -/
inductive TileDest where
  | drain
  | hold (slot : Nat)
  deriving DecidableEq, Repr

/-- What the shadow registers hold (R88): nothing; a tile for the drain; a tile on its way to a slot; a tile that comes from a slot or as a
residual preload; such a tile, complete, which waits to enter the active registers. -/
inductive ShadowUse where
  | none
  | toDrain
  | toSlot
  | loading
  | ready
  deriving DecidableEq, Repr

/-- A move of a slot's quarters (R96): from the shadow; to the shadow; to the drain, for MMA.DRAIN word `word` or for the stationary word
that wrote it, and whether the drain has taken it. -/
inductive MoveKind where
  | hold
  | resume
  | drain (word : Option Nat) (taken : Bool)
  deriving DecidableEq, Repr

structure SlotMove where
  slot : Nat
  qs : List Nat
  kind : MoveKind
  deriving DecidableEq, Repr

/-- ENG_STAT.ACT (R104 to R107). -/
inductive Act where
  | idle | up | active | down
  deriving DecidableEq, Repr

/-- The AUTO scan of one packed problem (R51, R100): the exponent once known, and the operand entries of the block being
scanned. -/
structure Scan where
  texp : Option Int := some 0
  buf : List (DqEnt × DqEnt) := []
  deriving DecidableEq, Repr

/-- One outer-product engine (R76 to R107). `latch`: rows of the weight latches as the entries popped, with `latFmt` of their MMA.WL;
`tileOpen`: FIN = OPEN left a tile, with its PACK and formats; `scans`: of each packed problem of the active tile; `pre`: preload values
popped, by row (R83, R85); `finish`: the active tile is complete and waits for the shadow (R88); `offers`: tiles offered to the drain, the
shadow's (none) or a slot's, oldest first; `stopReq`: it waits for a stop slot (R469). -/
structure Engine where
  latch : List DqEnt := []
  latFmt : Nat := 0
  active : Tile := {}
  tileOpen : Bool := false
  openPack : Nat := 0
  openA : Nat := 0
  openB : Nat := 0
  scans : List Scan := []
  pre : List (List W32) := []
  finish : Option TileDest := none
  shadow : Tile := {}
  shUse : ShadowUse := .none
  slots : List Slot := List.replicate 8 {}
  moves : List SlotMove := []
  offers : List (Option Nat) := []
  act : Act := .idle
  groups : Nat := 0
  stopReq : Bool := false
  rampLen : Nat := 2
  deriving DecidableEq, Repr

/-- A buffer of the shared tile register (R210): rows read so far, the LD.SHT word and the serving it belongs to, and the number of its
tile within the serving. -/
structure ShtBuf where
  word : Nat
  serving : Nat
  pos : Nat
  rows : List Entry
  poison : Bool
  deriving DecidableEq, Repr

/-- A serving of an LD.SHT (R211, R213): its word, number and tiles; the queues of its columns (A) and rows (B); its rate; the entries
pushed and popped on each side. -/
structure Serving where
  word : Nat
  num : Nat
  tiles : Nat
  outA : Nat
  outB : Nat
  r : Nat
  width : Nat
  pushA : Nat := 0
  pushB : Nat := 0
  popA : Nat := 0
  popB : Nat := 0
  deriving DecidableEq, Repr

/-- The shared tile register: its four buffers, and the servings not released, oldest first (R210 to R216). -/
structure Sht where
  bufs : List (Option ShtBuf) := [none, none, none, none]
  servs : List Serving := []
  deriving DecidableEq, Repr

/-! ### Drain (04), vector (06), update (08), stash and pins (07), exchange (09) -/

/-- A stochastic-rounding context (R125), with n, the tiles (or groups) since it was set. -/
structure RndCtx where
  obj : Nat := 0
  base : Nat := 0
  tstep : Nat := 0
  pstep : Nat := 0
  rstep : Nat := 0
  n : Nat := 0
  deriving DecidableEq, Repr

/-- A tile in the drain's pipeline: its lane, the slot it leaves (none: the shadow), rows done, and the bias row popped for it. -/
structure DrnTile where
  lane : Nat
  src : Option Nat
  tile : Tile
  row : Nat
  bias : List W32
  deriving DecidableEq, Repr

/-- A norm accumulator (R129). -/
structure Nacc where
  acc : Nat := 0
  nf : Bool := false
  sat : Bool := false
  deriving DecidableEq, Repr

/-- The drain unit. `tbl`: the four user-table halves (0 F, 0 D, 1 F, 1 D): whether loaded, and their words as
filled (R121); `repNf`, `repSat`: the values
of DRN_STEP_NF and DRN_STEP_SAT at the last report (R128). -/
structure Drain where
  param : List W32 := [0x3F800000, 0x3F800000, 0x3F800000, 0x3F800000, 0x3C23D70A, 0x7F]
  ctx : List RndCtx := [{}, {}]
  cur : Option DrnTile := none
  tbl : List (Bool × List W32) := [(false, []), (false, []), (false, []), (false, [])]
  nacc : Amap Nacc := []
  repNf : Nat := 0
  repSat : Nat := 0
  deriving DecidableEq, Repr

/-- A line of 128 bytes of the vector unit's L1 or of a cluster L2 (R290, 01 R25). `owner`: the physical core that wrote it last; `pf`:
filled by a prefetch and not yet used (R292). -/
structure CLine where
  line : Nat
  bytes : List Byte
  dirty : Bool
  owner : Nat := 0
  poison : Bool := false
  pf : Bool := false
  deriving DecidableEq, Repr

/-- The vector unit: its rounding context and its L1. `miss`: the line it asked the cluster L2 for; `nf`:
non-finite results of the step (R251). -/
structure Vec where
  ctx : RndCtx := {}
  l1 : List CLine := []
  miss : Option Nat := none
  /-- the line that the L2 was asked for in its place: another while the access is redirected (R229) -/
  missAt : Nat := 0
  nf : Nat := 0
  deriving DecidableEq, Repr

/-- A hyperparameter set (R198). -/
structure HpSet where
  lr : W32 := 0
  b1 : W32 := 0
  b2 : W32 := 0
  eps : W32 := 0
  wd : W32 := 0
  mu : W32 := 0
  deriving DecidableEq, Repr

/-- UPD_STAT.PHASE. -/
inductive UpdPhase where
  | idle | staging | pinWait | commit
  deriving DecidableEq, Repr

/-- The update unit (R234 to R250). `lacc`: LACC_W and LACC_U of each set, with a saturation flag each (R243); `w2`, `u2`: LNORM;
`denied`: UPD_STAT.DENIED; `touched`: weight objects of the step, in order (R247). -/
structure Upd where
  hp : List HpSet := [{}, {}, {}, {}]
  stg : Nat := 0
  phase : UpdPhase := .idle
  normValid : Bool := false
  normNf : Bool := false
  normOvf : Bool := false
  lnsat : Bool := false
  denied : Bool := false
  gnorm : W32 := 0
  scale : W32 := 0x3F800000
  laccW : List Nat := [0, 0, 0, 0]
  laccU : List Nat := [0, 0, 0, 0]
  laccSat : List Bool := List.replicate 8 false
  w2 : List W32 := [0, 0, 0, 0]
  u2 : List W32 := [0, 0, 0, 0]
  lossSum : Int := 0
  lossCount : Nat := 0
  lossNf : Nat := 0
  touched : List Nat := []
  deriving DecidableEq, Repr

/-- Where a stash record lies (R222, R224): a frame of the pool, or its T3 blocks. -/
inductive RecLoc where
  | frame (f : Nat)
  | spilling (f : Nat)
  | t3 (blocks : List Nat)
  deriving DecidableEq, Repr

/-- A stash record: its number, committed or not, its place. -/
structure StashRec where
  num : Nat
  committed : Bool
  loc : RecLoc
  deriving DecidableEq, Repr

/-- The stash of a core (R221 to R226). `pres`: frames presented as handles and not released: buffer-table entry, frame, and the record's
number plus 1 once a word has taken the handle (0 before). -/
structure Stash where
  next : Nat := 0
  recs : List StashRec := []
  pres : List (Nat × Nat × Nat) := []
  peak : Nat := 0
  exhausted : Bool := false
  t3use : Nat := 0
  deriving DecidableEq, Repr

/-- An entry of the pin table (R227). -/
structure PinEnt where
  obj : Nat
  ver : Nat
  cnt : Nat
  stepPin : Bool
  /-- pins taken since the last STEP.OPEN, which a step repeat releases (R232) -/
  stepCnt : Nat
  deriving DecidableEq, Repr

/-- A mailbox message (R287). -/
structure MbxMsg where
  srcCore : Nat
  srcDev : Nat
  tag : Nat
  data : List Byte
  deriving DecidableEq, Repr

/-- The state of a core that a preemption saves and restores (14 R432): all of it is in the save area. -/
structure CoreCtx where
  seq : Sequencer := {}
  /-- control queues by number (R135, R110): words not started and started, oldest first -/
  cq : Amap (List Cqe) := []
  dq : Amap DataQ := []
  hq : Amap HandleQ := []
  bt : Amap BtEnt := []
  /-- free lists of the pools (R265) -/
  pools : Amap (List Nat) := []
  sd : Amap (BitVec 512) := []
  ldAg : Amap Agen := []
  wrAg : Amap Agen := []
  vecAg : Amap Agen := []
  engA : Engine := {}
  engB : Engine := {}
  sht : Sht := {}
  drn : Drain := {}
  vec : Vec := {}
  upd : Upd := {}
  deriving DecidableEq, Repr

/-- A delivery held while its core is preempted (R430). -/
inductive Held where
  | barrier (b n : Nat)
  | handle (hq : Nat) (e : HqEnt)
  | credit (hq n : Nat)
  | verdict (v : Verdict)
  deriving DecidableEq, Repr

/-- PRE_STAT.PHASE (14). -/
inductive PrePhase where
  | none | waiting | saving | saved | restoring
  deriving DecidableEq, Repr

/-- The preemption of a core (14 R429 to R437). `prior`: the state before it; `frame`: the frame binding whose run the core takes part in;
`host`: a host PREEMPT asked for it or keeps it, with the program to start in `prog`; `saved`: the state saved; `contCommit`: a commit
continues (R248); `held`: deliveries held (R430). -/
structure Pre where
  phase : PrePhase := .none
  valid : Bool := false
  prior : RunState := .stopped
  frame : Option Nat := none
  host : Bool := false
  prog : Option Nat := none
  bytes : Nat := 0
  bwait : Nat := 0
  saveCyc : Nat := 0
  restCyc : Nat := 0
  saved : Option CoreCtx := none
  contCommit : Bool := false
  held : List Held := []
  deriving DecidableEq, Repr

/-- The recovery commit of a core (R428). -/
structure Rcmt where
  running : Bool := false
  done : Bool := false
  err : Bool := false
  groups : Nat := 0
  deriving DecidableEq, Repr

/-- FENCE_REC of a physical core (R420, R422, R423). -/
structure FenceRec where
  cause : Nat := 0
  fenced : Bool := false
  incommit : Bool := false
  deriving DecidableEq, Repr

/-- A packet to another device that waits for its acknowledgement (R329): far end, word, and for an EX.HFWD its queue, handle and RET. A
buffer of multicast group g has dev 0x100 + g and its MSEQ for core. -/
structure RemOut where
  dev : Nat
  core : Nat
  word : Nat
  hq : Option Nat
  h : Nat
  ret : Bool
  deriving DecidableEq, Repr

/-- One physical core. `inflight`, `transit`, `heldH`: the handles in these states of R266 (`heldH`: taken by words or retained);
`dropH`: words that were flushed with the handle of their transfer, whose data is dropped when it completes (R268); `regs`: its plain RW registers and `cnt` its
counters, by offset in the core's block. -/
structure Core extends CoreCtx where
  inflight : List Nat := []
  transit : List Nat := []
  heldH : List Nat := []
  dropH : List (Nat × Nat) := []
  tags : Amap DmaSeg := []
  dmaQ : List DmaSeg := []
  stash : Stash := {}
  pins : List PinEnt := []
  /-- the object lookaside: objects with the epoch of their fill, oldest first (R300) -/
  look : List (Nat × Nat) := []
  mbx : List MbxMsg := []
  rem : List RemOut := []
  pre : Pre := {}
  rcmt : Rcmt := {}
  fence : FenceRec := {}
  regs : Amap W32 := []
  cnt : Amap W32 := []
  poolLatch : Amap W32 := []
  deriving DecidableEq, Repr

/-- A request at an input of a cluster switch (R20): input port (0 to 7 the cores, 8 the L2, 9 the mesh router), core, line, and for a
write-back the line's bytes. `stamp`: set when it has arrived. -/
structure SwReq where
  port : Nat
  line : Nat
  wr : Option (List Byte)
  poison : Bool
  stamp : Option Nat
  /-- of a prefetch (input 8): the port whose stream asks for it -/
  cause : Nat := 0
  deriving DecidableEq, Repr

/-- A miss register (R21): the core ports that wait for it; `cause`: the port whose access or miss stream asked for it. -/
structure MissReg where
  line : Nat
  ports : List Nat
  cause : Nat
  prefetch : Bool
  deriving DecidableEq, Repr

/-- A miss stream of the prefetcher (R292). -/
structure PfStream where
  last : Nat
  stride : Int
  count : Nat
  deriving DecidableEq, Repr

/-- One physical cluster (01 R20, R21; 09 R290 to R292): L2 lines; miss registers; requests; the input
served last. -/
structure Cluster where
  oos : Bool := false
  l2 : List CLine := []
  miss : List MissReg := []
  reqs : List SwReq := []
  lastIn : Nat := 0
  pf : List PfStream := []
  regs : Amap W32 := []
  cnt : Amap W32 := []
  deriving DecidableEq, Repr

/-! ### Messages in flight on the mesh (08, 09, 12) -/

/-- A message in flight on the device's mesh. `src`, `dest`: physical cores, but `src` of an answer (ack, credit) is the logical core that gives it;
`dst`: a logical core; `word`: the sequence number of the word that sent it. -/
inductive Flight where
  /-- EX.PUT to a core of this device (R282) -/
  | put (src word dst space addr : Nat) (data : List Byte) (dbar : Option Nat)
  /-- a buffer of EX.HFWD (R283): sending queue, handle and RET of the sender; core, queue, epoch at the receiver -/
  | handle (src word shq h : Nat) (ret : Bool) (dst rhq epoch : Nat) (data : List Byte) (dbar : Option Nat)
  /-- acknowledgement of an EX.PUT (`hq` none) or of a delivery of a sending end (R282, R285) -/
  | ack (src dest word : Nat) (hq : Option Nat) (h : Nat) (ret : Bool)
  /-- credits returned to a sending end (R283, R284) -/
  | credit (src dest hq n : Nat)
  /-- credits of physical core `src` on their way to a link's sending end on another device -/
  | rcredit (src dev core hq n : Nat)
  /-- a Voile message to a mailbox (R287), 0x3FF the collective engine's; `refused`: it waits for its retry -/
  | mail (src word dst tag srcCore : Nat) (data : List Byte) (refused : Bool)
  /-- a Voile message to another device, not yet accepted there (R350) -/
  | rmail (src word dev dst tag : Nat) (data : List Byte) (refused : Bool)
  /-- a STEP.OPEN's notice to the step monitor (R244) -/
  | openNotice (src core step attempt seqno : Nat)
  /-- a core's close report (R244), and the increments a DRN.STAT sends (R128) -/
  | closeReport (src : Nat) (r : CloseReport)
  | drainReport (src step attempt nf sat : Nat)
  /-- this device's totals on their way to the anchor, and the verdict on its way to this device (R245) -/
  | totals (t : Totals)
  | verdict (v : Verdict)
  /-- a scale byte of block `b` of a collective, TAG 0xF (R371 to R373), to a core: kind 0 a candidate, 1 E_b, 2 a redo's E, 3 S_b -/
  | scale (src dst cdesc kind b v : Nat)
  /-- a block of a collective on its way to its chip owner (R363) -/
  | block (src dst cdesc b : Nat) (redo : Bool) (c : CollBlk)
  /-- a core's norm block on its way to the engine; a device sum, or the result, between engines; the result back to a core (R381) -/
  | normUp (src cdesc : Nat) (b : FeltBlk)
  | normDev (cdesc : Nat) (up : Bool) (b : FeltBlk)
  | normDown (dest cdesc : Nat) (b : FeltBlk)
  deriving DecidableEq, Repr

/-! ### Tiers and objects (10) -/

/-- An object-table entry (R297), field by field. -/
structure ObjEnt where
  base : Nat := 0
  tier : Nat := 0
  kind : Nat := 0
  valid : Bool := false
  guarded : Bool := false
  size : Nat := 0
  stripe : Nat := 0
  muslin : Bool := false
  mw : Nat := 0
  mxq : Nat := 0
  metaObj : Nat := 0
  wgen : Nat := 0
  version : Nat := 0
  pincnt : Nat := 0
  backing : Nat := 0
  cgR : Nat := 0
  cgW : Nat := 0
  hostR : Bool := false
  hostW : Bool := false
  codecR : Bool := false
  codecW : Bool := false
  peerR : Nat := 0
  peerW : Nat := 0
  bpol : Nat := 0
  migrating : Bool := false
  /-- the reserved bits that are set (only in a staged copy; R301 rule 0x09) -/
  rsv : Nat := 0
  deriving DecidableEq, Repr

/-- A stripe set (R303); START, LEN and CHOFS in GiB. -/
structure StripeSet where
  valid : Bool := false
  tier : Nat := 0
  gran : Nat := 0
  chmask : Nat := 0
  start : Nat := 0
  len : Nat := 0
  chofs : Nat := 0
  deriving DecidableEq, Repr

/-- A version shadow (R308): object, version, granule offset and size in the pool, pins moved to it. -/
structure Shadow where
  obj : Nat
  ver : Nat
  ofs : Nat
  size : Nat
  pins : Nat
  deriving DecidableEq, Repr

/-- A migration (R305, R306): the destination image and the next granule to copy; `ring`: where its command came from. -/
structure Migration where
  obj : Nat
  dest : ObjEnt
  next : Nat
  running : Bool
  ring : Option Nat
  /-- channels of the granule's DMA segments (R307): those that hold a segment slot, and those that wait without one -/
  held : List Nat := []
  wait : List Nat := []
  deriving DecidableEq, Repr

/-- A memory channel (CH_STAT; R309, R312): STATE and capacity in GiB. -/
structure Channel where
  state : Nat := 1
  cap : Nat := 48
  scrubCe : Nat := 0
  deriving DecidableEq, Repr

/-- The object side (R297 to R308). -/
structure ObjSide where
  table : Amap ObjEnt := []
  staged : Amap ObjEnt := []
  cgrp : Amap Nat := []
  cgrpStaged : Amap Nat := []
  stripes : Amap StripeSet := []
  stripesStaged : Amap StripeSet := []
  shadows : List Shadow := []
  migs : List Migration := []
  lastMig : Nat := 0
  chans : Amap Channel := []
  codecOos : List Nat := []
  codecFrz : Amap FrzRec := []
  codecBad : List Nat := []
  deriving DecidableEq, Repr

/-! ### Step monitor (08) -/

/-- The ledger of a step number and attempt (R244, R249): cores whose open notice came, cores that reported, what they reported; `late`: a
collective of the step ended LATE, REFUSED or MISMATCH; `timed`: the close deadline has passed. -/
structure Ledger where
  step : Nat
  attempt : Nat
  opened : List Nat := []
  reported : List Nat := []
  acc : Totals
  late : Bool := false
  timed : Bool := false
  deriving DecidableEq, Repr

/-- A verdict round of a step and attempt at the anchor (R245): its members, and the totals received, by device. -/
structure Round where
  step : Nat
  attempt : Nat
  roster : List Nat
  got : Amap Totals := []
  deriving DecidableEq, Repr

/-- The step monitor (R244 to R252). `sent`: the steps and attempts whose totals have been sent; `rounds`: at the anchor; `commits`: physical
cores that have still to report their commit; `commitDevs`: at the anchor, members that have. -/
structure StepMon where
  ledgers : List Ledger := []
  sent : List (Nat × Nat) := []
  rounds : List Round := []
  commits : List Nat := []
  commitDevs : List Nat := []
  verdict : Option Verdict := none
  ewma : W32 := 0
  loss : W32 := 0
  lastStep : Nat := 0
  ewmaValid : Bool := false
  stepsSeen : Nat := 0
  deriving DecidableEq, Repr

/-! ### Hextis ports and the group (11) -/

/-- What a packet carries beside its header: a control message; a Voile message with its tag, or the answer to one; a step monitor's totals
or verdict; data; a collective's header
with blocks or bytes. -/
inductive PktBody where
  | ctl (m : CtlMsg)
  | mail (tag : Nat) (data : List Byte)
  | totals (t : Totals)
  | verdict (v : Verdict)
  | data (d : List Byte)
  | coll (c : CollHdr) (blks : List CollBlk) (bytes : List Byte)
  deriving DecidableEq, Repr

/-- A packet of this device's own or one that it forwards. `cipher`: its payload as it leaves, encrypted once (R327). -/
structure Pkt where
  h : PktHdr
  b : PktBody
  cipher : List Byte := []
  deriving DecidableEq, Repr

/-- A flit group in the replay buffer (R322): GSEQ, times sent, packet flits, the packet that ends in it. -/
structure TxGroup where
  gseq : Nat
  sends : Nat
  flits : Nat
  pkt : Option Pkt
  deriving DecidableEq, Repr

/-- PORT_STAT.STATE. -/
inductive PortState where
  | down | training | up | upR1 | failed | refused
  deriving DecidableEq, Repr

/-- One Hextis port, by logical number (R319 to R335). `bad`: lanes removed; `hello`, `keyMsg`: progress of training (R331, R455); `key`: keys
set up so far; `rxAny`: a group has been accepted; `hist`: the VCs of the last 64 packet flits, and `wrr`: collective flits less WCOLL times the
bulk flits, both of the arbiter (R328); `cred`: credits at the sender, `owe`: returns to send, by pool and class; `txq`: packets that wait; `frozen`: devices whose
request stream is frozen; `frz`: SUB, SRCDEV, object and address of PORT_FRZ. -/
structure Port where
  state : PortState := .down
  bad : List Nat := []
  lanes : Nat := 0
  hello : Bool := false
  keyMsg : Nat := 0
  key : Nat := 0
  rev : Nat := 0
  feat : W32 := 0
  peerDev : Nat := 0xFF
  peerPort : Nat := 0
  txSeq : Nat := 0
  rxSeq : Nat := 4095
  rxAny : Bool := false
  nakked : Bool := false
  hist : List Nat := []
  wrr : Int := 0
  replay : List TxGroup := []
  cred : List Nat := [0, 0, 0, 0, 0, 0, 0, 0, 0, 0]
  owe : List Nat := [0, 0, 0, 0, 0, 0, 0, 0, 0, 0]
  pctr : Nat := 0
  txq : List Pkt := []
  frozen : List Nat := []
  frz : Option (Nat × Nat × Nat × Nat) := none
  deriving DecidableEq, Repr

/-- A multicast sending end of this device (R346 to R349), by group: MSEQ of the next buffer; credits and count of acknowledged buffers of each
member; the buffer that waits (core, place of the word); the buffers retained with their MSEQ. -/
structure McSend where
  mseq : Nat := 0
  cred : Amap Nat := []
  acked : Amap Nat := []
  waits : Bool := false
  kept : List (Nat × Nat) := []
  deriving DecidableEq, Repr

/-! ### Collectives (12) -/

/-- The slot of a block on this device (R361, R363). `loc`: local contributions arrived; `sent`: forwarded; `final`; `redo`: 1 listed for the redo,
2 reduced again; `cloc`, `ckids`, `cmax`: candidates arrived from cores and from devices, and the largest; `csent`; `sup`: sent in the
fall-back; `flag`: final with OVF in the first round. -/
structure CollSlot where
  blk : Option FeltBlk := none
  ecount : Nat := 0
  mcnt : Nat := 0
  maxc : Nat := 0
  loc : Nat := 0
  sent : Bool := false
  final : Bool := false
  redo : Nat := 0
  cloc : Nat := 0
  ckids : Nat := 0
  cmax : Nat := 0
  csent : Bool := false
  sup : Bool := false
  flag : Bool := false
  deriving DecidableEq, Repr

/-- An instance that runs on this device (R353). `members`: device IDs, ascending; `me`: this device's rank; `sca`: the instance agrees its
scales; `e`: agreed E_b; `re`: E_b of redo blocks; `scales`: blocks whose next scale byte is written; `got`: blocks gathered; `unacked`: packets to be
acknowledged; `gather`: the AG of an AR runs; `fb`: the fall-back runs; the flags ovf, nf, short: a block was delivered with OVF, with NF,
or lacks a contribution; `sum`, `locs`, `devs`, `res`, `pushed`: of a NORM; `elapsed` counts units of 1,024 CP cycles. -/
structure CollInst where
  c : Nat
  step : Nat
  attempt : Nat
  inst : Nat
  members : List Nat
  me : Nat
  sca : Bool := false
  phase : Nat := 1
  slots : Amap CollSlot := []
  e : Amap Nat := []
  re : Amap Nat := []
  scales : List Nat := []
  got : List Nat := []
  unacked : Nat := 0
  gather : Bool := false
  fb : Bool := false
  mism : Bool := false
  ovf : Bool := false
  nf : Bool := false
  short : Bool := false
  emax : Nat := 0
  sum : Option FeltBlk := none
  locs : Nat := 0
  devs : Nat := 0
  res : Option FeltBlk := none
  pushed : List Nat := []
  elapsed : Nat := 0
  deriving DecidableEq, Repr

/-- COL_DSTAT of a descriptor, with the count of its instances in the current attempt of a step (R353). -/
structure CollStat where
  status : Nat := 0
  scValid : Bool := false
  scPlane : Bool := false
  planned : Bool := false
  emax : Nat := 0
  emaxV : Bool := false
  inst : Nat := 0
  attempt : Nat := 0
  step : Nat := 0
  started : Nat := 0
  deriving DecidableEq, Repr

/-- A COLL packet held until its instance starts (R365). -/
structure CollHeld where
  port : Nat
  h : PktHdr
  ch : CollHdr
  blks : List CollBlk
  bytes : List Byte
  deriving DecidableEq, Repr


/-! ### Interrupt controller (13) -/

/-- One interrupt source (R403 to R408). `serv`: in service on a CP at a priority;
`win`: events in the window. -/
structure IrqSrc where
  raw : Bool := false
  pend : Bool := false
  hpend : Bool := false
  storm : Bool := false
  stuck : Bool := false
  scount : Nat := 0
  win : Nat := 0
  serv : Option (Nat × Nat) := none
  deriving DecidableEq, Repr

/-! ### The device's logical map (01) -/

/-- An entry of LCORE_MAP (R34), and of the port, channel and codec maps (R35). -/
structure MapEnt where
  phys : Nat
  valid : Bool := true
  remapped : Bool := false
  epoch : Nat := 0
  deriving DecidableEq, Repr

/-- A fence in the fence list (R421, R424): physical core, cause, written to flash (PERSIST), its test passed while its cluster waits
(R426). -/
structure FenceEnt where
  p : Nat
  cause : Nat
  persist : Bool
  passed : Bool := false
  deriving DecidableEq, Repr

/-- An entry of FENCE_LOG (14). -/
structure FenceLogEnt where
  p : Nat
  cause : Nat
  incommit : Bool
  epoch : Nat
  deriving DecidableEq, Repr

/-- The fence list's state (R424, R425): SEQ of the last copy, `dirty`: changes not yet written, deferred, lost, the log with its next entry and
total. -/
structure FlState where
  seq : Nat := 0
  dirty : Bool := false
  deferred : Bool := false
  lost : Bool := false
  next : Nat := 0
  total : Nat := 0
  log : Amap FenceLogEnt := []
  deriving DecidableEq, Repr

/-- An accepted image (R441, R442, R457): slot sequence, FWVER, SVN, measurement; a manifest's sequence and entries (stepping, security,
management, runtime). -/
structure Image where
  seq : Nat
  fwver : Nat
  svn : Nat
  digest : List Byte
  manSeq : Nat := 0
  entries : List (List Nat) := []
  deriving DecidableEq, Repr

/-- What a flash write is for (R424, R457, R477, R479): a copy of the fence list; the erase of a slot's header, a sector of an image, and the
header that makes the slot valid; a rollback staging record with the counters to burn; a crash record. -/
inductive FlashKind where
  | fences (ps : List Nat) (seq : Nat)
  | erase (slot : Nat)
  | image
  | header (slot : Nat) (img : Image)
  | rollback (targets : List Nat)
  | record
  deriving DecidableEq, Repr

/-- A flash sector operation that is due: offset, the bytes programmed after the erase (none: an erase alone). -/
structure FlashJob where
  at_ : Nat
  data : List Byte
  kind : FlashKind
  deriving DecidableEq, Repr

/-- A frame binding's run (R409 to R412): in progress, the cores of its set, the cores that have still to start, an edge pending. -/
structure Frame where
  run : Bool := false
  cores : List Nat := []
  waiting : List Nat := []
  ending : Bool := false
  pend : Bool := false
  deriving DecidableEq, Repr

/-! ### What leaves the block -/

/-- Something the block sends to the outside (host memory, buses, debug): the model's trace of it, newest last (log 7). -/
inductive OutEvent where
  /-- a core reports completion to the runtime (R159) -/
  | coreDone (core : Nat)
  /-- bytes written to host memory -/
  | hostWrite (addr : Nat) (data : List Byte)
  /-- MSI-X message of a vector (R408) -/
  | msix (vec : Nat)
  /-- a trap of a control processor: CP, mcause, target, source (R405) -/
  | cpTrap (cp : Nat) (target src : Nat)
  /-- data returned to the reader of a window, of a ring read, of a CP load; `poison`: some of it is poisoned (R26) -/
  | readData (data : List Byte) (poison : Bool := false)
  | readValue (v : W64)
  /-- a refused access: Unsupported Request, Completer Abort, bus error -/
  | accessError
  /-- a packet handed to a port's link -/
  | packet (port : Nat) (k : Pkt)
  /-- the link-control flit of a group (R321): GSEQ, ACKSEQ and its valid bit, NAK, CRET -/
  | linkCtl (port gseq ack : Nat) (valid nak : Bool) (cret : List Nat)
  | hello (port : Nat) (m : Hello)
  /-- an answer on a management or security transport -/
  | response (tr code : Nat) (data : List Byte)
  /-- a level on an output pin -/
  | pin (pin : Nat) (level : Bool)
  /-- a write on AVSBus or PMBus -/
  | bus (bus code value : Nat)
  /-- bits shifted out of TDO -/
  | tdo (bits : List Bool)
  deriving DecidableEq, Repr


/-! ### Staged configuration and group commits (13) -/

/-- A flip in progress (R416): target epochs; the islands that have flipped; the staged settings that take effect: entries of the object
table, core groups, stripe sets, register fields (whole registers by BAR0 offset, with the staged bits put in), maps. `ring`: the ring
whose COMMIT waits for it; `tell`: the anchor to report to (R418). -/
structure Flip where
  epoch : Nat
  repoch : Nat
  flipped : List Nat := []
  table : Amap ObjEnt := []
  cgrp : Amap Nat := []
  stripes : Amap StripeSet := []
  regs : Amap W32 := []
  lmap : Amap MapEnt := []
  lport : Amap MapEnt := []
  lchan : Amap MapEnt := []
  lcodec : Amap MapEnt := []
  ring : Option Nat := none
  tell : Option Nat := none
  gfeat : Option W32 := none
  deriving DecidableEq, Repr

/-- The session (R414, R418): CFG_STAT.SESSION, locked, the epoch of a PREPARE and the anchor that sent it; staged maps. -/
structure Session where
  st : Nat := 0
  locked : Bool := false
  epoch : Nat := 0
  from_ : Nat := 0
  lmap : Amap MapEnt := []
  lport : Amap MapEnt := []
  lchan : Amap MapEnt := []
  lcodec : Amap MapEnt := []
  deriving DecidableEq, Repr

/-- A group commit at the anchor (R418): the ring of its COMMIT, target epoch, votes by device, the next hops that each member's
staged table gives (R340), whether it has decided to commit, members that have flipped. -/
structure TwoPc where
  ring : Nat
  epoch : Nat
  members : List Nat
  votes : Amap (Bool × Nat) := []
  routes : Amap (List (Nat × List Nat)) := []
  feat : W32 := 0x7F
  decided : Bool := false
  flips : List Nat := []
  deriving DecidableEq, Repr

/-! ### Command rings (13) -/

/-- The command at the head of a ring once it has been taken: its 64 bytes, the payload that a relayed command carries, whether its effect
has begun. -/
structure RingJob where
  cmd : BitVec 512
  payload : List Byte := []
  started : Bool := false
  deriving DecidableEq, Repr

/-- A relayed command at the anchor (R400): members named, their results (status, sub-status). -/
structure RelayJob where
  members : List Nat
  results : Amap (Nat × Nat) := []
  deriving DecidableEq, Repr

/-- A ring (R393, R394). `held`: a completion that waits for room; `last`: results of the ring's last relayed command. Rings 0 to 16 are the
host's; 32 + r holds the commands that the anchor `src` relays from its ring r. -/
structure Ring where
  sqHead : Nat := 0
  sqTail : Nat := 0
  cqTail : Nat := 0
  cqHead : Nat := 0
  cqUsed : Nat := 0
  phase : Bool := true
  badDb : Bool := false
  held : Option (List Byte) := none
  job : Option RingJob := none
  queue : List RingJob := []
  src : Nat := 0
  relay : Option RelayJob := none
  last : Amap (Nat × Nat) := []
  deriving DecidableEq, Repr

/-- The host window's freeze record (R388). -/
structure HwinFrz where
  reason : Nat
  obj : Nat
  addr : Nat
  deriving DecidableEq, Repr

/-! ### Power, clocks and reset (16) -/

/-- The power manager (R461 to R468). Demands D_PLIM, D_FAST, D_THERM, D_PF; `avg`: the EST values of the last 1 ms, newest first; the counts
of evaluations of R466 (since D_PLIM rose, with the average below 0.95 LIMIT, consecutive ones above FAST, below LIMIT); `step`: in force;
`goal`: the step asked for; `setMv`, `readMv`: AVS_STAT; `raise`: a voltage write for a step up waits for its acknowledgement, `acked`: the
frequency change waits; `temps`: by cluster; `tripped`: THERMTRIP_N; `pfWait`: PWRFAIL_N is low or has not yet been high for 10 ms
(R478); `huV`, `huE`: HU_VOLT and E as the last check of R477 measured them. -/
structure Power where
  dPlim : Nat := 0
  dFast : Nat := 0
  dTherm : Nat := 0
  dPf : Nat := 0
  est : Nat := 0
  avg : List Nat := []
  sincePlim : Nat := 1000
  below95 : Nat := 0
  overFast : Nat := 0
  belowLimit : Nat := 0
  step : Nat := 0
  goal : Nat := 0
  setMv : Nat := 800
  readMv : Nat := 0
  write : Bool := false
  acked : Bool := false
  temps : Amap Nat := []
  alert : Bool := false
  tripped : Bool := false
  pfWait : Bool := false
  huV : Nat := 0
  huE : Nat := 0
  deriving DecidableEq, Repr

/-- A core reset in progress (R473): logical and physical core, and whether its 2,048 cycles have begun. -/
structure CoreRst where
  l : Nat
  p : Nat
  begun : Bool
  deriving DecidableEq, Repr

/-! ### Security island (15) -/

/-- An SPDM session (R448): transport, and whether FINISH has established it. -/
structure Spdm where
  tr : Nat
  est : Bool := false
  th : List Byte := []
  deriving DecidableEq, Repr

/-- A sealed page open for writing (R454): BAR4 page, device address, its record, the bytes received. -/
structure WPage where
  page : Nat
  addr : Nat
  record : List Byte
  got : Amap Byte
  deriving DecidableEq, Repr

/-- A read buffer of a sealed page: BAR4 page and its ciphertext; poisoned where a byte of the plaintext is (R26). -/
structure RPage where
  page : Nat
  data : List Byte
  poison : Bool := false
  deriving DecidableEq, Repr

/-- The security island (R438 to R458). `slots`: the image of flash slot 2·COMP + k that the boot accepts, when the slot is valid; `run`:
images running, by COMP; `updating`: components whose update is being written, with the ring that waits; `owner`: the session that holds owner
status, `env`: its envelope key; `scrub`: what the scrub in progress precedes (0 RELEASE, 1 a reset's boot). -/
structure Sec where
  debug : Bool := false
  debugNext : Bool := false
  recovery : Bool := false
  rreason : Nat := 0
  svn : List Nat := [0, 0, 0, 0]
  keyrev : Nat := 0
  fwComp : Nat := 0
  fwResult : Nat := 0
  slots : Amap Image := []
  run : Amap Image := []
  updating : Amap (Option Nat) := []
  ownerKey : Option (List Byte) := none
  owner : Option Nat := none
  env : List Byte := []
  hctr : Nat := 0
  dctr : Nat := 0
  wpages : List WPage := []
  rpages : List RPage := []
  scrub : Option Nat := none
  sess : Amap Spdm := []
  meas7 : List Byte := List.replicate 32 0
  ide : List Byte := []
  mbxBusy : Bool := false
  mbxStatus : Nat := 0
  deriving DecidableEq, Repr


/-- The state of the block: one FJ2 device, and the queue of commands that wait. `regs` and `cnt`: plain RW registers and counters by BAR0
offset. `fresh`: the model's own counter for free values (log 1). -/
structure State where
  t0 : Memory := []
  slice : Memory := []
  tier : Memory := []
  flash : Memory := []
  t0Pz : List Nat := []
  slicePz : List Nat := []
  tierPz : List Nat := []
  grade : Nat := 0
  fused : List Nat := []
  lmap : Amap MapEnt := []
  ncores : Nat := 480
  spares : List Nat := []
  fences : List FenceEnt := []
  lport : Amap MapEnt := []
  lchan : Amap MapEnt := []
  lcodec : Amap MapEnt := []
  cores : Amap Core := []
  clusters : Amap Cluster := []
  mesh : List Flight := []
  obj : ObjSide := {}
  sm : StepMon := {}
  irq : Amap IrqSrc := []
  regs : Amap W32 := []
  cnt : Amap W32 := []
  rneUsed : Bool := false
  epoch : Nat := 0
  sealed_ : Bool := false
  bar2 : Memory := []
  msixMask : List Nat := List.range 64
  msixPba : List Nat := []
  t3Key : Nat := 0
  frames : List Frame := List.replicate 4 {}
  fl : FlState := {}
  flashQ : List FlashJob := []
  flashBusy : Bool := false
  huMv : Nat := 0
  pwrfail : Bool := false
  ports : Amap Port := []
  mcs : Amap McSend := []
  hxLinks : Amap (List Nat) := []
  hxCut : List Nat := []
  linkHeld : List Instr := []
  repoch : Nat := 0
  colls : Amap CollInst := []
  dstat : Amap CollStat := []
  collHeld : List CollHeld := []
  staged : Amap W32 := []
  cfg : Session := {}
  flip : Option Flip := none
  twopc : Option TwoPc := none
  rings : Amap Ring := []
  hwin : Option HwinFrz := none
  rcepoch : Nat := 0
  deliv : Amap Nat := []
  pw : Power := {}
  rstLast : Nat := 0
  coreRst : Option CoreRst := none
  rstStat : W32 := 0
  powered : Bool := true
  lost : Bool := false
  linkUp : Bool := true
  sec : Sec := {}
  sram : Memory := []
  smbus : Nat := 0x64
  i3c : Option Nat := none
  jtag : Nat := 0
  bsr : List Bool := []
  fresh : Nat := 0
  out : List OutEvent := []
  pending : List Instr := []
  deriving DecidableEq, Repr

/-- Why a step stops with a fault. The block never stops: every error of the spec is a state of the machine (R25 to R27, R168 to R172,
R420), so no command raises a fault, which is safe. -/
inductive Fault where
  /-- no command raises it -/
  | none
  deriving DecidableEq, Repr

/-- Why a command has no meaning in the model. -/
inductive Refusal where
  /-- the command's meaning has not been written; raised only by the arms of Dispatch.lean; safe -/
  | notModelled (mnemonic : String)
  deriving DecidableEq, Repr

/-- The physical cores that are neither fused nor spare by fuse on the FJ2-480 of the example after R35 (log 4): core 7 of each even
cluster is a spare. -/
def bootCores : List Nat := (List.range 512).filter fun p => p % 16 ≠ 7

/-- Numbers given in ascending order to the units of a list (R31). -/
def bootMap (l : List Nat) : Amap MapEnt := l.zipIdx.map fun x => (x.2, { phys := x.1 })

/-- The firmware of a normal boot (log 6): slot 0 of every component holds an accepted image, and the manifest names their tuple. -/
def bootImage : Image := { seq := 1, fwver := 0, svn := 0, digest := List.replicate 32 0, manSeq := 1, entries := [[0, 0, 0, 0]] }
def bootSec : Sec := { slots := [(4, bootImage), (6, bootImage), (8, bootImage), (10, bootImage)]
                       run := [(2, bootImage), (3, bootImage), (4, bootImage), (5, bootImage)] }

/-- The machine after cold reset and boot: an FJ2-480 (log 4) with its boot map (R31), stripe sets by R304, and no object (log 5). -/
def State.reset : State where
  lmap := bootMap bootCores
  spares := (List.range 512).filter fun p => p % 16 = 7
  lport := bootMap (List.range 24)
  lchan := bootMap (List.range 8)
  lcodec := bootMap (List.range 8)
  irq := [(28, { raw := true }), (29, { raw := true })]
  obj := {
    stripes := [(0, { valid := true, tier := 0, gran := 1, chmask := 0xFF, start := 0, len := 384, chofs := 0 }),
                (1, { valid := true, tier := 1, gran := 1, chmask := 0xFF, start := 0, len := 512, chofs := 0 })]
    chans := (List.range 16).map fun c => (c, { state := 1, cap := if c < 8 then 48 else 64 }) }
  sec := bootSec

end Sys2Proof.Machine
end

