-- ==== Sys2Proof/Machine/Numbers.lean ====
section
/-! DEFINITION. Number formats as exact values, conversion to a format, keyed rounding (R40 to R46, R57 to R63). -/

namespace Sys2Proof.Machine

/-- A flag as a bit. -/
def b2n (b : Bool) : Nat := if b then 1 else 0

/-- An exact value: a NaN, an infinity, or ± m × 2^e. -/
inductive Fp where
  | nan
  | inf (neg : Bool)
  | fin (neg : Bool) (m : Nat) (e : Int)
  deriving DecidableEq, Repr

/-- Bits [lo + len − 1 : lo] of a number. -/
def bitsOf (w lo len : Nat) : Nat := (w >>> lo) % 2 ^ len

/-- Bit i of a number. -/
def bitAt (w i : Nat) : Bool := bitsOf w i 1 = 1

/-- The signed value of an n-bit two's-complement number. -/
def signedOf (n w : Nat) : Int := if w % 2 ^ n < 2 ^ (n - 1) then (w % 2 ^ n : Nat) else ((w % 2 ^ n : Nat) : Int) - (2 ^ n : Nat)

/-- The n-bit two's-complement code of an integer. -/
def codeOf (n : Nat) (x : Int) : Nat := (x % (2 ^ n : Nat)).toNat

/-- The floating-point layouts of R41 with the rules of R58 and R59. `ieee`: exponent all ones marks infinity and NaN; `maxC`: code of
the largest finite; `nanC`: canonical NaN. -/
structure FFmt where
  eb : Nat
  fb : Nat
  bias : Nat
  ieee : Bool
  maxC : Nat
  nanC : Nat
  deriving DecidableEq, Repr

def bf16 : FFmt := ⟨8, 7, 127, true, 0x7F7F, 0x7FC0⟩
def fp16 : FFmt := ⟨5, 10, 15, true, 0x7BFF, 0x7E00⟩
def e4m3 : FFmt := ⟨4, 3, 7, false, 0x7E, 0x7F⟩
def e5m2 : FFmt := ⟨5, 2, 15, true, 0x7B, 0x7E⟩
def e3m2 : FFmt := ⟨3, 2, 3, false, 0x1F, 0⟩
def e2m3 : FFmt := ⟨2, 3, 1, false, 0x1F, 0⟩
def e2m1 : FFmt := ⟨2, 1, 1, false, 0x7, 0⟩
def fp32 : FFmt := ⟨8, 23, 127, true, 0x7F7FFFFF, 0x7FC00000⟩

/-- What a format code names (R40): a floating-point format, an integer of n bits with f fraction bits (MXINT8 has 6), or none. -/
inductive Elem where
  | flt (f : FFmt)
  | int (n frac : Nat)
  | none
  deriving DecidableEq, Repr

/-- The element format of a format code (R40 to R42). -/
def elemOf : Nat → Elem
  | 0x0 => .flt bf16
  | 0x1 => .flt fp16
  | 0x2 | 0x4 => .flt e4m3
  | 0x3 | 0x5 => .flt e5m2
  | 0x6 => .flt e3m2
  | 0x7 => .flt e2m3
  | 0x8 => .flt e2m1
  | 0x9 => .int 8 6
  | 0xA => .int 8 0
  | 0xB => .int 4 0
  | 0xC => .flt fp32
  | _ => .none

/-- Width in bits of an element (R40). -/
def fmtWidth (f : Nat) : Nat :=
  if f = 0xC ∨ f = 0xD then 32
  else if f = 0x0 ∨ f = 0x1 ∨ f = 0xE then 16
  else if f = 0x6 ∨ f = 0x7 then 6
  else if f = 0x8 ∨ f = 0xB then 4
  else 8

/-- The format has MX scales (codes 0x4 to 0x9, R40). -/
def isMx (f : Nat) : Bool := 0x4 ≤ f ∧ f ≤ 0x9

/-- Engine rate of a format (R40). -/
def fmtRate (f : Nat) : Nat := if f = 0x8 ∨ f = 0xB then 4 else if 0x2 ≤ f ∧ f ≤ 0xA then 2 else 1

/-- The value of a floating-point code (R41). -/
def decodeF (f : FFmt) (c : Nat) : Fp :=
  let neg := bitAt c (f.eb + f.fb)
  let ex := bitsOf c f.fb f.eb
  let fr := bitsOf c 0 f.fb
  if f.ieee && ex = 2 ^ f.eb - 1 then (if fr = 0 then .inf neg else .nan)
  else if f = e4m3 && bitsOf c 0 7 = 0x7F then .nan
  else if ex = 0 then .fin neg fr (1 - (f.bias : Int) - f.fb)
  else .fin neg (2 ^ f.fb + fr) ((ex : Int) - f.bias - f.fb)

/-- The value of an element code (R41, R42). -/
def decodeElem (fmt c : Nat) : Fp :=
  match elemOf fmt with
  | .flt f => decodeF f c
  | .int n frac => let x := signedOf n c; .fin (x < 0) x.natAbs (-(frac : Int))
  | .none => .fin false 0 0

/-- m × 2^k rounded half to even, to a natural number. -/
def roundHE (m : Nat) (k : Int) : Nat :=
  if 0 ≤ k then m <<< k.toNat
  else
    let n := (-k).toNat
    let q := m >>> n
    let r := m % 2 ^ n
    if r > 2 ^ (n - 1) ∨ (r = 2 ^ (n - 1) ∧ q % 2 = 1) then q + 1 else q

/-- num / den rounded half to even. -/
def divHE (num den : Nat) : Nat :=
  let q := num / den
  let r := num % den
  if 2 * r > den ∨ (2 * r = den ∧ q % 2 = 1) then q + 1 else q

/-- floor(log2(m × 2^e)) for m > 0. -/
def flog2 (m : Nat) (e : Int) : Int := (Nat.log2 m : Nat) + e

/-- The exponent of the unit in the last place of a format at ± m × 2^e, m > 0: its binade's, or the subnormal spacing (R63). -/
def ulpExp (f : FFmt) (m : Nat) (e : Int) : Int := max (flog2 m e - f.fb) (1 - (f.bias : Int) - f.fb)

/-- The code of q × 2^u in a format, its exponent unbounded above: q < 2^(fb + 1) + 1, and q < 2^fb only at the subnormal spacing. -/
def codeF (f : FFmt) (q : Nat) (u : Int) : Nat :=
  if q < 2 ^ f.fb then q else (u + f.bias + f.fb - 1).toNat * 2 ^ f.fb + q

/-- The outcome of a conversion: the code, and whether a finite value overflowed the format's range. -/
structure Conv where
  code : Nat
  ovf : Bool
  deriving DecidableEq, Repr

/-- What a value beyond the largest finite becomes (R58). -/
def overF (f : FFmt) (neg sat : Bool) : Nat :=
  let s := if neg then 2 ^ (f.eb + f.fb) else 0
  if sat then s + f.maxC
  else if f.ieee then s + (2 ^ f.eb - 1) * 2 ^ f.fb
  else if f = e4m3 then 0x7F
  else s + f.maxC

/-- convert to a floating-point format, nearest even (R58). -/
def convF (f : FFmt) (sat : Bool) : Fp → Conv
  | .nan => ⟨f.nanC, false⟩
  | .inf neg => ⟨overF f neg sat, false⟩
  | .fin neg m e =>
    let s := if neg then 2 ^ (f.eb + f.fb) else 0
    if m = 0 then ⟨s, false⟩
    else
      let u := ulpExp f m e
      let c := codeF f (roundHE m (e - u)) u
      if c > f.maxC then ⟨overF f neg sat, true⟩ else ⟨s + c, false⟩

/-- convert to an integer format of n bits with `frac` fraction bits (R42, R58). -/
def convI (n frac : Nat) : Fp → Conv
  | .nan => ⟨0, false⟩
  | .inf neg => ⟨codeOf n (if neg then -(2 ^ (n - 1) - 1 : Nat) else (2 ^ (n - 1) - 1 : Nat)), false⟩
  | .fin neg m e =>
    let q := roundHE m (e + frac)
    let lim := 2 ^ (n - 1) - 1
    let c := if q > lim then lim else q
    ⟨codeOf n (if neg then -(c : Int) else c), q > lim⟩

/-- convert(x, fmt, nearest_even, satfinite) (R58). -/
def convert (fmt : Nat) (sat : Bool) (x : Fp) : Conv :=
  match elemOf fmt with
  | .flt f => convF f sat x
  | .int n frac => convI n frac x
  | .none => ⟨0, false⟩

/-- The exponent of the spacing of a format at a value (R63); for an integer element, of its integer step (log 12). -/
def spacing (fmt : Nat) (m : Nat) (e : Int) : Int :=
  match elemOf fmt with
  | .flt f => ulpExp f m e
  | .int _ frac => -(frac : Int)
  | .none => 0

/-- round_keyed (R63). -/
def roundKeyed (fmt : Nat) (sat : Bool) (r : Nat) (x : Fp) : Conv :=
  match x with
  | .fin neg m e =>
    if m = 0 then convert fmt sat x
    else
      let u := spacing fmt m e
      let k := e - u + 16
      let mm := if 0 ≤ k then m <<< k.toNat else m >>> (-k).toNat
      convert fmt sat (.fin neg ((mm + r) / 65536) u)
  | x => convert fmt sat x

/-- mix32 (R61). -/
def mix32 (x : BitVec 32) : BitVec 32 :=
  let x := x ^^^ (x >>> 16)
  let x := x * 0x6A3C9D27
  let x := x ^^^ (x >>> 15)
  let x := x * 0xB14E58F3
  x ^^^ (x >>> 16)

/-- sr_bits (R61). -/
def srBits (seed : W64) (step obj index : Nat) : Nat :=
  let lo : BitVec 32 := seed.setWidth 32
  let hi : BitVec 32 := (seed >>> 32).setWidth 32
  let idx := BitVec.ofNat 32 index ^^^ mix32 (BitVec.ofNat 32 (index / 2 ^ 32))
  let h := mix32 (lo ^^^ mix32 (hi ^^^ BitVec.ofNat 32 step) ^^^ (BitVec.ofNat 32 obj <<< 20) ^^^ mix32 idx)
  (h >>> 16).toNat

/-- x × 2^k. -/
def Fp.scale (k : Int) : Fp → Fp
  | .fin neg m e => .fin neg m (e + k)
  | x => x

def Fp.isFin : Fp → Bool
  | .fin _ _ _ => true
  | _ => false

def Fp.isZero : Fp → Bool
  | .fin _ 0 _ => true
  | _ => false

def Fp.isNan : Fp → Bool
  | .nan => true
  | _ => false

def Fp.neg : Fp → Bool
  | .inf n => n
  | .fin n _ _ => n
  | .nan => false

/-- An element with its block scale byte (R44, R49): scale 0xFF makes it a NaN. -/
def scaled (s : Nat) (x : Fp) : Fp := if s = 0xFF then .nan else x.scale ((s : Int) - 127)

/-- floor(log2 |v|) for a finite value that is not 0 (R51). -/
def Fp.ex : Fp → Option Int
  | .fin _ m e => if m = 0 then none else some (flog2 m e)
  | _ => none

/-- The larger of two exponents that may be absent. -/
def maxOpt (a b : Option Int) : Option Int :=
  match a, b with
  | none, b => b
  | a, none => a
  | some x, some y => some (max x y)

/-- emax of an MX element format (R46). -/
def mxEmax (fmt : Nat) : Int :=
  match fmt with
  | 0x4 => 8 | 0x5 => 15 | 0x6 => 4 | 0x7 => 2 | 0x8 => 2 | _ => 0

/-- mx_quantise (R46): the scale byte and the elements; `rs`: for keyed rounding, the random value of each element (R63). -/
def mxQuantise (fmt : Nat) (rs : Option (List Nat)) (v : List Fp) : Nat × List Conv :=
  if v.any (fun x => !x.isFin) then (0xFF, v.map fun _ => ⟨0, false⟩)
  else
    match v.foldl (fun a x => maxOpt a x.ex) none with
    | none => (0x7F, v.map fun _ => ⟨0, false⟩)
    | some a =>
      let x := max (-127) (min 127 (a - mxEmax fmt))
      ((x + 127).toNat,
        match rs with
        | none => v.map fun y => convert fmt true (y.scale (-x))
        | some rs => (v.zip rs).map fun y => roundKeyed fmt true y.2 (y.1.scale (-x)))

end Sys2Proof.Machine
end

