-- ==== Sys2Proof/Machine/Fp32.lean ====
section
/-! DEFINITION. FP32 arithmetic to IEEE 754 binary32, one rounding to nearest even per operation, canonical NaN (R60), and the functions
of R196. A value is its 32-bit code. -/

namespace Sys2Proof.Machine

/-- The exact value of an FP32 code. -/
def f32 (w : W32) : Fp := decodeF fp32 w.toNat

/-- FP32 rounding of an exact value, nearest even; beyond the range an infinity (R57). -/
def toF32 (x : Fp) : W32 := BitVec.ofNat 32 (convF fp32 false x).code

/-- Canonical quiet NaN (R59). -/
def nan32 : W32 := 0x7FC00000

/-- ± m × 2^e as a signed integer at exponent u ≤ e. -/
def Fp.intAt (u : Int) : Fp → Int
  | .fin neg m e => let x : Int := (m <<< (e - u).toNat : Nat); if neg then -x else x
  | _ => 0

def Fp.exp : Fp → Int
  | .fin _ _ e => e
  | _ => 0

/-- A signed integer times 2^u as an exact value; `z`: the sign of a zero. -/
def Fp.ofInt (z : Bool) (x : Int) (u : Int) : Fp := if x = 0 then .fin z 0 u else .fin (x < 0) x.natAbs u

/-- Exact sum; an exact zero is +0 unless both terms are negative (IEEE 754). -/
def Fp.add : Fp → Fp → Fp
  | .nan, _ => .nan
  | _, .nan => .nan
  | .inf a, .inf b => if a = b then .inf a else .nan
  | .inf a, _ => .inf a
  | _, .inf b => .inf b
  | .fin a m e, .fin b n g =>
    let u := min e g
    Fp.ofInt (a && b) ((Fp.fin a m e).intAt u + (Fp.fin b n g).intAt u) u

/-- Exact product. -/
def Fp.mul : Fp → Fp → Fp
  | .nan, _ => .nan
  | _, .nan => .nan
  | .inf a, .inf b => .inf (a ^^ b)
  | .inf a, .fin b m _ => if m = 0 then .nan else .inf (a ^^ b)
  | .fin b m _, .inf a => if m = 0 then .nan else .inf (a ^^ b)
  | .fin a m e, .fin b n g => .fin (a ^^ b) (m * n) (e + g)

def Fp.negate : Fp → Fp
  | .fin a m e => .fin (!a) m e
  | .inf a => .inf (!a)
  | .nan => .nan

/-- A ratio num / den (both positive) as an exact value that rounds as it does: 64 quotient bits and a sticky bit. -/
def ratFp (neg : Bool) (num den : Nat) (e : Int) : Fp :=
  let k : Nat := 66 + Nat.log2 den - min (66 + Nat.log2 den) (Nat.log2 num)
  let q := (num <<< k) / den
  let r := (num <<< k) % den
  .fin neg (2 * q + (if r = 0 then 0 else 1)) (e - k - 1)

def Fp.div : Fp → Fp → Fp
  | .nan, _ => .nan
  | _, .nan => .nan
  | .inf _, .inf _ => .nan
  | .inf a, .fin b _ _ => .inf (a ^^ b)
  | .fin a _ _, .inf b => .fin (a ^^ b) 0 0
  | .fin a m e, .fin b n g =>
    if n = 0 then (if m = 0 then .nan else .inf (a ^^ b))
    else if m = 0 then .fin (a ^^ b) 0 0
    else ratFp (a ^^ b) m n (e - g)

/-- floor(sqrt(n)) by Newton's iteration from above, `fuel` steps. -/
def isqrtGo (n : Nat) : Nat → Nat → Nat
  | 0, x => x
  | fuel + 1, x =>
    let y := (x + n / x) / 2
    if y < x then isqrtGo n fuel y else x

/-- floor(sqrt(n)). -/
def isqrt (n : Nat) : Nat := if n = 0 then 0 else isqrtGo n 200 (2 ^ (Nat.log2 n / 2 + 1))

/-- Square root of a value, with 70 bits or more and a sticky bit. -/
def Fp.sqrt : Fp → Fp
  | .nan => .nan
  | .inf a => if a then .nan else .inf false
  | .fin a m e =>
    if m = 0 then .fin a 0 0
    else if a then .nan
    else
      let k : Nat := if e % 2 = 0 then 160 else 161
      let n := m <<< k
      let q := isqrt n
      .fin false (2 * q + (if q * q = n then 0 else 1)) ((e - k) / 2 - 1)

def f32add (a b : W32) : W32 := toF32 ((f32 a).add (f32 b))
def f32sub (a b : W32) : W32 := toF32 ((f32 a).add (f32 b).negate)
def f32mul (a b : W32) : W32 := toF32 ((f32 a).mul (f32 b))
def f32fma (a b c : W32) : W32 := toF32 (((f32 a).mul (f32 b)).add (f32 c))
def f32div (a b : W32) : W32 := toF32 ((f32 a).div (f32 b))
def f32sqrt (a : W32) : W32 := toF32 (f32 a).sqrt
def f32recip (a : W32) : W32 := f32div 0x3F800000 a
def f32neg (a : W32) : W32 := toF32 (f32 a).negate

/-- 1 / sqrt(a), rounded once. -/
def f32rsqrt (a : W32) : W32 :=
  match f32 a with
  | .fin neg m e =>
    if m = 0 then toF32 (.inf neg)
    else if neg then nan32
    else
      let k : Nat := if e % 2 = 0 then 400 else 401
      let n := (1 <<< k) / m
      let q := isqrt n
      toF32 (.fin false (2 * q + (if q * q * m = 1 <<< k then 0 else 1)) (-(e + k) / 2 - 1))
  | .inf neg => if neg then nan32 else 0
  | .nan => nan32

/-- |a|. -/
def f32abs (a : W32) : W32 :=
  match f32 a with
  | .fin _ m e => toF32 (.fin false m e)
  | .inf _ => toF32 (.inf false)
  | .nan => nan32

/-- a < b; false when either is a NaN. -/
def Fp.lt : Fp → Fp → Bool
  | .nan, _ => false
  | _, .nan => false
  | .inf a, .inf b => a && !b
  | .inf a, .fin _ _ _ => a
  | .fin _ _ _, .inf b => !b
  | x, y => let u := min x.exp y.exp; x.intAt u < y.intAt u

/-- a = b as numbers; false when either is a NaN. -/
def Fp.eq (a b : Fp) : Bool := !a.isNan && !b.isNan && !a.lt b && !b.lt a

def f32lt (a b : W32) : Bool := (f32 a).lt (f32 b)
def f32eq (a b : W32) : Bool := (f32 a).eq (f32 b)
def f32le (a b : W32) : Bool := f32lt a b || f32eq a b
def f32nan (a : W32) : Bool := (f32 a).isNan
def f32fin (a : W32) : Bool := (f32 a).isFin

/-- VEC.EW max: the canonical NaN when either input is NaN (R196); of two equal inputs the first (log 13). -/
def f32max (a b : W32) : W32 := if f32nan a || f32nan b then nan32 else if f32lt a b then b else a
/-- VEC.EW min. -/
def f32min (a b : W32) : W32 := if f32nan a || f32nan b then nan32 else if f32lt b a then b else a

/-- ln 2 × 2^300, as the sum of 2^300 / (k 2^k). -/
def ln2Go : Nat → Nat → Nat
  | 0, _ => 0
  | fuel + 1, k => (2 ^ 300 / (k * 2 ^ k)) + ln2Go fuel (k + 1)
def ln2 : Nat := ln2Go 300 1

/-- Σ r^i / i! from term i on, in units of 2^-300; `t` is the term before. -/
def expGo (r : Nat) : Nat → Nat → Nat → Nat
  | 0, _, _ => 0
  | fuel + 1, i, t => let t' := t * r / 2 ^ 300 / i; t' + expGo r fuel (i + 1) t'

/-- e^x as n × 2^(k − 300) with 2^300 ≤ n < 2^302, for a finite x below 2^10 in magnitude (log 14). -/
def expParts (neg : Bool) (m : Nat) (e : Int) : Nat × Int :=
  let x : Nat := if 0 ≤ e + 300 then m <<< (e + 300).toNat else m >>> (-(e + 300)).toNat
  let xi : Int := if neg then -(x : Int) else x
  let k : Int := xi / (ln2 : Int)
  let r : Nat := (xi - k * (ln2 : Int)).toNat
  (2 ^ 300 + expGo r 80 1 (2 ^ 300), k)

/-- EXP (R196): the FP32 value nearest e^x. -/
def f32exp (a : W32) : W32 :=
  match f32 a with
  | .nan => nan32
  | .inf neg => if neg then 0 else toF32 (.inf false)
  | .fin neg m e =>
    if m = 0 then 0x3F800000
    else if flog2 m e ≥ 8 then (if neg then 0 else toF32 (.inf false))
    else let p := expParts neg m e; toF32 (.fin false (2 * p.1 + 1) (p.2 - 301))

/-- Σ t^(2i+1) / (2i+1) in units of 2^-300 (artanh). -/
def atanhGo (t2 : Nat) : Nat → Nat → Nat → Nat
  | 0, _, _ => 0
  | fuel + 1, i, p => p / (2 * i + 1) + atanhGo t2 fuel (i + 1) (p * t2 / 2 ^ 300)

/-- LOG (R196): the FP32 value nearest ln x, by ln(m) = 2 artanh((m − 1)/(m + 1)) with m in [1, 2) (log 14). -/
def f32log (a : W32) : W32 :=
  match f32 a with
  | .nan => nan32
  | .inf neg => if neg then nan32 else toF32 (.inf false)
  | .fin neg m e =>
    if m = 0 then toF32 (.inf true)
    else if neg then nan32
    else
      let k := flog2 m e
      let one := 2 ^ Nat.log2 m
      let t := (m - one) * 2 ^ 300 / (m + one)
      let l := 2 * atanhGo (t * t / 2 ^ 300) 110 0 t
      let v : Int := k * (ln2 : Int) + l
      if m = one ∧ k = 0 then 0 else toF32 (Fp.ofInt false (2 * v + 1) (-301))

/-- SIGM (R196): the FP32 value nearest 1 / (1 + e^-x). -/
def f32sigm (a : W32) : W32 :=
  match f32 a with
  | .nan => nan32
  | .inf neg => if neg then 0 else 0x3F800000
  | .fin neg m e =>
    if flog2 (m + 1) e ≥ 8 ∧ m ≠ 0 then (if neg then 0 else 0x3F800000)
    else
      let p := expParts neg m e
      -- e^x = n × 2^(k − 300); the value is e^x / (1 + e^x)
      let d : Int := p.2 - 300
      if 0 ≤ d then toF32 (ratFp false (p.1 <<< d.toNat) (1 + (p.1 <<< d.toNat)) 0)
      else toF32 (ratFp false p.1 (p.1 + (1 <<< (-d).toNat)) 0)

/-- TANH (R196): the FP32 value nearest tanh x; below 2^-13 in magnitude that is x itself. -/
def f32tanh (a : W32) : W32 :=
  match f32 a with
  | .nan => nan32
  | .inf neg => if neg then 0xBF800000 else 0x3F800000
  | .fin neg m e =>
    if m = 0 then a
    else if flog2 m e < -13 then a
    else if flog2 m e ≥ 5 then (if neg then 0xBF800000 else 0x3F800000)
    else
      -- e^(2|x|) = n × 2^(k − 300); the value is (E − 1) / (E + 1)
      let p := expParts false m (e + 1)
      let d : Int := p.2 - 300
      if 0 ≤ d then toF32 (ratFp neg ((p.1 <<< d.toNat) - 1) ((p.1 <<< d.toNat) + 1) 0)
      else let o := 1 <<< (-d).toNat; toF32 (ratFp neg (p.1 - o) (p.1 + o) 0)

/-- An element code widened to FP32 (exact for every format narrower than FP32). -/
def widen (fmt c : Nat) : W32 := toF32 (decodeElem fmt c)

end Sys2Proof.Machine
end

