-- ==== Sys2Proof/Machine/Felt.lean ====
section
/-! DEFINITION. Felt blocks (R66 to R74): choosing E, quantising, adding, decoding; and the packing of elements into bytes (R43). -/

namespace Sys2Proof.Machine

/-- Elements of w bits packed from the low end, element 0 first (R43). -/
def packBits (w : Nat) : List Nat → Nat
  | [] => 0
  | c :: cs => c % 2 ^ w + packBits w cs * 2 ^ w

/-- n elements of w bits of a packed number, element 0 first. -/
def unpackBits (w n x : Nat) : List Nat := (List.range n).map fun i => bitsOf x (w * i) w

/-- Bytes of a number, least significant first (R43). -/
def bytesOf (n x : Nat) : List Byte := (List.range n).map fun i => BitVec.ofNat 8 (bitsOf x (8 * i) 8)

/-- The number of a byte string, least significant first. -/
def numOf : List Byte → Nat
  | [] => 0
  | b :: bs => b.toNat + numOf bs * 256

/-- An entry of 128 bytes (R143), padded with zeros. -/
def entryOf (l : List Byte) : Entry := BitVec.ofNat 1024 (numOf l)

/-- Fraction bits of a Felt element (R67); `w`: true for Felt-16. -/
def feltF (w : Bool) : Nat := if w then 8 else 24
/-- Width of a Felt element. -/
def feltW (w : Bool) : Nat := if w then 16 else 32

/-- The identity block (R73). -/
def feltZero (e : Nat) : FeltBlk := ⟨e, 0, false, false, 0, List.replicate 64 0⟩

/-- felt_candidate (R69). -/
def feltCandidate (v : List Fp) : Nat :=
  match v.foldl (fun a x => maxOpt a x.ex) none with
  | none => 0
  | some a => (max 1 (min 255 (a + 128))).toNat

/-- felt_quantise of one value at exponent E with f fraction bits (R71): the integer, and EXTRA when it exceeds the scale. -/
def feltElem (e f : Nat) : Fp → Int × Option Nat
  | .fin neg m x =>
    let n := roundHE m (x + f - ((e : Int) - 127))
    let lim := 2 ^ f - 1
    let n := if n > lim then lim else n
    let big := m ≠ 0 ∧ flog2 m x ≥ (e : Int) - 127
    (if neg then -(n : Int) else n, if big then some (min 127 (flog2 m x - ((e : Int) - 127) + 1)).toNat else none)
  | _ => (0, none)

/-- felt_quantise (R71). -/
def feltQuantise (v : List Fp) (e : Nat) (w : Bool) : FeltBlk :=
  let q := v.map (feltElem e (feltF w))
  { e := e, count := 1, nf := v.any fun x => !x.isFin
    ovf := q.any fun x => x.2.isSome
    extra := q.foldl (fun a x => max a (x.2.getD 0)) 0
    n := q.map Prod.fst }

/-- A sum clamped to the element's width (R72), and whether it saturated. -/
def feltClamp (w : Bool) (x : Int) : Int × Bool :=
  let hi : Int := 2 ^ (feltW w - 1) - 1
  let lo : Int := -(2 ^ (feltW w - 1))
  if x > hi then (hi, true) else if x < lo then (lo, true) else (x, false)

/-- felt_add (R72). -/
def feltAdd (w : Bool) (a b : FeltBlk) : FeltBlk :=
  if a.count = 0 then b
  else if b.count = 0 then a
  else
    let count := min 127 (a.count + b.count)
    let nf := a.nf || b.nf
    let extra := max a.extra b.extra
    if a.e ≠ b.e then ⟨max a.e b.e, count, nf, true, max extra 1, List.replicate 64 0⟩
    else
      let s := (List.zipWith (fun x y => feltClamp w (x + y)) a.n b.n)
      let sat := s.any Prod.snd
      ⟨a.e, count, nf, a.ovf || b.ovf || sat, if sat then max extra 1 else extra, s.map Prod.fst⟩

/-- An element of a Felt block as an exact value (R67). -/
def feltValue (e f : Nat) (n : Int) : Fp := .fin (n < 0) n.natAbs ((e : Int) - 127 - f)

/-- Decoding (R74), divided by d before the one rounding (R362). -/
def feltDecode (w : Bool) (d : Nat) (b : FeltBlk) : List W32 :=
  b.n.map fun n =>
    if b.nf then nan32
    else if n = 0 then 0
    else toF32 ((feltValue b.e (feltF w) n).div (.fin false (max d 1) 0))

/-- The header word of a block (R66). -/
def feltHeader (b : FeltBlk) : Nat :=
  b.e % 256 + b.count % 128 * 2 ^ 8 + (if b.nf then 2 ^ 15 else 0) + (if b.ovf then 2 ^ 16 else 0) + b.extra % 128 * 2 ^ 17

/-- The bytes of an interleaved block (R68). -/
def feltBytes (w : Bool) (b : FeltBlk) : List Byte :=
  bytesOf 4 (feltHeader b) ++ (b.n.flatMap fun n => bytesOf (feltW w / 8) (codeOf (feltW w) n))

/-- A block from its header word and element codes. -/
def feltOf (w : Bool) (hdr : Nat) (codes : List Nat) : FeltBlk :=
  ⟨bitsOf hdr 0 8, bitsOf hdr 8 7, bitAt hdr 15, bitAt hdr 16, bitsOf hdr 17 7, codes.map (signedOf (feltW w))⟩

/-- A block from its interleaved bytes. -/
def feltOfBytes (w : Bool) (l : List Byte) : FeltBlk :=
  feltOf w (numOf (l.take 4)) (unpackBits (feltW w) 64 (numOf (l.drop 4)))

/-- Bytes cut into entries of 128 B. -/
def entriesGo : Nat → List Byte → List Entry
  | 0, _ => []
  | fuel + 1, l => if l.isEmpty then [] else entryOf (l.take 128) :: entriesGo fuel (l.drop 128)

/-- The entries that carry a byte string. -/
def entriesOf (l : List Byte) : List Entry := entriesGo (l.length / 128 + 1) l

/-- CRC-32C, reflected, one bit (R314). -/
def crcBit (c : BitVec 32) : BitVec 32 := if c.getLsbD 0 then (c >>> 1) ^^^ 0x82F63B78 else c >>> 1

def crcByte (c : BitVec 32) (b : Byte) : BitVec 32 :=
  crcBit (crcBit (crcBit (crcBit (crcBit (crcBit (crcBit (crcBit (c ^^^ b.setWidth 32))))))))

/-- CRC-32C of a byte string (R314). -/
def crc32c (l : List Byte) : BitVec 32 := ~~~(l.foldl crcByte 0xFFFFFFFF)

end Sys2Proof.Machine
end

