-- ==== Sys2Proof/Machine/Ops.lean ====
section
/-! DEFINITION. The named operations over maps, memories, cores, queues, handles, barriers and interrupt sources, with halting and
freezing a core (R168, R172), that every meaning is written with. -/

namespace Sys2Proof.Machine

/-- What a command answers. -/
abbrev Out := Host.Outcome State Fault Refusal

/-! ### Finite maps and sets -/

/-- The value at a key; `d` where the key is not listed. -/
def aget {α : Type} (d : α) : Amap α → Nat → α
  | [], _ => d
  | (k, v) :: t, i => if k = i then v else aget d t i

/-- The value at a key, if it is listed. -/
def afind {α : Type} : Amap α → Nat → Option α
  | [], _ => none
  | (k, v) :: t, i => if k = i then some v else afind t i

/-- Set a key, keeping the keys rising. -/
def aset {α : Type} : Amap α → Nat → α → Amap α
  | [], i, x => [(i, x)]
  | (k, v) :: t, i, x => if k = i then (i, x) :: t else if i < k then (i, x) :: (k, v) :: t else (k, v) :: aset t i x

/-- Remove a key. -/
def adel {α : Type} (m : Amap α) (i : Nat) : Amap α := m.filter fun x => x.1 ≠ i

/-- Put a number into a rising list. -/
def sins : List Nat → Nat → List Nat
  | [], i => [i]
  | k :: t, i => if k = i then k :: t else if i < k then i :: k :: t else k :: sins t i

/-- Remove a number. -/
def sdel (l : List Nat) (i : Nat) : List Nat := l.filter fun x => x ≠ i

/-- Replace the element at a place. -/
def lset {α : Type} (l : List α) (i : Nat) (x : α) : List α := l.set i x

/-! ### Memories -/

/-- A byte of a memory; a byte that nothing has written reads 0 (log 3). -/
def Memory.read : Memory → Nat → Byte
  | [], _ => 0
  | (k, b) :: t, a => if k = a then b else if a < k then 0 else Memory.read t a

/-- Write a byte, keeping the canonical form. -/
def Memory.write : Memory → Nat → Byte → Memory
  | [], a, x => if x = 0 then [] else [(a, x)]
  | (k, b) :: t, a, x =>
    if k = a then (if x = 0 then t else (a, x) :: t)
    else if a < k then (if x = 0 then (k, b) :: t else (a, x) :: (k, b) :: t)
    else (k, b) :: Memory.write t a x

/-- Addresses strictly rise above `lo` and no byte is 0. -/
def Memory.wfFrom : Nat → Memory → Bool
  | _, [] => true
  | lo, (k, b) :: t => lo ≤ k && b ≠ 0 && Memory.wfFrom (k + 1) t

/-- The canonical form of a memory. -/
def Memory.wf (m : Memory) : Bool := Memory.wfFrom 0 m

/-- n bytes from an address. -/
def Memory.bytes (m : Memory) (a : Nat) : Nat → List Byte
  | 0 => []
  | n + 1 => Memory.read m a :: Memory.bytes m (a + 1) n

/-- Write bytes from an address on. -/
def Memory.put (m : Memory) (a : Nat) : List Byte → Memory
  | [] => m
  | b :: bs => Memory.put (Memory.write m a b) (a + 1) bs

/-- Poison marks, one per `g` bytes, after a write of n bytes at a (R255, R311): poisoned data mark every unit they cover, good data
clear the units they cover whole. -/
def pzWrite (g : Nat) (marks : List Nat) (a n : Nat) (poison : Bool) : List Nat :=
  if n = 0 then marks
  else
    let first := a / g
    let last := (a + n - 1) / g
    (List.range (last + 1 - first)).foldl (fun l i =>
      let u := first + i
      if poison then sins l u
      else if a ≤ u * g ∧ u * g + g ≤ a + n then sdel l u else l) marks

/-- A read of n bytes at a meets a marked unit (R255, R311). -/
def pzRead (g : Nat) (marks : List Nat) (a n : Nat) : Bool :=
  n ≠ 0 && marks.any fun u => a / g ≤ u ∧ u ≤ (a + n - 1) / g

/-- Bytes of a near scratchpad. -/
def t0Size : Nat := 0x100000
/-- Bytes of a slice that a core addresses; the rest is the save area (R259). -/
def sliceSize : Nat := 0x7C0000
/-- The place of byte a of physical core p's near scratchpad, and of its slice. -/
def t0Key (p a : Nat) : Nat := p * 0x100000 + a
def sliceKey (p a : Nat) : Nat := p * 0x800000 + a
/-- The place of channel address ca of channel ch (0 to 7 HBM4, 8 to 15 DDR5 physical). -/
def tierKey (ch ca : Nat) : Nat := ch * 0x10000000000 + ca

/-- Read n bytes of T0 (space 0) or of the own slice (space 1) of physical core p, with poison (R255). -/
def State.localRead (s : State) (p space a n : Nat) : List Byte × Bool :=
  if space = 0 then (Memory.bytes s.t0 (t0Key p a) n, pzRead 8 s.t0Pz (t0Key p a) n)
  else (Memory.bytes s.slice (sliceKey p a) n, pzRead 8 s.slicePz (sliceKey p a) n)

/-- Write bytes to T0 (space 0) or the own slice (space 1) of physical core p (R255). -/
def State.localWrite (s : State) (p space a : Nat) (d : List Byte) (poison : Bool) : State :=
  if space = 0 then
    { s with t0 := Memory.put s.t0 (t0Key p a) d, t0Pz := pzWrite 8 s.t0Pz (t0Key p a) d.length poison }
  else
    { s with slice := Memory.put s.slice (sliceKey p a) d, slicePz := pzWrite 8 s.slicePz (sliceKey p a) d.length poison }

/-- Bytes of T0 or the own slice of physical core p, each with the poison of its word (R255). -/
def State.localBytes (s : State) (p space a n : Nat) : List (Byte × Bool) :=
  (s.localRead p space a n).1.zipIdx.map fun x => (x.1, (s.localRead p space (a + x.2) 1).2)

/-- The 64-byte pieces `pz` of data that has been written from address a are poisoned (R26, R255). -/
def State.localPoison (s : State) (p space a : Nat) (pz : List Nat) : State :=
  if space = 0 then { s with t0Pz := pz.foldl (fun m i => pzWrite 8 m (t0Key p (a + 64 * i)) 64 true) s.t0Pz }
  else { s with slicePz := pz.foldl (fun m i => pzWrite 8 m (sliceKey p (a + 64 * i)) 64 true) s.slicePz }

/-- The marks of words that good parts of one write cover whole are cleared (R255); `parts`: address and length. -/
def pzClear (marks : List Nat) (parts : List (Nat × Nat)) : List Nat :=
  marks.filter fun u => !((List.range 8).all fun i => parts.any fun x => decide (x.1 ≤ 8 * u + i ∧ 8 * u + i < x.1 + x.2))

/-- The same for a local space of physical core p. -/
def State.localClear (s : State) (p space : Nat) (parts : List (Nat × Nat)) : State :=
  if space = 0 then { s with t0Pz := pzClear s.t0Pz (parts.map fun x => (t0Key p x.1, x.2)) }
  else { s with slicePz := pzClear s.slicePz (parts.map fun x => (sliceKey p x.1, x.2)) }

/-- Bytes of a local space (R253, R259). -/
def spaceSize (space : Nat) : Nat := if space = 0 then t0Size else sliceSize

/-! ### Cores and counters -/

/-- Physical core p. -/
def State.core (s : State) (p : Nat) : Core := aget {} s.cores p

def State.setCore (s : State) (p : Nat) (c : Core) : State := { s with cores := aset s.cores p c }

/-- Change physical core p. -/
def State.modCore (s : State) (p : Nat) (f : Core → Core) : State := s.setCore p (f (s.core p))

/-- The working physical core that carries logical core L (R34). -/
def State.phys (s : State) (l : Nat) : Option Nat :=
  match afind s.lmap l with
  | some e => if e.valid then some e.phys else none
  | none => none

/-- The logical number that a physical core carries. -/
def State.logical (s : State) (p : Nat) : Option Nat := (s.lmap.find? fun e => e.2.phys = p).map Prod.fst

/-- Physical cluster of a physical core (R12). -/
def clusterOf (p : Nat) : Nat := p / 8

/-! ### Configuration epochs in use (R416) -/

/-- The fields of an object-table entry that the object side maintains (R297), taken from another copy of it. -/
def ObjEnt.hardware (e h : ObjEnt) : ObjEnt :=
  { e with wgen := h.wgen, version := h.version, pincnt := h.pincnt, migrating := h.migrating }

/-- A register with staged fields, by BAR0 offset: the bits that are staged and the register's reset value (R414; 11, 12, 13, 16). -/
def stagedReg (off : Nat) : Option (Nat × Nat) :=
  if off % 4 ≠ 0 then none
  else if off = 0x300010 then some (0x7FFFFF, 0x10FFFF)
  else if off = 0x300014 ∨ off = 0x300018 ∨ off = 0x30001C then some (0xFFFFFFFF, 0)
  else if 0x300100 ≤ off ∧ off < 0x300200 then some (0x3FFFFFF, 0)
  else if 0x300200 ≤ off ∧ off < 0x300400 then
    (if off % 32 = 0 ∨ off % 32 = 4 then some (0xFFFFFFFF, 0) else if off % 32 = 16 then some (0x1FFF, 0x800000) else none)
  else if 0x310000 ≤ off ∧ off < 0x328000 then (if off % 4096 = 0x10 then some (0x10, 0x10002061) else none)
  else if off = 0x340014 then some (0x1FFFFF, 0)
  else if 0x101004 ≤ off ∧ off < 0x102000 then
    let src := (off - 0x101000) / 4
    some (0x1FFC0, if 16 ≤ src ∧ src ≤ 19 then 2 else if src = 28 ∨ src = 29 then 1 else 0)
  else if 0xC100 ≤ off ∧ off < 0xC140 then
    (if off % 16 = 0 then some (0x3FFFFF, 0) else if off % 16 = 4 ∨ off % 16 = 8 then some (0xFFFFFFFF, 0) else none)
  else if off = 0x500010 then some (0xFFFFFF, 0x7085DC)
  else if off = 0x500014 then some (0x7FF, 0x100)
  else none

/-- The staged bits of a register put over its other bits. -/
def mergeStaged (m : Amap W32) (off : Nat) (v : W32) : W32 :=
  match stagedReg off with
  | none => aget 0 m off
  | some (mask, d) =>
    let k := BitVec.ofNat 32 mask
    (aget (BitVec.ofNat 32 d) m off &&& ~~~k) ||| (v &&& k)

/-- Staged registers put over those of a map. -/
def overRegs (m l : Amap W32) : Amap W32 := l.foldl (fun m x => aset m x.1 (mergeStaged m x.1 x.2)) m

/-- The state as an island sees it that has flipped (R416): the new settings, and the new epochs on the requests it issues. -/
def State.enter (s : State) (f : Flip) : State :=
  { s with
    obj := { s.obj with table := f.table.foldl (fun t x => aset t x.1 (x.2.hardware (aget {} t x.1))) s.obj.table
                        cgrp := f.cgrp, stripes := f.stripes }
    regs := overRegs s.regs f.regs
    epoch := f.epoch, repoch := f.repoch }

/-- Back to the settings of the islands that have not flipped; `old`: the state before. -/
def State.leave (s old : State) (f : Flip) : State :=
  { s with
    obj := { s.obj with table := f.table.foldl (fun t x => aset t x.1 ((aget {} old.obj.table x.1).hardware (aget {} t x.1))) s.obj.table
                        cgrp := old.obj.cgrp, stripes := old.obj.stripes }
    regs := f.regs.foldl (fun m x => match afind old.regs x.1 with
      | some v => aset m x.1 (mergeStaged m x.1 v)
      | none => aset m x.1 (mergeStaged m x.1 (BitVec.ofNat 32 ((stagedReg x.1).elim 0 Prod.snd)))) s.regs
    epoch := old.epoch, repoch := old.repoch }

/-- Run `g` on an island: 0 to 511 the physical cores, 512 + g cluster g with its L2, 576 + s the HBM4 stacks, 584 + c the DDR5 channels,
592 + k the codec engines, 600 + p the physical ports, 624 the control complex, 625 the power island (R417, R465). Without its clocks the
device does nothing (R467, R471). -/
def State.under (s : State) (isl : Nat) (g : State → State) : State :=
  if !s.powered then s
  else
    match s.flip with
    | none => g s
    | some f =>
      if !f.flipped.contains isl then g s
      else
        let t := g (s.enter f)
        -- a reset ends the flip
        if t.flip.isSome then t.leave s f else t

/-- The commit of a core that a COMMIT verdict has begun and that is not reported (R423). -/
def Core.inCommit (c : Core) : Bool := c.upd.phase = .commit || c.upd.phase = .pinWait

/-- A core reset that waited for a commit begins once the commit has ended (R473). -/
def State.rstBegin (s : State) : State :=
  match s.coreRst with
  | some r => if !r.begun && !(s.core r.p).inCommit then { s with coreRst := some { r with begun := true } } else s
  | none => s

/-- A reset of physical core p has begun: its registers keep their values (R473). -/
def State.inReset (s : State) (p : Nat) : Bool := s.coreRst.any fun r => r.begun && r.p = p

/-- Run a command of logical core L on the core that carries it, with its island's settings; nothing where no working core does (R7,
R421). -/
def State.onCore (s : State) (l : Nat) (f : State → Nat → Core → State) : State :=
  match s.phys l with
  | some p => if s.inReset p then s else (s.under p fun s => f s p (s.core p)).rstBegin
  | none => s

/-- Add n to the counter of a core at an offset of its block, modulo 2^32 (R108). -/
def Core.bump (c : Core) (off n : Nat) : Core := { c with cnt := aset c.cnt off (aget 0 c.cnt off + BitVec.ofNat 32 n) }

def Core.count (c : Core) (off : Nat) : Nat := (aget 0 c.cnt off).toNat

/-- Add n to a counter of the device at an offset of BAR0. -/
def State.bump (s : State) (off n : Nat) : State := { s with cnt := aset s.cnt off (aget 0 s.cnt off + BitVec.ofNat 32 n) }

def State.count (s : State) (off : Nat) : Nat := (aget 0 s.cnt off).toNat

/-- Add n to a counter of a physical core. -/
def State.bumpCore (s : State) (p off n : Nat) : State := s.modCore p fun c => c.bump off n

/-- Send something out of the block. -/
def State.emit (s : State) (e : OutEvent) : State := { s with out := s.out ++ [e] }

/-- Put a message on the mesh. -/
def State.send (s : State) (f : Flight) : State := { s with mesh := s.mesh ++ [f] }

/-- The lane of a message: source, destination and virtual channel (R16, R23; log 141). A source or destination is a core; 0x800 the step monitor,
0x801 the anchor's, 0x802 the collective engine, 0x900 the exchange of another device, 0x1000 and above the port of a peer's delivery. -/
def Flight.lane : Flight → Option (Nat × Nat × Nat)
  | .put src _ dst _ _ _ _ => some (src, dst, 3)
  | .handle src _ _ _ _ dst _ _ _ _ => some (src, dst, 3)
  | .ack src dest _ _ _ _ => some (src, dest, 2)
  | .credit src dest _ _ => some (src, dest, 2)
  | .rcredit src _ _ _ _ => some (src, 0x900, 2)
  | .mail src _ dst _ _ _ refused => if refused then none else some (src, dst, 1)
  | .rmail _ _ _ _ _ _ _ => none
  | .openNotice src _ _ _ _ => some (src, 0x800, 1)
  | .closeReport src _ => some (src, 0x800, 1)
  | .drainReport src _ _ _ _ => some (src, 0x800, 1)
  | .totals _ => some (0x800, 0x801, 1)
  | .verdict _ => some (0x801, 0x800, 1)
  | .scale src dst _ _ _ _ => some (src, dst, 1)
  | .block src dst _ _ _ _ => some (src, dst, 3)
  | .normUp src _ _ => some (src, 0x802, 1)
  | .normDev _ _ _ => some (0x900, 0x802, 1)
  | .normDown dest _ _ => some (0x802, dest, 1)

/-- Message k may arrive: no earlier one of its lane is in flight (R16). -/
def State.inOrder (s : State) (k : Nat) : Bool :=
  match s.mesh[k]? with
  | some f => f.lane.isNone || !((s.mesh.take k).any fun g => g.lane = f.lane)
  | none => false

/-- A free value (log 1), and the state with the counter advanced. -/
def State.free (s : State) : BitVec 64 × State := (Config.freeWord s.fresh, { s with fresh := s.fresh + 1 })

/-! ### Interrupt sources (R404, R406, R408) -/

/-- SENSE at reset: sources 16 to 19 rising, 28 and 29 level low, level high otherwise (13). -/
def senseReset (src : Nat) : Nat := if 16 ≤ src ∧ src ≤ 19 then 2 else if src = 28 ∨ src = 29 then 1 else 0

/-- IRQ_CFG of a source. -/
def State.irqCfg (s : State) (src : Nat) : Nat := (aget (BitVec.ofNat 32 (senseReset src)) s.regs (0x101000 + 4 * src)).toNat

/-- IRQ_LIM of a source. -/
def State.irqLim (s : State) (src : Nat) : Nat := (aget 0x8100 s.regs (0x102000 + 4 * src)).toNat

def State.irqSrc (s : State) (src : Nat) : IrqSrc := aget {} s.irq src

def State.setIrq (s : State) (src : Nat) (x : IrqSrc) : State := { s with irq := aset s.irq src x }

/-- Send an MSI-X vector; a masked vector sets its pending bit (R408; log 15). -/
def State.msix (s : State) (v : Nat) : State :=
  if s.msixMask.contains v then { s with msixPba := sins s.msixPba v } else s.emit (.msix v)

/-- The asserted level of a source under its SENSE: none for an edge sense. -/
def levelAsserted (sense : Nat) (raw : Bool) : Option Bool :=
  if sense = 0 then some raw else if sense = 1 then some (!raw) else none

/-- The source is masked (R406, R407). -/
def IrqSrc.masked (x : IrqSrc) : Bool := x.storm || x.stuck

/-- Control processor c runs: CP0 from reset, the others while their bit of CP_RUN is set (R401). -/
def State.cpRuns (s : State) (c : Nat) : Bool := c = 0 || bitAt (aget 0 s.regs 0xC050).toNat c

/-- Source src is offered to CP c (R405); a CP that runs is taken to have its external interrupts enabled (log 55). -/
def State.irqOffered (s : State) (c src : Nat) : Bool :=
  let x := s.irqSrc src
  let cfg := s.irqCfg src
  let prio := bitsOf cfg 3 3
  s.cpRuns c && bitAt cfg 17 && !x.masked && x.pend && x.serv.isNone && bitAt cfg (6 + c)
    && bitsOf (aget 0 s.regs (0x100108 + 0x40 * c)).toNat 0 3 < prio
    && s.irq.all fun y => match y.2.serv with
      | some (c', q) => c' ≠ c || q < prio
      | none => true

/-- The source that CP c takes: the highest priority offered, then the lowest number (R405). -/
def State.irqBest (s : State) (c : Nat) : Option Nat :=
  s.irq.foldl (fun b y =>
    if s.irqOffered c y.1 then
      match b with
      | none => some y.1
      | some z => if bitsOf (s.irqCfg z) 3 3 < bitsOf (s.irqCfg y.1) 3 3 then some y.1 else b
    else b) none

/-- VBASE of a CP. -/
def State.vbase (s : State) (c : Nat) : Nat :=
  (aget 0 s.regs (0x100104 + 0x40 * c)).toNat * 2 ^ 32 + (aget 0 s.regs (0x100100 + 0x40 * c)).toNat / 2 ^ 15 * 2 ^ 15

/-- IRQ_DELIVER (R405): each CP traps for the source it takes, once until the source is claimed or no longer offered. -/
def State.irqDeliver (s : State) : State :=
  (List.range 4).foldl (fun s c =>
    match s.irqBest c with
    | none => { s with deliv := adel s.deliv c }
    | some b =>
      if afind s.deliv c = some b then s
      else { s with deliv := aset s.deliv c b }.emit (.cpTrap c (s.vbase c + 32 * b) b)) s

/-- PEND and HPEND set by an event of a source, with the MSI-X message and the trap of a CP (R404, R405, R408). -/
def State.irqPend (s : State) (src : Nat) : State :=
  let x := s.irqSrc src
  let cfg := s.irqCfg src
  let level := bitsOf cfg 0 3 ≤ 1
  let x1 := { x with pend := if level && x.serv.isSome then x.pend else true }
  let fwd := bitAt cfg 10 && !x.hpend
  let s1 := s.setIrq src { x1 with hpend := x.hpend || bitAt cfg 10 }
  let s1 := if fwd then s1.msix (bitsOf cfg 11 6) else s1
  s1.irqDeliver

/-- One counted event of a source: the storm check, then pending (R406). -/
def State.irqEvent (s : State) (src : Nat) : State :=
  let x := s.irqSrc src
  let mx := bitsOf (s.irqLim src) 0 12
  let win := x.win + 1
  if x.masked then s.setIrq src { x with win := win }
  else if mx ≠ 0 ∧ win > mx then s.setIrq src { x with win := win, storm := true, pend := false, hpend := false }
  else (s.setIrq src { x with win := win }).irqPend src

/-- The sampled level of a source changes or stays (R404). -/
def State.level (s : State) (src : Nat) (b : Bool) : State :=
  let x := s.irqSrc src
  if x.raw = b then s
  else
    let s1 := s.setIrq src { x with raw := b }
    let cfg := s.irqCfg src
    if !bitAt cfg 17 then s1
    else
      match levelAsserted (bitsOf cfg 0 3) b with
      | some true => s1.irqEvent src
      | some false => (s1.setIrq src { x with raw := b, pend := if x.serv.isSome then x.pend else false }).irqDeliver
      | none =>
        let sense := bitsOf cfg 0 3
        if (sense = 2 ∧ b) ∨ (sense = 3 ∧ !b) ∨ sense = 4 then s1.irqEvent src else s1

/-- A momentary event: the level rises and falls (log 16). -/
def State.pulse (s : State) (src : Nat) : State := (s.level src true).level src false

/-- The level of a core's source 32 + L: HALTED, FROZEN, DONE or SWIRQ (R159, R168, R172; log 17). -/
def Core.irqLevel (c : Core) : Bool :=
  c.seq.swirq || c.seq.state = .halted || c.seq.state = .frozen || c.seq.state = .done

/-- Drive the source of a physical core from its state. -/
def State.irqCore (s : State) (p : Nat) : State :=
  match s.logical p with
  | some l => s.level (32 + l) (s.core p).irqLevel
  | none => s

/-! ### Engines by number, ramp-down, halting and freezing -/

/-- Engine e of a core: 0 is A, 1 is B. -/
def Core.eng (c : Core) (e : Nat) : Engine := if e = 0 then c.engA else c.engB

def Core.setEng (c : Core) (e : Nat) (x : Engine) : Core := if e = 0 then { c with engA := x } else { c with engB := x }

/-- An engine that must ramp down does so without waiting for IDLE_HOLD (R107). -/
def Engine.rampDown (g : Engine) : Engine :=
  match g.act with
  | .idle => g
  | .down => g
  | _ => { g with act := .down, stopReq := false }

/-- Both engines of a core ramp down (R107). -/
def Core.rampDown (c : Core) : Core := { c with engA := c.engA.rampDown, engB := c.engB.rampDown }

/-- A preemption that has not finished its save is abandoned (R423, R437). -/
def Core.abandonPre (c : Core) : Core :=
  match c.pre.phase with
  | .waiting => { c with pre := { c.pre with phase := .none, valid := false, frame := none, host := false } }
  | .saving => { c with pre := { c.pre with phase := .none, valid := false, frame := none, host := false } }
  | _ => c

def Core.modSeq (c : Core) (f : Sequencer → Sequencer) : Core := { c with seq := f c.seq }

/-- Every control queue is empty: every earlier word has completed (R159). -/
def Core.synced (c : Core) : Bool := c.cq.all fun x => x.2.isEmpty

/-- The core executes its program: no preemption is under way; a frame program or PROG runs when the core's state is saved (R410, R429). -/
def Core.active (c : Core) : Bool := c.seq.state = .running

def Core.preOk (c : Core) : Bool := c.pre.phase = .none || c.pre.phase = .saved

/-- A running core with nothing left of its dispatched words becomes STOPPED (R174). The rule does not say which state wins when the STOP
comes after END has executed and before DONE: the core becomes STOPPED and keeps its END (DESIGN CHOICE, log 144; unsafe). -/
def Core.settleStop (c : Core) : Core :=
  let closing := c.seq.cur.any SeqCur.sent
  if c.active && c.seq.stopping && c.synced && !closing then c.modSeq fun q => { q with state := .stopped, stopping := false } else c

/-- STOP (R174): dispatch stops; a SEQ word that waits is abandoned, but not a STEP.CLOSE that has sent its report. -/
def Core.stop (c : Core) : Core :=
  if c.active then
    (c.modSeq fun q => { q with stopping := true, cur := if q.cur.any SeqCur.sent then q.cur else none }).settleStop
  else c

/-- A register's cause bits and enables drive a source as a level (R403). `d`: reset value of the enables. -/
def State.causeLevel (s : State) (cause inten src : Nat) (d : W32) : State :=
  s.level src ((aget 0 s.regs cause &&& aget d s.regs inten) ≠ 0)

/-- Set W1C bits of a cause register and drive its source. -/
def State.raise (s : State) (cause inten src : Nat) (d bits : W32) : State :=
  State.causeLevel { s with regs := aset s.regs cause (aget 0 s.regs cause ||| bits) } cause inten src d

/-- Set bits of FRAME_CAUSE for binding n: 0 MISSED, 1 OVERRUN, 2 FAILED, 3 DROPPED (13). -/
def State.frameCause (s : State) (n bit : Nat) : State := s.raise 0xC150 0xC154 5 0xFFFF (BitVec.ofNat 32 (2 ^ (4 * n + bit)))

/-- A frame run ends FAILED (R410, R423): the cores of its set are stopped, saves under way are abandoned, complete saves are kept for
RESUME. -/
def State.frameFail (s : State) (n : Nat) : State :=
  let f := s.frames.getD n {}
  if !f.run then s
  else
    let s := { s with frames := s.frames.set n { f with run := false, cores := [], waiting := [], ending := false, pend := false } }
    let s := f.cores.foldl (fun s l => match s.phys l with
      | some p => s.modCore p fun c =>
        let c := if c.pre.phase = .saved then { c with pre := { c.pre with frame := none, host := true, prog := none } } else c.abandonPre
        c.stop
      | none => s) s
    s.frameCause n 2

/-- A core that stops takes its frame run with it (R410, R423, R437). `fr`: the run it took part in. -/
def State.failRun (s : State) (fr : Option Nat) : State :=
  match fr with
  | some n => s.frameFail n
  | none => s

/-- The core halts (R168): dispatch and every unit stop, the record is written, the engines ramp down. -/
def Core.halt (c : Core) (r : HaltRec) : Core :=
  let c := c.rampDown.abandonPre
  { c with seq := { c.seq with state := .halted, stopping := false, halt := r, cur := none, haltUnits := [r.unit], haltOld := c.seq.halt } }

/-- SEQ_HALT_MULTI (R180). -/
def cHaltMulti : Nat := 0x1318

/-- Halt physical core p and raise its source. A core that is HALTED or FROZEN keeps its state and its record: the condition is counted (R170,
R172). -/
def State.halt (s : State) (p : Nat) (r : HaltRec) : State :=
  let c := s.core p
  if c.seq.state = .halted || c.seq.state = .frozen then s.bumpCore p cHaltMulti 1
  else ((s.modCore p fun c => c.halt r).irqCore p).failRun c.pre.frame

/-- The core freezes (R172): everything stops and keeps its state. -/
def Core.freeze (c : Core) (r : FrzRec) : Core :=
  let c := c.rampDown.abandonPre
  { c with seq := { c.seq with state := .frozen, stopping := false, frz := r } }

/-- Freeze physical core p and raise its source. A frozen core keeps its first record. -/
def State.freeze (s : State) (p : Nat) (r : FrzRec) : State :=
  let c := s.core p
  if c.seq.state = .frozen then s else ((s.modCore p fun c => c.freeze r).irqCore p).failRun c.pre.frame

/-- The halt record of a word of a unit (R171). -/
def Cqe.haltRec (e : Cqe) (unit reason info : Nat) : HaltRec := { pc := e.pc, unit := unit, reason := reason, seqno := e.seqno, info := info }

/-! ### Control queues -/

/-- The words of a control queue, oldest first. Queue 5 is drain lane A, queue 10 is drain lane B. -/
def Core.words (c : Core) (q : Nat) : List Cqe := aget [] c.cq q

def Core.setWords (c : Core) (q : Nat) (l : List Cqe) : Core := { c with cq := aset c.cq q l }

/-- Replace word i of a control queue. -/
def Core.setWord (c : Core) (q i : Nat) (e : Cqe) : Core := c.setWords q ((c.words q).set i e)

/-- Unit of a control queue. -/
def unitOf (q : Nat) : Nat := if q = 10 then 5 else q

/-- The engine waits for a start token: idle with a word at the head of its queue (R104). -/
def Core.awaitsToken (c : Core) (e : Nat) : Bool := (c.eng e).act = .idle && !(c.words (3 + e)).isEmpty && c.seq.state = .running

/-! ### Halt conditions of one engine cycle (R170) -/

/-- The place of a halt record's word in dispatch order from the oldest word in flight; a word without a number comes last. -/
def Core.haltAge (c : Core) (r : HaltRec) : Nat :=
  if (c.cq.flatMap Prod.snd).any fun e => e.seqno = r.seqno && e.pc = r.pc then (r.seqno + 65536 - c.seq.live.headD r.seqno) % 65536 else 65536

/-- What a unit's command does on a HALTED core: it makes no effect, but where it would have halted or frozen the running core, it does so in
the engine cycle of the halt, once for each unit (log 143). The record is that of the word with the lowest sequence number, the other is
counted; a freeze takes precedence over the halt. -/
def State.sameCycle (s : State) (p unit : Nat) (f : State → State) : State :=
  let c := s.core p
  if c.seq.state ≠ .halted || c.seq.haltUnits.contains unit then s
  else
    let run (g : Engine) : Engine := if g.act = .down then { g with act := .active } else g
    let d := (f (s.setCore p { c with engA := run c.engA, engB := run c.engB, seq := { c.seq with state := .running } })).core p
    match d.seq.state with
    | .halted =>
      let r := if c.haltAge d.seq.halt < c.haltAge c.seq.halt then d.seq.halt else c.seq.halt
      (s.setCore p { c with seq := { c.seq with halt := r, haltUnits := c.seq.haltUnits ++ [unit] } }).bumpCore p cHaltMulti 1
    | .frozen => State.freeze ((s.setCore p { c with seq := { c.seq with halt := c.seq.haltOld } }).bumpCore p cHaltMulti 1) p d.seq.frz
    | _ => s

/-! ### Data queues -/

def Core.dataQ (c : Core) (q : Nat) : DataQ := aget {} c.dq q

def Core.setDataQ (c : Core) (q : Nat) (x : DataQ) : Core := { c with dq := aset c.dq q x }

/-- Entries of a data queue (R143). -/
def dqDepth : Nat := 8
/-- Entries of a handle queue (R143). -/
def hqDepth : Nat := 64

/-- A wait of a consumer on an empty queue, or of a producer on a full one, is counted (R143); no register shows it. -/
def Core.waitEmpty (c : Core) (q : Nat) : Core := let x := c.dataQ q; c.setDataQ q { x with emptyW := x.emptyW + 1 }
def Core.waitFull (c : Core) (q : Nat) : Core := let x := c.dataQ q; c.setDataQ q { x with fullW := x.fullW + 1 }

/-- Room for n more entries. -/
def Core.dqRoom (c : Core) (q n : Nat) : Bool := (c.dataQ q).ents.length + n ≤ dqDepth

/-- Push entries; the caller has seen that there is room. -/
def Core.pushDq (c : Core) (q : Nat) (l : List DqEnt) : Core :=
  let x := c.dataQ q
  c.setDataQ q { x with ents := x.ents ++ l }

/-- The first n entries, when n are there. -/
def Core.headDq (c : Core) (q n : Nat) : Option (List DqEnt) :=
  let l := (c.dataQ q).ents
  if n ≤ l.length then some (l.take n) else none

def Core.dropDq (c : Core) (q n : Nat) : Core :=
  let x := c.dataQ q
  c.setDataQ q { x with ents := x.ents.drop n }

/-! ### Handle queues, buffers and pools (R264 to R268) -/

def Core.handleQ (c : Core) (h : Nat) : HandleQ := aget {} c.hq h

def Core.setHandleQ (c : Core) (h : Nat) (x : HandleQ) : Core := { c with hq := aset c.hq h x }

def Core.btEnt (c : Core) (i : Nat) : BtEnt := aget {} c.bt i

def Core.setBt (c : Core) (i : Nat) (x : BtEnt) : Core := { c with bt := aset c.bt i x }

/-- Table index and reuse tag of a handle. -/
def hIdx (h : Nat) : Nat := h % 256
def hTag (h : Nat) : Nat := h / 256 % 256

/-- A plain register of a core's block; `d`: its reset value. -/
def Core.reg (c : Core) (off : Nat) (d : W32) : Nat := (aget d c.regs off).toNat

/-- STASH_CFG (07). -/
def Core.stashCfg (c : Core) : Nat := c.reg 0x282C 0
/-- The allocator runs (STASH_CFG.EN). -/
def Core.stashEn (c : Core) : Bool := bitAt c.stashCfg 7
/-- First of the allocator's eight buffer-table entries (STASH_CFG.BT0). -/
def Core.stashBt (c : Core) : Nat := min 248 (bitsOf c.stashCfg 8 8)

/-- The entry belongs to the stash allocator (R222). -/
def Core.stashOwns (c : Core) (i : Nat) : Bool := c.stashEn && c.stashBt ≤ i && i < c.stashBt + 8

/-- The pool of an enabled entry (R265). -/
def Core.poolOf (c : Core) (i : Nat) : Option Nat :=
  if (c.btEnt i).en && !c.stashOwns i then some (c.btEnt i).pool else none

def Core.freeList (c : Core) (p : Nat) : List Nat := aget [] c.pools p

/-- Allocate the head of a pool's free list: its TAG rises by 1 and the handle carries the new TAG (R264; log 18). -/
def Core.alloc (c : Core) (p : Nat) : Option (Nat × Core) :=
  match c.freeList p with
  | [] => none
  | i :: t =>
    let b := c.btEnt i
    let tag := (b.tag + 1) % 256
    some (i + 256 * tag, (c.setBt i { b with tag := tag }) |> fun c => { c with pools := aset c.pools p t })

/-- Take one number out of a list, once. -/
def erase1 (l : List Nat) (i : Nat) : List Nat := l.erase i

/-- HQ_CFG of a handle queue (09); CREDITS resets to 4. -/
def Core.hqCfg (c : Core) (h : Nat) : Nat := c.reg (0x3040 + 4 * h) 0x2000

/-- CREDITS of a receiving end: 0 acts as 1. -/
def Core.hqCredits (c : Core) (h : Nat) : Nat := max 1 (bitsOf (c.hqCfg h) 11 7)

/-- A handle of a pool reaches its free list, or refills the reservation of the first link of that pool, in the order of binding, that is
short (R284): answers the link's queue whose sender gets a credit. -/
def Core.putFree (c : Core) (i : Nat) : Core × Option Nat :=
  match c.poolOf i with
  | none => ({ c with stash := { c.stash with pres := c.stash.pres.filter fun x => x.1 ≠ i } }, none)
  | some p =>
    let short := c.hq.filter fun x => match x.2.recv with
      | some r => r.pool = p && r.reserved.length < r.c
      | none => false
    let best := short.foldl (fun (b : Option (Nat × Nat)) x => match x.2.recv, b with
      | some r, none => some (r.order, x.1)
      | some r, some (o, q) => if r.order < o then some (r.order, x.1) else some (o, q)
      | none, b => b) none
    match best with
    | none => ({ c with pools := aset c.pools p (c.freeList p ++ [i]) }, none)
    | some (_, q) =>
      let x := c.handleQ q
      match x.recv with
      | none => (c, none)
      | some r => (c.setHandleQ q { x with recv := some { r with reserved := r.reserved ++ [i] } }, some q)

/-- The core's own ID number in HX_GROUP.DEVID (R341): 0xFF while unassigned. -/
def State.devId (s : State) : Nat := bitsOf (aget 0x0010FFFF s.regs 0x300010).toNat 0 8

/-- A destination device of an exchange word is this device: 0xFF or the own ID (R199). -/
def State.isLocalDev (s : State) (d : Nat) : Bool := d = 0xFF || d = s.devId

/-- Credits go to the sending end of the link that queue q of core p receives on (R283, R284). -/
def State.sendCredit (s : State) (p q n : Nat) : State :=
  match ((s.core p).handleQ q).recv with
  | some r => if s.isLocalDev r.dev then
      match s.phys r.core with
      | some sp => s.send (.credit ((s.logical p).getD 0x3FF) sp r.rhq n)
      | none => s
    else s.send (.rcredit p r.dev r.core r.rhq n)
  | none => s

/-- Release a handle of physical core p: it leaves Held or In flight and reaches the free list or a reservation (R265, R284). -/
def State.release (s : State) (p h : Nat) : State :=
  let c := s.core p
  let i := hIdx h
  let r := ({ c with heldH := erase1 c.heldH i, inflight := erase1 c.inflight i, transit := erase1 c.transit i } : Core).putFree i
  let s := s.setCore p r.1
  match r.2 with
  | some q => s.sendCredit p q 1
  | none => s

/-! ### Barriers (R147 to R151) -/

def Core.bar (c : Core) (b : Nat) : Barrier := aget {} c.seq.bars b

def Core.setBar (c : Core) (b : Nat) (x : Barrier) : Core := { c with seq := { c.seq with bars := aset c.seq.bars b x } }

/-- d = (COUNT − TARGET) mod 2^16. -/
def Barrier.dist (x : Barrier) : Nat := (x.count + 65536 - x.target % 65536) % 65536

/-- The barrier is satisfied (R147). -/
def Barrier.ok (x : Barrier) : Bool := x.dist < 32768

/-- Add n to COUNT of barrier b of physical core p; an overrun halts the core and is not applied (R151). `r`: the halt record's word and
unit. -/
def State.signal (s : State) (p b n : Nat) (r : HaltRec) : State :=
  let c := s.core p
  let x := c.bar b
  if x.ok && 32768 ≤ x.dist + n then s.halt p { r with reason := 0x07, info := b + 256 + r.unit * 4096 }
  else s.setCore p (c.setBar b { x with count := (x.count + n) % 65536 })

end Sys2Proof.Machine
end

