-- ==== Sys2Proof/Machine/Codec.lean ====
section
/-! DEFINITION. Muslin containers and MX-quantised images (R313, R314, R317): pure coding of one block of 4,096 bytes. -/

namespace Sys2Proof.Machine

/-- A byte with its poison. -/
abbrev PByte := Byte × Bool

/-- Bits needed for a number: 0 for 0. -/
def bitLen (n : Nat) : Nat := if n = 0 then 0 else Nat.log2 n + 1

/-- code_chunk (R313): 64 bytes of one plane. -/
def codeChunk (x : List Nat) : List Nat :=
  let lo := x.foldl min (x.headD 0)
  let hi := x.foldl max 0
  let n := bitLen (hi - lo)
  if hi = 0 then [0x00]
  else if hi = lo then [0x01, lo]
  else if n ≤ 7 then [0x10 + n, lo] ++ (bytesOf (8 * n) (packBits n (x.map fun v => v - lo))).map BitVec.toNat
  else 0x18 :: x

/-- Byte planes of a block: plane b holds bytes w × j + b (R313). -/
def toPlanes (w : Nat) (d : List Nat) : List Nat :=
  (List.range w).flatMap fun b => (List.range (4096 / w)).map fun j => d.getD (w * j + b) 0

/-- The block of byte planes. -/
def ofPlanes (w : Nat) (p : List Nat) : List Nat :=
  (List.range (4096 / w)).flatMap fun j => (List.range w).map fun b => p.getD (b * (4096 / w) + j) 0

/-- Symbol width of MW (R297). -/
def mwBytes (mw : Nat) : Nat := if mw = 0 then 1 else if mw = 1 then 2 else 4

/-- muslin_encode (R313): FORM and payload. -/
def muslinEncode (d : List Nat) (w : Nat) : Nat × List Nat :=
  if d.all (· = 0) then (0x02, [])
  else
    let s := toPlanes w d
    let p := (List.range 64).flatMap fun c => codeChunk ((s.drop (64 * c)).take 64)
    if 4096 ≤ p.length then (0x00, d) else (0x01, p)

/-- Decode one chunk: its 64 bytes and the rest of the payload; none where a tag holds another value (R314). -/
def decodeChunk : List Nat → Option (List Nat × List Nat)
  | [] => none
  | t :: r =>
    if t = 0x00 then some (List.replicate 64 0, r)
    else if t = 0x01 then (match r with
      | v :: r => some (List.replicate 64 v, r)
      | [] => none)
    else if 0x11 ≤ t ∧ t ≤ 0x17 then (match r with
      | lo :: r =>
        let n := t - 0x10
        if r.length < 8 * n then none
        else some ((unpackBits n 64 (numOf ((r.take (8 * n)).map (BitVec.ofNat 8)))).map fun v => (lo + v) % 256, r.drop (8 * n))
      | [] => none)
    else if t = 0x18 then (if r.length < 64 then none else some (r.take 64, r.drop 64))
    else none

/-- Decode n chunks; the payload must be consumed exactly. -/
def decodeChunks : Nat → List Nat → Option (List Nat)
  | 0, r => if r.isEmpty then some [] else none
  | n + 1, r =>
    match decodeChunk r with
    | none => none
    | some (x, r) => (decodeChunks n r).map fun l => x ++ l

/-- Decode a container (R314), before the CRC check. -/
def muslinDecode (form : Nat) (payload : List Nat) (w : Nat) : Option (List Nat) :=
  if form = 0x02 then (if payload.isEmpty then some (List.replicate 4096 0) else none)
  else if form = 0x00 then (if payload.length = 4096 then some payload else none)
  else if form = 0x01 then (decodeChunks 64 payload).map (ofPlanes w)
  else none

/-- Elements and logical bytes of a group of an MX-quantised object's block; `src`: MXQ (R317). -/
def mxqElems (src : Nat) : Nat := if src = 1 then 1024 else 2048
def mxqGroup (src : Nat) : Nat := if src = 1 then 128 else 64

/-- The 32 element bytes and the scale byte of one group (R317). -/
def mxqEncGroup (src : Nat) (d : List Byte) : List Byte × Byte :=
  let fmt := if src = 1 then 0xC else 0x0
  let g := mxQuantise 0x4 none ((unpackBits (fmtWidth fmt) 32 (numOf d)).map (decodeElem fmt))
  (g.2.map fun c => BitVec.ofNat 8 c.code, BitVec.ofNat 8 g.1)

/-- The image of a block of an MX-quantised object (R317): element bytes, then scale bytes, padded with zeros to 4,096. -/
def mxqEncode (src : Nat) (d : List Byte) : List Byte :=
  let n := mxqElems src
  let gs := (List.range (n / 32)).map fun g => mxqEncGroup src ((d.drop (mxqGroup src * g)).take (mxqGroup src))
  (gs.flatMap Prod.fst) ++ gs.map Prod.snd ++ List.replicate (4096 - n - n / 32) 0

/-- An element widened exactly (R317). -/
def mxqWiden (src : Nat) (code scale : Byte) : List Byte :=
  let fmt := if src = 1 then 0xC else 0x0
  bytesOf (fmtWidth fmt / 8) (convert fmt false (scaled scale.toNat (decodeElem 0x4 code.toNat))).code

/-- The elements that an image holds, each widened exactly, with the poison of its byte and of its group's scale (R311, R317). -/
def mxqDecode (src : Nat) (img : List PByte) : List PByte :=
  let n := mxqElems src
  (List.range n).flatMap fun i =>
    let c := img.getD i (0, false)
    let sc := img.getD (n + i / 32) (0, false)
    (mxqWiden src c.1 sc.1).map fun x => (x, c.2 || sc.2)

/-- Groups that a write of n bytes at a place of a block touches: the first and their number. -/
def mxqTouch (src at_ n : Nat) : Nat × Nat :=
  let g := mxqGroup src
  (at_ / g, if n = 0 then 0 else (at_ + n - 1) / g + 1 - at_ / g)

/-- Group g of an image after a write: decoded, merged and quantised again; others are not (R317). -/
def mxqMergeGroup (src : Nat) (img : List PByte) (at_ : Nat) (d : List PByte) (g : Nat) : List PByte :=
  let n := mxqElems src
  let gb := mxqGroup src
  let old := (List.range 32).flatMap fun i =>
    let c := img.getD (32 * g + i) (0, false)
    let sc := img.getD (n + g) (0, false)
    (mxqWiden src c.1 sc.1).map fun x => (x, c.2 || sc.2)
  let new := old.zipIdx.map fun x => if at_ ≤ gb * g + x.2 then d.getD (gb * g + x.2 - at_) x.1 else x.1
  let e := mxqEncGroup src (new.map Prod.fst)
  let z := new.any Prod.snd
  (img.take (32 * g) ++ (e.1.map fun x => (x, z)) ++ img.drop (32 * g + 32)).set (n + g) (e.2, z)

/-- An image after a write of logical bytes at a place of its block (R317). -/
def mxqMerge (src : Nat) (img : List PByte) (at_ : Nat) (d : List PByte) : List PByte :=
  let r := mxqTouch src at_ d.length
  (List.range r.2).foldl (fun img i => mxqMergeGroup src img at_ d (r.1 + i)) img

/-- Bytes of an image that are stored when the object is not coded by Muslin (R317). -/
def mxqImageLen (src : Nat) : Nat := if src = 1 then 1056 else 2112

end Sys2Proof.Machine
end

