-- ==== Sys2Proof/Machine/Tiers.lean ====
section
/-! DEFINITION. The device address range, stripe sets, objects and their checks (R295 to R300, R303), and reading and writing an object's bytes
through codec and encryption (R311 to R317). -/

namespace Sys2Proof.Machine


def gib : Nat := 0x40000000
/-- First address of a tier (R295); tier 0 is T1. -/
def tierBase (tier : Nat) : Nat := if tier = 0 then 0 else if tier = 1 then 0x8000000000 else 0x20000000000
/-- First address past a tier's range (R295). -/
def tierEnd (tier : Nat) : Nat := if tier = 0 then 0x100000000 else if tier = 1 then 0xE000000000 else 0x40000000000

/-- An object-table entry. -/
def State.objEnt (s : State) (i : Nat) : ObjEnt := aget {} s.obj.table i

def State.setObj (s : State) (i : Nat) (e : ObjEnt) : State := { s with obj := { s.obj with table := aset s.obj.table i e } }

def ObjEnt.start (e : ObjEnt) : Nat := e.base * 65536
def ObjEnt.bytes (e : ObjEnt) : Nat := e.size * 65536

/-- The one valid entry whose range contains an address (R299). -/
def State.findObj (s : State) (a : Nat) : Option Nat :=
  (s.obj.table.find? fun x => x.2.valid && x.2.start ≤ a && a < x.2.start + x.2.bytes).map Prod.fst

/-- Members of a mask, ascending. -/
def maskList (n mask : Nat) : List Nat := (List.range n).filter fun i => bitAt mask i

def State.chan (s : State) (ch : Nat) : Channel := aget {} s.obj.chans ch

/-- The channel as a number 0 to 15 of a stripe set's channel number: a stack, or the physical channel of a logical DDR5 channel. -/
def State.chanOf (s : State) (tier c : Nat) : Nat :=
  if tier = 0 then c
  else match afind s.lchan c with
    | some e => 8 + e.phys
    | none => 16

/-- GRAN of a stripe set in bytes (R303). -/
def granBytes (g : Nat) : Nat := if g = 0 then 2048 else if g = 1 then 4096 else if g = 2 then 65536 else 2097152

/-- stripe_map (R303): channel and channel address. -/
def State.stripeMap (s : State) (set a : Nat) : Option (Nat × Nat) :=
  let x := aget {} s.obj.stripes set
  let start := tierBase (x.tier + 1) + x.start * gib
  let l := maskList 8 x.chmask
  let n := l.length
  if x.valid && start ≤ a && a < start + x.len * gib && n ≠ 0 then
    let gb := granBytes x.gran
    let g := (a - start) / gb
    some (s.chanOf x.tier (l.getD (g % n) 0), x.chofs * gib + g / n * gb + (a - start) % gb)
  else none

/-- Where a device address of a tier lies. -/
inductive Place where
  | slice (p a : Nat)
  | fenced (l : Nat)
  | chan (ch ca : Nat)
  | hole
  deriving DecidableEq, Repr

/-- The place of a device address under a stripe set (R296, R303). -/
def State.place (s : State) (tier set a : Nat) : Place :=
  if tier = 0 then
    let l := a / 0x800000
    if l < s.ncores then
      match afind s.lmap l with
      | some e => if e.valid then .slice e.phys (a % 0x800000) else .fenced l
      | none => .hole
    else .hole
  else match s.stripeMap set a with
    | some (ch, ca) => .chan ch ca
    | none => .hole

/-- Cut [a, a + n) at multiples of 64: first address and length of each part; `fuel` bounds their number. -/
def granules : Nat → Nat → Nat → List (Nat × Nat)
  | 0, _, _ => []
  | fuel + 1, a, n => if n = 0 then [] else let k := min n (64 - a % 64); (a, k) :: granules fuel (a + k) (n - k)

def cuts (a n : Nat) : List (Nat × Nat) := granules (n / 64 + 2) a n

/-- Read one part of a 64 B granule: the whole granule's poison (R255, R311). A fenced core's slice reads with poison (R296). -/
def State.readPart (s : State) (tier set a n : Nat) : List PByte :=
  match s.place tier set a with
  | .slice p la => (Memory.bytes s.slice (sliceKey p la) n).map fun b => (b, pzRead 8 s.slicePz (sliceKey p la / 64 * 64) 64)
  | .fenced _ => List.replicate n (0, true)
  | .chan ch ca => (Memory.bytes s.tier (tierKey ch ca) n).map fun b => (b, pzRead 64 s.tierPz (tierKey ch ca) n)
  | .hole => List.replicate n (0, true)

/-- Read n bytes at a device address of a tier, granule by granule. -/
def State.devRead (s : State) (tier set a n : Nat) : List PByte := (cuts a n).flatMap fun x => s.readPart tier set x.1 x.2

/-- Write one part. A write to a fenced core's slice is acknowledged and discarded, and counted (R296, R421). -/
def State.writePart (s : State) (tier set a : Nat) (d : List PByte) : State :=
  let poison := d.any Prod.snd
  match s.place tier set a with
  | .slice p la => s.localWrite p 1 la (d.map Prod.fst) poison
  | .fenced l => (match afind s.lmap l with
    | some e => s.bumpCore e.phys 0x404C 1
    | none => s)
  | .chan ch ca =>
    { s with tier := Memory.put s.tier (tierKey ch ca) (d.map Prod.fst), tierPz := pzWrite 64 s.tierPz (tierKey ch ca) d.length poison }
  | .hole => s

/-- Write bytes at a device address of a tier. -/
def State.devWrite (s : State) (tier set a : Nat) (d : List PByte) : State :=
  (cuts a d.length).foldl (fun s x => s.writePart tier set x.1 ((d.drop (x.1 - a)).take x.2)) s

/-! ### Codec engines -/

/-- Logical codec engines in service. -/
def State.codecs (s : State) : List Nat := (s.lcodec.filter fun x => !s.obj.codecOos.contains x.2.phys).map Prod.fst

/-- Steps on the mesh between two quadrants' places (R14). -/
def quadSteps (a b : Nat) : Nat := (if a % 2 = b % 2 then 0 else 1) + (if a / 2 = b / 2 then 0 else 1)

/-- The codec engine that owns a block (R315): one of the quadrant of its channel, else the nearest in service, by quadrant (log 19). -/
def State.codecOf (s : State) (ch b : Nat) : Nat :=
  let q := ch % 8 / 2
  let live := s.lcodec.filter fun x => !s.obj.codecOos.contains x.2.phys
  let at_ (d : Nat) := (live.filter fun x => quadSteps (x.2.phys / 2) q = d).map Prod.fst
  let l := if (at_ 0).isEmpty then (if (at_ 1).isEmpty then at_ 2 else at_ 1) else at_ 0
  l.getD (b % max 1 l.length) 0

/-- Add to a counter of the codec that owns a block. -/
def State.bumpCodec (s : State) (k off n : Nat) : State := s.bump (0x430000 + 0x1000 * k + off) n

/-- A W1C status bit of the device by BAR0 offset is set. -/
def State.setBit (s : State) (off bit : Nat) : State :=
  { s with regs := aset s.regs off (aget 0 s.regs off ||| (1 <<< bit)) }

/-- Set a bit of a codec's ERR_STAT and raise its source (R312). -/
def State.codecErr (s : State) (k bit : Nat) : State :=
  let phys := (afind s.lcodec k).elim k MapEnt.phys
  (s.setBit (0x430000 + 0x1000 * k + 0x18) bit).level (624 + phys) true

/-- Logical number of the block of a channel: the stack, or the logical DDR5 channel of a physical one. -/
def State.chanBlock (s : State) (ch : Nat) : Nat :=
  if ch < 8 then 0x410000 + 0x1000 * ch
  else 0x420000 + 0x1000 * ((s.lchan.find? fun x => x.2.phys + 8 = ch).elim 0 Prod.fst)

/-- Interrupt source of a channel (R312). -/
def chanSrc (ch : Nat) : Nat := 608 + ch

/-- Set a bit of a channel's ERR_STAT and raise its source while it is enabled (R312). -/
def State.chanErr (s : State) (ch bit : Nat) : State :=
  let b := s.chanBlock ch
  let s := s.setBit (b + 0x18) bit
  if bitAt (aget 0xF s.regs (b + 0x1C)).toNat bit then s.level (chanSrc ch) true else s

/-- A channel corrected n errors (R312): more than CE_LIM within a scrub pass sets ERR_STAT.CE_LIM. -/
def State.chanCe (s : State) (ch n : Nat) : State :=
  let b := s.chanBlock ch
  let s := s.bump (b + 0x40) n
  let x := s.chan ch
  let s := { s with obj := { s.obj with chans := aset s.obj.chans ch { x with scrubCe := x.scrubCe + n } } }
  let lim := bitsOf (aget 0x01000801 s.regs (b + 0x10)).toNat 16 16
  if n ≠ 0 ∧ lim < x.scrubCe + n then s.chanErr ch 0 else s

/-- A channel met n uncorrectable errors (R311, R312). -/
def State.chanUe (s : State) (ch n : Nat) : State :=
  if n = 0 then s else (s.bump (s.chanBlock ch + 0x44) n).chanErr ch 1

/-- Count the granules of a range that are delivered with poison (R312). -/
def State.countPoison (s : State) (tier set a n : Nat) : State :=
  (cuts a n).foldl (fun s x => match s.place tier set x.1 with
    | .chan ch ca => if pzRead 64 s.tierPz (tierKey ch ca) x.2 then s.bump (s.chanBlock ch + 0x48) 1 else s
    | _ => s) s

/-- GCM inputs of a T3 block (R316). -/
def gcmIv (obj b vctr : Nat) : List Byte := bytesOf 2 obj ++ bytesOf 4 b ++ bytesOf 6 vctr
def gcmAad (rec : List Byte) (obj b : Nat) : List Byte := (rec.drop 8).take 8 ++ bytesOf 2 obj ++ bytesOf 4 b

/-- AES-256-GCM in counter mode: the bytes exclusive-ored with the key stream, either way (R316). -/
def gcmXor (key : Nat) (iv : List Byte) (d : List Byte) : List Byte :=
  d.zipIdx.map fun x => x.1 ^^^ Config.gcmStream key iv x.2

/-- The image of block b of a coded or quantised object, and the state with the counters of the read (R312, R314, R316, R317): of a Muslin
block any failed check poisons the whole, of another each granule has its own poison (R311). -/
def State.readImage (s : State) (obj : Nat) (e : ObjEnt) (b : Nat) : List PByte × State :=
  let slot := e.start + 4096 * b
  if !e.muslin then (s.devRead e.tier e.stripe slot (mxqImageLen e.mxq), s.countPoison e.tier e.stripe slot (mxqImageLen e.mxq))
  else
    let m := s.objEnt e.metaObj
    let recP := s.devRead m.tier m.stripe (m.start + 32 * b) 32
    let rec_ := recP.map Prod.fst
    let form := (rec_.getD 8 0).toNat
    let elem := (rec_.getD 9 0).toNat
    let plen := numOf ((rec_.drop 10).take 2)
    let crc := numOf ((rec_.drop 12).take 4)
    let slen := 64 * ((plen + 63) / 64)
    let ch := (s.stripeMap e.stripe slot).elim 0 Prod.fst
    let k := s.codecOf ch b
    let s := ((s.countPoison m.tier m.stripe (m.start + 32 * b) 32).countPoison e.tier e.stripe slot slen).bumpCodec k 0x44 1
    -- an untouched block, whose record is all zeros, has FORM 0x00 and PLEN 0: it fails R314
    let stored := s.devRead e.tier e.stripe slot slen
    let bad := recP.any Prod.snd || stored.any Prod.snd
    let raw := stored.map Prod.fst
    let iv := gcmIv obj b (numOf (rec_.take 6))
    let auth := e.tier ≠ 2 || Config.gcmTag s.t3Key iv (gcmAad rec_ obj b) raw = rec_.drop 16
    let plain := if e.tier = 2 then gcmXor s.t3Key iv raw else raw
    if !auth then
      (List.replicate 4096 (0, true), (s.bump (s.chanBlock ch + 0x50) 1).chanErr ch 3)
    else
      match muslinDecode form ((plain.take plen).map BitVec.toNat) (mwBytes elem) with
      | none => (List.replicate 4096 (0, true), (s.bumpCodec k 0x54 1).codecErr k 0)
      | some d =>
        let d := d.map (BitVec.ofNat 8)
        if (crc32c d).toNat ≠ crc then (List.replicate 4096 (0, true), (s.bumpCodec k 0x54 1).codecErr k 0)
        else (d.map fun x => (x, bad), s)

/-- The 4,096 logical bytes of block b of a coded or quantised object. -/
def State.readBlock (s : State) (obj : Nat) (e : ObjEnt) (b : Nat) : List PByte × State :=
  let r := s.readImage obj e b
  (if e.mxq = 0 then r.1 else mxqDecode e.mxq r.1, r.2)

/-- Write the image of block b of a Muslin object: payload first, the record last (R313 to R316). -/
def State.writeImage (s : State) (obj : Nat) (e : ObjEnt) (b : Nat) (d : List PByte) : State :=
    let poison := d.any Prod.snd
    let img := d.map Prod.fst
    let slot := e.start + 4096 * b
    let m := s.objEnt e.metaObj
    let s := s.countPoison m.tier m.stripe (m.start + 32 * b) 32
    let old := (s.devRead m.tier m.stripe (m.start + 32 * b) 32).map Prod.fst
    let vctr := if e.tier = 2 then numOf (old.take 6) + 1 else 0
    let en := muslinEncode (img.map BitVec.toNat) (mwBytes e.mw)
    let plen := en.2.length
    let slen := 64 * ((plen + 63) / 64)
    let pay := (en.2.map (BitVec.ofNat 8)) ++ List.replicate (slen - plen) 0
    let head := bytesOf 6 vctr ++ [0, 0] ++ [BitVec.ofNat 8 en.1, BitVec.ofNat 8 e.mw] ++ bytesOf 2 plen ++ bytesOf 4 (crc32c img).toNat
    let iv := gcmIv obj b vctr
    let stored := if e.tier = 2 then gcmXor s.t3Key iv pay else pay
    let tag := if e.tier = 2 then Config.gcmTag s.t3Key iv (gcmAad head obj b) stored else List.replicate 16 0
    let ch := (s.stripeMap e.stripe slot).elim 0 Prod.fst
    let k := s.codecOf ch b
    let s := s.devWrite e.tier e.stripe slot (stored.map fun x => (x, poison))
    let s := s.devWrite m.tier m.stripe (m.start + 32 * b) ((head ++ tag).map fun x => (x, poison && plen = 0))
    let s := (s.bumpCodec k 0x40 1).bumpCodec k 0x50 (slen / 64)
    let s := if en.1 = 0x00 then s.bumpCodec k 0x48 1 else s
    if en.1 = 0x02 then s.bumpCodec k 0x4C 1 else s

/-- Write the groups `r` of an image of block b of a quantised object without Muslin: their elements, then their scales (R317). -/
def State.writeGroups (s : State) (e : ObjEnt) (b : Nat) (img : List PByte) (r : Nat × Nat) : State :=
  let slot := e.start + 4096 * b
  let n := mxqElems e.mxq
  let s := s.devWrite e.tier e.stripe (slot + 32 * r.1) ((img.drop (32 * r.1)).take (32 * r.2))
  s.devWrite e.tier e.stripe (slot + n + r.1) ((img.drop (n + r.1)).take r.2)

/-- Write logical bytes at a place of block b of a coded or quantised object (R313 to R317): part of a Muslin block is decoded, merged and encoded
again, part of a group decoded, merged and quantised again. -/
def State.writeBlock (s : State) (obj : Nat) (e : ObjEnt) (b at_ : Nat) (d : List PByte) : State :=
  let r := if d.length = 4096 then (List.replicate 4096 (0, false), s) else s.readImage obj e b
  let img := if e.mxq = 0 then r.1.take at_ ++ d ++ r.1.drop (at_ + d.length) else mxqMerge e.mxq r.1 at_ d
  if e.muslin then r.2.writeImage obj e b img else r.2.writeGroups e b img (mxqTouch e.mxq at_ d.length)

/-! ### Objects by offset -/

def ObjEnt.coded (e : ObjEnt) : Bool := e.muslin || e.mxq ≠ 0

/-- Blocks of 4 KiB that [ofs, ofs + n) touches. -/
def blocksOf (ofs n : Nat) : List Nat := if n = 0 then [] else (List.range ((ofs + n - 1) / 4096 + 1 - ofs / 4096)).map (· + ofs / 4096)

/-- Read n logical bytes of an object image at an offset. -/
def State.imgRead (s : State) (obj : Nat) (e : ObjEnt) (ofs n : Nat) : List PByte × State :=
  if !e.coded then (s.devRead e.tier e.stripe (e.start + ofs) n, s.countPoison e.tier e.stripe (e.start + ofs) n)
  else
    let r := (blocksOf ofs n).foldl (fun (acc : List PByte × State) b =>
      let x := acc.2.readBlock obj e b
      (acc.1 ++ x.1, x.2)) ([], s)
    ((r.1.drop (ofs % 4096)).take n, r.2)

/-- Write logical bytes to an object image, block by block (R315). A write over a block that failed its checks keeps its poison. -/
def State.imgWrite (s : State) (obj : Nat) (e : ObjEnt) (ofs : Nat) (d : List PByte) : State :=
  if !e.coded then s.devWrite e.tier e.stripe (e.start + ofs) d
  else
    (blocksOf ofs d.length).foldl (fun s b =>
      let lo := max ofs (b * 4096)
      let hi := min (ofs + d.length) (b * 4096 + 4096)
      s.writeBlock obj e b (lo - b * 4096) ((d.drop (lo - ofs)).take (hi - lo))) s

/-- The migration of an object that has copied at least one granule (R306). -/
def State.migOf (s : State) (obj : Nat) : Option Migration := s.obj.migs.find? fun m => m.obj = obj && m.running

/-- Read an object (the live copy, R306). -/
def State.objRead (s : State) (obj ofs n : Nat) : List PByte × State := s.imgRead obj (s.objEnt obj) ofs n

/-- Write an object: its live copy, the parts already migrated, and a mirrored backing copy (R306, BPOL = 2 of R297). -/
def State.objWrite (s : State) (obj ofs : Nat) (d : List PByte) : State :=
  let e := s.objEnt obj
  let s := s.imgWrite obj e ofs d
  let s := match s.migOf obj with
    | some m => let done := m.next * 65536
      if ofs < done then s.imgWrite obj m.dest ofs (d.take (done - ofs)) else s
    | none => s
  if e.bpol = 2 then s.imgWrite e.backing (s.objEnt e.backing) ofs d else s

/-! ### Checks (R299) -/

/-- Who makes a request (R299). -/
inductive Master where
  | core (l : Nat)
  | host
  | codec
  | peer (dev : Nat)
  deriving DecidableEq, Repr

/-- Core group of a logical core (R298). -/
def State.cgroup (s : State) (l : Nat) : Nat := bitsOf (aget 0 s.obj.cgrp (l / 8)) (4 * (l % 8)) 4

/-- The mask bit of a master's class for a direction (order 2). -/
def State.mayAccess (s : State) (m : Master) (write : Bool) (e : ObjEnt) : Bool :=
  match m with
  | .core l => bitAt (if write then e.cgW else e.cgR) (s.cgroup l)
  | .host => if write then e.hostW else e.hostR
  | .codec => if write then e.codecW else e.codecR
  | .peer d => bitAt (if write then e.peerW else e.peerR) (d / 16)

/-- The range falls in a version shadow of the pool (order 2). -/
def State.inShadow (s : State) (obj ofs n : Nat) : Bool :=
  obj = (aget 0 s.regs 0x400200).toNat % 65536 &&
    s.obj.shadows.any fun x => decide (x.ofs * 65536 < ofs + n ∧ ofs < (x.ofs + x.size) * 65536)

/-- A channel of the object's stripe set is out of service (order 3). -/
def State.chanOos (s : State) (e : ObjEnt) : Bool :=
  let x := aget {} s.obj.stripes e.stripe
  e.tier ≠ 0 && (maskList 8 x.chmask).any fun c => (s.chan (s.chanOf x.tier c)).state ≠ 1

/-- A T3 block write would take its counter past 2^48 − 1 (order 3). -/
def State.vctrFull (s : State) (e : ObjEnt) (ofs n : Nat) : Bool :=
  e.tier = 2 && e.muslin &&
    let m := s.objEnt e.metaObj
    (blocksOf ofs n).any fun b => numOf ((s.devRead m.tier m.stripe (m.start + 32 * b) 6).map Prod.fst) = 2 ^ 48 - 1

/-- Freeze reasons (R171). -/
def frzDenied : Nat := 0x80
def frzOut : Nat := 0x81
def frzTier : Nat := 0x82

/-- Order 3 of R299 for an object's image. `cached`: a cached access or fetch. -/
def State.tierFault (s : State) (e : ObjEnt) (write cached : Bool) (ofs n : Nat) : Bool :=
  (cached && (e.tier = 2 || e.muslin || e.mxq ≠ 0)) || s.chanOos e || (e.coded && s.codecs.isEmpty) || (write && s.vctrFull e ofs n)
    || (e.tier = 0 && n ≠ 0 && s.ncores ≤ (e.start + ofs + n - 1) / 0x800000)

/-- The checks of R299 on object `obj`, in order: the reason of the first that fails. `cached`: a cached access or fetch. -/
def State.check (s : State) (m : Master) (write cached : Bool) (obj ofs n : Nat) : Option Nat :=
  let e := s.objEnt obj
  if !e.valid || e.bytes < ofs + n then some frzOut
  else if !s.mayAccess m write e || (write && s.inShadow obj ofs n) then some frzDenied
  else if s.tierFault e write cached ofs n then some frzTier
  else none

/-- The checks of R299 for a request by address: the object that serves it with the offset, or the freeze reason and object. -/
def State.checkAddr (s : State) (m : Master) (write cached : Bool) (a n : Nat) : Except (Nat × Nat) (Nat × Nat) :=
  match s.findObj a with
  | none => .error (frzOut, 0xFFFF)
  | some o =>
    let ofs := a - (s.objEnt o).start
    match s.check m write cached o ofs n with
    | some r => .error (r, o)
    | none => .ok (o, ofs)

/-- The codec engine that owns block `b` of a coded object may serve it for a migration, a spill or a stream (R297): it is not frozen, and its mask bit
allows the access and order 3 of R299 finds nothing; if not, the engine is frozen (R299). `e`: the object's image. -/
def State.codecGate (s : State) (obj : Nat) (e : ObjEnt) (b : Nat) (write : Bool) : Bool × State :=
  if !e.coded then (true, s)
  else
    let a := e.start + 4096 * b
    let k := s.codecOf ((s.stripeMap e.stripe a).elim 0 Prod.fst) b
    let phys := (afind s.lcodec k).elim k MapEnt.phys
    if (afind s.obj.codecFrz phys).isSome then (false, s)
    else if s.mayAccess .codec write e && !s.tierFault e write false (4096 * b) 4096 then (true, s)
    else
      let r : FrzRec := { unit := 0, reason := if s.mayAccess .codec write e then frzTier else frzDenied, obj := obj, addr := a }
      (false, State.codecErr { s with obj := { s.obj with codecFrz := aset s.obj.codecFrz phys r } } k 1)

/-- v is older than c as a serial number (R227). -/
def olderVer (c v : Nat) : Bool := let d := (c + 65536 - v) % 65536; 1 ≤ d && d ≤ 32767

/-- A core's pin of an object. -/
def Core.pinOf (c : Core) (obj : Nat) : Option PinEnt := c.pins.find? fun x => x.obj = obj

/-- The object lookaside of core p holds the entry of an object, with the epoch of its fill (R300); the oldest of 64 leaves (log 156). -/
def Core.noteLook (c : Core) (obj epoch : Nat) : Core :=
  if c.look.any fun x => x.1 = obj then c
  else { c with look := (if 64 ≤ c.look.length then c.look.drop 1 else c.look) ++ [(obj, epoch)] }

/-- The copies of entries leave every core's lookaside (R300). -/
def State.dropLook (s : State) (objs : List Nat) : State :=
  { s with cores := s.cores.map fun x => (x.1, { x.2 with look := x.2.look.filter fun y => !objs.contains y.1 }) }

/-- Where a core's read of an object is served: the object and the offset added (R229, R300, R308); none where the pinned version is gone. -/
def State.readTarget (s : State) (p obj : Nat) : Option (Nat × Nat) :=
  match (s.core p).pinOf obj with
  | some x =>
    if x.ver = (s.objEnt obj).version then some (obj, 0)
    else (s.obj.shadows.find? fun h => h.obj = obj && h.ver = x.ver).map fun h => ((aget 0 s.regs 0x400200).toNat % 65536, h.ofs * 65536)
  | none => some (obj, 0)

/-- A read of an object by core p is noted in its lookaside, and counted when it is redirected (R229, R300). -/
def State.noteRead (s : State) (p obj : Nat) : State :=
  let s := s.modCore p fun c => c.noteLook obj s.epoch
  match s.readTarget p obj with
  | some (o, _) => if o = obj then s else s.bumpCore p 0x2918 1
  | none => s

/-- Read an object as core p does: redirected to the pinned version's shadow after a commit (R229, R308); with no shadow the data is poisoned. -/
def State.coreRead (s : State) (p obj ofs n : Nat) : List PByte × State :=
  let s := s.noteRead p obj
  match s.readTarget p obj with
  | none => (List.replicate n (0, true), s)
  | some (o, a) => s.objRead o (a + ofs) n

/-- The write generation of a guarded object rises by 1, at the start and at the completion of a write (R277). -/
def State.bumpGen (s : State) (obj : Nat) : State :=
  let e := s.objEnt obj
  if e.guarded then s.setObj obj { e with wgen := (e.wgen + 1) % 65536 } else s

/-- One whole write of an object: generation, bytes, generation. -/
def State.wholeWrite (s : State) (obj ofs : Nat) (d : List PByte) : State := ((s.bumpGen obj).objWrite obj ofs d).bumpGen obj

end Sys2Proof.Machine
end

