-- ==== Sys2Proof/Machine/ControlWord.lean ====
section
/-! DEFINITION. Control words: fields, widths, and the checks the sequencer makes before dispatch (R137, R139, R155, R181 to R203). -/

namespace Sys2Proof.Machine

/-- Bits [lo + len − 1 : lo] of a control word. -/
def wbits (w : CWord) (lo len : Nat) : Nat := bitsOf w.toNat lo len
def wbit (w : CWord) (i : Nat) : Bool := wbits w i 1 = 1

def wFmt (w : CWord) : Nat := wbits w 124 4
def wUnit (w : CWord) : Nat := wbits w 120 4
def wOp (w : CWord) : Nat := wbits w 112 8
def wRep (w : CWord) : Nat := wbits w 96 16
def wIna (w : CWord) : Nat := wbits w 92 4
def wInb (w : CWord) : Nat := wbits w 88 4
def wOut (w : CWord) : Nat := wbits w 84 4
def wWaitBar (w : CWord) : Nat := wbits w 79 5
def wWaitEn (w : CWord) : Bool := wbit w 78
def wSigBar (w : CWord) : Nat := wbits w 73 5
def wSigEn (w : CWord) : Bool := wbit w 72
def wTokA (w : CWord) : Nat := wbits w 80 4
def wTokB (w : CWord) : Nat := wbits w 76 4
def wTokM (w : CWord) : Nat := wbits w 72 4
/-- The word is a U1 word (R200). -/
def wU1 (w : CWord) : Bool := wFmt w = 1

/-- Whether an operation may appear in U1 words (R187). -/
inductive U1Use where
  | yes | no | only
  deriving DecidableEq, Repr

/-- A row of the operation index: double width, whether REPEAT is used, U1. -/
structure OpInfo where
  dbl : Bool
  rep : Bool
  u1 : U1Use
  deriving DecidableEq, Repr

/-- The operation index (R187, R496). -/
def opInfo (unit op : Nat) : Option OpInfo :=
  let one (rep : Bool) (u : U1Use) : Option OpInfo := some ⟨false, rep, u⟩
  let two (u : U1Use) : Option OpInfo := some ⟨true, false, u⟩
  match unit with
  | 0 => if op ≤ 0x10 then one false .yes else none
  | 1 => if op = 1 ∨ op = 2 ∨ op = 4 ∨ op = 5 then one false .yes else if op = 3 ∨ op = 6 ∨ op = 7 then one false .no else none
  | 2 => if op = 1 then two .yes else if op = 2 ∨ op = 3 then one true .yes else if op = 4 ∨ op = 5 then one true .no
         else if op = 0x40 then one true .only else none
  | 3 | 4 => if op = 1 then one true .yes else if op = 2 ∨ op = 3 then one true .no
         else if 4 ≤ op ∧ op ≤ 7 then one false .yes else none
  | 5 => if op = 1 then one true .yes else if op = 2 then two .no else if op = 3 then one false .yes
         else if op = 4 ∨ op = 5 then one false .no else none
  | 6 => if 1 ≤ op ∧ op ≤ 7 then one true .yes else if op = 8 ∨ op = 9 then one true .no
         else if 0xA ≤ op ∧ op ≤ 0xC then one false .yes else if op = 0xD then two .yes else if op = 0xE then two .no
         else if op = 0x40 then one true .only else none
  | 7 => if op = 1 then two .yes else if op = 2 then one true .yes else none
  | 8 => if op = 1 then two .no else if op = 2 then one true .no else if op = 3 then one false .no else none
  | 9 => if op = 1 then two .yes else if op = 2 ∨ op = 4 ∨ op = 5 ∨ op = 7 then one false .yes else if op = 3 then one true .yes
         else if op = 6 then one true .no else if op = 0x40 then one true .only else none
  | _ => none

/-- The word, from its first half, is double width (R182). -/
def wDouble (w : CWord) : Bool := (opInfo (wUnit w) (wOp w)).elim false OpInfo.dbl

/-! ### Which queues a word pops and pushes -/

/-- VEC.EW functions of two inputs, and of c (R196). -/
def ewUsesB (fn : Nat) : Bool := (1 ≤ fn && fn ≤ 6) || fn = 0x12
def ewUsesC (fn : Nat) : Bool := fn = 4 || fn = 0x12

/-- The word pops INA (R140, R188 to R203); an EX.COLL does when its descriptor is of KIND NORM (R354, R381). -/
def popsA (w : CWord) : Bool :=
  let op := wOp w
  match wUnit w with
  | 0 => op = 0xA
  | 3 | 4 => op = 1 || op = 3
  | 5 => (op = 1 && wbit w 64) || op = 4
  | 6 => (1 ≤ op && op ≤ 5) || (7 ≤ op && op ≤ 0xA) || op = 0x40
  | 7 => op = 2
  | 8 => op = 2 || op = 3
  | 9 => op = 4 || op = 6 || op = 7 || op = 0x40
  | _ => false

/-- The word pops INB. -/
def popsB (w : CWord) : Bool :=
  let op := wOp w
  match wUnit w with
  | 3 | 4 => op = 1 || op = 2
  | 5 => op = 1 && wbits w 69 2 = 1 && wbits w 65 4 ≠ 0
  | 6 => (op = 1 && ewUsesB (wbits w 64 8)) || (5 ≤ op && op ≤ 8) || op = 0x40
  | _ => false

/-- The layout of the operation has the INA, INB or OUT field (R140, R184). -/
def usesA (w : CWord) : Bool := popsA w
def usesB (w : CWord) : Bool := popsB w || (wUnit w = 6 && wOp w = 1)
def usesOut (w : CWord) : Bool :=
  let op := wOp w
  match wUnit w with
  | 2 => 2 ≤ op
  | 5 => op = 1 || op = 5
  | 6 => op = 1 || op = 2 || (4 ≤ op && op ≤ 6) || op = 8 || op = 9 || op = 0x40
  | 9 => 5 ≤ op
  | _ => false

/-! ### Reserved bits and values (R184, R188 to R199) -/

/-- The operation's own fields that are in use, and its enumerated fields that hold a reserved value, as (lowest bit, length). -/
structure Layout where
  used : List (Nat × Nat)
  bad : List (Nat × Nat) := []
  deriving DecidableEq, Repr

/-- A field in use under a condition. -/
def whenField (b : Bool) (lo len : Nat) : List (Nat × Nat) := if b then [(lo, len)] else []
def whenBad (b : Bool) (lo len : Nat) : List (Nat × Nat) := if b then [(lo, len)] else []

/-- An ILEV field holds a reserved value (R186). -/
def badIlev (w : CWord) (lo : Nat) : List (Nat × Nat) := let v := wbits w lo 3; whenBad (1 ≤ v && v ≤ 3) lo 3
/-- A DDEV field holds a reserved value (R199). -/
def badDev (w : CWord) (lo : Nat) : List (Nat × Nat) := let v := wbits w lo 8; whenBad (0x40 ≤ v && v ≤ 0xFE) lo 8

def layoutSeq (w : CWord) : Layout :=
  match wOp w with
  | 0x1 => ⟨[(71, 1), (70, 1), (66, 4)] ++ whenField (!wbit w 71) 62 4 ++ whenField (!wbit w 71) 58 4,
      whenBad (!wbit w 71 && 0xA ≤ wbits w 62 4) 62 4 ++ whenBad (!wbit w 71 && 0xA ≤ wbits w 58 4) 58 4⟩
  | 0x2 => ⟨[(67, 5), (51, 16), (35, 16), (27, 8), (23, 4)], whenBad (0xA ≤ wbits w 23 4) 23 4⟩
  | 0x3 => ⟨[(67, 5), (59, 8)], []⟩
  | 0x5 => ⟨[(71, 1), (20, 24)] ++ whenField (wbit w 71) 68 3 ++ whenField (!wbit w 71) 44 24, []⟩
  | 0x6 => ⟨[(48, 24)], []⟩
  | 0x7 => ⟨[(68, 4), (63, 5), (39, 24)], whenBad (6 ≤ wbits w 68 4) 68 4⟩
  | 0x8 => ⟨[(69, 3), (45, 24)], []⟩
  | 0x9 => ⟨[(69, 3), (45, 24)], []⟩
  | 0xA => ⟨[(69, 3)], []⟩
  | 0xB => ⟨[(0, 12)], []⟩
  | 0xC => ⟨[(71, 1)], []⟩
  | 0xF => ⟨[(56, 16)], whenBad (wbits w 56 16 = 0xFFFF) 56 16⟩
  | _ => ⟨[], []⟩

def layoutStream (w : CWord) : Layout :=
  match wOp w with
  | 1 => ⟨[(49, 23)], []⟩
  | 2 => ⟨[(52, 20)], badIlev w 64⟩
  | 3 => ⟨[(61, 11)], []⟩
  | 4 | 5 => ⟨(71, 1) :: whenField (!wbit w 71) 55 16, []⟩
  | _ => ⟨[(40, 32)], []⟩

/-- The second half of an AGSET word (R190). -/
def agDims : List (Nat × Nat) := [(128, 128)]

def layoutLoad (w : CWord) : Layout :=
  let hin := wbit w 59
  match wOp w with
  | 1 => ⟨[(40, 32)] ++ agDims, whenBad (2 ≤ wbits w 66 2) 66 2 ++ whenBad (wbits w 64 2 = 3) 64 2⟩
  | 2 => ⟨[(64, 8), (59, 1), (52, 4), (48, 3), (36, 4)] ++ whenField hin 56 3 ++ whenField hin 51 1 ++ whenField (isMx (wbits w 64 4)) 44 4,
      badIlev w 48 ++ whenBad (wbits w 38 2 = 3) 38 2 ++ whenBad (wbits w 36 2 = 3) 36 2⟩
  | 3 => ⟨[(60, 12), (59, 1), (52, 4), (48, 3), (36, 4)] ++ whenField hin 56 3 ++ whenField hin 51 1 ++ whenField (isMx (wbits w 64 4)) 44 4
        ++ whenField (isMx (wbits w 60 4)) 40 4,
      badIlev w 48 ++ whenBad (wbits w 38 2 = 3) 38 2 ++ whenBad (wbits w 36 2 = 3) 36 2⟩
  | 4 => ⟨[(64, 8), (59, 1), (52, 4), (48, 3)] ++ whenField hin 56 3 ++ whenField hin 51 1
        ++ whenField (isMx (wbits w 64 4)) 44 4, badIlev w 48⟩
  | 5 => ⟨[(60, 12), (48, 3)], badIlev w 48⟩
  | _ => ⟨[(64, 8), (48, 3)], badIlev w 48⟩

def layoutEng (w : CWord) : Layout :=
  let start := wbits w 47 3
  let fin := wbits w 45 2
  let pre := start = 1 || start = 2
  match wOp w with
  | 1 => ⟨[(45, 27)] ++ whenField (start = 3 || fin = 2) 42 3 ++ whenField pre 38 4 ++ whenField pre 34 4,
      whenBad (wbits w 70 2 = 3 && !wU1 w) 70 2 ++ whenBad (5 ≤ start) 47 3 ++ whenBad (fin = 3) 45 2⟩
  | 2 => ⟨[(70, 2), (62, 4)], whenBad (wbits w 70 2 = 3) 70 2⟩
  | 3 => ⟨[(42, 30), (31, 3)], whenBad (wbits w 70 2 = 3) 70 2 ++ whenBad (fin = 3) 45 2⟩
  | op => ⟨[(70, 2), (66, 2 ^ (wbits w 70 2 % 3)), (42, 3)] ++ whenField (op = 5 || op = 6) 24 14, whenBad (wbits w 70 2 = 3) 70 2⟩

def layoutDrain (w : CWord) : Layout :=
  match wOp w with
  | 1 => ⟨[(64, 8), (61, 1), (47, 10)] ++ whenField (wbit w 64) 62 2 ++ whenField (wbit w 61) 57 4 ++ whenField (wbit w 47) 43 4,
      whenBad (2 ≤ wbits w 69 2) 69 2 ++ whenBad (0xB ≤ wbits w 65 4) 65 4 ++ whenBad (wbit w 64 && wbits w 62 2 = 3) 62 2⟩
  | 2 => ⟨[(7, 65), (176, 80)], []⟩
  | 3 => ⟨[(69, 3)] ++ (if wbits w 69 3 = 5 then [(0, 8)] else [(0, 32)]), whenBad (6 ≤ wbits w 69 3) 69 3⟩
  | 4 => ⟨[(70, 2)], []⟩
  | _ => ⟨[(68, 4)], []⟩

/-- The vector operation pushes to OUT, so FMT_O, RND and SATFINITE are in use (R195). -/
def vecPushes (op : Nat) : Bool := op = 1 || op = 2 || (4 ≤ op && op ≤ 6) || op = 8 || op = 9 || op = 0x40

def layoutVec (w : CWord) : Layout :=
  let op := wOp w
  let fn := wbits w 64 8
  if op = 0xD then ⟨[(68, 3), (0, 52)] ++ agDims, []⟩
  else if op = 0xE then ⟨[(7, 64), (176, 80)], []⟩
  else if op = 0xA then ⟨[(60, 4)], []⟩
  else
    let fnUsed := match op with
      | 1 | 3 | 5 | 0x40 => [(64, 8)]
      | 2 => [(71, 1), (64, 2)]
      | 8 | 0xB | 0xC => [(64, 1)]
      | _ => []
    let imm := (op = 1 && (fn = 7 || fn = 8)) || (op = 3 && fn ≠ 6 && fn ≠ 7) || op = 5 || op = 9 || op = 0x40
    ⟨fnUsed ++ [(60, 4), (51, 1)] ++ whenField (vecPushes op) 56 4 ++ whenField (wbit w 51) 52 4
        ++ whenField (vecPushes op) 49 2 ++ whenField (op = 6 || op = 7 || op = 0xB || op = 0xC) 46 3
        ++ whenField (op = 8 || op = 9) 40 6 ++ whenField imm 0 32,
      whenBad ((op = 1 && 0x13 ≤ fn) || (op = 3 && 8 ≤ fn) || (op = 5 && 2 ≤ fn) || (op = 0x40 && 2 ≤ fn)) 64 8⟩

def layoutWrite (w : CWord) : Layout :=
  match wOp w with
  | 1 => ⟨[(40, 32)] ++ agDims, whenBad (2 ≤ wbits w 66 2) 66 2 ++ whenBad (wbits w 64 2 = 3) 64 2⟩
  | _ => ⟨[(61, 11), (59, 1), (52, 4), (48, 3)] ++ whenField (wbit w 59) 56 3 ++ whenField (wbit w 59) 51 1
      ++ whenField (wbit w 59 && wbit w 51) 45 3, badIlev w 48⟩

def layoutUpd (w : CWord) : Layout :=
  match wOp w with
  | 1 => ⟨[(70, 2), (0, 64), (128, 128)], []⟩
  | 2 => ⟨[(0, 72)], whenBad (5 ≤ wbits w 69 3) 69 3 ++ whenBad (wbits w 65 2 = 3) 65 2⟩
  | _ => ⟨[(0, 32)], []⟩

def layoutExch (w : CWord) : Layout :=
  match wOp w with
  | 1 => ⟨[(46, 26), (206, 50)], badDev w 54⟩
  | 2 => ⟨[(47, 25)], badDev w 50⟩
  | 3 => ⟨[(39, 33)], []⟩
  | 4 => ⟨[(42, 30)], badDev w 54⟩
  | 5 => ⟨(41, 1) :: whenField (!wbit w 41) 42 4, []⟩
  | 6 => ⟨[(70, 2)] ++ whenField (!wbit w 70) 62 8 ++ whenField (wbit w 70) 54 8, []⟩
  | 7 => ⟨[(64, 8)], []⟩
  | _ => ⟨[(62, 8)], []⟩

def layoutOf (w : CWord) : Layout :=
  match wUnit w with
  | 0 => layoutSeq w
  | 1 => layoutStream w
  | 2 => layoutLoad w
  | 3 | 4 => layoutEng w
  | 5 => layoutDrain w
  | 6 => layoutVec w
  | 7 => layoutWrite w
  | 8 => layoutUpd w
  | _ => layoutExch w

/-- Bits of a field list as a mask. -/
def maskOf (l : List (Nat × Nat)) : Nat := l.foldl (fun m x => m ||| ((2 ^ x.2 - 1) <<< x.1)) 0

/-- The lowest set bit below n. -/
def lowestBit (n x : Nat) : Option Nat := (List.range n).find? fun i => bitAt x i

/-- The bits of a word that are in use. -/
def usedBits (w : CWord) (i : OpInfo) : Nat :=
  let common := [(112, 16), (72, 12)] ++ whenField i.rep 96 16 ++ whenField (usesA w) 92 4 ++ whenField (usesB w) 88 4
    ++ whenField (usesOut w) 84 4
  maskOf (common ++ (layoutOf w).used)

/-- Step 4 of R137: the number of the lowest offending bit. `tok`: token mode; `norm`: the descriptor of an EX.COLL is of KIND NORM, so that it
pops INA (R155, R354). A U1 word is checked in [127:84] and REPEAT only (R200). -/
def rsvBit (w : CWord) (i : OpInfo) (tok norm : Bool) : Option Nat :=
  let l := layoutOf w
  let all := if i.dbl then w.toNat else w.toNat % 2 ^ 128
  let set := all - (all &&& usedBits w i)
  let set := if wU1 w then (set >>> 84 <<< 84) % 2 ^ 128 else set
  let pops := popsA w && (norm || !(wUnit w = 9 && wOp w = 7))
  let tokBad := if tok then whenBad (wTokA w ≠ 0 && !pops) 80 4 ++ whenBad (wTokB w ≠ 0 && !popsB w) 76 4 else []
  let low := match lowestBit 256 set with
    | some b => [b]
    | none => []
  let bad := if wU1 w then [] else l.bad
  match (low ++ (bad ++ tokBad).map Prod.fst) with
  | [] => none
  | x :: xs => some (xs.foldl min x)

/-- A word as its unit reads it: in a U1 word the bits that are ignored (R200) read 0, and so does a field that holds a reserved value
(log 20). -/
def CWord.seen (w : CWord) : CWord :=
  if !wU1 w then w
  else
    match opInfo (wUnit w) (wOp w) with
    | none => w
    | some i => BitVec.ofNat 256 (let x := w.toNat &&& usedBits w i; x - (x &&& maskOf (layoutOf w).bad))

/-! ### Checks of the operation's own fields (R137, step 5) -/

/-- A legal engine operand pair (R47). -/
def legalPair (a b : Nat) : Bool := (a ≤ 9 && b ≤ 9) || (0xA ≤ a && a ≤ 0xB && 0xA ≤ b && b ≤ 0xB)

/-- Rate of a pair (R48). -/
def pairRate (a b : Nat) : Nat := min (fmtRate a) (fmtRate b)

/-- NUMFMT_PAIR information (R171): check, and the two codes. -/
def numfmt (check a b : Nat) : Nat × Nat := (0x0A, a + b * 16 + check * 256)

/-- ILLEGAL_OP with its information. -/
def illegal (w : CWord) : Nat × Nat := (0x01, wOp w + wUnit w * 256)

/-- The rate an LD.VEC names (R495). -/
def ldVecRate (w : CWord) : Nat :=
  let f := wbits w 64 4
  let r := if wU1 w then 0 else wbits w 36 2
  if r = 1 then 1 else if r = 2 then 2 else if f = 0xC ∨ f = 0xD ∨ f = 0xE then 1 else fmtRate f

/-- ILLEGAL_OP checks that need no run-time state. R495 says of FP32 and the Felt formats that RATE must be 0b00 or 0b01 and names no reason:
0b10 halts with ILLEGAL_OP, as a rate above the format's own does (DESIGN CHOICE, log 142; unsafe). -/
def staticIllegal (w : CWord) : Bool :=
  let op := wOp w
  match wUnit w with
  | 0 => (op = 1 && wbit w 70 && 8 ≤ wbits w 66 4) || (op = 3 && wbits w 59 8 = 0) || (op = 5 && wbits w 20 24 = 0)
      || (op = 7 && (wbits w 68 4 = 4 || wbits w 68 4 = 5) && 8 ≤ wbits w 63 5)
  | 1 => op = 1 && !wbit w 66 && 16384 ≤ wbits w 49 17
  | 2 => (op = 1 && ((wbits w 64 2 ≠ 0 && wbits w 66 2 = 1) || wbit w 40))
      || (op = 2 && (let f := wbits w 64 4; f ≠ 0xF && (fmtRate f < ldVecRate w || (0xC ≤ f && 1 < ldVecRate w))))
      || (op = 3 && (wbits w 68 4 = 15 || wOut w = 15)) || (op = 5 && wOut w = wbits w 60 4)
  | 3 | 4 => (op = 2 && wRep w ≠ 15) || (4 ≤ op && wbits w 66 (2 ^ (wbits w 70 2 % 3)) = 0) || ((op = 5 || op = 6) && 16253 < wbits w 24 14)
      || (op = 1 && wU1 w && (wbit w 50 || wbits w 70 2 ≠ 0))
  | 5 => op = 1 && wbits w 69 2 = 1 && (wbit w 64 || wbit w 61)
  | 6 => ((op = 8 || op = 9) && wOut w = 15)
      || (wbit w 51 && op ≠ 1 && op ≠ 5 && op ≠ 0x40 && op ≤ 0xC)
      || (op = 0x40 && (!wbit w 51 || wOut w = 15))
  | 7 => op = 1 && ((wbits w 64 2 ≠ 0 && wbits w 66 2 = 1) || wbit w 40)
  | _ => false

/-- NUMFMT_PAIR checks that need no run-time state (R47, R83, R124, R192, R195, R200). -/
def staticFmt (w : CWord) : Option (Nat × Nat) :=
  let op := wOp w
  let u1 := wU1 w
  match wUnit w with
  | 2 =>
    let f := wbits w 64 4
    if op = 2 then (if f = 0xF then some (numfmt 4 f 0) else none)
    else if op = 3 then (let g := wbits w 60 4; if legalPair f g then none else some (numfmt 5 f g))
    else if op = 4 then (if f = 4 ∨ f = 5 ∨ f = 9 then none else some (numfmt 4 f 0))
    else if op = 5 then (if f ≤ 3 ∨ f = 0xA then none else some (numfmt 4 f 0))
    else if op = 0x40 then (if f ≤ 1 then none else some (numfmt 4 f 0))
    else none
  | 3 | 4 =>
    let a := wbits w 66 4
    let b := wbits w 62 4
    if op = 1 ∨ op = 3 then
      if !legalPair a b then some (numfmt 0 a b)
      else if u1 && isMx a then some (numfmt 9 a 0)
      else if u1 && isMx b then some (numfmt 9 b 0)
      else if op = 1 then
        let pre := wbits w 34 4
        if (wbits w 47 3 = 1 ∨ wbits w 47 3 = 2) ∧ ¬(pre = 0 ∨ pre = 1 ∨ pre = 0xC) then some (numfmt 1 pre 0) else none
      else none
    else none
  | 5 =>
    if op = 1 then
      let o := wbits w 52 4
      if 0xD ≤ o then some (numfmt 2 o 0) else if u1 && isMx o then some (numfmt 9 o 0) else none
    else none
  | 6 =>
    if op ≤ 0xC ∨ op = 0x40 then
      let i := wbits w 60 4
      let o := wbits w 56 4
      if ¬(i = 0 ∨ i = 1 ∨ i = 0xC) then some (numfmt 7 i 0)
      else if vecPushes op && 0xD ≤ o then some (numfmt 8 o 0)
      else none
    else none
  | _ => none

/-- The checks of R137 in order: reason and HALT_INFO of the first that fails. `tok`: token mode; `norm`: see `rsvBit`. -/
def checkWord (w : CWord) (tok norm : Bool) : Option (Nat × Nat) :=
  if wFmt w ≠ 2 ∧ wFmt w ≠ 1 then some (0x03, wFmt w)
  else if 0xA ≤ wUnit w then some (0x04, wUnit w * 2 ^ 16)
  else
    match opInfo (wUnit w) (wOp w) with
    | none => some (illegal w)
    | some i =>
      if (wU1 w && (tok || i.u1 = .no || wUnit w = 8)) || (!wU1 w && i.u1 = .only) then some (illegal w)
      else
        match rsvBit w i tok norm with
        | some b => some (0x02, b)
        | none =>
          if staticIllegal w then some (illegal w)
          else if wUnit w = 0 && wOp w = 1 && !wbit w 71 && wbits w 62 4 = wbits w 58 4 then
            some (0x05, wbits w 66 4 + (if wbit w 70 then 16 else 0) + 0x3000)
          else staticFmt w

end Sys2Proof.Machine
end

