-- ==== Sys2Proof/Machine/Sequencer.lean ====
section
/-! DEFINITION. The sequencer (05): fetching and dispatching words, the SEQ operations, loops and branches, restart, stop and step repeat,
watchdog and completion of a core. -/

namespace Sys2Proof.Machine

/-- Counters of the sequencer block (R180), by offset in the core's block. -/
def cDispatched : Nat := 0x1300
def cDispStall : Nat := 0x1304
def cFetchMiss : Nat := 0x1308
def cBarWait : Nat := 0x130C
def cTokWait : Nat := 0x1310
def cLoopZero : Nat := 0x1314

/-! ### Fetch (R138) -/

/-- The device byte address of a control-word address (48 bits of it). -/
def wordAddr (pc : Nat) : Nat := pc % 2 ^ 48 * 16

/-- A line of the fetch buffer. -/
def Core.fetchLine (c : Core) (line : Nat) : Option FetchLine := c.seq.fetch.find? fun x => x.line = line

/-- A line becomes the most recently used. -/
def Core.touchLine (c : Core) (line : Nat) : Core :=
  match c.fetchLine line with
  | some x => c.modSeq fun q => { q with fetch := (q.fetch.filter fun y => y.line ≠ line) ++ [x] }
  | none => c

/-- Put a line into the buffer of 32 lines, over the least recently used (R138). -/
def Core.fillLine (c : Core) (x : FetchLine) : Core :=
  c.modSeq fun q =>
    let l := q.fetch.filter fun y => y.line ≠ x.line
    { q with fetch := (if 32 ≤ l.length then l.drop 1 else l) ++ [x] }

/-- The channel of an object's byte, when the object is in T2 or T3 (R279). -/
def State.objChan (s : State) (obj ofs : Nat) : Option Nat :=
  let e := s.objEnt obj
  if e.tier = 0 then none else (s.stripeMap e.stripe (e.start + ofs)).map Prod.fst

/-- Ask for a line: a miss counts; a fetch from T2 takes a DMA segment (R279). `demand`: a word waits for it. R138 and R180 do not say whether a
word that finds its line being prefetched missed: it is not counted (DESIGN CHOICE, log 145; unsafe). -/
def State.askLine (s : State) (p line : Nat) (demand : Bool) : State :=
  let c := s.core p
  match c.seq.fills.find? fun f => f.line = line with
  | some f =>
    if demand && !f.demand then
      s.setCore p (c.modSeq fun q => { q with fills := q.fills.map fun g => if g.line = line then { g with demand := true } else g })
    else s
  | none =>
    let a := line * 512
    let seg := (s.findObj a).bind fun o => (s.objChan o (a - (s.objEnt o).start)).map fun ch => (o, ch)
    let c : Core := match seg with
      | some (o, ch) => { c with dmaQ := c.dmaQ ++ [({ ch := ch, owner := .fetch line, prio := 3, obj := o, addr := a, write := false, epoch := s.epoch } : DmaSeg)] }
      | none => c
    let c := c.modSeq fun q => { q with fills := q.fills ++ [({ line := line, demand := demand, segs := if seg.isSome then 1 else 0 } : FetchFill)] }
    s.setCore p (if demand then c.bump cFetchMiss 1 else c)

/-- The 16 bytes of a control-word address in a line. -/
def FetchLine.word (x : FetchLine) (pc : Nat) : Nat := numOf ((x.bytes.drop (pc % 32 * 16)).take 16)

/-- What a fetch answers. -/
inductive Fetched where
  | word (w : CWord)
  | poison
  | miss (line : Nat)
  deriving DecidableEq, Repr

/-- Fetch the word at a control-word address from the buffer: both halves of a double-width word (R181, R182). A branch onto a second half whose
own UNIT and OP name a double-width operation: R182 says both that such a word is double width and that the half is decoded as a single-width
word; it is taken as double width (DESIGN CHOICE, log 146; unsafe). -/
def Core.fetchAt (c : Core) (pc : Nat) : Fetched :=
  match c.fetchLine (pc / 32) with
  | none => .miss (pc / 32)
  | some x =>
    if x.poison then .poison
    else
      let lo := x.word pc
      let w : CWord := BitVec.ofNat 256 lo
      if !wDouble w then .word w
      else
        let pc2 := (pc + 1) % 2 ^ 48
        match c.fetchLine (pc2 / 32) with
        | none => .miss (pc2 / 32)
        | some y => if y.poison then .poison else .word (BitVec.ofNat 256 (lo + y.word pc2 * 2 ^ 128))

/-- FETCH_FILL (R138): the fill of a line returns. A denied fetch freezes and a poisoned one halts the core when a word waits for it;
a prefetch that is denied is dropped, and one that is poisoned stays marked until a word is fetched from it (log 22). -/
def execFetchFill (c line : Nat) (s : State) : Out :=
  .next <| s.onCore c fun s p k =>
    match k.seq.fills.find? fun f => f.line = line with
    | none => s
    | some f =>
      if f.segs ≠ 0 then s
      else
        let k := k.modSeq fun q => { q with fills := q.fills.filter fun g => g.line ≠ line }
        let s := s.setCore p k
        let a := line * 512
        match s.checkAddr (.core c) false true a 512 with
        | .error (r, o) => if f.demand && k.active then s.freeze p { unit := 0, reason := r, obj := o, addr := a } else s
        | .ok (o, ofs) =>
          let r := s.coreRead p o ofs 512
          let pz := r.1.any Prod.snd
          if pz && f.demand && k.active then
            r.2.halt p { pc := k.seq.pc, unit := 0, reason := 0x0C, seqno := 0, info := 7 }
          else r.2.modCore p fun k => k.fillLine { line := line, bytes := r.1.map Prod.fst, poison := pz }

/-! ### Loops and the next address (R160 to R162) -/

/-- Words of a word: 1 or 2. -/
def wWidth (w : CWord) : Nat := if wDouble w then 2 else 1

/-- The loop stack, innermost first, after the word that occupies [pc, pc + n) has been dispatched, and the next address (R160, R183). -/
def loopNext : List LoopEnt → Nat → Nat → List LoopEnt × Nat
  | [], pc, n => ([], pc + n)
  | l :: t, pc, n =>
    if pc ≤ l.endA && l.endA < pc + n then
      if l.remain = 1 then loopNext t pc n
      else ({ l with remain := l.remain - 1, idx := l.idx + 1 } :: t, l.body)
    else (l :: t, pc + n)

/-- Move on past the word at pc (R136, R160). -/
def Core.advance (c : Core) (n : Nat) : Core :=
  let r := loopNext c.seq.loops.reverse c.seq.pc n
  c.modSeq fun q => { q with loops := r.1.reverse, pc := r.2 % 2 ^ 48 }

/-- Loops, innermost first, left when a branch goes to an address (R162). -/
def popLoops : List LoopEnt → Nat → List LoopEnt
  | [], _ => []
  | l :: t, a => if l.body ≤ a && a ≤ l.endA then l :: t else popLoops t a

/-- A branch to an address (R162); a branch at END is a dispatch of the word there, which lowers the count (R160; log 71). -/
def Core.branch (c : Core) (a : Nat) : Core :=
  c.modSeq fun q => { q with loops := (popLoops (loopNext q.loops.reverse q.pc 1).1 a).reverse, pc := a }

/-- The target of a signed 24-bit word offset. -/
def target (pc ofs : Nat) : Nat := (((pc : Int) + signedOf 24 ofs) % (2 ^ 48 : Nat)).toNat

/-- The first half of the word at an address: from the fetch buffer, else from memory (log 23). -/
def State.codeWord (s : State) (p pc : Nat) : CWord :=
  match (s.core p).fetchLine (pc / 32) with
  | some x => BitVec.ofNat 256 (x.word pc)
  | none =>
    match s.findObj (wordAddr pc) with
    | none => 0
    | some o => BitVec.ofNat 256 (numOf ((s.objRead o (wordAddr pc - (s.objEnt o).start) 16).1.map Prod.fst))

/-- The address after the word that occupies END, walking the body word by word (R160; log 23). -/
def State.afterEnd (s : State) (p endA : Nat) : Nat → Nat → Nat
  | 0, pc => pc
  | fuel + 1, pc =>
    let n := wWidth (s.codeWord p pc)
    if endA < pc + n then pc + n else s.afterEnd p endA fuel (pc + n)

/-! ### Dispatch (R136) -/

/-- Depth of a control queue (R135, R110). -/
def cqDepth (q : Nat) : Nat :=
  match q with
  | 0 => 1 | 1 => 16 | 2 => 32 | 3 => 16 | 4 => 16 | 5 => 8 | 10 => 8 | 6 => 32 | 7 => 16 | 8 => 8 | _ => 16

/-- A fence word of the drain (R110). -/
def isFence (w : CWord) : Bool := wUnit w = 5 && 3 ≤ wOp w

/-- Entries that the words waiting in a queue take; a started word has left it (R141). -/
def Core.occ (c : Core) (q : Nat) : Nat := (c.words q).foldl (fun n e => if e.started then n else n + wWidth e.word) 0

/-- Control queues that a word goes to. -/
def queuesOf (w : CWord) : List Nat :=
  if wUnit w = 5 then (if isFence w then [5, 10] else if wbit w 71 then [10] else [5]) else [wUnit w]

/-- The ILEV field of a word, where the operation has one (R186). -/
def ilevOf (w : CWord) : Nat :=
  match wUnit w with
  | 1 => if wOp w = 2 then wbits w 64 3 else 0
  | 2 => if wOp w = 1 then 0 else wbits w 48 3
  | 7 => if wOp w = 2 then wbits w 48 3 else 0
  | _ => 0

/-- The word sequence numbers dispatched and not completed are at the limit of token mode (R157). -/
def Core.tokFull (c : Core) : Bool := c.seq.mode && 32 ≤ c.seq.live.length

/-- Dispatch may go on: RUNNING, no stop, no END, no SEQ word in hand, no preemption (R136, R159, R174, R429). -/
def Core.canDispatch (c : Core) : Bool :=
  c.active && !c.seq.stopping && !c.seq.ending && c.seq.cur.isNone && c.preOk

/-- A word for an engine that ramps down, or that waits for a stop slot, keeps it active (R106, R469). -/
def Core.wakeEngine (c : Core) (q : Nat) : Core :=
  if q = 3 ∨ q = 4 then
    let g := c.eng (q - 3)
    c.setEng (q - 3) { g with act := if g.act = .down then .up else g.act, stopReq := false }
  else c

/-- The descriptor of an EX.COLL is of KIND NORM (R354, R355). -/
def State.collNorm (s : State) (w : CWord) : Bool :=
  wUnit w = 9 && wOp w = 7 && bitsOf (aget 0 s.regs (0x344000 + 64 * wbits w 64 8)).toNat 0 3 = 3

/-- Dispatch a checked word. -/
def Core.dispatchWord (c : Core) (w : CWord) (p : Nat) (s : State) : State :=
  let qs := queuesOf w
  let il := ilevOf w
  if wUnit w = 0 then s.setCore p (c.modSeq fun q => { q with cur := some { word := w, pc := q.pc } })
  else if qs.any fun q => cqDepth q < c.occ q + wWidth w then s.setCore p (c.bump cDispStall 1)
  else
    let lv := c.seq.loops[il - 4]?
    if 4 ≤ il && lv.isNone then
      s.halt p { pc := c.seq.pc, unit := wUnit w, reason := 0x01, seqno := 0, info := (illegal w).2 }
    else
      let e : Cqe := { word := w, seqno := c.seq.seqno, pc := c.seq.pc, ilev := if 4 ≤ il then (lv.elim 0 LoopEnt.idx) else 0 }
      let c := qs.foldl (fun c q => (c.setWords q (c.words q ++ [e])).wakeEngine q) c
      let c := c.modSeq fun q => { q with seqno := (q.seqno + 1) % 65536, live := q.live ++ [q.seqno] }
      s.setCore p ((c.bump cDispatched 1).advance (wWidth w))

/-- Fetch the word at SEQ_PC, check it, and dispatch it (R136, R137). -/
def State.dispatch (s : State) (p : Nat) : State :=
    let k := s.core p
    if !k.canDispatch then s
    else if k.tokFull then s.bumpCore p cTokWait 1
    else
      match k.fetchAt k.seq.pc with
      | .miss line => s.askLine p line true
      | .poison => s.halt p { pc := k.seq.pc, unit := 0, reason := 0x0C, seqno := 0, info := 7 }
      | .word w =>
        let k := (k.touchLine ((k.seq.pc + (wWidth w - 1)) % 2 ^ 48 / 32)).touchLine (k.seq.pc / 32)
        let next := k.seq.pc / 32 + 1
        let s := s.setCore p k
        let s := if (k.fetchLine next).isNone then s.askLine p next false else s
        match checkWord w k.seq.mode (s.collNorm w) with
        | some (r, info) => s.halt p { pc := k.seq.pc, unit := wUnit w, reason := r, seqno := 0, info := info }
        | none => (s.core p).dispatchWord (CWord.seen w) p s

/-- DISPATCH (R136, R137, R170). -/
def execDispatch (c : Nat) (s : State) : Out :=
  .next <| s.onCore c fun s p k => if k.seq.state = .halted then s.sameCycle p 0 fun s => s.dispatch p else s.dispatch p

/-! ### SEQ words -/

/-- The halt record of the SEQ word in hand: its number is the one it would take (log 24). -/
def Core.seqHalt (c : Core) (reason info : Nat) : HaltRec :=
  { pc := c.seq.pc, unit := 0, reason := reason, seqno := c.seq.seqno, info := info }

/-- The word d back has completed, or d is 0 (R155, R157). -/
def Core.tokDone (c : Core) (seqno d : Nat) : Bool := d = 0 || !c.seq.live.contains ((seqno + 65536 - d) % 65536)

/-- The wait of a SEQ word (R148, R149, R156). -/
inductive Wait where
  | ready (c : Core)
  | wait (ctr : Nat)
  | halt (reason info : Nat)

def Core.seqWait (c : Core) (w : CWord) : Wait :=
  if c.seq.mode then (if c.tokDone c.seq.seqno (wTokM w) then .ready c else .wait cTokWait)
  else if !wWaitEn w then .ready c
  else
    let b := wWaitBar w
    let x := c.bar b
    if x.adv ≠ 0 && x.owner ≠ 0 then .halt 0x07 b
    else if !x.ok then .wait cBarWait
    else .ready (c.setBar b { x with target := (x.target + x.adv) % 65536 })

/-- The SEQ word in hand takes its number and leaves; its signal is issued (R136, R159). `jump`: the address of a taken branch. -/
def Core.seqDone (c : Core) (jump : Option Nat) : Core :=
  let c := match jump with
    | some a => c.branch a
    | none => c.advance 1
  (c.modSeq fun q => { q with seqno := (q.seqno + 1) % 65536, cur := none }).bump cDispatched 1

/-- Issue a completed word's signal in barrier mode (R141, R150). -/
def State.wordSignal (s : State) (p : Nat) (w : CWord) (r : HaltRec) : State :=
  if wSigEn w && !(s.core p).seq.mode then s.signal p (wSigBar w) 1 r else s

/-- The core of a SEQ word of operation `op`, its wait met: `eff` makes its effect. -/
def State.onSeq (s : State) (c op : Nat) (eff : State → Nat → Core → CWord → State) : State :=
  s.onCore c fun s p k =>
    match k.seq.cur with
    | none => s
    | some u =>
      if !k.active || !k.preOk || wOp u.word ≠ op then s
      else
        match k.seqWait u.word with
        | .wait ctr => s.bumpCore p ctr 1
        | .halt r info => s.halt p (k.seqHalt r info)
        | .ready k' => eff s p k' u.word

/-- A SEQ word whose effect is a change of the core alone. -/
def State.seqPlain (s : State) (c op : Nat) (eff : Core → CWord → Core) : State :=
  s.onSeq c op fun s p k w => (s.setCore p ((eff k w).seqDone none)).wordSignal p w (k.seqHalt 0 0)

def execNop (c : Nat) (s : State) : Out := .next (s.seqPlain c 0x0 fun k _ => k)

/-- Data queues that a word names (R144). -/
def dqNames (w : CWord) : List Nat :=
  let op := wOp w
  let a := if usesA w then [wIna w] else []
  let b := if usesB w then [wInb w] else []
  let o := if usesOut w then [wOut w] else []
  let pk := 2 ^ wbits w 70 2
  a ++ b ++ o ++
    (match wUnit w with
    | 2 => if op = 3 then [wOut w + 1] else if op = 5 then [wbits w 60 4] else []
    | 3 | 4 => (if op = 1 then (List.range pk).flatMap fun i => [wIna w + i, wInb w + i] else [])
        ++ (if op = 3 then (List.range pk).map fun i => wIna w + i else [])
        ++ (if op = 1 && (wbits w 47 3 = 1 || wbits w 47 3 = 2) then [wbits w 38 4] else [])
    | 5 => if op = 1 && wbit w 61 then [wbits w 57 4] else []
    | 6 => (if wbit w 51 then [wbits w 52 4] else []) ++ (if op = 8 || op = 0x40 then [wOut w + 1] else [])
    | _ => [])

/-- Fields of a stream descriptor (R269) by byte offset. -/
def sdField (d : BitVec 512) (byte len : Nat) : Nat := bitsOf d.toNat (8 * byte) (8 * len)

/-- The handle queues of a stream descriptor (R269). -/
def sdQueues (d : BitVec 512) : List Nat :=
  let fl := sdField d 4 2
  (if bitAt fl 1 then [bitsOf (sdField d 23 1) 0 3] else []) ++ (if bitAt fl 2 then [bitsOf (sdField d 23 1) 3 3] else [])

/-- The descriptor that a started STR.COPY has taken (R189). -/
def Cqe.desc (e : Cqe) : BitVec 512 := BitVec.ofNat 512 (e.vals.getD 1 0)

/-- Handle queues that a word in flight names; a started STR.COPY names those of the descriptor it took, one that has not started those of the
register, and any queue while an earlier STR.LDD has still to write that register. -/
def Core.hqNames (c : Core) (e : Cqe) : List Nat :=
  let w := e.word
  match wUnit w, wOp w with
  | 1, 2 =>
    let sd := wbits w 67 5
    if e.started then sdQueues e.desc
    else if ((c.words 1).takeWhile fun x => x.seqno ≠ e.seqno).any fun x => wOp x.word = 1 && !x.fin && wbits x.word 67 5 = sd then List.range 8
    else sdQueues (aget 0 c.sd sd)
  | 1, 3 => [wbits w 69 3]
  | 2, 2 | 2, 3 | 2, 4 => if wbit w 59 then [wbits w 56 3] else []
  | 7, 2 => if wbit w 59 then wbits w 56 3 :: (if wbit w 51 then [wbits w 45 3] else []) else []
  | 9, 2 => [wbits w 69 3]
  | 9, 3 => [wbits w 69 3, wbits w 66 3]
  | _, _ => []

/-- Words of every control queue. -/
def Core.allWords (c : Core) : List Cqe := c.cq.flatMap Prod.snd

/-- Q.BIND (R144). -/
def execQBind (c : Nat) (s : State) : Out :=
  .next <| s.onSeq c 0x1 fun s p k w =>
    let q := wbits w 66 4
    let bind := if wbit w 71 then none else some (wbits w 62 4, wbits w 58 4)
    if wbit w 70 then
      if k.allWords.any fun e => (k.hqNames e).contains q then s
      else
        let x := k.handleQ q
        if !x.ents.isEmpty then s.halt p (k.seqHalt 0x05 (q + 16 + 0x2000))
        else
          let back := x.recv.elim [] RecvEnd.reserved
          let k := k.setHandleQ q { bind := bind, early := x.early }
          let k := back.foldl (fun k i => match k.poolOf i with
            | some pl => { k with pools := aset k.pools pl (k.freeList pl ++ [i]) }
            | none => k) k
          (s.setCore p (k.seqDone none)).wordSignal p w (k.seqHalt 0 0)
    else
      if k.allWords.any fun e => (dqNames e.word).contains q then s
      else if !(k.dataQ q).ents.isEmpty then s.halt p (k.seqHalt 0x05 (q + 0x2000))
      else (s.setCore p ((k.setDataQ q { bind := bind }).seqDone none)).wordSignal p w (k.seqHalt 0 0)

/-- BAR.SET (R152). -/
def execBarSet (c : Nat) (s : State) : Out :=
  .next <| s.seqPlain c 0x2 fun k w =>
    k.setBar (wbits w 67 5) { count := wbits w 51 16, target := wbits w 35 16, adv := wbits w 27 8, owner := wbits w 23 4 }

/-- BAR.SIG (R159): an overrun halts by R151. -/
def execBarSig (c : Nat) (s : State) : Out :=
  .next <| s.onSeq c 0x3 fun s p k w =>
    let b := wbits w 67 5
    let x := k.bar b
    let n := wbits w 59 8
    if x.ok && 32768 ≤ x.dist + n then s.halt p (k.seqHalt 0x07 (b + 256))
    else (s.setCore p ((k.setBar b { x with count := (x.count + n) % 65536 }).seqDone none)).wordSignal p w (k.seqHalt 0 0)

/-- SYNC (R159). -/
def execSync (c : Nat) (s : State) : Out :=
  .next <| s.onSeq c 0x4 fun s p k w =>
    if k.synced then (s.setCore p (k.seqDone none)).wordSignal p w (k.seqHalt 0 0) else s

/-- LOOP (R160, R162). -/
def execLoop (c : Nat) (s : State) : Out :=
  .next <| s.onSeq c 0x5 fun s p k w =>
    let endA := (k.seq.pc + wbits w 20 24) % 2 ^ 48
    let outer := k.seq.loops.getLast?
    let src := if wbit w 71 then some (wbits w 68 3) else none
    let n := if wbit w 71 then k.seq.lc.getD (wbits w 68 3) 0 else wbits w 44 24
    if 4 ≤ k.seq.loops.length then s.halt p (k.seqHalt 0x06 4)
    else if endA < k.seq.pc || outer.any (fun l => decide (l.endA < endA)) then s.halt p (k.seqHalt 0x01 (illegal w).2)
    else if n = 0 then
      let next := s.afterEnd p endA (wbits w 20 24 + 1) (k.seq.pc + 1) % 2 ^ 48
      -- the skip leaves the loop stack as it is
      let k' := (k.modSeq fun q => { q with pc := next, seqno := (q.seqno + 1) % 65536, cur := none }).bump cDispatched 1
      (s.setCore p (k'.bump cLoopZero 1)).wordSignal p w (k.seqHalt 0 0)
    else
      let l : LoopEnt := { body := (k.seq.pc + 1) % 2 ^ 48, endA := endA, remain := n, idx := 0, src := src }
      let k' := k.modSeq fun q => { q with loops := q.loops ++ [l], pc := (q.pc + 1) % 2 ^ 48, seqno := (q.seqno + 1) % 65536, cur := none }
      (s.setCore p (k'.bump cDispatched 1)).wordSignal p w (k.seqHalt 0 0)

/-- BR (R162). -/
def execBr (c : Nat) (s : State) : Out :=
  .next <| s.onSeq c 0x6 fun s p k w =>
    (s.setCore p (k.seqDone (some (target k.seq.pc (wbits w 48 24))))).wordSignal p w (k.seqHalt 0 0)

/-- The condition of a BRC (R164). -/
def Core.brcHolds (c : Core) (w : CWord) : Bool :=
  let i := wbits w 63 5
  match wbits w 68 4 with
  | 0 => c.seq.flags.getLsbD i
  | 1 => !c.seq.flags.getLsbD i
  | 2 => (c.bar i).ok
  | 3 => !(c.bar i).ok
  | 4 => c.seq.lc.getD i 0 = 0
  | _ => c.seq.lc.getD i 0 ≠ 0

/-- BRC (R164). -/
def execBrc (c : Nat) (s : State) : Out :=
  .next <| s.onSeq c 0x7 fun s p k w =>
    let jump := if k.brcHolds w then some (target k.seq.pc (wbits w 39 24)) else none
    (s.setCore p (k.seqDone jump)).wordSignal p w (k.seqHalt 0 0)

/-- Write an LC register; LOOP_WRITTEN is set when a loop on the stack was latched from it (R161). -/
def Core.setLc (c : Core) (n v : Nat) : Core :=
  c.modSeq fun q =>
    { q with lc := q.lc.set n v
             flags := if q.loops.any fun l => l.src = some n then q.flags ||| 1 else q.flags }

/-- LC.SET (R159). -/
def execLcSet (c : Nat) (s : State) : Out := .next <| s.seqPlain c 0x8 fun k w => k.setLc (wbits w 69 3) (wbits w 45 24)

/-- LC.ADD (R159): saturates at 0 and 16,777,215. -/
def execLcAdd (c : Nat) (s : State) : Out :=
  .next <| s.seqPlain c 0x9 fun k w =>
    let n := wbits w 69 3
    let x : Int := (k.seq.lc.getD n 0 : Nat) + signedOf 24 (wbits w 45 24)
    k.setLc n (max 0 (min 16777215 x)).toNat

/-- QUEUE_ROLE information (R171): queue, handle queue, unit, kind. -/
def roleInfo (q : Nat) (hq : Bool) (unit kind : Nat) : Nat := q + (if hq then 16 else 0) + unit * 256 + kind * 4096

/-- The role check of a pop of a data queue (R145). -/
def Core.popRole (c : Core) (q unit : Nat) : Option Nat :=
  match (c.dataQ q).bind with
  | none => some (roleInfo q false unit 3)
  | some (_, cons) => if cons = unit then none else some (roleInfo q false unit 0)

/-- LC.POP (R159, R145, R146, R156). -/
def execLcPop (c : Nat) (s : State) : Out :=
  .next <| s.onSeq c 0xA fun s p k w =>
    let q := wIna w
    match k.popRole q 0 with
    | some info => s.halt p (k.seqHalt 0x05 info)
    | none =>
      match (k.dataQ q).ents with
      | [] => s.setCore p (let k := k.waitEmpty q; if k.seq.mode then k.bump cTokWait 1 else k)
      | e :: _ =>
        if k.seq.mode && wTokA w ≠ 0 && e.tok ≠ (k.seq.seqno + 65536 - wTokA w) % 65536 then
          s.halt p (k.seqHalt 0x08 (e.tok + q * 2 ^ 16))
        else if e.poison then s.halt p (k.seqHalt 0x0C (q * 16))
        else
          let v := min 16777215 (bitsOf e.data.toNat 0 32)
          (s.setCore p (((k.dropDq q 1).setLc (wbits w 69 3) v).seqDone none)).wordSignal p w (k.seqHalt 0 0)

/-- The flags that FLAG.CLR and W1C writes clear: 0, 5, 6 and 11 (R163). -/
def stickyFlags : BitVec 32 := 0x861

/-- FLAG.CLR (R159). -/
def execFlagClr (c : Nat) (s : State) : Out :=
  .next <| s.seqPlain c 0xB fun k w =>
    k.modSeq fun q => { q with flags := q.flags &&& ~~~(stickyFlags &&& BitVec.ofNat 32 (wbits w 0 32)) }

/-! ### Steps (R165 to R167) -/

/-- Run seed of ARITH_SEED_HI and ARITH_SEED_LO (R62). -/
def State.runSeed (s : State) : W64 := (aget 0 s.regs 0x44).setWidth 64 <<< 32 ||| (aget 0 s.regs 0x40).setWidth 64

/-- ARITH_CTRL.UPD_RNE; reads 0 in sealed mode (R64). -/
def State.updRne (s : State) : Bool := (aget 0 s.regs 0x48).getLsbD 0 && !s.sealed_

/-- What a STEP.OPEN clears (R163, R165, R221, R232, R237, R239, R243, R248, R250). -/
def Core.clearStep (c : Core) : Core :=
  let cnt := aset (aset (aset c.cnt 0x2258 0) 0x225C 0) 0x250C 0
  { c with
    cnt := cnt
    drn := { c.drn with repNf := 0, repSat := 0 }
    vec := { c.vec with nf := 0 }
    upd := { c.upd with stg := 0, normValid := false, denied := false, laccW := [0, 0, 0, 0], laccU := [0, 0, 0, 0], laccSat := List.replicate 8 false,
                        lossSum := 0, lossCount := 0, lossNf := 0, touched := [] }
    pins := c.pins.map fun x => { x with stepPin := false, stepCnt := 0 } }

/-- The step opens (R165): number, seed, cleared counts, the record for a repeat. A repeat keeps the run seed and UPD_RNE (R167). -/
def Core.openStep (c : Core) (w : CWord) (seed : W64) (rne : Bool) : Core :=
  let q := c.seq
  let rep := q.repeating
  let step := if rep then q.step else if wbit w 71 then (q.step + 1) % 2 ^ 32 else q.stepNum
  let fl := q.flags &&& ~~~(0x418 : BitVec 32)
  (c.clearStep).modSeq fun q =>
    { q with open_ := true, repeating := false, step := step, attempt := if rep then q.attempt + 1 else 0
             seed := if rep then q.seed else seed, updRne := if rep then q.updRne else rne
             flags := if rep then fl ||| 0x400 else fl
             stepPc := q.pc
             repeatRec := some { loops := q.loops, lc := q.lc, bars := q.bars, stashNum := c.stash.next } }

/-- STEP.OPEN (R165, R244); a frame program may not open a step (R413). -/
def execStepOpen (c : Nat) (s : State) : Out :=
  .next <| s.onSeq c 0xC fun s p k w =>
    if k.pre.frame.isSome then s.halt p (k.seqHalt 0x01 (illegal w).2)
    else if !k.synced then s
    else if k.seq.open_ then s.halt p (k.seqHalt 0x01 (illegal w).2)
    else
      let k' := k.openStep w s.runSeed s.updRne
      let s := (s.setCore p (k'.seqDone none)).send (.openNotice p c k'.seq.step k'.seq.attempt k.seq.seqno)
      s.wordSignal p w (k.seqHalt 0 0)

/-- The close report of a core (R244, R128). -/
def Core.closeReport (c : Core) (l : Nat) : CloseReport where
  core := l
  step := c.seq.step
  attempt := c.seq.attempt
  drnNf := (c.count 0x2258) - c.drn.repNf + c.vec.nf
  drnSat := (c.count 0x225C) - c.drn.repSat
  updNf := c.count 0x250C
  normNf := c.upd.normNf
  lossSum := c.upd.lossSum
  lossCount := c.upd.lossCount
  lossNf := c.upd.lossNf
  laccW := c.upd.laccW
  laccU := c.upd.laccU
  laccSat := c.upd.laccSat

/-- STEP.CLOSE (R166, R244): once synced it sends the close report; it completes when the core has committed or skipped. -/
def execStepClose (c : Nat) (s : State) : Out :=
  .next <| s.onCore c fun s p k =>
    match k.seq.cur with
    | none => s
    | some u =>
      if !k.active || !k.preOk || wOp u.word ≠ 0xD then s
      else if !u.sent then
        match k.seqWait u.word with
        | .wait ctr => s.bumpCore p ctr 1
        | .halt r info => s.halt p (k.seqHalt r info)
        | .ready k' =>
          if !k.seq.open_ || k.pre.frame.isSome then s.halt p (k.seqHalt 0x01 (illegal u.word).2)
          else if !k.synced then s
          else
            let r := k.closeReport c
            let k' := k'.modSeq fun q => { q with cur := some { u with sent := true } }
            let k' := { k' with drn := { k'.drn with repNf := k'.count 0x2258, repSat := k'.count 0x225C } }
            (s.setCore p k').send (.closeReport p r)
      else
        match u.outcome with
        | none => s
        | some o =>
          -- bit 9, STEP_SKIPPED
          let fl := k.seq.flags &&& ~~~(0x200 : BitVec 32)
          let k' := k.modSeq fun q => { q with open_ := false, repeatRec := none, flags := if o = 2 then fl ||| 0x200 else fl }
          let k' := k'.seqDone none
          let k' := if k'.seq.stopping && k'.synced then k'.modSeq fun q => { q with state := .stopped, stopping := false } else k'
          (s.setCore p k').wordSignal p u.word (k.seqHalt 0 0)

/-- IRQ (R159). -/
def execIrq (c : Nat) (s : State) : Out :=
  .next <| s.onSeq c 0xE fun s p k w =>
    ((s.setCore p ((k.modSeq fun q => { q with swirq := true }).seqDone none)).irqCore p).wordSignal p w (k.seqHalt 0 0)

/-- BRK (R159). -/
def execBrk (c : Nat) (s : State) : Out := .next <| s.onSeq c 0xF fun s p k w => s.halt p (k.seqHalt 0x10 (wbits w 56 16))

/-- END (R159): dispatch stops. -/
def execEndWord (c : Nat) (s : State) : Out :=
  .next <| s.seqPlain c 0x10 fun k _ => k.modSeq fun q => { q with ending := true }

/-- CORE_DONE (R159): after END, every control queue empty and every unit idle. -/
def execCoreDone (c : Nat) (s : State) : Out :=
  .next <| s.onCore c fun s p k =>
    if k.active && k.seq.ending && k.synced && k.drn.cur.isNone && k.preOk then
      ((s.setCore p (k.modSeq fun q => { q with state := .done, stopping := false })).irqCore p).emit (.coreDone c)
    else s

/-- Units with a word that waits to start (R171, R173). -/
def Core.waitingUnits (c : Core) : Nat :=
  (List.range 10).foldl (fun m u =>
    let qs := if u = 5 then [5, 10] else [u]
    let w := if u = 0 then c.seq.cur.isSome else qs.any fun q => (c.words q).any fun e => !e.started
    if w then m + 2 ^ u else m) 0

/-- WATCHDOG (R173): the count has reached the limit. It pauses while a token is awaited, at a preemption, and while stopped; 0
disables it. -/
def execWatchdog (c : Nat) (s : State) : Out :=
  .next <| s.onCore c fun s p k =>
    if k.active && k.seq.wdog ≠ 0 && !k.awaitsToken 0 && !k.awaitsToken 1 && k.preOk then
      s.halt p { pc := k.seq.pc, unit := 0, reason := 0x0F, seqno := 0, info := k.waitingUnits }
    else s

/-! ### Flush, restart and step repeat (R167, R174, R265, R268) -/

/-- Handles reserved by the core's receiving ends. -/
def Core.reserved (c : Core) : List Nat := c.hq.flatMap fun x => x.2.recv.elim [] RecvEnd.reserved

/-- The free lists rebuilt (R265): ascending, without the handles in flight, in transit or reserved for a link. -/
def Core.rebuildPools (c : Core) : Amap (List Nat) :=
  (List.range 256).foldl (fun (m : Amap (List Nat)) i => match c.poolOf i with
    | some p =>
      if c.inflight.contains i || c.transit.contains i || c.reserved.contains i then m else aset m p (aget [] m p ++ [i])
    | none => m) []

/-- Stream words with segments in flight and their destination handles, whose data is dropped (R268). -/
def Core.droppedStreams (c : Core) : List (Nat × Nat) :=
  (c.words 1).filterMap fun e => match e.out with
    | some h => if e.segs ≠ 0 then some (e.seqno, h) else none
    | none => none

/-- An engine with its open tile cleared and every slot quarter FREE (R167, R174). -/
def Engine.cleared (g : Engine) : Engine :=
  { g with tileOpen := false, openPack := 0, openA := 0, openB := 0, scans := [], pre := [], finish := none, shUse := .none
           active := {}, shadow := {}, slots := List.replicate 8 {}, moves := [], offers := [] }

/-- A handle queue flushed; a transfer partly received is dropped: its handle goes back once the last part has come (R268). -/
def HandleQ.flushed (q : HandleQ) : HandleQ :=
  { q with
    ents := []
    late := false
    send := q.send.map (fun e => { e with retained := [] })
    recv := q.recv.map (fun r => { r with part := r.part.map (fun y => (y.1, true)) }) }

/-- Every control, data and handle queue flushed, and the handles returned (R174, R268). Bindings and links stay. -/
def Core.flush (c : Core) : Core :=
  let drops := c.droppedStreams
  let parts := c.hq.filterMap fun x => (x.2.recv.bind RecvEnd.part).map Prod.fst
  let keep := drops.map (fun x => hIdx x.2) ++ parts.map hIdx
  let c : Core := { c with
    cq := []
    dq := c.dq.map fun x => (x.1, { x.2 with ents := [], served := none })
    hq := c.hq.map fun x => (x.1, x.2.flushed)
    inflight := keep
    heldH := []
    dropH := c.dropH ++ drops
    sht := {}
    drn := { c.drn with cur := none }
    vec := { c.vec with miss := none }
    engA := c.engA.cleared
    engB := c.engB.cleared
    stash := { c.stash with pres := [] } }
  let c := { c with pools := c.rebuildPools }
  c.modSeq fun q => { q with cur := none, ending := false, live := [], fetch := [], fills := [] }

/-- Take n pins of a version from the object side: from its shadow when it has one, which is freed at 0, else from the object (R230, R232,
R308). -/
def State.dropPins (s : State) (obj ver n : Nat) : State :=
  let e := s.objEnt obj
  if !(s.obj.shadows.any fun h => h.obj = obj && h.ver = ver) then (if e.version = ver then s.setObj obj { e with pincnt := e.pincnt - n } else s)
  else
    let l := s.obj.shadows.filterMap fun h =>
      if h.obj = obj ∧ h.ver = ver then (if h.pins ≤ n then none else some { h with pins := h.pins - n }) else some h
    { s with obj := { s.obj with shadows := l } }

/-- Release every pin of a core (R232). -/
def State.releasePins (s : State) (p : Nat) : State :=
  let c := s.core p
  let s := c.pins.foldl (fun s x => s.dropPins x.obj x.ver x.cnt) s
  s.modCore p fun c => { c with pins := [] }

/-- RESTART (R174). -/
def State.restartCore (s : State) (p : Nat) : State :=
  let s := s.releasePins p
  (s.modCore p fun c =>
    let c := c.flush
    let c := { c with upd := { c.upd with stg := 0, phase := .idle, touched := [] }, stash := { peak := c.stash.peak } }
    c.modSeq fun q => { q with bars := [], loops := [], open_ := false, repeating := false, repeatRec := none, stopping := false
                               pc := q.start, state := .running }).irqCore p

/-- The states in which a core takes RESTART and RW configuration writes. -/
def Core.parked (c : Core) : Bool := c.seq.state = .stopped || c.seq.state = .halted || c.seq.state = .done

/-- RESTART (R174): SEQ_CTRL.RESTART, which works in HALTED, STOPPED and DONE. A commit is not abandoned: until it has ended, a RESTART does
nothing (R248; log 154). No core is started in the recovery state (R445). -/
def State.mayRestart (s : State) (k : Core) : Bool := k.parked && !k.inCommit && !s.sec.recovery
def execRestart (c : Nat) (s : State) : Out := .next <| s.onCore c fun s p k => if s.mayRestart k then s.restartCore p else s

/-- SEQ_CTRL.STOP. -/
def execSeqCtrlStop (c : Nat) (s : State) : Out := .next <| s.onCore c fun s p _ => s.modCore p Core.stop

/-- A step repeat (R167) of a core with its step open. -/
def State.repeatStep (s : State) (p : Nat) : State :=
  let c := s.core p
  -- pins taken since the STEP.OPEN are released (R232)
  let s := c.pins.foldl (fun s x => s.dropPins x.obj x.ver x.stepCnt) s
  (s.modCore p fun c =>
    let c : Core := { c with pins := (c.pins.map fun x => { x with cnt := x.cnt - x.stepCnt, stepCnt := 0, stepPin := false }).filter fun x => x.cnt ≠ 0 }
    let c := c.rampDown.flush
    let r := c.seq.repeatRec
    let num := r.elim c.stash.next StepRec.stashNum
    -- numbers are 24 bits wide and wrap (R221): a record is of this step when it is no farther from `num` than the next number
    let mine (x : StashRec) : Bool := (x.num + 2 ^ 24 - num) % 2 ^ 24 < (c.stash.next + 2 ^ 24 - num) % 2 ^ 24
    let gone := c.stash.recs.filter mine
    let t3 := gone.foldl (fun n x => match x.loc with
      | .t3 b => n + b.length
      | _ => n) 0
    let c : Core := { c with
      stash := { c.stash with next := num, recs := c.stash.recs.filter (fun x => !mine x), t3use := c.stash.t3use - t3 }
      upd := { c.upd with stg := 0, phase := .idle, laccW := [0, 0, 0, 0], laccU := [0, 0, 0, 0], laccSat := List.replicate 8 false }
      cnt := aset c.cnt 0x250C 0 }
    c.modSeq fun q =>
      { q with loops := r.elim [] StepRec.loops, lc := r.elim q.lc StepRec.lc, bars := r.elim [] StepRec.bars
               pc := q.stepPc, state := .running, stopping := false, open_ := false, repeating := true
               flags := q.flags ||| 0x400 }).irqCore p

end Sys2Proof.Machine
end

