-- ==== Sys2Proof/Machine/Fence.lean ====
section
/-! DEFINITION. Fencing cores and clusters, and the flash that keeps the fence list (R25, R420 to R426, R475 to R478). -/

namespace Sys2Proof.Machine

/-! ### Flash sector operations (R477, R478) -/

/-- Usable hold-up energy in µJ at a voltage in mV (R477). -/
def holdUp (cap vmin mv : Nat) : Nat := cap * (mv * mv - vmin * vmin) / 2000000

/-- HU_CFG and HU_VMIN. -/
def State.huCfg (s : State) : Nat := (aget 0x75300000 s.regs 0x500060).toNat
def State.huVmin (s : State) : Nat := (aget 0x1194 s.regs 0x500064).toNat % 65536
def State.huEnergy (s : State) : Nat := holdUp (s.huCfg % 65536) s.huVmin s.huMv
/-- E ≥ 2 × ESECT (R477). -/
def State.huEnough (s : State) : Bool := 2 * (s.huCfg / 65536) ≤ s.huEnergy

/-- The check of R477 is made: HU_VOLT and HU_STAT.E hold what it measured. -/
def State.huMeasured (s : State) : State := { s with pw := { s.pw with huV := s.huMv, huE := s.huEnergy } }

/-- Set bits of PWR_CAUSE and drive source 10 (16). -/
def State.pwrCause (s : State) (bits : W32) : State := s.raise 0x500020 0x500024 10 0x3F bits

/-- Start the flash operation that is due, or defer it (R425, R477, R478). -/
def State.flashTry (s : State) : State :=
  match s.flashQ with
  | [] => s
  | j :: _ =>
    let fence := match j.kind with
      | .fences _ _ => true
      | _ => false
    if s.flashBusy then s
    else if s.huEnough && !s.pwrfail && !s.pw.pfWait then
      { s.huMeasured with flashBusy := true, fl := if fence then { s.fl with deferred := false } else s.fl }
    else
      let s := (s.huMeasured.pwrCause 0x20).bump 0x500098 1
      { s with fl := if fence then { s.fl with deferred := true } else s.fl }

/-- FLASH_DEFER_RETEST (R477, R478): the hold-up node is measured and the deferred operation tested again. -/
def execFlashDeferRetest (mv : Nat) (s : State) : Out :=
  .next <| if s.flashQ.isEmpty || s.flashBusy then s else State.flashTry { s with huMv := mv }

/-! ### The fence list (R424, R425) -/

/-- Offset of copy k of the fence list (R475). -/
def fenceCopyAt (k : Nat) : Nat := 0x3030000 + 0x1000 * k

/-- The bytes of a copy (R424). -/
def fenceCopy (l : List (Nat × Nat)) (seq : Nat) : List Byte :=
  let bitmap := l.foldl (fun m x => m ||| 2 ^ x.1) 0
  let causes := (List.range 512).map fun p => BitVec.ofNat 8 ((afind l p).getD 0)
  let head : List Byte := [0x46, 0x4C, 0x53, 0x54] ++ bytesOf 2 1 ++ bytesOf 2 l.length ++ bytesOf 8 seq ++ bytesOf 64 bitmap ++ causes
    ++ List.replicate 428 0
  head ++ bytesOf 4 (crc32c head).toNat

/-- Copy k is valid: its SEQ (R424). -/
def State.fenceSeq (s : State) (k : Nat) : Option Nat :=
  let b := Memory.bytes s.flash (fenceCopyAt k) 1024
  if b.take 6 = [0x46, 0x4C, 0x53, 0x54, 1, 0] ∧ numOf (b.drop 1020) = (crc32c (b.take 1020)).toNat then some (numOf ((b.drop 8).take 8)) else none

/-- The fences of a valid copy: core and cause. -/
def State.fencesOf (s : State) (k : Nat) : List (Nat × Nat) :=
  let b := Memory.bytes s.flash (fenceCopyAt k) 1024
  let m := numOf ((b.drop 16).take 64)
  ((List.range 512).filter fun p => bitAt m p).map fun p => (p, (b.getD (80 + p) 0).toNat)

/-- The valid copy with the higher SEQ. -/
def State.fenceBest (s : State) : Option (Nat × Nat) :=
  match s.fenceSeq 0, s.fenceSeq 1 with
  | none, none => none
  | some a, none => some (0, a)
  | none, some b => some (1, b)
  | some a, some b => if a < b then some (1, b) else some (0, a)

/-- The copy that a write replaces, and its SEQ: an invalid one, else the one with the lower SEQ (R424). -/
def State.fenceTarget (s : State) : Nat × Nat :=
  match s.fenceBest with
  | none => (0, 1)
  | some (k, q) => (1 - k, q + 1)

/-- FENCE_LIST_WRITE (R425): a persistent write of the list becomes due; fences that occur during a write go into the next. -/
def execFenceListWrite (s : State) : Out :=
  .next <|
    let due := s.flashQ.any fun j => match j.kind with
      | .fences _ _ => true
      | _ => false
    if !s.fl.dirty || due then s
    else
      let t := s.fenceTarget
      let l := s.fences.map fun f => (f.p, f.cause)
      let j : FlashJob := { at_ := fenceCopyAt t.1, data := fenceCopy l t.2, kind := .fences (s.fences.map FenceEnt.p) t.2 }
      State.flashTry { s with flashQ := s.flashQ ++ [j], fl := { s.fl with dirty := false } }

/-- A sector of 4 KiB erased, and bytes programmed (R475). An erased byte reads 0xFF (log 32). -/
def sectorWrite (m : Memory) (at_ : Nat) (d : List Byte) : Memory :=
  Memory.put (Memory.put m (at_ / 4096 * 4096) (List.replicate 4096 0xFF)) at_ d

/-- The security mailbox ends its operation with a status and raises source 9 (R458). -/
def State.mbxEnd (s : State) (st : Nat) : State := State.pulse { s with sec := { s.sec with mbxBusy := false, mbxStatus := st } } 9

/-- The update that waits on behalf of the mailbox. -/
def mbxWaits : Nat := 1000

/-- What the end of a flash operation brings: fences are PERSIST; a slot whose header is erased is invalid; a slot whose header is written is
valid, and the update ends (R457); the fuses named by a staging record burn (R456, R479). -/
def State.flashEnd (s : State) (k : FlashKind) : State :=
  match k with
  | .fences ps q =>
    { s with fences := s.fences.map fun (f : FenceEnt) => if ps.contains f.p then { f with persist := true } else f
             fl := { s.fl with seq := q } }
  | .erase slot => { s with sec := { s.sec with slots := adel s.sec.slots slot } }
  | .header slot img =>
    let mbx := aget none s.sec.updating (slot / 2) = some mbxWaits
    let s := { s with sec := { s.sec with slots := aset s.sec.slots slot img, updating := adel s.sec.updating (slot / 2) } }
    if mbx then s.mbxEnd 0 else s
  | .rollback ts =>
    let s := { s with sec := { s.sec with svn := (s.sec.svn.zip ts).map fun (x : Nat × Nat) => max x.1 x.2 } }
    if s.sec.mbxBusy then s.mbxEnd 0 else s
  | _ => s

/-- FLASH_SECTOR_DONE (R425, R457, R477, R478): the operation in progress ends, and the next that is due is tested. -/
def execFlashSectorDone (s : State) : Out :=
  .next <|
    match s.flashQ with
    | [] => s
    | j :: rest =>
      if !s.flashBusy then s
      else
        let s := State.bump { s with flash := sectorWrite s.flash j.at_ j.data, flashQ := rest, flashBusy := false } 0x500094 1
        (s.flashEnd j.kind).flashTry

/-! ### Fencing (R420 to R423) -/

/-- Enter a fence in FENCE_LOG (14). -/
def FlState.enter (f : FlState) (x : FenceLogEnt) : FlState :=
  { f with dirty := true, log := aset f.log f.next x, next := (f.next + 1) % 16, total := f.total + 1 }

/-- The core stops for a fence: dispatch, units and engines (R107, R168), its queues' traffic is dropped, a preemption under way is
abandoned, a saved state is not restored (R423). -/
def Core.fenceStop (c : Core) (cause : Nat) : Core :=
  let inc := c.inCommit
  let c := c.rampDown.abandonPre
  { c with
    seq := { c.seq with state := .stopped, stopping := false, cur := none }
    pre := { c.pre with phase := .none, valid := false, frame := none, host := false, saved := none, held := [] }
    dmaQ := [], tags := []
    fence := { cause := cause, fenced := true, incommit := inc } }

/-- Fence physical core p (R421). -/
def State.fenceCore (s : State) (p cause : Nat) : State :=
  if s.fused.contains p || s.fences.any (fun f => f.p = p) then s
  else
    let c := s.core p
    let run := c.pre.frame
    let x : FenceLogEnt := { p := p, cause := cause, incommit := c.inCommit, epoch := s.epoch }
    let s := s.releasePins p
    let s := s.modCore p fun c => c.fenceStop cause
    let s := { s with
      lmap := s.lmap.map fun (e : Nat × MapEnt) => if e.2.phys = p then (e.1, { e.2 with valid := false }) else e
      spares := s.spares.filter fun (q : Nat) => q ≠ p
      fences := s.fences ++ [({ p := p, cause := cause, persist := false } : FenceEnt)]
      fl := s.fl.enter x }
    (s.level 4 true).failRun run

/-- What the checks of a core command find: 0 nothing; 1 a residue mismatch; 2 and 3 an error of the accumulator buffer that is corrected, and
one that is not; 4 a queue's parity error; 5 and 6 a corrected and an uncorrectable error of the local memory read (R25, R77, R420). The codes
from 7 on find nothing. -/
def checkFences (res : Nat) : Bool := res = 1 || res = 3 || res = 4

/-- The fence that a check brings (R25, R420). -/
def State.checkFence (s : State) (p res : Nat) : State := s.fenceCore p (if res = 1 then 1 else if res = 3 then 4 else 5)

/-- A corrected error of the accumulator buffer is counted in CE_ACC (R25). -/
def State.checkCount (s : State) (p res : Nat) : State := if res = 2 then s.bumpCore p 0x4048 1 else s

def State.cluster (s : State) (g : Nat) : Cluster := aget {} s.clusters g

def State.setCluster (s : State) (g : Nat) (x : Cluster) : State := { s with clusters := aset s.clusters g x }

/-- Fence a cluster: its 8 cores with cause CLUSTER, its L2 out of service (R25, R421). -/
def State.fenceCluster (s : State) (g : Nat) : State :=
  let s := (List.range 8).foldl (fun s i => s.fenceCore (8 * g + i) 7) s
  s.setCluster g { s.cluster g with oos := true }

/-- NO_ACK_TIMEOUT (R25, R420): the core does not acknowledge its stop within 256 engine cycles; its cluster fences it. -/
def execNoAckTimeout (p : Nat) (s : State) : Out := .next <| if p < 512 then s.fenceCore p 6 else s

end Sys2Proof.Machine
end

