-- ==== Sys2Proof/Machine/Unit.lean ====
section
/-! DEFINITION. What the units share: finding the word a command works on, what the start of a word answers, queue roles, tokens, taking and
pushing handles, the 64-bit addresses of generators and the address of a buffer (R141 to R146, R154 to R156, R186, R190, R191, R257, R267). -/

namespace Sys2Proof.Machine

/-- What the start of a word answers: the state with the start's effect and the word as it stands then, a wait, or a halt or freeze that has
been taken. -/
inductive Start where
  | go (s : State) (e : Cqe)
  | wait (s : State)
  | stop (s : State)

/-- The units of the core work: RUNNING, or running to the boundary of a preemption (R168, R172, R429). -/
def Core.working (c : Core) : Bool := c.active && (c.preOk || c.pre.phase = .waiting)

/-- Run `f` on the started, unfinished word i of queue q of physical core p, when it is of operation `op`. -/
def State.doWord (s : State) (p q op i : Nat) (f : State → Nat → Core → Cqe → State) : State :=
  let k := s.core p
  match (k.words q)[i]? with
  | none => s
  | some e =>
    if !(e.started && !e.fin && wOp e.word = op) then s
    else if k.working then f s p k e
    else s.sameCycle p (unitOf q) fun s => f s p (s.core p) e

/-- Run `f` on word i of queue q of the core that carries c. -/
def State.onWord (s : State) (c q op i : Nat) (f : State → Nat → Core → Cqe → State) : State :=
  s.onCore c fun s p _ => s.doWord p q op i f

/-- Run `g` for a request of physical core p that carries epoch `ep`: one that is older than its island's completes under the settings of its own
epoch (R302, R416). -/
def State.underAt (s : State) (p ep : Nat) (g : State → State) : State :=
  if s.powered && s.flip.any (fun f => f.flipped.contains p && ep ≠ f.epoch) then g s else s.under p g

/-- Place of the first started and unfinished word of a queue. -/
def Core.curAt (c : Core) (q : Nat) : Option (Nat × Cqe) :=
  ((c.words q).zipIdx.find? fun x => x.1.started && !x.1.fin).map fun x => (x.2, x.1)

/-- Run `f` on the word a unit that executes one word at a time is at, when it is of operation `op`. -/
def State.onCur (s : State) (c q op : Nat) (f : State → Nat → Core → Nat → Cqe → State) : State :=
  s.onCore c fun s p k =>
    match k.curAt q with
    | none => s
    | some (i, e) =>
      if wOp e.word ≠ op then s
      else if k.working then f s p k i e
      else s.sameCycle p (unitOf q) fun s => f s p (s.core p) i e

/-- Put word i back. -/
def State.putWord (s : State) (p q i : Nat) (e : Cqe) : State := s.modCore p fun c => c.setWord q i e

/-- Every effect of word i is made. -/
def State.finish (s : State) (p q i : Nat) (e : Cqe) : State := s.putWord p q i { e with fin := true }

/-- Halt a core on a word. -/
def State.haltWord (s : State) (p q : Nat) (e : Cqe) (reason info : Nat) : State := s.halt p (e.haltRec (unitOf q) reason info)

/-- ILLEGAL_OP on a word. -/
def State.haltIllegal (s : State) (p q : Nat) (e : Cqe) : State := s.haltWord p q e 0x01 (illegal e.word).2

/-- Freeze a core on an access of a unit. -/
def State.freezeAt (s : State) (p unit reason obj addr : Nat) : State := s.freeze p { unit := unit, reason := reason, obj := obj, addr := addr }

/-! ### Roles (R145) -/

def Core.pushRole (c : Core) (q unit : Nat) : Option Nat :=
  match (c.dataQ q).bind with
  | none => some (roleInfo q false unit 3)
  | some (pr, _) => if pr = unit then none else some (roleInfo q false unit 1)

def Core.hpopRole (c : Core) (q unit : Nat) : Option Nat :=
  match (c.handleQ q).bind with
  | none => some (roleInfo q true unit 3)
  | some (_, cons) => if cons = unit then none else some (roleInfo q true unit 0)

def Core.hpushRole (c : Core) (q unit : Nat) : Option Nat :=
  match (c.handleQ q).bind with
  | none => some (roleInfo q true unit 3)
  | some (pr, _) => if pr = unit then none else some (roleInfo q true unit 1)

/-- The first role that fails of a list of pops and pushes of data queues and of handle queues. -/
def Core.roles (c : Core) (unit : Nat) (pops pushes hpops hpushes : List Nat) : Option Nat :=
  ((pops.filterMap fun q => c.popRole q unit) ++ (pushes.filterMap fun q => c.pushRole q unit)
    ++ (hpops.filterMap fun q => c.hpopRole q unit) ++ (hpushes.filterMap fun q => c.hpushRole q unit)).head?

/-! ### Handles (R146, R266, R267, R273) -/

/-- LA counters of a handle queue (R293): 0 issued, 1 used, 2 unused, 3 late. -/
def cLa (h k : Nat) : Nat := 0x3A00 + 16 * h + 4 * k

/-- A transfer toward a handle queue is in flight (R273). -/
def Core.inFlightTo (c : Core) (q : Nat) : Nat :=
  ((c.words 1).filter fun e => e.started && e.out.isSome && wOp e.word = 2 && !e.cancelled
    && e.vals.getD 0 0 = q).length

/-- A consumer found the queue empty: counted once for the transfer in flight (R273). -/
def Core.emptyPop (c : Core) (q : Nat) : Core :=
  let x := c.handleQ q
  if c.inFlightTo q ≠ 0 && !x.late then (c.setHandleQ q { x with late := true }).bump (cLa q 3) 1 else c

/-- What the head of a handle queue is to a word that takes it: a wait, a halt with its reason and information, or the entry. -/
inductive HandleHead where
  | empty
  | bad (reason info : Nat)
  | ok (e : HqEnt)

/-- Look at the head of a handle queue for a word with distance `d` (R146, R156, R267). -/
def Core.headHandle (c : Core) (q unit seqno d : Nat) : HandleHead :=
  match (c.handleQ q).ents with
  | [] => .empty
  | e :: _ =>
    let want := (seqno + 65536 - d) % 65536
    if c.seq.mode && d ≠ 0 && e.tok ≠ want then .bad 0x08 (e.tok + q * 2 ^ 16 + 2 ^ 21)
    else if e.poison then .bad 0x0C (1 + q * 16)
    else if (c.btEnt (hIdx e.h)).tag ≠ hTag e.h then .bad 0x05 (roleInfo q true unit 0)
    else .ok e

/-- Pop the head of a handle queue; it is held. -/
def Core.popHandle (c : Core) (q : Nat) : Core :=
  let x := c.handleQ q
  match x.ents with
  | [] => c
  | e :: t =>
    let c := c.setHandleQ q { x with ents := t }
    let c := if e.la then c.bump (cLa q 1) 1 else c
    { c with heldH := c.heldH ++ [hIdx e.h] }

/-- Room for one more handle. -/
def Core.hqRoom (c : Core) (q : Nat) : Bool := (c.handleQ q).ents.length < hqDepth

/-- Push a handle; it is queued. -/
def Core.pushHandle (c : Core) (q : Nat) (e : HqEnt) : Core :=
  let x := c.handleQ q
  let i := hIdx e.h
  ({ c with heldH := erase1 c.heldH i, inflight := erase1 c.inflight i } : Core).setHandleQ q { x with ents := x.ents ++ [e], late := false }

/-- The space, base and size in bytes of a handle's buffer (R264). -/
def Core.buffer (c : Core) (h : Nat) : Nat × Nat × Nat :=
  let b := c.btEnt (hIdx h)
  (b.space, b.base * 64, (b.size + 1) * 64)

/-! ### Address generators (R190, R191) -/

/-- Address k of a generator, counted in entries, with an offset added to BASE; after the product of the counts it starts again. -/
def Agen.addr (g : Agen) (base : Int) (k : Nat) : Int :=
  let c := g.count.map (· + 1)
  let c0 := c.getD 0 1
  let c1 := c.getD 1 1
  let c2 := c.getD 2 1
  let c3 := c.getD 3 1
  let k := k % (c0 * c1 * c2 * c3)
  base + g.base + (k % c0 : Nat) * g.stride.getD 0 0 + (k / c0 % c1 : Nat) * g.stride.getD 1 0
    + (k / (c0 * c1) % c2 : Nat) * g.stride.getD 2 0 + (k / (c0 * c1 * c2) : Nat) * g.stride.getD 3 0

/-- The generator that an AGSET word sets; `lo`, `len`: its BASE field, `sp`: it has SPACE and LAYOUT fields (R190). -/
def agenOf (w : CWord) (lo len : Nat) (sp : Bool) : Agen where
  space := if sp then wbits w 66 2 else 0
  layout := if sp then wbits w 64 2 else 0
  base := wbits w lo len
  stride := (List.range 4).map fun d => signedOf 20 (wbits w (128 + 32 * d + 12) 20)
  count := (List.range 4).map fun d => wbits w (128 + 32 * d) 12

/-- The ILEV offset of a generator: the iteration index times the outermost stride (R186, R191). -/
def Agen.ilev (g : Agen) (idx : Nat) : Int := (idx : Int) * g.stride.getD 3 0

/-- The byte address in T0 of byte `b` of position (i, j) of the Damask block at B (R256). -/
def damaskAddr (blk i j : Nat) : Nat := blk * 8192 + 128 * i + 2 * ((i + j) % 64)

/-- The byte addresses of the L positions of a Damask access (R257); none where it is illegal. -/
def damaskLine (layout a l : Nat) : Option (List Nat) :=
  let blk := a / 8192
  let n := a / 128 % 64
  let e := a / 2 % 64
  if a % 2 = 1 ∨ 64 < e + l then none
  else some ((List.range l).map fun p => if layout = 1 then damaskAddr blk n (e + p) else damaskAddr blk (e + p) n)

end Sys2Proof.Machine
end

