-- ==== Sys2Proof/Machine/Stash.lean ====
section
/-! DEFINITION. The activation stash of a core (R221 to R226): frames, records, spilling to T3, and the pins of weight versions (R227 to
R232). -/

namespace Sys2Proof.Machine

/-! ### Frames and records -/

def Core.stashT1 (c : Core) : Nat := c.reg 0x2820 0 % 65536
def Core.stashT2 (c : Core) : Nat := c.reg 0x2824 0 % 65536
def Core.stashT3 (c : Core) : Nat := c.reg 0x2828 0 % 65536
/-- Bytes of a frame (R221). -/
def Core.frameSize (c : Core) : Nat := (bitsOf c.stashCfg 0 4 + 1) * 4096
/-- STASH_CFG.HQ. -/
def Core.stashHq (c : Core) : Nat := bitsOf c.stashCfg 4 3
/-- STASH_LIM.HWM and STASH_T3Q.QUOTA. -/
def Core.stashHwm (c : Core) : Nat := c.reg 0x2830 0 % 65536
def Core.stashQuota (c : Core) : Nat := c.reg 0x2834 0 % 2 ^ 24

/-- Frames of an object. -/
def State.framesIn (s : State) (obj fs : Nat) : Nat := let e := s.objEnt obj; if e.valid then e.bytes / fs else 0

/-- Frames of the pool of a core (R221). -/
def State.nFrames (s : State) (c : Core) : Nat := s.framesIn c.stashT1 c.frameSize + s.framesIn c.stashT2 c.frameSize

/-- Object and offset of a frame: the frames of the T1 object first (R221). -/
def State.framePlace (s : State) (c : Core) (f : Nat) : Nat × Nat :=
  let n1 := s.framesIn c.stashT1 c.frameSize
  if f < n1 then (c.stashT1, f * c.frameSize) else (c.stashT2, (f - n1) * c.frameSize)

/-- The frame a record holds or is being spilled from. -/
def StashRec.frame (r : StashRec) : Option Nat :=
  match r.loc with
  | .frame f => some f
  | .spilling f => some f
  | .t3 _ => none

/-- STASH_USE.INUSE (R226). -/
def Stash.inuse (x : Stash) : Nat := (x.recs.filterMap StashRec.frame).length

/-- A spill is in flight. -/
def Stash.spilling (x : Stash) : Bool := x.recs.any fun r => match r.loc with
  | .spilling _ => true
  | _ => false

/-- Frames that neither hold a record nor are presented, ascending. -/
def State.idleFrames (s : State) (c : Core) : List Nat :=
  let used := c.stash.recs.filterMap StashRec.frame ++ c.stash.pres.map fun x => x.2.1
  (List.range (s.nFrames c)).filter fun f => !used.contains f

/-- Entries of the allocator that no presented or taken handle uses. -/
def Core.idleStashBt (c : Core) : List Nat :=
  ((List.range 8).map (· + c.stashBt)).filter fun i => !(c.stash.pres.any fun x => x.1 = i)

/-- Present free frames as handles, as many as the allocator's entries and the queue take (R222; log 27). `fuel`: at most eight. -/
def presentGo (s : State) : Nat → Core → Core
  | 0, c => c
  | fuel + 1, c =>
    let q := c.stashHq
    let bound := (c.handleQ q).bind = some (1, 7)
    match s.idleFrames c, c.idleStashBt with
    | f :: _, i :: _ =>
      if bound && c.hqRoom q then
        let b := c.btEnt i
        let tag := (b.tag + 1) % 256
        let c := c.setBt i { b with tag := tag }
        let x := c.handleQ q
        let c := c.setHandleQ q { x with ents := x.ents ++ [{ h := i + 256 * tag, tok := 0 }] }
        presentGo s fuel { c with stash := { c.stash with pres := c.stash.pres ++ [(i, f, 0)] } }
      else c
    | _, _ => c

/-- The allocator of physical core p presents what it can. -/
def State.stashPresent (s : State) (p : Nat) : State :=
  let c := s.core p
  if c.stashEn then s.setCore p (presentGo s 8 c) else s

/-- A write word takes a stash handle: the record gets its number (R221, R222). -/
def Core.takeRecord (c : Core) (h : Nat) : Core :=
  let i := hIdx h
  match c.stash.pres.find? fun x => x.1 = i with
  | none => c
  | some (_, f, _) =>
    let n := c.stash.next
    let recs := c.stash.recs ++ [{ num := n, committed := false, loc := .frame f }]
    let x := { c.stash with next := (n + 1) % 2 ^ 24, recs := recs
                            pres := c.stash.pres.map fun (y : Nat × Nat × Nat) => if y.1 = i then (i, f, n + 1) else y }
    { c with stash := { x with peak := max x.peak x.inuse } }

/-- The record of a taken stash handle. -/
def Core.recordOf (c : Core) (h : Nat) : Option Nat :=
  match c.stash.pres.find? fun x => x.1 = hIdx h with
  | some (_, _, n + 1) => some n
  | _ => none

/-- The record of a taken handle is committed (R222). -/
def Core.commitRecord (c : Core) (num : Nat) : Core :=
  ({ c with stash := { c.stash with recs := c.stash.recs.map fun r => if r.num = num then { r with committed := true } else r } } : Core).bump 0x2908 1

/-- A record is freed with its frame or T3 blocks (R223). -/
def Core.freeRecord (c : Core) (num : Nat) : Core :=
  let blocks := (c.stash.recs.filter fun r => r.num = num).foldl (fun n r => match r.loc with
    | .t3 b => n + b.length
    | _ => n) 0
  { c with stash := { c.stash with recs := c.stash.recs.filter fun r => r.num ≠ num, t3use := c.stash.t3use - blocks } }

/-- T3 blocks of a record. -/
def Core.recBlocks (c : Core) : Nat := c.frameSize / 4096

/-- The next record to spill: resident, committed, lowest number (R224). -/
def Core.spillNext (c : Core) : Option (Nat × Nat) :=
  let l := c.stash.recs.filter fun r => r.committed && (match r.loc with
    | .frame _ => true
    | _ => false)
  let low := l.foldl (fun n r => min n r.num) (2 ^ 24)
  (l.find? fun r => r.num = low).bind fun r => r.frame.map fun f => (r.num, f)

/-- A spill can start (R225). -/
def Core.canSpill (c : Core) : Bool := c.spillNext.isSome && c.stash.t3use + c.recBlocks ≤ c.stashQuota

/-- R225: a write word that waits for a stash handle halts. -/
def State.stashExhausted (s : State) (c : Core) : Bool := (s.idleFrames c).isEmpty && !c.stash.spilling && !c.canSpill

/-- Segments of 2 KiB that one coded block of these bytes takes (R279). -/
def segsOfBlock (slen : Nat) : Nat := (slen + 2047) / 2048

/-- Stored length of a block of data in an object: its coded length, or the block itself. -/
def storedLen (e : ObjEnt) (d : List Byte) : Nat :=
  let img := if e.mxq = 0 then d else mxqEncode e.mxq d
  if e.muslin then 64 * (((muslinEncode (img.map BitVec.toNat) (mwBytes e.mw)).2.length + 63) / 64) else img.length

/-- Free T3 blocks of the pool, lowest first. -/
def State.freeT3 (s : State) (c : Core) (n : Nat) : List Nat :=
  let used := c.stash.recs.flatMap fun r => match r.loc with
    | .t3 b => b
    | _ => []
  ((List.range ((s.objEnt c.stashT3).bytes / 4096)).filter fun b => !used.contains b).take n

/-- The blocks of 4 KiB of a byte string. -/
def blockList (d : List PByte) : List (List PByte) := (List.range (d.length / 4096)).map fun i => (d.drop (4096 * i)).take 4096

/-- STASH_SPILL (R224): the frames that hold records exceed HWM and no spill is in flight: the oldest committed record starts for T3. -/
def execStashSpill (c : Nat) (s : State) : Out :=
  .next <| s.onCore c fun s p k =>
    if !k.stashEn || k.stash.inuse ≤ k.stashHwm || k.stash.spilling || !k.canSpill then s
    else
      match k.spillNext with
      | none => s
      | some (num, f) =>
        let bl := s.freeT3 k k.recBlocks
        if bl.length < k.recBlocks then s.freezeAt p 1 frzOut k.stashT3 0
        else
          let pl := s.framePlace k f
          match s.check (.core c) true false k.stashT3 (bl.headD 0 * 4096) 4096, s.check (.core c) false false pl.1 pl.2 k.frameSize with
          | some r, _ => s.freezeAt p 1 r k.stashT3 ((s.objEnt k.stashT3).start + bl.headD 0 * 4096)
          | none, some r => s.freezeAt p 1 r pl.1 ((s.objEnt pl.1).start + pl.2)
          | none, none =>
            let d := (s.objRead pl.1 pl.2 k.frameSize).1
            let e3 := s.objEnt k.stashT3
            let segs := ((blockList d).zip bl).flatMap fun x =>
              (List.range (segsOfBlock (storedLen e3 (x.1.map Prod.fst)))).map fun j =>
                let a := e3.start + 4096 * x.2 + 2048 * j
                ({ ch := (s.objChan k.stashT3 (4096 * x.2)).getD 0, owner := .spill, prio := 0, obj := k.stashT3, addr := a, write := true, epoch := s.epoch } : DmaSeg)
            let recs := k.stash.recs.map fun r => if r.num = num then { r with loc := .spilling f } else r
            s.setCore p { k with stash := { k.stash with recs := recs }, dmaQ := k.dmaQ ++ segs }

/-- STASH_SPILL_DONE (R224): the last T3 block is written and the frame is free. -/
def execStashSpillDone (c : Nat) (s : State) : Out :=
  .next <| s.onCore c fun s p k =>
    let busy := k.dmaQ.any (fun x => x.owner = .spill) || k.tags.any (fun x => x.2.owner = .spill)
    match k.stash.recs.find? fun r => match r.loc with
      | .spilling _ => true
      | _ => false with
    | none => s
    | some r =>
      if busy then s
      else
        match r.frame with
        | none => s
        | some f =>
          let bl := s.freeT3 k k.recBlocks
          let pl := s.framePlace k f
          let x := s.objRead pl.1 pl.2 k.frameSize
          let e3 := s.objEnt k.stashT3
          let len := (blockList x.1).foldl (fun n d => n + storedLen e3 (d.map Prod.fst)) 0
          let s := ((blockList x.1).zip bl).foldl (fun s y => s.wholeWrite k.stashT3 (4096 * y.2) y.1) x.2
          let recs := k.stash.recs.map fun y => if y.num = r.num then { y with loc := .t3 bl } else y
          let k := { (s.core p) with stash := { k.stash with recs := recs, t3use := k.stash.t3use + bl.length } }
          (s.setCore p ((k.bump 0x290C 1).bump 0x2910 len)).stashPresent p

/-- Read n bytes of a committed record at an offset, wherever it lies (R223, R224); none: not committed, or freed. -/
def State.recordRead (s : State) (p num ofs n : Nat) : Option (List PByte × State) :=
  let c := s.core p
  match c.stash.recs.find? fun r => r.num = num && r.committed with
  | none => none
  | some r =>
    match r.loc with
    | .frame f | .spilling f => let pl := s.framePlace c f; some (s.objRead pl.1 (pl.2 + ofs) n)
    | .t3 bl =>
      let r := bl.foldl (fun (acc : List PByte × State) b =>
        let x := acc.2.objRead c.stashT3 (4096 * b) 4096
        (acc.1 ++ x.1, x.2)) ([], s)
      some ((r.1.drop ofs).take n, r.2)

/-! ### Pins (R227 to R232) -/

/-- A version shadow of an object. -/
def State.shadowOf (s : State) (obj ver : Nat) : Option Shadow := s.obj.shadows.find? fun h => h.obj = obj && h.ver = ver

/-- Add n pins on the object side: to the version's shadow when it has one, else to the object (R230, R231). -/
def State.addPins (s : State) (obj ver n : Nat) : State :=
  let e := s.objEnt obj
  if (s.shadowOf obj ver).isNone && e.version = ver then s.setObj obj { e with pincnt := e.pincnt + n }
  else
    { s with obj := { s.obj with shadows := s.obj.shadows.map fun h => if h.obj = obj ∧ h.ver = ver then { h with pins := h.pins + n } else h } }

/-- STR.PIN (R227, R228). -/
def execStrPin (c i : Nat) (s : State) : Out :=
  .next <| s.onWord c 1 6 i fun s p k e =>
    let obj := wbits e.word 56 16
    let ver := wbits e.word 40 16
    let cur := (s.objEnt obj).version
    let bad := match k.pinOf obj with
      | some x => x.ver ≠ ver || 255 ≤ x.cnt || (ver ≠ cur && (s.shadowOf obj ver).isNone)
      | none => 8 ≤ k.pins.length || (ver ≠ cur && (!olderVer cur ver || (s.shadowOf obj ver).isNone))
    if bad then s.haltWord p 1 e 0x0E obj
    else
      let pins := match k.pinOf obj with
        | some _ => k.pins.map fun y => if y.obj = obj then { y with cnt := y.cnt + 1, stepPin := true, stepCnt := y.stepCnt + 1 } else y
        | none => k.pins ++ [{ obj := obj, ver := ver, cnt := 1, stepPin := true, stepCnt := 1 }]
      ((s.setCore p { k with pins := pins }).addPins obj ver 1).finish p 1 i e

/-- STR.UNPIN (R227, R228, R230). -/
def execStrUnpin (c i : Nat) (s : State) : Out :=
  .next <| s.onWord c 1 7 i fun s p k e =>
    let obj := wbits e.word 56 16
    let ver := wbits e.word 40 16
    match k.pinOf obj with
    | none => s.haltWord p 1 e 0x0E obj
    | some x =>
      if x.ver ≠ ver then s.haltWord p 1 e 0x0E obj
      else
        let pins := (k.pins.map fun y => if y.obj = obj then { y with cnt := y.cnt - 1, stepCnt := min y.stepCnt (y.cnt - 1) } else y).filter fun y => y.cnt ≠ 0
        ((s.setCore p { k with pins := pins }).dropPins obj ver 1).finish p 1 i e

end Sys2Proof.Machine
end

