-- ==== Sys2Proof/Machine/Stream.lean ====
section
/-! DEFINITION. The stream unit: descriptors, copies, cancel, and DMA segments with their tags (R189, R269 to R280). -/

namespace Sys2Proof.Machine

/-! ### Descriptors (R269) -/

def dSobj (d : BitVec 512) : Nat := sdField d 0 2
def dDobj (d : BitVec 512) : Nat := sdField d 2 2
def dFlags (d : BitVec 512) : Nat := sdField d 4 2
def dGuard (d : BitVec 512) : Bool := bitAt (dFlags d) 0
def dHinEn (d : BitVec 512) : Bool := bitAt (dFlags d) 1
def dHoutEn (d : BitVec 512) : Bool := bitAt (dFlags d) 2
def dDdamask (d : BitVec 512) : Bool := bitAt (dFlags d) 3
def dStashRec (d : BitVec 512) : Bool := bitAt (dFlags d) 4
def dConsume (d : BitVec 512) : Bool := bitAt (dFlags d) 5
def dDstPat (d : BitVec 512) : Bool := bitAt (dFlags d) 6
def dDpool (d : BitVec 512) : Nat := bitsOf (dFlags d) 12 4
def dFmt (d : BitVec 512) : Nat := bitsOf (sdField d 6 1) 0 4
def dEsz (d : BitVec 512) : Nat := bitsOf (sdField d 6 1) 4 2
def dPrio (d : BitVec 512) : Nat := bitsOf (sdField d 6 1) 6 2
def dCodec (d : BitVec 512) : Nat := sdField d 7 1
def dSofs (d : BitVec 512) : Nat := sdField d 8 5
def dDofs (d : BitVec 512) : Nat := sdField d 13 5
def dScofs (d : BitVec 512) : Nat := sdField d 18 5
def dHin (d : BitVec 512) : Nat := bitsOf (sdField d 23 1) 0 3
def dHout (d : BitVec 512) : Nat := bitsOf (sdField d 23 1) 3 3
def dCount (d : BitVec 512) (i : Nat) : Nat := sdField d (24 + 7 * i) 3 + 1
def dStride (d : BitVec 512) (i : Nat) : Int := signedOf 32 (sdField d (27 + 7 * i) 4)
def dDscofs (d : BitVec 512) : Nat := sdField d 59 5

/-- Bytes of one unit of the patterned side: an element, or for an MX format the whole of dimension 0 (R270). -/
def dUnit (d : BitVec 512) : Nat := if isMx (dFmt d) then dCount d 0 * fmtWidth (dFmt d) / 8 else 2 ^ dEsz d

/-- Counts and strides of the dimensions that step units, innermost first (R270). -/
def dDims (d : BitVec 512) : List (Nat × Int) :=
  (if isMx (dFmt d) then [1, 2, 3, 4] else [0, 1, 2, 3, 4]).map fun i => (dCount d i, dStride d i)

/-- The offsets of the units of the patterned side, in order (R270). -/
def patGo : List (Nat × Int) → List Int
  | [] => [0]
  | (n, st) :: t => (patGo t).flatMap fun o => (List.range n).map fun i => o + (i : Int) * st

def patOffsets (d : BitVec 512) : List Int := patGo (dDims d)

/-- Units of a descriptor. -/
def dUnits (d : BitVec 512) : Nat := (dDims d).foldl (fun n x => n * x.1) 1
/-- Bytes that it moves per run. -/
def dBytes (d : BitVec 512) : Nat := dUnits d * dUnit d
/-- Scale bytes that it copies (R270). -/
def dScales (d : BitVec 512) : Nat := if isMx (dFmt d) then dUnits d * dCount d 0 / 32 else 0

/-- A side of a stream: the space or object, the base added to offsets, the limit of a buffer, and a stash record. -/
structure StrSide where
  obj : Nat
  base : Nat
  limit : Option Nat
  record : Option Nat
  deriving DecidableEq, Repr

/-- Offsets of the units on a side: patterned or contiguous, with the ILEV offset (R270). -/
def sideOffsets (d : BitVec 512) (pat : Bool) (start ilev : Nat) : List Int :=
  let u := dUnit d
  if pat then (patOffsets d).map fun o => (start : Int) + o + (ilev : Int) * dStride d 4
  else (List.range (dUnits d)).map fun i => ((start + ilev * dBytes d + i * u : Nat) : Int)

/-- The source side of a copy: `hnd` the handle it took. -/
def Core.srcSide (c : Core) (d : BitVec 512) (hnd : Option Nat) : StrSide × Nat :=
  match hnd with
  | some h => let b := c.buffer h; ({ obj := dSobj d, base := b.2.1, limit := some b.2.2, record := none }, dSofs d)
  | none =>
    if dStashRec d then ({ obj := dSobj d, base := 0, limit := none, record := some (dSofs d % 2 ^ 24) }, 0)
    else ({ obj := dSobj d, base := 0, limit := none, record := none }, dSofs d)

def Core.dstSide (c : Core) (d : BitVec 512) (hnd : Option Nat) : StrSide × Nat :=
  match hnd with
  | some h => let b := c.buffer h; ({ obj := dDobj d, base := b.2.1, limit := some b.2.2, record := none }, dDofs d)
  | none => ({ obj := dDobj d, base := 0, limit := none, record := none }, dDofs d)

/-- The address reported for a local byte: of T0 as it stands, of the slice its device address (R172, R296). -/
def State.localAddr (s : State) (p space a : Nat) : Nat := if space = 0 then a else (s.logical p).getD 0 * 0x800000 + a

/-- The local space that an object number names, if it does (R269). -/
def localSpace (obj : Nat) : Option Nat := if obj = 0xFFFF then some 0 else if obj = 0xFFFE then some 1 else none

/-- The access of n bytes at an offset of a side is refused: reason, object and address (R259, R271, R299). -/
def State.sideCheck (s : State) (p : Nat) (write : Bool) (x : StrSide) (ofs : Int) (n : Nat) : Option (Nat × Nat × Nat) :=
  match localSpace x.obj with
  | some sp =>
    let a := (x.base + ofs).toNat
    let beyond := match x.limit with
      | some l => decide (ofs < 0 ∨ (l : Int) < ofs + n)
      | none => decide (ofs < 0 ∨ (spaceSize sp : Int) < ofs + n)
    if beyond || decide (spaceSize sp < a + n) then some (frzOut, 0xFFFF, s.localAddr p sp a) else none
  | none =>
    if x.record.isSome then
      if ofs < 0 ∨ ((s.core p).frameSize : Int) < ofs + n then some (frzOut, x.obj, ofs.toNat) else none
    else
      let at_ := (s.objEnt x.obj).start + ofs.toNat
      if ofs < 0 then some (frzOut, x.obj, at_)
      else (s.check (.core ((s.logical p).getD 0)) write false x.obj ofs.toNat n).map fun r => (r, x.obj, at_)

/-- Read bytes of a local space, with the poison of each 64 B granule (R255). -/
def State.localGran (s : State) (p space a n : Nat) : List PByte :=
  (cuts a n).flatMap fun x =>
    let g := x.1 / 64 * 64
    let pz := if space = 0 then pzRead 8 s.t0Pz (t0Key p g) 64 else pzRead 8 s.slicePz (sliceKey p g) 64
    (s.localRead p space x.1 x.2).1.map fun b => (b, pz)

/-- Blocks that units at offsets touch, each once. -/
def blocksTouched (offs : List Nat) (u : Nat) : List Nat := (offs.foldl (fun l o => (blocksOf o u).foldl sins l) [])

/-- Read units of u bytes at offsets of a side. A coded object's blocks are each read once (R275). -/
def State.gather (s : State) (p : Nat) (x : StrSide) (offs : List Nat) (u : Nat) : List PByte × State :=
  match localSpace x.obj with
  | some sp => (offs.flatMap fun o => s.localGran p sp (x.base + o) u, s)
  | none =>
    if (s.objEnt x.obj).coded then
      let t := (blocksTouched offs u).foldl (fun (acc : Amap (List PByte) × State) b =>
        let r := acc.2.coreRead p x.obj (4096 * b) 4096
        (aset acc.1 b r.1, r.2)) ([], s)
      (offs.flatMap fun o => (List.range u).map fun i => (aget [] t.1 ((o + i) / 4096)).getD ((o + i) % 4096) (0, true), t.2)
    else
      offs.foldl (fun (acc : List PByte × State) o =>
        let r := acc.2.coreRead p x.obj o u
        (acc.1 ++ r.1, r.2)) ([], s)

/-- The T0 address of a byte that DDAMASK places: the address is read in the rows layout (R256, R257, R270). -/
def damaskByte (a : Nat) : Nat := damaskAddr (a / 8192) (a / 128 % 64) (a / 2 % 64) + a % 2

/-- Write the units `d` (each u bytes) at offsets of a side. A coded object's blocks are each written once. -/
def State.scatter (s : State) (p : Nat) (x : StrSide) (damask : Bool) (offs : List Nat) (u : Nat) (d : List PByte) : State :=
  let units := offs.zipIdx.map fun y => (y.1, (d.drop (y.2 * u)).take u)
  match localSpace x.obj with
  | some sp =>
    let parts : List (Nat × List PByte) := units.flatMap fun y =>
      if damask then y.2.zipIdx.map fun z => (damaskByte (x.base + y.1 + z.2), [z.1]) else [(x.base + y.1, y.2)]
    (parts.foldl (fun s y => s.localWrite p sp y.1 (y.2.map Prod.fst) (y.2.any Prod.snd)) s).localClear p sp
      ((parts.filter fun y => !(y.2.any Prod.snd)).map fun y => (y.1, y.2.length))
  | none =>
    if (s.objEnt x.obj).coded then
      (blocksTouched offs u).foldl (fun s b =>
        let mine := units.filter fun y => b ∈ blocksOf y.1 u
        let r := if mine.length * u < 4096 then s.objRead x.obj (4096 * b) 4096 else (List.replicate 4096 (0, false), s)
        let img := mine.foldl (fun img y =>
          y.2.zipIdx.foldl (fun (img : List PByte) z => if (y.1 + z.2) / 4096 = b then img.set ((y.1 + z.2) % 4096) z.1 else img) img) r.1
        r.2.objWrite x.obj (4096 * b) img) s
    else units.foldl (fun s y => s.objWrite x.obj y.1 y.2) s

/-! ### Segments (R279) -/

/-- Stored bytes of block b of a coded object: SLEN of its record, or its image (R314, R317). -/
def State.storedAt (s : State) (e : ObjEnt) (b : Nat) : Nat :=
  if e.muslin then
    let m := s.objEnt e.metaObj
    64 * ((numOf (((s.devRead m.tier m.stripe (m.start + 32 * b + 10) 2).map Prod.fst)) + 63) / 64)
  else mxqImageLen e.mxq

/-- The 2 KiB segments of units of u bytes at offsets of an object in T2 or T3; a coded block takes the segments that its
stored bytes fill (log 28): of a Muslin block those that its record names. -/
def State.segsOf (s : State) (obj : Nat) (offs : List Nat) (u : Nat) (owner : DmaOwner) (prio : Nat) (write : Bool) : List DmaSeg :=
  let e := s.objEnt obj
  if e.tier = 0 then []
  else
    let places := if e.coded then
        (blocksTouched offs u).flatMap fun b => (List.range (segsOfBlock (s.storedAt e b))).map fun j => 4096 * b + 2048 * j
      else
        (offs.foldl (fun l o => (List.range ((o + u - 1) / 2048 + 1 - o / 2048)).foldl (fun l j => sins l (o / 2048 + j)) l) []).map (2048 * ·)
    places.map fun o => { ch := (s.objChan obj o).getD 0, owner := owner, prio := prio, obj := obj, addr := e.start + o, write := write, epoch := s.epoch }

/-- The segments of a side of a stream. -/
def State.sideSegs (s : State) (p : Nat) (x : StrSide) (offs : List Nat) (u : Nat) (owner : DmaOwner) (prio : Nat) (write : Bool) : List DmaSeg :=
  match localSpace x.obj with
  | some _ => []
  | none =>
    match x.record with
    | some num =>
      match (s.core p).stash.recs.find? fun r => r.num = num with
      | some { loc := .t3 bl, .. } => s.segsOf (s.core p).stashT3 (bl.map (4096 * ·)) 4096 owner prio write
      | some r => (match r.frame with
        | some f => let pl := s.framePlace (s.core p) f; s.segsOf pl.1 (offs.map (· + pl.2)) u owner prio write
        | none => [])
      | none => []
    | none =>
      if write then s.segsOf x.obj offs u owner prio write
      else match s.readTarget p x.obj with
        | some (o, a) => s.segsOf o (offs.map (· + a)) u owner prio write
        | none => []

/-! ### Starting a stream word (R267, R271 to R273) -/

/-- ILLEGAL_OP cases of R272 that the descriptor alone decides, with CODEC = 1 between unlike objects (log 29). -/
def State.badDesc (s : State) (c : Core) (d : BitVec 512) : Bool :=
  bitsOf (dFlags d) 7 5 ≠ 0 || dEsz d = 3 || 2 ≤ dCodec d || 64 ≤ sdField d 23 1 || dFmt d = 15
    || (isMx (dFmt d) && dCount d 0 % 32 ≠ 0) || (dDdamask d && dDobj d ≠ 0xFFFF)
    || (dStashRec d && (dSobj d ≠ c.stashT1 || dHinEn d))
    || (dCodec d = 1 &&
        let a := s.objEnt (dSobj d)
        let b := s.objEnt (dDobj d)
        let tier (o : Nat) (e : ObjEnt) : Bool := (localSpace o).isNone && e.tier = 2
        let cod (o : Nat) (e : ObjEnt) : Bool × Nat := if (localSpace o).isSome then (false, 0) else (e.muslin, e.mxq)
        decide (cod (dSobj d) a ≠ cod (dDobj d) b) || tier (dSobj d) a != tier (dDobj d) b)

/-- The start of a STR.COPY. -/
def State.startCopy (s : State) (p : Nat) (e : Cqe) : Start :=
  let c := s.core p
  let d := aget 0 c.sd (wbits e.word 67 5)
  let hin := dHin d
  let hout := dHout d
  let ill := Start.stop (s.haltIllegal p 1 e)
  if s.badDesc c d then ill
  else
    match c.roles 1 [] [] (if dHinEn d then [hin] else []) (if dHoutEn d then [hout] else []) with
    | some info => .stop (s.haltWord p 1 e 0x05 info)
    | none =>
      let head := if dHinEn d then some (c.headHandle hin 1 e.seqno (wbits e.word 60 4)) else none
      match head with
      | some .empty => .wait (s.setCore p (c.emptyPop hin))
      | some (.bad r info) => .stop (s.haltWord p 1 e r info)
      | _ =>
        let src := match head with
          | some (.ok x) => some x.h
          | _ => none
        if src.any fun h => localSpace (dSobj d) ≠ some (c.buffer h).1 then ill
        else
          let la := bitsOf (c.hqCfg hout) 0 7
          let la := if la = 0 then 64 else min la 64
          if dHoutEn d && la ≤ (c.handleQ hout).ents.length + c.inFlightTo hout then .wait s
          else
            let c1 := if dHinEn d then c.popHandle hin else c
            if dHoutEn d then
              match c1.freeList (dDpool d) with
              | [] => .wait (s.bumpCore p 0x3A9C 1)
              | i :: _ =>
                if localSpace (dDobj d) ≠ some (c.btEnt i).space then ill
                else
                  match c1.alloc (dDpool d) with
                  | none => .wait s
                  | some (h, c2) =>
                    .go (s.setCore p { c2 with inflight := c2.inflight ++ [hIdx h] })
                      { e with hnd := src, out := some h, vals := [hout, d.toNat] }
            else .go (s.setCore p c1) { e with hnd := src, vals := [8, d.toNat] }

/-- The start of a stream word (R145: a STR.CANCEL names a handle queue that is bound). At most four execute; an STR.LDD that executes holds later starts, so that a copy takes its descriptor (R189,
R273). -/
def State.startStream (s : State) (p : Nat) (e : Cqe) : Start :=
  let c := s.core p
  let run := (c.words 1).filter Cqe.started
  let q := wbits e.word 69 3
  if 4 ≤ run.length || run.any (fun x => wOp x.word = 1 && !x.fin) then .wait s
  else if wOp e.word = 2 then s.startCopy p e
  else if wOp e.word = 3 && (c.handleQ q).bind.isNone then .stop (s.haltWord p 1 e 0x05 (roleInfo q true 1 3))
  else .go s e

/-! ### Stream operations -/

/-- STR.LDD (R189): reads 64 B of T0 or of the own slice into a descriptor register. -/
def execStrLdd (c i : Nat) (s : State) : Out :=
  .next <| s.onWord c 1 1 i fun s p k e =>
    let sp := wbits e.word 66 1
    let a := wbits e.word 49 17 * 64
    if spaceSize sp < a + 64 then s.freezeAt p 1 frzOut 0xFFFF (s.localAddr p sp a)
    else
      let r := s.localGran p sp a 64
      if r.any Prod.snd then s.haltWord p 1 e 0x0C (2 + sp)
      else
        let k := { k with sd := aset k.sd (wbits e.word 67 5) (BitVec.ofNat 512 (numOf (r.map Prod.fst))) }
        (s.setCore p k).finish p 1 i e

/-- Source of the poison of a copy (R171). -/
def poisonSource (obj tier : Nat) : Nat := if obj = 0xFFFF then 2 else if obj = 0xFFFE then 3 else if tier = 0 then 3 else 5

/-- Offsets as natural numbers; the set-up has refused the negative ones. -/
def natOffs (l : List Int) : List Nat := l.map Int.toNat

/-- With DDAMASK the destination takes accesses of 64 positions, 128 B of the data each, and an access is at a multiple of 128: one that is not
has a[0] = 1 or e + 64 > 64 (R257, R270; log 147). -/
def damaskBad (d : BitVec 512) (offs : List Int) (base : Nat) : Bool :=
  let u := max 1 (dUnit d)
  dDdamask d && (List.range ((dBytes d + 127) / 128)).any fun j => ((base : Int) + offs.getD (128 * j / u) 0 + (128 * j % u : Nat)) % 128 ≠ 0

/-- Bytes that a copy moves in one pass: data and scale bytes (R274). -/
def dMoved (d : BitVec 512) : Nat := dBytes d + dScales d

/-- The granules that a completed transfer has moved: a refetched one also its first pass without the final granule (R274, R277). -/
def movedGranules (d : BitVec 512) (refetched : Bool) : Nat := (dMoved d + (if refetched then dMoved d - 64 else 0) + 63) / 64

/-- The set-up of a copy (R275, R299): every access is checked, the write of a guarded destination starts (R277), segments go to the
channels' queues. An access that is refused freezes the core before any byte moves (log 30). -/
def State.copySetup (s : State) (p i : Nat) (e : Cqe) : State :=
  let c := s.core p
  let d := e.desc
  let u := dUnit d
  let sx := c.srcSide d e.hnd
  let dx := c.dstSide d e.out
  let so := sideOffsets d (!dDstPat d) sx.2 e.ilev
  let do_ := sideOffsets d (dDstPat d) dx.2 e.ilev
  let bad := ((so.filterMap fun o => s.sideCheck p false sx.1 o u) ++ (do_.filterMap fun o => s.sideCheck p true dx.1 o u)
    ++ (if dScales d = 0 then [] else (s.sideCheck p false sx.1 (dScofs d : Nat) (dScales d)).toList
        ++ (s.sideCheck p true dx.1 (dDscofs d : Nat) (dScales d)).toList)).head?
  let stale := sx.1.record.any fun n => !(c.stash.recs.any fun r => r.num = n && r.committed)
  if stale then s.haltWord p 1 e 0x0D c.stashT1
  else if damaskBad d do_ dx.1.base then s.haltIllegal p 1 e
  else
    match bad with
    | some (r, o, a) => s.freezeAt p 1 r o a
    | none =>
      let own := DmaOwner.stream e.seqno
      let scale := if dScales d = 0 then [] else [dScales d]
      -- the stored length of a Muslin block written is known when it has been coded: its segments follow then (R279)
      let late := (localSpace dx.1.obj).isNone && (s.objEnt dx.1.obj).muslin && dCodec d ≠ 1
      let segs := s.sideSegs p sx.1 (natOffs so) u own (dPrio d) false ++ (if late then [] else s.sideSegs p dx.1 (natOffs do_) u own (dPrio d) true)
        ++ scale.flatMap (fun n => s.sideSegs p sx.1 [dScofs d] n own (dPrio d) false ++ s.sideSegs p dx.1 [dDscofs d] n own (dPrio d) true)
      let src := s.objEnt sx.1.obj
      let wgen := if dGuard d && (localSpace sx.1.obj).isNone && src.guarded then some src.wgen else none
      let s := if e.n = 0 && !e.refetched && (localSpace dx.1.obj).isNone then s.bumpGen dx.1.obj else s
      let c := s.core p
      (s.setCore p { c with dmaQ := c.dmaQ ++ segs }).putWord p 1 i { e with n := 1, segs := segs.length, wgen := wgen, epoch := s.epoch }

/-- The records of the metadata of the blocks that a copy of stored bytes moves whole (R275). -/
def State.copyRecords (s : State) (so do_ n : Nat) (a b : ObjEnt) : State :=
  if !a.muslin || so % 4096 ≠ do_ % 4096 then s
  else
    let ma := s.objEnt a.metaObj
    let mb := s.objEnt b.metaObj
    (blocksOf do_ n).foldl (fun s blk =>
      let sb := blk + so / 4096 - do_ / 4096
      s.devWrite mb.tier mb.stripe (mb.start + 32 * blk) (s.devRead ma.tier ma.stripe (ma.start + 32 * sb) 32)) s

/-- Units before the first poisoned byte. -/
def cleanUnits (d : List PByte) (u : Nat) : Nat := (d.takeWhile fun b => !b.2).length / max u 1

/-- The read of a copy's source: units, and stored bytes where CODEC = 1. -/
def State.copyRead (s : State) (p : Nat) (d : BitVec 512) (x : StrSide) (offs : List Nat) (u : Nat) : List PByte × State :=
  match x.record with
  | some n =>
    match s.recordRead p n 0 (s.core p).frameSize with
    | some r =>
      let t3 := (s.core p).stash.recs.any fun y => y.num = n && y.frame.isNone
      (offs.flatMap fun o => (r.1.drop o).take u, if t3 then r.2.bumpCore p 0x2914 1 else r.2)
    | none => (List.replicate (offs.length * u) (0, true), s)
  | none =>
    if dCodec d = 1 && (localSpace x.obj).isNone then
      match s.readTarget p x.obj with
      | some (o, a) =>
        let e := s.objEnt o
        (offs.flatMap fun y => s.devRead e.tier e.stripe (e.start + a + y) u, s.noteRead p x.obj)
      | none => (List.replicate (offs.length * u) (0, true), s)
    else s.gather p x offs u

/-- The write of a copy's destination. -/
def State.copyWrite (s : State) (p : Nat) (d : BitVec 512) (damask : Bool) (x : StrSide) (offs : List Nat) (u : Nat) (data : List PByte) : State :=
  if dCodec d = 1 && (localSpace x.obj).isNone then
    let e := s.objEnt x.obj
    offs.zipIdx.foldl (fun s y => s.devWrite e.tier e.stripe (e.start + y.1) ((data.drop (y.2 * u)).take u)) s
  else s.scatter p x damask offs u data

/-- The completion of a copy (R267, R274, R276): its handle is pushed, or released when the copy was cancelled; the source's handle and a
consumed record are released. -/
def State.streamComplete (s : State) (p : Nat) (e : Cqe) : State :=
  if wOp e.word ≠ 2 then s
  else
    let d := e.desc
    let s := match e.hnd with
      | some h => s.release p h
      | none => s
    let s := if dStashRec d && dConsume d then (s.modCore p fun c => c.freeRecord (dSofs d % 2 ^ 24)).stashPresent p else s
    match e.out with
    | none => s
    | some h =>
      if e.cancelled then (s.bumpCore p 0x3A88 (movedGranules d e.refetched)).release p h
      else
        let c := s.core p
        let c := c.pushHandle (dHout d) { h := h, epoch := wbits e.word 52 8, tok := e.seqno, la := true, bytes := 64 * movedGranules d e.refetched }
        s.setCore p (c.bump (cLa (dHout d) 0) 1)

/-- The move of a copy whose segments are done (R270, R277). -/
def State.copyMove (s : State) (p i : Nat) (e : Cqe) : State :=
  let c := s.core p
  let d := e.desc
  let u := dUnit d
  let sx := c.srcSide d e.hnd
  let dx := c.dstSide d e.out
  let so := natOffs (sideOffsets d (!dDstPat d) sx.2 e.ilev)
  let do_ := natOffs (sideOffsets d (dDstPat d) dx.2 e.ilev)
  let src := s.objEnt sx.1.obj
  let mismatch := e.wgen.any fun g => g ≠ src.wgen || g % 2 = 1
  let stale := sx.1.record.any fun n => !(c.stash.recs.any fun r => r.num = n && r.committed)
  if stale then s.haltWord p 1 e 0x0D c.stashT1
  else if mismatch then
    if e.refetched then s.haltWord p 1 e 0x0D sx.1.obj
    else
      let s := s.modCore p fun c => (c.bump 0x3A80 1).modSeq fun q => { q with flags := q.flags ||| 0x20 }
      s.putWord p 1 i { e with n := 0, refetched := true }
  else
    let r := s.copyRead p d sx.1 so u
    let data := r.1
    let sc := if dScales d = 0 then ([], r.2) else r.2.copyRead p d sx.1 [dScofs d] (dScales d)
    let s := sc.2
    let perUnit := if dScales d = 0 then 1 else dCount d 0 / 32
    let good := min (cleanUnits data u) (if dScales d = 0 then dUnits d else (sc.1.takeWhile fun b => !b.2).length / perUnit)
    let s := s.copyWrite p d (dDdamask d) dx.1 (do_.take good) u (data.take (good * u))
    if good < dUnits d then
      s.haltWord p 1 e 0x0C (poisonSource sx.1.obj src.tier)
    else
      let s := if dScales d = 0 then s else s.copyWrite p d false dx.1 [dDscofs d] (dScales d) sc.1
      let s := if dCodec d = 1 && (localSpace sx.1.obj).isNone && (localSpace dx.1.obj).isNone then
          s.copyRecords (so.headD 0) (do_.headD 0) (dBytes d) (s.objEnt sx.1.obj) (s.objEnt dx.1.obj)
        else s
      let s := if (localSpace dx.1.obj).isNone then s.bumpGen dx.1.obj else s
      -- the segments of the Muslin blocks written
      let late := (localSpace dx.1.obj).isNone && (s.objEnt dx.1.obj).muslin && dCodec d ≠ 1
      let segs := if late then s.sideSegs p dx.1 do_ u (.stream e.seqno) (dPrio d) true else []
      if segs.isEmpty then s.finish p 1 i e
      else (s.modCore p fun c => { c with dmaQ := c.dmaQ ++ segs }).putWord p 1 i { e with n := 2, segs := segs.length }

/-- A copy is ready to move and word i waits for it: it has the higher PRIO, or the same and started first (R275). -/
def Core.moveAhead (c : Core) (i : Nat) (e : Cqe) : Bool :=
  (c.words 1).zipIdx.any fun y => y.1.started && !y.1.fin && wOp y.1.word = 2 && y.1.n = 1 && y.1.segs = 0
    && (dPrio e.desc < dPrio y.1.desc || (dPrio e.desc = dPrio y.1.desc && y.2 < i))

/-- STR.COPY (R270 to R277): set-up with its segments; when they are done, the move, in the order of R275; and the end when what it wrote is
acknowledged. -/
def State.copyStep (s : State) (p i : Nat) (e : Cqe) : State :=
  if e.n = 0 then s.copySetup p i e
  else if e.segs ≠ 0 then s
  else if e.n = 2 then s.finish p 1 i e
  else if (s.core p).moveAhead i e then s
  else s.copyMove p i e

/-- STR.COPY: a copy set up in an older epoch goes on under that epoch's settings (R302). -/
def execStrCopy (c i : Nat) (s : State) : Out :=
  .next <|
    match s.phys c with
    | none => s
    | some p =>
      if s.inReset p then s
      else
        let ep := (((s.core p).words 1)[i]?).elim s.epoch fun e => if e.n = 0 then s.epoch else e.epoch
        let run (s : State) : State := s.doWord p 1 2 i fun s p _ e => s.copyStep p i e
        (if ((((s.core p).words 1)[i]?).any fun e => e.n ≠ 0) then s.underAt p ep run else s.under p run).rstBegin

/-- Distance test of R274. -/
def epochOld (epoch e : Nat) : Bool := (epoch + 256 - e % 256) % 256 < 128

/-- STR.CANCEL (R274). -/
def execStrCancel (c i : Nat) (s : State) : Out :=
  .next <| s.onWord c 1 3 i fun s p k e =>
    let q := wbits e.word 69 3
    let ep := wbits e.word 61 8
    let x := k.handleQ q
    let gone := x.ents.filter fun h => epochOld ep h.epoch && !h.poison
    let keep := x.ents.filter fun h => !(epochOld ep h.epoch && !h.poison)
    let hit (y : Cqe) : Bool := y.started && wOp y.word = 2 && y.out.isSome && y.vals.getD 0 8 = q && epochOld ep (wbits y.word 52 8)
      && !y.cancelled
    let ws := (k.words 1).zipIdx.map fun y => if y.2 < i && hit y.1 then { y.1 with cancelled := true } else y.1
    let n := gone.length + (((k.words 1).take i).filter hit).length
    let waste := gone.foldl (fun n h => n + (h.bytes + 63) / 64) 0
    let k := (k.setHandleQ q { x with ents := keep }).setWords 1 ws
    let k := ((k.bump 0x3A84 n).bump (cLa q 2) n).bump 0x3A88 waste
    let k := if gone.isEmpty then k else k.modSeq fun q => { q with flags := q.flags ||| 0x40 }
    let s := gone.foldl (fun s h => s.release p h.h) (s.setCore p k)
    s.putWord p 1 i { e with fin := true }

/-! ### DMA tags (R279, R280) -/

/-- DMA_QUOTA.QUOTA. -/
def Core.dmaQuota (c : Core) : Nat := max 1 (min 24 (c.reg 0x3010 8 % 32))

/-- Start order of a segment's owner: the place of its stream word; of a flushed word before all, of spills and fetches after all (log 155). -/
def Core.segRank (c : Core) (g : DmaSeg) : Nat :=
  match g.owner with
  | .stream n => ((c.words 1).findIdx? fun e => e.started && e.seqno = n).elim 0 (· + 1)
  | _ => (c.words 1).length + 1

/-- The next segment of a channel's issue queue: the highest PRIO, then start order, then the order of the requests (R275). -/
def Core.nextSeg (c : Core) (ch : Nat) : Option (Nat × DmaSeg) :=
  (c.dmaQ.zipIdx.filter fun x => x.1.ch = ch).foldl (fun (b : Option (Nat × DmaSeg)) x => match b with
    | none => some (x.2, x.1)
    | some y => if y.2.prio < x.1.prio || (y.2.prio = x.1.prio && c.segRank x.1 < c.segRank y.2) then some (x.2, x.1) else b) none

/-- The lowest free tag. -/
def Core.freeTag (c : Core) : Option Nat := (List.range 24).find? fun t => (afind c.tags t).isNone

/-- Why core c takes no DMA tag for a channel now: the counter of the wait, the channel's quota (0x3A8C) or the tags (0x3A90) (R280). -/
def Core.tagWait (c : Core) (ch : Nat) : Option Nat :=
  if c.dmaQuota ≤ (c.tags.filter fun x => x.2.ch = ch).length then some 0x3A8C else if c.freeTag.isNone then some 0x3A90 else none

/-- DMA_SEGMENT_ISSUE (R280). -/
def execDmaSegmentIssue (c ch : Nat) (s : State) : Out :=
  .next <| s.onCore c fun s p k =>
    match k.nextSeg ch with
    | none => s
    | some (i, g) =>
      if !k.working then s
      else
        match k.tagWait ch, k.freeTag with
        | some w, _ => s.bumpCore p w 1
        | none, none => s
        | none, some t =>
            let ofs := g.addr - (s.objEnt g.obj).start
            -- a fetch is checked when it returns; a redirected read is served by the shadow pool, unchecked (R308)
            let bad := match g.owner with
              | .fetch _ => none
              | _ => if g.obj = (aget 0 s.regs 0x400200).toNat % 65536 then none else s.check (.core c) g.write false g.obj ofs 1
            match bad with
            | some r => s.freezeAt p 1 r g.obj g.addr
            | none =>
              -- a coded block is served by its codec engine, which checks its own masks; a fetch meets no coded object
              let gate := if g.obj = (aget 0 s.regs 0x400200).toNat % 65536 then (true, s) else s.codecGate g.obj (s.objEnt g.obj) (ofs / 4096) g.write
              if gate.1 then s.setCore p { k with dmaQ := k.dmaQ.eraseIdx i, tags := aset k.tags t g } else gate.2

/-- The last segment of a flushed stream is done: its handle reaches the free list (R268). -/
def State.dropDone (s : State) (p seqno : Nat) : State :=
  let c := s.core p
  let left := c.tags.any (fun x => x.2.owner = .stream seqno) || c.dmaQ.any (fun x => x.owner = .stream seqno)
  if left then s
  else
    match c.dropH.find? fun x => x.1 = seqno with
    | none => s
    | some x => (s.setCore p { c with dropH := c.dropH.erase x }).release p x.2

/-- A segment is done (R279, R311, R312): its tag is free; `ue`: the granule read is delivered with poison. -/
def State.segmentDone (s : State) (p tag : Nat) (g : DmaSeg) (ce ue : Bool) : State :=
  let s := if ce then s.chanCe g.ch 1 else s
  let s := if ue then
      let e := s.objEnt g.obj
      let s := match s.place e.tier e.stripe g.addr with
        | .chan ch ca => if g.write then s else { s with tierPz := sins s.tierPz (tierKey ch ca / 64) }
        | _ => s
      s.chanUe g.ch 1
    else s
  let k := { s.core p with tags := adel (s.core p).tags tag }
  match g.owner with
  | .stream n =>
    if k.dropH.any (fun x => x.1 = n) then (s.setCore p k).dropDone p n
    else s.setCore p (k.setWords 1 ((k.words 1).map fun e => if e.started && e.seqno = n then { e with segs := e.segs - 1 } else e))
  | .fetch l =>
    s.setCore p (k.modSeq fun q => { q with fills := q.fills.map fun f => if f.line = l then { f with segs := f.segs - 1 } else f })
  | .spill => s.setCore p k

/-- DMA_SEGMENT_DONE (R279, R311, R312), under the settings of the epoch that the segment carries (R302). -/
def execDmaSegmentDone (c tag : Nat) (ce ue : Bool) (s : State) : Out :=
  .next <| match s.phys c with
  | none => s
  | some p => if s.inReset p then s else
    match afind (s.core p).tags tag with
    | none => s
    | some g => (s.underAt p g.epoch fun s => s.segmentDone p tag g ce ue).rstBegin

end Sys2Proof.Machine
end

