-- ==== Sys2Proof/Machine/Load.lean ====
section
/-! DEFINITION. The load unit and the shared tile register (R190 to R192, R201, R210 to R218, R257 to R262, R495). -/

namespace Sys2Proof.Machine

/-- Lanes of a LANES field (R192). -/
def lanesOf (v : Nat) : Nat := if v = 0 then 64 else if v = 1 then 32 else 16

/-- Data queues that a load word pushes. -/
def loadOuts (w : CWord) : List Nat :=
  match wOp w with
  | 1 => []
  | 3 => [wOut w, wOut w + 1]
  | 5 => [wOut w, wbits w 60 4]
  | _ => [wOut w]

/-- Data generators of a load word, each with its format. -/
def loadGens (w : CWord) : List (Nat × Nat) :=
  let g := wbits w 68 4
  match wOp w with
  | 1 => []
  | 3 => [(g, wbits w 64 4), (g + 1, wbits w 60 4)]
  | 4 => [(g, 0)]
  | _ => [(g, wbits w 64 4)]

/-- Scale generators of a load word (R261). -/
def loadScales (w : CWord) : List Nat :=
  match wOp w with
  | 2 => if isMx (wbits w 64 4) then [wbits w 44 4] else []
  | 3 => (if isMx (wbits w 64 4) then [wbits w 44 4] else []) ++ (if isMx (wbits w 60 4) then [wbits w 40 4] else [])
  | _ => []

/-- Formats that a Damask generator does not take (R258). -/
def noDamask (f : Nat) : Bool := f = 6 || f = 7 || f = 8 || f = 0xB || f = 0xC || f = 0xD

def Core.ldGen (c : Core) (g : Nat) : Agen := aget {} c.ldAg g

/-- A load word keeps its generators from its start, so that a later LD.AGSET need not wait for it (R190, R191, R212; log 86): AG or AGA, AGB,
SAG or SAGA, SAGB. -/
def Cqe.latch (e : Cqe) (c : Core) : Cqe :=
  { e with gens := [c.ldGen (wbits e.word 68 4), c.ldGen (wbits e.word 68 4 + 1), c.ldGen (wbits e.word 44 4), c.ldGen (wbits e.word 40 4)] }

/-- Generator j of a started load word. -/
def Cqe.gen (e : Cqe) (j : Nat) : Agen := e.gens.getD j {}

/-- An executing LD.SHT has tiles still to read. -/
def shtReading (e : Cqe) : Bool := e.n < 16 * (wRep e.word + 1)

/-- A started load word holds the start of one that pushes the same queue (R212). -/
def loadBlocks (e : Cqe) (w : CWord) : Bool :=
  e.started && !e.fin && (loadOuts e.word).any (fun q => (loadOuts w).contains q) && (wOp e.word ≠ 5 || shtReading e)

/-- QUEUE_ROLE of the served queues of an LD.SHT (R217). -/
def Core.shtRole (c : Core) (w : CWord) : Option Nat :=
  let one (q cons : Nat) : Option Nat := match (c.dataQ q).bind with
    | none => some (roleInfo q false 2 3)
    | some b => if b = (2, cons) then none else some (roleInfo q false 2 1)
  match one (wOut w) 4 with
  | some x => some x
  | none => one (wbits w 60 4) 3

/-- The servings of an LD.SHT word (R211). -/
def servingsOf (e : Cqe) : List Serving :=
  let n := wRep e.word + 1
  let f := wbits e.word 64 4
  (List.range ((n + 1) / 2)).map fun i =>
    { word := e.seqno, num := i, tiles := min 2 (n - 2 * i), outA := wbits e.word 60 4, outB := wOut e.word
      r := if f ≤ 1 then 1 else 2, width := fmtWidth f }

/-- The start of a load word (R145, R212, R217, R258, R261, R267). -/
def State.startLoad (s : State) (p : Nat) (e : Cqe) : Start :=
  let c := s.core p
  let w := e.word
  let run := (c.words 2).filter fun x => x.started && !x.fin
  if 4 ≤ run.length || run.any (fun x => loadBlocks x w) || run.any (fun x => wOp x.word = 1) then .wait s
  else
    let hin := wbits w 56 3
    let hinEn := (2 ≤ wOp w && wOp w ≤ 4) && wbit w 59
    let role := if wOp w = 5 then c.shtRole w else c.roles 2 [] (loadOuts w) (if hinEn then [hin] else []) []
    match role with
    | some info => .stop (s.haltWord p 2 e 0x05 info)
    | none =>
      let damask := (loadGens w).find? fun g => (c.ldGen g.1).layout ≠ 0 && noDamask g.2
      match damask with
      | some g => .stop (s.haltWord p 2 e 0x0A (numfmt 4 g.2 0).2)
      | none =>
        if (loadScales w).any fun g => (c.ldGen g).layout ≠ 0 then .stop (s.haltIllegal p 2 e)
        else if wOp w = 5 then
          let c := { c with sht := { c.sht with servs := c.sht.servs ++ servingsOf e } }
          let mark (c : Core) (q : Nat) : Core := c.setDataQ q { c.dataQ q with served := some e.seqno }
          .go (s.setCore p (mark (mark c (wOut w)) (wbits w 60 4))) (e.latch c)
        else if hinEn then
          match c.headHandle hin 2 e.seqno (wbits w 52 4) with
          | .empty => .wait (s.setCore p (c.emptyPop hin))
          | .bad r info => .stop (s.haltWord p 2 e r info)
          | .ok x => .go (if wbit w 51 then s.setCore p (c.popHandle hin) else s) { (e.latch c) with hnd := some x.h }
        else .go s (e.latch c)

/-- The completion of a load word: a popped handle is released (R267). -/
def State.loadComplete (s : State) (p : Nat) (e : Cqe) : State :=
  match e.hnd with
  | some h => if wbit e.word 51 then s.release p h else s
  | none => s

/-! ### Accesses -/

/-- What an access answers: bytes with poison, or a freeze, or ILLEGAL_OP. -/
inductive Access where
  | ok (d : List Byte) (poison : Bool)
  | out (addr : Nat)
  | illegal

/-- Access k of a generator of `l` positions or n bytes (R257, R260): a linear access reads 128 B. -/
def State.genRead (s : State) (p : Nat) (g : Agen) (base : Int) (k l : Nat) : Access :=
  let a := g.addr base k
  let sp := g.space
  if a < 0 ∨ (spaceSize sp : Int) ≤ a then .out (s.localAddr p sp (a % 2 ^ 24).toNat)
  else
    let a := a.toNat
    if g.layout = 0 then
      if spaceSize sp < a + 128 then .out (s.localAddr p sp a)
      else let r := s.localRead p sp a 128; .ok r.1 r.2
    else
      match damaskLine g.layout a l with
      | none => .illegal
      | some l =>
        let r := l.map fun x => s.localRead p 0 x 2
        .ok (r.flatMap Prod.fst) (r.any Prod.snd)

/-- The base of the generators of a word: the buffer of its handle, and the ILEV offset (R186, R191). -/
def Core.genBase (c : Core) (e : Cqe) (g : Agen) : Int :=
  ((e.hnd.elim 0 fun h => (c.buffer h).2.1 : Nat) : Int) + g.ilev e.ilev

/-- Low or high bytes of 16-bit positions (R258). -/
def halfBytes (d : List Byte) (odd : Nat) : List Byte := (List.range (d.length / 2)).map fun i => d.getD (2 * i + odd) 0

/-- What an access leaves: bytes and poison. -/
abbrev Got := List Byte × Bool

/-- Entry k of one operand: format f, rate r, L lanes (R81, R257, R258, R260, R495), and the access it is taken from. At rate 1 one access to an
8-bit Damask block, `old`, serves two entries (R258). -/
def State.loadEntry (s : State) (p : Nat) (e : Cqe) (g : Agen) (f r l k : Nat) (old : Got) : Except Access (Got × Got) :=
  let base := (s.core p).genBase e g
  let w := fmtWidth f
  if g.layout ≠ 0 && w = 8 then
    if r = 1 && k % 2 = 1 then .ok ((halfBytes old.1 1, old.2), old)
    else match s.genRead p g base (if r = 2 then k else k / 2) l with
      | .ok d z => .ok ((if r = 2 then halfBytes d 0 ++ halfBytes d 1 else halfBytes d 0, z), (d, z))
      | x => .error x
  else
    match s.genRead p g base k l with
    | .ok d z => .ok ((d.take (min 128 (l * w * r / 8)), z), (d, z))
    | x => .error x

/-- The side-band of entry k at rate r of L lanes, through a scale generator: read once for 32/r entries, then `old` (R261). -/
def State.loadSide (s : State) (p : Nat) (e : Cqe) (g : Agen) (r l k : Nat) (old : Got) : Except Access Got :=
  if k % (32 / r) ≠ 0 then .ok old
  else
    let a := g.addr ((s.core p).genBase e g) (k / (32 / r))
    if a < 0 ∨ (spaceSize g.space : Int) ≤ a then .error (.out (s.localAddr p g.space (a % 2 ^ 24).toNat))
    else
      let a := a.toNat
      if 128 < a % 128 + l then .error .illegal else .ok (s.localRead p g.space a l)

/-- An operand entry of a word, with its side-band where the format is MX, and what the word keeps of operand j: access and scale bytes. No field
of a load word gives the reduction length, so the unit takes r full vectors from memory for every entry and adds no zero elements beyond what
the program has laid out (R82; DESIGN CHOICE, log 152; unsafe). -/
def State.loadOperand (s : State) (p : Nat) (e : Cqe) (j : Nat) (g : Agen) (sg : Option Agen) (f r l : Nat) : Except Access (DqEnt × List Got) :=
  match s.loadEntry p e g f r l e.n (e.held.getD (2 * j) ([], false)) with
  | .ok (d, line) =>
    (match sg with
    | none => .ok ({ data := entryOf d.1, tok := e.seqno, poison := d.2 }, [line, ([], false)])
    | some h =>
      match s.loadSide p e h r l e.n (e.held.getD (2 * j + 1) ([], false)) with
      | .ok b => .ok ({ data := entryOf d.1, side := some (BitVec.ofNat 512 (numOf b.1)), tok := e.seqno, poison := d.2 || b.2 }, [line, b])
      | .error x => .error x)
  | .error x => .error x

/-- The words of a local memory that access k of a generator covers are marked as poisoned (R255). -/
def State.eccMark (s : State) (p : Nat) (g : Agen) (base : Int) (k l : Nat) : State :=
  let a := (g.addr base k).toNat
  let units : List (Nat × Nat) := if g.layout = 0 then [(a, 128)] else ((damaskLine g.layout a l).getD []).map fun x => (x, 2)
  if g.space = 0 then { s with t0Pz := units.foldl (fun m u => pzWrite 8 m (t0Key p u.1) u.2 true) s.t0Pz }
  else { s with slicePz := units.foldl (fun m u => pzWrite 8 m (sliceKey p u.1) u.2 true) s.slicePz }

/-- What a refused access does to the core (R191, R257). -/
def State.loadStop (s : State) (p : Nat) (e : Cqe) : Access → State
  | .out a => s.freezeAt p 2 frzOut 0xFFFF a
  | _ => s.haltIllegal p 2 e

/-- One more quantum of word i is done; the last finishes it. -/
def State.tick (s : State) (p q i : Nat) (e : Cqe) (total : Nat) : State :=
  s.putWord p q i { e with n := e.n + 1, fin := total ≤ e.n + 1 }

/-- An earlier serving still has entries for the queue (R212, R215). -/
def Core.servedAhead (c : Core) (q : Nat) : Bool :=
  c.sht.servs.any fun v => (v.outA = q && v.pushA < v.tiles * (64 / v.r)) || (v.outB = q && v.pushB < v.tiles * (64 / v.r))

/-! ### Load operations -/

/-- LD.AGSET (R190): earlier words keep the generators they started with. -/
def execLdAgset (c i : Nat) (s : State) : Out :=
  .next <| s.onWord c 2 1 i fun s p k e =>
    (s.setCore p { k with ldAg := aset k.ldAg (wbits e.word 68 4) (agenOf e.word 40 24 true) }).finish p 2 i e

/-- Generator j of a word as the scale generator of a format. -/
def Cqe.scaleGen (e : Cqe) (f j : Nat) : Option Agen := if isMx f then some (e.gen j) else none

/-- LD.VEC (R495): one entry. `ecc`: 1 when the memory corrects an error of the access, 2 when it meets one that it cannot correct, which fences
the core (R25, R255). -/
def execLdVec (c i : Nat) (s : State) (ecc : Nat := 0) : Out :=
  .next <| s.onWord c 2 2 i fun s p k e =>
    let w := e.word
    let f := wbits w 64 4
    let out := wOut w
    let g := e.gen 0
    if k.servedAhead out then s
    else if !k.dqRoom out 1 then s.setCore p (k.waitFull out)
    else
      match s.loadOperand p e 0 g (e.scaleGen f 2) f (ldVecRate w) (lanesOf (wbits w 38 2)) with
      | .error x => s.loadStop p e x
      | .ok (x, h) =>
        if ecc = 2 then (s.eccMark p g (k.genBase e g) e.n (lanesOf (wbits w 38 2))).fenceCore p (if g.space = 0 then 2 else 3)
        else
          let k := if ecc = 1 then k.bump (if g.space = 0 then 0x4040 else 0x4044) 1 else k
          (s.setCore p (k.pushDq out [x])).tick p 2 i { e with held := h } (wRep w + 1)

/-- LD.PAIR (R192): one pair of entries. -/
def execLdPair (c i : Nat) (s : State) : Out :=
  .next <| s.onWord c 2 3 i fun s p k e =>
    let w := e.word
    let fa := wbits w 64 4
    let fb := wbits w 60 4
    let r := pairRate fa fb
    let out := wOut w
    if k.servedAhead out || k.servedAhead (out + 1) then s
    else if !k.dqRoom out 1 then s.setCore p (k.waitFull out)
    else if !k.dqRoom (out + 1) 1 then s.setCore p (k.waitFull (out + 1))
    else
      match s.loadOperand p e 0 (e.gen 0) (e.scaleGen fa 2) fa r (lanesOf (wbits w 38 2)),
            s.loadOperand p e 1 (e.gen 1) (e.scaleGen fb 3) fb r (lanesOf (wbits w 36 2)) with
      | .ok (a, h), .ok (b, j) => (s.setCore p ((k.pushDq out [a]).pushDq (out + 1) [b])).tick p 2 i { e with held := h ++ j } (wRep w + 1)
      | .error x, _ => s.loadStop p e x
      | _, .error x => s.loadStop p e x

/-- Consecutive accesses of a generator, 64 positions each: the rows, or the first that is refused. -/
def State.readRows (s : State) (p : Nat) (g : Agen) (base : Int) (first : Nat) : Nat → Except Access (List (List Byte × Bool))
  | 0 => .ok []
  | n + 1 =>
    match s.readRows p g base first n with
    | .error x => .error x
    | .ok l =>
      match s.genRead p g base (first + n) 64 with
      | .ok d z => .ok (l ++ [(d, z)])
      | x => .error x

/-- The 16 entries and the side-band of one block of an LD.CAST (R46, R262). -/
def castBlock (fmt : Nat) (rows : List (List Byte)) : List Entry × Side :=
  let lanes := (List.range 64).map fun j =>
    mxQuantise fmt none (rows.map fun r => decodeElem 0x0 (numOf ((r.drop (2 * j)).take 2)))
  let code (j k : Nat) : Byte := BitVec.ofNat 8 (((lanes.getD j (0, [])).2.getD k ⟨0, false⟩).code)
  ((List.range 16).map fun x => entryOf (((List.range 64).map fun j => code j (2 * x)) ++ ((List.range 64).map fun j => code j (2 * x + 1))),
    BitVec.ofNat 512 (numOf (lanes.map fun l => BitVec.ofNat 8 l.1)))

/-- LD.CAST (R262): one entry; the first of a block reads its 32 rows. -/
def execLdCast (c i : Nat) (s : State) : Out :=
  .next <| s.onWord c 2 4 i fun s p k e =>
    let w := e.word
    let out := wOut w
    if k.servedAhead out then s
    else if !k.dqRoom out 1 then s.setCore p (k.waitFull out)
    else
      let g := e.gen 0
      let push (e : Cqe) : State :=
        let x : DqEnt := { data := e.ents.getD (e.n % 16) 0, side := some (BitVec.ofNat 512 (e.vals.getD 0 0)), tok := e.seqno, poison := e.vals.getD 1 0 = 1 }
        (s.setCore p (k.pushDq out [x])).tick p 2 i e (wRep w + 1)
      if e.n % 16 = 0 then
        match s.readRows p g (k.genBase e g) (e.n / 16 * 32) 32 with
        | .error x => s.loadStop p e x
        | .ok rows =>
          let b := castBlock (wbits w 64 4) (rows.map Prod.fst)
          push { e with ents := b.1, vals := [b.2.toNat, if rows.any Prod.snd then 1 else 0] }
      else push e

/-! ### The shared tile register -/

/-- Row n of an LD.SHT word: an 8-bit Damask access holds two rows (R211, R258; log 31). -/
def State.shtRow (s : State) (p : Nat) (e : Cqe) : Except Access (Got × Got) :=
  s.loadEntry p e (e.gen 0) (wbits e.word 64 4) 1 64 e.n (e.held.getD 0 ([], false))

/-- Put a row into the buffer of its tile; row 0 takes a free buffer (R211). -/
def Sht.putRow (x : Sht) (word tile row : Nat) (d : Entry) (poison : Bool) : Option Sht :=
  if row = 0 then
    match x.bufs.findIdx? Option.isNone with
    | none => none
    | some b => some { x with bufs := x.bufs.set b (some { word := word, serving := tile / 2, pos := tile % 2, rows := [d], poison := poison }) }
  else
    some { x with bufs := x.bufs.map fun b => b.map fun y =>
      if y.word = word ∧ y.serving = tile / 2 ∧ y.pos = tile % 2 then { y with rows := y.rows ++ [d], poison := y.poison || poison } else y }

/-- The ready tile of a serving. -/
def Sht.tile (x : Sht) (v : Serving) (t : Nat) : Option ShtBuf :=
  (x.bufs.filterMap id).find? fun y => y.word = v.word && y.serving = v.num && y.pos = t && y.rows.length = 16

/-- Entry n of a serving for engine A: r columns of 16 elements (R213). -/
def Sht.colEntry (x : Sht) (v : Serving) (n : Nat) : Option (Entry × Bool) :=
  (x.tile v (n / (64 / v.r))).map fun b =>
    let c := n % (64 / v.r) * v.r
    let el := (List.range v.r).flatMap fun j => b.rows.map fun row => bitsOf row.toNat (v.width * (c + j)) v.width
    (BitVec.ofNat 1024 (packBits v.width el), b.poison)

/-- Entry n of a serving for engine B: four passes of r rows of 64 elements (R213). -/
def Sht.rowEntry (x : Sht) (v : Serving) (n : Nat) : Option (Entry × Bool) :=
  let per := 16 / v.r
  let m := n % (v.tiles * per)
  (x.tile v (m / per)).map fun b =>
    let rows := (b.rows.drop (m % per * v.r)).take v.r
    (BitVec.ofNat 1024 (rows.foldr (fun row acc => row.toNat % 2 ^ (64 * v.width) + acc * 2 ^ (64 * v.width)) 0), b.poison)

/-- The first serving that still has entries for a side of a word. -/
def Sht.nextPush (x : Sht) (q : Nat) (a : Bool) : Option Serving :=
  x.servs.find? fun v => if a then v.outA = q && v.pushA < v.tiles * (64 / v.r) else v.outB = q && v.pushB < v.tiles * (64 / v.r)

/-- Change the serving of a word by number. -/
def Sht.modServ (x : Sht) (word num : Nat) (f : Serving → Serving) : Sht :=
  { x with servs := x.servs.map fun v => if v.word = word ∧ v.num = num then f v else v }

/-- Push one served entry of a side, if one of this word is next and there is room (R215). -/
def Core.serve (c : Core) (e : Cqe) (a : Bool) : Core :=
  let q := if a then wbits e.word 60 4 else wOut e.word
  match c.sht.nextPush q a with
  | none => c
  | some v =>
    if v.word ≠ e.seqno then c
    else if !c.dqRoom q 1 then c.waitFull q
    else
      match (if a then c.sht.colEntry v v.pushA else c.sht.rowEntry v v.pushB) with
      | none => c
      | some (d, z) =>
        let c := c.pushDq q [{ data := d, tok := e.seqno, poison := z, srv := some (v.word, v.num) }]
        { c with sht := c.sht.modServ v.word v.num fun v => if a then { v with pushA := v.pushA + 1 } else { v with pushB := v.pushB + 1 } }

/-- LD.SHT (R211 to R215): one engine cycle: one served entry on each side, and one row read. -/
def execLdSht (c i : Nat) (s : State) : Out :=
  .next <| s.onWord c 2 5 i fun s p k e =>
    let k1 := (k.serve e true).serve e false
    let s1 := s.setCore p k1
    if !shtReading e then s1
    else if e.n % 16 = 0 && !(k1.sht.bufs.any Option.isNone) then s1.bumpCore p 0x2904 1
    else
      match s1.shtRow p e with
      | .ok (d, line) =>
        match k1.sht.putRow e.seqno (e.n / 16) (e.n % 16) (entryOf d.1) d.2 with
        | none => s1
        | some x => (s1.setCore p { k1 with sht := x }).putWord p 2 i { e with n := e.n + 1, held := [line] }
      | .error x => s1.loadStop p e x

/-- An engine popped an entry of a serving (R216): the one that pops its OUT2 counts the columns, the other the rows. -/
def Core.servedPop (c : Core) (q word num : Nat) : Core :=
  { c with sht := c.sht.modServ word num fun v =>
      if v.outA = q then { v with popA := v.popA + 1 } else if v.outB = q then { v with popB := v.popB + 1 } else v }

/-- SERVING_RELEASE (R216): both engines have popped the last entries of the oldest serving. -/
def execServingRelease (c : Nat) (s : State) : Out :=
  .next <| s.onCore c fun s p k =>
    match k.sht.servs with
    | [] => s
    | v :: rest =>
      let total := v.tiles * (64 / v.r)
      if !k.working || v.popA < total || v.popB < total then s
      else
        let bufs := k.sht.bufs.map fun b => b.bind fun y => if y.word = v.word ∧ y.serving = v.num then none else some y
        let k := ({ k with sht := { bufs := bufs, servs := rest } } : Core).bump 0x2900 1
        if rest.any fun x => x.word = v.word then s.setCore p k
        else
          let off (k : Core) (q : Nat) : Core :=
            let x := k.dataQ q
            if x.served = some v.word then k.setDataQ q { x with served := none } else k
          let k := off (off k v.outA) v.outB
          s.setCore p (k.setWords 2 ((k.words 2).map fun e => if e.started && e.seqno = v.word then { e with fin := true } else e))

/-- XPOSE (R201): one entry; the first of a block reads its 64 rows. -/
def execXpose (c i : Nat) (s : State) : Out :=
  .next <| s.onWord c 2 0x40 i fun s p k e =>
    let w := e.word
    let out := wOut w
    if k.servedAhead out then s
    else if !k.dqRoom out 1 then s.setCore p (k.waitFull out)
    else
      let g := e.gen 0
      let push (e : Cqe) : State :=
        let col := e.ents.map fun r => bitsOf r.toNat (16 * (e.n % 64)) 16
        let x : DqEnt := { data := BitVec.ofNat 1024 (packBits 16 col), tok := e.seqno, poison := e.vals.getD 0 0 = 1 }
        (s.setCore p (k.pushDq out [x])).tick p 2 i e (64 * (wRep w + 1))
      if e.n % 64 = 0 then
        match s.readRows p g (k.genBase e g) (e.n) 64 with
        | .error x => s.loadStop p e x
        | .ok rows => push { e with ents := rows.map fun r => entryOf r.1, vals := [if rows.any Prod.snd then 1 else 0] }
      else push e

end Sys2Proof.Machine
end

