-- ==== Sys2Proof/Machine/Engine.lean ====
section
/-! DEFINITION. The outer-product engines: exact sums (R47 to R56), tiles, slots, spill images, stationary mode (R76 to R103), and the
activity ramp (R104 to R107, R469). -/

namespace Sys2Proof.Machine

/-! ### Exact sums (R49 to R55) -/

def accMax : Int := 2 ^ 63 - 1
def accMin : Int := -(2 ^ 63)

/-- align(p, T) of a finite value: the integer and whether it saturated (R52). -/
def alignTo (t : Int) : Fp → Int × Bool
  | .fin neg m e =>
    let q := roundHE m (e - t)
    if !neg && accMax < (q : Int) then (accMax, true)
    else if neg && ((2 ^ 63 : Nat) : Int) < (q : Int) then (accMin, true)
    else (if neg then -(q : Int) else q, false)
  | _ => (0, false)

/-- accumulate (R52). -/
def accumulate (acc q : Int) : Int × Bool :=
  let x := acc + q
  if accMax < x then (accMax, true) else if x < accMin then (accMin, true) else (x, false)

/-- Add one product to a cell; a non-finite one sets the sticky bit (R52, R55). The flag: SAT. -/
def Cell.mac (t : Int) (c : Cell) (a b : Fp) : Cell × Bool :=
  if !a.isFin || !b.isFin then ({ c with nf := true }, false)
  else
    let q := alignTo t (a.mul b)
    let x := accumulate c.acc q.1
    ({ c with acc := x.1 }, q.2 || x.2)

/-- Add several products in order. -/
def Cell.macs (t : Int) (c : Cell) (l : List (Fp × Fp)) : Cell × Bool :=
  l.foldl (fun (x : Cell × Bool) y => let r := x.1.mac t y.1 y.2; (r.1, x.2 || r.2)) (c, false)

/-- A cell preloaded with a value (R53, R55). -/
def Cell.preload (t : Int) (v : Fp) : Cell × Bool :=
  if !v.isFin then ({ acc := 0, nf := true }, false) else let q := alignTo t v; ({ acc := q.1, nf := false }, q.2)

/-! ### Operands (R81, R82) -/

/-- The r vectors of an operand entry: element lists of L lanes, block scales included (R44, R81, R82). -/
def operand (fmt r l : Nat) (x : DqEnt) : List (List Fp) :=
  let w := fmtWidth fmt
  (List.range r).map fun k => (List.range l).map fun j =>
    let v := decodeElem fmt (bitsOf x.data.toNat (w * (k * l + j)) w)
    match isMx fmt, x.side with
    | true, some sd => scaled (bitsOf sd.toNat (8 * j) 8) v
    | _, _ => v

/-! ### Tiles -/

/-- Packed problems of a PACK code, columns of problem p, and its quarters (R93, R95). -/
def packOf (code : Nat) : Nat := 2 ^ code
def probLo (pk p : Nat) : Nat := 64 / pk * p
def probQs (pk p : Nat) : List Nat := (List.range (4 / pk)).map (· + 4 / pk * p)

/-- Change the cells of problem p with a function of row and lane; SAT and NONFINITE of the problem follow (R54, R55, R94). -/
def Tile.cells (t : Tile) (pk p : Nat) (f : Nat → Nat → Cell → Cell × Bool) : Tile :=
  let lo := probLo pk p
  let hi := lo + 64 / pk
  let rows := t.rows.zipIdx.map fun row => row.1.zipIdx.map fun c => if lo ≤ c.2 ∧ c.2 < hi then f row.2 (c.2 - lo) c.1 else (c.1, false)
  let sat := rows.any fun row => row.any Prod.snd
  let new := rows.map fun row => row.map Prod.fst
  let nf := new.any fun row => ((row.drop lo).take (hi - lo)).any Cell.nf
  let qs := probQs pk p
  { rows := new, q := t.q.zipIdx.map fun x => if qs.contains x.2 then { x.1 with sat := x.1.sat || sat, nf := nf } else x.1 }

/-- Change the quarter words of problem p. -/
def Tile.quarters (t : Tile) (pk p : Nat) (f : QWord → QWord) : Tile :=
  let qs := probQs pk p
  { t with q := t.q.zipIdx.map fun x => if qs.contains x.2 then f x.1 else x.1 }

/-- A cleared problem with its exponent and PACK (R83, R95). -/
def Tile.clear (t : Tile) (code p : Nat) (texp : Int) : Tile :=
  (t.cells (packOf code) p fun _ _ _ => ({}, false)).quarters (packOf code) p fun _ => { texp := texp, valid := true, pack := code }

/-- One input cycle of problem p: r outer products in ascending k (R48, R52). -/
def Tile.rank (t : Tile) (pk p : Nat) (texp : Int) (a b : List (List Fp)) : Tile :=
  t.cells pk p fun i j c => c.macs texp ((a.zip b).map fun x => (x.1.getD i .nan, x.2.getD j .nan))

/-- Take the quarters `qs` of `src` into `t`, cells and quarter words. -/
def Tile.takeQs (t src : Tile) (qs : List Nat) : Tile where
  rows := (t.rows.zip src.rows).map fun r => (r.1.zip r.2).zipIdx.map fun c => if qs.contains (c.2 / 16) then c.1.2 else c.1.1
  q := (t.q.zip src.q).zipIdx.map fun x => if qs.contains x.2 then x.1.2 else x.1.1

/-! ### AUTO (R51, R100) -/

/-- The larger exponent of two vectors' products at one k. -/
def pairEx (a b : List Fp) : Option Int :=
  match a.foldl (fun m x => maxOpt m x.ex) none, b.foldl (fun m x => maxOpt m x.ex) none with
  | some x, some y => some (x + y + 1)
  | _, _ => none

/-- auto_exponent over vector pairs and preload values (R51). -/
def autoExp (l : List (List Fp × List Fp)) (pre : List Fp) : Option Int :=
  (pre.foldl (fun m x => maxOpt m x.ex) (l.foldl (fun m x => maxOpt m (pairEx x.1 x.2)) none)).map fun b => b - 40

/-! ### Fields of an engine word (R193) -/

def ePack (w : CWord) : Nat := wbits w 70 2
def eFmtA (w : CWord) : Nat := wbits w 66 4
def eFmtB (w : CWord) : Nat := wbits w 62 4
def eTexp (w : CWord) : Int := signedOf 11 (wbits w 51 11)
def eAuto (w : CWord) : Bool := wbit w 50
def eStart (w : CWord) : Nat := wbits w 47 3
def eFin (w : CWord) : Nat := wbits w 45 2
def eSlot (w : CWord) : Nat := wbits w 42 3
def ePreQ (w : CWord) : Nat := wbits w 38 4
def ePreFmt (w : CWord) : Nat := wbits w 34 4
def eNslot (w : CWord) : Nat := wbits w 31 3 + 1
def eRate (w : CWord) : Nat := pairRate (eFmtA w) (eFmtB w)
/-- PMASK problems of a slot operation (R193). -/
def eProbs (w : CWord) : List Nat := (List.range (packOf (ePack w))).filter fun p => bitAt (wbits w 66 4) p
/-- Quarters of the word's problems. -/
def eQs (w : CWord) : List Nat := (eProbs w).flatMap (probQs (packOf (ePack w)))
/-- The exponent of the tile is chosen by a scan (R51): AUTO with a pair that is not integer. -/
def eScans (w : CWord) : Bool := eAuto w && eFmtA w ≤ 9

def Engine.slot (g : Engine) (i : Nat) : Slot := g.slots.getD i {}

def Engine.setSlot (g : Engine) (i : Nat) (x : Slot) : Engine := { g with slots := g.slots.set i x }

/-- Set the state of quarters of a slot. -/
def Slot.mark (x : Slot) (qs : List Nat) (st : QState) : Slot :=
  { x with st := x.st.zipIdx.map fun y => if qs.contains y.2 then st else y.1 }

def Slot.all (x : Slot) (qs : List Nat) (st : QState) : Bool := qs.all fun q => x.st.getD q .free = st

/-- ENG_SLOT0 code of a quarter state. -/
def QState.code : QState → Nat
  | .free => 0
  | .held => 1
  | .busy => 2

/-- What a check of slot quarters says: fine, wait for a move, or the state of the first quarter that fails (R89, R97). -/
inductive SlotCheck where
  | ok
  | busy
  | bad (code : Nat)

def Slot.check (x : Slot) (qs : List Nat) (want : QState) : SlotCheck :=
  if qs.any fun q => x.st.getD q .free = .busy then .busy
  else match qs.find? fun q => x.st.getD q .free ≠ want with
    | none => .ok
    | some q => .bad (x.st.getD q .free).code

/-- SLOT_STATE information (R89). -/
def slotInfo (slot code : Nat) : Nat := slot + code * 256

/-! ### The start of an engine word (R84, R89 to R93, R97, R217) -/

/-- Operand queues that an engine word pops each input cycle. -/
def engQueues (w : CWord) : List Nat :=
  let n := packOf (ePack w)
  match wOp w with
  | 1 => (List.range n).map (wIna w + ·) ++ (List.range n).map (wInb w + ·)
  | 2 => [wInb w]
  | 3 => (List.range n).map (wIna w + ·)
  | _ => []

/-- Preload queue of an MMA.RANK (R83). -/
def ePreQs (w : CWord) : List Nat := if wOp w = 1 && (eStart w = 1 || eStart w = 2) then [ePreQ w] else []

/-- R217: the checks of served queues: ILLEGAL_OP (none), or NUMFMT_PAIR information. -/
def Core.servedCheck (c : Core) (eng : Nat) (w : CWord) : Option (Option Nat) :=
  let srv (q : Nat) : Bool := (c.dataQ q).served.isSome
  let qs := (engQueues w).filter srv
  if qs.isEmpty then none
  else if wOp w ≠ 1 || ePack w ≠ 0 || (eng = 0 && srv (wInb w)) || (eng = 1 && srv (wIna w)) then some none
  else
    let q := if eng = 0 then wIna w else wInb w
    let v := c.sht.servs.find? fun v => if eng = 0 then v.outA = q && v.popA < v.tiles * (64 / v.r) else v.outB = q && v.popB < v.tiles * (64 / v.r)
    match v with
    | some v => if v.r = eRate w then none else some (some (numfmt 6 (eRate w) v.r).2)
    | none => none

/-- All quarters. -/
def allQs : List Nat := [0, 1, 2, 3]

/-- The state checks of an engine word: `none` passes; `some none` waits; otherwise reason and information. -/
def Engine.startCheck (g : Engine) (w : CWord) : Option (Option (Nat × Nat)) :=
  let op := wOp w
  let ill : Option (Option (Nat × Nat)) := some (some (illegal w))
  let st (slot : Nat) (x : SlotCheck) : Option (Option (Nat × Nat)) := match x with
    | .ok => none
    | .busy => some none
    | .bad code => some (some (0x09, slotInfo slot code))
  if op = 1 then
    let sl := if eStart w = 3 || eFin w = 2 then eSlot w else 0
    if (eStart w = 1 || eStart w = 2) && ePack w ≠ 0 then ill
    else if (engQueues w).any (fun q => 15 < q) then ill
    else if eStart w = 4 then
      (if !g.tileOpen || g.openPack ≠ ePack w || g.openA ≠ eFmtA w || g.openB ≠ eFmtB w then some (some (0x09, slotInfo sl 3))
      else if eFin w = 2 then st sl ((g.slot sl).check allQs .free) else none)
    else if g.tileOpen then some (some (0x09, slotInfo sl 3))
    else if eStart w = 3 then st sl ((g.slot sl).check allQs .held)
    else if eFin w = 2 then st sl ((g.slot sl).check allQs .free)
    else none
  else if g.tileOpen then some (some (0x09, slotInfo (if op = 2 then 0 else eSlot w) 3))
  else if op = 2 then none
  else if op = 3 then
    if (engQueues w).any (fun q => 15 < q) || 16 * eNslot w < wRep w + 1 || 8 < eSlot w + eNslot w
        || !(eStart w = 0 || eStart w = 4) || eFin w = 0 then ill
    else if eFmtB w ≠ g.latFmt then some (some (0x0A, (numfmt 3 (eFmtB w) g.latFmt).2))
    else
      let cs := (List.range (eNslot w)).map fun i => (g.slot (eSlot w + i)).check allQs (if eStart w = 0 then .free else .held)
      let busy := cs.any fun x => match x with
        | .busy => true
        | _ => false
      if busy then some none
      else (cs.findSome? fun x => match x with
        | .bad code => some (some (some (0x09, slotInfo (eSlot w) code)))
        | _ => none).getD none
  else st (eSlot w) ((g.slot (eSlot w)).check (eQs w) (if op = 6 then .free else .held))

/-- Begin the move of a slot into the shadow (R88, R219). -/
def Engine.beginResume (g : Engine) (slot : Nat) : Engine :=
  { (g.setSlot slot ((g.slot slot).mark allQs .busy)) with
    shadow := (g.slot slot).tile, shUse := .loading, moves := g.moves ++ [{ slot := slot, qs := allQs, kind := .resume }] }

/-- The effect of the start of an engine word on its slots: those of a stationary word and of a slot operation are BUSY (R96); START = SLOT
begins its move when the shadow is free (R219). -/
def Engine.startEffect (g : Engine) (w : CWord) : Engine × Bool :=
  if wOp w = 1 then
    if eStart w = 3 then
      if g.shUse = .none then (g.beginResume (eSlot w), true) else (g, false)
    else (g, false)
  else if wOp w = 3 then
    ((List.range (eNslot w)).foldl (fun g i => g.setSlot (eSlot w + i) ((g.slot (eSlot w + i)).mark allQs .busy)) g, false)
  else if wOp w = 2 || wOp w = 7 then (g, false)
  else (g.setSlot (eSlot w) ((g.slot (eSlot w)).mark (eQs w) .busy), false)

/-- The start of an engine word (R79 to R93, R141, R217, R219): active engine, the preceding word past its last pop, its first operands
there (log 34). `vals`: 1 when its slot move has begun. -/
def State.startEng (s : State) (p eng : Nat) (e : Cqe) : Start :=
  let c := s.core p
  let q := 3 + eng
  let w := e.word
  let g := c.eng eng
  let off := 0x2000 + 0x100 * eng
  if g.act ≠ .active then .wait (if g.act = .idle then s.bumpCore p (off + 0x38) 1 else s)
  else if ((c.words q).any fun x => x.started && !x.fin && !(wOp x.word = 4 && x.n = 1)) then .wait s
  else
    match c.roles q (engQueues w ++ ePreQs w) [] [] [] with
    | some info => if (engQueues w).any (fun x => 15 < x) then .stop (s.haltIllegal p q e) else .stop (s.haltWord p q e 0x05 info)
    | none =>
      match c.servedCheck eng w with
      | some none => .stop (s.haltIllegal p q e)
      | some (some info) => .stop (s.haltWord p q e 0x0A info)
      | none =>
        match g.startCheck w with
        | some none => .wait s
        | some (some (r, info)) => .stop (s.haltWord p q e r info)
        | none =>
          let need := engQueues w
          if need.any (fun x => (c.dataQ x).ents.isEmpty) then .wait (s.bumpCore p (off + 0x34) 1)
          else
            let r := g.startEffect w
            .go (s.setCore p (c.setEng eng r.1)) { e with vals := [if r.2 then 1 else 0] }

/-! ### Moving tiles -/

/-- A finished tile leaves the active registers for a free shadow (R86 to R88). -/
def Engine.toShadow (g : Engine) (d : TileDest) : Engine :=
  let g := { g with shadow := g.active, active := {}, finish := none }
  match d with
  | .drain => { g with shUse := .toDrain, offers := g.offers ++ [none] }
  | .hold slot => { g with shUse := .toSlot, moves := g.moves ++ [{ slot := slot, qs := allQs, kind := .hold }] }

/-- The active tile is complete: it moves, or waits for the shadow (R87, R88). The slot that it goes to is BUSY from here on (R96; log 33). -/
def Engine.complete (g : Engine) (d : TileDest) : Engine :=
  let g := match d with
    | .drain => g
    | .hold slot => g.setSlot slot ((g.slot slot).mark allQs .busy)
  if g.shUse = .none then g.toShadow d else { g with finish := some d }

/-- The tile that waits in the shadow enters the active registers, in exchange for a finished one (R219). -/
def Engine.enter (g : Engine) : Engine :=
  match g.finish with
  | none => { g with active := g.shadow, shadow := {}, shUse := .none }
  | some d =>
    let sh := g.shadow
    let g := { g with shUse := .none }.toShadow d
    { g with active := sh }

/-- TILE_TO_SHADOW (R88): the finished tile that waited moves; while the shadow still moves an earlier tile, the wait counts (R108). -/
def execTileToShadow (c e : Nat) (s : State) : Out :=
  .next <| if 2 ≤ e then s else s.onCore c fun s p k =>
    let g := k.eng e
    match g.finish with
    | none => s
    | some d =>
      if !k.working then s
      else if g.shUse = .none then s.setCore p (k.setEng e (g.toShadow d))
      else s.bumpCore p (0x2000 + 0x100 * e + 0x3C) 1

/-- The word of an engine queue with a sequence number has made its last effect. -/
def Core.finishSeq (c : Core) (q n : Nat) : Core :=
  c.setWords q ((c.words q).map fun x => if x.started && x.seqno = n then { x with fin := true } else x)

/-- SLOT_MOVE_DONE (R96): the oldest move of a slot that can end ends. -/
def execSlotMoveDone (c e slot : Nat) (s : State) : Out :=
  .next <| s.onCore c fun s p k =>
    let g := k.eng e
    match g.moves.find? fun m => m.slot = slot && (match m.kind with
      | .drain _ taken => taken
      | _ => true) with
    | none => s
    | some m =>
      if !k.working then s
      else
        let rest := g.moves.erase m
        let x := g.slot slot
        match m.kind with
        | .hold =>
          let g := { g with moves := rest, shadow := {}, shUse := .none }
          s.setCore p (k.setEng e (g.setSlot slot { x with tile := (k.eng e).shadow, st := List.replicate 4 .held }))
        | .resume =>
          let g := { g with moves := rest, shUse := .ready }
          s.setCore p (k.setEng e (g.setSlot slot { st := List.replicate 4 .free, tile := {} }))
        | .drain word _ =>
          let g := { g with moves := rest }
          let k := k.setEng e (g.setSlot slot { (x.mark m.qs .free) with tile := x.tile.takeQs {} m.qs })
          s.setCore p (match word with
            | some n => k.finishSeq (3 + e) n
            | none => k)

/-! ### Rank-one words -/

/-- One input cycle on the tile: each problem updates, or buffers while its scan runs, and replays when the scan answers (R51, R94, R100).
`last`: the tile ends here, so a short block is scanned as it is (log 35), and one whose scan has returned nothing has T = 0: R100 says so of a
tile that is drained; for one that FIN = HOLD puts into a slot the spec is silent, and the model fixes T = 0 in the slot, where a later
START = SLOT does not scan on (DESIGN CHOICE, log 148; unsafe). -/
def rankStep (w : CWord) (pre : List Fp) (last : Bool) (x : Tile × List Scan × Nat) (p : Nat) (ab : DqEnt × DqEnt) : Tile × List Scan × Nat :=
  let pk := packOf (ePack w)
  let r := eRate w
  let sc := x.2.1.getD p {}
  let opA (a : DqEnt) := operand (eFmtA w) r 16 a
  let opB (b : DqEnt) := operand (eFmtB w) r (64 / pk) b
  match sc.texp with
  | some t => (x.1.rank pk p t (opA ab.1) (opB ab.2), x.2.1, x.2.2)
  | none =>
    let buf := sc.buf ++ [ab]
    if buf.length < 16 / r && !last then (x.1, x.2.1.set p { sc with buf := buf }, x.2.2)
    else
      let vs := buf.flatMap fun y => (opA y.1).zip (opB y.2)
      match autoExp vs pre with
      | some t =>
        let base := (x.1.quarters pk p fun q => { q with texp := t })
        let base := if pre.isEmpty then base
          else base.cells pk p fun i j c =>
            let y := Cell.preload t (pre.getD (if pre.length = 64 then j else 64 * i + j) .nan)
            ({ y.1 with nf := y.1.nf || c.nf }, y.2)
        (buf.foldl (fun tl y => tl.rank pk p t (opA y.1) (opB y.2)) base, x.2.1.set p { texp := some t, buf := [] }, max x.2.2 buf.length)
      | none =>
        -- every product so far is zero or not finite: only sticky bits change
        let tl := buf.foldl (fun tl y => tl.rank pk p 0 (opA y.1) (opB y.2)) x.1
        if last then
          let tl := if pre.isEmpty then tl
            else tl.cells pk p fun i j c => let y := Cell.preload 0 (pre.getD (if pre.length = 64 then j else 64 * i + j) .nan); ({ y.1 with nf := y.1.nf || c.nf }, y.2)
          (tl.quarters pk p fun q => { q with texp := 0, scanNone := true }, x.2.1.set p { texp := some 0, buf := [] }, max x.2.2 buf.length)
        else (tl, x.2.1.set p { texp := none, buf := [] }, max x.2.2 buf.length)

/-- Preload values of one row from entries of PRE_Q (R83). -/
def preRow (fmt : Nat) (l : List DqEnt) : List W32 :=
  let w := fmtWidth fmt
  let x := l.foldr (fun y acc => y.data.toNat + acc * 2 ^ 1024) 0
  (unpackBits w 64 x).map (widen fmt)

/-- Entries of one preload row. -/
def preEntries (fmt : Nat) : Nat := if fmtWidth fmt = 32 then 2 else 1

/-- The tile of a word begins: cleared problems with the word's exponent, and the scans (R50, R83). -/
def beginTile (w : CWord) (pre : List (List W32)) : Tile × List Scan :=
  let n := packOf (ePack w)
  let t := if eAuto w then 0 else eTexp w
  let tl := (List.range n).foldl (fun tl p => tl.clear (ePack w) p t) ({} : Tile)
  let scan : Scan := if eScans w then { texp := none, buf := [] } else { texp := some t, buf := [] }
  let tl := if eScans w || pre.isEmpty then tl
    else tl.cells 1 0 fun i j _ => Cell.preload t (f32 ((pre.getD (if pre.length = 1 then 0 else i) []).getD j 0))
  (tl, List.replicate n scan)

/-- Put the tile of a word into the active registers before its first input cycle; none while it has to wait (R83, R87, R88, R219).
For a held slot whose PACK differs from the word's the spec names no check: the word's PACK forms the problems, each takes the T of its first
quarter, and the quarters keep the slot's PACK (DESIGN CHOICE, log 149; unsafe). -/
def Engine.prepare (g : Engine) (w : CWord) : Option Engine :=
  match eStart w with
  | 4 => some g
  | 3 =>
    if g.shUse = .ready then
      let g := g.enter
      some { g with scans := (List.range (packOf (ePack w))).map fun p => { texp := some ((g.active.q.getD (4 / packOf (ePack w) * p) {}).texp), buf := [] }, pre := [] }
    else none
  | 2 =>
    let b := beginTile w g.pre
    let g := { g with shadow := b.1 }.enter
    some { g with scans := b.2 }
  | _ =>
    if g.finish.isSome then none
    else
      let b := beginTile w g.pre
      some { g with active := b.1, scans := b.2 }

/-- The preload of a word still has rows to pop: one for BIAS, 16 for RESID (R83). -/
def Engine.preLeft (g : Engine) (w : CWord) (n : Nat) : Bool :=
  n = 0 && ((eStart w = 1 && g.pre.length < 1) || (eStart w = 2 && g.pre.length < 16))

/-- A wait for operands is a wait on each input queue that is empty (R143). -/
def Core.waitOperands (c : Core) (w : CWord) : Core :=
  ((engQueues w).filter fun q => (c.dataQ q).ents.isEmpty).foldl (fun c q => c.waitEmpty q) c

/-- Pop one entry from a queue for an engine; one of a serving is counted for it (R216). -/
def Core.popEng (c : Core) (q : Nat) : Core :=
  match (c.dataQ q).ents.head?.bind DqEnt.srv with
  | some (word, num) => (c.dropDq q 1).servedPop q word num
  | none => c.dropDq q 1

/-- Pop one preload row; a residual takes the shadow (R83, R88). -/
def State.popPre (s : State) (p eng i : Nat) (e : Cqe) : State :=
  let q := 3 + eng
  let k := s.core p
  let w := e.word
  let g := k.eng eng
  let off := 0x2000 + 0x100 * eng
  let g0 := if e.vals.getD 1 0 = 0 then { g with pre := [] } else g
  if g.finish.isSome || (eStart w = 2 && g0.pre.isEmpty && g.shUse ≠ .none) then s.bumpCore p (off + 0x3C) 1
  else
    match k.headDq (ePreQ w) (preEntries (ePreFmt w)) with
    | none => (s.setCore p (k.waitEmpty (ePreQ w))).bumpCore p (off + 0x34) 1
    | some l =>
      if l.any DqEnt.poison then s.haltWord p q e 0x0C (ePreQ w * 16)
      else
        let g1 := { g0 with pre := g0.pre ++ [preRow (ePreFmt w) l], shUse := if eStart w = 2 then .ready else g0.shUse }
        (s.setCore p (((List.range (preEntries (ePreFmt w))).foldl (fun k _ => k.popEng (ePreQ w)) k).setEng eng g1)).putWord p q i { e with vals := [e.vals.getD 0 0, 1] }

/-- The entries of every packed problem's operand queues at the front. -/
def Core.operands (c : Core) (w : CWord) : Option (List (DqEnt × DqEnt)) :=
  let n := packOf (ePack w)
  let l := (List.range n).filterMap fun p => match (c.dataQ (wIna w + p)).ents, (c.dataQ (wInb w + p)).ents with
    | a :: _, b :: _ => some (a, b)
    | _, _ => none
  if l.length = n then some l else none

/-- MMA.RANK (R79 to R88, R94, R100): one engine cycle: a preload row, or one input cycle. `res`: what the
checks find (R25, R77). -/
def State.mmaRank (s : State) (p eng i : Nat) (e : Cqe) (res : Nat) : State :=
  let q := 3 + eng
  let k := s.core p
  let w := e.word
  let g := k.eng eng
  let off := 0x2000 + 0x100 * eng
  if g.act ≠ .active then s
  else if e.n = 0 && eStart w = 3 && e.vals.getD 0 0 = 0 then
    -- the slot move waits for the shadow
    if g.shUse = .none then (s.setCore p (k.setEng eng (g.beginResume (eSlot w)))).putWord p q i { e with vals := [1] }
    else s.bumpCore p (off + 0x3C) 1
  else if (if e.vals.getD 1 0 = 0 then { g with pre := [] } else g).preLeft w e.n then s.popPre p eng i e
  else
    match k.operands w with
    | none => (s.setCore p (k.waitOperands w)).bumpCore p (off + 0x34) 1
    | some ops =>
      match (if e.n = 0 then (if eStart w = 0 then { g with pre := [] } else g).prepare w else some g) with
      | none => if eStart w = 3 then s else s.bumpCore p (off + 0x3C) 1
      | some g1 =>
        let bad := ((List.range ops.length).flatMap fun j => [(wIna w + j, (ops.getD j ({ data := 0 }, { data := 0 })).1), (wInb w + j, (ops.getD j ({ data := 0 }, { data := 0 })).2)]).find? fun x => x.2.poison
        match bad with
        | some x => s.haltWord p q e 0x0C (x.1 * 16)
        | none =>
          if checkFences res then s.checkFence p res
          else
            let s := s.checkCount p res
            let k := s.core p
            let last := e.n = wRep w
            let pre := g1.pre.flatMap fun r => r.map f32
            let endsTile := last && eFin w ≠ 0
            let r := ops.zipIdx.foldl (fun x y => rankStep w pre endsTile x y.2 y.1) (g1.active, g1.scans, 0)
            let upd := if r.2.2 = 0 then (if r.2.1.any (fun y => y.texp.isSome) then 1 else 0) else r.2.2
            let g2 := { g1 with active := r.1, scans := r.2.1 }
            let g3 := if !last then g2
              else if eFin w = 0 then { g2 with tileOpen := true, openPack := ePack w, openA := eFmtA w, openB := eFmtB w }
              else { g2 with tileOpen := false, pre := [], scans := [] }.complete (if eFin w = 1 then .drain else .hold (eSlot w))
            let k := (engQueues w).foldl (fun k x => k.popEng x) k
            (s.setCore p ((k.setEng eng g3).bump (off + 0x30) upd)).putWord p q i { e with n := e.n + 1, fin := last }

def execMmaRank (c e : Nat) (res : Nat) (s : State) : Out :=
  .next <| if e < 2 then s.onCur c (3 + e) 1 fun s p _ i w => s.mmaRank p e i w res else s

/-! ### Stationary words (R90 to R92) -/

/-- MMA.WL (R90): one weight row. -/
def execMmaWl (c e : Nat) (s : State) : Out :=
  .next <| if 2 ≤ e then s else s.onCur c (3 + e) 2 fun s p k i w =>
    let g := k.eng e
    let off := 0x2000 + 0x100 * e
    if g.act ≠ .active then s
    else
      match (k.dataQ (wInb w.word)).ents with
      | [] => (s.setCore p (k.waitEmpty (wInb w.word))).bumpCore p (off + 0x34) 1
      | x :: _ =>
        if x.poison then s.haltWord p (3 + e) w 0x0C (wInb w.word * 16)
        else
          let latch := (if g.latch.length < 16 then g.latch ++ List.replicate (16 - g.latch.length) ({ data := 0 } : DqEnt) else g.latch).set w.n x
          let k := (k.popEng (wInb w.word)).setEng e { g with latch := latch, latFmt := eFmtB w.word }
          (s.setCore p k).tick p (3 + e) i w 16

/-- The weights of problem p at row i: r vectors of its columns (R81, R90, R93). -/
def latchVecs (g : Engine) (w : CWord) (p i : Nat) : List (List Fp) :=
  let pk := packOf (ePack w)
  (operand (eFmtB w) (eRate w) 64 (g.latch.getD i { data := 0 })).map fun v => (v.drop (probLo pk p)).take (64 / pk)

/-- Add the column sums of one activation vector of problem p to a row of a tile (R52, R91): 16 × r products in each column. -/
def addSums (g : Engine) (w : CWord) (tl : Tile) (p row : Nat) (t : Int) (a : DqEnt) : Tile :=
  let r := eRate w
  let av := operand (eFmtA w) r 16 a
  let wt := (List.range 16).map fun i => latchVecs g w p i
  tl.cells (packOf (ePack w)) p fun i j c =>
    if i ≠ row then (c, false)
    else
      -- the column sum of aligned products is exact, and one slot adder adds it (R52, R91)
      let prods := (List.range 16).flatMap fun x => (List.range r).map fun k => ((av.getD k []).getD x .nan, ((wt.getD x []).getD k []).getD j .nan)
      let bad := prods.any fun y => !y.1.isFin || !y.2.isFin
      let al := prods.map fun y => if y.1.isFin && y.2.isFin then alignTo t (y.1.mul y.2) else (0, false)
      let z := accumulate c.acc (al.foldl (fun n y => n + y.1) 0)
      ({ acc := z.1, nf := c.nf || bad }, z.2 || al.any Prod.snd)

/-- The exponent of a slot's problem p scanned over activation vectors and the latched block (R51). -/
def stScan (g : Engine) (w : CWord) (p : Nat) (l : List DqEnt) : Option Int :=
  let whole := (List.range 16).flatMap fun i => (latchVecs g w p i).flatMap id
  autoExp (l.map fun a => ((operand (eFmtA w) (eRate w) 16 a).flatMap id, whole)) []

/-- The vectors of a slot whose exponent is known go into its tile, from row `row` on. -/
def applyVecs (g : Engine) (w : CWord) (tl : Tile) (p row : Nat) (t : Int) (l : List DqEnt) : Tile :=
  l.zipIdx.foldl (fun tl y => addSums g w tl p (row + y.2) t y.1) tl

/-- The tile of a slot when its first vector comes: cleared, or as held (R92). -/
def stTile (g : Engine) (w : CWord) (slot : Nat) : Tile :=
  if eStart w = 0 then (List.range (packOf (ePack w))).foldl (fun tl p => tl.clear (ePack w) p (if eAuto w then 0 else eTexp w)) {}
  else (g.slot slot).tile

/-- A slot of a stationary word has its last row: held, or handed to the drain (R92). -/
def Engine.stFinish (g : Engine) (w : CWord) (slot : Nat) : Engine :=
  let x := g.slot slot
  if eFin w = 2 then g.setSlot slot (x.mark allQs .held)
  else { g with offers := g.offers ++ [some slot], moves := g.moves ++ [{ slot := slot, qs := allQs, kind := .drain none false }] }

/-- The scan of problem j of a stationary word's slot still runs (R51, R100): an AUTO tile that START = CLEAR begins, or one that CONT
continues whose blocks so far gave no exponent. -/
def stScanning (w : CWord) (n : Nat) (t : Tile) (j : Nat) : Bool :=
  if eStart w = 0 then eScans w else eFmtA w ≤ 9 && (t.q.getD (4 / n * j) {}).scanNone

/-- MMA.ST (R91, R92, R100): one input cycle. `res` as for MMA.RANK. R92 hands a slot over at its 16th row and does not say what FIN does to a
last slot that fewer vectors reach, nor to slots of the word that no vector reaches: they are cleared or kept as START says, and held or handed
to the drain with the word's last vector (DESIGN CHOICE, log 151; unsafe). -/
def State.mmaSt (s : State) (p eng i : Nat) (e : Cqe) (res : Nat) : State :=
  let q := 3 + eng
  let k := s.core p
  let w := e.word
  let g := k.eng eng
  let off := 0x2000 + 0x100 * eng
  let n := packOf (ePack w)
  let heads := (List.range n).filterMap fun j => (k.dataQ (wIna w + j)).ents.head?
  if g.act ≠ .active then s
  else if heads.length < n then (s.setCore p (k.waitOperands w)).bumpCore p (off + 0x34) 1
  else
    match heads.zipIdx.find? fun x => x.1.poison with
    | some x => s.haltWord p q e 0x0C ((wIna w + x.2) * 16)
    | none =>
      if checkFences res then s.checkFence p res
      else
        let s := s.checkCount p res
        let k := s.core p
        let slot := eSlot w + e.n / 16
        let row := e.n % 16
        let last := e.n = wRep w
        let done := row = 15 || last
        let g0 := if row = 0 then g.setSlot slot { (g.slot slot) with tile := stTile g w slot } else g
        let scans := if row = 0 then List.replicate n ({ texp := none, buf := [] } : Scan) else g.scans
        -- under AUTO the vectors of a slot wait for its scan
        let r := (List.range n).foldl (fun (x : Tile × List Scan) j =>
          let a := heads.getD j { data := 0 }
          if !stScanning w n x.1 j then
            (applyVecs g w x.1 j row ((x.1.q.getD (4 / n * j) {}).texp) [a], x.2)
          else
            let buf := (x.2.getD j {}).buf ++ [(a, a)]
            if !done then (x.1, x.2.set j { texp := none, buf := buf })
            else
              let l := buf.map Prod.fst
              let t := stScan g w j l
              let tl := x.1.quarters n j fun y => { y with texp := t.getD 0, scanNone := t.isNone }
              (applyVecs g w tl j 0 (t.getD 0) l, x.2.set j { texp := none, buf := [] })) ((g0.slot slot).tile, scans)
        let g := { g0 with scans := if last then [] else r.2 }.setSlot slot { (g0.slot slot) with tile := r.1 }
        let g := if done then g.stFinish w slot else g
        -- slots of the word that no vector reaches get their end with the word
        let rest := if last then (List.range (eNslot w)).filter fun j => e.n / 16 < j else []
        let g := rest.foldl (fun g j => (g.setSlot (eSlot w + j) { (g.slot (eSlot w + j)) with tile := stTile g w (eSlot w + j) }).stFinish w (eSlot w + j)) g
        let k := (engQueues w).foldl (fun k x => k.popEng x) k
        let upd := (List.range n).foldl (fun m j => max m (if !stScanning w n (g0.slot slot).tile j then 1 else if done then row + 1 else 0)) 0
        (s.setCore p ((k.setEng eng g).bump (off + 0x30) upd)).putWord p q i { e with n := e.n + 1, fin := last }

def execMmaSt (c e : Nat) (res : Nat) (s : State) : Out :=
  .next <| if e < 2 then s.onCur c (3 + e) 3 fun s p _ i w => s.mmaSt p e i w res else s

/-! ### Slot operations -/

/-- MMA.DRAIN (R79): the slot is offered to the drain; the word ends when the slot is free. -/
def execMmaDrain (c e : Nat) (s : State) : Out :=
  .next <| if 2 ≤ e then s else s.onCur c (3 + e) 4 fun s p k i w =>
    let g := k.eng e
    if g.act ≠ .active || w.n = 1 then s
    else
      let g := { g with offers := g.offers ++ [some (eSlot w.word)]
                        moves := g.moves ++ [{ slot := eSlot w.word, qs := eQs w.word, kind := .drain (some w.seqno) false }] }
      (s.setCore p (k.setEng e g)).putWord p (3 + e) i { w with n := 1 }

/-- A quarter word as stored (R98). -/
def QWord.bits (q : QWord) : Nat :=
  codeOf 11 q.texp + (if q.sat then 2 ^ 11 else 0) + (if q.nf then 2 ^ 12 else 0) + (if q.valid then 2 ^ 13 else 0) + q.pack * 2 ^ 14

def QWord.ofBits (b : Nat) : QWord where
  texp := signedOf 11 (bitsOf b 0 11)
  sat := bitAt b 11
  nf := bitAt b 12
  valid := bitAt b 13
  pack := bitsOf b 14 2

/-- The spill image of the quarters `qs` of a tile (R98, R99). -/
def spillImage (t : Tile) (qs : List Nat) : List Byte :=
  let t := ({} : Tile).takeQs t qs
  let sticky := packBits 1 (t.rows.flatMap fun r => r.map fun c => if c.nf then 1 else 0)
  (t.q.flatMap fun q => bytesOf 2 q.bits) ++ List.replicate 56 0 ++ bytesOf 128 sticky
    ++ (t.rows.flatMap fun r => r.flatMap fun c => bytesOf 8 (codeOf 64 c.acc))

/-- The tile of a spill image. -/
def tileOfImage (d : List Byte) : Tile where
  rows := (List.range 16).map fun i => (List.range 64).map fun j =>
    let n := 64 * i + j
    { acc := signedOf 64 (numOf ((d.drop (192 + 8 * n)).take 8)), nf := (d.getD (64 + n / 8) 0).getLsbD (n % 8) }
  q := (List.range 4).map fun q => QWord.ofBits (numOf ((d.drop (2 * q)).take 2))

/-- SPADDR in bytes (R193). -/
def eSpAddr (w : CWord) : Nat := wbits w 24 14 * 64
def imageLen : Nat := 8384

/-- MMA.SPILL (R98, R99). -/
def execMmaSpill (c e : Nat) (s : State) : Out :=
  .next <| if 2 ≤ e then s else s.onCur c (3 + e) 5 fun s p k i w =>
    let g := k.eng e
    if g.act ≠ .active then s
    else
      let slot := eSlot w.word
      let x := g.slot slot
      let qs := eQs w.word
      let s := s.localWrite p 0 (eSpAddr w.word) (spillImage x.tile qs) false
      let k := (k.setEng e (g.setSlot slot { (x.mark qs .free) with tile := x.tile.takeQs {} qs })).bump (0x2000 + 0x100 * e + 0x2C) 1
      (s.setCore p k).finish p (3 + e) i w

/-- The image checks of an MMA.FILL fail (R99). -/
def fillBad (t : Tile) (code : Nat) (probs : List Nat) : Bool :=
  probs.any fun p =>
    let qs := (probQs (packOf code) p).map fun q => t.q.getD q {}
    qs.any (fun q => !q.valid || q.pack ≠ code) || qs.any fun q => qs.any fun r => q.texp ≠ r.texp || q.sat != r.sat || q.nf != r.nf

/-- MMA.FILL (R98, R99). -/
def execMmaFill (c e : Nat) (s : State) : Out :=
  .next <| if 2 ≤ e then s else s.onCur c (3 + e) 6 fun s p k i w =>
    let g := k.eng e
    if g.act ≠ .active then s
    else
      let slot := eSlot w.word
      let qs := eQs w.word
      let r := s.localRead p 0 (eSpAddr w.word) imageLen
      let t := tileOfImage r.1
      let free (s : State) : State := s.modCore p fun k => k.setEng e ((k.eng e).setSlot slot (((k.eng e).slot slot).mark qs .free))
      if r.2 then (free s).haltWord p (3 + e) w 0x0C 2
      else if fillBad t (ePack w.word) (eProbs w.word) then (free s).haltWord p (3 + e) w 0x09 (slotInfo slot 3)
      else
        let x := g.slot slot
        (s.setCore p (k.setEng e (g.setSlot slot { (x.mark qs .held) with tile := x.tile.takeQs t qs }))).finish p (3 + e) i w

/-- MMA.FREE (R96). -/
def execMmaFree (c e : Nat) (s : State) : Out :=
  .next <| if 2 ≤ e then s else s.onCur c (3 + e) 7 fun s p k i w =>
    let g := k.eng e
    if g.act ≠ .active then s
    else
      let slot := eSlot w.word
      let x := g.slot slot
      let qs := eQs w.word
      (s.setCore p (k.setEng e (g.setSlot slot { (x.mark qs .free) with tile := x.tile.takeQs {} qs }))).finish p (3 + e) i w

/-! ### The activity ramp (R104 to R107, R469) -/

/-- The slope of an engine's ramp in A/µs times 64: 374 A·cycles/µs over R cycles (R105, R469). -/
def slope64 (len : Nat) : Nat := 2992 / 2 ^ len

/-- Sum of the slopes of the engines whose ramp is in a state, over every core (R469). -/
def State.slopes (s : State) (a : Act) : Nat :=
  s.cores.foldl (fun n x => n + (if x.2.engA.act = a then slope64 x.2.engA.rampLen else 0) + (if x.2.engB.act = a then slope64 x.2.engB.rampLen else 0)) 0

/-- PWR_DIDT.LIMIT. -/
def State.didt (s : State) : Nat := (aget 0x100 s.regs 0x500014).toNat % 2048

/-- ENG_CTRL.RAMP_LEN. -/
def Core.rampReg (c : Core) (e : Nat) : Nat := c.reg (0x2010 + 0x100 * e) 0x22 % 4

/-- START_TOKEN_GRANT (R104, R105, R469). -/
def execStartTokenGrant (c e : Nat) (s : State) : Out :=
  .next <| if 2 ≤ e then s else s.onCore c fun s p k =>
    if !k.awaitsToken e then s
    else if 64 * s.didt < s.slopes .up + slope64 (k.rampReg e) then s.bump 0x500090 1
    else
      (s.setCore p (k.setEng e { (k.eng e) with act := .up, groups := 1, rampLen := k.rampReg e, stopReq := false })).bump 0x500088 1

/-- RAMP_UP_DONE (R105). -/
def execRampUpDone (c e : Nat) (s : State) : Out :=
  .next <| if 2 ≤ e then s else s.onCore c fun s p k =>
    let g := k.eng e
    if g.act = .up then s.setCore p (k.setEng e { g with act := .active, groups := 8 }) else s

/-- The engine has nothing to do (R106): an empty control queue and no tile that moves. A slot BUSY for a drain that has not taken it, the
MMA.DRAIN that handed it over, and a tile that waits for the drain in the shadow move nothing (DEDUCED, log 150). -/
def Core.engQuiet (c : Core) (e : Nat) : Bool :=
  let g := c.eng e
  ((c.words (3 + e)).all fun x => x.fin || (wOp x.word = 4 && x.n = 1))
    && (g.moves.all fun m => match m.kind with
      | .drain _ taken => !taken
      | _ => false)
    && (g.shUse = .none || (g.shUse = .toDrain && g.offers.contains none))

/-- IDLE_HOLD_EXPIRY (R106, R469): the engine asks for a stop slot. -/
def execIdleHoldExpiry (c e : Nat) (s : State) : Out :=
  .next <| if 2 ≤ e then s else s.onCore c fun s p k =>
    let g := k.eng e
    if g.act = .active && k.engQuiet e then s.setCore p (k.setEng e { g with stopReq := true }) else s

/-- STOP_SLOT_GRANT (R106, R469). -/
def execStopSlotGrant (c e : Nat) (s : State) : Out :=
  .next <| if 2 ≤ e then s else s.onCore c fun s p k =>
    let g := k.eng e
    if !(g.act = .active && g.stopReq) then s
    else if 64 * s.didt < s.slopes .down + slope64 (k.rampReg e) then s.bump 0x500090 1
    else (s.setCore p (k.setEng e { g with act := .down, stopReq := false, rampLen := k.rampReg e })).bump 0x50008C 1

/-- The core whose ramp a logical number names: the one that carries it, or that carried it when it was fenced (R107). -/
def State.rampCore (s : State) (l : Nat) : Option Nat := (afind s.lmap l).map MapEnt.phys

/-- RAMP_DOWN_DONE (R106, R107). -/
def execRampDownDone (c e : Nat) (s : State) : Out :=
  .next <| if 2 ≤ e then s else
    match s.rampCore c with
    | none => s
    | some p => if s.inReset p then s else s.under p fun s =>
      let k := s.core p
      let g := k.eng e
      if g.act = .down then s.setCore p (k.setEng e { g with act := .idle, groups := 0 }) else s

end Sys2Proof.Machine
end

