-- ==== Sys2Proof/Machine/Drain.lean ====
section
/-! DEFINITION. The drain unit (R57, R102, R109 to R134, R194). -/

namespace Sys2Proof.Machine

/-! ### Functions (R116 to R120) -/

/-- The FP32 number of a small integer. -/
def f32nat (n : Nat) : W32 := toF32 (.fin false n 0)

/-- Lower end, upper end, segments per unit, and tails of a built-in table (R120); `tid` by DRN_TBLSEL. -/
def builtinHead (tid : Nat) : List W32 :=
  let m8 : W32 := 0xC1000000
  let p8 : W32 := 0x41000000
  let m16 : W32 := 0xC1800000
  let p16 : W32 := 0x41800000
  let one : W32 := 0x3F800000
  let ofs : W32 := 0x42000000
  let narrow := [m8, p8, 0x40800000, ofs]
  let wide := [m16, p16, 0x40000000, ofs]
  match tid with
  | 0 | 2 => narrow ++ [0, 0, one, 0]
  | 1 | 3 => narrow ++ [0, 0, 0, one]
  | 4 => wide ++ [0, 0, one, 0]
  | 5 => wide ++ [0, 0, 0, one]
  | 6 => wide ++ [0, 0, 0, one]
  | 7 => wide ++ [0, 0, 0, 0]
  | 8 => narrow ++ [0, 0xBF800000, 0, one]
  | _ => narrow ++ [0, 0, 0, 0]

/-- Word w of a table (R119, R120): tables 0 to 9 are built in (log 8), 10 to 13 the user halves. -/
def Drain.tableWord (d : Drain) (tid w : Nat) : W32 :=
  if tid < 10 then (if w < 8 then (builtinHead tid).getD w 0 else Config.builtinTable tid w)
  else (d.tbl.getD (tid - 10) (false, [])).2.getD w 0

/-- floor of a finite value, clamped to 0 to 63 (R118). -/
def segOf (x : Fp) : Nat :=
  match x with
  | .fin neg m e =>
    if neg then 0
    else
      let q := if 0 ≤ e then m <<< e.toNat else m >>> (-e).toNat
      min 63 q
  | .inf neg => if neg then 0 else 63
  | .nan => 0

/-- table_eval (R118). -/
def tableEval (tb : Nat → W32) (x : W32) : W32 :=
  let tail (a b : W32) : W32 := if f32eq a 0 then b else f32fma a x b
  if f32nan x then nan32
  else if f32lt x (tb 0) then tail (tb 4) (tb 5)
  else if f32le (tb 1) x then tail (tb 6) (tb 7)
  else
    let d := f32fma x (tb 2) (tb 3)
    let sg := segOf (f32 d)
    let t := f32sub d (f32nat sg)
    let c (i : Nat) : W32 := tb (32 + 4 * sg + i)
    f32fma (f32fma (f32fma (c 3) t (c 2)) t (c 1)) t (c 0)

/-- A NaN becomes the canonical NaN. -/
def f32canon (x : W32) : W32 := if f32nan x then nan32 else x

/-- f(x) of a function code (R116, R117). -/
def Drain.fn (d : Drain) (fn : Nat) (x : W32) : W32 :=
  if f32nan x then nan32
  else match fn with
    | 0 => x
    | 1 => if f32lt 0 x then x else 0
    | 2 => if f32lt 0 x then x else f32mul x (d.param.getD 4 0)
    | 3 => f32mul (f32mul x (f32min (f32max (f32add x 0x40400000) 0) 0x40C00000)) 0x3E2AAAAB
    | n => tableEval (d.tableWord (2 * (n - 4))) x

/-- f′(x) of a function code (R116, R117). -/
def Drain.dfn (d : Drain) (fn : Nat) (x : W32) : W32 :=
  match fn with
  | 0 => 0x3F800000
  | n =>
    if f32nan x then nan32
    else match n with
      | 1 => if f32lt 0 x then 0x3F800000 else 0
      | 2 => if f32lt 0 x then 0x3F800000 else d.param.getD 4 0
      | 3 => if f32le x 0xC0400000 then 0 else if f32le 0x40400000 x then 0x3F800000 else f32fma x 0x3EAAAAAB 0x3F000000
      | n => tableEval (d.tableWord (2 * (n - 4) + 1)) x

/-! ### Fields of a DRN.TILE (R194) -/

def dSrc (w : CWord) : Nat := wbits w 71 1
def dGrad (w : CWord) : Bool := wbits w 69 2 = 1
def dFunc (w : CWord) : Nat := wbits w 65 4
def dBias (w : CWord) : Bool := wbit w 64
def dBiasFmt (w : CWord) : Nat := let v := wbits w 62 2; if v = 2 then 0xC else v
def dStash (w : CWord) : Bool := wbit w 61
def dStashQ (w : CWord) : Nat := wbits w 57 4
def dPsFmt (w : CWord) : Nat := wbits w 56 1
def dOutFmt (w : CWord) : Nat := wbits w 52 4
def dRnd (w : CWord) : Bool := wbit w 51
def dSat (w : CWord) : Bool := wbit w 50
def dScale (w : CWord) : Nat := wbits w 48 2
def dStat (w : CWord) : Bool := wbit w 47
def dNgrp (w : CWord) : Nat := wbits w 43 4

/-- Pre-activations are popped (R122, R194). -/
def dPops (w : CWord) : Bool := dGrad w && dFunc w ≠ 0

/-- The user-table half that a word needs is not loaded (R121). -/
def Drain.halfMissing (d : Drain) (w : CWord) : Bool :=
  let f := dFunc w
  (f = 9 || f = 0xA) && !(d.tbl.getD (2 * (f - 9) + (if dGrad w then 1 else 0)) (false, [])).1

/-- Control queue of a lane. -/
def laneQ (lane : Nat) : Nat := if lane = 0 then 5 else 10

/-! ### Starting drain words (R110, R132, R145) -/

/-- Earlier words of a lane have completed their effects. -/
def Core.laneFree (c : Core) (q : Nat) : Bool := !((c.words q).any fun x => x.started && !x.fin)

/-- A fence word is at the head of both lanes (R110). -/
def Core.fenceHeads (c : Core) (n : Nat) : Bool :=
  let one (q : Nat) : Bool := match c.words q with
    | [] => false
    | e :: _ => e.seqno = n && !e.started
  one 5 && one 10

/-- A lane takes a tile: its current word is a DRN.TILE with tiles to drain (R111). -/
def Core.laneTakes (c : Core) (lane : Nat) : Bool :=
  match c.curAt (laneQ lane) with
  | some (_, e) => wOp e.word = 1 && e.n ≤ wRep e.word
  | none => false

/-- The tile that an engine offers (R79, R86, R92): the shadow's, or the quarters of a slot's move. -/
def Engine.offered (g : Engine) : Option (Option Nat × Tile) :=
  match g.offers with
  | [] => none
  | none :: _ => some (none, g.shadow)
  | some slot :: _ =>
    match g.moves.find? fun m => m.slot = slot && (match m.kind with
      | .drain _ taken => !taken
      | _ => false) with
    | none => none
    | some m => some (some slot, ({} : Tile).takeQs (g.slot slot).tile m.qs)

/-- A tile waits for a lane that the drain can take now (R102, R111). -/
def Core.tileFor (c : Core) (lane : Nat) : Bool :=
  c.drn.cur.isNone && (c.eng lane).offered.isSome && (lane = 0 || !(c.laneTakes 0 && (c.eng 0).offered.isSome))

/-- The start of a drain word in lane queue q: its first effect is to take a tile, to pop an entry or to push one (R141). -/
def State.startDrain (s : State) (p q : Nat) (e : Cqe) : Start :=
  let c := s.core p
  let w := e.word
  if !c.laneFree q then .wait s
  else
    match wOp w with
    | 1 =>
      match c.roles 5 ((if dBias w then [wIna w] else []) ++ (if dPops w then [wInb w] else []))
          ([wOut w] ++ (if dStash w then [dStashQ w] else [])) [] [] with
      | some info => .stop (s.haltWord p q e 0x05 info)
      | none =>
        if c.drn.halfMissing w then .stop (s.haltIllegal p q e)
        else if !c.tileFor (if q = 5 then 0 else 1) then .wait s
        else .go s e
    | 2 => .go s e
    | _ =>
      if !c.fenceHeads e.seqno then .wait s
      else
        match c.roles 5 (if wOp w = 4 then [wIna w] else []) (if wOp w = 5 then [wOut w] else []) [] [] with
        | some info => .stop (s.haltWord p q e 0x05 info)
        | none =>
          if wOp w = 4 && (c.dataQ (wIna w)).ents.isEmpty then .wait (s.setCore p (c.waitEmpty (wIna w)))
          else if wOp w = 5 && !c.dqRoom (wOut w) 3 then .wait (s.setCore p (c.waitFull (wOut w)))
          else
          -- a fence word starts in both lanes
          let l := c.words 10
          .go (s.setCore p (c.setWords 10 (l.map fun x => if x.seqno = e.seqno then { x with started := true } else x))) e

/-- The fence word of lane A, when it works. -/
def State.onFenceWord (s : State) (c op : Nat) (f : State → Nat → Core → Nat → Cqe → State) : State := s.onCur c 5 op f

/-- A fence word is done in both lanes. -/
def State.fenceDone (s : State) (p : Nat) (e : Cqe) : State :=
  s.modCore p fun c => (c.finishSeq 5 e.seqno).finishSeq 10 e.seqno

/-! ### Tiles -/

/-- DRAIN_ACCEPT_TILE (R102, R111): engine A's tile is taken first when both are offered. -/
def execDrainAcceptTile (c e : Nat) (s : State) : Out :=
  .next <| if 2 ≤ e then s else s.onCore c fun s p k =>
    let g := k.eng e
    let first := e = 0 || !(k.laneTakes 0 && (k.eng 0).offered.isSome)
    if !k.working || k.drn.cur.isSome || !k.laneTakes e || !first then s
    else
      match g.offered with
      | none => s
      | some (src, t) =>
        let off := 0x2000 + 0x100 * e
        let k := k.setEng e { g with offers := g.offers.drop 1 }
        let k := { k with drn := { k.drn with cur := some { lane := e, src := src, tile := t, row := 0, bias := [] } } }
        let k := (k.bump (off + 0x20) 1).bump (off + 0x24) (if t.q.any QWord.sat then 1 else 0)
        let k := (k.bump (off + 0x28) (if t.q.any QWord.nf then 1 else 0)).bump (off + 0x80) (if t.q.any QWord.scanNone then 1 else 0)
        s.setCore p k

/-- The tile has left the shadow or the slot: the shadow is free, the slot's move can end (R88, R96). -/
def Engine.left (g : Engine) (src : Option Nat) : Engine :=
  match src with
  | none => { g with shadow := {}, shUse := .none }
  | some slot =>
    { g with moves := g.moves.map fun m => if m.slot = slot then (match m.kind with
        | .drain w _ => { m with kind := .drain w true }
        | _ => m) else m }

/-- The FP32 value of cell (i, j) of a tile (R56, R57). -/
def Tile.value (t : Tile) (i j : Nat) : W32 :=
  let c := (t.rows.getD i []).getD j {}
  if c.nf then nan32 else toF32 (Fp.ofInt false c.acc ((t.q.getD (j / 16) {}).texp))

/-- PACK code of the tile: that of its quarters that hold data. -/
def Tile.pack (t : Tile) : Nat := t.q.foldl (fun n q => max n q.pack) 0

/-- What one element leaves: the stash code, v after stage 7. -/
def Drain.element (d : Drain) (w : CWord) (bias pre x : W32) : Nat × W32 :=
  let v := if dBias w then f32add x bias else x
  let sc := d.param.getD (dScale w) 0
  if dGrad w then (0, f32mul (f32mul v (d.dfn (dFunc w) pre)) sc)
  else
    let st := (convert (dPsFmt w) (dSat w) (f32 v)).code
    let a := if dStash w then widen (dPsFmt w) st else v
    (st, f32mul (d.fn (dFunc w) a) sc)

/-- Add an element to a norm accumulator (R129). -/
def Nacc.add (x : Nacc) (en : Nat) (v : W32) : Nacc :=
  match f32 v with
  | .fin _ m e =>
    let y := x.acc + roundHE (m * m) (2 * e + 183 - en)
    if 2 ^ 64 ≤ y then { x with acc := 2 ^ 64 - 1, sat := true } else { x with acc := y }
  | _ => { x with nf := true }

/-- E_N of DRN_PARAM NORM_E. -/
def Drain.normE (d : Drain) : Nat := (d.param.getD 5 0).toNat % 256

/-- A finite result that overflowed went to an infinity or to a NaN, not to a clamp (R58, R128). -/
def ovfIsNf (fmt : Nat) (sat : Bool) : Bool :=
  !sat && (match elemOf fmt with
    | .flt f => f.ieee || f = e4m3
    | _ => false)

/-- The output of one row: entries, NF and OUTSAT elements (R124 to R128). `idx`: the index of column j. -/
def drainOutput (fmt : Nat) (sat : Bool) (rs : Option (Nat → Nat)) (pk : Nat) (v : List W32) : List Entry × Option Side × Nat × Nat :=
  let x := v.map f32
  let nonfin := (x.filter fun y => !y.isFin).length
  if isMx fmt then
    let wd := min 32 (64 / pk)
    let blocks := (List.range (64 / wd)).map fun b =>
      mxQuantise fmt (rs.map fun r => (List.range wd).map fun j => r (wd * b + j)) ((x.drop (wd * b)).take wd)
    let cs := blocks.flatMap Prod.snd
    let sd := packBits 8 (blocks.map Prod.fst)
    ([BitVec.ofNat 1024 (packBits (fmtWidth fmt) (cs.map Conv.code))], some (BitVec.ofNat 512 sd), nonfin, (cs.filter Conv.ovf).length)
  else
    let cs := x.zipIdx.map fun y => match rs with
      | some r => roundKeyed fmt sat (r y.2) y.1
      | none => convert fmt sat y.1
    let ov := (cs.filter Conv.ovf).length
    let codes := cs.map Conv.code
    let ents := if fmtWidth fmt = 32 then [codes.take 32, codes.drop 32] else [codes]
    (ents.map fun l => BitVec.ofNat 1024 (packBits (fmtWidth fmt) l), none,
      nonfin + (if ovfIsNf fmt sat then ov else 0), if ovfIsNf fmt sat then 0 else ov)

/-- Bias entries of a tile (R114). -/
def biasEntries (w : CWord) : Nat := if !dBias w then 0 else if dBiasFmt w = 0xC then 2 else 1

/-- The random value of column j of row i of a lane's tile (R61, R62, R125). -/
def Core.drainRand (c : Core) (x : RndCtx) (pack i j : Nat) : Nat :=
  let wd := 64 / packOf pack
  srBits c.seq.seed c.seq.step x.obj (x.base + x.n * x.tstep + j / wd * x.pstep + i * x.rstep + j % wd)

/-- One row of the tile in the drain (R113 to R129). With STASH_Q = OUT the spec does not say which of a row's entries lies first: the model pushes
the output, then the pre-activation (DESIGN CHOICE, log 153; unsafe). -/
def State.drainRow (s : State) (p i : Nat) (e : Cqe) (d : DrnTile) : State :=
  let k := s.core p
  let w := e.word
  let q := laneQ d.lane
  let nb := if d.row = 0 then biasEntries w else 0
  let npre := if dPops w then 1 else 0
  let out := if fmtWidth (dOutFmt w) = 32 then 2 else 1
  let room := if dStash w then (if dStashQ w = wOut w then k.dqRoom (wOut w) (out + 1) else k.dqRoom (wOut w) out && k.dqRoom (dStashQ w) 1)
    else k.dqRoom (wOut w) out
  match k.headDq (wIna w) nb, k.headDq (wInb w) npre with
  | some bs, some ps =>
    if !room then (s.setCore p (k.waitFull (if k.dqRoom (wOut w) out then dStashQ w else wOut w))).bumpCore p 0x2254 1
    else if bs.any DqEnt.poison then s.haltWord p q e 0x0C (wIna w * 16)
    else if ps.any DqEnt.poison then s.haltWord p q e 0x0C (wInb w * 16)
    else
      let bias := if nb = 0 then d.bias else preRow (dBiasFmt w) bs
      let k := (k.dropDq (wIna w) nb).dropDq (wInb w) npre
      let pre := preRow (dPsFmt w) ps
      let r := (List.range 64).map fun j => k.drn.element w (bias.getD j 0) (pre.getD j 0) (d.tile.value d.row j)
      let v := r.map Prod.snd
      let ctx := k.drn.ctx.getD d.lane {}
      let rs := if dRnd w then some (k.drainRand ctx d.tile.pack d.row) else none
      let o := drainOutput (dOutFmt w) (dSat w) rs (packOf d.tile.pack) v
      let k := k.pushDq (wOut w) (o.1.map fun x => ({ data := x, side := o.2.1, tok := e.seqno } : DqEnt))
      let k := if dStash w then k.pushDq (dStashQ w) [{ data := BitVec.ofNat 1024 (packBits 16 (r.map Prod.fst)), tok := e.seqno }] else k
      let acc := aget {} k.drn.nacc (dNgrp w)
      let nacc := if dStat w then aset k.drn.nacc (dNgrp w) (v.foldl (fun a x => a.add k.drn.normE x) acc) else k.drn.nacc
      let k := ((k.bump 0x2244 o.2.2.1).bump 0x224C o.2.2.2).bump 0x2258 o.2.2.1
      if d.row < 15 then
        (s.setCore p { k with drn := { k.drn with nacc := nacc, cur := some { d with row := d.row + 1, bias := bias } } })
      else
        let sat := if d.tile.q.any QWord.sat then 1 else 0
        let k := ((k.bump 0x2240 1).bump 0x2248 sat).bump 0x225C sat
        let ctxs := k.drn.ctx.set d.lane { ctx with n := ctx.n + 1 }
        let k := { k with drn := { k.drn with nacc := nacc, cur := none, ctx := ctxs } }
        (s.setCore p (k.setEng d.lane ((k.eng d.lane).left d.src))).tick p q i e (wRep w + 1)
  | none, _ => (s.setCore p (k.waitEmpty (wIna w))).bumpCore p 0x2250 1
  | _, none => (s.setCore p (k.waitEmpty (wInb w))).bumpCore p 0x2250 1

/-- DRN.TILE (R112 to R129): one row of the accepted tile. -/
def execDrnTile (c lane : Nat) (s : State) : Out :=
  .next <| if 2 ≤ lane then s else s.onCur c (laneQ lane) 1 fun s p k i e =>
    match k.drn.cur with
    | some d => if d.lane = lane then s.drainRow p i e d else s
    | none => s

/-- DRN.SRCTX (R125). -/
def execDrnSrctx (c lane : Nat) (s : State) : Out :=
  .next <| if 2 ≤ lane then s else s.onCur c (laneQ lane) 2 fun s p k i e =>
    let w := e.word
    let x : RndCtx := { obj := wbits w 55 16, base := wbits w 7 48, tstep := wbits w 224 32, pstep := wbits w 200 24, rstep := wbits w 176 24, n := 0 }
    (s.setCore p { k with drn := { k.drn with ctx := k.drn.ctx.set lane x } }).finish p (laneQ lane) i e

/-! ### Fence words -/

/-- DRN.CFG (R109, R131). -/
def execDrnCfg (c : Nat) (s : State) : Out :=
  .next <| s.onFenceWord c 3 fun s p k _ e =>
    let n := wbits e.word 69 3
    let d := { k.drn with param := k.drn.param.set n (BitVec.ofNat 32 (wbits e.word 0 (if n = 5 then 8 else 32))) }
    let d := if n = 5 then { d with nacc := [] } else d
    (s.setCore p { k with drn := d }).fenceDone p e

/-- Entry n of a DRN.TBL fills its 128 B of a user-table half; the ninth loads the half (R121). -/
def Drain.fillTbl (d : Drain) (half n : Nat) (x : Entry) : Drain :=
  let t := d.tbl.getD half (false, [])
  let new := (unpackBits 32 32 x.toNat).map (BitVec.ofNat 32)
  let l := (t.2 ++ List.replicate (32 * n - t.2.length) 0).take (32 * n) ++ new ++ t.2.drop (32 * n + 32)
  { d with tbl := d.tbl.set half (t.1 || n = 8, l) }

/-- DRN.TBL (R121): one of its nine entries. -/
def execDrnTbl (c : Nat) (s : State) : Out :=
  .next <| s.onFenceWord c 4 fun s p k i e =>
    match (k.dataQ (wIna e.word)).ents with
    | [] => s.setCore p (k.waitEmpty (wIna e.word))
    | x :: _ =>
      if x.poison then s.haltWord p 5 e 0x0C (wIna e.word * 16)
      else
        let k := k.dropDq (wIna e.word) 1
        let half := 2 * wbits e.word 71 1 + wbits e.word 70 1
        let s := s.setCore p { k with drn := k.drn.fillTbl half e.n x.data }
        if e.n < 8 then s.putWord p 5 i { e with n := e.n + 1 } else s.fenceDone p e

/-- The Felt-32 block of a DRN.STAT (R130). -/
def Drain.statBlock (d : Drain) (eadd : Nat) : FeltBlk :=
  let en := d.normE
  let a := min eadd (255 - en)
  let accs := (List.range 16).map fun g => aget {} d.nacc g
  let nOf (x : Nacc) : Int := (min (roundHE x.acc (-(32 + a : Nat) : Int)) (2 ^ 24 - 1) : Nat)
  let extra := accs.foldl (fun y x =>
    if x.sat then 127
    else if 2 ^ (56 + a) ≤ x.acc then (if a < eadd then 127 else max y (Nat.log2 x.acc - 56 - a + 1)) else y) 0
  { e := en + a, count := 1, nf := accs.any Nacc.nf
    ovf := accs.any fun x => x.sat || 2 ^ (56 + a) ≤ x.acc
    extra := extra, n := accs.map nOf ++ List.replicate 48 0 }

/-- DRN.STAT (R128, R130, R131). -/
def execDrnStat (c : Nat) (s : State) : Out :=
  .next <| s.onFenceWord c 5 fun s p k _ e =>
    if !k.dqRoom (wOut e.word) 3 then s.setCore p (k.waitFull (wOut e.word))
    else
      let ents := entriesOf (feltBytes false (k.drn.statBlock (wbits e.word 69 3)))
      let k1 := k.pushDq (wOut e.word) (ents.map fun x => ({ data := x, tok := e.seqno } : DqEnt))
      let k1 := if wbit e.word 68 then { k1 with drn := { k1.drn with nacc := [] } } else k1
      let s1 := (s.setCore p k1).fenceDone p e
      if !k.seq.open_ then s1
      else
        let nf := k.count 0x2258
        let sat := k.count 0x225C
        let s2 := s1.modCore p fun k => { k with drn := { k.drn with repNf := nf, repSat := sat } }
        s2.send (.drainReport p k.seq.step k.seq.attempt (nf - k.drn.repNf) (sat - k.drn.repSat))

/-- Counters of a core at word offsets from `lo` to `hi` become 0. -/
def Core.clearCounters (c : Core) (lo hi : Nat) : Core := { c with cnt := c.cnt.filter fun x => x.1 < lo ∨ hi < x.1 }

/-- DRN_CNT_CLR.ALL (ch. 04): +0x040 to +0x054. -/
def execDrnCntClr (c : Nat) (s : State) : Out := .next <| s.onCore c fun s p k => s.setCore p (k.clearCounters 0x2240 0x2254)

/-- ENG_CNT_CLR.ALL (R108). -/
def execEngCntClr (c e : Nat) (s : State) : Out :=
  .next <| if 2 ≤ e then s else s.onCore c fun s p k => s.setCore p (k.clearCounters (0x2020 + 0x100 * e) (0x2080 + 0x100 * e))

end Sys2Proof.Machine
end

