-- ==== Sys2Proof/Machine/Caches.lean ====
section
/-! DEFINITION. The vector unit's L1, the cluster switch and L2 with its miss registers and prefetcher (R20, R21, R25, R290 to R294). -/

namespace Sys2Proof.Machine

def lineBytes : Nat := 128
/-- Sets and ways of the L1 and of an L2 (R12, R290). -/
def l1Sets : Nat := 128
def l1Ways : Nat := 4
def l2Sets : Nat := 2048
def l2Ways : Nat := 16

/-- The line of a number in a cache. -/
def lineIn (c : List CLine) (n : Nat) : Option CLine := c.find? fun x => x.line = n

/-- Put a line into a cache; where its set is full, the line that leaves is a free value (log 36). -/
def cacheInsert (sets ways : Nat) (pick : Nat) (c : List CLine) (x : CLine) : List CLine × Option CLine :=
  let c := c.filter fun y => y.line ≠ x.line
  let mine := c.filter fun y => y.line % sets = x.line % sets
  if mine.length < ways then (c ++ [x], none)
  else match mine[pick % ways]? with
    | none => (c ++ [x], none)
    | some v => ((c.filter fun y => y.line ≠ v.line) ++ [x], some v)

/-- Replace a line that is there. -/
def cacheSet (c : List CLine) (x : CLine) : List CLine := c.map fun y => if y.line = x.line then x else y

/-! ### The cluster's side -/

/-- Counters of the cluster view (R294). -/
def State.bumpCluster (s : State) (g off n : Nat) : State :=
  let x := s.cluster g
  s.setCluster g { x with cnt := aset x.cnt off (aget 0 x.cnt off + BitVec.ofNat 32 n) }

/-- Write a dirty line of an L2 to its tier; an access that is refused freezes the core that wrote the line (R299; log 36). -/
def State.lineToMemory (s : State) (v : CLine) : State :=
  if !v.dirty then s
  else
    let a := v.line * lineBytes
    match s.checkAddr (.core ((s.logical v.owner).getD 0)) true true a lineBytes with
    | .error (r, o) => s.freezeAt v.owner 6 r o a
    | .ok (o, ofs) => s.wholeWrite o ofs (v.bytes.map fun b => (b, v.poison))

/-- Put a line into the L2 of a cluster; what leaves is written back (R292). -/
def State.l2Insert (s : State) (g : Nat) (x : CLine) : State :=
  let (w, s) := s.free
  let k := s.cluster g
  let r := cacheInsert l2Sets l2Ways w.toNat k.l2 x
  let s := s.setCluster g { k with l2 := r.1 }
  match r.2 with
  | none => s
  | some v => (if v.pf then s.bumpCluster g 0xC18 1 else s).lineToMemory v

/-- A request of a core goes to its port of the cluster switch. -/
def State.askSwitch (s : State) (p line : Nat) (wr : Option (List Byte)) (poison : Bool) : State :=
  let g := clusterOf p
  let k := s.cluster g
  s.setCluster g { k with reqs := k.reqs ++ [{ port := p % 8, line := line, wr := wr, poison := poison, stamp := none }] }

/-- Put a line into a core's L1; a dirty line that leaves goes to the L2 (R290). -/
def State.l1Insert (s : State) (p : Nat) (x : CLine) : State :=
  let (w, s) := s.free
  let k := s.core p
  let r := cacheInsert l1Sets l1Ways w.toNat k.vec.l1 x
  let s := s.setCore p { k with vec := { k.vec with l1 := r.1 } }
  match r.2 with
  | none => s
  | some v => if v.dirty then s.askSwitch p v.line (some v.bytes) v.poison else s

/-- The line of the L2 that a core asked for reaches its L1, under the line of its own that it stands for. -/
def State.l1Fill (s : State) (p line : Nat) (bytes : List Byte) (poison : Bool) : State :=
  let k := s.core p
  match k.vec.miss with
  | none => s
  | some l =>
    if k.vec.missAt ≠ line then s
    else (s.setCore p { k with vec := { k.vec with miss := none } }).l1Insert p { line := l, bytes := bytes, dirty := false, poison := poison }

/-- L2PF_CTRL: enabled, and lines ahead (R292). -/
def Cluster.pfCtrl (k : Cluster) : Nat := (aget 9 k.regs 0xC00).toNat
def Cluster.pfDist (k : Cluster) : Nat := max 1 (bitsOf k.pfCtrl 1 4)

/-- A miss seen by the prefetcher: the streams, and the stream that has three misses at one stride (R292; log 37). -/
def trainPf (l : List PfStream) (line : Nat) : List PfStream × Option PfStream :=
  match l.find? fun x => 2 ≤ x.count && (x.last : Int) + x.stride = line && x.stride ≠ 0 with
  | some x =>
    let y := { x with last := line, count := x.count + 1 }
    (l.map fun z => if z = x then y else z, if 3 ≤ y.count then some y else none)
  | none =>
    match l.reverse.find? fun x => x.count = 1 with
    | some x => (l.map fun z => if z = x then { last := line, stride := (line : Int) - x.last, count := 2 } else z, none)
    | none => ((if 16 ≤ l.length then l.drop 1 else l) ++ [{ last := line, stride := 0, count := 1 }], none)

/-- The input of the cluster switch by which its L2 asks, for prefetches (R20, R292; log 165). -/
def l2Input : Nat := 8

/-- The L2 asks its switch for the prefetches of a stream (R20, R292). -/
def Cluster.issuePf (k : Cluster) (cause : Nat) (st : PfStream) : Cluster :=
  (List.range k.pfDist).foldl (fun k i =>
    let t : Int := (st.last : Int) + st.stride * (i + 1 : Nat)
    let n := t.toNat
    if t < 0 || (lineIn k.l2 n).isSome || (k.miss.any fun m => m.line = n) || (k.reqs.any fun r => r.port = l2Input && r.line = n) then k
    else { k with reqs := k.reqs ++ [{ port := l2Input, line := n, wr := none, poison := false, stamp := none, cause := cause }] }) k

/-- A prefetch is served (R292): its fill takes a miss register, unless the line has come meanwhile. -/
def State.servePf (s : State) (g : Nat) (r : SwReq) : State :=
  let k := s.cluster g
  if (lineIn k.l2 r.line).isSome || (k.miss.any fun m => m.line = r.line) then s
  else (s.setCluster g { k with miss := k.miss ++ [{ line := r.line, ports := [], cause := r.cause, prefetch := true }] }).bumpCluster g 0xC10 1

/-- A request can be served: it writes, hits, attaches, or a miss register is free (R21). -/
def Cluster.serveable (k : Cluster) (r : SwReq) : Bool :=
  r.wr.isSome || (lineIn k.l2 r.line).isSome || (k.miss.any fun m => m.line = r.line) || k.miss.length < 64

/-- Place of an input after the last one served, for equal stamps (R20). -/
def rrPlace (last port : Nat) : Nat := (port + 10 - last % 10 + 9) % 10

/-- The request served next: the oldest stamp, then round robin (R20). -/
def Cluster.nextReq (k : Cluster) : Option SwReq :=
  (k.reqs.filter fun r => r.stamp.isSome && k.serveable r).foldl (fun (b : Option SwReq) r => match b with
    | none => some r
    | some x =>
      let a := r.stamp.getD 0
      let y := x.stamp.getD 0
      if a < y ∨ (a = y ∧ rrPlace k.lastIn r.port < rrPlace k.lastIn x.port) then some r else some x) none

/-- Serve a request (R20, R21, R290, R292). -/
def State.serveReq (s : State) (g : Nat) (r : SwReq) : State :=
  let k := s.cluster g
  let k := { k with reqs := k.reqs.erase r, lastIn := r.port }
  let p := 8 * g + r.port
  let s := s.setCluster g k
  if r.port = l2Input then s.servePf g r
  else match r.wr with
  | some d =>
    let x : CLine := { line := r.line, bytes := d, dirty := true, owner := p, poison := r.poison }
    if (lineIn k.l2 r.line).isSome then s.setCluster g { k with l2 := cacheSet k.l2 x } else s.l2Insert g x
  | none =>
    match lineIn k.l2 r.line with
    | some x =>
      let s := if x.pf then (s.setCluster g { k with l2 := cacheSet k.l2 { x with pf := false } }).bumpCluster g 0xC14 1 else s
      s.l1Fill p r.line x.bytes x.poison
    | none =>
      let tr := if bitAt k.pfCtrl 0 then trainPf k.pf r.line else (k.pf, none)
      match k.miss.find? fun m => m.line = r.line with
      | some m =>
        let miss := k.miss.map fun y => if y.line = r.line then { y with ports := y.ports ++ [r.port], prefetch := false } else y
        let s := s.setCluster g { k with miss := miss }
        if m.prefetch then s.bumpCluster g 0xC1C 1 else s
      | none =>
        let k := { k with pf := tr.1, miss := k.miss ++ [{ line := r.line, ports := [r.port], cause := r.port, prefetch := false }] }
        s.setCluster g (tr.2.elim k fun st => k.issuePf r.port st)

/-- Serve what can be served, oldest first; `fuel`: the number of requests. -/
def State.arbitrate (s : State) (g : Nat) : Nat → State
  | 0 => s
  | fuel + 1 =>
    match (s.cluster g).nextReq with
    | none => s
    | some r => (s.serveReq g r).arbitrate g fuel

/-- What the L2's SECDED finds on the line of a request (R25): a corrected error is counted (2); an uncorrectable one poisons the line, and what it
held dirty is lost (3). -/
def State.l2Ecc (s : State) (g line err : Nat) : State :=
  let k := s.cluster g
  match lineIn k.l2 line with
  | none => s
  | some x =>
    if err = 2 then s.bumpCluster g 0x4100 1
    else if err = 3 then (s.setCluster g { k with l2 := cacheSet k.l2 { x with poison := true, dirty := false } }).bumpCluster g 0x4104 1
    else s

/-- CLUSTER_REQUEST (R20, R21, R25): the oldest request of an input that has not arrived arrives with its stamp, and the switch serves the
waiting requests. A request that finds every miss register busy waits and is counted. `err`: a parity error of tags, miss registers or switch, which
fences the cluster (1), or what SECDED finds on the request's line (2, 3). -/
def execClusterRequest (g port stamp err : Nat) (s : State) : Out :=
  .next <| s.under (512 + g) fun s =>
    let k := s.cluster g
    if 64 ≤ g || k.oos then s
    else if err = 1 then (s.bumpCluster g 0x4108 1).fenceCluster g
    else
      match k.reqs.findIdx? fun r => r.port = port && r.stamp.isNone with
      | none => s
      | some i =>
        let reqs := k.reqs.zipIdx.map fun x => if x.2 = i then { x.1 with stamp := some stamp } else x.1
        let s := (s.setCluster g { k with reqs := reqs }).l2Ecc g ((k.reqs[i]?).elim 0 SwReq.line) err
        let s := s.arbitrate g reqs.length
        if (s.cluster g).reqs.any fun r => r.stamp.isSome && r.wr.isNone then s.bumpCluster g 0xC20 1 else s

/-- The line by which the access of a port is checked (R299): the one its core named, where the L2's line stands for another (R229). -/
def State.namedLine (s : State) (g line port : Nat) : Nat :=
  let v := (s.core (8 * g + port)).vec
  if v.missAt = line then v.miss.getD line else line

/-- The memory-side checks of a port's access to a line of its L2 (R299). -/
def State.lineCheck (s : State) (g line port : Nat) : Except (Nat × Nat) (Nat × Nat) :=
  s.checkAddr (.core ((s.logical (8 * g + port)).getD 0)) false true (s.namedLine g line port * lineBytes) lineBytes

/-- A fill for a core that waits: the memory-side checks are made for each (R299). -/
def State.fillPort (s : State) (g line port : Nat) (bytes : List PByte) : State :=
  let p := 8 * g + port
  match s.lineCheck g line port with
  | .error (r, o) =>
    if (s.core p).vec.miss.isSome && (s.core p).vec.missAt = line then s.freezeAt p 6 r o (s.namedLine g line port * lineBytes) else s
  | .ok _ => s.l1Fill p line (bytes.map Prod.fst) (bytes.any Prod.snd)

/-- Read a line of memory, by its device address. -/
def State.lineRead (s : State) (line : Nat) : List PByte × State :=
  let a := line * lineBytes
  match s.findObj a with
  | some o => s.objRead o (a - (s.objEnt o).start) lineBytes
  | none => (List.replicate lineBytes (0, true), s)

/-- L2_MISS_FILL (R21, R292): the fill of a miss register completes; a prefetch that is refused is dropped. -/
def execL2MissFill (g line : Nat) (s : State) : Out :=
  .next <| s.under (512 + g) fun s =>
    let k := s.cluster g
    match k.miss.find? fun m => m.line = line with
    | none => s
    | some m =>
      let s := s.setCluster g { k with miss := k.miss.erase m }
      let r := match s.lineCheck g line m.cause with
        | .ok _ =>
          let x := s.lineRead line
          (x.1, x.2.l2Insert g { line := line, bytes := x.1.map Prod.fst, dirty := false, poison := x.1.any Prod.snd, pf := m.prefetch })
        | .error _ => ([], s)
      let s := m.ports.foldl (fun s port => s.fillPort g line port r.1) r.2
      s.arbitrate g (s.cluster g).reqs.length

/-! ### The core's side -/

/-- The place of a device byte in the L1. -/
def Core.l1Line (c : Core) (a : Nat) : Option CLine := lineIn c.vec.l1 (a / lineBytes)

/-- Ask the L2 for the line of an address, unless a request is out: the line of the pinned version's shadow where the read is redirected (R229,
R300); a version that is gone reads as poison. -/
def State.l1Miss (s : State) (p a : Nat) : State :=
  let line := a / lineBytes
  if (s.core p).vec.miss.isSome then s
  else
    let ask (s : State) (at_ : Nat) : State :=
      (s.modCore p fun c => { c with vec := { c.vec with miss := some line, missAt := at_ } }).askSwitch p at_ none false
    match s.findObj a with
    | none => ask s line
    | some o =>
      let t := s.noteRead p o
      match s.readTarget p o with
      | none => t.l1Insert p { line := line, bytes := List.replicate lineBytes 0, dirty := false, poison := true }
      | some (q, ofs) => if q = o then ask t line
        else ask t (((s.objEnt q).start + ofs + (line * lineBytes - (s.objEnt o).start)) / lineBytes)

/-- The range of a generator: its lowest address and the last byte of its highest entry (R191, R291; log 38). -/
def Agen.range (g : Agen) : Int × Int :=
  let ext := (g.stride.zip g.count).map fun x => x.1 * (x.2 : Int)
  (g.base + ext.foldl (fun n x => n + min 0 x) 0, g.base + ext.foldl (fun n x => n + max 0 x) 0 + 127)

/-- Lines of the L1 in the scope of a flush word (R291). -/
def Core.l1Scope (c : Core) (w : CWord) : List CLine :=
  if wbit w 64 then c.vec.l1
  else
    let r := (aget {} c.vecAg (wbits w 46 3)).range
    c.vec.l1.filter fun x => r.1 ≤ ((x.line * lineBytes + 127 : Nat) : Int) && ((x.line * lineBytes : Nat) : Int) ≤ r.2

/-- A flush or invalidate of the L1: the write-backs go out, and the word ends when the L2 has them (R291). -/
def State.l1Flush (s : State) (p i : Nat) (e : Cqe) (inv : Bool) : State :=
  let c := s.core p
  if e.n = 0 then
    let sc := c.l1Scope e.word
    let l1 := if inv then c.vec.l1.filter fun x => !sc.contains x
      else c.vec.l1.map fun x => if sc.contains x then { x with dirty := false } else x
    let s := s.setCore p { c with vec := { c.vec with l1 := l1 } }
    let s := (sc.filter CLine.dirty).foldl (fun s x => s.askSwitch p x.line (some x.bytes) x.poison) s
    s.putWord p 6 i { e with n := 1 }
  else
    let out := (s.cluster (clusterOf p)).reqs.any fun r => r.port = p % 8 && r.wr.isSome
    if out then s else s.finish p 6 i e

/-- VEC.L1FLUSH (R291). -/
def execVecL1flush (c : Nat) (s : State) : Out := .next <| s.onCur c 6 0xB fun s p _ i e => s.l1Flush p i e false

/-- VEC.L1INV (R291). -/
def execVecL1inv (c : Nat) (s : State) : Out := .next <| s.onCur c 6 0xC fun s p _ i e => s.l1Flush p i e true

/-- A flush or invalidate of the cluster L2, whole or the lines of an object (R291). -/
def State.l2Flush (s : State) (p i : Nat) (e : Cqe) (inv : Bool) : State :=
  let g := clusterOf p
  let w := e.word
  let o := s.objEnt (wbits w 55 16)
  let k := s.cluster g
  let sc := k.l2.filter fun x =>
    wbit w 71 || (o.valid && o.start < x.line * lineBytes + lineBytes && x.line * lineBytes < o.start + o.bytes)
  let gone := if inv then (sc.filter CLine.pf).length else 0
  let l2 := if inv then k.l2.filter fun x => !sc.contains x
    else k.l2.map fun x => if sc.contains x then { x with dirty := false } else x
  let s := (s.setCluster g { k with l2 := l2 }).bumpCluster g 0xC18 gone
  (sc.foldl (fun s x => s.lineToMemory x) s).finish p 1 i e

/-- STR.L2FLUSH (R291). -/
def execStrL2flush (c i : Nat) (s : State) : Out := .next <| s.onWord c 1 4 i fun s p _ e => s.l2Flush p i e false

/-- STR.L2INV (R291). -/
def execStrL2inv (c i : Nat) (s : State) : Out := .next <| s.onWord c 1 5 i fun s p _ e => s.l2Flush p i e true

/-- L2_CNT_CLR.ALL (R294), through the block of a core of the cluster. -/
def execL2CntClr (c : Nat) (s : State) : Out :=
  .next <| s.onCore c fun s p _ => let g := clusterOf p
                              s.setCluster g { s.cluster g with cnt := (s.cluster g).cnt.filter fun x => 0x4100 ≤ x.1 }

end Sys2Proof.Machine
end

