-- ==== Sys2Proof/Machine/Identity.lean ====
section
/-! DEFINITION. Hashes, key derivation and the device's layered identity (R439, R446, R447), and the keys of a link (R455). The standards' functions
are opaque (log 10). -/

namespace Sys2Proof.Machine

/-- SHA3-256, by number 0 (log 10). -/
def sha3 (d : List Byte) : List Byte := Config.hash 0 d

/-- The ASCII bytes of a label, without a terminator. -/
def ascii (t : String) : List Byte := t.toList.map fun c => BitVec.ofNat 8 c.toNat

/-- kdf (R446). -/
def kdf (x label : List Byte) : List Byte := sha3 (x ++ label)

/-- An ML-DSA-44 key pair: public and secret key. -/
structure KeyPair where
  pub : List Byte
  sec : List Byte
  deriving DecidableEq, Repr

/-- ML-DSA-44 key generation from a 32 B seed. -/
def keygen (seed : List Byte) : KeyPair := { pub := Config.keygenPub seed, sec := Config.keygenSec seed }

/-- ML-DSA-44 signature by a key, with an empty context string. -/
def KeyPair.sign (k : KeyPair) (msg : List Byte) : List Byte := Config.sign 1 k.sec msg

/-- The image that runs of a component: its measurement, SVN and FWVER. One that does not run counts as zeros (log 172). -/
def Sec.layer (x : Sec) (comp : Nat) : List Byte × Nat × Nat := match afind x.run comp with
  | some i => (i.digest, i.svn, i.fwver)
  | none => (List.replicate 32 0, 0, 0)

/-! ### The layers (R446) -/

def cdi0 : List Byte := kdf Config.uds (ascii "FJ2 L0" ++ Config.romHash)
def devidKey : KeyPair := keygen (kdf cdi0 (ascii "DEVID"))
def Sec.cdi1 (x : Sec) : List Byte := kdf cdi0 (ascii "FJ2 L1" ++ (x.layer 4).1 ++ bytesOf 4 (x.layer 4).2.1)
def Sec.aliasKey (x : Sec) : KeyPair := keygen (kdf x.cdi1 (ascii "ALIAS"))
def Sec.cdi2 (x : Sec) : List Byte :=
  kdf x.cdi1 (ascii "FJ2 L2" ++ (x.layer 3).1 ++ (x.layer 2).1 ++ (x.layer 5).1 ++ [if x.debug then 1 else 0])
def Sec.attestKey (x : Sec) : KeyPair := keygen (kdf x.cdi2 (ascii "ATTEST"))

/-- The hash of this device's DeviceID public key, which a debug token names (R458). -/
def devidHash : List Byte := sha3 devidKey.pub

/-! ### Certificates (R447) -/

/-- The body of a certificate for a key, with the TcbInfo of the layers it certifies (its DER coding is not given: log 11). -/
def certBody (n : Nat) (pub : List Byte) (layers : List (List Byte × Nat × Nat)) : List Byte :=
  Config.message (0x110 + n)
    (pub.map BitVec.toNat ++ layers.flatMap fun (l : List Byte × Nat × Nat) => l.1.map BitVec.toNat ++ [l.2.1, l.2.2])

def signedBy (k : KeyPair) (body : List Byte) : List Byte := body ++ k.sign body

/-- The alias certificate, signed by the DeviceID key, and the attestation certificate, signed by the alias key, as each boot issues them. -/
def Sec.aliasCert (x : Sec) : List Byte := signedBy devidKey (certBody 0 x.aliasKey.pub [x.layer 4])
def Sec.attestCert (x : Sec) : List Byte := signedBy x.aliasKey (certBody 1 x.attestKey.pub [x.layer 3, x.layer 2, x.layer 5])

/-! ### Link keys (R455) -/

/-- This side is the initiator of key set-up `n` of a physical port: its alias public key hash is the lower. -/
def Sec.initiates (x : Sec) (port n : Nat) : Bool := numOf (sha3 x.aliasKey.pub) < numOf (Config.peerAlias port n)

/-- Base of a link's keys: from the shared secret and the transcript hash of its key set-up. -/
def linkBase (port n : Nat) : List Byte := kdf (Config.linkSecret port n) (ascii "FJ2 HX")

/-- The direction that this side sends in. -/
def Sec.sendDir (x : Sec) (port n : Nat) : Byte := if x.initiates port n then 0 else 1

/-- Key and salt of what this side sends. -/
def Sec.linkKey (x : Sec) (port n : Nat) : Nat := numOf (kdf (linkBase port n) (ascii "K" ++ [x.sendDir port n]))
def Sec.linkSalt (x : Sec) (port n : Nat) : List Byte := (kdf (linkBase port n) (ascii "S" ++ [x.sendDir port n])).take 4

end Sys2Proof.Machine
end

