-- ==== Sys2Proof/Machine/Link.lean ====
section
/-! DEFINITION. Hextis ports: registers, routing, sending packets under credits and the replay buffer, training and lane loss (R319 to R341). -/

namespace Sys2Proof.Machine

/-! ### Registers of the group and of a port -/

/-- HX_GROUP. -/
def State.hxGroup (s : State) : Nat := (aget 0x0010FFFF s.regs 0x300010).toNat
/-- ANCHOR; a device alone acts as its own anchor (R245). -/
def State.anchor (s : State) : Nat := bitsOf s.hxGroup 8 8
def State.topo (s : State) : Nat := bitsOf s.hxGroup 16 3
def State.maxHop (s : State) : Nat := bitsOf s.hxGroup 19 4

/-- The roster mask (R343). -/
def State.rosterMask (s : State) : Nat := (aget 0 s.regs 0x300018).toNat + (aget 0 s.regs 0x30001C).toNat * 2 ^ 32
/-- Members of the roster, ascending; this device alone where there is none. -/
def State.roster (s : State) : List Nat := let l := maskList 64 s.rosterMask; if l.isEmpty then [s.devId] else l
def State.inRoster (s : State) (d : Nat) : Bool := d < 64 && bitAt s.rosterMask d
/-- This device is the anchor of its round. -/
def State.isAnchor (s : State) : Bool := s.anchor = s.devId || s.anchor = 0xFF || s.rosterMask = 0
/-- HX_GFEAT; a device in no group has its own features (R333). -/
def State.gfeat (s : State) : W32 := if s.rosterMask = 0 then 0x7F else aget 0 s.regs 0x300024

def State.port (s : State) (p : Nat) : Port := aget {} s.ports p
def State.setPort (s : State) (p : Nat) (x : Port) : State := { s with ports := aset s.ports p x }
def State.modPort (s : State) (p : Nat) (f : Port → Port) : State := s.setPort p (f (s.port p))

/-- BAR0 offset of a port's block. -/
def portBase (p : Nat) : Nat := 0x310000 + 0x1000 * p
/-- PORT_CTRL and its fields. -/
def State.portCtrl (s : State) (p : Nat) : Nat := (aget 0x10002061 s.regs (portBase p + 0x10)).toNat
def State.portEn (s : State) (p : Nat) : Bool := bitAt (s.portCtrl p) 0
/-- Lanes that LANEMAX allows. -/
def State.laneMax (s : State) (p : Nat) : Nat := match bitsOf (s.portCtrl p) 2 2 with
  | 0 => 4
  | 1 => 2
  | _ => 1
def State.dateline (s : State) (p : Nat) : Bool := bitAt (s.portCtrl p) 4
def State.laneLim (s : State) (p : Nat) : Nat := bitsOf (s.portCtrl p) 17 15

/-- Counters of a port (R351). -/
def State.portCount (s : State) (p off n : Nat) : State := s.bump (portBase p + off) n

/-- Set a bit of a port's ERR_STAT and drive source 640 + physical port. -/
def State.portErr (s : State) (p bit : Nat) : State :=
  s.raise (portBase p + 0x1C) (portBase p + 0x20) (640 + (afind s.lport p).elim p MapEnt.phys) 0x1F (1 <<< bit)

/-- The port carries packets. -/
def Port.isUp (x : Port) : Bool := x.state = .up || x.state = .upR1

/-! ### Packets (R323, R325, R326) -/

/-- VC of a packet type; none for a reserved type. -/
def vcOfType (t : Nat) : Option Nat :=
  match t with
  | 0 => some 0 | 1 => some 1 | 2 | 3 | 4 | 5 | 6 => some 3 | 7 => some 2 | _ => none

/-- Credit pool of a packet type: CTL, VOILE, COLL, BREQ, BRSP (R323). -/
def poolOfType (t : Nat) : Nat :=
  match t with
  | 0 => 0 | 1 => 1 | 7 => 2 | 5 | 6 => 4 | _ => 3

/-- Flits of a packet. -/
def hdrFlits (h : PktHdr) : Nat := 1 + h.plen
/-- Pool and class of a packet. -/
def hdrPool (h : PktHdr) : Nat := poolOfType h.typ + 5 * h.cls

/-- The pool sizes of a port, class 0 then class 1 (R323). -/
def State.pools (s : State) (p : Nat) : List Nat :=
  let all := [32, 64, 512, 512, 256]
  if s.dateline p || (2 ≤ s.topo && s.topo ≤ 4) then let h := all.map (· / 2); h ++ h else all ++ [0, 0, 0, 0, 0]

/-- The header of a packet of this device with n bytes of payload. -/
def State.hdr (s : State) (typ dstDev srcCore dstCore n : Nat) : PktHdr where
  typ := typ
  vc := (vcOfType typ).getD 0
  cls := 0
  mc := false
  hops := s.maxHop
  cepoch := s.epoch % 16
  repoch := s.repoch % 256
  srcDev := s.devId
  dstDev := dstDev
  plen := (n + 63) / 64
  lastB := if n = 0 then 0 else (n - 1) % 64
  srcCore := srcCore
  dstCore := dstCore
  addr := 0
  obj := 0xFFFF
  dbar := 0
  dbarEn := false
  ret := false
  rhq := 0
  hepoch := 0
  mseq := 0
  mgrp := 0
  route := 0x3FF
  rsvZero := true

/-! ### Encryption (R327) -/

/-- Bytes 0 to 47 of a header flit (R325). -/
def hdrBytes (h : PktHdr) : List Byte :=
  bytesOf 1 (h.typ + 16 * h.vc + 64 * h.cls + 128 * b2n h.mc) ++ bytesOf 1 (h.hops + 16 * h.cepoch) ++ bytesOf 1 h.repoch ++ bytesOf 1 h.srcDev
    ++ bytesOf 1 h.dstDev ++ bytesOf 1 h.plen ++ bytesOf 2 h.lastB ++ bytesOf 2 h.srcCore ++ bytesOf 2 h.dstCore ++ bytesOf 8 h.pctr
    ++ bytesOf 7 h.addr ++ bytesOf 2 h.obj ++ bytesOf 1 (h.dbar + 32 * b2n h.dbarEn + 64 * b2n h.ret) ++ bytesOf 1 h.rhq ++ bytesOf 1 h.hepoch
    ++ bytesOf 2 h.mseq ++ bytesOf 1 h.mgrp ++ bytesOf 2 h.route ++ List.replicate 11 0

/-- The collective header and the blocks or units of a COLL packet (R365). -/
def collBytes (c : CollHdr) (blks : List CollBlk) (bytes : List Byte) : List Byte :=
  let head := bytesOf 1 c.cdesc ++ bytesOf 1 c.inst ++ bytesOf 1 c.attempt ++ bytesOf 1 c.step ++ bytesOf 1 (c.phase + 4 * c.w + 8 * c.instHi)
    ++ bytesOf 1 c.nb ++ bytesOf 2 c.digest ++ bytesOf 4 c.first
    ++ (blks.flatMap fun b => bytesOf 2 b.ecount ++ bytesOf 1 b.mcnt ++ bytesOf 1 b.maxc)
  head ++ List.replicate (128 - head.length) 0 ++ (blks.flatMap fun b => feltBytes (c.w = 1) b.blk) ++ bytes

/-- The payload of a packet; the spec gives no format for control and step-monitor messages (log 11). -/
def PktBody.bytes (n : Nat) : PktBody → List Byte
  | .data d => d
  | .mail _ d => d
  | .coll c blks d => collBytes c blks d
  | .ctl _ => Config.message 0x100 [n]
  | .totals _ => Config.message 0x101 [n]
  | .verdict _ => Config.message 0x102 [n]

/-- A packet as a port sends it: PCTR, the payload encrypted, and its tag (R327). A revision-1 link has no keys (log 51). -/
def State.seal (s : State) (p : Nat) (k : Pkt) : Pkt :=
  let x := s.port p
  let h := { k.h with pctr := x.pctr }
  let d := k.b.bytes s.fresh
  if x.state = .upR1 then { k with h := h, cipher := d }
  else
    let ph := (afind s.lport p).elim p MapEnt.phys
    let key := s.sec.linkKey ph x.key
    let iv := bytesOf 8 x.pctr ++ s.sec.linkSalt ph x.key
    let c := gcmXor key iv d
    { k with h := { h with tag := numOf (Config.gcmTag key iv (hdrBytes h) c) }, cipher := c }

/-! ### Sending (R321 to R324, R328) -/

/-- The groups of a packet, which starts a group of its own (log 45). -/
def groupsOf (k : Pkt) (seq : Nat) : List TxGroup :=
  let n := (hdrFlits k.h + 14) / 15
  (List.range n).map fun i =>
    { gseq := (seq + i) % 4096, sends := 1, flits := min 15 (hdrFlits k.h - 15 * i), pkt := if i + 1 = n then some k else none }

/-- The link-control flits of groups leave, and carry what is owed, of each class at most the 255 that a byte of CRET holds (R321). -/
def State.emitGroups (s : State) (p : Nat) (l : List TxGroup) : State :=
  l.foldl (fun s g =>
    let x := s.port p
    let s := (s.setPort p { x with owe := x.owe.map (· - 255) }).emit (.linkCtl p g.gseq x.rxSeq (x.rxAny || x.nakked) x.nakked (x.owe.map (min 255)))
    match g.pkt with
    | some k => s.emit (.packet p k)
    | none => s) s

/-- A retrain begins (R322, R327, R334): held packets and the replay buffer are kept. -/
def State.portRetrain (s : State) (p : Nat) : State :=
  (s.modPort p fun x => { x with state := .training, lanes := 0, hello := false, keyMsg := 0 }).portCount p 0x74 1

/-- The flits of a packet that leaves, noted for the arbiter (R328); `both`: collective and bulk packets were ready. -/
def Port.arbitrated (x : Port) (wcoll : Nat) (both : Bool) (h : PktHdr) : Port :=
  let n := hdrFlits h
  let hist := x.hist ++ List.replicate n h.vc
  { x with hist := hist.drop (hist.length - 64)
           wrr := if !both then x.wrr else if h.vc = 2 then x.wrr + n else if h.vc = 3 then x.wrr - (wcoll * n : Nat) else x.wrr }

/-- A packet leaves: encrypted, in its groups, with its credits and counters. -/
def State.portPut (s : State) (p : Nat) (k : Pkt) : State :=
  let x := s.port p
  let k := s.seal p k
  let s := { s with fresh := s.fresh + 1 }
  let gs := groupsOf k x.txSeq
  let x := { x with txSeq := (x.txSeq + gs.length) % 4096, replay := x.replay ++ gs, pctr := x.pctr + 1
                    cred := x.cred.set (hdrPool k.h) (x.cred.getD (hdrPool k.h) 0 - hdrFlits k.h) }
  let s := ((s.setPort p x).portCount p 0x40 (hdrFlits k.h)).emitGroups p gs
  let s := if k.h.typ = 7 then s.bump 0x340228 k.h.plen else s
  if 2 ^ 40 ≤ x.pctr + 1 then s.portRetrain p else s

/-- PORT_CTRL.WCOLL; 0 acts as 1. -/
def State.wcoll (s : State) (p : Nat) : Nat := max 1 (bitsOf (s.portCtrl p) 5 4)

/-- The packets that may leave: none of its pool stands before it, and it has its credits (R323, R329). `lost`: this device is lost, and only
control packets leave (R27). -/
def Port.fits (x : Port) (lost : Bool) : List (Pkt × Nat) :=
  let l := x.txq.zipIdx.filter fun y => !lost || y.1.h.vc = 0
  let first := l.filter fun y => !((x.txq.take y.2).any fun z => hdrPool z.h = hdrPool y.1.h)
  first.filter fun y => hdrFlits y.1.h ≤ x.cred.getD (hdrPool y.1.h) 0

/-- Control and Voile go first, each with at most 8 of 64 consecutive flits while another VC waits (R328). -/
def Port.prior (x : Port) (l : List (Pkt × Nat)) (vc : Nat) : Option (Pkt × Nat) :=
  (l.find? fun y => y.1.h.vc = vc).filter fun y =>
    let n := hdrFlits y.1.h
    decide (((x.hist.drop (x.hist.length + n - 64)).filter (· = vc)).length + n ≤ 8) || l.all fun z => z.1.h.vc = vc

/-- The packet that leaves next, and whether collective and bulk were both ready: they share by weight (R328; log 160). -/
def Port.ready (x : Port) (lost : Bool) : Option (Nat × Bool) :=
  let l := x.fits lost
  let coll := l.find? fun y => y.1.h.vc = 2
  let bulk := l.find? fun y => y.1.h.vc = 3
  let both := coll.isSome && bulk.isSome
  match (x.prior l 0).or (x.prior l 1) with
  | some y => some (y.2, false)
  | none =>
    let y := if both then (if x.wrr ≤ 0 then coll else bulk) else (coll.or bulk).or l.head?
    y.map fun y => (y.2, both)

/-- Send what credits and the replay buffer of 256 groups allow; `fuel`: packets that wait. -/
def State.portPump (s : State) (p : Nat) : Nat → State
  | 0 => s
  | fuel + 1 =>
    let x := s.port p
    if !x.isUp || x.txq.isEmpty then s
    else
      match x.ready s.lost with
      | none => if s.lost then s else s.portCount p 0x5C 1
      | some (i, both) =>
        match x.txq[i]? with
        | none => s
        | some k =>
          if 256 < x.replay.length + (hdrFlits k.h + 14) / 15 then s
          else ((s.setPort p ({ x with txq := x.txq.eraseIdx i }.arbitrated (s.wcoll p) both k.h)).portPut p k).portPump p fuel

/-- Give a packet to a port. -/
def State.portSend (s : State) (p : Nat) (k : Pkt) : State :=
  let s := s.modPort p fun x => { x with txq := x.txq ++ [k] }
  s.portPump p (s.port p).txq.length

/-! ### Routing (R338, R339) -/

/-- HX_RT of a device ID. -/
def State.hxRt (s : State) (d : Nat) : Nat := (aget 0 s.regs (0x300100 + 4 * d)).toNat

/-- Ports that a routing entry names for a device: every one counts for the choice (R338). -/
def State.portsTo (s : State) (d : Nat) : List Nat :=
  let e := s.hxRt d
  if bitsOf e 24 2 < 2 then [] else maskList 24 e

/-- A port carries nothing on: it has failed, was refused, or is down. One that failed still takes the packets that follow those it has to have
rescued, so that none goes before them (R335). -/
def State.portGone (s : State) (p : Nat) : Bool :=
  let x := s.port p
  x.state = .refused || x.state = .down || (x.state = .failed && x.replay.isEmpty && x.txq.isEmpty)

/-- A packet may take a port: with TOPO 0 ports carry directed and revision-1 traffic only (R336), and a revision-1 link carries no other types
(R332). -/
def State.carries (s : State) (p : Nat) (h : PktHdr) : Bool :=
  if (s.port p).state = .upR1 then h.typ = 2 || (4 ≤ h.typ && h.typ ≤ 6) else s.topo ≠ 0 || h.dstDev = 0xFF

/-- The port a packet takes: number (SRCCORE + 7 × DSTCORE) mod m of the entry's m ports, and the first for Control and Voile (R338); where that
port is gone, the next of the entry that is not (R335; log 161). -/
def State.routePort (s : State) (h : PktHdr) : Option Nat :=
  let l := s.portsTo h.dstDev
  let x := if h.vc ≤ 1 then 0 else (h.srcCore + 7 * h.dstCore) % l.length
  (l.drop x ++ l.take x).find? fun p => !s.portGone p && s.carries p h

/-- COL_GEOM. -/
def State.geom (s : State) : Nat × Nat × Nat :=
  let g := (aget 0 s.regs 0x340014).toNat
  (max 1 (bitsOf g 0 7), max 1 (bitsOf g 7 7), max 1 (bitsOf g 14 7))

/-- The dimension in which a port leads: the first coordinate in which the peer differs from this device. -/
def State.dimOf (s : State) (p : Nat) : Nat :=
  let g := s.geom
  let a := s.devId
  let b := (s.port p).peerDev
  if a % g.1 ≠ b % g.1 then 0 else if a / g.1 % g.2.1 ≠ b / g.1 % g.2.1 then 1 else 2

/-- The class a packet carries out of a port (R339); `inp`: the port it came by. -/
def State.classOut (s : State) (h : PktHdr) (inp : Option Nat) (out : Nat) : Nat :=
  if s.dateline out then 1
  else match inp with
    | none => 0
    | some i => if s.dimOf i = s.dimOf out then h.cls else 0

/-- A packet has no way on: it is dropped and counted at the port it came by, or at port 0 for one of this device (log 46). -/
def State.noRoute (s : State) (inp : Option Nat) (off : Nat) : State := (s.portCount (inp.getD 0) off 1).portErr (inp.getD 0) 4

/-- Send a packet toward its destination. -/
def State.hxRoute (s : State) (k : Pkt) (inp : Option Nat) : State :=
  match s.routePort k.h with
  | none => s.noRoute inp 0x60
  | some p => s.portSend p { k with h := { k.h with cls := s.classOut k.h inp p } }

/-- Send a packet of this device. -/
def State.hxSend (s : State) (h : PktHdr) (b : PktBody) : State := s.hxRoute { h := h, b := b } none

/-- Send a control message to a device. -/
def State.sendCtl (s : State) (d : Nat) (m : CtlMsg) : State := s.hxSend (s.hdr 0 d 0 0 64) (.ctl m)

/-- Members of a group other than this device. -/
def State.peers (s : State) : List Nat := (maskList 64 s.rosterMask).filter fun d => d ≠ s.devId

/-! ### Acknowledgement and replay (R322) -/

/-- Groups up to ACKSEQ leave the replay buffer. -/
def Port.acked (x : Port) (ack : Nat) : Port :=
  { x with replay := x.replay.filter fun g => 2048 ≤ (ack + 4096 - g.gseq) % 4096 }

/-- A group as it is sent again: that of a lost device carries control packets only (R27). -/
def TxGroup.again (g : TxGroup) (lost : Bool) (sends : Nat) : TxGroup :=
  if lost && g.pkt.any (fun k => k.h.vc ≠ 0) then { g with sends := sends, flits := 0, pkt := none } else { g with sends := sends }

/-- Resend every group not acknowledged, in order; one that has been sent 8 times makes the port retrain. -/
def State.portReplay (s : State) (p : Nat) : State :=
  let x := s.port p
  if x.replay.any fun g => 8 ≤ g.sends then s.portRetrain p
  else
    let l := x.replay.map fun g => g.again s.lost (g.sends + 1)
    ((s.setPort p { x with replay := l }).portCount p 0x48 l.length).emitGroups p l

/-- NAK_RECEIVE (R322). -/
def execNakReceive (p ack : Nat) (s : State) : Out :=
  .next <| if !(s.port p).isUp then s else
    let s := (s.modPort p fun x => x.acked ack).portReplay p
    s.portPump p (s.port p).txq.length

/-- REPLAY_TIMEOUT (R322). -/
def execReplayTimeout (p : Nat) (s : State) : Out :=
  .next <| if !(s.port p).isUp || (s.port p).replay.isEmpty then s else s.portReplay p

/-- An idle group carries an acknowledgement and credit returns (R321; log 45). -/
def State.portIdle (s : State) (p : Nat) : State :=
  let x := s.port p
  if 256 ≤ x.replay.length then s
  else
    let g : TxGroup := { gseq := x.txSeq, sends := 1, flits := 0, pkt := none }
    (s.setPort p { x with txSeq := (x.txSeq + 1) % 4096, replay := x.replay ++ [g] }).emitGroups p [g]

/-- FLIT_GROUP_RECEIVE (R321, R322, R324). -/
def execFlitGroupReceive (p gseq : Nat) (crcOk ackValid : Bool) (ack : Nat) (nak : Bool) (cret : List Nat) (flits : Nat) (s : State) : Out :=
  .next <|
    let x := s.port p
    if !x.isUp then s
    else if !crcOk || gseq ≠ (x.rxSeq + 1) % 4096 then
      let s := if crcOk then s else s.portCount p 0x54 1
      if x.nakked then s else (s.setPort p { x with nakked := true }).portIdle p
    else
      let x := { x with rxSeq := gseq, rxAny := true, nakked := false }
      let x := if ackValid then x.acked ack else x
      let top := s.pools p
      let x := { x with cred := x.cred.zipIdx.map fun y => min (top.getD y.2 0) (y.1 + cret.getD y.2 0) }
      let s := (s.setPort p x).portCount p 0x44 flits
      let s := if nak then s.portReplay p else s
      let s := s.portPump p (s.port p).txq.length
      if flits = 0 && ((s.port p).owe.all fun n => n = 0) then s else s.portIdle p

/-! ### Training (R331, R332, R334, R335) -/

/-- Lanes that can work together with these removed (R334): 4, a pair, or one. -/
def widthOf (bad : List Nat) : Nat :=
  if bad.isEmpty then 4
  else if !bad.contains 0 && !bad.contains 1 || !bad.contains 2 && !bad.contains 3 then 2
  else if bad.length < 4 then 1 else 0

/-- A port begins to train when it is enabled; in the recovery state every port stays down (R445). -/
def State.portStart (s : State) (p : Nat) : State :=
  if s.portEn p && (afind s.lport p).isSome && !s.sec.recovery then s.modPort p fun x => { x with state := .training, lanes := 0, hello := false, keyMsg := 0 } else s

/-- CHIP stepping: CHIP_ID [7:0]'s reset value is 0 (log 2). -/
def stepping : Nat := 0

/-- Another route to a device than by port p: the first port of its entry that has not failed. -/
def State.routeBut (s : State) (p d : Nat) : Option Nat :=
  if 64 ≤ d then none
  else (s.portsTo d).find? fun q => q ≠ p && (s.port q).state ≠ .failed && !s.portGone q && s.carries q (s.hdr 0 d 0 0 64)

/-- Send a control message to a device by another route than port p. -/
def State.sendCtlBut (s : State) (p d : Nat) (m : CtlMsg) : State :=
  match s.routeBut p d with
  | none => s
  | some q => let h := s.hdr 0 d 0 0 64; s.portSend q { h := { h with cls := s.classOut h none q }, b := .ctl m }

/-- The port fails; the peer is asked, by another route, for the last group that it accepted on the link (R335). -/
def State.portDead (s : State) (p : Nat) : State :=
  let x := s.port p
  let s := (s.modPort p fun x => { x with state := .failed, lanes := 0 }).portErr p 1
  s.sendCtlBut p x.peerDev (.askGseq x.peerPort)

/-- The lanes that training tries: those in working order that make the largest width LANEMAX allows (R334). -/
def lanesTried (max_ : Nat) (bad : List Nat) : List Nat :=
  match min max_ (widthOf bad) with
  | 4 => [0, 1, 2, 3]
  | 2 => if bad.contains 0 || bad.contains 1 then [2, 3] else [0, 1]
  | 1 => ((List.range 4).filter fun l => !bad.contains l).take 1
  | _ => []

/-- PORT_TRAINING (R331, R334, R335): PHY training ends. The lanes of the mask `fail` that it tried are removed, and it goes on at the width that
the others allow, where there is one; HELLO goes out. -/
def execPortTraining (p fail : Nat) (s : State) : Out :=
  .next <|
    let s := if (s.port p).state = .down then s.portStart p else s
    let x := s.port p
    if x.state ≠ .training || x.lanes ≠ 0 then s
    else
      let gone := (lanesTried (s.laneMax p) x.bad).filter (bitAt fail)
      let bad := gone.foldl sins x.bad
      let n := min (s.laneMax p) (widthOf bad)
      let s := s.setPort p { x with bad := bad, lanes := n }
      let s := if gone.isEmpty then s else s.portErr p 0
      if n = 0 then s.portDead p
      else s.emit (.hello p { rev := 2, feat := 0x7F, dev := s.devId, port := p, gid := aget 0 s.regs 0x300014, stepping := stepping })

/-- The link is up: full credits at both ends, what is in the replay buffer goes again, what waits is sent (R324, R331). -/
def State.portUp (s : State) (p : Nat) (st : PortState) : State :=
  let x := s.port p
  let s := s.setPort p { x with state := st, cred := s.pools p, owe := [0, 0, 0, 0, 0, 0, 0, 0, 0, 0], key := s.fresh, pctr := 0, nakked := false
                                replay := x.replay.map fun g => g.again s.lost 1 }
  let s := State.emitGroups { s with fresh := s.fresh + 1 } p (s.port p).replay
  s.portPump p (s.port p).txq.length

/-- HELLO (R331, R332). -/
def execHello (p : Nat) (m : Hello) (s : State) : Out :=
  .next <|
    let x := s.port p
    if x.state ≠ .training || x.lanes = 0 || x.hello then s
    else
      let rev := min 2 m.rev
      let x := { x with hello := true, rev := rev, feat := m.feat &&& 0x7F, peerDev := m.dev, peerPort := m.port }
      if 2 ≤ rev then s.setPort p x
      else if s.sealed_ then s.setPort p { x with state := .refused }
      else (s.setPort p x).portUp p .upR1

/-- KEY_EXCHANGE_MESSAGE (R331, R455). -/
def execKeyExchangeMessage (p n : Nat) (authOk sealedOk : Bool) (s : State) : Out :=
  .next <|
    let x := s.port p
    if x.state ≠ .training || !x.hello || n ≠ x.keyMsg + 1 then s
    else
      let bad := !authOk || (2 ≤ n && !sealedOk)
      if bad && s.sealed_ then s.setPort p { x with state := .refused, keyMsg := 0 }
      else
        let s := if authOk then s else s.bump 0x600090 1
        if n = 3 then (s.setPort p { x with keyMsg := 3 }).portUp p .up else s.setPort p { x with keyMsg := n }

/-- RETRAIN (PORT_CTRL.RETRAIN): at LANEMAX, with every lane, and the frozen streams released (R330, R334). -/
def execRetrain (p : Nat) (s : State) : Out :=
  .next <| if !s.portEn p || (afind s.lport p).isNone || s.sec.recovery || !s.powered then s
    else (s.modPort p fun x => { x with bad := [], frozen := [], frz := none }).portRetrain p

/-- LANE_ERROR_WINDOW (R334). -/
def execLaneErrorWindow (p lane errs : Nat) (s : State) : Out :=
  .next <|
    let x := s.port p
    let s := s.portCount p 0x4C errs
    if !x.isUp || 4 ≤ lane || x.bad.contains lane || errs ≤ s.laneLim p then s
    else
      let bad := sins x.bad lane
      let s := (s.setPort p { x with bad := bad }).portErr p 0
      if widthOf bad = 0 then s.portDead p else s.portRetrain p

/-- Every link to a device has failed. -/
def State.cutOff (s : State) (d : Nat) : Bool := !(s.ports.any fun x => x.2.peerDev = d && x.2.state ≠ .failed)

/-- A device is lost (R27, R345): HX_LOST at the anchor, and source 2. -/
def State.markLost (s : State) (d : Nat) : State :=
  if 64 ≤ d then s
  else
    let off := if d < 32 then 0x300028 else 0x30002C
    ({ s with regs := aset s.regs off (aget 0 s.regs off ||| (1 <<< (d % 32))) }).level 2 true

/-- The anchor learns that member m has no link to device d left: d is lost once every member whose table reaches d by a link, as its vote told,
has none (R345; log 116). -/
def State.noteCut (s : State) (m d : Nat) : State :=
  let s := { s with hxCut := sins s.hxCut (64 * m + d) }
  let own := !(s.ports.any fun x => x.2.peerDev = d) || s.cutOff d
  if own && s.hxLinks.all (fun y => y.1 = d || y.1 = s.devId || !y.2.contains d || s.hxCut.contains (64 * y.1 + d)) then s.markLost d else s

/-- PORT_FAILED (R335, R345): the port fails. Where the peer has told the last group that it accepted, or no route to it remains, the packets
that are left go by another port, or are dropped; otherwise they wait for its answer. -/
def execPortFailed (p : Nat) (last : Option Nat) (s : State) : Out :=
  .next <|
    let x := s.port p
    if x.state = .failed && x.replay.isEmpty && x.txq.isEmpty then s
    else
      let s := if x.state = .failed then s else s.portDead p
      let s := if last.isNone && (s.routeBut p x.peerDev).isSome then s
        else
          let left := (last.elim x x.acked).replay.filterMap TxGroup.pkt ++ x.txq
          let s := s.modPort p fun x => { x with replay := [], txq := [] }
          left.foldl (fun s k => if last.isNone then s.noRoute (some p) 0x60 else s.hxRoute k (some p)) s
      if s.cutOff x.peerDev && x.peerDev < 64 then
        if s.isAnchor then s.noteCut s.devId x.peerDev else s.sendCtl s.anchor (.linksFailed x.peerDev)
      else s

/-- REFCLK_SER_LOSS (R486): every port of a quadrant, six physical ports, fails (R335). -/
def execRefclkSerLoss (quad : Nat) (s : State) : Out :=
  .next <| (s.lport.filter fun x => x.2.phys / 6 = quad).foldl (fun s x => if (s.port x.1).state = .failed then s else s.portDead x.1) s

end Sys2Proof.Machine
end

