-- ==== Sys2Proof/Machine/Vector.lean ====
section
/-! DEFINITION. The vector unit (R190, R195, R196, R203, R250, R496). -/

namespace Sys2Proof.Machine

/-! ### Groups -/

def vFn (w : CWord) : Nat := wbits w 64 8
def vFmtI (w : CWord) : Nat := wbits w 60 4
def vFmtO (w : CWord) : Nat := wbits w 56 4
def vInc (w : CWord) : Nat := wbits w 52 4
def vIncEn (w : CWord) : Bool := wbit w 51
def vRnd (w : CWord) : Bool := wbit w 50
def vSat (w : CWord) : Bool := wbit w 49
def vAg (w : CWord) : Nat := wbits w 46 3
def vK (w : CWord) : Nat := wbits w 40 6 + 1
def vImm (w : CWord) : W32 := BitVec.ofNat 32 (wbits w 0 32)

/-- Entries of a group in a format. -/
def groupEnts (f : Nat) : Nat := if fmtWidth f = 32 then 2 else 1

/-- Pop counts of entries from queues, one after another: the core after, and what was popped. -/
def Core.popAll (c : Core) : List (Nat × Nat) → Option (Core × List (List DqEnt))
  | [] => some (c, [])
  | (q, n) :: t =>
    match c.headDq q n with
    | none => none
    | some l => match (c.dropDq q n).popAll t with
      | none => none
      | some r => some (r.1, l :: r.2)

/-- The queues of a list that hold too few entries, or too little room, count a wait (R143). -/
def Core.vecWaits (c : Core) (ins outs : List (Nat × Nat)) : Core :=
  let c := (ins.filter fun x => (c.headDq x.1 x.2).isNone).foldl (fun c x => c.waitEmpty x.1) c
  (outs.filter fun x => !c.dqRoom x.1 x.2).foldl (fun c x => c.waitFull x.1) c

/-- A vector word waits for entries or for room (R143). -/
def State.vecWait (s : State) (p : Nat) (ins outs : List (Nat × Nat)) : State := s.modCore p fun c => c.vecWaits ins outs

/-- Room for pushes to queues. -/
def Core.roomAll (c : Core) (outs : List (Nat × Nat)) : Bool := outs.all fun x => c.dqRoom x.1 x.2

/-- Pop groups for a vector word; it waits for entries and for room, and a poisoned entry halts the core (R26, R143, R146). -/
def State.vecPop (s : State) (p : Nat) (e : Cqe) (ins outs : List (Nat × Nat)) (f : Core → List (List DqEnt) → State) : State :=
  if !(s.core p).roomAll outs then s.vecWait p ins outs
  else
    match (s.core p).popAll ins with
    | none => s.vecWait p ins outs
    | some r =>
      match (ins.zip r.2).find? fun x => x.2.any DqEnt.poison with
      | some x => s.haltWord p 6 e 0x0C (x.1.1 * 16)
      | none => f r.1 r.2

/-- The random value of element j of the n-th group since VEC.SRCTX (R61, R125, R195; log 40). -/
def Core.vecRand (c : Core) (j : Nat) : Nat :=
  let x := c.vec.ctx
  srBits c.seq.seed c.seq.step x.obj (x.base + x.n * x.tstep + j)

/-- Push one group of results to a queue in FMT_O (R58, R63, R195); its non-finite elements count as drain NF (R251, as R128 counts them: log 166). -/
def Core.vecPush (c : Core) (q : Nat) (e : Cqe) (v : List W32) : Core :=
  let w := e.word
  let o := drainOutput (vFmtO w) (vSat w) (if vRnd w then some c.vecRand else none) 1 v
  let c := c.pushDq q (o.1.map fun x => ({ data := x, side := o.2.1, tok := e.seqno } : DqEnt))
  { c with vec := { c.vec with ctx := { c.vec.ctx with n := c.vec.ctx.n + 1 }, nf := c.vec.nf + o.2.2.1 } }

/-- Push raw FP32 or 32-bit codes. -/
def Core.pushCodes (c : Core) (q f tok : Nat) (l : List Nat) : Core :=
  let ents := if fmtWidth f = 32 then [l.take 32, l.drop 32] else [l]
  c.pushDq q (ents.map fun x => ({ data := BitVec.ofNat 1024 (packBits (fmtWidth f) x), tok := tok } : DqEnt))

/-- What one group takes at OUT. -/
def vecOut (w : CWord) : List (Nat × Nat) := [(wOut w, groupEnts (vFmtO w))]

/-! ### Starting a vector word -/

/-- Data queues that a vector word pops and pushes. -/
def vecPopQs (w : CWord) : List Nat :=
  (if popsA w then [wIna w] else []) ++ (if popsB w then [wInb w] else []) ++ (if vIncEn w && wOp w ≤ 0x40 && wOp w ≠ 0xD && wOp w ≠ 0xE then [vInc w] else [])
def vecPushQs (w : CWord) : List Nat :=
  (if vecPushes (wOp w) then [wOut w] else []) ++ (if wOp w = 8 || wOp w = 0x40 then [wOut w + 1] else [])

/-- The start of a vector word (R141, R145): the preceding word has ended and the first operands are there. -/
def State.startVec (s : State) (p : Nat) (e : Cqe) : Start :=
  let c := s.core p
  let w := e.word
  if !c.laneFree 6 then .wait s
  else
    match c.roles 6 (vecPopQs w) (vecPushQs w) [] [] with
    | some info => .stop (s.haltWord p 6 e 0x05 info)
    | none => if (vecPopQs w).any fun q => (c.dataQ q).ents.isEmpty then .wait (s.vecWait p ((vecPopQs w).map fun q => (q, 1)) []) else .go s e

/-! ### Element-wise operations and reductions -/

/-- VEC.EW (R196). -/
def ewOp (fn : Nat) (imm a b c : W32) : W32 :=
  match fn with
  | 0x00 => f32canon a
  | 0x01 => f32add a b
  | 0x02 => f32sub a b
  | 0x03 => f32mul a b
  | 0x04 => f32fma a b c
  | 0x05 => f32max a b
  | 0x06 => f32min a b
  | 0x07 => f32add a imm
  | 0x08 => f32mul a imm
  | 0x09 => f32abs a
  | 0x0A => f32neg a
  | 0x0B => f32exp a
  | 0x0C => f32log a
  | 0x0D => f32recip a
  | 0x0E => f32rsqrt a
  | 0x0F => f32sqrt a
  | 0x10 => f32tanh a
  | 0x11 => f32sigm a
  | _ => f32canon (if f32eq c 0 then b else a)

/-- VEC.EW: one group. DESIGN CHOICE (log 167): fma and select with INC_EN = 0 take +0 as their third operand c, for which R196 names no other source. -/
def execVecEw (c : Nat) (s : State) : Out :=
  .next <| s.onCur c 6 1 fun s p _ i e =>
    let w := e.word
    let n := groupEnts (vFmtI w)
    let fn := vFn w
    let ins := [(wIna w, n)] ++ (if ewUsesB fn then [(wInb w, n)] else []) ++ (if vIncEn w then [(vInc w, n)] else [])
    s.vecPop p e ins (vecOut w) fun k g =>
      let row (j : Nat) : List W32 := preRow (vFmtI w) (g.getD j [])
      let a := row 0
      let b := if ewUsesB fn then row 1 else []
      let x := if vIncEn w then row (if ewUsesB fn then 2 else 1) else []
      let v := (List.range 64).map fun j => ewOp fn (vImm w) (a.getD j 0) (b.getD j 0) (x.getD j 0)
      (s.setCore p (k.vecPush (wOut w) e v)).tick p 6 i e (wRep w + 1)

/-- The combining operation of VEC.RED. -/
def redOp (fn : Nat) (a b : W32) : W32 := if fn = 1 then f32max a b else if fn = 2 then f32min a b else f32add a b

/-- Start value of a sequential reduction (R196). -/
def redInit (fn : Nat) : W32 := if fn = 1 then 0xFF800000 else if fn = 2 then 0x7F800000 else 0

/-- One level of a pairwise reduction. -/
def pairLevel (fn : Nat) : List W32 → List W32
  | a :: b :: t => redOp fn a b :: pairLevel fn t
  | l => l

/-- A pairwise reduction of 64 lanes over six levels. -/
def pairRed (fn : Nat) (l : List W32) : W32 :=
  let f := pairLevel fn
  (f (f (f (f (f (f l)))))).headD 0

/-- The reduction after one more group: `acc` none before the first (log 41). -/
def redGroup (fn : Nat) (pair : Bool) (acc : Option W32) (v : List W32) : W32 :=
  let v := if fn = 3 then v.map fun x => f32mul x x else v
  if pair then
    let g := pairRed fn v
    match acc with
    | none => g
    | some a => redOp fn a g
  else v.foldl (redOp fn) (acc.getD (redInit fn))

/-- VEC.RED (R196): one group; the last pushes the result. `vals`: the result so far. -/
def execVecRed (c : Nat) (s : State) : Out :=
  .next <| s.onCur c 6 2 fun s p _ i e =>
    let w := e.word
    let last := e.n = wRep w
    s.vecPop p e [(wIna w, groupEnts (vFmtI w))] (if last then vecOut w else []) fun k g =>
      let acc := if e.n = 0 then none else some (BitVec.ofNat 32 (e.vals.getD 0 0))
      let r := redGroup (wbits w 64 2) (wbit w 71) acc (preRow (vFmtI w) (g.getD 0 []))
      let k := if last then k.vecPush (wOut w) e (r :: List.replicate 63 0) else k
      (s.setCore p k).tick p 6 i { e with vals := [r.toNat] } (wRep w + 1)

/-- The test of a lane in VEC.CMPRED. -/
def cmpOp (fn : Nat) (a imm : W32) : Bool :=
  match fn with
  | 0 => f32lt imm a
  | 1 => f32le imm a
  | 2 => f32lt a imm
  | 3 => f32le a imm
  | 4 => f32eq a imm
  | 5 => !f32eq a imm
  | 6 => f32nan a
  | _ => !f32fin a

/-- VEC.CMPRED (R163, R196): one group. `vals`: 1 when a lane was true. -/
def execVecCmpred (c : Nat) (s : State) : Out :=
  .next <| s.onCur c 6 3 fun s p _ i e =>
    let w := e.word
    s.vecPop p e [(wIna w, groupEnts (vFmtI w))] [] fun k g =>
      let hit := (preRow (vFmtI w) (g.getD 0 [])).any fun x => cmpOp (vFn w) x (vImm w)
      (s.setCore p k).tick p 6 i { e with vals := [if hit || e.vals.getD 0 0 = 1 then 1 else 0] } (wRep w + 1)

/-- Gather the groups of one row, then push the groups of its result: `vals` holds what was gathered. -/
def State.rowOp (s : State) (p i : Nat) (k : Core) (e : Cqe) (ins : List (Nat × Nat)) (res : List W32 → List W32) : State :=
  let w := e.word
  let n := wRep w + 1
  if e.n < n then
    s.vecPop p e ins [] fun k g =>
      let v := g.flatMap fun l => (preRow (vFmtI w) l).map BitVec.toNat
      (s.setCore p k).putWord p 6 i { e with n := e.n + 1, vals := e.vals ++ v }
  else if !k.roomAll (vecOut w) then s.vecWait p [] (vecOut w)
  else
    let out := res (e.vals.map (BitVec.ofNat 32))
    let v := (List.range 64).map fun j => out.getD (64 * (e.n - n) + j) 0
    (s.setCore p (k.vecPush (wOut w) e v)).tick p 6 i e (2 * n)

/-- VEC.SMAX (R196; log 9). -/
def execVecSmax (c : Nat) (s : State) : Out :=
  .next <| s.onCur c 6 4 fun s p k i e => s.rowOp p i k e [(wIna e.word, groupEnts (vFmtI e.word))] Config.softmax

/-- Every n-th block of 64 values from block j on. -/
def strided (n j : Nat) (l : List W32) : List W32 :=
  ((List.range (l.length / 64)).filter fun b => b % n = j).flatMap fun b => (l.drop (64 * b)).take 64

/-- VEC.NORM (R196; log 9). -/
def execVecNorm (c : Nat) (s : State) : Out :=
  .next <| s.onCur c 6 5 fun s p k i e =>
    let w := e.word
    let n := groupEnts (vFmtI w)
    let ins := [(wIna w, n), (wInb w, n)] ++ (if vIncEn w then [(vInc w, n)] else [])
    s.rowOp p i k e ins fun l =>
      let m := ins.length
      Config.norm (vFn w = 1) (strided m 0 l) (strided m 1 l) (if vIncEn w then strided m 2 l else []) (vImm w)

/-! ### Gather and scatter through the L1 (R196, R290) -/

/-- The indices of a group: two entries of 32 unsigned 32-bit elements. -/
def indices (l : List DqEnt) : List Nat := l.flatMap fun x => unpackBits 32 32 x.data.toNat

/-- Address of element j of group n (log 42). -/
def Core.elemAddr (c : Core) (w : CWord) (n idx : Nat) : Int :=
  let g := aget {} c.vecAg (vAg w)
  g.addr 0 n + (idx * (fmtWidth (vFmtI w) / 8) : Nat)

/-- What meeting a device byte address in the L1 says. -/
inductive L1Look where
  | out (a : Nat)
  | miss
  | hit (x : CLine)

def Core.l1Look (c : Core) (a : Int) (n : Nat) : L1Look :=
  if a < 0 ∨ (2 ^ 52 : Int) < a + n then .out (a % 2 ^ 52).toNat
  else match c.l1Line a.toNat with
    | none => .miss
    | some x => .hit x

/-- n bytes at an address of a line. -/
def CLine.bytesAt (x : CLine) (a n : Nat) : List Byte := (x.bytes.drop (a % lineBytes)).take n

/-- Elements of a group read while their lines are in the L1; none more than `fuel`. Answers the codes, or the stop met: the address that
leaves the range (true) or misses (false); poison is reported last. -/
def Core.gatherGo (c : Core) (w : CWord) (n : Nat) : List Nat → List Nat → List Nat × Option (Bool × Nat) × Bool
  | [], acc => (acc, none, false)
  | idx :: t, acc =>
    let a := c.elemAddr w n idx
    let sz := fmtWidth (vFmtI w) / 8
    match c.l1Look a sz with
    | .out a => (acc, some (true, a), false)
    | .miss => (acc, some (false, a.toNat), false)
    | .hit x =>
      -- an element that is not aligned may reach into the next line
      let past := (a.toNat % lineBytes + sz) - lineBytes
      if x.poison then (acc, none, true)
      else if past = 0 then c.gatherGo w n t (acc ++ [numOf (x.bytesAt a.toNat sz)])
      else match c.l1Line (a.toNat + sz - 1) with
        | none => (acc, some (false, a.toNat + sz - 1), false)
        | some y => if y.poison then (acc, none, true)
          else c.gatherGo w n t (acc ++ [numOf (x.bytesAt a.toNat (sz - past) ++ y.bytesAt 0 past)])

/-- VEC.GATH (R196, R290): elements until a miss; a whole group is pushed. `vals`: codes read of the group. An address out of range freezes the core with
FRZ_CAUSE.OBJ 0xFFFF (R191). DESIGN CHOICE (log 168): FRZ_ADDR shows the low 52 bits of the address computed, here and in VEC.SCAT. -/
def execVecGath (c : Nat) (s : State) : Out :=
  .next <| s.onCur c 6 6 fun s p k i e =>
    let w := e.word
    match k.headDq (wInb w) 2 with
    | none => s.vecWait p [(wInb w, 2)] []
    | some ix =>
      if ix.any DqEnt.poison then s.haltWord p 6 e 0x0C (wInb w * 16)
      else
        let r := k.gatherGo w e.n ((indices ix).drop e.vals.length) e.vals
        if r.2.2 then s.haltWord p 6 e 0x0C 4
        else match r.2.1 with
          | some (true, a) => s.freezeAt p 6 frzOut 0xFFFF a
          | some (false, a) => (s.putWord p 6 i { e with vals := r.1 }).l1Miss p a
          | none =>
            if !k.roomAll (vecOut w) then (s.vecWait p [] (vecOut w)).putWord p 6 i { e with vals := r.1 }
            else
              let v := r.1.map (widen (vFmtI w))
              (s.setCore p ((k.dropDq (wInb w) 2).vecPush (wOut w) e v)).tick p 6 i { e with vals := [] } (wRep w + 1)

/-- Write bytes into the lines of the L1 that hold them. -/
def Core.l1Write (c : Core) (p a : Nat) (d : List Byte) : Core :=
  let l1 := c.vec.l1.map fun x =>
    let lo := x.line * lineBytes
    if a + d.length ≤ lo ∨ lo + lineBytes ≤ a then x
    else
      let b := x.bytes.zipIdx.map fun y => let at_ := lo + y.2; if a ≤ at_ ∧ at_ < a + d.length then d.getD (at_ - a) 0 else y.1
      { x with bytes := b, dirty := true, owner := p }
  { c with vec := { c.vec with l1 := l1 } }

/-- Elements of a group written while their lines are in the L1 (write-allocate): how many are done, and the stop met, as in `gatherGo`. -/
def Core.scatterGo (c : Core) (p : Nat) (w : CWord) (n : Nat) : List (Nat × Nat) → Nat → Core × Nat × Option (Bool × Nat) × Bool
  | [], m => (c, m, none, false)
  | (idx, code) :: t, m =>
    let a := c.elemAddr w n idx
    let sz := fmtWidth (vFmtI w) / 8
    match c.l1Look a sz with
    | .out a => (c, m, some (true, a), false)
    | .miss => (c, m, some (false, a.toNat), false)
    | .hit x =>
      match c.l1Line (a.toNat + sz - 1) with
      | none => (c, m, some (false, a.toNat + sz - 1), false)
      | some y =>
        if x.poison || y.poison then (c, m, none, true)
        else (c.l1Write p a.toNat (bytesOf sz code)).scatterGo p w n t (m + 1)

/-- VEC.SCAT (R196, R290): elements until a miss. `vals`: elements written of the group. Out of range: as VEC.GATH (log 168). -/
def execVecScat (c : Nat) (s : State) : Out :=
  .next <| s.onCur c 6 7 fun s p k i e =>
    let w := e.word
    let f := vFmtI w
    match k.headDq (wIna w) (groupEnts f), k.headDq (wInb w) 2 with
    | some dat, some ix =>
      if dat.any DqEnt.poison then s.haltWord p 6 e 0x0C (wIna w * 16)
      else if ix.any DqEnt.poison then s.haltWord p 6 e 0x0C (wInb w * 16)
      else
        let codes := (unpackBits (fmtWidth f) 64 (dat.foldr (fun y acc => y.data.toNat + acc * 2 ^ 1024) 0))
        let m := e.vals.getD 0 0
        let r := k.scatterGo p w e.n (((indices ix).zip codes).drop m) m
        let s := s.setCore p r.1
        if r.2.2.2 then s.haltWord p 6 e 0x0C 4
        else match r.2.2.1 with
          | some (true, a) => s.freezeAt p 6 frzOut 0xFFFF a
          | some (false, a) => (s.putWord p 6 i { e with vals := [r.2.1] }).l1Miss p a
          | none =>
            (s.setCore p ((r.1.dropDq (wIna w) (groupEnts f)).dropDq (wInb w) 2)).tick p 6 i { e with vals := [] } (wRep w + 1)
    | _, _ => s.vecWait p [(wIna w, groupEnts f), (wInb w, 2)] []

/-! ### Sorting and suppression -/

/-- a comes before b or equals it in ascending order, a NaN below −∞ (R196). -/
def keyLe (a b : W32) : Bool := f32nan a || (!f32nan b && f32le a b)

/-- Insert behind the elements that come before or equal it: stable. -/
def sortIns (le : W32 → W32 → Bool) (x : W32 × Nat) : List (W32 × Nat) → List (W32 × Nat)
  | [] => [x]
  | y :: t => if le y.1 x.1 then y :: sortIns le x t else x :: y :: t

/-- A stable sort. -/
def sortKeys (asc : Bool) (l : List (W32 × Nat)) : List (W32 × Nat) :=
  l.foldl (fun acc x => sortIns (fun a b => if asc then keyLe a b else keyLe b a) x acc) []

/-- A free 32-bit value for place j (log 1). -/
def State.freeCode (s : State) (j : Nat) : Nat := (Config.freeWord (s.fresh + j)).toNat % 2 ^ 32

/-- VEC.SORT (R196, R496): groups of keys and payload, then the first K sorted; what the lanes after K hold is free (log 43). `vals`: keys and
payload codes in turns. -/
def execVecSort (c : Nat) (s : State) : Out :=
  .next <| s.onCur c 6 8 fun s p k i e =>
    let w := e.word
    let f := vFmtI w
    let n := groupEnts f
    if e.n ≤ wRep w then
      s.vecPop p e [(wIna w, n), (wInb w, n)] [] fun k g =>
        let keys := (preRow f (g.getD 0 [])).map BitVec.toNat
        let pay := unpackBits (fmtWidth f) 64 ((g.getD 1 []).foldr (fun y acc => y.data.toNat + acc * 2 ^ 1024) 0)
        (s.setCore p k).putWord p 6 i { e with n := e.n + 1, vals := e.vals ++ ((keys.zip pay).flatMap fun x => [x.1, x.2]) }
    else if !k.roomAll ((wOut w + 1, n) :: vecOut w) then s.vecWait p [] ((wOut w + 1, n) :: vecOut w)
    else
      let l := (List.range (e.vals.length / 2)).map fun j => (BitVec.ofNat 32 (e.vals.getD (2 * j) 0), e.vals.getD (2 * j + 1) 0)
      let r := (sortKeys (wbit w 64) l).take (vK w)
      let keys := (List.range 64).map fun j => if j < r.length then (r.getD j (0, 0)).1 else BitVec.ofNat 32 (s.freeCode j)
      let pay := (List.range 64).map fun j => if j < r.length then (r.getD j (0, 0)).2 else s.freeCode (64 + j)
      let s := { s with fresh := s.fresh + 128 }
      (s.setCore p ((k.vecPush (wOut w) e keys).pushCodes (wOut w + 1) f e.seqno pay)).finish p 6 i e

/-- Boxes kept, as indices: a box is dropped when its overlap with a kept one is above the threshold (R196; log 9). -/
def nmsKeep (thr : W32) (k : Nat) (boxes : List (List W32)) : List Nat :=
  (boxes.zipIdx.foldl (fun (kept : List (List W32 × Nat)) b =>
    if k ≤ kept.length || kept.any (fun x => f32lt thr (Config.iou x.1 b.1)) then kept else kept ++ [b]) []).map Prod.snd

/-- VEC.NMS (R196, R496): entries of 8 boxes, then the indices kept, 32 per entry; what the lanes after them hold is free (log 43). -/
def execVecNms (c : Nat) (s : State) : Out :=
  .next <| s.onCur c 6 9 fun s p k i e =>
    let w := e.word
    if e.n ≤ wRep w then
      s.vecPop p e [(wIna w, 1)] [] fun k g =>
        let v := g.flatMap fun l => l.flatMap fun x => unpackBits 32 32 x.data.toNat
        (s.setCore p k).putWord p 6 i { e with n := e.n + 1, vals := e.vals ++ v }
    else
      let n := (vK w + 31) / 32
      if !k.dqRoom (wOut w) n then s.vecWait p [] [(wOut w, n)]
      else
        let boxes := (List.range (e.vals.length / 4)).map fun j => ((e.vals.drop (4 * j)).take 4).map (BitVec.ofNat 32)
        let r := nmsKeep (vImm w) (vK w) boxes
        let idx := (List.range (32 * n)).map fun j => if j < r.length then r.getD j 0 else s.freeCode j
        let ents := (List.range n).map fun j =>
          ({ data := BitVec.ofNat 1024 (packBits 32 ((idx.drop (32 * j)).take 32)), tok := e.seqno } : DqEnt)
        let s := { s with fresh := s.fresh + 64 }
        (s.setCore p (k.pushDq (wOut w) ents)).finish p 6 i e

/-! ### Loss, generators, contexts -/

/-- Add a loss value to the sums of the open step (R250). -/
def Core.addLoss (c : Core) (x : W32) : Core :=
  match f32 x with
  | .fin neg m e =>
    let q : Int := min (roundHE m (e + 24) : Nat) (2 ^ 63 - 1)
    let t := accumulate c.upd.lossSum (if neg then -q else q)
    { c with upd := { c.upd with lossSum := t.1, lossCount := c.upd.lossCount + 1 } }
  | _ => { c with upd := { c.upd with lossNf := c.upd.lossNf + 1 } }

/-- VEC.LOSS (R196, R250): outside a step the value is discarded. -/
def execVecLoss (c : Nat) (s : State) : Out :=
  .next <| s.onCur c 6 0xA fun s p _ i e =>
    let w := e.word
    s.vecPop p e [(wIna w, 1)] [] fun k g =>
      let x := widen (vFmtI w) (((g.getD 0 []).map fun y => bitsOf y.data.toNat 0 (fmtWidth (vFmtI w))).headD 0)
      (s.setCore p (if k.seq.open_ then k.addLoss x else k)).finish p 6 i e

/-- VEC.AGSET (R190). -/
def execVecAgset (c : Nat) (s : State) : Out :=
  .next <| s.onCur c 6 0xD fun s p k i e =>
    (s.setCore p { k with vecAg := aset k.vecAg (wbits e.word 68 3) (agenOf e.word 0 52 false) }).finish p 6 i e

/-- VEC.SRCTX (R195). -/
def execVecSrctx (c : Nat) (s : State) : Out :=
  .next <| s.onCur c 6 0xE fun s p k i e =>
    let w := e.word
    let x : RndCtx := { obj := wbits w 55 16, base := wbits w 7 48, tstep := wbits w 224 32, pstep := wbits w 200 24, rstep := wbits w 176 24, n := 0 }
    (s.setCore p { k with vec := { k.vec with ctx := x } }).finish p 6 i e

/-! ### The U1 optimiser (R203) -/

/-- SGD with momentum: the new weight and moment, each operation rounded (R60, R203, R240). -/
def sgdU1 (lr : W32) (h : HpSet) (g w m : W32) : W32 × W32 :=
  let g := f32fma h.wd w g
  let m := f32fma h.mu m g
  (f32fma (f32neg lr) m w, m)

/-- VEC.OPT (R203): one group; the weight goes to OUT in BF16, the moment to OUT + 1 in FP32. -/
def execVecOpt (c : Nat) (s : State) : Out :=
  .next <| s.onCur c 6 0x40 fun s p _ i e =>
    let w := e.word
    let ins := [(wIna w, groupEnts (vFmtI w)), (wInb w, 1), (vInc w, 2)]
    s.vecPop p e ins [(wOut w, 1), (wOut w + 1, 2)] fun k g =>
      let gr := preRow (vFmtI w) (g.getD 0 [])
      let wt := preRow 0x0 (g.getD 1 [])
      let mo := preRow 0xC (g.getD 2 [])
      let h := k.upd.hp.getD 0 {}
      let r := (List.range 64).map fun j =>
        let a := gr.getD j 0
        let b := wt.getD j 0
        let m := mo.getD j 0
        if vFn w = 0 then sgdU1 (vImm w) h a b m else Config.adamU1 (vImm w) [h.b1, h.b2, h.eps, h.wd, h.mu] a b m
      let k := k.pushCodes (wOut w) 0x0 e.seqno (r.map fun x => (convert 0x0 false (f32 x.1)).code)
      let k := k.pushCodes (wOut w + 1) 0xC e.seqno (r.map fun x => x.2.toNat)
      (s.setCore p k).tick p 6 i e (wRep w + 1)

end Sys2Proof.Machine
end

