-- ==== Sys2Proof/Machine/Write.lean ====
section
/-! DEFINITION. The write unit (R190, R191, R197, R222, R225, R257, R267). -/

namespace Sys2Proof.Machine

def wrHinEn (w : CWord) : Bool := wOp w = 2 && wbit w 59
def wrHin (w : CWord) : Nat := wbits w 56 3
def wrHoutEn (w : CWord) : Bool := wrHinEn w && wbit w 51
def wrHout (w : CWord) : Nat := wbits w 45 3
/-- BYTES + 1. -/
def wrBytes (w : CWord) : Nat := wbits w 61 7 + 1

/-- The start of a write word (R145, R225, R267): a word that waits for a stash handle that cannot come halts. -/
def State.startWrite (s : State) (p : Nat) (e : Cqe) : Start :=
  let s := s.stashPresent p
  let c := s.core p
  let w := e.word
  if !c.laneFree 7 then .wait s
  else if wOp w = 1 then .go s e
  else
    match c.roles 7 [wIna w] [] (if wrHinEn w then [wrHin w] else []) (if wrHoutEn w then [wrHout w] else []) with
    | some info => .stop (s.haltWord p 7 e 0x05 info)
    | none =>
      if !wrHinEn w then (if (c.dataQ (wIna w)).ents.isEmpty then .wait (s.vecWait p [(wIna w, 1)] []) else .go s e)
      else
        match c.headHandle (wrHin w) 7 e.seqno (wbits w 52 4) with
        | .empty =>
          if c.stashEn && c.stashHq = wrHin w && s.stashExhausted c then
            let s := s.modCore p fun c => { c with stash := { c.stash with exhausted := true } }
            .stop (s.haltWord p 7 e 0x0B c.stashT1)
          else .wait (s.setCore p (c.emptyPop (wrHin w)))
        | .bad r info => .stop (s.haltWord p 7 e r info)
        | .ok x =>
          if (c.dataQ (wIna w)).ents.isEmpty then .wait (s.vecWait p [(wIna w, 1)] [])
          else
            let c := (c.popHandle (wrHin w)).takeRecord x.h
            .go (s.setCore p c) { e with hnd := some x.h }

/-- WR.AGSET (R190). -/
def execWrAgset (c : Nat) (s : State) : Out :=
  .next <| s.onCur c 7 1 fun s p k i e =>
    (s.setCore p { k with wrAg := aset k.wrAg (wbits e.word 68 4) (agenOf e.word 40 24 true) }).finish p 7 i e

/-- Where the bytes of an entry go: runs of an address and bytes; none where the access is illegal (R197, R257). -/
def writeRuns (layout a : Nat) (d : List Byte) : Option (List (Nat × List Byte)) :=
  if layout = 0 then some [(a, d)]
  else
    match damaskLine layout a 64 with
    | none => none
    | some l => some (((List.range ((d.length + 1) / 2)).map fun j => (l.getD j 0, (d.drop (2 * j)).take 2)))

/-- Write one entry at a generated address (R191, R197). A stash handle's frame is written on the memory side (R222). -/
def State.writeEntry (s : State) (p : Nat) (e : Cqe) (g : Agen) (d : List Byte) : Except State State :=
  let k := s.core p
  let stash := e.hnd.bind fun h => (k.stash.pres.find? fun x => x.1 = hIdx h).map fun x => x.2.1
  match stash with
  | some f =>
    let a := g.addr (g.ilev e.ilev) e.n
    if a < 0 ∨ (k.frameSize : Int) < a + d.length then .error (s.freezeAt p 7 frzOut 0xFFFF (a % 2 ^ 24).toNat)
    else
      match writeRuns g.layout a.toNat d with
      | none => .error (s.haltIllegal p 7 e)
      | some l =>
        let pl := s.framePlace k f
        match s.check (.core ((s.logical p).getD 0)) true false pl.1 pl.2 k.frameSize with
        | some r => .error (s.freezeAt p 7 r pl.1 ((s.objEnt pl.1).start + pl.2))
        | none => .ok (l.foldl (fun s x => s.wholeWrite pl.1 (pl.2 + x.1) (x.2.map fun b => (b, false))) s)
  | none =>
    let a := g.addr (k.genBase e g) e.n
    let len := if g.layout = 0 then d.length else 1
    if a < 0 ∨ (spaceSize g.space : Int) < a + len then .error (s.freezeAt p 7 frzOut 0xFFFF (s.localAddr p g.space (a % 2 ^ 24).toNat))
    else
      match writeRuns g.layout a.toNat d with
      | none => .error (s.haltIllegal p 7 e)
      | some l => .ok ((l.foldl (fun s x => s.localWrite p g.space x.1 x.2 false) s).localClear p g.space (l.map fun x => (x.1, x.2.length)))

/-- WR.ROWS (R197): one entry. -/
def execWrRows (c : Nat) (s : State) : Out :=
  .next <| s.onCur c 7 2 fun s p k i e =>
    let w := e.word
    match (k.dataQ (wIna w)).ents with
    | [] => s.vecWait p [(wIna w, 1)] []
    | x :: _ =>
      let last := e.n = wRep w
      if last && wrHoutEn w && !k.hqRoom (wrHout w) then s
      else if x.poison then s.haltWord p 7 e 0x0C (wIna w * 16)
      else
        match s.writeEntry p e (aget {} k.wrAg (wbits w 68 4)) (bytesOf (wrBytes w) x.data.toNat) with
        | .error s => s
        | .ok s => (s.modCore p fun k => k.dropDq (wIna w) 1).tick p 7 i e (wRep w + 1)

/-- The completion of a write word: its record is committed, its handle passed on or released (R222, R267). -/
def State.writeComplete (s : State) (p : Nat) (e : Cqe) : State :=
  match e.hnd with
  | none => s
  | some h =>
    let s := s.modCore p fun c => match c.recordOf h with
      | some n => c.commitRecord n
      | none => c
    if wrHoutEn e.word then s.modCore p fun c => c.pushHandle (wrHout e.word) { h := h, tok := e.seqno }
    else (s.release p h).stashPresent p

/-- TP_CNT_CLR.ALL (R233). -/
def execTpCntClr (c : Nat) (s : State) : Out := .next <| s.onCore c fun s p k => s.setCore p (k.clearCounters 0x2900 0x2918)

end Sys2Proof.Machine
end

