-- ==== Sys2Proof/Machine/Update.lean ====
section
/-! DEFINITION. The update unit: staging, optimiser equations, clip scale, commit with its log, and commit recovery (R198, R230, R234 to R243,
R247, R248, R308, R427, R428). -/

namespace Sys2Proof.Machine

/-! ### Fields and layouts -/

def uOpt (w : CWord) : Nat := wbits w 69 3
def uSet (w : CWord) : Nat := wbits w 67 2
def uMfmt (w : CWord) : Nat := wbits w 65 2
def uClip (w : CWord) : Bool := wbit w 64
def uWobj (w : CWord) : Nat := wbits w 48 16
def uMobj (w : CWord) : Nat := wbits w 32 16
def uStart (w : CWord) : Nat := wbits w 0 32

/-- The optimiser keeps two moments. -/
def twoMoments (opt : Nat) : Bool := opt = 2 || opt = 4
/-- Bytes of a moment record (R241). -/
def momBytes (mfmt opt : Nat) : Nat := (if mfmt = 0 then 128 else if mfmt = 1 then 64 else 36) * (if twoMoments opt then 2 else 1)
def pad64 (n : Nat) : Nat := (n + 63) / 64 * 64
/-- Bytes of a group record (R235). -/
def grpBytes (mfmt opt : Nat) : Nat := 128 + pad64 (momBytes mfmt opt)
/-- Bytes padded with zeros. -/
def padTo (n : Nat) (d : List Byte) : List Byte := d ++ List.replicate (n - d.length) 0

/-- UPD_CFG. -/
def Core.updCfg (c : Core) : Nat := c.reg 0x2410 0x7F0000
def Core.stageObj (c : Core) : Nat := c.updCfg % 65536
def Core.lnormE (c : Core) : Nat := bitsOf c.updCfg 16 8

/-- The sequencer whose step the update unit serves: that of a preempted core while its commit continues (R248). -/
def Core.stepSeq (c : Core) : Sequencer :=
  if c.pre.contCommit then c.pre.saved.elim c.seq CoreCtx.seq else c.seq

/-- One write of the update unit, checked (R248): none when it is refused. -/
def State.updWrite (s : State) (p obj ofs : Nat) (d : List Byte) : Option State :=
  match s.check (.core ((s.logical p).getD 0)) true false obj ofs d.length with
  | some _ => none
  | none => some (s.wholeWrite obj ofs (d.map fun b => (b, false)))

/-! ### Moments (R241) -/

/-- The FP32 moments of a record: m, and v where it is kept. -/
def momRead (mfmt opt : Nat) (d : List Byte) : List W32 × List W32 :=
  let two := twoMoments opt
  let flt (f n : Nat) : List W32 := (unpackBits (fmtWidth f) 32 (numOf (d.drop n))).map (widen f)
  let blk (n sc : Nat) : List W32 :=
    (unpackBits 8 32 (numOf (d.drop n))).map fun x => toF32 (scaled (d.getD sc 0).toNat (decodeElem 0x9 x))
  match mfmt with
  | 0 => (flt 0xC 0, if two then flt 0xC 128 else [])
  | 1 => (flt 0x0 0, if two then flt 0x0 64 else [])
  | _ => if two then (blk 0 64, blk 32 65) else (blk 0 32, [])

/-- The record of new moments of group q (R241). -/
def momWrite (sq : Sequencer) (mfmt opt mobj q : Nat) (m v : List W32) : List Byte :=
  let two := twoMoments opt
  let r (ofs i : Nat) : Nat := srBits sq.seed sq.step mobj ((if two then 64 else 32) * q + ofs + i)
  let raw (l : List W32) : List Byte := l.flatMap fun x => bytesOf 4 x.toNat
  let half (ofs : Nat) (l : List W32) : List Byte :=
    l.zipIdx.flatMap fun x => bytesOf 2 (roundKeyed 0x0 false (r ofs x.2) (f32 x.1)).code
  let blk (ofs : Nat) (l : List W32) : Nat × List Byte :=
    let b := mxQuantise 0x9 (some ((List.range 32).map (r ofs))) (l.map f32)
    (b.1, b.2.flatMap fun x => bytesOf 1 x.code)
  match mfmt with
  | 0 => raw m ++ (if two then raw v else [])
  | 1 => half 0 m ++ (if two then half 32 v else [])
  | _ =>
    let a := blk 0 m
    if two then
      let b := blk 32 v
      a.2 ++ b.2 ++ bytesOf 1 a.1 ++ bytesOf 1 b.1 ++ List.replicate 6 0
    else a.2 ++ bytesOf 1 a.1 ++ List.replicate 3 0

/-! ### Optimisers (R240) -/

/-- What one parameter stages: g1, u, m′, v′. -/
structure ParamOut where
  g1 : W32
  u : W32
  m : W32
  v : W32
  deriving DecidableEq, Repr

def f32sub1 (x : W32) : W32 := f32sub 0x3F800000 x

/-- One parameter (R240). -/
def optStep (opt : Nat) (h : HpSet) (scale : Option W32) (g w m v : W32) : ParamOut :=
  let g1 := match scale with
    | some c => f32mul g c
    | none => g
  let c1 := f32sub1 h.b1
  let c2 := f32sub1 h.b2
  let hh := f32fma h.wd w g1
  let sgdM := f32fma h.mu m hh
  let am := f32fma h.b1 m (f32mul c1 g1)
  let av := f32fma h.b2 v (f32mul c2 (f32mul g1 g1))
  let au := f32div am (f32add (f32sqrt av) h.eps)
  match opt with
  | 0 => ⟨g1, sgdM, sgdM, 0⟩
  | 1 => ⟨g1, f32fma h.mu sgdM hh, sgdM, 0⟩
  | 2 => ⟨g1, au, am, av⟩
  | 3 =>
    let k := am
    let u := if f32nan k then nan32 else if f32lt 0 k then 0x3F800000 else if f32lt k 0 then 0xBF800000 else 0
    ⟨g1, u, f32fma h.b2 m (f32mul c2 g1), 0⟩
  | _ => ⟨g1, f32fma h.wd w au, am, av⟩

/-- A parameter that R244 counts. -/
def ParamOut.bad (x : ParamOut) : Bool := !f32fin x.g1 || !f32fin x.u || !f32fin x.m || !f32fin x.v

/-- The new FP32 weight (R240); `phi` for LAMB. -/
def newWeight (opt : Nat) (lr wd phi u w : W32) : W32 :=
  match opt with
  | 0 | 1 => f32fma (f32neg lr) u w
  | 2 | 3 => f32fma (f32neg lr) u (f32fma (f32neg wd) w w)
  | _ => f32fma (f32neg (f32mul lr phi)) u w

/-- The BF16 code of a new weight (R64, R242); `rne`: UPD_RNE is in force. -/
def roundWeight (rne : Bool) (sq : Sequencer) (wobj i : Nat) (x : W32) : Nat :=
  if !f32fin x then 0x7FC0
  else if rne then (convert 0x0 false (f32 x)).code
  else (roundKeyed 0x0 false (srBits sq.seed sq.step wobj i) (f32 x)).code

/-- Add squares to a LAMB accumulator (R243). -/
def laccAdd (el : Nat) (acc : Nat × Bool) (x : W32) : Nat × Bool :=
  match f32 x with
  | .fin _ m e =>
    let y := acc.1 + roundHE (m * m) (2 * e + 183 - el)
    if 2 ^ 64 ≤ y then (2 ^ 64 - 1, true) else (y, acc.2)
  | _ => acc

/-! ### Starting update words (R234, R239, R248) -/

/-- UPD_RNE is in force for a sequencer's step: latched at its STEP.OPEN, and never in sealed mode (R64). -/
def State.rneInForce (s : State) (sq : Sequencer) : Bool := sq.updRne && !s.sealed_

/-- Why the update unit's access to an object at an offset takes no DMA tag now (R279, R280; log 73). -/
def State.updTagWait (s : State) (p obj ofs : Nat) : Option Nat := (s.objChan obj ofs).bind fun ch => (s.core p).tagWait ch

/-- The first write that the commit of an UPD.RUN would be refused: reason, object, address. -/
def State.updDenied (s : State) (p : Nat) (w : CWord) : Option (Nat × Nat × Nat) :=
  let n := wRep w + 1
  let e := s.objEnt (uWobj w)
  let l := (s.logical p).getD 0
  let one (obj ofs len : Nat) : Option (Nat × Nat × Nat) := (s.check (.core l) true false obj ofs len).map fun r => (r, obj, (s.objEnt obj).start + ofs)
  let mb := momBytes (uMfmt w) (uOpt w)
  ((one (uWobj w) (64 * uStart w) (64 * n)).toList
    ++ (if e.bpol ≠ 0 then (one e.backing (64 * uStart w) (64 * n)).toList else [])
    ++ (one (uMobj w) (mb * uStart w) (mb * n)).toList).head?

/-- The start of an update word; words wait while a commit continues (R248). -/
def State.startUpd (s : State) (p : Nat) (e : Cqe) : Start :=
  let c := s.core p
  let w := e.word
  if !c.laneFree 8 || c.inCommit then .wait s
  else if wOp w = 1 then .go s e
  else
    match c.roles 8 [wIna w] [] [] [] with
    | some info => .stop (s.haltWord p 8 e 0x05 info)
    | none =>
      if (c.dataQ (wIna w)).ents.isEmpty then .wait (if wOp w = 2 then s.bumpCore p 0x2504 1 else s)
      else if wOp w = 3 then .go s e
      else
        let st := s.objEnt c.stageObj
        if (uClip w && !c.upd.normValid) || !st.valid || st.tier ≠ 1 then .stop (s.haltIllegal p 8 e)
        else
          match s.updDenied p w with
          | some (r, o, a) => .stop (s.freezeAt p 8 r o a)
          | none =>
            let t := if c.upd.touched.contains (uWobj w) then c.upd.touched else c.upd.touched ++ [uWobj w]
            .go (s.setCore p { c with upd := { c.upd with phase := .staging, touched := t } }) e

/-- UPD.HP (R198). -/
def execUpdHp (c : Nat) (s : State) : Out :=
  .next <| s.onCur c 8 1 fun s p k i e =>
    let w := e.word
    let f (lo : Nat) : W32 := BitVec.ofNat 32 (wbits w lo 32)
    let h : HpSet := { lr := f 224, b1 := f 192, b2 := f 160, eps := f 128, wd := f 32, mu := f 0 }
    (s.setCore p { k with upd := { k.upd with hp := k.upd.hp.set (wbits w 70 2) h } }).finish p 8 i e

/-! ### UPD.RUN (R235, R236, R238, R240, R243) -/

/-- The run header (R235). -/
def runHeader (h : HpSet) (w : CWord) (seqno : Nat) : List Byte :=
  bytesOf 2 (uWobj w) ++ bytesOf 2 (uMobj w) ++ bytesOf 4 (uStart w) ++ bytesOf 4 (wRep w + 1)
    ++ bytesOf 1 (uOpt w + uSet w * 8 + uMfmt w * 32) ++ [0, 0, 0] ++ bytesOf 4 h.lr.toNat ++ bytesOf 4 h.wd.toNat ++ bytesOf 2 seqno
    ++ List.replicate 38 0

/-- Write at the staging pointer, which advances; a refused write freezes the core (R234). -/
def State.stagePut (s : State) (p : Nat) (d : List Byte) : Except State State :=
  let c := s.core p
  let ofs := 64 * c.upd.stg
  match s.check (.core ((s.logical p).getD 0)) true false c.stageObj ofs d.length with
  | some r => .error (s.freezeAt p 8 r c.stageObj ((s.objEnt c.stageObj).start + ofs))
  | none =>
    .ok ((s.wholeWrite c.stageObj ofs (d.map fun b => (b, false))).modCore p fun c =>
      { c with upd := { c.upd with stg := c.upd.stg + d.length / 64 } })

/-- A read of the update unit: bytes, or the freeze or halt it ends in (R171, R238, R299). -/
def State.updRead (s : State) (p : Nat) (e : Cqe) (obj ofs n : Nat) : Except State (List Byte × State) :=
  match s.check (.core ((s.logical p).getD 0)) false false obj ofs n with
  | some r => .error (s.freezeAt p 8 r obj ((s.objEnt obj).start + ofs))
  | none =>
    let r := s.coreRead p obj ofs n
    if r.1.any Prod.snd then .error (r.2.haltWord p 8 e 0x0C 8) else .ok (r.1.map Prod.fst, r.2)

/-- One group of an UPD.RUN, its gradients popped. -/
def State.updGroup (s : State) (p i : Nat) (e : Cqe) (g : List W32) : State :=
  let w := e.word
  let opt := uOpt w
  let q := uStart w + e.n
  let mb := momBytes (uMfmt w) opt
  let h := (s.core p).upd.hp.getD (uSet w) {}
  let head := if e.n = 0 then s.stagePut p (runHeader h w e.seqno) else .ok s
  match head with
  | .error s => s
  | .ok s =>
    match s.updRead p e (uWobj w) (64 * q) 64 with
    | .error s => s
    | .ok (wb, s) =>
      match s.updRead p e (uMobj w) (mb * q) mb with
      | .error s => s
      | .ok (mbytes, s) =>
        let c := s.core p
        let ws := (unpackBits 16 32 (numOf wb)).map (widen 0x0)
        let mv := momRead (uMfmt w) opt mbytes
        let sc := if uClip w then some c.upd.scale else none
        let o := (List.range 32).map fun j => optStep opt h sc (g.getD j 0) (ws.getD j 0) (mv.1.getD j 0) (mv.2.getD j 0)
        let rec_ := (o.flatMap fun x => bytesOf 4 x.u.toNat)
          ++ padTo (pad64 mb) (momWrite c.seq (uMfmt w) opt (uMobj w) q (o.map ParamOut.m) (o.map ParamOut.v))
        match s.stagePut p rec_ with
        | .error s => s
        | .ok s =>
          let bad := (o.filter ParamOut.bad).length
          let c := s.core p
          let k := uSet w
          let el := c.lnormE
          let aw := ws.foldl (laccAdd el) (c.upd.laccW.getD k 0, false)
          let au := (o.map ParamOut.u).foldl (laccAdd el) (c.upd.laccU.getD k 0, false)
          let upd := if opt = 4 then { c.upd with laccW := c.upd.laccW.set k aw.1, laccU := c.upd.laccU.set k au.1
                                                  laccSat := (c.upd.laccSat.set k (c.upd.laccSat.getD k false || aw.2)).set (4 + k)
                                                    (c.upd.laccSat.getD (4 + k) false || au.2) } else c.upd
          let last := e.n = wRep w
          let c := { c with upd := if last then { upd with phase := .idle } else upd }
          (s.setCore p (((c.bump 0x2500 32).bump 0x2508 bad).bump 0x250C bad)).tick p 8 i e (wRep w + 1)

/-- UPD.RUN: one entry of 32 gradients, once its staging write has a DMA tag (R279). -/
def execUpdRun (c : Nat) (s : State) : Out :=
  .next <| s.onCur c 8 2 fun s p k i e =>
    match (k.dataQ (wIna e.word)).ents with
    | [] => State.bumpCore (s.setCore p (k.waitEmpty (wIna e.word))) p 0x2504 1
    | x :: _ =>
      if x.poison then s.haltWord p 8 e 0x0C (wIna e.word * 16)
      else
        match s.updTagWait p k.stageObj (64 * k.upd.stg) with
        | some w => (s.bumpCore p w 1).bumpCore p 0x2504 1
        | none => (s.setCore p (k.dropDq (wIna e.word) 1)).updGroup p i e ((unpackBits 32 32 x.data.toNat).map (BitVec.ofNat 32))

/-- upd_norm (R239). -/
def Upd.norm (u : Upd) (b : FeltBlk) (c : W32) : Upd :=
  if b.ovf then { u with normValid := false, normOvf := true }
  else
    let n := b.n.foldl (· + ·) 0
    let sq := toF32 (Fp.ofInt false n ((b.e : Int) - 151))
    let g := f32sqrt sq
    let off := b.nf || f32eq g 0 || !f32fin g || f32nan c || f32le c 0
    let q := f32div c g
    { u with normOvf := false, normNf := b.nf, gnorm := g, normValid := true
             scale := if off then 0x3F800000 else if f32lt q 0x3F800000 then q else 0x3F800000 }

/-- UPD.NORM (R198, R239). -/
def execUpdNorm (c : Nat) (s : State) : Out :=
  .next <| s.onCur c 8 3 fun s p k i e =>
    match k.headDq (wIna e.word) 3 with
    | none => s.setCore p (k.waitEmpty (wIna e.word))
    | some l =>
      if l.any DqEnt.poison then s.haltWord p 8 e 0x0C (wIna e.word * 16)
      else
        let b := feltOfBytes false ((l.flatMap fun x => bytesOf 128 x.data.toNat).take 260)
        let k := k.dropDq (wIna e.word) 3
        (s.setCore p { k with upd := k.upd.norm b (BitVec.ofNat 32 (wbits e.word 0 32)) }).finish p 8 i e

/-- UPD_CNT_CLR.ALL (ch. 08). -/
def execUpdCntClr (c : Nat) (s : State) : Out :=
  .next <| s.onCore c fun s p k => s.setCore p ((k.clearCounters 0x2500 0x251C).clearCounters 0x2524 0x2524)

/-! ### Version shadows (R230, R308) -/

/-- SHADOW_CFG.POOL. -/
def State.shadowPool (s : State) : Nat := (aget 0 s.regs 0x400200).toNat % 65536

/-- First-fit place of n granules in the pool (R308). -/
def State.shadowFit (s : State) (n : Nat) : Option Nat :=
  let size := (s.objEnt s.shadowPool).size
  let free (o : Nat) : Bool := !(s.obj.shadows.any fun h => decide (h.ofs < o + n ∧ o < h.ofs + h.size))
  (List.range (size + 1 - n)).find? free

/-- Copy the current version of an object from its backing copy into the pool, a valid T2 object of KIND 5 (R308), and move its pins (R230). -/
def State.makeShadow (s : State) (obj : Nat) : Option State :=
  let e := s.objEnt obj
  let pool := s.objEnt s.shadowPool
  if !pool.valid || pool.tier ≠ 1 || pool.kind ≠ 5 || 64 ≤ s.obj.shadows.length then none
  else
    match (if e.size ≤ pool.size then s.shadowFit e.size else none) with
    | none => none
    | some o =>
      let r := s.objRead e.backing 0 e.bytes
      let s := r.2.objWrite s.shadowPool (o * 65536) r.1
      let h : Shadow := { obj := obj, ver := e.version, ofs := o, size := e.size, pins := e.pincnt }
      some { s.setObj obj { e with pincnt := 0 } with obj := { (s.setObj obj { e with pincnt := 0 }).obj with shadows := s.obj.shadows ++ [h] } }

/-- Every shadow that a commit needs, or none (R230). -/
def State.makeShadows (s : State) (objs : List Nat) : Option State :=
  objs.foldl (fun (a : Option State) o => a.bind fun s => if (s.objEnt o).pincnt = 0 then some s else s.makeShadow o) (some s)

/-! ### Commit (R247, R248, R427) -/

/-- A stage run read back (R235). -/
structure StageRun where
  wobj : Nat
  mobj : Nat
  start : Nat
  n : Nat
  opt : Nat
  set : Nat
  mfmt : Nat
  lr : W32
  wd : W32
  /-- byte offset of its first group record -/
  at_ : Nat
  deriving DecidableEq, Repr

def parseRun (d : List Byte) (at_ : Nat) : StageRun :=
  let f (o n : Nat) : Nat := numOf ((d.drop o).take n)
  let b := f 12 1
  { wobj := f 0 2, mobj := f 2 2, start := f 4 4, n := f 8 4, opt := bitsOf b 0 3, set := bitsOf b 3 2, mfmt := bitsOf b 5 2
    lr := BitVec.ofNat 32 (f 16 4), wd := BitVec.ofNat 32 (f 20 4), at_ := at_ + 64 }

/-- The stage runs of a staging object from a byte offset up to `stop`, or up to a header with byte 63 not 0 (R427); `fuel` bounds them. -/
def State.stageRuns (s : State) (obj stop : Nat) : Nat → Nat → List StageRun
  | 0, _ => []
  | fuel + 1, ofs =>
    if stop ≤ ofs then []
    else
      let d := ((s.objRead obj ofs 64).1).map Prod.fst
      if d.getD 63 0 ≠ 0 then []
      else
        let r := parseRun d ofs
        r :: s.stageRuns obj stop fuel (ofs + 64 + r.n * grpBytes r.mfmt r.opt)

/-- CRC-32C of a log entry: what precedes the field, with the trailer's own bytes 0 to 11 (R427). -/
def logCrc (d : List Byte) : List Byte := bytesOf 4 (crc32c d).toNat

/-- The log header (R427). -/
def logHeader (step : Nat) : List Byte := [0x43, 0x4C, 0x4F, 0x47] ++ bytesOf 4 step ++ List.replicate 55 0 ++ [0xC1]

/-- A group entry (R427). -/
def logGroup (wobj q step : Nat) (w mom : List Byte) : List Byte :=
  let body := w ++ padTo (pad64 mom.length) mom ++ bytesOf 2 wobj ++ bytesOf 4 q ++ bytesOf 4 step ++ [0, 0]
  padTo (64 + pad64 mom.length + 64) (body ++ logCrc body)

/-- A version entry (R427). -/
def logVersion (wobj step ver : Nat) : List Byte :=
  let body := bytesOf 2 wobj ++ bytesOf 4 0xFFFFFFFF ++ bytesOf 4 step ++ bytesOf 2 ver
  padTo 64 (body ++ logCrc body)

/-- A write of a commit; one that is refused is not performed and is counted (R248). -/
def State.commitPut (s : State) (p obj ofs : Nat) (d : List Byte) : State :=
  match s.updWrite p obj ofs d with
  | some s => s
  | none => s.modCore p fun c => { c with upd := { c.upd with denied := true } }.bump 0x2524 1

/-- φ of a set (R243). -/
def Upd.phi (u : Upd) (k : Nat) : W32 :=
  let a := u.w2.getD k 0
  let b := u.u2.getD k 0
  if f32eq a 0 || f32eq b 0 then 0x3F800000 else f32div (f32sqrt a) (f32sqrt b)

/-- The new weights of group q of a run: 64 B (R240, R242); `wb`: the committed weights' bytes, `ub`: the directions. -/
def groupWeights (rne : Bool) (sq : Sequencer) (u : Upd) (r : StageRun) (q : Nat) (wb ub : List Byte) : List Byte :=
  let w := (unpackBits 16 32 (numOf wb)).map (widen 0x0)
  let us := (unpackBits 32 32 (numOf ub)).map (BitVec.ofNat 32)
  (List.range 32).flatMap fun i =>
    bytesOf 2 (roundWeight rne sq r.wobj (32 * q + i) (newWeight r.opt r.lr r.wd (u.phi r.set) (us.getD i 0) (w.getD i 0)))

/-- Where a commit's log goes on, and what has ended it: poison, or a read that its check refuses (reason, object, address). -/
structure CommitPos where
  log : Nat
  poison : Bool := false
  stop : Option (Nat × Nat × Nat) := none
  deriving DecidableEq, Repr

/-- The check of a commit's read (R298, R299): reason, object and address of one that is refused. -/
def State.commitRead (s : State) (p obj ofs n : Nat) : Option (Nat × Nat × Nat) :=
  (s.check (.core ((s.logical p).getD 0)) false false obj ofs n).map fun r => (r, obj, (s.objEnt obj).start + ofs)

/-- One group of a commit: log entry, backing copy, weight object, moment (R247, R427). The weights are those committed before the replay, of
which `s0` is the state: a later stage run of the same group overwrites an earlier one (R236). -/
def State.commitGroup (s : State) (s0 : State) (p stage : Nat) (r : StageRun) (n : Nat) (x : CommitPos) : State × CommitPos :=
  let q := r.start + n
  let at_ := r.at_ + n * grpBytes r.mfmt r.opt
  if x.poison || x.stop.isSome then (s, x)
  else
    match (s.commitRead p stage at_ (grpBytes r.mfmt r.opt)).or (s.commitRead p r.wobj (64 * q) 64) with
    | some y => (s, { x with stop := some y })
    | none =>
    let c := s.core p
    let sq := c.stepSeq
    let a := s.objRead stage at_ (grpBytes r.mfmt r.opt)
    let s := (a.2.objRead r.wobj (64 * q) 64).2
    let b := (s0.objRead r.wobj (64 * q) 64).1
    if a.1.any Prod.snd || b.any Prod.snd then (s, { x with poison := true })
    else
      let ab := a.1.map Prod.fst
      let mb := momBytes r.mfmt r.opt
      let mom := (ab.drop 128).take mb
      let w := groupWeights (s.rneInForce sq) sq c.upd r q (b.map Prod.fst) (ab.take 128)
      let ent := logGroup r.wobj q sq.step w mom
      let e := s.objEnt r.wobj
      let s := s.commitPut p stage x.log ent
      let s := if e.bpol ≠ 0 then s.commitPut p e.backing (64 * q) w else s
      let s := s.commitPut p r.wobj (64 * q) w
      let s := s.commitPut p r.mobj (mb * q) mom
      (s, { x with log := x.log + ent.length })

/-- The version of a touched object rises after its last write (R227, R247). -/
def State.commitVersion (s : State) (p stage obj : Nat) (x : CommitPos) : State × CommitPos :=
  let e := s.objEnt obj
  let v := (e.version + 1) % 65536
  let s := s.commitPut p stage x.log (logVersion obj (s.core p).stepSeq.step v)
  (s.setObj obj { s.objEnt obj with version := v }, { x with log := x.log + 64 })

/-- STEP.CLOSE of a core is told the outcome of its step: 1 committed, 2 skipped (R166, R246). -/
def Core.tellClose (c : Core) (o : Nat) : Core :=
  let f (q : Sequencer) : Sequencer := { q with cur := q.cur.map fun u => if u.sent then { u with outcome := some o } else u }
  if c.pre.contCommit then { c with pre := { c.pre with saved := c.pre.saved.map fun (x : CoreCtx) => { x with seq := f x.seq } } }
  else c.modSeq f

/-- The commit of a core begins: shadows, then the log's header (R230, R247, R427). While the pool is full it waits. -/
def State.beginCommit (s : State) (p : Nat) : State :=
  let c := s.core p
  match s.makeShadows c.upd.touched with
  | none => s.setCore p { c with upd := { c.upd with phase := .pinWait } }
  | some s =>
    let s := s.modCore p fun c => { c with upd := { c.upd with phase := .commit } }
    s.commitPut p c.stageObj (64 * c.upd.stg) (logHeader c.stepSeq.step)

/-- The replay of the stage runs (R247): the state with every write and version, and what ended it before that. -/
def State.replay (s : State) (p : Nat) : State × CommitPos :=
  let c := s.core p
  let stage := c.stageObj
  let runs := s.stageRuns stage (64 * c.upd.stg) c.upd.stg 0
  let r := runs.foldl (fun (a : State × CommitPos) r =>
    (List.range r.n).foldl (fun a n => a.1.commitGroup s p stage r n a.2) a) (s, { log := 64 * c.upd.stg + 64 })
  if r.2.poison || r.2.stop.isSome then r else c.upd.touched.foldl (fun (a : State × CommitPos) o => a.1.commitVersion p stage o a.2) r

/-! ### Commit recovery (R428) -/

def Core.rcmtObj (c : Core) : Nat := c.reg 0x4080 0 % 65536
def Core.rcmtStep (c : Core) : Nat := c.reg 0x4084 0

/-- RCMT_GO: a GO in another state sets ERR. -/
def execRcmtGo (c : Nat) (s : State) : Out :=
  .next <| s.onCore c fun s p k =>
    if k.seq.state = .stopped && k.upd.phase = .idle && !k.rcmt.running then
      s.setCore p { k with rcmt := { running := true } }
    else s.setCore p { k with rcmt := { k.rcmt with err := true } }

/-- Where the stage runs of a staging object end: the log header's offset. -/
def StageRun.endAt (r : StageRun) : Nat := r.at_ + r.n * grpBytes r.mfmt r.opt

/-- Group entries of a log, in order, as far as they match (R427): the moment sizes follow the runs' groups. -/
def State.logGroups (s : State) (obj step : Nat) : List (StageRun × Nat) → Nat → List (Nat × Nat × List Byte × List Byte) × Nat
  | [], ofs => ([], ofs)
  | (r, _q) :: t, ofs =>
    let ml := pad64 (momBytes r.mfmt r.opt)
    let len := 128 + ml
    let d := ((s.objRead obj ofs len).1).map Prod.fst
    let tr := d.drop (64 + ml)
    let ok := numOf ((tr.drop 6).take 4) = step && (tr.drop 12).take 4 = logCrc (d.take (64 + ml + 12))
    if !ok then ([], ofs)
    else
      let x := s.logGroups obj step t (ofs + len)
      ((numOf (tr.take 2), numOf ((tr.drop 2).take 4), d.take 64, (d.drop 64).take (momBytes r.mfmt r.opt)) :: x.1, x.2)

/-- Version entries of a log, as far as they match. -/
def State.logVersions (s : State) (obj step : Nat) : Nat → Nat → List (Nat × Nat)
  | 0, _ => []
  | fuel + 1, ofs =>
    let d := ((s.objRead obj ofs 64).1).map Prod.fst
    let ok := numOf ((d.drop 2).take 4) = 0xFFFFFFFF && numOf ((d.drop 6).take 4) = step && (d.drop 12).take 4 = logCrc (d.take 12)
    if !ok then [] else (numOf (d.take 2), numOf ((d.drop 10).take 2)) :: s.logVersions obj step fuel (ofs + 64)

/-- One group of a recovery: copied from its log entry, or computed from the backing copy as it was before the recovery, `s0` (R236, R428). -/
def State.rcmtGroup (s : State) (p stage : Nat) (sq : Sequencer) (ent : Option (Nat × Nat × List Byte × List Byte)) (r : StageRun) (q : Nat) (s0 : State) : State :=
  let n := q - r.start
  let e := s.objEnt r.wobj
  let mb := momBytes r.mfmt r.opt
  match ent with
  | some x =>
    let s := s.commitPut p e.backing (64 * q) x.2.2.1
    let s := s.commitPut p r.mobj (mb * q) x.2.2.2
    s.modCore p fun c => { c with rcmt := { c.rcmt with groups := c.rcmt.groups + 1 } }
  | none =>
    let a := s.objRead stage (r.at_ + n * grpBytes r.mfmt r.opt) (grpBytes r.mfmt r.opt)
    let s := (a.2.objRead e.backing (64 * q) 64).2
    let b := (s0.objRead e.backing (64 * q) 64).1
    let ab := a.1.map Prod.fst
    let w := groupWeights (s.rneInForce sq) sq (s.core p).upd r q (b.map Prod.fst) (ab.take 128)
    let s := s.commitPut p e.backing (64 * q) w
    s.commitPut p r.mobj (mb * q) ((ab.drop 128).take mb)

end Sys2Proof.Machine
end

