-- ==== Sys2Proof/Machine/Exchange.lean ====
section
/-! DEFINITION. The exchange unit: puts, links of handle queues with credits, mailboxes, Felt blocks, and the deliveries of its messages (R199, R202,
R281 to R288, R347, R350, R430). -/

namespace Sys2Proof.Machine

/-! ### Fields (R199) -/

def xOp (w : CWord) : Nat := wOp w
/-- DCORE and DDEV of EX.PUT and EX.MAIL. -/
def xDcore (w : CWord) : Nat := if wOp w = 2 then wbits w 58 10 else wbits w 62 10
def xDdev (w : CWord) : Nat := if wOp w = 2 then wbits w 50 8 else wbits w 54 8
/-- HQ of EX.HBIND, HIN of EX.HFWD. -/
def xHq (w : CWord) : Nat := wbits w 69 3
def xDir (w : CWord) : Bool := wbit w 68
def xRhq (w : CWord) : Nat := wbits w 47 3
def xHout (w : CWord) : Nat := wbits w 66 3
def xTokH (w : CWord) : Nat := wbits w 62 4
def xFwdLen (w : CWord) : Nat := (wbits w 46 16 + 1) * 64
def xRet (w : CWord) : Bool := wbit w 39
/-- The barrier that a delivery names. -/
def xDbar (w : CWord) : Option Nat :=
  if wOp w = 1 then (if wbit w 46 then some (wbits w 47 5) else none) else (if wbit w 40 then some (wbits w 41 5) else none)
def xTag (w : CWord) : Nat := wbits w 42 4
def xCdesc (w : CWord) : Nat := wbits w 64 8

/-! ### Collective descriptors, as far as exchange words read them (R355) -/

/-- Bytes of descriptor c. -/
def State.descBytes (s : State) (c : Nat) : List Byte := (List.range 16).flatMap fun w => bytesOf 4 (aget 0 s.regs (0x344000 + 64 * c + 4 * w)).toNat
/-- A field of descriptor c: n bytes from an offset. -/
def State.descField (s : State) (c ofs n : Nat) : Nat := numOf (((s.descBytes c).drop ofs).take n)
def State.dKind (s : State) (c : Nat) : Nat := bitsOf (s.descField c 0 1) 0 3
def State.dCfirst (s : State) (c : Nat) : Nat := s.descField c 4 2
def State.dCnum (s : State) (c : Nat) : Nat := s.descField c 6 2
def State.collStat (s : State) (c : Nat) : CollStat := aget {} s.dstat c
/-- The running instance of a descriptor, with its slot (R352). -/
def State.collOf (s : State) (c : Nat) : Option (Nat × CollInst) := (s.colls.find? fun x => x.2.c = c)

/-! ### Starting (R178, R281, R283, R353) -/

/-- UNIT_ABSENT information for a logical core. -/
def absentCore (n : Nat) : Nat := 4 + n * 2 ^ 16

/-- A core that an exchange word names is absent (R178); the cores of another device are checked there. -/
def State.coreAbsent (s : State) (w : CWord) : Bool :=
  let d := xDcore w
  if d = 0x3FF then wOp w ≠ 4 else s.isLocalDev (xDdev w) && (s.phys d).isNone

/-- The multicast group whose sending end is a queue of a logical core (R346). -/
def State.mcGroup (s : State) (l hq : Nat) : Option Nat :=
  (List.range 16).find? fun g =>
    let b := 0x300200 + 32 * g
    let src := (aget 0 s.regs (b + 0x10)).toNat
    ((aget 0 s.regs b).toNat ≠ 0 || (aget 0 s.regs (b + 4)).toNat ≠ 0) && bitsOf src 0 10 = l && bitsOf src 10 3 = hq

/-- RETAIN of a sending end. -/
def Core.hqRetain (c : Core) (h : Nat) : Nat := bitsOf (c.hqCfg h) 18 5

/-- Handles that an EX.HBIND of a receiving end reserves: the head of the free list, with what the queue's old link held. -/
def Core.reserveFor (c : Core) (q : Nat) : Option (List Nat × Core) :=
  let pool := bitsOf (c.hqCfg q) 7 4
  let old := (c.handleQ q).recv.elim [] RecvEnd.reserved
  let free := c.freeList pool ++ old
  let n := c.hqCredits q
  if free.length < n then none else some (free.take n, { c with pools := aset c.pools pool (free.drop n) })

/-- A started EX.HBIND has still to make a queue a sending end (R281, R283). -/
def Core.bindsEarlier (c : Core) (q : Nat) : Bool :=
  (c.words 9).any fun x => x.started && !x.fin && wOp x.word = 2 && !xDir x.word && xHq x.word = q

/-- The start of an exchange word. -/
def State.startExch (s : State) (p : Nat) (e : Cqe) : Start :=
  let c := s.core p
  let w := e.word
  let op := wOp w
  let halt (r info : Nat) : Start := .stop (s.haltWord p 9 e r info)
  let ill := Start.stop (s.haltIllegal p 9 e)
  if 8 ≤ ((c.words 9).filter Cqe.started).length then .wait s
  else if (op = 1 || op = 2 || op = 4) && s.coreAbsent w then halt 0x04 (absentCore (xDcore w))
  else if op = 7 then
    let d := xCdesc w
    let l := (s.logical p).getD 0x3FF
    if c.pre.frame.isSome || l < s.dCfirst d || s.dCfirst d + s.dCnum d ≤ l then ill
    else if (s.collOf d).isSome then .wait s
    else if s.dKind d = 3 then
      match c.roles 9 [wIna w] [wOut w] [] [] with
      | some info => halt 0x05 info
      | none => .go s { e with vals := [1] }
    else .go s { e with vals := [0] }
  else
    let role := match op with
      | 2 => c.hpushRole (xHq w) 9
      | 3 => (c.hpopRole (xHq w) 9).or ((c.hpushRole (xHout w) 9).or
          (if (c.handleQ (xHout w)).send.isSome || c.bindsEarlier (xHout w) then none else some (roleInfo (xHout w) true 9 3)))
      | 4 => c.roles 9 [wIna w] [] [] []
      | 5 => c.roles 9 [] [wOut w] [] []
      | 6 | 0x40 => c.roles 9 [wIna w] [wOut w] [] []
      | _ => none
    match role with
    | some info => halt 0x05 info
    | none =>
      if op = 2 && !xDir w && !(c.handleQ (xHq w)).ents.isEmpty then halt 0x05 (roleInfo (xHq w) true 9 2)
      else if op = 2 && xDir w && (c.reserveFor (xHq w)).isNone then .wait (s.bumpCore p 0x3A9C 1)
      else if op = 3 then
        match s.mcGroup ((s.logical p).getD 0x3FF) (xHout w) with
        | some g =>
          let k := c.hqRetain (xHout w)
          if ((aget ({} : McSend) s.mcs g).mseq = 0) && (k < 2 || 16 < k) then ill else .go s e
        | none => .go s e
      else .go s e

/-! ### Local queues of executing words (R281) -/

/-- Queues, handle queues marked, that a word has still to pop; an EX.HFWD may have popped the handle that it sends next (R283). -/
def exchPops (e : Cqe) : List (Bool × Nat) :=
  match wOp e.word with
  | 3 => if e.n + (if e.vals.isEmpty then 0 else 1) ≤ wRep e.word then [(true, xHq e.word)] else []
  | 4 => if e.n = 0 then [(false, wIna e.word)] else []
  | 6 | 0x40 => [(false, wIna e.word)]
  | 7 => if e.vals.getD 0 0 = 1 && e.n = 0 then [(false, wIna e.word)] else []
  | _ => []

/-- Queues that a word has still to push, or a sending end it has still to send by. -/
def exchPushes (e : Cqe) : List (Bool × Nat) :=
  match wOp e.word with
  | 2 => [(true, xHq e.word)]
  | 3 => if e.n ≤ wRep e.word then [(true, xHout e.word)] else []
  | 5 | 6 | 0x40 => [(false, wOut e.word)]
  | 7 => if e.vals.getD 0 0 = 1 then [(false, wOut e.word)] else []
  | _ => []

/-- An earlier executing word has still to use one of a word's queues, as `uses` gives them. -/
def Core.exchAhead (c : Core) (i : Nat) (e : Cqe) (uses : Cqe → List (Bool × Nat)) : Bool :=
  ((c.words 9).take i).any fun x => x.started && !x.fin && (uses x).any fun q => (uses e).contains q

/-- An earlier executing word has still to use a queue that word i uses. -/
def Core.exchBlocked (c : Core) (i : Nat) (e : Cqe) : Bool := c.exchAhead i e exchPops || c.exchAhead i e exchPushes

/-! ### EX.PUT (R282) -/

/-- The parts of at most 4 KiB of n bytes: offset and length. -/
def parts4k (n : Nat) : List (Nat × Nat) := (List.range ((n + 4095) / 4096)).map fun i => (4096 * i, min 4096 (n - 4096 * i))

/-- EX.PUT: the granules leave for a core of this device, or as WRITE packets. -/
def execExPut (c i : Nat) (s : State) : Out :=
  .next <| s.onWord c 9 1 i fun s p _ e =>
    let w := e.word
    let sp := wbits w 53 1
    let dsp := wbits w 52 1
    let sa := wbits w 239 17 * 64
    let da := wbits w 222 17 * 64
    let n := (wbits w 206 16 + 1) * 64
    let dc := xDcore w
    if e.n ≠ 0 then s
    else if spaceSize sp < sa + n then s.freezeAt p 9 frzOut 0xFFFF (s.localAddr p sp sa)
    else if spaceSize dsp < da + n then s.freezeAt p 9 frzOut 0xFFFF (if dsp = 0 then da else dc * 0x800000 + da)
    else
      let r := s.localRead p sp sa n
      if r.2 then s.haltWord p 9 e 0x0C (2 + sp)
      else if s.isLocalDev (xDdev w) then
        (s.putWord p 9 i { e with n := 1, segs := 1 }).send (.put p e.seqno dc dsp da r.1 (xDbar w))
      else
        let ps := parts4k n
        let s := s.putWord p 9 i { e with n := 1, segs := ps.length }
        let out : RemOut := { dev := xDdev w, core := dc, word := e.seqno, hq := none, h := 0, ret := false }
        let s := s.modCore p fun k => { k with rem := k.rem ++ List.replicate ps.length out }
        ps.foldl (fun s x =>
          let last := x.1 + x.2 = n
          let h := { s.hdr 2 (xDdev w) c dc x.2 with
            obj := if dsp = 0 then 0xFFFF else 0xFFFE
            addr := da + x.1
            dbar := (xDbar w).getD 0
            dbarEn := last && (xDbar w).isSome }
          s.hxSend h (.data ((r.1.drop x.1).take x.2))) s

/-! ### Deliveries (R150, R282 to R285, R430) -/

/-- Deliveries to the core are held (R430): a preemption has captured its state. Those of the same frame run go to the frame program (log 47). -/
def State.holds (s : State) (p : Nat) (src : Option Nat) : Bool :=
  let c := s.core p
  c.pre.saved.isSome && !(c.pre.phase = .saved && c.pre.frame.isSome && src.any fun q => (s.core q).pre.frame = c.pre.frame)

/-- Hold a delivery, counted. -/
def State.hold (s : State) (p : Nat) (h : Held) : State :=
  (s.modCore p fun c => { c with pre := { c.pre with held := c.pre.held ++ [h] } }).bumpCore p 0x4054 1

/-- A barrier increment of a delivery (R150, R151). -/
def State.deliverBar (s : State) (p : Nat) (src : Option Nat) (dbar : Option Nat) : State :=
  match dbar with
  | none => s
  | some b =>
    if s.holds p src then s.hold p (.barrier b 1)
    else s.signal p b 1 { pc := (s.core p).seq.pc, unit := 9 }

/-- A delivery to a core that is fenced or absent is acknowledged and discarded (R421). -/
def State.dropDelivery (s : State) (l : Nat) : State :=
  match afind s.lmap l with
  | some e => s.bumpCore e.phys 0x404C 1
  | none => s

/-- Take a message off the mesh. -/
def State.unsend (s : State) (k : Nat) : State := { s with mesh := s.mesh.eraseIdx k }

/-- A core in a core reset accepts no message (R30): it stays on the mesh. -/
def State.resetting (s : State) (l : Nat) : Bool := (s.phys l).any s.inReset

/-- A put writes the destination's scratchpad or slice; a guarded object of T1 there has its write generation raised before and after (R277). -/
def State.putLocal (s : State) (p space addr : Nat) (data : List Byte) : State :=
  let o := if space = 0 then none else s.findObj (s.localAddr p 1 addr)
  let gen (s : State) : State := match o with
    | some o => s.bumpGen o
    | none => s
  gen ((gen s).localWrite p space addr data false)

/-- PUT_DELIVERY (R282). -/
def execPutDelivery (k : Nat) (s : State) : Out :=
  .next <|
    match s.mesh[k]? with
    | some (.put src word dst space addr data dbar) =>
      if !s.inOrder k || s.resetting dst then s
      else
        let s := (s.unsend k).send (.ack dst src word none 0 false)
        match s.phys dst with
        | none => s.dropDelivery dst
        | some p => (s.putLocal p space addr data).deliverBar p (some src) dbar
    | _ => s

/-- The core with its saved context in place, changed, and put back (R430). -/
def Core.onSaved (c : Core) (f : Core → Core) : Core :=
  match c.pre.saved with
  | none => f c
  | some x =>
    let d := f { c with toCoreCtx := x }
    { d with toCoreCtx := c.toCoreCtx, pre := { d.pre with saved := some d.toCoreCtx } }

/-- The core whose context a delivery meets. -/
def State.meets (s : State) (p : Nat) (src : Option Nat) : Core :=
  let c := s.core p
  if s.holds p src then (match c.pre.saved with
    | some x => { c with toCoreCtx := x }
    | none => c)
  else c

/-- What a delivery to a receiving end answers. -/
inductive Landing where
  | done (s : State)
  | outside (addr : Nat)

/-- The handle that a part of a buffer goes to: the one being received, or a reserved one that the first part allocates (R264, R283). -/
def Core.landing (c : Core) (r : RecvEnd) (ofs : Nat) : Option (Nat × Bool × List Nat) :=
  match r.part, r.reserved with
  | some (h, drop), t => some (h, drop, t)
  | none, i :: t => if ofs = 0 then some (i + 256 * (((c.btEnt i).tag + 1) % 256), false, t) else none
  | none, [] => none

/-- The receiving end after a part: between its first and last part the handle is in flight (R266). -/
def Core.landed (c : Core) (rhq h : Nat) (r : RecvEnd) (t : List Nat) (last : Bool) (ent : Option HqEnt) : Core :=
  let i := hIdx h
  let c := c.setBt i { c.btEnt i with tag := hTag h }
  let x := c.handleQ rhq
  let c := c.setHandleQ rhq { x with recv := some { r with reserved := t, part := if last then none else some (h, false) }
                                     ents := x.ents ++ ent.toList }
  { c with inflight := if ent.isSome then erase1 c.inflight i else if c.inflight.contains i then c.inflight else c.inflight ++ [i] }

/-- A buffer, or a part of it at an offset, reaches a receiving end (R283): the first reserved handle's buffer is written; the last part pushes the
handle, which is held while the core is preempted (R430); `pz`: its 64-byte pieces with poison (R26). The parts of a buffer that a RESTART met are dropped, and the last returns its handle
(R268). Where the queue has no receiving end or no reserved handle it is discarded (log 48). -/
def State.landHandle (s : State) (p : Nat) (src : Option Nat) (rhq epoch ofs : Nat) (data : List Byte) (pz : List Nat) (last : Bool) (dbar : Option Nat) : Landing :=
  let c := s.meets p src
  let hold := s.holds p src
  let put (s : State) (f : Core → Core) : State := s.modCore p fun c => if hold then c.onSaved f else f c
  match (c.handleQ rhq).recv with
  | none => .done s
  | some r =>
    match c.landing r ofs with
    | none => .done s
    | some (h, true, _) =>
      if !last then .done s
      else
        let s := put s fun c => let x := c.handleQ rhq; c.setHandleQ rhq { x with recv := some { r with part := none } }
        .done (s.release p h)
    | some (h, false, t) =>
      let b := c.btEnt (hIdx h)
      let base := b.base * 64
      if (b.size + 1) * 64 < ofs + data.length || spaceSize b.space < base + ofs + data.length then .outside (s.localAddr p b.space (base + ofs))
      else
        let s := (s.localWrite p b.space (base + ofs) data false).localPoison p b.space (base + ofs) pz
        if !last then .done (put s fun c => c.landed rhq h r t false none)
        else
          let tok := s.free
          let ent : HqEnt := { h := h, epoch := epoch, tok := tok.1.toNat % 65536 }
          let s := put tok.2 fun c => c.landed rhq h r t true (if hold then none else some ent)
          let s := if hold then s.hold p (.handle rhq ent) else s
          .done (s.deliverBar p src dbar)

/-- HANDLE_DELIVERY (R283). -/
def execHandleDelivery (k : Nat) (s : State) : Out :=
  .next <|
    match s.mesh[k]? with
    | some (.handle src word shq h ret dst rhq epoch data dbar) =>
      if !s.inOrder k || s.resetting dst then s
      else
        let s := s.unsend k
        match s.phys dst with
        | none => (s.dropDelivery dst).send (.ack dst src word (some shq) h ret)
        | some p =>
          match s.landHandle p (some src) rhq epoch 0 data [] true dbar with
          | .done s => s.send (.ack dst src word (some shq) h ret)
          | .outside a => s.freezeAt src 9 frzOut 0xFFFF a
    | _ => s

/-- An exchange word counts an acknowledgement: it ends with the last (R282, R329). -/
def Core.exchAcked (c : Core) (word : Nat) : Core :=
  c.setWords 9 ((c.words 9).map fun e =>
    if e.started && !e.fin && e.seqno = word then
      let left := e.segs - 1
      let sent := if wOp e.word = 3 then wRep e.word < e.n else e.n ≠ 0
      { e with segs := left, fin := left = 0 && sent }
    else e)

/-- The handle of an acknowledged delivery (R285, R268): released, or retained while the list has room. -/
def State.handleAcked (s : State) (p word q h : Nat) (ret : Bool) : State :=
  let c := s.core p
  let i := hIdx h
  if !c.transit.contains i then s
  else
    let alive := (c.words 9).any fun e => e.started && e.seqno = word
    match (c.handleQ q).send with
    | some e =>
      if ret || !alive then s.release p h
      else
        let x := c.handleQ q
        let kept := e.retained ++ [h]
        let excess := kept.length - c.hqRetain q
        let c := c.setHandleQ q { x with send := some { e with retained := kept.drop excess } }
        let c := { c with transit := erase1 c.transit i, heldH := c.heldH ++ [i] }
        (kept.take excess).foldl (fun s o => s.release p o) (s.setCore p c)
    | none => s.release p h

/-- An acknowledgement reaches a core. -/
def State.takeAck (s : State) (p word : Nat) (hq : Option Nat) (h : Nat) (ret : Bool) : State :=
  let s := match hq with
    | some q => s.handleAcked p word q h ret
    | none => s
  s.modCore p fun c => c.exchAcked word

/-- EXCH_ACK (R282, R285). -/
def execExchAck (k : Nat) (s : State) : Out :=
  .next <|
    match s.mesh[k]? with
    | some (.ack _ dest word hq h ret) => if s.inOrder k && !s.inReset dest then (s.unsend k).takeAck dest word hq h ret else s
    | _ => s

/-- Credits reach a sending end (R284); held while the core is preempted. -/
def State.takeCredit (s : State) (p hq n : Nat) : State :=
  if s.holds p none then s.hold p (.credit hq n)
  else s.modCore p fun c =>
    let x := c.handleQ hq
    match x.send with
    | some e => c.setHandleQ hq { x with send := some { e with credits := e.credits + n } }
    | none => c.setHandleQ hq { x with early := x.early + n }

/-- The value of an ACK packet's ADDR that returns n credits (log 11). -/
def ackCredits (n : Nat) : Nat := n

/-- CREDIT_RETURN (R284): credits for a queue that is not yet bound as a sending end wait for its EX.HBIND (log 48). -/
def execCreditReturn (k : Nat) (s : State) : Out :=
  .next <|
    match s.mesh[k]? with
    | some (.credit _ dest hq n) =>
      if !s.inOrder k || s.inReset dest then s
      else (s.unsend k).takeCredit dest hq n
    | some (.rcredit src dev core hq n) =>
      if !s.inOrder k then s
      else
      let s := s.unsend k
      s.hxSend { s.hdr 6 dev ((s.logical src).getD 0) core 0 with addr := ackCredits n, rhq := hq } (.data [])
    | _ => s

/-! ### EX.HBIND and EX.HFWD (R283, R346, R347) -/

/-- EX.HBIND. -/
def execExHbind (c i : Nat) (s : State) : Out :=
  .next <| s.onWord c 9 2 i fun s p k e =>
    let w := e.word
    let q := xHq w
    let x := k.handleQ q
    if k.exchBlocked i e then s
    else if xDir w then
      match k.reserveFor q with
      | none => s
      | some (l, k) =>
        let order := k.hq.foldl (fun n y => match y.2.recv with
          | some r => max n (r.order + 1)
          | none => n) 0
        let r : RecvEnd := { core := xDcore w, dev := xDdev w, rhq := xRhq w, c := l.length, pool := bitsOf (k.hqCfg q) 7 4, reserved := l, order := order }
        ((s.setCore p (k.setHandleQ q { x with recv := some r })).sendCredit p q l.length).finish p 9 i e
    else
      let r : SendEnd := { core := xDcore w, dev := xDdev w, rhq := xRhq w, credits := x.early, retained := [] }
      let s := s.setCore p (k.setHandleQ q { x with send := some r, early := 0 })
      let s := match s.mcGroup c q with
        | some g =>
          -- credits of members that bound before the source stay (log 48)
          let m := aget ({} : McSend) s.mcs g
          { s with mcs := aset s.mcs g { cred := if m.mseq = 0 then m.cred else [] } }
        | none => s
      s.finish p 9 i e

/-- Members of a multicast group that are not pruned. -/
def State.mcMembers (s : State) (g : Nat) : List Nat :=
  let b := 0x300200 + 32 * g
  let m := (aget 0 s.regs b).toNat + (aget 0 s.regs (b + 4)).toNat * 2 ^ 32
  let pr := (aget 0 s.regs (b + 8)).toNat + (aget 0 s.regs (b + 12)).toNat * 2 ^ 32
  (maskList 64 m).filter fun d => !bitAt pr d

/-- A member does not hold the sender back (R347): it has a credit, and has acknowledged buffer n − K. -/
def McSend.free (x : McSend) (k d : Nat) : Bool := 1 ≤ aget 0 x.cred d && x.mseq + 1 ≤ aget 0 x.acked d + k

/-- The header of one part of a buffer: on a part that is not the last, bit 51 of ADDR is set (log 11). -/
def partAddr (x : Nat × Nat) (n : Nat) : Nat := if x.1 + x.2 = n then x.1 else x.1 + 2 ^ 51

/-- Send a buffer to another device as HDELIV packets; `pz`: its 64-byte pieces with poison (R26). -/
def State.sendBuffer (s : State) (h : PktHdr) (data : List Byte) (dbar : Option Nat) (pz : List Nat := []) : State :=
  (parts4k data.length).foldl (fun s x =>
    let last := x.1 + x.2 = data.length
    let b := (data.drop x.1).take x.2
    let h := { h with plen := (x.2 + 63) / 64, lastB := (x.2 - 1) % 64, addr := partAddr x data.length
                      dbar := dbar.getD 0, dbarEn := last && dbar.isSome
                      pz := (pz.filter fun i => x.1 ≤ 64 * i && 64 * i < x.1 + x.2).map (· - x.1 / 64) }
    s.hxSend h (.data b)) s

/-- First-hop ports of members: one copy goes out by each, addressed to the device there (R346; log 49). -/
def State.mcPorts (s : State) (h : PktHdr) (l : List Nat) : List Nat :=
  (l.filterMap fun d => s.routePort { h with dstDev := d }).foldl sins []

/-- Send a buffer to the members of a multicast group behind first-hop ports. -/
def State.mcBuffer (s : State) (h : PktHdr) (l : List Nat) (data : List Byte) (dbar : Option Nat) : State :=
  (s.mcPorts h l).foldl (fun s p => s.sendBuffer { h with dstDev := (s.port p).peerDev, mc := true } data dbar) s

/-- The remote send that an EX.HFWD waits for: a device, or multicast group g as 0x100 + g. -/
def State.noteRemote (s : State) (p : Nat) (e : Cqe) (dev core q h : Nat) : State :=
  s.modCore p fun k => { k with rem := k.rem ++ [({ dev := dev, core := core, word := e.seqno, hq := some q, h := h, ret := xRet e.word } : RemOut)] }

/-- The popped handle of an EX.HFWD is in transit: its buffer has been sent. -/
def State.handleSent (s : State) (p i : Nat) (e : Cqe) (h : Nat) : State :=
  (s.modCore p fun k => { k with heldH := erase1 k.heldH (hIdx h), transit := k.transit ++ [hIdx h] }).putWord p 9 i
    { e with n := e.n + 1, segs := e.segs + 1, vals := [] }

/-- EX.HFWD of word i sends the buffer of the handle it has popped, once it has a credit, of every member in a multicast (R283, R347). -/
def State.hfwdSend (s : State) (c p i : Nat) (e : Cqe) (end_ : SendEnd) (h epoch : Nat) : State :=
  let k := s.core p
  let w := e.word
  let q := xHout w
  let b := k.buffer h
  let n := xFwdLen w
  if b.2.2 < n || spaceSize b.1 < b.2.1 + n then s.freezeAt p 9 frzOut 0xFFFF (s.localAddr p b.1 b.2.1)
  else
    let r := s.localRead p b.1 b.2.1 n
    match s.mcGroup c q with
    | some g =>
      let m := aget ({} : McSend) s.mcs g
      let l := s.mcMembers g
      if !(l.all fun d => m.free (k.hqRetain q) d) then { s with mcs := aset s.mcs g { m with waits := true } }.bumpCore p 0x3A98 1
      else if r.2 then s.haltWord p 9 e 0x0C (2 + b.1)
      else
        let m' : McSend := { m with mseq := m.mseq + 1, waits := false, kept := m.kept ++ [(m.mseq, h)]
                                    cred := m.cred.map fun y => if l.contains y.1 then (y.1, y.2 - 1) else y }
        let s := (State.handleSent { s with mcs := aset s.mcs g m' } p i e h).noteRemote p e (0x100 + g) m.mseq q h
        let hd := { s.hdr 3 0 c c 0 with rhq := end_.rhq, ret := xRet w, hepoch := epoch, mseq := m.mseq % 65536, mgrp := g }
        s.mcBuffer hd l r.1 (xDbar w)
    | none =>
      if end_.credits = 0 then s.bumpCore p 0x3A98 1
      else if r.2 then s.haltWord p 9 e 0x0C (2 + b.1)
      else
        let y := k.handleQ q
        let s := (s.setCore p (k.setHandleQ q { y with send := some { end_ with credits := end_.credits - 1 } })).handleSent p i e h
        if s.isLocalDev end_.dev then s.send (.handle p e.seqno q h (xRet w) end_.core end_.rhq epoch r.1 (xDbar w))
        else
          (s.noteRemote p e end_.dev end_.core q h).sendBuffer
            { s.hdr 3 end_.dev c end_.core 0 with rhq := end_.rhq, ret := xRet w, hepoch := epoch } r.1 (xDbar w)

/-- EX.HFWD: one buffer. The handle is popped before the wait for a credit (R283), and is held by the word, which keeps it with its epoch. -/
def execExHfwd (c i : Nat) (s : State) : Out :=
  .next <| s.onWord c 9 3 i fun s p k e =>
    match (k.handleQ (xHout e.word)).send, e.vals with
    | none, _ => s
    | some end_, h :: ep :: _ => if k.exchAhead i e exchPushes then s else s.hfwdSend c p i e end_ h ep
    | some end_, _ =>
      if wRep e.word < e.n || k.exchAhead i e exchPops then s
      else
        match k.headHandle (xHq e.word) 9 e.seqno (if e.n = 0 then xTokH e.word else 0) with
        | .empty => s.setCore p (k.emptyPop (xHq e.word))
        | .bad r info => s.haltWord p 9 e r info
        | .ok x =>
          let e := { e with vals := [x.h, x.epoch] }
          let k := k.popHandle (xHq e.word)
          let s := (s.setCore p k).putWord p 9 i e
          if k.exchAhead i e exchPushes then s else s.hfwdSend c p i e end_ x.h x.epoch

/-! ### Mailboxes (R287, R288, R350) -/

/-- Pop n entries of INA for an exchange word: none while they are missing, an error for poison. -/
def Core.exchTake (c : Core) (q n : Nat) : Option (Except Nat (List DqEnt × Core)) :=
  match c.headDq q n with
  | none => none
  | some l => if l.any DqEnt.poison then some (.error (q * 16)) else some (.ok (l, c.dropDq q n))

/-- Bytes of entries. -/
def entsBytes (l : List DqEnt) : List Byte := l.flatMap fun x => bytesOf 128 x.data.toNat

/-- Destination mailbox of an EX.MAIL. -/
def mailBox (w : CWord) : Nat × Nat := (xDdev w, xDcore w)

/-- EX.MAIL: the message leaves, after the earlier messages to the same mailbox have been accepted. -/
def execExMail (c i : Nat) (s : State) : Out :=
  .next <| s.onWord c 9 4 i fun s p k e =>
    let w := e.word
    let n := wbits w 46 8 + 1
    let earlier := ((k.words 9).take i).any fun x => x.started && !x.fin && wOp x.word = 4 && mailBox x.word = mailBox w
    if e.n ≠ 0 || earlier || k.exchBlocked i e then s
    else
      match k.exchTake (wIna w) (if 128 < n then 2 else 1) with
      | none => s.setCore p (k.waitEmpty (wIna w))
      | some (.error info) => s.haltWord p 9 e 0x0C info
      | some (.ok (l, k)) =>
        let d := (entsBytes l).take n
        let s := (s.setCore p k).putWord p 9 i { e with n := 1, segs := 1 }
        if s.isLocalDev (xDdev w) then s.send (.mail p e.seqno (xDcore w) (xTag w) c d false)
        else
          (s.send (.rmail p e.seqno (xDdev w) (xDcore w) (xTag w) d false)).hxSend (s.hdr 1 (xDdev w) c (xDcore w) n) (.mail (xTag w) d)

/-- A mailbox takes a message while it has room (R287). -/
def State.mailTo (s : State) (p : Nat) (m : MbxMsg) : Option State :=
  let c := s.core p
  if 16 ≤ c.mbx.length then none else some (s.setCore p { c with mbx := c.mbx ++ [m] })

/-- A Voile message on this device arrives: accepted, or refused until its retry (R287). Messages to the collective engine are taken (log 50). -/
def State.mailArrive (s : State) (k : Nat) : State :=
  match s.mesh[k]? with
  | some (.mail src word dst tag sc data refused) =>
    if refused || !s.inOrder k || s.resetting dst then s
    else
      let ok (s : State) : State := (s.unsend k).takeAck src word none 0 false
      if dst = 0x3FF then ok s
      else
        match s.phys dst with
        | none => ok (s.dropDelivery dst)
        | some p =>
          match s.mailTo p { srcCore := sc, srcDev := s.devId, tag := tag, data := data } with
          | some s => ok s
          | none => { s with mesh := s.mesh.set k (.mail src word dst tag sc data true) }
  | _ => s

/-- MAILBOX_RETRY (R287): the refused message is sent again. -/
def execMailboxRetry (k : Nat) (s : State) : Out :=
  .next <|
    match s.mesh[k]? with
    | some (.mail src word dst tag sc data true) =>
      { s with mesh := s.mesh.set k (.mail src word dst tag sc data false) }.bumpCore src 0x3A94 1
    | _ => s

/-- VOILE_REMOTE_RETRY (R350): the message that another device refused is sent again. -/
def execVoileRemoteRetry (k : Nat) (s : State) : Out :=
  .next <|
    match s.mesh[k]? with
    | some (.rmail src word dev dst tag data true) =>
      let s := State.bumpCore { s with mesh := s.mesh.set k (.rmail src word dev dst tag data false) } src 0x3A94 1
      s.hxSend (s.hdr 1 dev ((s.logical src).getD 0) dst data.length) (.mail tag data)
    | _ => s

/-- EX.MRECV (R288). -/
def execExMrecv (c i : Nat) (s : State) : Out :=
  .next <| s.onWord c 9 5 i fun s p k e =>
    let w := e.word
    let hit := k.mbx.zipIdx.find? fun x => wbit w 41 || x.1.tag = xTag w
    if k.exchBlocked i e then s
    else
      match hit with
      | none => s
      | some (m, j) =>
        let d := entriesOf m.data
        if !k.dqRoom (wOut w) d.length then s.setCore p (k.waitFull (wOut w))
        else
          let k := { k with mbx := k.mbx.eraseIdx j }
          (s.setCore p (k.pushDq (wOut w) (d.map fun x => { data := x, tok := e.seqno }))).finish p 9 i e

/-! ### EX.FELT and GCONV (R199, R202) -/

/-- E of an EX.FELT. -/
def State.feltE (s : State) (w : CWord) : Nat :=
  if !wbit w 70 then wbits w 62 8
  else
    let d := wbits w 54 8
    let x := s.collStat d
    if x.emaxV then x.emax else s.descField d 1 1

/-- Quantise one group of 64 FP32 values of INA into a block for OUT. -/
def State.feltStep (s : State) (p i : Nat) (k : Core) (e : Cqe) (w16 : Bool) (ex : Nat) (plain : Bool) : State :=
  let w := e.word
  let n := if w16 then 2 else 3
  if k.exchBlocked i e then s
  else if !k.dqRoom (wOut w) n then s.setCore p (k.waitFull (wOut w))
  else
    match k.exchTake (wIna w) 2 with
    | none => s.setCore p (k.waitEmpty (wIna w))
    | some (.error info) => s.haltWord p 9 e 0x0C info
    | some (.ok (l, k)) =>
      let v := (unpackBits 32 64 (numOf (entsBytes l))).map fun x => f32 (BitVec.ofNat 32 x)
      let b := feltQuantise v ex w16
      let b := if plain then { b with count := 0, nf := false, ovf := false, extra := 0 } else b
      let k := k.pushDq (wOut w) ((entriesOf (feltBytes w16 b)).map fun x => { data := x, tok := e.seqno })
      (s.setCore p k).putWord p 9 i { e with n := e.n + 1, fin := e.n = wRep w }

/-- EX.FELT (R199). -/
def execExFelt (c i : Nat) (s : State) : Out :=
  .next <| s.onWord c 9 6 i fun s p k e => s.feltStep p i k e (wbit e.word 71) (s.feltE e.word) false

/-- GCONV (R202). -/
def execGconv (c i : Nat) (s : State) : Out :=
  .next <| s.onWord c 9 0x40 i fun s p k e => s.feltStep p i k e true (wbits e.word 62 8) true

/-- STR_CNT_CLR.ALL (ch. 09). -/
def execStrCntClr (c : Nat) (s : State) : Out := .next <| s.onCore c fun s p k => s.setCore p (k.clearCounters 0x3A00 0x3A9C)

end Sys2Proof.Machine
end

