-- ==== Sys2Proof/Machine/Packet.lean ====
section
/-! DEFINITION. Packets of the bulk VC: what a port checks, forwarding, peer writes, handle deliveries, reads and acknowledgements, with multicast
and its slow receivers (R325 to R349). -/

namespace Sys2Proof.Machine

/-! ### What every packet meets (R326, R327, R330, R338, R343, R344) -/

/-- Flits of a received packet are freed: their credits are owed to the peer (R324). -/
def State.owe (s : State) (p : Nat) (h : PktHdr) : State :=
  s.modPort p fun x => { x with owe := x.owe.set (hdrPool h) (x.owe.getD (hdrPool h) 0 + hdrFlits h) }

/-- A peer's request stream is frozen (R330). -/
def State.freezePeer (s : State) (p sub src obj addr : Nat) : State :=
  (s.modPort p fun x => { x with frozen := sins x.frozen src, frz := some (sub, src, obj, addr) }).portErr p 3

/-- A packet is malformed (R326), or of a kind a revision-1 link does not carry (R332). -/
def State.badPkt (s : State) (p typ : Nat) (h : PktHdr) : Bool :=
  h.typ ≠ typ || !h.rsvZero || vcOfType h.typ ≠ some h.vc || (h.dstDev = 0xFF && h.typ ≠ 0)
    || ((s.port p).state = .upR1 && !s.carries p h)

/-- The sender's configuration epoch is newer than this device's (R343). -/
def State.newerEpoch (s : State) (h : PktHdr) : Bool := let d := (h.cepoch + 16 - s.epoch % 16) % 16; 1 ≤ d && d ≤ 7

/-- Roster tests of a data packet (R344); a revision-1 peer is never a member and is let through (R332; log 51). -/
def State.memberTest (s : State) (p : Nat) (h : PktHdr) : Option Nat :=
  if (s.port p).state = .upR1 then none
  else if !s.inRoster h.srcDev then some 0x68
  else if h.repoch ≠ s.repoch % 256 && h.repoch ≠ (s.repoch + 255) % 256 then some 0x6C
  else none

/-- Members of a multicast group that lie behind this device for a packet that came by a port: in squads, the members of the own squad when it
came from another; else those whose way does not lead back (R346; log 49). -/
def State.behind (s : State) (p : Nat) (h : PktHdr) : List Nat :=
  let b := 0x300200 + 32 * h.mgrp
  let m := (aget 0 s.regs b).toNat + (aget 0 s.regs (b + 4)).toNat * 2 ^ 32
  (maskList 64 m).filter fun d => d ≠ s.devId && d ≠ h.srcDev &&
    (if s.topo = 1 then (s.port p).peerDev / 16 ≠ s.devId / 16 && d / 16 = s.devId / 16
     else s.routePort { h with dstDev := d } ≠ some p)

/-- This device is a member of a multicast group. -/
def State.mcSelf (s : State) (g : Nat) : Bool :=
  bitAt ((aget 0 s.regs (0x300200 + 32 * g)).toNat + (aget 0 s.regs (0x300204 + 32 * g)).toNat * 2 ^ 32) s.devId

/-- Copies of a multicast packet go on. -/
def State.mcForward (s : State) (p : Nat) (h : PktHdr) (b : PktBody) : State :=
  if h.hops ≤ 1 then s
  else
    (s.mcPorts h (s.behind p h)).foldl (fun s q =>
      s.portSend q { h := { h with hops := h.hops - 1, dstDev := (s.port q).peerDev, cls := s.classOut h (some p) q }, b := b }) s

/-- The island of a port (R417). -/
def State.portIsland (s : State) (p : Nat) : Nat := 600 + (afind s.lport p).elim p MapEnt.phys

/-- A packet that arrives by port p: it is dropped, held, forwarded, or given to `f`, under the settings of the port's island. -/
def State.rx (s : State) (p typ : Nat) (h : PktHdr) (tagOk : Bool) (b : PktBody) (again : Instr) (f : State → State) : State :=
  s.under (s.portIsland p) fun s =>
  if !(s.port p).isUp then s
  else if !tagOk then (((s.owe p h).portCount p 0x58 1).portErr p 2).freezePeer p 0 h.srcDev 0xFFFF 0
  else if s.badPkt p typ h then (s.owe p h).portCount p 0x70 1
  else if h.vc ≠ 0 && s.newerEpoch h then { s with linkHeld := s.linkHeld ++ [again] }
  else
    let s := s.owe p h
    if h.vc ≠ 0 && (s.lost || (s.port p).frozen.contains h.srcDev) then s
    else
      match if h.vc = 0 then none else s.memberTest p h with
      | some off => s.portCount p off 1
      | none =>
        if h.dstDev = 0xFF then
          let q := h.route % 32
          if q = 31 then f s else s.portSend q { h := { h with route := h.route / 32 + 31 * 32 }, b := b }
        else if h.mc then
          let s := s.mcForward p h b
          if s.mcSelf h.mgrp then f s else s
        else if h.dstDev = s.devId then f s
        -- HOPS falls here too, so that 1 and 0 end short of the destination (R338, R340)
        else if h.hops ≤ 1 then s.noRoute (some p) 0x64
        else s.hxRoute { h := { h with hops := h.hops - 1 }, b := b } (some p)

/-- The header of an answer to a packet. -/
def State.backHdr (s : State) (typ : Nat) (h : PktHdr) (n : Nat) : PktHdr := s.hdr typ h.srcDev h.dstCore h.srcCore n

/-- The end-to-end acknowledgement of a packet (R329); of a multicast buffer, ADDR is 0x200 (log 11). -/
def State.ackPkt (s : State) (h : PktHdr) : State :=
  s.hxSend { s.backHdr 6 h 0 with rhq := h.rhq, ret := h.ret, mc := false, mseq := h.mseq, mgrp := h.mgrp, addr := if h.mc then 0x200 else 0 }
    (.data [])

/-- SUB of a failed check (R330). -/
def frzSub (r : Nat) : Nat := if r = frzDenied then 2 else if r = frzTier then 3 else 1

/-- The local space of a packet's OBJ, and the core it names; a failed check freezes the peer's stream. -/
def State.peerCore (s : State) (p : Nat) (h : PktHdr) (f : Nat → State) : State :=
  match s.phys h.dstCore with
  | none => s.freezePeer p 4 h.srcDev h.obj h.addr
  | some c => f c

/-! ### WRITE, READ, RDRSP -/

/-- Data bytes with the poison of a packet's 64-byte pieces (R26). -/
def pzBytes (h : PktHdr) (d : List Byte) : List PByte := d.zipIdx.map fun x => (x.1, h.pz.contains (x.2 / 64))

/-- The poisoned 64-byte pieces of data. -/
def pzPieces (d : List PByte) : List Nat := (d.zipIdx.foldl (fun l x => if x.1.2 then sins l (x.2 / 64) else l) [])

/-- WRITE_PACKET (R282, R326, R330): granules of an EX.PUT, or a peer's write of an object. -/
def execWritePacket (p : Nat) (h : PktHdr) (tagOk : Bool) (data : List Byte) (s : State) : Out :=
  .next <| s.rx p 2 h tagOk (.data data) (.writePacket p h tagOk data) fun s =>
    match localSpace h.obj with
    | some sp => s.peerCore p h fun c =>
      if spaceSize sp < h.addr + data.length then s.freezePeer p 1 h.srcDev h.obj h.addr
      else (((s.putLocal c sp h.addr data).localPoison c sp h.addr h.pz).deliverBar c none (if h.dbarEn then some h.dbar else none)).ackPkt h
    | none => s.peerCore p h fun c =>
      match s.check (.peer h.srcDev) true false h.obj h.addr data.length with
      | some r => s.freezePeer p (frzSub r) h.srcDev h.obj h.addr
      | none => ((s.wholeWrite h.obj h.addr (pzBytes h data)).deliverBar c none (if h.dbarEn then some h.dbar else none)).ackPkt h

/-- READ_PACKET (R326, R330): the answer is RDRSP packets of at most 4 KiB, which carry the poison of the data (R26). -/
def execReadPacket (p : Nat) (h : PktHdr) (tagOk : Bool) (len : Nat) (s : State) : Out :=
  .next <| s.rx p 4 h tagOk (.data []) (.readPacket p h tagOk len) fun s =>
    let send (s : State) (d : List PByte) : State :=
      (parts4k d.length).foldl (fun s x =>
        let b := (d.drop x.1).take x.2
        s.hxSend { s.backHdr 5 h x.2 with obj := h.obj, addr := h.addr + x.1, pz := pzPieces b } (.data (b.map Prod.fst))) s
    match localSpace h.obj with
    | some sp => s.peerCore p h fun c =>
      if spaceSize sp < h.addr + len then s.freezePeer p 1 h.srcDev h.obj h.addr else send s (s.localBytes c sp h.addr len)
    | none => s.peerCore p h fun _ =>
      match s.check (.peer h.srcDev) false false h.obj h.addr len with
      | some r => s.freezePeer p (frzSub r) h.srcDev h.obj h.addr
      | none => let r := s.objRead h.obj h.addr len; send r.2 r.1

/-- RDRSP_PACKET (R326): no unit of the device has a read outstanding, so the data ends here; a device on the way forwards it. -/
def execRdrspPacket (p : Nat) (h : PktHdr) (tagOk : Bool) (data : List Byte) (s : State) : Out :=
  .next <| s.rx p 5 h tagOk (.data data) (.rdrspPacket p h tagOk data) fun s => s

/-! ### HDELIV and multicast (R283, R346 to R349) -/

/-- HX_MCRX of a group. -/
def mcrxOfs (g : Nat) : Nat := 0x300400 + 4 * g

/-- This device is pruned from a group. -/
def State.mcPruned (s : State) (g : Nat) : Bool := bitAt (aget 0 s.regs (mcrxOfs g)).toNat 0

/-- STATUS of HX_MC_RESEND: 1 pending, 2 DONE, 3 GONE. -/
def State.resendStatus (s : State) (v : Nat) : State :=
  { s with regs := aset s.regs 0x300030 ((aget 0 s.regs 0x300030 &&& 0xFFFFF) ||| BitVec.ofNat 32 (v * 2 ^ 21)) }

/-- HDELIV_PACKET (R283, R330, R346). A resent buffer (R349) carries MC = 0. -/
def execHdelivPacket (p : Nat) (h : PktHdr) (tagOk : Bool) (data : List Byte) (s : State) : Out :=
  .next <| s.rx p 3 h tagOk (.data data) (.hdelivPacket p h tagOk data) fun s =>
    if h.mc && s.mcPruned h.mgrp then s
    else s.peerCore p h fun c =>
      let last := h.addr < 2 ^ 51
      match s.landHandle c none h.rhq h.hepoch (h.addr % 2 ^ 51) data h.pz last (if h.dbarEn then some h.dbar else none) with
      | .outside a => s.freezePeer p 1 h.srcDev h.obj a
      | .done s =>
        let want := (aget 0 s.regs 0x300030).toNat
        let hit := last && !h.mc && bitsOf want 21 2 = 1 && bitsOf want 0 4 = h.mgrp && bitsOf want 4 16 = h.mseq
        let s := if hit then s.resendStatus 2 else s
        if last then s.ackPkt h else s

/-- Buffers of a multicast sending end that every member which is not pruned has acknowledged: their word is told (R347). -/
def State.mcSettle (s : State) (g : Nat) : State :=
  let m := aget ({} : McSend) s.mcs g
  let l := s.mcMembers g
  let src := (aget 0 s.regs (0x300210 + 32 * g)).toNat
  match s.phys (bitsOf src 0 10) with
  | none => s
  | some p =>
    let done := (s.core p).rem.filter fun r => r.dev = 0x100 + g && l.all fun d => r.core < aget 0 m.acked d
    done.foldl (fun s r => (s.modCore p fun c => { c with rem := c.rem.erase r }).takeAck p r.word r.hq r.h r.ret) s

/-- A multicast member acknowledges the buffer that follows its last. -/
def State.mcAck (s : State) (g d : Nat) : State :=
  let m := aget ({} : McSend) s.mcs g
  { s with mcs := aset s.mcs g { m with acked := aset m.acked d (aget 0 m.acked d + 1) } }.mcSettle g

/-- One packet of an instance is acknowledged (R366). -/
def State.collAcked (s : State) (c : Nat) : State :=
  match s.collOf c with
  | some (k, x) => { s with colls := aset s.colls k { x with unacked := x.unacked - 1 } }
  | none => s

/-- ACK_PACKET (R284, R285, R326, R329; log 11): the oldest packet to that device and core is acknowledged, or a multicast buffer; or credits
come back; or a collective packet is acknowledged. -/
def execAckPacket (p : Nat) (h : PktHdr) (tagOk : Bool) (s : State) : Out :=
  .next <| s.rx p 6 h tagOk (.data []) (.ackPacket p h tagOk) fun s =>
    if 0x200 ≤ h.addr then s.mcAck h.mgrp h.srcDev
    else if 0x100 ≤ h.addr then s.collAcked (h.addr % 256)
    else if h.addr ≠ 0 then
      match s.mcGroup h.dstCore h.rhq with
      | some g =>
        let m := aget ({} : McSend) s.mcs g
        { s with mcs := aset s.mcs g { m with cred := aset m.cred h.srcDev (aget 0 m.cred h.srcDev + h.addr) } }
      | none => match s.phys h.dstCore with
        | some c => s.send (.credit (0x1000 + p) c h.rhq h.addr)
        | none => s
    else
      match s.phys h.dstCore with
      | none => s
      | some c =>
        match (s.core c).rem.find? fun r => r.dev = h.srcDev && r.core = h.srcCore with
        | none => s
        | some r => (s.modCore c fun k => { k with rem := k.rem.erase r }).takeAck c r.word r.hq r.h r.ret

/-- PRUNE_WAIT_EXPIRY (R347, R348): every member that holds the sender back is pruned, told its gap, and counted. -/
def execPruneWaitExpiry (g : Nat) (s : State) : Out :=
  .next <|
    let m := aget ({} : McSend) s.mcs g
    let b := 0x300200 + 32 * g
    let src := (aget 0 s.regs (b + 0x10)).toNat
    match s.phys (bitsOf src 0 10) with
    | none => s
    | some p =>
      if !m.waits then s
      else
        let k := (s.core p).hqRetain (bitsOf src 10 3)
        let slow := (s.mcMembers g).filter fun d => !m.free k d
        let s := slow.foldl (fun s d =>
          let off := if d < 32 then b + 8 else b + 12
          let s := { s with regs := aset s.regs off (aget 0 s.regs off ||| (1 <<< (d % 32))) }
          -- MC_PRUNES is a port counter: it counts at the port that leads to the member
          let q := (s.routePort (s.hdr 3 d 0 0 0)).getD 0
          (s.portCount q 0x78 1).sendCtl d (.gapNotice g (m.mseq % 65536))) s
        { s with mcs := aset s.mcs g { m with waits := false } }.mcSettle g

/-- GAP_NOTICE (R348): this device is pruned: its receiving queue gets a poison token. The queue is that of the group's receiving end, bound to the
source core (log 49). -/
def State.gapNotice (s : State) (g mseq : Nat) : State :=
  let s := { s with regs := aset s.regs (mcrxOfs g) (BitVec.ofNat 32 (1 + mseq % 65536 * 4)) }
  let src := bitsOf (aget 0 s.regs (0x300210 + 32 * g)).toNat 0 10
  match s.phys src with
  | none => s
  | some p =>
    match (s.core p).hq.find? fun x => x.2.recv.any fun r => r.core = src && !s.isLocalDev r.dev with
    | none => s
    | some (q, _) =>
      let tok := s.free
      let ent : HqEnt := { h := 0, poison := true, tok := tok.1.toNat % 65536 }
      if tok.2.holds p none then tok.2.hold p (.handle q ent)
      else tok.2.modCore p fun c => let x := c.handleQ q; c.setHandleQ q { x with ents := x.ents ++ [ent] }

def execGapNotice (g mseq : Nat) (s : State) : Out := .next (if 16 ≤ g then s else s.gapNotice g mseq)

/-- The source device of a multicast group as this member knows it: the far end of its receiving end. -/
def State.mcSource (s : State) (g : Nat) : Option Nat :=
  let src := bitsOf (aget 0 s.regs (0x300210 + 32 * g)).toNat 0 10
  (s.phys src).bind fun p => ((s.core p).hq.findSome? fun x => x.2.recv.bind fun r => if r.core = src && !s.isLocalDev r.dev then some r.dev else none)

/-- HX_MC_RESEND (R349): GO sends the request to the source. -/
def execHxMcResend (g mseq : Nat) (s : State) : Out :=
  .next <|
    let s := { s with regs := aset s.regs 0x300030 (BitVec.ofNat 32 (g % 16 + mseq % 65536 * 16)) }
    match s.mcSource (g % 16) with
    | none => s
    | some d => (s.resendStatus 1).sendCtl d (.resend (g % 16) (mseq % 65536))

/-- RESEND_REQUEST (R349): the source sends a retained buffer to the member, or tells that it is gone. -/
def execResendRequest (g dev mseq : Nat) (s : State) : Out :=
  .next <|
    let m := aget ({} : McSend) s.mcs g
    let src := (aget 0 s.regs (0x300210 + 32 * g)).toNat
    let l := bitsOf src 0 10
    match s.phys l with
    | none => s
    | some p =>
      let c := s.core p
      match (c.handleQ (bitsOf src 10 3)).send with
      | none => s.sendCtl dev (.gone g mseq)
      | some e =>
        match m.kept.find? fun x => x.1 % 65536 = mseq && e.retained.contains x.2 with
        | none => s.sendCtl dev (.gone g mseq)
        | some x =>
          let b := c.buffer x.2
          let d := s.localBytes p b.1 b.2.1 b.2.2
          -- no word waits for its acknowledgement
          let out : RemOut := { dev := dev, core := l, word := 65536, hq := none, h := 0, ret := false }
          let s := s.modCore p fun c => { c with rem := c.rem ++ [out] }
          s.sendBuffer { s.hdr 3 dev l l 0 with rhq := e.rhq, mseq := mseq, mgrp := g } (d.map Prod.fst) none (pzPieces d)

/-- REJOIN (HX_MCRX.REJOIN, R349): asks the source to take this member back. -/
def execRejoin (g : Nat) (s : State) : Out :=
  .next <|
    match s.mcSource g with
    | none => s
    | some d =>
      let s := { s with regs := aset s.regs (mcrxOfs g) (aget 0 s.regs (mcrxOfs g) &&& ~~~(1 : W32)) }
      s.sendCtl d (.rejoin g)

/-- A member takes part again from the next buffer on (R349): its acknowledgements count from there. -/
def State.mcRejoin (s : State) (g d : Nat) : State :=
  let off := 0x300200 + 32 * g + (if d < 32 then 8 else 12)
  let m := aget ({} : McSend) s.mcs g
  { s with regs := aset s.regs off (aget 0 s.regs off &&& ~~~(1 <<< (d % 32) : W32))
           mcs := aset s.mcs g { m with acked := aset m.acked d m.mseq } }

/-- REJOIN_REQUEST (R349). -/
def execRejoinRequest (g dev : Nat) (s : State) : Out := .next (if 16 ≤ g || 64 ≤ dev then s else s.mcRejoin g dev)

/-- PRUNED_CLEAR: a 1 written to HX_MCG.PRUNED rejoins the member. -/
def execPrunedClear (g hi : Nat) (mask : BitVec 32) (s : State) : Out :=
  .next <| if 16 ≤ g then s else ((maskList 32 mask.toNat).map (· + 32 * (hi % 2))).foldl (fun s d => s.mcRejoin g d) s

/-- PORT_CNT_CLR.ALL (R351). -/
def execPortCntClr (p : Nat) (s : State) : Out :=
  .next { s with cnt := s.cnt.filter fun x => x.1 < portBase p + 0x40 ∨ portBase p + 0x78 < x.1 }

end Sys2Proof.Machine
end

