-- ==== Sys2Proof/Machine/StepMonitor.lean ====
section
/-! DEFINITION. The step monitor: ledgers of a step, the verdict round, the loss, and what each core does at the verdict (R230, R243 to R252, R372). -/

namespace Sys2Proof.Machine

/-! ### Registers -/

def State.smReg (s : State) (off : Nat) (d : W32) : W32 := aget d s.regs (0x8000 + off)
def State.smPolicy (s : State) : Nat := (s.smReg 0x10 1).toNat
def State.satLim (s : State) : Nat := (s.smReg 0x24 0).toNat
/-- Set bits of SM_CAUSE and drive their sources, 696 + n (R252). -/
def State.smCause (s : State) (n : Nat) : State :=
  let s := { s with regs := aset s.regs 0x8038 (aget 0 s.regs 0x8038 ||| (1 <<< n)) }
  s.level (696 + n) (bitAt (aget 0xFE s.regs 0x803C).toNat n)
/-- Counters of the monitor. -/
def State.smCount (s : State) (off n : Nat) : State := s.bump (0x8000 + off) n

/-! ### Ledgers (R244, R249) -/

/-- The totals of a step in which nothing has been reported. -/
def zeroTotals (step attempt : Nat) : Totals :=
  { step := step, attempt := attempt, drnNf := 0, drnSat := 0, updNf := 0, normNf := 0, collNf := 0, lossSum := 0, lossCount := 0, lossNf := 0
    laccW := [0, 0, 0, 0], laccU := [0, 0, 0, 0], laccSat := List.replicate 8 false, late := false }

/-- A 64-bit saturating sum of accumulators, and which of them saturated (R243). -/
def laccSum (a b : List Nat) : List Nat × List Bool :=
  let l := List.zipWith (· + ·) a b
  (l.map (min (2 ^ 64 - 1)), l.map fun x => 2 ^ 64 ≤ x)

/-- Totals added (R245). -/
def totalsAdd (a b : Totals) : Totals :=
  let w := laccSum a.laccW b.laccW
  let u := laccSum a.laccU b.laccU
  { a with
    drnNf := a.drnNf + b.drnNf, drnSat := a.drnSat + b.drnSat, updNf := a.updNf + b.updNf, normNf := a.normNf + b.normNf, collNf := a.collNf + b.collNf
    lossSum := a.lossSum + b.lossSum, lossCount := a.lossCount + b.lossCount, lossNf := a.lossNf + b.lossNf
    laccW := w.1, laccU := u.1, laccSat := List.zipWith or (List.zipWith or a.laccSat b.laccSat) (w.2 ++ u.2), late := a.late || b.late }

/-- A close report as totals. -/
def reportTotals (r : CloseReport) : Totals :=
  { step := r.step, attempt := r.attempt, drnNf := r.drnNf, drnSat := r.drnSat, updNf := r.updNf, normNf := if r.normNf then 1 else 0, collNf := 0
    lossSum := r.lossSum, lossCount := r.lossCount, lossNf := r.lossNf, laccW := r.laccW, laccU := r.laccU, laccSat := r.laccSat, late := false }

/-- Change the ledger of a step and attempt, which begins where there is none. -/
def StepMon.modLedger (m : StepMon) (step attempt : Nat) (f : Ledger → Ledger) : StepMon :=
  if m.ledgers.any fun l => l.step = step ∧ l.attempt = attempt then
    { m with ledgers := m.ledgers.map fun l => if l.step = step ∧ l.attempt = attempt then f l else l }
  else { m with ledgers := m.ledgers ++ [f { step := step, attempt := attempt, acc := zeroTotals step attempt }] }

def State.modLedger (s : State) (step attempt : Nat) (f : Ledger → Ledger) : State := { s with sm := s.sm.modLedger step attempt f }

/-- A ledger is closed: every core that opened has reported, and no collective of the step runs on the device. -/
def State.closed (s : State) (l : Ledger) : Bool :=
  !l.opened.isEmpty && l.opened.all (fun c => l.reported.contains c)
    && !(s.colls.any fun x => x.2.step = l.step && x.2.attempt = l.attempt)

/-- Send the device totals of the first ledger that is closed, to the anchor's monitor (R244, R245). -/
def State.sendTotals (s : State) : State :=
  match s.sm.ledgers.find? s.closed with
  | none => s
  | some l =>
    let t := { l.acc with late := l.late }
    let m := { s.sm with ledgers := s.sm.ledgers.erase l, sent := s.sm.sent ++ [(l.step, l.attempt)] }
    let s := { s with sm := m }
    if s.isAnchor then s.send (.totals t) else s.hxSend (s.hdr 1 s.anchor 0x3FF 0x3FF 128) (.totals t)

/-- OPEN_NOTICE_RECEIVE (R244): a notice for a step whose totals have been sent is refused, and the core halts. -/
def execOpenNoticeReceive (k : Nat) (s : State) : Out :=
  .next <|
    match s.mesh[k]? with
    | some (.openNotice src core step attempt seqno) =>
      if !s.inOrder k then s else
      let s := s.unsend k
      if s.sm.sent.contains (step, attempt) then
        s.halt src { pc := (s.core src).seq.stepPc, unit := 0, reason := 0x01, seqno := seqno, info := 0xC }
      else s.modLedger step attempt fun l => { l with opened := sins l.opened core }
    | _ => s

/-- CLOSE_REPORT_RECEIVE (R128, R244): a close report, or the increments of a DRN.STAT. -/
def execCloseReportReceive (k : Nat) (s : State) : Out :=
  .next <|
    match s.mesh[k]? with
    | some (.closeReport _ r) =>
      if !s.inOrder k then s else
      ((s.unsend k).modLedger r.step r.attempt fun l => { l with acc := totalsAdd l.acc (reportTotals r), reported := sins l.reported r.core }).sendTotals
    | some (.drainReport _ step attempt nf sat) =>
      if !s.inOrder k then s else
      (s.unsend k).modLedger step attempt fun l => { l with acc := { l.acc with drnNf := l.acc.drnNf + nf, drnSat := l.acc.drnSat + sat } }
    | _ => s

/-- CLOSE_DEADLINE (R249). -/
def execCloseDeadline (s : State) : Out :=
  .next <|
    let late (l : Ledger) : Bool := !l.reported.isEmpty && !l.timed
    if s.sm.ledgers.any late then
      let s := { s with sm := { s.sm with ledgers := s.sm.ledgers.map fun l => if late l then { l with timed := true } else l } }
      (s.smCause 6).smCount 0x9C 1
    else s

/-! ### The verdict (R245, R250) -/

/-- fp32_rne(sum × 2^−24) (R250). -/
def lossValue (sum : Int) : W32 := toF32 (Fp.ofInt false sum (-24))

/-- The loss l of a round: div_rne(fp32_rne(loss_sum × 2^−24), count). -/
def lossMean (sum : Int) (count : Nat) : W32 := toF32 ((f32 (lossValue sum)).div (.fin false count 0))

/-- Form the verdict from group totals (R245, R250). -/
def State.formVerdict (s : State) (t : Totals) : Verdict :=
  let m := s.sm
  let l := if t.lossCount = 0 then m.loss else lossMean t.lossSum t.lossCount
  let spike := t.lossCount ≠ 0 && m.ewmaValid && (s.smReg 0x1C 0x10).toNat ≤ m.stepsSeen
    && f32lt (f32mul (s.smReg 0x18 0x40000000) m.ewma) l
  let updNf := t.updNf ≠ 0 || t.normNf ≠ 0
  let drnNf := t.drnNf + t.lossNf ≠ 0
  let sat := s.satLim < t.drnSat
  let pol := s.smPolicy
  let skip := t.laccSat.any id || (bitAt pol 0 && updNf) || (bitAt pol 1 && drnNf) || (bitAt pol 2 && sat) || (bitAt pol 3 && spike)
  let v := if t.late then 3 else if skip then 2 else 1
  let learn := v = 1 && t.lossCount ≠ 0 && !spike
  let ewma := if !learn then m.ewma
    else if m.ewmaValid then f32fma (s.smReg 0x14 0x3C23D70A) (f32sub l m.ewma) m.ewma else l
  { verdict := v, totals := t, lnsat := t.laccSat.any id, rUpdNf := updNf, rDrnNf := drnNf, rSat := sat, spike := spike, loss := l
    ewma := ewma, ewmaValid := m.ewmaValid || learn, stepsSeen := if v = 3 then m.stepsSeen else m.stepsSeen + 1 }

/-- A round ends with the verdict, to this device and to the other members of its roster; a COMMIT then waits for the commits of all of them. -/
def State.endRound (s : State) (r : Round) (t : Totals) : State :=
  let v := s.formVerdict t
  let m := s.sm
  let s := { s with sm := { m with rounds := m.rounds.filter (fun x => x.step ≠ r.step)
                                   commitDevs := if v.verdict = 1 then r.roster else m.commitDevs } }
  (r.roster.filter fun d => d ≠ s.devId).foldl (fun s d => s.hxSend (s.hdr 1 d 0x3FF 0x3FF 256) (.verdict v)) (s.send (.verdict v))

/-- A round of which every member's totals are there ends (R245). -/
def State.closeRound (s : State) (r : Round) : State :=
  if !(r.roster.all fun d => (afind r.got d).isSome) then s
  else
    match r.roster.filterMap (afind r.got) with
    | [] => s
    | t :: ts => s.endRound r (ts.foldl totalsAdd t)

/-- The totals of one device reach the anchor: they join the round of their step and attempt, which takes the roster in force when it starts; a
round of an earlier attempt of the step is over, and totals of one are ignored (R245; log 157). -/
def State.addTotals (s : State) (dev : Nat) (t : Totals) : State :=
  let m := s.sm
  if m.rounds.any fun r => r.step = t.step && t.attempt < r.attempt then s
  else
    let r := (m.rounds.find? fun r => r.step = t.step && r.attempt = t.attempt).getD { step := t.step, attempt := t.attempt, roster := s.roster }
    let r := { r with got := aset r.got dev t }
    State.closeRound { s with sm := { m with rounds := m.rounds.filter (fun x => x.step ≠ t.step) ++ [r] } } r

/-- A device's part of a commit has ended (R252): at the anchor COMMIT is set when that of every member has (log 93). -/
def State.devCommitted (s : State) (dev : Nat) : State :=
  if !s.sm.commitDevs.contains dev then s
  else
    let l := sdel s.sm.commitDevs dev
    let s := { s with sm := { s.sm with commitDevs := l } }
    if l.isEmpty then s.smCause 0 else s

/-- This device's commits of a step have ended: a member sets COMMIT and tells the anchor (R252; log 93). -/
def State.ownCommitted (s : State) : State :=
  if s.isAnchor then s.devCommitted s.devId
  else (s.smCause 0).hxSend (s.hdr 1 s.anchor 0x3FF 0x3FF 128) (.totals { zeroTotals s.sm.lastStep 0 with done := true })

/-- A core reports the completion of its commit to its monitor (R247). -/
def State.coreCommitted (s : State) (p : Nat) : State :=
  let s := { s with sm := { s.sm with commits := sdel s.sm.commits p } }
  if s.sm.commits.isEmpty then s.ownCommitted else s

/-- DEVICE_TOTALS_RECEIVE (R245, R252): this device's own totals, a member's, or a member's word that it has committed. -/
def execDeviceTotalsReceive (dev : Nat) (t : Option Totals) (s : State) : Out :=
  .next <|
    if !s.isAnchor then s
    else
      match t with
      | some t => if t.done then s.devCommitted dev else s.addTotals dev t
      | none =>
        match s.mesh.zipIdx.findSome? fun x => match x.1 with
          | .totals t => if s.inOrder x.2 then some (x.2, t) else none
          | _ => none with
        | none => s
        | some (k, t) => (s.unsend k).addTotals s.devId t

/-- W2 or U2 of the group sums (R243). -/
def lnormOf (e : Nat) (l : List Nat) : List W32 := l.map fun x => toF32 (.fin false x ((e : Int) - 183))

/-- One core acts on a verdict (R246). -/
def State.coreVerdict (s : State) (p : Nat) (v : Verdict) : State :=
  let c := s.core p
  let s := s.modCore p fun c => { c with upd := { c.upd with lnsat := v.lnsat, w2 := lnormOf c.lnormE v.totals.laccW, u2 := lnormOf c.lnormE v.totals.laccU } }
  if v.verdict = 1 then
    let s := { s with sm := { s.sm with commits := sins s.sm.commits p } }
    let s := s.beginCommit p
    if (s.core p).upd.phase = .pinWait then s.smCause 7 else s
  else if v.verdict = 2 then
    s.modCore p fun c => (({ c with upd := { c.upd with stg := 0, phase := .idle, touched := [] } } : Core).bump 0x2514 1).tellClose 2
  else if c.seq.open_ then s.repeatStep p else s

/-- A sequencer waits in a STEP.CLOSE for the verdict of a step. -/
def Sequencer.awaits (q : Sequencer) (t : Totals) : Bool :=
  q.open_ && q.step = t.step && q.attempt = t.attempt && q.cur.any fun u => u.sent && u.outcome.isNone

/-- The scale planes written in the step become current, or are discarded (R372). -/
def State.flipPlanes (s : State) (verdict : Nat) : State :=
  { s with dstat := s.dstat.map fun x =>
      if !x.2.planned then x
      else if verdict = 3 then (x.1, { x.2 with planned := false })
      else (x.1, { x.2 with planned := false, scPlane := !x.2.scPlane, scValid := true }) }

/-- The monitor takes a verdict: its registers, causes and counters (R250 to R252). -/
def State.noteVerdict (s : State) (v : Verdict) : State :=
  let t := v.totals
  let nf := t.updNf + t.normNf + t.drnNf + t.lossNf + t.collNf
  let m := { s.sm with verdict := some v, ewma := v.ewma, ewmaValid := v.ewmaValid, stepsSeen := v.stepsSeen, loss := v.loss, lastStep := t.step
                       ledgers := s.sm.ledgers.filter fun l => !(l.step = t.step ∧ l.attempt = t.attempt) }
  let s := State.smCount { s with sm := m } 0x80 1
  let s := if v.verdict = 1 then s.smCount 0x84 1 else if v.verdict = 2 then (s.smCount 0x88 1).smCause 1 else (s.smCount 0x8C 1).smCause 2
  let s := if v.spike then (s.smCount 0x90 1).smCause 3 else s
  let s := if nf ≠ 0 then (s.smCount 0x94 nf).smCause 4 else s
  let s := s.smCount 0x98 t.drnSat
  if s.satLim < t.drnSat then s.smCause 5 else s

/-- A verdict reaches this device: every core that waits for it acts; a core that is preempted acts after its restore (log 47). -/
def State.takeVerdict (s : State) (v : Verdict) : State :=
  let s := (s.noteVerdict v).flipPlanes v.verdict
  let waits := s.cores.filterMap fun x => match x.2.pre.saved with
    | some y => if y.seq.awaits v.totals then some (x.1, true) else none
    | none => if x.2.seq.awaits v.totals && x.2.active then some (x.1, false) else none
  -- a preempted core commits after its restore
  let s := if v.verdict = 1 then { s with sm := { s.sm with commits := waits.foldl (fun l x => sins l x.1) s.sm.commits } } else s
  let s := waits.foldl (fun s x =>
    if x.2 then s.modCore x.1 fun c => { c with pre := { c.pre with held := c.pre.held ++ [.verdict v] } } else s.coreVerdict x.1 v) s
  if v.verdict = 1 && s.sm.commits.isEmpty then s.ownCommitted else s

/-- VERDICT_RECEIVE (R246). -/
def execVerdictReceive (v : Option Verdict) (s : State) : Out :=
  .next <|
    match v with
    | some v => s.takeVerdict v
    | none =>
      match s.mesh.zipIdx.findSome? fun x => match x.1 with
        | .verdict v => if s.inOrder x.2 then some (x.2, v) else none
        | _ => none with
      | none => s
      | some (k, v) => (s.unsend k).takeVerdict v

/-- PIN_WAIT_RELEASE (R230, R247): the shadows are made if there is room now. -/
def execPinWaitRelease (c : Nat) (s : State) : Out :=
  .next <| s.onCore c fun s p k =>
    if k.upd.phase ≠ .pinWait then s
    else
      let s := s.beginCommit p
      if (s.core p).upd.phase = .pinWait then s.bumpCore p 0x251C 1 else s

/-- The update unit of core p has ended its commit (R247): the step of a preempted core is the saved one (R248). RNE_USED is set when the step
committed with UPD_RNE in force (R64). -/
def State.endCommit (s : State) (p : Nat) : State :=
  let rne := s.rneInForce (s.core p).stepSeq
  let s := s.modCore p fun c =>
    let c := ({ c with upd := { c.upd with stg := 0, phase := .idle, touched := [] } } : Core).bump 0x2510 1
    let c := c.tellClose 1
    if c.pre.contCommit then
      { c with pre := { c.pre with contCommit := false, saved := c.pre.saved.map fun (x : CoreCtx) => { x with upd := c.upd } } }
    else c
  State.coreCommitted { s with rneUsed := s.rneUsed || rne } p

/-- COMMIT_DONE (R247, R248): pins that came since are moved to shadows, or waited for (R230); the stage runs are replayed and the core reports.
Poison met in it halts the core (R238) and a read that its check refuses freezes it (R299); the commit has then ended (log 158). -/
def execCommitDone (c : Nat) (s : State) : Out :=
  .next <| s.onCore c fun s p k =>
    if k.upd.phase ≠ .commit then s
    else
      match s.updTagWait p k.stageObj (64 * k.upd.stg) with
      | some w => s.bumpCore p w 1
      | none =>
        match s.makeShadows k.upd.touched with
        | none => (s.modCore p fun c => { c with upd := { c.upd with phase := .pinWait } }).smCause 7
        | some s =>
          let r := s.replay p
          let idle (s : State) : State := s.modCore p fun c => { c with upd := { c.upd with phase := .idle } }
          match r.2.stop with
          | some y => (idle r.1).freezeAt p 8 y.1 y.2.1 y.2.2
          | none =>
            if r.2.poison then
              (idle r.1).halt p { pc := k.stepSeq.pc, unit := 8, reason := 0x0C, seqno := k.stepSeq.seqno, info := 8 }
            else r.1.endCommit p

/-- RCMT_DONE (R428): the recovery commit ends. -/
def execRcmtDone (c : Nat) (s : State) : Out :=
  .next <| s.onCore c fun s p k =>
    if !k.rcmt.running then s
    else
      let stage := k.rcmtObj
      let size := (s.objEnt stage).bytes
      let sq : Sequencer := { k.seq with step := k.rcmtStep, seed := s.runSeed, updRne := s.updRne }
      let runs := s.stageRuns stage size (size / 64) 0
      let logAt := (runs.getLast?).elim 0 StageRun.endAt
      let hd := ((s.objRead stage logAt 64).1).map Prod.fst
      let has := hd = logHeader k.rcmtStep
      let gs := runs.flatMap fun r => (List.range r.n).map fun n => (r, r.start + n)
      let lg := if has then s.logGroups stage k.rcmtStep gs (logAt + 64) else ([], logAt + 64)
      let vs := if has then s.logVersions stage k.rcmtStep (size / 64) lg.2 else []
      let s0 := s
      let s := gs.zipIdx.foldl (fun s (x : (StageRun × Nat) × Nat) => s.rcmtGroup p stage sq lg.1[x.2]? x.1.1 x.1.2 s0) s
      let objs := runs.foldl (fun (l : List Nat) r => if l.contains r.wobj then l else l ++ [r.wobj]) []
      let s := objs.foldl (fun s o =>
        let e := s.objEnt o
        s.setObj o { e with version := (afind vs o).getD ((e.version + 1) % 65536) }) s
      let s := s.modCore p fun c => { c with rcmt := { c.rcmt with running := false, done := true } }
      -- the recovered commit is that of the fenced core with this staging object
      let mine := s.sm.commits.filter fun p => (s.core p).fence.fenced && (s.core p).stageObj = stage
      mine.foldl State.coreCommitted s

/-- SM_CNT_CLR.ALL. -/
def execSmCntClr (s : State) : Out := .next { s with cnt := s.cnt.filter fun x => x.1 < 0x8080 ∨ 0x809C < x.1 }

end Sys2Proof.Machine
end

