-- ==== Sys2Proof/Machine/Collective.lean ====
section
/-! DEFINITION. The collective engine: descriptors, instances, ownership, the paths of blocks and scale bytes, reduce-scatter, all-gather, redo,
fall-back and the global norm (R352 to R381). -/

namespace Sys2Proof.Machine

/-! ### Descriptors (R355) -/

/-- A collective descriptor, field by field; `rsv`: a reserved field or value is not 0. -/
structure CDesc where
  kind : Nat
  w : Bool
  smode : Nat
  alg : Nat
  efix : Nat
  mean : Bool
  latePol : Bool
  nfPol : Bool
  lr : Bool
  ncont : Nat
  rbudget : Nat
  cfirst : Nat
  cnum : Nat
  nblk : Nat
  nplan : Nat
  sobj : Nat
  dobj : Nat
  sofs : Nat
  dofs : Nat
  cstride : Nat
  wkofs : Nat
  scobj : Nat
  scofs : Nat
  oform : Nat
  deadline : Nat
  mmask : Nat
  rsv : Bool
  deriving DecidableEq, Repr

/-- Descriptor c. -/
def State.desc (s : State) (c : Nat) : CDesc :=
  let f := s.descField c
  let b0 := f 0 1
  let b2 := f 2 1
  { kind := bitsOf b0 0 3, w := bitAt b0 3, smode := bitsOf b0 4 2, alg := bitsOf b0 6 2, efix := f 1 1
    mean := bitAt b2 0, latePol := bitAt b2 1, nfPol := bitAt b2 2, lr := bitAt b2 3, ncont := bitsOf b2 4 4 + 1, rbudget := f 3 1
    cfirst := f 4 2, cnum := f 6 2, nblk := f 8 4 % 2 ^ 28, nplan := f 12 2, sobj := f 16 2, dobj := f 18 2, sofs := f 20 5, dofs := f 25 5
    cstride := f 30 5, wkofs := f 35 4 % 2 ^ 23, scobj := f 39 2, scofs := f 41 5, oform := bitsOf (f 46 1) 0 2, deadline := f 47 2
    mmask := f 49 8
    rsv := 4 ≤ bitsOf b0 0 3 || bitsOf b0 4 2 = 3 || bitsOf b0 6 2 = 3 || f 8 4 ≥ 2 ^ 28 || f 14 2 ≠ 0 || f 35 4 ≥ 2 ^ 23 || 2 ≤ f 46 1
      || f 57 7 ≠ 0 }

/-- DIGEST (R356). -/
def State.digest (s : State) (c : Nat) : Nat := (crc32c (s.descBytes c)).toNat % 65536

/-- h of R360. -/
def CDesc.head (d : CDesc) : Nat := (if d.nplan ≤ 1 then 0 else Nat.log2 (d.nplan - 1) + 1) - 7
/-- Bytes of an element plane of a block, and of a slot (R361). -/
def CDesc.plane (d : CDesc) : Nat := if d.w then 128 else 256
def CDesc.slotSize (d : CDesc) : Nat := d.plane + 8
/-- Contributions of a device to a block. -/
def CDesc.local_ (d : CDesc) : Nat := d.cnum * d.ncont

/-! ### Ownership (R361) -/

def CDesc.bm (d : CDesc) (m : Nat) : Nat := (d.nblk + m - 1) / m
def CDesc.bc (d : CDesc) (m : Nat) : Nat := (d.bm m + d.cnum - 1) / d.cnum

/-- Owner member's rank j, owner core position i, and position pos of block b. -/
def CDesc.owner (d : CDesc) (m b : Nat) : Nat × Nat × Nat :=
  let o := b % d.bm m
  let j := b / d.bm m
  (j, o / d.bc m, j * d.bc m + o % d.bc m)

/-- Blocks owned by core position i of the member of rank j, in order. -/
def CDesc.owned (d : CDesc) (m j i : Nat) : List Nat :=
  ((List.range (d.bc m)).map fun x => i * d.bc m + x).filterMap fun o => if o < d.bm m && j * d.bm m + o < d.nblk then some (j * d.bm m + o) else none

/-! ### Paths (R364, R367) -/

/-- Ring 1, direct 2, torus 3. -/
def State.algOf (s : State) (d : CDesc) : Nat := if d.alg ≠ 0 then d.alg else if s.topo = 1 then 2 else if s.topo = 3 ∨ s.topo = 4 then 3 else 1

/-- Rank of a member. -/
def rankOf (l : List Nat) (d : Nat) : Nat := (l.takeWhile fun x => x ≠ d).length
/-- The next member in rank order. -/
def ringNext (l : List Nat) (d : Nat) : Nat := l.getD ((rankOf l d + 1) % max 1 l.length) d

/-- Coordinates of a device ID. -/
def coords (g : Nat × Nat × Nat) (d : Nat) : Nat × Nat × Nat := (d % g.1, d / g.1 % g.2.1, d / (g.1 * g.2.1))
def devAt (g : Nat × Nat × Nat) (x y z : Nat) : Nat := x + g.1 * y + g.1 * g.2.1 * z

/-- The next device on the way of a partial from device x to the owner (R364). -/
def State.reduceNext (s : State) (alg : Nat) (l : List Nat) (x own : Nat) : Option Nat :=
  if x = own then none
  else match alg with
    | 2 =>
      let rep := 16 * (x / 16) + own % 16
      some (if x / 16 = own / 16 || x = rep || !l.contains rep then own else rep)
    | 3 =>
      let g := s.geom
      let a := coords g x
      let o := coords g own
      some (if a.1 ≠ o.1 then devAt g ((a.1 + 1) % g.1) a.2.1 a.2.2
        else if a.2.1 ≠ o.2.1 then devAt g a.1 ((a.2.1 + 1) % g.2.1) a.2.2
        else devAt g a.1 a.2.1 ((a.2.2 + 1) % g.2.2))
    | _ => some (ringNext l x)

/-- A partial of device x passes through device `me`. -/
def State.passes (s : State) (alg : Nat) (l : List Nat) (own me : Nat) : Nat → Nat → Bool
  | 0, _ => false
  | fuel + 1, x => x = me || (match s.reduceNext alg l x own with
    | some y => s.passes alg l own me fuel y
    | none => false)

/-- Members whose partials this device holds before it forwards, and the devices that send to it. -/
def State.through (s : State) (alg : Nat) (l : List Nat) (own : Nat) : Nat := (l.filter fun x => s.passes alg l own s.devId 200 x).length
def State.feeders (s : State) (alg : Nat) (l : List Nat) (own : Nat) : Nat :=
  (l.filter fun x => s.reduceNext alg l x own = some s.devId).length

/-- Devices to which this device passes what comes from the owner (R367). -/
def State.gatherNext (s : State) (alg : Nat) (l : List Nat) (own : Nat) : List Nat :=
  let me := s.devId
  let squad (q : Nat) : List Nat := l.filter fun x => x / 16 = q
  match alg with
  | 2 =>
    if me = own then
      (squad (own / 16)).filter (fun x => x ≠ me) ++ ((l.map (· / 16)).foldl sins []).flatMap fun q =>
        let rep := 16 * q + own % 16
        if q = own / 16 then [] else if l.contains rep then [rep] else squad q
    else if me / 16 ≠ own / 16 && me % 16 = own % 16 then (squad (me / 16)).filter fun x => x ≠ me
    else []
  | 3 =>
    let g := s.geom
    let a := coords g me
    let o := coords g own
    let x' := (a.1 + 1) % g.1
    let y' := (a.2.1 + 1) % g.2.1
    let z' := (a.2.2 + 1) % g.2.2
    (if a.1 = o.1 && a.2.1 = o.2.1 && z' ≠ o.2.2 then [devAt g a.1 a.2.1 z'] else [])
      ++ (if a.1 = o.1 && y' ≠ o.2.1 then [devAt g a.1 y' a.2.2] else [])
      ++ (if x' ≠ o.1 then [devAt g x' a.2.1 a.2.2] else [])
  | _ => let n := ringNext l me; if n = own then [] else [n]

/-! ### Instances -/

def State.setColl (s : State) (k : Nat) (x : CollInst) : State := { s with colls := aset s.colls k x }
def State.inst (s : State) (k : Nat) : CollInst := aget { c := 0, step := 0, attempt := 0, inst := 0, members := [], me := 0 } s.colls k
def State.setDstat (s : State) (c : Nat) (x : CollStat) : State := { s with dstat := aset s.dstat c x }
def CollInst.slot (x : CollInst) (b : Nat) : CollSlot := aget {} x.slots b
def CollInst.m (x : CollInst) : Nat := x.members.length
def CollInst.ownerDev (x : CollInst) (j : Nat) : Nat := x.members.getD j 0

/-- Counters, causes and sources of the engine (R384; ch. 12). -/
def State.colCount (s : State) (off n : Nat) : State := s.bump (0x340000 + off) n
def State.colCause (s : State) (n : Nat) : State :=
  let s := { s with regs := aset s.regs 0x340018 (aget 0 s.regs 0x340018 ||| (1 <<< n)) }
  s.level (664 + n) (bitAt (aget 0xFE s.regs 0x34001C).toNat n)

/-- The context of a core's program, saved while the core is preempted (R374, R429). -/
def Core.prog (c : Core) : Core := match c.pre.saved with
  | some x => { c with toCoreCtx := x }
  | none => c

/-- A bound block's slot in the work area of its chip owner (R361). -/
def slotBytes (d : CDesc) (x : CollSlot) : List Byte :=
  let b := x.blk.getD (feltZero 0)
  (b.n.flatMap fun n => bytesOf (feltW d.w / 8) (codeOf (feltW d.w) n)) ++ bytesOf 4 (feltHeader b) ++ bytesOf 2 x.ecount ++ bytesOf 1 x.mcnt ++ bytesOf 1 x.maxc

/-- Put a slot: in the instance, and in the work area of the chip owner. -/
def State.setSlot (s : State) (k b : Nat) (y : CollSlot) : State :=
  let x := s.inst k
  let d := s.desc x.c
  let o := d.owner x.m b
  let s := s.setColl k { x with slots := aset x.slots b y }
  match s.phys (d.cfirst + o.2.1) with
  | some p => s.localWrite p 1 (d.wkofs + o.2.2 * d.slotSize) (slotBytes d y) false
  | none => s

/-- Send a scale byte of block b to a device: a Voile message with TAG 0xF, its place in the header (R371; log 11). -/
def State.scaleTo (s : State) (dev c core kind b v : Nat) : State :=
  s.hxSend { s.hdr 1 dev core core 1 with obj := c + 256 * kind, addr := b } (.mail 0xF [BitVec.ofNat 8 v])

/-- Pass a scale byte on along the gather path. -/
def State.scaleSpread (s : State) (k kind b v : Nat) : State :=
  let x := s.inst k
  let d := s.desc x.c
  let o := d.owner x.m b
  (s.gatherNext (s.algOf d) x.members (x.ownerDev o.1)).foldl (fun s dev => s.scaleTo dev x.c (d.cfirst + o.2.1) kind b v) s

/-- Write a byte of the next scale plane (R372). -/
def State.planeWrite (s : State) (x : CollInst) (b v : Nat) : State :=
  let d := s.desc x.c
  let other := if (s.collStat x.c).scPlane then 0 else d.nblk
  s.objWrite d.scobj (d.scofs + other + b) [(BitVec.ofNat 8 v, false)]

/-- E_b (R370). -/
def State.ebOf (s : State) (x : CollInst) (b : Nat) : Option Nat :=
  let d := s.desc x.c
  if x.sca then afind x.e b
  else if d.smode = 0 then some d.efix
  else
    let cur := if (s.collStat x.c).scPlane then d.nblk else 0
    some (min 255 ((((s.objRead d.scobj (d.scofs + cur + b) 1).1.headD (0, false)).1).toNat + 1))

/-! ### Results (R362, R372, R373) -/

/-- Write bytes of a result at an offset of the destination region of core position i; a refused write freezes that core (R299). -/
def State.destWrite (s : State) (d : CDesc) (i ofs : Nat) (b : List Byte) : State :=
  match s.phys (d.cfirst + i) with
  | none => s
  | some p =>
    match localSpace d.dobj with
    | some sp => if spaceSize sp < d.dofs + ofs + b.length then s.freezeAt p 9 frzOut 0xFFFF (s.localAddr p sp (d.dofs + ofs))
      else s.localWrite p sp (d.dofs + ofs) b false
    | none =>
      let a := d.dofs + i * d.cstride + ofs
      match s.check (.core (d.cfirst + i)) true false d.dobj a b.length with
      | some r => s.freezeAt p 9 r d.dobj ((s.objEnt d.dobj).start + a)
      | none => s.wholeWrite d.dobj a (b.map fun y => (y, false))

/-- Read 256 B of a source region: bytes, or the freeze or halt that a refused or poisoned read ends in (R26, R299, R359). -/
def State.srcRead (s : State) (d : CDesc) (p i ofs : Nat) (e : Cqe) : Except State (List Byte × State) :=
  match localSpace d.sobj with
  | some sp =>
    if spaceSize sp < d.sofs + ofs + 256 then .error (s.freezeAt p 9 frzOut 0xFFFF (s.localAddr p sp (d.sofs + ofs)))
    else let r := s.localRead p sp (d.sofs + ofs) 256
      if r.2 then .error (s.haltWord p 9 e 0x0C (2 + sp)) else .ok (r.1, s)
  | none =>
    let a := d.sofs + i * d.cstride + ofs
    match s.check (.core (d.cfirst + i)) false false d.sobj a 256 with
    | some r => .error (s.freezeAt p 9 r d.sobj ((s.objEnt d.sobj).start + a))
    | none => let r := s.coreRead p d.sobj a 256
      if r.1.any Prod.snd then .error (r.2.haltWord p 9 e 0x0C 5) else .ok (r.1.map Prod.fst, r.2)

/-- A final block is written at its owner, and its scale byte goes to every member. -/
def State.writeResult (s : State) (k b : Nat) : State :=
  let x := s.inst k
  let d := s.desc x.c
  let y := x.slot b
  let o := d.owner x.m b
  let blk := y.blk.getD (feltZero ((s.ebOf x b).getD 0))
  let s := match d.oform with
    | 0 =>
      let v := if y.ecount = 0 && !blk.nf then List.replicate 64 (0 : W32) else feltDecode d.w (if d.mean then y.ecount else 1) blk
      s.destWrite d o.2.1 (256 * o.2.2) (v.flatMap fun (z : W32) => bytesOf 4 z.toNat)
    | _ =>
      let n := x.m * d.bc x.m
      let el := blk.n.flatMap fun z => bytesOf (feltW d.w / 8) (codeOf (feltW d.w) z)
      let s := s.destWrite d o.2.1 (d.plane * o.2.2) el
      let s := s.destWrite d o.2.1 (n * d.plane + 4 * o.2.2) (bytesOf 4 (feltHeader blk))
      s.destWrite d o.2.1 (n * (d.plane + 4) + 4 * o.2.2) (bytesOf 2 y.ecount ++ bytesOf 1 y.maxc ++ [0])
  let s := if blk.ovf then s.colCount 0x210 1 else s
  let s := if blk.nf then s.colCount 0x214 1 else s
  let s := if y.ecount = 0 && d.oform = 0 then s.colCount 0x220 1 else s
  let sb := min 255 (max 1 y.maxc + d.head)
  let s := s.planeWrite x b sb
  let x := s.inst k
  let x := { x with ovf := x.ovf || blk.ovf, nf := x.nf || blk.nf, short := x.short || y.ecount < d.local_ * x.m, scales := sins x.scales b }
  (s.setColl k x).scaleSpread k 3 b sb

/-- Blocks that this device owns. -/
def CollInst.ownedAll (x : CollInst) (d : CDesc) : List Nat := (List.range d.cnum).flatMap fun i => d.owned x.m x.me i

/-- A slot begins its redo round (R373). -/
def CollSlot.again (y : CollSlot) : CollSlot := { csent := y.csent, cmax := y.cmax, cloc := y.cloc, ckids := y.ckids, sup := y.sup, redo := 1 }

/-- A block is listed for the redo with E′ on this device. -/
def State.listRedo (s : State) (k b v : Nat) : State :=
  let x := s.inst k
  let y := x.slot b
  let s := s.setColl k { x with re := aset x.re b v, phase := 3 }
  let s := if y.redo = 0 then s.setSlot k b y.again else s
  s.scaleSpread k 2 b v

/-- When every owned block is final, those flagged are listed for the one redo (R373). -/
def State.redoRound (s : State) (k : Nat) : State :=
  let x := s.inst k
  let d := s.desc x.c
  let l := x.ownedAll d
  if l.all fun b => (x.slot b).final then
    (l.filter fun b => (x.slot b).flag).foldl (fun s b =>
      let x := s.inst k
      let blk := (x.slot b).blk.getD (feltZero 0)
      (s.listRedo k b (min 255 (((s.ebOf x b).getD 0) + blk.extra))).colCount 0x20C 1) s
  else s

/-! ### Blocks on their way (R363 to R365) -/

/-- The collective header of a packet of an instance. -/
def State.collHdr (s : State) (x : CollInst) (phase first : Nat) : CollHdr :=
  { cdesc := x.c, inst := x.inst % 256, attempt := x.attempt % 256, step := x.step % 256, phase := phase, w := if (s.desc x.c).w then 1 else 0
    instHi := x.inst / 256 % 32, nb := 1, digest := s.digest x.c, first := first }

/-- Send one block of an instance to a device (R365): a packet of one block (log 53). -/
def State.blockTo (s : State) (k dev phase b : Nat) (blks : List CollBlk) (bytes : List Byte) : State :=
  let x := s.inst k
  let d := s.desc x.c
  let o := d.owner x.m b
  let n := 128 + (if phase = 2 then 256 else d.plane + 4)
  let s := s.setColl k { x with unacked := x.unacked + 1 }
  s.hxSend (s.hdr 7 dev (d.cfirst + o.2.1) (d.cfirst + o.2.1) n) (.coll (s.collHdr x phase b) blks bytes)

/-- The slot of a block as a packet carries it. -/
def CollSlot.pkt (y : CollSlot) : CollBlk := ⟨y.ecount, y.mcnt, y.maxc, y.blk.getD (feltZero 0)⟩

/-- A block moves on when its partial is complete: final at its owner, else forwarded (R363, R364). -/
def State.settleBlock (s : State) (k b : Nat) : State :=
  let x := s.inst k
  let d := s.desc x.c
  let y := x.slot b
  let own := x.ownerDev (d.owner x.m b).1
  let alg := s.algOf d
  if y.loc < d.local_ || y.mcnt < s.through alg x.members own || y.final || y.sent then s
  else
    match s.reduceNext alg x.members s.devId own with
    | none =>
      let flag := y.redo = 0 && (y.blk.any FeltBlk.ovf) && !x.fb
      let s := s.setSlot k b { y with final := true, flag := flag }
      (if flag then s else s.writeResult k b).redoRound k
    | some dev =>
      let s := s.setSlot k b { y with sent := true }
      s.blockTo k dev (if y.redo = 0 then 0 else 1) b [y.pkt] []

/-- A block added into a slot. -/
def CollSlot.add (y : CollSlot) (w : Bool) (c : CollBlk) : CollSlot :=
  { y with blk := some (match y.blk with
              | none => c.blk
              | some b => feltAdd w b c.blk)
           ecount := y.ecount + c.ecount, mcnt := y.mcnt + c.mcnt, maxc := max y.maxc c.maxc }

/-- A contribution reaches its chip owner (R363, R375, R376). -/
def State.blockArrive (s : State) (k b : Nat) (redo : Bool) (c : CollBlk) : State :=
  let x := s.inst k
  let d := s.desc x.c
  let y := x.slot b
  if y.sup || y.final || y.sent then s.colCount 0x21C 1
  else
    let y := if redo && y.redo = 0 then y.again else y
    let y := y.add d.w { c with mcnt := 0 }
    let y := { y with loc := y.loc + 1 }
    let y := if y.loc = d.local_ then { y with mcnt := y.mcnt + 1 } else y
    (s.setSlot k b y).settleBlock k b

/-- A partial of another device arrives (R364, R376). `phase` 3: a salvage. -/
def State.groupArrive (s : State) (k b phase : Nat) (c : CollBlk) : State :=
  let x := s.inst k
  let d := s.desc x.c
  let y := x.slot b
  let y := if phase = 1 && y.redo = 0 then y.again else y
  if y.sup || y.final || y.sent then s.colCount 0x21C 1
  else (s.setSlot k b (y.add d.w c)).settleBlock k b

/-! ### Scale bytes (R371 to R373) -/

/-- E_b is agreed, when the owner has every candidate; else the largest goes on toward the owner. -/
def State.settleScale (s : State) (k b : Nat) : State :=
  let x := s.inst k
  let d := s.desc x.c
  let y := x.slot b
  let o := d.owner x.m b
  let own := x.ownerDev o.1
  let alg := s.algOf d
  if y.cloc < d.local_ || y.ckids < s.feeders alg x.members own || y.csent then s
  else
    let s := s.setColl k { x with slots := aset x.slots b { y with csent := true } }
    match s.reduceNext alg x.members s.devId own with
    | some dev => s.scaleTo dev x.c (d.cfirst + o.2.1) 0 b y.cmax
    | none =>
      let v := min 255 (max 1 y.cmax + d.head)
      let x := s.inst k
      (s.setColl k { x with e := aset x.e b v }).scaleSpread k 1 b v

/-- A scale byte reaches an exchange unit of this device: kind 0 a candidate, 1 E_b, 2 a redo's E, 3 S_b. -/
def State.takeScale (s : State) (c kind b v : Nat) (dev : Bool) : State :=
  match s.collOf c with
  | none => s
  | some (k, x) =>
    match kind with
    | 0 =>
      let y := x.slot b
      let y := if dev then { y with ckids := y.ckids + 1, cmax := max y.cmax v } else { y with cloc := y.cloc + 1, cmax := max y.cmax v }
      (s.setColl k { x with slots := aset x.slots b y }).settleScale k b
    | 1 => (s.setColl k { x with e := aset x.e b v }).scaleSpread k 1 b v
    | 2 => s.listRedo k b v
    | _ => ((s.planeWrite x b v).setColl k { x with scales := sins x.scales b }).scaleSpread k 3 b v

/-- MAILBOX_MESSAGE (R287, R371): a Voile message arrives; one with TAG 0xF of an instance goes to it. -/
def execMailboxMessage (k : Nat) (s : State) : Out :=
  .next <|
    match s.mesh[k]? with
    | some (.scale _ _ c kind b v) => if s.inOrder k then (s.unsend k).takeScale c kind b v false else s
    | _ => s.mailArrive k

/-! ### Contributions (R353, R359, R367, R379, R381) -/

/-- The physical core of the chip owner of block b on this device (R361). -/
def State.chipOwner (s : State) (d : CDesc) (m b : Nat) : Nat := (s.phys (d.cfirst + (d.owner m b).2.1)).getD 0

/-- Put the EX.COLL of a core's program back, wherever its context is. -/
def State.putColl (s : State) (p i : Nat) (e : Cqe) : State := s.modCore p fun c => c.onSaved fun k => k.setWord 9 i e

/-- Read block b of contribution t of a core. -/
def State.contrib (s : State) (d : CDesc) (p pos t b : Nat) (e : Cqe) : Except State (List Fp × State) :=
  match s.srcRead d p pos ((t * d.nblk + b) * 256) e with
  | .error s => .error s
  | .ok (l, s) => .ok ((unpackBits 32 64 (numOf l)).map fun v => f32 (BitVec.ofNat 32 v), s)

/-- Quantise a contribution at E and send it to its chip owner (R359, R363, R379). -/
def State.contribute (s : State) (k p pos b ex : Nat) (redo : Bool) (v : List Fp) : State :=
  let x := s.inst k
  let d := s.desc x.c
  let q := feltQuantise v ex d.w
  let drop := q.nf && d.nfPol
  -- a block that is quantised again was counted the first time (log 173)
  let fresh := drop && !redo
  let c : CollBlk := if drop then ⟨0, 0, feltCandidate v, feltZero ex⟩ else ⟨1, 0, feltCandidate v, q⟩
  let s := if fresh then ((s.colCount 0x218 1).colCause 5).modLedger x.step x.attempt fun l => { l with acc := { l.acc with collNf := l.acc.collNf + 1 } }
    else s
  let s := if redo then s else s.setColl k { x with emax := max x.emax ex }
  if (d.owner x.m b).2.1 = pos then s.blockArrive k b redo c else s.send (.block p (s.chipOwner d x.m b) x.c b redo c)

/-- Gather one owned block: to this device's destination, and on its way (R367). -/
def State.gatherOwn (s : State) (k p pos b : Nat) (e : Cqe) : State :=
  let x := s.inst k
  let d := s.desc x.c
  let o := d.owner x.m b
  let d' := if d.kind = 2 then { d with sobj := d.dobj, sofs := d.dofs } else d
  match s.srcRead d' p pos (256 * o.2.2) e with
  | .error s => s
  | .ok (l, s) =>
    let s := s.destWrite d pos (256 * o.2.2) l
    let x := s.inst k
    let s := s.setColl k { x with got := sins x.got b }
    (s.gatherNext (s.algOf d) x.members s.devId).foldl (fun s dev => s.blockTo k dev 2 b [] l) s

/-- One quantum of an EX.COLL that reduces or gathers. The word's `segs` is its pass: 0 candidates, 1 contributions, 2 redo, 3 gather. -/
def State.collStep (s : State) (k p i : Nat) (e : Cqe) : State :=
  let x := s.inst k
  let d := s.desc x.c
  let pos := (s.logical p).getD 0 - d.cfirst
  let all := d.ncont * d.nblk
  let t := e.n / max 1 d.nblk
  let b := e.n % max 1 d.nblk
  let next (pass : Nat) : Cqe := if e.n + 1 < all then { e with n := e.n + 1 } else { e with n := 0, segs := pass }
  match e.segs with
  | 0 =>
    match s.contrib d p pos t b e with
    | .error s => s
    | .ok (v, s) =>
      let s := s.putColl p i (next 1)
      if (d.owner x.m b).2.1 = pos then s.takeScale x.c 0 b (feltCandidate v) false
      else s.send (.scale p (s.chipOwner d x.m b) x.c 0 b (feltCandidate v))
  | 1 =>
    match s.ebOf x b with
    | none => s
    | some ex =>
      match s.contrib d p pos t b e with
      | .error s => s
      | .ok (v, s) =>
        let s := if x.phase = 1 then s.setColl k { x with phase := 2 } else s
        (s.putColl p i (next 2)).contribute k p pos b ex false v
  | 2 =>
    match x.re.find? fun y => !e.vals.tail.contains y.1 with
    | none => if x.gather then s.putColl p i { e with segs := 3, n := 0 } else s
    | some (b, ex) =>
      let s := s.putColl p i { e with vals := e.vals ++ [b] }
      -- a contribution that freezes or halts the core ends the pass (R169)
      ((List.range d.ncont).foldl (fun (a : State × Bool) t =>
        if a.2 then a
        else match a.1.contrib d p pos t b e with
          | .error s => (s, true)
          | .ok (v, s) => (s.contribute k p pos b ex true v, false)) (s, false)).1
  | _ =>
    match (d.owned x.m x.me pos)[e.n]? with
    | none => s
    | some b => (s.putColl p i { e with n := e.n + 1 }).gatherOwn k p pos b e

/-- One quantum of an EX.COLL of KIND NORM (R381): its block goes to the engine; the result goes to OUT. -/
def State.normStep (s : State) (k p i : Nat) (c : Core) (e : Cqe) : State :=
  let x := s.inst k
  if c.exchBlocked i e then s
  else if e.n = 0 then
    match c.exchTake (wIna e.word) 3 with
    | none => s.modCore p fun k => k.onSaved fun _ => c.waitEmpty (wIna e.word)
    | some (.error info) => s.haltWord p 9 e 0x0C info
    | some (.ok (l, c)) =>
      let b := feltOfBytes false (entsBytes l)
      let b := { b with n := b.n.take 16 ++ List.replicate 48 0 }
      let s := s.modCore p fun k => k.onSaved fun _ => c.setWord 9 i { e with n := 1 }
      s.send (.normUp p x.c b)
  else if e.ents.isEmpty then s
  else if !c.dqRoom (wOut e.word) 3 then s.modCore p fun k => k.onSaved fun _ => c.waitFull (wOut e.word)
  else
    let l := (s.logical p).getD 0
    let s := s.modCore p fun k => k.onSaved fun _ =>
      (c.pushDq (wOut e.word) (e.ents.map fun y => { data := y, tok := e.seqno })).setWord 9 i { e with ents := [], n := 2 }
    s.setColl k { x with pushed := sins x.pushed l }

/-- EX.COLL (R353, R359, R381): one quantum of its part in the running instance; a preempted program's goes on (R374). -/
def execExColl (c i : Nat) (s : State) : Out :=
  .next <| s.onCore c fun s p k =>
    let kp := k.prog
    match (kp.words 9)[i]? with
    | none => s
    | some e =>
      if !e.started || e.fin || wOp e.word ≠ 7 || !(k.working || k.pre.saved.isSome) then s
      else
        match s.collOf (xCdesc e.word) with
        | none => s
        | some (slot, x) => if s.dKind x.c = 3 then s.normStep slot p i kp e else s.collStep slot p i e

/-! ### Start and end (R353, R354, R357, R358) -/

/-- The cores of a descriptor's set with the place of their EX.COLL that has not joined an instance; none while one is missing. -/
def State.joiners (s : State) (c : Nat) : Option (List (Nat × Nat)) :=
  let d := s.desc c
  ((List.range d.cnum).map (· + d.cfirst)).mapM fun l => (s.phys l).bind fun p =>
    ((s.core p).prog.words 9).zipIdx.findSome? fun x =>
      if x.1.started && !x.1.fin && wOp x.1.word = 7 && xCdesc x.1.word = c then some (p, x.2) else none

/-- n bytes from an offset of a descriptor's space or T2 object, with CSTRIDE for the last core, exist (R357). -/
def State.regionOk (s : State) (d : CDesc) (obj ofs n : Nat) : Bool :=
  match localSpace obj with
  | some sp => ofs + n ≤ spaceSize sp
  | none => let e := s.objEnt obj; e.valid && e.tier = 1 && ofs + (d.cnum - 1) * d.cstride + n ≤ e.bytes

/-- R357: the instance is refused. A device that is no member of it, and an NBLK of 0, are refused too (log 174). -/
def State.refuses (s : State) (c inst : Nat) (members : List Nat) : Bool :=
  let d := s.desc c
  let m := members.length
  let g := s.geom
  let regions := m * d.bc m
  let outBytes := if d.kind = 1 then 256 else if d.oform = 0 then 256 else d.plane + 8
  d.rsv || d.deadline = 0 || (d.w && !(s.gfeat).getLsbD 2) || (d.lr && !(s.gfeat).getLsbD 3) || !bitAt (aget 1 s.regs 0x340010).toNat 0 || 8192 ≤ inst
    || m = 0 || !members.contains s.devId || (d.alg = 2 && s.topo ≠ 1)
    || (d.alg = 0 && (s.topo = 3 || s.topo = 4) && s.roster ≠ List.range (g.1 * g.2.1 * g.2.2))
    || (d.kind ≠ 3 &&
        (d.local_ * m > d.nplan || d.nblk = 0
          || !s.regionOk d d.sobj d.sofs (if d.kind = 1 then 256 * regions else 256 * d.nblk * d.ncont)
          || !s.regionOk d d.dobj d.dofs (outBytes * regions)
          || (d.kind ≠ 1 && (spaceSize 1 < d.wkofs + regions * d.slotSize
              || !(let e := s.objEnt d.scobj; e.valid && e.tier = 1 && d.scofs + 2 * d.nblk ≤ e.bytes)))))

/-- The causes of a status. -/
def statusCause (st : Nat) : Option Nat :=
  match st with
  | 2 => some 1 | 3 => some 2 | 4 => some 3 | 5 => some 4 | 6 => some 6 | 7 => some 7 | _ => none

/-- An instance ends with a status (R354, R358): DSTAT, causes and counters; the words end; the step monitor is told. -/
def State.collFinish (s : State) (c st step attempt inst : Nat) : State :=
  let d := s.desc c
  let x := s.collStat c
  let s := s.setDstat c { x with status := st, inst := inst, attempt := attempt }
  let s := ((s.colCount 0x200 1).colCause 0)
  let s := if st = 2 then s.colCount 0x204 1 else if st = 3 then s.colCount 0x208 1 else s
  let s := match statusCause st with
    | some n => s.colCause n
    | none => s
  let s := ((List.range d.cnum).map (· + d.cfirst)).foldl (fun s l => match s.phys l with
    | none => s
    | some p => s.modCore p fun c' => c'.onSaved fun k => k.setWords 9 ((k.words 9).map fun e =>
        if e.started && !e.fin && wOp e.word = 7 && xCdesc e.word = c then { e with fin := true, vals := [0, 0, st, if d.kind = 1 then 1 else 0] } else e)) s
  let s := if st = 2 || st = 6 || st = 7 then s.modLedger step attempt fun l => { l with late := true } else s
  s.sendTotals

/-- The running instance in slot k ends. -/
def State.collEnd (s : State) (k st : Nat) : State :=
  let x := s.inst k
  { s with colls := adel s.colls k }.collFinish x.c st x.step x.attempt x.inst

/-- Status of an instance that is complete (R358). -/
def CollInst.status (x : CollInst) : Nat := if x.fb && x.short then 3 else if x.ovf then 4 else if x.nf then 5 else 1

/-! ### COLL packets (R365, R367, R375) -/

/-- A packet of an instance that runs. -/
def State.collDeliver (s : State) (k : Nat) (h : PktHdr) (ch : CollHdr) (blks : List CollBlk) (bytes : List Byte) : State :=
  let x := s.inst k
  let d := s.desc x.c
  let s := if ch.phase = 2 then
      (List.range ch.nb).foldl (fun s j =>
        let b := ch.first + j
        let o := d.owner x.m b
        let u := (bytes.drop (256 * j)).take 256
        let s := s.destWrite d o.2.1 (256 * o.2.2) u
        let y := s.inst k
        let s := s.setColl k { y with got := sins y.got b }
        (s.gatherNext (s.algOf d) x.members (x.ownerDev o.1)).foldl (fun s dev => s.blockTo k dev 2 b [] u) s) s
    else blks.zipIdx.foldl (fun s y => s.groupArrive k (ch.first + y.2) ch.phase y.1) s
  s.hxSend { s.backHdr 6 h 0 with addr := 0x100 + ch.cdesc } (.data [])

/-- A packet names an instance that this device has not started yet: a later one of its step, attempt, or a later step (R365). -/
def State.collAhead (s : State) (ch : CollHdr) : Bool :=
  let x := s.collStat ch.cdesc
  let inst := ch.inst + 256 * ch.instHi
  if ch.step = x.step % 256 && x.started ≠ 0 then
    let da := (ch.attempt + 256 - x.attempt % 256) % 256
    if da = 0 then x.started ≤ inst else da < 128
  else (ch.step + 256 - x.step % 256) % 256 < 128

/-- A COLL packet that passed the port's checks. -/
def State.takeColl (s : State) (p : Nat) (h : PktHdr) (ch : CollHdr) (blks : List CollBlk) (bytes : List Byte) : State :=
  if ch.digest ≠ s.digest ch.cdesc then
    let s := s.colCount 0x224 1
    match s.collOf ch.cdesc with
    | some (k, _) => s.collEnd k 7
    | none => s
  else
    match s.collOf ch.cdesc with
    | some (k, x) =>
      if x.inst = ch.inst + 256 * ch.instHi && x.attempt % 256 = ch.attempt && x.step % 256 = ch.step then s.collDeliver k h ch blks bytes
      else if s.collAhead ch then { s with collHeld := s.collHeld ++ [{ port := p, h := h, ch := ch, blks := blks, bytes := bytes }] }
      else s.colCount 0x21C 1
    | none => if s.collAhead ch then { s with collHeld := s.collHeld ++ [{ port := p, h := h, ch := ch, blks := blks, bytes := bytes }] }
      else s.colCount 0x21C 1

/-- COLL_PACKET (R326, R344, R365). -/
def execCollPacket (p : Nat) (h : PktHdr) (tagOk : Bool) (ch : CollHdr) (blks : List CollBlk) (bytes : List Byte) (s : State) : Out :=
  .next <| s.rx p 7 h tagOk (.coll ch blks bytes) (.collPacket p h tagOk ch blks bytes) fun s => (s.colCount 0x22C h.plen).takeColl p h ch blks bytes

/-- COLL_BLOCK_ARRIVAL (R363). -/
def execCollBlockArrival (k : Nat) (s : State) : Out :=
  .next <|
    match s.mesh[k]? with
    | some (.block _ _ c b redo x) =>
      if !s.inOrder k then s else
      match s.collOf c with
      | some (slot, _) => (s.unsend k).blockArrive slot b redo x
      | none => (s.unsend k).colCount 0x21C 1
    | _ => s

/-- COLL_INSTANCE_START (R353, R357): every core of the set has started its EX.COLL; at most 16 instances run. -/
def execCollInstanceStart (c : Nat) (s : State) : Out :=
  .next <|
    match s.joiners c with
    | none => s
    | some [] => s
    | some ((p, i) :: rest) =>
      if (s.collOf c).isSome || 16 ≤ s.colls.length then s
      else
        let q := (s.core p).prog.seq
        let d := s.desc c
        let x := s.collStat c
        let inst := if x.step = q.step && x.attempt = q.attempt then x.started else 0
        let members := s.roster.filter fun m => bitAt d.mmask m || s.rosterMask = 0
        if s.refuses c inst members then s.collFinish c 6 q.step q.attempt inst
        else
          let sca := d.kind ≠ 1 && d.kind ≠ 3 && (d.smode = 1 || (d.smode = 2 && !x.scValid))
          let y : CollInst := { c := c, step := q.step, attempt := q.attempt, inst := inst, members := members, me := rankOf members s.devId
                                sca := sca, phase := if d.kind = 1 then 4 else if sca then 1 else 2, gather := d.kind = 1 }
          let k := ((List.range 16).find? fun n => (afind s.colls n).isNone).getD 0
          let s := s.setColl k y
          let s := s.setDstat c { x with step := q.step, attempt := q.attempt, started := inst + 1, inst := inst }
          let s := ((p, i) :: rest).foldl (fun s z => s.modCore z.1 fun cc => cc.onSaved fun kk =>
            match (kk.words 9)[z.2]? with
            | none => kk
            | some e => kk.setWord 9 z.2 { e with n := 0, segs := if d.kind = 1 then 3 else if sca then 0 else 1 }) s
          let mine := s.collHeld.filter fun h => h.ch.cdesc = c
          mine.foldl (fun s h => s.takeColl h.port h.h h.ch h.blks h.bytes) { s with collHeld := s.collHeld.filter fun h => h.ch.cdesc ≠ c }

/-- The reduce phase of an RS is complete on this device (R366). -/
def State.reduced (s : State) (x : CollInst) : Bool :=
  let d := s.desc x.c
  (x.ownedAll d).all (fun b => (x.slot b).final && !(x.slot b).flag) && x.unacked = 0 && x.scales.length = d.nblk

/-- COLL_INSTANCE_END (R354, R358, R366, R367, R381): the instance ends when its parts are done; an AR goes on to its gather. -/
def execCollInstanceEnd (c : Nat) (s : State) : Out :=
  .next <|
    match s.collOf c with
    | none => s
    | some (k, x) =>
      let d := s.desc c
      if d.kind = 3 then
        if x.pushed.length = d.cnum then s.collEnd k { x with ovf := x.ovf || x.res.any FeltBlk.ovf, nf := x.nf || x.res.any FeltBlk.nf }.status else s
      else if x.gather then
        if x.got.length = d.nblk && x.unacked = 0 then s.collEnd k x.status else s
      else if !s.reduced x then s
      else
        let z := s.collStat c
        let s := s.setDstat c { z with emax := x.emax, emaxV := true, planned := true }
        if d.kind = 2 then s.setColl k { x with gather := true, phase := 4 } else s.collEnd k x.status

/-! ### Deadlines (R374 to R378) -/

/-- The partial sums of a NORM on this device go to the anchor's engine, or, at the anchor, the result goes out (R381). -/
def State.normSend (s : State) (k : Nat) (b : FeltBlk) : State :=
  let x := s.inst k
  let d := s.desc x.c
  let down (s : State) : State :=
    ((List.range d.cnum).map (· + d.cfirst)).foldl (fun s l => match s.phys l with
      | some p => s.send (.normDown p x.c b)
      | none => s) s
  let bytes := (feltBytes false b).take 68
  let msg (s : State) (dev kind : Nat) : State := s.hxSend { s.hdr 1 dev 0x3FF 0x3FF 68 with obj := x.c + 256 * kind } (.mail 0xF bytes)
  if s.isAnchor || x.m = 1 then
    let s := s.setColl k { x with res := some b }
    (x.members.filter fun m => m ≠ s.devId).foldl (fun s m => msg s m 5) (down s)
  else msg s s.anchor 4

/-- A block is added to a NORM's sum; when all are in, it goes on. A device whose partial sum has gone out in the fall-back takes no more (R376). -/
def State.normAdd (s : State) (k : Nat) (b : FeltBlk) (dev : Bool) : State :=
  let x := s.inst k
  let d := s.desc x.c
  let sum := match x.sum with
    | none => b
    | some a => feltAdd false a b
  let locs := if dev then x.locs else x.locs + 1
  let devs := if dev then x.devs + 1 else if locs = d.cnum then x.devs + 1 else x.devs
  let s := s.setColl k { x with sum := some sum, locs := locs, devs := devs }
  if s.isAnchor || x.m = 1 then (if devs = x.m && x.res.isNone then s.normSend k sum else s)
  else if (x.slot 0).sup then s.colCount 0x21C 1
  else if !dev && locs = d.cnum then s.normSend k sum else s

/-- NORM_MESSAGE (R381). -/
def execNormMessage (k : Nat) (s : State) : Out :=
  .next <|
    match s.mesh[k]? with
    | some (.normUp _ c b) => if !s.inOrder k then s else match s.collOf c with
      | some (slot, _) => (s.unsend k).normAdd slot b false
      | none => s.unsend k
    | some (.normDev c up b) => if !s.inOrder k then s else match s.collOf c with
      | none => s.unsend k
      | some (slot, x) =>
        let s := s.unsend k
        if up then s.normAdd slot b true
        else
          let d := s.desc c
          let s := s.setColl slot { x with res := some b }
          ((List.range d.cnum).map (· + d.cfirst)).foldl (fun s l => match s.phys l with
            | some p => s.send (.normDown p c b)
            | none => s) s
    | some (.normDown p c b) =>
      if !s.inOrder k then s else
      (s.unsend k).modCore p fun cc => cc.onSaved fun kk => kk.setWords 9 ((kk.words 9).map fun e =>
        if e.started && !e.fin && wOp e.word = 7 && xCdesc e.word = c && e.n = 1 then { e with ents := entriesOf (feltBytes false b) } else e)
    | _ => s

/-- COLL_DEADLINE (R374, R376, R377): LATE, or the fall-back begins. -/
def execCollDeadline (c : Nat) (s : State) : Out :=
  .next <|
    match s.collOf c with
    | none => s
    | some (k, x) =>
      let d := s.desc c
      if x.gather || (!d.latePol && (d.rbudget = 0 || x.attempt < d.rbudget)) then s.collEnd k 2
      else if x.fb then s
      else
        let s := s.setColl k { x with fb := true, phase := 5, elapsed := d.deadline }
        if d.kind = 3 then
          match x.sum with
          | some b => if s.isAnchor || x.m = 1 || x.locs = d.cnum then s
            else (s.setColl k { s.inst k with slots := aset x.slots 0 { x.slot 0 with sup := true } }).normSend k b
          | none => s
        else
          x.slots.foldl (fun s z =>
            let own := x.ownerDev (d.owner x.m z.1).1
            if z.2.blk.isNone || z.2.sent || z.2.final || own = s.devId then s
            else (s.setSlot k z.1 { z.2 with sup := true }).blockTo k own 3 z.1 [z.2.pkt] []) s

/-- FALLBACK_DEADLINE (R376): at twice the deadline the owner makes its blocks final with what it holds. What other members have not
acknowledged or sent is waited for no longer (log 54). -/
def execFallbackDeadline (c : Nat) (s : State) : Out :=
  .next <|
    match s.collOf c with
    | none => s
    | some (k, x) =>
      let d := s.desc c
      if !x.fb then s
      else if d.kind = 3 then
        if (s.isAnchor || x.m = 1) && x.res.isNone then (s.setColl k { x with short := true }).normSend k (x.sum.getD (feltZero 0)) else s
      else
        let s := ((x.ownedAll d).filter fun b => !(x.slot b).final || (x.slot b).flag).foldl (fun s b =>
          (s.setSlot k b { (s.inst k).slot b with final := true, flag := false }).writeResult k b) s
        let x := s.inst k
        s.setColl k { x with unacked := 0, scales := List.range d.nblk, elapsed := 2 * d.deadline }

/-- ABORT_COLL (COL_CTRL.ABORT, R378): every running instance ends LATE. -/
def execAbortColl (s : State) : Out := .next <| s.colls.foldl (fun s x => s.collEnd x.1 2) s

/-- COL_CNT_CLR.ALL (R384). -/
def execColCntClr (s : State) : Out := .next { s with cnt := s.cnt.filter fun x => x.1 < 0x340200 ∨ 0x34022C < x.1 }

/-! ### Voile packets (R350, R371, R381) -/

/-- A refusal or acceptance of a message on the Voile VC: a packet with no payload, LASTB 1 when accepted (log 11). -/
def State.mailAnswer (s : State) (h : PktHdr) (ok : Bool) : State :=
  s.hxSend { s.backHdr 1 h 0 with lastB := if ok then 1 else 0 } (.mail 0 [])

/-- The answer to a message of this device. -/
def State.mailAnswered (s : State) (h : PktHdr) : State :=
  match s.mesh.zipIdx.findSome? fun x => match x.1 with
    | .rmail src word dev dst tag data false =>
      if dev = h.srcDev && dst = h.srcCore && s.logical src = some h.dstCore then some (x.2, src, word, tag, data) else none
    | _ => none with
  | none => s
  | some (k, src, word, tag, data) =>
    if h.lastB = 1 then (s.unsend k).takeAck src word none 0 false
    else { s with mesh := s.mesh.set k (.rmail src word h.srcDev h.srcCore tag data true) }

/-- VOILE_PACKET (R330, R350). -/
def execVoilePacket (p : Nat) (h : PktHdr) (tagOk : Bool) (tag : Nat) (data : List Byte) (s : State) : Out :=
  .next <| s.rx p 1 h tagOk (.mail tag data) (.voilePacket p h tagOk tag data) fun s =>
    let engine (s : State) : State :=
      let c := h.obj % 256
      let kind := h.obj / 256
      if kind = 4 ∨ kind = 5 then
        let b := feltOf false (numOf (data.take 4)) (unpackBits 32 16 (numOf (data.drop 4)))
        s.send (.normDev c (kind = 4) { b with n := b.n ++ List.replicate 48 0 })
      -- one byte per block, from block ADDR on (R371)
      else data.zipIdx.foldl (fun s y => s.takeScale c kind (h.addr + y.2) y.1.toNat true) s
    if h.plen = 0 then s.mailAnswered h
    else if h.dstCore = 0x3FF then (if tag = 0xF then engine s else s.mailAnswer h true)
    else s.peerCore p h fun c =>
      if tag = 0xF then engine s
      else match s.mailTo c { srcCore := h.srcCore, srcDev := h.srcDev, tag := tag, data := data } with
      | some s => s.mailAnswer h true
      | none => s.mailAnswer h false

end Sys2Proof.Machine
end

