-- ==== Sys2Proof/Machine/Staging.lean ====
section
/-! DEFINITION. Staged configuration (R301, R304, R414 to R417): the staged copy, spare proposals (R31, R32), CHECK, and the flip of the islands
to the next configuration epoch. -/

namespace Sys2Proof.Machine

/-! ### Object-table entries as bytes (R297) -/

def ones (n : Nat) : Nat := 2 ^ n - 1

/-- The reserved bits of an entry. -/
def entRsv : Nat := ones 9 * 2 ^ 55 + ones 15 * 2 ^ 97 + ones 17 * 2 ^ 239


/-- An entry as its 256 bits. -/
def ObjEnt.bits (e : ObjEnt) : Nat :=
  (e.base % 2 ^ 48 + e.tier * 2 ^ 48 + e.kind * 2 ^ 50 + b2n e.valid * 2 ^ 53 + b2n e.guarded * 2 ^ 54
    + (e.size + e.stripe * 2 ^ 24 + b2n e.muslin * 2 ^ 28 + e.mw * 2 ^ 29 + e.mxq * 2 ^ 31 + e.metaObj * 2 ^ 48) * 2 ^ 64
    + (e.wgen + e.version * 2 ^ 16 + e.pincnt * 2 ^ 32 + e.backing * 2 ^ 48) * 2 ^ 128
    + (e.cgR + e.cgW * 2 ^ 16 + b2n e.hostR * 2 ^ 32 + b2n e.hostW * 2 ^ 33 + b2n e.codecR * 2 ^ 34 + b2n e.codecW * 2 ^ 35
      + e.peerR * 2 ^ 36 + e.peerW * 2 ^ 40 + e.bpol * 2 ^ 44 + b2n e.migrating * 2 ^ 46) * 2 ^ 192) ||| e.rsv

/-- The entry of 256 bits. -/
def ObjEnt.ofBits (x : Nat) : ObjEnt where
  base := bitsOf x 0 48
  tier := bitsOf x 48 2
  kind := bitsOf x 50 3
  valid := bitAt x 53
  guarded := bitAt x 54
  size := bitsOf x 64 24
  stripe := bitsOf x 88 4
  muslin := bitAt x 92
  mw := bitsOf x 93 2
  mxq := bitsOf x 95 2
  metaObj := bitsOf x 112 16
  wgen := bitsOf x 128 16
  version := bitsOf x 144 16
  pincnt := bitsOf x 160 16
  backing := bitsOf x 176 16
  cgR := bitsOf x 192 16
  cgW := bitsOf x 208 16
  hostR := bitAt x 224
  hostW := bitAt x 225
  codecR := bitAt x 226
  codecW := bitAt x 227
  peerR := bitsOf x 228 4
  peerW := bitsOf x 232 4
  bpol := bitsOf x 236 2
  migrating := bitAt x 238
  rsv := x &&& entRsv

/-- Word n (0 to 7) of an entry, and the entry with the table fields of word n written; hardware fields keep their values. -/
def ObjEnt.word (e : ObjEnt) (n : Nat) : W32 := BitVec.ofNat 32 (bitsOf e.bits (32 * n) 32)
def ObjEnt.setWord (e : ObjEnt) (n : Nat) (v : W32) : ObjEnt :=
  let x := e.bits
  (ObjEnt.ofBits (x - bitsOf x (32 * n) 32 * 2 ^ (32 * n) + v.toNat * 2 ^ (32 * n))).hardware e

/-- A stripe set's words 0 to 3 (10). -/
def StripeSet.word (x : StripeSet) (n : Nat) : Nat :=
  match n with
  | 0 => b2n x.valid + x.tier * 2 + x.gran * 4 + x.chmask * 16
  | 1 => x.start + x.len * 2 ^ 16
  | 2 => x.chofs
  | _ => 0
def StripeSet.setWord (x : StripeSet) (n v : Nat) : StripeSet :=
  match n with
  | 0 => { x with valid := bitAt v 0, tier := bitsOf v 1 1, gran := bitsOf v 2 2, chmask := bitsOf v 4 8 }
  | 1 => { x with start := bitsOf v 0 16, len := bitsOf v 16 16 }
  | 2 => { x with chofs := bitsOf v 0 16 }
  | _ => x

/-! ### Spares (R14, R31, R32) -/

/-- Mesh coordinates of a cluster. -/
def meshXY (g : Nat) : Nat × Nat :=
  let q := g / 16
  let c := g % 16
  (4 * (q % 2) + c % 4, 4 * (q / 2) + c / 4)

def absDiff (a b : Nat) : Nat := (a - b) + (b - a)

def meshHops (a b : Nat) : Nat :=
  let x := meshXY (clusterOf a)
  let y := meshXY (clusterOf b)
  absDiff x.1 y.1 + absDiff x.2 y.2

/-- The rank of a spare for a fenced core: same cluster, then same quadrant, then fewest hops, then the lowest number (R32). -/
def spareRank (p q : Nat) : Nat :=
  let cls := if clusterOf p = clusterOf q then 0 else if p / 128 = q / 128 then 1 else 2
  (cls * 32 + meshHops p q) * 512 + q

/-- The spare proposed for a fenced core. -/
def spareFor (spares : List Nat) (p : Nat) : Option Nat :=
  spares.foldl (fun (b : Option Nat) q => match b with
    | none => some q
    | some r => if spareRank p q < spareRank p r then some q else b) none

/-- Physical cores in logical order with each core for which `dead` holds replaced by its proposed spare, while one is left; a number that finds
none is dropped (R31, R32; log 59). R32 does not say which of several fenced cores takes its spare first: they are served in ascending logical
order, and each keeps its place in the numbering (DESIGN CHOICE, log 59; unsafe). Answers the cores, with whether each was a spare, and the spares
left. -/
def replaceDead (dead : Nat → Bool) : List (Nat × Bool) → List Nat → List (Nat × Bool) × List Nat
  | [], sp => ([], sp)
  | x :: t, sp =>
    if !dead x.1 then
      let r := replaceDead dead t sp
      (x :: r.1, r.2)
    else
      match spareFor sp x.1 with
      | none => replaceDead dead t sp
      | some q =>
        let r := replaceDead dead t (sp.erase q)
        ((q, true) :: r.1, r.2)

/-- Numbers given densely. -/
def denseMap (l : List (Nat × Bool)) (epoch : Nat) : Amap MapEnt :=
  l.zipIdx.map fun x => (x.2, { phys := x.1.1, valid := true, remapped := x.1.2, epoch := epoch })

/-- Physical ports, DDR5 channels and codec engines that are not fused: an FJ2-384 (grade 2) fuses the same ones on every device (R2, R485). -/
def bootPorts (grade : Nat) : List Nat := (List.range 24).filter fun p => grade ≠ 2 || p % 6 < 4
def bootUnits (grade : Nat) : List Nat := (List.range 8).filter fun u => grade ≠ 2 || u % 2 = 0
/-- Logical cores of a grade (R2). -/
def gradeCores (grade : Nat) : Nat := if grade = 0 then 480 else if grade = 1 then 448 else 384

/-- A map without the units for which `gone` holds, numbered densely again (R10, R35). -/
def shrinkMap (m : Amap MapEnt) (gone : Nat → Nat → Bool) : Amap MapEnt :=
  if m.any fun x => gone x.1 x.2.phys then ((m.filter fun x => !gone x.1 x.2.phys).map Prod.snd).zipIdx.map fun x => (x.2, x.1) else m

def State.isFenced (s : State) (p : Nat) : Bool := s.fences.any fun f => f.p = p

/-! ### The staged copy (R414) -/

/-- Open a session: the staged copy holds every live setting; with PROPOSE, the spare proposals (R32). A setting that is not written in the session
stays what the live one is (log 60). A port that has failed and a codec engine that has failed are left out, so that they leave the numbering at the
commit (R25, R35). -/
def State.openSession (s : State) (propose : Bool) : State :=
  let l := s.lmap.map fun x => (x.2.phys, x.2.remapped)
  let lm := if propose then denseMap (replaceDead s.isFenced l s.spares).1 0 else s.lmap
  { s with
    cfg := { st := 1, lmap := lm, lport := shrinkMap s.lport fun i _ => (s.port i).state = .failed, lchan := s.lchan
             lcodec := shrinkMap s.lcodec fun _ ph => s.obj.codecOos.contains ph || s.obj.codecBad.contains ph }
    staged := []
    obj := { s.obj with staged := [], cgrpStaged := s.obj.cgrp, stripesStaged := s.obj.stripes } }

/-- Close the session with no change. -/
def State.closeSession (s : State) : State :=
  { s with cfg := {}, staged := [], obj := { s.obj with staged := [], cgrpStaged := [], stripesStaged := [] } }

/-- The staged map after a write of PCORE or PHYS at place i: the next number extends the map, up to the n units that the grade enables (R2). -/
def stageMap (n : Nat) (m : Amap MapEnt) (i phys : Nat) : Amap MapEnt :=
  if i ≤ m.length && i < n then aset m i { (aget { phys := 0 } m i) with phys := phys, valid := true } else m

/-- A field of this offset is staged: of a register map, a logical map, the object table, core groups or stripe sets. -/
def stagedField (off : Nat) : Bool :=
  (stagedReg off).isSome || (off % 4 = 0 &&
    ((0x1000 ≤ off && off < 0x1800) || (0x3000 ≤ off && off < 0x3060) || (0x3100 ≤ off && off < 0x3120) || (0x3200 ≤ off && off < 0x3220)
      || (0x400020 ≤ off && off < 0x400040) || (0x401000 ≤ off && off < 0x401100) || (0x400100 ≤ off && off < 0x400200)))

/-- The staged copy of an object entry. -/
def State.stagedEnt (s : State) (i : Nat) : ObjEnt :=
  match afind s.obj.staged i with
  | some e => e.hardware (s.objEnt i)
  | none => s.objEnt i

/-- OBJ_SEL. -/
def State.objSel (s : State) : Nat := (aget 0 s.regs 0x400010).toNat

/-- Write a staged field of the open session. -/
def State.setStaged (s : State) (off : Nat) (v : W32) : State :=
  let n := v.toNat
  if (stagedReg off).isSome then { s with staged := aset s.staged off v }
  else if 0x1000 ≤ off && off < 0x1800 then { s with cfg := { s.cfg with lmap := stageMap (gradeCores s.grade) s.cfg.lmap ((off - 0x1000) / 4) (bitsOf n 0 9) } }
  else if 0x3000 ≤ off && off < 0x3060 then { s with cfg := { s.cfg with lport := stageMap (bootPorts s.grade).length s.cfg.lport ((off - 0x3000) / 4) (bitsOf n 0 5) } }
  else if 0x3100 ≤ off && off < 0x3120 then { s with cfg := { s.cfg with lchan := stageMap (bootUnits s.grade).length s.cfg.lchan ((off - 0x3100) / 4) (bitsOf n 0 3) } }
  else if 0x3200 ≤ off && off < 0x3220 then { s with cfg := { s.cfg with lcodec := stageMap (bootUnits s.grade).length s.cfg.lcodec ((off - 0x3200) / 4) (bitsOf n 0 3) } }
  else if 0x400020 ≤ off && off < 0x400040 then
    let i := s.objSel % 65536
    if bitAt s.objSel 16 then { s with obj := { s.obj with staged := aset s.obj.staged i ((s.stagedEnt i).setWord ((off - 0x400020) / 4) v) } }
    else s
  else if 0x401000 ≤ off && off < 0x401100 then { s with obj := { s.obj with cgrpStaged := aset s.obj.cgrpStaged ((off - 0x401000) / 4) n } }
  else if 0x400100 ≤ off && off < 0x400200 then
    let i := (off - 0x400100) / 16
    { s with obj := { s.obj with stripesStaged := aset s.obj.stripesStaged i ((aget {} s.obj.stripesStaged i).setWord (off % 16 / 4) n) } }
  else s

/-- A write of a staged field: ignored and counted while no session is open, ignored while it is locked (R414, R418). -/
def State.stageWrite (s : State) (off : Nat) (v : W32) : State :=
  if s.cfg.st = 0 then s.bump 0xC048 1 else if s.cfg.st ≠ 1 || s.cfg.locked then s else s.setStaged off v

/-! ### CHECK (R301, R304, R415) -/

/-- What is kept by logical number, carried over to a new map of the same units. -/
def rekey {α : Type} (old new : Amap MapEnt) (m : Amap α) : Amap α :=
  new.foldl (fun a x => match old.find? fun y => y.2.phys = x.2.phys with
    | none => a
    | some y => (afind m y.1).elim a fun v => aset a x.1 v) []

/-- Registers of per-unit blocks of 4 KiB from a base, carried over to a new map. -/
def rekeyRegs (base : Nat) (old new : Amap MapEnt) (m : Amap W32) : Amap W32 :=
  if old.map (fun x => (x.1, x.2.phys)) = new.map (fun x => (x.1, x.2.phys)) then m
  else
    m.foldl (fun a x =>
      if x.1 < base || base + 0x1000 * 24 ≤ x.1 then aset a x.1 x.2
      else
        match (afind old ((x.1 - base) / 0x1000)).bind fun e => new.find? fun y => y.2.phys = e.phys with
        | none => a
        | some y => aset a (base + 0x1000 * y.1 + (x.1 - base) % 0x1000) x.2) []

/-- The registers and counters of ports, DDR5 channels and codec engines follow their units to new maps. -/
def State.moveBlocks (s : State) (lport lchan lcodec : Amap MapEnt) : State :=
  let f (m : Amap W32) : Amap W32 :=
    rekeyRegs 0x430000 s.lcodec lcodec (rekeyRegs 0x420000 s.lchan lchan (rekeyRegs 0x310000 s.lport lport m))
  { s with ports := rekey s.lport lport s.ports, regs := f s.regs, cnt := f s.cnt, lport := lport, lchan := lchan, lcodec := lcodec }

/-- The state with the staged settings in force, which the rules of CHECK test. -/
def State.stagedView (s : State) : State :=
  if s.cfg.st = 0 then s
  else
    let s := s.moveBlocks s.cfg.lport s.cfg.lchan s.cfg.lcodec
    { s with
      obj := { s.obj with table := s.obj.staged.foldl (fun t x => aset t x.1 (x.2.hardware (aget {} t x.1))) s.obj.table
                          cgrp := s.obj.cgrpStaged, stripes := s.obj.stripesStaged }
      regs := overRegs s.regs s.staged
      lmap := s.cfg.lmap, ncores := s.cfg.lmap.length }

/-- Two ranges of device addresses overlap. -/
def overlap (a n b m : Nat) : Bool := n ≠ 0 && m ≠ 0 && a < b + m && b < a + n

/-- Rule 0x01: size, tier range, populated; a T1 range stays within the part of a slice that a core addresses (R432). -/
def State.rulePlaced (v : State) (e : ObjEnt) : Bool :=
  e.size ≠ 0 && tierBase e.tier ≤ e.start && e.start + e.bytes ≤ tierEnd e.tier && e.tier ≤ 2 &&
    (e.tier ≠ 0 || (e.start / 0x800000 < v.ncores && e.start % 0x800000 + e.bytes ≤ sliceSize))

/-- Rule 0x03: inside the stripe set's region; T1 names set 0. -/
def State.ruleStripe (v : State) (e : ObjEnt) : Bool :=
  if e.tier = 0 then e.stripe = 0
  else
    let x := aget {} v.obj.stripes e.stripe
    let a := tierBase (x.tier + 1) + x.start * gib
    x.valid && x.tier + 1 = e.tier && a ≤ e.start && e.start + e.bytes ≤ a + x.len * gib

/-- Rule 0x05: the metadata object of a coded object. -/
def State.ruleMeta (v : State) (e : ObjEnt) : Bool :=
  let m := v.objEnt e.metaObj
  !e.muslin || (e.mw ≠ 3 && m.valid && m.tier = 1 && m.kind = 6 && (e.size + 127) / 128 ≤ m.size)

/-- Rule 0x07: the backing copy. -/
def State.ruleBacking (v : State) (e : ObjEnt) : Bool :=
  let b := v.objEnt e.backing
  (e.bpol = 0 || (b.valid && b.tier = 1 && b.size = e.size)) && !(e.kind = 1 && e.tier = 0 && e.bpol ≠ 1)

/-- Rule 0x09: the two numbers that are never valid, reserved fields and values. -/
def ruleReserved (i : Nat) (e : ObjEnt) : Bool := !(65534 ≤ i && e.valid) && e.rsv = 0 && e.bpol ≠ 3

/-- The destinations of migrations other than of object i. -/
def State.migRanges (s : State) (i : Nat) : List (Nat × Nat) :=
  (s.obj.migs.filter fun m => m.obj ≠ i).map fun m => (m.dest.start, m.dest.bytes)

/-- Rule 0x02: no other valid object, nor the second range of one that migrates, is overlapped. -/
def State.ruleAlone (v : State) (i : Nat) (e : ObjEnt) : Bool :=
  !(v.obj.table.any fun y => y.1 ≠ i && y.2.valid && overlap e.start e.bytes y.2.start y.2.bytes)
    && !((v.migRanges i).any fun r => overlap e.start e.bytes r.1 r.2)

/-- Rule 0x08: an entry that is held is not changed. `old`: the live entry. -/
def State.ruleHeld (s : State) (i : Nat) (old e : ObjEnt) : Bool :=
  let held := old.migrating || old.pincnt ≠ 0 || s.obj.shadows.any fun h => h.obj = i
  !held || e = old

/-- The first rule of R301 that entry i breaks; `s`: the state with the live settings, `v`: with the staged ones. -/
def State.entRule (s v : State) (i : Nat) (e : ObjEnt) : Option Nat :=
  if e.valid && !v.rulePlaced e then some 1
  else if e.valid && !v.ruleAlone i e then some 2
  else if e.valid && !v.ruleStripe e then some 3
  else if e.valid && e.tier = 2 && !e.muslin then some 4
  else if e.valid && !v.ruleMeta e then some 5
  else if e.valid && e.mxq ≠ 0 && (e.kind ≠ 2 || e.mxq = 3) then some 6
  else if e.valid && !v.ruleBacking e then some 7
  else if !s.ruleHeld i (s.objEnt i) e then some 8
  else if !ruleReserved i e then some 9
  else none

/-- The first failure of a list of entries: entry and rule. -/
def firstFail (l : List (Nat × Option Nat)) : Option (Nat × Nat) := l.findSome? fun x => x.2.map fun r => (x.1, r)

/-- Every staged entry is tested against the whole table; one that is not staged is not (R296, R301). -/
def State.checkObjects (s v : State) : Option (Nat × Nat) := firstFail (s.obj.staged.map fun x => (x.1, s.entRule v x.1 (v.objEnt x.1)))

/-- The slab of a set on each of its channels: start and length in GiB of channel address. -/
def StripeSet.slab (x : StripeSet) : Nat × Nat :=
  let n := max 1 (maskList 8 x.chmask).length
  (x.chofs, (x.len + n - 1) / n)

/-- The region of a set: start and length in device addresses (R303). -/
def StripeSet.region (x : StripeSet) : Nat × Nat := (tierBase (x.tier + 1) + x.start * gib, x.len * gib)

/-- The requirement of R304 that set i breaks. -/
def State.stripeRule (v : State) (i : Nat) (x : StripeSet) : Option Nat :=
  let all := v.obj.stripes.filter fun y => y.1 ≠ i && y.2.valid
  let others := all.filter fun y => y.2.tier = x.tier
  let chs := maskList 8 x.chmask
  let chOk (c : Nat) : Bool := (x.tier = 0 || (afind v.lchan c).isSome) && (v.chan (v.chanOf x.tier c)).state = 1
  let sl := x.slab
  let slabOk (c : Nat) : Bool :=
    sl.1 + sl.2 ≤ (v.chan (v.chanOf x.tier c)).cap &&
      !(others.any fun y => bitAt y.2.chmask c && overlap sl.1 sl.2 y.2.slab.1 y.2.slab.2)
  if !x.valid then none
  else if all.any fun y => overlap x.region.1 x.region.2 y.2.region.1 y.2.region.2 then some 1
  else if chs.isEmpty || !(chs.all chOk) then some 2
  else if !(chs.all slabOk) then some 3
  else if x.gran = 0 && v.obj.table.any (fun y => y.2.valid && y.2.tier ≠ 0 && y.2.stripe = i && y.2.muslin) then some 4
  else none

def State.checkStripes (v : State) : Option (Nat × Nat) := firstFail (v.obj.stripes.map fun x => (x.1, v.stripeRule x.1 x.2))

/-- A map names one unit twice: the later entry. -/
def dupAt (m : Amap MapEnt) (i phys : Nat) : Bool := m.any fun y => y.1 < i && y.2.phys = phys

/-- PCORE_STATE.STATE is logical or spare (R33). -/
def State.coreUsable (s : State) (p : Nat) : Bool :=
  !s.fused.contains p && !s.isFenced p && (s.spares.contains p || s.lmap.any fun x => x.2.phys = p)

/-- The rules of the logical maps (R33, R415), in their order; `s`: the state with the live maps. A fused unit is out of service. A channel that
keeps its number may be out of service (log 162). -/
def State.checkMaps (s v : State) : Option (Nat × Nat) :=
  let core := v.lmap.map fun x =>
    (x.1, if dupAt v.lmap x.1 x.2.phys then some 1
          else if !s.coreUsable x.2.phys then some 2
          else if v.fused.contains x.2.phys || v.isFenced x.2.phys then some 3 else none)
  let unit (m : Amap MapEnt) (oos : Nat → Nat → Bool) : List (Nat × Option Nat) :=
    m.map fun x => (x.1, if dupAt m x.1 x.2.phys then some 1 else if oos x.1 x.2.phys then some 4 else none)
  let keeps (i ph : Nat) : Bool := (afind s.lchan i).any fun e => e.phys = ph
  firstFail (core ++ unit v.lport (fun i ph => (v.port i).state = .failed || !(bootPorts v.grade).contains ph)
    ++ unit v.lchan (fun i ph => !(bootUnits v.grade).contains ph || ((v.chan (8 + ph)).state ≠ 1 && !keeps i ph))
    ++ unit v.lcodec (fun _ ph => v.obj.codecOos.contains ph || !(bootUnits v.grade).contains ph))

/-- A device is linked, and only at revision 1: it is never a member (R332). -/
def State.onlyR1 (v : State) (d : Nat) : Bool :=
  let l := v.ports.filter fun x => x.2.peerDev = d && x.2.isUp
  !l.isEmpty && l.all fun x => x.2.state = .upR1

/-- The squads of a roster are more than an FJ2-384 has ports for (R4). -/
def State.tooManySquads (v : State) : Bool :=
  v.grade = 2 && v.topo = 1 && 1 < ((maskList 64 v.rosterMask).foldl (fun l d => sins l (d / 16)) []).length

/-- The rules of the Hextis group that a member tests on itself (R340, R378). The table gives no rule number to a squads group that an FJ2-384
cannot join (R4) and to a member that is linked at revision 1 only (R332): 0x06 and 0x01 (log 163). -/
def State.checkHextis (s v : State) : Option (Nat × Nat) :=
  let rt (x : State) (d : Nat) : Nat := (aget 0 x.regs (0x300100 + 4 * d)).toNat
  let one (d : Nat) : Option Nat :=
    let mode := bitsOf (rt v d) 24 2
    let ports := maskList 24 (rt v d)
    if 2 ≤ mode && !(ports.all fun p => (v.port p).state = .up) then some 1
    else if v.inRoster d && v.onlyR1 d then some 1
    else if mode = 2 && !(ports.all fun p => (v.port p).peerDev = d) then some 2
    else if d = v.devId && mode ≠ 1 then some 3
    else none
  let changed := (List.range 64).any (fun d => rt v d ≠ rt s d) || v.rosterMask ≠ s.rosterMask || v.topo ≠ s.topo
    || aget 0 v.regs 0x340014 ≠ aget 0 s.regs 0x340014
  firstFail ((List.range 64).map (fun d => (d, one d)) ++
    [(0, if 5 ≤ v.topo || v.tooManySquads then some 6 else none), (0, if changed && !s.colls.isEmpty then some 7 else none)])

/-- The rules of the power limits (R465); the entry is the low half of the register's offset (log 61). -/
def State.checkPower (v : State) : Option (Nat × Nat) :=
  let l := (aget 0x7085DC v.regs 0x500010).toNat
  let d := (aget 0x100 v.regs 0x500014).toNat % 2048
  let lim := bitsOf l 0 12
  let fast := bitsOf l 12 12
  firstFail [(0x10, if lim < 800 || 1800 < lim then some 1 else if fast < lim || 1920 < fast then some 2 else none),
    (0x14, if d < 64 || 1024 < d then some 3 else none)]

/-- The rules of COL_GEOM. -/
def State.checkGeom (s v : State) : Option (Nat × Nat) :=
  let g := (aget 0 v.regs 0x340014).toNat
  let n := bitsOf g 0 7 * bitsOf g 7 7 * bitsOf g 14 7
  firstFail [(0, if aget 0 s.regs 0x340014 ≠ aget 0 v.regs 0x340014 && !s.colls.isEmpty then some 1
    else if (v.topo = 3 || v.topo = 4) && n ≠ v.roster.length then some 2 else none)]

/-- The rules of the frame bindings: of those that are enabled. -/
def State.checkFrames (v : State) : Option (Nat × Nat) :=
  let w (n k : Nat) : Nat := (aget 0 v.regs (0xC100 + 16 * n + 4 * k)).toNat
  let en (n : Nat) : Bool := bitAt (w n 0) 0
  let first (n : Nat) : Nat := bitsOf (w n 0) 2 10
  let num (n : Nat) : Nat := bitsOf (w n 0) 12 10
  let codeAt (a : Nat) : Bool := (v.findObj a).any fun o => (v.objEnt o).kind = 3
  firstFail ((List.range 4).map fun n =>
    (n, if !en n then none
        else if (List.range n).any fun m => en m && overlap (first n) (num n) (first m) (num m) then some 1
        else if v.ncores < first n + num n then some 2
        else if !codeAt ((w n 1 + w n 2 % 65536 * 2 ^ 32) * 16) then some 3
        else if w n 2 / 65536 = 0 then some 4 else none))

/-- CHECK: the detail of the first rule that fails, block by block (R415). -/
def State.checkDetail (s : State) : Option Nat :=
  let v := s.stagedView
  let det (blk : Nat) (r : Option (Nat × Nat)) : Option Nat := r.map fun x => x.1 + x.2 * 2 ^ 16 + blk * 2 ^ 24
  [det 0 (s.checkObjects v), det 1 v.checkStripes, det 2 (s.checkMaps v), det 3 (s.checkHextis v), det 4 v.checkPower, det 6 (s.checkGeom v),
    det 7 v.checkFrames].findSome? id

/-- Set bits of CFG_CAUSE: 0 COMMITTED, 1 CHECK_FAIL, 2 FLIP_SLOW, 3 TIMEOUT, 4 ABORTED. -/
def State.cfgCause (s : State) (bit : Nat) : State := s.raise 0xC030 0xC034 3 0x1E (BitVec.ofNat 32 (2 ^ bit))

/-- Run CHECK: CFG_RESULT, and on a failure its count and cause. -/
def State.runCheck (s : State) : State × Option Nat :=
  match s.checkDetail with
  | none => ({ s with regs := aset s.regs 0xC018 0 }, none)
  | some d => ((State.bump { s with regs := aset s.regs 0xC018 (BitVec.ofNat 32 d) } 0xC044 1).cfgCause 1, some d)

/-! ### The flip (R416, R417) -/

/-- The islands: cores, clusters, stacks, channels, codec engines, ports, the control complex, the power island. -/
def islandCount : Nat := 626

/-- The entry of the port, channel or codec map when it takes effect: EPOCH where the unit changed (R35). -/
def unitEntry (old : Amap MapEnt) (epoch : Nat) (x : Nat × MapEnt) : Nat × MapEnt :=
  match afind old x.1 with
  | some o => if o.phys = x.2.phys then (x.1, o) else (x.1, { phys := x.2.phys, epoch := epoch })
  | none => (x.1, { phys := x.2.phys, epoch := epoch })

/-- The entry of the core map when it takes effect: EPOCH where the core changed; REMAPPED for a spare; VALID for a working core. -/
def State.mapEntry (s : State) (old : Amap MapEnt) (epoch : Nat) (x : Nat × MapEnt) : Nat × MapEnt :=
  match afind old x.1 with
  | some o =>
    if o.phys = x.2.phys then (x.1, { o with valid := !s.isFenced o.phys })
    else (x.1, { phys := x.2.phys, valid := !s.isFenced x.2.phys, remapped := s.spares.contains x.2.phys, epoch := epoch })
  | none => (x.1, { phys := x.2.phys, valid := !s.isFenced x.2.phys, remapped := s.spares.contains x.2.phys, epoch := epoch })

/-- A flip begins to an epoch (R416); a roster change raises the roster epoch (R343) and brings the group's features, `gfeat` (R333). -/
def State.beginFlip (s : State) (epoch : Nat) (ring tell : Option Nat) (gfeat : W32 := 0x7F) : State :=
  let v := s.stagedView
  let rc := v.rosterMask ≠ s.rosterMask
  let f : Flip := {
    epoch := epoch
    repoch := if rc then (s.repoch + 1) % 65536 else s.repoch
    table := s.obj.staged
    cgrp := v.obj.cgrp
    stripes := v.obj.stripes
    regs := s.staged
    lmap := v.lmap
    lport := v.lport
    lchan := v.lchan
    lcodec := v.lcodec
    ring := ring
    tell := tell
    gfeat := if rc then some gfeat else none }
  { s with flip := some f, cfg := { s.cfg with st := 3, locked := true } }

/-- The engines of a core that leaves the map have ended their ramp: no command names them any more (log 164). -/
def Core.rampEnded (c : Core) : Core :=
  let f (g : Engine) : Engine := if g.act = .down then { g with act := .idle, groups := 0 } else g
  { c with engA := f c.engA, engB := f c.engB }

/-- The logical maps take effect: working cores that the new map leaves out become spares. -/
def State.applyMaps (s : State) (f : Flip) : State :=
  let lm := f.lmap.map (s.mapEntry s.lmap f.epoch)
  let used := lm.map fun x => x.2.phys
  let left := (s.lmap.map fun x => x.2.phys) ++ s.spares
  let sp := left.foldl (fun l p => if used.contains p || s.isFenced p then l else sins l p) []
  let s := s.moveBlocks (f.lport.map (unitEntry s.lport f.epoch)) (f.lchan.map (unitEntry s.lchan f.epoch)) (f.lcodec.map (unitEntry s.lcodec f.epoch))
  let gone (p : Nat) : Bool := (s.lmap.any fun x => x.2.phys = p) && !used.contains p
  { s with lmap := lm, ncores := lm.length, spares := sp, cores := s.cores.map fun x => if gone x.1 then (x.1, x.2.rampEnded) else x }

/-- Registers of the control complex among the staged ones: interrupt routing, frame bindings, COL_GEOM. -/
def ofControl (off : Nat) : Bool := off < 0x200000 || off = 0x340014
def ofPower (off : Nat) : Bool := 0x500000 ≤ off && off < 0x600000

/-- An island's flip. The control complex takes the maps, interrupt routing and frame bindings, the power island the power limits; the others use the
new settings in what they do (Ops: enter). -/
def State.flipIsland (s : State) (isl : Nat) : State :=
  match s.flip with
  | none => s
  | some f =>
    if islandCount ≤ isl || f.flipped.contains isl then s
    else
      let mine (x : Nat × W32) : Bool := if isl = 624 then ofControl x.1 else isl = 625 && ofPower x.1
      let s := { s with regs := overRegs s.regs (f.regs.filter mine) }
      let s := if isl = 624 then s.applyMaps f else s
      { s with flip := some { f with flipped := sins f.flipped isl, regs := f.regs.filter fun x => !mine x } }

/-- Every island has flipped. -/
def Flip.all (f : Flip) : Bool := f.flipped.length = islandCount

/-- Work that carries the epoch that a flip replaces is still under way (R416): a started copy that has taken its set-up, or a DMA tag. -/
def State.oldWork (s : State) : Bool :=
  s.cores.any fun x =>
    let old (e : Nat) : Bool := e = s.epoch % 256
    (s.logical x.1).isSome && !x.2.fence.fenced &&
      (x.2.tags.any (fun t => old t.2.epoch) || x.2.dmaQ.any (fun g => old g.epoch) ||
        (x.2.words 1).any fun e => e.started && !e.fin && wOp e.word = 2 && e.n ≠ 0 && old e.epoch)

/-- The credit pools of ports whose split a commit of TOPO or DATELINE changes (R323): what is in flight stays owed (log 159). -/
def State.splitPools (s t : State) : State :=
  { t with ports := t.ports.map fun x =>
      let a := s.pools x.1
      let b := t.pools x.1
      if a = b then x
      else (x.1, { x.2 with cred := b.zipIdx.map fun y => y.1 - (a.getD y.2 0 - x.2.cred.getD y.2 0) }) }

/-- The flip is complete: the new settings are the device's (R416). Copies of changed entries leave the lookasides (R300), codec engines that have
failed are out of service (R25), and a roster commit brings HX_GFEAT (R333). -/
def State.endFlip (s : State) (f : Flip) : State :=
  let s1 := s.splitPools { s.enter f with flip := none }
  let s1 := s1.dropLook (f.table.map Prod.fst)
  let s1 := { s1 with obj := { s1.obj with codecOos := s1.obj.codecBad.foldl sins s1.obj.codecOos, codecBad := [] } }
  let s1 := match f.gfeat with
    | some g => { s1 with regs := aset s1.regs 0x300024 g }
    | none => s1
  let s1 := if f.repoch ≠ s.repoch then { s1 with rcepoch := f.epoch } else s1
  let s1 := { s1 with cores := s1.cores.map fun (x : Nat × Core) =>
    if x.2.fence.fenced && !(s1.isFenced x.1) then (x.1, { x.2 with fence := {} }) else x }
  ((s1.closeSession.level 4 false).bump 0xC040 1).cfgCause 0

end Sys2Proof.Machine
end

