-- ==== Sys2Proof/Machine/Firmware.lean ====
section
/-! DEFINITION. Signed images, firmware slots, updates and the boot chain (R440 to R446, R456, R457, R476). -/

namespace Sys2Proof.Machine

/-- A little-endian field of a byte string. -/
def leAt (d : List Byte) (at_ n : Nat) : Nat := numOf ((d.drop at_).take n)
def zeroAt (d : List Byte) (at_ n : Nat) : Bool := ((d.drop at_).take n).all fun b => b = 0

/-- ML-DSA-44 verification: 0 under a Luastan key of the boot ROM by its number, 1 under a public key. -/
def luastanOk (key : Nat) (msg sig : List Byte) : Bool := Config.verify 0 [BitVec.ofNat 8 key] msg sig
def mldsaOk (pk msg sig : List Byte) : Bool := Config.verify 1 pk msg sig

/-- Bytes of the signature trailer (R441). -/
def trailerLen : Nat := 2560

/-- Place of the fuse counter of a component among SEC, MGMT, RT, MAN (R440, R441); core programs and tokens have none. -/
def svnIndex (comp : Nat) : Option Nat :=
  if comp = 4 then some 0 else if comp = 3 then some 1 else if comp = 2 then some 2 else if comp = 5 then some 3 else none

def Sec.svnOf (x : Sec) (comp : Nat) : Nat := (svnIndex comp).elim 0 fun i => x.svn.getD i 0

/-- The RESULT of the checks of R442 in their order: 0 passes. -/
def Sec.checkImage (x : Sec) (comp : Nat) (img : List Byte) : Nat :=
  let n := img.length - trailerLen
  let cov := img.take n
  let t := img.drop n
  let signer := leAt t 6 1
  let key := leAt t 7 1
  let trailerOk := trailerLen ≤ img.length && t.take 4 = [0x54, 0x53, 0x49, 0x47] && leAt t 4 2 = 1 && zeroAt t 17 7 && zeroAt t 64 64
    && zeroAt t 2548 12 && leAt t 24 8 = n && signer ≤ 1 && (signer = 0 || key = 0)
  if !trailerOk then 1
  else if leAt t 16 1 ≠ comp then 6
  else if (t.drop 32).take 32 ≠ sha3 cov then 2
  else if (if signer = 0 then 4 ≤ key || bitAt x.keyrev key else x.ownerKey.isNone) then 3
  else
    let sig := (t.drop 128).take 2420
    let ok := if signer = 0 then luastanOk key (t.take 128) sig else mldsaOk (x.ownerKey.getD []) (t.take 128) sig
    if !ok then 4
    else if 64 < leAt t 8 4 || leAt t 8 4 < x.svnOf comp then 5
    else 0

/-- The signer of an image's trailer: 1 the owner. -/
def signerOf (img : List Byte) : Nat := leAt (img.drop (img.length - trailerLen)) 6 1

/-- Check an image and record the result in SEC_FW_STAT. -/
def State.checkImage (s : State) (comp : Nat) (img : List Byte) : State × Nat :=
  let r := s.sec.checkImage comp img
  ({ s with sec := { s.sec with fwComp := comp % 8, fwResult := r } }, r)

/-- Entries of a manifest (R444). -/
def manEntries (cov : List Byte) : List (List Nat) :=
  (List.range (leAt cov 6 2)).map fun e =>
    [leAt cov (16 + 16 * e) 1, leAt cov (20 + 16 * e) 4, leAt cov (24 + 16 * e) 4, leAt cov (28 + 16 * e) 4]

/-- What an accepted image is to the boot chain; `seq`: the slot's sequence. -/
def imageOf (comp : Nat) (img : List Byte) (seq : Nat) : Image :=
  let n := img.length - trailerLen
  let t := img.drop n
  { seq := seq, fwver := leAt t 12 4, svn := leAt t 8 4, digest := (t.drop 32).take 32
    manSeq := if comp = 5 then leAt (img.take n) 8 4 else 0
    entries := if comp = 5 then manEntries (img.take n) else [] }

/-! ### Updates (R457, R476) -/

/-- Flash offset of slot k of a component, and the size of its slots (R475). -/
def slotAt (comp k : Nat) : Nat :=
  if comp = 4 then 0x400000 * k else if comp = 3 then 0x800000 + 0x400000 * k else if comp = 2 then 0x1000000 * (k + 1) else 0x3000000 + 0x10000 * k
def slotSize (comp : Nat) : Nat := if comp = 2 then 0x1000000 else if comp = 5 then 0x10000 else 0x400000

/-- Slot a is newer than slot b (R476). -/
def newerSlot (a b : Nat) : Bool := let d := (a + 2 ^ 32 - b) % 2 ^ 32; 1 ≤ d && d ≤ 2 ^ 31 - 1

/-- The inactive slot: one that is invalid, else the older one, and the sequence of the other. -/
def Sec.inactive (x : Sec) (comp : Nat) : Nat × Nat :=
  match afind x.slots (2 * comp), afind x.slots (2 * comp + 1) with
  | none, b => (0, b.elim 0 Image.seq)
  | some a, none => (1, a.seq)
  | some a, some b => if newerSlot a.seq b.seq then (1, a.seq) else (0, b.seq)

/-- A slot header (R476). -/
def slotHeader (comp seq len : Nat) : List Byte :=
  let h := [0x54, 0x53, 0x4C, 0x54] ++ bytesOf 2 1 ++ [BitVec.ofNat 8 comp, 0] ++ bytesOf 4 seq ++ List.replicate 4 0 ++ bytesOf 8 len
    ++ List.replicate 36 (0 : Byte)
  h ++ bytesOf 4 (crc32c h).toNat

/-- Sectors of an image that starts at an offset. -/
def sectorJobs (at_ : Nat) (img : List Byte) : List FlashJob :=
  (List.range ((img.length + 4095) / 4096)).map fun i => { at_ := at_ + 4096 * i, data := (img.drop (4096 * i)).take 4096, kind := .image }

/-- An accepted image goes to the inactive slot: the header sector is erased, the image written, the header written last (R476). `who`: the ring,
or the mailbox, that waits. -/
def State.startUpdate (s : State) (comp : Nat) (img : List Byte) (who : Option Nat) : State :=
  let t := s.sec.inactive comp
  let a := slotAt comp t.1
  let seq := (t.2 + 1) % 2 ^ 32
  let slot := 2 * comp + t.1
  let jobs := [({ at_ := a, data := [], kind := .erase slot } : FlashJob)] ++ sectorJobs (a + 4096) img
    ++ [{ at_ := a, data := slotHeader comp seq img.length, kind := .header slot (imageOf comp img seq) }]
  State.flashTry { s with flashQ := s.flashQ ++ jobs, sec := { s.sec with updating := aset s.sec.updating comp who } }

/-! ### Boot (R443 to R445) -/

/-- The slots of a component that the boot accepts, newest first. -/
def Sec.accepted (x : Sec) (comp : Nat) : List Image :=
  let ok (i : Image) : Bool := x.svnOf comp ≤ i.svn
  let l := ((afind x.slots (2 * comp)).toList ++ (afind x.slots (2 * comp + 1)).toList).filter ok
  match l with
  | [a, b] => if newerSlot b.seq a.seq then [b, a] else [a, b]
  | l => l

/-- The manifest with the higher sequence. -/
def bestManifest (l : List Image) : Option Image :=
  l.foldl (fun (b : Option Image) i => match b with
    | none => some i
    | some y => if y.manSeq < i.manSeq then some i else b) none

/-- The first combination of management and runtime slots that the manifest names. -/
def pickTuple (man : Image) (sec : Image) (mgmt rt : List Image) : Option (Image × Image) :=
  (mgmt.flatMap fun m => rt.map fun r => (m, r)).find? fun x => man.entries.contains [stepping, sec.fwver, x.1.fwver, x.2.fwver]

/-- SECURE_BOOT (R443, R445): the images that run, or the recovery state with its reason. -/
def Sec.boot (x : Sec) : Sec :=
  let fail (r : Nat) (run : Amap Image) : Sec := { x with recovery := true, rreason := r, run := run }
  match x.accepted 4 with
  | [] => fail 1 []
  | sec :: _ =>
    let run := [(4, sec)]
    if (x.accepted 3).isEmpty then fail 2 run
    else if (x.accepted 2).isEmpty then fail 3 run
    else
      match bestManifest (x.accepted 5) with
      | none => fail 4 run
      | some man =>
        match pickTuple man sec (x.accepted 3) (x.accepted 2) with
        | none => fail 5 run
        | some (m, r) => { x with recovery := false, rreason := 0, run := [(2, r), (3, m), (4, sec), (5, man)] }

/-! ### Measurements and SEC_STAT (R449, R458) -/

/-- SEC_STAT [7:0]. -/
def State.secStat (s : State) : Nat :=
  b2n s.sealed_ + 2 * b2n s.sec.debug + 4 * b2n s.sec.recovery + 8 * s.sec.rreason + 64 * b2n s.sec.owner.isSome + 128 * b2n s.sec.scrub.isSome

/-- The owner key hash; zeros when none. -/
def Sec.ownerHash (x : Sec) : List Byte := match x.ownerKey with
  | some pk => sha3 pk
  | none => List.replicate 32 0

/-- Measurement block i: SVN, FWVER, value (R449). The boot ROM's is the hash of the ROM, which is not given (log 10). -/
def State.measBlock (s : State) (i : Nat) : Nat × Nat × List Byte :=
  let img (c : Nat) : Nat × Nat × List Byte := let l := s.sec.layer c; (l.2.1, l.2.2, l.1)
  match i with
  | 1 => (0, 0, Config.romHash)
  | 2 => img 4
  | 3 => img 3
  | 4 => img 2
  | 5 => img 5
  | 6 => (0, 0, sha3 ([if s.sec.debug then 1 else 0, if s.sealed_ then 1 else 0] ++ s.sec.ownerHash
      ++ bytesOf 4 ((afind s.sec.run 5).elim 0 Image.manSeq)))
  | _ => (0, 0, s.sec.meas7)

/-- The evidence of ATTEST (R450). -/
def State.evidence (s : State) (nonce : List Byte) : List Byte :=
  let blk (m : Nat) : List Byte :=
    let b := s.measBlock (m + 1)
    [BitVec.ofNat 8 (m + 1), 0, 0, 0] ++ bytesOf 4 b.1 ++ bytesOf 4 b.2.1 ++ List.replicate 4 0 ++ ((b.2.2 ++ List.replicate 32 0).take 32)
  let h : List Byte := [0x54, 0x41, 0x54, 0x54]
  let body := h ++ bytesOf 2 1 ++ bytesOf 2 7 ++ ((nonce ++ List.replicate 28 0).take 28) ++ [BitVec.ofNat 8 s.secStat, BitVec.ofNat 8 s.epoch]
    ++ List.replicate 26 0 ++ (List.range 7).flatMap blk
  body ++ ((s.sec.attestKey.sign body ++ List.replicate 2420 0).take 2420)

end Sys2Proof.Machine
end

