-- ==== Sys2Proof/Machine/Security.lean ====
section
/-! DEFINITION. The security island's commands: SPDM, owner sessions and sealed mode, the security mailbox, updates by PLDM (R448 to R458). -/

namespace Sys2Proof.Machine

/-- A device answers on a management or security transport (bodies by log 11). -/
def State.answer (s : State) (tr code : Nat) (d : List Byte) : State := s.emit (.response tr code d)

/-- Response codes of the model's trace: an error response, and an answer to request n (log 11). -/
def rspError : Nat := 0x7F
def State.refuse (s : State) (tr : Nat) : State := s.answer tr rspError []

/-! ### SPDM requests outside a session (R447, R448) -/

def execGetVersion (tr : Nat) (s : State) : Out := .next (s.answer tr 0x04 [0x14])
def execGetCapabilities (tr : Nat) (s : State) : Out := .next (s.answer tr 0x61 (Config.message 0x61 []))

/-- NEGOTIATE_ALGORITHMS: ML-DSA-44, SHA3-256, ML-KEM-768 and AES-256-GCM, numbered 0 to 3; an offer without one of them is refused. -/
def execNegotiateAlgorithms (tr : Nat) (offer : List Nat) (s : State) : Out :=
  .next (if (List.range 4).all offer.contains then s.answer tr 0x63 [0, 1, 2, 3] else s.refuse tr)

/-- The DeviceID certificate as flash holds it, and whether its hash is the fused one (R447). -/
def State.devidCert (s : State) : List Byte := Memory.bytes s.flash 0x3020000 0x10000
def State.certServed (s : State) : Bool := sha3 s.devidCert = Config.certHash

/-- The chain of slot 0 (R447). -/
def State.certChain (s : State) : List Byte := s.devidCert ++ s.sec.aliasCert ++ s.sec.attestCert

def execGetDigests (tr slot : Nat) (s : State) : Out :=
  .next (if slot = 0 then s.answer tr 0x01 (sha3 s.certChain) else s.refuse tr)

/-- GET_CERTIFICATE (R447): slot 0, and only while the DeviceID certificate matches its fused hash. -/
def execGetCertificate (tr slot ofs len : Nat) (s : State) : Out :=
  .next (if slot = 0 && s.certServed then s.answer tr 0x02 ((s.certChain.drop ofs).take len) else s.refuse tr)

/-- CHALLENGE: signed by the attestation key (R439). -/
def execChallenge (tr slot : Nat) (nonce : List Byte) (s : State) : Out :=
  .next (if slot = 0 then s.answer tr 0x03 (sha3 s.certChain ++ nonce ++ s.sec.attestKey.sign (sha3 s.certChain ++ nonce)) else s.refuse tr)

/-- The value of measurement block i. -/
def State.measValue (s : State) (i : Nat) : List Byte := ((s.measBlock i).2.2 ++ List.replicate 32 0).take 32

/-- GET_MEASUREMENTS (R449): 0 their number, 1 to 7 a block, 0xFF all; signed. -/
def execGetMeasurements (tr index : Nat) (nonce : List Byte) (s : State) : Out :=
  .next <|
    let d (l : List Nat) : List Byte := l.flatMap s.measValue
    let ans (b : List Byte) : State := s.answer tr 0x60 (b ++ nonce ++ s.sec.attestKey.sign (b ++ nonce))
    if index = 0 then ans [7]
    else if index ≤ 7 then ans (d [index])
    else if index = 0xFF then ans (d [1, 2, 3, 4, 5, 6, 7])
    else s.refuse tr

/-! ### Sessions (R448, R451) -/

/-- Discard the sealed pages that are open (R454): each is counted. -/
def State.discardPages (s : State) : State :=
  State.bump { s with sec := { s.sec with wpages := [], rpages := [] } } 0x60008C (s.sec.wpages.length + s.sec.rpages.length)

/-- Owner status ends (R451): the envelope key is destroyed. -/
def State.endOwner (s : State) : State :=
  let s := s.discardPages
  { s with sec := { s.sec with owner := none, env := [] } }

/-- A session ends; it takes its owner status with it. -/
def State.endSession (s : State) (sess : Nat) : State :=
  let s := if s.sec.owner = some sess then s.endOwner else s
  { s with sec := { s.sec with sess := adel s.sec.sess sess } }

/-- KEY_EXCHANGE: a session of the four begins; a fifth is refused. -/
def execKeyExchange (tr : Nat) (data : List Byte) (s : State) : Out :=
  .next <|
    match (List.range 4).find? fun i => (afind s.sec.sess i).isNone with
    | none => s.refuse tr
    | some i =>
      let th := sha3 data
      let s := { s with sec := { s.sec with sess := aset s.sec.sess i { tr := tr, th := th } } }
      s.answer tr 0x64 ([BitVec.ofNat 8 i] ++ Config.derive 2 [] data ++ s.sec.attestKey.sign th)

/-- FINISH: the session is established, or ends where its MAC fails. -/
def execFinish (sess : Nat) (macOk : Bool) (s : State) : Out :=
  .next <|
    match afind s.sec.sess sess with
    | none => s
    | some x =>
      if x.est then s.refuse x.tr
      else if !macOk then (s.endSession sess).refuse x.tr
      else
        let s := { s with sec := { s.sec with sess := aset s.sec.sess sess { x with est := true, th := sha3 (x.th ++ [1]) } } }
        (s.bump 0x600094 1).answer x.tr 0x65 []

/-- Run `f` in an established session; any other is refused. -/
def State.inSession (s : State) (sess : Nat) (f : Spdm → State) : State :=
  match afind s.sec.sess sess with
  | none => s
  | some x => if x.est then f x else s.refuse x.tr

/-- KEY_UPDATE: the session's keys change, and the IDE keys of R439 end. -/
def execKeyUpdate (sess : Nat) (s : State) : Out :=
  .next (s.inSession sess fun x => State.answer { s with sec := { s.sec with ide := [] } } x.tr 0x69 [])
def execHeartbeat (sess : Nat) (s : State) : Out := .next (s.inSession sess fun x => s.answer x.tr 0x68 [])

/-- END_SESSION (R451). -/
def execEndSession (sess : Nat) (s : State) : Out := .next (s.inSession sess fun x => (s.endSession sess).answer x.tr 0x6C [])

/-- SESSION_FAULT (R451): a session fault ends the session and its owner status. -/
def execSessionFault (sess : Nat) (s : State) : Out := .next (s.endSession sess)

/-- IDE_KM (R385, R439): the keys of the PCIe IDE streams, inside an SPDM session. -/
def execIdeKm (sess : Nat) (data : List Byte) (s : State) : Out :=
  .next (s.inSession sess fun x => State.answer { s with sec := { s.sec with ide := data } } x.tr 0x7E [])

/-! ### Owner requests (R451 to R453) -/

/-- OWNER_CLAIM. -/
def execOwnerClaim (sess : Nat) (pk sig : List Byte) (s : State) : Out :=
  .next (s.inSession sess fun x =>
    let other := match s.sec.ownerKey with
      | some k => k ≠ pk
      | none => false
    if pk.length ≠ 1312 || sig.length ≠ 2420 || other || !mldsaOk pk x.th sig then s.refuse x.tr
    else
      let s := if s.sec.owner = some sess then s else s.endOwner
      let c := { s.sec with ownerKey := some pk, owner := some sess, env := kdf (Config.derive 3 x.th []) (ascii "FJ2 ENVELOPE")
                            hctr := if s.sec.owner = some sess then s.sec.hctr else 0
                            dctr := if s.sec.owner = some sess then s.sec.dctr else 0 }
      State.answer { s with sec := c } x.tr 0x7E [0x01])

/-- HWIN_SEG[i].EN. -/
def State.segOn (s : State) (i : Nat) : Bool := bitAt (aget 0 s.regs (0x200500 + 8 * i)).toNat 0

/-- SEAL_WREC. -/
def State.wrec (s : State) : Nat := (aget 0 s.regs 0x600050).toNat % 65536

/-- What SEAL requires besides an owner session (R453). -/
def State.sealable (s : State) : Bool :=
  let o := s.objEnt s.wrec
  !s.sec.recovery && !s.sec.debug && (List.range 16).all (fun i => !s.segOn i) && o.valid && o.tier = 1 && o.kind = 6

/-- SEAL: from the owner session; no effect while sealed. -/
def execSeal (sess : Nat) (s : State) : Out :=
  .next (s.inSession sess fun x =>
    if s.sec.owner ≠ some sess then s.refuse x.tr
    else if s.sealed_ then s.answer x.tr 0x7E [0x02]
    else if s.sealable then State.answer { s with sealed_ := true } x.tr 0x7E [0x02]
    else s.refuse x.tr)

/-- RELEASE: from the owner session; the key and its hash are cleared, and the device leaves sealed mode after a scrub. -/
def execRelease (sess : Nat) (s : State) : Out :=
  .next (s.inSession sess fun x =>
    if s.sec.owner ≠ some sess then s.refuse x.tr
    else
      let sc := if s.sealed_ then some 0 else s.sec.scrub
      State.answer { s with sec := { s.sec with ownerKey := none, scrub := sc } } x.tr 0x7E [0x03])

/-- OWNER_INFO. -/
def execOwnerInfo (sess : Nat) (s : State) : Out :=
  .next (s.inSession sess fun x =>
    if s.sec.owner ≠ some sess then s.refuse x.tr
    else s.answer x.tr 0x7E ([0x04, BitVec.ofNat 8 s.secStat] ++ s.sec.ownerHash ++ bytesOf 8 s.sec.hctr ++ bytesOf 8 s.sec.dctr))

/-- Zeros in every near scratchpad, slice and HBM4 stack, and a new T3 key (R453). -/
def State.scrubbed (s : State) : State :=
  { s with t0 := [], slice := [], t0Pz := [], slicePz := []
           tier := s.tier.filter fun x => tierKey 8 0 ≤ x.1, tierPz := s.tierPz.filter fun u => tierKey 8 0 / 64 ≤ u
           t3Key := s.t3Key + 1 }

/-- SCRUB_DONE (R453): the scrub ends, and sealed mode with it. -/
def execScrubDone (s : State) : Out :=
  .next <|
    match s.sec.scrub with
    | none => s
    | some _ => { s.scrubbed with sealed_ := false, sec := { s.sec with scrub := none } }

/-! ### The security mailbox (R456 to R458) -/

def State.mbxReg (s : State) (off : Nat) : Nat := (aget 0 s.regs (0x600000 + off)).toNat

/-- The mailbox runs operation `opc`. -/
def State.mbxRuns (s : State) (opc : Nat) : Bool := s.sec.mbxBusy && s.mbxReg 0x30 = opc

/-- The mailbox status of a failed check (R442). -/
def mbxOf (result : Nat) : Nat := if result = 5 then 5 else 4

/-- MANIFEST_WRITE: the manifest read from MBX_ADDR is checked and written to its inactive slot. -/
def execManifestWrite (data : List Byte) (s : State) : Out :=
  .next <|
    if !s.mbxRuns 1 || (s.sec.updating.any fun x => x.2 = some mbxWaits) then s
    else
      let d := data.take (s.mbxReg 0x40)
      if d.length < trailerLen + 32 || slotSize 5 - 4096 < d.length then s.mbxEnd 2
      else if (afind s.sec.updating 5).isSome then s.mbxEnd 1
      else
        let r := s.checkImage 5 d
        if r.2 ≠ 0 then r.1.mbxEnd (mbxOf r.2) else r.1.startUpdate 5 d (some mbxWaits)

/-- A rollback staging record (R479) with the four targets. -/
def rollbackRec (targets : List Nat) (seq : Nat) : List Byte :=
  let h := [0x52, 0x42, 0x53, 0x54] ++ bytesOf 2 1 ++ [0, 0] ++ bytesOf 8 seq ++ targets.map (BitVec.ofNat 8)
  let b := h ++ List.replicate (4092 - h.length) (0 : Byte)
  b ++ bytesOf 4 (crc32c b).toNat

/-- The copy of the staging record that a write replaces, and its SEQ, by the rule of R424. -/
def State.rollbackTarget (s : State) : Nat × Nat :=
  let seqOf (k : Nat) : Option Nat :=
    let b := Memory.bytes s.flash (0x3032000 + 0x1000 * k) 4096
    if b.take 6 = [0x52, 0x42, 0x53, 0x54, 1, 0] ∧ leAt b 4092 4 = (crc32c (b.take 4092)).toNat then some (leAt b 8 8) else none
  match seqOf 0, seqOf 1 with
  | none, b => (0, b.getD 0 + 1)
  | some a, none => (1, a + 1)
  | some a, some b => if a < b then (0, b + 1) else (1, a + 1)

/-- ARB_COMMIT (R456, R479): the counters named rise to the SVN of the image that runs; the staging record is written before the fuses burn. -/
def execArbCommit (s : State) : Out :=
  .next <|
    let due := s.flashQ.any fun j => match j.kind with
      | .rollback _ => true
      | _ => false
    if !s.mbxRuns 2 || due then s
    else if s.sec.recovery then s.mbxEnd 3
    else if 16 ≤ s.mbxReg 0x34 then s.mbxEnd 2
    else
      let comps := [4, 3, 2, 5]
      let ts := comps.zipIdx.map fun x =>
        let cur := s.sec.svn.getD x.2 0
        if bitAt (s.mbxReg 0x34) x.2 then max cur ((afind s.sec.run x.1).elim cur Image.svn) else cur
      let t := s.rollbackTarget
      let j : FlashJob := { at_ := 0x3032000 + 0x1000 * t.1, data := rollbackRec ts t.2, kind := .rollback ts }
      State.flashTry { s with flashQ := s.flashQ ++ [j] }

/-- DEBUG_UNLOCK (R458): debug mode begins at the next warm reset. -/
def execDebugUnlock (token : List Byte) (s : State) : Out :=
  .next <|
    if !s.mbxRuns 3 then s
    else
      let d := token.take (s.mbxReg 0x40)
      if d.length ≠ 32 + trailerLen then s.mbxEnd 2
      else if s.sealed_ || s.sec.recovery then s.mbxEnd 3
      else
        let r := s.checkImage 6 d
        if r.2 ≠ 0 then r.1.mbxEnd (mbxOf r.2)
        else if signerOf d ≠ 0 then r.1.mbxEnd 4
        else if d.take 32 ≠ devidHash then r.1.mbxEnd 3
        else State.mbxEnd { r.1 with sec := { r.1.sec with debugNext := true } } 0

/-- SEC_CNT_CLR.ALL: +0x080 to +0x094. -/
def execSecCntClr (s : State) : Out := .next { s with cnt := s.cnt.filter fun x => x.1 < 0x600080 ∨ 0x600094 < x.1 }

/-- PLDM_FIRMWARE_UPDATE (R457): component classifications 2 to 5; busy while that component is being updated. -/
def execPldmFirmwareUpdate (comp : Nat) (img : List Byte) (s : State) : Out :=
  .next <|
    if comp < 2 || 5 < comp || slotSize comp - 4096 < img.length then s.refuse 2
    else if (afind s.sec.updating comp).isSome then s.answer 2 0x05 []
    else
      let r := s.checkImage comp img
      if r.2 ≠ 0 then r.1.refuse 2 else (r.1.startUpdate comp img none).answer 2 0 []

end Sys2Proof.Machine
end

