-- ==== Sys2Proof/Machine/Ring.lean ====
section
/-! DEFINITION. Command rings (R393 to R400): commands as 64 bytes, completions, doorbells, relayed commands and their results. Rings 0 to 16 are the
host's; ring 32 + r holds the commands that the anchor relays from its ring r. -/

namespace Sys2Proof.Machine

/-! ### Rings and their registers -/

def State.ring (s : State) (r : Nat) : Ring := aget ({} : Ring) s.rings r
def State.setRing (s : State) (r : Nat) (x : Ring) : State := { s with rings := aset s.rings r x }

/-- RING_CFG and its fields; the sizes are kept within 16 and 1,024. -/
def State.ringCfg (s : State) (r : Nat) : Nat := (aget 0x88 s.regs (0x200100 + 0x20 * r)).toNat
def State.ringOn (s : State) (r : Nat) : Bool := bitAt (s.ringCfg r) 0
def State.sqSize (s : State) (r : Nat) : Nat := 2 ^ max 4 (min 10 (bitsOf (s.ringCfg r) 1 4))
def State.cqSize (s : State) (r : Nat) : Nat := 2 ^ max 4 (min 10 (bitsOf (s.ringCfg r) 5 4))
def State.cqBase (s : State) (r : Nat) : Nat :=
  (aget 0 s.regs (0x200104 + 0x20 * r)).toNat + (aget 0 s.regs (0x200108 + 0x20 * r)).toNat * 2 ^ 32

/-! ### Commands (R395) -/

/-- n bytes of a command, little-endian, from byte `at_`. -/
def cmdField (c : BitVec 512) (at_ n : Nat) : Nat := bitsOf c.toNat (8 * at_) (8 * n)
def cmdOpc (c : BitVec 512) : Nat := cmdField c 0 1
def cmdRelay (c : BitVec 512) : Bool := bitAt (cmdField c 1 1) 0
def cmdNoirq (c : BitVec 512) : Bool := bitAt (cmdField c 1 1) 1
def cmdCid (c : BitVec 512) : Nat := cmdField c 2 2
def cmdDevs (c : BitVec 512) : Nat := cmdField c 4 8
/-- The core set. -/
def cmdSet (c : BitVec 512) : List Nat := (List.range (cmdField c 18 2)).map (· + cmdField c 16 2)

/-- Status codes (R398). -/
def stOk : Nat := 0x00
def stBadOpcode : Nat := 0x01
def stBadParam : Nat := 0x02
def stAdminOnly : Nat := 0x03
def stUnitAbsent : Nat := 0x04
def stBusy : Nat := 0x05
def stState : Nat := 0x06
def stCheckFail : Nat := 0x07
def stTimeout : Nat := 0x08
def stLoadRefused : Nat := 0x09
def stRecovery : Nat := 0x0A
def stRelayFail : Nat := 0x0B
def stNotAnchor : Nat := 0x0C
def stMemberLost : Nat := 0x0E
def stGroupOnly : Nat := 0x0F

/-- Opcodes of R396. -/
def knownOpc (o : Nat) : Bool := 1 ≤ o && o ≤ 0x0F

/-- The command at the head of a ring: the one in progress, or, when no completion is held, the next of the submission queue (R394). -/
def State.ringHead (s : State) (r : Nat) : Option RingJob :=
  let x := s.ring r
  if 32 ≤ r then x.queue.head?
  else
    match x.job with
    | some j => some j
    | none =>
      if 17 ≤ r || !s.ringOn r || x.held.isSome || x.sqHead = x.sqTail then none
      else some { cmd := BitVec.ofNat 512 (numOf (Memory.bytes s.bar2 (0x10000 * r + 64 * x.sqHead) 64)) }

/-- The command at the head has started. -/
def State.ringBegin (s : State) (r : Nat) (j : RingJob) : State :=
  let x := s.ring r
  let j := { j with started := true }
  s.setRing r (if 32 ≤ r then { x with queue := j :: x.queue.drop 1 } else { x with job := some j })

/-! ### Completions (R394, R397) -/

/-- What a completion says. -/
structure Compl where
  status : Nat := 0
  subst : Nat := 0
  detail : Nat := 0
  failCnt : Nat := 0
  failDev : Nat := 0xFF
  deriving DecidableEq, Repr

/-- A completion entry, with its phase. -/
def Compl.entry (k : Compl) (cid sqHead : Nat) (phase : Bool) : List Byte :=
  bytesOf 2 cid ++ bytesOf 2 sqHead ++ [BitVec.ofNat 8 k.status, BitVec.ofNat 8 k.subst, BitVec.ofNat 8 k.failCnt, if phase then 1 else 0]
    ++ bytesOf 4 k.detail ++ [BitVec.ofNat 8 k.failDev, 0, 0, 0]

/-- Source 682 follows the completion queues that hold a completion back. -/
def State.cqLevel (s : State) : State := s.level 682 (s.rings.any fun x => x.2.held.isSome)

/-- An entry goes to the completion queue, then the ring's MSI-X vector; `noirq`: the command's flag. -/
def State.cqWrite (s : State) (r : Nat) (e : List Byte) (noirq : Bool) : State :=
  let x := s.ring r
  let n := s.cqSize r
  let a := s.cqBase r + 16 * x.cqTail
  let tail := (x.cqTail + 1) % n
  let e := e.set 7 (if x.phase then 1 else 0)
  let s := s.setRing r { x with cqTail := tail, cqUsed := x.cqUsed + 1, held := none, phase := if tail = 0 then !x.phase else x.phase }
  let s := s.emit (.hostWrite a e)
  if bitAt (s.ringCfg r) 9 && !noirq then s.msix (bitsOf (s.ringCfg r) 10 6) else s

/-- A completion of a host ring: written, or held while the queue is full. A held entry keeps the NOIRQ flag as a seventeenth byte. -/
def State.cqPost (s : State) (r : Nat) (j : RingJob) (k : Compl) : State :=
  let x := s.ring r
  let head := (x.sqHead + 1) % s.sqSize r
  let x := { x with sqHead := head, job := none, relay := none }
  let e := k.entry (cmdCid j.cmd) head x.phase
  if x.cqUsed < s.cqSize r then (s.setRing r x).cqWrite r e (cmdNoirq j.cmd)
  else (s.setRing r { x with held := some (e ++ [if cmdNoirq j.cmd then 1 else 0]) }).cqLevel

/-- Commands at the head whose opcode is none of R396 complete with BAD_OPCODE; `fuel` bounds their number. -/
def State.ringSettle (s : State) (r : Nat) : Nat → State
  | 0 => s
  | fuel + 1 =>
    match s.ringHead r with
    | some j => if knownOpc (cmdOpc j.cmd) then s else (s.cqPost r j { status := stBadOpcode }).ringSettle r fuel
    | none => s

/-- A completion of a host ring, and what follows it on the ring. -/
def State.hostDone (s : State) (r : Nat) (j : RingJob) (k : Compl) : State := (s.cqPost r j k).ringSettle r 1024

/-! ### Relayed commands (R400) -/

/-- The completion of a relayed command from the members' results. -/
def relayCompl (l : Amap (Nat × Nat)) : Compl :=
  match l.filter fun x => x.2.1 ≠ stOk with
  | [] => {}
  | (d, st) :: t => { status := stRelayFail, subst := st.1, failCnt := t.length + 1, failDev := d }

/-- A member's result reaches the ring that relayed the command; with the last of them the command completes. -/
def State.relayNote (s : State) (r dev st sub : Nat) : State :=
  let x := s.ring r
  match x.relay, x.job with
  | some y, some j =>
    if !y.members.contains dev || (afind y.results dev).isSome then s
    else
      let l := aset y.results dev (st, sub)
      if l.length = y.members.length then (s.setRing r { x with last := l }).hostDone r j (relayCompl l)
      else s.setRing r { x with relay := some { y with results := l } }
  | _, _ => s

/-- The end of a ring's command: its completion, or, of a relayed command, the result that goes to the anchor. -/
def State.ringDone (s : State) (r : Nat) (j : RingJob) (k : Compl) : State :=
  if r < 32 then s.hostDone r j k
  else
    let x := s.ring r
    let s := s.setRing r { x with queue := x.queue.drop 1 }
    if x.src = s.devId then s.relayNote (r - 32) x.src k.status k.subst else s.sendCtl x.src (.relayResult (r - 32) k.status k.subst)

/-- The command in progress on a ring ends. -/
def State.ringEnd (s : State) (r : Nat) (k : Compl) : State :=
  match s.ringHead r with
  | some j => if j.started then s.ringDone r j k else s
  | none => s

/-- RELAY_RESULT_RECEIVE (R400). -/
def execRelayResultReceive (r dev status subst : Nat) (s : State) : Out := .next (s.relayNote r dev status subst)

/-- This device holds a member as lost (R345). -/
def State.isLost (s : State) (d : Nat) : Bool := d < 64 && bitAt (aget 0 s.regs (if d < 32 then 0x300028 else 0x30002C)).toNat (d % 32)

/-- RELAY_TIMEOUT (R400): members that have not completed count as failed. -/
def execRelayTimeout (r : Nat) (s : State) : Out :=
  .next <|
    match (s.ring r).relay with
    | none => s
    | some y =>
      let missing := y.members.filter fun d => (afind y.results d).isNone
      missing.foldl (fun s d => s.relayNote r d (if s.isLost d then stMemberLost else stTimeout) 0) (s.cfgCause 3)

/-! ### Doorbells (R393) -/

/-- SQ_TAIL: a tail at or above the queue's size is ignored and noted; a ring that is off ignores it. -/
def execSqTail (r tail : Nat) (s : State) : Out :=
  .next <|
    if 17 ≤ r || !s.ringOn r then s
    else
      let x := s.ring r
      if s.sqSize r ≤ tail then s.setRing r { x with badDb := true }
      else
        let s := s.setRing r { x with sqTail := tail }
        let s := if r = 0 then s.pulse 680
          else State.level { s with regs := aset s.regs 0x200400 (aget 0 s.regs 0x200400 ||| (1 <<< r)) } 681 true
        s.ringSettle r 1024

/-- CQ_HEAD: entries up to the head are consumed; a completion that is held is then written. -/
def execCqHead (r head : Nat) (s : State) : Out :=
  .next <|
    if 17 ≤ r || !s.ringOn r then s
    else
      let x := s.ring r
      let n := s.cqSize r
      if n ≤ head then s.setRing r { x with badDb := true }
      else
        let used := x.cqUsed - (head + n - x.cqHead % n) % n
        let s := s.setRing r { x with cqHead := head, cqUsed := used }
        let s := match x.held with
          | some e => if used < n then (s.cqWrite r (e.take 16) (e.getD 16 0 = 1)).cqLevel else s
          | none => s
        s.ringSettle r 1024

end Sys2Proof.Machine
end

