-- ==== Sys2Proof/Machine/Memory.lean ====
section
/-! DEFINITION. Migration (R305, R306), codec engines and patrol scrub as commands (R312 to R317), snapshots of pools (R266), chip errors (R25 to
R27). -/

namespace Sys2Proof.Machine

/-! ### Migration -/

/-- The destination image of a migration, as its command gives it (R396). -/
structure MigDest where
  base : Nat
  tier : Nat
  stripe : Nat
  muslin : Bool
  mw : Nat
  metaObj : Nat
  deriving DecidableEq, Repr

/-- The destination image of an object's entry. -/
def ObjEnt.moved (e : ObjEnt) (d : MigDest) : ObjEnt :=
  { e with base := d.base, tier := d.tier, stripe := d.stripe, muslin := d.muslin, mw := d.mw, metaObj := d.metaObj }

/-- The rule of R301 that the destination image breaks (R305): 0x01 to 0x05 and 0x09. Its range meets no valid object, its own included, and no
other destination. -/
def State.migRule (s : State) (i : Nat) (e : ObjEnt) : Option Nat :=
  let hit := s.obj.table.any (fun y => y.2.valid && overlap e.start e.bytes y.2.start y.2.bytes)
    || (s.migRanges i).any fun r => overlap e.start e.bytes r.1 r.2
  if !s.rulePlaced e then some 1
  else if hit then some 2
  else if !s.ruleStripe e then some 3
  else if e.tier = 2 && !e.muslin then some 4
  else if !s.ruleMeta e then some 5
  else if !ruleReserved i e then some 9
  else none

/-- Migrations that run at once (R305). -/
def migMax : Nat := 4

def State.migsRunning (s : State) : Nat := (s.obj.migs.filter Migration.running).length

/-- Bytes of a granule. -/
def granule : Nat := 65536

/-- Blocks of a granule. -/
def granuleBlocks (g : Nat) : List Nat := (List.range 16).map (· + 16 * g)

/-! #### Segment slots (R307) -/

/-- Segments that the migration engine holds at once, and on one channel (MIG_CTRL.QUOTA). -/
def migSlots : Nat := 64
def State.migQuota (s : State) : Nat := max 1 (bitsOf (aget 8 s.regs 0x400210).toNat 0 6)

/-- Channels of an image's 2 KiB segments of granule g; T1 takes none. -/
def State.imageSegs (s : State) (e : ObjEnt) (g : Nat) : List Nat :=
  if e.tier = 0 then [] else (List.range 32).map fun i => (s.stripeMap e.stripe (e.start + granule * g + 2048 * i)).elim 16 Prod.fst

/-- A segment of channel `ch` finds a slot beside the channels that hold one: 64 in all, QUOTA on a channel. -/
def segFits (quota : Nat) (held : List Nat) (ch : Nat) : Bool := held.length < migSlots && (held.filter (· = ch)).length < quota

/-- Waiting segments of one migration take slots in order, none delaying those of other channels; `out`: what other migrations hold. -/
def Migration.take (m : Migration) (quota : Nat) (out : List Nat) : Migration :=
  m.wait.foldl (fun (x : Migration) ch =>
    if segFits quota (out ++ x.held) ch then { x with held := x.held ++ [ch] } else { x with wait := x.wait ++ [ch] }) { m with wait := [] }

/-- The migrations after each, in order, has taken the slots it can. -/
def fillSlots (quota : Nat) : List Migration → List Migration → List Migration
  | done, [] => done
  | done, m :: t => fillSlots quota (done ++ [m.take quota ((done ++ t).flatMap Migration.held)]) t

def State.migFill (s : State) : State := { s with obj := { s.obj with migs := fillSlots s.migQuota [] s.obj.migs } }

/-- Change the migration of an object. -/
def State.modMig (s : State) (obj : Nat) (f : Migration → Migration) : State :=
  { s with obj := { s.obj with migs := s.obj.migs.map fun m => if m.obj = obj then f m else m } }

/-- The segments of the next granule are due: reads of the old image, writes of the new. -/
def State.migNeed (s : State) (obj g : Nat) (dest : ObjEnt) : State :=
  (s.modMig obj fun m => { m with held := [], wait := s.imageSegs (s.objEnt obj) g ++ s.imageSegs dest g }).migFill

/-- Segments that hold a slot are done, and others take their slots, round by round, until none of this granule is left or none can move; `fuel`
bounds the rounds. -/
def State.migRounds (s : State) (obj : Nat) : Nat → State
  | 0 => s
  | fuel + 1 =>
    match s.migOf obj with
    | none => s
    | some m => if m.held.isEmpty then s else ((s.modMig obj fun m => { m with held := [] }).migFill).migRounds obj fuel

/-! #### Its steps -/

/-- A migration begins (R306): MIGRATING, and the write generation of a guarded object. -/
def State.migBegin (s : State) (m : Migration) : State :=
  let s := s.bumpGen m.obj
  let s := s.setObj m.obj { s.objEnt m.obj with migrating := true }
  (s.modMig m.obj fun m => { m with running := true }).migNeed m.obj 0 m.dest

/-- The next migration that waits begins while fewer than four run. -/
def State.migNext (s : State) : State :=
  if migMax ≤ s.migsRunning then s
  else match s.obj.migs.find? fun m => !m.running with
    | none => s
    | some m => s.migBegin m

/-- A migration is accepted (R305): it runs, or waits in command order. `ring`: the ring that it came by. -/
def State.startMig (s : State) (obj : Nat) (dest : ObjEnt) (ring : Option Nat) : State :=
  State.migNext { s with obj := { s.obj with migs := s.obj.migs ++ [{ obj := obj, dest := dest, next := 0, running := false, ring := ring }] } }

/-- The switch (R306): the entry takes the destination values, copies of it leave the lookasides (R300), the command completes, and the next
migration that waits begins. -/
def State.migSwitch (s : State) (m : Migration) : State :=
  let e := s.objEnt m.obj
  let d := m.dest
  let s := s.setObj m.obj { e with base := d.base, tier := d.tier, stripe := d.stripe, muslin := d.muslin, mw := d.mw, metaObj := d.metaObj
                                   migrating := false }
  let s := (s.bumpGen m.obj).dropLook [m.obj]
  let s := State.migNext { s with obj := { s.obj with migs := s.obj.migs.filter (fun y => y.obj ≠ m.obj), lastMig := m.obj } }
  match m.ring with
  | some r => s.ringEnd r {}
  | none => s

/-- The attributes of two images of an object differ, so that its data goes through codec engines: Muslin, its symbol width, or the encryption of T3
(R306, R313, R316; log 170). -/
def recoded (e d : ObjEnt) : Bool := e.muslin != d.muslin || (e.muslin && (e.mw ≠ d.mw || (e.tier = 2) != (d.tier = 2)))

/-- Every codec engine that a granule's blocks need may serve the migration. -/
def State.migGate (s : State) (obj g : Nat) (src dst : ObjEnt) : Bool × State :=
  (granuleBlocks g).foldl (fun (x : Bool × State) b =>
    if !x.1 then x
    else
      let y := x.2.codecGate obj src b false
      if y.1 then y.2.codecGate obj dst b true else y) (true, s)

/-- A granule is copied as it is stored, poison with it: its bytes and, of a Muslin object, its blocks' records. -/
def State.copyStored (s : State) (e d : ObjEnt) (g : Nat) : State :=
  let n := granule * g
  let t := (s.countPoison e.tier e.stripe (e.start + n) granule).devWrite d.tier d.stripe (d.start + n) (s.devRead e.tier e.stripe (e.start + n) granule)
  if !e.muslin then t
  else
    let a := t.objEnt e.metaObj
    let b := t.objEnt d.metaObj
    t.devWrite b.tier b.stripe (b.start + 512 * g) (t.devRead a.tier a.stripe (a.start + 512 * g) 512)

/-- MIGRATION_GRANULE_DONE (R306, R307): once its segments have had their slots, the next 64 KiB of the object are copied, decoded and encoded where the
attributes differ, poison with them; after the last, the switch. -/
def execMigrationGranuleDone (obj : Nat) (s : State) : Out :=
  .next <|
    match s.migOf obj with
    | none => s
    | some m =>
      let e := s.objEnt obj
      let s := s.migRounds obj migSlots
      let g := if recoded e m.dest then s.migGate obj m.next e m.dest else (true, s)
      if !g.1 || (s.migOf obj).any fun m => !m.held.isEmpty || !m.wait.isEmpty then g.2
      else
        let s := if recoded e m.dest then
            let r := g.2.imgRead obj e (granule * m.next) granule
            r.2.imgWrite obj m.dest (granule * m.next) r.1
          else g.2.copyStored e m.dest m.next
        if m.next + 1 < e.size then (s.modMig obj fun y => { y with next := m.next + 1 }).migNeed obj (m.next + 1) m.dest else s.migSwitch m

/-! ### Codec engines and channels -/

/-- CODEC_BLOCK_WRITE (R313 to R317): bytes of one block of a coded object are written through its codec engine. -/
def execCodecBlockWrite (obj blk ofs : Nat) (data : List Byte) (s : State) : Out :=
  .next <|
    let e := s.objEnt obj
    if !e.valid || !e.coded || 4096 < ofs + data.length || e.bytes < 4096 * blk + ofs + data.length || data.isEmpty then s
    else s.objWrite obj (4096 * blk + ofs) (data.map fun b => (b, false))

/-- A codec engine fails: it leaves service at the next commit (R25). -/
def State.codecFail (s : State) (k : Nat) : State :=
  match afind s.lcodec k with
  | none => s
  | some x => { s with obj := { s.obj with codecBad := sins s.obj.codecBad x.phys } }

/-- CODEC_BLOCK_READ (R314 to R316): a block is read, its tag and record checked, and decoded; what its checks count is counted. `fail`: the engine
that owns the block fails at it (R25). -/
def execCodecBlockRead (obj blk : Nat) (s : State) (fail : Bool := false) : Out :=
  .next <|
    let e := s.objEnt obj
    if !e.valid || !e.coded || e.bytes < 4096 * blk + 4096 then s
    else
      let t := (s.readBlock obj e blk).2
      if fail then t.codecFail (s.codecOf ((s.stripeMap e.stripe (e.start + 4096 * blk)).elim 0 Prod.fst) blk) else t

/-- PATROL_SCRUB_PASS (R312): a scrub pass of a channel ends with its corrected and uncorrected errors; CE_LIM is judged within the pass. -/
def execPatrolScrubPass (ch ce ue : Nat) (s : State) : Out :=
  .next <|
    if 16 ≤ ch || !bitAt (aget 0x01000801 s.regs (s.chanBlock ch + 0x10)).toNat 0 then s
    else
      let s := ((s.bump (s.chanBlock ch + 0x4C) ce).chanCe ch ce).chanUe ch ue
      { s with obj := { s.obj with chans := aset s.obj.chans ch { s.chan ch with scrubCe := 0 } } }

/-! ### Pools (R266) -/

/-- Handles of a list that belong to a pool. -/
def Core.inPool (c : Core) (pool : Nat) (l : List Nat) : Nat := (l.filter fun i => c.poolOf i = some pool).length

/-- POOL_STAT0: FREE, QUEUED and SIZE; handles reserved for a link are free. -/
def Core.poolStat0 (c : Core) (pool : Nat) : Nat :=
  let queued := c.hq.flatMap fun x => x.2.ents.filterMap fun e => if e.poison then none else some (hIdx e.h)
  let size := (List.range 256).filter fun i => c.poolOf i = some pool
  ((c.freeList pool).length + c.inPool pool c.reserved) + c.inPool pool queued * 2 ^ 9 + size.length * 2 ^ 18

/-- POOL_STAT1: HELD, INFLIGHT and TRANSIT. -/
def Core.poolStat1 (c : Core) (pool : Nat) : Nat :=
  c.inPool pool c.heldH + c.inPool pool c.inflight * 2 ^ 9 + c.inPool pool c.transit * 2 ^ 18

/-- Both words of a pool are captured (R266). -/
def Core.poolCapture (c : Core) (pool : Nat) : Core :=
  let l := aset c.poolLatch (0x3100 + 8 * pool) (BitVec.ofNat 32 (c.poolStat0 pool))
  { c with poolLatch := aset l (0x3104 + 8 * pool) (BitVec.ofNat 32 (c.poolStat1 pool)) }

/-- POOL_STAT_CAPTURE (R266): a read of POOL_STAT0 captures both words and returns the first. -/
def execPoolStatCapture (c pool : Nat) (s : State) : Out :=
  .next <|
    if 16 ≤ pool then s
    else s.onCore c fun s p k => (s.setCore p (k.poolCapture pool)).emit (.readValue (BitVec.ofNat 64 (k.poolStat0 pool)))

/-! ### Chip errors (R25, R27) -/

/-- LOSS_DECLARE (R27): data traffic stops, the anchor is told, source 1 is raised. -/
def State.declareLost (s : State) : State :=
  if s.lost then s
  else
    let s := State.level { s with lost := true } 1 true
    if s.isAnchor then s else s.sendCtl s.anchor .lossNotice

/-- A channel leaves service (R25, R309). -/
def State.chanFail (s : State) (ch : Nat) : State :=
  State.chanErr { s with obj := { s.obj with chans := aset s.obj.chans ch { s.chan ch with state := 3 } } } ch 2

/-- CHIP_ERROR (R25, R27). -/
def execChipError (what unit : Nat) (s : State) : Out :=
  .next <|
    match what with
    | 1 => (s.level 7 true).declareLost
    | 2 => s.declareLost
    | 3 => s.declareLost
    | 4 => if unit < 8 then (s.chanFail unit).declareLost else s
    | 5 => if unit < 8 then (s.chanFail (8 + unit)).declareLost else s
    | _ => s

end Sys2Proof.Machine
end

