-- ==== Sys2Proof/Machine/Preempt.lean ====
section
/-! DEFINITION. Preemption of a core: the boundary, the save area, the restore (R429 to R437), and frame programs (R409 to R413). -/

namespace Sys2Proof.Machine

/-! ### The boundary (R429) -/

/-- A started exchange word is at its preemption point: EX.HFWD, EX.FELT and EX.COLL may be in progress, others have ended. -/
def exchAtPoint (e : Cqe) : Bool := !e.started || wOp e.word = 3 || wOp e.word = 6 || wOp e.word = 7

/-- A vector word is between groups: a gather or scatter has no group begun. -/
def vecAtPoint (e : Cqe) : Bool := !(e.started && !e.fin && (wOp e.word = 6 || wOp e.word = 7) && !e.vals.isEmpty)

/-- An engine holds nothing in flight. -/
def Engine.atPoint (g : Engine) : Bool :=
  g.moves.isEmpty && g.shUse ≠ .toSlot && g.shUse ≠ .loading && g.slots.all fun x => !x.st.contains .busy

/-- The boundary is reached (R429). -/
def Core.atBoundary (c : Core) : Bool :=
  (c.words 1).all (fun e => !e.started) && (c.words 9).all exchAtPoint && (c.words 6).all vecAtPoint
    && c.vec.miss.isNone && c.drn.cur.isNone && c.engA.atPoint && c.engB.atPoint && c.inflight.isEmpty && c.transit.isEmpty

/-! ### The save area (R432 to R434) -/

/-- Barrier n as BAR_COUNT then BAR_CFG. -/
def barBytes (b : Barrier) : List Byte := bytesOf 4 b.count ++ bytesOf 4 (b.target + b.adv * 2 ^ 16 + b.owner * 2 ^ 24)

/-- A buffer-table entry as BT_LO then BT_HI. -/
def BtEnt.lo (b : BtEnt) : Nat := (if b.en then 1 else 0) + b.space * 2 + b.pool * 4 + b.tag * 256 + b.size * 2 ^ 16
def btBytes (b : BtEnt) : List Byte := bytesOf 4 b.lo ++ bytesOf 4 b.base

/-- The words of a control queue as they lie in it: 16 bytes for each half. -/
def cqeBytes (e : Cqe) : List Byte := bytesOf (16 * wWidth e.word) e.word.toNat

/-- An image of R434 holds a tile: its quarters with VALID. -/
def Engine.images (g : Engine) : List (Nat × Tile × List Nat) :=
  (if g.tileOpen then [(0, g.active, [0, 1, 2, 3])] else [])
    ++ (if g.shUse = .toDrain || g.shUse = .ready then [(1, g.shadow, [0, 1, 2, 3])] else [])
    ++ (g.slots.zipIdx.filterMap fun x =>
      let qs := (List.range 4).filter fun q => x.1.st.getD q .free = .held
      if qs.isEmpty then none else some (2 + x.2, x.1.tile, qs))

/-- The image with VALID set in the quarters it holds. -/
def validImage (t : Tile) (qs : List Nat) : List Byte :=
  spillImage { t with q := t.q.zipIdx.map fun x => if qs.contains x.2 then { x.1 with valid := true } else x.1 } qs

/-- Words of a section whose inner layout the spec does not give: free bytes (log 56). -/
def freeBytes (fresh n : Nat) : List Byte := (List.range n).map (Config.freeByte fresh)

/-- The sections that are written, by their offset in the save area (R432); the header comes apart. -/
def CoreCtx.sections (x : CoreCtx) (fresh : Nat) : List (Nat × List Byte) :=
  let bars := (List.range 32).flatMap fun b => barBytes (aget {} x.seq.bars b)
  -- unit by unit: lane B of the drain stands beside lane A
  let cqs := [0, 1, 2, 3, 4, 5, 10, 6, 7, 8, 9].flatMap fun q => (aget [] x.cq q).flatMap fun e =>
    if q = 10 && isFence e.word then [] else cqeBytes e
  let dqs := (List.range 16).flatMap fun q => (aget {} x.dq q).ents.zipIdx.map fun e =>
    (0x2000 + 1536 * q + 192 * e.2, bytesOf 128 e.1.data.toNat ++ bytesOf 64 (e.1.side.elim 0 BitVec.toNat))
  let tags := (List.range 16).flatMap fun q => (List.range 8).flatMap fun e =>
    bytesOf 4 (match (aget {} x.dq q).ents[e]? with
      | some y => y.tok + if y.poison then 2 ^ 16 else 0
      | none => 0)
  let hqs := (List.range 8).flatMap fun h => (aget {} x.hq h).ents.zipIdx.map fun e =>
    (0x9000 + 512 * h + 8 * e.2, bytesOf 8 (e.1.h + e.1.epoch * 2 ^ 16 + (if e.1.poison then 2 ^ 24 else 0) + e.1.tok * 2 ^ 32))
  let latch (g : Engine) : List Byte := padTo 2048 (g.latch.flatMap fun r => bytesOf 128 r.data.toNat)
  let tbls := (x.drn.tbl.zipIdx.filter fun t => t.1.1).map fun t => (0xC000 + 1152 * t.2, padTo 1152 (t.1.2.flatMap fun v => bytesOf 4 v.toNat))
  let shts := x.sht.bufs.zipIdx.filterMap fun b => b.1.map fun y =>
    (0xE000 + 2048 * b.2, padTo 2048 (y.rows.flatMap fun r => bytesOf 128 r.toNat))
  let imgs (e : Nat) (g : Engine) := g.images.map fun (y : Nat × Tile × List Nat) => (0x10000 + 8384 * (10 * e + y.1), validImage y.2.1 y.2.2)
  [(0x40, freeBytes fresh 448), (0x200, bars), (0x300, freeBytes (fresh + 1) 256), (0x400, freeBytes (fresh + 2) 256),
    (0x500, freeBytes (fresh + 3) 256), (0x600, freeBytes (fresh + 4) 256), (0x800, freeBytes (fresh + 5) 2048)]
    ++ [(0x1000, cqs)] ++ dqs ++ [(0x8000, tags), (0x8200, freeBytes (fresh + 6) 512),
      (0x8800, (List.range 32).flatMap fun i => bytesOf 64 (aget 0 x.sd i).toNat)]
    ++ hqs ++ [(0xA000, (List.range 256).flatMap fun i => btBytes (aget {} x.bt i)), (0xA800, latch x.engA ++ latch x.engB)]
    ++ tbls ++ shts ++ imgs 0 x.engA ++ imgs 1 x.engB

/-- SEQ_STAT.STATE as a number. -/
def RunState.code : RunState → Nat
  | .stopped => 0 | .running => 1 | .halted => 2 | .frozen => 3 | .done => 4 | .preempted => 5

/-- The header with a CRC (R433). -/
def CoreCtx.header (x : CoreCtx) (prior : RunState) (cont host : Bool) (b crc : Nat) : List Byte :=
  let fl := prior.code + (if x.seq.open_ then 8 else 0) + (if cont then 16 else 0) + (if host then 32 else 0)
  let mask := ((x.engA.images.map Prod.fst) ++ (x.engB.images.map Prod.fst).map (10 + ·)).foldl (fun m i => m + 2 ^ i) 0
  let tb := x.drn.tbl.zipIdx.foldl (fun m t => if t.1.1 then m + 2 ^ t.2 else m) 0
  let sb := x.sht.bufs.zipIdx.foldl (fun m t => if t.1.isSome then m + 2 ^ (4 + t.2) else m) 0
  padTo 64 ([0x53, 0x56, 0x41, 0x52] ++ bytesOf 2 1 ++ bytesOf 2 fl ++ bytesOf 4 x.seq.step ++ bytesOf 4 mask ++ bytesOf 4 b
    ++ bytesOf 4 crc ++ bytesOf 4 (tb + sb))

/-- B: the bytes a save writes, header included (R433, R435). -/
def CoreCtx.saveBytes (x : CoreCtx) : Nat :=
  let cq := ((List.range 11).map fun q => ((aget [] x.cq q).map fun e => if q = 10 && isFence e.word then 0 else 16 * wWidth e.word).sum).sum
  let dq := ((List.range 16).map fun q => 192 * (aget {} x.dq q).ents.length).sum
  let hq := ((List.range 8).map fun h => 8 * (aget {} x.hq h).ents.length).sum
  let tb := 1152 * (x.drn.tbl.filter Prod.fst).length
  let sb := 2048 * (x.sht.bufs.filter Option.isSome).length
  13056 + cq + dq + hq + tb + sb + 8384 * (x.engA.images.length + x.engB.images.length)

/-- The save area of physical core p is written (R432): its sections, then the header with the CRC over every byte written. -/
def State.writeSave (s : State) (p : Nat) (x : CoreCtx) (pr : Pre) : State :=
  let secs := x.sections s.fresh
  let b := x.saveBytes
  let h0 := x.header pr.prior pr.contCommit pr.host b 0
  let crc := (crc32c (h0 ++ secs.flatMap Prod.snd)).toNat
  let put (s : State) (a : Nat) (d : List Byte) : State :=
    { s with slice := Memory.put s.slice (sliceKey p (sliceSize + a)) d
             slicePz := pzWrite 8 s.slicePz (sliceKey p (sliceSize + a)) d.length false }
  let s := put { s with fresh := s.fresh + 7 } 0 (x.header pr.prior pr.contCommit pr.host b crc)
  secs.foldl (fun s (y : Nat × List Byte) => put s y.1 y.2) s

/-! ### Request, boundary, save -/

/-- The core is asked to stop for a preemption: dispatch stops at once; a SEQ word that waits is fetched again later (R429). -/
def Core.preemptStop (c : Core) : Core :=
  let c : Core := { c with pre := { c.pre with phase := .waiting, valid := false, prior := c.seq.state, held := [] } }
  c.modSeq fun q => { q with cur := if q.cur.any SeqCur.sent then q.cur else none }

/-- PREEMPT_REQUEST (R410, R429): a preempt request of a frame run or of the host reaches the core. -/
def execPreemptRequest (c : Nat) (s : State) : Out :=
  .next <| s.onCore c fun s p k =>
    let st := k.seq.state
    if (k.pre.frame.isSome || k.pre.host) && k.pre.phase = .none && (st = .running || st = .stopped || st = .done) then
      s.setCore p k.preemptStop
    else s

/-- The core cleared for the program that runs while its state is saved: queues, bindings, barriers, slots and loop stack (R410, R431). -/
def Core.clearFrame (c : Core) : Core :=
  { c with
    seq := { c.seq with flags := 0, mode := false, loops := [], bars := [], open_ := false, repeating := false, repeatRec := none, cur := none
                        ending := false, stopping := false, live := [], fills := [] }
    cq := [], dq := [], hq := [], sht := {}
    engA := c.engA.cleared, engB := c.engB.cleared
    vec := { c.vec with l1 := [], miss := none }
    drn := { c.drn with cur := none } }

/-- PREEMPT_BOUNDARY (R429, R431): the boundary is reached, `cyc` engine cycles after the request; the state is captured, the vector unit's L1
is flushed and invalidated. -/
def execPreemptBoundary (c cyc : Nat) (s : State) : Out :=
  .next <| s.onCore c fun s p k =>
    if k.pre.phase ≠ .waiting || !k.atBoundary then s
    else
      let dirty := k.vec.l1.filter CLine.dirty
      let k := k.modSeq fun q => { q with fills := [] }
      let x : CoreCtx := { k.toCoreCtx with vec := { k.vec with l1 := [], miss := none } }
      let k1 := k.clearFrame
      let pre := { k.pre with phase := .saving, saved := some x, bwait := cyc, contCommit := k.inCommit }
      let s := s.setCore p { k1 with pre := pre, seq := { k1.seq with state := .preempted } }
      dirty.foldl (fun s l => s.askSwitch p l.line (some l.bytes) l.poison) s

/-- A program starts on a core whose state is saved (R410, R435). -/
def Core.startSaved (c : Core) (pc : Nat) : Core :=
  let c := c.clearFrame
  c.modSeq fun q => { q with state := .running, pc := pc % 2 ^ 48, start := pc % 2 ^ 48, fetch := [] }

/-- START of a frame binding. -/
def State.frameStart (s : State) (n : Nat) : Nat :=
  (aget 0 s.regs (0xC104 + 16 * n)).toNat + bitsOf (aget 0 s.regs (0xC108 + 16 * n)).toNat 0 16 * 2 ^ 32

/-- The core of a run starts the frame program; the last to start sets FRAME_LAT (R410). `lat`: CP cycles from the latch. -/
def State.frameGo (s : State) (l p n lat : Nat) : State :=
  let s := s.modCore p fun c => c.startSaved (s.frameStart n)
  let f := s.frames.getD n {}
  let w := f.waiting.erase l
  let s := { s with frames := s.frames.set n { f with waiting := w } }
  if w.isEmpty then
    { s with cnt := aset s.cnt (0xC1C0 + 4 * n) (BitVec.ofNat 32 (bitsOf (aget 5 s.regs 0x100014).toNat 0 8 * 15 + lat)) }
  else s

/-- SAVE_DONE (R410, R435): the save ends, with `stall` engine cycles lost to mesh requests; the frame program, or PROG, starts. A core that a host
PREEMPT had saved already starts the frame program with no second save. -/
def execSaveDone (c stall lat : Nat) (s : State) : Out :=
  .next <| s.onCore c fun s p k =>
    let waits (n : Nat) : Bool := (s.frames.getD n {}).waiting.contains c
    match k.pre.phase, k.pre.saved with
    | .saving, some x =>
      let b := x.saveBytes
      let w := (b + 255) / 256 + stall
      let s := s.writeSave p x k.pre
      let s := s.modCore p fun c => ({ c with pre := { c.pre with phase := .saved, valid := true, bytes := b, saveCyc := 16 + w + 11 } } : Core).bump 0x4050 1
      match k.pre.frame with
      | some n => s.frameGo c p n lat
      | none =>
        match k.pre.prog with
        | some pc => s.modCore p fun c => c.startSaved pc
        | none => s
    | .saved, some _ =>
      match k.pre.frame with
      | some n => if waits n && k.seq.state = .preempted then s.frameGo c p n lat else s
      | none => s
    | _, _ => s

/-! ### Restore (R436) -/

/-- The core begins its restore. -/
def Core.beginRestore (c : Core) : Core :=
  { c with pre := { c.pre with phase := .restoring, frame := none, host := false, prog := none }
           seq := { c.seq with state := .preempted } }

/-- The saved state is put back: the engines keep the activity they have now, a commit that continues keeps its update unit, the L1 is empty
(R248, R431, R436); PREEMPTED is set (R410). -/
def Core.restored (c : Core) (x : CoreCtx) : Core :=
  let eng (o n : Engine) : Engine := { n with act := o.act, groups := o.groups, stopReq := false }
  { c with toCoreCtx :=
      { x with engA := eng c.engA x.engA, engB := eng c.engB x.engB
               upd := if c.pre.contCommit then c.upd else x.upd
               vec := { x.vec with l1 := [], miss := none }
               seq := { x.seq with state := c.pre.prior, flags := x.seq.flags ||| 0x800, fetch := [], fills := [] } }
           pre := { c.pre with phase := .none, valid := false, saved := none, contCommit := false, held := [] } }

/-- A delivery that was held is applied (R430). -/
def State.applyHeld (s : State) (p : Nat) (h : Held) : State :=
  match h with
  | .barrier b n => s.signal p b n { unit := 9 }
  | .handle q e => s.modCore p fun c => c.pushHandle q e
  | .credit q n => s.takeCredit p q n
  | .verdict v => s.coreVerdict p v

/-- RESTORE_DONE (R430, R436): the restore ends; what was held is applied before dispatch resumes. `bad`: the CRC, MAGIC or ECC of the save
area fails, which halts the core. -/
def execRestoreDone (c stall : Nat) (bad : Bool) (s : State) : Out :=
  .next <| s.onCore c fun s p k =>
    match k.pre.phase, k.pre.saved with
    | .restoring, some x =>
      let w := (k.pre.bytes + 255) / 256 + stall
      if bad then
        let s := s.modCore p fun c => { c with pre := { c.pre with phase := .none, saved := none, held := [], restCyc := 28 + w } }
        s.halt p { pc := x.seq.pc, unit := 0, reason := 0x0C, seqno := 0, info := 3 }
      else
        let held := k.pre.held
        let s := s.modCore p fun c => let c := c.restored x; { c with pre := { c.pre with restCyc := 28 + w } }
        ((held.foldl (fun s h => s.applyHeld p h) s).irqCore p)
    | _, _ => s

/-! ### Frame runs (R409 to R412) -/

/-- Word 0 of a binding: EN, EDGE, CFIRST, CNUM. -/
def State.frameBind (s : State) (n : Nat) : Nat := (aget 0 s.regs (0xC100 + 16 * n)).toNat
def State.frameSet (s : State) (n : Nat) : List Nat := (List.range (bitsOf (s.frameBind n) 12 10)).map (· + bitsOf (s.frameBind n) 2 10)

/-- A core that lets no run start: no working core, halted, frozen, or running a host's PROG (R410; log 57). -/
def State.frameBars (s : State) (l : Nat) : Bool :=
  match s.phys l with
  | none => true
  | some p =>
    let c := s.core p
    c.seq.state = .halted || c.seq.state = .frozen || (c.pre.phase = .saved && c.pre.prog.isSome)

/-- FRAME_EDGE (R409 to R411): an edge of FRAME_IN n passes the filter. -/
def execFrameEdge (n : Nat) (rising : Bool) (s : State) : Out :=
  .next <|
    if 4 ≤ n then s
    else
      let w := s.frameBind n
      let f := s.frames.getD n {}
      if bitAt w 1 = rising then s
      else if f.run then
        let s := (s.bump (0xC184 + 16 * n) 1).frameCause n 1
        if f.pend then (s.bump (0xC18C + 16 * n) 1).frameCause n 3
        else { s with frames := s.frames.set n { f with pend := true } }
      else if !bitAt w 0 then s
      else
        let l := s.frameSet n
        if l.any s.frameBars then s.frameCause n 2
        else
          let s := { s with frames := s.frames.set n { run := true, cores := l, waiting := l } }.bump (0xC180 + 16 * n) 1
          l.foldl (fun s x => match s.phys x with
            | some p => s.modCore p fun c => { c with pre := { c.pre with frame := some n } }
            | none => s) s

/-- FRAME_RUN_END (R410, R411): every core of the set is DONE; the run that is pending starts at once, else the cores restore. -/
def execFrameRunEnd (n : Nat) (s : State) : Out :=
  .next <|
    if 4 ≤ n then s
    else
      let f := s.frames.getD n {}
      let ps := f.cores.filterMap s.phys
      if !f.run || !f.waiting.isEmpty || !(ps.all fun p => (s.core p).seq.state = .done) then s
      else if f.pend then
        let s := { s with frames := s.frames.set n { f with pend := false } }.bump (0xC180 + 16 * n) 1
        ps.foldl (fun s p => (s.modCore p fun c => c.startSaved (s.frameStart n)).irqCore p) s
      else
        let s := { s with frames := s.frames.set n { f with run := false } }
        ps.foldl (fun s p => (s.modCore p fun c =>
          if c.pre.host then { c with pre := { c.pre with frame := none }, seq := { c.seq with state := .preempted } }
          else c.beginRestore).irqCore p) s

/-- FRAME_DEADLINE (R412): the run is still in progress at its deadline; it is counted and runs on. -/
def execFrameDeadline (n : Nat) (s : State) : Out :=
  .next <| if 4 ≤ n || !(s.frames.getD n {}).run then s else (s.bump (0xC188 + 16 * n) 1).frameCause n 0

/-- CERR_CNT_CLR.ALL (14): +0x040 to +0x054. -/
def execCerrCntClr (c : Nat) (s : State) : Out := .next <| s.onCore c fun s p k => s.setCore p (k.clearCounters 0x4040 0x4054)

/-- SEQ_CNT_CLR.ALL (R180). -/
def execSeqCntClr (c : Nat) (s : State) : Out := .next <| s.onCore c fun s p k => s.setCore p (k.clearCounters 0x1300 0x1318)

end Sys2Proof.Machine
end

