-- ==== Sys2Proof/Machine/Command.lean ====
section
/-! DEFINITION. The commands of the rings (R396): the checks that they share, and each command's effect. A row of the table that names a ring runs
the command at its head; for a command that goes on, the same row, given again, notes whether it has ended. -/

namespace Sys2Proof.Machine

/-! ### What every command meets (R395, R398, R399, R400, R453) -/

/-- What a command answers: it goes on (or has not started), or it completes. -/
inductive Ans where
  | wait (s : State)
  | done (s : State) (k : Compl)

def ok (s : State) : Ans := .done s {}
def fail (s : State) (st detail : Nat) : Ans := .done s { status := st, detail := detail }

/-- The bits of byte `b` (16 to 63) that a command's parameters use (R396). -/
def paramMask (o b : Nat) : Nat :=
  let set := if 16 ≤ b && b ≤ 19 then 0xFF else 0
  let addr := if 24 ≤ b && b ≤ 31 then 0xFF else 0
  let len4 := if 32 ≤ b && b ≤ 35 then 0xFF else 0
  match o with
  | 0x01 => if 24 ≤ b && b ≤ 43 then 0xFF else set
  | 0x02 => if b = 20 then 1 else set
  | 0x04 => if 24 ≤ b && b ≤ 29 then 0xFF else set
  | 0x03 | 0x05 | 0x0B => set
  | 0x06 => if b = 18 then 0x7F else if b = 19 then 3 else if b ≤ 21 || (24 ≤ b && b ≤ 29) then 0xFF else 0
  | 0x07 => if b = 36 then 3 else max addr len4
  | 0x0C => if 24 ≤ b then 0xFF else 0
  | 0x0D => if b = 16 then 0xFF else if b = 17 then 0x83 else 0
  | 0x0E => if b = 16 then 0xFF else if b = 17 then 1 else 0
  | 0x0F => if b = 16 then 0xFF else max addr len4
  | _ => 0

/-- The first reserved byte of a command that is not 0 (R395). `relayed`: DEVMASK is used. -/
def badByte (c : BitVec 512) (relayed : Bool) : Option Nat :=
  (List.range 64).find? fun b =>
    let v := cmdField c b 1
    if b = 1 then 4 ≤ v
    else if 4 ≤ b && b ≤ 11 then !relayed && v ≠ 0
    else if 12 ≤ b && b ≤ 15 then v ≠ 0
    else if 16 ≤ b then v &&& paramMask (cmdOpc c) b ≠ v
    else false

/-- Commands of the admin ring; LOAD_IMAGE is one by its image (R396). -/
def adminOnly (o : Nat) : Bool := (7 ≤ o && o ≤ 0x0A) || o = 0x0D || o = 0x0E
def State.onAdmin (r : Nat) : Bool := r = 0 || r = 32

/-- Commands that have a core set. -/
def hasSet (o : Nat) : Bool := (1 ≤ o && o ≤ 5) || o = 0x0B

/-- A logical core is absent (R399). -/
def State.absent (s : State) (l : Nat) : Bool := s.ncores ≤ l || (s.phys l).isNone

/-- The logical cores that a command names, as far as there are any. -/
def State.cmdCores (s : State) (c : BitVec 512) : List Nat :=
  if hasSet (cmdOpc c) then cmdSet c
  else if cmdOpc c = 0x0D then
    let w := cmdField c 16 2
    if bitAt w 15 then (s.logical (w % 1024)).toList else [w % 1024]
  else []

/-- A core of a frame run in progress (R396). -/
def State.inRun (s : State) (l : Nat) : Bool := s.frames.any fun f => f.run && f.cores.contains l

/-- A flip or a group commit is in progress (R419). -/
def State.committing (s : State) : Bool := s.flip.isSome || s.twopc.isSome || s.cfg.st = 2

/-- A command waits to start: during a scrub (R453), a frame run of one of its cores (R396), a flip or group commit (R419). -/
def State.cmdWaits (s : State) (c : BitVec 512) : Bool :=
  s.sec.scrub.isSome || (s.cmdCores c).any s.inRun || (7 ≤ cmdOpc c && cmdOpc c ≤ 0x0A && s.committing)

/-- The checks that do not hang on the command's own operands: ADMIN_ONLY, reserved bytes, recovery, RELAY and its members, absent cores. -/
def State.precheck (s : State) (r : Nat) (c : BitVec 512) : Option Compl :=
  let o := cmdOpc c
  let relayed := cmdRelay c
  let bad := (List.range 64).find? fun d => bitAt (cmdDevs c) d && !(s.roster.contains d)
  if adminOnly o && !State.onAdmin r then some { status := stAdminOnly }
  else match badByte c (relayed || 32 ≤ r) with
    | some b => some { status := stBadParam, detail := b }
    | none =>
      if s.sec.recovery && o ≠ 1 && o ≠ 0x0C && o ≠ 0x0F then some { status := stRecovery }
      else if relayed && r < 32 && !s.isAnchor then some { status := stNotAnchor }
      else if relayed && r < 32 && bad.isSome then some { status := stBadParam, detail := 4 + bad.getD 0 / 8 }
      else if o = 9 && r < 32 && 1 < s.roster.length && !(relayed && cmdDevs c = s.rosterMask) then some { status := stGroupOnly }
      else if relayed && r < 32 then none
      else match (if hasSet o then cmdSet c else []).find? s.absent with
        | some l => some { status := stUnitAbsent, detail := absentCore (l % 1024) }
        | none => none

/-- Run a command of ring r at its member: `h` is its effect, with whether it goes on. -/
def State.runHere (s : State) (r : Nat) (j : RingJob) (h : State → Nat → RingJob → Ans) : State :=
  match h s r j with
  | .wait s => s
  | .done s k => s.ringDone r j k

/-- The core set as physical cores. -/
def State.setPhys (s : State) (c : BitVec 512) : List Nat := (cmdSet c).filterMap s.phys

/-- STATE (R398) of a logical core. -/
def State.stateOf (s : State) (l : Nat) : Nat := ((s.phys l).elim 0 fun p => (s.core p).seq.state.code) * 2 ^ 16 + l % 1024

/-- A core set all of which meets `f`, or the first that does not. -/
def State.needState (s : State) (c : BitVec 512) (f : Core → Bool) (g : Ans) : Ans :=
  match (cmdSet c).find? fun l => (s.phys l).all fun p => !f (s.core p) with
  | some l => fail s stState (s.stateOf l)
  | none => g

/-- Change every core of a command's set, and drive its source. -/
def State.eachCore (s : State) (c : BitVec 512) (f : State → Nat → State) : State := (s.setPhys c).foldl f s

/-! ### LOAD_IMAGE (R176, R177, R441, R449, R457) -/

/-- A section of an image. -/
structure Section where
  typ : Nat
  inT1 : Bool
  ofs : Nat
  size : Nat
  align : Nat
  rsv : Bool
  deriving DecidableEq, Repr

def sectionsOf (d : List Byte) : List Section :=
  (List.range (leAt d 34 2)).map fun i =>
    let a := 128 + 32 * i
    { typ := leAt d a 2, inT1 := bitAt (leAt d (a + 2) 2) 0, ofs := leAt d (a + 8) 8, size := leAt d (a + 16) 8, align := leAt d (a + 24) 8
      rsv := 2 ≤ leAt d (a + 2) 2 || !zeroAt d (a + 4) 4 }

/-- CHIP_FEAT (R179). -/
def chipFeat : Nat := 0x7FB

/-- The lowest set bit. -/
def lowBit (n : Nat) : Nat := ((List.range 64).find? fun i => bitAt n i).getD 0

/-- The header checks of R177 that need no placement: status and detail. -/
def State.headerCheck (s : State) (d : List Byte) : Nat × Nat :=
  let isa := leAt d 8 1
  let lacks := leAt d 16 8 &&& (2 ^ 64 - 1 - chipFeat)
  let kind := leAt d 6 2
  if d.take 4 ≠ [0x54, 0x52, 0x50, 0x4E] then (1, 0)
  else if leAt d 4 2 ≠ 1 || !zeroAt d 29 3 || !zeroAt d 36 4 || !zeroAt d 48 80 || 4 ≤ leAt d 10 2 || kind = 0 || 5 ≤ kind
    || (sectionsOf d).any Section.rsv then (2, 0)
  else if 2 < leAt d 9 1 || 4 ≤ isa then (3, 0)
  else if lacks ≠ 0 then (4, lowBit lacks)
  else if s.ncores < leAt d 24 2 then (5, 4)
  else if s.lport.length < leAt d 26 1 then (5, 1)
  else if s.lchan.length < leAt d 27 1 then (5, 2)
  else if s.lcodec.length < leAt d 28 1 then (5, 3)
  else if 0x3FF < leAt d 32 2 then (5, 0)
  else (0, 0)

/-- Sections one after the other at their alignments (R177; log 63): the offset of each in its object, and the sizes needed of CODEOBJ and T1OBJ. -/
def placeSections : List Section → Nat → Nat → List (Section × Nat) × Nat × Nat
  | [], a, b => ([], a, b)
  | x :: t, a, b =>
    let at_ := ((if x.inT1 then b else a) + x.align - 1) / max 1 x.align * x.align
    let r := placeSections t (if x.inT1 then a else at_ + x.size) (if x.inT1 then at_ + x.size else b)
    ((x, at_) :: r.1, r.2)

def isPow2 (n : Nat) : Bool := n ≠ 0 && 2 ^ Nat.log2 n = n

/-- A section is inside the image, of a known type, and aligned. -/
def Section.ok (x : Section) (len : Nat) : Bool := 1 ≤ x.typ && x.typ ≤ 4 && isPow2 x.align && x.ofs % x.align = 0 && x.ofs + x.size ≤ len

/-- The sections fit the objects that receive them. -/
def State.imageFits (s : State) (codeObj t1Obj needC needT : Nat) : Bool :=
  let c := s.objEnt codeObj
  let t := s.objEnt t1Obj
  (needC = 0 || (c.valid && needC ≤ c.bytes)) && (needT = 0 || (t.valid && t.tier = 0 && needT ≤ t.bytes))

/-- The measurement of a core program image: of what its trailer covers, or of all of it (R442, R449). -/
def imageMeasure (d : List Byte) : List Byte :=
  let t := d.drop (d.length - trailerLen)
  if t.take 4 = [0x54, 0x53, 0x49, 0x47] && leAt t 24 8 + trailerLen = d.length then sha3 (d.take (d.length - trailerLen)) else sha3 d

/-- A core program image is placed, and its cores are set to begin at its entry. -/
def State.placeImage (s : State) (c : BitVec 512) (d : List Byte) (l : List (Section × Nat)) : State :=
  let codeObj := cmdField c 40 2
  let t1Obj := cmdField c 42 2
  let s := l.foldl (fun s x => s.wholeWrite (if x.1.inT1 then t1Obj else codeObj) x.2 (((d.drop x.1.ofs).take x.1.size).map fun b => (b, false))) s
  let base := match l.find? fun x => x.1.typ = 1 with
    | some x => (s.objEnt (if x.1.inT1 then t1Obj else codeObj)).start + x.2
    | none => 0
  let pc := (base / 16 + leAt d 40 8) % 2 ^ 48
  let s := s.eachCore c fun s p => s.modCore p fun k => k.modSeq fun q => { q with start := pc, pc := pc, fetch := [], fills := [] }
  { s with sec := { s.sec with meas7 := sha3 (s.sec.meas7 ++ imageMeasure d) } }

/-- LOAD_IMAGE with the image's bytes `img`. -/
def loadImage (img : List Byte) (s : State) (r : Nat) (j : RingJob) : Ans :=
  let c := j.cmd
  let d := (if r < 32 then img else j.payload).take (cmdField c 32 8)
  let kind := leAt d 6 2
  let fw := 2 ≤ kind && kind ≤ 4
  let refuse (st det : Nat) : Ans := .done s { status := stLoadRefused, subst := st, detail := det }
  if j.started then (if (aget none s.sec.updating kind) = some r then .wait s else ok s)
  else if fw && !State.onAdmin r then fail s stAdminOnly 0
  else
    s.needState c Core.parked <|
      let h := s.headerCheck d
      if h.1 ≠ 0 then refuse h.1 h.2
      else if fw then
        if (afind s.sec.updating kind).isSome then fail s stBusy 0
        else
          let x := s.checkImage kind d
          if x.2 ≠ 0 then .done x.1 { status := stLoadRefused, subst := 6 }
          else if slotSize kind < d.length + 4096 then .done x.1 { status := stLoadRefused, subst := 7 }
          else if !((sectionsOf d).all fun y => y.ok (d.length - trailerLen)) then .done x.1 { status := stLoadRefused, subst := 8 }
          else .wait ((x.1.ringBegin r j).startUpdate kind d (some r))
      else
        let x := if s.sealed_ then s.checkImage 1 d else (s, 0)
        if x.2 ≠ 0 || (s.sealed_ && signerOf d ≠ 1) then .done x.1 { status := stLoadRefused, subst := 6 }
        else
          let l := sectionsOf d
          let pl := placeSections l 0 0
          if !(s.imageFits (cmdField c 40 2) (cmdField c 42 2) pl.2.1 pl.2.2) then .done x.1 { status := stLoadRefused, subst := 7 }
          else if !(l.all fun y => y.ok d.length) || !(l.any fun y => y.typ = 1) then .done x.1 { status := stLoadRefused, subst := 8 }
          else if s.sec.recovery then refuse 9 0
          else ok (x.1.placeImage c d pl.1)

/-! ### Running cores -/

/-- No preemption stands between a command and the core's program. -/
def Core.unsaved (c : Core) : Bool := c.pre.phase = .none

/-- START; a core whose commit goes on does not restart (R248; log 154). -/
def startCmd (s : State) (_ : Nat) (j : RingJob) : Ans :=
  let restart := bitAt (cmdField j.cmd 20 1) 0
  s.needState j.cmd (fun k => if restart then k.parked && !k.inCommit else k.seq.state = .stopped) <|
    ok (s.eachCore j.cmd fun s p =>
      if restart then s.restartCore p else (s.modCore p fun k => k.modSeq fun q => { q with state := .running, stopping := false }).irqCore p)

/-- STOP: cores that are not RUNNING are unchanged; it ends when none of the set runs. -/
def stopCmd (s : State) (r : Nat) (j : RingJob) : Ans :=
  let s := if j.started then s else s.eachCore j.cmd fun s p => s.modCore p Core.stop
  if (s.setPhys j.cmd).all fun p => !(s.core p).active then ok s else .wait (s.ringBegin r j)

/-- An enabled frame binding names the core. -/
def State.bound (s : State) (l : Nat) : Bool := (List.range 4).any fun n => bitAt (s.frameBind n) 0 && (s.frameSet n).contains l

/-- PREEMPT: it ends when every core's state is saved, and PROG has started; a core whose preemption a halt abandons ends it with STATE (R437). -/
def preemptCmd (s : State) (r : Nat) (j : RingJob) : Ans :=
  let prog := cmdField j.cmd 24 6
  if !j.started then
    if prog ≠ 0 && (cmdSet j.cmd).any s.bound then fail s stBusy 0
    else
      s.needState j.cmd (fun k => k.unsaved && (k.seq.state = .running || k.seq.state = .stopped || k.seq.state = .done)) <|
        .wait ((s.eachCore j.cmd fun s p => s.modCore p fun k =>
          { k with pre := { k.pre with host := true, prog := if prog = 0 then none else some prog } }).ringBegin r j)
  else
    match (cmdSet j.cmd).find? fun l => (s.phys l).all fun p => (s.core p).unsaved && !(s.core p).pre.host with
    | some l => fail s stState (s.stateOf l)
    | none => if (s.setPhys j.cmd).all fun p => (s.core p).pre.phase = .saved then ok s else .wait s

/-- RESUME: of saved cores whose program does not run (log 58); it ends when every core is restored. -/
def resumeCmd (s : State) (r : Nat) (j : RingJob) : Ans :=
  if !j.started then
    s.needState j.cmd (fun k => k.pre.phase = .saved && k.seq.state ≠ .running && k.seq.state ≠ .frozen) <|
      .wait ((s.eachCore j.cmd fun s p => (s.modCore p Core.beginRestore).irqCore p).ringBegin r j)
  else if (s.setPhys j.cmd).all fun p => (s.core p).pre.phase ≠ .restoring then ok s else .wait s

/-- STEP_REPEAT (R167). -/
def stepRepeatCmd (s : State) (_ : Nat) (j : RingJob) : Ans :=
  s.needState j.cmd (fun k => k.unsaved && k.seq.open_ && !k.inCommit && (k.parked || k.seq.state = .running)) <|
    ok (s.eachCore j.cmd fun s p => s.repeatStep p)

/-! ### Objects and configuration -/

/-- MIGRATE (R305, R306): it ends at the switch. -/
def migrateCmd (s : State) (r : Nat) (j : RingJob) : Ans :=
  let c := j.cmd
  let i := cmdField c 16 2
  let a := cmdField c 18 1
  let e := s.objEnt i
  let d : MigDest := { base := cmdField c 24 6, tier := bitsOf a 0 2, stripe := bitsOf a 2 4, muslin := bitAt a 6, mw := cmdField c 19 1 % 4, metaObj := cmdField c 20 2 }
  if j.started then .wait s
  else if !e.valid then fail s stBadParam 16
  else if s.obj.migs.any fun m => m.obj = i then fail s stBusy 0
  else
    match s.migRule i (e.moved d) with
    | some rule => fail s stCheckFail (i + rule * 2 ^ 16)
    | none => .wait ((s.ringBegin r j).startMig i (e.moved d) (some r))

/-- The list that a relayed STAGE carries. -/
def listOf (d : List Byte) : List (Nat × W32) :=
  (List.range (d.length / 8)).map fun i => (leAt d (8 * i) 4, BitVec.ofNat 32 (leAt d (8 * i + 4) 4))
def listBytes (l : List (Nat × W32)) : List Byte := l.flatMap fun x => bytesOf 4 x.1 ++ bytesOf 4 x.2.toNat

/-- STAGE (R414) with its list. -/
def stageCmd (list : List (Nat × W32)) (s : State) (r : Nat) (j : RingJob) : Ans :=
  let l := (if r < 32 then list else listOf j.payload).take (cmdField j.cmd 32 4)
  let f := cmdField j.cmd 36 1
  if bitAt f 0 && s.cfg.st ≠ 0 then fail s stBusy 0
  else
    match l.findIdx? fun x => !stagedField x.1 with
    | some i => fail s stBadParam i
    | none =>
      let s := if bitAt f 0 then s.openSession (bitAt f 1) else s
      ok (l.foldl (fun s x => s.stageWrite x.1 x.2) s)

/-- CHECK (R415). -/
def checkCmd (s : State) (_ : Nat) (_ : RingJob) : Ans :=
  match s.runCheck with
  | (s, none) => ok s
  | (s, some d) => fail s stCheckFail d

/-- COMMIT on one device (R416): CHECK again, then the flip; it ends with the flip. Without a session nothing is committed. -/
def commitCmd (s : State) (r : Nat) (j : RingJob) : Ans :=
  if j.started then .wait s
  else if s.cfg.st = 0 then ok s
  else
    match s.runCheck with
    | (s, some d) => fail s stCheckFail d
    | (s, none) => .wait ((s.ringBegin r j).beginFlip ((s.epoch + 1) % 16) (some r) none)

/-- ABORT. -/
def abortCmd (s : State) (_ : Nat) (_ : RingJob) : Ans := if s.cfg.st = 0 then ok s else ok (s.closeSession.cfgCause 4)

/-! ### Evidence, fences, queries -/

/-- ATTEST (R450). -/
def attestCmd (s : State) (_ : Nat) (j : RingJob) : Ans :=
  if cmdField j.cmd 32 4 < 2820 then fail s stBadParam 32
  else ok (s.emit (.hostWrite (cmdField j.cmd 24 8) (s.evidence (bytesOf 28 (cmdField j.cmd 36 28)))))

/-- FENCE (R396, R421): cause HOST. -/
def fenceCmd (s : State) (_ : Nat) (j : RingJob) : Ans :=
  let w := cmdField j.cmd 16 2
  let n := w % 1024
  if bitAt w 15 then
    if 512 ≤ n then fail s stBadParam 16
    else if s.fused.contains n then fail s stState n
    else ok (s.fenceCore n 8)
  else
    match s.phys n with
    | none => fail s stUnitAbsent (absentCore n)
    | some p => ok (s.fenceCore p 8)

/-- Cores of a cluster whose L2 is out of service that are still to pass their test. -/
def State.clusterWaits (s : State) (g : Nat) : Bool := s.fences.any fun f => f.p / 8 = g && !f.passed

/-- The fences of a list of cores are lifted: they become spares (R426). -/
def State.lift (s : State) (ps : List Nat) : State :=
  let s := { s with fences := s.fences.filter (fun f => !ps.contains f.p), fl := { s.fl with dirty := true }, spares := ps.foldl sins s.spares }
  ps.foldl (fun s p => s.modCore p fun c => { c with fence := {} }) s

/-- UNFENCE (R426). `pass`: the outcome of the built-in test. -/
def unfenceCmd (pass : Bool) (s : State) (_ : Nat) (j : RingJob) : Ans :=
  let p := cmdField j.cmd 16 2 % 512
  if !pass || !s.isFenced p then fail s stState (p + 3 * 2 ^ 16)
  else
    let g := clusterOf p
    if (s.cluster g).oos then
      let s := { s with fences := s.fences.map fun (f : FenceEnt) => if f.p = p then { f with passed := true } else f }
      if s.clusterWaits g then ok s
      else ok ((s.lift ((s.fences.filter fun f => f.p / 8 = g).map FenceEnt.p)).setCluster g { s.cluster g with oos := false })
    else ok (s.lift [p])

/-- QUERY (R396): the device summary, whose format is not given (log 11), or the members' results of the ring's last relayed command. -/
def queryCmd (s : State) (r : Nat) (j : RingJob) : Ans :=
  let kind := cmdField j.cmd 16 1
  let d := if kind = 0 then Config.message 0x0F [s.epoch]
    else (s.ring r).last.flatMap fun x => [BitVec.ofNat 8 x.2.1, BitVec.ofNat 8 x.2.2, BitVec.ofNat 8 x.1, 0]
  if 2 ≤ kind then fail s stBadParam 16 else ok (s.emit (.hostWrite (cmdField j.cmd 24 8) (d.take (cmdField j.cmd 32 4))))

/-! ### Relaying and the group commit (R400, R418) -/

/-- A relayed command at the device that runs it, with the payload that came with it. A command that needs a row of its own waits for it. -/
def State.runRelayed (s : State) (r : Nat) : State :=
  match s.ringHead r with
  | none => s
  | some j =>
    let c := j.cmd
    if j.started || s.cmdWaits c then s
    else
      match s.precheck r c with
      | some k => s.ringDone r j k
      | none =>
        match cmdOpc c with
        | 0x01 => s.runHere r j (loadImage j.payload)
        | 0x02 => s.runHere r j startCmd
        | 0x03 => s.runHere r j stopCmd
        | 0x04 => s.runHere r j preemptCmd
        | 0x05 => s.runHere r j resumeCmd
        | 0x06 => s.runHere r j migrateCmd
        | 0x07 => s.runHere r j (stageCmd [])
        | 0x08 => s.runHere r j checkCmd
        | 0x09 => s.runHere r j commitCmd
        | 0x0A => s.runHere r j abortCmd
        | 0x0B => s.runHere r j stepRepeatCmd
        | 0x0C => s.runHere r j attestCmd
        | 0x0D => s.runHere r j fenceCmd
        | 0x0E => s
        | 0x0F => s.runHere r j queryCmd
        | _ => s.ringDone r j { status := stBadOpcode }

/-- RELAYED_COMMAND_RECEIVE (R400): a command that the anchor relays from one of its rings. -/
def State.takeRelayed (s : State) (src ring : Nat) (c : BitVec 512) (payload : List Byte) : State :=
  if 17 ≤ ring then s
  else
    let r := 32 + ring
    let x := s.ring r
    (s.setRing r { x with src := src, queue := x.queue ++ [{ cmd := c, payload := payload }] }).runRelayed r

def execRelayedCommandReceive (src ring : Nat) (cmd : BitVec 512) (payload : List Byte) (s : State) : Out := .next (s.takeRelayed src ring cmd payload)

/-- RELAY_SEND (R400): the anchor relays a command to each member that it names; it reads the payload once. -/
def State.relayStart (s : State) (r : Nat) (j : RingJob) (payload : List Byte) : State :=
  let ms := maskList 64 (cmdDevs j.cmd)
  let s := s.ringBegin r j
  let s := s.setRing r { s.ring r with relay := some { members := ms } }
  if ms.isEmpty then s.ringDone r j {}
  else
    ms.foldl (fun s d => if d = s.devId then s.takeRelayed d r j.cmd payload else s.sendCtl d (.relayed r j.cmd payload)) s

/-- A member prepares (R418): CHECK; on success the session is locked. Answers the vote. -/
def State.prepare (s : State) (src epoch : Nat) : State × Option Nat :=
  let s := if s.cfg.st = 0 then s.openSession false else s
  match s.runCheck with
  | (s, some d) => (s, some d)
  | (s, none) => ({ s with cfg := { s.cfg with st := 2, locked := true, epoch := epoch, from_ := src } }, none)

/-- The anchor ends a group commit before its decision: ABORT to every member, every session closed, and the completion (R418). -/
def State.groupAbort (s : State) (t : TwoPc) (k : Compl) : State :=
  let s := (t.members.filter fun d => d ≠ s.devId).foldl (fun s d => s.sendCtl d .groupAbort) s
  (State.cfgCause { s.closeSession with twopc := none } 4).ringEnd t.ring k

/-- The completion of a commit that a vote refused: the lowest failing member and its detail. -/
def voteCompl (l : Amap (Bool × Nat)) : Compl :=
  let bad := l.filter fun x => !x.2.1
  match bad with
  | [] => { status := stTimeout }
  | (d, v) :: _ => { status := stCheckFail, detail := v.2, failCnt := bad.length, failDev := d }

/-- What a member's staged table and links say (R333, R340): for each destination that it forwards to, the devices its ports reach; the features of
this device and of its links to members. -/
def State.voteRoutes (v : State) : List (Nat × List Nat) :=
  (List.range 64).filterMap fun d =>
    if bitsOf (v.hxRt d) 24 2 < 2 then none else some (d, (maskList 24 (v.hxRt d)).foldl (fun l p => sins l (v.port p).peerDev) [])
def State.voteFeat (v : State) : W32 :=
  v.ports.foldl (fun f x => if x.2.state = .up && v.inRoster x.2.peerDev then f &&& x.2.feat else f) 0x7F

/-- Devices that packets for device b can be at after n hops from those of a list, by the members' tables. -/
def hopsTo (tab : Nat → Nat → List Nat) (b : Nat) : Nat → List Nat → List Nat
  | 0, l => l.filter fun d => d ≠ b
  | n + 1, l => hopsTo tab b n (((l.filter fun d => d ≠ b).flatMap fun d => tab d b).foldl sins [])

/-- The routes that the anchor refuses (R340, R415): the first destination that some member's packets go round to for ever (rule 4), or reach in more
than MAXHOP hops (rule 5): the member, and the detail. -/
def routeFault (tab : Nat → Nat → List Nat) (ms : List Nat) (maxHop : Nat) : Option (Nat × Nat) :=
  let bad (rule n : Nat) : Option (Nat × Nat) := ms.findSome? fun b => ms.findSome? fun a =>
    if a ≠ b && !(hopsTo tab b n [a]).isEmpty then some (a, b + rule * 2 ^ 16 + 3 * 2 ^ 24) else none
  (bad 4 64).or (bad 5 maxHop)

/-- The decision of the anchor once every member has voted (R418): routes that loop or are too long refuse the commit (R340). -/
def State.decide2 (s : State) : State :=
  match s.twopc with
  | none => s
  | some t =>
    if t.decided || !(t.members.all fun d => (afind t.votes d).isSome) then s
    else if t.votes.all fun x => x.2.1 then
      let tab (a b : Nat) : List Nat := (afind (aget [] t.routes a) b).getD []
      match routeFault tab t.members s.stagedView.maxHop with
      | some x => s.groupAbort t { status := stCheckFail, detail := x.2, failCnt := 1, failDev := x.1 }
      | none =>
        let links := t.routes.map fun x => (x.1, (x.2.flatMap Prod.snd).foldl sins [])
        let s := { s with twopc := some { t with decided := true }, hxLinks := links, hxCut := [] }
        let s := (t.members.filter fun d => d ≠ s.devId).foldl (fun s d => s.sendCtl d (.groupCommit t.epoch t.feat)) s
        if t.members.contains s.devId then s.beginFlip t.epoch none (some s.devId) t.feat else s
    else s.groupAbort t (voteCompl t.votes)

/-- A vote reaches the anchor. -/
def State.takeVote (s : State) (dev : Nat) (good : Bool) (detail : Nat) (routes : List (Nat × List Nat)) (feat : W32) : State :=
  match s.twopc with
  | none => s
  | some t =>
    if t.decided || !t.members.contains dev then s
    else
      let t := { t with votes := aset t.votes dev (good, detail), routes := aset t.routes dev routes, feat := t.feat &&& feat }
      State.decide2 { s with twopc := some t }

/-- COMMIT of a group at its anchor: PREPARE goes to every member (R418). -/
def State.groupStart (s : State) (r : Nat) (j : RingJob) : State :=
  let ep := (s.epoch + 1) % 16
  let ms := s.roster
  let s := { s.ringBegin r j with twopc := some { ring := r, epoch := ep, members := ms } }
  let s := (ms.filter fun d => d ≠ s.devId).foldl (fun s d => s.sendCtl d (.prepare ep)) s
  if ms.contains s.devId then
    let x := s.prepare s.devId ep
    x.1.takeVote s.devId x.2.isNone (x.2.getD 0) x.1.stagedView.voteRoutes x.1.stagedView.voteFeat
  else s

/-! ### The rows of the table -/

/-- Run the command at the head of ring r when its opcode is `opc`: `h` is its effect on this device, `payload` what a relayed command carries. -/
def State.onRing (s : State) (r opc : Nat) (payload : List Byte) (h : State → Nat → RingJob → Ans) : State :=
  match s.ringHead r with
  | none => s
  | some j =>
    if !s.powered || cmdOpc j.cmd ≠ opc then s
    else if j.started then (if (s.ring r).relay.isSome || s.twopc.any (fun t => t.ring = r) then s else s.runHere r j h)
    else if s.cmdWaits j.cmd then s
    else
      match s.precheck r j.cmd with
      | some k => s.ringDone r j k
      | none =>
        if cmdRelay j.cmd && r < 32 then
          (if opc = 9 && 1 < s.roster.length then s.groupStart r j else s.relayStart r j payload)
        else s.runHere r j h

def execLoadImage (r : Nat) (img : List Byte) (s : State) : Out := .next (s.onRing r 0x01 img (loadImage img))
def execStart (r : Nat) (s : State) : Out := .next (s.onRing r 0x02 [] startCmd)
def execStop (r : Nat) (s : State) : Out := .next (s.onRing r 0x03 [] stopCmd)
def execPreempt (r : Nat) (s : State) : Out := .next (s.onRing r 0x04 [] preemptCmd)
def execResume (r : Nat) (s : State) : Out := .next (s.onRing r 0x05 [] resumeCmd)
def execMigrate (r : Nat) (s : State) : Out := .next (s.onRing r 0x06 [] migrateCmd)
def execStage (r : Nat) (list : List (Nat × W32)) (s : State) : Out := .next (s.onRing r 0x07 (listBytes list) (stageCmd list))
def execCheck (r : Nat) (s : State) : Out := .next (s.onRing r 0x08 [] checkCmd)
def execCommit (r : Nat) (s : State) : Out := .next (s.onRing r 0x09 [] commitCmd)
def execAbort (r : Nat) (s : State) : Out := .next (s.onRing r 0x0A [] abortCmd)
def execStepRepeat (r : Nat) (s : State) : Out := .next (s.onRing r 0x0B [] stepRepeatCmd)
def execAttest (r : Nat) (s : State) : Out := .next (s.onRing r 0x0C [] attestCmd)
def execFence (r : Nat) (s : State) : Out := .next (s.onRing r 0x0D [] fenceCmd)
def execUnfence (r : Nat) (pass : Bool) (s : State) : Out := .next (s.onRing r 0x0E [] (unfenceCmd pass))
def execQuery (r : Nat) (s : State) : Out := .next (s.onRing r 0x0F [] queryCmd)

end Sys2Proof.Machine
end

