-- ==== Sys2Proof/Machine/Power.lean ====
section
/-! DEFINITION. The power manager: demands and throttle steps, regulator control, temperatures, power-fail (R461 to R468, R477, R478). -/

namespace Sys2Proof.Machine

/-! ### Steps and voltages (R462, R466) -/

/-- AVS_VOLT[s] in mV: the nominal setpoints (log 4). -/
def avsVolt (step : Nat) : Nat := match step with
  | 0 => 800
  | 1 => 750
  | 2 => 710
  | _ => 670

/-- The largest demand. -/
def Power.demand (x : Power) : Nat := max (max x.dPlim x.dFast) (max x.dTherm x.dPf)

/-- An AVSBus voltage write of VDD_CORE. -/
def State.avsWrite (s : State) (mv : Nat) : State := State.emit { s with pw := { s.pw with setMv := mv } } (.bus 0 0 mv)

/-- A step comes into force: source 11 follows it. -/
def State.stepIs (s : State) (step : Nat) : State := State.level { s with pw := { s.pw with step := step } } 11 (step ≠ 0)

/-- The step follows the demands. Down: the frequency changes, then the voltage is lowered. Up: the voltage is raised, and the frequency follows
(R462). A raise that a new demand overtakes is given up. -/
def State.pwSettle (s : State) : State :=
  let x := s.pw
  let g := x.demand
  let waits := x.write || x.acked
  if x.step < g then
    let s := (s.bump 0x500080 (g - x.step)).stepIs g
    State.avsWrite { s with pw := { s.pw with goal := g, write := false, acked := false } } (avsVolt g)
  else if g < x.step then
    (if waits && x.goal = g then s
     else State.avsWrite { s with pw := { x with goal := g, write := true, acked := false } } (avsVolt g))
  else if waits then State.avsWrite { s with pw := { x with goal := g, write := false, acked := false } } (avsVolt g)
  else s

/-- AVS_WRITE_ACK (R462). -/
def execAvsWriteAck (s : State) : Out :=
  .next <| if s.powered && s.pw.write then { s with pw := { s.pw with write := false, acked := true } } else s

/-- FREQUENCY_CHANGE (R462): the frequency steps up. -/
def execFrequencyChange (s : State) : Out :=
  .next <|
    if !s.powered || !s.pw.acked then s
    else
      let g := s.pw.goal
      (State.bump { s with pw := { s.pw with acked := false } } 0x500084 (s.pw.step - g)).stepIs g

/-! ### Power limits (R466) -/

/-- Evaluations in 1 ms and in 100 µs. -/
def evalsMs : Nat := 1000
def evals100us : Nat := 100

/-- PWR_LIMIT's LIMIT and FAST. -/
def State.pwrLimit (s : State) : Nat := bitsOf (aget 0x7085DC s.regs 0x500010).toNat 0 12
def State.pwrFast (s : State) : Nat := bitsOf (aget 0x7085DC s.regs 0x500010).toNat 12 12

/-- D_PLIM after an evaluation. -/
def Power.evalPlim (x : Power) (est limit : Nat) : Power :=
  let avg := (est :: x.avg).take evalsMs
  let sum := avg.foldl (· + ·) 0
  let since := min evalsMs (x.sincePlim + 1)
  let below := if 20 * sum < 19 * limit * evalsMs then x.below95 + 1 else 0
  if limit * evalsMs < sum && evalsMs ≤ since && x.dPlim < 3 then { x with avg := avg, dPlim := x.dPlim + 1, sincePlim := 0, below95 := below }
  else if evalsMs ≤ below && 0 < x.dPlim then { x with avg := avg, dPlim := x.dPlim - 1, sincePlim := since, below95 := 0 }
  else { x with avg := avg, sincePlim := since, below95 := below }

/-- D_FAST after an evaluation. -/
def Power.evalFast (x : Power) (est limit fast : Nat) : Power :=
  let hi := if fast < est then x.overFast + 1 else 0
  let lo := if est < limit then x.belowLimit + 1 else 0
  if 2 ≤ hi && x.dFast < 3 then { x with dFast := x.dFast + 1, overFast := hi, belowLimit := lo }
  else if evals100us ≤ lo && 0 < x.dFast then { x with dFast := x.dFast - 1, overFast := hi, belowLimit := 0 }
  else { x with overFast := hi, belowLimit := lo }

/-- PWR_CTRL.PF_THROT. -/
def State.pfThrot (s : State) : Bool := bitAt (aget 1 s.regs 0x500018).toNat 0

/-- POWER_LOOP_EVAL (R466): EST is formed, the demands are judged, and the step follows them. The averages hold what has been evaluated since the
reset; an evaluation that has not been made counts as 0 W. -/
def execPowerLoopEval (est : Nat) (s : State) : Out :=
  .next <| s.under 625 fun s =>
    let x := s.pw
    let y := (x.evalPlim est s.pwrLimit).evalFast est s.pwrLimit s.pwrFast
    let y := { y with est := est, dPf := if s.pwrfail && s.pfThrot then 3 else y.dPf }
    let bits : W32 := (if x.dPlim < y.dPlim then 1 else 0) ||| (if x.dFast < y.dFast then 2 else 0)
    let s := { s with pw := y }
    let s := if bits = 0 then s else s.pwrCause bits
    s.pwSettle

/-- PMBUS_POLL (R460, R461): the rails are read; a rail fault sets PWR_CAUSE.RAIL. -/
def execPmbusPoll (mv : Nat) (fault : Bool) (s : State) : Out :=
  .next <|
    if !s.powered then s
    else
      let s := { s with pw := { s.pw with readMv := mv } }
      if fault then s.pwrCause 0x10 else s

/-! ### Temperatures (R467) -/

/-- The trip point in °C. -/
def tripTemp : Nat := 115

/-- THERM_CFG. -/
def State.throtTemp (s : State) : Nat := min 110 (bitsOf (aget 0x564 s.regs 0x500050).toNat 0 8)
def State.hystTemp (s : State) : Nat := bitsOf (aget 0x564 s.regs 0x500050).toNat 8 4

/-- D_THERM rises by one step. -/
def State.thermUp (s : State) : State :=
  if 3 ≤ s.pw.dTherm then s else State.pwrCause { s with pw := { s.pw with dTherm := s.pw.dTherm + 1 } } 4

/-- A flash operation that is cut off leaves its sector with bytes that the spec does not give (R491). -/
def State.flashAbandon (s : State) : State :=
  match s.flashQ with
  | [] => s
  | j :: rest =>
    if !s.flashBusy then s
    else
      let d := freeBytes s.fresh 4096
      let s := { s with flash := sectorWrite s.flash (j.at_ / 4096 * 4096) d, fresh := s.fresh + 1, flashBusy := false, flashQ := rest }
      match j.kind with
      | .erase k => { s with sec := { s.sec with slots := adel s.sec.slots k } }
      | .header k _ => { s with sec := { s.sec with slots := adel s.sec.slots k } }
      | _ => s

/-- THERMTRIP_N is output pin 0 of the model's trace. -/
def pinTrip : Nat := 0

/-- The thermal trip (R467, R491): the device declares itself lost, asserts THERMTRIP_N, and its clocks stop. -/
def State.trip (s : State) : State :=
  let s := (s.declareLost.flashAbandon).emit (.pin pinTrip true)
  { s with powered := false, pw := { s.pw with tripped := true } }

/-- THERMAL_SAMPLE (R467). `rise`, `fall`: the pacing of 100 µs and 1 ms allows a step. -/
def execThermalSample (temps : List Nat) (rise fall : Bool) (s : State) : Out :=
  .next <| s.under 625 fun s =>
    let t := (temps.take 64).zipIdx.map fun x => (x.2, x.1)
    let s := { s with pw := { s.pw with temps := t } }
    if t.any fun x => tripTemp ≤ x.2 then s.trip
    else
      let hot := s.pw.alert || t.any fun x => s.throtTemp < x.2
      let cool := !s.pw.alert && t.all fun x => x.2 < s.throtTemp - s.hystTemp
      let s := if hot && rise then s.thermUp
        else if cool && fall then { s with pw := { s.pw with dTherm := s.pw.dTherm - 1 } } else s
      s.pwSettle

/-- THERM_ALERT (R467): the board's alert, asserted low, raises D_THERM where no sensor does already; source 29 follows the pin. -/
def execThermAlert (asserted : Bool) (s : State) : Out :=
  .next <| s.under 625 fun s =>
    let hot := s.pw.alert || s.pw.temps.any fun x => s.throtTemp < x.2
    let s := State.level { s with pw := { s.pw with alert := asserted } } 29 (!asserted)
    if asserted && !hot then s.thermUp.pwSettle else s

/-! ### Power-fail (R466, R477, R478) -/

/-- PWRFAIL_N: as it falls, no new sector operation starts, and D_PF applies; source 28 follows the pin. The pin is of the always-on domain. -/
def execPwrfailN (low : Bool) (s : State) : Out :=
  .next <|
    if s.pwrfail = low then s
    else
      let s := { s with pwrfail := low, pw := { s.pw with pfWait := true } }
      if !s.powered then s
      else
        let s := s.level 28 (!low)
        if low then (State.pwSettle { s with pw := { s.pw with dPf := if s.pfThrot then 3 else s.pw.dPf } }).pwrCause 8 else s

/-- PWRFAIL_RECOVERY (R466, R478): PWRFAIL_N has been high for 10 ms; D_PF falls to 0 and writes that are due resume. -/
def execPwrfailRecovery (s : State) : Out :=
  .next <|
    if s.pwrfail || !s.pw.pfWait then s
    else
      let s := { s with pw := { s.pw with pfWait := false, dPf := 0 } }
      if s.powered then s.pwSettle.flashTry else s

/-- PWR_CNT_CLR.ALL: +0x080 to +0x098. -/
def execPwrCntClr (s : State) : Out := .next { s with cnt := s.cnt.filter fun x => x.1 < 0x500080 ∨ 0x500098 < x.1 }

end Sys2Proof.Machine
end

