-- ==== Sys2Proof/Machine/Window.lean ====
section
/-! DEFINITION. The host window of BAR4 (R388), and its sealed pages (R454). -/

namespace Sys2Proof.Machine

/-- HWIN_SEG[i].BASE. -/
def State.segBase (s : State) (i : Nat) : Nat :=
  (aget 0 s.regs (0x200500 + 8 * i)).toNat / 2 ^ 20 * 2 ^ 20 + (aget 0 s.regs (0x200504 + 8 * i)).toNat % 2 ^ 20 * 2 ^ 32

/-- The segment of a BAR4 offset, and the device address it names. -/
def winSeg (ofs : Nat) : Nat := ofs / 2 ^ 32 % 16
def State.winAddr (s : State) (ofs : Nat) : Nat := s.segBase (winSeg ofs) + ofs % 2 ^ 32

/-- The window freezes (R388). -/
def State.winFreeze (s : State) (reason obj addr : Nat) : State :=
  State.level { s with hwin := some { reason := reason, obj := obj, addr := addr } } 683 true

/-- The window is released. -/
def State.winRelease (s : State) : State := State.level { s with hwin := none } 683 false

/-- RELEASE_WINDOW (HWIN_CTRL.RELEASE). -/
def execReleaseWindow (s : State) : Out := .next s.winRelease

/-- A read of n bytes at a device address, checked as the host's; poisoned data is returned as it is stored (log 62). -/
def State.winRead (s : State) (a n : Nat) : State :=
  match s.checkAddr .host false false a n with
  | .error (r, o) => (s.winFreeze r o a).emit .accessError
  | .ok (o, ofs) => let x := s.objRead o ofs n; x.2.emit (.readData (x.1.map Prod.fst) (x.1.any Prod.snd))

/-- A write at a device address, checked as the host's. -/
def State.winWrite (s : State) (a : Nat) (d : List Byte) : State :=
  match s.checkAddr .host true false a d.length with
  | .error (r, o) => s.winFreeze r o a
  | .ok (o, ofs) => s.wholeWrite o ofs (d.map fun b => (b, false))

/-! ### Sealed pages (R454) -/

/-- The address range of the record object. -/
def State.inWrec (s : State) (a n : Nat) : Bool :=
  let e := s.objEnt s.wrec
  e.valid && e.start ≤ a && a + n ≤ e.start + e.bytes

/-- A failure of a sealed page: the window freezes with reason 0x80, and it is counted. -/
def State.sealFail (s : State) (a : Nat) : State := (s.bump 0x600080 1).winFreeze frzDenied s.wrec a

/-- The envelope key as a key number of the AES engine (log 10). -/
def State.envKey (s : State) : Nat := numOf s.sec.env

/-- GCM inputs of a page (R454). -/
def pageIv (dir ctr : Nat) : List Byte := [BitVec.ofNat 8 dir, 0, 0, 0] ++ bytesOf 8 ctr
def pageAad (a ctr : Nat) : List Byte := bytesOf 8 a ++ bytesOf 8 ctr

/-- The record of page k, when it lies in the record object. -/
def State.pageRecord (s : State) (k : Nat) : Option (List Byte) :=
  if (s.objEnt s.wrec).bytes < 32 * k + 32 then none else some ((s.objRead s.wrec (32 * k) 32).1.map Prod.fst)

/-- A page is complete: its record and tag are judged, and the plaintext is written (R454). -/
def State.pageDone (s : State) (w : WPage) : State :=
  let d := (List.range 4096).map fun i => aget 0 w.got i
  let ctr := numOf (w.record.take 8)
  let dir := (w.record.getD 24 0).toNat
  let iv := pageIv dir ctr
  let s := { s with sec := { s.sec with wpages := s.sec.wpages.filter fun x => x.page ≠ w.page } }
  if dir ≠ 1 || ctr ≤ s.sec.hctr || Config.gcmTag s.envKey iv (pageAad w.addr ctr) d ≠ (w.record.drop 8).take 16 then s.sealFail w.addr
  else
    match s.checkAddr .host true false w.addr 4096 with
    | .error (r, o) => s.winFreeze r o w.addr
    | .ok (o, ofs) =>
      let s := s.wholeWrite o ofs ((gcmXor s.envKey iv d).map fun b => (b, false))
      State.bump { s with sec := { s.sec with hctr := ctr } } 0x600084 1

/-- One ciphertext byte of a sealed page at BAR4 offset `ofs` (R454). -/
def State.sealedByte (s : State) (ofs : Nat) (b : Byte) : State :=
  let k := ofs / 4096
  let a := s.winAddr (ofs / 4096 * 4096)
  -- a write to a page open for reading discards that buffer
  let s := if s.sec.rpages.any (fun x => x.page = k) then
      { s with sec := { s.sec with rpages := s.sec.rpages.filter fun x => x.page ≠ k } } else s
  if s.sec.owner.isNone then s.sealFail a
  else
    match s.sec.wpages.find? fun x => x.page = k with
    | some w =>
      if (afind w.got (ofs % 4096)).isSome then s.sealFail a
      else
        let w := { w with got := aset w.got (ofs % 4096) b }
        let s := { s with sec := { s.sec with wpages := s.sec.wpages.map fun x => if x.page = k then w else x } }
        if w.got.length = 4096 then s.pageDone w else s
    | none =>
      if 16 ≤ s.sec.wpages.length then s.sealFail a
      else
        match s.checkAddr .host true false a 4096 with
        | .error (r, o) => s.winFreeze r o a
        | .ok _ =>
          match s.pageRecord k with
          | none => s.sealFail a
          | some rec_ =>
            let w : WPage := { page := k, addr := a, record := rec_, got := [(ofs % 4096, b)] }
            { s with sec := { s.sec with wpages := s.sec.wpages ++ [w] } }

/-- The window does not answer: a segment that is disabled or a window that is frozen refuses (R388). -/
def State.winShut (s : State) (ofs : Nat) : Bool := !s.powered || 2 ^ 36 ≤ ofs || !s.segOn (winSeg ofs) || s.hwin.isSome

/-- SEALED_PAGE_WRITE (R454). -/
def execSealedPageWrite (ofs : Nat) (b : Byte) (s : State) : Out :=
  .next (if !s.sealed_ || s.winShut ofs || s.inWrec (s.winAddr ofs) 1 then s else s.sealedByte ofs b)

/-- The bytes of a page that is open for reading, and whether it is poisoned. -/
def State.pageBytes (s : State) (ofs n : Nat) : Option (List Byte × Bool) :=
  (s.sec.rpages.find? fun x => x.page = ofs / 4096).map fun x => ((x.data.drop (ofs % 4096)).take n, x.poison)

/-- A sealed read of n bytes within a page: the first opens it in a read buffer, replacing the one opened longest ago. -/
def State.sealedRead (s : State) (ofs n : Nat) : State :=
  let k := ofs / 4096
  let a := s.winAddr (k * 4096)
  match s.pageBytes ofs n with
  | some d => if s.sec.owner.isNone then (s.sealFail a).emit .accessError else s.emit (.readData d.1 d.2)
  | none =>
    if s.sec.owner.isNone || (s.pageRecord k).isNone then (s.sealFail a).emit .accessError
    else
      match s.checkAddr .host false false a 4096 with
      | .error (r, o) => (s.winFreeze r o a).emit .accessError
      | .ok (o, o2) =>
        let ctr := s.sec.dctr + 1
        let x := s.objRead o o2 4096
        let d := gcmXor s.envKey (pageIv 2 ctr) (x.1.map Prod.fst)
        let tag := Config.gcmTag s.envKey (pageIv 2 ctr) (pageAad a ctr) d
        let s := x.2.wholeWrite s.wrec (32 * k) ((bytesOf 8 ctr ++ tag ++ [2] ++ List.replicate 7 0).map fun b => (b, false))
        let keep := if 16 ≤ s.sec.rpages.length then s.sec.rpages.drop 1 else s.sec.rpages
        let s := { s with sec := { s.sec with dctr := ctr, rpages := keep ++ [({ page := k, data := d, poison := x.1.any Prod.snd } : RPage)] } }
        (s.bump 0x600088 1).emit (.readData ((d.drop (ofs % 4096)).take n) (x.1.any Prod.snd))

/-- SEALED_PAGE_READ (R454). -/
def execSealedPageRead (ofs len : Nat) (s : State) : Out :=
  .next <|
    if !s.sealed_ || s.inWrec (s.winAddr ofs) len then s
    else if s.winShut ofs || 4096 < ofs % 4096 + len then s.emit .accessError
    else s.sealedRead ofs len

/-! ### The window -/

/-- HOST_WINDOW_READ (R388): in sealed mode, other than in the record object, a sealed page access. -/
def execHostWindowRead (ofs len : Nat) (s : State) : Out :=
  .next <|
    if s.winShut ofs then s.emit .accessError
    else if s.sealed_ && !s.inWrec (s.winAddr ofs) len then
      (if 4096 < ofs % 4096 + len then s.emit .accessError else s.sealedRead ofs len)
    else s.winRead (s.winAddr ofs) len

/-- HOST_WINDOW_WRITE (R388). -/
def execHostWindowWrite (ofs : Nat) (data : List Byte) (s : State) : Out :=
  .next <|
    if s.winShut ofs then s
    else if s.sealed_ && !s.inWrec (s.winAddr ofs) data.length then
      data.zipIdx.foldl (fun s x => if s.winShut (ofs + x.2) then s else s.sealedByte (ofs + x.2) x.1) s
    else s.winWrite (s.winAddr ofs) data

end Sys2Proof.Machine
end

