-- ==== Sys2Proof/Machine/Reset.lean ====
section
/-! DEFINITION. Resets: cold and warm with their boot, memory training, function level, core and group resets (R31, R304, R389, R443, R471 to R474,
R491). -/

namespace Sys2Proof.Machine

/-! ### The boot map (R31, R35, R485) -/

/-- Spares by fuse (log 4). -/
def fuseSpares (fused : List Nat) : List Nat := (List.range 512).filter fun p => p % 16 = 7 && !fused.contains p

/-- The cores in logical order with fenced ones replaced by spares, and the spares that are left (R31). -/
def bootList (fused : List Nat) (fenced : Nat → Bool) : List (Nat × Bool) × List Nat :=
  replaceDead fenced ((bootCores.filter fun p => !fused.contains p).map fun p => (p, false)) ((fuseSpares fused).filter fun p => !fenced p)

/-- Fenced cores keep their fence, and a cluster that was fenced whole has no L2. -/
def fencedCores (l : List FenceEnt) : Amap Core :=
  l.foldl (fun m f => aset m f.p ({ fence := { cause := f.cause, fenced := true } } : Core)) []
def fencedClusters (l : List FenceEnt) : Amap Cluster :=
  (l.filter fun f => f.cause = 7).foldl (fun m f => aset m (clusterOf f.p) ({ oos := true } : Cluster)) []

/-- Levels of the external inputs, which are sampled again. -/
def State.pinLevels (s : State) : Amap IrqSrc :=
  (List.range 14).map fun i => (16 + i, ({ raw := (s.irqSrc (16 + i)).raw } : IrqSrc))

/-- Channels in training; a fused DDR5 channel is out of service. -/
def trainingChans (grade : Nat) : Amap Channel :=
  (List.range 16).map fun c => (c, { state := if c < 8 || (bootUnits grade).contains (c - 8) then 0 else 3, cap := 0 })

/-! ### Boot (R443, R472, R479) -/

/-- A valid rollback staging record with the higher SEQ: its four targets. -/
def State.rollbackDue (s : State) : Option (List Nat) :=
  let b (k : Nat) : List Byte := Memory.bytes s.flash (0x3032000 + 0x1000 * k) 4096
  let good (d : List Byte) : Bool :=
    d.take 6 = [0x52, 0x42, 0x53, 0x54, 1, 0] && leAt d 4092 4 = (crc32c (d.take 4092)).toNat
  let targets (d : List Byte) : List Nat := (List.range 4).map fun i => leAt d (16 + i) 1
  match good (b 0), good (b 1) with
  | false, false => none
  | true, false => some (targets (b 0))
  | false, true => some (targets (b 1))
  | true, true => some (targets (if leAt (b 0) 8 8 < leAt (b 1) 8 8 then b 1 else b 0))

/-- The boot completes a burn that a staging record names, when R477 passes. -/
def State.rollbackBoot (s : State) : State :=
  if !s.huEnough || s.pwrfail || s.pw.pfWait then s
  else match s.rollbackDue with
    | none => s
    | some ts => { s with sec := { s.sec with svn := (s.sec.svn.zip ts).map fun (x : Nat × Nat) => max x.1 x.2 } }

/-- What every cold and warm reset leaves: all that is not kept at its reset value, the boot map, and the firmware's boot. The hold-up registers,
the counters of the power block, memories, fences and flash are those of `s`. -/
def State.boot (s : State) (last : Nat) : State :=
  let bl := bootList s.fused s.isFenced
  let b : State := {
    slice := s.slice, tier := s.tier, slicePz := s.slicePz, tierPz := s.tierPz, t3Key := s.t3Key
    flash := s.flash, flashQ := s.flashQ, flashBusy := s.flashBusy, huMv := s.huMv, pwrfail := s.pwrfail
    grade := s.grade, fused := s.fused, fences := s.fences, fl := s.fl
    lmap := denseMap bl.1 0, ncores := bl.1.length, spares := bl.2
    lport := bootMap (bootPorts s.grade), lchan := bootMap (bootUnits s.grade), lcodec := bootMap (bootUnits s.grade)
    cores := fencedCores s.fences, clusters := fencedClusters s.fences
    obj := { chans := trainingChans s.grade }
    irq := s.pinLevels
    regs := s.regs.filter fun x => x.1 = 0x500060 || x.1 = 0x500064
    cnt := s.cnt.filter fun x => 0x500080 ≤ x.1 && x.1 ≤ 0x500098
    pw := { pfWait := s.pw.pfWait }
    rstLast := last, linkUp := false
    sec := { debug := s.sec.debug, svn := s.sec.svn, keyrev := s.sec.keyrev, slots := s.sec.slots }
    fresh := s.fresh, out := s.out, pending := s.pending }
  let b := b.rollbackBoot
  State.emit { b with sec := b.sec.boot } (.bus 0 0 (avsVolt 0))

/-- Cold reset (R471, R472): everything but the flash; fuses are read again, the T3 key is renewed, the fence list is loaded from flash. A
sector operation in progress is cut off (log 120). -/
def State.coldReset (s : State) : State :=
  let s := s.flashAbandon
  let best := s.fenceBest
  let l := match best with
    | some (k, _) => (s.fencesOf k).map fun x => ({ p := x.1, cause := x.2, persist := true } : FenceEnt)
    | none => []
  let s := if s.pw.tripped then s.emit (.pin pinTrip false) else s
  State.boot { s with
    slice := [], tier := [], slicePz := [], tierPz := [], t3Key := s.t3Key + 1
    flashQ := [], flashBusy := false, huMv := 0
    fences := l, fl := { seq := best.elim 0 Prod.snd, lost := best.isNone }
    regs := [], cnt := []
    sec := { s.sec with debug := false } } 0

/-- Warm reset (R453, R471): every block except the always-on domain, whose flash controller goes on with what is due (R38). In sealed mode the scrub comes before the boot goes on. `last`: RST_STAT.LAST. -/
def State.warmReset (s : State) (last : Nat) : State :=
  let b := State.boot { s with sec := { s.sec with debug := s.sec.debug || s.sec.debugNext } } last
  if s.sealed_ then { b with sealed_ := true, sec := { b.sec with scrub := some 1 } } else b

/-! ### The rows -/

/-- SYS_PWROK (R471, R472): a cold reset as it rises and while it is low; without it the device does nothing. -/
def execSysPwrok (high : Bool) (s : State) : Out := .next { s.coldReset with powered := high }

/-- MEMORY_TRAINING_DONE (R304, R309, R472): channels enter service, and the stripe sets are built: set 1 over all C channels, with the smallest
capacity of those that have trained. -/
def execMemoryTrainingDone (ddrCap : List Nat) (s : State) : Out :=
  .next <|
    if !s.powered then s
    else
      let train (x : Nat × Channel) : Nat × Channel :=
        if x.2.state ≠ 0 then x
        else if x.1 < 8 then (x.1, { state := 1, cap := 48 })
        else
          let cap := ddrCap.getD (x.1 - 8) 0
          (x.1, { state := if cap = 0 then 3 else 1, cap := cap })
      let s := { s with obj := { s.obj with chans := s.obj.chans.map train } }
      let up := s.lchan.filter fun x => (s.chan (8 + x.2.phys)).state = 1
      let caps := up.map fun x => (s.chan (8 + x.2.phys)).cap
      let small := match caps with
        | [] => 0
        | c :: t => t.foldl min c
      let mask := s.lchan.foldl (fun m x => m ||| 2 ^ x.1) 0
      let set0 : StripeSet := { valid := true, tier := 0, gran := 1, chmask := 0xFF, start := 0, len := 384, chofs := 0 }
      let set1 : StripeSet := { valid := !up.isEmpty, tier := 1, gran := 1, chmask := mask, start := 0, len := s.lchan.length * small, chofs := 0 }
      { s with obj := { s.obj with stripes := [(0, set0), (1, set1)] } }

/-- SYS_RST_N (R471). -/
def execSysRstN (s : State) : Out := .next (if s.powered then s.warmReset 1 else s)

/-- RST_CTRL.WARM. -/
def execWarmReset (s : State) : Out := .next (if s.powered then s.warmReset 2 else s)

/-- GROUP_RESET_MESSAGE (R474). -/
def State.takeReset (s : State) (src : Nat) : State := if s.powered && src = s.anchor then s.warmReset 3 else s
def execGroupResetMessage (src : Nat) (s : State) : Out := .next (s.takeReset src)

/-- RST_GMASK. -/
def State.gmask (s : State) : Nat := (aget 0 s.regs 0x500074).toNat + (aget 0 s.regs 0x500078).toNat * 2 ^ 32

/-- GROUP_RESET (R474): the anchor sends the message to the members named, and resets itself last. -/
def State.groupReset (s : State) : State :=
  let ms := maskList 64 s.gmask
  if !s.isAnchor || !(ms.all fun d => s.roster.contains d) then { s with rstStat := s.rstStat ||| 0x10 }
  else
    let s := (ms.filter fun d => d ≠ s.devId).foldl (fun s d => s.sendCtl d .reset) s
    if ms.contains s.devId then s.warmReset 3 else s
def execGroupReset (s : State) : Out := .next (if s.powered then s.groupReset else s)

/-! ### Function level reset (R389) -/

/-- SPDM sessions over DOE are on transport 0. -/
def trDoe : Nat := 0

/-- A function level reset; `perst`: PERST_N, which also resets the link. -/
def State.flr (s : State) (perst : Bool) : State :=
  let host (r : Option Nat) : Option Nat := r.filter fun r => 32 ≤ r
  let s := { s with
    rings := s.rings.filter fun x => 32 ≤ x.1
    regs := s.regs.filter fun x => x.1 < 0x200000 || 0x200FFF < x.1
    bar2 := [], msixMask := List.range 64, msixPba := []
    irq := s.irq.map fun (x : Nat × IrqSrc) => (x.1, { x.2 with hpend := false })
    obj := { s.obj with migs := s.obj.migs.map fun (m : Migration) => { m with ring := host m.ring } }
    flip := s.flip.map fun (f : Flip) => { f with ring := host f.ring }
    twopc := s.twopc.map fun (t : TwoPc) => { t with ring := 31 }
    sec := { s.sec with ide := [], updating := s.sec.updating.map fun (x : Nat × Option Nat) => (x.1, x.2.filter fun r => 32 ≤ r) }
    linkUp := s.linkUp && !perst }
  let s := (s.winRelease.level 681 false).cqLevel
  let s := (s.sec.sess.filter fun x => x.2.tr = trDoe).foldl (fun s x => s.endSession x.1) s
  if s.cfg.st = 1 && s.twopc.isNone then s.closeSession.cfgCause 4 else s

/-- FLR. -/
def execFlr (perst : Bool) (s : State) : Out := .next (if s.powered then s.flr perst else s)

/-! ### Core reset (R473) -/

/-- CORE_RESET: the reset waits for a commit; a number without a working core is an error. One reset is in progress at a time. -/
def State.coreReset (s : State) (l : Nat) : State :=
  if s.coreRst.isSome then s
  else
    match s.phys l with
    | none => { s with rstStat := s.rstStat ||| 8 }
    | some p => State.rstBegin { s with coreRst := some { l := l, p := p, begun := false } }
def execCoreReset (c : Nat) (s : State) : Out := .next (if s.powered then s.coreReset c else s)

/-- CORE_RESET_DONE: pins and handles are released, every register is at its Reset column except FENCE_REC, the core is STOPPED; a frame run with
the core fails, a saved state is discarded. -/
def State.endCoreReset (s : State) (r : CoreRst) : State :=
  let runs := (List.range 4).filter fun n => let f := s.frames.getD n {}; f.run && f.cores.contains r.l
  let s := runs.foldl (fun s n => s.frameFail n) s
  let s := s.releasePins r.p
  let s := s.modCore r.p fun c => ({ fence := c.fence } : Core)
  State.irqCore { s with coreRst := none } r.p

def execCoreResetDone (s : State) : Out :=
  .next <|
    match s.coreRst with
    | none => s
    | some r => if !s.powered then s else if s.isFenced r.p then { s with coreRst := none } else if r.begun then s.endCoreReset r else s

end Sys2Proof.Machine
end

