-- ==== Sys2Proof/Machine/Group.lean ====
section
/-! DEFINITION. Flips and group commits as commands, control packets and loss notices (R326, R345, R416 to R418). -/

namespace Sys2Proof.Machine

/-! ### Flips (R416, R417) -/

/-- What a packet that was held does when its port's island has flipped. -/
def heldPacket (i : Instr) (s : State) : Out :=
  match i with
  | .voilePacket p h t tag d => execVoilePacket p h t tag d s
  | .writePacket p h t d => execWritePacket p h t d s
  | .hdelivPacket p h t d => execHdelivPacket p h t d s
  | .readPacket p h t n => execReadPacket p h t n s
  | .rdrspPacket p h t d => execRdrspPacket p h t d s
  | .ackPacket p h t => execAckPacket p h t s
  | .collPacket p h t ch bs d => execCollPacket p h t ch bs d s
  | _ => .next s

/-- The port by which a held packet came. -/
def heldPort (i : Instr) : Nat :=
  match i with
  | .voilePacket p _ _ _ _ => p
  | .writePacket p _ _ _ => p
  | .hdelivPacket p _ _ _ => p
  | .readPacket p _ _ _ => p
  | .rdrspPacket p _ _ _ => p
  | .ackPacket p _ _ => p
  | .collPacket p _ _ _ _ _ => p
  | _ => 0

/-- The state that an outcome goes on in. -/
def afterOut (s : State) (o : Out) : State := match o with
  | .next t => t
  | _ => s

/-- Packets held at a port's island take effect, in their order (R416 step 3). -/
def State.runLinkHeld (s : State) (isl : Nat) : State :=
  let mine := s.linkHeld.filter fun i => s.portIsland (heldPort i) = isl
  let s1 := { s with linkHeld := s.linkHeld.filter fun i => s.portIsland (heldPort i) ≠ isl }
  mine.foldl (fun s i => afterOut s (heldPacket i s)) s1

/-- ISLAND_FLIP (R416, R417): the island uses the new settings from here on, and what was held for it goes on. -/
def execIslandFlip (isl : Nat) (s : State) : Out :=
  .next <|
    let t := s.flipIsland isl
    if s.flip.isSome && 600 ≤ isl && isl < 624 then t.runLinkHeld isl else t

/-- Every member has flipped: the group commit completes (R418). -/
def State.takeFlip (s : State) (dev : Nat) : State :=
  match s.twopc with
  | none => s
  | some t =>
    if !t.decided || !t.members.contains dev then s
    else
      let fl := sins t.flips dev
      if t.members.all fl.contains then State.ringEnd { s with twopc := none } t.ring {}
      else { s with twopc := some { t with flips := fl } }

/-- FLIP_COMPLETE (R416): every island has flipped; the commit completes, or its member reports to the anchor. -/
def execFlipComplete (s : State) : Out :=
  .next <|
    match s.flip with
    | none => s
    | some f =>
      if !f.all || s.oldWork then s
      else
        let s := s.endFlip f
        match f.ring, f.tell with
        | some r, _ => s.ringEnd r {}
        | none, some d => if d = s.devId then s.takeFlip d else s.sendCtl d .flipDone
        | none, none => s

/-- FLIP_TIMEOUT (R416). -/
def execFlipTimeout (s : State) : Out := .next (if s.flip.isSome then s.cfgCause 2 else s)

/-! ### The group commit at a member and at its anchor (R418) -/

/-- PREPARE_RECEIVE: the member runs CHECK, locks its session and votes. -/
def State.takePrepare (s : State) (src epoch : Nat) : State :=
  let x := s.prepare src epoch
  x.1.sendCtl src (.vote x.2.isNone (x.2.getD 0) x.1.stagedView.voteRoutes x.1.stagedView.voteFeat)
def execPrepareReceive (src epoch : Nat) (s : State) : Out := .next (if s.powered then s.takePrepare src epoch else s)

/-- VOTE_RECEIVE. -/
def execVoteReceive (dev : Nat) (ok : Bool) (detail : Nat) (s : State) (routes : List (Nat × List Nat) := []) (feat : W32 := 0) : Out :=
  .next (s.takeVote dev ok detail routes feat)

/-- GROUP_COMMIT_RECEIVE: the member flips to the target epoch, whatever its own was. -/
def State.takeCommit (s : State) (src epoch : Nat) (feat : W32) : State :=
  if s.cfg.st = 2 && s.flip.isNone then s.beginFlip epoch none (some src) feat else s
def execGroupCommitReceive (src epoch : Nat) (s : State) (feat : W32 := 0) : Out := .next (s.takeCommit src epoch feat)

/-- GROUP_ABORT_RECEIVE: the session closes with no change. -/
def State.takeAbort (s : State) : State := if s.cfg.st = 0 || s.flip.isSome then s else s.closeSession.cfgCause 4
def execGroupAbortReceive (_ : Nat) (s : State) : Out := .next s.takeAbort

/-- TWO_PHASE_TIMEOUT (R418, R345): a missing vote aborts the commit; members that have not reported their flip are lost. -/
def execTwoPhaseTimeout (s : State) : Out :=
  .next <|
    match s.twopc with
    | none => s
    | some t =>
      if !t.decided then (s.cfgCause 3).groupAbort t (voteCompl t.votes)
      else
        let late := t.members.filter fun d => !t.flips.contains d && d ≠ s.devId
        match late with
        | [] => s
        | d :: _ =>
          let s := late.foldl (fun s d => s.markLost d) (s.cfgCause 3)
          State.ringEnd { s with twopc := none } t.ring { status := stMemberLost, failCnt := late.length, failDev := d }

/-! ### Loss (R345, R400) -/

/-- A member is lost: relayed commands that wait for it fail there. -/
def State.takeLoss (s : State) (dev : Nat) : State :=
  if !s.isAnchor then s
  else (s.rings.filter fun x => x.2.relay.isSome).foldl (fun s x => s.relayNote x.1 dev stMemberLost 0) (s.markLost dev)

/-- LOSS_NOTICE_RECEIVE. -/
def execLossNoticeReceive (dev : Nat) (s : State) : Out := .next (s.takeLoss dev)

/-! ### Control packets (R326) -/

/-- The last group that a peer accepted on a failed link (R335): later packets go another way. -/
def State.takeLastGseq (s : State) (p gseq : Nat) : State :=
  if (s.port p).state = .failed then afterOut s (execPortFailed p (some gseq) s) else s

/-- What a control message does at its destination. -/
def State.ctlAct (s : State) (src : Nat) (m : CtlMsg) : State :=
  match m with
  | .relayed ring cmd payload => s.takeRelayed src ring cmd payload
  | .relayResult ring st sub => s.relayNote ring src st sub
  | .lossNotice => s.takeLoss src
  | .gapNotice g mseq => if 16 ≤ g then s else s.gapNotice g mseq
  | .resend g mseq => afterOut s (execResendRequest g src mseq s)
  | .gone g mseq =>
    let w := (aget 0 s.regs 0x300030).toNat
    if bitsOf w 21 2 = 1 && bitsOf w 0 4 = g && bitsOf w 4 16 = mseq then s.resendStatus 3 else s
  | .rejoin g => if 16 ≤ g || 64 ≤ src then s else s.mcRejoin g src
  | .prepare epoch => s.takePrepare src epoch
  | .vote ok detail routes feat => s.takeVote src ok detail routes feat
  | .groupCommit epoch feat => s.takeCommit src epoch feat
  | .groupAbort => s.takeAbort
  | .flipDone => s.takeFlip src
  | .reset => s.takeReset src
  | .linksFailed dev => if s.isAnchor && dev < 64 then s.noteCut src dev else s
  | .askGseq p => s.sendCtlBut p src (.lastGseq (s.port p).peerPort (s.port p).rxSeq)
  | .lastGseq p gseq => s.takeLastGseq p gseq

/-- CTL_PACKET (R326): it goes on along its route, to its destination, or acts here. -/
def execCtlPacket (port : Nat) (h : PktHdr) (tagOk : Bool) (m : CtlMsg) (s : State) : Out :=
  .next <| s.rx port 0 h tagOk (.ctl m) (.ctlPacket port h tagOk m) fun s => s.ctlAct h.srcDev m

end Sys2Proof.Machine
end

