-- ==== Sys2Proof/Machine/Irq.lean ====
section
/-! DEFINITION. The commands of the interrupt controller (R403 to R408). -/

namespace Sys2Proof.Machine

/-- EXTERNAL_INPUT (R403, R489): a filtered input changes its sampled level: FRAME_IN, GPIO, PWRFAIL_N, THERM_ALERT. -/
def execExternalInput (pin : Nat) (level : Bool) (s : State) : Out := .next (if 14 ≤ pin then s else s.level (16 + pin) level)

/-- IRQ_SOURCE_EVENT (R404, R405, R406, R408): the cause of a source asserts or deasserts it. -/
def execIrqSourceEvent (src : Nat) (level : Bool) (s : State) : Out := .next (if src = 0 || 1024 ≤ src then s else s.level src level)

/-- A CP claims the source that it is offered (R405): the source is in service on it at its priority, and an edge source's PEND clears. Answers the
number, 0 when there is none. -/
def State.claim (s : State) (cp : Nat) : State × Nat :=
  match (afind s.deliv cp).filter fun b => (s.irqSrc b).pend && (s.irqSrc b).serv.isNone && !(s.irqSrc b).masked with
  | none => (s, 0)
  | some b =>
    let x := s.irqSrc b
    let cfg := s.irqCfg b
    let s := s.setIrq b { x with serv := some (cp, bitsOf cfg 3 3), pend := if bitsOf cfg 0 3 ≤ 1 then x.pend else false }
    (State.irqDeliver { s with deliv := adel s.deliv cp }, b)

/-- CLAIM (R405): the CP reads the source that it is offered. -/
def execClaim (cp : Nat) (s : State) : Out :=
  .next <| if 4 ≤ cp then s else let x := s.claim cp; x.1.emit (.readValue (BitVec.ofNat 64 x.2))

/-- A level source is evaluated again at an EOI (R407): pending again and counted while asserted, else the count clears; beyond STUCK_MAX it
is masked. `host`: the EOI is the host's, which sets HPEND (R408). -/
def State.reeval (s : State) (src : Nat) (host : Bool) : State :=
  let x := s.irqSrc src
  let cfg := s.irqCfg src
  let mx := bitsOf (s.irqLim src) 12 4
  match levelAsserted (bitsOf cfg 0 3) x.raw with
  | none => s
  | some false => s.setIrq src { x with scount := 0, pend := if x.serv.isSome then x.pend else false }
  | some true =>
    if !bitAt cfg 17 || x.masked then s
    else
      let n := min 255 (x.scount + 1)
      if mx ≠ 0 && mx < n then s.setIrq src { x with scount := n, stuck := true, pend := false, hpend := false }
      else
        let s := s.setIrq src { x with scount := n, pend := if host then x.pend else true, hpend := x.hpend || (host && bitAt cfg 10) }
        if host && bitAt cfg 10 then s.msix (bitsOf cfg 11 6) else s

/-- EOI (R405, R407): the end of service on the CP; any other value is counted in IRQ_BADEOI. -/
def execEoi (cp src : Nat) (s : State) : Out :=
  .next <|
    if 4 ≤ cp then s
    else
      let x := s.irqSrc src
      if (x.serv.map Prod.fst) ≠ some cp then s.bump 0x100024 1
      else ((s.setIrq src { x with serv := none }).reeval src false).irqDeliver

/-- IRQ_HEOI (R408): the host clears HPEND, and a level source is evaluated again. -/
def execIrqHeoi (src : Nat) (s : State) : Out :=
  .next <| if src = 0 || 1024 ≤ src then s else ((s.setIrq src { s.irqSrc src with hpend := false }).reeval src true).irqDeliver

/-- IRQ_STORM_WINDOW (R406): a window ends; its counts start again. -/
def execIrqStormWindow (s : State) : Out := .next { s with irq := s.irq.map fun (x : Nat × IrqSrc) => (x.1, { x.2 with win := 0 }) }

/-- A level source that is asserted becomes pending (R404, R407). -/
def State.irqAssert (s : State) (src : Nat) : State :=
  let x := s.irqSrc src
  let cfg := s.irqCfg src
  if bitAt cfg 17 && !x.masked && levelAsserted (bitsOf cfg 0 3) x.raw = some true then s.irqPend src else s

/-- IRQ_STAT_CLEAR (R407): ones written to STORM and STUCK clear them and reset both counts; with both clear the source is unmasked. -/
def execIrqStatClear (src : Nat) (storm stuck : Bool) (s : State) : Out :=
  .next <|
    if src = 0 || 1024 ≤ src || !(storm || stuck) then s
    else
      let x := s.irqSrc src
      let y := { x with storm := x.storm && !storm, stuck := x.stuck && !stuck, win := 0, scount := 0 }
      let s1 := s.setIrq src y
      if x.masked && !y.masked then s1.irqAssert src else s1

end Sys2Proof.Machine
end

