-- ==== Sys2Proof/Machine/Issue.lean ====
section
/-! DEFINITION. Issue and completion (05): how a word at the head of a control queue starts, and what its completion does. -/

namespace Sys2Proof.Machine

/-- The place of the first word of a queue that has not started. -/
def Core.nextAt (c : Core) (q : Nat) : Option (Nat × Cqe) :=
  ((c.words q).zipIdx.find? fun x => !x.1.started).map fun x => (x.2, x.1)

/-- A word's wait for a barrier or, in token mode, for the word TOK_M back (R148, R149, R156): it may start with the barrier's TARGET
advanced, it waits, or it halts the core. -/
def Core.wordWait (c : Core) (q : Nat) (e : Cqe) : Wait :=
  if c.seq.mode then (if c.tokDone e.seqno (wTokM e.word) then .ready c else .wait cTokWait)
  else if !wWaitEn e.word then .ready c
  else
    let b := wWaitBar e.word
    let x := c.bar b
    if x.adv ≠ 0 && x.owner ≠ unitOf q then .halt 0x07 (b + unitOf q * 4096)
    else if !x.ok then .wait cBarWait
    else .ready (c.setBar b { x with target := (x.target + x.adv) % 65536 })

/-- The queues whose head entry a word checks in token mode, with the distance and the information's input (R155, R156). -/
def tokInputs (w : CWord) : List (Nat × Nat × Nat) :=
  (if wTokA w ≠ 0 then [(wIna w, wTokA w, 0)] else []) ++ (if wTokB w ≠ 0 then [(wInb w, wTokB w, 1)] else [])

/-- What the checked heads of a word are in token mode: an entry is absent, or a token differs, with the halt information (R156, R171). -/
inductive TokHeads where
  | absent
  | bad (info : Nat)
  | ok
  deriving DecidableEq, Repr

def Core.tokHeads (c : Core) (e : Cqe) : TokHeads :=
  let l := tokInputs e.word
  if !c.seq.mode then .ok
  else if l.any fun x => (c.dataQ x.1).ents.isEmpty then .absent
  else
    let bad := l.filterMap fun x => match (c.dataQ x.1).ents with
      | y :: _ => if y.tok = (e.seqno + 65536 - x.2.1) % 65536 then none else some (y.tok + x.1 * 2 ^ 16 + x.2.2 * 2 ^ 20)
      | [] => none
    match bad with
    | i :: _ => .bad i
    | [] => .ok

/-- What the unit of a queue says of the start of a word: its roles, its state and its operands. -/
def State.unitStart (s : State) (p q : Nat) (e : Cqe) : Start :=
  match q with
  | 1 => s.startStream p e
  | 2 => s.startLoad p e
  | 3 => s.startEng p 0 e
  | 4 => s.startEng p 1 e
  | 5 => s.startDrain p 5 e
  | 6 => s.startVec p e
  | 7 => s.startWrite p e
  | 8 => if (s.core p).pre.contCommit then .wait s else s.startUpd p e
  | 9 => s.startExch p e
  | 10 => if isFence e.word then .wait s else s.startDrain p 10 e
  | _ => .wait s

/-- The first word of a queue that has not started starts when its wait is met and its unit can take it; the barrier's TARGET advances with the
start (R141, R148, R149, R156). -/
def State.wordStart (s : State) (p q : Nat) : State :=
    let k := s.core p
    if !k.active || !k.preOk then s
    else
      match k.nextAt q with
      | none => s
      | some (i, e) =>
        match k.wordWait q e with
        | .wait ctr => s.bumpCore p ctr 1
        | .halt r info => s.haltWord p q e r info
        | .ready k' =>
          match k.tokHeads e with
          | .absent => s.bumpCore p cTokWait 1
          | t =>
            match s.unitStart p q e with
            | .wait s => s
            | .stop s => s
            | .go s' e' =>
              match t with
              | .bad info => s.haltWord p q e 0x08 info
              | _ => s'.modCore p fun c => ({ c with seq := { c.seq with bars := k'.seq.bars } } : Core).setWord q i { e' with started := true }

/-- WORD_START (R141, R148, R149, R156, R170). -/
def execWordStart (c q : Nat) (s : State) : Out :=
  .next <| s.onCore c fun s p k => if k.seq.state = .halted then s.sameCycle p (unitOf q) fun s => s.wordStart p q else s.wordStart p q

/-! ### Completion -/

/-- Set or clear a flag. -/
def Core.setFlag (c : Core) (n : Nat) (b : Bool) : Core :=
  c.modSeq fun q => { q with flags := if b then q.flags ||| BitVec.ofNat 32 (2 ^ n) else q.flags &&& ~~~(BitVec.ofNat 32 (2 ^ n)) }

/-- The flags that a word's completion sets (R163). -/
def Core.completeFlags (c : Core) (e : Cqe) : Core :=
  match wUnit e.word, wOp e.word with
  | 6, 2 => c.setFlag 2 (bitsOf (e.vals.getD 0 0) 0 31 = 0)
  | 6, 3 => c.setFlag 1 (e.vals.getD 0 0 = 1)
  | 5, _ => (c.setFlag 3 (c.count 0x2258 ≠ 0)).setFlag 4 (c.count 0x225C ≠ 0)
  | 9, 7 =>
    let c := c.setFlag 7 (e.vals.getD 2 0 = 2)
    -- an AG reduces nothing and leaves COLL_OVF
    if e.vals.getD 3 0 = 1 then c else c.setFlag 8 (e.vals.getD 2 0 = 4)
  | _, _ => c

/-- The words of a queue without its head, when that is word n. -/
def Core.popWord (c : Core) (q n : Nat) : Core :=
  match c.words q with
  | [] => c
  | e :: t => if e.seqno = n then c.setWords q t else c

/-- The completion of a word's unit: handles and records it returns. -/
def State.unitComplete (s : State) (p q : Nat) (e : Cqe) : State :=
  match q with
  | 1 => s.streamComplete p e
  | 2 => s.loadComplete p e
  | 7 => s.writeComplete p e
  | _ => s

/-- WORD_COMPLETE (R141, R150, R163): the head word of a queue, all its effects made, leaves it, sets its flags and signals its barrier; a
fence word leaves both lanes of the drain. -/
def execWordComplete (c q : Nat) (s : State) : Out :=
  .next <| s.onCore c fun s p k =>
    if !k.working then s
    else
      match k.words q with
      | [] => s
      | e :: _ =>
        if !e.fin then s
        else
          let qs := if isFence e.word then [5, 10] else [q]
          let s := s.modCore p fun c => (qs.foldl (fun c q => c.popWord q e.seqno) c).modSeq fun x => { x with live := x.live.erase e.seqno }
          let s := (s.unitComplete p q e).modCore p fun c => c.completeFlags e
          (s.wordSignal p e.word (e.haltRec (unitOf q) 0 0)).modCore p Core.settleStop

end Sys2Proof.Machine
end

