-- ==== Sys2Proof/Machine/Readback.lean ====
section
/-! DEFINITION. What a read of BAR0 returns (R6, R7, R108, R390 to R392, R422, and the register tables of the chapters). -/

namespace Sys2Proof.Machine

/-! ### Registers that hold what is written (R6) -/

/-- A register's RW bits, its W1C bits, its reset value. -/
structure RegDef where
  rw : Nat
  w1c : Nat := 0
  d : Nat := 0
  deriving DecidableEq, Repr

def full : Nat := 0xFFFFFFFF

/-- Registers of the chip identification block, the step monitor and the configuration engine. -/
def regLow (off : Nat) : Option RegDef :=
  match off with
  | 0x40 | 0x44 => some { rw := full }
  | 0x8010 => some { rw := 0xF, d := 1 }
  | 0x8014 => some { rw := full, d := 0x3C23D70A }
  | 0x8018 => some { rw := full, d := 0x40000000 }
  | 0x801C => some { rw := full, d := 0x10 }
  | 0x8020 => some { rw := full, d := 0x400 }
  | 0x8024 => some { rw := full }
  | 0x8038 => some { rw := 0, w1c := 0xFF }
  | 0x803C => some { rw := 0xFF, d := 0xFE }
  | 0xC010 => some { rw := 1 }
  | 0xC020 => some { rw := 0xFFFF, d := 0x40 }
  | 0xC024 => some { rw := 0xFFFF, d := 0x800 }
  | 0xC028 => some { rw := 0xFFFF, d := 0x2000 }
  | 0xC030 => some { rw := 0, w1c := 0x1F }
  | 0xC034 => some { rw := 0x1F, d := 0x1E }
  | 0xC050 => some { rw := 0xE }
  | 0xC054 => some { rw := full }
  | 0xC150 => some { rw := 0, w1c := 0xFFFF }
  | 0xC154 => some { rw := 0xFFFF, d := 0xFFFF }
  | _ => none

/-- Registers of the interrupt controller. -/
def regIrq (o : Nat) : Option RegDef :=
  if o = 0x10 then some { rw := 0xFFFF, d := 0x400 }
  else if o = 0x14 then some { rw := 0xFF, d := 5 }
  else if 0x100 ≤ o && o < 0x200 then
    match o % 0x40 with
    | 0 => some { rw := 0xFFFF8000 }
    | 4 => some { rw := full }
    | 8 => some { rw := 7 }
    | _ => none
  else if 0x1004 ≤ o && o < 0x2000 then some { rw := 0x2003F, d := senseReset ((o - 0x1000) / 4) }
  else if 0x2004 ≤ o && o < 0x3000 then some { rw := 0xFFFF, d := 0x8100 }
  else none

/-- Registers of the host rings and the window. -/
def regHost (o : Nat) : Option RegDef :=
  if 0x100 ≤ o && o < 0x100 + 0x20 * 17 then
    match o % 0x20 with
    | 0 => some { rw := 0xFFFF, d := 0x88 }
    | 4 => some { rw := full }
    | 8 => some { rw := full }
    | _ => none
  else if o = 0x400 then some { rw := 0, w1c := 0x1FFFE }
  else if 0x500 ≤ o && o < 0x580 then (if o % 8 = 0 then some { rw := 0xFFF00001 } else some { rw := 0xFFFFF })
  else none

/-- Registers of the Hextis group and of a port. -/
def regHx (o : Nat) : Option RegDef :=
  if o = 0x28 || o = 0x2C then some { rw := 0, w1c := full }
  else if o = 0x30 then some { rw := 0xFFFFF }
  else if 0x200 ≤ o && o < 0x400 then
    match o % 0x20 with
    | 8 => some { rw := 0, w1c := full }
    | 12 => some { rw := 0, w1c := full }
    | 16 => some { rw := 0x1FFFE000, d := 0x800000 }
    | _ => none
  else none
def regPort (o : Nat) : Option RegDef :=
  match o with
  | 0x10 => some { rw := 0xFFFFFFED, d := 0x10002061 }
  | 0x1C => some { rw := 0, w1c := 0x1F }
  | 0x20 => some { rw := 0x1F, d := 0x1F }
  | _ => none

/-- Registers of the collective engine. -/
def regCol (o : Nat) : Option RegDef :=
  if o = 0x10 then some { rw := 1, d := 1 }
  else if o = 0x18 then some { rw := 0, w1c := 0xFF }
  else if o = 0x1C then some { rw := 0xFF, d := 0xFE }
  else if 0x4000 ≤ o && o < 0x8000 then some { rw := full }
  else none

/-- Registers of the memory block, of a channel and of a codec engine. -/
def regMem (o : Nat) : Option RegDef :=
  match o with
  | 0x10 => some { rw := 0x1FFFF }
  | 0x200 => some { rw := 0xFFFF }
  | 0x210 => some { rw := 0x3F, d := 8 }
  | _ => none
def regChan (ddr : Bool) (o : Nat) : Option RegDef :=
  match o with
  | 0x10 => some { rw := full, d := 0x01000801 }
  | 0x18 => some { rw := 0, w1c := if ddr then 0xF else 7 }
  | 0x1C => some { rw := 0xF, d := 0xF }
  | _ => none
def regCodec (o : Nat) : Option RegDef := if o = 0x18 then some { rw := 0, w1c := 3 } else none

/-- Registers of the power block and the security mailbox. -/
def regPwr (o : Nat) : Option RegDef :=
  match o with
  | 0x18 => some { rw := 1, d := 1 }
  | 0x20 => some { rw := 0, w1c := 0x3F }
  | 0x24 => some { rw := 0x3F, d := 0x3F }
  | 0x50 => some { rw := 0xFFF, d := 0x564 }
  | 0x60 => some { rw := full, d := 0x75300000 }
  | 0x64 => some { rw := 0xFFFF, d := 0x1194 }
  | 0x70 => some { rw := 0x1FF8 }
  | 0x74 | 0x78 => some { rw := full }
  | 0x200 => some { rw := 0xFFFF }
  | _ => none
def regSec (o : Nat) : Option RegDef :=
  match o with
  | 0x30 => some { rw := 0xFF }
  | 0x34 | 0x38 | 0x3C | 0x40 => some { rw := full }
  | 0x50 => some { rw := 0xFFFF }
  | _ => none

/-- The register at an offset of BAR0 below the core blocks. -/
def regDef (off : Nat) : Option RegDef :=
  if off < 0x100000 then regLow off
  else if off < 0x200000 then regIrq (off - 0x100000)
  else if off < 0x300000 then regHost (off - 0x200000)
  else if off < 0x310000 then regHx (off - 0x300000)
  else if off < 0x328000 then regPort (off % 0x1000)
  else if 0x340000 ≤ off && off < 0x350000 then regCol (off - 0x340000)
  else if 0x400000 ≤ off && off < 0x410000 then regMem (off - 0x400000)
  else if 0x410000 ≤ off && off < 0x418000 then regChan false (off % 0x1000)
  else if 0x420000 ≤ off && off < 0x428000 then regChan true (off % 0x1000)
  else if 0x430000 ≤ off && off < 0x438000 then regCodec (off % 0x1000)
  else if 0x500000 ≤ off && off < 0x600000 then regPwr (off - 0x500000)
  else if 0x600000 ≤ off && off < 0x700000 then regSec (off - 0x600000)
  else none

/-- The logical unit of an offset is absent (R7): ports, DDR5 channels, codec engines. -/
def State.absentUnit (s : State) (off : Nat) : Bool :=
  let n := off % 0x10000 / 0x1000
  if 0x310000 ≤ off && off < 0x340000 then s.lport.length ≤ (off - 0x310000) / 0x1000
  else if 0x410000 ≤ off && off < 0x420000 then 8 ≤ n
  else if 0x420000 ≤ off && off < 0x430000 then s.lchan.length ≤ n
  else if 0x430000 ≤ off && off < 0x440000 then s.lcodec.length ≤ n
  else false

/-- CFG_CTRL.VIEW shows the staged copy of an open session. -/
def State.viewStaged (s : State) : Bool := bitAt (aget 0 s.regs 0xC010).toNat 0 && s.cfg.st ≠ 0

/-- The value that a register holds; with VIEW, its staged bits are those of the staged copy. -/
def State.plainReg (s : State) (off : Nat) : Nat :=
  let d := match regDef off with
    | some r => r.d
    | none => (stagedReg off).elim 0 Prod.snd
  let v := (aget (BitVec.ofNat 32 d) s.regs off).toNat
  let rw := (regDef off).elim 0 fun r => r.rw ||| r.w1c
  let st := (stagedReg off).elim 0 Prod.fst
  let stv := if s.viewStaged then (match afind s.staged off with
    | some x => x.toNat
    | none => v) else v
  (v &&& (rw &&& (full - st))) ||| (stv &&& st)

/-! ### Read-only values of the device -/

/-- BLK_ID: the type, major version 2, minor version 0. -/
def blkId (typ : Nat) : Nat := typ + 2 * 2 ^ 16

/-- An entry of a logical map. -/
def MapEnt.word (e : MapEnt) (n : Nat) : Nat := e.phys % 2 ^ n + b2n e.valid * 2 ^ 9 + b2n e.remapped * 2 ^ 10 + e.epoch % 16 * 2 ^ 16
def mapWord (m : Amap MapEnt) (n i : Nat) : Nat := (afind m i).elim 0 fun e => e.word n

/-- PCORE_STATE. -/
def State.pcoreState (s : State) (p : Nat) : Nat :=
  let persist := s.fences.any fun f => f.p = p && f.persist
  let st := if s.fused.contains p then 0 else if s.isFenced p then 3 else if (s.logical p).isSome then 1 else 2
  st + (if st = 1 then (s.logical p).getD 0 else 0) * 4 + b2n persist * 2 ^ 11

def State.readChip (s : State) (o : Nat) : Nat :=
  if o = 0 then blkId 0x0001
  else if o = 4 then 0x0200 + stepping
  else if o = 0x10 then
    s.ncores % 1024 + s.spares.length * 2 ^ 10 + s.lport.length * 2 ^ 16 + s.lchan.length * 2 ^ 21
      + s.lcodec.length * 2 ^ 25 + s.grade * 2 ^ 29
  else if o = 0x18 then chipFeat
  else if o = 0x48 then b2n s.updRne + b2n s.rneUsed * 2
  else if o = 0x400 then
    s.fl.seq % 65536 + b2n (s.fl.dirty || s.fences.any fun f => !f.persist) * 2 ^ 16 + b2n s.fl.deferred * 2 ^ 17 + b2n s.fl.lost * 2 ^ 18
  else if o = 0x410 then s.fl.next + s.fl.total % 2 ^ 28 * 16
  else if 0x420 ≤ o && o < 0x460 then
    (afind s.fl.log ((o - 0x420) / 4)).elim 0 fun e => e.p + e.cause * 2 ^ 9 + b2n e.incommit * 2 ^ 13 + e.epoch % 16 * 2 ^ 14 + 2 ^ 18
  else if 0x1000 ≤ o && o < 0x1800 then mapWord (if s.viewStaged then s.cfg.lmap else s.lmap) 9 ((o - 0x1000) / 4)
  else if 0x2000 ≤ o && o < 0x2800 then s.pcoreState ((o - 0x2000) / 4)
  else if 0x3000 ≤ o && o < 0x3060 then mapWord (if s.viewStaged then s.cfg.lport else s.lport) 5 ((o - 0x3000) / 4)
  else if 0x3100 ≤ o && o < 0x3120 then mapWord (if s.viewStaged then s.cfg.lchan else s.lchan) 3 ((o - 0x3100) / 4)
  else if 0x3200 ≤ o && o < 0x3220 then mapWord (if s.viewStaged then s.cfg.lcodec else s.lcodec) 3 ((o - 0x3200) / 4)
  else 0

/-- The step monitor's SM_VERDICT. -/
def Verdict.word (v : Verdict) : Nat :=
  v.verdict + b2n v.rUpdNf * 4 + b2n v.rDrnNf * 8 + b2n v.rSat * 16 + b2n v.spike * 32 + b2n v.lnsat * 64

def State.readSm (s : State) (o : Nat) : Nat :=
  match o with
  | 0 => blkId 0x0040
  | 0x28 => s.sm.ewma.toNat
  | 0x2C => s.sm.loss.toNat
  | 0x30 => s.sm.lastStep
  | 0x34 => (s.sm.verdict.elim 0 Verdict.word) + b2n s.sm.ewmaValid * 128
  | _ => 0

/-- FRAME_STAT.STATE and PENDING. -/
def Frame.stat (f : Frame) : Nat :=
  (if !f.run then 0 else if !f.waiting.isEmpty then 1 else if f.ending then 3 else 2) + b2n f.pend * 4

def State.readCfg (s : State) (o : Nat) : Nat :=
  if o = 0 then blkId 0x0010
  else if o = 0x14 then s.cfg.st + s.epoch % 16 * 4 + b2n s.flip.isSome * 64 + b2n s.cfg.locked * 128
  else if o = 0x18 then (aget 0 s.regs 0xC018).toNat
  else if 0x140 ≤ o && o < 0x150 then (s.frames.getD ((o - 0x140) / 4) {}).stat
  else 0

/-- IRQ_STAT of a source. -/
def IrqSrc.stat (x : IrqSrc) : Nat :=
  b2n x.pend + b2n x.serv.isSome * 2 + b2n x.hpend * 4 + b2n x.storm * 8 + b2n x.stuck * 16 + b2n x.raw * 32 + x.scount * 256

def State.readIrq (s : State) (o : Nat) : Nat :=
  if o = 0 then blkId 0x0020
  else if o = 4 then 0x400 + 4 * 2 ^ 11
  else if 0x100 ≤ o && o < 0x200 && o % 0x40 = 0x14 then
    let c := (o - 0x100) / 0x40
    s.irq.foldl (fun m x => match x.2.serv with
      | some (c', q) => if c' = c then m ||| 2 ^ q else m
      | none => m) 0
  else if 0x3004 ≤ o && o < 0x4000 then (s.irqSrc ((o - 0x3000) / 4)).stat
  else if 0x4000 ≤ o && o < 0x4080 then
    let w := (o - 0x4000) / 4
    (List.range 32).foldl (fun m b => if (s.irqSrc (32 * w + b)).hpend then m + 2 ^ b else m) 0
  else 0

def State.readHost (s : State) (o : Nat) : Nat :=
  if o = 0 then blkId 0x0021
  else if 0x100 ≤ o && o < 0x320 && o % 0x20 = 0xC then
    let x := s.ring ((o - 0x100) / 0x20)
    x.sqHead + x.cqTail * 2 ^ 10 + b2n x.badDb * 2 ^ 20 + b2n x.held.isSome * 2 ^ 21
  else if o = 0x580 then b2n s.hwin.isSome * 2
  else if o = 0x584 then s.hwin.elim 0 fun f => f.reason + f.obj * 2 ^ 8
  else if o = 0x588 then s.hwin.elim 0 fun f => f.addr % 2 ^ 32
  else if o = 0x58C then s.hwin.elim 0 fun f => f.addr / 2 ^ 32 % 2 ^ 20
  else 0

def State.readHx (s : State) (o : Nat) : Nat :=
  if o = 0 then blkId 0x0060
  else if o = 0x20 then s.repoch % 65536 + s.rcepoch % 16 * 2 ^ 16
  else if o = 0x24 then s.gfeat.toNat
  else if o = 0x30 then (aget 0 s.regs 0x300030).toNat % 2 ^ 23 &&& (full - 2 ^ 20)
  else if 0x400 ≤ o && o < 0x440 then (aget 0 s.regs (0x300000 + o)).toNat &&& 0x3FFFD
  else 0

/-- PORT_STAT.STATE. -/
def PortState.code : PortState → Nat
  | .down => 0 | .training => 1 | .up => 2 | .upR1 => 3 | .failed => 4 | .refused => 5

def State.readPort (s : State) (p o : Nat) : Nat :=
  let x := s.port p
  match o with
  | 0 => blkId 0x0061
  | 0x14 => x.state.code + x.lanes * 8 + x.rev * 2 ^ 6 + x.peerDev % 256 * 2 ^ 10 + x.peerPort % 32 * 2 ^ 18 + b2n (!x.frozen.isEmpty) * 2 ^ 23
  | 0x18 => x.feat.toNat
  | 0x24 => x.frz.elim 0 fun f => 0x83 + f.1 * 2 ^ 8 + f.2.1 * 2 ^ 11
  | 0x28 => x.frz.elim 0 fun f => f.2.2.1
  | 0x2C => x.frz.elim 0 fun f => f.2.2.2 % 2 ^ 32
  | 0x30 => x.frz.elim 0 fun f => f.2.2.2 / 2 ^ 32 % 2 ^ 20
  | _ => 0

/-- Owned blocks of an instance that are final. -/
def CollInst.finals (x : CollInst) (d : CDesc) : Nat := ((x.ownedAll d).filter fun b => (x.slot b).final).length

def State.readCol (s : State) (o : Nat) : Nat :=
  if o = 0 then blkId 0x0062
  else if o = 4 then 0x100 + 0x10 * 2 ^ 9 + 2 ^ 14 + 2 ^ 15
  else if 0x100 ≤ o && o < 0x200 then
    match afind s.colls ((o - 0x100) / 16) with
    | none => 0
    | some x =>
      match o % 16 with
      | 0 => x.c + x.inst % 256 * 2 ^ 8 + x.attempt % 256 * 2 ^ 16 + x.phase * 2 ^ 24 + x.inst / 256 % 32 * 2 ^ 27
      | 4 => x.step
      | 8 => x.elapsed % 65536
      | _ => x.finals (s.desc x.c)
  else if 0x8000 ≤ o && o < 0x8800 then
    let c := (o - 0x8000) / 8
    let x := s.collStat c
    if o % 8 = 0 then
      x.status + b2n (s.collOf c).isSome * 16 + b2n x.scValid * 32 + b2n x.scPlane * 64 + x.emax % 256 * 2 ^ 7 + x.inst % 256 * 2 ^ 15
        + x.inst / 256 % 32 * 2 ^ 23 + b2n x.emaxV * 2 ^ 28
    else s.digest c + x.attempt % 256 * 2 ^ 16
  else 0

def State.readMem (s : State) (o : Nat) : Nat :=
  if o = 0 then blkId 0x0050
  else if 0x20 ≤ o && o < 0x40 then
    let i := s.objSel % 65536
    ((if bitAt s.objSel 16 then s.stagedEnt i else s.objEnt i).word ((o - 0x20) / 4)).toNat
  else if 0x100 ≤ o && o < 0x200 then
    let i := (o - 0x100) / 16
    (aget ({} : StripeSet) (if s.viewStaged then s.obj.stripesStaged else s.obj.stripes) i).word (o % 16 / 4)
  else if o = 0x204 then (s.obj.shadows.map Shadow.size).foldl (· + ·) 0 + s.obj.shadows.length * 2 ^ 24
  else if o = 0x214 then s.migsRunning + (s.obj.migs.length - s.migsRunning) * 8 + s.obj.lastMig * 2 ^ 16
  else if 0x1000 ≤ o && o < 0x1100 then aget 0 (if s.viewStaged then s.obj.cgrpStaged else s.obj.cgrp) ((o - 0x1000) / 4)
  else 0

/-- A channel block; `ch`: the channel as the model numbers it. -/
def State.readChan (s : State) (typ ch o : Nat) : Nat :=
  let x := s.chan ch
  match o with
  | 0 => blkId typ
  | 0x14 => x.state + x.cap * 4
  | _ => 0

/-- Words of a freeze record: cause, address. -/
def FrzRec.cause (f : FrzRec) : Nat := f.unit + f.reason * 16 + f.obj * 2 ^ 12

def State.readCodec (s : State) (k o : Nat) : Nat :=
  let f := aget ({} : FrzRec) s.obj.codecFrz ((afind s.lcodec k).elim k MapEnt.phys)
  match o with
  | 0 => blkId 0x0053
  | 0x20 => f.cause
  | 0x24 => f.addr % 2 ^ 32
  | 0x28 => f.addr / 2 ^ 32 % 2 ^ 20
  | _ => 0

/-- The hottest sensor: temperature and cluster; the lowest cluster of those. -/
def hottest (t : Amap Nat) : Nat × Nat := t.foldl (fun b x => if b.1 < x.2 then (x.2, x.1) else b) (0, 0)

def State.readPwr (s : State) (o : Nat) : Nat :=
  let x := s.pw
  if o = 0 then blkId 0x0070
  else if o = 4 then 4 + 0x40 * 16
  else if o = 0x1C then
    x.step + b2n (x.dPlim ≠ 0) * 4 + b2n (x.dFast ≠ 0) * 8 + b2n (x.dTherm ≠ 0) * 16 + b2n (x.dPf ≠ 0) * 32 + x.est % 4096 * 64
  else if 0x30 ≤ o && o < 0x40 then avsVolt ((o - 0x30) / 4)
  else if o = 0x40 then x.setMv + x.readMv % 1024 * 2 ^ 16
  else if o = 0x54 then (hottest x.temps).1 + (hottest x.temps).2 * 256
  else if o = 0x68 then min 0xFFFF (x.huE / 10) + b2n (2 * (s.huCfg / 65536) ≤ x.huE) * 2 ^ 16 + b2n s.pwrfail * 2 ^ 17
  else if o = 0x6C then x.huV % 65536
  else if o = 0x7C then s.rstLast + b2n s.coreRst.isSome * 4 + (s.rstStat.toNat &&& 0x18)
  else if 0x100 ≤ o && o < 0x200 then aget 0 x.temps ((o - 0x100) / 4)
  else if o = 0x200 then (List.range 8).foldl (fun m i => if (s.irqSrc (20 + i)).raw then m + 2 ^ (16 + i) else m) 0
  else 0

def State.readSec (s : State) (o : Nat) : Nat :=
  let x := s.sec
  match o with
  | 0 => blkId 0x0080
  | 4 => 4
  | 0x10 => s.secStat
  | 0x14 => (x.svn.zipIdx.map fun y => y.1 * 2 ^ (8 * y.2)).foldl (· + ·) 0
  | 0x18 => x.keyrev
  | 0x20 => x.fwComp + x.fwResult * 8
  | 0x48 => b2n x.mbxBusy + x.mbxStatus * 256
  | 0x58 => x.hctr % 2 ^ 32
  | 0x5C => x.hctr / 2 ^ 32 % 2 ^ 32
  | 0x60 => x.dctr % 2 ^ 32
  | 0x64 => x.dctr / 2 ^ 32 % 2 ^ 32
  | 0x68 => x.wpages.length + x.rpages.length * 32
  | _ => 0

/-! ### A core's block (R392) -/

/-- SEQ_STAT.DISP_WAIT: a SEQ word is in hand, or the next word's queue is full. -/
def Core.dispWait (c : Core) : Bool :=
  c.active && (c.seq.cur.isSome ||
    match c.fetchAt c.seq.pc with
    | .word w => (queuesOf w).any fun q => cqDepth q < c.occ q + wWidth w
    | _ => false)

def lo32 (a : Nat) : Nat := a % 2 ^ 32
def hi32 (a : Nat) : Nat := a / 2 ^ 32 % 2 ^ 32

def HaltRec.cause (h : HaltRec) : Nat := h.unit + h.reason * 16 + h.seqno * 2 ^ 12

/-- Halt and freeze records (R171), which a fenced core still shows (R422). -/
def Sequencer.readRec (q : Sequencer) (o : Nat) : Nat :=
  match o with
  | 0x40 => lo32 q.halt.pc
  | 0x44 => hi32 q.halt.pc
  | 0x48 => q.halt.cause
  | 0x4C => q.halt.info
  | 0x50 => q.frz.cause
  | 0x54 => lo32 q.frz.addr
  | 0x58 => hi32 q.frz.addr % 2 ^ 20
  | _ => 0

def Core.dqStat (c : Core) (q : Nat) : Nat :=
  let x := c.dataQ q
  (x.bind.elim 0 fun b => b.1 + b.2 * 16) + b2n x.bind.isSome * 256 + x.ents.length * 2 ^ 9 + (x.ents.head?.elim 0 DqEnt.tok) % 65536 * 2 ^ 16
def Core.hqStat (c : Core) (h : Nat) : Nat :=
  let x := c.handleQ h
  (x.bind.elim 0 fun b => b.1 + b.2 * 16) + b2n x.bind.isSome * 256 + x.ents.length * 2 ^ 9 + (x.ents.head?.elim 0 HqEnt.epoch) % 256 * 2 ^ 16
    + b2n (x.ents.head?.any HqEnt.poison) * 2 ^ 24
def Core.cqStat (c : Core) (u : Nat) : Nat :=
  if u = 0 then b2n c.seq.cur.isSome + cqDepth 0 * 2 ^ 6 + b2n (c.seq.cur.any fun x => !x.released) * 2 ^ 12
  else
    let q := if u = 5 then c.occ 5 + c.occ 10 else c.occ u
    let d := if u = 5 then cqDepth 5 + cqDepth 10 else cqDepth u
    let l := c.words u ++ (if u = 5 then c.words 10 else [])
    q + d * 2 ^ 6 + b2n (l.any fun e => !e.started) * 2 ^ 12

def Core.readSeq (c : Core) (o : Nat) : Nat :=
  let q := c.seq
  if o = 0 then blkId 0x0030
  else if o = 4 then 0x20 + 4 * 2 ^ 6 + 8 * 2 ^ 9 + 2 ^ 13 + 2 ^ 14
  else if o = 0x10 then b2n q.mode + q.wdog * 256
  else if o = 0x14 then q.state.code + q.loops.length * 8 + b2n q.open_ * 64 + b2n q.swirq * 128 + b2n c.dispWait * 256
  else if o = 0x18 then lo32 q.pc
  else if o = 0x1C then hi32 q.pc % 65536
  else if o = 0x20 then lo32 q.start
  else if o = 0x24 then hi32 q.start % 65536
  else if o = 0x28 then lo32 q.step
  else if o = 0x2C then lo32 q.stepNum
  else if o = 0x30 then lo32 q.stepPc
  else if o = 0x34 then hi32 q.stepPc % 65536
  else if o = 0x38 then q.seqno
  else if o = 0x3C then q.flags.toNat % 4096
  else if o < 0x80 then q.readRec o
  else if o < 0xA0 then q.lc.getD ((o - 0x80) / 4) 0
  else if o < 0xB0 then (q.loops[(o - 0xA0) / 4]?).elim 0 LoopEnt.remain
  else if 0x100 ≤ o && o < 0x180 then (c.bar ((o - 0x100) / 4)).count
  else if 0x180 ≤ o && o < 0x200 then
    let b := c.bar ((o - 0x180) / 4)
    b.target + b.adv * 2 ^ 16 + b.owner * 2 ^ 24
  else if 0x200 ≤ o && o < 0x240 then c.dqStat ((o - 0x200) / 4)
  else if 0x240 ≤ o && o < 0x260 then c.hqStat ((o - 0x240) / 4)
  else if 0x280 ≤ o && o < 0x2A8 then c.cqStat ((o - 0x280) / 4)
  else 0

def Act.code : Act → Nat
  | .idle => 0 | .up => 1 | .active => 2 | .down => 3

/-- An engine's block; in sealed mode ENG_SEXP reads 0 (R452). -/
def Core.readEng (c : Core) (sealed_ : Bool) (e o : Nat) : Nat :=
  let g := c.eng e
  let slots (a : Nat) : Nat := (List.range 4).foldl (fun m i =>
    ((g.slots.getD (a + i) {}).st.zipIdx).foldl (fun m x => m + x.1.code * 2 ^ (8 * i + 2 * x.2)) m) 0
  if o = 0 then blkId 0x0031
  else if o = 4 then 8 + 0xF * 16
  else if o = 0x10 then c.reg (0x2010 + 0x100 * e) 0x22
  else if o = 0x14 then g.act.code + g.groups * 4 + b2n (c.awaitsToken e) * 64 + b2n g.tileOpen * 128 + g.openPack * 256
  else if o = 0x18 then slots 0
  else if o = 0x1C then slots 4
  else if 0x40 ≤ o && o < 0x80 then
    (if sealed_ then 0
     else
       let q := (g.slots.getD ((o - 0x40) / 8) {}).tile.q
       let i := o % 8 / 2
       (q.getD i {}).bits + (q.getD (i + 1) {}).bits * 2 ^ 16)
  else 0

/-- The drain's block, with its table window; in sealed mode DRN_NACC reads 0 (R452). -/
def Core.readDrn (c : Core) (sealed_ : Bool) (o : Nat) : Nat :=
  let d := c.drn
  let waits (q : Nat) : Bool := ((c.words q).find? fun e => !e.fin).any fun e =>
    wOp e.word = 1 && !(d.cur.any fun t => t.lane = (if q = 5 then 0 else 1))
  if o = 0 then blkId 0x0032
  else if o = 4 then 2 + 0x10 * 16 + 2 ^ 9
  else if 0x10 ≤ o && o < 0x28 then (d.param.getD ((o - 0x10) / 4) 0).toNat
  else if o = 0x30 then b2n (waits 5) + b2n (waits 10) * 2 + b2n d.cur.isSome * 4 + (d.tbl.zipIdx.foldl (fun m x => m + b2n x.1.1 * 2 ^ (3 + x.2)) 0)
  else if o = 0x34 then d.nacc.foldl (fun m x => m + b2n x.2.nf * 2 ^ x.1 + b2n x.2.sat * 2 ^ (16 + x.1)) 0
  else if o = 0x80 then c.reg 0x2280 0
  else if 0x100 ≤ o && o < 0x180 then
    (if sealed_ then 0
     else
       let a := (aget ({} : Nacc) d.nacc ((o - 0x100) / 8)).acc
       if o % 8 = 0 then lo32 a else hi32 a)
  else if 0x800 ≤ o && o < 0xC80 then
    let t := c.reg 0x2280 0
    if 14 ≤ t then 0 else (d.tableWord t ((o - 0x800) / 4)).toNat
  else 0

def UpdPhase.code : UpdPhase → Nat
  | .idle => 0 | .staging => 1 | .pinWait => 2 | .commit => 3

def HpSet.word (h : HpSet) (f : Nat) : W32 := [h.lr, h.b1, h.b2, h.eps, h.wd, h.mu].getD f 0

def Core.readUpd (c : Core) (o : Nat) : Nat :=
  let u := c.upd
  if o = 0 then blkId 0x0034
  else if o = 4 then 0x1F + 7 * 2 ^ 5 + 4 * 2 ^ 8
  else if o = 0x10 then c.reg 0x2410 0x7F0000
  else if o = 0x14 then u.stg % 2 ^ 24 + u.phase.code * 2 ^ 24 + b2n u.normValid * 2 ^ 26 + b2n u.normNf * 2 ^ 27 + b2n u.normOvf * 2 ^ 28
    + b2n u.lnsat * 2 ^ 29 + b2n u.denied * 2 ^ 30
  else if o = 0x18 then u.gnorm.toNat
  else if o = 0x1C then u.scale.toNat
  else if 0x40 ≤ o && o < 0xC0 then ((u.hp.getD ((o - 0x40) / 32) {}).word (o % 32 / 4)).toNat
  else if 0xC0 ≤ o && o < 0xE0 then ((if o % 8 = 0 then u.w2 else u.u2).getD ((o - 0xC0) / 8) 0).toNat
  else 0

def Core.readTp (c : Core) (o : Nat) : Nat :=
  let x := c.stash
  if o = 0 then blkId 0x0038
  else if o = 4 then 4 + 8 * 8 + 128
  else if o = 0x10 then
    let v := c.sht.servs.head?
    (c.sht.bufs.zipIdx.foldl (fun m b => m + b2n b.1.isSome * 2 ^ b.2 + b2n (b.1.any fun y => y.rows.length = 16) * 2 ^ (4 + b.2)) 0)
      + (v.elim 0 Serving.popA) % 64 * 2 ^ 8 + (v.elim 0 Serving.popB) % 128 * 2 ^ 14
  else if 0x20 ≤ o && o < 0x38 then c.reg (0x2800 + o) 0
  else if o = 0x38 then x.next + b2n x.exhausted * 2 ^ 24
  else if o = 0x3C then x.inuse + x.peak * 2 ^ 16
  else if o = 0x40 then x.t3use
  else if 0x80 ≤ o && o < 0xC0 then
    match c.pins[(o - 0x80) / 8]? with
    | none => 0
    | some p => if o % 8 = 0 then p.obj + p.ver * 2 ^ 16 else p.cnt % 256 + 256 + b2n p.stepPin * 512
  else 0

/-- A buffer-table entry's words. -/
def BtEnt.word (b : BtEnt) (hi : Bool) : Nat :=
  if hi then b.base else b2n b.en + b.space * 2 + b.pool * 4 + b.tag * 256 + b.size * 2 ^ 16

def Core.readStr (c : Core) (k : Cluster) (o : Nat) : Nat :=
  if o = 0 then blkId 0x0035
  else if o = 4 then 0x100 + 0x10 * 2 ^ 9 + 8 * 2 ^ 14 + 0x18 * 2 ^ 18
  else if o = 0x10 then c.reg 0x3010 8
  else if o = 0x14 then (24 - c.tags.length) + c.tags.length * 32
  else if o = 0x20 then c.mbx.length
  else if 0x40 ≤ o && o < 0x60 then
    let h := (o - 0x40) / 4
    c.hqCfg h + b2n (c.handleQ h).recv.isSome * 2 ^ 23 + b2n (c.handleQ h).send.isSome * 2 ^ 24
  else if 0x60 ≤ o && o < 0x80 then ((c.handleQ ((o - 0x60) / 4)).send.elim 0 SendEnd.credits) % 128
  else if 0x100 ≤ o && o < 0x180 then (aget 0 c.poolLatch (0x3000 + o)).toNat
  else if 0x200 ≤ o && o < 0xA00 then (c.btEnt ((o - 0x200) / 8)).word (o % 8 = 4)
  else if o = 0xC00 then (aget 9 k.regs 0xC00).toNat
  else if 0xC10 ≤ o && o < 0xC30 then (aget 0 k.cnt o).toNat
  else 0

def PrePhase.code : PrePhase → Nat
  | .none => 0 | .waiting => 1 | .saving => 2 | .saved => 3 | .restoring => 4

def FenceRec.word (f : FenceRec) : Nat := f.cause + b2n f.fenced * 16 + b2n f.incommit * 32

def Core.readErr (c : Core) (k : Cluster) (o : Nat) : Nat :=
  match o with
  | 0 => blkId 0x0039
  | 4 => 0xE4 + 256
  | 0x10 => c.pre.phase.code + b2n c.pre.valid * 8 + c.pre.prior.code * 16
  | 0x14 => c.pre.bytes
  | 0x18 => c.pre.bwait
  | 0x1C => c.pre.saveCyc
  | 0x20 => c.pre.restCyc
  | 0x60 => c.fence.word
  | 0x80 => c.reg 0x4080 0
  | 0x84 => c.reg 0x4084 0
  | 0x88 => b2n c.rcmt.done * 2 + b2n c.rcmt.err * 4
  | 0x8C => c.rcmt.groups
  | 0x100 => (aget 0 k.cnt 0x4100).toNat
  | 0x104 => (aget 0 k.cnt 0x4104).toNat
  | 0x108 => (aget 0 k.cnt 0x4108).toNat
  | _ => 0

/-- A word of logical core l's block. A number without a working core shows its records only (R422); an absent one reads zero (R7). -/
def State.readCore (s : State) (l o : Nat) : Nat :=
  match afind s.lmap l with
  | none => 0
  | some e =>
    let c := s.core e.phys
    let k := s.cluster (clusterOf e.phys)
    let n := (aget 0 c.cnt o).toNat
    if !e.valid then
      (if 0x1000 ≤ o && o < 0x2000 then c.seq.readRec (o - 0x1000)
       else if o = 0x4060 then c.fence.word
       else if 0x4040 ≤ o && o < 0x4050 then n else 0)
    else if o < 0x1000 then (if o = 0 then blkId 0x003F else if o = 4 then e.phys + 2 ^ 9 else 0)
    else if o < 0x2000 then c.readSeq (o - 0x1000) + n
    else if o < 0x2100 then c.readEng s.sealed_ 0 (o - 0x2000) + n
    else if o < 0x2200 then c.readEng s.sealed_ 1 (o - 0x2100) + n
    else if o < 0x2400 then c.readDrn s.sealed_ (o - 0x2200) + n
    else if o < 0x2800 then c.readUpd (o - 0x2400) + n
    else if o < 0x2A00 then c.readTp (o - 0x2800) + n
    else if o < 0x2E80 then c.readDrn s.sealed_ (o - 0x2200)
    else if o < 0x3000 then 0
    else if o < 0x4000 then c.readStr k (o - 0x3000) + n
    else if o < 0x5000 then c.readErr k (o - 0x4000) + n
    else 0

/-! ### BAR0 -/

/-- The value at a word of BAR0, as a read that changes nothing sees it. Registers that hold what is written are read as they stand; counters read
what they count. -/
def State.readWord (s : State) (off : Nat) : Nat :=
  if off % 4 ≠ 0 || s.absentUnit off then 0
  else if 0x1000000 ≤ off then (if off < 0x3000000 then s.readCore ((off - 0x1000000) / 0x10000) (off % 0x10000) else 0)
  else
    let held := s.plainReg off + (aget 0 s.cnt off).toNat
    if off < 0x8000 then held + s.readChip off
    else if off < 0xC000 then held + s.readSm (off - 0x8000)
    else if off < 0x10000 then held + s.readCfg (off - 0xC000)
    else if off < 0x100000 then 0
    else if off < 0x200000 then held + s.readIrq (off - 0x100000)
    else if off < 0x300000 then held + s.readHost (off - 0x200000)
    else if off = 0x300030 then s.readHx 0x30
    else if off < 0x310000 then held + s.readHx (off - 0x300000)
    else if off < 0x328000 then held + s.readPort ((off - 0x310000) / 0x1000) (off % 0x1000)
    else if off < 0x340000 then 0
    else if off < 0x350000 then held + s.readCol (off - 0x340000)
    else if off < 0x400000 then 0
    else if off < 0x410000 then held + s.readMem (off - 0x400000)
    else if off < 0x418000 then held + s.readChan 0x0051 ((off - 0x410000) / 0x1000) (off % 0x1000)
    else if off < 0x420000 then 0
    else if off < 0x428000 then
      let c := (off - 0x420000) / 0x1000
      held + s.readChan 0x0052 (8 + (afind s.lchan c).elim c MapEnt.phys) (off % 0x1000)
    else if off < 0x430000 then 0
    else if off < 0x438000 then held + s.readCodec ((off - 0x430000) / 0x1000) (off % 0x1000)
    else if off < 0x500000 then 0
    else if off < 0x600000 then held + s.readPwr (off - 0x500000)
    else if off < 0x700000 then held + s.readSec (off - 0x600000)
    else 0

end Sys2Proof.Machine
end

