-- ==== Sys2Proof/Machine/Registers.lean ====
section
/-! DEFINITION. Register writes and the accesses of the control processors (R6, R387, R393, R401, R402, R408, R414, and the register tables of the
chapters). -/

namespace Sys2Proof.Machine

/-! ### Registers that hold what is written -/

/-- CFG_CTRL.VIEW: writes of staged fields reach the staged copy. -/
def State.viewOn (s : State) : Bool := bitAt (aget 0 s.regs 0xC010).toNat 0

/-- RING_CFG with its sizes kept within 4 and 10. -/
def ringSizes (v : Nat) : Nat :=
  let cl (x : Nat) : Nat := max 4 (min 10 x)
  (v &&& 0xFE01) + cl (bitsOf v 1 4) * 2 + cl (bitsOf v 5 4) * 32

/-- What a register holds after a write of `v`, from what it held. -/
def RegDef.after (r : RegDef) (st old v : Nat) : Nat :=
  let rw := r.rw &&& (full - st)
  ((old &&& (full - rw)) ||| (v &&& rw)) &&& (full - (v &&& r.w1c))

/-- Store a write by the register's type codes; staged bits go to the staged copy while VIEW is 1. -/
def State.storeReg (s : State) (off v : Nat) : State :=
  let st := (stagedReg off).elim 0 Prod.fst
  let s1 := match regDef off with
    | none => s
    | some r =>
      let old := (aget (BitVec.ofNat 32 r.d) s.regs off).toNat
      let n := r.after st old v
      let n := if 0x200100 ≤ off && off < 0x200320 && off % 0x20 = 0 then ringSizes n else n
      { s with regs := aset s.regs off (BitVec.ofNat 32 n) }
  if st ≠ 0 && s.viewOn then s1.stageWrite off (BitVec.ofNat 32 v) else s1

/-! ### Sources that follow cause registers -/

/-- Eight sources from `src` on follow the bits of a cause register and its enables. -/
def State.causeBits (s : State) (cause inten src : Nat) (d : W32) : State :=
  let m := (aget 0 s.regs cause &&& aget d s.regs inten).toNat
  (List.range 8).foldl (fun s n => s.level (src + n) (bitAt m n)) s

/-- The sources that a register of the device drives. -/
def State.redrive (s : State) (off : Nat) : State :=
  let o := off % 0x1000
  if off = 0x8038 || off = 0x803C then s.causeBits 0x8038 0x803C 696 0xFE
  else if off = 0xC030 || off = 0xC034 then s.causeLevel 0xC030 0xC034 3 0x1E
  else if off = 0xC150 || off = 0xC154 then s.causeLevel 0xC150 0xC154 5 0xFFFF
  else if off = 0x200400 then s.level 681 (aget 0 s.regs 0x200400 ≠ 0)
  else if off = 0x300028 || off = 0x30002C then s.level 2 ((aget 0 s.regs 0x300028 ||| aget 0 s.regs 0x30002C) ≠ 0)
  else if 0x310000 ≤ off && off < 0x328000 && (o = 0x1C || o = 0x20) then
    let p := (off - 0x310000) / 0x1000
    s.causeLevel (portBase p + 0x1C) (portBase p + 0x20) (640 + (afind s.lport p).elim p MapEnt.phys) 0x1F
  else if off = 0x340018 || off = 0x34001C then s.causeBits 0x340018 0x34001C 664 0xFE
  else if 0x410000 ≤ off && off < 0x418000 && (o = 0x18 || o = 0x1C) then s.causeLevel (off - o + 0x18) (off - o + 0x1C) (608 + (off - 0x410000) / 0x1000) 0xF
  else if 0x420000 ≤ off && off < 0x428000 && (o = 0x18 || o = 0x1C) then
    let c := (off - 0x420000) / 0x1000
    s.causeLevel (off - o + 0x18) (off - o + 0x1C) (616 + (afind s.lchan c).elim c MapEnt.phys) 0xF
  else if 0x430000 ≤ off && off < 0x438000 && o = 0x18 then
    let k := (off - 0x430000) / 0x1000
    s.level (624 + (afind s.lcodec k).elim k MapEnt.phys) (aget 0 s.regs off ≠ 0)
  else if off = 0x500020 || off = 0x500024 then s.causeLevel 0x500020 0x500024 10 0x3F
  else s

/-! ### Registers with behaviour of their own -/

/-- IRQ_CFG (R404, R408): a reserved SENSE is not stored; a level that is asserted when the source becomes enabled is pending. -/
def State.writeIrqCfg (s : State) (src v : Nat) : State :=
  let old := s.irqCfg src
  let v := if 5 ≤ v % 8 then v - v % 8 + old % 8 else v
  let s := s.storeReg (0x101000 + 4 * src) v
  let x := s.irqSrc src
  let cfg := s.irqCfg src
  let was := bitAt old 17 && levelAsserted (bitsOf old 0 3) x.raw = some true
  match levelAsserted (bitsOf cfg 0 3) x.raw with
  | some true => (if was then s else s.irqAssert src).irqDeliver
  | some false => (s.setIrq src { x with pend := if x.serv.isSome then x.pend else false }).irqDeliver
  | none => s.irqDeliver

/-- RST_CTRL: the deepest reset that is asked for is the one that counts (R491). -/
def State.writeRst (s : State) (v : Nat) : State :=
  let s := s.storeReg 0x500070 v
  if bitAt v 0 then s.warmReset 2
  else
    let s := if bitAt v 1 then s.coreReset (bitsOf v 3 10) else s
    if bitAt v 2 then s.groupReset else s

/-- The outputs of GPIO_CTRL are pins 1 to 8 of the model's trace; a pin that is driven sets its source (R490). -/
def State.writeGpio (s : State) (v : Nat) : State :=
  let s := s.storeReg 0x500200 v
  ((List.range 8).filter fun i => bitAt v i).foldl (fun s i => (s.emit (.pin (1 + i) (bitAt v (8 + i)))).level (20 + i) (bitAt v (8 + i))) s

/-- PORT_CTRL: a port that is disabled goes down; one that is enabled trains; RETRAIN. -/
def State.writePort (s : State) (p v : Nat) : State :=
  let s := s.storeReg (portBase p + 0x10) v
  if !bitAt v 0 then s.modPort p fun x => { x with state := .down, lanes := 0 }
  else if bitAt v 1 then afterOut s (execRetrain p s)
  else if (s.port p).state = .down then s.portStart p else s

/-- MBX_GO (R458): the operation begins, or ends at once where it is reserved. -/
def State.mbxGo (s : State) : State :=
  if s.sec.mbxBusy then s
  else if 1 ≤ s.mbxReg 0x30 && s.mbxReg 0x30 ≤ 3 then { s with sec := { s.sec with mbxBusy := true } }
  else s.mbxEnd 2

/-- COL_DESC (R356): written while no instance of the descriptor runs; SCVALID, SCPLANE and EMAXV clear. -/
def State.writeDesc (s : State) (off v : Nat) : State :=
  let c := (off - 0x344000) / 64
  if (s.collOf c).isSome then s
  else (s.storeReg off v).setDstat c { s.collStat c with scValid := false, scPlane := false, emaxV := false, emax := 0 }

/-- Writes of the blocks below 0x0010_0000. -/
def State.writeLow (s : State) (off v : Nat) : State :=
  if off = 0x48 then
    let s := if s.sealed_ then s else { s with regs := aset s.regs 0x48 (BitVec.ofNat 32 (v % 2)) }
    if bitAt v 1 then { s with rneUsed := false } else s
  else if off = 0x400 then (if bitAt v 18 then { s with fl := { s.fl with lost := false } } else s)
  else if 0x1000 ≤ off && off < 0x8000 then
    (if stagedField off && s.viewOn then s.stageWrite off (BitVec.ofNat 32 v) else s)
  else if off = 0x80A0 then (if bitAt v 0 then afterOut s (execSmCntClr s) else s)
  else if off = 0xC050 then (s.storeReg off v).irqDeliver
  else (s.storeReg off v).redrive off

/-- Writes of the interrupt controller. -/
def State.writeIrq (s : State) (off v : Nat) : State :=
  let o := off - 0x100000
  if o = 0x20 then afterOut s (execIrqHeoi (v % 1024) s)
  else if 0x100 ≤ o && o < 0x200 && o % 0x40 = 0x10 then afterOut s (execEoi ((o - 0x100) / 0x40) (v % 1024) s)
  else if 0x1004 ≤ o && o < 0x2000 then s.writeIrqCfg ((o - 0x1000) / 4) v
  else if 0x3004 ≤ o && o < 0x4000 then afterOut s (execIrqStatClear ((o - 0x3000) / 4) (bitAt v 3) (bitAt v 4) s)
  else (s.storeReg off v).irqDeliver

/-- Writes of the ring block. -/
def State.writeHost (s : State) (off v : Nat) : State :=
  let o := off - 0x200000
  if o = 0x580 then (if bitAt v 0 then s.winRelease else s)
  else if 0x100 ≤ o && o < 0x320 && o % 0x20 = 0xC then
    let r := (o - 0x100) / 0x20
    if bitAt v 20 then s.setRing r { s.ring r with badDb := false } else s
  else (s.storeReg off v).redrive off

/-- Writes of the Hextis group and of ports. -/
def State.writeHx (s : State) (off v : Nat) : State :=
  let o := off - 0x300000
  if o = 0x30 then
    (if bitAt v 20 then afterOut s (execHxMcResend (v % 16) (bitsOf v 4 16) s) else s.storeReg off v)
  else if 0x200 ≤ o && o < 0x400 && (o % 32 = 8 || o % 32 = 12) then
    afterOut s (execPrunedClear ((o - 0x200) / 32) (if o % 32 = 8 then 0 else 1) (BitVec.ofNat 32 v) s)
  else if 0x400 ≤ o && o < 0x440 then (if bitAt v 1 then afterOut s (execRejoin ((o - 0x400) / 4) s) else s)
  else if off < 0x310000 then (s.storeReg off v).redrive off
  else
    let p := (off - 0x310000) / 0x1000
    match off % 0x1000 with
    | 0x10 => s.writePort p v
    | 0x80 => if bitAt v 0 then afterOut s (execPortCntClr p s) else s
    | _ => (s.storeReg off v).redrive off

/-- Writes of the collective engine. -/
def State.writeCol (s : State) (off v : Nat) : State :=
  let o := off - 0x340000
  if o = 0x10 then
    let s := s.storeReg off v
    if bitAt v 1 then afterOut s (execAbortColl s) else s
  else if o = 0x240 then (if bitAt v 0 then afterOut s (execColCntClr s) else s)
  else if 0x4000 ≤ o && o < 0x8000 then s.writeDesc off v
  else (s.storeReg off v).redrive off

/-- Writes of the memory block, its channels and codec engines. -/
def State.writeMem (s : State) (off v : Nat) : State :=
  let o := off - 0x400000
  if stagedField off then
    (if 0x20 ≤ o && o < 0x40 && !bitAt s.objSel 16 then s else s.stageWrite off (BitVec.ofNat 32 v))
  else if o = 0x200 then (if s.obj.shadows.isEmpty then s.storeReg off v else s)
  else (s.storeReg off v).redrive off

/-- Writes of the power block. -/
def State.writePwr (s : State) (off v : Nat) : State :=
  match off - 0x500000 with
  | 0x70 => s.writeRst v
  | 0x7C => { s with rstStat := s.rstStat &&& ~~~(BitVec.ofNat 32 (v &&& 0x18)) }
  | 0xA0 => if bitAt v 0 then afterOut s (execPwrCntClr s) else s
  | 0x200 => s.writeGpio v
  | _ => (s.storeReg off v).redrive off

/-- Writes of the security mailbox. -/
def State.writeSec (s : State) (off v : Nat) : State :=
  match off - 0x600000 with
  | 0x44 => if bitAt v 0 then s.mbxGo else s
  | 0x50 => if s.sec.wpages.isEmpty && s.sec.rpages.isEmpty then s.storeReg off v else s
  | 0xA0 => if bitAt v 0 then afterOut s (execSecCntClr s) else s
  | _ => s.storeReg off v

/-! ### A core's block -/

/-- A plain register of a core: the RW bits of its offset, its reset value, and whether it takes writes only while the core is parked. -/
def coreDef (o : Nat) : Option (Nat × Nat × Bool) :=
  match o with
  | 0x2010 | 0x2110 => some (0x3FF, 0x22, false)
  | 0x2280 => some (0xF, 0, false)
  | 0x2410 => some (0xFFFFFF, 0x7F0000, true)
  | 0x2820 | 0x2824 | 0x2828 | 0x282C | 0x2830 => some (0xFFFF, 0, true)
  | 0x2834 => some (0xFFFFFF, 0, true)
  | 0x3010 => some (0x1F, 8, false)
  | 0x4080 => some (0xFFFF, 0, false)
  | 0x4084 => some (full, 0, false)
  | _ => if 0x3040 ≤ o && o < 0x3060 then some (0x7FFFFF, 0x2000, true) else none

/-- A write of a buffer-table entry (R264, R265): an entry that becomes enabled in a pool goes to the end of its free list, unless its handle is
out; one that leaves a pool leaves the free list. -/
def Core.writeBt (c : Core) (i : Nat) (hi : Bool) (v : Nat) : Core :=
  let b := c.btEnt i
  let n : BtEnt := if hi then { b with base := bitsOf v 0 17 }
    else { b with en := bitAt v 0, space := bitsOf v 1 1, pool := bitsOf v 2 4, size := bitsOf v 16 16 }
  let old := c.poolOf i
  let c := c.setBt i n
  let new := c.poolOf i
  if old = new then c
  else
    let queued := c.hq.flatMap fun x => x.2.ents.map fun e => hIdx e.h
    let out := (c.heldH ++ c.inflight ++ c.transit ++ c.reserved ++ queued).contains i
    let c := match old with
      | some p => { c with pools := aset c.pools p ((c.freeList p).filter fun j => j ≠ i) }
      | none => c
    match new with
    | some p => if out then c else { c with pools := aset c.pools p (c.freeList p ++ [i]) }
    | none => c

/-- SEQ_CTRL (R153, R174). -/
def State.writeSeqCtrl (s : State) (p v : Nat) : State :=
  let s := s.modCore p fun c => c.modSeq fun q => { q with wdog := bitsOf v 8 8, mode := if c.parked then bitAt v 0 else q.mode }
  let s := if bitAt v 1 && s.mayRestart (s.core p) then s.restartCore p else s
  if bitAt v 2 then s.modCore p Core.stop else s

/-- The low or high word of an address pair. -/
def pairWord (old v : Nat) (hi : Bool) : Nat := if hi then old % 2 ^ 32 + v % 65536 * 2 ^ 32 else old / 2 ^ 32 * 2 ^ 32 + v

/-- Writes of the sequencer sub-block. -/
def State.writeSeq (s : State) (l p o v : Nat) : State :=
  let c := s.core p
  if o = 0x10 then s.writeSeqCtrl p v
  else if o = 0x14 then (if bitAt v 7 then (s.modCore p fun c => c.modSeq fun q => { q with swirq := false }).irqCore p else s)
  else if o = 0x20 || o = 0x24 then s.modCore p fun c => c.modSeq fun q => { q with start := pairWord q.start v (o = 0x24) }
  else if o = 0x2C then s.modCore p fun c => c.modSeq fun q => { q with stepNum := v }
  else if o = 0x3C then s.modCore p fun c => c.modSeq fun q => { q with flags := q.flags &&& ~~~(BitVec.ofNat 32 (v &&& 0x861)) }
  else if 0x80 ≤ o && o < 0xA0 then s.modCore p fun c => c.setLc ((o - 0x80) / 4) (v % 2 ^ 24)
  else if 0x100 ≤ o && o < 0x180 then
    (if c.parked then s.modCore p fun c => c.setBar ((o - 0x100) / 4) { c.bar ((o - 0x100) / 4) with count := v % 65536 } else s)
  else if 0x180 ≤ o && o < 0x200 then
    (if c.parked then s.modCore p fun c =>
      c.setBar ((o - 0x180) / 4) { c.bar ((o - 0x180) / 4) with target := bitsOf v 0 16, adv := bitsOf v 16 8, owner := bitsOf v 24 4 } else s)
  else if o = 0x320 then (if bitAt v 0 then afterOut s (execSeqCntClr l s) else s)
  else s

/-- The counters of a core that a write of 1 clears. -/
def State.writeCntClr (s : State) (l o : Nat) : State :=
  match o with
  | 0x2084 => afterOut s (execEngCntClr l 0 s)
  | 0x2184 => afterOut s (execEngCntClr l 1 s)
  | 0x2260 => afterOut s (execDrnCntClr l s)
  | 0x2520 => afterOut s (execUpdCntClr l s)
  | 0x2920 => afterOut s (execTpCntClr l s)
  | 0x3AC0 => afterOut s (execStrCntClr l s)
  | 0x3C30 => afterOut s (execL2CntClr l s)
  | 0x4070 => afterOut s (execCerrCntClr l s)
  | _ => s

/-- STASH_USE.PEAK is W1C (R6): a 1 clears its bit. A write of 0xFFFF begins a new measurement, whose largest INUSE so far is the present one
(log 171). -/
def Stash.clearPeak (x : Stash) (m : Nat) : Stash :=
  { x with peak := if m = 0xFFFF then x.inuse else x.peak &&& (0xFFFF - m) }

/-- A write of a word of logical core l's block: ignored without a working core, and while the core is being reset (R7, R422, R473). -/
def State.writeCore (s : State) (l o v : Nat) : State :=
  match s.phys l with
  | none => s
  | some p =>
    let c := s.core p
    if s.inReset p then s
    else if 0x1000 ≤ o && o < 0x2000 then s.writeSeq l p (o - 0x1000) v
    else if 0x3200 ≤ o && o < 0x3A00 then (if c.parked then s.modCore p fun c => c.writeBt ((o - 0x3200) / 8) (o % 8 = 4) v else s)
    else if o = 0x2838 then
      (if bitAt v 24 then s.modCore p fun c => { c with stash := { c.stash with exhausted := false } } else s)
    else if o = 0x283C then
      s.modCore p fun c => { c with stash := c.stash.clearPeak (v / 65536 % 65536) }
    else if o = 0x3C00 then
      let g := clusterOf p
      s.setCluster g { s.cluster g with regs := aset (s.cluster g).regs 0xC00 (BitVec.ofNat 32 (v % 32)) }
    else if o = 0x4088 then
      let s := if bitAt v 2 then s.modCore p fun c => { c with rcmt := { c.rcmt with err := false } } else s
      if bitAt v 0 then afterOut s (execRcmtGo l s) else s
    else
      match coreDef o with
      | some (mask, d, parked) =>
        if parked && !c.parked then s
        else
          let n := (c.reg o (BitVec.ofNat 32 d) &&& (full - mask)) ||| (v &&& mask)
          let s := s.modCore p fun c => { c with regs := aset c.regs o (BitVec.ofNat 32 n) }
          if 0x2820 ≤ o && o < 0x2838 then s.stashPresent p else s
      | none => if bitAt v 0 then s.writeCntClr l o else s

/-! ### BAR0 and BAR2 -/

/-- A write of a word of BAR0. -/
def State.writeWord (s : State) (off : Nat) (v : W32) : State :=
  let n := v.toNat
  if off % 4 ≠ 0 || !s.powered || s.absentUnit off then s
  else if 0x1000000 ≤ off then (if off < 0x3000000 then s.writeCore ((off - 0x1000000) / 0x10000) (off % 0x10000) n else s)
  else if off < 0x100000 then s.writeLow off n
  else if off < 0x200000 then s.writeIrq off n
  else if off < 0x300000 then s.writeHost off n
  else if off < 0x340000 then s.writeHx off n
  else if off < 0x400000 then s.writeCol off n
  else if off < 0x500000 then s.writeMem off n
  else if off < 0x600000 then s.writePwr off n
  else if off < 0x700000 then s.writeSec off n
  else s

/-- A BAR0 access is 4 B or 8 B wide and aligned (R387). -/
def bar0Ok (off width : Nat) : Bool := (width = 4 || width = 8) && off % width = 0 && off + width ≤ 0x4000000

/-- A BAR0 write: 8 B act as two words, the lower first. -/
def State.writeBar0 (s : State) (off width : Nat) (v : W64) : State :=
  let s1 := s.writeWord off (v.setWidth 32)
  if width = 8 then s1.writeWord (off + 4) ((v >>> 32).setWidth 32) else s1

/-- The MSI-X table's vector control words: masks of the 64 vectors; a vector that is unmasked while pending is sent (R408; log 15). -/
def State.msixTable (s : State) (o v : Nat) : State :=
  let k := o / 16
  if o % 16 ≠ 12 || 64 ≤ k then s
  else if bitAt v 0 then { s with msixMask := sins s.msixMask k }
  else
    let pend := s.msixPba.contains k
    let s := { s with msixMask := sdel s.msixMask k, msixPba := sdel s.msixPba k }
    if pend then s.emit (.msix k) else s

/-- A word of BAR2 (R393): submission entries, doorbells, the MSI-X table. -/
def State.writeBar2 (s : State) (off : Nat) (v : W32) : State :=
  if off < 0x110000 then { s with bar2 := Memory.put s.bar2 off (bytesOf 4 v.toNat) }
  else if 0x120000 ≤ off && off < 0x131000 then
    let r := (off - 0x120000) / 0x1000
    match off % 0x1000 with
    | 0 => afterOut s (execSqTail r (v.toNat % 1024) s)
    | 4 => afterOut s (execCqHead r (v.toNat % 1024) s)
    | _ => s
  else if 0x1F0000 ≤ off && off < 0x1F8000 then
    State.msixTable { s with bar2 := Memory.put s.bar2 off (bytesOf 4 v.toNat) } (off - 0x1F0000) v.toNat
  else s

/-- REGISTER_WRITE (R6, R387, R393): a write of `width` bytes at `ofs` of BAR0 or BAR2. -/
def execRegisterWrite (bar ofs width : Nat) (val : BitVec 64) (s : State) : Out :=
  .next <|
    if !s.powered then s
    else if bar = 0 then (if bar0Ok ofs width then s.writeBar0 ofs width val else s.emit .accessError)
    else if bar = 2 && (width = 4 || width = 8) && ofs % width = 0 then
      let s1 := s.writeBar2 ofs (val.setWidth 32)
      if width = 8 then s1.writeBar2 (ofs + 4) ((val >>> 32).setWidth 32) else s1
    else s

/-! ### Control processors (R401, R402) -/

/-- CP_RUN (R401). -/
def execCpRun (mask : BitVec 32) (s : State) : Out := .next (s.writeWord 0xC050 mask)

/-- CP_WATCHDOG (R401): chip source 6. -/
def execCpWatchdog (cp : Nat) (s : State) : Out :=
  .next <| if 4 ≤ cp || !s.powered || !s.cpRuns cp || aget 0 s.regs 0xC054 = 0 then s else s.pulse 6

/-- A read of a word of BAR0 with what it brings about: a claim (R405), a pool's snapshot (R266). -/
def State.readEffect (s : State) (off : Nat) : State × Nat :=
  let o := off % 0x10000
  if 0x10010C ≤ off && off < 0x100200 && off % 0x40 = 0xC then s.claim ((off - 0x100100) / 0x40)
  else if 0x1000000 ≤ off && 0x3100 ≤ o && o < 0x3180 && o % 8 = 0 then
    match s.phys ((off - 0x1000000) / 0x10000) with
    | none => (s, 0)
    | some p =>
      let c := (s.core p).poolCapture ((o - 0x3100) / 8)
      (s.setCore p c, (aget 0 c.poolLatch o).toNat)
  else (s, s.readWord off)

/-- A BAR0 read of 4 or 8 bytes. -/
def State.readBar0 (s : State) (off width : Nat) : State :=
  let x := s.readEffect off
  if width = 8 then
    let y := x.1.readEffect (off + 4)
    y.1.emit (.readValue (BitVec.ofNat 64 (x.2 + y.2 * 2 ^ 32)))
  else x.1.emit (.readValue (BitVec.ofNat 64 x.2))

/-- Rules 1 and 3 of R299 for an access of a CP. -/
def State.cpCheck (s : State) (write : Bool) (a n : Nat) : Option (Nat × Nat) :=
  match s.findObj a with
  | none => none
  | some i =>
    let e := s.objEnt i
    let ofs := a - e.start
    let bad := e.bytes < ofs + n || s.chanOos e || (e.coded && s.codecs.isEmpty) || (write && s.vctrFull e ofs n)
      || (e.tier = 0 && n ≠ 0 && s.ncores ≤ (e.start + ofs + n - 1) / 0x800000)
    if bad then none else some (i, ofs)

/-- An access of a CP to device memory. -/
def State.cpDevice (s : State) (a len : Nat) (wr : Option (List Byte)) : State :=
  match s.cpCheck wr.isSome a (wr.elim len List.length) with
  | none => s.emit .accessError
  | some (i, ofs) =>
    match wr with
    | some d => s.wholeWrite i ofs (d.map fun b => (b, false))
    | none => let x := s.objRead i ofs len; x.2.emit (.readData (x.1.map Prod.fst) (x.1.any Prod.snd))

/-- CP_MEMORY_ACCESS (R402): BAR0, the control SRAM, or device memory; any other address gives an access fault. -/
def execCpMemoryAccess (cp addr len : Nat) (wr : Option (List Byte)) (s : State) : Out :=
  .next <|
    let n := wr.elim len List.length
    if 4 ≤ cp || !s.powered || !s.cpRuns cp then s
    else if 0x40000000 ≤ addr && addr < 0x44000000 then
      let off := addr - 0x40000000
      if !bar0Ok off n then s.emit .accessError
      else match wr with
        | some d => s.writeBar0 off n (BitVec.ofNat 64 (numOf d))
        | none => s.readBar0 off n
    else if 0x80000000 ≤ addr && addr + n ≤ 0x80400000 then
      match wr with
      | some d => { s with sram := Memory.put s.sram (addr - 0x80000000) d }
      | none => s.emit (.readData (Memory.bytes s.sram (addr - 0x80000000) n))
    else if 2 ^ 52 ≤ addr && addr < 2 ^ 53 then s.cpDevice (addr - 2 ^ 52) len wr
    else s.emit .accessError

end Sys2Proof.Machine
end

