-- ==== Sys2Proof/Machine/Package.lean ====
section
/-! DEFINITION. Management and debug interfaces (R403, R439, R452, R490, R492). -/

namespace Sys2Proof.Machine

/-- PCIE_LINK_EVENT (R403, R439): source 8; the IDE keys end as the link goes down. -/
def execPcieLinkEvent (up : Bool) (s : State) : Out :=
  .next <|
    if !s.powered then s
    else
      let s := { s with linkUp := up, sec := if up then s.sec else { s.sec with ide := [] } }
      s.pulse 8

/-- MCTP_CONTROL_MESSAGE (R492): it is acted on and answered on its bus, 1 I3C or 2 SMBus; it may change the SMBus address (log 11). -/
def execMctpControlMessage (bus code : Nat) (addr : Option Nat) (s : State) : Out :=
  .next <|
    if !s.powered then s
    else
      let s := match addr with
        | some a => { s with smbus := a % 128 }
        | none => s
      s.answer bus code (Config.message 0x100 [code])

/-- DYNAMIC_ADDRESS_ASSIGNMENT (R492). -/
def execDynamicAddressAssignment (addr : Nat) (s : State) : Out := .next (if s.powered then { s with i3c := some (addr % 128) } else s)

/-- Numeric sensors (R492; numbered by log 11): 0 to 63 THERM_SENS, 64 THERM_MAX, then power, voltage and current of the eleven rails of R459; of
these the model holds the voltage of VDD_CORE, and the others are free values. -/
def State.sensor (s : State) (n : Nat) : Option (Nat × State) :=
  if n < 64 then some (aget 0 s.pw.temps n, s)
  else if n = 64 then some ((hottest s.pw.temps).1, s)
  else if n = 66 then some (s.pw.readMv, s)
  else if n < 65 + 33 then some (s.free.1.toNat % 2 ^ 32, s.free.2)
  else none

/-- PLDM_SENSOR_READ (R492). -/
def execPldmSensorRead (sensor : Nat) (s : State) : Out :=
  .next <|
    if !s.powered then s
    else match s.sensor sensor with
      | none => s.refuse 2
      | some (v, s) => s.answer 2 0x11 (bytesOf 4 v)

/-! ### JTAG (R452, R490, R492) -/

/-- IDCODE: stepping, part number, manufacturer code, 1. -/
def idCode : Nat := stepping % 16 * 2 ^ 28 + 0xF502 * 2 ^ 12 + Config.makerCode.toNat * 2 + 1

/-- n bits of a number, the least significant first. -/
def bitsLow (n v : Nat) : List Bool := (List.range n).map fun i => bitAt v i

/-- n bits that the spec does not give (log 64). -/
def freeBits (fresh n : Nat) : List Bool := (List.range n).map fun i => (Config.freeByte fresh i).getLsbD 0

/-- What a shift through a register of one bit gives. -/
def bypass (dr : List Bool) : List Bool := (false :: dr).take dr.length

/-- The debug instructions are served: in debug mode and never in sealed mode (R452, R492). -/
def State.debugOk (s : State) : Bool := s.sec.debug && !s.sealed_

/-- JTAG_INSTRUCTION (R492), instructions numbered by log 64: 0 EXTEST, 1 SAMPLE/PRELOAD, 2 IDCODE, 3 CLAMP, 4 HIGHZ, 5 EXTEST_PULSE, 6 EXTEST_TRAIN, 7
BYPASS, 8 and above the debug instructions. A boundary-scan instruction captures the pins and leaves the bits shifted in in the boundary register; a
debug instruction gives what it reaches; one that is not served acts as BYPASS. -/
def execJtagInstruction (ir : Nat) (dr : List Bool) (s : State) : Out :=
  .next <|
    let scan := ir ≤ 1 || ir = 5 || ir = 6
    let s := { s with jtag := ir }
    if ir = 2 then s.emit (.tdo ((bitsLow 32 idCode ++ dr).take dr.length))
    else if scan then State.emit { s with bsr := dr, fresh := s.fresh + 1 } (.tdo (freeBits s.fresh dr.length))
    else if 8 ≤ ir && s.debugOk then State.emit { s with fresh := s.fresh + 1 } (.tdo (freeBits s.fresh dr.length))
    else s.emit (.tdo (bypass dr))

end Sys2Proof.Machine
end

