-- ==== Sys2Proof/Machine/Dispatch.lean ====
section
/-! DEFINITION. The effect of a command on everything but the queue: one arm for each constructor. -/

namespace Sys2Proof.Machine

def exec (i : Instr) (s : State) : Host.Outcome State Fault Refusal :=
  match i with
  | .dispatch c => Sys2Proof.Machine.execDispatch c s
  | .fetchFill c line => Sys2Proof.Machine.execFetchFill c line s
  | .wordStart c q => Sys2Proof.Machine.execWordStart c q s
  | .wordComplete c q => Sys2Proof.Machine.execWordComplete c q s
  | .watchdog c => Sys2Proof.Machine.execWatchdog c s
  | .coreDone c => Sys2Proof.Machine.execCoreDone c s
  | .nop c => Sys2Proof.Machine.execNop c s
  | .qBind c => Sys2Proof.Machine.execQBind c s
  | .barSet c => Sys2Proof.Machine.execBarSet c s
  | .barSig c => Sys2Proof.Machine.execBarSig c s
  | .sync c => Sys2Proof.Machine.execSync c s
  | .loop c => Sys2Proof.Machine.execLoop c s
  | .br c => Sys2Proof.Machine.execBr c s
  | .brc c => Sys2Proof.Machine.execBrc c s
  | .lcSet c => Sys2Proof.Machine.execLcSet c s
  | .lcAdd c => Sys2Proof.Machine.execLcAdd c s
  | .lcPop c => Sys2Proof.Machine.execLcPop c s
  | .flagClr c => Sys2Proof.Machine.execFlagClr c s
  | .stepOpen c => Sys2Proof.Machine.execStepOpen c s
  | .stepClose c => Sys2Proof.Machine.execStepClose c s
  | .irq c => Sys2Proof.Machine.execIrq c s
  | .brk c => Sys2Proof.Machine.execBrk c s
  | .endWord c => Sys2Proof.Machine.execEndWord c s
  | .strLdd c lane => Sys2Proof.Machine.execStrLdd c lane s
  | .strCopy c lane => Sys2Proof.Machine.execStrCopy c lane s
  | .strCancel c lane => Sys2Proof.Machine.execStrCancel c lane s
  | .strL2flush c lane => Sys2Proof.Machine.execStrL2flush c lane s
  | .strL2inv c lane => Sys2Proof.Machine.execStrL2inv c lane s
  | .strPin c lane => Sys2Proof.Machine.execStrPin c lane s
  | .strUnpin c lane => Sys2Proof.Machine.execStrUnpin c lane s
  | .dmaSegmentIssue c ch => Sys2Proof.Machine.execDmaSegmentIssue c ch s
  | .dmaSegmentDone c tag ce ue => Sys2Proof.Machine.execDmaSegmentDone c tag ce ue s
  | .ldAgset c lane => Sys2Proof.Machine.execLdAgset c lane s
  | .ldVec c lane ecc => Sys2Proof.Machine.execLdVec c lane s ecc
  | .ldPair c lane => Sys2Proof.Machine.execLdPair c lane s
  | .ldCast c lane => Sys2Proof.Machine.execLdCast c lane s
  | .ldSht c lane => Sys2Proof.Machine.execLdSht c lane s
  | .servingRelease c => Sys2Proof.Machine.execServingRelease c s
  | .xpose c lane => Sys2Proof.Machine.execXpose c lane s
  | .mmaRank c e res => Sys2Proof.Machine.execMmaRank c e res s
  | .mmaWl c e => Sys2Proof.Machine.execMmaWl c e s
  | .mmaSt c e res => Sys2Proof.Machine.execMmaSt c e res s
  | .mmaDrain c e => Sys2Proof.Machine.execMmaDrain c e s
  | .mmaSpill c e => Sys2Proof.Machine.execMmaSpill c e s
  | .mmaFill c e => Sys2Proof.Machine.execMmaFill c e s
  | .mmaFree c e => Sys2Proof.Machine.execMmaFree c e s
  | .tileToShadow c e => Sys2Proof.Machine.execTileToShadow c e s
  | .slotMoveDone c e slot => Sys2Proof.Machine.execSlotMoveDone c e slot s
  | .startTokenGrant c e => Sys2Proof.Machine.execStartTokenGrant c e s
  | .rampUpDone c e => Sys2Proof.Machine.execRampUpDone c e s
  | .idleHoldExpiry c e => Sys2Proof.Machine.execIdleHoldExpiry c e s
  | .stopSlotGrant c e => Sys2Proof.Machine.execStopSlotGrant c e s
  | .rampDownDone c e => Sys2Proof.Machine.execRampDownDone c e s
  | .drnTile c lane => Sys2Proof.Machine.execDrnTile c lane s
  | .drainAcceptTile c e => Sys2Proof.Machine.execDrainAcceptTile c e s
  | .drnSrctx c lane => Sys2Proof.Machine.execDrnSrctx c lane s
  | .drnCfg c => Sys2Proof.Machine.execDrnCfg c s
  | .drnTbl c => Sys2Proof.Machine.execDrnTbl c s
  | .drnStat c => Sys2Proof.Machine.execDrnStat c s
  | .vecEw c => Sys2Proof.Machine.execVecEw c s
  | .vecRed c => Sys2Proof.Machine.execVecRed c s
  | .vecCmpred c => Sys2Proof.Machine.execVecCmpred c s
  | .vecSmax c => Sys2Proof.Machine.execVecSmax c s
  | .vecNorm c => Sys2Proof.Machine.execVecNorm c s
  | .vecGath c => Sys2Proof.Machine.execVecGath c s
  | .vecScat c => Sys2Proof.Machine.execVecScat c s
  | .vecSort c => Sys2Proof.Machine.execVecSort c s
  | .vecNms c => Sys2Proof.Machine.execVecNms c s
  | .vecLoss c => Sys2Proof.Machine.execVecLoss c s
  | .vecL1flush c => Sys2Proof.Machine.execVecL1flush c s
  | .vecL1inv c => Sys2Proof.Machine.execVecL1inv c s
  | .vecAgset c => Sys2Proof.Machine.execVecAgset c s
  | .vecSrctx c => Sys2Proof.Machine.execVecSrctx c s
  | .vecOpt c => Sys2Proof.Machine.execVecOpt c s
  | .wrAgset c => Sys2Proof.Machine.execWrAgset c s
  | .wrRows c => Sys2Proof.Machine.execWrRows c s
  | .stashSpill c => Sys2Proof.Machine.execStashSpill c s
  | .stashSpillDone c => Sys2Proof.Machine.execStashSpillDone c s
  | .updHp c => Sys2Proof.Machine.execUpdHp c s
  | .updRun c => Sys2Proof.Machine.execUpdRun c s
  | .updNorm c => Sys2Proof.Machine.execUpdNorm c s
  | .exPut c lane => Sys2Proof.Machine.execExPut c lane s
  | .exHbind c lane => Sys2Proof.Machine.execExHbind c lane s
  | .exHfwd c lane => Sys2Proof.Machine.execExHfwd c lane s
  | .exMail c lane => Sys2Proof.Machine.execExMail c lane s
  | .exMrecv c lane => Sys2Proof.Machine.execExMrecv c lane s
  | .exFelt c lane => Sys2Proof.Machine.execExFelt c lane s
  | .exColl c lane => Sys2Proof.Machine.execExColl c lane s
  | .gconv c lane => Sys2Proof.Machine.execGconv c lane s
  | .putDelivery k => Sys2Proof.Machine.execPutDelivery k s
  | .handleDelivery k => Sys2Proof.Machine.execHandleDelivery k s
  | .exchAck k => Sys2Proof.Machine.execExchAck k s
  | .creditReturn k => Sys2Proof.Machine.execCreditReturn k s
  | .mailboxMessage k => Sys2Proof.Machine.execMailboxMessage k s
  | .mailboxRetry k => Sys2Proof.Machine.execMailboxRetry k s
  | .clusterRequest g port stamp err => Sys2Proof.Machine.execClusterRequest g port stamp err s
  | .l2MissFill g line => Sys2Proof.Machine.execL2MissFill g line s
  | .openNoticeReceive k => Sys2Proof.Machine.execOpenNoticeReceive k s
  | .closeReportReceive k => Sys2Proof.Machine.execCloseReportReceive k s
  | .deviceTotalsReceive dev t => Sys2Proof.Machine.execDeviceTotalsReceive dev t s
  | .verdictReceive v => Sys2Proof.Machine.execVerdictReceive v s
  | .pinWaitRelease c => Sys2Proof.Machine.execPinWaitRelease c s
  | .commitDone c => Sys2Proof.Machine.execCommitDone c s
  | .closeDeadline => Sys2Proof.Machine.execCloseDeadline s
  | .loadImage r img => Sys2Proof.Machine.execLoadImage r img s
  | .start r => Sys2Proof.Machine.execStart r s
  | .stop r => Sys2Proof.Machine.execStop r s
  | .preempt r => Sys2Proof.Machine.execPreempt r s
  | .resume r => Sys2Proof.Machine.execResume r s
  | .migrate r => Sys2Proof.Machine.execMigrate r s
  | .stage r list => Sys2Proof.Machine.execStage r list s
  | .check r => Sys2Proof.Machine.execCheck r s
  | .commit r => Sys2Proof.Machine.execCommit r s
  | .abort r => Sys2Proof.Machine.execAbort r s
  | .stepRepeat r => Sys2Proof.Machine.execStepRepeat r s
  | .attest r => Sys2Proof.Machine.execAttest r s
  | .fence r => Sys2Proof.Machine.execFence r s
  | .unfence r pass => Sys2Proof.Machine.execUnfence r pass s
  | .query r => Sys2Proof.Machine.execQuery r s
  | .sqTail r tail => Sys2Proof.Machine.execSqTail r tail s
  | .cqHead r head => Sys2Proof.Machine.execCqHead r head s
  | .relayedCommandReceive src ring cmd payload => Sys2Proof.Machine.execRelayedCommandReceive src ring cmd payload s
  | .relayResultReceive r dev status subst => Sys2Proof.Machine.execRelayResultReceive r dev status subst s
  | .relayTimeout r => Sys2Proof.Machine.execRelayTimeout r s
  | .islandFlip isl => Sys2Proof.Machine.execIslandFlip isl s
  | .flipComplete => Sys2Proof.Machine.execFlipComplete s
  | .flipTimeout => Sys2Proof.Machine.execFlipTimeout s
  | .prepareReceive src epoch => Sys2Proof.Machine.execPrepareReceive src epoch s
  | .voteReceive dev ok detail routes feat => Sys2Proof.Machine.execVoteReceive dev ok detail s routes feat
  | .groupCommitReceive src epoch feat => Sys2Proof.Machine.execGroupCommitReceive src epoch s feat
  | .groupAbortReceive src => Sys2Proof.Machine.execGroupAbortReceive src s
  | .twoPhaseTimeout => Sys2Proof.Machine.execTwoPhaseTimeout s
  | .externalInput pin level => Sys2Proof.Machine.execExternalInput pin level s
  | .irqSourceEvent src level => Sys2Proof.Machine.execIrqSourceEvent src level s
  | .claim cp => Sys2Proof.Machine.execClaim cp s
  | .eoi cp src => Sys2Proof.Machine.execEoi cp src s
  | .irqHeoi src => Sys2Proof.Machine.execIrqHeoi src s
  | .irqStormWindow => Sys2Proof.Machine.execIrqStormWindow s
  | .irqStatClear src storm stuck => Sys2Proof.Machine.execIrqStatClear src storm stuck s
  | .frameEdge n rising => Sys2Proof.Machine.execFrameEdge n rising s
  | .preemptRequest c => Sys2Proof.Machine.execPreemptRequest c s
  | .preemptBoundary c cyc => Sys2Proof.Machine.execPreemptBoundary c cyc s
  | .saveDone c stall lat => Sys2Proof.Machine.execSaveDone c stall lat s
  | .frameRunEnd n => Sys2Proof.Machine.execFrameRunEnd n s
  | .restoreDone c stall bad => Sys2Proof.Machine.execRestoreDone c stall bad s
  | .frameDeadline n => Sys2Proof.Machine.execFrameDeadline n s
  | .noAckTimeout p => Sys2Proof.Machine.execNoAckTimeout p s
  | .fenceListWrite => Sys2Proof.Machine.execFenceListWrite s
  | .flashSectorDone => Sys2Proof.Machine.execFlashSectorDone s
  | .flashDeferRetest mv => Sys2Proof.Machine.execFlashDeferRetest mv s
  | .rcmtGo c => Sys2Proof.Machine.execRcmtGo c s
  | .rcmtDone c => Sys2Proof.Machine.execRcmtDone c s
  | .migrationGranuleDone obj => Sys2Proof.Machine.execMigrationGranuleDone obj s
  | .codecBlockWrite obj blk ofs data => Sys2Proof.Machine.execCodecBlockWrite obj blk ofs data s
  | .codecBlockRead obj blk fail => Sys2Proof.Machine.execCodecBlockRead obj blk s fail
  | .patrolScrubPass ch ce ue => Sys2Proof.Machine.execPatrolScrubPass ch ce ue s
  | .portTraining port fail => Sys2Proof.Machine.execPortTraining port fail s
  | .hello port m => Sys2Proof.Machine.execHello port m s
  | .keyExchangeMessage port n authOk sealedOk => Sys2Proof.Machine.execKeyExchangeMessage port n authOk sealedOk s
  | .flitGroupReceive port gseq crcOk ackValid ack nak cret flits => Sys2Proof.Machine.execFlitGroupReceive port gseq crcOk ackValid ack nak cret flits s
  | .nakReceive port ack => Sys2Proof.Machine.execNakReceive port ack s
  | .replayTimeout port => Sys2Proof.Machine.execReplayTimeout port s
  | .laneErrorWindow port lane errs => Sys2Proof.Machine.execLaneErrorWindow port lane errs s
  | .portFailed port last => Sys2Proof.Machine.execPortFailed port last s
  | .ctlPacket port h tagOk m => Sys2Proof.Machine.execCtlPacket port h tagOk m s
  | .voilePacket port h tagOk tag data => Sys2Proof.Machine.execVoilePacket port h tagOk tag data s
  | .voileRemoteRetry k => Sys2Proof.Machine.execVoileRemoteRetry k s
  | .writePacket port h tagOk data => Sys2Proof.Machine.execWritePacket port h tagOk data s
  | .hdelivPacket port h tagOk data => Sys2Proof.Machine.execHdelivPacket port h tagOk data s
  | .readPacket port h tagOk len => Sys2Proof.Machine.execReadPacket port h tagOk len s
  | .rdrspPacket port h tagOk data => Sys2Proof.Machine.execRdrspPacket port h tagOk data s
  | .ackPacket port h tagOk => Sys2Proof.Machine.execAckPacket port h tagOk s
  | .collPacket port h tagOk ch blks bytes => Sys2Proof.Machine.execCollPacket port h tagOk ch blks bytes s
  | .lossNoticeReceive dev => Sys2Proof.Machine.execLossNoticeReceive dev s
  | .gapNotice g mseq => Sys2Proof.Machine.execGapNotice g mseq s
  | .pruneWaitExpiry g => Sys2Proof.Machine.execPruneWaitExpiry g s
  | .hxMcResend g mseq => Sys2Proof.Machine.execHxMcResend g mseq s
  | .resendRequest g dev mseq => Sys2Proof.Machine.execResendRequest g dev mseq s
  | .rejoin g => Sys2Proof.Machine.execRejoin g s
  | .rejoinRequest g dev => Sys2Proof.Machine.execRejoinRequest g dev s
  | .prunedClear g hi mask => Sys2Proof.Machine.execPrunedClear g hi mask s
  | .retrain port => Sys2Proof.Machine.execRetrain port s
  | .refclkSerLoss quad => Sys2Proof.Machine.execRefclkSerLoss quad s
  | .collInstanceStart cdesc => Sys2Proof.Machine.execCollInstanceStart cdesc s
  | .collBlockArrival k => Sys2Proof.Machine.execCollBlockArrival k s
  | .collInstanceEnd cdesc => Sys2Proof.Machine.execCollInstanceEnd cdesc s
  | .collDeadline cdesc => Sys2Proof.Machine.execCollDeadline cdesc s
  | .fallbackDeadline cdesc => Sys2Proof.Machine.execFallbackDeadline cdesc s
  | .abortColl => Sys2Proof.Machine.execAbortColl s
  | .normMessage k => Sys2Proof.Machine.execNormMessage k s
  | .powerLoopEval est => Sys2Proof.Machine.execPowerLoopEval est s
  | .avsWriteAck => Sys2Proof.Machine.execAvsWriteAck s
  | .frequencyChange => Sys2Proof.Machine.execFrequencyChange s
  | .pmbusPoll mv fault => Sys2Proof.Machine.execPmbusPoll mv fault s
  | .thermalSample temps rise fall => Sys2Proof.Machine.execThermalSample temps rise fall s
  | .thermAlert asserted => Sys2Proof.Machine.execThermAlert asserted s
  | .pwrfailN low => Sys2Proof.Machine.execPwrfailN low s
  | .pwrfailRecovery => Sys2Proof.Machine.execPwrfailRecovery s
  | .sysPwrok high => Sys2Proof.Machine.execSysPwrok high s
  | .memoryTrainingDone ddrCap => Sys2Proof.Machine.execMemoryTrainingDone ddrCap s
  | .sysRstN => Sys2Proof.Machine.execSysRstN s
  | .warmReset => Sys2Proof.Machine.execWarmReset s
  | .flr perst => Sys2Proof.Machine.execFlr perst s
  | .coreReset c => Sys2Proof.Machine.execCoreReset c s
  | .coreResetDone => Sys2Proof.Machine.execCoreResetDone s
  | .groupReset => Sys2Proof.Machine.execGroupReset s
  | .groupResetMessage src => Sys2Proof.Machine.execGroupResetMessage src s
  | .restart c => Sys2Proof.Machine.execRestart c s
  | .seqCtrlStop c => Sys2Proof.Machine.execSeqCtrlStop c s
  | .releaseWindow => Sys2Proof.Machine.execReleaseWindow s
  | .hostWindowRead ofs len => Sys2Proof.Machine.execHostWindowRead ofs len s
  | .hostWindowWrite ofs data => Sys2Proof.Machine.execHostWindowWrite ofs data s
  | .sealedPageWrite ofs b => Sys2Proof.Machine.execSealedPageWrite ofs b s
  | .sealedPageRead ofs len => Sys2Proof.Machine.execSealedPageRead ofs len s
  | .poolStatCapture c pool => Sys2Proof.Machine.execPoolStatCapture c pool s
  | .cpRun mask => Sys2Proof.Machine.execCpRun mask s
  | .cpWatchdog cp => Sys2Proof.Machine.execCpWatchdog cp s
  | .cpMemoryAccess cp addr len wr => Sys2Proof.Machine.execCpMemoryAccess cp addr len wr s
  | .engCntClr c e => Sys2Proof.Machine.execEngCntClr c e s
  | .drnCntClr c => Sys2Proof.Machine.execDrnCntClr c s
  | .seqCntClr c => Sys2Proof.Machine.execSeqCntClr c s
  | .tpCntClr c => Sys2Proof.Machine.execTpCntClr c s
  | .updCntClr c => Sys2Proof.Machine.execUpdCntClr c s
  | .smCntClr => Sys2Proof.Machine.execSmCntClr s
  | .strCntClr c => Sys2Proof.Machine.execStrCntClr c s
  | .l2CntClr c => Sys2Proof.Machine.execL2CntClr c s
  | .portCntClr port => Sys2Proof.Machine.execPortCntClr port s
  | .colCntClr => Sys2Proof.Machine.execColCntClr s
  | .cerrCntClr c => Sys2Proof.Machine.execCerrCntClr c s
  | .secCntClr => Sys2Proof.Machine.execSecCntClr s
  | .pwrCntClr => Sys2Proof.Machine.execPwrCntClr s
  | .registerWrite bar ofs width val => Sys2Proof.Machine.execRegisterWrite bar ofs width val s
  | .getVersion tr => Sys2Proof.Machine.execGetVersion tr s
  | .getCapabilities tr => Sys2Proof.Machine.execGetCapabilities tr s
  | .negotiateAlgorithms tr offer => Sys2Proof.Machine.execNegotiateAlgorithms tr offer s
  | .getDigests tr slot => Sys2Proof.Machine.execGetDigests tr slot s
  | .getCertificate tr slot ofs len => Sys2Proof.Machine.execGetCertificate tr slot ofs len s
  | .challenge tr slot nonce => Sys2Proof.Machine.execChallenge tr slot nonce s
  | .getMeasurements tr index nonce => Sys2Proof.Machine.execGetMeasurements tr index nonce s
  | .keyExchange tr data => Sys2Proof.Machine.execKeyExchange tr data s
  | .finish sess macOk => Sys2Proof.Machine.execFinish sess macOk s
  | .keyUpdate sess => Sys2Proof.Machine.execKeyUpdate sess s
  | .heartbeat sess => Sys2Proof.Machine.execHeartbeat sess s
  | .endSession sess => Sys2Proof.Machine.execEndSession sess s
  | .ideKm sess data => Sys2Proof.Machine.execIdeKm sess data s
  | .ownerClaim sess pk sig => Sys2Proof.Machine.execOwnerClaim sess pk sig s
  | .seal sess => Sys2Proof.Machine.execSeal sess s
  | .release sess => Sys2Proof.Machine.execRelease sess s
  | .ownerInfo sess => Sys2Proof.Machine.execOwnerInfo sess s
  | .scrubDone => Sys2Proof.Machine.execScrubDone s
  | .manifestWrite data => Sys2Proof.Machine.execManifestWrite data s
  | .arbCommit => Sys2Proof.Machine.execArbCommit s
  | .debugUnlock token => Sys2Proof.Machine.execDebugUnlock token s
  | .pldmFirmwareUpdate comp img => Sys2Proof.Machine.execPldmFirmwareUpdate comp img s
  | .pldmSensorRead sensor => Sys2Proof.Machine.execPldmSensorRead sensor s
  | .chipError what unit => Sys2Proof.Machine.execChipError what unit s
  | .pcieLinkEvent up => Sys2Proof.Machine.execPcieLinkEvent up s
  | .sessionFault sess => Sys2Proof.Machine.execSessionFault sess s
  | .mctpControlMessage bus code addr => Sys2Proof.Machine.execMctpControlMessage bus code addr s
  | .dynamicAddressAssignment addr => Sys2Proof.Machine.execDynamicAddressAssignment addr s
  | .jtagInstruction ir dr => Sys2Proof.Machine.execJtagInstruction ir dr s

end Sys2Proof.Machine
end

