-- ==== Sys2Proof/Safety.lean ====
section
/-! DEFINITION. The terms that statements are made in: the canonical form of the memories, when a core, an island, a port or a
ring answers a command, and what a stop may change at most. -/

namespace Sys2Proof.Machine

/-- Every memory of the device is in its canonical form. -/
def State.MemWf (s : State) : Prop :=
  Memory.wf s.t0 = true ∧ Memory.wf s.slice = true ∧ Memory.wf s.tier = true ∧ Memory.wf s.flash = true ∧ Memory.wf s.bar2 = true
    ∧ Memory.wf s.sram = true

/-- Island `isl` runs its commands with the settings in force: the device has its clocks, and no flip has reached the island (R416). -/
def State.Settled (s : State) (isl : Nat) : Prop := s.powered = true ∧ (s.flip.any fun f => f.flipped.contains isl) = false

/-- Physical core p carries logical core l and answers its commands: it works, is not in reset (R473), and its island is settled. -/
def State.Answers (s : State) (l p : Nat) : Prop := s.phys l = some p ∧ s.inReset p = false ∧ s.Settled p

/-- SEQ word `w` of operation `op` is in hand on core p and its wait is met (R136, R148, R155); `k` is the core with the barrier's TARGET
advanced. -/
def State.SeqReady (s : State) (l p op : Nat) (w : CWord) (k : Core) : Prop :=
  s.Answers l p ∧ (s.core p).seq.cur.map SeqCur.word = some w ∧ wOp w = op ∧ (s.core p).active = true ∧ (s.core p).preOk = true
    ∧ (s.core p).seqWait w = .ready k

/-- Word i of queue q of core p is `e`, of operation `op`, started and not finished, and the core's units work (R135, R148). -/
def State.WordAt (s : State) (l p q op i : Nat) (e : Cqe) : Prop :=
  s.Answers l p ∧ ((s.core p).words q)[i]? = some e ∧ (s.core p).working = true ∧ e.started = true ∧ e.fin = false ∧ wOp e.word = op

/-- The word that the unit of queue q of core p is at is word i, `e`, of operation `op`, and the core's units work. -/
def State.CurAt (s : State) (l p q op i : Nat) (e : Cqe) : Prop :=
  s.Answers l p ∧ (s.core p).curAt q = some (i, e) ∧ (s.core p).working = true ∧ wOp e.word = op

/-- Word i of queue q of core p has made all its effects. -/
def State.Finished (s : State) (p q i : Nat) : Prop := (((s.core p).words q)[i]?.any Cqe.fin) = true

/-- The state after a SEQ word that makes core p into `c`: its signal is issued, and a core reset that waited may begin (R136, R150, R473). -/
def State.afterSeq (s : State) (p : Nat) (w : CWord) (k c : Core) : State := ((s.setCore p c).wordSignal p w (k.seqHalt 0 0)).rstBegin

/-- Two states differ in the interrupt controller and in what was sent out at most. -/
def State.IrqOnly (s t : State) : Prop := t = { s with irq := t.irq, msixPba := t.msixPba, out := t.out, deliv := t.deliv }

/-- Two states differ at most in what reading an object changes: counters, error bits, and the interrupt controller (R311, R312). -/
def State.ReadOnly (s t : State) : Prop :=
  t = { s with cnt := t.cnt, regs := t.regs, irq := t.irq, msixPba := t.msixPba, out := t.out, deliv := t.deliv }

/-- Two states differ at most in what writing an object changes: slices and tiers with their poison, counters, error bits, and the interrupt
controller (R255, R296, R311, R312). -/
def State.WriteOnly (s t : State) : Prop :=
  (t = { s with slice := t.slice, slicePz := t.slicePz, tier := t.tier, tierPz := t.tierPz, cores := t.cores, cnt := t.cnt, regs := t.regs,
                irq := t.irq, msixPba := t.msixPba, out := t.out, deliv := t.deliv })
    ∧ ∀ q, t.core q = { s.core q with cnt := (t.core q).cnt }

/-- Two cores differ at most in what a halt, a freeze, a stop or an abandoned preemption writes; of the counters, only SEQ_HALT_MULTI (R180). -/
def Core.StopOnly (c d : Core) : Prop :=
  (d = { c with
    pre := d.pre
    cnt := d.cnt
    engA := { c.engA with act := d.engA.act, stopReq := d.engA.stopReq }
    engB := { c.engB with act := d.engB.act, stopReq := d.engB.stopReq }
    seq := { c.seq with state := d.seq.state, stopping := d.seq.stopping, halt := d.seq.halt, frz := d.seq.frz, cur := d.seq.cur
                        haltUnits := d.seq.haltUnits, haltOld := d.seq.haltOld } })
    ∧ ∀ o, o ≠ cHaltMulti → d.count o = c.count o

/-- Two states differ at most in what halting cores writes: their stop state, frame runs, FRAME_CAUSE, and the interrupt controller. -/
def State.StopOnly (s t : State) : Prop :=
  (t = { s with cores := t.cores, frames := t.frames, regs := t.regs, irq := t.irq, msixPba := t.msixPba, out := t.out, deliv := t.deliv })
    ∧ ∀ q, (s.core q).StopOnly (t.core q)

/-- A packet of type `typ` with header `h` that comes by port p is for this device and passes every test of the port (R326, R327, R330, R343,
R344). -/
def State.Takes (s : State) (p typ : Nat) (h : PktHdr) : Prop :=
  s.Settled (s.portIsland p) ∧ (s.port p).isUp = true ∧ s.badPkt p typ h = false ∧ h.dstDev = s.devId ∧ h.dstDev ≠ 0xFF ∧ h.mc = false
    ∧ (h.vc = 0 ∨ (s.newerEpoch h = false ∧ s.lost = false ∧ (s.port p).frozen.contains h.srcDev = false ∧ s.memberTest p h = none))

/-- The host's command `c` of opcode `opc` is at the head of ring r, may start, is not relayed, passes the checks that every command meets, and
the completion queue has room (R394 to R399). -/
def State.HostCmd (s : State) (r opc : Nat) (c : BitVec 512) : Prop :=
  s.powered = true ∧ r < 17 ∧ s.ringHead r = some { cmd := c } ∧ cmdOpc c = opc ∧ s.cmdWaits c = false ∧ s.precheck r c = none
    ∧ cmdRelay c = false ∧ (s.ring r).cqUsed < s.cqSize r

/-- The host's command `c` of opcode `opc` has started on ring r and runs on this device alone. -/
def State.Running (s : State) (r opc : Nat) (c : BitVec 512) : Prop :=
  s.powered = true ∧ r < 17 ∧ s.ringHead r = some { cmd := c, started := true } ∧ cmdOpc c = opc ∧ (s.ring r).relay = none ∧ s.twopc = none
    ∧ (s.ring r).cqUsed < s.cqSize r

/-- The completion `k` of command `c` of ring r has been written to the host's completion queue (R394, R397). -/
def State.Completes (s t : State) (r : Nat) (c : BitVec 512) (k : Compl) : Prop :=
  OutEvent.hostWrite (s.cqBase r + 16 * (s.ring r).cqTail) (k.entry (cmdCid c) (((s.ring r).sqHead + 1) % s.sqSize r) (s.ring r).phase) ∈ t.out

/-- The command of ring r has started and goes on. -/
def State.GoesOn (t : State) (r : Nat) (c : BitVec 512) : Prop := (t.ring r).job = some { cmd := c, started := true }

end Sys2Proof.Machine
end

