-- ==== Sys2Proof/Certificates/Slice0/Obligations.lean ====
section
/-! DEFINITION. The statements about the block. -/

open Sys2Proof Sys2Proof.Machine

/-- R159, R152, R161, R163: the SEQ words whose effect is on the sequencer alone. -/
def Obligations.SeqWordsCompute : Prop :=
  (∀ (s : State) (c p : Nat) (w : CWord) (k : Core), s.SeqReady c p 0x0 w k →
    exec (.nop c) s = .next (s.afterSeq p w k (k.seqDone none)))
  ∧ (∀ (s : State) (c p : Nat) (w : CWord) (k : Core), s.SeqReady c p 0x2 w k →
    exec (.barSet c) s = .next (s.afterSeq p w k (({ k with seq := { k.seq with bars := aset k.seq.bars (wbits w 67 5) { count := wbits w 51 16, target := wbits w 35 16, adv := wbits w 27 8, owner := wbits w 23 4 } } } : Core).seqDone none)))
  ∧ (∀ (s : State) (c p : Nat) (w : CWord) (k : Core), s.SeqReady c p 0x4 w k → (∀ q l, (q, l) ∈ k.cq → l = []) →
    exec (.sync c) s = .next (s.afterSeq p w k (k.seqDone none)))
  ∧ (∀ (s : State) (c p : Nat) (w : CWord) (k : Core) (n v : Nat), s.SeqReady c p 0x8 w k → wbits w 69 3 = n → wbits w 45 24 = v →
    ∃ f : BitVec 32, f = (if k.seq.loops.any (fun l => l.src = some n) then k.seq.flags ||| 1 else k.seq.flags)
      ∧ exec (.lcSet c) s = .next (s.afterSeq p w k (({ k with seq := { k.seq with lc := k.seq.lc.set n v, flags := f } } : Core).seqDone none)))
  ∧ (∀ (s : State) (c p : Nat) (w : CWord) (k : Core) (n : Nat) (x v : Int), s.SeqReady c p 0x9 w k → wbits w 69 3 = n →
    x = ((k.seq.lc.getD n 0 : Nat) : Int) + signedOf 24 (wbits w 45 24) → v = (if x < 0 then 0 else if 16777215 < x then 16777215 else x) →
    ∃ f : BitVec 32, f = (if k.seq.loops.any (fun l => l.src = some n) then k.seq.flags ||| 1 else k.seq.flags)
      ∧ exec (.lcAdd c) s = .next (s.afterSeq p w k (({ k with seq := { k.seq with lc := k.seq.lc.set n v.toNat, flags := f } } : Core).seqDone none)))
  ∧ (∀ (s : State) (c p : Nat) (w : CWord) (k : Core), s.SeqReady c p 0xB w k →
    exec (.flagClr c) s = .next (s.afterSeq p w k (({ k with seq := { k.seq with
      flags := k.seq.flags &&& ~~~(0x861 &&& BitVec.ofNat 32 (wbits w 0 32)) } } : Core).seqDone none)))
  ∧ (∀ (s : State) (c p : Nat) (w : CWord) (k : Core), s.SeqReady c p 0x10 w k →
    exec (.endWord c) s = .next (s.afterSeq p w k (({ k with seq := { k.seq with ending := true } } : Core).seqDone none)))

/-- R151, R159, R160, R161, R162, R164: the SEQ words that signal, branch, loop, bind and pop. -/
def Obligations.SeqControlFlow : Prop :=
  (∀ (s : State) (c p b n : Nat) (w : CWord) (k : Core), s.SeqReady c p 0x3 w k → wbits w 67 5 = b → wbits w 59 8 = n →
    ¬((k.bar b).dist < 32768 ∧ 32768 ≤ (k.bar b).dist + n) →
    exec (.barSig c) s = .next (s.afterSeq p w k (({ k with seq := { k.seq with bars := aset k.seq.bars b { k.bar b with count := ((k.bar b).count + n) % 65536 } } } : Core).seqDone none)))
  ∧ (∀ (s : State) (c p n endA : Nat) (w : CWord) (k : Core), s.SeqReady c p 0x5 w k →
    n = (if wbit w 71 then k.seq.lc.getD (wbits w 68 3) 0 else wbits w 44 24) → endA = (k.seq.pc + wbits w 20 24) % 2 ^ 48 →
    k.seq.loops.length < 4 → k.seq.pc ≤ endA → (∀ l ∈ k.seq.loops.getLast?, endA ≤ l.endA) → 0 < n →
    exec (.loop c) s = .next (s.afterSeq p w k (({ k with seq := { k.seq with
      loops := k.seq.loops ++ [{ body := (k.seq.pc + 1) % 2 ^ 48, endA := endA, remain := n, idx := 0,
                                 src := if wbit w 71 then some (wbits w 68 3) else none }]
      pc := (k.seq.pc + 1) % 2 ^ 48, seqno := (k.seq.seqno + 1) % 65536, cur := none } } : Core).bump 0x1300 1)))
  ∧ (∀ (s : State) (c p endA : Nat) (w : CWord) (k : Core), s.SeqReady c p 0x5 w k →
    0 = (if wbit w 71 then k.seq.lc.getD (wbits w 68 3) 0 else wbits w 44 24) → endA = (k.seq.pc + wbits w 20 24) % 2 ^ 48 →
    k.seq.loops.length < 4 → k.seq.pc ≤ endA → (∀ l ∈ k.seq.loops.getLast?, endA ≤ l.endA) →
    ∃ a : Nat, a = s.afterEnd p endA (wbits w 20 24 + 1) (k.seq.pc + 1) % 2 ^ 48
      ∧ exec (.loop c) s = .next (s.afterSeq p w k ((({ k with seq := { k.seq with
          pc := a, seqno := (k.seq.seqno + 1) % 65536, cur := none } } : Core).bump 0x1300 1).bump 0x1314 1)))
  ∧ (∀ (s : State) (c p a : Nat) (w : CWord) (k : Core), s.SeqReady c p 0x6 w k →
    (a : Int) = ((k.seq.pc : Int) + signedOf 24 (wbits w 48 24)) % 2 ^ 48 →
    exec (.br c) s = .next (s.afterSeq p w k (k.seqDone (some a))))
  ∧ (∀ (s : State) (c p a : Nat) (w : CWord) (k : Core), s.SeqReady c p 0x7 w k →
    (a : Int) = ((k.seq.pc : Int) + signedOf 24 (wbits w 39 24)) % 2 ^ 48 →
    exec (.brc c) s = .next (s.afterSeq p w k (k.seqDone (if k.brcHolds w then some a else none))))
  ∧ (∀ (s : State) (c p q : Nat) (w : CWord) (k : Core), s.SeqReady c p 0x1 w k → wbits w 66 4 = q → wbit w 70 = false →
    (∀ e ∈ k.allWords, q ∉ dqNames e.word) → (k.dataQ q).ents = [] →
    exec (.qBind c) s = .next (s.afterSeq p w k (({ k with dq := aset k.dq q { bind := if wbit w 71 then none else some (wbits w 62 4, wbits w 58 4) } } : Core).seqDone none)))
  ∧ (∀ (s : State) (c p q : Nat) (w : CWord) (k : Core), s.SeqReady c p 0x1 w k → wbits w 66 4 = q → wbit w 70 = true →
    (∀ e ∈ k.allWords, q ∉ k.hqNames e) → (k.handleQ q).ents = [] → (k.handleQ q).recv = none →
    exec (.qBind c) s = .next (s.afterSeq p w k (({ k with hq := aset k.hq q { bind := if wbit w 71 then none else some (wbits w 62 4, wbits w 58 4), early := (k.handleQ q).early } } : Core).seqDone none)))
  ∧ (∀ (s : State) (c p q src : Nat) (w : CWord) (k : Core) (e : DqEnt) (l : List DqEnt), s.SeqReady c p 0xA w k → wIna w = q →
    (k.dataQ q).bind = some (src, 0) → (k.dataQ q).ents = e :: l → k.seq.mode = false → e.poison = false →
    exec (.lcPop c) s = .next (s.afterSeq p w k
      (((({ k with dq := aset k.dq q { k.dataQ q with ents := l } } : Core)).setLc (wbits w 69 3)
        (min 16777215 (e.data.toNat % 2 ^ 32))).seqDone none)))

/-- R165, R244, R166: the words that open and close a step. -/
def Obligations.StepsOpenAndClose : Prop :=
  (∀ (s : State) (c p n : Nat) (w : CWord) (k : Core), s.SeqReady c p 0xC w k → k.pre.frame = none → (∀ q l, (q, l) ∈ k.cq → l = []) →
    k.seq.open_ = false →
    n = (if k.seq.repeating then k.seq.step else if wbit w 71 then (k.seq.step + 1) % 2 ^ 32 else k.seq.stepNum) →
    ∃ (k' : Core) (a : Nat), a = (if k.seq.repeating then k.seq.attempt + 1 else 0)
      ∧ exec (.stepOpen c) s
          = .next (((s.setCore p (k'.seqDone none)).send (.openNotice p c n a k.seq.seqno)).wordSignal p w (k.seqHalt 0 0)).rstBegin
      ∧ k'.seq.open_ = true ∧ k'.seq.step = n ∧ k'.seq.attempt = a ∧ k'.seq.repeating = false
      ∧ k'.seq.seed = (if k.seq.repeating then k.seq.seed else (aget 0 s.regs 0x44).setWidth 64 <<< 32 ||| (aget 0 s.regs 0x40).setWidth 64)
      ∧ k'.seq.updRne = (if k.seq.repeating then k.seq.updRne else (aget 0 s.regs 0x48).getLsbD 0 && !s.sealed_)
      ∧ k'.seq.repeatRec = some { loops := k.seq.loops, lc := k.seq.lc, bars := k.seq.bars, stashNum := k.stash.next }
      ∧ k'.count 0x2258 = 0 ∧ k'.count 0x225C = 0 ∧ k'.count 0x250C = 0 ∧ k'.upd.stg = 0 ∧ k'.upd.lossSum = 0
      ∧ k'.seq.flags.getLsbD 3 = false ∧ k'.seq.flags.getLsbD 4 = false ∧ k'.seq.flags.getLsbD 10 = k.seq.repeating
      ∧ k'.seq.lc = k.seq.lc ∧ k'.seq.bars = k.seq.bars ∧ k'.seq.loops = k.seq.loops ∧ k'.dq = k.dq ∧ k'.hq = k.hq)
  ∧ (∀ (s : State) (c p : Nat) (u : SeqCur) (k : Core), s.Answers c p → (s.core p).active = true → (s.core p).preOk = true →
    (s.core p).seq.cur = some u → wOp u.word = 0xD → u.sent = false → (s.core p).seqWait u.word = .ready k →
    (s.core p).seq.open_ = true → (s.core p).pre.frame = none → (∀ q l, (q, l) ∈ (s.core p).cq → l = []) →
    ∃ (t : State) (r : CloseReport), exec (.stepClose c) s = .next t ∧ t.mesh = s.mesh ++ [.closeReport p r]
      ∧ r.core = c ∧ r.step = (s.core p).seq.step ∧ r.attempt = (s.core p).seq.attempt ∧ r.updNf = (s.core p).count 0x250C
      ∧ r.lossSum = (s.core p).upd.lossSum ∧ r.lossCount = (s.core p).upd.lossCount
      ∧ (t.core p).seq.cur = some { u with sent := true } ∧ (t.core p).seq.open_ = true)
  ∧ (∀ (s : State) (c p o : Nat) (u : SeqCur), s.Answers c p → (s.core p).active = true → (s.core p).preOk = true →
    (s.core p).seq.cur = some u → wOp u.word = 0xD → u.sent = true → u.outcome = some o →
    ∃ t, exec (.stepClose c) s = .next t ∧ (t.core p).seq.open_ = false ∧ (t.core p).seq.repeatRec = none ∧ (t.core p).seq.cur = none
      ∧ (t.core p).seq.flags.getLsbD 9 = decide (o = 2) ∧ (t.core p).seq.seqno = ((s.core p).seq.seqno + 1) % 65536)

/-- R159, R168, R171, R173, R174: how a core's program ends, stops and restarts. -/
def Obligations.CoreEndsItsProgram : Prop :=
  (∀ (s : State) (c p : Nat) (w : CWord) (k : Core), s.SeqReady c p 0xE w k →
    exec (.irq c) s = .next ((((s.setCore p (({ k with seq := { k.seq with swirq := true } } : Core).seqDone none)).irqCore p).wordSignal p w
      (k.seqHalt 0 0)).rstBegin))
  ∧ (∀ (s : State) (c p : Nat) (w : CWord) (k : Core), s.SeqReady c p 0xF w k →
    ∃ t, exec (.brk c) s = .next t.rstBegin ∧ s.StopOnly t
      ∧ (t.core p).seq = { (s.core p).seq with
          state := .halted, stopping := false, cur := none, haltUnits := [0], haltOld := (s.core p).seq.halt
          halt := { pc := (s.core p).seq.pc, unit := 0, reason := 0x10, seqno := (s.core p).seq.seqno, info := wbits w 56 16 } })
  ∧ (∀ (s : State) (c p : Nat), s.Answers c p → (s.core p).active = true → (s.core p).preOk = true → (s.core p).seq.wdog ≠ 0 →
    (s.core p).awaitsToken 0 = false → (s.core p).awaitsToken 1 = false →
    ∃ t, exec (.watchdog c) s = .next t.rstBegin ∧ s.StopOnly t
      ∧ (t.core p).seq = { (s.core p).seq with
          state := .halted, stopping := false, cur := none, haltUnits := [0], haltOld := (s.core p).seq.halt
          halt := { pc := (s.core p).seq.pc, unit := 0, reason := 0x0F, seqno := 0, info := (s.core p).waitingUnits } })
  ∧ (∀ (s : State) (c p : Nat), s.Answers c p → (s.core p).active = true → (s.core p).preOk = true → (s.core p).seq.ending = true →
    (∀ q l, (q, l) ∈ (s.core p).cq → l = []) → (s.core p).drn.cur = none →
    ∃ t, exec (.coreDone c) s = .next t ∧ (t.core p).seq = { (s.core p).seq with state := .done, stopping := false }
      ∧ t.out.getLast? = some (.coreDone c))
  ∧ (∀ (s : State) (c p : Nat), s.Answers c p → (s.core p).active = true →
    ∃ t, exec (.seqCtrlStop c) s = .next t
      ∧ ((s.core p).synced = true → (s.core p).seq.cur = none → (t.core p).seq.state = .stopped ∧ (t.core p).seq.stopping = false)
      ∧ ((s.core p).synced = false → (t.core p).seq.state = .running ∧ (t.core p).seq.stopping = true)
      ∧ (∀ q, q ≠ p → t.core q = s.core q) ∧ (t.core p).cq = (s.core p).cq)
  ∧ (∀ (s : State) (c p : Nat), s.Answers c p →
    ((s.core p).seq.state = .stopped ∨ (s.core p).seq.state = .halted ∨ (s.core p).seq.state = .done) → (s.core p).inCommit = false → s.sec.recovery = false →
    ∃ t, exec (.restart c) s = .next t ∧ (t.core p).seq.state = .running ∧ (t.core p).seq.pc = (s.core p).seq.start
      ∧ (t.core p).seq.bars = [] ∧ (t.core p).seq.loops = [] ∧ (t.core p).seq.cur = none ∧ (t.core p).seq.open_ = false
      ∧ (t.core p).seq.lc = (s.core p).seq.lc ∧ (t.core p).cq = [] ∧ (t.core p).pins = [] ∧ (t.core p).upd.phase = .idle
      ∧ (∀ q, ((t.core p).dataQ q).ents = [] ∧ ((t.core p).dataQ q).bind = ((s.core p).dataQ q).bind)
      ∧ (∀ q, q ≠ p → t.core q = s.core q) ∧ t.t0 = s.t0 ∧ t.slice = s.slice ∧ t.tier = s.tier)

/-- R136, R138, R141, R148, R150: how words are fetched, dispatched, started and completed. -/
def Obligations.WordsIssue : Prop :=
  (∀ (s : State) (c p : Nat) (w v : CWord), s.Answers c p → (s.core p).canDispatch = true → (s.core p).tokFull = false →
    (s.core p).fetchAt (s.core p).seq.pc = .word w → checkWord w (s.core p).seq.mode (s.collNorm w) = none → v = CWord.seen w → wUnit v = 0 →
    ∃ t, exec (.dispatch c) s = .next t ∧ (t.core p).seq.cur = some { word := v, pc := (s.core p).seq.pc }
      ∧ (t.core p).seq.pc = (s.core p).seq.pc ∧ (t.core p).cq = (s.core p).cq)
  ∧ (∀ (s : State) (c p il : Nat) (w v : CWord), s.Answers c p → (s.core p).canDispatch = true → (s.core p).tokFull = false →
    (s.core p).fetchAt (s.core p).seq.pc = .word w → checkWord w (s.core p).seq.mode (s.collNorm w) = none → v = CWord.seen w → wUnit v ≠ 0 →
    (∀ q ∈ queuesOf v, (s.core p).occ q + wWidth v ≤ cqDepth q) →
    ((ilevOf v < 4 ∧ il = 0) ∨ (4 ≤ ilevOf v ∧ ∃ l, (s.core p).seq.loops[ilevOf v - 4]? = some l ∧ il = l.idx)) →
    ∃ t, exec (.dispatch c) s = .next t
      ∧ (∀ q ∈ queuesOf v, (t.core p).words q
          = (s.core p).words q ++ [{ word := v, seqno := (s.core p).seq.seqno, pc := (s.core p).seq.pc, ilev := il }])
      ∧ (∀ q, q ∉ queuesOf v → (t.core p).words q = (s.core p).words q)
      ∧ (t.core p).seq.seqno = ((s.core p).seq.seqno + 1) % 65536
      ∧ (t.core p).seq.pc = (loopNext (s.core p).seq.loops.reverse (s.core p).seq.pc (wWidth v)).2 % 2 ^ 48)
  ∧ (∀ (s s1 : State) (c p line o ofs : Nat) (f : FetchFill), s.Answers c p → (s.core p).seq.fills.find? (fun f => f.line = line) = some f →
    f.segs = 0 → s1 = s.modCore p (fun k => k.modSeq fun q => { q with fills := q.fills.filter fun g => g.line ≠ line }) →
    s1.checkAddr (.core c) false true (line * 512) 512 = .ok (o, ofs) → (∀ b ∈ (s1.coreRead p o ofs 512).1, b.2 = false) →
    ∃ t, exec (.fetchFill c line) s = .next t
      ∧ (t.core p).fetchLine line = some { line := line, bytes := (s1.coreRead p o ofs 512).1.map Prod.fst, poison := false }
      ∧ (∀ g ∈ (t.core p).seq.fills, g.line ≠ line))
  ∧ (∀ (s s' : State) (c p q i : Nat) (e e' : Cqe) (k : Core), s.Answers c p → (s.core p).active = true → (s.core p).preOk = true →
    (s.core p).nextAt q = some (i, e) → (s.core p).wordWait q e = .ready k → (s.core p).tokHeads e = .ok →
    s.unitStart p q e = .go s' e' →
    ∃ t, exec (.wordStart c q) s = .next t ∧ (t.core p).words q = ((s'.core p).words q).set i { e' with started := true }
      ∧ (t.core p).seq.bars = k.seq.bars)
  ∧ (∀ (s : State) (c p q : Nat) (e : Cqe) (l : List Cqe), s.Answers c p → (s.core p).working = true →
    (s.core p).words q = e :: l → e.fin = true → isFence e.word = false →
    ∃ t, exec (.wordComplete c q) s = .next t ∧ (t.core p).words q = l ∧ (t.core p).seq.live = (s.core p).seq.live.erase e.seqno
      ∧ (∀ r, r ≠ q → (t.core p).words r = (s.core p).words r))

/-- R189, R270 to R277: the words of the stream unit. -/
def Obligations.StreamWordsMove : Prop :=
  (∀ (s : State) (c p i sp a r : Nat) (e : Cqe), s.WordAt c p 1 1 i e → wbits e.word 66 1 = sp → wbits e.word 49 17 * 64 = a →
    wbits e.word 67 5 = r → a + 64 ≤ spaceSize sp → (∀ b ∈ s.localGran p sp a 64, b.2 = false) →
    ∃ t, exec (.strLdd c i) s = .next t ∧ t.Finished p 1 i
      ∧ aget 0 (t.core p).sd r = BitVec.ofNat 512 (numOf ((s.localGran p sp a 64).map Prod.fst))
      ∧ (∀ x, x ≠ r → aget 0 (t.core p).sd x = aget 0 (s.core p).sd x) ∧ t.t0 = s.t0 ∧ t.slice = s.slice ∧ t.tier = s.tier)
  ∧ (∀ (s : State) (c p i : Nat) (e : Cqe) (d : BitVec 512) (sx dx : StrSide × Nat), s.WordAt c p 1 2 i e → e.n = 0 → d = e.desc →
    dScales d = 0 → sx = (s.core p).srcSide d e.hnd → dx = (s.core p).dstSide d e.out → sx.1.record = none →
    damaskBad d (sideOffsets d (dDstPat d) dx.2 e.ilev) dx.1.base = false →
    (∀ o ∈ sideOffsets d (!dDstPat d) sx.2 e.ilev, s.sideCheck p false sx.1 o (dUnit d) = none) →
    (∀ o ∈ sideOffsets d (dDstPat d) dx.2 e.ilev, s.sideCheck p true dx.1 o (dUnit d) = none) →
    ∃ (t : State) (l : List DmaSeg), exec (.strCopy c i) s = .next t ∧ (t.core p).dmaQ = (s.core p).dmaQ ++ l
      ∧ ((t.core p).words 1)[i]?.map (fun x => (x.n, x.segs)) = some (1, l.length) ∧ t.t0 = s.t0 ∧ t.slice = s.slice ∧ t.tier = s.tier)
  ∧ (∀ (s : State) (c p i u : Nat) (e : Cqe) (d : BitVec 512) (sx dx : StrSide × Nat) (r : List PByte × State), s.WordAt c p 1 2 i e →
    e.n = 1 → e.segs = 0 → e.wgen = none → (s.core p).moveAhead i e = false → d = e.desc → u = dUnit d → dScales d = 0 → dCodec d = 0 →
    sx = (s.core p).srcSide d e.hnd → dx = (s.core p).dstSide d e.out → sx.1.record = none →
    ((localSpace dx.1.obj).isSome = true ∨ (s.objEnt dx.1.obj).muslin = false) →
    r = s.copyRead p d sx.1 (natOffs (sideOffsets d (!dDstPat d) sx.2 e.ilev)) u → dUnits d ≤ cleanUnits r.1 u →
    ∃ t t', exec (.strCopy c i) s = .next t ∧ t.Finished p 1 i
      ∧ t' = r.2.copyWrite p d (dDdamask d) dx.1 ((natOffs (sideOffsets d (dDstPat d) dx.2 e.ilev)).take (dUnits d)) u (r.1.take (dUnits d * u))
      ∧ t.t0 = t'.t0 ∧ t.slice = t'.slice ∧ t.tier = t'.tier)
  ∧ (∀ (s : State) (c p i : Nat) (e : Cqe), s.WordAt c p 1 2 i e → e.n = 2 → e.segs = 0 →
    ∃ t, exec (.strCopy c i) s = .next t ∧ t.Finished p 1 i ∧ t.t0 = s.t0 ∧ t.slice = s.slice ∧ t.tier = s.tier)
  ∧ (∀ (s : State) (c p i q ep : Nat) (e : Cqe), s.WordAt c p 1 3 i e → wbits e.word 69 3 = q → wbits e.word 61 8 = ep →
    ∃ t, exec (.strCancel c i) s = .next t ∧ t.Finished p 1 i
      ∧ ((t.core p).handleQ q).ents = ((s.core p).handleQ q).ents.filter (fun h => !(epochOld ep h.epoch && !h.poison))
      ∧ (∀ j y, j < i → ((s.core p).words 1)[j]? = some y → y.started = true → wOp y.word = 2 → y.out.isSome = true → y.vals.getD 0 8 = q →
          epochOld ep (wbits y.word 52 8) = true → (((t.core p).words 1)[j]?.any Cqe.cancelled) = true)
      ∧ t.t0 = s.t0 ∧ t.slice = s.slice ∧ t.tier = s.tier)

/-- R227, R228, R230: pins. R279, R280: DMA tags. R224: spilling. -/
def Obligations.PinsAndSegments : Prop :=
  (∀ (s : State) (c p i o v : Nat) (e : Cqe), s.WordAt c p 1 6 i e → wbits e.word 56 16 = o → wbits e.word 40 16 = v →
    (s.objEnt o).version = v → (s.core p).pinOf o = none → (s.core p).pins.length < 8 →
    ∃ t, exec (.strPin c i) s = .next t ∧ t.Finished p 1 i
      ∧ (t.core p).pins = (s.core p).pins ++ [{ obj := o, ver := v, cnt := 1, stepPin := true, stepCnt := 1 }]
      ∧ (t.objEnt o).pincnt = (s.objEnt o).pincnt + 1)
  ∧ (∀ (s : State) (c p i o v : Nat) (e : Cqe) (x : PinEnt), s.WordAt c p 1 6 i e → wbits e.word 56 16 = o → wbits e.word 40 16 = v →
    (s.objEnt o).version = v → (s.core p).pinOf o = some x → x.ver = v → x.cnt < 255 →
    ∃ t, exec (.strPin c i) s = .next t ∧ t.Finished p 1 i
      ∧ (t.core p).pinOf o = some { x with cnt := x.cnt + 1, stepPin := true, stepCnt := x.stepCnt + 1 }
      ∧ (t.objEnt o).pincnt = (s.objEnt o).pincnt + 1)
  ∧ (∀ (s : State) (c p i o v : Nat) (e : Cqe) (x : PinEnt), s.WordAt c p 1 7 i e → wbits e.word 56 16 = o → wbits e.word 40 16 = v →
    (s.core p).pinOf o = some x → x.ver = v → 1 < x.cnt → (s.objEnt o).version = v →
    ∃ t, exec (.strUnpin c i) s = .next t ∧ t.Finished p 1 i
      ∧ ((t.core p).pinOf o).map PinEnt.cnt = some (x.cnt - 1) ∧ (t.objEnt o).pincnt = (s.objEnt o).pincnt - 1)
  ∧ (∀ (s : State) (c p ch i n : Nat) (g : DmaSeg), s.Answers c p → (s.core p).working = true → (s.core p).nextSeg ch = some (i, g) →
    ((s.core p).tags.filter fun x => x.2.ch = ch).length < (s.core p).dmaQuota → (s.core p).freeTag = some n →
    (s.objEnt g.obj).coded = false → s.check (.core c) g.write false g.obj (g.addr - (s.objEnt g.obj).start) 1 = none →
    ∃ t, exec (.dmaSegmentIssue c ch) s = .next t ∧ afind (t.core p).tags n = some g ∧ (t.core p).dmaQ = (s.core p).dmaQ.eraseIdx i)
  ∧ (∀ (s : State) (c p tag : Nat) (ce ue : Bool) (g : DmaSeg), s.Answers c p → afind (s.core p).tags tag = some g →
    ∃ t, exec (.dmaSegmentDone c tag ce ue) s = .next t ∧ afind (t.core p).tags tag = none
      ∧ (∀ n, g.owner = .stream n → (∀ x ∈ (s.core p).dropH, x.1 ≠ n) →
          (t.core p).words 1 = ((s.core p).words 1).map fun e => if e.started && e.seqno = n then { e with segs := e.segs - 1 } else e))
  ∧ (∀ (s : State) (c p num f : Nat) (bl : List Nat), s.Answers c p → (s.core p).stashEn = true →
    (s.core p).stashHwm < (s.core p).stash.inuse → (s.core p).stash.spilling = false → (s.core p).canSpill = true →
    (s.core p).spillNext = some (num, f) → bl = s.freeT3 (s.core p) (s.core p).recBlocks → bl.length = (s.core p).recBlocks →
    s.check (.core c) true false (s.core p).stashT3 (bl.headD 0 * 4096) 4096 = none →
    s.check (.core c) false false (s.framePlace (s.core p) f).1 (s.framePlace (s.core p) f).2 (s.core p).frameSize = none →
    ∃ t, exec (.stashSpill c) s = .next t
      ∧ (t.core p).stash.recs = (s.core p).stash.recs.map (fun r => if r.num = num then { r with loc := .spilling f } else r))
  ∧ (∀ (s : State) (c p f : Nat) (r : StashRec) (l : List StashRec), s.Answers c p → (s.core p).stash.recs = r :: l → r.loc = .spilling f →
    (∀ x ∈ (s.core p).dmaQ, x.owner ≠ .spill) → (∀ x ∈ (s.core p).tags, x.2.owner ≠ .spill) →
    ∃ (t : State) (bl : List Nat), exec (.stashSpillDone c) s = .next t ∧ bl = s.freeT3 (s.core p) (s.core p).recBlocks
      ∧ (t.core p).stash.recs.head?.map StashRec.loc = some (.t3 bl)
      ∧ (t.core p).stash.t3use = (s.core p).stash.t3use + bl.length)

/-- R20, R21, R290 to R292: the caches and the cluster switch. -/
def Obligations.CachesFlushAndFill : Prop :=
  (∀ (s : State) (c p i : Nat) (e : Cqe) (sc : List CLine), s.CurAt c p 6 0xB i e → e.n = 0 → sc = (s.core p).l1Scope e.word →
    ∃ t, exec (.vecL1flush c) s = .next t
      ∧ (t.core p).vec.l1 = (s.core p).vec.l1.map (fun x => if sc.contains x then { x with dirty := false } else x)
      ∧ (t.cluster (clusterOf p)).reqs = (s.cluster (clusterOf p)).reqs
          ++ (sc.filter CLine.dirty).map (fun x => { port := p % 8, line := x.line, wr := some x.bytes, poison := x.poison, stamp := none }))
  ∧ (∀ (s : State) (c p i : Nat) (e : Cqe) (sc : List CLine), s.CurAt c p 6 0xC i e → e.n = 0 → sc = (s.core p).l1Scope e.word →
    ∃ t, exec (.vecL1inv c) s = .next t
      ∧ (t.core p).vec.l1 = (s.core p).vec.l1.filter (fun x => !sc.contains x)
      ∧ (t.cluster (clusterOf p)).reqs = (s.cluster (clusterOf p)).reqs
          ++ (sc.filter CLine.dirty).map (fun x => { port := p % 8, line := x.line, wr := some x.bytes, poison := x.poison, stamp := none }))
  ∧ (∀ (s : State) (c p i op : Nat) (e : Cqe) (cmd : Instr), (op = 0xB ∧ cmd = .vecL1flush c) ∨ (op = 0xC ∧ cmd = .vecL1inv c) →
    s.CurAt c p 6 op i e → e.n ≠ 0 → (∀ r ∈ (s.cluster (clusterOf p)).reqs, r.port = p % 8 → r.wr = none) →
    ∃ t, exec cmd s = .next t ∧ t.Finished p 6 i)
  ∧ (∀ (s : State) (c p i : Nat) (e : Cqe) (o : ObjEnt) (sc : List CLine), s.WordAt c p 1 4 i e → o = s.objEnt (wbits e.word 55 16) →
    sc = (s.cluster (clusterOf p)).l2.filter (fun x => wbit e.word 71
      || (o.valid && o.start < x.line * 128 + 128 && x.line * 128 < o.start + o.bytes)) →
    ∃ t, exec (.strL2flush c i) s = .next t ∧ t.Finished p 1 i
      ∧ (t.cluster (clusterOf p)).l2 = (s.cluster (clusterOf p)).l2.map (fun x => if sc.contains x then { x with dirty := false } else x))
  ∧ (∀ (s : State) (c p i : Nat) (e : Cqe) (o : ObjEnt) (sc : List CLine), s.WordAt c p 1 5 i e → o = s.objEnt (wbits e.word 55 16) →
    sc = (s.cluster (clusterOf p)).l2.filter (fun x => wbit e.word 71
      || (o.valid && o.start < x.line * 128 + 128 && x.line * 128 < o.start + o.bytes)) →
    ∃ t, exec (.strL2inv c i) s = .next t ∧ t.Finished p 1 i
      ∧ (t.cluster (clusterOf p)).l2 = (s.cluster (clusterOf p)).l2.filter (fun x => !sc.contains x))
  ∧ (∀ (s : State) (g port stamp l : Nat) (r : SwReq) (x : CLine), s.Settled (512 + g) → g < 64 → (s.cluster g).oos = false →
    (s.cluster g).reqs = [r] → r.port = port → port < 8 → r.stamp = none → r.wr = none → lineIn (s.cluster g).l2 r.line = some x →
    (s.core (8 * g + port)).vec.miss = some l → (s.core (8 * g + port)).vec.missAt = r.line →
    ∃ t, exec (.clusterRequest g port stamp 0) s = .next t ∧ (t.core (8 * g + port)).vec.miss = none
      ∧ (t.core (8 * g + port)).vec.l1.getLast? = some { line := l, bytes := x.bytes, dirty := false, poison := x.poison })
  ∧ (∀ (s : State) (g port stamp : Nat) (r : SwReq), s.Settled (512 + g) → g < 64 → (s.cluster g).oos = false →
    (s.cluster g).reqs = [r] → r.port = port → port < 8 → r.stamp = none → r.wr = none → lineIn (s.cluster g).l2 r.line = none →
    (∀ m ∈ (s.cluster g).miss, m.line ≠ r.line) → (s.cluster g).miss.length < 64 →
    ∃ t, exec (.clusterRequest g port stamp 0) s = .next t ∧ (∀ q ∈ (t.cluster g).reqs, q.port = 8)
      ∧ ({ line := r.line, ports := [port], cause := port, prefetch := false } : MissReg) ∈ (t.cluster g).miss)
  ∧ (∀ (s : State) (g port stamp : Nat) (r : SwReq) (d : List Byte) (x : CLine), s.Settled (512 + g) → g < 64 → (s.cluster g).oos = false →
    (s.cluster g).reqs = [r] → r.port = port → port < 8 → r.stamp = none → r.wr = some d → lineIn (s.cluster g).l2 r.line = some x →
    ∃ t, exec (.clusterRequest g port stamp 0) s = .next t ∧ (t.cluster g).reqs = []
      ∧ lineIn (t.cluster g).l2 r.line = some { line := r.line, bytes := d, dirty := true, owner := 8 * g + port, poison := r.poison })
  ∧ (∀ (s s1 : State) (g line : Nat) (y : Nat × Nat) (m : MissReg), s.Settled (512 + g) → (s.cluster g).miss.find? (fun m => m.line = line) = some m →
    (s.cluster g).reqs = [] → s1 = s.setCluster g { s.cluster g with miss := (s.cluster g).miss.erase m } →
    s1.lineCheck g line m.cause = .ok y →
    ∃ t, exec (.l2MissFill g line) s = .next t ∧ (t.cluster g).miss = (s.cluster g).miss.erase m
      ∧ (t.cluster g).l2.getLast? = some { line := line, bytes := (s1.lineRead line).1.map Prod.fst, dirty := false, poison := (s1.lineRead line).1.any Prod.snd, pf := m.prefetch })

/-- R190 to R192, R201, R211 to R216, R262, R495: the load unit. -/
def Obligations.LoadWordsPush : Prop :=
  (∀ (s : State) (c p i q f : Nat) (e : Cqe) (x : DqEnt) (h : List Got), s.WordAt c p 2 2 i e → wOut e.word = q → wbits e.word 64 4 = f →
    (s.core p).dqRoom q 1 = true → (s.core p).servedAhead q = false →
    s.loadOperand p e 0 (e.gen 0) (e.scaleGen f 2) f (ldVecRate e.word) (lanesOf (wbits e.word 38 2)) = .ok (x, h) →
    ∃ t, exec (.ldVec c i 0) s = .next t ∧ ((t.core p).dataQ q).ents = ((s.core p).dataQ q).ents ++ [x]
      ∧ ((t.core p).words 2)[i]? = some { e with n := e.n + 1, held := h, fin := decide (wRep e.word ≤ e.n) } ∧ t.t0 = s.t0 ∧ t.slice = s.slice)
  ∧ (∀ (s : State) (c p i q fa fb : Nat) (e : Cqe) (a b : DqEnt) (h j : List Got), s.WordAt c p 2 3 i e → wOut e.word = q → wbits e.word 64 4 = fa →
    wbits e.word 60 4 = fb → (s.core p).dqRoom q 1 = true → (s.core p).dqRoom (q + 1) 1 = true →
    (s.core p).servedAhead q = false → (s.core p).servedAhead (q + 1) = false →
    s.loadOperand p e 0 (e.gen 0) (e.scaleGen fa 2) fa (pairRate fa fb) (lanesOf (wbits e.word 38 2)) = .ok (a, h) →
    s.loadOperand p e 1 (e.gen 1) (e.scaleGen fb 3) fb (pairRate fa fb) (lanesOf (wbits e.word 36 2)) = .ok (b, j) →
    ∃ t, exec (.ldPair c i) s = .next t ∧ ((t.core p).dataQ q).ents = ((s.core p).dataQ q).ents ++ [a]
      ∧ ((t.core p).dataQ (q + 1)).ents = ((s.core p).dataQ (q + 1)).ents ++ [b]
      ∧ ((t.core p).words 2)[i]? = some { e with n := e.n + 1, held := h ++ j, fin := decide (wRep e.word ≤ e.n) })
  ∧ (∀ (s : State) (c p i q : Nat) (e : Cqe) (rows : List (List Byte × Bool)), s.WordAt c p 2 4 i e → wOut e.word = q →
    (s.core p).dqRoom q 1 = true → (s.core p).servedAhead q = false → e.n % 16 = 0 →
    s.readRows p (e.gen 0) ((s.core p).genBase e (e.gen 0)) (e.n / 16 * 32) 32 = .ok rows →
    ∃ (t : State) (b : List Entry × Side) (z : Bool), exec (.ldCast c i) s = .next t ∧ b = castBlock (wbits e.word 64 4) (rows.map Prod.fst)
      ∧ z = rows.any Prod.snd
      ∧ ((t.core p).dataQ q).ents = ((s.core p).dataQ q).ents ++ [{ data := b.1.getD 0 0, side := some b.2, tok := e.seqno, poison := z }]
      ∧ ((t.core p).words 2)[i]?.map Cqe.ents = some b.1)
  ∧ (∀ (s : State) (c p i q : Nat) (e : Cqe), s.WordAt c p 2 4 i e → wOut e.word = q → (s.core p).dqRoom q 1 = true →
    (s.core p).servedAhead q = false → e.n % 16 ≠ 0 →
    ∃ t, exec (.ldCast c i) s = .next t
      ∧ ((t.core p).dataQ q).ents.map DqEnt.data = ((s.core p).dataQ q).ents.map DqEnt.data ++ [e.ents.getD (e.n % 16) 0]
      ∧ ((t.core p).words 2)[i]? = some { e with n := e.n + 1, fin := decide (wRep e.word ≤ e.n) })
  ∧ (∀ (s s1 : State) (c p i d : Nat) (e : Cqe) (k1 : Core) (r : Got × Got) (x : Sht), s.WordAt c p 2 5 i e →
    k1 = ((s.core p).serve e true).serve e false → s1 = s.setCore p k1 → e.n < 16 * (wRep e.word + 1) →
    (e.n % 16 = 0 → k1.sht.bufs.any Option.isNone = true) → s1.shtRow p e = .ok r →
    k1.sht.putRow e.seqno (e.n / 16) (e.n % 16) (entryOf r.1.1) r.1.2 = some x → d = e.n + 1 →
    ∃ t, exec (.ldSht c i) s = .next t ∧ (t.core p).sht = x ∧ (t.core p).dq = k1.dq ∧ ((t.core p).words 2)[i]?.map Cqe.n = some d)
  ∧ (∀ (k : Core) (e : Cqe) (v : Serving) (d : Entry) (z : Bool), k.sht.nextPush (wbits e.word 60 4) true = some v → v.word = e.seqno →
    k.dqRoom (wbits e.word 60 4) 1 = true → k.sht.colEntry v v.pushA = some (d, z) →
    ((k.serve e true).dataQ (wbits e.word 60 4)).ents = (k.dataQ (wbits e.word 60 4)).ents ++ [{ data := d, tok := e.seqno, poison := z, srv := some (v.word, v.num) }])
  ∧ (∀ (s : State) (c p : Nat) (v : Serving) (l : List Serving), s.Answers c p → (s.core p).working = true → (s.core p).sht.servs = v :: l →
    v.tiles * (64 / v.r) ≤ v.popA → v.tiles * (64 / v.r) ≤ v.popB →
    ∃ t, exec (.servingRelease c) s = .next t ∧ (t.core p).sht.servs = l
      ∧ (∀ b ∈ (t.core p).sht.bufs, ∀ y ∈ b, ¬(y.word = v.word ∧ y.serving = v.num)) ∧ (t.core p).count 0x2900 = ((s.core p).count 0x2900 + 1) % 2 ^ 32)
  ∧ (∀ (s : State) (c p i q : Nat) (e : Cqe) (rows : List (List Byte × Bool)), s.WordAt c p 2 0x40 i e → wOut e.word = q →
    (s.core p).dqRoom q 1 = true → (s.core p).servedAhead q = false → e.n % 64 = 0 →
    s.readRows p (e.gen 0) ((s.core p).genBase e (e.gen 0)) e.n 64 = .ok rows →
    ∃ t, exec (.xpose c i) s = .next t
      ∧ ((t.core p).dataQ q).ents.map DqEnt.data = ((s.core p).dataQ q).ents.map DqEnt.data
          ++ [BitVec.ofNat 1024 (packBits 16 (rows.map fun r => bitsOf (entryOf r.1).toNat 0 16))]
      ∧ ((t.core p).words 2)[i]?.map Cqe.n = some (e.n + 1))
  ∧ (∀ (s : State) (c p i q : Nat) (e : Cqe), s.WordAt c p 2 0x40 i e → wOut e.word = q → (s.core p).dqRoom q 1 = true →
    (s.core p).servedAhead q = false → e.n % 64 ≠ 0 →
    ∃ t, exec (.xpose c i) s = .next t
      ∧ ((t.core p).dataQ q).ents.map DqEnt.data = ((s.core p).dataQ q).ents.map DqEnt.data
          ++ [BitVec.ofNat 1024 (packBits 16 (e.ents.map fun r => bitsOf r.toNat (16 * (e.n % 64)) 16))]
      ∧ ((t.core p).words 2)[i]?.map Cqe.n = some (e.n + 1))

/-- R79 to R94, R100: the accumulating words of the engines. -/
def Obligations.EnginesAccumulate : Prop :=
  (∀ (s : State) (c p g i : Nat) (e : Cqe) (x : Engine) (ops : List (DqEnt × DqEnt)) (r : Tile × List Scan × Nat), g < 2 →
    s.CurAt c p (3 + g) 1 i e → x = (s.core p).eng g → x.act = .active → (e.n ≠ 0 ∨ eStart e.word = 4) →
    (s.core p).operands e.word = some ops → (∀ o ∈ ops, o.1.poison = false ∧ o.2.poison = false) →
    r = ops.zipIdx.foldl (fun y z => rankStep e.word (x.pre.flatMap fun l => l.map f32) (decide (e.n = wRep e.word ∧ eFin e.word ≠ 0)) y z.2 z.1)
      (x.active, x.scans, 0) →
    ∃ (t : State) (y : Engine), exec (.mmaRank c g 0) s = .next t ∧ y = (t.core p).eng g
      ∧ (e.n ≠ wRep e.word → y.active = r.1 ∧ y.scans = r.2.1 ∧ y.tileOpen = x.tileOpen)
      ∧ (e.n = wRep e.word → eFin e.word = 0 → y.active = r.1 ∧ y.tileOpen = true ∧ y.openPack = ePack e.word)
      ∧ (e.n = wRep e.word → eFin e.word = 1 → x.shUse = .none → y.shadow = r.1 ∧ y.shUse = .toDrain ∧ y.offers = x.offers ++ [none]
          ∧ y.tileOpen = false)
      ∧ (e.n = wRep e.word → eFin e.word = 2 → x.shUse = .none → y.shadow = r.1 ∧ y.shUse = .toSlot ∧ (y.slot (eSlot e.word)).tile = (x.slot (eSlot e.word)).tile
          ∧ y.tileOpen = false)
      ∧ ((engQueues e.word).Nodup → ∀ q ∈ engQueues e.word, ((t.core p).dataQ q).ents = ((s.core p).dataQ q).ents.drop 1)
      ∧ ((t.core p).words (3 + g))[i]? = some { e with n := e.n + 1, fin := decide (e.n = wRep e.word) })
  ∧ (∀ (s : State) (c p g i : Nat) (e : Cqe) (x : Engine) (ops : List (DqEnt × DqEnt)), g < 2 →
    s.CurAt c p (3 + g) 1 i e → x = (s.core p).eng g → x.act = .active → e.n = 0 → eStart e.word = 0 → x.finish = none → 0 < wRep e.word →
    (s.core p).operands e.word = some ops → (∀ o ∈ ops, o.1.poison = false ∧ o.2.poison = false) →
    ∃ t, exec (.mmaRank c g 0) s = .next t
      ∧ ((t.core p).eng g).active = (ops.zipIdx.foldl (fun y z => rankStep e.word [] false y z.2 z.1)
          ((beginTile e.word []).1, (beginTile e.word []).2, 0)).1
      ∧ ((t.core p).words (3 + g))[i]? = some { e with n := 1, fin := false })
  ∧ (∀ (s : State) (c p g i : Nat) (e : Cqe) (x : Engine) (d : DqEnt) (l : List DqEnt), g < 2 →
    s.CurAt c p (3 + g) 2 i e → x = (s.core p).eng g → x.act = .active →
    ((s.core p).dataQ (wInb e.word)).ents = d :: l → d.poison = false →
    ∃ t, exec (.mmaWl c g) s = .next t ∧ ((t.core p).eng g).latch = (x.latch ++ List.replicate (16 - x.latch.length) ({ data := 0 } : DqEnt)).set e.n d ∧ ((t.core p).eng g).latFmt = eFmtB e.word
      ∧ ((t.core p).dataQ (wInb e.word)).ents = l
      ∧ ((t.core p).words (3 + g))[i]? = some { e with n := e.n + 1, fin := decide (16 ≤ e.n + 1) })
  ∧ (∀ (s : State) (c p g i : Nat) (e : Cqe) (x : Engine) (heads : List DqEnt), g < 2 →
    s.CurAt c p (3 + g) 3 i e → x = (s.core p).eng g → x.act = .active →
    heads = (List.range (packOf (ePack e.word))).filterMap (fun j => ((s.core p).dataQ (wIna e.word + j)).ents.head?) →
    heads.length = packOf (ePack e.word) → (∀ h ∈ heads, h.poison = false) →
    ∃ t, exec (.mmaSt c g 0) s = .next t
      ∧ (∀ q ∈ engQueues e.word, ((t.core p).dataQ q).ents = ((s.core p).dataQ q).ents.drop 1)
      ∧ ((t.core p).words (3 + g))[i]? = some { e with n := e.n + 1, fin := decide (e.n = wRep e.word) }
      ∧ (ePack e.word = 0 → stScanning e.word 1 (x.slot (eSlot e.word + e.n / 16)).tile 0 = false → e.n % 16 ≠ 0 → e.n % 16 ≠ 15 → e.n ≠ wRep e.word →
          ((t.core p).eng g).slots = x.slots.set (eSlot e.word + e.n / 16) { x.slot (eSlot e.word + e.n / 16) with
            tile := addSums x e.word (x.slot (eSlot e.word + e.n / 16)).tile 0 (e.n % 16)
              ((x.slot (eSlot e.word + e.n / 16)).tile.q.getD 0 {}).texp (heads.getD 0 { data := 0 }) }))

/-- R79, R86, R88, R96, R98, R99: slots and the shadow registers. -/
def Obligations.EngineSlotsMove : Prop :=
  (∀ (s : State) (c p g i : Nat) (e : Cqe), g < 2 → s.CurAt c p (3 + g) 4 i e → ((s.core p).eng g).act = .active → e.n = 0 →
    ∃ t, exec (.mmaDrain c g) s = .next t ∧ ((t.core p).eng g).offers = ((s.core p).eng g).offers ++ [some (eSlot e.word)]
      ∧ ((t.core p).eng g).moves = ((s.core p).eng g).moves ++ [{ slot := eSlot e.word, qs := eQs e.word, kind := .drain (some e.seqno) false }])
  ∧ (∀ (s : State) (c p g i sl : Nat) (e : Cqe) (x : Slot), g < 2 → s.CurAt c p (3 + g) 5 i e → ((s.core p).eng g).act = .active →
    eSlot e.word = sl → x = ((s.core p).eng g).slot sl →
    ∃ t, exec (.mmaSpill c g) s = .next t ∧ t.Finished p (3 + g) i
      ∧ t.t0 = Memory.put s.t0 (t0Key p (eSpAddr e.word)) (spillImage x.tile (eQs e.word))
      ∧ ((t.core p).eng g).slots = ((s.core p).eng g).slots.set sl { x.mark (eQs e.word) .free with tile := x.tile.takeQs {} (eQs e.word) }
      ∧ t.slice = s.slice ∧ t.tier = s.tier)
  ∧ (∀ (s : State) (c p g i sl : Nat) (e : Cqe) (x : Slot) (im : Tile), g < 2 → s.CurAt c p (3 + g) 6 i e → ((s.core p).eng g).act = .active →
    eSlot e.word = sl → x = ((s.core p).eng g).slot sl → (s.localRead p 0 (eSpAddr e.word) 8384).2 = false →
    im = tileOfImage (s.localRead p 0 (eSpAddr e.word) 8384).1 → fillBad im (ePack e.word) (eProbs e.word) = false →
    ∃ t, exec (.mmaFill c g) s = .next t ∧ t.Finished p (3 + g) i
      ∧ ((t.core p).eng g).slots = ((s.core p).eng g).slots.set sl { x.mark (eQs e.word) .held with tile := x.tile.takeQs im (eQs e.word) }
      ∧ t.t0 = s.t0 ∧ t.slice = s.slice ∧ t.tier = s.tier)
  ∧ (∀ (s : State) (c p g i sl : Nat) (e : Cqe) (x : Slot), g < 2 → s.CurAt c p (3 + g) 7 i e → ((s.core p).eng g).act = .active →
    eSlot e.word = sl → x = ((s.core p).eng g).slot sl →
    ∃ t, exec (.mmaFree c g) s = .next t ∧ t.Finished p (3 + g) i
      ∧ ((t.core p).eng g).slots = ((s.core p).eng g).slots.set sl { x.mark (eQs e.word) .free with tile := x.tile.takeQs {} (eQs e.word) }
      ∧ t.t0 = s.t0 ∧ t.slice = s.slice ∧ t.tier = s.tier)
  ∧ (∀ (s : State) (c p g : Nat) (d : TileDest), g < 2 → s.Answers c p → (s.core p).working = true → ((s.core p).eng g).finish = some d →
    ((s.core p).eng g).shUse = .none →
    ∃ t, exec (.tileToShadow c g) s = .next t ∧ ((t.core p).eng g).shadow = ((s.core p).eng g).active ∧ ((t.core p).eng g).finish = none
      ∧ (d = .drain → ((t.core p).eng g).offers = ((s.core p).eng g).offers ++ [none]))
  ∧ (∀ (s : State) (c p g : Nat) (m : SlotMove) (l : List SlotMove), s.Answers c p → (s.core p).working = true →
    ((s.core p).eng g).moves = m :: l → m.kind = .hold →
    ∃ t, exec (.slotMoveDone c g m.slot) s = .next t ∧ ((t.core p).eng g).moves = l ∧ ((t.core p).eng g).shUse = .none
      ∧ ((t.core p).eng g).slots = ((s.core p).eng g).slots.set m.slot { st := [.held, .held, .held, .held], tile := ((s.core p).eng g).shadow })
  ∧ (∀ (s : State) (c p g : Nat) (m : SlotMove) (l : List SlotMove), s.Answers c p → (s.core p).working = true →
    ((s.core p).eng g).moves = m :: l → m.kind = .resume →
    ∃ t, exec (.slotMoveDone c g m.slot) s = .next t ∧ ((t.core p).eng g).moves = l ∧ ((t.core p).eng g).shUse = .ready
      ∧ ((t.core p).eng g).slots = ((s.core p).eng g).slots.set m.slot { st := [.free, .free, .free, .free], tile := {} })
  ∧ (∀ (s : State) (c p g : Nat) (m : SlotMove) (l : List SlotMove) (w : Option Nat), s.Answers c p → (s.core p).working = true →
    ((s.core p).eng g).moves = m :: l → m.kind = .drain w true →
    ∃ t, exec (.slotMoveDone c g m.slot) s = .next t ∧ ((t.core p).eng g).moves = l
      ∧ ((t.core p).eng g).slots = ((s.core p).eng g).slots.set m.slot { (((s.core p).eng g).slot m.slot).mark m.qs .free with
          tile := (((s.core p).eng g).slot m.slot).tile.takeQs {} m.qs })

/-- R104 to R107, R469: the states of the activity ramp. -/
def Obligations.EngineRampStates : Prop :=
  (∀ (s : State) (c p g : Nat), g < 2 → s.Answers c p → (s.core p).awaitsToken g = true →
    s.slopes .up + slope64 ((s.core p).rampReg g) ≤ 64 * s.didt →
    ∃ t, exec (.startTokenGrant c g) s = .next t ∧ ((t.core p).eng g).act = .up ∧ ((t.core p).eng g).groups = 1
      ∧ ((t.core p).eng g).rampLen = (s.core p).rampReg g ∧ t.count 0x500088 = (s.count 0x500088 + 1) % 2 ^ 32)
  ∧ (∀ (s : State) (c p g : Nat), g < 2 → s.Answers c p → (s.core p).awaitsToken g = true →
    64 * s.didt < s.slopes .up + slope64 ((s.core p).rampReg g) →
    exec (.startTokenGrant c g) s = .next (s.bump 0x500090 1).rstBegin)
  ∧ (∀ (s : State) (c p g : Nat), g < 2 → s.Answers c p → ((s.core p).eng g).act = .up →
    exec (.rampUpDone c g) s = .next (s.setCore p ((s.core p).setEng g { (s.core p).eng g with act := .active, groups := 8 })).rstBegin)
  ∧ (∀ (s : State) (c p g : Nat), g < 2 → s.Answers c p → ((s.core p).eng g).act = .active → (s.core p).engQuiet g = true →
    exec (.idleHoldExpiry c g) s = .next (s.setCore p ((s.core p).setEng g { (s.core p).eng g with stopReq := true })).rstBegin)
  ∧ (∀ (s : State) (c p g : Nat), g < 2 → s.Answers c p → ((s.core p).eng g).act = .active → ((s.core p).eng g).stopReq = true →
    s.slopes .down + slope64 ((s.core p).rampReg g) ≤ 64 * s.didt →
    ∃ t, exec (.stopSlotGrant c g) s = .next t ∧ ((t.core p).eng g).act = .down ∧ ((t.core p).eng g).stopReq = false
      ∧ t.count 0x50008C = (s.count 0x50008C + 1) % 2 ^ 32)
  ∧ (∀ (s : State) (c p g : Nat), g < 2 → s.Answers c p → ((s.core p).eng g).act = .down →
    exec (.rampDownDone c g) s = .next (s.setCore p ((s.core p).setEng g { (s.core p).eng g with act := .idle, groups := 0 })))

/-- R109, R125, R190, R195, R197, R198: the words that set a unit up. -/
def Obligations.ConfigurationWordsWrite : Prop :=
  (∀ (s : State) (c p i n : Nat) (e : Cqe), s.WordAt c p 2 1 i e → wbits e.word 68 4 = n →
    ∃ t, exec (.ldAgset c i) s = .next t ∧ t.Finished p 2 i ∧ (t.core p).ldAg = aset (s.core p).ldAg n {
      space := wbits e.word 66 2, layout := wbits e.word 64 2, base := wbits e.word 40 24
      stride := [signedOf 20 (wbits e.word 140 20), signedOf 20 (wbits e.word 172 20), signedOf 20 (wbits e.word 204 20), signedOf 20 (wbits e.word 236 20)]
      count := [wbits e.word 128 12, wbits e.word 160 12, wbits e.word 192 12, wbits e.word 224 12] })
  ∧ (∀ (s : State) (c p i n : Nat) (e : Cqe), s.CurAt c p 6 0xD i e → wbits e.word 68 3 = n →
    ∃ t, exec (.vecAgset c) s = .next t ∧ t.Finished p 6 i ∧ (t.core p).vecAg = aset (s.core p).vecAg n {
      space := 0, layout := 0, base := wbits e.word 0 52
      stride := [signedOf 20 (wbits e.word 140 20), signedOf 20 (wbits e.word 172 20), signedOf 20 (wbits e.word 204 20), signedOf 20 (wbits e.word 236 20)]
      count := [wbits e.word 128 12, wbits e.word 160 12, wbits e.word 192 12, wbits e.word 224 12] })
  ∧ (∀ (s : State) (c p i n : Nat) (e : Cqe), s.CurAt c p 7 1 i e → wbits e.word 68 4 = n →
    ∃ t, exec (.wrAgset c) s = .next t ∧ t.Finished p 7 i ∧ (t.core p).wrAg = aset (s.core p).wrAg n {
      space := wbits e.word 66 2, layout := wbits e.word 64 2, base := wbits e.word 40 24
      stride := [signedOf 20 (wbits e.word 140 20), signedOf 20 (wbits e.word 172 20), signedOf 20 (wbits e.word 204 20), signedOf 20 (wbits e.word 236 20)]
      count := [wbits e.word 128 12, wbits e.word 160 12, wbits e.word 192 12, wbits e.word 224 12] })
  ∧ (∀ (s : State) (c p i l q : Nat) (e : Cqe), l < 2 → q = (if l = 0 then 5 else 10) → s.CurAt c p q 2 i e →
    ∃ t, exec (.drnSrctx c l) s = .next t ∧ t.Finished p q i ∧ (t.core p).drn = { (s.core p).drn with ctx := (s.core p).drn.ctx.set l {
      obj := wbits e.word 55 16, base := wbits e.word 7 48, tstep := wbits e.word 224 32, pstep := wbits e.word 200 24, rstep := wbits e.word 176 24,
      n := 0 } })
  ∧ (∀ (s : State) (c p i : Nat) (e : Cqe), s.CurAt c p 5 3 i e →
    ∃ t, exec (.drnCfg c) s = .next t ∧ t.Finished p 5 i
      ∧ (t.core p).drn.param = (s.core p).drn.param.set (wbits e.word 69 3) (BitVec.ofNat 32 (wbits e.word 0 (if wbits e.word 69 3 = 5 then 8 else 32)))
      ∧ (t.core p).drn.nacc = (if wbits e.word 69 3 = 5 then [] else (s.core p).drn.nacc)
      ∧ (t.core p).drn.ctx = (s.core p).drn.ctx ∧ (t.core p).drn.tbl = (s.core p).drn.tbl)
  ∧ (∀ (s : State) (c p i : Nat) (e : Cqe), s.CurAt c p 6 0xE i e →
    ∃ t, exec (.vecSrctx c) s = .next t ∧ t.Finished p 6 i ∧ (t.core p).vec = { (s.core p).vec with ctx := {
      obj := wbits e.word 55 16, base := wbits e.word 7 48, tstep := wbits e.word 224 32, pstep := wbits e.word 200 24, rstep := wbits e.word 176 24,
      n := 0 } })
  ∧ (∀ (s : State) (c p i : Nat) (e : Cqe), s.CurAt c p 8 1 i e →
    ∃ t, exec (.updHp c) s = .next t ∧ t.Finished p 8 i ∧ (t.core p).upd = { (s.core p).upd with hp := (s.core p).upd.hp.set (wbits e.word 70 2) {
      lr := BitVec.ofNat 32 (wbits e.word 224 32), b1 := BitVec.ofNat 32 (wbits e.word 192 32), b2 := BitVec.ofNat 32 (wbits e.word 160 32),
      eps := BitVec.ofNat 32 (wbits e.word 128 32), wd := BitVec.ofNat 32 (wbits e.word 32 32), mu := BitVec.ofNat 32 (wbits e.word 0 32) } })

/-- R111 to R131: the drain. -/
def Obligations.DrainTilesRowByRow : Prop :=
  (∀ (s : State) (c p g : Nat) (src : Option Nat) (x : Tile), g < 2 → s.Answers c p → (s.core p).working = true → (s.core p).drn.cur = none →
    (s.core p).laneTakes g = true → (g = 1 → (s.core p).laneTakes 0 = false ∨ (s.core p).engA.offered = none) →
    ((s.core p).eng g).offered = some (src, x) →
    ∃ t, exec (.drainAcceptTile c g) s = .next t ∧ (t.core p).drn.cur = some { lane := g, src := src, tile := x, row := 0, bias := [] }
      ∧ ((t.core p).eng g).offers = ((s.core p).eng g).offers.drop 1
      ∧ (t.core p).count (0x2020 + 0x100 * g) = ((s.core p).count (0x2020 + 0x100 * g) + 1) % 2 ^ 32)
  ∧ (∀ (s : State) (c p l q i nb np : Nat) (e : Cqe) (w : CWord) (d : DrnTile) (bs ps : List DqEnt) (k : Core) (bias : List W32) (r : List (Nat × W32))
      (rs : Option (Nat → Nat)) (o : List Entry × Option Side × Nat × Nat), l < 2 → q = (if l = 0 then 5 else 10) → s.CurAt c p q 1 i e → w = e.word →
    (s.core p).drn.cur = some d → d.lane = l → nb = (if d.row = 0 then biasEntries w else 0) → np = (if dPops w then 1 else 0) →
    (s.core p).headDq (wIna w) nb = some bs → (s.core p).headDq (wInb w) np = some ps → dStash w = false →
    (s.core p).dqRoom (wOut w) (if fmtWidth (dOutFmt w) = 32 then 2 else 1) = true →
    (∀ x ∈ bs, x.poison = false) → (∀ x ∈ ps, x.poison = false) → k = ((s.core p).dropDq (wIna w) nb).dropDq (wInb w) np →
    bias = (if nb = 0 then d.bias else preRow (dBiasFmt w) bs) →
    r = (List.range 64).map (fun j => k.drn.element w (bias.getD j 0) ((preRow (dPsFmt w) ps).getD j 0) (d.tile.value d.row j)) →
    rs = (if dRnd w then some (k.drainRand (k.drn.ctx.getD l {}) d.tile.pack d.row) else none) →
    o = drainOutput (dOutFmt w) (dSat w) rs (packOf d.tile.pack) (r.map Prod.snd) →
    ∃ t, exec (.drnTile c l) s = .next t
      ∧ ((t.core p).dataQ (wOut w)).ents = (k.dataQ (wOut w)).ents ++ o.1.map (fun x => { data := x, side := o.2.1, tok := e.seqno })
      ∧ (d.row < 15 → (t.core p).drn.cur = some { d with row := d.row + 1, bias := bias } ∧ (t.core p).drn.ctx = (s.core p).drn.ctx)
      ∧ (15 ≤ d.row → (t.core p).drn.cur = none ∧ ((t.core p).words q)[i]? = some { e with n := e.n + 1, fin := decide (wRep w ≤ e.n) }
          ∧ (t.core p).drn.ctx = (s.core p).drn.ctx.set l { (s.core p).drn.ctx.getD l {} with n := ((s.core p).drn.ctx.getD l {}).n + 1 })
      ∧ (t.core p).count 0x2244 = ((s.core p).count 0x2244 + o.2.2.1) % 2 ^ 32
      ∧ (t.core p).count 0x2258 = ((s.core p).count 0x2258 + o.2.2.1) % 2 ^ 32)
  ∧ (∀ (s : State) (c p i : Nat) (e : Cqe) (x : DqEnt) (l : List DqEnt), s.CurAt c p 5 4 i e → ((s.core p).dataQ (wIna e.word)).ents = x :: l →
    x.poison = false → e.n < 8 →
    ∃ t, exec (.drnTbl c) s = .next t ∧ ((t.core p).dataQ (wIna e.word)).ents = l
      ∧ (t.core p).drn = (s.core p).drn.fillTbl (2 * wbits e.word 71 1 + wbits e.word 70 1) e.n x.data
      ∧ ((t.core p).words 5)[i]? = some { e with n := e.n + 1 })
  ∧ (∀ (s : State) (c p i : Nat) (e : Cqe) (x : DqEnt) (l : List DqEnt), s.CurAt c p 5 4 i e → ((s.core p).dataQ (wIna e.word)).ents = x :: l →
    x.poison = false → e.n = 8 →
    ∃ t, exec (.drnTbl c) s = .next t ∧ t.Finished p 5 i ∧ ((t.core p).dataQ (wIna e.word)).ents = l
      ∧ (t.core p).drn = (s.core p).drn.fillTbl (2 * wbits e.word 71 1 + wbits e.word 70 1) 8 x.data)
  ∧ (∀ (d : Drain) (half n w : Nat) (x : Entry), half < d.tbl.length → n < 9 → w < 288 →
    ((d.fillTbl half n x).tbl.getD half (false, [])).1 = ((d.tbl.getD half (false, [])).1 || decide (n = 8))
      ∧ ((d.fillTbl half n x).tbl.getD half (false, [])).2.getD w 0
        = if 32 * n ≤ w ∧ w < 32 * n + 32 then BitVec.ofNat 32 (bitsOf x.toNat (32 * (w - 32 * n)) 32) else (d.tbl.getD half (false, [])).2.getD w 0)
  ∧ (∀ (s : State) (c p i : Nat) (e : Cqe), s.CurAt c p 5 5 i e → (s.core p).dqRoom (wOut e.word) 3 = true →
    ∃ t, exec (.drnStat c) s = .next t ∧ t.Finished p 5 i
      ∧ ((t.core p).dataQ (wOut e.word)).ents = ((s.core p).dataQ (wOut e.word)).ents
          ++ (entriesOf (feltBytes false ((s.core p).drn.statBlock (wbits e.word 69 3)))).map (fun x => { data := x, tok := e.seqno })
      ∧ (t.core p).drn.nacc = (if wbit e.word 68 then [] else (s.core p).drn.nacc)
      ∧ ((s.core p).seq.open_ = true → ∃ nf sat, t.mesh = s.mesh ++ [.drainReport p (s.core p).seq.step (s.core p).seq.attempt nf sat]
          ∧ nf = (s.core p).count 0x2258 - (s.core p).drn.repNf ∧ sat = (s.core p).count 0x225C - (s.core p).drn.repSat))

/-- R195, R196: the row and element operations of the vector unit. -/
def Obligations.VectorWordsCompute : Prop :=
  (∀ (s : State) (c p i n : Nat) (e : Cqe) (w : CWord) (ins : List (Nat × Nat)) (k : Core) (g : List (List DqEnt)) (v : List W32),
    s.CurAt c p 6 1 i e → w = e.word → n = groupEnts (vFmtI w) →
    ins = [(wIna w, n)] ++ (if ewUsesB (vFn w) then [(wInb w, n)] else []) ++ (if vIncEn w then [(vInc w, n)] else []) →
    (s.core p).roomAll (vecOut w) = true → (s.core p).popAll ins = some (k, g) → (∀ l ∈ g, ∀ x ∈ l, x.poison = false) →
    v = (List.range 64).map (fun j => ewOp (vFn w) (vImm w) ((preRow (vFmtI w) (g.getD 0 [])).getD j 0)
      ((if ewUsesB (vFn w) then preRow (vFmtI w) (g.getD 1 []) else []).getD j 0)
      ((if vIncEn w then preRow (vFmtI w) (g.getD (if ewUsesB (vFn w) then 2 else 1) []) else []).getD j 0)) →
    ∃ t, exec (.vecEw c) s = .next t ∧ (t.core p).dq = (k.vecPush (wOut w) e v).dq
      ∧ ((t.core p).words 6)[i]? = some { e with n := e.n + 1, fin := decide (wRep w ≤ e.n) } ∧ t.t0 = s.t0 ∧ t.slice = s.slice ∧ t.tier = s.tier)
  ∧ (∀ (s : State) (c p i : Nat) (e : Cqe) (w : CWord) (k : Core) (g : List (List DqEnt)) (r : W32), s.CurAt c p 6 2 i e → w = e.word →
    (e.n = wRep w → (s.core p).roomAll (vecOut w) = true) → (s.core p).popAll [(wIna w, groupEnts (vFmtI w))] = some (k, g) →
    (∀ l ∈ g, ∀ x ∈ l, x.poison = false) →
    r = redGroup (wbits w 64 2) (wbit w 71) (if e.n = 0 then none else some (BitVec.ofNat 32 (e.vals.getD 0 0))) (preRow (vFmtI w) (g.getD 0 [])) →
    ∃ t, exec (.vecRed c) s = .next t
      ∧ ((t.core p).words 6)[i]? = some { e with n := e.n + 1, vals := [r.toNat], fin := decide (wRep w ≤ e.n) }
      ∧ (t.core p).dq = (if e.n = wRep w then (k.vecPush (wOut w) e (r :: List.replicate 63 0)).dq else k.dq))
  ∧ (∀ (s : State) (c p i : Nat) (e : Cqe) (w : CWord) (k : Core) (g : List (List DqEnt)), s.CurAt c p 6 3 i e → w = e.word →
    (s.core p).popAll [(wIna w, groupEnts (vFmtI w))] = some (k, g) → (∀ l ∈ g, ∀ x ∈ l, x.poison = false) →
    ∃ t, exec (.vecCmpred c) s = .next t ∧ (t.core p).dq = k.dq
      ∧ ((t.core p).words 6)[i]? = some { e with
          n := e.n + 1, fin := decide (wRep w ≤ e.n)
          vals := [if (preRow (vFmtI w) (g.getD 0 [])).any (fun x => cmpOp (vFn w) x (vImm w)) || e.vals.getD 0 0 = 1 then 1 else 0] })
  ∧ (∀ (s : State) (c p i : Nat) (e : Cqe) (w : CWord) (k : Core) (g : List (List DqEnt)), s.CurAt c p 6 4 i e → w = e.word → e.n ≤ wRep w →
    (s.core p).popAll [(wIna w, groupEnts (vFmtI w))] = some (k, g) → (∀ l ∈ g, ∀ x ∈ l, x.poison = false) →
    ∃ t, exec (.vecSmax c) s = .next t ∧ (t.core p).dq = k.dq
      ∧ ((t.core p).words 6)[i]? = some { e with
          n := e.n + 1, vals := e.vals ++ g.flatMap (fun l => (preRow (vFmtI w) l).map BitVec.toNat) })
  ∧ (∀ (s : State) (c p i : Nat) (e : Cqe) (w : CWord) (v : List W32), s.CurAt c p 6 4 i e → w = e.word → wRep w < e.n →
    (s.core p).roomAll (vecOut w) = true →
    v = (List.range 64).map (fun j => (Config.softmax (e.vals.map (BitVec.ofNat 32))).getD (64 * (e.n - (wRep w + 1)) + j) 0) →
    ∃ t, exec (.vecSmax c) s = .next t ∧ (t.core p).dq = ((s.core p).vecPush (wOut w) e v).dq
      ∧ ((t.core p).words 6)[i]? = some { e with n := e.n + 1, fin := decide (2 * (wRep w + 1) ≤ e.n + 1) })
  ∧ (∀ (s : State) (c p i m : Nat) (e : Cqe) (w : CWord) (v : List W32), s.CurAt c p 6 5 i e → w = e.word → wRep w < e.n →
    (s.core p).roomAll (vecOut w) = true → m = (if vIncEn w then 3 else 2) →
    v = (List.range 64).map (fun j => (Config.norm (decide (vFn w = 1)) (strided m 0 (e.vals.map (BitVec.ofNat 32)))
      (strided m 1 (e.vals.map (BitVec.ofNat 32))) (if vIncEn w then strided m 2 (e.vals.map (BitVec.ofNat 32)) else []) (vImm w)).getD
        (64 * (e.n - (wRep w + 1)) + j) 0) →
    ∃ t, exec (.vecNorm c) s = .next t ∧ (t.core p).dq = ((s.core p).vecPush (wOut w) e v).dq
      ∧ ((t.core p).words 6)[i]? = some { e with n := e.n + 1, fin := decide (2 * (wRep w + 1) ≤ e.n + 1) })

/-- R196, R203, R250, R496: the remaining vector operations. -/
def Obligations.VectorWordsMoveAndSort : Prop :=
  (∀ (s : State) (c p i : Nat) (e : Cqe) (w : CWord) (ix : List DqEnt) (l : List Nat), s.CurAt c p 6 6 i e → w = e.word →
    (s.core p).headDq (wInb w) 2 = some ix → (∀ x ∈ ix, x.poison = false) →
    (s.core p).gatherGo w e.n ((indices ix).drop e.vals.length) e.vals = (l, none, false) → (s.core p).roomAll (vecOut w) = true →
    ∃ t, exec (.vecGath c) s = .next t
      ∧ (t.core p).dq = (((s.core p).dropDq (wInb w) 2).vecPush (wOut w) e (l.map (widen (vFmtI w)))).dq
      ∧ ((t.core p).words 6)[i]? = some { e with n := e.n + 1, vals := [], fin := decide (wRep w ≤ e.n) })
  ∧ (∀ (s : State) (c p i : Nat) (e : Cqe) (w : CWord) (dat ix : List DqEnt) (codes : List Nat) (k : Core) (m : Nat), s.CurAt c p 6 7 i e → w = e.word →
    (s.core p).headDq (wIna w) (groupEnts (vFmtI w)) = some dat → (s.core p).headDq (wInb w) 2 = some ix → (∀ x ∈ dat, x.poison = false) →
    (∀ x ∈ ix, x.poison = false) →
    codes = unpackBits (fmtWidth (vFmtI w)) 64 (dat.foldr (fun y acc => y.data.toNat + acc * 2 ^ 1024) 0) →
    (s.core p).scatterGo p w e.n (((indices ix).zip codes).drop (e.vals.getD 0 0)) (e.vals.getD 0 0) = (k, m, none, false) →
    ∃ t, exec (.vecScat c) s = .next t ∧ (t.core p).vec.l1 = k.vec.l1
      ∧ (t.core p).dq = ((k.dropDq (wIna w) (groupEnts (vFmtI w))).dropDq (wInb w) 2).dq
      ∧ ((t.core p).words 6)[i]? = some { e with n := e.n + 1, vals := [], fin := decide (wRep w ≤ e.n) })
  ∧ (∀ (s : State) (c p i : Nat) (e : Cqe) (w : CWord) (r : List (W32 × Nat)), s.CurAt c p 6 8 i e → w = e.word → wRep w < e.n →
    (s.core p).roomAll (vecOut w) = true → (s.core p).dqRoom (wOut w + 1) (groupEnts (vFmtI w)) = true →
    r = (sortKeys (wbit w 64) ((List.range (e.vals.length / 2)).map fun j => (BitVec.ofNat 32 (e.vals.getD (2 * j) 0), e.vals.getD (2 * j + 1) 0))).take
      (vK w) →
    ∃ (t : State) (keys : List W32) (pay : List Nat), exec (.vecSort c) s = .next t ∧ t.Finished p 6 i ∧ keys.length = 64
      ∧ (∀ j, j < r.length → j < 64 → keys.getD j 0 = (r.getD j (0, 0)).1 ∧ pay.getD j 0 = (r.getD j (0, 0)).2)
      ∧ (t.core p).dq = (((s.core p).vecPush (wOut w) e keys).pushCodes (wOut w + 1) (vFmtI w) e.seqno pay).dq)
  ∧ (∀ (s : State) (c p i n : Nat) (e : Cqe) (w : CWord) (r : List Nat), s.CurAt c p 6 9 i e → w = e.word → wRep w < e.n → n = (vK w + 31) / 32 →
    (s.core p).dqRoom (wOut w) n = true →
    r = nmsKeep (vImm w) (vK w) ((List.range (e.vals.length / 4)).map fun j => ((e.vals.drop (4 * j)).take 4).map (BitVec.ofNat 32)) →
    ∃ (t : State) (idx : List Nat), exec (.vecNms c) s = .next t ∧ t.Finished p 6 i ∧ (∀ j, j < r.length → j < 32 * n → idx.getD j 0 = r.getD j 0)
      ∧ ((t.core p).dataQ (wOut w)).ents = ((s.core p).dataQ (wOut w)).ents ++ (List.range n).map (fun j =>
          { data := BitVec.ofNat 1024 (packBits 32 ((idx.drop (32 * j)).take 32)), tok := e.seqno }))
  ∧ (∀ (s : State) (c p i : Nat) (e : Cqe) (w : CWord) (k : Core) (x : DqEnt), s.CurAt c p 6 0xA i e → w = e.word →
    (s.core p).popAll [(wIna w, 1)] = some (k, [[x]]) → x.poison = false →
    ∃ t, exec (.vecLoss c) s = .next t ∧ t.Finished p 6 i
      ∧ (t.core p).upd = (if (s.core p).seq.open_ then (k.addLoss (widen (vFmtI w) (bitsOf x.data.toNat 0 (fmtWidth (vFmtI w))))).upd else (s.core p).upd))
  ∧ (∀ (s : State) (c p i : Nat) (e : Cqe) (w : CWord) (k : Core) (g : List (List DqEnt)) (r : List (W32 × W32)), s.CurAt c p 6 0x40 i e → w = e.word →
    (s.core p).dqRoom (wOut w) 1 = true → (s.core p).dqRoom (wOut w + 1) 2 = true →
    (s.core p).popAll [(wIna w, groupEnts (vFmtI w)), (wInb w, 1), (vInc w, 2)] = some (k, g) → (∀ l ∈ g, ∀ x ∈ l, x.poison = false) →
    vFn w = 0 → r = (List.range 64).map (fun j => sgdU1 (vImm w) (k.upd.hp.getD 0 {}) ((preRow (vFmtI w) (g.getD 0 [])).getD j 0)
      ((preRow 0x0 (g.getD 1 [])).getD j 0) ((preRow 0xC (g.getD 2 [])).getD j 0)) →
    ∃ t, exec (.vecOpt c) s = .next t
      ∧ (t.core p).dq = ((k.pushCodes (wOut w) 0x0 e.seqno (r.map fun x => (convert 0x0 false (f32 x.1)).code)).pushCodes (wOut w + 1) 0xC e.seqno
          (r.map fun x => x.2.toNat)).dq
      ∧ ((t.core p).words 6)[i]? = some { e with n := e.n + 1, fin := decide (wRep w ≤ e.n) })

/-- R191, R197, R255: the write unit's one store. -/
def Obligations.WriteUnitStoresEntries : Prop :=
  (∀ (s : State) (c p i a n : Nat) (e : Cqe) (g : Agen) (x : DqEnt) (l : List DqEnt), s.CurAt c p 7 2 i e →
    ((s.core p).dataQ (wIna e.word)).ents = x :: l → x.poison = false →
    (e.n = wRep e.word → wrHoutEn e.word = true → (s.core p).hqRoom (wrHout e.word) = true) →
    g = aget {} (s.core p).wrAg (wbits e.word 68 4) → g.layout = 0 → e.hnd = none → n = wbits e.word 61 7 + 1 →
    (a : Int) = g.addr ((s.core p).genBase e g) e.n → a + n ≤ spaceSize g.space →
    ∃ t, exec (.wrRows c) s = .next t ∧ ((t.core p).dataQ (wIna e.word)).ents = l
      ∧ ((t.core p).words 7)[i]? = some { e with n := e.n + 1, fin := decide (wRep e.word ≤ e.n) }
      ∧ (t.localRead p g.space a n).1 = bytesOf n x.data.toNat
      ∧ (∀ b, b < t0Key p a ∨ t0Key p a + n ≤ b ∨ g.space ≠ 0 → Memory.read t.t0 b = Memory.read s.t0 b)
      ∧ (∀ b, b < sliceKey p a ∨ sliceKey p a + n ≤ b ∨ g.space = 0 → Memory.read t.slice b = Memory.read s.slice b)
      ∧ t.tier = s.tier ∧ t.flash = s.flash ∧ t.bar2 = s.bar2 ∧ t.sram = s.sram ∧ (∀ q, q ≠ p → t.core q = s.core q))
  ∧ (∀ (s u : State) (c p i : Nat) (e : Cqe) (x : DqEnt) (l : List DqEnt), s.CurAt c p 7 2 i e →
    ((s.core p).dataQ (wIna e.word)).ents = x :: l → x.poison = false →
    (e.n = wRep e.word → wrHoutEn e.word = true → (s.core p).hqRoom (wrHout e.word) = true) →
    s.writeEntry p e (aget {} (s.core p).wrAg (wbits e.word 68 4)) (bytesOf (wbits e.word 61 7 + 1) x.data.toNat) = .ok u →
    ∃ t, exec (.wrRows c) s = .next t ∧ ((t.core p).dataQ (wIna e.word)).ents = l
      ∧ ((t.core p).words 7)[i]? = some { e with n := e.n + 1, fin := decide (wRep e.word ≤ e.n) }
      ∧ t.t0 = u.t0 ∧ t.slice = u.slice ∧ t.tier = u.tier ∧ t.slicePz = u.slicePz ∧ t.tierPz = u.tierPz)

/-- R198, R230, R235 to R248, R428: the update unit. -/
def Obligations.UpdateStagesAndCommits : Prop :=
  (∀ (s s0 s1 s2 s3 : State) (c p i q mb bad : Nat) (e : Cqe) (w : CWord) (x : DqEnt) (l : List DqEnt) (h : HpSet) (wb ms rec_ : List Byte)
      (o : List ParamOut), s.CurAt c p 8 2 i e → w = e.word → ((s.core p).dataQ (wIna w)).ents = x :: l → x.poison = false →
    s.updTagWait p (s.core p).stageObj (64 * (s.core p).upd.stg) = none →
    h = (s.core p).upd.hp.getD (uSet w) {} → q = uStart w + e.n → mb = momBytes (uMfmt w) (uOpt w) →
    (if e.n = 0 then (s.setCore p ((s.core p).dropDq (wIna w) 1)).stagePut p (runHeader h w e.seqno)
      else .ok (s.setCore p ((s.core p).dropDq (wIna w) 1))) = .ok s0 →
    s0.updRead p e (uWobj w) (64 * q) 64 = .ok (wb, s1) → s1.updRead p e (uMobj w) (mb * q) mb = .ok (ms, s2) →
    o = (List.range 32).map (fun j => optStep (uOpt w) h (if uClip w then some (s.core p).upd.scale else none)
      (((unpackBits 32 32 x.data.toNat).map (BitVec.ofNat 32)).getD j 0) (((unpackBits 16 32 (numOf wb)).map (widen 0x0)).getD j 0)
      ((momRead (uMfmt w) (uOpt w) ms).1.getD j 0) ((momRead (uMfmt w) (uOpt w) ms).2.getD j 0)) →
    rec_ = (o.flatMap fun y => bytesOf 4 y.u.toNat)
      ++ padTo (pad64 mb) (momWrite (s.core p).seq (uMfmt w) (uOpt w) (uMobj w) q (o.map ParamOut.m) (o.map ParamOut.v)) →
    s2.stagePut p rec_ = .ok s3 → bad = (o.filter ParamOut.bad).length →
    ∃ t, exec (.updRun c) s = .next t ∧ ((t.core p).dataQ (wIna w)).ents = l ∧ t.tier = s3.tier ∧ t.t0 = s.t0
      ∧ (t.core p).upd.stg = (s3.core p).upd.stg
      ∧ ((t.core p).words 8)[i]? = some { e with n := e.n + 1, fin := decide (wRep w ≤ e.n) }
      ∧ (t.core p).count 0x2500 = ((s3.core p).count 0x2500 + 32) % 2 ^ 32
      ∧ (t.core p).count 0x250C = ((s3.core p).count 0x250C + bad) % 2 ^ 32
      ∧ (t.core p).upd.hp = (s.core p).upd.hp ∧ (uOpt w ≠ 4 → (t.core p).upd.laccW = (s.core p).upd.laccW ∧ (t.core p).upd.laccU = (s.core p).upd.laccU)
      ∧ (e.n = wRep w → (t.core p).upd.phase = .idle))
  ∧ (∀ (s : State) (c p i : Nat) (e : Cqe) (l : List DqEnt) (b : FeltBlk) (g th : W32), s.CurAt c p 8 3 i e →
    (s.core p).headDq (wIna e.word) 3 = some l → (∀ x ∈ l, x.poison = false) → b = feltOfBytes false ((l.flatMap fun x => bytesOf 128 x.data.toNat).take 260) →
    g = f32sqrt (toF32 (Fp.ofInt false (b.n.foldl (· + ·) 0) ((b.e : Int) - 151))) → th = BitVec.ofNat 32 (wbits e.word 0 32) →
    ∃ t, exec (.updNorm c) s = .next t ∧ t.Finished p 8 i ∧ (t.core p).dq = ((s.core p).dropDq (wIna e.word) 3).dq
      ∧ (b.ovf = true → (t.core p).upd = { (s.core p).upd with normValid := false, normOvf := true })
      ∧ (b.ovf = false → (t.core p).upd.normValid = true ∧ (t.core p).upd.gnorm = g ∧ (t.core p).upd.normNf = b.nf
          ∧ (t.core p).upd.scale = (if b.nf || f32eq g 0 || !f32fin g || f32nan th || f32le th 0 || !f32lt (f32div th g) 0x3F800000 then 0x3F800000
              else f32div th g)
          ∧ (t.core p).upd.stg = (s.core p).upd.stg ∧ (t.core p).upd.hp = (s.core p).upd.hp))
  ∧ (∀ (s u : State) (c p : Nat), s.Answers c p → (s.core p).upd.phase = .pinWait → s.makeShadows (s.core p).upd.touched = some u →
    ∃ t, exec (.pinWaitRelease c) s = .next t ∧ (t.core p).upd.phase = .commit ∧ (t.core p).upd.stg = (u.core p).upd.stg
      ∧ t.obj.shadows = u.obj.shadows)
  ∧ (∀ (s : State) (c p : Nat), s.Answers c p → (s.core p).upd.phase = .pinWait → s.makeShadows (s.core p).upd.touched = none →
    ∃ t, exec (.pinWaitRelease c) s = .next t ∧ (t.core p).upd = (s.core p).upd ∧ (t.core p).count 0x251C = ((s.core p).count 0x251C + 1) % 2 ^ 32
      ∧ t.obj = s.obj ∧ t.tier = s.tier)
  ∧ (∀ (s s1 u : State) (c p : Nat) (x : CommitPos), s.Answers c p → (s.core p).upd.phase = .commit →
    s.updTagWait p (s.core p).stageObj (64 * (s.core p).upd.stg) = none → s.makeShadows (s.core p).upd.touched = some s1 →
    s1.replay p = (u, x) → x.poison = false → x.stop = none → (u.core p).pre.contCommit = false →
    ∃ t, exec (.commitDone c) s = .next t ∧ (t.core p).upd.phase = .idle ∧ (t.core p).upd.stg = 0 ∧ (t.core p).upd.touched = []
      ∧ (t.core p).count 0x2510 = ((u.core p).count 0x2510 + 1) % 2 ^ 32
      ∧ (∀ x, (u.core p).seq.cur = some x → x.sent = true → (t.core p).seq.cur = some { x with outcome := some 1 })
      ∧ t.tier = u.tier ∧ t.slice = u.slice ∧ t.obj = u.obj ∧ t.sm.commits = sdel u.sm.commits p)
  ∧ (∀ (s : State) (c p : Nat), s.Answers c p → (s.core p).seq.state = .stopped → (s.core p).upd.phase = .idle → (s.core p).rcmt.running = false →
    ∃ t, exec (.rcmtGo c) s = .next t ∧ (t.core p) = { s.core p with rcmt := { running := true } })
  ∧ (∀ (s : State) (c p : Nat), s.Answers c p → ((s.core p).seq.state ≠ .stopped ∨ (s.core p).upd.phase ≠ .idle ∨ (s.core p).rcmt.running = true) →
    ∃ t, exec (.rcmtGo c) s = .next t ∧ (t.core p) = { s.core p with rcmt := { (s.core p).rcmt with err := true } })
  ∧ (∀ (s : State) (c p : Nat), s.Answers c p → (s.core p).rcmt.running = true →
    ∃ t, exec (.rcmtDone c) s = .next t ∧ (t.core p).rcmt.running = false ∧ (t.core p).rcmt.done = true ∧ (t.core p).seq = (s.core p).seq
      ∧ t.t0 = s.t0)

/-- R199, R281 to R284: what exchange words send. -/
def Obligations.ExchangeWordsLeave : Prop :=
  (∀ (s : State) (c p i n sp dsp sa da : Nat) (e : Cqe) (w : CWord), s.WordAt c p 9 1 i e → w = e.word → e.n = 0 →
    sp = wbits w 53 1 → dsp = wbits w 52 1 → sa = wbits w 239 17 * 64 → da = wbits w 222 17 * 64 → n = (wbits w 206 16 + 1) * 64 →
    sa + n ≤ spaceSize sp → da + n ≤ spaceSize dsp → (s.localRead p sp sa n).2 = false → s.isLocalDev (wbits w 54 8) = true →
    ∃ t, exec (.exPut c i) s = .next t
      ∧ t.mesh = s.mesh ++ [.put p e.seqno (wbits w 62 10) dsp da (s.localRead p sp sa n).1 (if wbit w 46 then some (wbits w 47 5) else none)]
      ∧ ((t.core p).words 9)[i]? = some { e with n := 1, segs := 1 } ∧ t.t0 = s.t0 ∧ t.slice = s.slice ∧ (t.core p).hq = (s.core p).hq)
  ∧ (∀ (s : State) (c p i q : Nat) (e : Cqe) (l : List Nat) (k : Core), s.WordAt c p 9 2 i e → q = wbits e.word 69 3 → wbit e.word 68 = true →
    (s.core p).exchBlocked i e = false → (s.core p).reserveFor q = some (l, k) →
    ∃ (t : State) (r : RecvEnd), exec (.exHbind c i) s = .next t ∧ t.Finished p 9 i ∧ ((t.core p).handleQ q).recv = some r
      ∧ r.core = wbits e.word 58 10 ∧ r.dev = wbits e.word 50 8 ∧ r.rhq = wbits e.word 47 3 ∧ r.c = l.length ∧ r.reserved = l
      ∧ l.length = (s.core p).hqCredits q ∧ (t.core p).pools = k.pools ∧ ((t.core p).handleQ q).ents = ((s.core p).handleQ q).ents
      ∧ (∀ sp, s.isLocalDev r.dev = true → s.phys r.core = some sp → t.mesh = s.mesh ++ [.credit ((s.logical p).getD 0x3FF) sp r.rhq l.length])
      ∧ (s.isLocalDev r.dev = false → t.mesh = s.mesh ++ [.rcredit p r.dev r.core r.rhq l.length]))
  ∧ (∀ (s : State) (c p i q : Nat) (e : Cqe), s.WordAt c p 9 2 i e → q = wbits e.word 69 3 → wbit e.word 68 = false →
    (s.core p).exchBlocked i e = false →
    ∃ t, exec (.exHbind c i) s = .next t ∧ t.Finished p 9 i
      ∧ ((t.core p).handleQ q).send = some { core := wbits e.word 58 10, dev := wbits e.word 50 8, rhq := wbits e.word 47 3, credits := ((s.core p).handleQ q).early, retained := [] }
      ∧ (t.core p).pools = (s.core p).pools ∧ t.mesh = s.mesh)
  ∧ (∀ (s : State) (c p i q n : Nat) (e : Cqe) (x : HqEnt) (b : Nat × Nat × Nat) (f : SendEnd), s.WordAt c p 9 3 i e → e.n ≤ wRep e.word → e.vals = [] →
    (s.core p).exchBlocked i e = false → q = wbits e.word 66 3 → ((s.core p).handleQ q).send = some f →
    (s.core p).headHandle (wbits e.word 69 3) 9 e.seqno (if e.n = 0 then wbits e.word 62 4 else 0) = .ok x → b = (s.core p).buffer x.h →
    n = (wbits e.word 46 16 + 1) * 64 → n ≤ b.2.2 → b.2.1 + n ≤ spaceSize b.1 → (s.localRead p b.1 b.2.1 n).2 = false →
    s.mcGroup c q = none → f.credits ≠ 0 → s.isLocalDev f.dev = true →
    ∃ t, exec (.exHfwd c i) s = .next t
      ∧ t.mesh = s.mesh ++ [.handle p e.seqno q x.h (wbit e.word 39) f.core f.rhq x.epoch (s.localRead p b.1 b.2.1 n).1
          (if wbit e.word 40 then some (wbits e.word 41 5) else none)]
      ∧ ((t.core p).words 9)[i]? = some { e with n := e.n + 1, segs := e.segs + 1, vals := [] }
      ∧ ((t.core p).handleQ q).send = some { f with credits := f.credits - 1 }
      ∧ ((t.core p).handleQ (wbits e.word 69 3)).ents = ((s.core p).handleQ (wbits e.word 69 3)).ents.drop 1
      ∧ hIdx x.h ∈ (t.core p).transit ∧ t.t0 = s.t0 ∧ t.slice = s.slice)
  ∧ (∀ (s : State) (c p i q n : Nat) (e : Cqe) (x : HqEnt) (b : Nat × Nat × Nat) (f : SendEnd), s.WordAt c p 9 3 i e → e.n ≤ wRep e.word → e.vals = [] →
    (s.core p).exchBlocked i e = false → q = wbits e.word 66 3 → ((s.core p).handleQ q).send = some f →
    (s.core p).headHandle (wbits e.word 69 3) 9 e.seqno (if e.n = 0 then wbits e.word 62 4 else 0) = .ok x → b = (s.core p).buffer x.h →
    n = (wbits e.word 46 16 + 1) * 64 → n ≤ b.2.2 → b.2.1 + n ≤ spaceSize b.1 → s.mcGroup c q = none → f.credits = 0 →
    ∃ t, exec (.exHfwd c i) s = .next t ∧ (t.core p).count 0x3A98 = ((s.core p).count 0x3A98 + 1) % 2 ^ 32 ∧ t.mesh = s.mesh
      ∧ ((t.core p).words 9)[i]? = some { e with vals := [x.h, x.epoch] } ∧ (t.core p).heldH = (s.core p).heldH ++ [hIdx x.h]
      ∧ ((t.core p).handleQ (wbits e.word 69 3)).ents = ((s.core p).handleQ (wbits e.word 69 3)).ents.drop 1)
  ∧ (∀ (s : State) (c p i q n h ep : Nat) (e : Cqe) (b : Nat × Nat × Nat) (f : SendEnd), s.WordAt c p 9 3 i e → e.vals = [h, ep] →
    (s.core p).exchAhead i e exchPushes = false → q = wbits e.word 66 3 → ((s.core p).handleQ q).send = some f → b = (s.core p).buffer h →
    n = (wbits e.word 46 16 + 1) * 64 → n ≤ b.2.2 → b.2.1 + n ≤ spaceSize b.1 → (s.localRead p b.1 b.2.1 n).2 = false →
    s.mcGroup c q = none → f.credits ≠ 0 → s.isLocalDev f.dev = true →
    ∃ t, exec (.exHfwd c i) s = .next t
      ∧ t.mesh = s.mesh ++ [.handle p e.seqno q h (wbit e.word 39) f.core f.rhq ep (s.localRead p b.1 b.2.1 n).1
          (if wbit e.word 40 then some (wbits e.word 41 5) else none)]
      ∧ ((t.core p).words 9)[i]? = some { e with n := e.n + 1, segs := e.segs + 1, vals := [] }
      ∧ ((t.core p).handleQ q).send = some { f with credits := f.credits - 1 } ∧ hIdx h ∈ (t.core p).transit)

/-- R199, R202, R287, R288: mailboxes and Felt blocks. -/
def Obligations.ExchangeMessagesAndBlocks : Prop :=
  (∀ (s : State) (c p i n : Nat) (e : Cqe) (l : List DqEnt), s.WordAt c p 9 4 i e → e.n = 0 → n = wbits e.word 46 8 + 1 →
    (s.core p).exchBlocked i e = false →
    (∀ x ∈ ((s.core p).words 9).take i, x.started = true → x.fin = false → wOp x.word = 4 → mailBox x.word ≠ mailBox e.word) →
    (s.core p).headDq (wIna e.word) (if 128 < n then 2 else 1) = some l → (∀ x ∈ l, x.poison = false) → s.isLocalDev (wbits e.word 54 8) = true →
    ∃ t, exec (.exMail c i) s = .next t
      ∧ t.mesh = s.mesh ++ [.mail p e.seqno (wbits e.word 62 10) (wbits e.word 42 4) c ((l.flatMap fun x => bytesOf 128 x.data.toNat).take n) false]
      ∧ ((t.core p).words 9)[i]? = some { e with n := 1, segs := 1 }
      ∧ (t.core p).dq = ((s.core p).dropDq (wIna e.word) (if 128 < n then 2 else 1)).dq)
  ∧ (∀ (s : State) (c p i j : Nat) (e : Cqe) (m : MbxMsg), s.WordAt c p 9 5 i e → (s.core p).exchBlocked i e = false →
    (s.core p).mbx[j]? = some m → (wbit e.word 41 = true ∨ m.tag = wbits e.word 42 4) →
    (∀ y ∈ (s.core p).mbx.take j, wbit e.word 41 = false ∧ y.tag ≠ wbits e.word 42 4) →
    (s.core p).dqRoom (wOut e.word) (entriesOf m.data).length = true →
    ∃ t, exec (.exMrecv c i) s = .next t ∧ t.Finished p 9 i ∧ (t.core p).mbx = (s.core p).mbx.eraseIdx j
      ∧ ((t.core p).dataQ (wOut e.word)).ents = ((s.core p).dataQ (wOut e.word)).ents ++ (entriesOf m.data).map (fun x => { data := x, tok := e.seqno }))
  ∧ (∀ (s : State) (c p i : Nat) (e : Cqe) (l : List DqEnt) (w16 : Bool) (b : FeltBlk), s.WordAt c p 9 6 i e →
    (s.core p).exchBlocked i e = false → w16 = wbit e.word 71 → (s.core p).dqRoom (wOut e.word) (if w16 then 2 else 3) = true →
    (s.core p).headDq (wIna e.word) 2 = some l → (∀ x ∈ l, x.poison = false) → wIna e.word ≠ wOut e.word →
    b = feltQuantise ((unpackBits 32 64 (numOf (entsBytes l))).map fun x => f32 (BitVec.ofNat 32 x)) (s.feltE e.word) w16 →
    ∃ t, exec (.exFelt c i) s = .next t
      ∧ ((t.core p).dataQ (wOut e.word)).ents
          = ((s.core p).dataQ (wOut e.word)).ents ++ (entriesOf (feltBytes w16 b)).map (fun x => { data := x, tok := e.seqno })
      ∧ ((t.core p).dataQ (wIna e.word)).ents = ((s.core p).dataQ (wIna e.word)).ents.drop 2
      ∧ ((t.core p).words 9)[i]? = some { e with n := e.n + 1, fin := decide (e.n = wRep e.word) })
  ∧ (∀ (s : State) (c p i : Nat) (e : Cqe) (l : List DqEnt) (b : FeltBlk), s.WordAt c p 9 0x40 i e →
    (s.core p).exchBlocked i e = false → (s.core p).dqRoom (wOut e.word) 2 = true →
    (s.core p).headDq (wIna e.word) 2 = some l → (∀ x ∈ l, x.poison = false) → wIna e.word ≠ wOut e.word →
    b = feltQuantise ((unpackBits 32 64 (numOf (entsBytes l))).map fun x => f32 (BitVec.ofNat 32 x)) (wbits e.word 62 8) true →
    ∃ t, exec (.gconv c i) s = .next t
      ∧ ((t.core p).dataQ (wOut e.word)).ents = ((s.core p).dataQ (wOut e.word)).ents
          ++ (entriesOf (feltBytes true { b with count := 0, nf := false, ovf := false, extra := 0 })).map (fun x => { data := x, tok := e.seqno })
      ∧ ((t.core p).dataQ (wIna e.word)).ents = ((s.core p).dataQ (wIna e.word)).ents.drop 2
      ∧ ((t.core p).words 9)[i]? = some { e with n := e.n + 1, fin := decide (e.n = wRep e.word) })
  ∧ (∀ (s : State) (c p i slot : Nat) (e : Cqe) (x : CollInst) (l : List DqEnt) (b : FeltBlk), s.WordAt c p 9 7 i e → (s.core p).pre.saved = none →
    s.collOf (wbits e.word 64 8) = some (slot, x) → s.inst slot = x → s.dKind x.c = 3 → e.n = 0 → (s.core p).exchBlocked i e = false →
    (s.core p).headDq (wIna e.word) 3 = some l → (∀ y ∈ l, y.poison = false) → b = feltOfBytes false (entsBytes l) →
    ∃ t, exec (.exColl c i) s = .next t ∧ t.mesh = s.mesh ++ [.normUp p x.c { b with n := b.n.take 16 ++ List.replicate 48 0 }]
      ∧ ((t.core p).words 9)[i]? = some { e with n := 1 }
      ∧ ((t.core p).dataQ (wIna e.word)).ents = ((s.core p).dataQ (wIna e.word)).ents.drop 3)
  ∧ (∀ (s u : State) (c p i slot pos b ex : Nat) (e : Cqe) (x : CollInst) (d : CDesc) (v : List Fp), s.WordAt c p 9 7 i e →
    (s.core p).pre.saved = none → s.collOf (wbits e.word 64 8) = some (slot, x) → s.inst slot = x → s.dKind x.c ≠ 3 → e.segs = 1 → d = s.desc x.c →
    pos = (s.logical p).getD 0 - d.cfirst → b = e.n % max 1 d.nblk → s.ebOf x b = some ex →
    s.contrib d p pos (e.n / max 1 d.nblk) b e = .ok (v, u) → u.desc x.c = d → (d.owner x.m b).2.1 ≠ pos →
    ((feltQuantise v ex d.w).nf = false ∨ d.nfPol = false) →
    ∃ t, exec (.exColl c i) s = .next t ∧ t.mesh = s.mesh ++ [.block p (s.chipOwner d x.m b) x.c b false ⟨1, 0, feltCandidate v, feltQuantise v ex d.w⟩]
      ∧ ((t.core p).words 9)[i]? = some (if e.n + 1 < d.ncont * d.nblk then { e with n := e.n + 1 } else { e with n := 0, segs := 2 }))

/-- R282 to R287: deliveries over the mesh. -/
def Obligations.MeshDeliveriesLand : Prop :=
  (∀ (s : State) (k src word dst sp a p : Nat) (d : List Byte), s.mesh[k]? = some (.put src word dst sp a d none) → s.inOrder k = true →
    s.phys dst = some p → s.inReset p = false →
    ∃ t, exec (.putDelivery k) s = .next t ∧ t.mesh = s.mesh.eraseIdx k ++ [.ack dst src word none 0 false] ∧ (t.localRead p sp a d.length).1 = d
      ∧ (∀ b, b < t0Key p a ∨ t0Key p a + d.length ≤ b ∨ sp ≠ 0 → Memory.read t.t0 b = Memory.read s.t0 b)
      ∧ (∀ b, b < sliceKey p a ∨ sliceKey p a + d.length ≤ b ∨ sp = 0 → Memory.read t.slice b = Memory.read s.slice b)
      ∧ t.tier = s.tier ∧ t.cores = s.cores)
  ∧ (∀ (s : State) (k src word dst sp a p b : Nat) (d : List Byte), s.mesh[k]? = some (.put src word dst sp a d (some b)) → s.inOrder k = true →
    s.phys dst = some p → s.inReset p = false → s.holds p (some src) = false → ¬(((s.core p).bar b).dist < 32768 ∧ 32768 ≤ ((s.core p).bar b).dist + 1) →
    ∃ t, exec (.putDelivery k) s = .next t ∧ t.mesh = s.mesh.eraseIdx k ++ [.ack dst src word none 0 false] ∧ (t.localRead p sp a d.length).1 = d
      ∧ (t.core p).bar b = { (s.core p).bar b with count := (((s.core p).bar b).count + 1) % 65536 })
  ∧ (∀ (s : State) (k src word dst sp a : Nat) (d : List Byte) (b : Option Nat), s.mesh[k]? = some (.put src word dst sp a d b) →
    s.inOrder k = true → s.phys dst = none →
    ∃ t, exec (.putDelivery k) s = .next t ∧ t.mesh = s.mesh.eraseIdx k ++ [.ack dst src word none 0 false] ∧ t.t0 = s.t0 ∧ t.slice = s.slice
      ∧ t.tier = s.tier)
  ∧ (∀ (s : State) (k src word shq h dst rhq ep p i : Nat) (ret : Bool) (d : List Byte) (r : RecvEnd) (l : List Nat) (b : BtEnt),
    s.mesh[k]? = some (.handle src word shq h ret dst rhq ep d none) → s.inOrder k = true → s.phys dst = some p → s.inReset p = false → s.holds p (some src) = false →
    ((s.core p).handleQ rhq).recv = some r → r.reserved = i :: l → r.part = none → i < 256 → b = (s.core p).btEnt i → d.length ≤ (b.size + 1) * 64 →
    b.base * 64 + d.length ≤ spaceSize b.space →
    ∃ (t : State) (tok : Nat), exec (.handleDelivery k) s = .next t ∧ t.mesh = s.mesh.eraseIdx k ++ [.ack dst src word (some shq) h ret]
      ∧ (t.localRead p b.space (b.base * 64) d.length).1 = d ∧ (t.core p).btEnt i = { b with tag := (b.tag + 1) % 256 }
      ∧ (t.core p).handleQ rhq = { (s.core p).handleQ rhq with
          recv := some { r with reserved := l }
          ents := ((s.core p).handleQ rhq).ents ++ [{ h := i + 256 * ((b.tag + 1) % 256), epoch := ep, tok := tok }] })
  ∧ (∀ (s : State) (k src p word h i : Nat) (ret : Bool) (e : Cqe), s.mesh[k]? = some (.ack src p word none h ret) → s.inOrder k = true →
    s.inReset p = false → ((s.core p).words 9)[i]? = some e →
    e.started = true → e.fin = false → e.seqno = word → wOp e.word ≠ 3 → e.n ≠ 0 →
    ∃ t, exec (.exchAck k) s = .next t ∧ t.mesh = s.mesh.eraseIdx k
      ∧ ((t.core p).words 9)[i]? = some { e with segs := e.segs - 1, fin := decide (e.segs ≤ 1) }
      ∧ (∀ (j : Nat) (f : Cqe), ((s.core p).words 9)[j]? = some f → f.seqno ≠ word → ((t.core p).words 9)[j]? = some f)
      ∧ (t.core p).hq = (s.core p).hq ∧ (∀ q, q ≠ p → t.core q = s.core q))
  ∧ (∀ (s : State) (k src p q n : Nat) (e : SendEnd), s.mesh[k]? = some (.credit src p q n) → s.inOrder k = true → s.inReset p = false → ((s.core p).handleQ q).send = some e →
    s.holds p none = false →
    ∃ t, exec (.creditReturn k) s = .next t ∧ t.mesh = s.mesh.eraseIdx k
      ∧ (t.core p).handleQ q = { (s.core p).handleQ q with send := some { e with credits := e.credits + n } }
      ∧ (∀ r, r ≠ q → (t.core p).handleQ r = (s.core p).handleQ r))
  ∧ (∀ (s : State) (k src word dst tag sc p : Nat) (d : List Byte), s.mesh[k]? = some (.mail src word dst tag sc d false) →
    s.inOrder k = true → dst ≠ 0x3FF → s.phys dst = some p → s.inReset p = false → (s.core p).mbx.length < 16 →
    ∃ t, exec (.mailboxMessage k) s = .next t ∧ t.mesh = s.mesh.eraseIdx k
      ∧ (t.core p).mbx = (s.core p).mbx ++ [{ srcCore := sc, srcDev := s.devId, tag := tag, data := d }])
  ∧ (∀ (s : State) (k src word dst tag sc p : Nat) (d : List Byte), s.mesh[k]? = some (.mail src word dst tag sc d false) →
    s.inOrder k = true → dst ≠ 0x3FF → s.phys dst = some p → s.inReset p = false → 16 ≤ (s.core p).mbx.length →
    exec (.mailboxMessage k) s = .next { s with mesh := s.mesh.set k (.mail src word dst tag sc d true) })
  ∧ (∀ (s : State) (k src word dst tag sc : Nat) (d : List Byte), s.mesh[k]? = some (.mail src word dst tag sc d true) →
    ∃ t, exec (.mailboxRetry k) s = .next t ∧ t.mesh = s.mesh.set k (.mail src word dst tag sc d false)
      ∧ (t.core src).count 0x3A94 = ((s.core src).count 0x3A94 + 1) % 2 ^ 32)

/-- R244 to R252: the step monitor. -/
def Obligations.StepMonitorRounds : Prop :=
  (∀ (s : State) (k src c st a n : Nat), s.mesh[k]? = some (.openNotice src c st a n) → s.inOrder k = true → s.sm.sent.contains (st, a) = false →
    ∃ t, exec (.openNoticeReceive k) s = .next t ∧ t.mesh = s.mesh.eraseIdx k ∧ t.cores = s.cores
      ∧ (∃ l ∈ t.sm.ledgers, l.step = st ∧ l.attempt = a ∧ c ∈ l.opened))
  ∧ (∀ (s : State) (k src c st a n : Nat), s.mesh[k]? = some (.openNotice src c st a n) → s.inOrder k = true → s.sm.sent.contains (st, a) = true →
    (s.core src).seq.state ≠ .halted → (s.core src).seq.state ≠ .frozen →
    ∃ t, exec (.openNoticeReceive k) s = .next t ∧ t.sm = s.sm ∧ (t.core src).seq.state = .halted
      ∧ (t.core src).seq.halt = { pc := (s.core src).seq.stepPc, unit := 0, reason := 0x01, seqno := n, info := 0xC })
  ∧ (∀ (s : State) (k src : Nat) (r : CloseReport) (l : Ledger), s.mesh[k]? = some (.closeReport src r) → s.inOrder k = true → s.sm.ledgers = [l] →
    l.step = r.step → l.attempt = r.attempt → (∃ c ∈ l.opened, c ≠ r.core ∧ c ∉ l.reported) →
    ∃ t, exec (.closeReportReceive k) s = .next t ∧ t.mesh = s.mesh.eraseIdx k
      ∧ t.sm.ledgers = [{ l with acc := totalsAdd l.acc (reportTotals r), reported := sins l.reported r.core }])
  ∧ (∀ (s : State) (k src : Nat) (r : CloseReport) (l : Ledger), s.mesh[k]? = some (.closeReport src r) → s.inOrder k = true → s.sm.ledgers = [l] →
    l.step = r.step → l.attempt = r.attempt → l.opened ≠ [] → (∀ c ∈ l.opened, c = r.core ∨ c ∈ l.reported) → s.colls = [] → s.isAnchor = true →
    ∃ t, exec (.closeReportReceive k) s = .next t ∧ t.sm.ledgers = [] ∧ t.sm.sent = s.sm.sent ++ [(r.step, r.attempt)]
      ∧ t.mesh = s.mesh.eraseIdx k ++ [.totals { totalsAdd l.acc (reportTotals r) with late := l.late }])
  ∧ (∀ (s : State) (d m : Nat) (x : Totals) (r : Round), s.isAnchor = true → x.done = false → s.sm.rounds = [r] → r.step = x.step →
    r.attempt = x.attempt → m ∈ r.roster → m ≠ d → afind r.got m = none →
    ∃ t, exec (.deviceTotalsReceive d (some x)) s = .next t ∧ t.sm = { s.sm with rounds := [{ r with got := aset r.got d x }] } ∧ t.mesh = s.mesh)
  ∧ (∀ (s : State) (x : Totals) (pol : Nat), s.isAnchor = true → x.done = false → s.sm.rounds = [] → s.roster = [s.devId] → pol = (aget 1 s.regs 0x8010).toNat →
    ∃ (t : State) (v : Verdict), exec (.deviceTotalsReceive s.devId (some x)) s = .next t ∧ t.mesh = s.mesh ++ [.verdict v] ∧ v.totals = x
      ∧ t.sm.rounds = [] ∧ (x.late = true → v.verdict = 3)
      ∧ (x.late = false → (v.verdict = 2 ↔ x.laccSat.any id = true ∨ (bitAt pol 0 = true ∧ (x.updNf ≠ 0 ∨ x.normNf ≠ 0))
          ∨ (bitAt pol 1 = true ∧ x.drnNf + x.lossNf ≠ 0) ∨ (bitAt pol 2 = true ∧ (aget 0 s.regs 0x8024).toNat < x.drnSat)
          ∨ (bitAt pol 3 = true ∧ v.spike = true)) ∧ (v.verdict = 1 ∨ v.verdict = 2))
      ∧ (x.lossCount = 0 → v.spike = false ∧ v.ewma = s.sm.ewma))
  ∧ (∀ (s : State) (p : Nat) (c : Core) (v : Verdict) (u : SeqCur), (s.cores.map Prod.fst).Nodup → (p, c) ∈ s.cores → c.pre.saved = none →
    c.active = true → c.seq.open_ = true → c.seq.step = v.totals.step → c.seq.attempt = v.totals.attempt → c.seq.cur = some u → u.sent = true →
    u.outcome = none → c.pre.contCommit = false → v.verdict = 2 →
    ∃ t, exec (.verdictReceive (some v)) s = .next t ∧ t.sm.verdict = some v ∧ t.sm.stepsSeen = v.stepsSeen ∧ t.sm.ewma = v.ewma
      ∧ (t.core p).upd.stg = 0 ∧ (t.core p).upd.phase = .idle ∧ (t.core p).upd.touched = []
      ∧ (t.core p).count 0x2514 = (c.count 0x2514 + 1) % 2 ^ 32 ∧ (t.core p).seq.cur = some { u with outcome := some 2 }
      ∧ t.tier = s.tier ∧ t.slice = s.slice ∧ t.t0 = s.t0)
  ∧ (∀ (s : State) (l : Ledger), l ∈ s.sm.ledgers → l.reported ≠ [] → l.timed = false →
    ∃ t, exec .closeDeadline s = .next t ∧ (aget 0 t.regs 0x8038).getLsbD 6 = true ∧ t.count 0x809C = (s.count 0x809C + 1) % 2 ^ 32
      ∧ (∀ x ∈ t.sm.ledgers, x.reported ≠ [] → x.timed = true) ∧ t.sm.ledgers.length = s.sm.ledgers.length)

/-- R167, R176, R396: the commands that run cores. -/
def Obligations.HostCommandsRunCores : Prop :=
  (∀ (s : State) (r : Nat) (c : BitVec 512) (img d : List Byte) (l : List Section) (x : Section × Nat) (pc : Nat), s.HostCmd r 0x01 c →
    d = img.take (cmdField c 32 8) → leAt d 6 2 = 1 → s.sec.recovery = false → s.sealed_ = false → s.headerCheck d = (0, 0) → l = sectionsOf d →
    (∀ n ∈ cmdSet c, ∃ p, s.phys n = some p ∧ (s.core p).parked = true) →
    s.imageFits (cmdField c 40 2) (cmdField c 42 2) (placeSections l 0 0).2.1 (placeSections l 0 0).2.2 = true →
    (∀ y ∈ l, y.ok d.length = true) → (placeSections l 0 0).1.find? (fun y => y.1.typ = 1) = some x →
    pc = (((s.objEnt (if x.1.inT1 then cmdField c 42 2 else cmdField c 40 2)).start + x.2) / 16 + leAt d 40 8) % 2 ^ 48 →
    ∃ t, exec (.loadImage r img) s = .next t ∧ s.Completes t r c {}
      ∧ (∀ n ∈ cmdSet c, ∀ p, s.phys n = some p → (t.core p).seq = { (s.core p).seq with start := pc, pc := pc, fetch := [], fills := [] }))
  ∧ (∀ (s : State) (r : Nat) (c : BitVec 512), s.HostCmd r 0x02 c → bitAt (cmdField c 20 1) 0 = false →
    (∀ n ∈ cmdSet c, ∃ p, s.phys n = some p ∧ (s.core p).seq.state = .stopped) →
    ∃ t, exec (.start r) s = .next t ∧ s.Completes t r c {}
      ∧ (∀ n ∈ cmdSet c, ∀ p, s.phys n = some p → t.core p = { s.core p with seq := { (s.core p).seq with state := .running, stopping := false } }))
  ∧ (∀ (s : State) (r : Nat) (c : BitVec 512), s.HostCmd r 0x02 c → bitAt (cmdField c 20 1) 0 = true →
    (∀ n ∈ cmdSet c, ∃ p, s.phys n = some p ∧ (s.core p).parked = true ∧ (s.core p).inCommit = false) →
    ∃ t, exec (.start r) s = .next t ∧ s.Completes t r c {}
      ∧ (∀ n ∈ cmdSet c, ∀ p, s.phys n = some p → (t.core p).seq.state = .running ∧ (t.core p).seq.pc = (s.core p).seq.start ∧ (t.core p).cq = []))
  ∧ (∀ (s : State) (r : Nat) (c : BitVec 512), s.HostCmd r 0x03 c →
    (∀ n ∈ cmdSet c, ∀ p, s.phys n = some p → (s.core p).active = true → (s.core p).synced = true ∧ (s.core p).seq.cur = none) →
    ∃ t, exec (.stop r) s = .next t ∧ s.Completes t r c {}
      ∧ (∀ n ∈ cmdSet c, ∀ p, s.phys n = some p → (t.core p).seq.state = (if (s.core p).active then .stopped else (s.core p).seq.state)))
  ∧ (∀ (s : State) (r n p : Nat) (c : BitVec 512), s.HostCmd r 0x03 c → n ∈ cmdSet c → s.phys n = some p → (s.core p).active = true →
    (s.core p).synced = false →
    ∃ t, exec (.stop r) s = .next t ∧ t.GoesOn r c ∧ (t.core p).seq.state = .running ∧ (t.core p).seq.stopping = true ∧ t.out = s.out)
  ∧ (∀ (s : State) (r : Nat) (c : BitVec 512), s.HostCmd r 0x04 c → cmdField c 24 6 = 0 →
    (∀ n ∈ cmdSet c, ∃ p, s.phys n = some p ∧ (s.core p).pre.phase = .none
      ∧ ((s.core p).seq.state = .running ∨ (s.core p).seq.state = .stopped ∨ (s.core p).seq.state = .done)) →
    ∃ t, exec (.preempt r) s = .next t ∧ t.GoesOn r c
      ∧ (∀ n ∈ cmdSet c, ∀ p, s.phys n = some p → t.core p = { s.core p with pre := { (s.core p).pre with host := true, prog := none } }))
  ∧ (∀ (s : State) (r : Nat) (c : BitVec 512), s.Running r 0x04 c → (∀ n ∈ cmdSet c, ∃ p, s.phys n = some p ∧ (s.core p).pre.phase = .saved) →
    ∃ t, exec (.preempt r) s = .next t ∧ s.Completes t r c {} ∧ t.cores = s.cores)
  ∧ (∀ (s : State) (r : Nat) (c : BitVec 512), s.HostCmd r 0x05 c →
    (∀ n ∈ cmdSet c, ∃ p, s.phys n = some p ∧ (s.core p).pre.phase = .saved ∧ (s.core p).seq.state ≠ .running ∧ (s.core p).seq.state ≠ .frozen) →
    ∃ t, exec (.resume r) s = .next t ∧ t.GoesOn r c
      ∧ (∀ n ∈ cmdSet c, ∀ p, s.phys n = some p → (t.core p).pre.phase = .restoring ∧ (t.core p).pre.saved = (s.core p).pre.saved))
  ∧ (∀ (s : State) (r : Nat) (c : BitVec 512), s.Running r 0x05 c → (∀ n ∈ cmdSet c, ∀ p, s.phys n = some p → (s.core p).pre.phase ≠ .restoring) →
    ∃ t, exec (.resume r) s = .next t ∧ s.Completes t r c {} ∧ t.cores = s.cores)
  ∧ (∀ (s : State) (r n p : Nat) (c : BitVec 512) (q : StepRec), s.HostCmd r 0x0B c → cmdSet c = [n] → s.phys n = some p →
    (s.core p).pre.phase = .none → (s.core p).seq.open_ = true → (s.core p).inCommit = false → ((s.core p).parked = true ∨ (s.core p).seq.state = .running) →
    (s.core p).seq.repeatRec = some q →
    ∃ t, exec (.stepRepeat r) s = .next t ∧ s.Completes t r c {} ∧ (t.core p).seq.state = .running ∧ (t.core p).seq.pc = (s.core p).seq.stepPc
      ∧ (t.core p).seq.loops = q.loops ∧ (t.core p).seq.lc = q.lc ∧ (t.core p).seq.bars = q.bars ∧ (t.core p).seq.open_ = false
      ∧ (t.core p).seq.repeating = true ∧ (t.core p).upd.stg = 0 ∧ (t.core p).cq = [])

/-- R306, R396, R414 to R416, R421, R426, R450. -/
def Obligations.HostCommandsConfigure : Prop :=
  (∀ (s : State) (r i : Nat) (c : BitVec 512) (d : MigDest), s.HostCmd r 0x06 c → i = cmdField c 16 2 → (s.objEnt i).valid = true →
    (∀ m ∈ s.obj.migs, m.obj ≠ i) →
    d = { base := cmdField c 24 6, tier := bitsOf (cmdField c 18 1) 0 2, stripe := bitsOf (cmdField c 18 1) 2 4, muslin := bitAt (cmdField c 18 1) 6, mw := cmdField c 19 1 % 4, metaObj := cmdField c 20 2 } →
    s.migRule i ((s.objEnt i).moved d) = none →
    ∃ t, exec (.migrate r) s = .next t ∧ t.GoesOn r c ∧ (∃ m ∈ t.obj.migs, m.obj = i ∧ m.dest = (s.objEnt i).moved d ∧ m.ring = some r)
      ∧ t.out = s.out)
  ∧ (∀ (s : State) (r : Nat) (c : BitVec 512) (list : List (Nat × BitVec 32)), s.HostCmd r 0x07 c → bitAt (cmdField c 36 1) 0 = true →
    bitAt (cmdField c 36 1) 1 = false → s.cfg.st = 0 → cmdField c 32 4 = 0 →
    ∃ t, exec (.stage r list) s = .next t ∧ s.Completes t r c {} ∧ t.cfg.st = 1 ∧ t.cfg.lmap = s.lmap ∧ t.staged = [] ∧ t.epoch = s.epoch
      ∧ t.lmap = s.lmap)
  ∧ (∀ (s : State) (r o : Nat) (c : BitVec 512) (v : BitVec 32), s.HostCmd r 0x07 c → bitAt (cmdField c 36 1) 0 = false →
    s.cfg.st = 1 → s.cfg.locked = false → cmdField c 32 4 = 1 → (stagedReg o).isSome = true →
    ∃ t, exec (.stage r [(o, v)]) s = .next t ∧ s.Completes t r c {} ∧ t.staged = aset s.staged o v ∧ aget 0 t.regs o = aget 0 s.regs o
      ∧ t.cfg = s.cfg)
  ∧ (∀ (s : State) (r : Nat) (c : BitVec 512), s.HostCmd r 0x08 c → s.checkDetail = none →
    ∃ t, exec (.check r) s = .next t ∧ s.Completes t r c {} ∧ aget 1 t.regs 0xC018 = 0 ∧ t.cfg = s.cfg ∧ t.flip = s.flip)
  ∧ (∀ (s : State) (r d : Nat) (c : BitVec 512), s.HostCmd r 0x08 c → s.checkDetail = some d →
    ∃ t, exec (.check r) s = .next t ∧ s.Completes t r c { status := 0x07, detail := d } ∧ aget 0 t.regs 0xC018 = BitVec.ofNat 32 d
      ∧ t.count 0xC044 = (s.count 0xC044 + 1) % 2 ^ 32 ∧ t.cfg = s.cfg ∧ t.flip = s.flip)
  ∧ (∀ (s : State) (r : Nat) (c : BitVec 512), s.HostCmd r 0x09 c → s.cfg.st ≠ 0 → s.checkDetail = none →
    ∃ (t : State) (f : Flip), exec (.commit r) s = .next t ∧ t.GoesOn r c ∧ t.flip = some f ∧ f.epoch = (s.epoch + 1) % 16 ∧ f.flipped = []
      ∧ f.ring = some r ∧ f.regs = s.staged ∧ t.cfg.st = 3 ∧ t.epoch = s.epoch ∧ t.lmap = s.lmap)
  ∧ (∀ (s : State) (r : Nat) (c : BitVec 512), s.HostCmd r 0x0A c → s.cfg.st ≠ 0 →
    ∃ t, exec (.abort r) s = .next t ∧ s.Completes t r c {} ∧ t.cfg = {} ∧ t.staged = [] ∧ t.obj.staged = [] ∧ t.epoch = s.epoch ∧ t.lmap = s.lmap
      ∧ t.obj.table = s.obj.table)
  ∧ (∀ (s : State) (r p : Nat) (c : BitVec 512), s.HostCmd r 0x0D c → bitAt (cmdField c 16 2) 15 = true → p = cmdField c 16 2 % 1024 → p < 512 →
    p ∉ s.fused → (∀ f ∈ s.fences, f.p ≠ p) →
    ∃ t, exec (.fence r) s = .next t ∧ s.Completes t r c {} ∧ t.fences = s.fences ++ [{ p := p, cause := 8, persist := false }]
      ∧ (t.core p).seq.state = .stopped ∧ p ∉ t.spares ∧ (∀ x ∈ t.lmap, x.2.phys = p → x.2.valid = false) ∧ (t.core p).fence.fenced = true)
  ∧ (∀ (s : State) (r p : Nat) (c : BitVec 512), s.HostCmd r 0x0E c → p = cmdField c 16 2 % 512 → s.isFenced p = true →
    (s.cluster (clusterOf p)).oos = false →
    ∃ t, exec (.unfence r true) s = .next t ∧ s.Completes t r c {} ∧ t.isFenced p = false ∧ p ∈ t.spares ∧ (t.core p).fence = {} ∧ t.lmap = s.lmap)
  ∧ (∀ (s : State) (r : Nat) (c : BitVec 512), s.HostCmd r 0x0C c → 2820 ≤ cmdField c 32 4 →
    ∃ t, exec (.attest r) s = .next t ∧ s.Completes t r c {}
      ∧ OutEvent.hostWrite (cmdField c 24 8) (s.evidence (bytesOf 28 (cmdField c 36 28))) ∈ t.out ∧ t.cores = s.cores)
  ∧ (∀ (s : State) (r : Nat) (c : BitVec 512), s.HostCmd r 0x0F c → cmdField c 16 1 = 1 →
    ∃ t, exec (.query r) s = .next t ∧ s.Completes t r c {}
      ∧ OutEvent.hostWrite (cmdField c 24 8) (((s.ring r).last.flatMap fun x => [BitVec.ofNat 8 x.2.1, BitVec.ofNat 8 x.2.2, BitVec.ofNat 8 x.1, 0]).take (cmdField c 32 4)) ∈ t.out
      ∧ t.cores = s.cores)

/-- R393, R394, R400: doorbells and relays. -/
def Obligations.RingsTakeDoorbellsAndRelays : Prop :=
  (∀ (s : State) (r tail : Nat), r < 17 → s.ringOn r = true → tail < s.sqSize r → (s.ring r).job.isSome = true → (∀ j ∈ (s.ring r).job, knownOpc (cmdOpc j.cmd) = true) →
    ∃ t, exec (.sqTail r tail) s = .next t ∧ t.ring r = { s.ring r with sqTail := tail }
      ∧ (r ≠ 0 → (aget 0 t.regs 0x200400).getLsbD r = true) ∧ t.bar2 = s.bar2)
  ∧ (∀ (s : State) (r tail : Nat), r < 17 → s.ringOn r = true → s.sqSize r ≤ tail →
    ∃ t, exec (.sqTail r tail) s = .next t ∧ t = s.setRing r { s.ring r with badDb := true })
  ∧ (∀ (s : State) (r head u : Nat) (e : List Byte), r < 17 → s.ringOn r = true → head < s.cqSize r → (s.ring r).held = some e →
    u = (s.ring r).cqUsed - (head + s.cqSize r - (s.ring r).cqHead % s.cqSize r) % s.cqSize r → u < s.cqSize r →
    ∃ t, exec (.cqHead r head) s = .next t
      ∧ OutEvent.hostWrite (s.cqBase r + 16 * (s.ring r).cqTail) ((e.take 16).set 7 (if (s.ring r).phase then 1 else 0)) ∈ t.out
      ∧ (t.ring r).cqHead = head)
  ∧ (∀ (s : State) (src g : Nat) (c : BitVec 512) (d : List Byte) (j : RingJob) (l : List RingJob), g < 17 → (s.ring (32 + g)).queue = j :: l →
    j.started = true →
    ∃ t, exec (.relayedCommandReceive src g c d) s = .next t
      ∧ t.ring (32 + g) = { s.ring (32 + g) with src := src, queue := j :: l ++ [{ cmd := c, payload := d }] } ∧ t.cores = s.cores)
  ∧ (∀ (s : State) (src g : Nat) (c : BitVec 512) (d : List Byte), g < 17 → (s.ring (32 + g)).queue = [] → cmdOpc c = 0x0A →
    s.cmdWaits c = false → s.precheck (32 + g) c = none → s.cfg.st ≠ 0 → src ≠ s.devId →
    ∃ t, exec (.relayedCommandReceive src g c d) s = .next t ∧ t.cfg = {} ∧ t.staged = [] ∧ (t.ring (32 + g)).queue = [])
  ∧ (∀ (s : State) (r d st sub : Nat) (y : RelayJob) (j : RingJob) (l : Amap (Nat × Nat)), r < 17 → (s.ring r).relay = some y → (s.ring r).job = some j →
    d ∈ y.members → afind y.results d = none → l = aset y.results d (st, sub) → l.length = y.members.length → (s.ring r).cqUsed < s.cqSize r →
    ∃ t, exec (.relayResultReceive r d st sub) s = .next t ∧ (t.ring r).last = l
      ∧ ((∀ x ∈ l, x.2.1 = 0) → s.Completes t r j.cmd {})
      ∧ (∀ x m, l.filter (fun z => z.2.1 ≠ 0) = x :: m →
          s.Completes t r j.cmd { status := 0x0B, subst := x.2.1, failCnt := m.length + 1, failDev := x.1 }))
  ∧ (∀ (s : State) (r d st sub : Nat) (y : RelayJob) (j : RingJob), (s.ring r).relay = some y → (s.ring r).job = some j →
    d ∈ y.members → afind y.results d = none → (aset y.results d (st, sub)).length ≠ y.members.length →
    ∃ t, exec (.relayResultReceive r d st sub) s = .next t ∧ (t.ring r).relay = some { y with results := aset y.results d (st, sub) } ∧ t.out = s.out)
  ∧ (∀ (s : State) (r d : Nat) (y : RelayJob) (j : RingJob) (l : Amap (Nat × Nat)), r < 17 → (s.ring r).relay = some y → (s.ring r).job = some j →
    y.members.filter (fun x => (afind y.results x).isNone) = [d] → l = aset y.results d (8, 0) → l.length = y.members.length → s.isLost d = false →
    (∀ x ∈ y.results, x.2.1 = 0) → (s.ring r).cqUsed < s.cqSize r →
    ∃ t, exec (.relayTimeout r) s = .next t ∧ s.Completes t r j.cmd { status := 0x0B, subst := 8, failCnt := 1, failDev := d })

/-- R416 to R418: flips and group commits. -/
def Obligations.FlipsAndGroupCommits : Prop :=
  (∀ (s : State) (f : Flip) (i : Nat), s.flip = some f → i < 626 → f.flipped.contains i = false → (i < 600 ∨ 624 ≤ i) →
    ∃ (t : State) (g : Flip), exec (.islandFlip i) s = .next t ∧ t.flip = some g ∧ g.flipped = sins f.flipped i ∧ g.epoch = f.epoch
      ∧ (i ≠ 624 → t.lmap = s.lmap ∧ t.cores = s.cores) ∧ t.epoch = s.epoch
      ∧ (i = 624 → ∀ (l : Nat) (x : MapEnt), afind f.lmap l = some x → ∃ e, afind t.lmap l = some e ∧ e.phys = x.phys ∧ e.valid = !s.isFenced x.phys))
  ∧ (∀ (s : State) (f : Flip) (r : Nat) (j : RingJob), s.flip = some f → f.flipped.length = 626 → s.oldWork = false → f.ring = some r → r < 17 →
    s.ringHead r = some j → j.started = true → (s.ring r).cqUsed < s.cqSize r → (∀ x ∈ f.regs, x.1 < 0x200000 ∨ 0x300000 ≤ x.1) →
    ∃ t, exec .flipComplete s = .next t ∧ t.flip = none ∧ t.epoch = f.epoch ∧ t.repoch = f.repoch ∧ t.cfg = {} ∧ t.staged = []
      ∧ t.count 0xC040 = (s.count 0xC040 + 1) % 2 ^ 32 ∧ t.obj.cgrp = f.cgrp ∧ t.obj.stripes = f.stripes ∧ s.Completes t r j.cmd {})
  ∧ (∀ (s : State) (f : Flip), s.flip = some f →
    ∃ t, exec .flipTimeout s = .next t ∧ t.flip = some f ∧ (aget 0 t.regs 0xC030).getLsbD 2 = true ∧ t.epoch = s.epoch)
  ∧ (∀ (s : State) (src e : Nat), s.powered = true → s.cfg.st ≠ 0 → s.checkDetail = none →
    ∃ t, exec (.prepareReceive src e) s = .next t ∧ t.cfg.st = 2 ∧ t.cfg.locked = true ∧ t.cfg.epoch = e ∧ t.cfg.from_ = src ∧ t.epoch = s.epoch
      ∧ t.flip = s.flip)
  ∧ (∀ (s : State) (src e d : Nat), s.powered = true → s.cfg.st ≠ 0 → s.checkDetail = some d →
    ∃ t, exec (.prepareReceive src e) s = .next t ∧ t.cfg = s.cfg ∧ aget 0 t.regs 0xC018 = BitVec.ofNat 32 d ∧ t.flip = s.flip)
  ∧ (∀ (s : State) (c : TwoPc) (dev : Nat) (rt : List (Nat × List Nat)) (ft : BitVec 32), s.twopc = some c → c.decided = false → dev ∈ c.members → s.devId ∈ c.members →
    (∀ m ∈ c.members, (afind (aset c.votes dev (true, 0)) m).isSome = true) → (∀ v ∈ aset c.votes dev (true, 0), v.2.1 = true) →
    routeFault (fun a b => (afind (aget [] (aset c.routes dev rt) a) b).getD []) c.members s.stagedView.maxHop = none →
    ∃ (t : State) (f : Flip) (x : TwoPc), exec (.voteReceive dev true 0 rt ft) s = .next t ∧ t.twopc = some x ∧ x.decided = true ∧ x.members = c.members
      ∧ t.flip = some f ∧ f.epoch = c.epoch ∧ f.tell = some s.devId ∧ x.feat = c.feat &&& ft)
  ∧ (∀ (s : State) (c : TwoPc) (dev d : Nat) (rt : List (Nat × List Nat)) (ft : BitVec 32), s.twopc = some c → c.decided = false → dev ∈ c.members →
    (∀ m ∈ c.members, (afind (aset c.votes dev (false, d)) m).isSome = true) →
    ∃ t, exec (.voteReceive dev false d rt ft) s = .next t ∧ t.twopc = none ∧ t.cfg = {} ∧ t.staged = [] ∧ t.flip = s.flip ∧ t.epoch = s.epoch)
  ∧ (∀ (s : State) (src e : Nat) (ft : BitVec 32), s.cfg.st = 2 → s.flip = none →
    ∃ (t : State) (f : Flip), exec (.groupCommitReceive src e ft) s = .next t ∧ t.flip = some f ∧ f.epoch = e ∧ f.tell = some src ∧ f.flipped = []
      ∧ t.cfg.st = 3 ∧ t.epoch = s.epoch)
  ∧ (∀ (s : State) (src : Nat), s.cfg.st ≠ 0 → s.flip = none →
    ∃ t, exec (.groupAbortReceive src) s = .next t ∧ t.cfg = {} ∧ t.staged = [] ∧ t.obj.table = s.obj.table ∧ t.epoch = s.epoch
      ∧ (aget 0 t.regs 0xC030).getLsbD 4 = true)
  ∧ (∀ (s : State) (c : TwoPc), s.twopc = some c → c.decided = false →
    ∃ t, exec .twoPhaseTimeout s = .next t ∧ t.twopc = none ∧ t.cfg = {} ∧ t.flip = s.flip ∧ (aget 0 t.regs 0xC030).getLsbD 3 = true)

/-- R403 to R408: the interrupt controller. -/
def Obligations.InterruptsAreTaken : Prop :=
  (∀ (s : State) (p : Nat) (b : Bool), p < 14 → bitAt (s.irqCfg (16 + p)) 17 = false →
    ∃ t, exec (.externalInput p b) s = .next t ∧ t.irqSrc (16 + p) = { s.irqSrc (16 + p) with raw := b } ∧ t.out = s.out
      ∧ (∀ n, n ≠ 16 + p → t.irqSrc n = s.irqSrc n))
  ∧ (∀ (s : State) (n : Nat), n ≠ 0 → n < 1024 → (s.irqSrc n).raw = false → bitAt (s.irqCfg n) 17 = true → bitsOf (s.irqCfg n) 0 3 = 0 →
    (s.irqSrc n).masked = false → (bitsOf (s.irqLim n) 0 12 = 0 ∨ (s.irqSrc n).win + 1 ≤ bitsOf (s.irqLim n) 0 12) → (s.irqSrc n).serv = none →
    ∃ t, exec (.irqSourceEvent n true) s = .next t ∧ (t.irqSrc n).raw = true ∧ (t.irqSrc n).pend = true
      ∧ (t.irqSrc n).win = (s.irqSrc n).win + 1 ∧ (t.irqSrc n).hpend = ((s.irqSrc n).hpend || bitAt (s.irqCfg n) 10) ∧ s.IrqOnly t)
  ∧ (∀ (s : State) (n : Nat), n ≠ 0 → n < 1024 → (s.irqSrc n).raw = false → bitAt (s.irqCfg n) 17 = true → bitsOf (s.irqCfg n) 0 3 = 0 →
    (s.irqSrc n).masked = false → bitsOf (s.irqLim n) 0 12 ≠ 0 → bitsOf (s.irqLim n) 0 12 ≤ (s.irqSrc n).win →
    ∃ t, exec (.irqSourceEvent n true) s = .next t ∧ (t.irqSrc n).storm = true ∧ (t.irqSrc n).pend = false ∧ (t.irqSrc n).hpend = false)
  ∧ (∀ (s : State) (cp b : Nat), cp < 4 → afind s.deliv cp = some b → (s.irqSrc b).pend = true → (s.irqSrc b).serv = none →
    (s.irqSrc b).masked = false →
    ∃ t, exec (.claim cp) s = .next t ∧ t.out.getLast? = some (.readValue (BitVec.ofNat 64 b))
      ∧ (t.irqSrc b).serv = some (cp, bitsOf (s.irqCfg b) 3 3) ∧ (t.irqSrc b).pend = decide (bitsOf (s.irqCfg b) 0 3 ≤ 1)
      ∧ (∀ n, n ≠ b → t.irqSrc n = s.irqSrc n))
  ∧ (∀ (s : State) (cp : Nat), cp < 4 → afind s.deliv cp = none → exec (.claim cp) s = .next (s.emit (.readValue 0)))
  ∧ (∀ (s : State) (cp n q : Nat), cp < 4 → (s.irqSrc n).serv = some (cp, q) → 2 ≤ bitsOf (s.irqCfg n) 0 3 →
    ∃ t, exec (.eoi cp n) s = .next t ∧ t.irqSrc n = { s.irqSrc n with serv := none } ∧ (∀ m, m ≠ n → t.irqSrc m = s.irqSrc m))
  ∧ (∀ (s : State) (cp n : Nat), cp < 4 → (s.irqSrc n).serv = none →
    ∃ t, exec (.eoi cp n) s = .next t ∧ t = s.bump 0x100024 1)
  ∧ (∀ (s : State) (n : Nat), n ≠ 0 → n < 1024 → (2 ≤ bitsOf (s.irqCfg n) 0 3 ∨ bitAt (s.irqCfg n) 17 = false ∨ (s.irqSrc n).raw = decide (bitsOf (s.irqCfg n) 0 3 = 1)) →
    ∃ t, exec (.irqHeoi n) s = .next t ∧ (t.irqSrc n).hpend = false ∧ (∀ m, m ≠ n → t.irqSrc m = s.irqSrc m))
  ∧ (∀ (s : State), ∃ t, exec .irqStormWindow s = .next t ∧ (∀ x ∈ t.irq, x.2.win = 0) ∧ (∀ n, t.irqSrc n = { s.irqSrc n with win := 0 }))
  ∧ (∀ (s : State) (n : Nat), n ≠ 0 → n < 1024 → 2 ≤ bitsOf (s.irqCfg n) 0 3 →
    ∃ t, exec (.irqStatClear n true true) s = .next t
      ∧ t.irqSrc n = { s.irqSrc n with storm := false, stuck := false, win := 0, scount := 0 } ∧ t.out = s.out)

/-- R409 to R412, R429 to R436: frame runs and preemption. -/
def Obligations.FramesAndPreemption : Prop :=
  (∀ (s : State) (n : Nat) (up : Bool), n < 4 → bitAt (s.frameBind n) 1 = !up → bitAt (s.frameBind n) 0 = true → (s.frames.getD n {}).run = false →
    n < s.frames.length → (∀ l ∈ s.frameSet n, s.frameBars l = false) →
    ∃ t, exec (.frameEdge n up) s = .next t ∧ t.frames.getD n {} = { run := true, cores := s.frameSet n, waiting := s.frameSet n }
      ∧ t.count (0xC180 + 16 * n) = (s.count (0xC180 + 16 * n) + 1) % 2 ^ 32
      ∧ (∀ l ∈ s.frameSet n, ∀ p, s.phys l = some p → t.core p = { s.core p with pre := { (s.core p).pre with frame := some n } }))
  ∧ (∀ (s : State) (n : Nat) (up : Bool), n < 4 → bitAt (s.frameBind n) 1 = !up → (s.frames.getD n {}).run = true → n < s.frames.length →
    ∃ t, exec (.frameEdge n up) s = .next t ∧ t.frames.getD n {} = { s.frames.getD n {} with pend := true } ∧ t.cores = s.cores
      ∧ t.count (0xC184 + 16 * n) = (s.count (0xC184 + 16 * n) + 1) % 2 ^ 32
      ∧ ((s.frames.getD n {}).pend = true → t.count (0xC18C + 16 * n) = (s.count (0xC18C + 16 * n) + 1) % 2 ^ 32))
  ∧ (∀ (s : State) (c p : Nat), s.Answers c p → ((s.core p).pre.frame.isSome = true ∨ (s.core p).pre.host = true) → (s.core p).pre.phase = .none →
    ((s.core p).seq.state = .running ∨ (s.core p).seq.state = .stopped ∨ (s.core p).seq.state = .done) →
    ∃ t, exec (.preemptRequest c) s = .next t ∧ (t.core p).pre.phase = .waiting ∧ (t.core p).pre.prior = (s.core p).seq.state
      ∧ (t.core p).pre.held = [] ∧ (t.core p).cq = (s.core p).cq ∧ (t.core p).preOk = false)
  ∧ (∀ (s : State) (c p n : Nat), s.Answers c p → (s.core p).pre.phase = .waiting → (s.core p).atBoundary = true →
    ∃ (t : State) (x : CoreCtx), exec (.preemptBoundary c n) s = .next t ∧ (t.core p).pre.phase = .saving ∧ (t.core p).pre.saved = some x
      ∧ (t.core p).pre.bwait = n ∧ (t.core p).seq.state = .preempted ∧ (t.core p).cq = [] ∧ (t.core p).vec.l1 = []
      ∧ x.cq = (s.core p).cq ∧ x.dq = (s.core p).dq ∧ x.hq = (s.core p).hq ∧ x.seq.pc = (s.core p).seq.pc ∧ x.seq.lc = (s.core p).seq.lc
      ∧ (t.core p).pre.contCommit = (s.core p).inCommit)
  ∧ (∀ (s : State) (c p st lat n : Nat) (x : CoreCtx), s.Answers c p → (s.core p).pre.phase = .saving → (s.core p).pre.saved = some x →
    (s.core p).pre.frame = some n →
    ∃ t, exec (.saveDone c st lat) s = .next t ∧ (t.core p).pre.phase = .saved ∧ (t.core p).pre.valid = true ∧ (t.core p).pre.bytes = x.saveBytes
      ∧ (t.core p).pre.saveCyc = 16 + ((x.saveBytes + 255) / 256 + st) + 11 ∧ (t.core p).count 0x4050 = ((s.core p).count 0x4050 + 1) % 2 ^ 32
      ∧ (t.core p).seq.state = .running ∧ (t.core p).seq.pc = s.frameStart n % 2 ^ 48 ∧ (t.core p).pre.saved = some x)
  ∧ (∀ (s : State) (n : Nat), n < 4 → n < s.frames.length → (s.frames.getD n {}).run = true → (s.frames.getD n {}).waiting = [] →
    (s.frames.getD n {}).pend = false → (∀ l ∈ (s.frames.getD n {}).cores, ∀ p, s.phys l = some p → (s.core p).seq.state = .done ∧ (s.core p).pre.host = false) →
    ∃ t, exec (.frameRunEnd n) s = .next t ∧ (t.frames.getD n {}).run = false
      ∧ (∀ l ∈ (s.frames.getD n {}).cores, ∀ p, s.phys l = some p → (t.core p).pre.phase = .restoring ∧ (t.core p).pre.saved = (s.core p).pre.saved))
  ∧ (∀ (s : State) (n : Nat), n < 4 → n < s.frames.length → (s.frames.getD n {}).run = true → (s.frames.getD n {}).waiting = [] →
    (s.frames.getD n {}).pend = true → (∀ l ∈ (s.frames.getD n {}).cores, ∀ p, s.phys l = some p → (s.core p).seq.state = .done) →
    ∃ t, exec (.frameRunEnd n) s = .next t ∧ t.frames.getD n {} = { s.frames.getD n {} with pend := false }
      ∧ t.count (0xC180 + 16 * n) = (s.count (0xC180 + 16 * n) + 1) % 2 ^ 32
      ∧ (∀ l ∈ (s.frames.getD n {}).cores, ∀ p, s.phys l = some p → (t.core p).seq.state = .running ∧ (t.core p).seq.pc = s.frameStart n % 2 ^ 48))
  ∧ (∀ (s : State) (c p n : Nat) (x : CoreCtx), s.Answers c p → (s.core p).pre.phase = .restoring → (s.core p).pre.saved = some x →
    (s.core p).pre.held = [] →
    ∃ t, exec (.restoreDone c n false) s = .next t ∧ (t.core p).pre.phase = .none ∧ (t.core p).pre.saved = none
      ∧ (t.core p).pre.restCyc = 28 + ((s.core p).pre.bytes + 255) / 256 + n ∧ (t.core p).seq.state = (s.core p).pre.prior
      ∧ (t.core p).seq.flags = x.seq.flags ||| 0x800 ∧ (t.core p).seq.pc = x.seq.pc ∧ (t.core p).cq = x.cq ∧ (t.core p).dq = x.dq
      ∧ (t.core p).hq = x.hq ∧ (t.core p).seq.bars = x.seq.bars ∧ (t.core p).seq.loops = x.seq.loops)
  ∧ (∀ (s : State) (n : Nat), n < 4 → (s.frames.getD n {}).run = true →
    ∃ t, exec (.frameDeadline n) s = .next t ∧ t.frames = s.frames ∧ t.count (0xC188 + 16 * n) = (s.count (0xC188 + 16 * n) + 1) % 2 ^ 32)
  ∧ (∀ (s : State) (p : Nat), p < 512 → p ∉ s.fused → (∀ f ∈ s.fences, f.p ≠ p) →
    ∃ t, exec (.noAckTimeout p) s = .next t ∧ t.fences = s.fences ++ [{ p := p, cause := 6, persist := false }] ∧ (t.core p).seq.state = .stopped
      ∧ (t.core p).pre.phase = .none ∧ (t.core p).pre.saved = none)

/-- R25, R266, R306, R312, R425, R477. -/
def Obligations.FlashFencesAndChannels : Prop :=
  (∀ (s : State) (k q : Nat), s.fl.dirty = true → (∀ j ∈ s.flashQ, ∀ a b, j.kind ≠ .fences a b) → s.fenceTarget = (k, q) →
    ∃ (t : State) (j : FlashJob), exec .fenceListWrite s = .next t ∧ t.flashQ = s.flashQ ++ [j] ∧ j.at_ = 0x3030000 + 0x1000 * k
      ∧ j.data = fenceCopy (s.fences.map fun f => (f.p, f.cause)) q ∧ t.fl.dirty = false ∧ t.fences = s.fences
      ∧ (s.flashQ = [] → s.flashBusy = false → s.huEnough = true → s.pwrfail = false → s.pw.pfWait = false → t.flashBusy = true))
  ∧ (∀ (s : State) (j : FlashJob) (l : List FlashJob) (ps : List Nat) (q : Nat), s.flashQ = j :: l → s.flashBusy = true → j.kind = .fences ps q →
    ∃ t, exec .flashSectorDone s = .next t ∧ t.flashQ = l ∧ Memory.bytes t.flash j.at_ j.data.length = j.data
      ∧ (∀ a, (a < j.at_ / 4096 * 4096 ∨ j.at_ / 4096 * 4096 + 4096 ≤ a) → (a < j.at_ ∨ j.at_ + j.data.length ≤ a) → Memory.read t.flash a = Memory.read s.flash a)
      ∧ (∀ f ∈ t.fences, f.p ∈ ps → f.persist = true) ∧ t.fl.seq = q ∧ t.count 0x500094 = (s.count 0x500094 + 1) % 2 ^ 32)
  ∧ (∀ (s : State) (mv : Nat), s.flashQ ≠ [] → s.flashBusy = false →
    ∃ t, exec (.flashDeferRetest mv) s = .next t ∧ t.huMv = mv ∧ t.flashQ = s.flashQ
      ∧ (2 * (s.huCfg / 65536) ≤ holdUp (s.huCfg % 65536) s.huVmin mv → s.pwrfail = false → s.pw.pfWait = false → t.flashBusy = true))
  ∧ (∀ (s : State) (o : Nat) (m : Migration), s.migOf o = some m → recoded (s.objEnt o) m.dest = false →
    (∀ y, (s.migRounds o migSlots).migOf o = some y → y.held = [] ∧ y.wait = []) → m.next + 1 < (s.objEnt o).size →
    ∃ (t : State) (y : Migration), exec (.migrationGranuleDone o) s = .next t ∧ t.migOf o = some y ∧ y.next = m.next + 1 ∧ y.dest = m.dest
      ∧ t.objEnt o = s.objEnt o ∧ t.t0 = s.t0)
  ∧ (∀ (s : State) (o : Nat) (m : Migration), s.migOf o = some m → recoded (s.objEnt o) m.dest = false →
    (∀ y, (s.migRounds o migSlots).migOf o = some y → y.held = [] ∧ y.wait = []) → (s.objEnt o).size ≤ m.next + 1 →
    ∃ t, exec (.migrationGranuleDone o) s = .next t ∧ (∀ y ∈ t.obj.migs, y.obj ≠ o) ∧ t.obj.lastMig = o ∧ (t.objEnt o).migrating = false
      ∧ (t.objEnt o).base = m.dest.base ∧ (t.objEnt o).tier = m.dest.tier ∧ (t.objEnt o).stripe = m.dest.stripe ∧ (t.objEnt o).muslin = m.dest.muslin
      ∧ (t.objEnt o).mw = m.dest.mw ∧ (t.objEnt o).metaObj = m.dest.metaObj ∧ (t.objEnt o).size = (s.objEnt o).size ∧ t.t0 = s.t0)
  ∧ (∀ (s : State) (o b k : Nat) (d : List Byte), (s.objEnt o).valid = true → (s.objEnt o).muslin = true → (s.objEnt o).mxq = 0 → d.length = 4096 →
    4096 * b + 4096 ≤ (s.objEnt o).bytes → s.migOf o = none → (s.objEnt o).bpol ≠ 2 →
    k = s.codecOf ((s.stripeMap (s.objEnt o).stripe ((s.objEnt o).start + 4096 * b)).elim 0 Prod.fst) b →
    ∃ t, exec (.codecBlockWrite o b 0 d) s = .next t ∧ t.count (0x430040 + 0x1000 * k) = (s.count (0x430040 + 0x1000 * k) + 1) % 2 ^ 32
      ∧ t.t0 = s.t0 ∧ t.obj = s.obj)
  ∧ (∀ (s : State) (o b k : Nat), (s.objEnt o).valid = true → (s.objEnt o).muslin = true → 4096 * b + 4096 ≤ (s.objEnt o).bytes →
    k = s.codecOf ((s.stripeMap (s.objEnt o).stripe ((s.objEnt o).start + 4096 * b)).elim 0 Prod.fst) b →
    ∃ t, exec (.codecBlockRead o b false) s = .next t ∧ t.count (0x430044 + 0x1000 * k) = (s.count (0x430044 + 0x1000 * k) + 1) % 2 ^ 32
      ∧ s.ReadOnly t)
  ∧ (∀ (s : State) (ch ce ue b : Nat), ch < 16 → b = s.chanBlock ch → bitAt (aget 0x01000801 s.regs (b + 0x10)).toNat 0 = true →
    ∃ t, exec (.patrolScrubPass ch ce ue) s = .next t ∧ t.count (b + 0x4C) = (s.count (b + 0x4C) + ce) % 2 ^ 32
      ∧ t.count (b + 0x40) = (s.count (b + 0x40) + ce) % 2 ^ 32 ∧ t.count (b + 0x44) = (s.count (b + 0x44) + ue) % 2 ^ 32
      ∧ (t.chan ch).scrubCe = 0 ∧ (t.chan ch).state = (s.chan ch).state ∧ t.tier = s.tier)
  ∧ (∀ (s : State) (c p n : Nat), s.Answers c p → n < 16 →
    ∃ t, exec (.poolStatCapture c n) s = .next t ∧ t.out = s.out ++ [.readValue (BitVec.ofNat 64 ((s.core p).poolStat0 n))]
      ∧ afind (t.core p).poolLatch (0x3100 + 8 * n) = some (BitVec.ofNat 32 ((s.core p).poolStat0 n))
      ∧ afind (t.core p).poolLatch (0x3104 + 8 * n) = some (BitVec.ofNat 32 ((s.core p).poolStat1 n)))
  ∧ (∀ (s : State) (w u : Nat), (w = 1 ∨ w = 2 ∨ w = 3 ∨ ((w = 4 ∨ w = 5) ∧ u < 8)) →
    ∃ t, exec (.chipError w u) s = .next t ∧ t.lost = true ∧ (s.lost = false → (t.irqSrc 1).raw = true)
      ∧ (w = 4 → (t.chan u).state = 3) ∧ (w = 5 → (t.chan (8 + u)).state = 3) ∧ (w = 1 → (t.irqSrc 7).raw = true))

/-- R321 to R335, R486: the ports. -/
def Obligations.PortsTrainAndReplay : Prop :=
  (∀ (s : State) (p m n : Nat) (bad : List Nat), (s.port p).state = .training → (s.port p).lanes = 0 →
    bad = ((lanesTried (s.laneMax p) (s.port p).bad).filter (bitAt m)).foldl sins (s.port p).bad → n = min (s.laneMax p) (widthOf bad) → n ≠ 0 →
    ∃ t, exec (.portTraining p m) s = .next t ∧ t.port p = { s.port p with bad := bad, lanes := n }
      ∧ t.out.getLast? = some (.hello p { rev := 2, feat := 0x7F, dev := s.devId, port := p, gid := aget 0 s.regs 0x300014, stepping := 0 })
      ∧ (bad ≠ (s.port p).bad → (aget 0 t.regs (portBase p + 0x1C)).getLsbD 0 = true))
  ∧ (∀ (s : State) (p m : Nat), (s.port p).state = .training → (s.port p).lanes = 0 →
    widthOf (((lanesTried (s.laneMax p) (s.port p).bad).filter (bitAt m)).foldl sins (s.port p).bad) = 0 →
    ∃ t, exec (.portTraining p m) s = .next t ∧ (t.port p).state = .failed ∧ (aget 0 t.regs (portBase p + 0x1C)).getLsbD 1 = true)
  ∧ (∀ (s : State) (p : Nat) (m : Hello), (s.port p).state = .training → (s.port p).lanes ≠ 0 → (s.port p).hello = false → 2 ≤ m.rev →
    exec (.hello p m) s = .next (s.setPort p { s.port p with hello := true, rev := 2, feat := m.feat &&& 0x7F, peerDev := m.dev, peerPort := m.port }))
  ∧ (∀ (s : State) (p : Nat) (m : Hello), (s.port p).state = .training → (s.port p).lanes ≠ 0 → (s.port p).hello = false → m.rev = 1 →
    (s.port p).txq = [] →
    ∃ t, exec (.hello p m) s = .next t ∧ (t.port p).state = (if s.sealed_ then .refused else .upR1) ∧ (t.port p).rev = 1
      ∧ (t.port p).peerDev = m.dev ∧ (s.sealed_ = false → (t.port p).cred = s.pools p))
  ∧ (∀ (s : State) (p n : Nat), (s.port p).state = .training → (s.port p).hello = true → n = (s.port p).keyMsg + 1 → n ≠ 3 →
    exec (.keyExchangeMessage p n true true) s = .next (s.setPort p { s.port p with keyMsg := n }))
  ∧ (∀ (s : State) (p : Nat), (s.port p).state = .training → (s.port p).hello = true → (s.port p).keyMsg = 2 → (s.port p).txq = [] →
    ∃ t, exec (.keyExchangeMessage p 3 true true) s = .next t ∧ (t.port p).state = .up ∧ (t.port p).cred = s.pools p
      ∧ (t.port p).key = s.fresh ∧ (t.port p).pctr = 0)
  ∧ (∀ (s : State) (p g n : Nat) (cr : List Nat), (s.port p).isUp = true → g = ((s.port p).rxSeq + 1) % 4096 → (s.port p).txq = [] →
    ∃ t, exec (.flitGroupReceive p g true false 0 false cr n) s = .next t ∧ (t.port p).rxSeq = g ∧ (t.port p).nakked = false
      ∧ t.count (portBase p + 0x44) = (s.count (portBase p + 0x44) + n) % 2 ^ 32)
  ∧ (∀ (s : State) (p g n a : Nat) (av k : Bool) (cr : List Nat), (s.port p).isUp = true →
    ∃ t, exec (.flitGroupReceive p g false av a k cr n) s = .next t ∧ (t.port p).rxSeq = (s.port p).rxSeq ∧ (t.port p).nakked = true
      ∧ (t.port p).cred = (s.port p).cred ∧ t.count (portBase p + 0x54) = (s.count (portBase p + 0x54) + 1) % 2 ^ 32)
  ∧ (∀ (s : State) (p a : Nat), (s.port p).isUp = true → (s.port p).txq = [] → (∀ g ∈ (s.port p).replay, g.sends < 8) →
    ∃ t, exec (.nakReceive p a) s = .next t ∧ (t.port p).state = (s.port p).state
      ∧ (t.port p).replay = ((s.port p).replay.filter fun g => 2048 ≤ (a + 4096 - g.gseq) % 4096).map (fun g => g.again s.lost (g.sends + 1)))
  ∧ (∀ (s : State) (p : Nat), (s.port p).isUp = true → (s.port p).replay ≠ [] → (∀ g ∈ (s.port p).replay, g.sends < 8) →
    ∃ t, exec (.replayTimeout p) s = .next t ∧ (t.port p).replay = (s.port p).replay.map (fun g => g.again s.lost (g.sends + 1))
      ∧ t.count (portBase p + 0x48) = (s.count (portBase p + 0x48) + (s.port p).replay.length) % 2 ^ 32)
  ∧ (∀ (s : State) (p l n : Nat), (s.port p).isUp = true → l < 4 → l ∉ (s.port p).bad → s.laneLim p < n → widthOf (sins (s.port p).bad l) ≠ 0 →
    ∃ t, exec (.laneErrorWindow p l n) s = .next t ∧ (t.port p).bad = sins (s.port p).bad l ∧ (t.port p).state = .training ∧ (t.port p).lanes = 0
      ∧ (t.port p).replay = (s.port p).replay ∧ t.count (portBase p + 0x4C) = (s.count (portBase p + 0x4C) + n) % 2 ^ 32)
  ∧ (∀ (s : State) (p : Nat) (g : Option Nat), (s.port p).state ≠ .failed → (g.isSome = true ∨ s.routeBut p (s.port p).peerDev = none) →
    ∃ t, exec (.portFailed p g) s = .next t ∧ (t.port p).state = .failed ∧ (t.port p).replay = [] ∧ (t.port p).txq = [])
  ∧ (∀ (s : State) (p : Nat), (s.port p).state ≠ .failed → (s.routeBut p (s.port p).peerDev).isSome = true →
    ∃ t, exec (.portFailed p none) s = .next t ∧ (t.port p).state = .failed ∧ (t.port p).replay = (s.port p).replay)
  ∧ (∀ (s : State) (p : Nat), s.portEn p = true → (afind s.lport p).isSome = true → s.sec.recovery = false → s.powered = true →
    ∃ t, exec (.retrain p) s = .next t ∧ (t.port p).state = .training ∧ (t.port p).bad = [] ∧ (t.port p).frozen = [] ∧ (t.port p).replay = (s.port p).replay
      ∧ t.count (portBase p + 0x74) = (s.count (portBase p + 0x74) + 1) % 2 ^ 32)
  ∧ (∀ (s : State) (q : Nat), ∃ t, exec (.refclkSerLoss q) s = .next t ∧ (∀ x ∈ s.lport, x.2.phys / 6 = q → (t.port x.1).state = .failed)
      ∧ (∀ n, (∀ x ∈ s.lport, x.2.phys / 6 = q → x.1 ≠ n) → (t.port n).state = .failed → (s.port n).state = .failed))

/-- R282 to R287, R326, R329, R330, R350, R365. -/
def Obligations.PacketsReachTheirUnits : Prop :=
  (∀ (s : State) (p : Nat) (h : PktHdr), s.Takes p 0 h → h.vc = 0 → s.cfg.st ≠ 0 → s.flip = none →
    ∃ t, exec (.ctlPacket p h true .groupAbort) s = .next t ∧ t.cfg = {} ∧ t.staged = [] ∧ t.obj.table = s.obj.table)
  ∧ (∀ (s : State) (p tag c : Nat) (h : PktHdr) (d : List Byte), s.Takes p 1 h → h.plen ≠ 0 → tag ≠ 0xF → h.dstCore ≠ 0x3FF →
    s.phys h.dstCore = some c → (s.core c).mbx.length < 16 →
    ∃ t, exec (.voilePacket p h true tag d) s = .next t
      ∧ t.core c = { s.core c with mbx := (s.core c).mbx ++ [{ srcCore := h.srcCore, srcDev := h.srcDev, tag := tag, data := d }] })
  ∧ (∀ (s : State) (p c sp : Nat) (h : PktHdr) (d : List Byte), s.Takes p 2 h → localSpace h.obj = some sp → s.phys h.dstCore = some c →
    h.addr + d.length ≤ spaceSize sp → h.dbarEn = false →
    ∃ t, exec (.writePacket p h true d) s = .next t ∧ (t.localRead c sp h.addr d.length).1 = d ∧ t.cores = s.cores ∧ t.tier = s.tier
      ∧ (∀ b, b < t0Key c h.addr ∨ t0Key c h.addr + d.length ≤ b ∨ sp ≠ 0 → Memory.read t.t0 b = Memory.read s.t0 b)
      ∧ (∀ b, b < sliceKey c h.addr ∨ sliceKey c h.addr + d.length ≤ b ∨ sp = 0 → Memory.read t.slice b = Memory.read s.slice b))
  ∧ (∀ (s : State) (p r : Nat) (h : PktHdr) (d : List Byte), s.Takes p 2 h → localSpace h.obj = none →
    s.check (.peer h.srcDev) true false h.obj h.addr d.length = some r →
    ∃ t, exec (.writePacket p h true d) s = .next t ∧ h.srcDev ∈ (t.port p).frozen ∧ t.tier = s.tier ∧ t.slice = s.slice ∧ t.t0 = s.t0)
  ∧ (∀ (s : State) (p c i : Nat) (h : PktHdr) (d : List Byte) (r : RecvEnd) (l : List Nat) (b : BtEnt), s.Takes p 3 h →
    s.phys h.dstCore = some c → h.addr = 0 → h.dbarEn = false → s.holds c none = false → ((s.core c).handleQ h.rhq).recv = some r → r.part = none → r.reserved = i :: l → i < 256 →
    b = (s.core c).btEnt i → d.length ≤ (b.size + 1) * 64 → b.base * 64 + d.length ≤ spaceSize b.space →
    ∃ (t : State) (tok : Nat), exec (.hdelivPacket p h true d) s = .next t ∧ (t.localRead c b.space (b.base * 64) d.length).1 = d
      ∧ ((t.core c).handleQ h.rhq).ents = ((s.core c).handleQ h.rhq).ents ++ [{ h := i + 256 * ((b.tag + 1) % 256), epoch := h.hepoch, tok := tok }]
      ∧ ((t.core c).handleQ h.rhq).recv = some { r with reserved := l })
  ∧ (∀ (s : State) (p c sp n q : Nat) (h : PktHdr), s.Takes p 4 h → localSpace h.obj = some sp → s.phys h.dstCore = some c →
    h.addr + n ≤ spaceSize sp → 0 < n → n ≤ 4096 → s.routePort (s.backHdr 5 h n) = some q → q ≠ p → (s.port q).isUp = false →
    ∃ (t : State) (k : Pkt), exec (.readPacket p h true n) s = .next t ∧ (t.port q).txq = (s.port q).txq ++ [k]
      ∧ k.b = .data (s.localRead c sp h.addr n).1 ∧ k.h.typ = 5 ∧ k.h.dstDev = h.srcDev ∧ k.h.dstCore = h.srcCore ∧ k.h.addr = h.addr
      ∧ k.h.obj = h.obj ∧ t.t0 = s.t0 ∧ t.slice = s.slice ∧ t.cores = s.cores)
  ∧ (∀ (s : State) (p : Nat) (h : PktHdr) (d : List Byte), s.Takes p 5 h →
    exec (.rdrspPacket p h true d) s = .next (s.owe p h))
  ∧ (∀ (s : State) (p c i : Nat) (h : PktHdr) (r : RemOut) (e : Cqe), s.Takes p 6 h → h.addr = 0 → h.mgrp < 16 →
    s.phys h.dstCore = some c → (s.core c).rem.find? (fun r => r.dev = h.srcDev && r.core = h.srcCore) = some r → r.hq = none →
    ((s.core c).words 9)[i]? = some e → e.started = true → e.fin = false → e.seqno = r.word → wOp e.word ≠ 3 → e.n ≠ 0 →
    ∃ t, exec (.ackPacket p h true) s = .next t ∧ (t.core c).rem = (s.core c).rem.erase r
      ∧ ((t.core c).words 9)[i]? = some { e with segs := e.segs - 1, fin := decide (e.segs ≤ 1) })
  ∧ (∀ (s : State) (p k b : Nat) (h : PktHdr) (ch : CollHdr) (cb : CollBlk) (x : CollInst), s.Takes p 7 h →
    ch.digest = s.digest ch.cdesc → s.collOf ch.cdesc = some (k, x) → s.inst k = x → x.c = ch.cdesc → x.inst = ch.inst + 256 * ch.instHi →
    x.attempt % 256 = ch.attempt → x.step % 256 = ch.step → ch.phase = 0 → b = ch.first → (x.slot b).sup = false → (x.slot b).final = false →
    (x.slot b).sent = false → (x.slot b).loc < (s.desc x.c).local_ →
    ∃ t, exec (.collPacket p h true ch [cb] []) s = .next t ∧ (t.inst k).slot b = (x.slot b).add (s.desc x.c).w cb
      ∧ t.count 0x34022C = (s.count 0x34022C + h.plen) % 2 ^ 32 ∧ (∀ j, j ≠ b → (t.inst k).slot j = x.slot j))
  ∧ (∀ (s : State) (d : Nat), s.isAnchor = true → d < 64 →
    ∃ t, exec (.lossNoticeReceive d) s = .next t ∧ t.isLost d = true ∧ (t.irqSrc 2).raw = true)

/-- R27, R326, R327, R330, R343, R344: what a port drops or keeps. -/
def Obligations.PortsRefusePackets : Prop :=
  ∀ (s : State) (p : Nat) (h : PktHdr) (d : List Byte), s.powered = true → s.flip = none → (s.port p).isUp = true →
    (∃ t, exec (.writePacket p h false d) s = .next t ∧ h.srcDev ∈ (t.port p).frozen ∧ t.count (portBase p + 0x58) = (s.count (portBase p + 0x58) + 1) % 2 ^ 32
      ∧ t.t0 = s.t0 ∧ t.slice = s.slice ∧ t.tier = s.tier ∧ t.cores = s.cores)
    ∧ (s.badPkt p 2 h = true → ∃ t, exec (.writePacket p h true d) s = .next t ∧ t.count (portBase p + 0x70) = (s.count (portBase p + 0x70) + 1) % 2 ^ 32
      ∧ t.t0 = s.t0 ∧ t.slice = s.slice ∧ t.tier = s.tier ∧ t.cores = s.cores)
    ∧ (s.badPkt p 2 h = false → h.vc ≠ 0 → s.newerEpoch h = true →
      exec (.writePacket p h true d) s = .next { s with linkHeld := s.linkHeld ++ [.writePacket p h true d] })
    ∧ (s.badPkt p 2 h = false → h.vc ≠ 0 → s.newerEpoch h = false → (s.lost = true ∨ h.srcDev ∈ (s.port p).frozen) →
      exec (.writePacket p h true d) s = .next (s.owe p h))
    ∧ (s.badPkt p 2 h = false → h.vc ≠ 0 → s.newerEpoch h = false → s.lost = false → h.srcDev ∉ (s.port p).frozen → (s.port p).state = .up →
      s.inRoster h.srcDev = false → exec (.writePacket p h true d) s = .next ((s.owe p h).portCount p 0x68 1))
    ∧ (s.badPkt p 2 h = false → h.vc ≠ 0 → s.newerEpoch h = false → s.lost = false → h.srcDev ∉ (s.port p).frozen → (s.port p).state = .up →
      s.inRoster h.srcDev = true → h.repoch ≠ s.repoch % 256 → h.repoch ≠ (s.repoch + 255) % 256 →
      exec (.writePacket p h true d) s = .next ((s.owe p h).portCount p 0x6C 1))
    ∧ (s.badPkt p 2 h = false → h.vc ≠ 0 → s.newerEpoch h = false → s.lost = false → h.srcDev ∉ (s.port p).frozen → s.memberTest p h = none →
      h.mc = false → h.dstDev ≠ 0xFF → h.dstDev ≠ s.devId → h.hops ≤ 1 →
      ∃ t, exec (.writePacket p h true d) s = .next t ∧ t.count (portBase p + 0x64) = (s.count (portBase p + 0x64) + 1) % 2 ^ 32 ∧ t.t0 = s.t0
        ∧ t.slice = s.slice ∧ t.tier = s.tier ∧ t.cores = s.cores)

/-- R346 to R350: slow receivers of multicast. -/
def Obligations.MulticastRepairs : Prop :=
  (∀ (s : State) (g p k : Nat), g < 16 → (aget ({} : McSend) s.mcs g).waits = true →
    s.phys (bitsOf (aget 0 s.regs (0x300210 + 32 * g)).toNat 0 10) = some p →
    k = (s.core p).hqRetain (bitsOf (aget 0 s.regs (0x300210 + 32 * g)).toNat 10 3) →
    ∃ t, exec (.pruneWaitExpiry g) s = .next t ∧ (aget ({} : McSend) t.mcs g).waits = false
      ∧ (∀ d, d ∈ t.mcMembers g ↔ d ∈ s.mcMembers g ∧ (aget ({} : McSend) s.mcs g).free k d = true))
  ∧ (∀ (s : State) (g m src p q : Nat) (x : HandleQ), g < 16 → src = bitsOf (aget 0 s.regs (0x300210 + 32 * g)).toNat 0 10 → s.phys src = some p →
    (s.core p).hq.find? (fun y => y.2.recv.any fun r => decide (r.core = src) && !s.isLocalDev r.dev) = some (q, x) → s.holds p none = false →
    ∃ (t : State) (e : HqEnt), exec (.gapNotice g m) s = .next t ∧ aget 0 t.regs (0x300400 + 4 * g) = BitVec.ofNat 32 (1 + m % 65536 * 4)
      ∧ ((t.core p).handleQ q).ents = ((s.core p).handleQ q).ents ++ [e] ∧ e.poison = true ∧ (t.core p).bt = (s.core p).bt)
  ∧ (∀ (s : State) (g m d : Nat), g < 16 → m < 65536 → s.mcSource g = some d →
    ∃ t, exec (.hxMcResend g m) s = .next t ∧ bitsOf (aget 0 t.regs 0x300030).toNat 0 4 = g ∧ bitsOf (aget 0 t.regs 0x300030).toNat 4 16 = m
      ∧ bitsOf (aget 0 t.regs 0x300030).toNat 21 2 = 1 ∧ t.cores = s.cores)
  ∧ (∀ (s : State) (g d m l p : Nat) (e : SendEnd) (x : Nat × Nat), l = bitsOf (aget 0 s.regs (0x300210 + 32 * g)).toNat 0 10 → s.phys l = some p →
    ((s.core p).handleQ (bitsOf (aget 0 s.regs (0x300210 + 32 * g)).toNat 10 3)).send = some e →
    (aget ({} : McSend) s.mcs g).kept.find? (fun y => decide (y.1 % 65536 = m) && e.retained.contains y.2) = some x →
    ∃ t, exec (.resendRequest g d m) s = .next t
      ∧ t.core p = { s.core p with rem := (s.core p).rem ++ [{ dev := d, core := l, word := 65536, hq := none, h := 0, ret := false }] }
      ∧ t.mcs = s.mcs ∧ t.t0 = s.t0 ∧ t.slice = s.slice)
  ∧ (∀ (s : State) (g d : Nat), s.mcSource g = some d →
    ∃ t, exec (.rejoin g) s = .next t ∧ bitAt (aget 0 t.regs (0x300400 + 4 * g)).toNat 0 = false ∧ t.cores = s.cores ∧ t.mcs = s.mcs)
  ∧ (∀ (s : State) (g d : Nat), g < 16 → d < 64 →
    ∃ t, exec (.rejoinRequest g d) s = .next t ∧ aget 0 (aget ({} : McSend) t.mcs g).acked d = (aget ({} : McSend) s.mcs g).mseq
      ∧ (∀ x, x ∈ t.mcMembers g ↔ x ∈ s.mcMembers g ∨ (x = d ∧ bitAt ((aget 0 s.regs (0x300200 + 32 * g)).toNat + (aget 0 s.regs (0x300204 + 32 * g)).toNat * 2 ^ 32) d = true))
      ∧ t.cores = s.cores)
  ∧ (∀ (s : State) (g hi d : Nat) (m : BitVec 32), g < 16 → hi < 2 → d < 32 → m.getLsbD d = true →
    ∃ t, exec (.prunedClear g hi m) s = .next t ∧ aget 0 (aget ({} : McSend) t.mcs g).acked (d + 32 * hi) = (aget ({} : McSend) s.mcs g).mseq
      ∧ aget 0 t.regs (0x300208 + 32 * g + 4 * hi) = aget 0 s.regs (0x300208 + 32 * g + 4 * hi) &&& ~~~m ∧ t.cores = s.cores)
  ∧ (∀ (s : State) (k src word dev dst tag : Nat) (d : List Byte), s.mesh[k]? = some (.rmail src word dev dst tag d true) →
    ∃ t, exec (.voileRemoteRetry k) s = .next t ∧ t.mesh = s.mesh.set k (.rmail src word dev dst tag d false)
      ∧ (t.core src).count 0x3A94 = ((s.core src).count 0x3A94 + 1) % 2 ^ 32)

/-- R353 to R381: collective instances. -/
def Obligations.CollectivesRun : Prop :=
  (∀ (s : State) (c p i : Nat) (l : List (Nat × Nat)) (ms : List Nat), s.joiners c = some ((p, i) :: l) → s.collOf c = none → s.colls.length < 16 →
    ms = s.roster.filter (fun m => bitAt (s.desc c).mmask m || s.rosterMask = 0) → (∀ h ∈ s.collHeld, h.ch.cdesc ≠ c) →
    s.refuses c (if (s.collStat c).step = (s.core p).prog.seq.step && (s.collStat c).attempt = (s.core p).prog.seq.attempt then (s.collStat c).started else 0) ms = false →
    ∃ (t : State) (k : Nat) (x : CollInst), exec (.collInstanceStart c) s = .next t ∧ afind t.colls k = some x ∧ afind s.colls k = none ∧ k < 16
      ∧ x.c = c ∧ x.members = ms ∧ x.step = (s.core p).prog.seq.step ∧ x.attempt = (s.core p).prog.seq.attempt
      ∧ x.gather = decide ((s.desc c).kind = 1) ∧ (t.collStat c).started = x.inst + 1)
  ∧ (∀ (s : State) (c p i : Nat) (l : List (Nat × Nat)) (ms : List Nat), s.joiners c = some ((p, i) :: l) → s.collOf c = none → s.colls.length < 16 →
    ms = s.roster.filter (fun m => bitAt (s.desc c).mmask m || s.rosterMask = 0) →
    s.refuses c (if (s.collStat c).step = (s.core p).prog.seq.step && (s.collStat c).attempt = (s.core p).prog.seq.attempt then (s.collStat c).started else 0) ms = true →
    ∃ t, exec (.collInstanceStart c) s = .next t ∧ t.colls = s.colls ∧ (t.collStat c).status = 6
      ∧ t.count 0x340200 = (s.count 0x340200 + 1) % 2 ^ 32)
  ∧ (∀ (s : State) (k src o c b j : Nat) (y : CollBlk) (x : CollInst), s.mesh[k]? = some (.block src o c b false y) → s.inOrder k = true → s.collOf c = some (j, x) →
    s.inst j = x → (x.slot b).sup = false → (x.slot b).final = false → (x.slot b).sent = false → (x.slot b).loc + 1 < (s.desc x.c).local_ →
    ∃ t, exec (.collBlockArrival k) s = .next t ∧ t.mesh = s.mesh.eraseIdx k
      ∧ (t.inst j).slot b = { (x.slot b).add (s.desc x.c).w { y with mcnt := 0 } with loc := (x.slot b).loc + 1 }
      ∧ (∀ n, n ≠ b → (t.inst j).slot n = x.slot n))
  ∧ (∀ (s : State) (c j : Nat) (x : CollInst), s.collOf c = some (j, x) → s.inst j = x → (s.desc c).kind = 3 → x.pushed.length = (s.desc c).cnum →
    (∀ b ∈ x.res, b.ovf = false ∧ b.nf = false) → x.fb = false → x.ovf = false → x.nf = false →
    ∃ t, exec (.collInstanceEnd c) s = .next t ∧ afind t.colls j = none ∧ (t.collStat c).status = 1
      ∧ t.count 0x340200 = (s.count 0x340200 + 1) % 2 ^ 32)
  ∧ (∀ (s : State) (c j : Nat) (x : CollInst), s.collOf c = some (j, x) → s.inst j = x → (s.desc c).kind = 0 → x.gather = false → s.reduced x = true →
    ∃ t, exec (.collInstanceEnd c) s = .next t ∧ afind t.colls j = none ∧ (t.collStat c).status = x.status ∧ (t.collStat c).emax = x.emax
      ∧ (t.collStat c).emaxV = true)
  ∧ (∀ (s : State) (c j : Nat) (x : CollInst), s.collOf c = some (j, x) → s.inst j = x →
    (x.gather = true ∨ ((s.desc c).latePol = false ∧ ((s.desc c).rbudget = 0 ∨ x.attempt < (s.desc c).rbudget))) →
    ∃ t, exec (.collDeadline c) s = .next t ∧ afind t.colls j = none ∧ (t.collStat c).status = 2
      ∧ t.count 0x340204 = (s.count 0x340204 + 1) % 2 ^ 32)
  ∧ (∀ (s : State) (c j : Nat) (x : CollInst), s.collOf c = some (j, x) → s.inst j = x → x.gather = false → (s.desc c).latePol = true → x.fb = false →
    (s.desc c).kind = 0 →
    ∃ t, exec (.collDeadline c) s = .next t ∧ (t.inst j).fb = true ∧ (t.inst j).elapsed = (s.desc c).deadline ∧ t.dstat = s.dstat)
  ∧ (∀ (s : State) (c j : Nat) (x : CollInst), s.collOf c = some (j, x) → s.inst j = x → x.fb = true → (s.desc c).kind = 0 →
    (∀ b ∈ x.ownedAll (s.desc c), (x.slot b).final = true ∧ (x.slot b).flag = false) →
    ∃ t, exec (.fallbackDeadline c) s = .next t
      ∧ t.inst j = { x with unacked := 0, scales := List.range (s.desc c).nblk, elapsed := 2 * (s.desc c).deadline })
  ∧ (∀ (s : State), ∃ t, exec .abortColl s = .next t ∧ t.colls = []
      ∧ (∀ k x, s.colls = [(k, x)] → (t.collStat x.c).status = 2 ∧ t.count 0x340204 = (s.count 0x340204 + 1) % 2 ^ 32))
  ∧ (∀ (s : State) (k p c i : Nat) (b : FeltBlk) (e : Cqe), s.mesh[k]? = some (.normDown p c b) → s.inOrder k = true → (s.core p).pre.saved = none →
    ((s.core p).words 9)[i]? = some e → e.started = true → e.fin = false → wOp e.word = 7 → xCdesc e.word = c → e.n = 1 →
    ∃ t, exec (.normMessage k) s = .next t ∧ t.mesh = s.mesh.eraseIdx k
      ∧ ((t.core p).words 9)[i]? = some { e with ents := entriesOf (feltBytes false b) })

/-- R460 to R467, R477, R478: the power manager. -/
def Obligations.PowerFollowsItsDemands : Prop :=
  (∀ (s : State) (est : Nat), s.Settled 625 →
    ∃ t, exec (.powerLoopEval est) s = .next t ∧ t.pw.est = est ∧ t.pw.step = max s.pw.step t.pw.demand
      ∧ t.pw.dPlim = (s.pw.evalPlim est s.pwrLimit).dPlim ∧ (s.pwrfail = true → s.pfThrot = true → t.pw.dPf = 3)
      ∧ (s.pwrFast < est → 1 ≤ s.pw.overFast → s.pw.dFast < 3 → t.pw.dFast = s.pw.dFast + 1) ∧ t.pw.dTherm = s.pw.dTherm)
  ∧ (∀ (s : State), s.powered = true → s.pw.write = true →
    exec .avsWriteAck s = .next { s with pw := { s.pw with write := false, acked := true } })
  ∧ (∀ (s : State), s.powered = true → s.pw.acked = true →
    ∃ t, exec .frequencyChange s = .next t ∧ t.pw = { s.pw with acked := false, step := s.pw.goal }
      ∧ t.count 0x500084 = (s.count 0x500084 + (s.pw.step - s.pw.goal)) % 2 ^ 32)
  ∧ (∀ (s : State) (mv : Nat) (f : Bool), s.powered = true →
    ∃ t, exec (.pmbusPoll mv f) s = .next t ∧ t.pw = { s.pw with readMv := mv } ∧ (f = true → (aget 0 t.regs 0x500020).getLsbD 4 = true)
      ∧ (f = false → t.regs = s.regs))
  ∧ (∀ (s : State) (l : List Nat) (up dn : Bool) (x : Nat), s.Settled 625 → x ∈ l.take 64 → 115 ≤ x →
    ∃ t, exec (.thermalSample l up dn) s = .next t ∧ t.powered = false ∧ t.lost = true ∧ t.pw.tripped = true)
  ∧ (∀ (s : State) (l : List Nat) (dn : Bool) (x : Nat), s.Settled 625 → (∀ y ∈ l.take 64, y < 115) → x ∈ l.take 64 → s.throtTemp < x →
    s.pw.dTherm < 3 →
    ∃ t, exec (.thermalSample l true dn) s = .next t ∧ t.pw.dTherm = s.pw.dTherm + 1 ∧ t.pw.dTherm ≤ t.pw.step
      ∧ (aget 0 t.regs 0x500020).getLsbD 2 = true ∧ t.powered = true)
  ∧ (∀ (s : State), s.Settled 625 → s.pw.alert = false → (∀ x ∈ s.pw.temps, x.2 ≤ s.throtTemp) → s.pw.dTherm < 3 →
    ∃ t, exec (.thermAlert true) s = .next t ∧ t.pw.alert = true ∧ t.pw.dTherm = s.pw.dTherm + 1 ∧ t.pw.dTherm ≤ t.pw.step)
  ∧ (∀ (s : State), s.Settled 625 →
    ∃ t, exec (.thermAlert false) s = .next t ∧ t.pw = { s.pw with alert := false } ∧ s.IrqOnly { t with pw := s.pw })
  ∧ (∀ (s : State), s.powered = true → s.pwrfail = false → s.pfThrot = true →
    ∃ t, exec (.pwrfailN true) s = .next t ∧ t.pwrfail = true ∧ t.pw.pfWait = true ∧ t.pw.dPf = 3 ∧ 3 ≤ t.pw.step
      ∧ (aget 0 t.regs 0x500020).getLsbD 3 = true)
  ∧ (∀ (s : State), s.pwrfail = false → s.pw.pfWait = true → s.powered = true →
    ∃ t, exec .pwrfailRecovery s = .next t ∧ t.pw.pfWait = false ∧ t.pw.dPf = 0
      ∧ (s.flashQ ≠ [] → s.flashBusy = false → s.huEnough = true → t.flashBusy = true))

/-- R309, R389, R453, R471 to R474: resets. -/
def Obligations.ResetsLeaveTheResetState : Prop :=
  (∀ (s : State) (b : Bool), ∃ t, exec (.sysPwrok b) s = .next t ∧ t.powered = b ∧ t.t0 = [] ∧ t.slice = [] ∧ t.tier = [] ∧ (s.flashBusy = false → t.flash = s.flash)
      ∧ t.t3Key = s.t3Key + 1 ∧ t.epoch = 0 ∧ t.rings = [] ∧ t.sealed_ = false ∧ t.rstLast = 0 ∧ t.pending = s.pending
      ∧ (s.flashBusy = false → s.fenceBest = none → t.fences = [] ∧ t.fl.lost = true))
  ∧ (∀ (s : State) (w : Nat), s.powered = true → s.anchor = w →
    ∃ t1 t2 t3, exec .sysRstN s = .next t1 ∧ exec .warmReset s = .next t2 ∧ exec (.groupResetMessage w) s = .next t3
      ∧ t1.rstLast = 1 ∧ t2.rstLast = 2 ∧ t3.rstLast = 3
      ∧ (∀ t, (t = t1 ∨ t = t2 ∨ t = t3) → t.t0 = [] ∧ t.slice = s.slice ∧ t.tier = s.tier ∧ t.flash = s.flash ∧ t.fences = s.fences
          ∧ t.t3Key = s.t3Key ∧ t.epoch = 0 ∧ t.rings = [] ∧ t.flip = none ∧ t.bar2 = [] ∧ t.sram = [] ∧ t.sealed_ = s.sealed_
          ∧ (s.sealed_ = true → t.sec.scrub.isSome = true) ∧ t.pending = s.pending))
  ∧ (∀ (s : State) (l : List Nat) (i : Nat), s.powered = true → i < 8 → (s.chan i).state = 0 → (s.obj.chans.map Prod.fst).Nodup →
    (afind s.obj.chans i).isSome = true →
    ∃ t, exec (.memoryTrainingDone l) s = .next t ∧ t.chan i = { state := 1, cap := 48 }
      ∧ aget {} t.obj.stripes 0 = { valid := true, tier := 0, gran := 1, chmask := 0xFF, start := 0, len := 384, chofs := 0 })
  ∧ (∀ (s : State) (b : Bool), s.powered = true →
    ∃ t, exec (.flr b) s = .next t ∧ t.bar2 = [] ∧ t.hwin = none ∧ (∀ x ∈ t.rings, 32 ≤ x.1) ∧ t.t0 = s.t0 ∧ t.slice = s.slice ∧ t.tier = s.tier
      ∧ t.cores = s.cores ∧ t.msixMask = List.range 64 ∧ (∀ n, (t.irqSrc n).hpend = false ∨ (n = 681 ∨ n = 682 ∨ n = 683 ∨ n = 3)))
  ∧ (∀ (s : State) (c p : Nat), s.powered = true → s.coreRst = none → s.phys c = some p →
    ∃ t, exec (.coreReset c) s = .next t ∧ t.coreRst = some { l := c, p := p, begun := !(s.core p).inCommit } ∧ t.cores = s.cores)
  ∧ (∀ (s : State) (r : CoreRst), s.powered = true → s.coreRst = some r → r.begun = true → s.isFenced r.p = false →
    (∀ f ∈ s.frames, f.run = false) →
    ∃ t, exec .coreResetDone s = .next t ∧ t.coreRst = none ∧ t.core r.p = { fence := (s.core r.p).fence } ∧ t.t0 = s.t0 ∧ t.slice = s.slice)
  ∧ (∀ (s : State), s.powered = true → s.isAnchor = true → (∀ d, d < 64 → bitAt s.gmask d = true → d ∈ s.roster) → s.devId < 64 →
    bitAt s.gmask s.devId = true →
    ∃ t, exec .groupReset s = .next t ∧ t.rstLast = 3 ∧ t.slice = s.slice ∧ t.t0 = [])
  ∧ (∀ (s : State) (d : Nat), s.powered = true → d < 64 → bitAt s.gmask d = true → d ∉ s.roster →
    exec .groupReset s = .next { s with rstStat := s.rstStat ||| 0x10 })

/-- R388: the window of BAR4. -/
def Obligations.HostWindowReachesMemory : Prop :=
  (∀ (s : State), ∃ t, exec .releaseWindow s = .next t ∧ t.hwin = none ∧ s.IrqOnly { t with hwin := s.hwin })
  ∧ (∀ (s : State) (ofs n o a : Nat), s.winShut ofs = false → (s.sealed_ = false ∨ s.inWrec (s.winAddr ofs) n = true) →
    s.checkAddr .host false false (s.winAddr ofs) n = .ok (o, a) →
    ∃ t, exec (.hostWindowRead ofs n) s = .next t ∧ t.out.getLast? = some (.readData ((s.objRead o a n).1.map Prod.fst) ((s.objRead o a n).1.any Prod.snd)) ∧ s.ReadOnly t)
  ∧ (∀ (s : State) (ofs n r o : Nat), s.winShut ofs = false → (s.sealed_ = false ∨ s.inWrec (s.winAddr ofs) n = true) →
    s.checkAddr .host false false (s.winAddr ofs) n = .error (r, o) →
    ∃ t, exec (.hostWindowRead ofs n) s = .next t ∧ t.out.getLast? = some .accessError
      ∧ t.hwin = some { reason := r, obj := o, addr := s.winAddr ofs } ∧ s.IrqOnly { t with hwin := s.hwin })
  ∧ (∀ (s : State) (ofs o a : Nat) (d : List Byte), s.winShut ofs = false → (s.sealed_ = false ∨ s.inWrec (s.winAddr ofs) d.length = true) →
    s.checkAddr .host true false (s.winAddr ofs) d.length = .ok (o, a) →
    ∃ t, exec (.hostWindowWrite ofs d) s = .next t ∧ t.tier = (s.wholeWrite o a (d.map fun b => (b, false))).tier
      ∧ t.slice = (s.wholeWrite o a (d.map fun b => (b, false))).slice ∧ t.hwin = s.hwin ∧ t.t0 = s.t0
      ∧ (∀ q, t.core q = { s.core q with cnt := (t.core q).cnt }))
  ∧ (∀ (s : State) (ofs r o : Nat) (d : List Byte), s.winShut ofs = false → (s.sealed_ = false ∨ s.inWrec (s.winAddr ofs) d.length = true) →
    s.checkAddr .host true false (s.winAddr ofs) d.length = .error (r, o) →
    ∃ t, exec (.hostWindowWrite ofs d) s = .next t ∧ t.hwin = some { reason := r, obj := o, addr := s.winAddr ofs }
      ∧ s.IrqOnly { t with hwin := s.hwin })
  ∧ (∀ (s : State) (ofs n : Nat) (d : List Byte),
    (s.hwin ≠ none ∨ bitAt (aget 0 s.regs (0x200500 + 8 * (ofs / 2 ^ 32 % 16))).toNat 0 = false) →
    exec (.hostWindowWrite ofs d) s = .next s ∧ ∃ t, exec (.hostWindowRead ofs n) s = .next t ∧ t = { s with out := s.out ++ [.accessError] })

/-- R454: sealed page accesses. -/
def Obligations.SealedPagesAreChecked : Prop :=
  (∀ (s : State) (ofs k a : Nat) (b : Byte) (rec_ : List Byte) (x : Nat × Nat), s.sealed_ = true → s.winShut ofs = false →
    s.inWrec (s.winAddr ofs) 1 = false → k = ofs / 4096 → a = s.winAddr (ofs / 4096 * 4096) → s.sec.owner.isSome = true →
    (∀ p ∈ s.sec.rpages, p.page ≠ k) → (∀ p ∈ s.sec.wpages, p.page ≠ k) → s.sec.wpages.length < 16 →
    s.checkAddr .host true false a 4096 = .ok x → s.pageRecord k = some rec_ →
    exec (.sealedPageWrite ofs b) s
      = .next { s with sec := { s.sec with wpages := s.sec.wpages ++ [{ page := k, addr := a, record := rec_, got := [(ofs % 4096, b)] }] } })
  ∧ (∀ (s : State) (ofs ctr o a : Nat) (b : Byte) (w : WPage) (g : List (Nat × Byte)) (iv d : List Byte) (u : State),
    s.sealed_ = true → s.winShut ofs = false → s.inWrec (s.winAddr ofs) 1 = false → s.sec.owner.isSome = true → s.sec.rpages = [] →
    s.sec.wpages = [w] → w.page = ofs / 4096 → afind w.got (ofs % 4096) = none → w.got.length = 4095 → g = aset w.got (ofs % 4096) b →
    d = (List.range 4096).map (fun i => aget 0 g i) → ctr = numOf (w.record.take 8) → iv = [1, 0, 0, 0] ++ bytesOf 8 ctr →
    (w.record.getD 24 0).toNat = 1 → s.sec.hctr < ctr →
    u = { s with sec := { s.sec with wpages := [] } } → u.checkAddr .host true false w.addr 4096 = .ok (o, a) →
    ∃ t, exec (.sealedPageWrite ofs b) s = .next t
      ∧ (Config.gcmTag (numOf s.sec.env) iv (bytesOf 8 w.addr ++ bytesOf 8 ctr) d = (w.record.drop 8).take 16 → t.sec = { s.sec with wpages := [], hctr := ctr }
      ∧ t.tier = (u.wholeWrite o a ((gcmXor (numOf s.sec.env) iv d).map fun b => (b, false))).tier
      ∧ t.slice = (u.wholeWrite o a ((gcmXor (numOf s.sec.env) iv d).map fun b => (b, false))).slice ∧ t.hwin = s.hwin))
  ∧ (∀ (s : State) (ofs ctr : Nat) (b : Byte) (w : WPage) (g : List (Nat × Byte)) (d : List Byte),
    s.sealed_ = true → s.winShut ofs = false → s.inWrec (s.winAddr ofs) 1 = false → s.sec.owner.isSome = true → s.sec.rpages = [] →
    s.sec.wpages = [w] → w.page = ofs / 4096 → afind w.got (ofs % 4096) = none → w.got.length = 4095 → g = aset w.got (ofs % 4096) b →
    d = (List.range 4096).map (fun i => aget 0 g i) → ctr = numOf (w.record.take 8) →
    ((w.record.getD 24 0).toNat ≠ 1 ∨ ctr ≤ s.sec.hctr
      ∨ Config.gcmTag (numOf s.sec.env) ([1, 0, 0, 0] ++ bytesOf 8 ctr) (bytesOf 8 w.addr ++ bytesOf 8 ctr) d ≠ (w.record.drop 8).take 16) →
    ∃ t, exec (.sealedPageWrite ofs b) s = .next t ∧ t.sec = { s.sec with wpages := [] } ∧ t.tier = s.tier ∧ t.slice = s.slice
      ∧ t.hwin = some { reason := 0x80, obj := s.wrec, addr := w.addr } ∧ t.count 0x600080 = (s.count 0x600080 + 1) % 2 ^ 32)
  ∧ (∀ (s : State) (ofs n k a o f : Nat) (rec_ : List Byte) (d : List Byte) (pz : Bool), s.sealed_ = true → s.inWrec (s.winAddr ofs) n = false →
    s.winShut ofs = false → ofs % 4096 + n ≤ 4096 → k = ofs / 4096 → a = s.winAddr (k * 4096) → s.sec.owner.isSome = true →
    (∀ p ∈ s.sec.rpages, p.page ≠ k) → s.sec.rpages.length < 16 → s.pageRecord k = some rec_ →
    s.checkAddr .host false false a 4096 = .ok (o, f) →
    d = gcmXor (numOf s.sec.env) ([2, 0, 0, 0] ++ bytesOf 8 (s.sec.dctr + 1)) ((s.objRead o f 4096).1.map Prod.fst) →
    pz = (s.objRead o f 4096).1.any Prod.snd →
    ∃ t, exec (.sealedPageRead ofs n) s = .next t ∧ t.out.getLast? = some (.readData ((d.drop (ofs % 4096)).take n) pz)
      ∧ t.sec = { s.sec with dctr := s.sec.dctr + 1, rpages := s.sec.rpages ++ [{ page := k, data := d, poison := pz }] } ∧ t.hwin = s.hwin)
  ∧ (∀ (s : State) (ofs n : Nat) (x : RPage), s.sealed_ = true → s.inWrec (s.winAddr ofs) n = false → s.winShut ofs = false →
    ofs % 4096 + n ≤ 4096 → s.sec.owner.isSome = true → s.sec.rpages.find? (fun x => decide (x.page = ofs / 4096)) = some x →
    exec (.sealedPageRead ofs n) s = .next { s with out := s.out ++ [.readData ((x.data.drop (ofs % 4096)).take n) x.poison] })
  ∧ (∀ (s : State) (ofs n : Nat) (b : Byte), s.sealed_ = true → s.inWrec (s.winAddr ofs) 1 = false → s.inWrec (s.winAddr ofs) n = false →
    s.winShut ofs = false → ofs % 4096 + n ≤ 4096 → s.sec.owner = none →
    ∃ t u, exec (.sealedPageWrite ofs b) s = .next t ∧ exec (.sealedPageRead ofs n) s = .next u
      ∧ t.hwin = some { reason := 0x80, obj := s.wrec, addr := s.winAddr (ofs / 4096 * 4096) } ∧ u.hwin = t.hwin
      ∧ u.out.getLast? = some .accessError ∧ t.tier = s.tier ∧ t.slice = s.slice ∧ u.tier = s.tier ∧ u.slice = s.slice)

/-- R447 to R449, R451: answers. Codes and layouts of the answers: log 11. -/
def Obligations.SecurityRequestsAreAnswered : Prop :=
  (∀ (s : State) (tr : Nat), exec (.getVersion tr) s = .next { s with out := s.out ++ [.response tr 4 [0x14]] }
      ∧ ∃ d, exec (.getCapabilities tr) s = .next { s with out := s.out ++ [.response tr 0x61 d] })
  ∧ (∀ (s : State) (tr : Nat) (l : List Nat), 0 ∈ l → 1 ∈ l → 2 ∈ l → 3 ∈ l →
    exec (.negotiateAlgorithms tr l) s = .next { s with out := s.out ++ [.response tr 0x63 [0, 1, 2, 3]] })
  ∧ (∀ (s : State) (tr : Nat) (l : List Nat) (i : Nat), i < 4 → i ∉ l →
    exec (.negotiateAlgorithms tr l) s = .next { s with out := s.out ++ [.response tr 0x7F []] })
  ∧ (∀ (s : State) (tr slot : Nat),
    exec (.getDigests tr slot) s = .next { s with out := s.out ++ [if slot = 0 then .response tr 1 (sha3 s.certChain) else .response tr 0x7F []] })
  ∧ (∀ (s : State) (tr slot ofs n : Nat), exec (.getCertificate tr slot ofs n) s = .next { s with out := s.out ++
      [if slot = 0 ∧ sha3 (Memory.bytes s.flash 0x3020000 0x10000) = Config.certHash then .response tr 2 ((s.certChain.drop ofs).take n)
       else .response tr 0x7F []] })
  ∧ (∀ (s : State) (tr slot : Nat) (nonce : List Byte), exec (.challenge tr slot nonce) s = .next { s with out := s.out ++
      [if slot = 0 then .response tr 3 (sha3 s.certChain ++ nonce ++ s.sec.attestKey.sign (sha3 s.certChain ++ nonce)) else .response tr 0x7F []] })
  ∧ (∀ (s : State) (tr i : Nat) (nonce b : List Byte), (i = 0 ∧ b = [7]) ∨ (1 ≤ i ∧ i ≤ 7 ∧ b = s.measValue i)
      ∨ (i = 0xFF ∧ b = s.measValue 1 ++ s.measValue 2 ++ s.measValue 3 ++ s.measValue 4 ++ s.measValue 5 ++ s.measValue 6 ++ s.measValue 7) →
    exec (.getMeasurements tr i nonce) s = .next { s with out := s.out ++ [.response tr 0x60 (b ++ nonce ++ s.sec.attestKey.sign (b ++ nonce))] })
  ∧ (∀ (s : State) (tr i : Nat) (nonce : List Byte), 7 < i → i ≠ 0xFF →
    exec (.getMeasurements tr i nonce) s = .next { s with out := s.out ++ [.response tr 0x7F []] })
  ∧ (∀ (s : State) (n : Nat) (x : Spdm), afind s.sec.sess n = some x → x.est = true →
    exec (.heartbeat n) s = .next { s with out := s.out ++ [.response x.tr 0x68 []] })
  ∧ (∀ (s : State) (n : Nat) (x : Spdm), afind s.sec.sess n = some x → x.est = true → s.sec.owner = some n →
    exec (.ownerInfo n) s = .next { s with out := s.out ++ [.response x.tr 0x7E ([0x04, BitVec.ofNat 8 s.secStat] ++ s.sec.ownerHash
      ++ bytesOf 8 s.sec.hctr ++ bytesOf 8 s.sec.dctr)] })

/-- R448, R451: sessions. -/
def Obligations.SessionsOpenAndEnd : Prop :=
  (∀ (s : State) (tr : Nat) (d : List Byte), (∃ i < 4, afind s.sec.sess i = none) →
    ∃ t i, exec (.keyExchange tr d) s = .next t ∧ i < 4 ∧ afind s.sec.sess i = none ∧ afind t.sec.sess i = some { tr := tr, est := false, th := sha3 d }
      ∧ (∀ j, j ≠ i → afind t.sec.sess j = afind s.sec.sess j) ∧ t.sec.owner = s.sec.owner ∧ t.sec.env = s.sec.env
      ∧ (∃ b, t.out = s.out ++ [.response tr 0x64 (BitVec.ofNat 8 i :: b)]))
  ∧ (∀ (s : State) (tr : Nat) (d : List Byte), (∀ i < 4, afind s.sec.sess i ≠ none) →
    exec (.keyExchange tr d) s = .next { s with out := s.out ++ [.response tr 0x7F []] })
  ∧ (∀ (s : State) (n : Nat) (x : Spdm), afind s.sec.sess n = some x → x.est = false →
    ∃ t, exec (.finish n true) s = .next t ∧ (∃ y, afind t.sec.sess n = some y ∧ y.est = true ∧ y.tr = x.tr)
      ∧ (∀ j, j ≠ n → afind t.sec.sess j = afind s.sec.sess j) ∧ t.count 0x600094 = (s.count 0x600094 + 1) % 2 ^ 32
      ∧ t.sec.owner = s.sec.owner)
  ∧ (∀ (s : State) (n : Nat) (x : Spdm), afind s.sec.sess n = some x → x.est = false →
    ∃ t, exec (.finish n false) s = .next t ∧ afind t.sec.sess n = none ∧ (∀ j, j ≠ n → afind t.sec.sess j = afind s.sec.sess j)
      ∧ t.out.getLast? = some (.response x.tr 0x7F []))
  ∧ (∀ (s : State) (n : Nat) (x : Spdm), afind s.sec.sess n = some x → x.est = true →
    ∃ t, exec (.keyUpdate n) s = .next t ∧ t.sec = { s.sec with ide := [] } ∧ t.out.getLast? = some (.response x.tr 0x69 []))
  ∧ (∀ (s : State) (n : Nat) (x : Spdm) (d : List Byte), afind s.sec.sess n = some x → x.est = true →
    ∃ t, exec (.ideKm n d) s = .next t ∧ t.sec = { s.sec with ide := d })
  ∧ (∀ (s : State) (n : Nat) (x : Spdm), afind s.sec.sess n = some x → x.est = true →
    ∃ t u, exec (.endSession n) s = .next t ∧ exec (.sessionFault n) s = .next u ∧ t.sec = u.sec ∧ afind t.sec.sess n = none
      ∧ (∀ j, j ≠ n → afind t.sec.sess j = afind s.sec.sess j)
      ∧ (s.sec.owner = some n → t.sec.owner = none ∧ t.sec.env = [] ∧ t.sec.wpages = [] ∧ t.sec.rpages = []
          ∧ t.count 0x60008C = (s.count 0x60008C + (s.sec.wpages.length + s.sec.rpages.length)) % 2 ^ 32)
      ∧ (s.sec.owner ≠ some n → t.sec.owner = s.sec.owner ∧ t.sec.env = s.sec.env ∧ t.sec.wpages = s.sec.wpages ∧ t.sec.rpages = s.sec.rpages)
      ∧ t.out.getLast? = some (.response x.tr 0x6C []) ∧ t.sealed_ = s.sealed_ ∧ t.sec.ownerKey = s.sec.ownerKey)
  ∧ (∀ (s : State) (n : Nat) (x : Spdm) (d : List Byte), afind s.sec.sess n = some x → x.est = false →
    exec (.keyUpdate n) s = .next { s with out := s.out ++ [.response x.tr 0x7F []] } ∧ exec (.heartbeat n) s = exec (.keyUpdate n) s
      ∧ exec (.endSession n) s = exec (.keyUpdate n) s ∧ exec (.ideKm n d) s = exec (.keyUpdate n) s
      ∧ exec (.seal n) s = exec (.keyUpdate n) s ∧ exec (.release n) s = exec (.keyUpdate n) s)

/-- R451 to R453: owner status and sealed mode. -/
def Obligations.OwnersSealAndRelease : Prop :=
  (∀ (s : State) (n : Nat) (x : Spdm) (pk sig : List Byte), afind s.sec.sess n = some x → x.est = true → pk.length = 1312 → sig.length = 2420 →
    (s.sec.ownerKey = none ∨ s.sec.ownerKey = some pk) →
    ∃ t, exec (.ownerClaim n pk sig) s = .next t ∧ (Config.verify 1 pk x.th sig = true → t.sec.owner = some n ∧ t.sec.ownerKey = some pk ∧ t.sec.sess = s.sec.sess
      ∧ t.sec.env = kdf (Config.derive 3 x.th []) (ascii "FJ2 ENVELOPE")
      ∧ (s.sec.owner ≠ some n → t.sec.hctr = 0 ∧ t.sec.dctr = 0 ∧ t.sec.wpages = [] ∧ t.sec.rpages = [])
      ∧ (s.sec.owner = some n → t.sec.hctr = s.sec.hctr ∧ t.sec.dctr = s.sec.dctr ∧ t.sec.wpages = s.sec.wpages) ∧ t.sealed_ = s.sealed_))
  ∧ (∀ (s : State) (n : Nat) (x : Spdm) (pk sig : List Byte), afind s.sec.sess n = some x → x.est = true →
    (pk.length ≠ 1312 ∨ sig.length ≠ 2420 ∨ Config.verify 1 pk x.th sig = false ∨ ∃ k, s.sec.ownerKey = some k ∧ k ≠ pk) →
    exec (.ownerClaim n pk sig) s = .next { s with out := s.out ++ [.response x.tr 0x7F []] })
  ∧ (∀ (s : State) (n : Nat) (x : Spdm), afind s.sec.sess n = some x → x.est = true → s.sealed_ = false →
    ∃ t, exec (.seal n) s = .next t ∧ t.sec = s.sec
      ∧ (t.sealed_ = true ↔ s.sec.owner = some n ∧ s.sec.recovery = false ∧ s.sec.debug = false
          ∧ (∀ i < 16, bitAt (aget 0 s.regs (0x200500 + 8 * i)).toNat 0 = false)
          ∧ (s.objEnt s.wrec).valid = true ∧ (s.objEnt s.wrec).tier = 1 ∧ (s.objEnt s.wrec).kind = 6)
      ∧ (t.sealed_ = false → t.out.getLast? = some (.response x.tr 0x7F [])))
  ∧ (∀ (s : State) (n : Nat) (x : Spdm), afind s.sec.sess n = some x → x.est = true → s.sec.owner = some n →
    ∃ t, exec (.release n) s = .next t ∧ t.sec.ownerKey = none ∧ (s.sealed_ = true → t.sec.scrub = some 0)
      ∧ (s.sealed_ = false → t.sec.scrub = s.sec.scrub) ∧ t.sealed_ = s.sealed_ ∧ t.sec.owner = some n)
  ∧ (∀ (s : State) (m : Nat), s.MemWf → s.sec.scrub = some m →
    ∃ t, exec .scrubDone s = .next t ∧ t.t0 = [] ∧ t.slice = [] ∧ (∀ ch a, ch < 8 → a < 2 ^ 40 → Memory.read t.tier (tierKey ch a) = 0)
      ∧ (∀ ch a, 8 ≤ ch → Memory.read t.tier (tierKey ch a) = Memory.read s.tier (tierKey ch a)) ∧ t.t3Key = s.t3Key + 1
      ∧ t.sealed_ = false ∧ t.sec.scrub = none ∧ t.flash = s.flash ∧ t.cores = s.cores)

/-- R456 to R458, R476, R479: updates and the mailbox. -/
def Obligations.UpdatesCheckThenWrite : Prop :=
  (∀ (s : State) (d : List Byte), s.mbxRuns 1 = true → (∀ x ∈ s.sec.updating, x.2 ≠ some mbxWaits) →
    2592 ≤ (d.take (s.mbxReg 0x40)).length → (d.take (s.mbxReg 0x40)).length ≤ 61440 → afind s.sec.updating 5 = none →
    ∃ (t : State) (js : List FlashJob), exec (.manifestWrite d) s = .next t
      ∧ (s.sec.checkImage 5 (d.take (s.mbxReg 0x40)) = 0 → t.flashQ = s.flashQ ++ js ∧ afind t.sec.updating 5 = some (some mbxWaits)
      ∧ js.head?.map FlashJob.kind = some (.erase (10 + (s.sec.inactive 5).1))
      ∧ (∃ img, js.getLast?.map FlashJob.kind = some (.header (10 + (s.sec.inactive 5).1) img))
      ∧ (js.flatMap fun j => if j.kind = .image then j.data else []) = d.take (s.mbxReg 0x40) ∧ t.flash = s.flash))
  ∧ (∀ (s : State) (d : List Byte), s.mbxRuns 1 = true → (∀ x ∈ s.sec.updating, x.2 ≠ some mbxWaits) →
    2592 ≤ (d.take (s.mbxReg 0x40)).length → (d.take (s.mbxReg 0x40)).length ≤ 61440 → afind s.sec.updating 5 = none →
    s.sec.checkImage 5 (d.take (s.mbxReg 0x40)) ≠ 0 →
    ∃ t, exec (.manifestWrite d) s = .next t ∧ t.flashQ = s.flashQ ∧ t.sec.updating = s.sec.updating ∧ t.sec.mbxBusy = false
      ∧ t.sec.mbxStatus = (if s.sec.checkImage 5 (d.take (s.mbxReg 0x40)) = 5 then 5 else 4)
      ∧ t.sec.fwResult = s.sec.checkImage 5 (d.take (s.mbxReg 0x40)))
  ∧ (∀ (s : State) (comp : Nat) (d : List Byte), 2 ≤ comp → comp ≤ 5 → d.length ≤ slotSize comp - 4096 → afind s.sec.updating comp = none →
    ∃ (t : State) (js : List FlashJob), exec (.pldmFirmwareUpdate comp d) s = .next t
      ∧ (s.sec.checkImage comp d = 0 → t.flashQ = s.flashQ ++ js ∧ afind t.sec.updating comp = some none
      ∧ js.head?.map FlashJob.kind = some (.erase (2 * comp + (s.sec.inactive comp).1))
      ∧ (∃ img, js.getLast?.map FlashJob.kind = some (.header (2 * comp + (s.sec.inactive comp).1) img))
      ∧ (js.flatMap fun j => if j.kind = .image then j.data else []) = d ∧ t.flash = s.flash ∧ t.out.getLast? = some (.response 2 0 [])))
  ∧ (∀ (s : State) (comp : Nat) (d : List Byte), 2 ≤ comp → comp ≤ 5 → d.length ≤ slotSize comp - 4096 → afind s.sec.updating comp ≠ none →
    exec (.pldmFirmwareUpdate comp d) s = .next { s with out := s.out ++ [.response 2 5 []] })
  ∧ (∀ (s : State), s.mbxRuns 2 = true → (∀ j ∈ s.flashQ, ∀ l, j.kind ≠ .rollback l) → s.sec.recovery = false → s.mbxReg 0x34 < 16 →
    ∃ (t : State) (j : FlashJob) (ts : List Nat), exec .arbCommit s = .next t ∧ t.flashQ = s.flashQ ++ [j] ∧ j.kind = .rollback ts ∧ t.sec = s.sec
      ∧ (∀ i, i < 4 → ts.getD i 0 = if bitAt (s.mbxReg 0x34) i then max (s.sec.svn.getD i 0)
          ((afind s.sec.run ([4, 3, 2, 5].getD i 0)).elim (s.sec.svn.getD i 0) Image.svn) else s.sec.svn.getD i 0))
  ∧ (∀ (s : State) (d : List Byte), s.mbxRuns 3 = true → (d.take (s.mbxReg 0x40)).length = 2592 → s.sealed_ = false → s.sec.recovery = false →
    ∃ t, exec (.debugUnlock d) s = .next t
      ∧ (s.sec.checkImage 6 (d.take (s.mbxReg 0x40)) = 0 → signerOf (d.take (s.mbxReg 0x40)) = 0 →
        (d.take (s.mbxReg 0x40)).take 32 = devidHash →
        t.sec.debugNext = true ∧ t.sec.debug = s.sec.debug ∧ t.sec.mbxBusy = false ∧ t.sec.mbxStatus = 0))
  ∧ (∀ (s : State) (d : List Byte), s.mbxRuns 3 = true → (d.take (s.mbxReg 0x40)).length = 2592 → (s.sealed_ = true ∨ s.sec.recovery = true) →
    ∃ t, exec (.debugUnlock d) s = .next t ∧ t.sec = { s.sec with mbxBusy := false, mbxStatus := 3 })

/-- R403, R439, R490, R492: management and debug interfaces. -/
def Obligations.ManagementInterfacesAct : Prop :=
  (∀ (s : State) (up : Bool), s.powered = true →
    ∃ t, exec (.pcieLinkEvent up) s = .next t ∧ t.linkUp = up ∧ t.sec = (if up then s.sec else { s.sec with ide := [] })
      ∧ s.IrqOnly { t with linkUp := s.linkUp, sec := s.sec })
  ∧ (∀ (s : State) (bus code a : Nat), s.powered = true →
    ∃ t u d, exec (.mctpControlMessage bus code (some a)) s = .next t ∧ exec (.mctpControlMessage bus code none) s = .next u
      ∧ t = { s with smbus := a % 128, out := s.out ++ [.response bus code d] } ∧ u = { s with out := s.out ++ [.response bus code d] })
  ∧ (∀ (s : State) (a : Nat), s.powered = true → exec (.dynamicAddressAssignment a) s = .next { s with i3c := some (a % 128) })
  ∧ (∀ (s : State) (n : Nat), s.powered = true → n < 64 →
    exec (.pldmSensorRead n) s = .next { s with out := s.out ++ [.response 2 0x11 (bytesOf 4 (aget 0 s.pw.temps n))] })
  ∧ (∀ (s : State) (n : Nat), s.powered = true → 98 ≤ n → exec (.pldmSensorRead n) s = .next { s with out := s.out ++ [.response 2 0x7F []] })
  ∧ (∀ (s : State) (dr : List Bool), dr.length = 32 →
    exec (.jtagInstruction 2 dr) s = .next { s with jtag := 2, out := s.out ++ [.tdo ((List.range 32).map fun i => bitAt idCode i)] })
  ∧ (∀ (s : State) (dr : List Bool),
    exec (.jtagInstruction 7 dr) s = .next { s with jtag := 7, out := s.out ++ [.tdo ((false :: dr).take dr.length)] })
  ∧ (∀ (s : State) (ir : Nat) (dr : List Bool), 8 ≤ ir → s.sealed_ = true →
    exec (.jtagInstruction ir dr) s = .next { s with jtag := ir, out := s.out ++ [.tdo ((false :: dr).take dr.length)] })
  ∧ (∀ (s : State) (ir : Nat) (dr : List Bool), ir ∈ [0, 1, 5, 6] →
    ∃ t, exec (.jtagInstruction ir dr) s = .next t ∧ t.bsr = dr ∧ t.jtag = ir ∧ t.sec = s.sec ∧ t.cores = s.cores)

/-- R6, R387, R393, R408: register writes. -/
def Obligations.RegisterWritesTakeEffect : Prop :=
  (∀ (s : State) (o : Nat) (v : BitVec 64), s.powered = true → o % 8 = 0 → o + 8 ≤ 0x4000000 →
    ∃ t u, exec (.registerWrite 0 o 4 v) s = .next t ∧ exec (.registerWrite 0 (o + 4) 4 (v >>> 32)) t = .next u
      ∧ exec (.registerWrite 0 o 8 v) s = .next u)
  ∧ (∀ (s : State) (o w : Nat) (v : BitVec 64), s.powered = true → (o % 4 ≠ 0 ∨ (w ≠ 4 ∧ w ≠ 8) ∨ 0x4000000 ≤ o) →
    exec (.registerWrite 0 o w v) s = .next { s with out := s.out ++ [.accessError] })
  ∧ (∀ (s : State) (o : Nat) (m : W32) (v : BitVec 64), s.powered = true →
    ((o = 0x8010 ∧ m = 0xF) ∨ ∃ i, i < 16 ∧ ((o = 0x200500 + 8 * i ∧ m = 0xFFF00001) ∨ (o = 0x200504 + 8 * i ∧ m = 0xFFFFF))) →
    ∃ t, exec (.registerWrite 0 o 4 v) s = .next t ∧ aget 0 t.regs o &&& m = v.setWidth 32 &&& m ∧ t = { s with regs := t.regs }
      ∧ (∀ x, x ≠ o → aget 0 t.regs x = aget 0 s.regs x))
  ∧ (∀ (s : State) (v : BitVec 64), s.powered = true →
    ∃ t, exec (.registerWrite 0 0x500020 4 v) s = .next t
      ∧ aget 0 t.regs 0x500020 = aget 0 s.regs 0x500020 &&& ~~~((v.setWidth 32 : W32) &&& 0x3F) ∧ s.IrqOnly { t with regs := s.regs })
  ∧ (∀ (s : State) (v : BitVec 64), s.viewOn = false → exec (.registerWrite 0 0x500010 4 v) s = .next s)
  ∧ (∀ (s : State) (o : Nat) (v : BitVec 64), s.powered = true → o < 0x110000 → o % 4 = 0 →
    exec (.registerWrite 2 o 4 v) s = .next { s with bar2 := Memory.put s.bar2 o (bytesOf 4 (v.setWidth 32 : W32).toNat) })
  ∧ (∀ (s : State) (r : Nat) (v : BitVec 64), s.powered = true → r < 17 →
    exec (.registerWrite 2 (0x120000 + 0x1000 * r) 4 v) s = exec (.sqTail r (v.toNat % 1024)) s
      ∧ exec (.registerWrite 2 (0x120004 + 0x1000 * r) 4 v) s = exec (.cqHead r (v.toNat % 1024)) s)
  ∧ (∀ (s : State) (k : Nat), s.powered = true → k < 64 →
    ∃ t u, exec (.registerWrite 2 (0x1F000C + 16 * k) 4 1) s = .next t ∧ exec (.registerWrite 2 (0x1F000C + 16 * k) 4 0) s = .next u
      ∧ k ∈ t.msixMask ∧ k ∉ u.msixMask ∧ t.out = s.out ∧ u.out = (if k ∈ s.msixPba then s.out ++ [.msix k] else s.out) ∧ k ∉ u.msixPba
      ∧ (∀ j, j ≠ k → (j ∈ t.msixMask ↔ j ∈ s.msixMask) ∧ (j ∈ u.msixMask ↔ j ∈ s.msixMask)))

/-- R401, R402: the control processors. -/
def Obligations.ControlProcessorsReachMemory : Prop :=
  (∀ (s : State) (m : BitVec 32), s.powered = true →
    ∃ t, exec (.cpRun m) s = .next t ∧ (∀ c, 1 ≤ c → c < 4 → t.cpRuns c = m.getLsbD c) ∧ t.cpRuns 0 = true ∧ s.IrqOnly { t with regs := s.regs })
  ∧ (∀ (s : State) (c : Nat), c < 4 → s.powered = true → s.cpRuns c = true → aget 0 s.regs 0xC054 ≠ 0 → bitAt (s.irqCfg 6) 17 = true →
    bitsOf (s.irqCfg 6) 0 3 = 2 → (s.irqSrc 6).masked = false → bitsOf (s.irqLim 6) 0 12 = 0 → (s.irqSrc 6).raw = false →
    ∃ t, exec (.cpWatchdog c) s = .next t ∧ (t.irqSrc 6).pend = true ∧ s.IrqOnly t)
  ∧ (∀ (s : State) (c a : Nat) (d : List Byte), s.MemWf → c < 4 → s.powered = true → s.cpRuns c = true → 0x80000000 ≤ a →
    a + d.length ≤ 0x80400000 →
    ∃ t u, exec (.cpMemoryAccess c a d.length (some d)) s = .next t ∧ exec (.cpMemoryAccess c a d.length none) t = .next u
      ∧ t = { s with sram := t.sram } ∧ u = { t with out := t.out ++ [.readData d] }
      ∧ (∀ b, (b < a - 0x80000000 ∨ a - 0x80000000 + d.length ≤ b) → Memory.read t.sram b = Memory.read s.sram b))
  ∧ (∀ (s : State) (c o n : Nat) (d : List Byte), c < 4 → s.powered = true → s.cpRuns c = true → (d.length = 4 ∨ d.length = 8) →
    o % d.length = 0 → o + d.length ≤ 0x4000000 →
    exec (.cpMemoryAccess c (0x40000000 + o) n (some d)) s = exec (.registerWrite 0 o d.length (BitVec.ofNat 64 (numOf d))) s)
  ∧ (∀ (s : State) (c a n : Nat) (w : Option (List Byte)), c < 4 → s.powered = true → s.cpRuns c = true →
    (a < 0x40000000 ∨ (0x44000000 ≤ a ∧ a < 0x80000000) ∨ (0x80400000 < a ∧ a < 2 ^ 52) ∨ 2 ^ 53 ≤ a
      ∨ (2 ^ 52 ≤ a ∧ a < 2 ^ 53 ∧ s.findObj (a - 2 ^ 52) = none)) →
    exec (.cpMemoryAccess c a n w) s = .next { s with out := s.out ++ [.accessError] })
  ∧ (∀ (s : State) (c a n : Nat) (w : Option (List Byte)), s.cpRuns c = false →
    exec (.cpMemoryAccess c a n w) s = .next s ∧ exec (.cpWatchdog c) s = .next s)

/-- R108, R180, R293, R351, R384: counter clears. -/
def Obligations.CountersClear : Prop :=
  (∀ (s : State) (c p : Nat) (i : Instr) (lo hi : Nat), s.Answers c p →
    ((i = .engCntClr c 0 ∧ lo = 0x2020 ∧ hi = 0x2080) ∨ (i = .engCntClr c 1 ∧ lo = 0x2120 ∧ hi = 0x2180)
      ∨ (i = .drnCntClr c ∧ lo = 0x2240 ∧ hi = 0x2254) ∨ (i = .seqCntClr c ∧ lo = 0x1300 ∧ hi = 0x1318)
      ∨ (i = .tpCntClr c ∧ lo = 0x2900 ∧ hi = 0x2918) ∨ (i = .strCntClr c ∧ lo = 0x3A00 ∧ hi = 0x3A9C)
      ∨ (i = .cerrCntClr c ∧ lo = 0x4040 ∧ hi = 0x4054)) →
    ∃ t, exec i s = .next t ∧ (∀ o, (t.core p).count o = if lo ≤ o ∧ o ≤ hi then 0 else (s.core p).count o)
      ∧ t.core p = { s.core p with cnt := (t.core p).cnt } ∧ (∀ q, q ≠ p → t.core q = s.core q) ∧ t = { s with cores := t.cores }.rstBegin)
  ∧ (∀ (s : State) (c p : Nat), s.Answers c p →
    ∃ t, exec (.updCntClr c) s = .next t
      ∧ (∀ o, (t.core p).count o = if (0x2500 ≤ o ∧ o ≤ 0x251C) ∨ o = 0x2524 then 0 else (s.core p).count o)
      ∧ t.core p = { s.core p with cnt := (t.core p).cnt } ∧ (∀ q, q ≠ p → t.core q = s.core q) ∧ t = { s with cores := t.cores }.rstBegin)
  ∧ (∀ (s : State) (c p : Nat), s.Answers c p →
    ∃ t, exec (.l2CntClr c) s = .next t ∧ t.cluster (clusterOf p) = { s.cluster (clusterOf p) with cnt := [] }
      ∧ (∀ g, g ≠ clusterOf p → t.cluster g = s.cluster g) ∧ t = { s with clusters := t.clusters }.rstBegin)
  ∧ (∀ (s : State) (p : Nat) (i : Instr) (lo hi : Nat),
    ((i = .smCntClr ∧ lo = 0x8080 ∧ hi = 0x809C) ∨ (i = .portCntClr p ∧ lo = portBase p + 0x40 ∧ hi = portBase p + 0x78)
      ∨ (i = .colCntClr ∧ lo = 0x340200 ∧ hi = 0x34022C) ∨ (i = .secCntClr ∧ lo = 0x600080 ∧ hi = 0x600094)
      ∨ (i = .pwrCntClr ∧ lo = 0x500080 ∧ hi = 0x500098)) →
    ∃ t, exec i s = .next t ∧ (∀ o, t.count o = if lo ≤ o ∧ o ≤ hi then 0 else s.count o) ∧ t = { s with cnt := t.cnt })

/-- The block takes its commands first in, first out (log 26). -/
def Obligations.StepRunsFront : Prop :=
  (∀ (c : Instr) (s : State), step { s with pending := c :: s.pending } = exec c s)
  ∧ (∀ (c : Instr) (s : State) (rest : List Instr), s.pending = c :: rest → step s = exec c { s with pending := rest })
  ∧ (∀ (s : State), s.pending = [] → step s = .next s)

/-- No command stops the block. -/
def Obligations.EveryCommandAnswers : Prop :=
  ∀ (c : Instr) (s : State), ∃ t, exec c s = .next t

/-- The memories' canonical form is an invariant of the step (log 3). -/
def Obligations.MemoriesKeepTheirForm : Prop :=
  ∀ (s t : State), s.MemWf → step s = .next t → t.MemWf

/-- R31, R304, R471, R472: what reset leaves. Fuses, objects and unwritten memory: logs 3 to 6. -/
def Obligations.ResetStateIsAsStated : Prop :=
  State.reset.MemWf
  ∧ (∀ p, (State.reset.core p).seq.state = .stopped ∧ (State.reset.core p).pre.saved = none ∧ (State.reset.core p).cq = []
      ∧ ∀ o, (State.reset.core p).count o = 0)
  ∧ (∀ a, Memory.read State.reset.t0 a = 0 ∧ Memory.read State.reset.slice a = 0 ∧ Memory.read State.reset.tier a = 0)
  ∧ State.reset.ncores = 480
  ∧ (∀ l, l < 480 → State.reset.phys l = some (l + (l + 8) / 15))
  ∧ (∀ l, 480 ≤ l → State.reset.phys l = none)
  ∧ (∀ p, p ∈ State.reset.spares ↔ p < 512 ∧ p % 16 = 7)
  ∧ (aget ({} : StripeSet) State.reset.obj.stripes 0) = { valid := true, tier := 0, gran := 1, chmask := 0xFF, start := 0, len := 384, chofs := 0 }
  ∧ (aget ({} : StripeSet) State.reset.obj.stripes 1).valid = true ∧ (aget ({} : StripeSet) State.reset.obj.stripes 1).tier = 1
  ∧ (∀ i, (State.reset.objEnt i).valid = false)
  ∧ State.reset.powered = true ∧ State.reset.lost = false ∧ State.reset.sealed_ = false ∧ State.reset.epoch = 0 ∧ State.reset.rstLast = 0
  ∧ State.reset.cfg.st = 0 ∧ State.reset.flip = none ∧ State.reset.twopc = none ∧ State.reset.colls = [] ∧ State.reset.rings = []
  ∧ State.reset.hwin = none ∧ State.reset.mesh = [] ∧ State.reset.msixMask = List.range 64 ∧ State.reset.pending = []
  ∧ (∀ o, State.reset.count o = 0)

/-- R453: how sealed mode ends. -/
def Obligations.SealedModeEndsByScrub : Prop :=
  ∀ (c : Instr) (s t : State), s.sealed_ = true → exec c s = .next t → t.sealed_ = true
    ∨ (c = .scrubDone ∧ s.sec.scrub.isSome = true ∧ t.t0 = [] ∧ t.slice = [] ∧ t.t3Key = s.t3Key + 1)
    ∨ (∃ b, c = .sysPwrok b ∧ t.t0 = [] ∧ t.slice = [] ∧ t.tier = [] ∧ t.t3Key = s.t3Key + 1)

/-- R255: local memories. -/
def Obligations.LocalWritesReadBack : Prop :=
  ∀ (s : State) (p sp a : Nat) (d : List Byte) (pz : Bool), s.MemWf → sp < 2 → a + d.length ≤ (if sp = 0 then 0x100000 else 0x800000) →
    ((s.localWrite p sp a d pz).localRead p sp a d.length).1 = d
    ∧ (d ≠ [] → pz = true → ((s.localWrite p sp a d pz).localRead p sp a d.length).2 = true)
    ∧ (pz = false → a % 8 = 0 → d.length % 8 = 0 → ((s.localWrite p sp a d pz).localRead p sp a d.length).2 = false)
    ∧ (∀ b n, (b + n ≤ a ∨ a + d.length ≤ b) → ((s.localWrite p sp a d pz).localRead p sp b n).1 = (s.localRead p sp b n).1)
    ∧ (∀ q b n, q ≠ p → b + n ≤ (if sp = 0 then 0x100000 else 0x800000) → (s.localWrite p sp a d pz).localRead q sp b n = s.localRead q sp b n)
    ∧ (∀ b n, ((b + n + 7) / 8 * 8 ≤ a ∨ a + d.length ≤ b / 8 * 8) → ((s.localWrite p sp a d pz).localRead p sp b n).2 = (s.localRead p sp b n).2)
    ∧ (∀ q b n, (s.localWrite p sp a d pz).localRead q (1 - sp) b n = s.localRead q (1 - sp) b n)
    ∧ (s.localWrite p sp a d pz).MemWf

/-- R313, R314: Muslin coding loses nothing. -/
def Obligations.MuslinRoundTrips : Prop :=
  ∀ (d : List Nat) (w : Nat), d.length = 4096 → (∀ x ∈ d, x < 256) → (w = 1 ∨ w = 2 ∨ w = 4) →
    muslinDecode (muslinEncode d w).1 (muslinEncode d w).2 w = some d ∧ (muslinEncode d w).2.length ≤ 4096
    ∧ ((muslinEncode d w).1 = 0x02 ↔ ∀ x ∈ d, x = 0)

/-- R70: sums of quantised contributions. -/
def Obligations.FeltSumsNeverOverflow : Prop :=
  ∀ (w : Bool) (e : Nat) (l : List (List Fp)) (b : FeltBlk), l.length ≤ 128 → (∀ v ∈ l, v.length = 64) →
    b = (l.map fun v => feltQuantise v e w).foldl (feltAdd w) (feltZero e) →
    (∀ i, i < 64 → b.n.getD i 0 = (l.map fun v => (feltElem e (feltF w) (v.getD i (.fin false 0 0))).1).sum)
    ∧ b.e = e ∧ b.count = min 127 l.length ∧ b.n.length = 64
    ∧ (b.ovf = true ↔ ∃ v ∈ l, (feltQuantise v e w).ovf = true) ∧ (b.nf = true ↔ ∃ v ∈ l, (feltQuantise v e w).nf = true)

/-- R7. -/
def Obligations.AbsentUnitsReadZero : Prop :=
  ∀ (s : State) (off : Nat) (v : BitVec 64), s.powered = true → off % 4 = 0 →
    ((∃ l o, l < 512 ∧ o < 0x10000 ∧ off = 0x1000000 + 0x10000 * l + o ∧ afind s.lmap l = none)
      ∨ (∃ n o, n < 48 ∧ o < 0x1000 ∧ off = 0x310000 + 0x1000 * n + o ∧ s.lport.length ≤ n)
      ∨ (∃ n o, n < 16 ∧ o < 0x1000 ∧ off = 0x420000 + 0x1000 * n + o ∧ s.lchan.length ≤ n)
      ∨ (∃ n o, n < 16 ∧ o < 0x1000 ∧ off = 0x430000 + 0x1000 * n + o ∧ s.lcodec.length ≤ n)) →
    exec (.registerWrite 0 off 4 v) s = .next s
    ∧ exec (.cpMemoryAccess 0 (0x40000000 + off) 4 none) s = .next { s with out := s.out ++ [.readValue 0] }

/-- R151: the operation that every increment goes through, and the BAR.SIG word. -/
def Obligations.BarrierOverrunHalts : Prop :=
  (∀ (s : State) (p b n : Nat) (r : HaltRec), (s.core p).seq.state ≠ .halted → (s.core p).seq.state ≠ .frozen →
    ((s.core p).bar b).dist < 32768 → 32768 ≤ ((s.core p).bar b).dist + n →
    ((s.signal p b n r).core p).seq.state = .halted ∧ ((s.signal p b n r).core p).seq.halt = { r with reason := 0x07, info := b + 256 + r.unit * 4096 }
      ∧ ((s.signal p b n r).core p).seq.bars = (s.core p).seq.bars ∧ (∀ q, q ≠ p → ((s.signal p b n r).core q).seq.bars = (s.core q).seq.bars))
  ∧ (∀ (s : State) (p b n : Nat) (r : HaltRec), ((s.core p).seq.state = .halted ∨ (s.core p).seq.state = .frozen) →
    ((s.core p).bar b).dist < 32768 → 32768 ≤ ((s.core p).bar b).dist + n →
    ((s.signal p b n r).core p).seq = (s.core p).seq ∧ ((s.signal p b n r).core p).count 0x1318 = ((s.core p).count 0x1318 + 1) % 2 ^ 32)
  ∧ (∀ (s : State) (c p b n : Nat) (w : CWord) (k : Core), s.SeqReady c p 0x3 w k → wbits w 67 5 = b → wbits w 59 8 = n →
    (k.bar b).dist < 32768 → 32768 ≤ (k.bar b).dist + n →
    ∃ t, exec (.barSig c) s = .next t ∧ (t.core p).seq.state = .halted ∧ (t.core p).seq.halt.reason = 0x07 ∧ (t.core p).seq.halt.info = b + 256
      ∧ ((t.core p).bar b).count = ((s.core p).bar b).count)
  ∧ (∀ (s : State) (p b n : Nat) (r : HaltRec), ((s.core p).bar b).dist + n < 32768 →
    ((s.signal p b n r).core p).bar b = { (s.core p).bar b with count := (((s.core p).bar b).count + n) % 65536 }
      ∧ ((s.signal p b n r).core p).seq.state = (s.core p).seq.state)

/-- R237. -/
def Obligations.StagingIsDiscarded : Prop :=
  (∀ (s : State) (c p : Nat), s.Answers c p → (s.core p).parked = true → (s.core p).inCommit = false → s.sec.recovery = false →
    ∃ t, exec (.restart c) s = .next t ∧ (t.core p).upd.stg = 0 ∧ t.t0 = s.t0 ∧ t.slice = s.slice ∧ t.tier = s.tier
      ∧ t.t0Pz = s.t0Pz ∧ t.slicePz = s.slicePz ∧ t.tierPz = s.tierPz)
  ∧ (∀ (s : State) (r n p : Nat) (c : BitVec 512), s.HostCmd r 0x0B c → cmdSet c = [n] → s.phys n = some p → (s.core p).pre.phase = .none →
    (s.core p).seq.open_ = true → (s.core p).inCommit = false →
    ((s.core p).parked = true ∨ (s.core p).seq.state = .running) →
    ∃ t, exec (.stepRepeat r) s = .next t ∧ (t.core p).upd.stg = 0 ∧ t.t0 = s.t0 ∧ t.slice = s.slice ∧ t.tier = s.tier
      ∧ t.t0Pz = s.t0Pz ∧ t.slicePz = s.slicePz ∧ t.tierPz = s.tierPz)
  ∧ (∀ (s : State) (p : Nat) (c : Core) (v : Verdict) (u : SeqCur), (s.cores.map Prod.fst).Nodup → (p, c) ∈ s.cores → c.pre.saved = none →
    c.active = true → c.seq.open_ = true → c.seq.step = v.totals.step → c.seq.attempt = v.totals.attempt → c.seq.cur = some u → u.sent = true →
    u.outcome = none → c.pre.contCommit = false → v.verdict = 2 ∨ v.verdict = 3 →
    ∃ t, exec (.verdictReceive (some v)) s = .next t ∧ (t.core p).upd.stg = 0 ∧ t.t0 = s.t0 ∧ t.slice = s.slice ∧ t.tier = s.tier
      ∧ t.t0Pz = s.t0Pz ∧ t.slicePz = s.slicePz ∧ t.tierPz = s.tierPz)
end

