-- ==== Sys2Proof/Laws/Maps.lean ====
section
/-! SUPPORT. Finite maps, sets of numbers and memories: a read after a write, and the canonical forms that every write keeps. -/

namespace Sys2Proof.Machine

/-! ### Finite maps -/

@[simp] theorem aget_aset_self {α : Type} (d : α) (m : Amap α) (i : Nat) (x : α) : aget d (aset m i x) i = x := by
  induction m with
  | nil => simp [aset, aget]
  | cons h t ih =>
    obtain ⟨k, v⟩ := h
    simp only [aset]
    split
    · simp [aget]
    · split
      · simp [aget]
      · simp [aget, *]

theorem aget_aset_ne {α : Type} (d : α) (m : Amap α) {i j : Nat} (x : α) (h : i ≠ j) : aget d (aset m i x) j = aget d m j := by
  induction m with
  | nil => simp [aset, aget, h]
  | cons hd t ih =>
    obtain ⟨k, v⟩ := hd
    simp only [aset]
    split
    · rename_i hk
      subst hk
      simp [aget, h]
    · split
      · simp [aget, h]
      · simp [aget, ih]

@[simp] theorem afind_aset_self {α : Type} (m : Amap α) (i : Nat) (x : α) : afind (aset m i x) i = some x := by
  induction m with
  | nil => simp [aset, afind]
  | cons h t ih =>
    obtain ⟨k, v⟩ := h
    simp only [aset]
    split
    · simp [afind]
    · split
      · simp [afind]
      · simp [afind, *]

theorem afind_aset_ne {α : Type} (m : Amap α) {i j : Nat} (x : α) (h : i ≠ j) : afind (aset m i x) j = afind m j := by
  induction m with
  | nil => simp [aset, afind, h]
  | cons hd t ih =>
    obtain ⟨k, v⟩ := hd
    simp only [aset]
    split
    · rename_i hk
      subst hk
      simp [afind, h]
    · split
      · simp [afind, h]
      · simp [afind, ih]

theorem aget_eq_afind {α : Type} (d : α) (m : Amap α) (i : Nat) : aget d m i = (afind m i).getD d := by
  induction m with
  | nil => rfl
  | cons h t ih =>
    obtain ⟨k, v⟩ := h
    simp only [aget, afind]
    split <;> simp_all

/-- A fold that keeps a projection at each step keeps it as a whole. -/
theorem foldl_keeps {σ α β : Type} (g : σ → β) (f : σ → α → σ) (h : ∀ s x, g (f s x) = g s) (l : List α) (s : σ) :
    g (l.foldl f s) = g s := by
  induction l generalizing s with
  | nil => rfl
  | cons x t ih => rw [List.foldl_cons, ih, h]

/-- A fold whose steps keep a property keeps it as a whole. -/
theorem foldl_inv {σ α : Type} (P : σ → Prop) (f : σ → α → σ) (h : ∀ s x, P s → P (f s x)) (l : List α) (s : σ) (hs : P s) :
    P (l.foldl f s) := by
  induction l generalizing s with
  | nil => exact hs
  | cons x t ih => exact ih _ (h _ _ hs)

/-! ### Memories -/

theorem Memory.wfFrom_le {lo lo' : Nat} {m : Memory} (h : Memory.wfFrom lo m = true) (hl : lo' ≤ lo) : Memory.wfFrom lo' m = true := by
  cases m with
  | nil => rfl
  | cons c t =>
    obtain ⟨k, b⟩ := c
    simp only [Memory.wfFrom, Bool.and_eq_true, decide_eq_true_eq] at h ⊢
    exact ⟨⟨by omega, h.1.2⟩, h.2⟩

/-- A write above a bound keeps the canonical form above the bound. -/
theorem Memory.wfFrom_write {lo a : Nat} {m : Memory} (x : Byte) (h : Memory.wfFrom lo m = true) (ha : lo ≤ a) :
    Memory.wfFrom lo (Memory.write m a x) = true := by
  induction m generalizing lo with
  | nil =>
    simp only [Memory.write]
    split
    · rfl
    · rename_i hx
      simpa [Memory.wfFrom, ha] using hx
  | cons c t ih =>
    obtain ⟨k, b⟩ := c
    simp only [Memory.wfFrom, Bool.and_eq_true, decide_eq_true_eq] at h
    simp only [Memory.write]
    split
    · rename_i hk
      subst hk
      split
      · exact Memory.wfFrom_le h.2 (by omega)
      · rename_i hx
        simpa [Memory.wfFrom, ha, h.2] using hx
    · split
      · split
        · simpa [Memory.wfFrom, h.1.1, h.2] using h.1.2
        · simp only [Memory.wfFrom, Bool.and_eq_true, decide_eq_true_eq]
          exact ⟨⟨ha, by simpa using ‹¬x = 0›⟩, ⟨by omega, h.1.2⟩, h.2⟩
      · simp only [Memory.wfFrom, Bool.and_eq_true, decide_eq_true_eq]
        exact ⟨⟨h.1.1, h.1.2⟩, ih h.2 (by omega)⟩

/-- Writing a byte keeps the canonical form. -/
theorem Memory.wf_write {m : Memory} (a : Nat) (x : Byte) (h : Memory.wf m = true) : Memory.wf (Memory.write m a x) = true :=
  Memory.wfFrom_write x h (Nat.zero_le a)

/-- Writing bytes keeps the canonical form. -/
theorem Memory.wf_put {m : Memory} (a : Nat) (d : List Byte) (h : Memory.wf m = true) : Memory.wf (Memory.put m a d) = true := by
  induction d generalizing m a with
  | nil => exact h
  | cons b t ih => exact ih (a + 1) (Memory.wf_write a b h)

/-- Nothing below the bound of a memory's form is listed. -/
theorem Memory.read_below {lo a : Nat} {m : Memory} (h : Memory.wfFrom lo m = true) (ha : a < lo) : Memory.read m a = 0 := by
  cases m with
  | nil => rfl
  | cons c t =>
    obtain ⟨k, b⟩ := c
    simp only [Memory.wfFrom, Bool.and_eq_true, decide_eq_true_eq] at h
    have hk : ¬k = a := by omega
    have hl : a < k := by omega
    simp [Memory.read, hk, hl]

/-- A write reads back. -/
theorem Memory.read_write_self {m : Memory} (a : Nat) (x : Byte) (h : Memory.wf m = true) : Memory.read (Memory.write m a x) a = x := by
  unfold Memory.wf at h
  generalize 0 = lo at h
  induction m generalizing lo with
  | nil =>
    simp only [Memory.write]
    split <;> simp_all [Memory.read]
  | cons c t ih =>
    obtain ⟨k, b⟩ := c
    simp only [Memory.wfFrom, Bool.and_eq_true, decide_eq_true_eq] at h
    simp only [Memory.write]
    split
    · rename_i hk
      subst hk
      split
      · rename_i hx
        rw [hx, Memory.read_below h.2 (by omega)]
      · simp [Memory.read]
    · split
      · split
        · rename_i hx
          simp_all [Memory.read]
        · simp [Memory.read]
      · rename_i h1 h2
        simp only [Memory.read, h1, h2, if_false]
        exact ih (k + 1) h.2

/-- A write leaves every other byte. -/
theorem Memory.read_write_ne {m : Memory} {a a' : Nat} (x : Byte) (h : Memory.wf m = true) (hn : a' ≠ a) :
    Memory.read (Memory.write m a x) a' = Memory.read m a' := by
  unfold Memory.wf at h
  generalize 0 = lo at h
  induction m generalizing lo with
  | nil =>
    simp only [Memory.write]
    split
    · rfl
    · have : ¬a = a' := fun e => hn e.symm
      simp [Memory.read, this]
  | cons c t ih =>
    obtain ⟨k, b⟩ := c
    simp only [Memory.wfFrom, Bool.and_eq_true, decide_eq_true_eq] at h
    have hn' : ¬a = a' := fun e => hn e.symm
    simp only [Memory.write]
    split
    · rename_i hk
      subst hk
      split
      · simp only [Memory.read, hn', if_false]
        split
        · exact Memory.read_below h.2 (by omega)
        · rfl
      · simp [Memory.read, hn']
    · split
      · split
        · rfl
        · simp only [Memory.read, hn', if_false]
          split
          · rename_i hl
            have h1 : ¬k = a' := by omega
            have h2 : a' < k := by omega
            simp [h1, h2]
          · rfl
      · simp only [Memory.read]
        split
        · rfl
        · split
          · rfl
          · exact ih (k + 1) h.2

/-- Writing bytes leaves every byte outside them. -/
theorem Memory.read_put_outside {m : Memory} {a a' : Nat} (d : List Byte) (h : Memory.wf m = true) (hn : a' < a ∨ a + d.length ≤ a') :
    Memory.read (Memory.put m a d) a' = Memory.read m a' := by
  induction d generalizing m a with
  | nil => rfl
  | cons b t ih =>
    simp only [List.length_cons] at hn
    rw [Memory.put, ih (Memory.wf_write a b h) (by omega), Memory.read_write_ne b h (by omega)]

/-- Bytes written read back. -/
theorem Memory.bytes_put {m : Memory} (a : Nat) (d : List Byte) (h : Memory.wf m = true) : Memory.bytes (Memory.put m a d) a d.length = d := by
  induction d generalizing m a with
  | nil => rfl
  | cons b t ih =>
    simp only [Memory.put, List.length_cons, Memory.bytes]
    rw [ih (a + 1) (Memory.wf_write a b h), Memory.read_put_outside t (Memory.wf_write a b h) (by omega), Memory.read_write_self a b h]

end Sys2Proof.Machine
end

