-- ==== Sys2Proof/Laws/State.lean ====
section
/-! SUPPORT. What each update of the state and of a core leaves and what it writes: one lemma per field per update. -/

namespace Sys2Proof.Machine

/-! ### The state -/

@[simp] theorem State.setCore_t0 (s : State) (p : Nat) (c : Core) : (s.setCore p c).t0 = s.t0 := rfl
@[simp] theorem State.setCore_slice (s : State) (p : Nat) (c : Core) : (s.setCore p c).slice = s.slice := rfl
@[simp] theorem State.setCore_tier (s : State) (p : Nat) (c : Core) : (s.setCore p c).tier = s.tier := rfl
@[simp] theorem State.setCore_flash (s : State) (p : Nat) (c : Core) : (s.setCore p c).flash = s.flash := rfl
@[simp] theorem State.setCore_t0Pz (s : State) (p : Nat) (c : Core) : (s.setCore p c).t0Pz = s.t0Pz := rfl
@[simp] theorem State.setCore_slicePz (s : State) (p : Nat) (c : Core) : (s.setCore p c).slicePz = s.slicePz := rfl
@[simp] theorem State.setCore_tierPz (s : State) (p : Nat) (c : Core) : (s.setCore p c).tierPz = s.tierPz := rfl
@[simp] theorem State.setCore_grade (s : State) (p : Nat) (c : Core) : (s.setCore p c).grade = s.grade := rfl
@[simp] theorem State.setCore_fused (s : State) (p : Nat) (c : Core) : (s.setCore p c).fused = s.fused := rfl
@[simp] theorem State.setCore_lmap (s : State) (p : Nat) (c : Core) : (s.setCore p c).lmap = s.lmap := rfl
@[simp] theorem State.setCore_ncores (s : State) (p : Nat) (c : Core) : (s.setCore p c).ncores = s.ncores := rfl
@[simp] theorem State.setCore_spares (s : State) (p : Nat) (c : Core) : (s.setCore p c).spares = s.spares := rfl
@[simp] theorem State.setCore_fences (s : State) (p : Nat) (c : Core) : (s.setCore p c).fences = s.fences := rfl
@[simp] theorem State.setCore_lport (s : State) (p : Nat) (c : Core) : (s.setCore p c).lport = s.lport := rfl
@[simp] theorem State.setCore_lchan (s : State) (p : Nat) (c : Core) : (s.setCore p c).lchan = s.lchan := rfl
@[simp] theorem State.setCore_lcodec (s : State) (p : Nat) (c : Core) : (s.setCore p c).lcodec = s.lcodec := rfl
@[simp] theorem State.setCore_clusters (s : State) (p : Nat) (c : Core) : (s.setCore p c).clusters = s.clusters := rfl
@[simp] theorem State.setCore_mesh (s : State) (p : Nat) (c : Core) : (s.setCore p c).mesh = s.mesh := rfl
@[simp] theorem State.setCore_obj (s : State) (p : Nat) (c : Core) : (s.setCore p c).obj = s.obj := rfl
@[simp] theorem State.setCore_sm (s : State) (p : Nat) (c : Core) : (s.setCore p c).sm = s.sm := rfl
@[simp] theorem State.setCore_irq (s : State) (p : Nat) (c : Core) : (s.setCore p c).irq = s.irq := rfl
@[simp] theorem State.setCore_regs (s : State) (p : Nat) (c : Core) : (s.setCore p c).regs = s.regs := rfl
@[simp] theorem State.setCore_cnt (s : State) (p : Nat) (c : Core) : (s.setCore p c).cnt = s.cnt := rfl
@[simp] theorem State.setCore_rneUsed (s : State) (p : Nat) (c : Core) : (s.setCore p c).rneUsed = s.rneUsed := rfl
@[simp] theorem State.setCore_epoch (s : State) (p : Nat) (c : Core) : (s.setCore p c).epoch = s.epoch := rfl
@[simp] theorem State.setCore_sealed_ (s : State) (p : Nat) (c : Core) : (s.setCore p c).sealed_ = s.sealed_ := rfl
@[simp] theorem State.setCore_bar2 (s : State) (p : Nat) (c : Core) : (s.setCore p c).bar2 = s.bar2 := rfl
@[simp] theorem State.setCore_msixMask (s : State) (p : Nat) (c : Core) : (s.setCore p c).msixMask = s.msixMask := rfl
@[simp] theorem State.setCore_msixPba (s : State) (p : Nat) (c : Core) : (s.setCore p c).msixPba = s.msixPba := rfl
@[simp] theorem State.setCore_t3Key (s : State) (p : Nat) (c : Core) : (s.setCore p c).t3Key = s.t3Key := rfl
@[simp] theorem State.setCore_frames (s : State) (p : Nat) (c : Core) : (s.setCore p c).frames = s.frames := rfl
@[simp] theorem State.setCore_fl (s : State) (p : Nat) (c : Core) : (s.setCore p c).fl = s.fl := rfl
@[simp] theorem State.setCore_flashQ (s : State) (p : Nat) (c : Core) : (s.setCore p c).flashQ = s.flashQ := rfl
@[simp] theorem State.setCore_flashBusy (s : State) (p : Nat) (c : Core) : (s.setCore p c).flashBusy = s.flashBusy := rfl
@[simp] theorem State.setCore_huMv (s : State) (p : Nat) (c : Core) : (s.setCore p c).huMv = s.huMv := rfl
@[simp] theorem State.setCore_pwrfail (s : State) (p : Nat) (c : Core) : (s.setCore p c).pwrfail = s.pwrfail := rfl
@[simp] theorem State.setCore_ports (s : State) (p : Nat) (c : Core) : (s.setCore p c).ports = s.ports := rfl
@[simp] theorem State.setCore_mcs (s : State) (p : Nat) (c : Core) : (s.setCore p c).mcs = s.mcs := rfl
@[simp] theorem State.setCore_hxLinks (s : State) (p : Nat) (c : Core) : (s.setCore p c).hxLinks = s.hxLinks := rfl
@[simp] theorem State.setCore_hxCut (s : State) (p : Nat) (c : Core) : (s.setCore p c).hxCut = s.hxCut := rfl
@[simp] theorem State.setCore_linkHeld (s : State) (p : Nat) (c : Core) : (s.setCore p c).linkHeld = s.linkHeld := rfl
@[simp] theorem State.setCore_repoch (s : State) (p : Nat) (c : Core) : (s.setCore p c).repoch = s.repoch := rfl
@[simp] theorem State.setCore_colls (s : State) (p : Nat) (c : Core) : (s.setCore p c).colls = s.colls := rfl
@[simp] theorem State.setCore_dstat (s : State) (p : Nat) (c : Core) : (s.setCore p c).dstat = s.dstat := rfl
@[simp] theorem State.setCore_collHeld (s : State) (p : Nat) (c : Core) : (s.setCore p c).collHeld = s.collHeld := rfl
@[simp] theorem State.setCore_staged (s : State) (p : Nat) (c : Core) : (s.setCore p c).staged = s.staged := rfl
@[simp] theorem State.setCore_cfg (s : State) (p : Nat) (c : Core) : (s.setCore p c).cfg = s.cfg := rfl
@[simp] theorem State.setCore_flip (s : State) (p : Nat) (c : Core) : (s.setCore p c).flip = s.flip := rfl
@[simp] theorem State.setCore_twopc (s : State) (p : Nat) (c : Core) : (s.setCore p c).twopc = s.twopc := rfl
@[simp] theorem State.setCore_rings (s : State) (p : Nat) (c : Core) : (s.setCore p c).rings = s.rings := rfl
@[simp] theorem State.setCore_hwin (s : State) (p : Nat) (c : Core) : (s.setCore p c).hwin = s.hwin := rfl
@[simp] theorem State.setCore_rcepoch (s : State) (p : Nat) (c : Core) : (s.setCore p c).rcepoch = s.rcepoch := rfl
@[simp] theorem State.setCore_deliv (s : State) (p : Nat) (c : Core) : (s.setCore p c).deliv = s.deliv := rfl
@[simp] theorem State.setCore_pw (s : State) (p : Nat) (c : Core) : (s.setCore p c).pw = s.pw := rfl
@[simp] theorem State.setCore_rstLast (s : State) (p : Nat) (c : Core) : (s.setCore p c).rstLast = s.rstLast := rfl
@[simp] theorem State.setCore_coreRst (s : State) (p : Nat) (c : Core) : (s.setCore p c).coreRst = s.coreRst := rfl
@[simp] theorem State.setCore_rstStat (s : State) (p : Nat) (c : Core) : (s.setCore p c).rstStat = s.rstStat := rfl
@[simp] theorem State.setCore_powered (s : State) (p : Nat) (c : Core) : (s.setCore p c).powered = s.powered := rfl
@[simp] theorem State.setCore_lost (s : State) (p : Nat) (c : Core) : (s.setCore p c).lost = s.lost := rfl
@[simp] theorem State.setCore_linkUp (s : State) (p : Nat) (c : Core) : (s.setCore p c).linkUp = s.linkUp := rfl
@[simp] theorem State.setCore_sec (s : State) (p : Nat) (c : Core) : (s.setCore p c).sec = s.sec := rfl
@[simp] theorem State.setCore_sram (s : State) (p : Nat) (c : Core) : (s.setCore p c).sram = s.sram := rfl
@[simp] theorem State.setCore_smbus (s : State) (p : Nat) (c : Core) : (s.setCore p c).smbus = s.smbus := rfl
@[simp] theorem State.setCore_i3c (s : State) (p : Nat) (c : Core) : (s.setCore p c).i3c = s.i3c := rfl
@[simp] theorem State.setCore_jtag (s : State) (p : Nat) (c : Core) : (s.setCore p c).jtag = s.jtag := rfl
@[simp] theorem State.setCore_bsr (s : State) (p : Nat) (c : Core) : (s.setCore p c).bsr = s.bsr := rfl
@[simp] theorem State.setCore_fresh (s : State) (p : Nat) (c : Core) : (s.setCore p c).fresh = s.fresh := rfl
@[simp] theorem State.setCore_out (s : State) (p : Nat) (c : Core) : (s.setCore p c).out = s.out := rfl
@[simp] theorem State.setCore_pending (s : State) (p : Nat) (c : Core) : (s.setCore p c).pending = s.pending := rfl

@[simp] theorem State.modCore_t0 (s : State) (p : Nat) (f : Core → Core) : (s.modCore p f).t0 = s.t0 := rfl
@[simp] theorem State.modCore_slice (s : State) (p : Nat) (f : Core → Core) : (s.modCore p f).slice = s.slice := rfl
@[simp] theorem State.modCore_tier (s : State) (p : Nat) (f : Core → Core) : (s.modCore p f).tier = s.tier := rfl
@[simp] theorem State.modCore_flash (s : State) (p : Nat) (f : Core → Core) : (s.modCore p f).flash = s.flash := rfl
@[simp] theorem State.modCore_t0Pz (s : State) (p : Nat) (f : Core → Core) : (s.modCore p f).t0Pz = s.t0Pz := rfl
@[simp] theorem State.modCore_slicePz (s : State) (p : Nat) (f : Core → Core) : (s.modCore p f).slicePz = s.slicePz := rfl
@[simp] theorem State.modCore_tierPz (s : State) (p : Nat) (f : Core → Core) : (s.modCore p f).tierPz = s.tierPz := rfl
@[simp] theorem State.modCore_grade (s : State) (p : Nat) (f : Core → Core) : (s.modCore p f).grade = s.grade := rfl
@[simp] theorem State.modCore_fused (s : State) (p : Nat) (f : Core → Core) : (s.modCore p f).fused = s.fused := rfl
@[simp] theorem State.modCore_lmap (s : State) (p : Nat) (f : Core → Core) : (s.modCore p f).lmap = s.lmap := rfl
@[simp] theorem State.modCore_ncores (s : State) (p : Nat) (f : Core → Core) : (s.modCore p f).ncores = s.ncores := rfl
@[simp] theorem State.modCore_spares (s : State) (p : Nat) (f : Core → Core) : (s.modCore p f).spares = s.spares := rfl
@[simp] theorem State.modCore_fences (s : State) (p : Nat) (f : Core → Core) : (s.modCore p f).fences = s.fences := rfl
@[simp] theorem State.modCore_lport (s : State) (p : Nat) (f : Core → Core) : (s.modCore p f).lport = s.lport := rfl
@[simp] theorem State.modCore_lchan (s : State) (p : Nat) (f : Core → Core) : (s.modCore p f).lchan = s.lchan := rfl
@[simp] theorem State.modCore_lcodec (s : State) (p : Nat) (f : Core → Core) : (s.modCore p f).lcodec = s.lcodec := rfl
@[simp] theorem State.modCore_clusters (s : State) (p : Nat) (f : Core → Core) : (s.modCore p f).clusters = s.clusters := rfl
@[simp] theorem State.modCore_mesh (s : State) (p : Nat) (f : Core → Core) : (s.modCore p f).mesh = s.mesh := rfl
@[simp] theorem State.modCore_obj (s : State) (p : Nat) (f : Core → Core) : (s.modCore p f).obj = s.obj := rfl
@[simp] theorem State.modCore_sm (s : State) (p : Nat) (f : Core → Core) : (s.modCore p f).sm = s.sm := rfl
@[simp] theorem State.modCore_irq (s : State) (p : Nat) (f : Core → Core) : (s.modCore p f).irq = s.irq := rfl
@[simp] theorem State.modCore_regs (s : State) (p : Nat) (f : Core → Core) : (s.modCore p f).regs = s.regs := rfl
@[simp] theorem State.modCore_cnt (s : State) (p : Nat) (f : Core → Core) : (s.modCore p f).cnt = s.cnt := rfl
@[simp] theorem State.modCore_rneUsed (s : State) (p : Nat) (f : Core → Core) : (s.modCore p f).rneUsed = s.rneUsed := rfl
@[simp] theorem State.modCore_epoch (s : State) (p : Nat) (f : Core → Core) : (s.modCore p f).epoch = s.epoch := rfl
@[simp] theorem State.modCore_sealed_ (s : State) (p : Nat) (f : Core → Core) : (s.modCore p f).sealed_ = s.sealed_ := rfl
@[simp] theorem State.modCore_bar2 (s : State) (p : Nat) (f : Core → Core) : (s.modCore p f).bar2 = s.bar2 := rfl
@[simp] theorem State.modCore_msixMask (s : State) (p : Nat) (f : Core → Core) : (s.modCore p f).msixMask = s.msixMask := rfl
@[simp] theorem State.modCore_msixPba (s : State) (p : Nat) (f : Core → Core) : (s.modCore p f).msixPba = s.msixPba := rfl
@[simp] theorem State.modCore_t3Key (s : State) (p : Nat) (f : Core → Core) : (s.modCore p f).t3Key = s.t3Key := rfl
@[simp] theorem State.modCore_frames (s : State) (p : Nat) (f : Core → Core) : (s.modCore p f).frames = s.frames := rfl
@[simp] theorem State.modCore_fl (s : State) (p : Nat) (f : Core → Core) : (s.modCore p f).fl = s.fl := rfl
@[simp] theorem State.modCore_flashQ (s : State) (p : Nat) (f : Core → Core) : (s.modCore p f).flashQ = s.flashQ := rfl
@[simp] theorem State.modCore_flashBusy (s : State) (p : Nat) (f : Core → Core) : (s.modCore p f).flashBusy = s.flashBusy := rfl
@[simp] theorem State.modCore_huMv (s : State) (p : Nat) (f : Core → Core) : (s.modCore p f).huMv = s.huMv := rfl
@[simp] theorem State.modCore_pwrfail (s : State) (p : Nat) (f : Core → Core) : (s.modCore p f).pwrfail = s.pwrfail := rfl
@[simp] theorem State.modCore_ports (s : State) (p : Nat) (f : Core → Core) : (s.modCore p f).ports = s.ports := rfl
@[simp] theorem State.modCore_mcs (s : State) (p : Nat) (f : Core → Core) : (s.modCore p f).mcs = s.mcs := rfl
@[simp] theorem State.modCore_hxLinks (s : State) (p : Nat) (f : Core → Core) : (s.modCore p f).hxLinks = s.hxLinks := rfl
@[simp] theorem State.modCore_hxCut (s : State) (p : Nat) (f : Core → Core) : (s.modCore p f).hxCut = s.hxCut := rfl
@[simp] theorem State.modCore_linkHeld (s : State) (p : Nat) (f : Core → Core) : (s.modCore p f).linkHeld = s.linkHeld := rfl
@[simp] theorem State.modCore_repoch (s : State) (p : Nat) (f : Core → Core) : (s.modCore p f).repoch = s.repoch := rfl
@[simp] theorem State.modCore_colls (s : State) (p : Nat) (f : Core → Core) : (s.modCore p f).colls = s.colls := rfl
@[simp] theorem State.modCore_dstat (s : State) (p : Nat) (f : Core → Core) : (s.modCore p f).dstat = s.dstat := rfl
@[simp] theorem State.modCore_collHeld (s : State) (p : Nat) (f : Core → Core) : (s.modCore p f).collHeld = s.collHeld := rfl
@[simp] theorem State.modCore_staged (s : State) (p : Nat) (f : Core → Core) : (s.modCore p f).staged = s.staged := rfl
@[simp] theorem State.modCore_cfg (s : State) (p : Nat) (f : Core → Core) : (s.modCore p f).cfg = s.cfg := rfl
@[simp] theorem State.modCore_flip (s : State) (p : Nat) (f : Core → Core) : (s.modCore p f).flip = s.flip := rfl
@[simp] theorem State.modCore_twopc (s : State) (p : Nat) (f : Core → Core) : (s.modCore p f).twopc = s.twopc := rfl
@[simp] theorem State.modCore_rings (s : State) (p : Nat) (f : Core → Core) : (s.modCore p f).rings = s.rings := rfl
@[simp] theorem State.modCore_hwin (s : State) (p : Nat) (f : Core → Core) : (s.modCore p f).hwin = s.hwin := rfl
@[simp] theorem State.modCore_rcepoch (s : State) (p : Nat) (f : Core → Core) : (s.modCore p f).rcepoch = s.rcepoch := rfl
@[simp] theorem State.modCore_deliv (s : State) (p : Nat) (f : Core → Core) : (s.modCore p f).deliv = s.deliv := rfl
@[simp] theorem State.modCore_pw (s : State) (p : Nat) (f : Core → Core) : (s.modCore p f).pw = s.pw := rfl
@[simp] theorem State.modCore_rstLast (s : State) (p : Nat) (f : Core → Core) : (s.modCore p f).rstLast = s.rstLast := rfl
@[simp] theorem State.modCore_coreRst (s : State) (p : Nat) (f : Core → Core) : (s.modCore p f).coreRst = s.coreRst := rfl
@[simp] theorem State.modCore_rstStat (s : State) (p : Nat) (f : Core → Core) : (s.modCore p f).rstStat = s.rstStat := rfl
@[simp] theorem State.modCore_powered (s : State) (p : Nat) (f : Core → Core) : (s.modCore p f).powered = s.powered := rfl
@[simp] theorem State.modCore_lost (s : State) (p : Nat) (f : Core → Core) : (s.modCore p f).lost = s.lost := rfl
@[simp] theorem State.modCore_linkUp (s : State) (p : Nat) (f : Core → Core) : (s.modCore p f).linkUp = s.linkUp := rfl
@[simp] theorem State.modCore_sec (s : State) (p : Nat) (f : Core → Core) : (s.modCore p f).sec = s.sec := rfl
@[simp] theorem State.modCore_sram (s : State) (p : Nat) (f : Core → Core) : (s.modCore p f).sram = s.sram := rfl
@[simp] theorem State.modCore_smbus (s : State) (p : Nat) (f : Core → Core) : (s.modCore p f).smbus = s.smbus := rfl
@[simp] theorem State.modCore_i3c (s : State) (p : Nat) (f : Core → Core) : (s.modCore p f).i3c = s.i3c := rfl
@[simp] theorem State.modCore_jtag (s : State) (p : Nat) (f : Core → Core) : (s.modCore p f).jtag = s.jtag := rfl
@[simp] theorem State.modCore_bsr (s : State) (p : Nat) (f : Core → Core) : (s.modCore p f).bsr = s.bsr := rfl
@[simp] theorem State.modCore_fresh (s : State) (p : Nat) (f : Core → Core) : (s.modCore p f).fresh = s.fresh := rfl
@[simp] theorem State.modCore_out (s : State) (p : Nat) (f : Core → Core) : (s.modCore p f).out = s.out := rfl
@[simp] theorem State.modCore_pending (s : State) (p : Nat) (f : Core → Core) : (s.modCore p f).pending = s.pending := rfl

@[simp] theorem State.emit_t0 (s : State) (e : OutEvent) : (s.emit e).t0 = s.t0 := rfl
@[simp] theorem State.emit_slice (s : State) (e : OutEvent) : (s.emit e).slice = s.slice := rfl
@[simp] theorem State.emit_tier (s : State) (e : OutEvent) : (s.emit e).tier = s.tier := rfl
@[simp] theorem State.emit_flash (s : State) (e : OutEvent) : (s.emit e).flash = s.flash := rfl
@[simp] theorem State.emit_t0Pz (s : State) (e : OutEvent) : (s.emit e).t0Pz = s.t0Pz := rfl
@[simp] theorem State.emit_slicePz (s : State) (e : OutEvent) : (s.emit e).slicePz = s.slicePz := rfl
@[simp] theorem State.emit_tierPz (s : State) (e : OutEvent) : (s.emit e).tierPz = s.tierPz := rfl
@[simp] theorem State.emit_grade (s : State) (e : OutEvent) : (s.emit e).grade = s.grade := rfl
@[simp] theorem State.emit_fused (s : State) (e : OutEvent) : (s.emit e).fused = s.fused := rfl
@[simp] theorem State.emit_lmap (s : State) (e : OutEvent) : (s.emit e).lmap = s.lmap := rfl
@[simp] theorem State.emit_ncores (s : State) (e : OutEvent) : (s.emit e).ncores = s.ncores := rfl
@[simp] theorem State.emit_spares (s : State) (e : OutEvent) : (s.emit e).spares = s.spares := rfl
@[simp] theorem State.emit_fences (s : State) (e : OutEvent) : (s.emit e).fences = s.fences := rfl
@[simp] theorem State.emit_lport (s : State) (e : OutEvent) : (s.emit e).lport = s.lport := rfl
@[simp] theorem State.emit_lchan (s : State) (e : OutEvent) : (s.emit e).lchan = s.lchan := rfl
@[simp] theorem State.emit_lcodec (s : State) (e : OutEvent) : (s.emit e).lcodec = s.lcodec := rfl
@[simp] theorem State.emit_cores (s : State) (e : OutEvent) : (s.emit e).cores = s.cores := rfl
@[simp] theorem State.emit_clusters (s : State) (e : OutEvent) : (s.emit e).clusters = s.clusters := rfl
@[simp] theorem State.emit_mesh (s : State) (e : OutEvent) : (s.emit e).mesh = s.mesh := rfl
@[simp] theorem State.emit_obj (s : State) (e : OutEvent) : (s.emit e).obj = s.obj := rfl
@[simp] theorem State.emit_sm (s : State) (e : OutEvent) : (s.emit e).sm = s.sm := rfl
@[simp] theorem State.emit_irq (s : State) (e : OutEvent) : (s.emit e).irq = s.irq := rfl
@[simp] theorem State.emit_regs (s : State) (e : OutEvent) : (s.emit e).regs = s.regs := rfl
@[simp] theorem State.emit_cnt (s : State) (e : OutEvent) : (s.emit e).cnt = s.cnt := rfl
@[simp] theorem State.emit_rneUsed (s : State) (e : OutEvent) : (s.emit e).rneUsed = s.rneUsed := rfl
@[simp] theorem State.emit_epoch (s : State) (e : OutEvent) : (s.emit e).epoch = s.epoch := rfl
@[simp] theorem State.emit_sealed_ (s : State) (e : OutEvent) : (s.emit e).sealed_ = s.sealed_ := rfl
@[simp] theorem State.emit_bar2 (s : State) (e : OutEvent) : (s.emit e).bar2 = s.bar2 := rfl
@[simp] theorem State.emit_msixMask (s : State) (e : OutEvent) : (s.emit e).msixMask = s.msixMask := rfl
@[simp] theorem State.emit_msixPba (s : State) (e : OutEvent) : (s.emit e).msixPba = s.msixPba := rfl
@[simp] theorem State.emit_t3Key (s : State) (e : OutEvent) : (s.emit e).t3Key = s.t3Key := rfl
@[simp] theorem State.emit_frames (s : State) (e : OutEvent) : (s.emit e).frames = s.frames := rfl
@[simp] theorem State.emit_fl (s : State) (e : OutEvent) : (s.emit e).fl = s.fl := rfl
@[simp] theorem State.emit_flashQ (s : State) (e : OutEvent) : (s.emit e).flashQ = s.flashQ := rfl
@[simp] theorem State.emit_flashBusy (s : State) (e : OutEvent) : (s.emit e).flashBusy = s.flashBusy := rfl
@[simp] theorem State.emit_huMv (s : State) (e : OutEvent) : (s.emit e).huMv = s.huMv := rfl
@[simp] theorem State.emit_pwrfail (s : State) (e : OutEvent) : (s.emit e).pwrfail = s.pwrfail := rfl
@[simp] theorem State.emit_ports (s : State) (e : OutEvent) : (s.emit e).ports = s.ports := rfl
@[simp] theorem State.emit_mcs (s : State) (e : OutEvent) : (s.emit e).mcs = s.mcs := rfl
@[simp] theorem State.emit_hxLinks (s : State) (e : OutEvent) : (s.emit e).hxLinks = s.hxLinks := rfl
@[simp] theorem State.emit_hxCut (s : State) (e : OutEvent) : (s.emit e).hxCut = s.hxCut := rfl
@[simp] theorem State.emit_linkHeld (s : State) (e : OutEvent) : (s.emit e).linkHeld = s.linkHeld := rfl
@[simp] theorem State.emit_repoch (s : State) (e : OutEvent) : (s.emit e).repoch = s.repoch := rfl
@[simp] theorem State.emit_colls (s : State) (e : OutEvent) : (s.emit e).colls = s.colls := rfl
@[simp] theorem State.emit_dstat (s : State) (e : OutEvent) : (s.emit e).dstat = s.dstat := rfl
@[simp] theorem State.emit_collHeld (s : State) (e : OutEvent) : (s.emit e).collHeld = s.collHeld := rfl
@[simp] theorem State.emit_staged (s : State) (e : OutEvent) : (s.emit e).staged = s.staged := rfl
@[simp] theorem State.emit_cfg (s : State) (e : OutEvent) : (s.emit e).cfg = s.cfg := rfl
@[simp] theorem State.emit_flip (s : State) (e : OutEvent) : (s.emit e).flip = s.flip := rfl
@[simp] theorem State.emit_twopc (s : State) (e : OutEvent) : (s.emit e).twopc = s.twopc := rfl
@[simp] theorem State.emit_rings (s : State) (e : OutEvent) : (s.emit e).rings = s.rings := rfl
@[simp] theorem State.emit_hwin (s : State) (e : OutEvent) : (s.emit e).hwin = s.hwin := rfl
@[simp] theorem State.emit_rcepoch (s : State) (e : OutEvent) : (s.emit e).rcepoch = s.rcepoch := rfl
@[simp] theorem State.emit_deliv (s : State) (e : OutEvent) : (s.emit e).deliv = s.deliv := rfl
@[simp] theorem State.emit_pw (s : State) (e : OutEvent) : (s.emit e).pw = s.pw := rfl
@[simp] theorem State.emit_rstLast (s : State) (e : OutEvent) : (s.emit e).rstLast = s.rstLast := rfl
@[simp] theorem State.emit_coreRst (s : State) (e : OutEvent) : (s.emit e).coreRst = s.coreRst := rfl
@[simp] theorem State.emit_rstStat (s : State) (e : OutEvent) : (s.emit e).rstStat = s.rstStat := rfl
@[simp] theorem State.emit_powered (s : State) (e : OutEvent) : (s.emit e).powered = s.powered := rfl
@[simp] theorem State.emit_lost (s : State) (e : OutEvent) : (s.emit e).lost = s.lost := rfl
@[simp] theorem State.emit_linkUp (s : State) (e : OutEvent) : (s.emit e).linkUp = s.linkUp := rfl
@[simp] theorem State.emit_sec (s : State) (e : OutEvent) : (s.emit e).sec = s.sec := rfl
@[simp] theorem State.emit_sram (s : State) (e : OutEvent) : (s.emit e).sram = s.sram := rfl
@[simp] theorem State.emit_smbus (s : State) (e : OutEvent) : (s.emit e).smbus = s.smbus := rfl
@[simp] theorem State.emit_i3c (s : State) (e : OutEvent) : (s.emit e).i3c = s.i3c := rfl
@[simp] theorem State.emit_jtag (s : State) (e : OutEvent) : (s.emit e).jtag = s.jtag := rfl
@[simp] theorem State.emit_bsr (s : State) (e : OutEvent) : (s.emit e).bsr = s.bsr := rfl
@[simp] theorem State.emit_fresh (s : State) (e : OutEvent) : (s.emit e).fresh = s.fresh := rfl
@[simp] theorem State.emit_pending (s : State) (e : OutEvent) : (s.emit e).pending = s.pending := rfl

@[simp] theorem State.send_t0 (s : State) (f : Flight) : (s.send f).t0 = s.t0 := rfl
@[simp] theorem State.send_slice (s : State) (f : Flight) : (s.send f).slice = s.slice := rfl
@[simp] theorem State.send_tier (s : State) (f : Flight) : (s.send f).tier = s.tier := rfl
@[simp] theorem State.send_flash (s : State) (f : Flight) : (s.send f).flash = s.flash := rfl
@[simp] theorem State.send_t0Pz (s : State) (f : Flight) : (s.send f).t0Pz = s.t0Pz := rfl
@[simp] theorem State.send_slicePz (s : State) (f : Flight) : (s.send f).slicePz = s.slicePz := rfl
@[simp] theorem State.send_tierPz (s : State) (f : Flight) : (s.send f).tierPz = s.tierPz := rfl
@[simp] theorem State.send_grade (s : State) (f : Flight) : (s.send f).grade = s.grade := rfl
@[simp] theorem State.send_fused (s : State) (f : Flight) : (s.send f).fused = s.fused := rfl
@[simp] theorem State.send_lmap (s : State) (f : Flight) : (s.send f).lmap = s.lmap := rfl
@[simp] theorem State.send_ncores (s : State) (f : Flight) : (s.send f).ncores = s.ncores := rfl
@[simp] theorem State.send_spares (s : State) (f : Flight) : (s.send f).spares = s.spares := rfl
@[simp] theorem State.send_fences (s : State) (f : Flight) : (s.send f).fences = s.fences := rfl
@[simp] theorem State.send_lport (s : State) (f : Flight) : (s.send f).lport = s.lport := rfl
@[simp] theorem State.send_lchan (s : State) (f : Flight) : (s.send f).lchan = s.lchan := rfl
@[simp] theorem State.send_lcodec (s : State) (f : Flight) : (s.send f).lcodec = s.lcodec := rfl
@[simp] theorem State.send_cores (s : State) (f : Flight) : (s.send f).cores = s.cores := rfl
@[simp] theorem State.send_clusters (s : State) (f : Flight) : (s.send f).clusters = s.clusters := rfl
@[simp] theorem State.send_obj (s : State) (f : Flight) : (s.send f).obj = s.obj := rfl
@[simp] theorem State.send_sm (s : State) (f : Flight) : (s.send f).sm = s.sm := rfl
@[simp] theorem State.send_irq (s : State) (f : Flight) : (s.send f).irq = s.irq := rfl
@[simp] theorem State.send_regs (s : State) (f : Flight) : (s.send f).regs = s.regs := rfl
@[simp] theorem State.send_cnt (s : State) (f : Flight) : (s.send f).cnt = s.cnt := rfl
@[simp] theorem State.send_rneUsed (s : State) (f : Flight) : (s.send f).rneUsed = s.rneUsed := rfl
@[simp] theorem State.send_epoch (s : State) (f : Flight) : (s.send f).epoch = s.epoch := rfl
@[simp] theorem State.send_sealed_ (s : State) (f : Flight) : (s.send f).sealed_ = s.sealed_ := rfl
@[simp] theorem State.send_bar2 (s : State) (f : Flight) : (s.send f).bar2 = s.bar2 := rfl
@[simp] theorem State.send_msixMask (s : State) (f : Flight) : (s.send f).msixMask = s.msixMask := rfl
@[simp] theorem State.send_msixPba (s : State) (f : Flight) : (s.send f).msixPba = s.msixPba := rfl
@[simp] theorem State.send_t3Key (s : State) (f : Flight) : (s.send f).t3Key = s.t3Key := rfl
@[simp] theorem State.send_frames (s : State) (f : Flight) : (s.send f).frames = s.frames := rfl
@[simp] theorem State.send_fl (s : State) (f : Flight) : (s.send f).fl = s.fl := rfl
@[simp] theorem State.send_flashQ (s : State) (f : Flight) : (s.send f).flashQ = s.flashQ := rfl
@[simp] theorem State.send_flashBusy (s : State) (f : Flight) : (s.send f).flashBusy = s.flashBusy := rfl
@[simp] theorem State.send_huMv (s : State) (f : Flight) : (s.send f).huMv = s.huMv := rfl
@[simp] theorem State.send_pwrfail (s : State) (f : Flight) : (s.send f).pwrfail = s.pwrfail := rfl
@[simp] theorem State.send_ports (s : State) (f : Flight) : (s.send f).ports = s.ports := rfl
@[simp] theorem State.send_mcs (s : State) (f : Flight) : (s.send f).mcs = s.mcs := rfl
@[simp] theorem State.send_hxLinks (s : State) (f : Flight) : (s.send f).hxLinks = s.hxLinks := rfl
@[simp] theorem State.send_hxCut (s : State) (f : Flight) : (s.send f).hxCut = s.hxCut := rfl
@[simp] theorem State.send_linkHeld (s : State) (f : Flight) : (s.send f).linkHeld = s.linkHeld := rfl
@[simp] theorem State.send_repoch (s : State) (f : Flight) : (s.send f).repoch = s.repoch := rfl
@[simp] theorem State.send_colls (s : State) (f : Flight) : (s.send f).colls = s.colls := rfl
@[simp] theorem State.send_dstat (s : State) (f : Flight) : (s.send f).dstat = s.dstat := rfl
@[simp] theorem State.send_collHeld (s : State) (f : Flight) : (s.send f).collHeld = s.collHeld := rfl
@[simp] theorem State.send_staged (s : State) (f : Flight) : (s.send f).staged = s.staged := rfl
@[simp] theorem State.send_cfg (s : State) (f : Flight) : (s.send f).cfg = s.cfg := rfl
@[simp] theorem State.send_flip (s : State) (f : Flight) : (s.send f).flip = s.flip := rfl
@[simp] theorem State.send_twopc (s : State) (f : Flight) : (s.send f).twopc = s.twopc := rfl
@[simp] theorem State.send_rings (s : State) (f : Flight) : (s.send f).rings = s.rings := rfl
@[simp] theorem State.send_hwin (s : State) (f : Flight) : (s.send f).hwin = s.hwin := rfl
@[simp] theorem State.send_rcepoch (s : State) (f : Flight) : (s.send f).rcepoch = s.rcepoch := rfl
@[simp] theorem State.send_deliv (s : State) (f : Flight) : (s.send f).deliv = s.deliv := rfl
@[simp] theorem State.send_pw (s : State) (f : Flight) : (s.send f).pw = s.pw := rfl
@[simp] theorem State.send_rstLast (s : State) (f : Flight) : (s.send f).rstLast = s.rstLast := rfl
@[simp] theorem State.send_coreRst (s : State) (f : Flight) : (s.send f).coreRst = s.coreRst := rfl
@[simp] theorem State.send_rstStat (s : State) (f : Flight) : (s.send f).rstStat = s.rstStat := rfl
@[simp] theorem State.send_powered (s : State) (f : Flight) : (s.send f).powered = s.powered := rfl
@[simp] theorem State.send_lost (s : State) (f : Flight) : (s.send f).lost = s.lost := rfl
@[simp] theorem State.send_linkUp (s : State) (f : Flight) : (s.send f).linkUp = s.linkUp := rfl
@[simp] theorem State.send_sec (s : State) (f : Flight) : (s.send f).sec = s.sec := rfl
@[simp] theorem State.send_sram (s : State) (f : Flight) : (s.send f).sram = s.sram := rfl
@[simp] theorem State.send_smbus (s : State) (f : Flight) : (s.send f).smbus = s.smbus := rfl
@[simp] theorem State.send_i3c (s : State) (f : Flight) : (s.send f).i3c = s.i3c := rfl
@[simp] theorem State.send_jtag (s : State) (f : Flight) : (s.send f).jtag = s.jtag := rfl
@[simp] theorem State.send_bsr (s : State) (f : Flight) : (s.send f).bsr = s.bsr := rfl
@[simp] theorem State.send_fresh (s : State) (f : Flight) : (s.send f).fresh = s.fresh := rfl
@[simp] theorem State.send_out (s : State) (f : Flight) : (s.send f).out = s.out := rfl
@[simp] theorem State.send_pending (s : State) (f : Flight) : (s.send f).pending = s.pending := rfl

@[simp] theorem State.bump_t0 (s : State) (o n : Nat) : (s.bump o n).t0 = s.t0 := rfl
@[simp] theorem State.bump_slice (s : State) (o n : Nat) : (s.bump o n).slice = s.slice := rfl
@[simp] theorem State.bump_tier (s : State) (o n : Nat) : (s.bump o n).tier = s.tier := rfl
@[simp] theorem State.bump_flash (s : State) (o n : Nat) : (s.bump o n).flash = s.flash := rfl
@[simp] theorem State.bump_t0Pz (s : State) (o n : Nat) : (s.bump o n).t0Pz = s.t0Pz := rfl
@[simp] theorem State.bump_slicePz (s : State) (o n : Nat) : (s.bump o n).slicePz = s.slicePz := rfl
@[simp] theorem State.bump_tierPz (s : State) (o n : Nat) : (s.bump o n).tierPz = s.tierPz := rfl
@[simp] theorem State.bump_grade (s : State) (o n : Nat) : (s.bump o n).grade = s.grade := rfl
@[simp] theorem State.bump_fused (s : State) (o n : Nat) : (s.bump o n).fused = s.fused := rfl
@[simp] theorem State.bump_lmap (s : State) (o n : Nat) : (s.bump o n).lmap = s.lmap := rfl
@[simp] theorem State.bump_ncores (s : State) (o n : Nat) : (s.bump o n).ncores = s.ncores := rfl
@[simp] theorem State.bump_spares (s : State) (o n : Nat) : (s.bump o n).spares = s.spares := rfl
@[simp] theorem State.bump_fences (s : State) (o n : Nat) : (s.bump o n).fences = s.fences := rfl
@[simp] theorem State.bump_lport (s : State) (o n : Nat) : (s.bump o n).lport = s.lport := rfl
@[simp] theorem State.bump_lchan (s : State) (o n : Nat) : (s.bump o n).lchan = s.lchan := rfl
@[simp] theorem State.bump_lcodec (s : State) (o n : Nat) : (s.bump o n).lcodec = s.lcodec := rfl
@[simp] theorem State.bump_cores (s : State) (o n : Nat) : (s.bump o n).cores = s.cores := rfl
@[simp] theorem State.bump_clusters (s : State) (o n : Nat) : (s.bump o n).clusters = s.clusters := rfl
@[simp] theorem State.bump_mesh (s : State) (o n : Nat) : (s.bump o n).mesh = s.mesh := rfl
@[simp] theorem State.bump_obj (s : State) (o n : Nat) : (s.bump o n).obj = s.obj := rfl
@[simp] theorem State.bump_sm (s : State) (o n : Nat) : (s.bump o n).sm = s.sm := rfl
@[simp] theorem State.bump_irq (s : State) (o n : Nat) : (s.bump o n).irq = s.irq := rfl
@[simp] theorem State.bump_regs (s : State) (o n : Nat) : (s.bump o n).regs = s.regs := rfl
@[simp] theorem State.bump_rneUsed (s : State) (o n : Nat) : (s.bump o n).rneUsed = s.rneUsed := rfl
@[simp] theorem State.bump_epoch (s : State) (o n : Nat) : (s.bump o n).epoch = s.epoch := rfl
@[simp] theorem State.bump_sealed_ (s : State) (o n : Nat) : (s.bump o n).sealed_ = s.sealed_ := rfl
@[simp] theorem State.bump_bar2 (s : State) (o n : Nat) : (s.bump o n).bar2 = s.bar2 := rfl
@[simp] theorem State.bump_msixMask (s : State) (o n : Nat) : (s.bump o n).msixMask = s.msixMask := rfl
@[simp] theorem State.bump_msixPba (s : State) (o n : Nat) : (s.bump o n).msixPba = s.msixPba := rfl
@[simp] theorem State.bump_t3Key (s : State) (o n : Nat) : (s.bump o n).t3Key = s.t3Key := rfl
@[simp] theorem State.bump_frames (s : State) (o n : Nat) : (s.bump o n).frames = s.frames := rfl
@[simp] theorem State.bump_fl (s : State) (o n : Nat) : (s.bump o n).fl = s.fl := rfl
@[simp] theorem State.bump_flashQ (s : State) (o n : Nat) : (s.bump o n).flashQ = s.flashQ := rfl
@[simp] theorem State.bump_flashBusy (s : State) (o n : Nat) : (s.bump o n).flashBusy = s.flashBusy := rfl
@[simp] theorem State.bump_huMv (s : State) (o n : Nat) : (s.bump o n).huMv = s.huMv := rfl
@[simp] theorem State.bump_pwrfail (s : State) (o n : Nat) : (s.bump o n).pwrfail = s.pwrfail := rfl
@[simp] theorem State.bump_ports (s : State) (o n : Nat) : (s.bump o n).ports = s.ports := rfl
@[simp] theorem State.bump_mcs (s : State) (o n : Nat) : (s.bump o n).mcs = s.mcs := rfl
@[simp] theorem State.bump_hxLinks (s : State) (o n : Nat) : (s.bump o n).hxLinks = s.hxLinks := rfl
@[simp] theorem State.bump_hxCut (s : State) (o n : Nat) : (s.bump o n).hxCut = s.hxCut := rfl
@[simp] theorem State.bump_linkHeld (s : State) (o n : Nat) : (s.bump o n).linkHeld = s.linkHeld := rfl
@[simp] theorem State.bump_repoch (s : State) (o n : Nat) : (s.bump o n).repoch = s.repoch := rfl
@[simp] theorem State.bump_colls (s : State) (o n : Nat) : (s.bump o n).colls = s.colls := rfl
@[simp] theorem State.bump_dstat (s : State) (o n : Nat) : (s.bump o n).dstat = s.dstat := rfl
@[simp] theorem State.bump_collHeld (s : State) (o n : Nat) : (s.bump o n).collHeld = s.collHeld := rfl
@[simp] theorem State.bump_staged (s : State) (o n : Nat) : (s.bump o n).staged = s.staged := rfl
@[simp] theorem State.bump_cfg (s : State) (o n : Nat) : (s.bump o n).cfg = s.cfg := rfl
@[simp] theorem State.bump_flip (s : State) (o n : Nat) : (s.bump o n).flip = s.flip := rfl
@[simp] theorem State.bump_twopc (s : State) (o n : Nat) : (s.bump o n).twopc = s.twopc := rfl
@[simp] theorem State.bump_rings (s : State) (o n : Nat) : (s.bump o n).rings = s.rings := rfl
@[simp] theorem State.bump_hwin (s : State) (o n : Nat) : (s.bump o n).hwin = s.hwin := rfl
@[simp] theorem State.bump_rcepoch (s : State) (o n : Nat) : (s.bump o n).rcepoch = s.rcepoch := rfl
@[simp] theorem State.bump_deliv (s : State) (o n : Nat) : (s.bump o n).deliv = s.deliv := rfl
@[simp] theorem State.bump_pw (s : State) (o n : Nat) : (s.bump o n).pw = s.pw := rfl
@[simp] theorem State.bump_rstLast (s : State) (o n : Nat) : (s.bump o n).rstLast = s.rstLast := rfl
@[simp] theorem State.bump_coreRst (s : State) (o n : Nat) : (s.bump o n).coreRst = s.coreRst := rfl
@[simp] theorem State.bump_rstStat (s : State) (o n : Nat) : (s.bump o n).rstStat = s.rstStat := rfl
@[simp] theorem State.bump_powered (s : State) (o n : Nat) : (s.bump o n).powered = s.powered := rfl
@[simp] theorem State.bump_lost (s : State) (o n : Nat) : (s.bump o n).lost = s.lost := rfl
@[simp] theorem State.bump_linkUp (s : State) (o n : Nat) : (s.bump o n).linkUp = s.linkUp := rfl
@[simp] theorem State.bump_sec (s : State) (o n : Nat) : (s.bump o n).sec = s.sec := rfl
@[simp] theorem State.bump_sram (s : State) (o n : Nat) : (s.bump o n).sram = s.sram := rfl
@[simp] theorem State.bump_smbus (s : State) (o n : Nat) : (s.bump o n).smbus = s.smbus := rfl
@[simp] theorem State.bump_i3c (s : State) (o n : Nat) : (s.bump o n).i3c = s.i3c := rfl
@[simp] theorem State.bump_jtag (s : State) (o n : Nat) : (s.bump o n).jtag = s.jtag := rfl
@[simp] theorem State.bump_bsr (s : State) (o n : Nat) : (s.bump o n).bsr = s.bsr := rfl
@[simp] theorem State.bump_fresh (s : State) (o n : Nat) : (s.bump o n).fresh = s.fresh := rfl
@[simp] theorem State.bump_out (s : State) (o n : Nat) : (s.bump o n).out = s.out := rfl
@[simp] theorem State.bump_pending (s : State) (o n : Nat) : (s.bump o n).pending = s.pending := rfl

@[simp] theorem State.bumpCore_t0 (s : State) (p o n : Nat) : (s.bumpCore p o n).t0 = s.t0 := rfl
@[simp] theorem State.bumpCore_slice (s : State) (p o n : Nat) : (s.bumpCore p o n).slice = s.slice := rfl
@[simp] theorem State.bumpCore_tier (s : State) (p o n : Nat) : (s.bumpCore p o n).tier = s.tier := rfl
@[simp] theorem State.bumpCore_flash (s : State) (p o n : Nat) : (s.bumpCore p o n).flash = s.flash := rfl
@[simp] theorem State.bumpCore_t0Pz (s : State) (p o n : Nat) : (s.bumpCore p o n).t0Pz = s.t0Pz := rfl
@[simp] theorem State.bumpCore_slicePz (s : State) (p o n : Nat) : (s.bumpCore p o n).slicePz = s.slicePz := rfl
@[simp] theorem State.bumpCore_tierPz (s : State) (p o n : Nat) : (s.bumpCore p o n).tierPz = s.tierPz := rfl
@[simp] theorem State.bumpCore_grade (s : State) (p o n : Nat) : (s.bumpCore p o n).grade = s.grade := rfl
@[simp] theorem State.bumpCore_fused (s : State) (p o n : Nat) : (s.bumpCore p o n).fused = s.fused := rfl
@[simp] theorem State.bumpCore_lmap (s : State) (p o n : Nat) : (s.bumpCore p o n).lmap = s.lmap := rfl
@[simp] theorem State.bumpCore_ncores (s : State) (p o n : Nat) : (s.bumpCore p o n).ncores = s.ncores := rfl
@[simp] theorem State.bumpCore_spares (s : State) (p o n : Nat) : (s.bumpCore p o n).spares = s.spares := rfl
@[simp] theorem State.bumpCore_fences (s : State) (p o n : Nat) : (s.bumpCore p o n).fences = s.fences := rfl
@[simp] theorem State.bumpCore_lport (s : State) (p o n : Nat) : (s.bumpCore p o n).lport = s.lport := rfl
@[simp] theorem State.bumpCore_lchan (s : State) (p o n : Nat) : (s.bumpCore p o n).lchan = s.lchan := rfl
@[simp] theorem State.bumpCore_lcodec (s : State) (p o n : Nat) : (s.bumpCore p o n).lcodec = s.lcodec := rfl
@[simp] theorem State.bumpCore_clusters (s : State) (p o n : Nat) : (s.bumpCore p o n).clusters = s.clusters := rfl
@[simp] theorem State.bumpCore_mesh (s : State) (p o n : Nat) : (s.bumpCore p o n).mesh = s.mesh := rfl
@[simp] theorem State.bumpCore_obj (s : State) (p o n : Nat) : (s.bumpCore p o n).obj = s.obj := rfl
@[simp] theorem State.bumpCore_sm (s : State) (p o n : Nat) : (s.bumpCore p o n).sm = s.sm := rfl
@[simp] theorem State.bumpCore_irq (s : State) (p o n : Nat) : (s.bumpCore p o n).irq = s.irq := rfl
@[simp] theorem State.bumpCore_regs (s : State) (p o n : Nat) : (s.bumpCore p o n).regs = s.regs := rfl
@[simp] theorem State.bumpCore_cnt (s : State) (p o n : Nat) : (s.bumpCore p o n).cnt = s.cnt := rfl
@[simp] theorem State.bumpCore_rneUsed (s : State) (p o n : Nat) : (s.bumpCore p o n).rneUsed = s.rneUsed := rfl
@[simp] theorem State.bumpCore_epoch (s : State) (p o n : Nat) : (s.bumpCore p o n).epoch = s.epoch := rfl
@[simp] theorem State.bumpCore_sealed_ (s : State) (p o n : Nat) : (s.bumpCore p o n).sealed_ = s.sealed_ := rfl
@[simp] theorem State.bumpCore_bar2 (s : State) (p o n : Nat) : (s.bumpCore p o n).bar2 = s.bar2 := rfl
@[simp] theorem State.bumpCore_msixMask (s : State) (p o n : Nat) : (s.bumpCore p o n).msixMask = s.msixMask := rfl
@[simp] theorem State.bumpCore_msixPba (s : State) (p o n : Nat) : (s.bumpCore p o n).msixPba = s.msixPba := rfl
@[simp] theorem State.bumpCore_t3Key (s : State) (p o n : Nat) : (s.bumpCore p o n).t3Key = s.t3Key := rfl
@[simp] theorem State.bumpCore_frames (s : State) (p o n : Nat) : (s.bumpCore p o n).frames = s.frames := rfl
@[simp] theorem State.bumpCore_fl (s : State) (p o n : Nat) : (s.bumpCore p o n).fl = s.fl := rfl
@[simp] theorem State.bumpCore_flashQ (s : State) (p o n : Nat) : (s.bumpCore p o n).flashQ = s.flashQ := rfl
@[simp] theorem State.bumpCore_flashBusy (s : State) (p o n : Nat) : (s.bumpCore p o n).flashBusy = s.flashBusy := rfl
@[simp] theorem State.bumpCore_huMv (s : State) (p o n : Nat) : (s.bumpCore p o n).huMv = s.huMv := rfl
@[simp] theorem State.bumpCore_pwrfail (s : State) (p o n : Nat) : (s.bumpCore p o n).pwrfail = s.pwrfail := rfl
@[simp] theorem State.bumpCore_ports (s : State) (p o n : Nat) : (s.bumpCore p o n).ports = s.ports := rfl
@[simp] theorem State.bumpCore_mcs (s : State) (p o n : Nat) : (s.bumpCore p o n).mcs = s.mcs := rfl
@[simp] theorem State.bumpCore_hxLinks (s : State) (p o n : Nat) : (s.bumpCore p o n).hxLinks = s.hxLinks := rfl
@[simp] theorem State.bumpCore_hxCut (s : State) (p o n : Nat) : (s.bumpCore p o n).hxCut = s.hxCut := rfl
@[simp] theorem State.bumpCore_linkHeld (s : State) (p o n : Nat) : (s.bumpCore p o n).linkHeld = s.linkHeld := rfl
@[simp] theorem State.bumpCore_repoch (s : State) (p o n : Nat) : (s.bumpCore p o n).repoch = s.repoch := rfl
@[simp] theorem State.bumpCore_colls (s : State) (p o n : Nat) : (s.bumpCore p o n).colls = s.colls := rfl
@[simp] theorem State.bumpCore_dstat (s : State) (p o n : Nat) : (s.bumpCore p o n).dstat = s.dstat := rfl
@[simp] theorem State.bumpCore_collHeld (s : State) (p o n : Nat) : (s.bumpCore p o n).collHeld = s.collHeld := rfl
@[simp] theorem State.bumpCore_staged (s : State) (p o n : Nat) : (s.bumpCore p o n).staged = s.staged := rfl
@[simp] theorem State.bumpCore_cfg (s : State) (p o n : Nat) : (s.bumpCore p o n).cfg = s.cfg := rfl
@[simp] theorem State.bumpCore_flip (s : State) (p o n : Nat) : (s.bumpCore p o n).flip = s.flip := rfl
@[simp] theorem State.bumpCore_twopc (s : State) (p o n : Nat) : (s.bumpCore p o n).twopc = s.twopc := rfl
@[simp] theorem State.bumpCore_rings (s : State) (p o n : Nat) : (s.bumpCore p o n).rings = s.rings := rfl
@[simp] theorem State.bumpCore_hwin (s : State) (p o n : Nat) : (s.bumpCore p o n).hwin = s.hwin := rfl
@[simp] theorem State.bumpCore_rcepoch (s : State) (p o n : Nat) : (s.bumpCore p o n).rcepoch = s.rcepoch := rfl
@[simp] theorem State.bumpCore_deliv (s : State) (p o n : Nat) : (s.bumpCore p o n).deliv = s.deliv := rfl
@[simp] theorem State.bumpCore_pw (s : State) (p o n : Nat) : (s.bumpCore p o n).pw = s.pw := rfl
@[simp] theorem State.bumpCore_rstLast (s : State) (p o n : Nat) : (s.bumpCore p o n).rstLast = s.rstLast := rfl
@[simp] theorem State.bumpCore_coreRst (s : State) (p o n : Nat) : (s.bumpCore p o n).coreRst = s.coreRst := rfl
@[simp] theorem State.bumpCore_rstStat (s : State) (p o n : Nat) : (s.bumpCore p o n).rstStat = s.rstStat := rfl
@[simp] theorem State.bumpCore_powered (s : State) (p o n : Nat) : (s.bumpCore p o n).powered = s.powered := rfl
@[simp] theorem State.bumpCore_lost (s : State) (p o n : Nat) : (s.bumpCore p o n).lost = s.lost := rfl
@[simp] theorem State.bumpCore_linkUp (s : State) (p o n : Nat) : (s.bumpCore p o n).linkUp = s.linkUp := rfl
@[simp] theorem State.bumpCore_sec (s : State) (p o n : Nat) : (s.bumpCore p o n).sec = s.sec := rfl
@[simp] theorem State.bumpCore_sram (s : State) (p o n : Nat) : (s.bumpCore p o n).sram = s.sram := rfl
@[simp] theorem State.bumpCore_smbus (s : State) (p o n : Nat) : (s.bumpCore p o n).smbus = s.smbus := rfl
@[simp] theorem State.bumpCore_i3c (s : State) (p o n : Nat) : (s.bumpCore p o n).i3c = s.i3c := rfl
@[simp] theorem State.bumpCore_jtag (s : State) (p o n : Nat) : (s.bumpCore p o n).jtag = s.jtag := rfl
@[simp] theorem State.bumpCore_bsr (s : State) (p o n : Nat) : (s.bumpCore p o n).bsr = s.bsr := rfl
@[simp] theorem State.bumpCore_fresh (s : State) (p o n : Nat) : (s.bumpCore p o n).fresh = s.fresh := rfl
@[simp] theorem State.bumpCore_out (s : State) (p o n : Nat) : (s.bumpCore p o n).out = s.out := rfl
@[simp] theorem State.bumpCore_pending (s : State) (p o n : Nat) : (s.bumpCore p o n).pending = s.pending := rfl

@[simp] theorem State.setIrq_t0 (s : State) (i : Nat) (x : IrqSrc) : (s.setIrq i x).t0 = s.t0 := rfl
@[simp] theorem State.setIrq_slice (s : State) (i : Nat) (x : IrqSrc) : (s.setIrq i x).slice = s.slice := rfl
@[simp] theorem State.setIrq_tier (s : State) (i : Nat) (x : IrqSrc) : (s.setIrq i x).tier = s.tier := rfl
@[simp] theorem State.setIrq_flash (s : State) (i : Nat) (x : IrqSrc) : (s.setIrq i x).flash = s.flash := rfl
@[simp] theorem State.setIrq_t0Pz (s : State) (i : Nat) (x : IrqSrc) : (s.setIrq i x).t0Pz = s.t0Pz := rfl
@[simp] theorem State.setIrq_slicePz (s : State) (i : Nat) (x : IrqSrc) : (s.setIrq i x).slicePz = s.slicePz := rfl
@[simp] theorem State.setIrq_tierPz (s : State) (i : Nat) (x : IrqSrc) : (s.setIrq i x).tierPz = s.tierPz := rfl
@[simp] theorem State.setIrq_grade (s : State) (i : Nat) (x : IrqSrc) : (s.setIrq i x).grade = s.grade := rfl
@[simp] theorem State.setIrq_fused (s : State) (i : Nat) (x : IrqSrc) : (s.setIrq i x).fused = s.fused := rfl
@[simp] theorem State.setIrq_lmap (s : State) (i : Nat) (x : IrqSrc) : (s.setIrq i x).lmap = s.lmap := rfl
@[simp] theorem State.setIrq_ncores (s : State) (i : Nat) (x : IrqSrc) : (s.setIrq i x).ncores = s.ncores := rfl
@[simp] theorem State.setIrq_spares (s : State) (i : Nat) (x : IrqSrc) : (s.setIrq i x).spares = s.spares := rfl
@[simp] theorem State.setIrq_fences (s : State) (i : Nat) (x : IrqSrc) : (s.setIrq i x).fences = s.fences := rfl
@[simp] theorem State.setIrq_lport (s : State) (i : Nat) (x : IrqSrc) : (s.setIrq i x).lport = s.lport := rfl
@[simp] theorem State.setIrq_lchan (s : State) (i : Nat) (x : IrqSrc) : (s.setIrq i x).lchan = s.lchan := rfl
@[simp] theorem State.setIrq_lcodec (s : State) (i : Nat) (x : IrqSrc) : (s.setIrq i x).lcodec = s.lcodec := rfl
@[simp] theorem State.setIrq_cores (s : State) (i : Nat) (x : IrqSrc) : (s.setIrq i x).cores = s.cores := rfl
@[simp] theorem State.setIrq_clusters (s : State) (i : Nat) (x : IrqSrc) : (s.setIrq i x).clusters = s.clusters := rfl
@[simp] theorem State.setIrq_mesh (s : State) (i : Nat) (x : IrqSrc) : (s.setIrq i x).mesh = s.mesh := rfl
@[simp] theorem State.setIrq_obj (s : State) (i : Nat) (x : IrqSrc) : (s.setIrq i x).obj = s.obj := rfl
@[simp] theorem State.setIrq_sm (s : State) (i : Nat) (x : IrqSrc) : (s.setIrq i x).sm = s.sm := rfl
@[simp] theorem State.setIrq_regs (s : State) (i : Nat) (x : IrqSrc) : (s.setIrq i x).regs = s.regs := rfl
@[simp] theorem State.setIrq_cnt (s : State) (i : Nat) (x : IrqSrc) : (s.setIrq i x).cnt = s.cnt := rfl
@[simp] theorem State.setIrq_rneUsed (s : State) (i : Nat) (x : IrqSrc) : (s.setIrq i x).rneUsed = s.rneUsed := rfl
@[simp] theorem State.setIrq_epoch (s : State) (i : Nat) (x : IrqSrc) : (s.setIrq i x).epoch = s.epoch := rfl
@[simp] theorem State.setIrq_sealed_ (s : State) (i : Nat) (x : IrqSrc) : (s.setIrq i x).sealed_ = s.sealed_ := rfl
@[simp] theorem State.setIrq_bar2 (s : State) (i : Nat) (x : IrqSrc) : (s.setIrq i x).bar2 = s.bar2 := rfl
@[simp] theorem State.setIrq_msixMask (s : State) (i : Nat) (x : IrqSrc) : (s.setIrq i x).msixMask = s.msixMask := rfl
@[simp] theorem State.setIrq_msixPba (s : State) (i : Nat) (x : IrqSrc) : (s.setIrq i x).msixPba = s.msixPba := rfl
@[simp] theorem State.setIrq_t3Key (s : State) (i : Nat) (x : IrqSrc) : (s.setIrq i x).t3Key = s.t3Key := rfl
@[simp] theorem State.setIrq_frames (s : State) (i : Nat) (x : IrqSrc) : (s.setIrq i x).frames = s.frames := rfl
@[simp] theorem State.setIrq_fl (s : State) (i : Nat) (x : IrqSrc) : (s.setIrq i x).fl = s.fl := rfl
@[simp] theorem State.setIrq_flashQ (s : State) (i : Nat) (x : IrqSrc) : (s.setIrq i x).flashQ = s.flashQ := rfl
@[simp] theorem State.setIrq_flashBusy (s : State) (i : Nat) (x : IrqSrc) : (s.setIrq i x).flashBusy = s.flashBusy := rfl
@[simp] theorem State.setIrq_huMv (s : State) (i : Nat) (x : IrqSrc) : (s.setIrq i x).huMv = s.huMv := rfl
@[simp] theorem State.setIrq_pwrfail (s : State) (i : Nat) (x : IrqSrc) : (s.setIrq i x).pwrfail = s.pwrfail := rfl
@[simp] theorem State.setIrq_ports (s : State) (i : Nat) (x : IrqSrc) : (s.setIrq i x).ports = s.ports := rfl
@[simp] theorem State.setIrq_mcs (s : State) (i : Nat) (x : IrqSrc) : (s.setIrq i x).mcs = s.mcs := rfl
@[simp] theorem State.setIrq_hxLinks (s : State) (i : Nat) (x : IrqSrc) : (s.setIrq i x).hxLinks = s.hxLinks := rfl
@[simp] theorem State.setIrq_hxCut (s : State) (i : Nat) (x : IrqSrc) : (s.setIrq i x).hxCut = s.hxCut := rfl
@[simp] theorem State.setIrq_linkHeld (s : State) (i : Nat) (x : IrqSrc) : (s.setIrq i x).linkHeld = s.linkHeld := rfl
@[simp] theorem State.setIrq_repoch (s : State) (i : Nat) (x : IrqSrc) : (s.setIrq i x).repoch = s.repoch := rfl
@[simp] theorem State.setIrq_colls (s : State) (i : Nat) (x : IrqSrc) : (s.setIrq i x).colls = s.colls := rfl
@[simp] theorem State.setIrq_dstat (s : State) (i : Nat) (x : IrqSrc) : (s.setIrq i x).dstat = s.dstat := rfl
@[simp] theorem State.setIrq_collHeld (s : State) (i : Nat) (x : IrqSrc) : (s.setIrq i x).collHeld = s.collHeld := rfl
@[simp] theorem State.setIrq_staged (s : State) (i : Nat) (x : IrqSrc) : (s.setIrq i x).staged = s.staged := rfl
@[simp] theorem State.setIrq_cfg (s : State) (i : Nat) (x : IrqSrc) : (s.setIrq i x).cfg = s.cfg := rfl
@[simp] theorem State.setIrq_flip (s : State) (i : Nat) (x : IrqSrc) : (s.setIrq i x).flip = s.flip := rfl
@[simp] theorem State.setIrq_twopc (s : State) (i : Nat) (x : IrqSrc) : (s.setIrq i x).twopc = s.twopc := rfl
@[simp] theorem State.setIrq_rings (s : State) (i : Nat) (x : IrqSrc) : (s.setIrq i x).rings = s.rings := rfl
@[simp] theorem State.setIrq_hwin (s : State) (i : Nat) (x : IrqSrc) : (s.setIrq i x).hwin = s.hwin := rfl
@[simp] theorem State.setIrq_rcepoch (s : State) (i : Nat) (x : IrqSrc) : (s.setIrq i x).rcepoch = s.rcepoch := rfl
@[simp] theorem State.setIrq_deliv (s : State) (i : Nat) (x : IrqSrc) : (s.setIrq i x).deliv = s.deliv := rfl
@[simp] theorem State.setIrq_pw (s : State) (i : Nat) (x : IrqSrc) : (s.setIrq i x).pw = s.pw := rfl
@[simp] theorem State.setIrq_rstLast (s : State) (i : Nat) (x : IrqSrc) : (s.setIrq i x).rstLast = s.rstLast := rfl
@[simp] theorem State.setIrq_coreRst (s : State) (i : Nat) (x : IrqSrc) : (s.setIrq i x).coreRst = s.coreRst := rfl
@[simp] theorem State.setIrq_rstStat (s : State) (i : Nat) (x : IrqSrc) : (s.setIrq i x).rstStat = s.rstStat := rfl
@[simp] theorem State.setIrq_powered (s : State) (i : Nat) (x : IrqSrc) : (s.setIrq i x).powered = s.powered := rfl
@[simp] theorem State.setIrq_lost (s : State) (i : Nat) (x : IrqSrc) : (s.setIrq i x).lost = s.lost := rfl
@[simp] theorem State.setIrq_linkUp (s : State) (i : Nat) (x : IrqSrc) : (s.setIrq i x).linkUp = s.linkUp := rfl
@[simp] theorem State.setIrq_sec (s : State) (i : Nat) (x : IrqSrc) : (s.setIrq i x).sec = s.sec := rfl
@[simp] theorem State.setIrq_sram (s : State) (i : Nat) (x : IrqSrc) : (s.setIrq i x).sram = s.sram := rfl
@[simp] theorem State.setIrq_smbus (s : State) (i : Nat) (x : IrqSrc) : (s.setIrq i x).smbus = s.smbus := rfl
@[simp] theorem State.setIrq_i3c (s : State) (i : Nat) (x : IrqSrc) : (s.setIrq i x).i3c = s.i3c := rfl
@[simp] theorem State.setIrq_jtag (s : State) (i : Nat) (x : IrqSrc) : (s.setIrq i x).jtag = s.jtag := rfl
@[simp] theorem State.setIrq_bsr (s : State) (i : Nat) (x : IrqSrc) : (s.setIrq i x).bsr = s.bsr := rfl
@[simp] theorem State.setIrq_fresh (s : State) (i : Nat) (x : IrqSrc) : (s.setIrq i x).fresh = s.fresh := rfl
@[simp] theorem State.setIrq_out (s : State) (i : Nat) (x : IrqSrc) : (s.setIrq i x).out = s.out := rfl
@[simp] theorem State.setIrq_pending (s : State) (i : Nat) (x : IrqSrc) : (s.setIrq i x).pending = s.pending := rfl

/-! ### A core -/

@[simp] theorem Core.bump_seq (c : Core) (o n : Nat) : (c.bump o n).seq = c.seq := rfl
@[simp] theorem Core.bump_cq (c : Core) (o n : Nat) : (c.bump o n).cq = c.cq := rfl
@[simp] theorem Core.bump_dq (c : Core) (o n : Nat) : (c.bump o n).dq = c.dq := rfl
@[simp] theorem Core.bump_hq (c : Core) (o n : Nat) : (c.bump o n).hq = c.hq := rfl
@[simp] theorem Core.bump_bt (c : Core) (o n : Nat) : (c.bump o n).bt = c.bt := rfl
@[simp] theorem Core.bump_pools (c : Core) (o n : Nat) : (c.bump o n).pools = c.pools := rfl
@[simp] theorem Core.bump_sd (c : Core) (o n : Nat) : (c.bump o n).sd = c.sd := rfl
@[simp] theorem Core.bump_ldAg (c : Core) (o n : Nat) : (c.bump o n).ldAg = c.ldAg := rfl
@[simp] theorem Core.bump_wrAg (c : Core) (o n : Nat) : (c.bump o n).wrAg = c.wrAg := rfl
@[simp] theorem Core.bump_vecAg (c : Core) (o n : Nat) : (c.bump o n).vecAg = c.vecAg := rfl
@[simp] theorem Core.bump_engA (c : Core) (o n : Nat) : (c.bump o n).engA = c.engA := rfl
@[simp] theorem Core.bump_engB (c : Core) (o n : Nat) : (c.bump o n).engB = c.engB := rfl
@[simp] theorem Core.bump_sht (c : Core) (o n : Nat) : (c.bump o n).sht = c.sht := rfl
@[simp] theorem Core.bump_drn (c : Core) (o n : Nat) : (c.bump o n).drn = c.drn := rfl
@[simp] theorem Core.bump_vec (c : Core) (o n : Nat) : (c.bump o n).vec = c.vec := rfl
@[simp] theorem Core.bump_upd (c : Core) (o n : Nat) : (c.bump o n).upd = c.upd := rfl
@[simp] theorem Core.bump_inflight (c : Core) (o n : Nat) : (c.bump o n).inflight = c.inflight := rfl
@[simp] theorem Core.bump_transit (c : Core) (o n : Nat) : (c.bump o n).transit = c.transit := rfl
@[simp] theorem Core.bump_heldH (c : Core) (o n : Nat) : (c.bump o n).heldH = c.heldH := rfl
@[simp] theorem Core.bump_dropH (c : Core) (o n : Nat) : (c.bump o n).dropH = c.dropH := rfl
@[simp] theorem Core.bump_tags (c : Core) (o n : Nat) : (c.bump o n).tags = c.tags := rfl
@[simp] theorem Core.bump_dmaQ (c : Core) (o n : Nat) : (c.bump o n).dmaQ = c.dmaQ := rfl
@[simp] theorem Core.bump_stash (c : Core) (o n : Nat) : (c.bump o n).stash = c.stash := rfl
@[simp] theorem Core.bump_pins (c : Core) (o n : Nat) : (c.bump o n).pins = c.pins := rfl
@[simp] theorem Core.bump_look (c : Core) (o n : Nat) : (c.bump o n).look = c.look := rfl
@[simp] theorem Core.bump_mbx (c : Core) (o n : Nat) : (c.bump o n).mbx = c.mbx := rfl
@[simp] theorem Core.bump_rem (c : Core) (o n : Nat) : (c.bump o n).rem = c.rem := rfl
@[simp] theorem Core.bump_pre (c : Core) (o n : Nat) : (c.bump o n).pre = c.pre := rfl
@[simp] theorem Core.bump_rcmt (c : Core) (o n : Nat) : (c.bump o n).rcmt = c.rcmt := rfl
@[simp] theorem Core.bump_fence (c : Core) (o n : Nat) : (c.bump o n).fence = c.fence := rfl
@[simp] theorem Core.bump_regs (c : Core) (o n : Nat) : (c.bump o n).regs = c.regs := rfl
@[simp] theorem Core.bump_poolLatch (c : Core) (o n : Nat) : (c.bump o n).poolLatch = c.poolLatch := rfl

@[simp] theorem Core.modSeq_cq (c : Core) (f : Sequencer → Sequencer) : (c.modSeq f).cq = c.cq := rfl
@[simp] theorem Core.modSeq_dq (c : Core) (f : Sequencer → Sequencer) : (c.modSeq f).dq = c.dq := rfl
@[simp] theorem Core.modSeq_hq (c : Core) (f : Sequencer → Sequencer) : (c.modSeq f).hq = c.hq := rfl
@[simp] theorem Core.modSeq_bt (c : Core) (f : Sequencer → Sequencer) : (c.modSeq f).bt = c.bt := rfl
@[simp] theorem Core.modSeq_pools (c : Core) (f : Sequencer → Sequencer) : (c.modSeq f).pools = c.pools := rfl
@[simp] theorem Core.modSeq_sd (c : Core) (f : Sequencer → Sequencer) : (c.modSeq f).sd = c.sd := rfl
@[simp] theorem Core.modSeq_ldAg (c : Core) (f : Sequencer → Sequencer) : (c.modSeq f).ldAg = c.ldAg := rfl
@[simp] theorem Core.modSeq_wrAg (c : Core) (f : Sequencer → Sequencer) : (c.modSeq f).wrAg = c.wrAg := rfl
@[simp] theorem Core.modSeq_vecAg (c : Core) (f : Sequencer → Sequencer) : (c.modSeq f).vecAg = c.vecAg := rfl
@[simp] theorem Core.modSeq_engA (c : Core) (f : Sequencer → Sequencer) : (c.modSeq f).engA = c.engA := rfl
@[simp] theorem Core.modSeq_engB (c : Core) (f : Sequencer → Sequencer) : (c.modSeq f).engB = c.engB := rfl
@[simp] theorem Core.modSeq_sht (c : Core) (f : Sequencer → Sequencer) : (c.modSeq f).sht = c.sht := rfl
@[simp] theorem Core.modSeq_drn (c : Core) (f : Sequencer → Sequencer) : (c.modSeq f).drn = c.drn := rfl
@[simp] theorem Core.modSeq_vec (c : Core) (f : Sequencer → Sequencer) : (c.modSeq f).vec = c.vec := rfl
@[simp] theorem Core.modSeq_upd (c : Core) (f : Sequencer → Sequencer) : (c.modSeq f).upd = c.upd := rfl
@[simp] theorem Core.modSeq_inflight (c : Core) (f : Sequencer → Sequencer) : (c.modSeq f).inflight = c.inflight := rfl
@[simp] theorem Core.modSeq_transit (c : Core) (f : Sequencer → Sequencer) : (c.modSeq f).transit = c.transit := rfl
@[simp] theorem Core.modSeq_heldH (c : Core) (f : Sequencer → Sequencer) : (c.modSeq f).heldH = c.heldH := rfl
@[simp] theorem Core.modSeq_dropH (c : Core) (f : Sequencer → Sequencer) : (c.modSeq f).dropH = c.dropH := rfl
@[simp] theorem Core.modSeq_tags (c : Core) (f : Sequencer → Sequencer) : (c.modSeq f).tags = c.tags := rfl
@[simp] theorem Core.modSeq_dmaQ (c : Core) (f : Sequencer → Sequencer) : (c.modSeq f).dmaQ = c.dmaQ := rfl
@[simp] theorem Core.modSeq_stash (c : Core) (f : Sequencer → Sequencer) : (c.modSeq f).stash = c.stash := rfl
@[simp] theorem Core.modSeq_pins (c : Core) (f : Sequencer → Sequencer) : (c.modSeq f).pins = c.pins := rfl
@[simp] theorem Core.modSeq_look (c : Core) (f : Sequencer → Sequencer) : (c.modSeq f).look = c.look := rfl
@[simp] theorem Core.modSeq_mbx (c : Core) (f : Sequencer → Sequencer) : (c.modSeq f).mbx = c.mbx := rfl
@[simp] theorem Core.modSeq_rem (c : Core) (f : Sequencer → Sequencer) : (c.modSeq f).rem = c.rem := rfl
@[simp] theorem Core.modSeq_pre (c : Core) (f : Sequencer → Sequencer) : (c.modSeq f).pre = c.pre := rfl
@[simp] theorem Core.modSeq_rcmt (c : Core) (f : Sequencer → Sequencer) : (c.modSeq f).rcmt = c.rcmt := rfl
@[simp] theorem Core.modSeq_fence (c : Core) (f : Sequencer → Sequencer) : (c.modSeq f).fence = c.fence := rfl
@[simp] theorem Core.modSeq_regs (c : Core) (f : Sequencer → Sequencer) : (c.modSeq f).regs = c.regs := rfl
@[simp] theorem Core.modSeq_cnt (c : Core) (f : Sequencer → Sequencer) : (c.modSeq f).cnt = c.cnt := rfl
@[simp] theorem Core.modSeq_poolLatch (c : Core) (f : Sequencer → Sequencer) : (c.modSeq f).poolLatch = c.poolLatch := rfl

@[simp] theorem Core.setBar_cq (c : Core) (b : Nat) (x : Barrier) : (c.setBar b x).cq = c.cq := rfl
@[simp] theorem Core.setBar_dq (c : Core) (b : Nat) (x : Barrier) : (c.setBar b x).dq = c.dq := rfl
@[simp] theorem Core.setBar_hq (c : Core) (b : Nat) (x : Barrier) : (c.setBar b x).hq = c.hq := rfl
@[simp] theorem Core.setBar_bt (c : Core) (b : Nat) (x : Barrier) : (c.setBar b x).bt = c.bt := rfl
@[simp] theorem Core.setBar_pools (c : Core) (b : Nat) (x : Barrier) : (c.setBar b x).pools = c.pools := rfl
@[simp] theorem Core.setBar_sd (c : Core) (b : Nat) (x : Barrier) : (c.setBar b x).sd = c.sd := rfl
@[simp] theorem Core.setBar_ldAg (c : Core) (b : Nat) (x : Barrier) : (c.setBar b x).ldAg = c.ldAg := rfl
@[simp] theorem Core.setBar_wrAg (c : Core) (b : Nat) (x : Barrier) : (c.setBar b x).wrAg = c.wrAg := rfl
@[simp] theorem Core.setBar_vecAg (c : Core) (b : Nat) (x : Barrier) : (c.setBar b x).vecAg = c.vecAg := rfl
@[simp] theorem Core.setBar_engA (c : Core) (b : Nat) (x : Barrier) : (c.setBar b x).engA = c.engA := rfl
@[simp] theorem Core.setBar_engB (c : Core) (b : Nat) (x : Barrier) : (c.setBar b x).engB = c.engB := rfl
@[simp] theorem Core.setBar_sht (c : Core) (b : Nat) (x : Barrier) : (c.setBar b x).sht = c.sht := rfl
@[simp] theorem Core.setBar_drn (c : Core) (b : Nat) (x : Barrier) : (c.setBar b x).drn = c.drn := rfl
@[simp] theorem Core.setBar_vec (c : Core) (b : Nat) (x : Barrier) : (c.setBar b x).vec = c.vec := rfl
@[simp] theorem Core.setBar_upd (c : Core) (b : Nat) (x : Barrier) : (c.setBar b x).upd = c.upd := rfl
@[simp] theorem Core.setBar_inflight (c : Core) (b : Nat) (x : Barrier) : (c.setBar b x).inflight = c.inflight := rfl
@[simp] theorem Core.setBar_transit (c : Core) (b : Nat) (x : Barrier) : (c.setBar b x).transit = c.transit := rfl
@[simp] theorem Core.setBar_heldH (c : Core) (b : Nat) (x : Barrier) : (c.setBar b x).heldH = c.heldH := rfl
@[simp] theorem Core.setBar_dropH (c : Core) (b : Nat) (x : Barrier) : (c.setBar b x).dropH = c.dropH := rfl
@[simp] theorem Core.setBar_tags (c : Core) (b : Nat) (x : Barrier) : (c.setBar b x).tags = c.tags := rfl
@[simp] theorem Core.setBar_dmaQ (c : Core) (b : Nat) (x : Barrier) : (c.setBar b x).dmaQ = c.dmaQ := rfl
@[simp] theorem Core.setBar_stash (c : Core) (b : Nat) (x : Barrier) : (c.setBar b x).stash = c.stash := rfl
@[simp] theorem Core.setBar_pins (c : Core) (b : Nat) (x : Barrier) : (c.setBar b x).pins = c.pins := rfl
@[simp] theorem Core.setBar_look (c : Core) (b : Nat) (x : Barrier) : (c.setBar b x).look = c.look := rfl
@[simp] theorem Core.setBar_mbx (c : Core) (b : Nat) (x : Barrier) : (c.setBar b x).mbx = c.mbx := rfl
@[simp] theorem Core.setBar_rem (c : Core) (b : Nat) (x : Barrier) : (c.setBar b x).rem = c.rem := rfl
@[simp] theorem Core.setBar_pre (c : Core) (b : Nat) (x : Barrier) : (c.setBar b x).pre = c.pre := rfl
@[simp] theorem Core.setBar_rcmt (c : Core) (b : Nat) (x : Barrier) : (c.setBar b x).rcmt = c.rcmt := rfl
@[simp] theorem Core.setBar_fence (c : Core) (b : Nat) (x : Barrier) : (c.setBar b x).fence = c.fence := rfl
@[simp] theorem Core.setBar_regs (c : Core) (b : Nat) (x : Barrier) : (c.setBar b x).regs = c.regs := rfl
@[simp] theorem Core.setBar_cnt (c : Core) (b : Nat) (x : Barrier) : (c.setBar b x).cnt = c.cnt := rfl
@[simp] theorem Core.setBar_poolLatch (c : Core) (b : Nat) (x : Barrier) : (c.setBar b x).poolLatch = c.poolLatch := rfl

@[simp] theorem Core.setWords_seq (c : Core) (q : Nat) (l : List Cqe) : (c.setWords q l).seq = c.seq := rfl
@[simp] theorem Core.setWords_dq (c : Core) (q : Nat) (l : List Cqe) : (c.setWords q l).dq = c.dq := rfl
@[simp] theorem Core.setWords_hq (c : Core) (q : Nat) (l : List Cqe) : (c.setWords q l).hq = c.hq := rfl
@[simp] theorem Core.setWords_bt (c : Core) (q : Nat) (l : List Cqe) : (c.setWords q l).bt = c.bt := rfl
@[simp] theorem Core.setWords_pools (c : Core) (q : Nat) (l : List Cqe) : (c.setWords q l).pools = c.pools := rfl
@[simp] theorem Core.setWords_sd (c : Core) (q : Nat) (l : List Cqe) : (c.setWords q l).sd = c.sd := rfl
@[simp] theorem Core.setWords_ldAg (c : Core) (q : Nat) (l : List Cqe) : (c.setWords q l).ldAg = c.ldAg := rfl
@[simp] theorem Core.setWords_wrAg (c : Core) (q : Nat) (l : List Cqe) : (c.setWords q l).wrAg = c.wrAg := rfl
@[simp] theorem Core.setWords_vecAg (c : Core) (q : Nat) (l : List Cqe) : (c.setWords q l).vecAg = c.vecAg := rfl
@[simp] theorem Core.setWords_engA (c : Core) (q : Nat) (l : List Cqe) : (c.setWords q l).engA = c.engA := rfl
@[simp] theorem Core.setWords_engB (c : Core) (q : Nat) (l : List Cqe) : (c.setWords q l).engB = c.engB := rfl
@[simp] theorem Core.setWords_sht (c : Core) (q : Nat) (l : List Cqe) : (c.setWords q l).sht = c.sht := rfl
@[simp] theorem Core.setWords_drn (c : Core) (q : Nat) (l : List Cqe) : (c.setWords q l).drn = c.drn := rfl
@[simp] theorem Core.setWords_vec (c : Core) (q : Nat) (l : List Cqe) : (c.setWords q l).vec = c.vec := rfl
@[simp] theorem Core.setWords_upd (c : Core) (q : Nat) (l : List Cqe) : (c.setWords q l).upd = c.upd := rfl
@[simp] theorem Core.setWords_inflight (c : Core) (q : Nat) (l : List Cqe) : (c.setWords q l).inflight = c.inflight := rfl
@[simp] theorem Core.setWords_transit (c : Core) (q : Nat) (l : List Cqe) : (c.setWords q l).transit = c.transit := rfl
@[simp] theorem Core.setWords_heldH (c : Core) (q : Nat) (l : List Cqe) : (c.setWords q l).heldH = c.heldH := rfl
@[simp] theorem Core.setWords_dropH (c : Core) (q : Nat) (l : List Cqe) : (c.setWords q l).dropH = c.dropH := rfl
@[simp] theorem Core.setWords_tags (c : Core) (q : Nat) (l : List Cqe) : (c.setWords q l).tags = c.tags := rfl
@[simp] theorem Core.setWords_dmaQ (c : Core) (q : Nat) (l : List Cqe) : (c.setWords q l).dmaQ = c.dmaQ := rfl
@[simp] theorem Core.setWords_stash (c : Core) (q : Nat) (l : List Cqe) : (c.setWords q l).stash = c.stash := rfl
@[simp] theorem Core.setWords_pins (c : Core) (q : Nat) (l : List Cqe) : (c.setWords q l).pins = c.pins := rfl
@[simp] theorem Core.setWords_look (c : Core) (q : Nat) (l : List Cqe) : (c.setWords q l).look = c.look := rfl
@[simp] theorem Core.setWords_mbx (c : Core) (q : Nat) (l : List Cqe) : (c.setWords q l).mbx = c.mbx := rfl
@[simp] theorem Core.setWords_rem (c : Core) (q : Nat) (l : List Cqe) : (c.setWords q l).rem = c.rem := rfl
@[simp] theorem Core.setWords_pre (c : Core) (q : Nat) (l : List Cqe) : (c.setWords q l).pre = c.pre := rfl
@[simp] theorem Core.setWords_rcmt (c : Core) (q : Nat) (l : List Cqe) : (c.setWords q l).rcmt = c.rcmt := rfl
@[simp] theorem Core.setWords_fence (c : Core) (q : Nat) (l : List Cqe) : (c.setWords q l).fence = c.fence := rfl
@[simp] theorem Core.setWords_regs (c : Core) (q : Nat) (l : List Cqe) : (c.setWords q l).regs = c.regs := rfl
@[simp] theorem Core.setWords_cnt (c : Core) (q : Nat) (l : List Cqe) : (c.setWords q l).cnt = c.cnt := rfl
@[simp] theorem Core.setWords_poolLatch (c : Core) (q : Nat) (l : List Cqe) : (c.setWords q l).poolLatch = c.poolLatch := rfl

@[simp] theorem Core.setWord_seq (c : Core) (q i : Nat) (e : Cqe) : (c.setWord q i e).seq = c.seq := rfl
@[simp] theorem Core.setWord_dq (c : Core) (q i : Nat) (e : Cqe) : (c.setWord q i e).dq = c.dq := rfl
@[simp] theorem Core.setWord_hq (c : Core) (q i : Nat) (e : Cqe) : (c.setWord q i e).hq = c.hq := rfl
@[simp] theorem Core.setWord_bt (c : Core) (q i : Nat) (e : Cqe) : (c.setWord q i e).bt = c.bt := rfl
@[simp] theorem Core.setWord_pools (c : Core) (q i : Nat) (e : Cqe) : (c.setWord q i e).pools = c.pools := rfl
@[simp] theorem Core.setWord_sd (c : Core) (q i : Nat) (e : Cqe) : (c.setWord q i e).sd = c.sd := rfl
@[simp] theorem Core.setWord_ldAg (c : Core) (q i : Nat) (e : Cqe) : (c.setWord q i e).ldAg = c.ldAg := rfl
@[simp] theorem Core.setWord_wrAg (c : Core) (q i : Nat) (e : Cqe) : (c.setWord q i e).wrAg = c.wrAg := rfl
@[simp] theorem Core.setWord_vecAg (c : Core) (q i : Nat) (e : Cqe) : (c.setWord q i e).vecAg = c.vecAg := rfl
@[simp] theorem Core.setWord_engA (c : Core) (q i : Nat) (e : Cqe) : (c.setWord q i e).engA = c.engA := rfl
@[simp] theorem Core.setWord_engB (c : Core) (q i : Nat) (e : Cqe) : (c.setWord q i e).engB = c.engB := rfl
@[simp] theorem Core.setWord_sht (c : Core) (q i : Nat) (e : Cqe) : (c.setWord q i e).sht = c.sht := rfl
@[simp] theorem Core.setWord_drn (c : Core) (q i : Nat) (e : Cqe) : (c.setWord q i e).drn = c.drn := rfl
@[simp] theorem Core.setWord_vec (c : Core) (q i : Nat) (e : Cqe) : (c.setWord q i e).vec = c.vec := rfl
@[simp] theorem Core.setWord_upd (c : Core) (q i : Nat) (e : Cqe) : (c.setWord q i e).upd = c.upd := rfl
@[simp] theorem Core.setWord_inflight (c : Core) (q i : Nat) (e : Cqe) : (c.setWord q i e).inflight = c.inflight := rfl
@[simp] theorem Core.setWord_transit (c : Core) (q i : Nat) (e : Cqe) : (c.setWord q i e).transit = c.transit := rfl
@[simp] theorem Core.setWord_heldH (c : Core) (q i : Nat) (e : Cqe) : (c.setWord q i e).heldH = c.heldH := rfl
@[simp] theorem Core.setWord_dropH (c : Core) (q i : Nat) (e : Cqe) : (c.setWord q i e).dropH = c.dropH := rfl
@[simp] theorem Core.setWord_tags (c : Core) (q i : Nat) (e : Cqe) : (c.setWord q i e).tags = c.tags := rfl
@[simp] theorem Core.setWord_dmaQ (c : Core) (q i : Nat) (e : Cqe) : (c.setWord q i e).dmaQ = c.dmaQ := rfl
@[simp] theorem Core.setWord_stash (c : Core) (q i : Nat) (e : Cqe) : (c.setWord q i e).stash = c.stash := rfl
@[simp] theorem Core.setWord_pins (c : Core) (q i : Nat) (e : Cqe) : (c.setWord q i e).pins = c.pins := rfl
@[simp] theorem Core.setWord_look (c : Core) (q i : Nat) (e : Cqe) : (c.setWord q i e).look = c.look := rfl
@[simp] theorem Core.setWord_mbx (c : Core) (q i : Nat) (e : Cqe) : (c.setWord q i e).mbx = c.mbx := rfl
@[simp] theorem Core.setWord_rem (c : Core) (q i : Nat) (e : Cqe) : (c.setWord q i e).rem = c.rem := rfl
@[simp] theorem Core.setWord_pre (c : Core) (q i : Nat) (e : Cqe) : (c.setWord q i e).pre = c.pre := rfl
@[simp] theorem Core.setWord_rcmt (c : Core) (q i : Nat) (e : Cqe) : (c.setWord q i e).rcmt = c.rcmt := rfl
@[simp] theorem Core.setWord_fence (c : Core) (q i : Nat) (e : Cqe) : (c.setWord q i e).fence = c.fence := rfl
@[simp] theorem Core.setWord_regs (c : Core) (q i : Nat) (e : Cqe) : (c.setWord q i e).regs = c.regs := rfl
@[simp] theorem Core.setWord_cnt (c : Core) (q i : Nat) (e : Cqe) : (c.setWord q i e).cnt = c.cnt := rfl
@[simp] theorem Core.setWord_poolLatch (c : Core) (q i : Nat) (e : Cqe) : (c.setWord q i e).poolLatch = c.poolLatch := rfl

@[simp] theorem Core.setDataQ_seq (c : Core) (q : Nat) (x : DataQ) : (c.setDataQ q x).seq = c.seq := rfl
@[simp] theorem Core.setDataQ_cq (c : Core) (q : Nat) (x : DataQ) : (c.setDataQ q x).cq = c.cq := rfl
@[simp] theorem Core.setDataQ_hq (c : Core) (q : Nat) (x : DataQ) : (c.setDataQ q x).hq = c.hq := rfl
@[simp] theorem Core.setDataQ_bt (c : Core) (q : Nat) (x : DataQ) : (c.setDataQ q x).bt = c.bt := rfl
@[simp] theorem Core.setDataQ_pools (c : Core) (q : Nat) (x : DataQ) : (c.setDataQ q x).pools = c.pools := rfl
@[simp] theorem Core.setDataQ_sd (c : Core) (q : Nat) (x : DataQ) : (c.setDataQ q x).sd = c.sd := rfl
@[simp] theorem Core.setDataQ_ldAg (c : Core) (q : Nat) (x : DataQ) : (c.setDataQ q x).ldAg = c.ldAg := rfl
@[simp] theorem Core.setDataQ_wrAg (c : Core) (q : Nat) (x : DataQ) : (c.setDataQ q x).wrAg = c.wrAg := rfl
@[simp] theorem Core.setDataQ_vecAg (c : Core) (q : Nat) (x : DataQ) : (c.setDataQ q x).vecAg = c.vecAg := rfl
@[simp] theorem Core.setDataQ_engA (c : Core) (q : Nat) (x : DataQ) : (c.setDataQ q x).engA = c.engA := rfl
@[simp] theorem Core.setDataQ_engB (c : Core) (q : Nat) (x : DataQ) : (c.setDataQ q x).engB = c.engB := rfl
@[simp] theorem Core.setDataQ_sht (c : Core) (q : Nat) (x : DataQ) : (c.setDataQ q x).sht = c.sht := rfl
@[simp] theorem Core.setDataQ_drn (c : Core) (q : Nat) (x : DataQ) : (c.setDataQ q x).drn = c.drn := rfl
@[simp] theorem Core.setDataQ_vec (c : Core) (q : Nat) (x : DataQ) : (c.setDataQ q x).vec = c.vec := rfl
@[simp] theorem Core.setDataQ_upd (c : Core) (q : Nat) (x : DataQ) : (c.setDataQ q x).upd = c.upd := rfl
@[simp] theorem Core.setDataQ_inflight (c : Core) (q : Nat) (x : DataQ) : (c.setDataQ q x).inflight = c.inflight := rfl
@[simp] theorem Core.setDataQ_transit (c : Core) (q : Nat) (x : DataQ) : (c.setDataQ q x).transit = c.transit := rfl
@[simp] theorem Core.setDataQ_heldH (c : Core) (q : Nat) (x : DataQ) : (c.setDataQ q x).heldH = c.heldH := rfl
@[simp] theorem Core.setDataQ_dropH (c : Core) (q : Nat) (x : DataQ) : (c.setDataQ q x).dropH = c.dropH := rfl
@[simp] theorem Core.setDataQ_tags (c : Core) (q : Nat) (x : DataQ) : (c.setDataQ q x).tags = c.tags := rfl
@[simp] theorem Core.setDataQ_dmaQ (c : Core) (q : Nat) (x : DataQ) : (c.setDataQ q x).dmaQ = c.dmaQ := rfl
@[simp] theorem Core.setDataQ_stash (c : Core) (q : Nat) (x : DataQ) : (c.setDataQ q x).stash = c.stash := rfl
@[simp] theorem Core.setDataQ_pins (c : Core) (q : Nat) (x : DataQ) : (c.setDataQ q x).pins = c.pins := rfl
@[simp] theorem Core.setDataQ_look (c : Core) (q : Nat) (x : DataQ) : (c.setDataQ q x).look = c.look := rfl
@[simp] theorem Core.setDataQ_mbx (c : Core) (q : Nat) (x : DataQ) : (c.setDataQ q x).mbx = c.mbx := rfl
@[simp] theorem Core.setDataQ_rem (c : Core) (q : Nat) (x : DataQ) : (c.setDataQ q x).rem = c.rem := rfl
@[simp] theorem Core.setDataQ_pre (c : Core) (q : Nat) (x : DataQ) : (c.setDataQ q x).pre = c.pre := rfl
@[simp] theorem Core.setDataQ_rcmt (c : Core) (q : Nat) (x : DataQ) : (c.setDataQ q x).rcmt = c.rcmt := rfl
@[simp] theorem Core.setDataQ_fence (c : Core) (q : Nat) (x : DataQ) : (c.setDataQ q x).fence = c.fence := rfl
@[simp] theorem Core.setDataQ_regs (c : Core) (q : Nat) (x : DataQ) : (c.setDataQ q x).regs = c.regs := rfl
@[simp] theorem Core.setDataQ_cnt (c : Core) (q : Nat) (x : DataQ) : (c.setDataQ q x).cnt = c.cnt := rfl
@[simp] theorem Core.setDataQ_poolLatch (c : Core) (q : Nat) (x : DataQ) : (c.setDataQ q x).poolLatch = c.poolLatch := rfl

@[simp] theorem Core.pushDq_seq (c : Core) (q : Nat) (l : List DqEnt) : (c.pushDq q l).seq = c.seq := rfl
@[simp] theorem Core.pushDq_cq (c : Core) (q : Nat) (l : List DqEnt) : (c.pushDq q l).cq = c.cq := rfl
@[simp] theorem Core.pushDq_hq (c : Core) (q : Nat) (l : List DqEnt) : (c.pushDq q l).hq = c.hq := rfl
@[simp] theorem Core.pushDq_bt (c : Core) (q : Nat) (l : List DqEnt) : (c.pushDq q l).bt = c.bt := rfl
@[simp] theorem Core.pushDq_pools (c : Core) (q : Nat) (l : List DqEnt) : (c.pushDq q l).pools = c.pools := rfl
@[simp] theorem Core.pushDq_sd (c : Core) (q : Nat) (l : List DqEnt) : (c.pushDq q l).sd = c.sd := rfl
@[simp] theorem Core.pushDq_ldAg (c : Core) (q : Nat) (l : List DqEnt) : (c.pushDq q l).ldAg = c.ldAg := rfl
@[simp] theorem Core.pushDq_wrAg (c : Core) (q : Nat) (l : List DqEnt) : (c.pushDq q l).wrAg = c.wrAg := rfl
@[simp] theorem Core.pushDq_vecAg (c : Core) (q : Nat) (l : List DqEnt) : (c.pushDq q l).vecAg = c.vecAg := rfl
@[simp] theorem Core.pushDq_engA (c : Core) (q : Nat) (l : List DqEnt) : (c.pushDq q l).engA = c.engA := rfl
@[simp] theorem Core.pushDq_engB (c : Core) (q : Nat) (l : List DqEnt) : (c.pushDq q l).engB = c.engB := rfl
@[simp] theorem Core.pushDq_sht (c : Core) (q : Nat) (l : List DqEnt) : (c.pushDq q l).sht = c.sht := rfl
@[simp] theorem Core.pushDq_drn (c : Core) (q : Nat) (l : List DqEnt) : (c.pushDq q l).drn = c.drn := rfl
@[simp] theorem Core.pushDq_vec (c : Core) (q : Nat) (l : List DqEnt) : (c.pushDq q l).vec = c.vec := rfl
@[simp] theorem Core.pushDq_upd (c : Core) (q : Nat) (l : List DqEnt) : (c.pushDq q l).upd = c.upd := rfl
@[simp] theorem Core.pushDq_inflight (c : Core) (q : Nat) (l : List DqEnt) : (c.pushDq q l).inflight = c.inflight := rfl
@[simp] theorem Core.pushDq_transit (c : Core) (q : Nat) (l : List DqEnt) : (c.pushDq q l).transit = c.transit := rfl
@[simp] theorem Core.pushDq_heldH (c : Core) (q : Nat) (l : List DqEnt) : (c.pushDq q l).heldH = c.heldH := rfl
@[simp] theorem Core.pushDq_dropH (c : Core) (q : Nat) (l : List DqEnt) : (c.pushDq q l).dropH = c.dropH := rfl
@[simp] theorem Core.pushDq_tags (c : Core) (q : Nat) (l : List DqEnt) : (c.pushDq q l).tags = c.tags := rfl
@[simp] theorem Core.pushDq_dmaQ (c : Core) (q : Nat) (l : List DqEnt) : (c.pushDq q l).dmaQ = c.dmaQ := rfl
@[simp] theorem Core.pushDq_stash (c : Core) (q : Nat) (l : List DqEnt) : (c.pushDq q l).stash = c.stash := rfl
@[simp] theorem Core.pushDq_pins (c : Core) (q : Nat) (l : List DqEnt) : (c.pushDq q l).pins = c.pins := rfl
@[simp] theorem Core.pushDq_look (c : Core) (q : Nat) (l : List DqEnt) : (c.pushDq q l).look = c.look := rfl
@[simp] theorem Core.pushDq_mbx (c : Core) (q : Nat) (l : List DqEnt) : (c.pushDq q l).mbx = c.mbx := rfl
@[simp] theorem Core.pushDq_rem (c : Core) (q : Nat) (l : List DqEnt) : (c.pushDq q l).rem = c.rem := rfl
@[simp] theorem Core.pushDq_pre (c : Core) (q : Nat) (l : List DqEnt) : (c.pushDq q l).pre = c.pre := rfl
@[simp] theorem Core.pushDq_rcmt (c : Core) (q : Nat) (l : List DqEnt) : (c.pushDq q l).rcmt = c.rcmt := rfl
@[simp] theorem Core.pushDq_fence (c : Core) (q : Nat) (l : List DqEnt) : (c.pushDq q l).fence = c.fence := rfl
@[simp] theorem Core.pushDq_regs (c : Core) (q : Nat) (l : List DqEnt) : (c.pushDq q l).regs = c.regs := rfl
@[simp] theorem Core.pushDq_cnt (c : Core) (q : Nat) (l : List DqEnt) : (c.pushDq q l).cnt = c.cnt := rfl
@[simp] theorem Core.pushDq_poolLatch (c : Core) (q : Nat) (l : List DqEnt) : (c.pushDq q l).poolLatch = c.poolLatch := rfl

@[simp] theorem Core.dropDq_seq (c : Core) (q n : Nat) : (c.dropDq q n).seq = c.seq := rfl
@[simp] theorem Core.dropDq_cq (c : Core) (q n : Nat) : (c.dropDq q n).cq = c.cq := rfl
@[simp] theorem Core.dropDq_hq (c : Core) (q n : Nat) : (c.dropDq q n).hq = c.hq := rfl
@[simp] theorem Core.dropDq_bt (c : Core) (q n : Nat) : (c.dropDq q n).bt = c.bt := rfl
@[simp] theorem Core.dropDq_pools (c : Core) (q n : Nat) : (c.dropDq q n).pools = c.pools := rfl
@[simp] theorem Core.dropDq_sd (c : Core) (q n : Nat) : (c.dropDq q n).sd = c.sd := rfl
@[simp] theorem Core.dropDq_ldAg (c : Core) (q n : Nat) : (c.dropDq q n).ldAg = c.ldAg := rfl
@[simp] theorem Core.dropDq_wrAg (c : Core) (q n : Nat) : (c.dropDq q n).wrAg = c.wrAg := rfl
@[simp] theorem Core.dropDq_vecAg (c : Core) (q n : Nat) : (c.dropDq q n).vecAg = c.vecAg := rfl
@[simp] theorem Core.dropDq_engA (c : Core) (q n : Nat) : (c.dropDq q n).engA = c.engA := rfl
@[simp] theorem Core.dropDq_engB (c : Core) (q n : Nat) : (c.dropDq q n).engB = c.engB := rfl
@[simp] theorem Core.dropDq_sht (c : Core) (q n : Nat) : (c.dropDq q n).sht = c.sht := rfl
@[simp] theorem Core.dropDq_drn (c : Core) (q n : Nat) : (c.dropDq q n).drn = c.drn := rfl
@[simp] theorem Core.dropDq_vec (c : Core) (q n : Nat) : (c.dropDq q n).vec = c.vec := rfl
@[simp] theorem Core.dropDq_upd (c : Core) (q n : Nat) : (c.dropDq q n).upd = c.upd := rfl
@[simp] theorem Core.dropDq_inflight (c : Core) (q n : Nat) : (c.dropDq q n).inflight = c.inflight := rfl
@[simp] theorem Core.dropDq_transit (c : Core) (q n : Nat) : (c.dropDq q n).transit = c.transit := rfl
@[simp] theorem Core.dropDq_heldH (c : Core) (q n : Nat) : (c.dropDq q n).heldH = c.heldH := rfl
@[simp] theorem Core.dropDq_dropH (c : Core) (q n : Nat) : (c.dropDq q n).dropH = c.dropH := rfl
@[simp] theorem Core.dropDq_tags (c : Core) (q n : Nat) : (c.dropDq q n).tags = c.tags := rfl
@[simp] theorem Core.dropDq_dmaQ (c : Core) (q n : Nat) : (c.dropDq q n).dmaQ = c.dmaQ := rfl
@[simp] theorem Core.dropDq_stash (c : Core) (q n : Nat) : (c.dropDq q n).stash = c.stash := rfl
@[simp] theorem Core.dropDq_pins (c : Core) (q n : Nat) : (c.dropDq q n).pins = c.pins := rfl
@[simp] theorem Core.dropDq_look (c : Core) (q n : Nat) : (c.dropDq q n).look = c.look := rfl
@[simp] theorem Core.dropDq_mbx (c : Core) (q n : Nat) : (c.dropDq q n).mbx = c.mbx := rfl
@[simp] theorem Core.dropDq_rem (c : Core) (q n : Nat) : (c.dropDq q n).rem = c.rem := rfl
@[simp] theorem Core.dropDq_pre (c : Core) (q n : Nat) : (c.dropDq q n).pre = c.pre := rfl
@[simp] theorem Core.dropDq_rcmt (c : Core) (q n : Nat) : (c.dropDq q n).rcmt = c.rcmt := rfl
@[simp] theorem Core.dropDq_fence (c : Core) (q n : Nat) : (c.dropDq q n).fence = c.fence := rfl
@[simp] theorem Core.dropDq_regs (c : Core) (q n : Nat) : (c.dropDq q n).regs = c.regs := rfl
@[simp] theorem Core.dropDq_cnt (c : Core) (q n : Nat) : (c.dropDq q n).cnt = c.cnt := rfl
@[simp] theorem Core.dropDq_poolLatch (c : Core) (q n : Nat) : (c.dropDq q n).poolLatch = c.poolLatch := rfl

@[simp] theorem Core.setHandleQ_seq (c : Core) (h : Nat) (x : HandleQ) : (c.setHandleQ h x).seq = c.seq := rfl
@[simp] theorem Core.setHandleQ_cq (c : Core) (h : Nat) (x : HandleQ) : (c.setHandleQ h x).cq = c.cq := rfl
@[simp] theorem Core.setHandleQ_dq (c : Core) (h : Nat) (x : HandleQ) : (c.setHandleQ h x).dq = c.dq := rfl
@[simp] theorem Core.setHandleQ_bt (c : Core) (h : Nat) (x : HandleQ) : (c.setHandleQ h x).bt = c.bt := rfl
@[simp] theorem Core.setHandleQ_pools (c : Core) (h : Nat) (x : HandleQ) : (c.setHandleQ h x).pools = c.pools := rfl
@[simp] theorem Core.setHandleQ_sd (c : Core) (h : Nat) (x : HandleQ) : (c.setHandleQ h x).sd = c.sd := rfl
@[simp] theorem Core.setHandleQ_ldAg (c : Core) (h : Nat) (x : HandleQ) : (c.setHandleQ h x).ldAg = c.ldAg := rfl
@[simp] theorem Core.setHandleQ_wrAg (c : Core) (h : Nat) (x : HandleQ) : (c.setHandleQ h x).wrAg = c.wrAg := rfl
@[simp] theorem Core.setHandleQ_vecAg (c : Core) (h : Nat) (x : HandleQ) : (c.setHandleQ h x).vecAg = c.vecAg := rfl
@[simp] theorem Core.setHandleQ_engA (c : Core) (h : Nat) (x : HandleQ) : (c.setHandleQ h x).engA = c.engA := rfl
@[simp] theorem Core.setHandleQ_engB (c : Core) (h : Nat) (x : HandleQ) : (c.setHandleQ h x).engB = c.engB := rfl
@[simp] theorem Core.setHandleQ_sht (c : Core) (h : Nat) (x : HandleQ) : (c.setHandleQ h x).sht = c.sht := rfl
@[simp] theorem Core.setHandleQ_drn (c : Core) (h : Nat) (x : HandleQ) : (c.setHandleQ h x).drn = c.drn := rfl
@[simp] theorem Core.setHandleQ_vec (c : Core) (h : Nat) (x : HandleQ) : (c.setHandleQ h x).vec = c.vec := rfl
@[simp] theorem Core.setHandleQ_upd (c : Core) (h : Nat) (x : HandleQ) : (c.setHandleQ h x).upd = c.upd := rfl
@[simp] theorem Core.setHandleQ_inflight (c : Core) (h : Nat) (x : HandleQ) : (c.setHandleQ h x).inflight = c.inflight := rfl
@[simp] theorem Core.setHandleQ_transit (c : Core) (h : Nat) (x : HandleQ) : (c.setHandleQ h x).transit = c.transit := rfl
@[simp] theorem Core.setHandleQ_heldH (c : Core) (h : Nat) (x : HandleQ) : (c.setHandleQ h x).heldH = c.heldH := rfl
@[simp] theorem Core.setHandleQ_dropH (c : Core) (h : Nat) (x : HandleQ) : (c.setHandleQ h x).dropH = c.dropH := rfl
@[simp] theorem Core.setHandleQ_tags (c : Core) (h : Nat) (x : HandleQ) : (c.setHandleQ h x).tags = c.tags := rfl
@[simp] theorem Core.setHandleQ_dmaQ (c : Core) (h : Nat) (x : HandleQ) : (c.setHandleQ h x).dmaQ = c.dmaQ := rfl
@[simp] theorem Core.setHandleQ_stash (c : Core) (h : Nat) (x : HandleQ) : (c.setHandleQ h x).stash = c.stash := rfl
@[simp] theorem Core.setHandleQ_pins (c : Core) (h : Nat) (x : HandleQ) : (c.setHandleQ h x).pins = c.pins := rfl
@[simp] theorem Core.setHandleQ_look (c : Core) (h : Nat) (x : HandleQ) : (c.setHandleQ h x).look = c.look := rfl
@[simp] theorem Core.setHandleQ_mbx (c : Core) (h : Nat) (x : HandleQ) : (c.setHandleQ h x).mbx = c.mbx := rfl
@[simp] theorem Core.setHandleQ_rem (c : Core) (h : Nat) (x : HandleQ) : (c.setHandleQ h x).rem = c.rem := rfl
@[simp] theorem Core.setHandleQ_pre (c : Core) (h : Nat) (x : HandleQ) : (c.setHandleQ h x).pre = c.pre := rfl
@[simp] theorem Core.setHandleQ_rcmt (c : Core) (h : Nat) (x : HandleQ) : (c.setHandleQ h x).rcmt = c.rcmt := rfl
@[simp] theorem Core.setHandleQ_fence (c : Core) (h : Nat) (x : HandleQ) : (c.setHandleQ h x).fence = c.fence := rfl
@[simp] theorem Core.setHandleQ_regs (c : Core) (h : Nat) (x : HandleQ) : (c.setHandleQ h x).regs = c.regs := rfl
@[simp] theorem Core.setHandleQ_cnt (c : Core) (h : Nat) (x : HandleQ) : (c.setHandleQ h x).cnt = c.cnt := rfl
@[simp] theorem Core.setHandleQ_poolLatch (c : Core) (h : Nat) (x : HandleQ) : (c.setHandleQ h x).poolLatch = c.poolLatch := rfl

@[simp] theorem Core.setBt_seq (c : Core) (i : Nat) (x : BtEnt) : (c.setBt i x).seq = c.seq := rfl
@[simp] theorem Core.setBt_cq (c : Core) (i : Nat) (x : BtEnt) : (c.setBt i x).cq = c.cq := rfl
@[simp] theorem Core.setBt_dq (c : Core) (i : Nat) (x : BtEnt) : (c.setBt i x).dq = c.dq := rfl
@[simp] theorem Core.setBt_hq (c : Core) (i : Nat) (x : BtEnt) : (c.setBt i x).hq = c.hq := rfl
@[simp] theorem Core.setBt_pools (c : Core) (i : Nat) (x : BtEnt) : (c.setBt i x).pools = c.pools := rfl
@[simp] theorem Core.setBt_sd (c : Core) (i : Nat) (x : BtEnt) : (c.setBt i x).sd = c.sd := rfl
@[simp] theorem Core.setBt_ldAg (c : Core) (i : Nat) (x : BtEnt) : (c.setBt i x).ldAg = c.ldAg := rfl
@[simp] theorem Core.setBt_wrAg (c : Core) (i : Nat) (x : BtEnt) : (c.setBt i x).wrAg = c.wrAg := rfl
@[simp] theorem Core.setBt_vecAg (c : Core) (i : Nat) (x : BtEnt) : (c.setBt i x).vecAg = c.vecAg := rfl
@[simp] theorem Core.setBt_engA (c : Core) (i : Nat) (x : BtEnt) : (c.setBt i x).engA = c.engA := rfl
@[simp] theorem Core.setBt_engB (c : Core) (i : Nat) (x : BtEnt) : (c.setBt i x).engB = c.engB := rfl
@[simp] theorem Core.setBt_sht (c : Core) (i : Nat) (x : BtEnt) : (c.setBt i x).sht = c.sht := rfl
@[simp] theorem Core.setBt_drn (c : Core) (i : Nat) (x : BtEnt) : (c.setBt i x).drn = c.drn := rfl
@[simp] theorem Core.setBt_vec (c : Core) (i : Nat) (x : BtEnt) : (c.setBt i x).vec = c.vec := rfl
@[simp] theorem Core.setBt_upd (c : Core) (i : Nat) (x : BtEnt) : (c.setBt i x).upd = c.upd := rfl
@[simp] theorem Core.setBt_inflight (c : Core) (i : Nat) (x : BtEnt) : (c.setBt i x).inflight = c.inflight := rfl
@[simp] theorem Core.setBt_transit (c : Core) (i : Nat) (x : BtEnt) : (c.setBt i x).transit = c.transit := rfl
@[simp] theorem Core.setBt_heldH (c : Core) (i : Nat) (x : BtEnt) : (c.setBt i x).heldH = c.heldH := rfl
@[simp] theorem Core.setBt_dropH (c : Core) (i : Nat) (x : BtEnt) : (c.setBt i x).dropH = c.dropH := rfl
@[simp] theorem Core.setBt_tags (c : Core) (i : Nat) (x : BtEnt) : (c.setBt i x).tags = c.tags := rfl
@[simp] theorem Core.setBt_dmaQ (c : Core) (i : Nat) (x : BtEnt) : (c.setBt i x).dmaQ = c.dmaQ := rfl
@[simp] theorem Core.setBt_stash (c : Core) (i : Nat) (x : BtEnt) : (c.setBt i x).stash = c.stash := rfl
@[simp] theorem Core.setBt_pins (c : Core) (i : Nat) (x : BtEnt) : (c.setBt i x).pins = c.pins := rfl
@[simp] theorem Core.setBt_look (c : Core) (i : Nat) (x : BtEnt) : (c.setBt i x).look = c.look := rfl
@[simp] theorem Core.setBt_mbx (c : Core) (i : Nat) (x : BtEnt) : (c.setBt i x).mbx = c.mbx := rfl
@[simp] theorem Core.setBt_rem (c : Core) (i : Nat) (x : BtEnt) : (c.setBt i x).rem = c.rem := rfl
@[simp] theorem Core.setBt_pre (c : Core) (i : Nat) (x : BtEnt) : (c.setBt i x).pre = c.pre := rfl
@[simp] theorem Core.setBt_rcmt (c : Core) (i : Nat) (x : BtEnt) : (c.setBt i x).rcmt = c.rcmt := rfl
@[simp] theorem Core.setBt_fence (c : Core) (i : Nat) (x : BtEnt) : (c.setBt i x).fence = c.fence := rfl
@[simp] theorem Core.setBt_regs (c : Core) (i : Nat) (x : BtEnt) : (c.setBt i x).regs = c.regs := rfl
@[simp] theorem Core.setBt_cnt (c : Core) (i : Nat) (x : BtEnt) : (c.setBt i x).cnt = c.cnt := rfl
@[simp] theorem Core.setBt_poolLatch (c : Core) (i : Nat) (x : BtEnt) : (c.setBt i x).poolLatch = c.poolLatch := rfl

/-! ### What an update writes -/

@[simp] theorem State.core_setCore_self (s : State) (p : Nat) (c : Core) : (s.setCore p c).core p = c := by
  simp [State.core, State.setCore]

theorem State.core_setCore_ne (s : State) {p q : Nat} (c : Core) (h : p ≠ q) : (s.setCore p c).core q = s.core q := by
  simp [State.core, State.setCore, aget_aset_ne _ _ _ h]

@[simp] theorem State.core_modCore_self (s : State) (p : Nat) (f : Core → Core) : (s.modCore p f).core p = f (s.core p) := by
  simp [State.modCore]

theorem State.core_modCore_ne (s : State) {p q : Nat} (f : Core → Core) (h : p ≠ q) : (s.modCore p f).core q = s.core q := by
  rw [State.modCore, State.core_setCore_ne _ _ h]

theorem State.core_congr {s t : State} (h : t.cores = s.cores) (p : Nat) : t.core p = s.core p := by
  rw [State.core, State.core, h]

@[simp] theorem State.core_emit (s : State) (e : OutEvent) (p : Nat) : (s.emit e).core p = s.core p := rfl
@[simp] theorem State.core_send (s : State) (f : Flight) (p : Nat) : (s.send f).core p = s.core p := rfl
@[simp] theorem State.core_bump (s : State) (o n p : Nat) : (s.bump o n).core p = s.core p := rfl
@[simp] theorem State.core_setIrq (s : State) (i : Nat) (x : IrqSrc) (p : Nat) : (s.setIrq i x).core p = s.core p := rfl
@[simp] theorem State.mesh_send (s : State) (f : Flight) : (s.send f).mesh = s.mesh ++ [f] := rfl
@[simp] theorem State.out_emit (s : State) (e : OutEvent) : (s.emit e).out = s.out ++ [e] := rfl
@[simp] theorem State.irqSrc_setIrq_self (s : State) (i : Nat) (x : IrqSrc) : (s.setIrq i x).irqSrc i = x := by
  simp [State.irqSrc, State.setIrq]
theorem State.irqSrc_setIrq_ne (s : State) {i j : Nat} (x : IrqSrc) (h : i ≠ j) : (s.setIrq i x).irqSrc j = s.irqSrc j := by
  simp [State.irqSrc, State.setIrq, aget_aset_ne _ _ _ h]
@[simp] theorem State.phys_setCore (s : State) (p : Nat) (c : Core) (l : Nat) : (s.setCore p c).phys l = s.phys l := rfl

@[simp] theorem Core.seq_modSeq (c : Core) (f : Sequencer → Sequencer) : (c.modSeq f).seq = f c.seq := rfl
@[simp] theorem Core.words_setWords_self (c : Core) (q : Nat) (l : List Cqe) : (c.setWords q l).words q = l := by
  simp [Core.words, Core.setWords]
theorem Core.words_setWords_ne (c : Core) {q r : Nat} (l : List Cqe) (h : q ≠ r) : (c.setWords q l).words r = c.words r := by
  simp [Core.words, Core.setWords, aget_aset_ne _ _ _ h]
@[simp] theorem Core.dataQ_setDataQ_self (c : Core) (q : Nat) (x : DataQ) : (c.setDataQ q x).dataQ q = x := by
  simp [Core.dataQ, Core.setDataQ]
theorem Core.dataQ_setDataQ_ne (c : Core) {q r : Nat} (x : DataQ) (h : q ≠ r) : (c.setDataQ q x).dataQ r = c.dataQ r := by
  simp [Core.dataQ, Core.setDataQ, aget_aset_ne _ _ _ h]
@[simp] theorem Core.handleQ_setHandleQ_self (c : Core) (q : Nat) (x : HandleQ) : (c.setHandleQ q x).handleQ q = x := by
  simp [Core.handleQ, Core.setHandleQ]
theorem Core.handleQ_setHandleQ_ne (c : Core) {q r : Nat} (x : HandleQ) (h : q ≠ r) : (c.setHandleQ q x).handleQ r = c.handleQ r := by
  simp [Core.handleQ, Core.setHandleQ, aget_aset_ne _ _ _ h]
@[simp] theorem Core.bar_setBar_self (c : Core) (b : Nat) (x : Barrier) : (c.setBar b x).bar b = x := by
  simp [Core.bar, Core.setBar]
theorem Core.bar_setBar_ne (c : Core) {b d : Nat} (x : Barrier) (h : b ≠ d) : (c.setBar b x).bar d = c.bar d := by
  simp [Core.bar, Core.setBar, aget_aset_ne _ _ _ h]
@[simp] theorem Core.count_bump_self (c : Core) (o n : Nat) : (c.bump o n).count o = (c.count o + n) % 2 ^ 32 := by
  simp [Core.count, Core.bump, BitVec.toNat_add]
theorem Core.count_bump_ne (c : Core) {o o' : Nat} (n : Nat) (h : o ≠ o') : (c.bump o n).count o' = c.count o' := by
  simp [Core.count, Core.bump, aget_aset_ne _ _ _ h]
@[simp] theorem Core.eng_setEng_self (c : Core) (e : Nat) (x : Engine) : (c.setEng e x).eng e = x := by
  unfold Core.setEng Core.eng
  split <;> rfl

/-- A pushed queue holds its entries and then the new ones; a dropped one loses its first. -/
@[simp] theorem Core.dataQ_pushDq_self (c : Core) (q : Nat) (l : List DqEnt) :
    (c.pushDq q l).dataQ q = { c.dataQ q with ents := (c.dataQ q).ents ++ l } := by
  simp [Core.pushDq]
@[simp] theorem Core.dataQ_dropDq_self (c : Core) (q n : Nat) : (c.dropDq q n).dataQ q = { c.dataQ q with ents := (c.dataQ q).ents.drop n } := by
  simp [Core.dropDq]

end Sys2Proof.Machine
end

