-- ==== Sys2Proof/Laws/Irq.lean ====
section
/-! SUPPORT. What driving an interrupt source changes: the sources, the pending bits of MSI-X, the traps delivered and what is sent out. -/

namespace Sys2Proof.Machine

theorem State.IrqOnly.refl (s : State) : s.IrqOnly s := rfl

theorem State.IrqOnly.trans {s t u : State} (h : s.IrqOnly t) (k : t.IrqOnly u) : s.IrqOnly u := by
  unfold State.IrqOnly at *
  rw [k, h]

theorem State.irqOnly_setIrq (s : State) (i : Nat) (x : IrqSrc) : s.IrqOnly (s.setIrq i x) := rfl

theorem State.irqOnly_emit (s : State) (e : OutEvent) : s.IrqOnly (s.emit e) := rfl

theorem State.irqOnly_msix (s : State) (v : Nat) : s.IrqOnly (s.msix v) := by
  unfold State.msix
  split <;> rfl

theorem State.irqOnly_deliver (s : State) : s.IrqOnly s.irqDeliver := by
  unfold State.irqDeliver
  refine foldl_inv (fun t => s.IrqOnly t) _ ?_ _ _ (State.IrqOnly.refl s)
  intro t c h
  refine State.IrqOnly.trans h ?_
  split
  · rfl
  · split <;> rfl

theorem State.irqOnly_pend (s : State) (i : Nat) : s.IrqOnly (s.irqPend i) := by
  unfold State.irqPend
  simp only
  split
  · exact ((State.irqOnly_setIrq _ _ _).trans (State.irqOnly_msix _ _)).trans (State.irqOnly_deliver _)
  · exact (State.irqOnly_setIrq _ _ _).trans (State.irqOnly_deliver _)

theorem State.irqOnly_event (s : State) (i : Nat) : s.IrqOnly (s.irqEvent i) := by
  unfold State.irqEvent
  simp only
  split
  · exact State.irqOnly_setIrq _ _ _
  · split
    · exact State.irqOnly_setIrq _ _ _
    · exact (State.irqOnly_setIrq _ _ _).trans (State.irqOnly_pend _ _)

theorem State.irqOnly_level (s : State) (i : Nat) (b : Bool) : s.IrqOnly (s.level i b) := by
  unfold State.level
  simp only
  split
  · exact State.IrqOnly.refl s
  · split
    · exact State.irqOnly_setIrq _ _ _
    · split
      · exact (State.irqOnly_setIrq _ _ _).trans (State.irqOnly_event _ _)
      · exact ((State.irqOnly_setIrq _ _ _).trans (State.irqOnly_setIrq _ _ _)).trans (State.irqOnly_deliver _)
      · split
        · exact (State.irqOnly_setIrq _ _ _).trans (State.irqOnly_event _ _)
        · exact State.irqOnly_setIrq _ _ _

theorem State.irqOnly_pulse (s : State) (i : Nat) : s.IrqOnly (s.pulse i) :=
  (State.irqOnly_level _ _ _).trans (State.irqOnly_level _ _ _)

theorem State.irqOnly_irqCore (s : State) (p : Nat) : s.IrqOnly (s.irqCore p) := by
  unfold State.irqCore
  split
  · exact State.irqOnly_level _ _ _
  · exact State.IrqOnly.refl s

/-- Driving a source reads back as its raw level (R404). -/
theorem State.IrqOnly.core {s t : State} (h : s.IrqOnly t) (p : Nat) : t.core p = s.core p := by
  unfold State.IrqOnly at h
  rw [h]
  rfl

theorem State.IrqOnly.t0 {s t : State} (h : s.IrqOnly t) : t.t0 = s.t0 := by
  unfold State.IrqOnly at h
  rw [h]
theorem State.IrqOnly.slice {s t : State} (h : s.IrqOnly t) : t.slice = s.slice := by
  unfold State.IrqOnly at h
  rw [h]
theorem State.IrqOnly.tier {s t : State} (h : s.IrqOnly t) : t.tier = s.tier := by
  unfold State.IrqOnly at h
  rw [h]
theorem State.IrqOnly.flash {s t : State} (h : s.IrqOnly t) : t.flash = s.flash := by
  unfold State.IrqOnly at h
  rw [h]
theorem State.IrqOnly.t0Pz {s t : State} (h : s.IrqOnly t) : t.t0Pz = s.t0Pz := by
  unfold State.IrqOnly at h
  rw [h]
theorem State.IrqOnly.slicePz {s t : State} (h : s.IrqOnly t) : t.slicePz = s.slicePz := by
  unfold State.IrqOnly at h
  rw [h]
theorem State.IrqOnly.tierPz {s t : State} (h : s.IrqOnly t) : t.tierPz = s.tierPz := by
  unfold State.IrqOnly at h
  rw [h]
theorem State.IrqOnly.grade {s t : State} (h : s.IrqOnly t) : t.grade = s.grade := by
  unfold State.IrqOnly at h
  rw [h]
theorem State.IrqOnly.fused {s t : State} (h : s.IrqOnly t) : t.fused = s.fused := by
  unfold State.IrqOnly at h
  rw [h]
theorem State.IrqOnly.lmap {s t : State} (h : s.IrqOnly t) : t.lmap = s.lmap := by
  unfold State.IrqOnly at h
  rw [h]
theorem State.IrqOnly.ncores {s t : State} (h : s.IrqOnly t) : t.ncores = s.ncores := by
  unfold State.IrqOnly at h
  rw [h]
theorem State.IrqOnly.spares {s t : State} (h : s.IrqOnly t) : t.spares = s.spares := by
  unfold State.IrqOnly at h
  rw [h]
theorem State.IrqOnly.fences {s t : State} (h : s.IrqOnly t) : t.fences = s.fences := by
  unfold State.IrqOnly at h
  rw [h]
theorem State.IrqOnly.lport {s t : State} (h : s.IrqOnly t) : t.lport = s.lport := by
  unfold State.IrqOnly at h
  rw [h]
theorem State.IrqOnly.lchan {s t : State} (h : s.IrqOnly t) : t.lchan = s.lchan := by
  unfold State.IrqOnly at h
  rw [h]
theorem State.IrqOnly.lcodec {s t : State} (h : s.IrqOnly t) : t.lcodec = s.lcodec := by
  unfold State.IrqOnly at h
  rw [h]
theorem State.IrqOnly.cores {s t : State} (h : s.IrqOnly t) : t.cores = s.cores := by
  unfold State.IrqOnly at h
  rw [h]
theorem State.IrqOnly.clusters {s t : State} (h : s.IrqOnly t) : t.clusters = s.clusters := by
  unfold State.IrqOnly at h
  rw [h]
theorem State.IrqOnly.mesh {s t : State} (h : s.IrqOnly t) : t.mesh = s.mesh := by
  unfold State.IrqOnly at h
  rw [h]
theorem State.IrqOnly.obj {s t : State} (h : s.IrqOnly t) : t.obj = s.obj := by
  unfold State.IrqOnly at h
  rw [h]
theorem State.IrqOnly.sm {s t : State} (h : s.IrqOnly t) : t.sm = s.sm := by
  unfold State.IrqOnly at h
  rw [h]
theorem State.IrqOnly.regs {s t : State} (h : s.IrqOnly t) : t.regs = s.regs := by
  unfold State.IrqOnly at h
  rw [h]
theorem State.IrqOnly.cnt {s t : State} (h : s.IrqOnly t) : t.cnt = s.cnt := by
  unfold State.IrqOnly at h
  rw [h]
theorem State.IrqOnly.rneUsed {s t : State} (h : s.IrqOnly t) : t.rneUsed = s.rneUsed := by
  unfold State.IrqOnly at h
  rw [h]
theorem State.IrqOnly.epoch {s t : State} (h : s.IrqOnly t) : t.epoch = s.epoch := by
  unfold State.IrqOnly at h
  rw [h]
theorem State.IrqOnly.sealed_ {s t : State} (h : s.IrqOnly t) : t.sealed_ = s.sealed_ := by
  unfold State.IrqOnly at h
  rw [h]
theorem State.IrqOnly.bar2 {s t : State} (h : s.IrqOnly t) : t.bar2 = s.bar2 := by
  unfold State.IrqOnly at h
  rw [h]
theorem State.IrqOnly.msixMask {s t : State} (h : s.IrqOnly t) : t.msixMask = s.msixMask := by
  unfold State.IrqOnly at h
  rw [h]
theorem State.IrqOnly.t3Key {s t : State} (h : s.IrqOnly t) : t.t3Key = s.t3Key := by
  unfold State.IrqOnly at h
  rw [h]
theorem State.IrqOnly.frames {s t : State} (h : s.IrqOnly t) : t.frames = s.frames := by
  unfold State.IrqOnly at h
  rw [h]
theorem State.IrqOnly.fl {s t : State} (h : s.IrqOnly t) : t.fl = s.fl := by
  unfold State.IrqOnly at h
  rw [h]
theorem State.IrqOnly.flashQ {s t : State} (h : s.IrqOnly t) : t.flashQ = s.flashQ := by
  unfold State.IrqOnly at h
  rw [h]
theorem State.IrqOnly.flashBusy {s t : State} (h : s.IrqOnly t) : t.flashBusy = s.flashBusy := by
  unfold State.IrqOnly at h
  rw [h]
theorem State.IrqOnly.huMv {s t : State} (h : s.IrqOnly t) : t.huMv = s.huMv := by
  unfold State.IrqOnly at h
  rw [h]
theorem State.IrqOnly.pwrfail {s t : State} (h : s.IrqOnly t) : t.pwrfail = s.pwrfail := by
  unfold State.IrqOnly at h
  rw [h]
theorem State.IrqOnly.ports {s t : State} (h : s.IrqOnly t) : t.ports = s.ports := by
  unfold State.IrqOnly at h
  rw [h]
theorem State.IrqOnly.mcs {s t : State} (h : s.IrqOnly t) : t.mcs = s.mcs := by
  unfold State.IrqOnly at h
  rw [h]
theorem State.IrqOnly.linkHeld {s t : State} (h : s.IrqOnly t) : t.linkHeld = s.linkHeld := by
  unfold State.IrqOnly at h
  rw [h]
theorem State.IrqOnly.repoch {s t : State} (h : s.IrqOnly t) : t.repoch = s.repoch := by
  unfold State.IrqOnly at h
  rw [h]
theorem State.IrqOnly.colls {s t : State} (h : s.IrqOnly t) : t.colls = s.colls := by
  unfold State.IrqOnly at h
  rw [h]
theorem State.IrqOnly.dstat {s t : State} (h : s.IrqOnly t) : t.dstat = s.dstat := by
  unfold State.IrqOnly at h
  rw [h]
theorem State.IrqOnly.collHeld {s t : State} (h : s.IrqOnly t) : t.collHeld = s.collHeld := by
  unfold State.IrqOnly at h
  rw [h]
theorem State.IrqOnly.staged {s t : State} (h : s.IrqOnly t) : t.staged = s.staged := by
  unfold State.IrqOnly at h
  rw [h]
theorem State.IrqOnly.cfg {s t : State} (h : s.IrqOnly t) : t.cfg = s.cfg := by
  unfold State.IrqOnly at h
  rw [h]
theorem State.IrqOnly.flip {s t : State} (h : s.IrqOnly t) : t.flip = s.flip := by
  unfold State.IrqOnly at h
  rw [h]
theorem State.IrqOnly.twopc {s t : State} (h : s.IrqOnly t) : t.twopc = s.twopc := by
  unfold State.IrqOnly at h
  rw [h]
theorem State.IrqOnly.rings {s t : State} (h : s.IrqOnly t) : t.rings = s.rings := by
  unfold State.IrqOnly at h
  rw [h]
theorem State.IrqOnly.hwin {s t : State} (h : s.IrqOnly t) : t.hwin = s.hwin := by
  unfold State.IrqOnly at h
  rw [h]
theorem State.IrqOnly.rcepoch {s t : State} (h : s.IrqOnly t) : t.rcepoch = s.rcepoch := by
  unfold State.IrqOnly at h
  rw [h]
theorem State.IrqOnly.pw {s t : State} (h : s.IrqOnly t) : t.pw = s.pw := by
  unfold State.IrqOnly at h
  rw [h]
theorem State.IrqOnly.rstLast {s t : State} (h : s.IrqOnly t) : t.rstLast = s.rstLast := by
  unfold State.IrqOnly at h
  rw [h]
theorem State.IrqOnly.coreRst {s t : State} (h : s.IrqOnly t) : t.coreRst = s.coreRst := by
  unfold State.IrqOnly at h
  rw [h]
theorem State.IrqOnly.rstStat {s t : State} (h : s.IrqOnly t) : t.rstStat = s.rstStat := by
  unfold State.IrqOnly at h
  rw [h]
theorem State.IrqOnly.powered {s t : State} (h : s.IrqOnly t) : t.powered = s.powered := by
  unfold State.IrqOnly at h
  rw [h]
theorem State.IrqOnly.lost {s t : State} (h : s.IrqOnly t) : t.lost = s.lost := by
  unfold State.IrqOnly at h
  rw [h]
theorem State.IrqOnly.linkUp {s t : State} (h : s.IrqOnly t) : t.linkUp = s.linkUp := by
  unfold State.IrqOnly at h
  rw [h]
theorem State.IrqOnly.sec {s t : State} (h : s.IrqOnly t) : t.sec = s.sec := by
  unfold State.IrqOnly at h
  rw [h]
theorem State.IrqOnly.sram {s t : State} (h : s.IrqOnly t) : t.sram = s.sram := by
  unfold State.IrqOnly at h
  rw [h]
theorem State.IrqOnly.smbus {s t : State} (h : s.IrqOnly t) : t.smbus = s.smbus := by
  unfold State.IrqOnly at h
  rw [h]
theorem State.IrqOnly.i3c {s t : State} (h : s.IrqOnly t) : t.i3c = s.i3c := by
  unfold State.IrqOnly at h
  rw [h]
theorem State.IrqOnly.jtag {s t : State} (h : s.IrqOnly t) : t.jtag = s.jtag := by
  unfold State.IrqOnly at h
  rw [h]
theorem State.IrqOnly.bsr {s t : State} (h : s.IrqOnly t) : t.bsr = s.bsr := by
  unfold State.IrqOnly at h
  rw [h]
theorem State.IrqOnly.fresh {s t : State} (h : s.IrqOnly t) : t.fresh = s.fresh := by
  unfold State.IrqOnly at h
  rw [h]
theorem State.IrqOnly.pending {s t : State} (h : s.IrqOnly t) : t.pending = s.pending := by
  unfold State.IrqOnly at h
  rw [h]

@[simp] theorem State.level_t0 (s : State) (i : Nat) (b : Bool) : (s.level i b).t0 = s.t0 := (State.irqOnly_level s i b).t0
@[simp] theorem State.level_slice (s : State) (i : Nat) (b : Bool) : (s.level i b).slice = s.slice := (State.irqOnly_level s i b).slice
@[simp] theorem State.level_tier (s : State) (i : Nat) (b : Bool) : (s.level i b).tier = s.tier := (State.irqOnly_level s i b).tier
@[simp] theorem State.level_flash (s : State) (i : Nat) (b : Bool) : (s.level i b).flash = s.flash := (State.irqOnly_level s i b).flash
@[simp] theorem State.level_t0Pz (s : State) (i : Nat) (b : Bool) : (s.level i b).t0Pz = s.t0Pz := (State.irqOnly_level s i b).t0Pz
@[simp] theorem State.level_slicePz (s : State) (i : Nat) (b : Bool) : (s.level i b).slicePz = s.slicePz := (State.irqOnly_level s i b).slicePz
@[simp] theorem State.level_tierPz (s : State) (i : Nat) (b : Bool) : (s.level i b).tierPz = s.tierPz := (State.irqOnly_level s i b).tierPz
@[simp] theorem State.level_grade (s : State) (i : Nat) (b : Bool) : (s.level i b).grade = s.grade := (State.irqOnly_level s i b).grade
@[simp] theorem State.level_fused (s : State) (i : Nat) (b : Bool) : (s.level i b).fused = s.fused := (State.irqOnly_level s i b).fused
@[simp] theorem State.level_lmap (s : State) (i : Nat) (b : Bool) : (s.level i b).lmap = s.lmap := (State.irqOnly_level s i b).lmap
@[simp] theorem State.level_ncores (s : State) (i : Nat) (b : Bool) : (s.level i b).ncores = s.ncores := (State.irqOnly_level s i b).ncores
@[simp] theorem State.level_spares (s : State) (i : Nat) (b : Bool) : (s.level i b).spares = s.spares := (State.irqOnly_level s i b).spares
@[simp] theorem State.level_fences (s : State) (i : Nat) (b : Bool) : (s.level i b).fences = s.fences := (State.irqOnly_level s i b).fences
@[simp] theorem State.level_lport (s : State) (i : Nat) (b : Bool) : (s.level i b).lport = s.lport := (State.irqOnly_level s i b).lport
@[simp] theorem State.level_lchan (s : State) (i : Nat) (b : Bool) : (s.level i b).lchan = s.lchan := (State.irqOnly_level s i b).lchan
@[simp] theorem State.level_lcodec (s : State) (i : Nat) (b : Bool) : (s.level i b).lcodec = s.lcodec := (State.irqOnly_level s i b).lcodec
@[simp] theorem State.level_cores (s : State) (i : Nat) (b : Bool) : (s.level i b).cores = s.cores := (State.irqOnly_level s i b).cores
@[simp] theorem State.level_clusters (s : State) (i : Nat) (b : Bool) : (s.level i b).clusters = s.clusters := (State.irqOnly_level s i b).clusters
@[simp] theorem State.level_mesh (s : State) (i : Nat) (b : Bool) : (s.level i b).mesh = s.mesh := (State.irqOnly_level s i b).mesh
@[simp] theorem State.level_obj (s : State) (i : Nat) (b : Bool) : (s.level i b).obj = s.obj := (State.irqOnly_level s i b).obj
@[simp] theorem State.level_sm (s : State) (i : Nat) (b : Bool) : (s.level i b).sm = s.sm := (State.irqOnly_level s i b).sm
@[simp] theorem State.level_regs (s : State) (i : Nat) (b : Bool) : (s.level i b).regs = s.regs := (State.irqOnly_level s i b).regs
@[simp] theorem State.level_cnt (s : State) (i : Nat) (b : Bool) : (s.level i b).cnt = s.cnt := (State.irqOnly_level s i b).cnt
@[simp] theorem State.level_rneUsed (s : State) (i : Nat) (b : Bool) : (s.level i b).rneUsed = s.rneUsed := (State.irqOnly_level s i b).rneUsed
@[simp] theorem State.level_epoch (s : State) (i : Nat) (b : Bool) : (s.level i b).epoch = s.epoch := (State.irqOnly_level s i b).epoch
@[simp] theorem State.level_sealed_ (s : State) (i : Nat) (b : Bool) : (s.level i b).sealed_ = s.sealed_ := (State.irqOnly_level s i b).sealed_
@[simp] theorem State.level_bar2 (s : State) (i : Nat) (b : Bool) : (s.level i b).bar2 = s.bar2 := (State.irqOnly_level s i b).bar2
@[simp] theorem State.level_msixMask (s : State) (i : Nat) (b : Bool) : (s.level i b).msixMask = s.msixMask := (State.irqOnly_level s i b).msixMask
@[simp] theorem State.level_t3Key (s : State) (i : Nat) (b : Bool) : (s.level i b).t3Key = s.t3Key := (State.irqOnly_level s i b).t3Key
@[simp] theorem State.level_frames (s : State) (i : Nat) (b : Bool) : (s.level i b).frames = s.frames := (State.irqOnly_level s i b).frames
@[simp] theorem State.level_fl (s : State) (i : Nat) (b : Bool) : (s.level i b).fl = s.fl := (State.irqOnly_level s i b).fl
@[simp] theorem State.level_flashQ (s : State) (i : Nat) (b : Bool) : (s.level i b).flashQ = s.flashQ := (State.irqOnly_level s i b).flashQ
@[simp] theorem State.level_flashBusy (s : State) (i : Nat) (b : Bool) : (s.level i b).flashBusy = s.flashBusy := (State.irqOnly_level s i b).flashBusy
@[simp] theorem State.level_huMv (s : State) (i : Nat) (b : Bool) : (s.level i b).huMv = s.huMv := (State.irqOnly_level s i b).huMv
@[simp] theorem State.level_pwrfail (s : State) (i : Nat) (b : Bool) : (s.level i b).pwrfail = s.pwrfail := (State.irqOnly_level s i b).pwrfail
@[simp] theorem State.level_ports (s : State) (i : Nat) (b : Bool) : (s.level i b).ports = s.ports := (State.irqOnly_level s i b).ports
@[simp] theorem State.level_mcs (s : State) (i : Nat) (b : Bool) : (s.level i b).mcs = s.mcs := (State.irqOnly_level s i b).mcs
@[simp] theorem State.level_linkHeld (s : State) (i : Nat) (b : Bool) : (s.level i b).linkHeld = s.linkHeld := (State.irqOnly_level s i b).linkHeld
@[simp] theorem State.level_repoch (s : State) (i : Nat) (b : Bool) : (s.level i b).repoch = s.repoch := (State.irqOnly_level s i b).repoch
@[simp] theorem State.level_colls (s : State) (i : Nat) (b : Bool) : (s.level i b).colls = s.colls := (State.irqOnly_level s i b).colls
@[simp] theorem State.level_dstat (s : State) (i : Nat) (b : Bool) : (s.level i b).dstat = s.dstat := (State.irqOnly_level s i b).dstat
@[simp] theorem State.level_collHeld (s : State) (i : Nat) (b : Bool) : (s.level i b).collHeld = s.collHeld := (State.irqOnly_level s i b).collHeld
@[simp] theorem State.level_staged (s : State) (i : Nat) (b : Bool) : (s.level i b).staged = s.staged := (State.irqOnly_level s i b).staged
@[simp] theorem State.level_cfg (s : State) (i : Nat) (b : Bool) : (s.level i b).cfg = s.cfg := (State.irqOnly_level s i b).cfg
@[simp] theorem State.level_flip (s : State) (i : Nat) (b : Bool) : (s.level i b).flip = s.flip := (State.irqOnly_level s i b).flip
@[simp] theorem State.level_twopc (s : State) (i : Nat) (b : Bool) : (s.level i b).twopc = s.twopc := (State.irqOnly_level s i b).twopc
@[simp] theorem State.level_rings (s : State) (i : Nat) (b : Bool) : (s.level i b).rings = s.rings := (State.irqOnly_level s i b).rings
@[simp] theorem State.level_hwin (s : State) (i : Nat) (b : Bool) : (s.level i b).hwin = s.hwin := (State.irqOnly_level s i b).hwin
@[simp] theorem State.level_rcepoch (s : State) (i : Nat) (b : Bool) : (s.level i b).rcepoch = s.rcepoch := (State.irqOnly_level s i b).rcepoch
@[simp] theorem State.level_pw (s : State) (i : Nat) (b : Bool) : (s.level i b).pw = s.pw := (State.irqOnly_level s i b).pw
@[simp] theorem State.level_rstLast (s : State) (i : Nat) (b : Bool) : (s.level i b).rstLast = s.rstLast := (State.irqOnly_level s i b).rstLast
@[simp] theorem State.level_coreRst (s : State) (i : Nat) (b : Bool) : (s.level i b).coreRst = s.coreRst := (State.irqOnly_level s i b).coreRst
@[simp] theorem State.level_rstStat (s : State) (i : Nat) (b : Bool) : (s.level i b).rstStat = s.rstStat := (State.irqOnly_level s i b).rstStat
@[simp] theorem State.level_powered (s : State) (i : Nat) (b : Bool) : (s.level i b).powered = s.powered := (State.irqOnly_level s i b).powered
@[simp] theorem State.level_lost (s : State) (i : Nat) (b : Bool) : (s.level i b).lost = s.lost := (State.irqOnly_level s i b).lost
@[simp] theorem State.level_linkUp (s : State) (i : Nat) (b : Bool) : (s.level i b).linkUp = s.linkUp := (State.irqOnly_level s i b).linkUp
@[simp] theorem State.level_sec (s : State) (i : Nat) (b : Bool) : (s.level i b).sec = s.sec := (State.irqOnly_level s i b).sec
@[simp] theorem State.level_sram (s : State) (i : Nat) (b : Bool) : (s.level i b).sram = s.sram := (State.irqOnly_level s i b).sram
@[simp] theorem State.level_smbus (s : State) (i : Nat) (b : Bool) : (s.level i b).smbus = s.smbus := (State.irqOnly_level s i b).smbus
@[simp] theorem State.level_i3c (s : State) (i : Nat) (b : Bool) : (s.level i b).i3c = s.i3c := (State.irqOnly_level s i b).i3c
@[simp] theorem State.level_jtag (s : State) (i : Nat) (b : Bool) : (s.level i b).jtag = s.jtag := (State.irqOnly_level s i b).jtag
@[simp] theorem State.level_bsr (s : State) (i : Nat) (b : Bool) : (s.level i b).bsr = s.bsr := (State.irqOnly_level s i b).bsr
@[simp] theorem State.level_fresh (s : State) (i : Nat) (b : Bool) : (s.level i b).fresh = s.fresh := (State.irqOnly_level s i b).fresh
@[simp] theorem State.level_pending (s : State) (i : Nat) (b : Bool) : (s.level i b).pending = s.pending := (State.irqOnly_level s i b).pending
@[simp] theorem State.core_level (s : State) (i : Nat) (b : Bool) (q : Nat) : (s.level i b).core q = s.core q := (State.irqOnly_level s i b).core q

@[simp] theorem State.pulse_t0 (s : State) (i : Nat) : (s.pulse i).t0 = s.t0 := (State.irqOnly_pulse s i).t0
@[simp] theorem State.pulse_slice (s : State) (i : Nat) : (s.pulse i).slice = s.slice := (State.irqOnly_pulse s i).slice
@[simp] theorem State.pulse_tier (s : State) (i : Nat) : (s.pulse i).tier = s.tier := (State.irqOnly_pulse s i).tier
@[simp] theorem State.pulse_flash (s : State) (i : Nat) : (s.pulse i).flash = s.flash := (State.irqOnly_pulse s i).flash
@[simp] theorem State.pulse_t0Pz (s : State) (i : Nat) : (s.pulse i).t0Pz = s.t0Pz := (State.irqOnly_pulse s i).t0Pz
@[simp] theorem State.pulse_slicePz (s : State) (i : Nat) : (s.pulse i).slicePz = s.slicePz := (State.irqOnly_pulse s i).slicePz
@[simp] theorem State.pulse_tierPz (s : State) (i : Nat) : (s.pulse i).tierPz = s.tierPz := (State.irqOnly_pulse s i).tierPz
@[simp] theorem State.pulse_grade (s : State) (i : Nat) : (s.pulse i).grade = s.grade := (State.irqOnly_pulse s i).grade
@[simp] theorem State.pulse_fused (s : State) (i : Nat) : (s.pulse i).fused = s.fused := (State.irqOnly_pulse s i).fused
@[simp] theorem State.pulse_lmap (s : State) (i : Nat) : (s.pulse i).lmap = s.lmap := (State.irqOnly_pulse s i).lmap
@[simp] theorem State.pulse_ncores (s : State) (i : Nat) : (s.pulse i).ncores = s.ncores := (State.irqOnly_pulse s i).ncores
@[simp] theorem State.pulse_spares (s : State) (i : Nat) : (s.pulse i).spares = s.spares := (State.irqOnly_pulse s i).spares
@[simp] theorem State.pulse_fences (s : State) (i : Nat) : (s.pulse i).fences = s.fences := (State.irqOnly_pulse s i).fences
@[simp] theorem State.pulse_lport (s : State) (i : Nat) : (s.pulse i).lport = s.lport := (State.irqOnly_pulse s i).lport
@[simp] theorem State.pulse_lchan (s : State) (i : Nat) : (s.pulse i).lchan = s.lchan := (State.irqOnly_pulse s i).lchan
@[simp] theorem State.pulse_lcodec (s : State) (i : Nat) : (s.pulse i).lcodec = s.lcodec := (State.irqOnly_pulse s i).lcodec
@[simp] theorem State.pulse_cores (s : State) (i : Nat) : (s.pulse i).cores = s.cores := (State.irqOnly_pulse s i).cores
@[simp] theorem State.pulse_clusters (s : State) (i : Nat) : (s.pulse i).clusters = s.clusters := (State.irqOnly_pulse s i).clusters
@[simp] theorem State.pulse_mesh (s : State) (i : Nat) : (s.pulse i).mesh = s.mesh := (State.irqOnly_pulse s i).mesh
@[simp] theorem State.pulse_obj (s : State) (i : Nat) : (s.pulse i).obj = s.obj := (State.irqOnly_pulse s i).obj
@[simp] theorem State.pulse_sm (s : State) (i : Nat) : (s.pulse i).sm = s.sm := (State.irqOnly_pulse s i).sm
@[simp] theorem State.pulse_regs (s : State) (i : Nat) : (s.pulse i).regs = s.regs := (State.irqOnly_pulse s i).regs
@[simp] theorem State.pulse_cnt (s : State) (i : Nat) : (s.pulse i).cnt = s.cnt := (State.irqOnly_pulse s i).cnt
@[simp] theorem State.pulse_rneUsed (s : State) (i : Nat) : (s.pulse i).rneUsed = s.rneUsed := (State.irqOnly_pulse s i).rneUsed
@[simp] theorem State.pulse_epoch (s : State) (i : Nat) : (s.pulse i).epoch = s.epoch := (State.irqOnly_pulse s i).epoch
@[simp] theorem State.pulse_sealed_ (s : State) (i : Nat) : (s.pulse i).sealed_ = s.sealed_ := (State.irqOnly_pulse s i).sealed_
@[simp] theorem State.pulse_bar2 (s : State) (i : Nat) : (s.pulse i).bar2 = s.bar2 := (State.irqOnly_pulse s i).bar2
@[simp] theorem State.pulse_msixMask (s : State) (i : Nat) : (s.pulse i).msixMask = s.msixMask := (State.irqOnly_pulse s i).msixMask
@[simp] theorem State.pulse_t3Key (s : State) (i : Nat) : (s.pulse i).t3Key = s.t3Key := (State.irqOnly_pulse s i).t3Key
@[simp] theorem State.pulse_frames (s : State) (i : Nat) : (s.pulse i).frames = s.frames := (State.irqOnly_pulse s i).frames
@[simp] theorem State.pulse_fl (s : State) (i : Nat) : (s.pulse i).fl = s.fl := (State.irqOnly_pulse s i).fl
@[simp] theorem State.pulse_flashQ (s : State) (i : Nat) : (s.pulse i).flashQ = s.flashQ := (State.irqOnly_pulse s i).flashQ
@[simp] theorem State.pulse_flashBusy (s : State) (i : Nat) : (s.pulse i).flashBusy = s.flashBusy := (State.irqOnly_pulse s i).flashBusy
@[simp] theorem State.pulse_huMv (s : State) (i : Nat) : (s.pulse i).huMv = s.huMv := (State.irqOnly_pulse s i).huMv
@[simp] theorem State.pulse_pwrfail (s : State) (i : Nat) : (s.pulse i).pwrfail = s.pwrfail := (State.irqOnly_pulse s i).pwrfail
@[simp] theorem State.pulse_ports (s : State) (i : Nat) : (s.pulse i).ports = s.ports := (State.irqOnly_pulse s i).ports
@[simp] theorem State.pulse_mcs (s : State) (i : Nat) : (s.pulse i).mcs = s.mcs := (State.irqOnly_pulse s i).mcs
@[simp] theorem State.pulse_linkHeld (s : State) (i : Nat) : (s.pulse i).linkHeld = s.linkHeld := (State.irqOnly_pulse s i).linkHeld
@[simp] theorem State.pulse_repoch (s : State) (i : Nat) : (s.pulse i).repoch = s.repoch := (State.irqOnly_pulse s i).repoch
@[simp] theorem State.pulse_colls (s : State) (i : Nat) : (s.pulse i).colls = s.colls := (State.irqOnly_pulse s i).colls
@[simp] theorem State.pulse_dstat (s : State) (i : Nat) : (s.pulse i).dstat = s.dstat := (State.irqOnly_pulse s i).dstat
@[simp] theorem State.pulse_collHeld (s : State) (i : Nat) : (s.pulse i).collHeld = s.collHeld := (State.irqOnly_pulse s i).collHeld
@[simp] theorem State.pulse_staged (s : State) (i : Nat) : (s.pulse i).staged = s.staged := (State.irqOnly_pulse s i).staged
@[simp] theorem State.pulse_cfg (s : State) (i : Nat) : (s.pulse i).cfg = s.cfg := (State.irqOnly_pulse s i).cfg
@[simp] theorem State.pulse_flip (s : State) (i : Nat) : (s.pulse i).flip = s.flip := (State.irqOnly_pulse s i).flip
@[simp] theorem State.pulse_twopc (s : State) (i : Nat) : (s.pulse i).twopc = s.twopc := (State.irqOnly_pulse s i).twopc
@[simp] theorem State.pulse_rings (s : State) (i : Nat) : (s.pulse i).rings = s.rings := (State.irqOnly_pulse s i).rings
@[simp] theorem State.pulse_hwin (s : State) (i : Nat) : (s.pulse i).hwin = s.hwin := (State.irqOnly_pulse s i).hwin
@[simp] theorem State.pulse_rcepoch (s : State) (i : Nat) : (s.pulse i).rcepoch = s.rcepoch := (State.irqOnly_pulse s i).rcepoch
@[simp] theorem State.pulse_pw (s : State) (i : Nat) : (s.pulse i).pw = s.pw := (State.irqOnly_pulse s i).pw
@[simp] theorem State.pulse_rstLast (s : State) (i : Nat) : (s.pulse i).rstLast = s.rstLast := (State.irqOnly_pulse s i).rstLast
@[simp] theorem State.pulse_coreRst (s : State) (i : Nat) : (s.pulse i).coreRst = s.coreRst := (State.irqOnly_pulse s i).coreRst
@[simp] theorem State.pulse_rstStat (s : State) (i : Nat) : (s.pulse i).rstStat = s.rstStat := (State.irqOnly_pulse s i).rstStat
@[simp] theorem State.pulse_powered (s : State) (i : Nat) : (s.pulse i).powered = s.powered := (State.irqOnly_pulse s i).powered
@[simp] theorem State.pulse_lost (s : State) (i : Nat) : (s.pulse i).lost = s.lost := (State.irqOnly_pulse s i).lost
@[simp] theorem State.pulse_linkUp (s : State) (i : Nat) : (s.pulse i).linkUp = s.linkUp := (State.irqOnly_pulse s i).linkUp
@[simp] theorem State.pulse_sec (s : State) (i : Nat) : (s.pulse i).sec = s.sec := (State.irqOnly_pulse s i).sec
@[simp] theorem State.pulse_sram (s : State) (i : Nat) : (s.pulse i).sram = s.sram := (State.irqOnly_pulse s i).sram
@[simp] theorem State.pulse_smbus (s : State) (i : Nat) : (s.pulse i).smbus = s.smbus := (State.irqOnly_pulse s i).smbus
@[simp] theorem State.pulse_i3c (s : State) (i : Nat) : (s.pulse i).i3c = s.i3c := (State.irqOnly_pulse s i).i3c
@[simp] theorem State.pulse_jtag (s : State) (i : Nat) : (s.pulse i).jtag = s.jtag := (State.irqOnly_pulse s i).jtag
@[simp] theorem State.pulse_bsr (s : State) (i : Nat) : (s.pulse i).bsr = s.bsr := (State.irqOnly_pulse s i).bsr
@[simp] theorem State.pulse_fresh (s : State) (i : Nat) : (s.pulse i).fresh = s.fresh := (State.irqOnly_pulse s i).fresh
@[simp] theorem State.pulse_pending (s : State) (i : Nat) : (s.pulse i).pending = s.pending := (State.irqOnly_pulse s i).pending
@[simp] theorem State.core_pulse (s : State) (i : Nat) (q : Nat) : (s.pulse i).core q = s.core q := (State.irqOnly_pulse s i).core q

@[simp] theorem State.irqCore_t0 (s : State) (p : Nat) : (s.irqCore p).t0 = s.t0 := (State.irqOnly_irqCore s p).t0
@[simp] theorem State.irqCore_slice (s : State) (p : Nat) : (s.irqCore p).slice = s.slice := (State.irqOnly_irqCore s p).slice
@[simp] theorem State.irqCore_tier (s : State) (p : Nat) : (s.irqCore p).tier = s.tier := (State.irqOnly_irqCore s p).tier
@[simp] theorem State.irqCore_flash (s : State) (p : Nat) : (s.irqCore p).flash = s.flash := (State.irqOnly_irqCore s p).flash
@[simp] theorem State.irqCore_t0Pz (s : State) (p : Nat) : (s.irqCore p).t0Pz = s.t0Pz := (State.irqOnly_irqCore s p).t0Pz
@[simp] theorem State.irqCore_slicePz (s : State) (p : Nat) : (s.irqCore p).slicePz = s.slicePz := (State.irqOnly_irqCore s p).slicePz
@[simp] theorem State.irqCore_tierPz (s : State) (p : Nat) : (s.irqCore p).tierPz = s.tierPz := (State.irqOnly_irqCore s p).tierPz
@[simp] theorem State.irqCore_grade (s : State) (p : Nat) : (s.irqCore p).grade = s.grade := (State.irqOnly_irqCore s p).grade
@[simp] theorem State.irqCore_fused (s : State) (p : Nat) : (s.irqCore p).fused = s.fused := (State.irqOnly_irqCore s p).fused
@[simp] theorem State.irqCore_lmap (s : State) (p : Nat) : (s.irqCore p).lmap = s.lmap := (State.irqOnly_irqCore s p).lmap
@[simp] theorem State.irqCore_ncores (s : State) (p : Nat) : (s.irqCore p).ncores = s.ncores := (State.irqOnly_irqCore s p).ncores
@[simp] theorem State.irqCore_spares (s : State) (p : Nat) : (s.irqCore p).spares = s.spares := (State.irqOnly_irqCore s p).spares
@[simp] theorem State.irqCore_fences (s : State) (p : Nat) : (s.irqCore p).fences = s.fences := (State.irqOnly_irqCore s p).fences
@[simp] theorem State.irqCore_lport (s : State) (p : Nat) : (s.irqCore p).lport = s.lport := (State.irqOnly_irqCore s p).lport
@[simp] theorem State.irqCore_lchan (s : State) (p : Nat) : (s.irqCore p).lchan = s.lchan := (State.irqOnly_irqCore s p).lchan
@[simp] theorem State.irqCore_lcodec (s : State) (p : Nat) : (s.irqCore p).lcodec = s.lcodec := (State.irqOnly_irqCore s p).lcodec
@[simp] theorem State.irqCore_cores (s : State) (p : Nat) : (s.irqCore p).cores = s.cores := (State.irqOnly_irqCore s p).cores
@[simp] theorem State.irqCore_clusters (s : State) (p : Nat) : (s.irqCore p).clusters = s.clusters := (State.irqOnly_irqCore s p).clusters
@[simp] theorem State.irqCore_mesh (s : State) (p : Nat) : (s.irqCore p).mesh = s.mesh := (State.irqOnly_irqCore s p).mesh
@[simp] theorem State.irqCore_obj (s : State) (p : Nat) : (s.irqCore p).obj = s.obj := (State.irqOnly_irqCore s p).obj
@[simp] theorem State.irqCore_sm (s : State) (p : Nat) : (s.irqCore p).sm = s.sm := (State.irqOnly_irqCore s p).sm
@[simp] theorem State.irqCore_regs (s : State) (p : Nat) : (s.irqCore p).regs = s.regs := (State.irqOnly_irqCore s p).regs
@[simp] theorem State.irqCore_cnt (s : State) (p : Nat) : (s.irqCore p).cnt = s.cnt := (State.irqOnly_irqCore s p).cnt
@[simp] theorem State.irqCore_rneUsed (s : State) (p : Nat) : (s.irqCore p).rneUsed = s.rneUsed := (State.irqOnly_irqCore s p).rneUsed
@[simp] theorem State.irqCore_epoch (s : State) (p : Nat) : (s.irqCore p).epoch = s.epoch := (State.irqOnly_irqCore s p).epoch
@[simp] theorem State.irqCore_sealed_ (s : State) (p : Nat) : (s.irqCore p).sealed_ = s.sealed_ := (State.irqOnly_irqCore s p).sealed_
@[simp] theorem State.irqCore_bar2 (s : State) (p : Nat) : (s.irqCore p).bar2 = s.bar2 := (State.irqOnly_irqCore s p).bar2
@[simp] theorem State.irqCore_msixMask (s : State) (p : Nat) : (s.irqCore p).msixMask = s.msixMask := (State.irqOnly_irqCore s p).msixMask
@[simp] theorem State.irqCore_t3Key (s : State) (p : Nat) : (s.irqCore p).t3Key = s.t3Key := (State.irqOnly_irqCore s p).t3Key
@[simp] theorem State.irqCore_frames (s : State) (p : Nat) : (s.irqCore p).frames = s.frames := (State.irqOnly_irqCore s p).frames
@[simp] theorem State.irqCore_fl (s : State) (p : Nat) : (s.irqCore p).fl = s.fl := (State.irqOnly_irqCore s p).fl
@[simp] theorem State.irqCore_flashQ (s : State) (p : Nat) : (s.irqCore p).flashQ = s.flashQ := (State.irqOnly_irqCore s p).flashQ
@[simp] theorem State.irqCore_flashBusy (s : State) (p : Nat) : (s.irqCore p).flashBusy = s.flashBusy := (State.irqOnly_irqCore s p).flashBusy
@[simp] theorem State.irqCore_huMv (s : State) (p : Nat) : (s.irqCore p).huMv = s.huMv := (State.irqOnly_irqCore s p).huMv
@[simp] theorem State.irqCore_pwrfail (s : State) (p : Nat) : (s.irqCore p).pwrfail = s.pwrfail := (State.irqOnly_irqCore s p).pwrfail
@[simp] theorem State.irqCore_ports (s : State) (p : Nat) : (s.irqCore p).ports = s.ports := (State.irqOnly_irqCore s p).ports
@[simp] theorem State.irqCore_mcs (s : State) (p : Nat) : (s.irqCore p).mcs = s.mcs := (State.irqOnly_irqCore s p).mcs
@[simp] theorem State.irqCore_linkHeld (s : State) (p : Nat) : (s.irqCore p).linkHeld = s.linkHeld := (State.irqOnly_irqCore s p).linkHeld
@[simp] theorem State.irqCore_repoch (s : State) (p : Nat) : (s.irqCore p).repoch = s.repoch := (State.irqOnly_irqCore s p).repoch
@[simp] theorem State.irqCore_colls (s : State) (p : Nat) : (s.irqCore p).colls = s.colls := (State.irqOnly_irqCore s p).colls
@[simp] theorem State.irqCore_dstat (s : State) (p : Nat) : (s.irqCore p).dstat = s.dstat := (State.irqOnly_irqCore s p).dstat
@[simp] theorem State.irqCore_collHeld (s : State) (p : Nat) : (s.irqCore p).collHeld = s.collHeld := (State.irqOnly_irqCore s p).collHeld
@[simp] theorem State.irqCore_staged (s : State) (p : Nat) : (s.irqCore p).staged = s.staged := (State.irqOnly_irqCore s p).staged
@[simp] theorem State.irqCore_cfg (s : State) (p : Nat) : (s.irqCore p).cfg = s.cfg := (State.irqOnly_irqCore s p).cfg
@[simp] theorem State.irqCore_flip (s : State) (p : Nat) : (s.irqCore p).flip = s.flip := (State.irqOnly_irqCore s p).flip
@[simp] theorem State.irqCore_twopc (s : State) (p : Nat) : (s.irqCore p).twopc = s.twopc := (State.irqOnly_irqCore s p).twopc
@[simp] theorem State.irqCore_rings (s : State) (p : Nat) : (s.irqCore p).rings = s.rings := (State.irqOnly_irqCore s p).rings
@[simp] theorem State.irqCore_hwin (s : State) (p : Nat) : (s.irqCore p).hwin = s.hwin := (State.irqOnly_irqCore s p).hwin
@[simp] theorem State.irqCore_rcepoch (s : State) (p : Nat) : (s.irqCore p).rcepoch = s.rcepoch := (State.irqOnly_irqCore s p).rcepoch
@[simp] theorem State.irqCore_pw (s : State) (p : Nat) : (s.irqCore p).pw = s.pw := (State.irqOnly_irqCore s p).pw
@[simp] theorem State.irqCore_rstLast (s : State) (p : Nat) : (s.irqCore p).rstLast = s.rstLast := (State.irqOnly_irqCore s p).rstLast
@[simp] theorem State.irqCore_coreRst (s : State) (p : Nat) : (s.irqCore p).coreRst = s.coreRst := (State.irqOnly_irqCore s p).coreRst
@[simp] theorem State.irqCore_rstStat (s : State) (p : Nat) : (s.irqCore p).rstStat = s.rstStat := (State.irqOnly_irqCore s p).rstStat
@[simp] theorem State.irqCore_powered (s : State) (p : Nat) : (s.irqCore p).powered = s.powered := (State.irqOnly_irqCore s p).powered
@[simp] theorem State.irqCore_lost (s : State) (p : Nat) : (s.irqCore p).lost = s.lost := (State.irqOnly_irqCore s p).lost
@[simp] theorem State.irqCore_linkUp (s : State) (p : Nat) : (s.irqCore p).linkUp = s.linkUp := (State.irqOnly_irqCore s p).linkUp
@[simp] theorem State.irqCore_sec (s : State) (p : Nat) : (s.irqCore p).sec = s.sec := (State.irqOnly_irqCore s p).sec
@[simp] theorem State.irqCore_sram (s : State) (p : Nat) : (s.irqCore p).sram = s.sram := (State.irqOnly_irqCore s p).sram
@[simp] theorem State.irqCore_smbus (s : State) (p : Nat) : (s.irqCore p).smbus = s.smbus := (State.irqOnly_irqCore s p).smbus
@[simp] theorem State.irqCore_i3c (s : State) (p : Nat) : (s.irqCore p).i3c = s.i3c := (State.irqOnly_irqCore s p).i3c
@[simp] theorem State.irqCore_jtag (s : State) (p : Nat) : (s.irqCore p).jtag = s.jtag := (State.irqOnly_irqCore s p).jtag
@[simp] theorem State.irqCore_bsr (s : State) (p : Nat) : (s.irqCore p).bsr = s.bsr := (State.irqOnly_irqCore s p).bsr
@[simp] theorem State.irqCore_fresh (s : State) (p : Nat) : (s.irqCore p).fresh = s.fresh := (State.irqOnly_irqCore s p).fresh
@[simp] theorem State.irqCore_pending (s : State) (p : Nat) : (s.irqCore p).pending = s.pending := (State.irqOnly_irqCore s p).pending
@[simp] theorem State.core_irqCore (s : State) (p : Nat) (q : Nat) : (s.irqCore p).core q = s.core q := (State.irqOnly_irqCore s p).core q

end Sys2Proof.Machine
end

