-- ==== Sys2Proof/Laws/Stop.lean ====
section
/-! SUPPORT. What halting, freezing and stopping a core change (R168, R172, R174), and what they leave. -/

namespace Sys2Proof.Machine

/-! ### Of a core -/

theorem Core.StopOnly.refl (c : Core) : c.StopOnly c := ⟨rfl, fun _ _ => rfl⟩

theorem Core.StopOnly.trans {c d e : Core} (h : c.StopOnly d) (k : d.StopOnly e) : c.StopOnly e := by
  refine ⟨?_, fun o ho => (k.2 o ho).trans (h.2 o ho)⟩
  rw [k.1, h.1]

theorem Engine.rampDown_only (g : Engine) : g.rampDown = { g with act := g.rampDown.act, stopReq := g.rampDown.stopReq } := by
  unfold Engine.rampDown
  split <;> rfl

theorem Core.stopOnly_rampDown (c : Core) : c.StopOnly c.rampDown := by
  have h : c.rampDown = { c with
      engA := { c.engA with act := c.engA.rampDown.act, stopReq := c.engA.rampDown.stopReq }
      engB := { c.engB with act := c.engB.rampDown.act, stopReq := c.engB.rampDown.stopReq } } := by
    unfold Core.rampDown
    rw [← Engine.rampDown_only, ← Engine.rampDown_only]
  rw [h]
  exact ⟨rfl, fun _ _ => rfl⟩

theorem Core.stopOnly_abandonPre (c : Core) : c.StopOnly c.abandonPre := by
  unfold Core.abandonPre
  split <;> exact ⟨rfl, fun _ _ => rfl⟩

@[simp] theorem Core.seq_abandonPre (c : Core) : c.abandonPre.seq = c.seq := by
  unfold Core.abandonPre
  split <;> rfl

@[simp] theorem Core.seq_rampDown (c : Core) : c.rampDown.seq = c.seq := rfl

theorem Core.stopOnly_settleStop (c : Core) : c.StopOnly c.settleStop := by
  unfold Core.settleStop
  simp only
  split <;> exact ⟨rfl, fun _ _ => rfl⟩

theorem Core.stopOnly_stop (c : Core) : c.StopOnly c.stop := by
  unfold Core.stop
  split
  · exact Core.StopOnly.trans (d := c.modSeq fun q => { q with stopping := true, cur := if q.cur.any SeqCur.sent then q.cur else none })
      ⟨rfl, fun _ _ => rfl⟩ (Core.stopOnly_settleStop _)
  · exact Core.StopOnly.refl _

/-- A core that does not run is not changed by STOP. -/
theorem Core.stop_of_not_active {c : Core} (h : c.active = false) : c.stop = c := by
  simp [Core.stop, h]

theorem Core.stopOnly_halt (c : Core) (r : HaltRec) : c.StopOnly (c.halt r) := by
  have h := (Core.stopOnly_rampDown c).trans (Core.stopOnly_abandonPre c.rampDown)
  exact h.trans ⟨rfl, fun _ _ => rfl⟩

theorem Core.stopOnly_freeze (c : Core) (r : FrzRec) : c.StopOnly (c.freeze r) := by
  have h := (Core.stopOnly_rampDown c).trans (Core.stopOnly_abandonPre c.rampDown)
  exact h.trans ⟨rfl, fun _ _ => rfl⟩

@[simp] theorem Core.seq_halt (c : Core) (r : HaltRec) :
    (c.halt r).seq = { c.seq with
      state := .halted, stopping := false, halt := r, cur := none, haltUnits := [r.unit], haltOld := c.seq.halt } := by
  simp [Core.halt]

@[simp] theorem Core.seq_freeze (c : Core) (r : FrzRec) : (c.freeze r).seq = { c.seq with state := .frozen, stopping := false, frz := r } := by
  simp [Core.freeze]

/-! ### What a stop leaves of a core -/

theorem Core.StopOnly.cq {c d : Core} (h : c.StopOnly d) : d.cq = c.cq := by
  rw [h.1]
theorem Core.StopOnly.dq {c d : Core} (h : c.StopOnly d) : d.dq = c.dq := by
  rw [h.1]
theorem Core.StopOnly.hq {c d : Core} (h : c.StopOnly d) : d.hq = c.hq := by
  rw [h.1]
theorem Core.StopOnly.bt {c d : Core} (h : c.StopOnly d) : d.bt = c.bt := by
  rw [h.1]
theorem Core.StopOnly.pools {c d : Core} (h : c.StopOnly d) : d.pools = c.pools := by
  rw [h.1]
theorem Core.StopOnly.sd {c d : Core} (h : c.StopOnly d) : d.sd = c.sd := by
  rw [h.1]
theorem Core.StopOnly.ldAg {c d : Core} (h : c.StopOnly d) : d.ldAg = c.ldAg := by
  rw [h.1]
theorem Core.StopOnly.wrAg {c d : Core} (h : c.StopOnly d) : d.wrAg = c.wrAg := by
  rw [h.1]
theorem Core.StopOnly.vecAg {c d : Core} (h : c.StopOnly d) : d.vecAg = c.vecAg := by
  rw [h.1]
theorem Core.StopOnly.sht {c d : Core} (h : c.StopOnly d) : d.sht = c.sht := by
  rw [h.1]
theorem Core.StopOnly.drn {c d : Core} (h : c.StopOnly d) : d.drn = c.drn := by
  rw [h.1]
theorem Core.StopOnly.vec {c d : Core} (h : c.StopOnly d) : d.vec = c.vec := by
  rw [h.1]
theorem Core.StopOnly.upd {c d : Core} (h : c.StopOnly d) : d.upd = c.upd := by
  rw [h.1]
theorem Core.StopOnly.inflight {c d : Core} (h : c.StopOnly d) : d.inflight = c.inflight := by
  rw [h.1]
theorem Core.StopOnly.transit {c d : Core} (h : c.StopOnly d) : d.transit = c.transit := by
  rw [h.1]
theorem Core.StopOnly.heldH {c d : Core} (h : c.StopOnly d) : d.heldH = c.heldH := by
  rw [h.1]
theorem Core.StopOnly.dropH {c d : Core} (h : c.StopOnly d) : d.dropH = c.dropH := by
  rw [h.1]
theorem Core.StopOnly.tags {c d : Core} (h : c.StopOnly d) : d.tags = c.tags := by
  rw [h.1]
theorem Core.StopOnly.dmaQ {c d : Core} (h : c.StopOnly d) : d.dmaQ = c.dmaQ := by
  rw [h.1]
theorem Core.StopOnly.stash {c d : Core} (h : c.StopOnly d) : d.stash = c.stash := by
  rw [h.1]
theorem Core.StopOnly.pins {c d : Core} (h : c.StopOnly d) : d.pins = c.pins := by
  rw [h.1]
theorem Core.StopOnly.mbx {c d : Core} (h : c.StopOnly d) : d.mbx = c.mbx := by
  rw [h.1]
theorem Core.StopOnly.rem {c d : Core} (h : c.StopOnly d) : d.rem = c.rem := by
  rw [h.1]
theorem Core.StopOnly.rcmt {c d : Core} (h : c.StopOnly d) : d.rcmt = c.rcmt := by
  rw [h.1]
theorem Core.StopOnly.fence {c d : Core} (h : c.StopOnly d) : d.fence = c.fence := by
  rw [h.1]
theorem Core.StopOnly.regs {c d : Core} (h : c.StopOnly d) : d.regs = c.regs := by
  rw [h.1]
theorem Core.StopOnly.count {c d : Core} {o : Nat} (h : c.StopOnly d) (ho : o ≠ cHaltMulti) : d.count o = c.count o := h.2 o ho
theorem Core.StopOnly.poolLatch {c d : Core} (h : c.StopOnly d) : d.poolLatch = c.poolLatch := by
  rw [h.1]
theorem Core.StopOnly.seq_ending {c d : Core} (h : c.StopOnly d) : d.seq.ending = c.seq.ending := by
  rw [h.1]
theorem Core.StopOnly.seq_pc {c d : Core} (h : c.StopOnly d) : d.seq.pc = c.seq.pc := by
  rw [h.1]
theorem Core.StopOnly.seq_start {c d : Core} (h : c.StopOnly d) : d.seq.start = c.seq.start := by
  rw [h.1]
theorem Core.StopOnly.seq_stepPc {c d : Core} (h : c.StopOnly d) : d.seq.stepPc = c.seq.stepPc := by
  rw [h.1]
theorem Core.StopOnly.seq_seqno {c d : Core} (h : c.StopOnly d) : d.seq.seqno = c.seq.seqno := by
  rw [h.1]
theorem Core.StopOnly.seq_flags {c d : Core} (h : c.StopOnly d) : d.seq.flags = c.seq.flags := by
  rw [h.1]
theorem Core.StopOnly.seq_mode {c d : Core} (h : c.StopOnly d) : d.seq.mode = c.seq.mode := by
  rw [h.1]
theorem Core.StopOnly.seq_wdog {c d : Core} (h : c.StopOnly d) : d.seq.wdog = c.seq.wdog := by
  rw [h.1]
theorem Core.StopOnly.seq_swirq {c d : Core} (h : c.StopOnly d) : d.seq.swirq = c.seq.swirq := by
  rw [h.1]
theorem Core.StopOnly.seq_loops {c d : Core} (h : c.StopOnly d) : d.seq.loops = c.seq.loops := by
  rw [h.1]
theorem Core.StopOnly.seq_lc {c d : Core} (h : c.StopOnly d) : d.seq.lc = c.seq.lc := by
  rw [h.1]
theorem Core.StopOnly.seq_bars {c d : Core} (h : c.StopOnly d) : d.seq.bars = c.seq.bars := by
  rw [h.1]
theorem Core.StopOnly.seq_open_ {c d : Core} (h : c.StopOnly d) : d.seq.open_ = c.seq.open_ := by
  rw [h.1]
theorem Core.StopOnly.seq_repeating {c d : Core} (h : c.StopOnly d) : d.seq.repeating = c.seq.repeating := by
  rw [h.1]
theorem Core.StopOnly.seq_step {c d : Core} (h : c.StopOnly d) : d.seq.step = c.seq.step := by
  rw [h.1]
theorem Core.StopOnly.seq_stepNum {c d : Core} (h : c.StopOnly d) : d.seq.stepNum = c.seq.stepNum := by
  rw [h.1]
theorem Core.StopOnly.seq_attempt {c d : Core} (h : c.StopOnly d) : d.seq.attempt = c.seq.attempt := by
  rw [h.1]
theorem Core.StopOnly.seq_seed {c d : Core} (h : c.StopOnly d) : d.seq.seed = c.seq.seed := by
  rw [h.1]
theorem Core.StopOnly.seq_updRne {c d : Core} (h : c.StopOnly d) : d.seq.updRne = c.seq.updRne := by
  rw [h.1]
theorem Core.StopOnly.seq_repeatRec {c d : Core} (h : c.StopOnly d) : d.seq.repeatRec = c.seq.repeatRec := by
  rw [h.1]
theorem Core.StopOnly.seq_fetch {c d : Core} (h : c.StopOnly d) : d.seq.fetch = c.seq.fetch := by
  rw [h.1]
theorem Core.StopOnly.seq_fills {c d : Core} (h : c.StopOnly d) : d.seq.fills = c.seq.fills := by
  rw [h.1]
theorem Core.StopOnly.seq_live {c d : Core} (h : c.StopOnly d) : d.seq.live = c.seq.live := by
  rw [h.1]

/-! ### Of the state -/

theorem State.StopOnly.refl (s : State) : s.StopOnly s := ⟨rfl, fun _ => Core.StopOnly.refl _⟩

theorem State.StopOnly.trans {s t u : State} (h : s.StopOnly t) (k : t.StopOnly u) : s.StopOnly u := by
  refine ⟨?_, fun q => (h.2 q).trans (k.2 q)⟩
  rw [k.1, h.1]

theorem State.IrqOnly.stopOnly {s t : State} (h : s.IrqOnly t) : s.StopOnly t := by
  refine ⟨?_, fun q => by rw [h.core]; exact Core.StopOnly.refl _⟩
  unfold State.IrqOnly at h
  rw [h]

theorem State.stopOnly_modCore (s : State) (p : Nat) (f : Core → Core) (h : (s.core p).StopOnly (f (s.core p))) : s.StopOnly (s.modCore p f) := by
  refine ⟨rfl, fun q => ?_⟩
  by_cases e : p = q
  · subst e
    rw [State.core_modCore_self]
    exact h
  · rw [State.core_modCore_ne _ _ e]
    exact Core.StopOnly.refl _

theorem State.stopOnly_frameCause (s : State) (n b : Nat) : s.StopOnly (s.frameCause n b) := by
  unfold State.frameCause State.raise State.causeLevel
  exact State.StopOnly.trans (t := { s with regs := aset s.regs 0xC150 (aget 0 s.regs 0xC150 ||| BitVec.ofNat 32 (2 ^ (4 * n + b))) })
    ⟨rfl, fun _ => Core.StopOnly.refl _⟩ (State.irqOnly_level _ _ _).stopOnly

theorem State.stopOnly_frameFail (s : State) (n : Nat) : s.StopOnly (s.frameFail n) := by
  unfold State.frameFail
  simp only
  split
  · exact State.StopOnly.refl s
  · refine State.StopOnly.trans ?_ (State.stopOnly_frameCause _ _ _)
    refine foldl_inv (fun t => s.StopOnly t) _ ?_ _ _ ⟨rfl, fun _ => Core.StopOnly.refl _⟩
    intro t l h
    refine h.trans ?_
    split
    · apply State.stopOnly_modCore
      refine Core.StopOnly.trans ?_ (Core.stopOnly_stop _)
      split
      · exact Core.StopOnly.refl _
      · exact Core.stopOnly_abandonPre _
    · exact State.StopOnly.refl _

theorem State.stopOnly_failRun (s : State) (fr : Option Nat) : s.StopOnly (s.failRun fr) := by
  unfold State.failRun
  split
  · exact State.stopOnly_frameFail _ _
  · exact State.StopOnly.refl _

/-- Halting a core changes nothing else of the machine (R168). -/
theorem State.stopOnly_halt (s : State) (p : Nat) (r : HaltRec) : s.StopOnly (s.halt p r) := by
  unfold State.halt
  simp only
  split
  · refine ⟨rfl, fun q => ?_⟩
    by_cases e : p = q
    · subst e
      simp only [State.bumpCore, State.core_modCore_self]
      exact ⟨rfl, fun o ho => congrArg BitVec.toNat (aget_aset_ne _ _ _ (Ne.symm ho))⟩
    · simp only [State.bumpCore, State.core_modCore_ne _ _ e]
      exact Core.StopOnly.refl _
  · exact ((State.stopOnly_modCore s p _ (Core.stopOnly_halt _ _)).trans (State.irqOnly_irqCore _ _).stopOnly).trans (State.stopOnly_failRun _ _)

/-- Freezing a core changes nothing else of the machine (R172). -/
theorem State.stopOnly_freeze (s : State) (p : Nat) (r : FrzRec) : s.StopOnly (s.freeze p r) := by
  unfold State.freeze
  simp only
  split
  · exact State.StopOnly.refl s
  · exact ((State.stopOnly_modCore s p _ (Core.stopOnly_freeze _ _)).trans (State.irqOnly_irqCore _ _).stopOnly).trans (State.stopOnly_failRun _ _)

/-- A failing run leaves the sequencer of a core that does not run. -/
theorem State.seq_frameFail {s : State} {p : Nat} (n : Nat) (h : (s.core p).active = false) : ((s.frameFail n).core p).seq = (s.core p).seq := by
  unfold State.frameFail
  simp only
  split
  · rfl
  · rw [State.frameCause, State.raise, State.causeLevel, State.core_level]
    change ((List.foldl _ _ _ : State).core p).seq = _
    refine foldl_inv (fun t : State => (t.core p).seq = (s.core p).seq) _ ?_ _ _ rfl
    intro t l ht
    split
    · rename_i q _
      by_cases e : q = p
      · subst e
        rw [State.core_modCore_self]
        have ha : (t.core q).seq.state ≠ .running := by
          rw [ht]
          simpa [Core.active] using h
        split
        · rw [Core.stop_of_not_active (by simpa [Core.active] using ha)]
          exact ht
        · rw [Core.stop_of_not_active (by simpa [Core.active] using ha), Core.seq_abandonPre]
          exact ht
      · rw [State.core_modCore_ne _ _ e]
        exact ht
    · exact ht

theorem State.seq_failRun {s : State} {p : Nat} (fr : Option Nat) (h : (s.core p).active = false) : ((s.failRun fr).core p).seq = (s.core p).seq := by
  unfold State.failRun
  split
  · exact State.seq_frameFail _ h
  · rfl

/-- The core that halts: its record, nothing in hand, the rest of its sequencer as it was (R168, R171). -/
theorem State.seq_halt {s : State} {p : Nat} (r : HaltRec) (h : (s.core p).seq.state ≠ .halted) (h' : (s.core p).seq.state ≠ .frozen) :
    ((s.halt p r).core p).seq = { (s.core p).seq with
      state := .halted, stopping := false, halt := r, cur := none, haltUnits := [r.unit], haltOld := (s.core p).seq.halt } := by
  unfold State.halt
  simp only [h, h', decide_false, Bool.or_self, Bool.false_eq_true, if_false]
  rw [State.seq_failRun]
  · rw [State.core_irqCore, State.core_modCore_self, Core.seq_halt]
  · rw [State.core_irqCore, State.core_modCore_self]
    simp [Core.active]

/-- A halt on a core that has stopped so already leaves its sequencer (R170, R172). -/
theorem State.seq_halt_of_stopped {s : State} {p : Nat} (r : HaltRec) (h : (s.core p).seq.state = .halted ∨ (s.core p).seq.state = .frozen) :
    ((s.halt p r).core p).seq = (s.core p).seq := by
  unfold State.halt
  have e : (decide ((s.core p).seq.state = .halted) || decide ((s.core p).seq.state = .frozen)) = true := by simpa using h
  simp only [e, if_true, State.bumpCore, State.core_modCore_self]
  rfl

/-- The core that freezes keeps its sequencer but for the state and the record (R172). -/
theorem State.seq_freeze {s : State} {p : Nat} (r : FrzRec) (h : (s.core p).seq.state ≠ .frozen) :
    ((s.freeze p r).core p).seq = { (s.core p).seq with state := .frozen, stopping := false, frz := r } := by
  unfold State.freeze
  simp only [h, if_false]
  rw [State.seq_failRun]
  · rw [State.core_irqCore, State.core_modCore_self, Core.seq_freeze]
  · rw [State.core_irqCore, State.core_modCore_self]
    simp [Core.active]

/-- A signal adds to its barrier or halts the core (R150, R151). -/
theorem State.signal_cases (s : State) (p b n : Nat) (r : HaltRec) :
    s.signal p b n r = s.setCore p ((s.core p).setBar b { (s.core p).bar b with count := (((s.core p).bar b).count + n) % 65536 })
      ∨ s.signal p b n r = s.halt p { r with reason := 0x07, info := b + 256 + r.unit * 4096 } := by
  unfold State.signal
  simp only
  split
  · exact Or.inr rfl
  · exact Or.inl rfl

end Sys2Proof.Machine
end

