-- ==== Sys2Proof/Laws/Islands.lean ====
section
/-! SUPPORT. Running a command on an island or a core: with the settings in force, and with a flip that has reached it. -/

namespace Sys2Proof.Machine

/-- A settled island runs its command as it stands. -/
theorem State.under_settled {s : State} {i : Nat} (g : State → State) (h : s.Settled i) : s.under i g = g s := by
  obtain ⟨hp, hf⟩ := h
  unfold State.under
  rw [hp]
  cases e : s.flip with
  | none => rfl
  | some f =>
    rw [e] at hf
    have hf' : f.flipped.contains i = false := by simpa using hf
    simp only [Bool.not_true, Bool.false_eq_true, if_false, hf']
    rfl

/-- Without its clocks the device does nothing. -/
theorem State.under_unpowered {s : State} (i : Nat) (g : State → State) (h : s.powered = false) : s.under i g = s := by
  simp [State.under, h]

/-- A core that answers runs the command; a waiting core reset may begin after it. -/
theorem State.onCore_answers {s : State} {l p : Nat} (f : State → Nat → Core → State) (h : s.Answers l p) :
    s.onCore l f = (f s p (s.core p)).rstBegin := by
  obtain ⟨hp, hr, hs⟩ := h
  unfold State.onCore
  rw [hp]
  simp only [hr, Bool.false_eq_true, if_false]
  rw [State.under_settled _ hs]

theorem State.rstBegin_only (s : State) : s.rstBegin = { s with coreRst := s.rstBegin.coreRst } := by
  unfold State.rstBegin
  split
  · split <;> rfl
  · rfl

@[simp] theorem State.core_rstBegin (s : State) (p : Nat) : s.rstBegin.core p = s.core p := by
  rw [State.rstBegin_only]
  rfl

@[simp] theorem State.rstBegin_t0 (s : State) : s.rstBegin.t0 = s.t0 := by
  rw [State.rstBegin_only]
@[simp] theorem State.rstBegin_slice (s : State) : s.rstBegin.slice = s.slice := by
  rw [State.rstBegin_only]
@[simp] theorem State.rstBegin_tier (s : State) : s.rstBegin.tier = s.tier := by
  rw [State.rstBegin_only]
@[simp] theorem State.rstBegin_flash (s : State) : s.rstBegin.flash = s.flash := by
  rw [State.rstBegin_only]
@[simp] theorem State.rstBegin_t0Pz (s : State) : s.rstBegin.t0Pz = s.t0Pz := by
  rw [State.rstBegin_only]
@[simp] theorem State.rstBegin_slicePz (s : State) : s.rstBegin.slicePz = s.slicePz := by
  rw [State.rstBegin_only]
@[simp] theorem State.rstBegin_tierPz (s : State) : s.rstBegin.tierPz = s.tierPz := by
  rw [State.rstBegin_only]
@[simp] theorem State.rstBegin_grade (s : State) : s.rstBegin.grade = s.grade := by
  rw [State.rstBegin_only]
@[simp] theorem State.rstBegin_fused (s : State) : s.rstBegin.fused = s.fused := by
  rw [State.rstBegin_only]
@[simp] theorem State.rstBegin_lmap (s : State) : s.rstBegin.lmap = s.lmap := by
  rw [State.rstBegin_only]
@[simp] theorem State.rstBegin_ncores (s : State) : s.rstBegin.ncores = s.ncores := by
  rw [State.rstBegin_only]
@[simp] theorem State.rstBegin_spares (s : State) : s.rstBegin.spares = s.spares := by
  rw [State.rstBegin_only]
@[simp] theorem State.rstBegin_fences (s : State) : s.rstBegin.fences = s.fences := by
  rw [State.rstBegin_only]
@[simp] theorem State.rstBegin_lport (s : State) : s.rstBegin.lport = s.lport := by
  rw [State.rstBegin_only]
@[simp] theorem State.rstBegin_lchan (s : State) : s.rstBegin.lchan = s.lchan := by
  rw [State.rstBegin_only]
@[simp] theorem State.rstBegin_lcodec (s : State) : s.rstBegin.lcodec = s.lcodec := by
  rw [State.rstBegin_only]
@[simp] theorem State.rstBegin_cores (s : State) : s.rstBegin.cores = s.cores := by
  rw [State.rstBegin_only]
@[simp] theorem State.rstBegin_clusters (s : State) : s.rstBegin.clusters = s.clusters := by
  rw [State.rstBegin_only]
@[simp] theorem State.rstBegin_mesh (s : State) : s.rstBegin.mesh = s.mesh := by
  rw [State.rstBegin_only]
@[simp] theorem State.rstBegin_obj (s : State) : s.rstBegin.obj = s.obj := by
  rw [State.rstBegin_only]
@[simp] theorem State.rstBegin_sm (s : State) : s.rstBegin.sm = s.sm := by
  rw [State.rstBegin_only]
@[simp] theorem State.rstBegin_irq (s : State) : s.rstBegin.irq = s.irq := by
  rw [State.rstBegin_only]
@[simp] theorem State.rstBegin_regs (s : State) : s.rstBegin.regs = s.regs := by
  rw [State.rstBegin_only]
@[simp] theorem State.rstBegin_cnt (s : State) : s.rstBegin.cnt = s.cnt := by
  rw [State.rstBegin_only]
@[simp] theorem State.rstBegin_rneUsed (s : State) : s.rstBegin.rneUsed = s.rneUsed := by
  rw [State.rstBegin_only]
@[simp] theorem State.rstBegin_epoch (s : State) : s.rstBegin.epoch = s.epoch := by
  rw [State.rstBegin_only]
@[simp] theorem State.rstBegin_sealed_ (s : State) : s.rstBegin.sealed_ = s.sealed_ := by
  rw [State.rstBegin_only]
@[simp] theorem State.rstBegin_bar2 (s : State) : s.rstBegin.bar2 = s.bar2 := by
  rw [State.rstBegin_only]
@[simp] theorem State.rstBegin_msixMask (s : State) : s.rstBegin.msixMask = s.msixMask := by
  rw [State.rstBegin_only]
@[simp] theorem State.rstBegin_msixPba (s : State) : s.rstBegin.msixPba = s.msixPba := by
  rw [State.rstBegin_only]
@[simp] theorem State.rstBegin_t3Key (s : State) : s.rstBegin.t3Key = s.t3Key := by
  rw [State.rstBegin_only]
@[simp] theorem State.rstBegin_frames (s : State) : s.rstBegin.frames = s.frames := by
  rw [State.rstBegin_only]
@[simp] theorem State.rstBegin_fl (s : State) : s.rstBegin.fl = s.fl := by
  rw [State.rstBegin_only]
@[simp] theorem State.rstBegin_flashQ (s : State) : s.rstBegin.flashQ = s.flashQ := by
  rw [State.rstBegin_only]
@[simp] theorem State.rstBegin_flashBusy (s : State) : s.rstBegin.flashBusy = s.flashBusy := by
  rw [State.rstBegin_only]
@[simp] theorem State.rstBegin_huMv (s : State) : s.rstBegin.huMv = s.huMv := by
  rw [State.rstBegin_only]
@[simp] theorem State.rstBegin_pwrfail (s : State) : s.rstBegin.pwrfail = s.pwrfail := by
  rw [State.rstBegin_only]
@[simp] theorem State.rstBegin_ports (s : State) : s.rstBegin.ports = s.ports := by
  rw [State.rstBegin_only]
@[simp] theorem State.rstBegin_mcs (s : State) : s.rstBegin.mcs = s.mcs := by
  rw [State.rstBegin_only]
@[simp] theorem State.rstBegin_linkHeld (s : State) : s.rstBegin.linkHeld = s.linkHeld := by
  rw [State.rstBegin_only]
@[simp] theorem State.rstBegin_repoch (s : State) : s.rstBegin.repoch = s.repoch := by
  rw [State.rstBegin_only]
@[simp] theorem State.rstBegin_colls (s : State) : s.rstBegin.colls = s.colls := by
  rw [State.rstBegin_only]
@[simp] theorem State.rstBegin_dstat (s : State) : s.rstBegin.dstat = s.dstat := by
  rw [State.rstBegin_only]
@[simp] theorem State.rstBegin_collHeld (s : State) : s.rstBegin.collHeld = s.collHeld := by
  rw [State.rstBegin_only]
@[simp] theorem State.rstBegin_staged (s : State) : s.rstBegin.staged = s.staged := by
  rw [State.rstBegin_only]
@[simp] theorem State.rstBegin_cfg (s : State) : s.rstBegin.cfg = s.cfg := by
  rw [State.rstBegin_only]
@[simp] theorem State.rstBegin_flip (s : State) : s.rstBegin.flip = s.flip := by
  rw [State.rstBegin_only]
@[simp] theorem State.rstBegin_twopc (s : State) : s.rstBegin.twopc = s.twopc := by
  rw [State.rstBegin_only]
@[simp] theorem State.rstBegin_rings (s : State) : s.rstBegin.rings = s.rings := by
  rw [State.rstBegin_only]
@[simp] theorem State.rstBegin_hwin (s : State) : s.rstBegin.hwin = s.hwin := by
  rw [State.rstBegin_only]
@[simp] theorem State.rstBegin_rcepoch (s : State) : s.rstBegin.rcepoch = s.rcepoch := by
  rw [State.rstBegin_only]
@[simp] theorem State.rstBegin_deliv (s : State) : s.rstBegin.deliv = s.deliv := by
  rw [State.rstBegin_only]
@[simp] theorem State.rstBegin_pw (s : State) : s.rstBegin.pw = s.pw := by
  rw [State.rstBegin_only]
@[simp] theorem State.rstBegin_rstLast (s : State) : s.rstBegin.rstLast = s.rstLast := by
  rw [State.rstBegin_only]
@[simp] theorem State.rstBegin_rstStat (s : State) : s.rstBegin.rstStat = s.rstStat := by
  rw [State.rstBegin_only]
@[simp] theorem State.rstBegin_powered (s : State) : s.rstBegin.powered = s.powered := by
  rw [State.rstBegin_only]
@[simp] theorem State.rstBegin_lost (s : State) : s.rstBegin.lost = s.lost := by
  rw [State.rstBegin_only]
@[simp] theorem State.rstBegin_linkUp (s : State) : s.rstBegin.linkUp = s.linkUp := by
  rw [State.rstBegin_only]
@[simp] theorem State.rstBegin_sec (s : State) : s.rstBegin.sec = s.sec := by
  rw [State.rstBegin_only]
@[simp] theorem State.rstBegin_sram (s : State) : s.rstBegin.sram = s.sram := by
  rw [State.rstBegin_only]
@[simp] theorem State.rstBegin_smbus (s : State) : s.rstBegin.smbus = s.smbus := by
  rw [State.rstBegin_only]
@[simp] theorem State.rstBegin_i3c (s : State) : s.rstBegin.i3c = s.i3c := by
  rw [State.rstBegin_only]
@[simp] theorem State.rstBegin_jtag (s : State) : s.rstBegin.jtag = s.jtag := by
  rw [State.rstBegin_only]
@[simp] theorem State.rstBegin_bsr (s : State) : s.rstBegin.bsr = s.bsr := by
  rw [State.rstBegin_only]
@[simp] theorem State.rstBegin_fresh (s : State) : s.rstBegin.fresh = s.fresh := by
  rw [State.rstBegin_only]
@[simp] theorem State.rstBegin_out (s : State) : s.rstBegin.out = s.out := by
  rw [State.rstBegin_only]
@[simp] theorem State.rstBegin_pending (s : State) : s.rstBegin.pending = s.pending := by
  rw [State.rstBegin_only]

/-- No core reset waits, so none begins. -/
@[simp] theorem State.rstBegin_none {s : State} (h : s.coreRst = none) : s.rstBegin = s := by
  simp [State.rstBegin, h]

end Sys2Proof.Machine
end

