-- ==== Sys2Proof/Laws/Tiers.lean ====
section
/-! SUPPORT. Reading an object changes counters, error bits and the interrupt controller only (R311, R312). -/

namespace Sys2Proof.Machine

theorem State.ReadOnly.refl (s : State) : s.ReadOnly s := rfl

theorem State.ReadOnly.trans {s t u : State} (h : s.ReadOnly t) (k : t.ReadOnly u) : s.ReadOnly u := by
  unfold State.ReadOnly at *
  rw [k, h]

theorem State.IrqOnly.readOnly {s t : State} (h : s.IrqOnly t) : s.ReadOnly t := by
  unfold State.IrqOnly at h
  unfold State.ReadOnly
  rw [h]

theorem State.readOnly_bump (s : State) (o n : Nat) : s.ReadOnly (s.bump o n) := rfl
theorem State.readOnly_bumpCodec (s : State) (k o n : Nat) : s.ReadOnly (s.bumpCodec k o n) := rfl
theorem State.readOnly_setBit (s : State) (o n : Nat) : s.ReadOnly (s.setBit o n) := rfl
theorem State.readOnly_level (s : State) (i : Nat) (b : Bool) : s.ReadOnly (s.level i b) := (State.irqOnly_level s i b).readOnly

theorem State.readOnly_codecErr (s : State) (k b : Nat) : s.ReadOnly (s.codecErr k b) :=
  (State.readOnly_setBit _ _ _).trans (State.readOnly_level _ _ _)

theorem State.readOnly_chanErr (s : State) (ch b : Nat) : s.ReadOnly (s.chanErr ch b) := by
  unfold State.chanErr
  simp only
  split
  · exact (State.readOnly_setBit _ _ _).trans (State.readOnly_level _ _ _)
  · exact State.readOnly_setBit _ _ _

theorem State.readOnly_countPoison (s : State) (tier set a n : Nat) : s.ReadOnly (s.countPoison tier set a n) := by
  unfold State.countPoison
  refine foldl_inv (fun t : State => s.ReadOnly t) _ ?_ _ _ (State.ReadOnly.refl s)
  intro t x h
  refine h.trans ?_
  split
  · split <;> rfl
  · rfl

theorem State.readOnly_readImage (s : State) (obj : Nat) (e : ObjEnt) (b : Nat) : s.ReadOnly (s.readImage obj e b).2 := by
  unfold State.readImage
  simp only
  split
  · exact State.readOnly_countPoison _ _ _ _ _
  · have h : ∀ t : State, ∀ k o n, s.ReadOnly t → s.ReadOnly (t.bumpCodec k o n) := fun t k o n h => h.trans (State.readOnly_bumpCodec _ _ _ _)
    have h0 : ∀ a b c d a' b' c' d', s.ReadOnly ((s.countPoison a b c d).countPoison a' b' c' d') := fun a b c d a' b' c' d' =>
      (State.readOnly_countPoison s a b c d).trans (State.readOnly_countPoison _ a' b' c' d')
    split
    · exact (h _ _ _ _ (h0 ..)).trans ((State.readOnly_bump _ _ _).trans (State.readOnly_chanErr _ _ _))
    · split
      · exact (h _ _ _ _ (h _ _ _ _ (h0 ..))).trans (State.readOnly_codecErr _ _ _)
      · split
        · exact (h _ _ _ _ (h _ _ _ _ (h0 ..))).trans (State.readOnly_codecErr _ _ _)
        · exact h _ _ _ _ (h0 ..)

theorem State.readOnly_readBlock (s : State) (obj : Nat) (e : ObjEnt) (b : Nat) : s.ReadOnly (s.readBlock obj e b).2 :=
  State.readOnly_readImage _ _ _ _

theorem State.readOnly_imgRead (s : State) (obj : Nat) (e : ObjEnt) (ofs n : Nat) : s.ReadOnly (s.imgRead obj e ofs n).2 := by
  unfold State.imgRead
  split
  · exact State.readOnly_countPoison _ _ _ _ _
  · simp only
    refine foldl_inv (fun x : List PByte × State => s.ReadOnly x.2) _ ?_ _ _ (State.ReadOnly.refl s)
    intro x b h
    exact h.trans (State.readOnly_readBlock _ _ _ _)

/-- Reading an object. -/
theorem State.readOnly_objRead (s : State) (obj ofs n : Nat) : s.ReadOnly (s.objRead obj ofs n).2 := State.readOnly_imgRead _ _ _ _ _

theorem State.ReadOnly.core {s t : State} (h : s.ReadOnly t) (p : Nat) : t.core p = s.core p := by
  unfold State.ReadOnly at h
  rw [h]
  rfl

theorem State.ReadOnly.t0 {s t : State} (h : s.ReadOnly t) : t.t0 = s.t0 := by
  unfold State.ReadOnly at h
  rw [h]
theorem State.ReadOnly.slice {s t : State} (h : s.ReadOnly t) : t.slice = s.slice := by
  unfold State.ReadOnly at h
  rw [h]
theorem State.ReadOnly.tier {s t : State} (h : s.ReadOnly t) : t.tier = s.tier := by
  unfold State.ReadOnly at h
  rw [h]
theorem State.ReadOnly.flash {s t : State} (h : s.ReadOnly t) : t.flash = s.flash := by
  unfold State.ReadOnly at h
  rw [h]
theorem State.ReadOnly.t0Pz {s t : State} (h : s.ReadOnly t) : t.t0Pz = s.t0Pz := by
  unfold State.ReadOnly at h
  rw [h]
theorem State.ReadOnly.slicePz {s t : State} (h : s.ReadOnly t) : t.slicePz = s.slicePz := by
  unfold State.ReadOnly at h
  rw [h]
theorem State.ReadOnly.tierPz {s t : State} (h : s.ReadOnly t) : t.tierPz = s.tierPz := by
  unfold State.ReadOnly at h
  rw [h]
theorem State.ReadOnly.grade {s t : State} (h : s.ReadOnly t) : t.grade = s.grade := by
  unfold State.ReadOnly at h
  rw [h]
theorem State.ReadOnly.fused {s t : State} (h : s.ReadOnly t) : t.fused = s.fused := by
  unfold State.ReadOnly at h
  rw [h]
theorem State.ReadOnly.lmap {s t : State} (h : s.ReadOnly t) : t.lmap = s.lmap := by
  unfold State.ReadOnly at h
  rw [h]
theorem State.ReadOnly.ncores {s t : State} (h : s.ReadOnly t) : t.ncores = s.ncores := by
  unfold State.ReadOnly at h
  rw [h]
theorem State.ReadOnly.spares {s t : State} (h : s.ReadOnly t) : t.spares = s.spares := by
  unfold State.ReadOnly at h
  rw [h]
theorem State.ReadOnly.fences {s t : State} (h : s.ReadOnly t) : t.fences = s.fences := by
  unfold State.ReadOnly at h
  rw [h]
theorem State.ReadOnly.lport {s t : State} (h : s.ReadOnly t) : t.lport = s.lport := by
  unfold State.ReadOnly at h
  rw [h]
theorem State.ReadOnly.lchan {s t : State} (h : s.ReadOnly t) : t.lchan = s.lchan := by
  unfold State.ReadOnly at h
  rw [h]
theorem State.ReadOnly.lcodec {s t : State} (h : s.ReadOnly t) : t.lcodec = s.lcodec := by
  unfold State.ReadOnly at h
  rw [h]
theorem State.ReadOnly.cores {s t : State} (h : s.ReadOnly t) : t.cores = s.cores := by
  unfold State.ReadOnly at h
  rw [h]
theorem State.ReadOnly.clusters {s t : State} (h : s.ReadOnly t) : t.clusters = s.clusters := by
  unfold State.ReadOnly at h
  rw [h]
theorem State.ReadOnly.mesh {s t : State} (h : s.ReadOnly t) : t.mesh = s.mesh := by
  unfold State.ReadOnly at h
  rw [h]
theorem State.ReadOnly.obj {s t : State} (h : s.ReadOnly t) : t.obj = s.obj := by
  unfold State.ReadOnly at h
  rw [h]
theorem State.ReadOnly.sm {s t : State} (h : s.ReadOnly t) : t.sm = s.sm := by
  unfold State.ReadOnly at h
  rw [h]
theorem State.ReadOnly.rneUsed {s t : State} (h : s.ReadOnly t) : t.rneUsed = s.rneUsed := by
  unfold State.ReadOnly at h
  rw [h]
theorem State.ReadOnly.epoch {s t : State} (h : s.ReadOnly t) : t.epoch = s.epoch := by
  unfold State.ReadOnly at h
  rw [h]
theorem State.ReadOnly.sealed_ {s t : State} (h : s.ReadOnly t) : t.sealed_ = s.sealed_ := by
  unfold State.ReadOnly at h
  rw [h]
theorem State.ReadOnly.bar2 {s t : State} (h : s.ReadOnly t) : t.bar2 = s.bar2 := by
  unfold State.ReadOnly at h
  rw [h]
theorem State.ReadOnly.msixMask {s t : State} (h : s.ReadOnly t) : t.msixMask = s.msixMask := by
  unfold State.ReadOnly at h
  rw [h]
theorem State.ReadOnly.t3Key {s t : State} (h : s.ReadOnly t) : t.t3Key = s.t3Key := by
  unfold State.ReadOnly at h
  rw [h]
theorem State.ReadOnly.frames {s t : State} (h : s.ReadOnly t) : t.frames = s.frames := by
  unfold State.ReadOnly at h
  rw [h]
theorem State.ReadOnly.fl {s t : State} (h : s.ReadOnly t) : t.fl = s.fl := by
  unfold State.ReadOnly at h
  rw [h]
theorem State.ReadOnly.flashQ {s t : State} (h : s.ReadOnly t) : t.flashQ = s.flashQ := by
  unfold State.ReadOnly at h
  rw [h]
theorem State.ReadOnly.flashBusy {s t : State} (h : s.ReadOnly t) : t.flashBusy = s.flashBusy := by
  unfold State.ReadOnly at h
  rw [h]
theorem State.ReadOnly.huMv {s t : State} (h : s.ReadOnly t) : t.huMv = s.huMv := by
  unfold State.ReadOnly at h
  rw [h]
theorem State.ReadOnly.pwrfail {s t : State} (h : s.ReadOnly t) : t.pwrfail = s.pwrfail := by
  unfold State.ReadOnly at h
  rw [h]
theorem State.ReadOnly.ports {s t : State} (h : s.ReadOnly t) : t.ports = s.ports := by
  unfold State.ReadOnly at h
  rw [h]
theorem State.ReadOnly.mcs {s t : State} (h : s.ReadOnly t) : t.mcs = s.mcs := by
  unfold State.ReadOnly at h
  rw [h]
theorem State.ReadOnly.linkHeld {s t : State} (h : s.ReadOnly t) : t.linkHeld = s.linkHeld := by
  unfold State.ReadOnly at h
  rw [h]
theorem State.ReadOnly.repoch {s t : State} (h : s.ReadOnly t) : t.repoch = s.repoch := by
  unfold State.ReadOnly at h
  rw [h]
theorem State.ReadOnly.colls {s t : State} (h : s.ReadOnly t) : t.colls = s.colls := by
  unfold State.ReadOnly at h
  rw [h]
theorem State.ReadOnly.dstat {s t : State} (h : s.ReadOnly t) : t.dstat = s.dstat := by
  unfold State.ReadOnly at h
  rw [h]
theorem State.ReadOnly.collHeld {s t : State} (h : s.ReadOnly t) : t.collHeld = s.collHeld := by
  unfold State.ReadOnly at h
  rw [h]
theorem State.ReadOnly.staged {s t : State} (h : s.ReadOnly t) : t.staged = s.staged := by
  unfold State.ReadOnly at h
  rw [h]
theorem State.ReadOnly.cfg {s t : State} (h : s.ReadOnly t) : t.cfg = s.cfg := by
  unfold State.ReadOnly at h
  rw [h]
theorem State.ReadOnly.flip {s t : State} (h : s.ReadOnly t) : t.flip = s.flip := by
  unfold State.ReadOnly at h
  rw [h]
theorem State.ReadOnly.twopc {s t : State} (h : s.ReadOnly t) : t.twopc = s.twopc := by
  unfold State.ReadOnly at h
  rw [h]
theorem State.ReadOnly.rings {s t : State} (h : s.ReadOnly t) : t.rings = s.rings := by
  unfold State.ReadOnly at h
  rw [h]
theorem State.ReadOnly.hwin {s t : State} (h : s.ReadOnly t) : t.hwin = s.hwin := by
  unfold State.ReadOnly at h
  rw [h]
theorem State.ReadOnly.rcepoch {s t : State} (h : s.ReadOnly t) : t.rcepoch = s.rcepoch := by
  unfold State.ReadOnly at h
  rw [h]
theorem State.ReadOnly.pw {s t : State} (h : s.ReadOnly t) : t.pw = s.pw := by
  unfold State.ReadOnly at h
  rw [h]
theorem State.ReadOnly.rstLast {s t : State} (h : s.ReadOnly t) : t.rstLast = s.rstLast := by
  unfold State.ReadOnly at h
  rw [h]
theorem State.ReadOnly.coreRst {s t : State} (h : s.ReadOnly t) : t.coreRst = s.coreRst := by
  unfold State.ReadOnly at h
  rw [h]
theorem State.ReadOnly.rstStat {s t : State} (h : s.ReadOnly t) : t.rstStat = s.rstStat := by
  unfold State.ReadOnly at h
  rw [h]
theorem State.ReadOnly.powered {s t : State} (h : s.ReadOnly t) : t.powered = s.powered := by
  unfold State.ReadOnly at h
  rw [h]
theorem State.ReadOnly.lost {s t : State} (h : s.ReadOnly t) : t.lost = s.lost := by
  unfold State.ReadOnly at h
  rw [h]
theorem State.ReadOnly.linkUp {s t : State} (h : s.ReadOnly t) : t.linkUp = s.linkUp := by
  unfold State.ReadOnly at h
  rw [h]
theorem State.ReadOnly.sec {s t : State} (h : s.ReadOnly t) : t.sec = s.sec := by
  unfold State.ReadOnly at h
  rw [h]
theorem State.ReadOnly.sram {s t : State} (h : s.ReadOnly t) : t.sram = s.sram := by
  unfold State.ReadOnly at h
  rw [h]
theorem State.ReadOnly.smbus {s t : State} (h : s.ReadOnly t) : t.smbus = s.smbus := by
  unfold State.ReadOnly at h
  rw [h]
theorem State.ReadOnly.i3c {s t : State} (h : s.ReadOnly t) : t.i3c = s.i3c := by
  unfold State.ReadOnly at h
  rw [h]
theorem State.ReadOnly.jtag {s t : State} (h : s.ReadOnly t) : t.jtag = s.jtag := by
  unfold State.ReadOnly at h
  rw [h]
theorem State.ReadOnly.bsr {s t : State} (h : s.ReadOnly t) : t.bsr = s.bsr := by
  unfold State.ReadOnly at h
  rw [h]
theorem State.ReadOnly.fresh {s t : State} (h : s.ReadOnly t) : t.fresh = s.fresh := by
  unfold State.ReadOnly at h
  rw [h]
theorem State.ReadOnly.pending {s t : State} (h : s.ReadOnly t) : t.pending = s.pending := by
  unfold State.ReadOnly at h
  rw [h]

/-- A core reads the live copy of an object it has not pinned (R229). -/
theorem State.coreRead_unpinned {s : State} {p obj : Nat} (ofs n : Nat) (h : ((s.noteRead p obj).core p).pinOf obj = none) :
    s.coreRead p obj ofs n = (s.noteRead p obj).objRead obj ofs n := by
  simp [State.coreRead, State.readTarget, h]

/-! ### Writing an object -/

theorem State.WriteOnly.refl (s : State) : s.WriteOnly s := ⟨rfl, fun _ => rfl⟩

theorem State.WriteOnly.trans {s t u : State} (h : s.WriteOnly t) (k : t.WriteOnly u) : s.WriteOnly u := by
  refine ⟨?_, fun q => ?_⟩
  · rw [k.1, h.1]
  · rw [k.2 q, h.2 q]

theorem State.ReadOnly.writeOnly {s t : State} (h : s.ReadOnly t) : s.WriteOnly t := by
  refine ⟨?_, fun q => by rw [h.core]⟩
  unfold State.ReadOnly at h
  rw [h]

theorem State.writeOnly_bumpCore (s : State) (p o n : Nat) : s.WriteOnly (s.bumpCore p o n) := by
  refine ⟨rfl, fun q => ?_⟩
  by_cases e : p = q
  · subst e
    rw [State.bumpCore, State.core_modCore_self]
    rfl
  · rw [State.bumpCore, State.core_modCore_ne _ _ e]

theorem State.writeOnly_writePart (s : State) (tier set a : Nat) (d : List PByte) : s.WriteOnly (s.writePart tier set a d) := by
  unfold State.writePart
  simp only
  split
  · exact ⟨rfl, fun _ => rfl⟩
  · split
    · exact State.writeOnly_bumpCore _ _ _ _
    · exact State.WriteOnly.refl _
  · exact ⟨rfl, fun _ => rfl⟩
  · exact State.WriteOnly.refl _

theorem State.writeOnly_devWrite (s : State) (tier set a : Nat) (d : List PByte) : s.WriteOnly (s.devWrite tier set a d) := by
  unfold State.devWrite
  exact foldl_inv (fun t : State => s.WriteOnly t) _ (fun t x h => h.trans (State.writeOnly_writePart _ _ _ _ _)) _ _ (State.WriteOnly.refl s)

theorem State.writeOnly_writeImage (s : State) (obj : Nat) (e : ObjEnt) (b : Nat) (d : List PByte) : s.WriteOnly (s.writeImage obj e b d) := by
  unfold State.writeImage
  extract_lets po im sl m s0 od vc en pl sn pa hd iv st tg ch k s1 s2 s3 s4
  have h : ∀ t : State, ∀ o n, s.WriteOnly t → s.WriteOnly (t.bumpCodec k o n) := fun t o n h => h.trans (State.readOnly_bumpCodec _ _ _ _).writeOnly
  have h0 : s.WriteOnly s0 := (State.readOnly_countPoison _ _ _ _ _).writeOnly
  have h3 : s.WriteOnly s3 :=
    h _ _ _ (h _ _ _ (h0.trans ((State.writeOnly_devWrite _ _ _ _ _).trans (State.writeOnly_devWrite _ _ _ _ _))))
  have h4 : s.WriteOnly s4 := by
    simp only [s4]
    split
    · exact h _ _ _ h3
    · exact h3
  split
  · exact h _ _ _ h4
  · exact h4

theorem State.writeOnly_writeGroups (s : State) (e : ObjEnt) (b : Nat) (d : List PByte) (r : Nat × Nat) :
    s.WriteOnly (s.writeGroups e b d r) :=
  (State.writeOnly_devWrite s _ _ _ _).trans (State.writeOnly_devWrite _ _ _ _ _)

theorem State.writeOnly_writeBlock (s : State) (obj : Nat) (e : ObjEnt) (b at_ : Nat) (d : List PByte) :
    s.WriteOnly (s.writeBlock obj e b at_ d) := by
  unfold State.writeBlock
  extract_lets r im
  have h : s.WriteOnly r.2 := by
    simp only [r]
    split
    · exact State.WriteOnly.refl s
    · exact (State.readOnly_readImage s obj e b).writeOnly
  generalize r.2 = t at h
  split
  · exact h.trans (State.writeOnly_writeImage t obj e b im)
  · exact h.trans (State.writeOnly_writeGroups t e b im _)

theorem State.writeOnly_imgWrite (s : State) (obj : Nat) (e : ObjEnt) (ofs : Nat) (d : List PByte) : s.WriteOnly (s.imgWrite obj e ofs d) := by
  unfold State.imgWrite
  split
  · exact State.writeOnly_devWrite _ _ _ _ _
  · refine foldl_inv (fun t : State => s.WriteOnly t) _ ?_ _ _ (State.WriteOnly.refl s)
    intro t b h
    exact h.trans (State.writeOnly_writeBlock _ _ _ _ _ _)

/-- Writing an object. -/
theorem State.writeOnly_objWrite (s : State) (obj ofs : Nat) (d : List PByte) : s.WriteOnly (s.objWrite obj ofs d) := by
  unfold State.objWrite
  extract_lets e s1 s2
  have h1 : s.WriteOnly s1 := State.writeOnly_imgWrite _ _ _ _ _
  have h2 : s.WriteOnly s2 := by
    simp only [s2]
    split
    · split
      · exact h1.trans (State.writeOnly_imgWrite _ _ _ _ _)
      · exact h1
    · exact h1
  split
  · exact h2.trans (State.writeOnly_imgWrite _ _ _ _ _)
  · exact h2

theorem State.WriteOnly.t0 {s t : State} (h : s.WriteOnly t) : t.t0 = s.t0 := by
  rw [h.1]
theorem State.WriteOnly.flash {s t : State} (h : s.WriteOnly t) : t.flash = s.flash := by
  rw [h.1]
theorem State.WriteOnly.t0Pz {s t : State} (h : s.WriteOnly t) : t.t0Pz = s.t0Pz := by
  rw [h.1]
theorem State.WriteOnly.grade {s t : State} (h : s.WriteOnly t) : t.grade = s.grade := by
  rw [h.1]
theorem State.WriteOnly.fused {s t : State} (h : s.WriteOnly t) : t.fused = s.fused := by
  rw [h.1]
theorem State.WriteOnly.lmap {s t : State} (h : s.WriteOnly t) : t.lmap = s.lmap := by
  rw [h.1]
theorem State.WriteOnly.ncores {s t : State} (h : s.WriteOnly t) : t.ncores = s.ncores := by
  rw [h.1]
theorem State.WriteOnly.spares {s t : State} (h : s.WriteOnly t) : t.spares = s.spares := by
  rw [h.1]
theorem State.WriteOnly.fences {s t : State} (h : s.WriteOnly t) : t.fences = s.fences := by
  rw [h.1]
theorem State.WriteOnly.lport {s t : State} (h : s.WriteOnly t) : t.lport = s.lport := by
  rw [h.1]
theorem State.WriteOnly.lchan {s t : State} (h : s.WriteOnly t) : t.lchan = s.lchan := by
  rw [h.1]
theorem State.WriteOnly.lcodec {s t : State} (h : s.WriteOnly t) : t.lcodec = s.lcodec := by
  rw [h.1]
theorem State.WriteOnly.clusters {s t : State} (h : s.WriteOnly t) : t.clusters = s.clusters := by
  rw [h.1]
theorem State.WriteOnly.mesh {s t : State} (h : s.WriteOnly t) : t.mesh = s.mesh := by
  rw [h.1]
theorem State.WriteOnly.obj {s t : State} (h : s.WriteOnly t) : t.obj = s.obj := by
  rw [h.1]
theorem State.WriteOnly.sm {s t : State} (h : s.WriteOnly t) : t.sm = s.sm := by
  rw [h.1]
theorem State.WriteOnly.rneUsed {s t : State} (h : s.WriteOnly t) : t.rneUsed = s.rneUsed := by
  rw [h.1]
theorem State.WriteOnly.epoch {s t : State} (h : s.WriteOnly t) : t.epoch = s.epoch := by
  rw [h.1]
theorem State.WriteOnly.sealed_ {s t : State} (h : s.WriteOnly t) : t.sealed_ = s.sealed_ := by
  rw [h.1]
theorem State.WriteOnly.bar2 {s t : State} (h : s.WriteOnly t) : t.bar2 = s.bar2 := by
  rw [h.1]
theorem State.WriteOnly.msixMask {s t : State} (h : s.WriteOnly t) : t.msixMask = s.msixMask := by
  rw [h.1]
theorem State.WriteOnly.t3Key {s t : State} (h : s.WriteOnly t) : t.t3Key = s.t3Key := by
  rw [h.1]
theorem State.WriteOnly.frames {s t : State} (h : s.WriteOnly t) : t.frames = s.frames := by
  rw [h.1]
theorem State.WriteOnly.fl {s t : State} (h : s.WriteOnly t) : t.fl = s.fl := by
  rw [h.1]
theorem State.WriteOnly.flashQ {s t : State} (h : s.WriteOnly t) : t.flashQ = s.flashQ := by
  rw [h.1]
theorem State.WriteOnly.flashBusy {s t : State} (h : s.WriteOnly t) : t.flashBusy = s.flashBusy := by
  rw [h.1]
theorem State.WriteOnly.huMv {s t : State} (h : s.WriteOnly t) : t.huMv = s.huMv := by
  rw [h.1]
theorem State.WriteOnly.pwrfail {s t : State} (h : s.WriteOnly t) : t.pwrfail = s.pwrfail := by
  rw [h.1]
theorem State.WriteOnly.ports {s t : State} (h : s.WriteOnly t) : t.ports = s.ports := by
  rw [h.1]
theorem State.WriteOnly.mcs {s t : State} (h : s.WriteOnly t) : t.mcs = s.mcs := by
  rw [h.1]
theorem State.WriteOnly.linkHeld {s t : State} (h : s.WriteOnly t) : t.linkHeld = s.linkHeld := by
  rw [h.1]
theorem State.WriteOnly.repoch {s t : State} (h : s.WriteOnly t) : t.repoch = s.repoch := by
  rw [h.1]
theorem State.WriteOnly.colls {s t : State} (h : s.WriteOnly t) : t.colls = s.colls := by
  rw [h.1]
theorem State.WriteOnly.dstat {s t : State} (h : s.WriteOnly t) : t.dstat = s.dstat := by
  rw [h.1]
theorem State.WriteOnly.collHeld {s t : State} (h : s.WriteOnly t) : t.collHeld = s.collHeld := by
  rw [h.1]
theorem State.WriteOnly.staged {s t : State} (h : s.WriteOnly t) : t.staged = s.staged := by
  rw [h.1]
theorem State.WriteOnly.cfg {s t : State} (h : s.WriteOnly t) : t.cfg = s.cfg := by
  rw [h.1]
theorem State.WriteOnly.flip {s t : State} (h : s.WriteOnly t) : t.flip = s.flip := by
  rw [h.1]
theorem State.WriteOnly.twopc {s t : State} (h : s.WriteOnly t) : t.twopc = s.twopc := by
  rw [h.1]
theorem State.WriteOnly.rings {s t : State} (h : s.WriteOnly t) : t.rings = s.rings := by
  rw [h.1]
theorem State.WriteOnly.hwin {s t : State} (h : s.WriteOnly t) : t.hwin = s.hwin := by
  rw [h.1]
theorem State.WriteOnly.rcepoch {s t : State} (h : s.WriteOnly t) : t.rcepoch = s.rcepoch := by
  rw [h.1]
theorem State.WriteOnly.pw {s t : State} (h : s.WriteOnly t) : t.pw = s.pw := by
  rw [h.1]
theorem State.WriteOnly.rstLast {s t : State} (h : s.WriteOnly t) : t.rstLast = s.rstLast := by
  rw [h.1]
theorem State.WriteOnly.coreRst {s t : State} (h : s.WriteOnly t) : t.coreRst = s.coreRst := by
  rw [h.1]
theorem State.WriteOnly.rstStat {s t : State} (h : s.WriteOnly t) : t.rstStat = s.rstStat := by
  rw [h.1]
theorem State.WriteOnly.powered {s t : State} (h : s.WriteOnly t) : t.powered = s.powered := by
  rw [h.1]
theorem State.WriteOnly.lost {s t : State} (h : s.WriteOnly t) : t.lost = s.lost := by
  rw [h.1]
theorem State.WriteOnly.linkUp {s t : State} (h : s.WriteOnly t) : t.linkUp = s.linkUp := by
  rw [h.1]
theorem State.WriteOnly.sec {s t : State} (h : s.WriteOnly t) : t.sec = s.sec := by
  rw [h.1]
theorem State.WriteOnly.sram {s t : State} (h : s.WriteOnly t) : t.sram = s.sram := by
  rw [h.1]
theorem State.WriteOnly.smbus {s t : State} (h : s.WriteOnly t) : t.smbus = s.smbus := by
  rw [h.1]
theorem State.WriteOnly.i3c {s t : State} (h : s.WriteOnly t) : t.i3c = s.i3c := by
  rw [h.1]
theorem State.WriteOnly.jtag {s t : State} (h : s.WriteOnly t) : t.jtag = s.jtag := by
  rw [h.1]
theorem State.WriteOnly.bsr {s t : State} (h : s.WriteOnly t) : t.bsr = s.bsr := by
  rw [h.1]
theorem State.WriteOnly.fresh {s t : State} (h : s.WriteOnly t) : t.fresh = s.fresh := by
  rw [h.1]
theorem State.WriteOnly.pending {s t : State} (h : s.WriteOnly t) : t.pending = s.pending := by
  rw [h.1]
theorem State.WriteOnly.core_seq {s t : State} (h : s.WriteOnly t) (q : Nat) : (t.core q).seq = (s.core q).seq := by
  rw [h.2 q]
theorem State.WriteOnly.core_cq {s t : State} (h : s.WriteOnly t) (q : Nat) : (t.core q).cq = (s.core q).cq := by
  rw [h.2 q]
theorem State.WriteOnly.core_dq {s t : State} (h : s.WriteOnly t) (q : Nat) : (t.core q).dq = (s.core q).dq := by
  rw [h.2 q]
theorem State.WriteOnly.core_hq {s t : State} (h : s.WriteOnly t) (q : Nat) : (t.core q).hq = (s.core q).hq := by
  rw [h.2 q]
theorem State.WriteOnly.core_bt {s t : State} (h : s.WriteOnly t) (q : Nat) : (t.core q).bt = (s.core q).bt := by
  rw [h.2 q]
theorem State.WriteOnly.core_pools {s t : State} (h : s.WriteOnly t) (q : Nat) : (t.core q).pools = (s.core q).pools := by
  rw [h.2 q]
theorem State.WriteOnly.core_sd {s t : State} (h : s.WriteOnly t) (q : Nat) : (t.core q).sd = (s.core q).sd := by
  rw [h.2 q]
theorem State.WriteOnly.core_ldAg {s t : State} (h : s.WriteOnly t) (q : Nat) : (t.core q).ldAg = (s.core q).ldAg := by
  rw [h.2 q]
theorem State.WriteOnly.core_wrAg {s t : State} (h : s.WriteOnly t) (q : Nat) : (t.core q).wrAg = (s.core q).wrAg := by
  rw [h.2 q]
theorem State.WriteOnly.core_vecAg {s t : State} (h : s.WriteOnly t) (q : Nat) : (t.core q).vecAg = (s.core q).vecAg := by
  rw [h.2 q]
theorem State.WriteOnly.core_engA {s t : State} (h : s.WriteOnly t) (q : Nat) : (t.core q).engA = (s.core q).engA := by
  rw [h.2 q]
theorem State.WriteOnly.core_engB {s t : State} (h : s.WriteOnly t) (q : Nat) : (t.core q).engB = (s.core q).engB := by
  rw [h.2 q]
theorem State.WriteOnly.core_sht {s t : State} (h : s.WriteOnly t) (q : Nat) : (t.core q).sht = (s.core q).sht := by
  rw [h.2 q]
theorem State.WriteOnly.core_drn {s t : State} (h : s.WriteOnly t) (q : Nat) : (t.core q).drn = (s.core q).drn := by
  rw [h.2 q]
theorem State.WriteOnly.core_vec {s t : State} (h : s.WriteOnly t) (q : Nat) : (t.core q).vec = (s.core q).vec := by
  rw [h.2 q]
theorem State.WriteOnly.core_upd {s t : State} (h : s.WriteOnly t) (q : Nat) : (t.core q).upd = (s.core q).upd := by
  rw [h.2 q]
theorem State.WriteOnly.core_inflight {s t : State} (h : s.WriteOnly t) (q : Nat) : (t.core q).inflight = (s.core q).inflight := by
  rw [h.2 q]
theorem State.WriteOnly.core_transit {s t : State} (h : s.WriteOnly t) (q : Nat) : (t.core q).transit = (s.core q).transit := by
  rw [h.2 q]
theorem State.WriteOnly.core_heldH {s t : State} (h : s.WriteOnly t) (q : Nat) : (t.core q).heldH = (s.core q).heldH := by
  rw [h.2 q]
theorem State.WriteOnly.core_dropH {s t : State} (h : s.WriteOnly t) (q : Nat) : (t.core q).dropH = (s.core q).dropH := by
  rw [h.2 q]
theorem State.WriteOnly.core_tags {s t : State} (h : s.WriteOnly t) (q : Nat) : (t.core q).tags = (s.core q).tags := by
  rw [h.2 q]
theorem State.WriteOnly.core_dmaQ {s t : State} (h : s.WriteOnly t) (q : Nat) : (t.core q).dmaQ = (s.core q).dmaQ := by
  rw [h.2 q]
theorem State.WriteOnly.core_stash {s t : State} (h : s.WriteOnly t) (q : Nat) : (t.core q).stash = (s.core q).stash := by
  rw [h.2 q]
theorem State.WriteOnly.core_pins {s t : State} (h : s.WriteOnly t) (q : Nat) : (t.core q).pins = (s.core q).pins := by
  rw [h.2 q]
theorem State.WriteOnly.core_mbx {s t : State} (h : s.WriteOnly t) (q : Nat) : (t.core q).mbx = (s.core q).mbx := by
  rw [h.2 q]
theorem State.WriteOnly.core_rem {s t : State} (h : s.WriteOnly t) (q : Nat) : (t.core q).rem = (s.core q).rem := by
  rw [h.2 q]
theorem State.WriteOnly.core_pre {s t : State} (h : s.WriteOnly t) (q : Nat) : (t.core q).pre = (s.core q).pre := by
  rw [h.2 q]
theorem State.WriteOnly.core_rcmt {s t : State} (h : s.WriteOnly t) (q : Nat) : (t.core q).rcmt = (s.core q).rcmt := by
  rw [h.2 q]
theorem State.WriteOnly.core_fence {s t : State} (h : s.WriteOnly t) (q : Nat) : (t.core q).fence = (s.core q).fence := by
  rw [h.2 q]
theorem State.WriteOnly.core_regs {s t : State} (h : s.WriteOnly t) (q : Nat) : (t.core q).regs = (s.core q).regs := by
  rw [h.2 q]
theorem State.WriteOnly.core_poolLatch {s t : State} (h : s.WriteOnly t) (q : Nat) : (t.core q).poolLatch = (s.core q).poolLatch := by
  rw [h.2 q]

end Sys2Proof.Machine
end

