-- ==== Sys2Proof/Laws/Sequencer.lean ====
section
/-! SUPPORT. The sequencer's shared operations: a SEQ word whose wait is met, fetching, the signal of a word, empty control queues. -/

namespace Sys2Proof.Machine

/-- A SEQ word in hand with its wait met makes its effect. -/
theorem State.onSeq_ready {s : State} {c p op : Nat} {w : CWord} {k : Core} (h : s.SeqReady c p op w k) (eff : State → Nat → Core → CWord → State) :
    s.onSeq c op eff = (eff s p k w).rstBegin := by
  obtain ⟨ha, hc, ho, hr, hp, hw⟩ := h
  unfold State.onSeq
  rw [State.onCore_answers _ ha]
  cases e : (s.core p).seq.cur with
  | none => simp [e] at hc
  | some u =>
    rw [e] at hc
    have hu : u.word = w := by simpa using hc
    simp [hr, hp, hu, ho, hw]

theorem State.seqPlain_ready {s : State} {c p op : Nat} {w : CWord} {k : Core} (h : s.SeqReady c p op w k) (eff : Core → CWord → Core) :
    s.seqPlain c op eff = s.afterSeq p w k ((eff k w).seqDone none) := by
  unfold State.seqPlain
  rw [State.onSeq_ready h]
  rfl

/-- Every control queue empty. -/
theorem Core.synced_iff (c : Core) : c.synced = true ↔ ∀ q l, (q, l) ∈ c.cq → l = [] := by
  unfold Core.synced
  rw [List.all_eq_true]
  constructor
  · intro h q l hm
    simpa using h (q, l) hm
  · rintro h ⟨q, l⟩ hm
    simp [h q l hm]

/-- A wait met advances TARGET of one barrier at most (R148). -/
theorem Core.seqWait_ready {c k : Core} {w : CWord} (h : c.seqWait w = .ready k) : k = { c with seq := { c.seq with bars := k.seq.bars } } := by
  unfold Core.seqWait at h
  split at h
  · split at h
    · injection h with h; subst h; rfl
    · cases h
  · split at h
    · injection h with h; subst h; rfl
    · simp only at h
      split at h
      · cases h
      · split at h
        · cases h
        · injection h with h; subst h; rfl

/-- A loop's next address depends on the loops and the address alone; a completed SEQ word leaves the rest of the core. -/
theorem Core.seqDone_only (c : Core) (j : Option Nat) :
    c.seqDone j = { c with
      seq := { c.seq with loops := (c.seqDone j).seq.loops, pc := (c.seqDone j).seq.pc, seqno := (c.seq.seqno + 1) % 65536, cur := none }
      cnt := (c.bump cDispatched 1).cnt } := by
  unfold Core.seqDone
  cases j <;> rfl

/-- A word's signal changes a barrier of its core, or halts it (R150, R151). -/
theorem State.wordSignal_cases (s : State) (p : Nat) (w : CWord) (r : HaltRec) :
    s.wordSignal p w r = s
      ∨ s.wordSignal p w r = s.setCore p ((s.core p).setBar (wSigBar w)
          { (s.core p).bar (wSigBar w) with count := (((s.core p).bar (wSigBar w)).count + 1) % 65536 })
      ∨ s.wordSignal p w r = s.halt p { r with reason := 0x07, info := wSigBar w + 256 + r.unit * 4096 } := by
  unfold State.wordSignal
  split
  · exact Or.inr (State.signal_cases s p _ 1 r)
  · exact Or.inl rfl

/-- What a word's signal leaves of any core: everything but barriers and what a halt writes. -/
theorem State.wordSignal_core (s : State) (p q : Nat) (w : CWord) (r : HaltRec) :
    ∃ b, (({ s.core q with seq := { (s.core q).seq with bars := b } } : Core)).StopOnly ((s.wordSignal p w r).core q) := by
  rcases State.wordSignal_cases s p w r with h | h | h
  · exact ⟨(s.core q).seq.bars, by rw [h]; exact Core.StopOnly.refl _⟩
  · rw [h]
    by_cases e : p = q
    · subst e
      refine ⟨((s.core p).setBar (wSigBar w) { (s.core p).bar (wSigBar w) with
        count := (((s.core p).bar (wSigBar w)).count + 1) % 65536 }).seq.bars, ?_⟩
      rw [State.core_setCore_self]
      exact Core.StopOnly.refl _
    · refine ⟨(s.core q).seq.bars, ?_⟩
      rw [State.core_setCore_ne _ _ e]
      exact Core.StopOnly.refl _
  · exact ⟨(s.core q).seq.bars, by rw [h]; exact (State.stopOnly_halt _ _ _).2 q⟩

/-- A word's signal leaves nothing in hand where nothing was. -/
theorem State.cur_wordSignal {s : State} {p : Nat} (w : CWord) (r : HaltRec) (h : (s.core p).seq.cur = none) :
    ((s.wordSignal p w r).core p).seq.cur = none := by
  rcases State.wordSignal_cases s p w r with e | e | e
  · rw [e, h]
  · rw [e, State.core_setCore_self]
    exact h
  · by_cases hs : (s.core p).seq.state = .halted ∨ (s.core p).seq.state = .frozen
    · rw [e, State.seq_halt_of_stopped _ hs, h]
    · simp only [not_or] at hs
      rw [e, State.seq_halt _ hs.1 hs.2]

/-- What a word's signal leaves of the state beside the cores. -/
theorem State.wordSignal_only (s : State) (p : Nat) (w : CWord) (r : HaltRec) :
    ∃ cs fr rg iq mp ou dl, s.wordSignal p w r = { s with cores := cs, frames := fr, regs := rg, irq := iq, msixPba := mp, out := ou, deliv := dl } := by
  rcases State.wordSignal_cases s p w r with h | h | h
  · exact ⟨_, _, _, _, _, _, _, h⟩
  · exact ⟨_, _, _, _, _, _, _, h⟩
  · exact ⟨_, _, _, _, _, _, _, h.trans (State.stopOnly_halt _ _ _).1⟩

/-- Asking for a line leaves the core but for its DMA queue, its fills and the miss counter (R138). -/
theorem State.core_askLine (s : State) (p line : Nat) (d : Bool) :
    ∃ q f n, (s.askLine p line d).core p = { s.core p with dmaQ := q, seq := { (s.core p).seq with fills := f }, cnt := n } := by
  unfold State.askLine
  simp only
  split
  · split
    · exact ⟨_, _, _, by rw [State.core_setCore_self]; rfl⟩
    · exact ⟨_, _, _, rfl⟩
  · rw [State.core_setCore_self]
    cases (s.findObj (line * 512)).bind fun o => (s.objChan o (line * 512 - (s.objEnt o).start)).map fun ch => (o, ch) <;>
    cases d <;> exact ⟨_, _, _, rfl⟩

end Sys2Proof.Machine
end

