-- ==== Sys2Proof/Laws/Handles.lean ====
section
/-! SUPPORT. Handles, buffers and pins: what returning them leaves of a core (R230, R232, R265, R284). -/

namespace Sys2Proof.Machine

/-- A word of a unit in the place asked for does its work. -/
theorem State.onWord_ready {s : State} {c p q op i : Nat} {e : Cqe} (h : s.WordAt c p q op i e) (f : State → Nat → Core → Cqe → State) :
    s.onWord c q op i f = (f s p (s.core p) e).rstBegin := by
  obtain ⟨ha, hw, h1, h2, h3, h4⟩ := h
  unfold State.onWord
  rw [State.onCore_answers _ ha]
  simp [State.doWord, hw, h1, h2, h3, h4]

/-- The word that a unit is at does its work. -/
theorem State.onCur_ready {s : State} {c p q op i : Nat} {e : Cqe} (h : s.CurAt c p q op i e) (f : State → Nat → Core → Nat → Cqe → State) :
    s.onCur c q op f = (f s p (s.core p) i e).rstBegin := by
  obtain ⟨ha, hw, h1, h2⟩ := h
  unfold State.onCur
  rw [State.onCore_answers _ ha]
  simp [hw, h1, h2]

/-- A finished word. -/
theorem State.finished_finish {s : State} {p q i : Nat} (e : Cqe) (h : i < ((s.core p).words q).length) : (s.finish p q i e).Finished p q i := by
  unfold State.Finished State.finish State.putWord
  rw [State.core_modCore_self]
  simp [Core.setWord, h]

/-- Two cores differ at most in their handle queues, free lists, handles held, stash, counters and buffer table. -/
def Core.HandleOnly (c d : Core) : Prop :=
  d = { c with hq := d.hq, bt := d.bt, pools := d.pools, inflight := d.inflight, transit := d.transit, heldH := d.heldH, stash := d.stash,
               cnt := d.cnt }

theorem Core.HandleOnly.refl (c : Core) : c.HandleOnly c := rfl

theorem Core.HandleOnly.trans {c d e : Core} (h : c.HandleOnly d) (k : d.HandleOnly e) : c.HandleOnly e := by
  unfold Core.HandleOnly at *
  rw [k, h]

theorem Core.HandleOnly.seq {c d : Core} (h : c.HandleOnly d) : d.seq = c.seq := by
  unfold Core.HandleOnly at h
  rw [h]

theorem Core.HandleOnly.cq {c d : Core} (h : c.HandleOnly d) : d.cq = c.cq := by
  unfold Core.HandleOnly at h
  rw [h]

theorem Core.HandleOnly.dq {c d : Core} (h : c.HandleOnly d) : d.dq = c.dq := by
  unfold Core.HandleOnly at h
  rw [h]

theorem Core.handleOnly_putFree (c : Core) (i : Nat) : c.HandleOnly (c.putFree i).1 := by
  unfold Core.putFree
  split
  · rfl
  · simp only
    split
    · rfl
    · split <;> rfl

theorem Core.handleOnly_pushHandle (c : Core) (q : Nat) (e : HqEnt) : c.HandleOnly (c.pushHandle q e) := rfl

theorem State.core_sendCredit (s : State) (p q n r : Nat) : (s.sendCredit p q n).core r = s.core r := by
  unfold State.sendCredit
  split
  · split
    · split <;> rfl
    · rfl
  · rfl

/-- Releasing a handle. -/
theorem State.handleOnly_release (s : State) (p h q : Nat) : (s.core q).HandleOnly ((s.release p h).core q) := by
  unfold State.release
  simp only
  have key : (s.core q).HandleOnly ((s.setCore p (({ s.core p with
      heldH := erase1 (s.core p).heldH (hIdx h), inflight := erase1 (s.core p).inflight (hIdx h),
      transit := erase1 (s.core p).transit (hIdx h) } : Core).putFree (hIdx h)).1).core q) := by
    by_cases e : p = q
    · subst e
      rw [State.core_setCore_self]
      exact Core.HandleOnly.trans (d := { s.core p with
        heldH := erase1 (s.core p).heldH (hIdx h), inflight := erase1 (s.core p).inflight (hIdx h),
        transit := erase1 (s.core p).transit (hIdx h) }) rfl (Core.handleOnly_putFree _ _)
    · rw [State.core_setCore_ne _ _ e]
      exact Core.HandleOnly.refl _
  split
  · rw [State.core_sendCredit]
    exact key
  · exact key

theorem State.handleOnly_modCore (s : State) (p q : Nat) (f : Core → Core) (h : (s.core p).HandleOnly (f (s.core p))) :
    (s.core q).HandleOnly ((s.modCore p f).core q) := by
  by_cases e : p = q
  · subst e
    rw [State.core_modCore_self]
    exact h
  · rw [State.core_modCore_ne _ _ e]
    exact Core.HandleOnly.refl _

theorem handleOnly_presentGo (s : State) (n : Nat) (c : Core) : c.HandleOnly (presentGo s n c) := by
  induction n generalizing c with
  | zero => rfl
  | succ n ih =>
    unfold presentGo
    simp only
    split
    · split
      · exact Core.HandleOnly.trans (by rfl) (ih _)
      · rfl
    · rfl

/-- Presenting free stash frames (R222). -/
theorem State.handleOnly_stashPresent (s : State) (p q : Nat) : (s.core q).HandleOnly ((s.stashPresent p).core q) := by
  unfold State.stashPresent
  simp only
  split
  · by_cases e : p = q
    · subst e
      rw [State.core_setCore_self]
      exact handleOnly_presentGo _ _ _
    · rw [State.core_setCore_ne _ _ e]
      exact Core.HandleOnly.refl _
  · exact Core.HandleOnly.refl _

theorem State.handleOnly_streamComplete (s : State) (p q : Nat) (e : Cqe) : (s.core q).HandleOnly ((s.streamComplete p e).core q) := by
  unfold State.streamComplete
  split
  · exact Core.HandleOnly.refl _
  · extract_lets d s1 s2
    have h1 : (s.core q).HandleOnly (s1.core q) := by
      simp only [s1]
      split
      · exact State.handleOnly_release _ _ _ _
      · exact Core.HandleOnly.refl _
    have h2 : (s.core q).HandleOnly (s2.core q) := by
      simp only [s2]
      split
      · refine (h1.trans ?_).trans (State.handleOnly_stashPresent _ _ _)
        exact State.handleOnly_modCore _ _ _ _ (by rfl)
      · exact h1
    clear_value s2
    split
    · exact h2
    · split
      · refine (h2.trans ?_).trans (State.handleOnly_release _ _ _ _)
        exact State.handleOnly_modCore _ _ _ _ (by rfl)
      · refine h2.trans ?_
        by_cases e : p = q
        · subst e
          rw [State.core_setCore_self]
          exact (Core.handleOnly_pushHandle _ _ _).trans (by rfl)
        · rw [State.core_setCore_ne _ _ e]
          exact Core.HandleOnly.refl _

theorem State.handleOnly_loadComplete (s : State) (p q : Nat) (e : Cqe) : (s.core q).HandleOnly ((s.loadComplete p e).core q) := by
  unfold State.loadComplete
  split
  · split
    · exact State.handleOnly_release _ _ _ _
    · exact Core.HandleOnly.refl _
  · exact Core.HandleOnly.refl _

theorem State.handleOnly_writeComplete (s : State) (p q : Nat) (e : Cqe) : (s.core q).HandleOnly ((s.writeComplete p e).core q) := by
  unfold State.writeComplete
  split
  · exact Core.HandleOnly.refl _
  · simp only
    rename_i h _
    have h1 : (s.core q).HandleOnly ((s.modCore p fun c => match c.recordOf h with
        | some n => c.commitRecord n
        | none => c).core q) := by
      refine State.handleOnly_modCore _ _ _ _ ?_
      split <;> rfl
    split
    · exact h1.trans (State.handleOnly_modCore _ _ _ _ (Core.handleOnly_pushHandle _ _ _))
    · exact (h1.trans (State.handleOnly_release _ _ _ _)).trans (State.handleOnly_stashPresent _ _ _)

/-- The completion of a word's unit returns handles and records. -/
theorem State.handleOnly_unitComplete (s : State) (p r q : Nat) (e : Cqe) : (s.core q).HandleOnly ((s.unitComplete p r e).core q) := by
  unfold State.unitComplete
  split
  · exact State.handleOnly_streamComplete _ _ _ _
  · exact State.handleOnly_loadComplete _ _ _ _
  · exact State.handleOnly_writeComplete _ _ _ _
  · exact Core.HandleOnly.refl _

/-- Pins are dropped on the object side. -/
theorem State.dropPins_only (s : State) (o v n : Nat) : s.dropPins o v n = { s with obj := (s.dropPins o v n).obj } := by
  unfold State.dropPins
  simp only
  split
  · split <;> rfl
  · rfl

theorem State.releasePins_only (s : State) (p : Nat) :
    ∃ ob, s.releasePins p = State.modCore { s with obj := ob } p fun c => { c with pins := [] } := by
  unfold State.releasePins
  simp only
  have h : ∃ ob, (s.core p).pins.foldl (fun s x => s.dropPins x.obj x.ver x.cnt) s = { s with obj := ob } := by
    refine foldl_inv (fun t : State => ∃ ob, t = { s with obj := ob }) _ ?_ _ _ ⟨s.obj, rfl⟩
    rintro t x ⟨ob, rfl⟩
    exact ⟨_, State.dropPins_only _ _ _ _⟩
  obtain ⟨ob, h⟩ := h
  exact ⟨ob, by rw [h]⟩

end Sys2Proof.Machine
end

