-- ==== Sys2Proof/WellFormed.lean ====
section
/-! DEFINITION. What a well-formed command is: every operand that names a unit, a queue, a group or a field of a message fits the number of
units, or the bits, that the spec gives it. The meanings are total: a command that is not well formed does what its rules say of a number out of range. -/

namespace Sys2Proof

/-- A logical core number (R10, R12). -/
def coreOk (c : Nat) : Bool := c < 512
/-- An engine of a core: A or B. -/
def engOk (e : Nat) : Bool := e < 2
/-- A lane of the drain (R135). -/
def laneOk (l : Nat) : Bool := l < 2
/-- A control queue (R135); 10 is drain lane B. -/
def queueOk (q : Nat) : Bool := decide (1 ≤ q) && q ≤ 10
/-- A physical cluster (R12). -/
def clusterOk (g : Nat) : Bool := g < 64
/-- A channel: 0 to 7 an HBM4 stack, 8 to 15 a DDR5 channel. -/
def chanOk (c : Nat) : Bool := c < 16
/-- A DMA tag (R280). -/
def tagNumOk (t : Nat) : Bool := t < 24
/-- A pool of handles (R264). -/
def poolOk (p : Nat) : Bool := p < 16
/-- A control processor (R401). -/
def cpOk (c : Nat) : Bool := c < 4
/-- An interrupt source (R403). -/
def sourceOk (n : Nat) : Bool := decide (0 < n) && n < 1024
/-- A command ring (R393). -/
def ringOk (r : Nat) : Bool := r < 17
/-- A Hextis port (R35). -/
def portOk (p : Nat) : Bool := p < 24
/-- A device ID of a roster (R341). -/
def devOk (d : Nat) : Bool := d < 64
/-- A multicast group (R346). -/
def groupOk (g : Nat) : Bool := g < 16
/-- A 16-bit sequence number. -/
def halfOk (n : Nat) : Bool := n < 65536
/-- A collective descriptor (R355). -/
def descOk (c : Nat) : Bool := c < 256
/-- A security session (R448). -/
def sessOk (n : Nat) : Bool := n < 4
/-- An object number (R297). -/
def objOk (n : Nat) : Bool := n < 65536
/-- An island of the model's list (R417). -/
def islandOk (n : Nat) : Bool := n < 626
/-- A configuration epoch, CEPOCH of a packet (R325). -/
def epochOk (n : Nat) : Bool := n < 256

/-- The fields of a header flit and of the packet's encryption fit their bits (R325, R327), and the poisoned pieces are pieces of its data. -/
def PktHdr.wf (h : PktHdr) : Bool :=
  decide (h.typ < 16) && decide (h.vc < 4) && decide (h.cls < 2) && decide (h.hops < 16) && decide (h.cepoch < 16) && decide (h.repoch < 256)
    && decide (h.srcDev < 256) && decide (h.dstDev < 256) && decide (h.plen < 256) && decide (h.lastB < 64) && decide (h.srcCore < 1024)
    && decide (h.dstCore < 1024) && decide (h.addr < 2 ^ 52) && decide (h.obj < 65536) && decide (h.dbar < 32) && decide (h.rhq < 8)
    && decide (h.hepoch < 256) && decide (h.mseq < 65536) && decide (h.mgrp < 16) && decide (h.route < 1024) && decide (h.pctr < 2 ^ 40) && decide (h.tag < 2 ^ 128) && h.pz.all (· < 64)

/-- The fields of a collective header fit their bits (R365). -/
def CollHdr.wf (c : CollHdr) : Bool :=
  descOk c.cdesc && decide (c.inst < 256) && decide (c.attempt < 256) && decide (c.step < 256) && decide (c.phase < 4) && decide (c.w < 2)
    && decide (c.instHi < 32) && decide (c.nb ≤ 29) && decide (c.digest < 65536) && decide (c.first < 2 ^ 28)

/-- The fields of a HELLO fit (R331). -/
def Hello.wf (m : Hello) : Bool := decide (m.dev < 256) && decide (m.port < 32)

/-- A command is well formed. -/
def Instr.wf : Instr → Bool
  | .dispatch c | .fetchFill c _ | .watchdog c | .coreDone c | .nop c | .qBind c | .barSet c | .barSig c | .sync c | .loop c | .br c
    | .brc c | .lcSet c | .lcAdd c | .lcPop c | .flagClr c | .stepOpen c | .stepClose c | .irq c | .brk c | .endWord c | .strLdd c _
    | .strCopy c _ | .strCancel c _ | .strL2flush c _ | .strL2inv c _ | .strPin c _ | .strUnpin c _ | .ldAgset c _ | .ldVec c _ _
    | .ldPair c _ | .ldCast c _ | .ldSht c _ | .servingRelease c | .xpose c _ | .drnCfg c | .drnTbl c | .drnStat c | .vecEw c
    | .vecRed c | .vecCmpred c | .vecSmax c | .vecNorm c | .vecGath c | .vecScat c | .vecSort c | .vecNms c | .vecLoss c
    | .vecL1flush c | .vecL1inv c | .vecAgset c | .vecSrctx c | .vecOpt c | .wrAgset c | .wrRows c | .stashSpill c | .stashSpillDone c
    | .updHp c | .updRun c | .updNorm c | .exPut c _ | .exHbind c _ | .exHfwd c _ | .exMail c _ | .exMrecv c _ | .exFelt c _
    | .exColl c _ | .gconv c _ | .pinWaitRelease c | .commitDone c | .preemptRequest c | .preemptBoundary c _ | .saveDone c _ _
    | .restoreDone c _ _ | .rcmtGo c | .rcmtDone c | .coreReset c | .restart c | .seqCtrlStop c | .drnCntClr c | .seqCntClr c
    | .tpCntClr c | .updCntClr c | .strCntClr c | .l2CntClr c | .cerrCntClr c => coreOk c
  | .wordStart c q | .wordComplete c q => coreOk c && queueOk q
  | .dmaSegmentIssue c ch => coreOk c && chanOk ch
  | .dmaSegmentDone c tag _ _ => coreOk c && tagNumOk tag
  | .mmaRank c e _ | .mmaWl c e | .mmaSt c e _ | .mmaDrain c e | .mmaSpill c e | .mmaFill c e | .mmaFree c e | .tileToShadow c e
    | .startTokenGrant c e | .rampUpDone c e | .idleHoldExpiry c e | .stopSlotGrant c e | .rampDownDone c e | .drainAcceptTile c e
    | .engCntClr c e => coreOk c && engOk e
  | .slotMoveDone c e slot => coreOk c && engOk e && decide (slot < 8)
  | .drnTile c lane | .drnSrctx c lane => coreOk c && laneOk lane
  | .putDelivery _ | .handleDelivery _ | .exchAck _ | .creditReturn _ | .mailboxMessage _ | .mailboxRetry _ | .openNoticeReceive _
    | .closeReportReceive _ | .verdictReceive _ | .closeDeadline | .flipComplete | .flipTimeout | .twoPhaseTimeout | .irqStormWindow
    | .fenceListWrite | .flashSectorDone | .flashDeferRetest _ | .voileRemoteRetry _ | .collBlockArrival _ | .abortColl
    | .normMessage _ | .avsWriteAck | .frequencyChange | .thermAlert _ | .pwrfailN _ | .pwrfailRecovery | .sysPwrok _ | .sysRstN
    | .warmReset | .flr _ | .coreResetDone | .groupReset | .releaseWindow | .cpRun _ | .smCntClr | .colCntClr | .secCntClr | .pwrCntClr
    | .getVersion _ | .getCapabilities _ | .negotiateAlgorithms _ _ | .keyExchange _ _ | .scrubDone | .manifestWrite _ | .arbCommit
    | .debugUnlock _ | .pldmSensorRead _ | .pcieLinkEvent _ | .jtagInstruction _ _ => true
  | .clusterRequest g port _ _ => clusterOk g && decide (port < 10)
  | .l2MissFill g _ => clusterOk g
  | .deviceTotalsReceive dev _ | .voteReceive dev _ _ _ _ | .lossNoticeReceive dev => devOk dev
  | .loadImage r _ | .start r | .stop r | .preempt r | .resume r | .migrate r | .check r | .commit r | .abort r | .stepRepeat r
    | .attest r | .fence r | .unfence r _ | .query r | .relayTimeout r => ringOk r
  | .stage r list => ringOk r && decide (list.length ≤ 65535)
  | .sqTail r tail => ringOk r && decide (tail < 1024)
  | .cqHead r head => ringOk r && decide (head < 1024)
  | .relayedCommandReceive src ring _ _ => devOk src && ringOk ring
  | .relayResultReceive r dev _ _ => ringOk r && devOk dev
  | .islandFlip isl => islandOk isl
  | .prepareReceive src epoch | .groupCommitReceive src epoch _ => devOk src && epochOk epoch
  | .groupAbortReceive src | .groupResetMessage src => devOk src
  | .externalInput pin _ => decide (pin < 14)
  | .irqSourceEvent src _ | .irqHeoi src | .irqStatClear src _ _ => sourceOk src
  | .claim cp | .cpWatchdog cp => cpOk cp
  | .eoi cp src => cpOk cp && decide (src < 1024)
  | .frameEdge n _ | .frameRunEnd n | .frameDeadline n => decide (n < 4)
  | .noAckTimeout p => decide (p < 512)
  | .migrationGranuleDone obj | .codecBlockRead obj _ _ => objOk obj
  | .codecBlockWrite obj _ ofs data => objOk obj && decide (ofs + data.length ≤ 4096)
  | .patrolScrubPass ch _ _ => chanOk ch
  | .portTraining port fail => portOk port && decide (fail < 16)
  | .hello port m => portOk port && m.wf
  | .keyExchangeMessage port n _ _ => portOk port && decide (1 ≤ n) && decide (n ≤ 3)
  | .flitGroupReceive port gseq _ _ ack _ cret _ => portOk port && decide (gseq < 4096) && decide (ack < 4096) && decide (cret.length = 10) && cret.all (· < 256)
  | .nakReceive port ack => portOk port && decide (ack < 4096)
  | .replayTimeout port | .portFailed port _ | .retrain port | .portCntClr port => portOk port
  | .laneErrorWindow port lane _ => portOk port && decide (lane < 4)
  | .ctlPacket port h _ _ | .readPacket port h _ _ | .ackPacket port h _ => portOk port && h.wf
  | .voilePacket port h _ tag data => portOk port && h.wf && decide (tag < 16) && decide (data.length ≤ 4096)
  | .writePacket port h _ data | .hdelivPacket port h _ data | .rdrspPacket port h _ data => portOk port && h.wf && decide (data.length ≤ 4096)
  | .collPacket port h _ ch _ _ => portOk port && h.wf && ch.wf
  | .gapNotice g mseq | .hxMcResend g mseq => groupOk g && halfOk mseq
  | .pruneWaitExpiry g | .rejoin g => groupOk g
  | .resendRequest g dev mseq => groupOk g && devOk dev && halfOk mseq
  | .rejoinRequest g dev => groupOk g && devOk dev
  | .prunedClear g hi _ => groupOk g && decide (hi < 2)
  | .refclkSerLoss quad => decide (quad < 4)
  | .collInstanceStart cdesc | .collInstanceEnd cdesc | .collDeadline cdesc | .fallbackDeadline cdesc => descOk cdesc
  | .powerLoopEval est => decide (est < 4096)
  | .pmbusPoll mv _ => decide (mv < 1024)
  | .thermalSample temps _ _ => decide (temps.length = 64) && temps.all (· < 256)
  | .memoryTrainingDone ddrCap => decide (ddrCap.length = 8)
  | .hostWindowRead ofs _ | .hostWindowWrite ofs _ | .sealedPageWrite ofs _ => decide (ofs < 2 ^ 36)
  | .sealedPageRead ofs len => decide (ofs < 2 ^ 36) && decide (ofs % 4096 + len ≤ 4096)
  | .poolStatCapture c pool => coreOk c && poolOk pool
  | .cpMemoryAccess cp addr _ _ => cpOk cp && decide (addr < 2 ^ 64)
  | .registerWrite bar ofs width _ => (bar = 0 || bar = 2) && (width = 4 || width = 8) && decide (ofs % width = 0)
  | .getDigests _ slot | .getCertificate _ slot _ _ => decide (slot < 8)
  | .challenge _ slot nonce => decide (slot < 8) && decide (nonce.length = 32)
  | .getMeasurements _ index _ => (index ≤ 7 || index = 0xFF)
  | .finish sess _ | .keyUpdate sess | .heartbeat sess | .endSession sess | .ideKm sess _ | .seal sess | .release sess
    | .ownerInfo sess | .sessionFault sess => sessOk sess
  | .ownerClaim sess pk sig => sessOk sess && decide (pk.length = 1312) && decide (sig.length = 2420)
  | .pldmFirmwareUpdate comp _ => decide (2 ≤ comp) && decide (comp ≤ 5)
  | .chipError what _ => decide (1 ≤ what) && decide (what ≤ 5)
  | .mctpControlMessage bus _ _ => (bus = 1 || bus = 2)
  | .dynamicAddressAssignment addr => decide (addr < 128)

end Sys2Proof
end

