-- ==== Sys2Proof/Tests/Slice0.lean ====
section
/-! SUPPORT. The model's own tests: a check refuses an ill-formed command; every clause of every statement has a state that meets its
hypotheses; and the spec's worked examples. -/

namespace Sys2Proof.Tests

open Sys2Proof Sys2Proof.Machine

set_option maxRecDepth 100000
set_option Elab.async false


set_option linter.unusedTactic false
set_option linter.unusedVariables false
set_option linter.unnecessarySeqFocus false
set_option linter.unreachableTactic false

/-- A running core. -/
def tC : Core := { seq := { state := .running } }
/-- Physical core 0 carries logical core 0 and is `c`. -/
def tS (c : Core) : State := { lmap := [(0, { phys := 0 })], ncores := 1, cores := [(0, c)], obj := State.reset.obj }
/-- A word of a unit and operation, with fields by their low bit (R181). -/
def tW (u op : Nat) (f : List (Nat × Nat)) : CWord := BitVec.ofNat 256 (f.foldl (fun n x => n + x.2 * 2 ^ x.1) (2 * 2 ^ 124 + u * 2 ^ 120 + op * 2 ^ 112))
/-- A core with a SEQ word in hand. -/
def tSeq (op : Nat) (f : List (Nat × Nat)) (c : Core) : Core := { c with seq := { c.seq with cur := some { word := tW 0 op f, pc := 0 } } }
/-- A started word. -/
def tE (u op : Nat) (f : List (Nat × Nat)) : Cqe := { word := tW u op f, seqno := 0, pc := 0, ilev := 0, started := true }
/-- A core with one word in a queue. -/
def tQ (q : Nat) (e : Cqe) (c : Core) : Core := { c with cq := [(q, [e])] }
/-- An object of T2, open to every master. -/
def tO : ObjEnt := { base := 0x800000, tier := 1, valid := true, size := 16, cgR := 0xFFFF, cgW := 0xFFFF, hostR := true, hostW := true, codecR := true, codecW := true, peerR := 15, peerW := 15 }
/-- The same with object 1 in T2. -/
def tM (c : Core) : State := { tS c with obj := { State.reset.obj with table := [(1, tO)] } }
/-- A line of the fetch buffer that begins with a word. -/
def tL (w : CWord) : FetchLine := { line := 0, bytes := bytesOf 16 w.toNat ++ List.replicate 496 0, poison := false }

theorem all_clean {l : List PByte} (h : l.all (fun b => !b.2) = true) : ∀ b ∈ l, b.2 = false := by simpa using h
/-- The value of a result that is one. -/
def okGet {ε α : Type} : (e : Except ε α) → e.isOk = true → α
  | .ok a, _ => a
  | .error _, h => by simp [Except.isOk, Except.toBool] at h
/-- An operand entry of ones (BF16). -/
def tX : DqEnt := { data := entryOf ((List.range 64).flatMap fun _ => [0x80, 0x3F]) }
/-- A core with entries in data queues. -/
def tD (l : List (Nat × List DqEnt)) (c : Core) : Core := { c with dq := l.map fun x => (x.1, { ents := x.2 }) }
/-- An engine in its active state. -/
def tG : Engine := { act := .active }
/-- A core with both engines active. -/
def tCg : Core := { tC with engA := tG, engB := tG }
/-- A host command from its fields by byte (R395). -/
def tK (l : List (Nat × Nat)) : BitVec 512 := BitVec.ofNat 512 (l.foldl (fun n x => n + x.2 * 2 ^ (8 * x.1)) 0)
/-- The command is at the head of a ring. -/
def tR (r : Nat) (c : BitVec 512) (st : Bool) (s : State) : State := { s with rings := [(r, { job := some { cmd := c, started := st } })] }
/-- A stopped core. -/
def tZ : Core := { seq := { state := .stopped } }
/-- A packet header from device 4 to device 3. -/
def tH (typ vc : Nat) : PktHdr := { typ := typ, vc := vc, cls := 0, mc := false, hops := 0, cepoch := 0, repoch := 0, srcDev := 4, dstDev := 3, plen := 1, lastB := 0, srcCore := 0, dstCore := 0, addr := 0, obj := 0xFFFF, dbar := 0, dbarEn := false, ret := false, rhq := 7, hepoch := 0, mseq := 0, mgrp := 0, route := 0, rsvZero := true }
/-- Device 3 in a group with device 4, its port 23 up. -/
def tN (c : Core) : State := { tS c with regs := [(0x300010, 0x100003), (0x300018, 0x18)], ports := [(23, { state := .up })], lport := [(23, { phys := 23 })] }
def errGet {ε α : Type} : (e : Except ε α) → e.isOk = false → ε
  | .error a, _ => a
  | .ok _, h => by simp [Except.isOk, Except.toBool] at h

/-! ### Every statement: states and operands that meet its hypotheses, clause by clause -/

theorem witness_SeqWordsCompute :
    (∃ (s : State) (c p : Nat) (w : CWord) (k : Core), s.SeqReady c p 0x0 w k)
    ∧ (∃ (s : State) (c p : Nat) (w : CWord) (k : Core), s.SeqReady c p 0x2 w k)
    ∧ (∃ (s : State) (c p : Nat) (w : CWord) (k : Core), s.SeqReady c p 0x4 w k ∧ (∀ q l, (q, l) ∈ k.cq → l = []))
    ∧ (∃ (s : State) (c p : Nat) (w : CWord) (k : Core) (n v : Nat), s.SeqReady c p 0x8 w k ∧ wbits w 69 3 = n ∧ wbits w 45 24 = v)
    ∧ (∃ (s : State) (c p : Nat) (w : CWord) (k : Core) (n : Nat) (x v : Int), s.SeqReady c p 0x9 w k ∧ wbits w 69 3 = n ∧ x = ((k.seq.lc.getD n 0 : Nat) : Int) + signedOf 24 (wbits w 45 24) ∧ v = (if x < 0 then 0 else if 16777215 < x then 16777215 else x))
    ∧ (∃ (s : State) (c p : Nat) (w : CWord) (k : Core), s.SeqReady c p 0xB w k)
    ∧ (∃ (s : State) (c p : Nat) (w : CWord) (k : Core), s.SeqReady c p 0x10 w k) := by
  refine ⟨?_, ?_, ?_, ?_, ?_, ?_, ?_⟩
  · refine ⟨tS (tSeq 0 [] tC), 0, 0, tW 0 0 [], tSeq 0 [] tC, ?_⟩
    simp only [State.SeqReady, State.Answers, State.Settled]; and_intros <;> first | with_reducible rfl | exact Or.inl ⟨rfl, rfl, rfl⟩ | exact all_clean (by decide +kernel) | decide +kernel | rfl | exact fun _ _ h => absurd h List.not_mem_nil | exact fun _ h => absurd h List.not_mem_nil
  · refine ⟨tS (tSeq 2 [(67, 31), (51, 65535)] tC), 0, 0, tW 0 2 [(67, 31), (51, 65535)], tSeq 2 [(67, 31), (51, 65535)] tC, ?_⟩
    simp only [State.SeqReady, State.Answers, State.Settled]; and_intros <;> first | with_reducible rfl | exact Or.inl ⟨rfl, rfl, rfl⟩ | exact all_clean (by decide +kernel) | decide +kernel | rfl | exact fun _ _ h => absurd h List.not_mem_nil | exact fun _ h => absurd h List.not_mem_nil
  · refine ⟨tS (tSeq 4 [] tC), 0, 0, tW 0 4 [], tSeq 4 [] tC, ?_⟩
    simp only [State.SeqReady, State.Answers, State.Settled]; and_intros <;> first | with_reducible rfl | exact Or.inl ⟨rfl, rfl, rfl⟩ | exact all_clean (by decide +kernel) | decide +kernel | rfl | exact fun _ _ h => absurd h List.not_mem_nil | exact fun _ h => absurd h List.not_mem_nil
  · refine ⟨tS (tSeq 8 [(69, 7), (45, 7)] tC), 0, 0, tW 0 8 [(69, 7), (45, 7)], tSeq 8 [(69, 7), (45, 7)] tC, 7, 7, ?_⟩
    simp only [State.SeqReady, State.Answers, State.Settled]; and_intros <;> first | with_reducible rfl | exact Or.inl ⟨rfl, rfl, rfl⟩ | exact all_clean (by decide +kernel) | decide +kernel | rfl | exact fun _ _ h => absurd h List.not_mem_nil | exact fun _ h => absurd h List.not_mem_nil
  · refine ⟨tS (tSeq 9 [(69, 1), (45, 16777215)] tC), 0, 0, tW 0 9 [(69, 1), (45, 16777215)], tSeq 9 [(69, 1), (45, 16777215)] tC, 1, -1, 0, ?_⟩
    simp only [State.SeqReady, State.Answers, State.Settled]; and_intros <;> first | with_reducible rfl | exact Or.inl ⟨rfl, rfl, rfl⟩ | exact all_clean (by decide +kernel) | decide +kernel | rfl | exact fun _ _ h => absurd h List.not_mem_nil | exact fun _ h => absurd h List.not_mem_nil
  · refine ⟨tS (tSeq 0xB [(0, 1)] tC), 0, 0, tW 0 0xB [(0, 1)], tSeq 0xB [(0, 1)] tC, ?_⟩
    simp only [State.SeqReady, State.Answers, State.Settled]; and_intros <;> first | with_reducible rfl | exact Or.inl ⟨rfl, rfl, rfl⟩ | exact all_clean (by decide +kernel) | decide +kernel | rfl | exact fun _ _ h => absurd h List.not_mem_nil | exact fun _ h => absurd h List.not_mem_nil
  · refine ⟨tS (tSeq 0x10 [] tC), 0, 0, tW 0 0x10 [], tSeq 0x10 [] tC, ?_⟩
    simp only [State.SeqReady, State.Answers, State.Settled]; and_intros <;> first | with_reducible rfl | exact Or.inl ⟨rfl, rfl, rfl⟩ | exact all_clean (by decide +kernel) | decide +kernel | rfl | exact fun _ _ h => absurd h List.not_mem_nil | exact fun _ h => absurd h List.not_mem_nil

theorem witness_SeqControlFlow :
    (∃ (s : State) (c p b n : Nat) (w : CWord) (k : Core), s.SeqReady c p 0x3 w k ∧ wbits w 67 5 = b ∧ wbits w 59 8 = n ∧ ¬((k.bar b).dist < 32768 ∧ 32768 ≤ (k.bar b).dist + n))
    ∧ (∃ (s : State) (c p n endA : Nat) (w : CWord) (k : Core), s.SeqReady c p 0x5 w k ∧ n = (if wbit w 71 then k.seq.lc.getD (wbits w 68 3) 0 else wbits w 44 24) ∧ endA = (k.seq.pc + wbits w 20 24) % 2 ^ 48 ∧ k.seq.loops.length < 4 ∧ k.seq.pc ≤ endA ∧ (∀ l ∈ k.seq.loops.getLast?, endA ≤ l.endA) ∧ 0 < n)
    ∧ (∃ (s : State) (c p endA : Nat) (w : CWord) (k : Core), s.SeqReady c p 0x5 w k ∧ 0 = (if wbit w 71 then k.seq.lc.getD (wbits w 68 3) 0 else wbits w 44 24) ∧ endA = (k.seq.pc + wbits w 20 24) % 2 ^ 48 ∧ k.seq.loops.length < 4 ∧ k.seq.pc ≤ endA ∧ (∀ l ∈ k.seq.loops.getLast?, endA ≤ l.endA))
    ∧ (∃ (s : State) (c p a : Nat) (w : CWord) (k : Core), s.SeqReady c p 0x6 w k ∧ (a : Int) = ((k.seq.pc : Int) + signedOf 24 (wbits w 48 24)) % 2 ^ 48)
    ∧ (∃ (s : State) (c p a : Nat) (w : CWord) (k : Core), s.SeqReady c p 0x7 w k ∧ (a : Int) = ((k.seq.pc : Int) + signedOf 24 (wbits w 39 24)) % 2 ^ 48)
    ∧ (∃ (s : State) (c p q : Nat) (w : CWord) (k : Core), s.SeqReady c p 0x1 w k ∧ wbits w 66 4 = q ∧ wbit w 70 = false ∧ (∀ e ∈ k.allWords, q ∉ dqNames e.word) ∧ (k.dataQ q).ents = [])
    ∧ (∃ (s : State) (c p q : Nat) (w : CWord) (k : Core), s.SeqReady c p 0x1 w k ∧ wbits w 66 4 = q ∧ wbit w 70 = true ∧ (∀ e ∈ k.allWords, q ∉ k.hqNames e) ∧ (k.handleQ q).ents = [] ∧ (k.handleQ q).recv = none)
    ∧ (∃ (s : State) (c p q src : Nat) (w : CWord) (k : Core) (e : DqEnt) (l : List DqEnt), s.SeqReady c p 0xA w k ∧ wIna w = q ∧ (k.dataQ q).bind = some (src, 0) ∧ (k.dataQ q).ents = e :: l ∧ k.seq.mode = false ∧ e.poison = false) := by
  refine ⟨?_, ?_, ?_, ?_, ?_, ?_, ?_, ?_⟩
  · refine ⟨tS (tSeq 3 [(67, 1), (59, 255)] tC), 0, 0, 1, 255, tW 0 3 [(67, 1), (59, 255)], tSeq 3 [(67, 1), (59, 255)] tC, ?_⟩
    simp only [State.SeqReady, State.Answers, State.Settled]; and_intros <;> first | with_reducible rfl | exact Or.inl ⟨rfl, rfl, rfl⟩ | exact all_clean (by decide +kernel) | decide +kernel | rfl | exact fun _ _ h => absurd h List.not_mem_nil | exact fun _ h => absurd h List.not_mem_nil
  · refine ⟨tS (tSeq 5 [(44, 3), (20, 2)] tC), 0, 0, 3, 2, tW 0 5 [(44, 3), (20, 2)], tSeq 5 [(44, 3), (20, 2)] tC, ?_⟩
    simp only [State.SeqReady, State.Answers, State.Settled]; and_intros <;> first | with_reducible rfl | exact Or.inl ⟨rfl, rfl, rfl⟩ | exact all_clean (by decide +kernel) | decide +kernel | rfl | exact fun _ _ h => absurd h List.not_mem_nil | exact fun _ h => absurd h List.not_mem_nil
  · refine ⟨tS (tSeq 5 [(20, 2)] tC), 0, 0, 2, tW 0 5 [(20, 2)], tSeq 5 [(20, 2)] tC, ?_⟩
    simp only [State.SeqReady, State.Answers, State.Settled]; and_intros <;> first | with_reducible rfl | exact Or.inl ⟨rfl, rfl, rfl⟩ | exact all_clean (by decide +kernel) | decide +kernel | rfl | exact fun _ _ h => absurd h List.not_mem_nil | exact fun _ h => absurd h List.not_mem_nil
  · refine ⟨tS (tSeq 6 [(48, 16777215)] tC), 0, 0, 281474976710655, tW 0 6 [(48, 16777215)], tSeq 6 [(48, 16777215)] tC, ?_⟩
    simp only [State.SeqReady, State.Answers, State.Settled]; and_intros <;> first | with_reducible rfl | exact Or.inl ⟨rfl, rfl, rfl⟩ | exact all_clean (by decide +kernel) | decide +kernel | rfl | exact fun _ _ h => absurd h List.not_mem_nil | exact fun _ h => absurd h List.not_mem_nil
  · refine ⟨tS (tSeq 7 [(39, 5)] tC), 0, 0, 5, tW 0 7 [(39, 5)], tSeq 7 [(39, 5)] tC, ?_⟩
    simp only [State.SeqReady, State.Answers, State.Settled]; and_intros <;> first | with_reducible rfl | exact Or.inl ⟨rfl, rfl, rfl⟩ | exact all_clean (by decide +kernel) | decide +kernel | rfl | exact fun _ _ h => absurd h List.not_mem_nil | exact fun _ h => absurd h List.not_mem_nil
  · refine ⟨tS (tSeq 1 [(66, 15)] tC), 0, 0, 15, tW 0 1 [(66, 15)], tSeq 1 [(66, 15)] tC, ?_⟩
    simp only [State.SeqReady, State.Answers, State.Settled]; and_intros <;> first | with_reducible rfl | exact Or.inl ⟨rfl, rfl, rfl⟩ | exact all_clean (by decide +kernel) | decide +kernel | rfl | exact fun _ _ h => absurd h List.not_mem_nil | exact fun _ h => absurd h List.not_mem_nil
  · refine ⟨tS (tSeq 1 [(66, 7), (70, 1)] tC), 0, 0, 7, tW 0 1 [(66, 7), (70, 1)], tSeq 1 [(66, 7), (70, 1)] tC, ?_⟩
    simp only [State.SeqReady, State.Answers, State.Settled]; and_intros <;> first | with_reducible rfl | exact Or.inl ⟨rfl, rfl, rfl⟩ | exact all_clean (by decide +kernel) | decide +kernel | rfl | exact fun _ _ h => absurd h List.not_mem_nil | exact fun _ h => absurd h List.not_mem_nil
  · refine ⟨tS (tSeq 0xA [(92, 1)] { tC with dq := [(1, { bind := some (5, 0), ents := [{ data := 7 }] })] }), 0, 0, 1, 5, tW 0 0xA [(92, 1)], tSeq 0xA [(92, 1)] { tC with dq := [(1, { bind := some (5, 0), ents := [{ data := 7 }] })] }, { data := 7 }, [], ?_⟩
    simp only [State.SeqReady, State.Answers, State.Settled]; and_intros <;> first | with_reducible rfl | exact Or.inl ⟨rfl, rfl, rfl⟩ | exact all_clean (by decide +kernel) | decide +kernel | rfl | exact fun _ _ h => absurd h List.not_mem_nil | exact fun _ h => absurd h List.not_mem_nil

theorem witness_StepsOpenAndClose :
    (∃ (s : State) (c p n : Nat) (w : CWord) (k : Core), s.SeqReady c p 0xC w k ∧ k.pre.frame = none ∧ (∀ q l, (q, l) ∈ k.cq → l = []) ∧ k.seq.open_ = false ∧ n = (if k.seq.repeating then k.seq.step else if wbit w 71 then (k.seq.step + 1) % 2 ^ 32 else k.seq.stepNum))
    ∧ (∃ (s : State) (c p : Nat) (u : SeqCur) (k : Core), s.Answers c p ∧ (s.core p).active = true ∧ (s.core p).preOk = true ∧ (s.core p).seq.cur = some u ∧ wOp u.word = 0xD ∧ u.sent = false ∧ (s.core p).seqWait u.word = .ready k ∧ (s.core p).seq.open_ = true ∧ (s.core p).pre.frame = none ∧ (∀ q l, (q, l) ∈ (s.core p).cq → l = []))
    ∧ (∃ (s : State) (c p o : Nat) (u : SeqCur), s.Answers c p ∧ (s.core p).active = true ∧ (s.core p).preOk = true ∧ (s.core p).seq.cur = some u ∧ wOp u.word = 0xD ∧ u.sent = true ∧ u.outcome = some o) := by
  refine ⟨?_, ?_, ?_⟩
  · refine ⟨tS (tSeq 0xC [] tC), 0, 0, 0, tW 0 0xC [], tSeq 0xC [] tC, ?_⟩
    simp only [State.SeqReady, State.Answers, State.Settled]; and_intros <;> first | with_reducible rfl | exact Or.inl ⟨rfl, rfl, rfl⟩ | exact all_clean (by decide +kernel) | decide +kernel | rfl | exact fun _ _ h => absurd h List.not_mem_nil | exact fun _ h => absurd h List.not_mem_nil
  · refine ⟨tS (tSeq 0xD [] { tC with seq := { tC.seq with open_ := true } }), 0, 0, { word := tW 0 0xD [], pc := 0 }, tSeq 0xD [] { tC with seq := { tC.seq with open_ := true } }, ?_⟩
    simp only [State.Answers, State.Settled]; and_intros <;> first | with_reducible rfl | exact Or.inl ⟨rfl, rfl, rfl⟩ | exact all_clean (by decide +kernel) | decide +kernel | rfl | exact fun _ _ h => absurd h List.not_mem_nil | exact fun _ h => absurd h List.not_mem_nil
  · refine ⟨tS { seq := { state := .running, open_ := true, cur := some { word := tW 0 0xD [], pc := 0, sent := true, outcome := some 2 } } }, 0, 0, 2, { word := tW 0 0xD [], pc := 0, sent := true, outcome := some 2 }, ?_⟩
    simp only [State.Answers, State.Settled]; and_intros <;> first | with_reducible rfl | exact Or.inl ⟨rfl, rfl, rfl⟩ | exact all_clean (by decide +kernel) | decide +kernel | rfl | exact fun _ _ h => absurd h List.not_mem_nil | exact fun _ h => absurd h List.not_mem_nil

theorem witness_CoreEndsItsProgram :
    (∃ (s : State) (c p : Nat) (w : CWord) (k : Core), s.SeqReady c p 0xE w k)
    ∧ (∃ (s : State) (c p : Nat) (w : CWord) (k : Core), s.SeqReady c p 0xF w k)
    ∧ (∃ (s : State) (c p : Nat), s.Answers c p ∧ (s.core p).active = true ∧ (s.core p).preOk = true ∧ (s.core p).seq.wdog ≠ 0 ∧ (s.core p).awaitsToken 0 = false ∧ (s.core p).awaitsToken 1 = false)
    ∧ (∃ (s : State) (c p : Nat), s.Answers c p ∧ (s.core p).active = true ∧ (s.core p).preOk = true ∧ (s.core p).seq.ending = true ∧ (∀ q l, (q, l) ∈ (s.core p).cq → l = []) ∧ (s.core p).drn.cur = none)
    ∧ (∃ (s : State) (c p : Nat), s.Answers c p ∧ (s.core p).active = true)
    ∧ (∃ (s : State) (c p : Nat), s.Answers c p ∧ ((s.core p).seq.state = .stopped ∨ (s.core p).seq.state = .halted ∨ (s.core p).seq.state = .done) ∧ (s.core p).inCommit = false ∧ s.sec.recovery = false) := by
  refine ⟨?_, ?_, ?_, ?_, ?_, ?_⟩
  · refine ⟨tS (tSeq 0xE [] tC), 0, 0, tW 0 0xE [], tSeq 0xE [] tC, ?_⟩
    simp only [State.SeqReady, State.Answers, State.Settled]; and_intros <;> first | with_reducible rfl | exact Or.inl ⟨rfl, rfl, rfl⟩ | exact all_clean (by decide +kernel) | decide +kernel | rfl | exact fun _ _ h => absurd h List.not_mem_nil | exact fun _ h => absurd h List.not_mem_nil
  · refine ⟨tS (tSeq 0xF [] tC), 0, 0, tW 0 0xF [], tSeq 0xF [] tC, ?_⟩
    simp only [State.SeqReady, State.Answers, State.Settled]; and_intros <;> first | with_reducible rfl | exact Or.inl ⟨rfl, rfl, rfl⟩ | exact all_clean (by decide +kernel) | decide +kernel | rfl | exact fun _ _ h => absurd h List.not_mem_nil | exact fun _ h => absurd h List.not_mem_nil
  · refine ⟨tS tC, 0, 0, ?_⟩
    simp only [State.Answers, State.Settled]; and_intros <;> first | with_reducible rfl | exact Or.inl ⟨rfl, rfl, rfl⟩ | exact all_clean (by decide +kernel) | decide +kernel | rfl | exact fun _ _ h => absurd h List.not_mem_nil | exact fun _ h => absurd h List.not_mem_nil
  · refine ⟨tS { seq := { state := .running, ending := true } }, 0, 0, ?_⟩
    simp only [State.Answers, State.Settled]; and_intros <;> first | with_reducible rfl | exact Or.inl ⟨rfl, rfl, rfl⟩ | exact all_clean (by decide +kernel) | decide +kernel | rfl | exact fun _ _ h => absurd h List.not_mem_nil | exact fun _ h => absurd h List.not_mem_nil
  · refine ⟨tS tC, 0, 0, ?_⟩
    simp only [State.Answers, State.Settled]; and_intros <;> first | with_reducible rfl | exact Or.inl ⟨rfl, rfl, rfl⟩ | exact all_clean (by decide +kernel) | decide +kernel | rfl | exact fun _ _ h => absurd h List.not_mem_nil | exact fun _ h => absurd h List.not_mem_nil
  · refine ⟨tS {}, 0, 0, ?_⟩
    simp only [State.Answers, State.Settled]; and_intros <;> first | with_reducible rfl | exact Or.inl ⟨rfl, rfl, rfl⟩ | exact all_clean (by decide +kernel) | decide +kernel | rfl | exact fun _ _ h => absurd h List.not_mem_nil | exact fun _ h => absurd h List.not_mem_nil

theorem witness_WordsIssue :
    (∃ (s : State) (c p : Nat) (w v : CWord), s.Answers c p ∧ (s.core p).canDispatch = true ∧ (s.core p).tokFull = false ∧ (s.core p).fetchAt (s.core p).seq.pc = .word w ∧ checkWord w (s.core p).seq.mode (s.collNorm w) = none ∧ v = CWord.seen w ∧ wUnit v = 0)
    ∧ (∃ (s : State) (c p il : Nat) (w v : CWord), s.Answers c p ∧ (s.core p).canDispatch = true ∧ (s.core p).tokFull = false ∧ (s.core p).fetchAt (s.core p).seq.pc = .word w ∧ checkWord w (s.core p).seq.mode (s.collNorm w) = none ∧ v = CWord.seen w ∧ wUnit v ≠ 0 ∧ (∀ q ∈ queuesOf v, (s.core p).occ q + wWidth v ≤ cqDepth q) ∧ ((ilevOf v < 4 ∧ il = 0) ∨ (4 ≤ ilevOf v ∧ ∃ l, (s.core p).seq.loops[ilevOf v - 4]? = some l ∧ il = l.idx)))
    ∧ (∃ (s s1 : State) (c p line o ofs : Nat) (f : FetchFill), s.Answers c p ∧ (s.core p).seq.fills.find? (fun f => f.line = line) = some f ∧ f.segs = 0 ∧ s1 = s.modCore p (fun k => k.modSeq fun q => { q with fills := q.fills.filter fun g => g.line ≠ line }) ∧ s1.checkAddr (.core c) false true (line * 512) 512 = .ok (o, ofs) ∧ (∀ b ∈ (s1.coreRead p o ofs 512).1, b.2 = false))
    ∧ (∃ (s s' : State) (c p q i : Nat) (e e' : Cqe) (k : Core), s.Answers c p ∧ (s.core p).active = true ∧ (s.core p).preOk = true ∧ (s.core p).nextAt q = some (i, e) ∧ (s.core p).wordWait q e = .ready k ∧ (s.core p).tokHeads e = .ok ∧ s.unitStart p q e = .go s' e')
    ∧ (∃ (s : State) (c p q : Nat) (e : Cqe) (l : List Cqe), s.Answers c p ∧ (s.core p).working = true ∧ (s.core p).words q = e :: l ∧ e.fin = true ∧ isFence e.word = false) := by
  refine ⟨?_, ?_, ?_, ?_, ?_⟩
  · refine ⟨tS { seq := { state := .running, fetch := [tL (tW 0 0 [])] } }, 0, 0, tW 0 0 [], CWord.seen (tW 0 0 []), ?_⟩
    simp only [State.Answers, State.Settled]; and_intros <;> first | with_reducible rfl | exact Or.inl ⟨rfl, rfl, rfl⟩ | exact all_clean (by decide +kernel) | decide +kernel | rfl | exact fun _ _ h => absurd h List.not_mem_nil | exact fun _ h => absurd h List.not_mem_nil
  · refine ⟨tS { seq := { state := .running, fetch := [tL (tW 6 0xB [])] } }, 0, 0, 0, tW 6 0xB [], CWord.seen (tW 6 0xB []), ?_⟩
    simp only [State.Answers, State.Settled]; and_intros <;> first | with_reducible rfl | exact Or.inl ⟨rfl, rfl, rfl⟩ | exact all_clean (by decide +kernel) | decide +kernel | rfl | exact fun _ _ h => absurd h List.not_mem_nil | exact fun _ h => absurd h List.not_mem_nil
  · refine ⟨tM { seq := { state := .running, fills := [{ line := 1073741827, demand := true, segs := 0 }] } }, State.modCore (tM { seq := { state := .running, fills := [{ line := 1073741827, demand := true, segs := 0 }] } }) 0 (fun k => k.modSeq fun q => { q with fills := q.fills.filter fun g => g.line ≠ 1073741827 }), 0, 0, 1073741827, 1, 1536, { line := 1073741827, demand := true, segs := 0 }, ?_⟩
    simp only [State.Answers, State.Settled]; and_intros <;> first | with_reducible rfl | exact Or.inl ⟨rfl, rfl, rfl⟩ | exact all_clean (by decide +kernel) | decide +kernel | rfl | exact fun _ _ h => absurd h List.not_mem_nil | exact fun _ h => absurd h List.not_mem_nil
  · refine ⟨tS (tQ 6 { tE 6 0xB [] with started := false } tC), tS (tQ 6 { tE 6 0xB [] with started := false } tC), 0, 0, 6, 0, { tE 6 0xB [] with started := false }, { tE 6 0xB [] with started := false }, tQ 6 { tE 6 0xB [] with started := false } tC, ?_⟩
    simp only [State.Answers, State.Settled]; and_intros <;> first | with_reducible rfl | exact Or.inl ⟨rfl, rfl, rfl⟩ | exact all_clean (by decide +kernel) | decide +kernel | rfl | exact fun _ _ h => absurd h List.not_mem_nil | exact fun _ h => absurd h List.not_mem_nil
  · refine ⟨tS (tQ 6 { tE 6 0xB [] with fin := true } tC), 0, 0, 6, { tE 6 0xB [] with fin := true }, [], ?_⟩
    simp only [State.Answers, State.Settled]; and_intros <;> first | with_reducible rfl | exact Or.inl ⟨rfl, rfl, rfl⟩ | exact all_clean (by decide +kernel) | decide +kernel | rfl | exact fun _ _ h => absurd h List.not_mem_nil | exact fun _ h => absurd h List.not_mem_nil

theorem witness_StreamWordsMove :
    (∃ (s : State) (c p i sp a r : Nat) (e : Cqe), s.WordAt c p 1 1 i e ∧ wbits e.word 66 1 = sp ∧ wbits e.word 49 17 * 64 = a ∧ wbits e.word 67 5 = r ∧ a + 64 ≤ spaceSize sp ∧ (∀ b ∈ s.localGran p sp a 64, b.2 = false))
    ∧ (∃ (s : State) (c p i : Nat) (e : Cqe) (d : BitVec 512) (sx dx : StrSide × Nat), s.WordAt c p 1 2 i e ∧ e.n = 0 ∧ d = e.desc ∧ dScales d = 0 ∧ sx = (s.core p).srcSide d e.hnd ∧ dx = (s.core p).dstSide d e.out ∧ sx.1.record = none ∧ damaskBad d (sideOffsets d (dDstPat d) dx.2 e.ilev) dx.1.base = false ∧ (∀ o ∈ sideOffsets d (!dDstPat d) sx.2 e.ilev, s.sideCheck p false sx.1 o (dUnit d) = none) ∧ (∀ o ∈ sideOffsets d (dDstPat d) dx.2 e.ilev, s.sideCheck p true dx.1 o (dUnit d) = none))
    ∧ (∃ (s : State) (c p i u : Nat) (e : Cqe) (d : BitVec 512) (sx dx : StrSide × Nat) (r : List PByte × State), s.WordAt c p 1 2 i e ∧ e.n = 1 ∧ e.segs = 0 ∧ e.wgen = none ∧ (s.core p).moveAhead i e = false ∧ d = e.desc ∧ u = dUnit d ∧ dScales d = 0 ∧ dCodec d = 0 ∧ sx = (s.core p).srcSide d e.hnd ∧ dx = (s.core p).dstSide d e.out ∧ sx.1.record = none ∧ ((localSpace dx.1.obj).isSome = true ∨ (s.objEnt dx.1.obj).muslin = false) ∧ r = s.copyRead p d sx.1 (natOffs (sideOffsets d (!dDstPat d) sx.2 e.ilev)) u ∧ dUnits d ≤ cleanUnits r.1 u)
    ∧ (∃ (s : State) (c p i : Nat) (e : Cqe), s.WordAt c p 1 2 i e ∧ e.n = 2 ∧ e.segs = 0)
    ∧ (∃ (s : State) (c p i q ep : Nat) (e : Cqe), s.WordAt c p 1 3 i e ∧ wbits e.word 69 3 = q ∧ wbits e.word 61 8 = ep) := by
  refine ⟨?_, ?_, ?_, ?_, ?_⟩
  · refine ⟨tS (tQ 1 (tE 1 1 [(67, 31), (49, 16383)]) tC), 0, 0, 0, 0, 1048512, 31, tE 1 1 [(67, 31), (49, 16383)], ?_⟩
    simp only [State.WordAt, State.Answers, State.Settled]; and_intros <;> first | with_reducible rfl | exact Or.inl ⟨rfl, rfl, rfl⟩ | exact all_clean (by decide +kernel) | decide +kernel | rfl | exact fun _ _ h => absurd h List.not_mem_nil | exact fun _ h => absurd h List.not_mem_nil
  · refine ⟨tS (tQ 1 { tE 1 2 [] with vals := [0, 0xFFFEFFFF] } tC), 0, 0, 0, { tE 1 2 [] with vals := [0, 0xFFFEFFFF] }, 0xFFFEFFFF, tC.srcSide 0xFFFEFFFF none, tC.dstSide 0xFFFEFFFF none, ?_⟩
    simp only [State.WordAt, State.Answers, State.Settled]; and_intros <;> first | with_reducible rfl | exact Or.inl ⟨rfl, rfl, rfl⟩ | exact all_clean (by decide +kernel) | decide +kernel | rfl | exact fun _ _ h => absurd h List.not_mem_nil | exact fun _ h => absurd h List.not_mem_nil
  · refine ⟨tS (tQ 1 { tE 1 2 [] with vals := [0, 0xFFFEFFFF], n := 1 } tC), 0, 0, 0, 1, { tE 1 2 [] with vals := [0, 0xFFFEFFFF], n := 1 }, 0xFFFEFFFF, tC.srcSide 0xFFFEFFFF none, tC.dstSide 0xFFFEFFFF none, ([(0, false)], tS (tQ 1 { tE 1 2 [] with vals := [0, 0xFFFEFFFF], n := 1 } tC)), ?_⟩
    simp only [State.WordAt, State.Answers, State.Settled]; and_intros <;> first | with_reducible rfl | exact Or.inl ⟨rfl, rfl, rfl⟩ | exact all_clean (by decide +kernel) | decide +kernel | rfl | exact fun _ _ h => absurd h List.not_mem_nil | exact fun _ h => absurd h List.not_mem_nil
  · refine ⟨tS (tQ 1 { tE 1 2 [] with n := 2 } tC), 0, 0, 0, { tE 1 2 [] with n := 2 }, ?_⟩
    simp only [State.WordAt, State.Answers, State.Settled]; and_intros <;> first | with_reducible rfl | exact Or.inl ⟨rfl, rfl, rfl⟩ | exact all_clean (by decide +kernel) | decide +kernel | rfl | exact fun _ _ h => absurd h List.not_mem_nil | exact fun _ h => absurd h List.not_mem_nil
  · refine ⟨tS (tQ 1 (tE 1 3 [(69, 7), (61, 255)]) tC), 0, 0, 0, 7, 255, tE 1 3 [(69, 7), (61, 255)], ?_⟩
    simp only [State.WordAt, State.Answers, State.Settled]; and_intros <;> first | with_reducible rfl | exact Or.inl ⟨rfl, rfl, rfl⟩ | exact all_clean (by decide +kernel) | decide +kernel | rfl | exact fun _ _ h => absurd h List.not_mem_nil | exact fun _ h => absurd h List.not_mem_nil

theorem witness_PinsAndSegments :
    (∃ (s : State) (c p i o v : Nat) (e : Cqe), s.WordAt c p 1 6 i e ∧ wbits e.word 56 16 = o ∧ wbits e.word 40 16 = v ∧ (s.objEnt o).version = v ∧ (s.core p).pinOf o = none ∧ (s.core p).pins.length < 8)
    ∧ (∃ (s : State) (c p i o v : Nat) (e : Cqe) (x : PinEnt), s.WordAt c p 1 6 i e ∧ wbits e.word 56 16 = o ∧ wbits e.word 40 16 = v ∧ (s.objEnt o).version = v ∧ (s.core p).pinOf o = some x ∧ x.ver = v ∧ x.cnt < 255)
    ∧ (∃ (s : State) (c p i o v : Nat) (e : Cqe) (x : PinEnt), s.WordAt c p 1 7 i e ∧ wbits e.word 56 16 = o ∧ wbits e.word 40 16 = v ∧ (s.core p).pinOf o = some x ∧ x.ver = v ∧ 1 < x.cnt ∧ (s.objEnt o).version = v)
    ∧ (∃ (s : State) (c p ch i n : Nat) (g : DmaSeg), s.Answers c p ∧ (s.core p).working = true ∧ (s.core p).nextSeg ch = some (i, g) ∧ ((s.core p).tags.filter fun x => x.2.ch = ch).length < (s.core p).dmaQuota ∧ (s.core p).freeTag = some n ∧ (s.objEnt g.obj).coded = false ∧ s.check (.core c) g.write false g.obj (g.addr - (s.objEnt g.obj).start) 1 = none)
    ∧ (∃ (s : State) (c p tag : Nat) (ce ue : Bool) (g : DmaSeg), s.Answers c p ∧ afind (s.core p).tags tag = some g)
    ∧ (∃ (s : State) (c p num f : Nat) (bl : List Nat), s.Answers c p ∧ (s.core p).stashEn = true ∧ (s.core p).stashHwm < (s.core p).stash.inuse ∧ (s.core p).stash.spilling = false ∧ (s.core p).canSpill = true ∧ (s.core p).spillNext = some (num, f) ∧ bl = s.freeT3 (s.core p) (s.core p).recBlocks ∧ bl.length = (s.core p).recBlocks ∧ s.check (.core c) true false (s.core p).stashT3 (bl.headD 0 * 4096) 4096 = none ∧ s.check (.core c) false false (s.framePlace (s.core p) f).1 (s.framePlace (s.core p) f).2 (s.core p).frameSize = none)
    ∧ (∃ (s : State) (c p f : Nat) (r : StashRec) (l : List StashRec), s.Answers c p ∧ (s.core p).stash.recs = r :: l ∧ r.loc = .spilling f ∧ (∀ x ∈ (s.core p).dmaQ, x.owner ≠ .spill) ∧ (∀ x ∈ (s.core p).tags, x.2.owner ≠ .spill)) := by
  refine ⟨?_, ?_, ?_, ?_, ?_, ?_, ?_⟩
  · refine ⟨tM (tQ 1 (tE 1 6 [(56, 1)]) tC), 0, 0, 0, 1, 0, tE 1 6 [(56, 1)], ?_⟩
    simp only [State.WordAt, State.Answers, State.Settled]; and_intros <;> first | with_reducible rfl | exact Or.inl ⟨rfl, rfl, rfl⟩ | exact all_clean (by decide +kernel) | decide +kernel | rfl | exact fun _ _ h => absurd h List.not_mem_nil | exact fun _ h => absurd h List.not_mem_nil
  · refine ⟨tM (tQ 1 (tE 1 6 [(56, 1)]) { tC with pins := [{ obj := 1, ver := 0, cnt := 254, stepPin := false, stepCnt := 0 }] }), 0, 0, 0, 1, 0, tE 1 6 [(56, 1)], { obj := 1, ver := 0, cnt := 254, stepPin := false, stepCnt := 0 }, ?_⟩
    simp only [State.WordAt, State.Answers, State.Settled]; and_intros <;> first | with_reducible rfl | exact Or.inl ⟨rfl, rfl, rfl⟩ | exact all_clean (by decide +kernel) | decide +kernel | rfl | exact fun _ _ h => absurd h List.not_mem_nil | exact fun _ h => absurd h List.not_mem_nil
  · refine ⟨tM (tQ 1 (tE 1 7 [(56, 1)]) { tC with pins := [{ obj := 1, ver := 0, cnt := 2, stepPin := false, stepCnt := 0 }] }), 0, 0, 0, 1, 0, tE 1 7 [(56, 1)], { obj := 1, ver := 0, cnt := 2, stepPin := false, stepCnt := 0 }, ?_⟩
    simp only [State.WordAt, State.Answers, State.Settled]; and_intros <;> first | with_reducible rfl | exact Or.inl ⟨rfl, rfl, rfl⟩ | exact all_clean (by decide +kernel) | decide +kernel | rfl | exact fun _ _ h => absurd h List.not_mem_nil | exact fun _ h => absurd h List.not_mem_nil
  · refine ⟨tM { tC with dmaQ := [{ ch := 7, owner := .spill, prio := 0, obj := 1, addr := 0, write := true }] }, 0, 0, 7, 0, 0, { ch := 7, owner := .spill, prio := 0, obj := 1, addr := 0, write := true }, ?_⟩
    simp only [State.Answers, State.Settled]; and_intros <;> first | with_reducible rfl | exact Or.inl ⟨rfl, rfl, rfl⟩ | exact all_clean (by decide +kernel) | decide +kernel | rfl | exact fun _ _ h => absurd h List.not_mem_nil | exact fun _ h => absurd h List.not_mem_nil
  · refine ⟨tM { tC with tags := [(23, { ch := 7, owner := .spill, prio := 0, obj := 1, addr := 0, write := true })] }, 0, 0, 23, true, true, { ch := 7, owner := .spill, prio := 0, obj := 1, addr := 0, write := true }, ?_⟩
    simp only [State.Answers, State.Settled]; and_intros <;> first | with_reducible rfl | exact Or.inl ⟨rfl, rfl, rfl⟩ | exact all_clean (by decide +kernel) | decide +kernel | rfl | exact fun _ _ h => absurd h List.not_mem_nil | exact fun _ h => absurd h List.not_mem_nil
  · refine ⟨{ tM { tC with stash := { recs := [{ num := 0, committed := true, loc := .frame 0 }] }, regs := [(0x2820, 2), (0x2828, 1), (0x282C, 0x80), (0x2834, 1)] } with obj := { State.reset.obj with table := [(1, tO), (2, { tO with base := 0x800010 })] } }, 0, 0, 0, 0, [0], ?_⟩
    simp only [State.Answers, State.Settled]; and_intros <;> first | with_reducible rfl | exact Or.inl ⟨rfl, rfl, rfl⟩ | exact all_clean (by decide +kernel) | decide +kernel | rfl | exact fun _ _ h => absurd h List.not_mem_nil | exact fun _ h => absurd h List.not_mem_nil
  · refine ⟨tM { tC with stash := { recs := [{ num := 0, committed := true, loc := .spilling 0 }] } }, 0, 0, 0, { num := 0, committed := true, loc := .spilling 0 }, [], ?_⟩
    simp only [State.Answers, State.Settled]; and_intros <;> first | with_reducible rfl | exact Or.inl ⟨rfl, rfl, rfl⟩ | exact all_clean (by decide +kernel) | decide +kernel | rfl | exact fun _ _ h => absurd h List.not_mem_nil | exact fun _ h => absurd h List.not_mem_nil

theorem witness_CachesFlushAndFill :
    (∃ (s : State) (c p i : Nat) (e : Cqe) (sc : List CLine), s.CurAt c p 6 0xB i e ∧ e.n = 0 ∧ sc = (s.core p).l1Scope e.word)
    ∧ (∃ (s : State) (c p i : Nat) (e : Cqe) (sc : List CLine), s.CurAt c p 6 0xC i e ∧ e.n = 0 ∧ sc = (s.core p).l1Scope e.word)
    ∧ (∃ (s : State) (c p i op : Nat) (e : Cqe) (cmd : Instr), (op = 0xB ∧ cmd = .vecL1flush c) ∨ (op = 0xC ∧ cmd = .vecL1inv c) ∧ s.CurAt c p 6 op i e ∧ e.n ≠ 0 ∧ (∀ r ∈ (s.cluster (clusterOf p)).reqs, r.port = p % 8 → r.wr = none))
    ∧ (∃ (s : State) (c p i : Nat) (e : Cqe) (o : ObjEnt) (sc : List CLine), s.WordAt c p 1 4 i e ∧ o = s.objEnt (wbits e.word 55 16) ∧ sc = (s.cluster (clusterOf p)).l2.filter (fun x => wbit e.word 71 || (o.valid && o.start < x.line * 128 + 128 && x.line * 128 < o.start + o.bytes)))
    ∧ (∃ (s : State) (c p i : Nat) (e : Cqe) (o : ObjEnt) (sc : List CLine), s.WordAt c p 1 5 i e ∧ o = s.objEnt (wbits e.word 55 16) ∧ sc = (s.cluster (clusterOf p)).l2.filter (fun x => wbit e.word 71 || (o.valid && o.start < x.line * 128 + 128 && x.line * 128 < o.start + o.bytes)))
    ∧ (∃ (s : State) (g port stamp l : Nat) (r : SwReq) (x : CLine), s.Settled (512 + g) ∧ g < 64 ∧ (s.cluster g).oos = false ∧ (s.cluster g).reqs = [r] ∧ r.port = port ∧ port < 8 ∧ r.stamp = none ∧ r.wr = none ∧ lineIn (s.cluster g).l2 r.line = some x ∧ (s.core (8 * g + port)).vec.miss = some l ∧ (s.core (8 * g + port)).vec.missAt = r.line)
    ∧ (∃ (s : State) (g port stamp : Nat) (r : SwReq), s.Settled (512 + g) ∧ g < 64 ∧ (s.cluster g).oos = false ∧ (s.cluster g).reqs = [r] ∧ r.port = port ∧ port < 8 ∧ r.stamp = none ∧ r.wr = none ∧ lineIn (s.cluster g).l2 r.line = none ∧ (∀ m ∈ (s.cluster g).miss, m.line ≠ r.line) ∧ (s.cluster g).miss.length < 64)
    ∧ (∃ (s : State) (g port stamp : Nat) (r : SwReq) (d : List Byte) (x : CLine), s.Settled (512 + g) ∧ g < 64 ∧ (s.cluster g).oos = false ∧ (s.cluster g).reqs = [r] ∧ r.port = port ∧ port < 8 ∧ r.stamp = none ∧ r.wr = some d ∧ lineIn (s.cluster g).l2 r.line = some x)
    ∧ (∃ (s s1 : State) (g line : Nat) (y : Nat × Nat) (m : MissReg), s.Settled (512 + g) ∧ (s.cluster g).miss.find? (fun m => m.line = line) = some m ∧ (s.cluster g).reqs = [] ∧ s1 = s.setCluster g { s.cluster g with miss := (s.cluster g).miss.erase m } ∧ s1.lineCheck g line m.cause = .ok y) := by
  refine ⟨?_, ?_, ?_, ?_, ?_, ?_, ?_, ?_, ?_⟩
  · refine ⟨tS (tQ 6 (tE 6 0xB [(64, 1)]) tC), 0, 0, 0, tE 6 0xB [(64, 1)], [], ?_⟩
    simp only [State.CurAt, State.Answers, State.Settled]; and_intros <;> first | with_reducible rfl | exact Or.inl ⟨rfl, rfl, rfl⟩ | exact all_clean (by decide +kernel) | decide +kernel | rfl | exact fun _ _ h => absurd h List.not_mem_nil | exact fun _ h => absurd h List.not_mem_nil
  · refine ⟨tS (tQ 6 (tE 6 0xC [(64, 1)]) { tC with vec := { l1 := [{ line := 0, bytes := [], dirty := true }] } }), 0, 0, 0, tE 6 0xC [(64, 1)], [{ line := 0, bytes := [], dirty := true }], ?_⟩
    simp only [State.CurAt, State.Answers, State.Settled]; and_intros <;> first | with_reducible rfl | exact Or.inl ⟨rfl, rfl, rfl⟩ | exact all_clean (by decide +kernel) | decide +kernel | rfl | exact fun _ _ h => absurd h List.not_mem_nil | exact fun _ h => absurd h List.not_mem_nil
  · refine ⟨tS (tQ 6 { tE 6 0xB [] with n := 1 } tC), 0, 0, 0, 0xB, { tE 6 0xB [] with n := 1 }, .vecL1flush 0, ?_⟩
    simp only [State.CurAt, State.Answers, State.Settled]; and_intros <;> first | with_reducible rfl | exact Or.inl ⟨rfl, rfl, rfl⟩ | exact all_clean (by decide +kernel) | decide +kernel | rfl | exact fun _ _ h => absurd h List.not_mem_nil | exact fun _ h => absurd h List.not_mem_nil
  · refine ⟨{ tM (tQ 1 (tE 1 4 [(55, 1)]) tC) with clusters := [(0, { l2 := [{ line := 4294975487, bytes := [], dirty := true }, { line := 4294975488, bytes := [], dirty := true }] })] }, 0, 0, 0, tE 1 4 [(55, 1)], tO, [{ line := 4294975487, bytes := [], dirty := true }], ?_⟩
    simp only [State.WordAt, State.Answers, State.Settled]; and_intros <;> first | with_reducible rfl | exact Or.inl ⟨rfl, rfl, rfl⟩ | exact all_clean (by decide +kernel) | decide +kernel | rfl | exact fun _ _ h => absurd h List.not_mem_nil | exact fun _ h => absurd h List.not_mem_nil
  · refine ⟨{ tM (tQ 1 (tE 1 5 [(71, 1)]) tC) with clusters := [(0, { l2 := [{ line := 4294975488, bytes := [], dirty := true }] })] }, 0, 0, 0, tE 1 5 [(71, 1)], {}, [{ line := 4294975488, bytes := [], dirty := true }], ?_⟩
    simp only [State.WordAt, State.Answers, State.Settled]; and_intros <;> first | with_reducible rfl | exact Or.inl ⟨rfl, rfl, rfl⟩ | exact all_clean (by decide +kernel) | decide +kernel | rfl | exact fun _ _ h => absurd h List.not_mem_nil | exact fun _ h => absurd h List.not_mem_nil
  · refine ⟨{ tM { tC with vec := { miss := some 5, missAt := 5 } } with clusters := [(0, { l2 := [{ line := 5, bytes := [], dirty := false }], reqs := [{ port := 0, line := 5, wr := none, poison := false, stamp := none }] })] }, 0, 0, 9, 5, { port := 0, line := 5, wr := none, poison := false, stamp := none }, { line := 5, bytes := [], dirty := false }, ?_⟩
    simp only [State.Settled]; and_intros <;> first | with_reducible rfl | exact Or.inl ⟨rfl, rfl, rfl⟩ | exact all_clean (by decide +kernel) | decide +kernel | rfl | exact fun _ _ h => absurd h List.not_mem_nil | exact fun _ h => absurd h List.not_mem_nil
  · refine ⟨{ tM tC with clusters := [(63, { reqs := [{ port := 7, line := 5, wr := none, poison := false, stamp := none }] })] }, 63, 7, 9, { port := 7, line := 5, wr := none, poison := false, stamp := none }, ?_⟩
    simp only [State.Settled]; and_intros <;> first | with_reducible rfl | exact Or.inl ⟨rfl, rfl, rfl⟩ | exact all_clean (by decide +kernel) | decide +kernel | rfl | exact fun _ _ h => absurd h List.not_mem_nil | exact fun _ h => absurd h List.not_mem_nil
  · refine ⟨{ tM tC with clusters := [(0, { l2 := [{ line := 5, bytes := [], dirty := false }], reqs := [{ port := 0, line := 5, wr := some [1], poison := false, stamp := none }] })] }, 0, 0, 9, { port := 0, line := 5, wr := some [1], poison := false, stamp := none }, [1], { line := 5, bytes := [], dirty := false }, ?_⟩
    simp only [State.Settled]; and_intros <;> first | with_reducible rfl | exact Or.inl ⟨rfl, rfl, rfl⟩ | exact all_clean (by decide +kernel) | decide +kernel | rfl | exact fun _ _ h => absurd h List.not_mem_nil | exact fun _ h => absurd h List.not_mem_nil
  · refine ⟨{ tM tC with clusters := [(0, { miss := [{ line := 4294967301, ports := [0], cause := 0, prefetch := false }] })] }, { tM tC with clusters := [(0, {})] }, 0, 4294967301, (1, 640), { line := 4294967301, ports := [0], cause := 0, prefetch := false }, ?_⟩
    simp only [State.Settled]; and_intros <;> first | with_reducible rfl | exact Or.inl ⟨rfl, rfl, rfl⟩ | exact all_clean (by decide +kernel) | decide +kernel | rfl | exact fun _ _ h => absurd h List.not_mem_nil | exact fun _ h => absurd h List.not_mem_nil

def wLoadWordsPushS0 : State := tS (tQ 2 (tE 2 2 [(84, 15), (64, 9)]) { tC with ldAg := [(0, { base := 1024 })] })
def wLoadWordsPushS1 : State := tS (tQ 2 (tE 2 3 [(84, 14), (68, 14)]) tC)
def wLoadWordsPushS2 : State := tS (tQ 2 (tE 2 4 [(84, 15), (64, 9)]) tC)
def wLoadWordsPushS7 : State := tS (tQ 2 (tE 2 0x40 [(84, 15)]) tC)
def wLoadWordsPushK5 : Core := { tC with sht := { bufs := [some { word := 0, serving := 0, pos := 0, rows := List.replicate 16 0, poison := false }, none, none, none], servs := [{ word := 0, num := 0, tiles := 1, outA := 1, outB := 0, r := 1, width := 16 }] } }
def wLoadWordsPushS4 : State := tS (tQ 2 (tE 2 5 [(84, 15), (60, 14)]) tC)
def wLoadWordsPushR0 : DqEnt × List Got :=
  okGet (wLoadWordsPushS0.loadOperand 0 (tE 2 2 [(84, 15), (64, 9)]) 0 ((tE 2 2 [(84, 15), (64, 9)]).gen 0) ((tE 2 2 [(84, 15), (64, 9)]).scaleGen 9 2) 9
    (ldVecRate (tE 2 2 [(84, 15), (64, 9)]).word) (lanesOf (wbits (tE 2 2 [(84, 15), (64, 9)]).word 38 2))) (by decide +kernel)
def wLoadWordsPushR1 : DqEnt × List Got :=
  okGet (wLoadWordsPushS1.loadOperand 0 (tE 2 3 [(84, 14), (68, 14)]) 0 ((tE 2 3 [(84, 14), (68, 14)]).gen 0) ((tE 2 3 [(84, 14), (68, 14)]).scaleGen 0 2) 0
    (pairRate 0 0) (lanesOf (wbits (tE 2 3 [(84, 14), (68, 14)]).word 38 2))) (by decide +kernel)
def wLoadWordsPushR2 : DqEnt × List Got :=
  okGet (wLoadWordsPushS1.loadOperand 0 (tE 2 3 [(84, 14), (68, 14)]) 1 ((tE 2 3 [(84, 14), (68, 14)]).gen 1) ((tE 2 3 [(84, 14), (68, 14)]).scaleGen 0 3) 0
    (pairRate 0 0) (lanesOf (wbits (tE 2 3 [(84, 14), (68, 14)]).word 36 2))) (by decide +kernel)
def wLoadWordsPushK4 : Core := ((wLoadWordsPushS4.core 0).serve (tE 2 5 [(84, 15), (60, 14)]) true).serve (tE 2 5 [(84, 15), (60, 14)]) false
def wLoadWordsPushS5 : State := wLoadWordsPushS4.setCore 0 wLoadWordsPushK4
def wLoadWordsPushR4 : Got × Got := okGet (wLoadWordsPushS5.shtRow 0 (tE 2 5 [(84, 15), (60, 14)])) (by decide +kernel)
theorem witness_LoadWordsPush :
    (∃ (s : State) (c p i q f : Nat) (e : Cqe) (x : DqEnt) (h : List Got), s.WordAt c p 2 2 i e ∧ wOut e.word = q ∧ wbits e.word 64 4 = f ∧ (s.core p).dqRoom q 1 = true ∧ (s.core p).servedAhead q = false ∧ s.loadOperand p e 0 (e.gen 0) (e.scaleGen f 2) f (ldVecRate e.word) (lanesOf (wbits e.word 38 2)) = .ok (x, h))
    ∧ (∃ (s : State) (c p i q fa fb : Nat) (e : Cqe) (a b : DqEnt) (h j : List Got), s.WordAt c p 2 3 i e ∧ wOut e.word = q ∧ wbits e.word 64 4 = fa ∧ wbits e.word 60 4 = fb ∧ (s.core p).dqRoom q 1 = true ∧ (s.core p).dqRoom (q + 1) 1 = true ∧ (s.core p).servedAhead q = false ∧ (s.core p).servedAhead (q + 1) = false ∧ s.loadOperand p e 0 (e.gen 0) (e.scaleGen fa 2) fa (pairRate fa fb) (lanesOf (wbits e.word 38 2)) = .ok (a, h) ∧ s.loadOperand p e 1 (e.gen 1) (e.scaleGen fb 3) fb (pairRate fa fb) (lanesOf (wbits e.word 36 2)) = .ok (b, j))
    ∧ (∃ (s : State) (c p i q : Nat) (e : Cqe) (rows : List (List Byte × Bool)), s.WordAt c p 2 4 i e ∧ wOut e.word = q ∧ (s.core p).dqRoom q 1 = true ∧ (s.core p).servedAhead q = false ∧ e.n % 16 = 0 ∧ s.readRows p (e.gen 0) ((s.core p).genBase e (e.gen 0)) (e.n / 16 * 32) 32 = .ok rows)
    ∧ (∃ (s : State) (c p i q : Nat) (e : Cqe), s.WordAt c p 2 4 i e ∧ wOut e.word = q ∧ (s.core p).dqRoom q 1 = true ∧ (s.core p).servedAhead q = false ∧ e.n % 16 ≠ 0)
    ∧ (∃ (s s1 : State) (c p i d : Nat) (e : Cqe) (k1 : Core) (r : Got × Got) (x : Sht), s.WordAt c p 2 5 i e ∧ k1 = ((s.core p).serve e true).serve e false ∧ s1 = s.setCore p k1 ∧ e.n < 16 * (wRep e.word + 1) ∧ (e.n % 16 = 0 → k1.sht.bufs.any Option.isNone = true) ∧ s1.shtRow p e = .ok r ∧ k1.sht.putRow e.seqno (e.n / 16) (e.n % 16) (entryOf r.1.1) r.1.2 = some x ∧ d = e.n + 1)
    ∧ (∃ (k : Core) (e : Cqe) (v : Serving) (d : Entry) (z : Bool), k.sht.nextPush (wbits e.word 60 4) true = some v ∧ v.word = e.seqno ∧ k.dqRoom (wbits e.word 60 4) 1 = true ∧ k.sht.colEntry v v.pushA = some (d, z))
    ∧ (∃ (s : State) (c p : Nat) (v : Serving) (l : List Serving), s.Answers c p ∧ (s.core p).working = true ∧ (s.core p).sht.servs = v :: l ∧ v.tiles * (64 / v.r) ≤ v.popA ∧ v.tiles * (64 / v.r) ≤ v.popB)
    ∧ (∃ (s : State) (c p i q : Nat) (e : Cqe) (rows : List (List Byte × Bool)), s.WordAt c p 2 0x40 i e ∧ wOut e.word = q ∧ (s.core p).dqRoom q 1 = true ∧ (s.core p).servedAhead q = false ∧ e.n % 64 = 0 ∧ s.readRows p (e.gen 0) ((s.core p).genBase e (e.gen 0)) e.n 64 = .ok rows)
    ∧ (∃ (s : State) (c p i q : Nat) (e : Cqe), s.WordAt c p 2 0x40 i e ∧ wOut e.word = q ∧ (s.core p).dqRoom q 1 = true ∧ (s.core p).servedAhead q = false ∧ e.n % 64 ≠ 0) := by
  refine ⟨?_, ?_, ?_, ?_, ?_, ?_, ?_, ?_, ?_⟩
  · refine ⟨wLoadWordsPushS0, 0, 0, 0, 15, 9, tE 2 2 [(84, 15), (64, 9)], wLoadWordsPushR0.1, wLoadWordsPushR0.2, ?_⟩
    simp only [State.WordAt, State.Answers, State.Settled]; and_intros <;> first | with_reducible rfl | exact Or.inl ⟨rfl, rfl, rfl⟩ | exact all_clean (by decide +kernel) | decide +kernel | rfl | exact fun _ _ h => absurd h List.not_mem_nil | exact fun _ h => absurd h List.not_mem_nil
  · refine ⟨wLoadWordsPushS1, 0, 0, 0, 14, 0, 0, tE 2 3 [(84, 14), (68, 14)], wLoadWordsPushR1.1, wLoadWordsPushR2.1, wLoadWordsPushR1.2, wLoadWordsPushR2.2, ?_⟩
    simp only [State.WordAt, State.Answers, State.Settled]; and_intros <;> first | with_reducible rfl | exact Or.inl ⟨rfl, rfl, rfl⟩ | exact all_clean (by decide +kernel) | decide +kernel | rfl | exact fun _ _ h => absurd h List.not_mem_nil | exact fun _ h => absurd h List.not_mem_nil
  · refine ⟨wLoadWordsPushS2, 0, 0, 0, 15, tE 2 4 [(84, 15), (64, 9)], okGet (wLoadWordsPushS2.readRows 0 ((tE 2 4 [(84, 15), (64, 9)]).gen 0) ((wLoadWordsPushS2.core 0).genBase (tE 2 4 [(84, 15), (64, 9)]) ((tE 2 4 [(84, 15), (64, 9)]).gen 0)) ((tE 2 4 [(84, 15), (64, 9)]).n / 16 * 32) 32) (by decide +kernel), ?_⟩
    simp only [State.WordAt, State.Answers, State.Settled]; and_intros <;> first | with_reducible rfl | exact Or.inl ⟨rfl, rfl, rfl⟩ | exact all_clean (by decide +kernel) | decide +kernel | rfl | exact fun _ _ h => absurd h List.not_mem_nil | exact fun _ h => absurd h List.not_mem_nil
  · refine ⟨tS (tQ 2 { tE 2 4 [(84, 15)] with n := 15 } tC), 0, 0, 0, 15, { tE 2 4 [(84, 15)] with n := 15 }, ?_⟩
    simp only [State.WordAt, State.Answers, State.Settled]; and_intros <;> first | with_reducible rfl | exact Or.inl ⟨rfl, rfl, rfl⟩ | exact all_clean (by decide +kernel) | decide +kernel | rfl | exact fun _ _ h => absurd h List.not_mem_nil | exact fun _ h => absurd h List.not_mem_nil
  · refine ⟨wLoadWordsPushS4, wLoadWordsPushS5, 0, 0, 0, 1, tE 2 5 [(84, 15), (60, 14)], wLoadWordsPushK4, wLoadWordsPushR4, Option.get (wLoadWordsPushK4.sht.putRow (tE 2 5 [(84, 15), (60, 14)]).seqno ((tE 2 5 [(84, 15), (60, 14)]).n / 16) ((tE 2 5 [(84, 15), (60, 14)]).n % 16) (entryOf wLoadWordsPushR4.1.1) wLoadWordsPushR4.1.2) (by decide +kernel), ?_⟩
    simp only [State.WordAt, State.Answers, State.Settled]; and_intros <;> first | with_reducible rfl | exact Or.inl ⟨rfl, rfl, rfl⟩ | exact all_clean (by decide +kernel) | decide +kernel | rfl | exact fun _ _ h => absurd h List.not_mem_nil | exact fun _ h => absurd h List.not_mem_nil
  · refine ⟨wLoadWordsPushK5, tE 2 5 [(60, 1)], Option.get ((wLoadWordsPushK5).sht.nextPush (wbits (tE 2 5 [(60, 1)]).word 60 4) true) (by decide +kernel), (Option.get (wLoadWordsPushK5.sht.colEntry { word := 0, num := 0, tiles := 1, outA := 1, outB := 0, r := 1, width := 16 } 0) (by decide +kernel)).1, false, ?_⟩
    and_intros <;> first | with_reducible rfl | exact Or.inl ⟨rfl, rfl, rfl⟩ | exact all_clean (by decide +kernel) | decide +kernel | rfl | exact fun _ _ h => absurd h List.not_mem_nil | exact fun _ h => absurd h List.not_mem_nil
  · refine ⟨tS { tC with sht := { servs := [{ word := 0, num := 0, tiles := 2, outA := 1, outB := 0, r := 2, width := 8, popA := 64, popB := 64 }] } }, 0, 0, { word := 0, num := 0, tiles := 2, outA := 1, outB := 0, r := 2, width := 8, popA := 64, popB := 64 }, [], ?_⟩
    simp only [State.Answers, State.Settled]; and_intros <;> first | with_reducible rfl | exact Or.inl ⟨rfl, rfl, rfl⟩ | exact all_clean (by decide +kernel) | decide +kernel | rfl | exact fun _ _ h => absurd h List.not_mem_nil | exact fun _ h => absurd h List.not_mem_nil
  · refine ⟨wLoadWordsPushS7, 0, 0, 0, 15, tE 2 0x40 [(84, 15)], okGet (wLoadWordsPushS7.readRows 0 ((tE 2 0x40 [(84, 15)]).gen 0) ((wLoadWordsPushS7.core 0).genBase (tE 2 0x40 [(84, 15)]) ((tE 2 0x40 [(84, 15)]).gen 0)) (tE 2 0x40 [(84, 15)]).n 64) (by decide +kernel), ?_⟩
    simp only [State.WordAt, State.Answers, State.Settled]; and_intros <;> first | with_reducible rfl | exact Or.inl ⟨rfl, rfl, rfl⟩ | exact all_clean (by decide +kernel) | decide +kernel | rfl | exact fun _ _ h => absurd h List.not_mem_nil | exact fun _ h => absurd h List.not_mem_nil
  · refine ⟨tS (tQ 2 { tE 2 0x40 [(84, 15)] with n := 63 } tC), 0, 0, 0, 15, { tE 2 0x40 [(84, 15)] with n := 63 }, ?_⟩
    simp only [State.WordAt, State.Answers, State.Settled]; and_intros <;> first | with_reducible rfl | exact Or.inl ⟨rfl, rfl, rfl⟩ | exact all_clean (by decide +kernel) | decide +kernel | rfl | exact fun _ _ h => absurd h List.not_mem_nil | exact fun _ h => absurd h List.not_mem_nil

def wEnginesAccumulateK0 : Core := tQ 4 (tE 4 1 [(92, 14), (88, 12), (70, 1)]) (tD [(14, [tX]), (15, [tX]), (12, [tX]), (13, [tX])] tCg)
theorem witness_EnginesAccumulate :
    (∃ (s : State) (c p g i : Nat) (e : Cqe) (x : Engine) (ops : List (DqEnt × DqEnt)) (r : Tile × List Scan × Nat), g < 2 ∧ s.CurAt c p (3 + g) 1 i e ∧ x = (s.core p).eng g ∧ x.act = .active ∧ (e.n ≠ 0 ∨ eStart e.word = 4) ∧ (s.core p).operands e.word = some ops ∧ (∀ o ∈ ops, o.1.poison = false ∧ o.2.poison = false) ∧ r = ops.zipIdx.foldl (fun y z => rankStep e.word (x.pre.flatMap fun l => l.map f32) (decide (e.n = wRep e.word ∧ eFin e.word ≠ 0)) y z.2 z.1) (x.active, x.scans, 0))
    ∧ (∃ (s : State) (c p g i : Nat) (e : Cqe) (x : Engine) (ops : List (DqEnt × DqEnt)), g < 2 ∧ s.CurAt c p (3 + g) 1 i e ∧ x = (s.core p).eng g ∧ x.act = .active ∧ e.n = 0 ∧ eStart e.word = 0 ∧ x.finish = none ∧ 0 < wRep e.word ∧ (s.core p).operands e.word = some ops ∧ (∀ o ∈ ops, o.1.poison = false ∧ o.2.poison = false))
    ∧ (∃ (s : State) (c p g i : Nat) (e : Cqe) (x : Engine) (d : DqEnt) (l : List DqEnt), g < 2 ∧ s.CurAt c p (3 + g) 2 i e ∧ x = (s.core p).eng g ∧ x.act = .active ∧ ((s.core p).dataQ (wInb e.word)).ents = d :: l ∧ d.poison = false)
    ∧ (∃ (s : State) (c p g i : Nat) (e : Cqe) (x : Engine) (heads : List DqEnt), g < 2 ∧ s.CurAt c p (3 + g) 3 i e ∧ x = (s.core p).eng g ∧ x.act = .active ∧ heads = (List.range (packOf (ePack e.word))).filterMap (fun j => ((s.core p).dataQ (wIna e.word + j)).ents.head?) ∧ heads.length = packOf (ePack e.word) ∧ (∀ h ∈ heads, h.poison = false)) := by
  refine ⟨?_, ?_, ?_, ?_⟩
  · refine ⟨tS { wEnginesAccumulateK0 with engB := { tG with scans := [{}, {}] }, cq := [(4, [{ tE 4 1 [(92, 14), (88, 12), (70, 1), (96, 3)] with n := 3 }])] }, 0, 0, 1, 0, { tE 4 1 [(92, 14), (88, 12), (70, 1), (96, 3)] with n := 3 }, ((tS { wEnginesAccumulateK0 with engB := { tG with scans := [{}, {}] }, cq := [(4, [{ tE 4 1 [(92, 14), (88, 12), (70, 1), (96, 3)] with n := 3 }])] }).core (0)).eng (1), Option.get (((tS { wEnginesAccumulateK0 with engB := { tG with scans := [{}, {}] }, cq := [(4, [{ tE 4 1 [(92, 14), (88, 12), (70, 1), (96, 3)] with n := 3 }])] }).core (0)).operands ({ tE 4 1 [(92, 14), (88, 12), (70, 1), (96, 3)] with n := 3 }).word) (by decide +kernel), (Option.get (((tS { wEnginesAccumulateK0 with engB := { tG with scans := [{}, {}] }, cq := [(4, [{ tE 4 1 [(92, 14), (88, 12), (70, 1), (96, 3)] with n := 3 }])] }).core (0)).operands ({ tE 4 1 [(92, 14), (88, 12), (70, 1), (96, 3)] with n := 3 }).word) (by decide +kernel)).zipIdx.foldl (fun y z => rankStep ({ tE 4 1 [(92, 14), (88, 12), (70, 1), (96, 3)] with n := 3 }).word ((((tS { wEnginesAccumulateK0 with engB := { tG with scans := [{}, {}] }, cq := [(4, [{ tE 4 1 [(92, 14), (88, 12), (70, 1), (96, 3)] with n := 3 }])] }).core (0)).eng (1)).pre.flatMap fun l => l.map f32) (decide (({ tE 4 1 [(92, 14), (88, 12), (70, 1), (96, 3)] with n := 3 }).n = wRep ({ tE 4 1 [(92, 14), (88, 12), (70, 1), (96, 3)] with n := 3 }).word ∧ eFin ({ tE 4 1 [(92, 14), (88, 12), (70, 1), (96, 3)] with n := 3 }).word ≠ 0)) y z.2 z.1) ((((tS { wEnginesAccumulateK0 with engB := { tG with scans := [{}, {}] }, cq := [(4, [{ tE 4 1 [(92, 14), (88, 12), (70, 1), (96, 3)] with n := 3 }])] }).core (0)).eng (1)).active, (((tS { wEnginesAccumulateK0 with engB := { tG with scans := [{}, {}] }, cq := [(4, [{ tE 4 1 [(92, 14), (88, 12), (70, 1), (96, 3)] with n := 3 }])] }).core (0)).eng (1)).scans, 0), ?_⟩
    simp only [State.CurAt, State.Answers, State.Settled]; and_intros <;> first | with_reducible rfl | exact Or.inl ⟨rfl, rfl, rfl⟩ | exact all_clean (by decide +kernel) | decide +kernel | rfl | exact fun _ _ h => absurd h List.not_mem_nil | exact fun _ h => absurd h List.not_mem_nil
  · refine ⟨tS (tQ 3 (tE 3 1 [(92, 15), (88, 14), (96, 1)]) (tD [(15, [tX]), (14, [tX])] tCg)), 0, 0, 0, 0, tE 3 1 [(92, 15), (88, 14), (96, 1)], ((tS (tQ 3 (tE 3 1 [(92, 15), (88, 14), (96, 1)]) (tD [(15, [tX]), (14, [tX])] tCg))).core (0)).eng (0), Option.get (((tS (tQ 3 (tE 3 1 [(92, 15), (88, 14), (96, 1)]) (tD [(15, [tX]), (14, [tX])] tCg))).core (0)).operands (tE 3 1 [(92, 15), (88, 14), (96, 1)]).word) (by decide +kernel), ?_⟩
    simp only [State.CurAt, State.Answers, State.Settled]; and_intros <;> first | with_reducible rfl | exact Or.inl ⟨rfl, rfl, rfl⟩ | exact all_clean (by decide +kernel) | decide +kernel | rfl | exact fun _ _ h => absurd h List.not_mem_nil | exact fun _ h => absurd h List.not_mem_nil
  · refine ⟨tS (tQ 3 (tE 3 2 [(88, 15)]) (tD [(15, [tX])] tCg)), 0, 0, 0, 0, tE 3 2 [(88, 15)], ((tS (tQ 3 (tE 3 2 [(88, 15)]) (tD [(15, [tX])] tCg))).core (0)).eng (0), tX, [], ?_⟩
    simp only [State.CurAt, State.Answers, State.Settled]; and_intros <;> first | with_reducible rfl | exact Or.inl ⟨rfl, rfl, rfl⟩ | exact all_clean (by decide +kernel) | decide +kernel | rfl | exact fun _ _ h => absurd h List.not_mem_nil | exact fun _ h => absurd h List.not_mem_nil
  · refine ⟨tS (tQ 4 (tE 4 3 [(92, 14), (70, 1), (47, 0)]) (tD [(14, [tX]), (15, [tX])] tCg)), 0, 0, 1, 0, tE 4 3 [(92, 14), (70, 1), (47, 0)], ((tS (tQ 4 (tE 4 3 [(92, 14), (70, 1), (47, 0)]) (tD [(14, [tX]), (15, [tX])] tCg))).core (0)).eng (1), (List.range (packOf (ePack (tE 4 3 [(92, 14), (70, 1), (47, 0)]).word))).filterMap (fun j => (((tS (tQ 4 (tE 4 3 [(92, 14), (70, 1), (47, 0)]) (tD [(14, [tX]), (15, [tX])] tCg))).core (0)).dataQ (wIna (tE 4 3 [(92, 14), (70, 1), (47, 0)]).word + j)).ents.head?), ?_⟩
    simp only [State.CurAt, State.Answers, State.Settled]; and_intros <;> first | with_reducible rfl | exact Or.inl ⟨rfl, rfl, rfl⟩ | exact all_clean (by decide +kernel) | decide +kernel | rfl | exact fun _ _ h => absurd h List.not_mem_nil | exact fun _ h => absurd h List.not_mem_nil

def wEngineSlotsMoveS2 : State := { tS (tQ 3 (tE 3 6 [(66, 1), (42, 7), (24, 1)]) tCg) with t0 := [] }
theorem witness_EngineSlotsMove :
    (∃ (s : State) (c p g i : Nat) (e : Cqe), g < 2 ∧ s.CurAt c p (3 + g) 4 i e ∧ ((s.core p).eng g).act = .active ∧ e.n = 0)
    ∧ (∃ (s : State) (c p g i sl : Nat) (e : Cqe) (x : Slot), g < 2 ∧ s.CurAt c p (3 + g) 5 i e ∧ ((s.core p).eng g).act = .active ∧ eSlot e.word = sl ∧ x = ((s.core p).eng g).slot sl)
    ∧ (∃ (s : State) (c p g i sl : Nat) (e : Cqe) (x : Slot) (im : Tile), g < 2 ∧ s.CurAt c p (3 + g) 6 i e ∧ ((s.core p).eng g).act = .active ∧ eSlot e.word = sl ∧ x = ((s.core p).eng g).slot sl ∧ (s.localRead p 0 (eSpAddr e.word) 8384).2 = false ∧ im = tileOfImage (s.localRead p 0 (eSpAddr e.word) 8384).1 ∧ fillBad im (ePack e.word) (eProbs e.word) = false)
    ∧ (∃ (s : State) (c p g i sl : Nat) (e : Cqe) (x : Slot), g < 2 ∧ s.CurAt c p (3 + g) 7 i e ∧ ((s.core p).eng g).act = .active ∧ eSlot e.word = sl ∧ x = ((s.core p).eng g).slot sl)
    ∧ (∃ (s : State) (c p g : Nat) (d : TileDest), g < 2 ∧ s.Answers c p ∧ (s.core p).working = true ∧ ((s.core p).eng g).finish = some d ∧ ((s.core p).eng g).shUse = .none)
    ∧ (∃ (s : State) (c p g : Nat) (m : SlotMove) (l : List SlotMove), s.Answers c p ∧ (s.core p).working = true ∧ ((s.core p).eng g).moves = m :: l ∧ m.kind = .hold)
    ∧ (∃ (s : State) (c p g : Nat) (m : SlotMove) (l : List SlotMove), s.Answers c p ∧ (s.core p).working = true ∧ ((s.core p).eng g).moves = m :: l ∧ m.kind = .resume)
    ∧ (∃ (s : State) (c p g : Nat) (m : SlotMove) (l : List SlotMove) (w : Option Nat), s.Answers c p ∧ (s.core p).working = true ∧ ((s.core p).eng g).moves = m :: l ∧ m.kind = .drain w true) := by
  refine ⟨?_, ?_, ?_, ?_, ?_, ?_, ?_, ?_⟩
  · refine ⟨tS (tQ 3 (tE 3 4 [(66, 1)]) tCg), 0, 0, 0, 0, tE 3 4 [(66, 1)], ?_⟩
    simp only [State.CurAt, State.Answers, State.Settled]; and_intros <;> first | with_reducible rfl | exact Or.inl ⟨rfl, rfl, rfl⟩ | exact all_clean (by decide +kernel) | decide +kernel | rfl | exact fun _ _ h => absurd h List.not_mem_nil | exact fun _ h => absurd h List.not_mem_nil
  · refine ⟨tS (tQ 4 (tE 4 5 [(66, 1), (42, 7)]) tCg), 0, 0, 1, 0, 7, tE 4 5 [(66, 1), (42, 7)], (((tS (tQ 4 (tE 4 5 [(66, 1), (42, 7)]) tCg)).core (0)).eng (1)).slot (7), ?_⟩
    simp only [State.CurAt, State.Answers, State.Settled]; and_intros <;> first | with_reducible rfl | exact Or.inl ⟨rfl, rfl, rfl⟩ | exact all_clean (by decide +kernel) | decide +kernel | rfl | exact fun _ _ h => absurd h List.not_mem_nil | exact fun _ h => absurd h List.not_mem_nil
  · refine ⟨tS (tQ 3 (tE 3 6 [(42, 7), (24, 16000)]) tCg), 0, 0, 0, 0, 7, tE 3 6 [(42, 7), (24, 16000)], (((tS (tQ 3 (tE 3 6 [(42, 7), (24, 16000)]) tCg)).core (0)).eng (0)).slot (7), tileOfImage ((tS (tQ 3 (tE 3 6 [(42, 7), (24, 16000)]) tCg)).localRead (0) 0 (eSpAddr (tE 3 6 [(42, 7), (24, 16000)]).word) 8384).1, ?_⟩
    simp only [State.CurAt, State.Answers, State.Settled]; and_intros <;> first | with_reducible rfl | exact Or.inl ⟨rfl, rfl, rfl⟩ | exact all_clean (by decide +kernel) | decide +kernel | rfl | exact fun _ _ h => absurd h List.not_mem_nil | exact fun _ h => absurd h List.not_mem_nil
  · refine ⟨tS (tQ 3 (tE 3 7 [(66, 1), (42, 7)]) tCg), 0, 0, 0, 0, 7, tE 3 7 [(66, 1), (42, 7)], (((tS (tQ 3 (tE 3 7 [(66, 1), (42, 7)]) tCg)).core (0)).eng (0)).slot (7), ?_⟩
    simp only [State.CurAt, State.Answers, State.Settled]; and_intros <;> first | with_reducible rfl | exact Or.inl ⟨rfl, rfl, rfl⟩ | exact all_clean (by decide +kernel) | decide +kernel | rfl | exact fun _ _ h => absurd h List.not_mem_nil | exact fun _ h => absurd h List.not_mem_nil
  · refine ⟨tS { tC with engA := { tG with finish := some .drain } }, 0, 0, 0, .drain, ?_⟩
    simp only [State.Answers, State.Settled]; and_intros <;> first | with_reducible rfl | exact Or.inl ⟨rfl, rfl, rfl⟩ | exact all_clean (by decide +kernel) | decide +kernel | rfl | exact fun _ _ h => absurd h List.not_mem_nil | exact fun _ h => absurd h List.not_mem_nil
  · refine ⟨tS { tC with engB := { tG with moves := [{ slot := 7, qs := [0, 1, 2, 3], kind := .hold }] } }, 0, 0, 1, { slot := 7, qs := [0, 1, 2, 3], kind := .hold }, [], ?_⟩
    simp only [State.Answers, State.Settled]; and_intros <;> first | with_reducible rfl | exact Or.inl ⟨rfl, rfl, rfl⟩ | exact all_clean (by decide +kernel) | decide +kernel | rfl | exact fun _ _ h => absurd h List.not_mem_nil | exact fun _ h => absurd h List.not_mem_nil
  · refine ⟨tS { tC with engA := { tG with moves := [{ slot := 0, qs := [0, 1, 2, 3], kind := .resume }] } }, 0, 0, 0, { slot := 0, qs := [0, 1, 2, 3], kind := .resume }, [], ?_⟩
    simp only [State.Answers, State.Settled]; and_intros <;> first | with_reducible rfl | exact Or.inl ⟨rfl, rfl, rfl⟩ | exact all_clean (by decide +kernel) | decide +kernel | rfl | exact fun _ _ h => absurd h List.not_mem_nil | exact fun _ h => absurd h List.not_mem_nil
  · refine ⟨tS { tC with engA := { tG with moves := [{ slot := 3, qs := [0], kind := .drain none true }] } }, 0, 0, 0, { slot := 3, qs := [0], kind := .drain none true }, [], none, ?_⟩
    simp only [State.Answers, State.Settled]; and_intros <;> first | with_reducible rfl | exact Or.inl ⟨rfl, rfl, rfl⟩ | exact all_clean (by decide +kernel) | decide +kernel | rfl | exact fun _ _ h => absurd h List.not_mem_nil | exact fun _ h => absurd h List.not_mem_nil

theorem witness_EngineRampStates :
    (∃ (s : State) (c p g : Nat), g < 2 ∧ s.Answers c p ∧ (s.core p).awaitsToken g = true ∧ s.slopes .up + slope64 ((s.core p).rampReg g) ≤ 64 * s.didt)
    ∧ (∃ (s : State) (c p g : Nat), g < 2 ∧ s.Answers c p ∧ (s.core p).awaitsToken g = true ∧ 64 * s.didt < s.slopes .up + slope64 ((s.core p).rampReg g))
    ∧ (∃ (s : State) (c p g : Nat), g < 2 ∧ s.Answers c p ∧ ((s.core p).eng g).act = .up)
    ∧ (∃ (s : State) (c p g : Nat), g < 2 ∧ s.Answers c p ∧ ((s.core p).eng g).act = .active ∧ (s.core p).engQuiet g = true)
    ∧ (∃ (s : State) (c p g : Nat), g < 2 ∧ s.Answers c p ∧ ((s.core p).eng g).act = .active ∧ ((s.core p).eng g).stopReq = true ∧ s.slopes .down + slope64 ((s.core p).rampReg g) ≤ 64 * s.didt)
    ∧ (∃ (s : State) (c p g : Nat), g < 2 ∧ s.Answers c p ∧ ((s.core p).eng g).act = .down) := by
  refine ⟨?_, ?_, ?_, ?_, ?_, ?_⟩
  · refine ⟨tS (tQ 3 { tE 3 1 [] with started := false } tC), 0, 0, 0, ?_⟩
    simp only [State.Answers, State.Settled]; and_intros <;> first | with_reducible rfl | exact Or.inl ⟨rfl, rfl, rfl⟩ | exact all_clean (by decide +kernel) | decide +kernel | rfl | exact fun _ _ h => absurd h List.not_mem_nil | exact fun _ h => absurd h List.not_mem_nil
  · refine ⟨{ tS (tQ 4 { tE 4 1 [] with started := false } tC) with regs := [(0x500014, 1)] }, 0, 0, 1, ?_⟩
    simp only [State.Answers, State.Settled]; and_intros <;> first | with_reducible rfl | exact Or.inl ⟨rfl, rfl, rfl⟩ | exact all_clean (by decide +kernel) | decide +kernel | rfl | exact fun _ _ h => absurd h List.not_mem_nil | exact fun _ h => absurd h List.not_mem_nil
  · refine ⟨tS { tC with engB := { act := .up } }, 0, 0, 1, ?_⟩
    simp only [State.Answers, State.Settled]; and_intros <;> first | with_reducible rfl | exact Or.inl ⟨rfl, rfl, rfl⟩ | exact all_clean (by decide +kernel) | decide +kernel | rfl | exact fun _ _ h => absurd h List.not_mem_nil | exact fun _ h => absurd h List.not_mem_nil
  · refine ⟨tS tCg, 0, 0, 0, ?_⟩
    simp only [State.Answers, State.Settled]; and_intros <;> first | with_reducible rfl | exact Or.inl ⟨rfl, rfl, rfl⟩ | exact all_clean (by decide +kernel) | decide +kernel | rfl | exact fun _ _ h => absurd h List.not_mem_nil | exact fun _ h => absurd h List.not_mem_nil
  · refine ⟨tS { tC with engA := { act := .active, stopReq := true } }, 0, 0, 0, ?_⟩
    simp only [State.Answers, State.Settled]; and_intros <;> first | with_reducible rfl | exact Or.inl ⟨rfl, rfl, rfl⟩ | exact all_clean (by decide +kernel) | decide +kernel | rfl | exact fun _ _ h => absurd h List.not_mem_nil | exact fun _ h => absurd h List.not_mem_nil
  · refine ⟨tS { tC with engB := { act := .down } }, 0, 0, 1, ?_⟩
    simp only [State.Answers, State.Settled]; and_intros <;> first | with_reducible rfl | exact Or.inl ⟨rfl, rfl, rfl⟩ | exact all_clean (by decide +kernel) | decide +kernel | rfl | exact fun _ _ h => absurd h List.not_mem_nil | exact fun _ h => absurd h List.not_mem_nil

theorem witness_ConfigurationWordsWrite :
    (∃ (s : State) (c p i n : Nat) (e : Cqe), s.WordAt c p 2 1 i e ∧ wbits e.word 68 4 = n)
    ∧ (∃ (s : State) (c p i n : Nat) (e : Cqe), s.CurAt c p 6 0xD i e ∧ wbits e.word 68 3 = n)
    ∧ (∃ (s : State) (c p i n : Nat) (e : Cqe), s.CurAt c p 7 1 i e ∧ wbits e.word 68 4 = n)
    ∧ (∃ (s : State) (c p i l q : Nat) (e : Cqe), l < 2 ∧ q = (if l = 0 then 5 else 10) ∧ s.CurAt c p q 2 i e)
    ∧ (∃ (s : State) (c p i : Nat) (e : Cqe), s.CurAt c p 5 3 i e)
    ∧ (∃ (s : State) (c p i : Nat) (e : Cqe), s.CurAt c p 6 0xE i e)
    ∧ (∃ (s : State) (c p i : Nat) (e : Cqe), s.CurAt c p 8 1 i e) := by
  refine ⟨?_, ?_, ?_, ?_, ?_, ?_, ?_⟩
  · refine ⟨tS { tC with cq := [(2, [{ tE 2 2 [] with fin := true }, tE 2 1 [(68, 15)]])] }, 0, 0, 1, 15, tE 2 1 [(68, 15)], ?_⟩
    simp only [State.WordAt, State.Answers, State.Settled]; and_intros <;> first | with_reducible rfl | exact Or.inl ⟨rfl, rfl, rfl⟩ | exact all_clean (by decide +kernel) | decide +kernel | rfl | exact fun _ _ h => absurd h List.not_mem_nil | exact fun _ h => absurd h List.not_mem_nil
  · refine ⟨tS (tQ 6 (tE 6 0xD [(68, 7)]) tC), 0, 0, 0, 7, tE 6 0xD [(68, 7)], ?_⟩
    simp only [State.CurAt, State.Answers, State.Settled]; and_intros <;> first | with_reducible rfl | exact Or.inl ⟨rfl, rfl, rfl⟩ | exact all_clean (by decide +kernel) | decide +kernel | rfl | exact fun _ _ h => absurd h List.not_mem_nil | exact fun _ h => absurd h List.not_mem_nil
  · refine ⟨tS (tQ 7 (tE 7 1 [(68, 15)]) tC), 0, 0, 0, 15, tE 7 1 [(68, 15)], ?_⟩
    simp only [State.CurAt, State.Answers, State.Settled]; and_intros <;> first | with_reducible rfl | exact Or.inl ⟨rfl, rfl, rfl⟩ | exact all_clean (by decide +kernel) | decide +kernel | rfl | exact fun _ _ h => absurd h List.not_mem_nil | exact fun _ h => absurd h List.not_mem_nil
  · refine ⟨tS (tQ 10 (tE 5 2 []) tC), 0, 0, 0, 1, 10, tE 5 2 [], ?_⟩
    simp only [State.CurAt, State.Answers, State.Settled]; and_intros <;> first | with_reducible rfl | exact Or.inl ⟨rfl, rfl, rfl⟩ | exact all_clean (by decide +kernel) | decide +kernel | rfl | exact fun _ _ h => absurd h List.not_mem_nil | exact fun _ h => absurd h List.not_mem_nil
  · refine ⟨tS (tQ 5 (tE 5 3 []) tC), 0, 0, 0, tE 5 3 [], ?_⟩
    simp only [State.CurAt, State.Answers, State.Settled]; and_intros <;> first | with_reducible rfl | exact Or.inl ⟨rfl, rfl, rfl⟩ | exact all_clean (by decide +kernel) | decide +kernel | rfl | exact fun _ _ h => absurd h List.not_mem_nil | exact fun _ h => absurd h List.not_mem_nil
  · refine ⟨tS (tQ 6 (tE 6 0xE []) tC), 0, 0, 0, tE 6 0xE [], ?_⟩
    simp only [State.CurAt, State.Answers, State.Settled]; and_intros <;> first | with_reducible rfl | exact Or.inl ⟨rfl, rfl, rfl⟩ | exact all_clean (by decide +kernel) | decide +kernel | rfl | exact fun _ _ h => absurd h List.not_mem_nil | exact fun _ h => absurd h List.not_mem_nil
  · refine ⟨tS (tQ 8 (tE 8 1 []) tC), 0, 0, 0, tE 8 1 [], ?_⟩
    simp only [State.CurAt, State.Answers, State.Settled]; and_intros <;> first | with_reducible rfl | exact Or.inl ⟨rfl, rfl, rfl⟩ | exact all_clean (by decide +kernel) | decide +kernel | rfl | exact fun _ _ h => absurd h List.not_mem_nil | exact fun _ h => absurd h List.not_mem_nil

def wDrainTilesRowByRowS1 : State := tS (tQ 10 (tE 5 1 [(84, 15)]) { tC with drn := { cur := some { lane := 1, src := none, tile := {}, row := 15, bias := [] } } })
theorem witness_DrainTilesRowByRow :
    (∃ (s : State) (c p g : Nat) (src : Option Nat) (x : Tile), g < 2 ∧ s.Answers c p ∧ (s.core p).working = true ∧ (s.core p).drn.cur = none ∧ (s.core p).laneTakes g = true ∧ (g = 1 → (s.core p).laneTakes 0 = false ∨ (s.core p).engA.offered = none) ∧ ((s.core p).eng g).offered = some (src, x))
    ∧ (∃ (s : State) (c p l q i nb np : Nat) (e : Cqe) (w : CWord) (d : DrnTile) (bs ps : List DqEnt) (k : Core) (bias : List W32) (r : List (Nat × W32)) (rs : Option (Nat → Nat)) (o : List Entry × Option Side × Nat × Nat), l < 2 ∧ q = (if l = 0 then 5 else 10) ∧ s.CurAt c p q 1 i e ∧ w = e.word ∧ (s.core p).drn.cur = some d ∧ d.lane = l ∧ nb = (if d.row = 0 then biasEntries w else 0) ∧ np = (if dPops w then 1 else 0) ∧ (s.core p).headDq (wIna w) nb = some bs ∧ (s.core p).headDq (wInb w) np = some ps ∧ dStash w = false ∧ (s.core p).dqRoom (wOut w) (if fmtWidth (dOutFmt w) = 32 then 2 else 1) = true ∧ (∀ x ∈ bs, x.poison = false) ∧ (∀ x ∈ ps, x.poison = false) ∧ k = ((s.core p).dropDq (wIna w) nb).dropDq (wInb w) np ∧ bias = (if nb = 0 then d.bias else preRow (dBiasFmt w) bs) ∧ r = (List.range 64).map (fun j => k.drn.element w (bias.getD j 0) ((preRow (dPsFmt w) ps).getD j 0) (d.tile.value d.row j)) ∧ rs = (if dRnd w then some (k.drainRand (k.drn.ctx.getD l {}) d.tile.pack d.row) else none) ∧ o = drainOutput (dOutFmt w) (dSat w) rs (packOf d.tile.pack) (r.map Prod.snd))
    ∧ (∃ (s : State) (c p i : Nat) (e : Cqe) (x : DqEnt) (l : List DqEnt), s.CurAt c p 5 4 i e ∧ ((s.core p).dataQ (wIna e.word)).ents = x :: l ∧ x.poison = false ∧ e.n < 8)
    ∧ (∃ (s : State) (c p i : Nat) (e : Cqe) (x : DqEnt) (l : List DqEnt), s.CurAt c p 5 4 i e ∧ ((s.core p).dataQ (wIna e.word)).ents = x :: l ∧ x.poison = false ∧ e.n = 8)
    ∧ (∃ (d : Drain) (half n w : Nat) (x : Entry), half < d.tbl.length ∧ n < 9 ∧ w < 288)
    ∧ (∃ (s : State) (c p i : Nat) (e : Cqe), s.CurAt c p 5 5 i e ∧ (s.core p).dqRoom (wOut e.word) 3 = true) := by
  refine ⟨?_, ?_, ?_, ?_, ?_, ?_⟩
  · refine ⟨tS (tQ 10 (tE 5 1 []) { tCg with engB := { tG with shUse := .toDrain, offers := [none] } }), 0, 0, 1, none, {}, ?_⟩
    simp only [State.Answers, State.Settled]; and_intros <;> first | with_reducible rfl | exact Or.inl ⟨rfl, rfl, rfl⟩ | exact all_clean (by decide +kernel) | decide +kernel | rfl | exact fun _ _ h => absurd h List.not_mem_nil | exact fun _ h => absurd h List.not_mem_nil
  · refine ⟨wDrainTilesRowByRowS1, 0, 0, 1, 10, 0, (if (Option.get (((wDrainTilesRowByRowS1).core (0)).drn.cur) (by decide +kernel)).row = 0 then biasEntries ((tE 5 1 [(84, 15)]).word) else 0), (if dPops ((tE 5 1 [(84, 15)]).word) then 1 else 0), tE 5 1 [(84, 15)], (tE 5 1 [(84, 15)]).word, Option.get (((wDrainTilesRowByRowS1).core (0)).drn.cur) (by decide +kernel), Option.get (((wDrainTilesRowByRowS1).core (0)).headDq (wIna ((tE 5 1 [(84, 15)]).word)) ((if (Option.get (((wDrainTilesRowByRowS1).core (0)).drn.cur) (by decide +kernel)).row = 0 then biasEntries ((tE 5 1 [(84, 15)]).word) else 0))) (by decide +kernel), Option.get (((wDrainTilesRowByRowS1).core (0)).headDq (wInb ((tE 5 1 [(84, 15)]).word)) ((if dPops ((tE 5 1 [(84, 15)]).word) then 1 else 0))) (by decide +kernel), (((wDrainTilesRowByRowS1).core (0)).dropDq (wIna ((tE 5 1 [(84, 15)]).word)) ((if (Option.get (((wDrainTilesRowByRowS1).core (0)).drn.cur) (by decide +kernel)).row = 0 then biasEntries ((tE 5 1 [(84, 15)]).word) else 0))).dropDq (wInb ((tE 5 1 [(84, 15)]).word)) ((if dPops ((tE 5 1 [(84, 15)]).word) then 1 else 0)), (if ((if (Option.get (((wDrainTilesRowByRowS1).core (0)).drn.cur) (by decide +kernel)).row = 0 then biasEntries ((tE 5 1 [(84, 15)]).word) else 0)) = 0 then (Option.get (((wDrainTilesRowByRowS1).core (0)).drn.cur) (by decide +kernel)).bias else preRow (dBiasFmt ((tE 5 1 [(84, 15)]).word)) (Option.get (((wDrainTilesRowByRowS1).core (0)).headDq (wIna ((tE 5 1 [(84, 15)]).word)) ((if (Option.get (((wDrainTilesRowByRowS1).core (0)).drn.cur) (by decide +kernel)).row = 0 then biasEntries ((tE 5 1 [(84, 15)]).word) else 0))) (by decide +kernel))), (List.range 64).map (fun j => ((((wDrainTilesRowByRowS1).core (0)).dropDq (wIna ((tE 5 1 [(84, 15)]).word)) ((if (Option.get (((wDrainTilesRowByRowS1).core (0)).drn.cur) (by decide +kernel)).row = 0 then biasEntries ((tE 5 1 [(84, 15)]).word) else 0))).dropDq (wInb ((tE 5 1 [(84, 15)]).word)) ((if dPops ((tE 5 1 [(84, 15)]).word) then 1 else 0))).drn.element ((tE 5 1 [(84, 15)]).word) (((if ((if (Option.get (((wDrainTilesRowByRowS1).core (0)).drn.cur) (by decide +kernel)).row = 0 then biasEntries ((tE 5 1 [(84, 15)]).word) else 0)) = 0 then (Option.get (((wDrainTilesRowByRowS1).core (0)).drn.cur) (by decide +kernel)).bias else preRow (dBiasFmt ((tE 5 1 [(84, 15)]).word)) (Option.get (((wDrainTilesRowByRowS1).core (0)).headDq (wIna ((tE 5 1 [(84, 15)]).word)) ((if (Option.get (((wDrainTilesRowByRowS1).core (0)).drn.cur) (by decide +kernel)).row = 0 then biasEntries ((tE 5 1 [(84, 15)]).word) else 0))) (by decide +kernel)))).getD j 0) ((preRow (dPsFmt ((tE 5 1 [(84, 15)]).word)) (Option.get (((wDrainTilesRowByRowS1).core (0)).headDq (wInb ((tE 5 1 [(84, 15)]).word)) ((if dPops ((tE 5 1 [(84, 15)]).word) then 1 else 0))) (by decide +kernel))).getD j 0) ((Option.get (((wDrainTilesRowByRowS1).core (0)).drn.cur) (by decide +kernel)).tile.value (Option.get (((wDrainTilesRowByRowS1).core (0)).drn.cur) (by decide +kernel)).row j)), (if dRnd ((tE 5 1 [(84, 15)]).word) then some (((((wDrainTilesRowByRowS1).core (0)).dropDq (wIna ((tE 5 1 [(84, 15)]).word)) ((if (Option.get (((wDrainTilesRowByRowS1).core (0)).drn.cur) (by decide +kernel)).row = 0 then biasEntries ((tE 5 1 [(84, 15)]).word) else 0))).dropDq (wInb ((tE 5 1 [(84, 15)]).word)) ((if dPops ((tE 5 1 [(84, 15)]).word) then 1 else 0))).drainRand (((((wDrainTilesRowByRowS1).core (0)).dropDq (wIna ((tE 5 1 [(84, 15)]).word)) ((if (Option.get (((wDrainTilesRowByRowS1).core (0)).drn.cur) (by decide +kernel)).row = 0 then biasEntries ((tE 5 1 [(84, 15)]).word) else 0))).dropDq (wInb ((tE 5 1 [(84, 15)]).word)) ((if dPops ((tE 5 1 [(84, 15)]).word) then 1 else 0))).drn.ctx.getD (1) {}) (Option.get (((wDrainTilesRowByRowS1).core (0)).drn.cur) (by decide +kernel)).tile.pack (Option.get (((wDrainTilesRowByRowS1).core (0)).drn.cur) (by decide +kernel)).row) else none), drainOutput (dOutFmt ((tE 5 1 [(84, 15)]).word)) (dSat ((tE 5 1 [(84, 15)]).word)) ((if dRnd ((tE 5 1 [(84, 15)]).word) then some (((((wDrainTilesRowByRowS1).core (0)).dropDq (wIna ((tE 5 1 [(84, 15)]).word)) ((if (Option.get (((wDrainTilesRowByRowS1).core (0)).drn.cur) (by decide +kernel)).row = 0 then biasEntries ((tE 5 1 [(84, 15)]).word) else 0))).dropDq (wInb ((tE 5 1 [(84, 15)]).word)) ((if dPops ((tE 5 1 [(84, 15)]).word) then 1 else 0))).drainRand (((((wDrainTilesRowByRowS1).core (0)).dropDq (wIna ((tE 5 1 [(84, 15)]).word)) ((if (Option.get (((wDrainTilesRowByRowS1).core (0)).drn.cur) (by decide +kernel)).row = 0 then biasEntries ((tE 5 1 [(84, 15)]).word) else 0))).dropDq (wInb ((tE 5 1 [(84, 15)]).word)) ((if dPops ((tE 5 1 [(84, 15)]).word) then 1 else 0))).drn.ctx.getD (1) {}) (Option.get (((wDrainTilesRowByRowS1).core (0)).drn.cur) (by decide +kernel)).tile.pack (Option.get (((wDrainTilesRowByRowS1).core (0)).drn.cur) (by decide +kernel)).row) else none)) (packOf (Option.get (((wDrainTilesRowByRowS1).core (0)).drn.cur) (by decide +kernel)).tile.pack) (((List.range 64).map (fun j => ((((wDrainTilesRowByRowS1).core (0)).dropDq (wIna ((tE 5 1 [(84, 15)]).word)) ((if (Option.get (((wDrainTilesRowByRowS1).core (0)).drn.cur) (by decide +kernel)).row = 0 then biasEntries ((tE 5 1 [(84, 15)]).word) else 0))).dropDq (wInb ((tE 5 1 [(84, 15)]).word)) ((if dPops ((tE 5 1 [(84, 15)]).word) then 1 else 0))).drn.element ((tE 5 1 [(84, 15)]).word) (((if ((if (Option.get (((wDrainTilesRowByRowS1).core (0)).drn.cur) (by decide +kernel)).row = 0 then biasEntries ((tE 5 1 [(84, 15)]).word) else 0)) = 0 then (Option.get (((wDrainTilesRowByRowS1).core (0)).drn.cur) (by decide +kernel)).bias else preRow (dBiasFmt ((tE 5 1 [(84, 15)]).word)) (Option.get (((wDrainTilesRowByRowS1).core (0)).headDq (wIna ((tE 5 1 [(84, 15)]).word)) ((if (Option.get (((wDrainTilesRowByRowS1).core (0)).drn.cur) (by decide +kernel)).row = 0 then biasEntries ((tE 5 1 [(84, 15)]).word) else 0))) (by decide +kernel)))).getD j 0) ((preRow (dPsFmt ((tE 5 1 [(84, 15)]).word)) (Option.get (((wDrainTilesRowByRowS1).core (0)).headDq (wInb ((tE 5 1 [(84, 15)]).word)) ((if dPops ((tE 5 1 [(84, 15)]).word) then 1 else 0))) (by decide +kernel))).getD j 0) ((Option.get (((wDrainTilesRowByRowS1).core (0)).drn.cur) (by decide +kernel)).tile.value (Option.get (((wDrainTilesRowByRowS1).core (0)).drn.cur) (by decide +kernel)).row j))).map Prod.snd), ?_⟩
    simp only [State.CurAt, State.Answers, State.Settled]; and_intros <;> first | with_reducible rfl | exact Or.inl ⟨rfl, rfl, rfl⟩ | exact all_clean (by decide +kernel) | decide +kernel | rfl | exact fun _ _ h => absurd h List.not_mem_nil | exact fun _ h => absurd h List.not_mem_nil
  · refine ⟨tS (tQ 5 (tE 5 4 [(92, 15)]) (tD [(15, [tX])] tC)), 0, 0, 0, tE 5 4 [(92, 15)], tX, [], ?_⟩
    simp only [State.CurAt, State.Answers, State.Settled]; and_intros <;> first | with_reducible rfl | exact Or.inl ⟨rfl, rfl, rfl⟩ | exact all_clean (by decide +kernel) | decide +kernel | rfl | exact fun _ _ h => absurd h List.not_mem_nil | exact fun _ h => absurd h List.not_mem_nil
  · refine ⟨tS (tQ 5 { tE 5 4 [(92, 15)] with n := 8 } (tD [(15, [tX])] tC)), 0, 0, 0, { tE 5 4 [(92, 15)] with n := 8 }, tX, [], ?_⟩
    simp only [State.CurAt, State.Answers, State.Settled]; and_intros <;> first | with_reducible rfl | exact Or.inl ⟨rfl, rfl, rfl⟩ | exact all_clean (by decide +kernel) | decide +kernel | rfl | exact fun _ _ h => absurd h List.not_mem_nil | exact fun _ h => absurd h List.not_mem_nil
  · refine ⟨({} : Drain), 1, 8, 287, (5 : Entry), ?_⟩
    and_intros <;> first | with_reducible rfl | exact Or.inl ⟨rfl, rfl, rfl⟩ | exact all_clean (by decide +kernel) | decide +kernel | rfl | exact fun _ _ h => absurd h List.not_mem_nil | exact fun _ h => absurd h List.not_mem_nil
  · refine ⟨tS (tQ 5 (tE 5 5 [(84, 15)]) tC), 0, 0, 0, tE 5 5 [(84, 15)], ?_⟩
    simp only [State.CurAt, State.Answers, State.Settled]; and_intros <;> first | with_reducible rfl | exact Or.inl ⟨rfl, rfl, rfl⟩ | exact all_clean (by decide +kernel) | decide +kernel | rfl | exact fun _ _ h => absurd h List.not_mem_nil | exact fun _ h => absurd h List.not_mem_nil

def wVectorWordsComputeS0 : State := tS (tQ 6 (tE 6 1 [(92, 15), (88, 14), (52, 13), (51, 1), (64, 4)]) (tD [(15, [tX]), (14, [tX]), (13, [tX])] tC))
def wVectorWordsComputeS1 : State := tS (tQ 6 (tE 6 2 [(92, 15)]) (tD [(15, [tX])] tC))
def wVectorWordsComputeS2 : State := tS (tQ 6 (tE 6 3 [(92, 15)]) (tD [(15, [tX])] tC))
def wVectorWordsComputeS3 : State := tS (tQ 6 (tE 6 4 [(92, 15)]) (tD [(15, [tX])] tC))
theorem witness_VectorWordsCompute :
    (∃ (s : State) (c p i n : Nat) (e : Cqe) (w : CWord) (ins : List (Nat × Nat)) (k : Core) (g : List (List DqEnt)) (v : List W32), s.CurAt c p 6 1 i e ∧ w = e.word ∧ n = groupEnts (vFmtI w) ∧ ins = [(wIna w, n)] ++ (if ewUsesB (vFn w) then [(wInb w, n)] else []) ++ (if vIncEn w then [(vInc w, n)] else []) ∧ (s.core p).roomAll (vecOut w) = true ∧ (s.core p).popAll ins = some (k, g) ∧ (∀ l ∈ g, ∀ x ∈ l, x.poison = false) ∧ v = (List.range 64).map (fun j => ewOp (vFn w) (vImm w) ((preRow (vFmtI w) (g.getD 0 [])).getD j 0) ((if ewUsesB (vFn w) then preRow (vFmtI w) (g.getD 1 []) else []).getD j 0) ((if vIncEn w then preRow (vFmtI w) (g.getD (if ewUsesB (vFn w) then 2 else 1) []) else []).getD j 0)))
    ∧ (∃ (s : State) (c p i : Nat) (e : Cqe) (w : CWord) (k : Core) (g : List (List DqEnt)) (r : W32), s.CurAt c p 6 2 i e ∧ w = e.word ∧ (e.n = wRep w → (s.core p).roomAll (vecOut w) = true) ∧ (s.core p).popAll [(wIna w, groupEnts (vFmtI w))] = some (k, g) ∧ (∀ l ∈ g, ∀ x ∈ l, x.poison = false) ∧ r = redGroup (wbits w 64 2) (wbit w 71) (if e.n = 0 then none else some (BitVec.ofNat 32 (e.vals.getD 0 0))) (preRow (vFmtI w) (g.getD 0 [])))
    ∧ (∃ (s : State) (c p i : Nat) (e : Cqe) (w : CWord) (k : Core) (g : List (List DqEnt)), s.CurAt c p 6 3 i e ∧ w = e.word ∧ (s.core p).popAll [(wIna w, groupEnts (vFmtI w))] = some (k, g) ∧ (∀ l ∈ g, ∀ x ∈ l, x.poison = false))
    ∧ (∃ (s : State) (c p i : Nat) (e : Cqe) (w : CWord) (k : Core) (g : List (List DqEnt)), s.CurAt c p 6 4 i e ∧ w = e.word ∧ e.n ≤ wRep w ∧ (s.core p).popAll [(wIna w, groupEnts (vFmtI w))] = some (k, g) ∧ (∀ l ∈ g, ∀ x ∈ l, x.poison = false))
    ∧ (∃ (s : State) (c p i : Nat) (e : Cqe) (w : CWord) (v : List W32), s.CurAt c p 6 4 i e ∧ w = e.word ∧ wRep w < e.n ∧ (s.core p).roomAll (vecOut w) = true ∧ v = (List.range 64).map (fun j => (Config.softmax (e.vals.map (BitVec.ofNat 32))).getD (64 * (e.n - (wRep w + 1)) + j) 0))
    ∧ (∃ (s : State) (c p i m : Nat) (e : Cqe) (w : CWord) (v : List W32), s.CurAt c p 6 5 i e ∧ w = e.word ∧ wRep w < e.n ∧ (s.core p).roomAll (vecOut w) = true ∧ m = (if vIncEn w then 3 else 2) ∧ v = (List.range 64).map (fun j => (Config.norm (decide (vFn w = 1)) (strided m 0 (e.vals.map (BitVec.ofNat 32))) (strided m 1 (e.vals.map (BitVec.ofNat 32))) (if vIncEn w then strided m 2 (e.vals.map (BitVec.ofNat 32)) else []) (vImm w)).getD (64 * (e.n - (wRep w + 1)) + j) 0)) := by
  refine ⟨?_, ?_, ?_, ?_, ?_, ?_⟩
  · refine ⟨wVectorWordsComputeS0, 0, 0, 0, groupEnts (vFmtI ((tE 6 1 [(92, 15), (88, 14), (52, 13), (51, 1), (64, 4)]).word)), tE 6 1 [(92, 15), (88, 14), (52, 13), (51, 1), (64, 4)], (tE 6 1 [(92, 15), (88, 14), (52, 13), (51, 1), (64, 4)]).word, [(wIna ((tE 6 1 [(92, 15), (88, 14), (52, 13), (51, 1), (64, 4)]).word), (groupEnts (vFmtI ((tE 6 1 [(92, 15), (88, 14), (52, 13), (51, 1), (64, 4)]).word))))] ++ (if ewUsesB (vFn ((tE 6 1 [(92, 15), (88, 14), (52, 13), (51, 1), (64, 4)]).word)) then [(wInb ((tE 6 1 [(92, 15), (88, 14), (52, 13), (51, 1), (64, 4)]).word), (groupEnts (vFmtI ((tE 6 1 [(92, 15), (88, 14), (52, 13), (51, 1), (64, 4)]).word))))] else []) ++ (if vIncEn ((tE 6 1 [(92, 15), (88, 14), (52, 13), (51, 1), (64, 4)]).word) then [(vInc ((tE 6 1 [(92, 15), (88, 14), (52, 13), (51, 1), (64, 4)]).word), (groupEnts (vFmtI ((tE 6 1 [(92, 15), (88, 14), (52, 13), (51, 1), (64, 4)]).word))))] else []), (Option.get (((wVectorWordsComputeS0).core (0)).popAll ([(wIna ((tE 6 1 [(92, 15), (88, 14), (52, 13), (51, 1), (64, 4)]).word), (groupEnts (vFmtI ((tE 6 1 [(92, 15), (88, 14), (52, 13), (51, 1), (64, 4)]).word))))] ++ (if ewUsesB (vFn ((tE 6 1 [(92, 15), (88, 14), (52, 13), (51, 1), (64, 4)]).word)) then [(wInb ((tE 6 1 [(92, 15), (88, 14), (52, 13), (51, 1), (64, 4)]).word), (groupEnts (vFmtI ((tE 6 1 [(92, 15), (88, 14), (52, 13), (51, 1), (64, 4)]).word))))] else []) ++ (if vIncEn ((tE 6 1 [(92, 15), (88, 14), (52, 13), (51, 1), (64, 4)]).word) then [(vInc ((tE 6 1 [(92, 15), (88, 14), (52, 13), (51, 1), (64, 4)]).word), (groupEnts (vFmtI ((tE 6 1 [(92, 15), (88, 14), (52, 13), (51, 1), (64, 4)]).word))))] else []))) (by decide +kernel)).1, (Option.get (((wVectorWordsComputeS0).core (0)).popAll ([(wIna ((tE 6 1 [(92, 15), (88, 14), (52, 13), (51, 1), (64, 4)]).word), (groupEnts (vFmtI ((tE 6 1 [(92, 15), (88, 14), (52, 13), (51, 1), (64, 4)]).word))))] ++ (if ewUsesB (vFn ((tE 6 1 [(92, 15), (88, 14), (52, 13), (51, 1), (64, 4)]).word)) then [(wInb ((tE 6 1 [(92, 15), (88, 14), (52, 13), (51, 1), (64, 4)]).word), (groupEnts (vFmtI ((tE 6 1 [(92, 15), (88, 14), (52, 13), (51, 1), (64, 4)]).word))))] else []) ++ (if vIncEn ((tE 6 1 [(92, 15), (88, 14), (52, 13), (51, 1), (64, 4)]).word) then [(vInc ((tE 6 1 [(92, 15), (88, 14), (52, 13), (51, 1), (64, 4)]).word), (groupEnts (vFmtI ((tE 6 1 [(92, 15), (88, 14), (52, 13), (51, 1), (64, 4)]).word))))] else []))) (by decide +kernel)).2, (List.range 64).map (fun j => ewOp (vFn ((tE 6 1 [(92, 15), (88, 14), (52, 13), (51, 1), (64, 4)]).word)) (vImm ((tE 6 1 [(92, 15), (88, 14), (52, 13), (51, 1), (64, 4)]).word)) ((preRow (vFmtI ((tE 6 1 [(92, 15), (88, 14), (52, 13), (51, 1), (64, 4)]).word)) (((Option.get (((wVectorWordsComputeS0).core (0)).popAll ([(wIna ((tE 6 1 [(92, 15), (88, 14), (52, 13), (51, 1), (64, 4)]).word), (groupEnts (vFmtI ((tE 6 1 [(92, 15), (88, 14), (52, 13), (51, 1), (64, 4)]).word))))] ++ (if ewUsesB (vFn ((tE 6 1 [(92, 15), (88, 14), (52, 13), (51, 1), (64, 4)]).word)) then [(wInb ((tE 6 1 [(92, 15), (88, 14), (52, 13), (51, 1), (64, 4)]).word), (groupEnts (vFmtI ((tE 6 1 [(92, 15), (88, 14), (52, 13), (51, 1), (64, 4)]).word))))] else []) ++ (if vIncEn ((tE 6 1 [(92, 15), (88, 14), (52, 13), (51, 1), (64, 4)]).word) then [(vInc ((tE 6 1 [(92, 15), (88, 14), (52, 13), (51, 1), (64, 4)]).word), (groupEnts (vFmtI ((tE 6 1 [(92, 15), (88, 14), (52, 13), (51, 1), (64, 4)]).word))))] else []))) (by decide +kernel)).2).getD 0 [])).getD j 0) ((if ewUsesB (vFn ((tE 6 1 [(92, 15), (88, 14), (52, 13), (51, 1), (64, 4)]).word)) then preRow (vFmtI ((tE 6 1 [(92, 15), (88, 14), (52, 13), (51, 1), (64, 4)]).word)) (((Option.get (((wVectorWordsComputeS0).core (0)).popAll ([(wIna ((tE 6 1 [(92, 15), (88, 14), (52, 13), (51, 1), (64, 4)]).word), (groupEnts (vFmtI ((tE 6 1 [(92, 15), (88, 14), (52, 13), (51, 1), (64, 4)]).word))))] ++ (if ewUsesB (vFn ((tE 6 1 [(92, 15), (88, 14), (52, 13), (51, 1), (64, 4)]).word)) then [(wInb ((tE 6 1 [(92, 15), (88, 14), (52, 13), (51, 1), (64, 4)]).word), (groupEnts (vFmtI ((tE 6 1 [(92, 15), (88, 14), (52, 13), (51, 1), (64, 4)]).word))))] else []) ++ (if vIncEn ((tE 6 1 [(92, 15), (88, 14), (52, 13), (51, 1), (64, 4)]).word) then [(vInc ((tE 6 1 [(92, 15), (88, 14), (52, 13), (51, 1), (64, 4)]).word), (groupEnts (vFmtI ((tE 6 1 [(92, 15), (88, 14), (52, 13), (51, 1), (64, 4)]).word))))] else []))) (by decide +kernel)).2).getD 1 []) else []).getD j 0) ((if vIncEn ((tE 6 1 [(92, 15), (88, 14), (52, 13), (51, 1), (64, 4)]).word) then preRow (vFmtI ((tE 6 1 [(92, 15), (88, 14), (52, 13), (51, 1), (64, 4)]).word)) (((Option.get (((wVectorWordsComputeS0).core (0)).popAll ([(wIna ((tE 6 1 [(92, 15), (88, 14), (52, 13), (51, 1), (64, 4)]).word), (groupEnts (vFmtI ((tE 6 1 [(92, 15), (88, 14), (52, 13), (51, 1), (64, 4)]).word))))] ++ (if ewUsesB (vFn ((tE 6 1 [(92, 15), (88, 14), (52, 13), (51, 1), (64, 4)]).word)) then [(wInb ((tE 6 1 [(92, 15), (88, 14), (52, 13), (51, 1), (64, 4)]).word), (groupEnts (vFmtI ((tE 6 1 [(92, 15), (88, 14), (52, 13), (51, 1), (64, 4)]).word))))] else []) ++ (if vIncEn ((tE 6 1 [(92, 15), (88, 14), (52, 13), (51, 1), (64, 4)]).word) then [(vInc ((tE 6 1 [(92, 15), (88, 14), (52, 13), (51, 1), (64, 4)]).word), (groupEnts (vFmtI ((tE 6 1 [(92, 15), (88, 14), (52, 13), (51, 1), (64, 4)]).word))))] else []))) (by decide +kernel)).2).getD (if ewUsesB (vFn ((tE 6 1 [(92, 15), (88, 14), (52, 13), (51, 1), (64, 4)]).word)) then 2 else 1) []) else []).getD j 0)), ?_⟩
    simp only [State.CurAt, State.Answers, State.Settled]; and_intros <;> first | with_reducible rfl | exact Or.inl ⟨rfl, rfl, rfl⟩ | exact all_clean (by decide +kernel) | decide +kernel | rfl | exact fun _ _ h => absurd h List.not_mem_nil | exact fun _ h => absurd h List.not_mem_nil
  · refine ⟨wVectorWordsComputeS1, 0, 0, 0, tE 6 2 [(92, 15)], (tE 6 2 [(92, 15)]).word, (Option.get (((wVectorWordsComputeS1).core (0)).popAll [(wIna ((tE 6 2 [(92, 15)]).word), groupEnts (vFmtI ((tE 6 2 [(92, 15)]).word)))]) (by decide +kernel)).1, (Option.get (((wVectorWordsComputeS1).core (0)).popAll [(wIna ((tE 6 2 [(92, 15)]).word), groupEnts (vFmtI ((tE 6 2 [(92, 15)]).word)))]) (by decide +kernel)).2, redGroup (wbits ((tE 6 2 [(92, 15)]).word) 64 2) (wbit ((tE 6 2 [(92, 15)]).word) 71) (if (tE 6 2 [(92, 15)]).n = 0 then none else some (BitVec.ofNat 32 ((tE 6 2 [(92, 15)]).vals.getD 0 0))) (preRow (vFmtI ((tE 6 2 [(92, 15)]).word)) (((Option.get (((wVectorWordsComputeS1).core (0)).popAll [(wIna ((tE 6 2 [(92, 15)]).word), groupEnts (vFmtI ((tE 6 2 [(92, 15)]).word)))]) (by decide +kernel)).2).getD 0 [])), ?_⟩
    simp only [State.CurAt, State.Answers, State.Settled]; and_intros <;> first | with_reducible rfl | exact Or.inl ⟨rfl, rfl, rfl⟩ | exact all_clean (by decide +kernel) | decide +kernel | rfl | exact fun _ _ h => absurd h List.not_mem_nil | exact fun _ h => absurd h List.not_mem_nil
  · refine ⟨wVectorWordsComputeS2, 0, 0, 0, tE 6 3 [(92, 15)], (tE 6 3 [(92, 15)]).word, (Option.get (((wVectorWordsComputeS2).core (0)).popAll [(wIna ((tE 6 3 [(92, 15)]).word), groupEnts (vFmtI ((tE 6 3 [(92, 15)]).word)))]) (by decide +kernel)).1, (Option.get (((wVectorWordsComputeS2).core (0)).popAll [(wIna ((tE 6 3 [(92, 15)]).word), groupEnts (vFmtI ((tE 6 3 [(92, 15)]).word)))]) (by decide +kernel)).2, ?_⟩
    simp only [State.CurAt, State.Answers, State.Settled]; and_intros <;> first | with_reducible rfl | exact Or.inl ⟨rfl, rfl, rfl⟩ | exact all_clean (by decide +kernel) | decide +kernel | rfl | exact fun _ _ h => absurd h List.not_mem_nil | exact fun _ h => absurd h List.not_mem_nil
  · refine ⟨wVectorWordsComputeS3, 0, 0, 0, tE 6 4 [(92, 15)], (tE 6 4 [(92, 15)]).word, (Option.get (((wVectorWordsComputeS3).core (0)).popAll [(wIna ((tE 6 4 [(92, 15)]).word), groupEnts (vFmtI ((tE 6 4 [(92, 15)]).word)))]) (by decide +kernel)).1, (Option.get (((wVectorWordsComputeS3).core (0)).popAll [(wIna ((tE 6 4 [(92, 15)]).word), groupEnts (vFmtI ((tE 6 4 [(92, 15)]).word)))]) (by decide +kernel)).2, ?_⟩
    simp only [State.CurAt, State.Answers, State.Settled]; and_intros <;> first | with_reducible rfl | exact Or.inl ⟨rfl, rfl, rfl⟩ | exact all_clean (by decide +kernel) | decide +kernel | rfl | exact fun _ _ h => absurd h List.not_mem_nil | exact fun _ h => absurd h List.not_mem_nil
  · refine ⟨tS (tQ 6 { tE 6 4 [] with n := 1 } tC), 0, 0, 0, { tE 6 4 [] with n := 1 }, ({ tE 6 4 [] with n := 1 }).word, (List.range 64).map (fun j => (Config.softmax (({ tE 6 4 [] with n := 1 }).vals.map (BitVec.ofNat 32))).getD (64 * (({ tE 6 4 [] with n := 1 }).n - (wRep (({ tE 6 4 [] with n := 1 }).word) + 1)) + j) 0), ?_⟩
    simp only [State.CurAt, State.Answers, State.Settled]; and_intros <;> first | with_reducible rfl | exact Or.inl ⟨rfl, rfl, rfl⟩ | exact all_clean (by decide +kernel) | decide +kernel | rfl | exact fun _ _ h => absurd h List.not_mem_nil | exact fun _ h => absurd h List.not_mem_nil
  · refine ⟨tS (tQ 6 { tE 6 5 [(51, 1)] with n := 1 } tC), 0, 0, 0, (if vIncEn (({ tE 6 5 [(51, 1)] with n := 1 }).word) then 3 else 2), { tE 6 5 [(51, 1)] with n := 1 }, ({ tE 6 5 [(51, 1)] with n := 1 }).word, (List.range 64).map (fun j => (Config.norm (decide (vFn (({ tE 6 5 [(51, 1)] with n := 1 }).word) = 1)) (strided ((if vIncEn (({ tE 6 5 [(51, 1)] with n := 1 }).word) then 3 else 2)) 0 (({ tE 6 5 [(51, 1)] with n := 1 }).vals.map (BitVec.ofNat 32))) (strided ((if vIncEn (({ tE 6 5 [(51, 1)] with n := 1 }).word) then 3 else 2)) 1 (({ tE 6 5 [(51, 1)] with n := 1 }).vals.map (BitVec.ofNat 32))) (if vIncEn (({ tE 6 5 [(51, 1)] with n := 1 }).word) then strided ((if vIncEn (({ tE 6 5 [(51, 1)] with n := 1 }).word) then 3 else 2)) 2 (({ tE 6 5 [(51, 1)] with n := 1 }).vals.map (BitVec.ofNat 32)) else []) (vImm (({ tE 6 5 [(51, 1)] with n := 1 }).word))).getD (64 * (({ tE 6 5 [(51, 1)] with n := 1 }).n - (wRep (({ tE 6 5 [(51, 1)] with n := 1 }).word) + 1)) + j) 0), ?_⟩
    simp only [State.CurAt, State.Answers, State.Settled]; and_intros <;> first | with_reducible rfl | exact Or.inl ⟨rfl, rfl, rfl⟩ | exact all_clean (by decide +kernel) | decide +kernel | rfl | exact fun _ _ h => absurd h List.not_mem_nil | exact fun _ h => absurd h List.not_mem_nil

def wVectorWordsMoveAndSortC0 : Core := (tD [(14, [{ data := 0 }, { data := 0 }]), (15, [tX])] { tC with vec := { l1 := [{ line := 0, bytes := List.replicate 128 0, dirty := false }] } })
def wVectorWordsMoveAndSortS0 : State := tS (tQ 6 (tE 6 6 [(88, 14)]) wVectorWordsMoveAndSortC0)
def wVectorWordsMoveAndSortS1 : State := tS (tQ 6 (tE 6 7 [(92, 15), (88, 14)]) wVectorWordsMoveAndSortC0)
def wVectorWordsMoveAndSortS4 : State := tS (tQ 6 (tE 6 0xA [(92, 15)]) (tD [(15, [tX])] tC))
def wVectorWordsMoveAndSortS5 : State := tS (tQ 6 (tE 6 0x40 [(92, 0), (88, 1), (52, 2), (84, 14)]) (tD [(0, [tX]), (1, [tX]), (2, [tX, tX])] tC))
theorem witness_VectorWordsMoveAndSort :
    (∃ (s : State) (c p i : Nat) (e : Cqe) (w : CWord) (ix : List DqEnt) (l : List Nat), s.CurAt c p 6 6 i e ∧ w = e.word ∧ (s.core p).headDq (wInb w) 2 = some ix ∧ (∀ x ∈ ix, x.poison = false) ∧ (s.core p).gatherGo w e.n ((indices ix).drop e.vals.length) e.vals = (l, none, false) ∧ (s.core p).roomAll (vecOut w) = true)
    ∧ (∃ (s : State) (c p i : Nat) (e : Cqe) (w : CWord) (dat ix : List DqEnt) (codes : List Nat) (k : Core) (m : Nat), s.CurAt c p 6 7 i e ∧ w = e.word ∧ (s.core p).headDq (wIna w) (groupEnts (vFmtI w)) = some dat ∧ (s.core p).headDq (wInb w) 2 = some ix ∧ (∀ x ∈ dat, x.poison = false) ∧ (∀ x ∈ ix, x.poison = false) ∧ codes = unpackBits (fmtWidth (vFmtI w)) 64 (dat.foldr (fun y acc => y.data.toNat + acc * 2 ^ 1024) 0) ∧ (s.core p).scatterGo p w e.n (((indices ix).zip codes).drop (e.vals.getD 0 0)) (e.vals.getD 0 0) = (k, m, none, false))
    ∧ (∃ (s : State) (c p i : Nat) (e : Cqe) (w : CWord) (r : List (W32 × Nat)), s.CurAt c p 6 8 i e ∧ w = e.word ∧ wRep w < e.n ∧ (s.core p).roomAll (vecOut w) = true ∧ (s.core p).dqRoom (wOut w + 1) (groupEnts (vFmtI w)) = true ∧ r = (sortKeys (wbit w 64) ((List.range (e.vals.length / 2)).map fun j => (BitVec.ofNat 32 (e.vals.getD (2 * j) 0), e.vals.getD (2 * j + 1) 0))).take (vK w))
    ∧ (∃ (s : State) (c p i n : Nat) (e : Cqe) (w : CWord) (r : List Nat), s.CurAt c p 6 9 i e ∧ w = e.word ∧ wRep w < e.n ∧ n = (vK w + 31) / 32 ∧ (s.core p).dqRoom (wOut w) n = true ∧ r = nmsKeep (vImm w) (vK w) ((List.range (e.vals.length / 4)).map fun j => ((e.vals.drop (4 * j)).take 4).map (BitVec.ofNat 32)))
    ∧ (∃ (s : State) (c p i : Nat) (e : Cqe) (w : CWord) (k : Core) (x : DqEnt), s.CurAt c p 6 0xA i e ∧ w = e.word ∧ (s.core p).popAll [(wIna w, 1)] = some (k, [[x]]) ∧ x.poison = false)
    ∧ (∃ (s : State) (c p i : Nat) (e : Cqe) (w : CWord) (k : Core) (g : List (List DqEnt)) (r : List (W32 × W32)), s.CurAt c p 6 0x40 i e ∧ w = e.word ∧ (s.core p).dqRoom (wOut w) 1 = true ∧ (s.core p).dqRoom (wOut w + 1) 2 = true ∧ (s.core p).popAll [(wIna w, groupEnts (vFmtI w)), (wInb w, 1), (vInc w, 2)] = some (k, g) ∧ (∀ l ∈ g, ∀ x ∈ l, x.poison = false) ∧ vFn w = 0 ∧ r = (List.range 64).map (fun j => sgdU1 (vImm w) (k.upd.hp.getD 0 {}) ((preRow (vFmtI w) (g.getD 0 [])).getD j 0) ((preRow 0x0 (g.getD 1 [])).getD j 0) ((preRow 0xC (g.getD 2 [])).getD j 0))) := by
  refine ⟨?_, ?_, ?_, ?_, ?_, ?_⟩
  · refine ⟨wVectorWordsMoveAndSortS0, 0, 0, 0, tE 6 6 [(88, 14)], (tE 6 6 [(88, 14)]).word, Option.get (((wVectorWordsMoveAndSortS0).core (0)).headDq (wInb ((tE 6 6 [(88, 14)]).word)) 2) (by decide +kernel), (((wVectorWordsMoveAndSortS0).core (0)).gatherGo ((tE 6 6 [(88, 14)]).word) (tE 6 6 [(88, 14)]).n ((indices (Option.get (((wVectorWordsMoveAndSortS0).core (0)).headDq (wInb ((tE 6 6 [(88, 14)]).word)) 2) (by decide +kernel))).drop (tE 6 6 [(88, 14)]).vals.length) (tE 6 6 [(88, 14)]).vals).1, ?_⟩
    simp only [State.CurAt, State.Answers, State.Settled]; and_intros <;> first | with_reducible rfl | exact Or.inl ⟨rfl, rfl, rfl⟩ | exact all_clean (by decide +kernel) | decide +kernel | rfl | exact fun _ _ h => absurd h List.not_mem_nil | exact fun _ h => absurd h List.not_mem_nil
  · refine ⟨wVectorWordsMoveAndSortS1, 0, 0, 0, tE 6 7 [(92, 15), (88, 14)], (tE 6 7 [(92, 15), (88, 14)]).word, Option.get (((wVectorWordsMoveAndSortS1).core (0)).headDq (wIna ((tE 6 7 [(92, 15), (88, 14)]).word)) (groupEnts (vFmtI ((tE 6 7 [(92, 15), (88, 14)]).word)))) (by decide +kernel), Option.get (((wVectorWordsMoveAndSortS1).core (0)).headDq (wInb ((tE 6 7 [(92, 15), (88, 14)]).word)) 2) (by decide +kernel), unpackBits (fmtWidth (vFmtI ((tE 6 7 [(92, 15), (88, 14)]).word))) 64 ((Option.get (((wVectorWordsMoveAndSortS1).core (0)).headDq (wIna ((tE 6 7 [(92, 15), (88, 14)]).word)) (groupEnts (vFmtI ((tE 6 7 [(92, 15), (88, 14)]).word)))) (by decide +kernel)).foldr (fun y acc => y.data.toNat + acc * 2 ^ 1024) 0), (((wVectorWordsMoveAndSortS1).core (0)).scatterGo (0) ((tE 6 7 [(92, 15), (88, 14)]).word) (tE 6 7 [(92, 15), (88, 14)]).n (((indices (Option.get (((wVectorWordsMoveAndSortS1).core (0)).headDq (wInb ((tE 6 7 [(92, 15), (88, 14)]).word)) 2) (by decide +kernel))).zip (unpackBits (fmtWidth (vFmtI ((tE 6 7 [(92, 15), (88, 14)]).word))) 64 ((Option.get (((wVectorWordsMoveAndSortS1).core (0)).headDq (wIna ((tE 6 7 [(92, 15), (88, 14)]).word)) (groupEnts (vFmtI ((tE 6 7 [(92, 15), (88, 14)]).word)))) (by decide +kernel)).foldr (fun y acc => y.data.toNat + acc * 2 ^ 1024) 0))).drop ((tE 6 7 [(92, 15), (88, 14)]).vals.getD 0 0)) ((tE 6 7 [(92, 15), (88, 14)]).vals.getD 0 0)).1, (((wVectorWordsMoveAndSortS1).core (0)).scatterGo (0) ((tE 6 7 [(92, 15), (88, 14)]).word) (tE 6 7 [(92, 15), (88, 14)]).n (((indices (Option.get (((wVectorWordsMoveAndSortS1).core (0)).headDq (wInb ((tE 6 7 [(92, 15), (88, 14)]).word)) 2) (by decide +kernel))).zip (unpackBits (fmtWidth (vFmtI ((tE 6 7 [(92, 15), (88, 14)]).word))) 64 ((Option.get (((wVectorWordsMoveAndSortS1).core (0)).headDq (wIna ((tE 6 7 [(92, 15), (88, 14)]).word)) (groupEnts (vFmtI ((tE 6 7 [(92, 15), (88, 14)]).word)))) (by decide +kernel)).foldr (fun y acc => y.data.toNat + acc * 2 ^ 1024) 0))).drop ((tE 6 7 [(92, 15), (88, 14)]).vals.getD 0 0)) ((tE 6 7 [(92, 15), (88, 14)]).vals.getD 0 0)).2.1, ?_⟩
    simp only [State.CurAt, State.Answers, State.Settled]; and_intros <;> first | with_reducible rfl | exact Or.inl ⟨rfl, rfl, rfl⟩ | exact all_clean (by decide +kernel) | decide +kernel | rfl | exact fun _ _ h => absurd h List.not_mem_nil | exact fun _ h => absurd h List.not_mem_nil
  · refine ⟨tS (tQ 6 { tE 6 8 [] with n := 1, vals := [0x3F800000, 1, 0x40000000, 2] } tC), 0, 0, 0, { tE 6 8 [] with n := 1, vals := [0x3F800000, 1, 0x40000000, 2] }, ({ tE 6 8 [] with n := 1, vals := [0x3F800000, 1, 0x40000000, 2] }).word, (sortKeys (wbit (({ tE 6 8 [] with n := 1, vals := [0x3F800000, 1, 0x40000000, 2] }).word) 64) ((List.range (({ tE 6 8 [] with n := 1, vals := [0x3F800000, 1, 0x40000000, 2] }).vals.length / 2)).map fun j => (BitVec.ofNat 32 (({ tE 6 8 [] with n := 1, vals := [0x3F800000, 1, 0x40000000, 2] }).vals.getD (2 * j) 0), ({ tE 6 8 [] with n := 1, vals := [0x3F800000, 1, 0x40000000, 2] }).vals.getD (2 * j + 1) 0))).take (vK (({ tE 6 8 [] with n := 1, vals := [0x3F800000, 1, 0x40000000, 2] }).word)), ?_⟩
    simp only [State.CurAt, State.Answers, State.Settled]; and_intros <;> first | with_reducible rfl | exact Or.inl ⟨rfl, rfl, rfl⟩ | exact all_clean (by decide +kernel) | decide +kernel | rfl | exact fun _ _ h => absurd h List.not_mem_nil | exact fun _ h => absurd h List.not_mem_nil
  · refine ⟨tS (tQ 6 { tE 6 9 [(40, 63)] with n := 1 } tC), 0, 0, 0, (vK (({ tE 6 9 [(40, 63)] with n := 1 }).word) + 31) / 32, { tE 6 9 [(40, 63)] with n := 1 }, ({ tE 6 9 [(40, 63)] with n := 1 }).word, nmsKeep (vImm (({ tE 6 9 [(40, 63)] with n := 1 }).word)) (vK (({ tE 6 9 [(40, 63)] with n := 1 }).word)) ((List.range (({ tE 6 9 [(40, 63)] with n := 1 }).vals.length / 4)).map fun j => ((({ tE 6 9 [(40, 63)] with n := 1 }).vals.drop (4 * j)).take 4).map (BitVec.ofNat 32)), ?_⟩
    simp only [State.CurAt, State.Answers, State.Settled]; and_intros <;> first | with_reducible rfl | exact Or.inl ⟨rfl, rfl, rfl⟩ | exact all_clean (by decide +kernel) | decide +kernel | rfl | exact fun _ _ h => absurd h List.not_mem_nil | exact fun _ h => absurd h List.not_mem_nil
  · refine ⟨wVectorWordsMoveAndSortS4, 0, 0, 0, tE 6 0xA [(92, 15)], (tE 6 0xA [(92, 15)]).word, (Option.get ((wVectorWordsMoveAndSortS4.core 0).popAll [(15, 1)]) (by decide +kernel)).1, tX, ?_⟩
    simp only [State.CurAt, State.Answers, State.Settled]; and_intros <;> first | with_reducible rfl | exact Or.inl ⟨rfl, rfl, rfl⟩ | exact all_clean (by decide +kernel) | decide +kernel | rfl | exact fun _ _ h => absurd h List.not_mem_nil | exact fun _ h => absurd h List.not_mem_nil
  · refine ⟨wVectorWordsMoveAndSortS5, 0, 0, 0, tE 6 0x40 [(92, 0), (88, 1), (52, 2), (84, 14)], (tE 6 0x40 [(92, 0), (88, 1), (52, 2), (84, 14)]).word, (Option.get (((wVectorWordsMoveAndSortS5).core (0)).popAll [(wIna ((tE 6 0x40 [(92, 0), (88, 1), (52, 2), (84, 14)]).word), groupEnts (vFmtI ((tE 6 0x40 [(92, 0), (88, 1), (52, 2), (84, 14)]).word))), (wInb ((tE 6 0x40 [(92, 0), (88, 1), (52, 2), (84, 14)]).word), 1), (vInc ((tE 6 0x40 [(92, 0), (88, 1), (52, 2), (84, 14)]).word), 2)]) (by decide +kernel)).1, (Option.get (((wVectorWordsMoveAndSortS5).core (0)).popAll [(wIna ((tE 6 0x40 [(92, 0), (88, 1), (52, 2), (84, 14)]).word), groupEnts (vFmtI ((tE 6 0x40 [(92, 0), (88, 1), (52, 2), (84, 14)]).word))), (wInb ((tE 6 0x40 [(92, 0), (88, 1), (52, 2), (84, 14)]).word), 1), (vInc ((tE 6 0x40 [(92, 0), (88, 1), (52, 2), (84, 14)]).word), 2)]) (by decide +kernel)).2, (List.range 64).map (fun j => sgdU1 (vImm ((tE 6 0x40 [(92, 0), (88, 1), (52, 2), (84, 14)]).word)) (((Option.get (((wVectorWordsMoveAndSortS5).core (0)).popAll [(wIna ((tE 6 0x40 [(92, 0), (88, 1), (52, 2), (84, 14)]).word), groupEnts (vFmtI ((tE 6 0x40 [(92, 0), (88, 1), (52, 2), (84, 14)]).word))), (wInb ((tE 6 0x40 [(92, 0), (88, 1), (52, 2), (84, 14)]).word), 1), (vInc ((tE 6 0x40 [(92, 0), (88, 1), (52, 2), (84, 14)]).word), 2)]) (by decide +kernel)).1).upd.hp.getD 0 {}) ((preRow (vFmtI ((tE 6 0x40 [(92, 0), (88, 1), (52, 2), (84, 14)]).word)) (((Option.get (((wVectorWordsMoveAndSortS5).core (0)).popAll [(wIna ((tE 6 0x40 [(92, 0), (88, 1), (52, 2), (84, 14)]).word), groupEnts (vFmtI ((tE 6 0x40 [(92, 0), (88, 1), (52, 2), (84, 14)]).word))), (wInb ((tE 6 0x40 [(92, 0), (88, 1), (52, 2), (84, 14)]).word), 1), (vInc ((tE 6 0x40 [(92, 0), (88, 1), (52, 2), (84, 14)]).word), 2)]) (by decide +kernel)).2).getD 0 [])).getD j 0) ((preRow 0x0 (((Option.get (((wVectorWordsMoveAndSortS5).core (0)).popAll [(wIna ((tE 6 0x40 [(92, 0), (88, 1), (52, 2), (84, 14)]).word), groupEnts (vFmtI ((tE 6 0x40 [(92, 0), (88, 1), (52, 2), (84, 14)]).word))), (wInb ((tE 6 0x40 [(92, 0), (88, 1), (52, 2), (84, 14)]).word), 1), (vInc ((tE 6 0x40 [(92, 0), (88, 1), (52, 2), (84, 14)]).word), 2)]) (by decide +kernel)).2).getD 1 [])).getD j 0) ((preRow 0xC (((Option.get (((wVectorWordsMoveAndSortS5).core (0)).popAll [(wIna ((tE 6 0x40 [(92, 0), (88, 1), (52, 2), (84, 14)]).word), groupEnts (vFmtI ((tE 6 0x40 [(92, 0), (88, 1), (52, 2), (84, 14)]).word))), (wInb ((tE 6 0x40 [(92, 0), (88, 1), (52, 2), (84, 14)]).word), 1), (vInc ((tE 6 0x40 [(92, 0), (88, 1), (52, 2), (84, 14)]).word), 2)]) (by decide +kernel)).2).getD 2 [])).getD j 0)), ?_⟩
    simp only [State.CurAt, State.Answers, State.Settled]; and_intros <;> first | with_reducible rfl | exact Or.inl ⟨rfl, rfl, rfl⟩ | exact all_clean (by decide +kernel) | decide +kernel | rfl | exact fun _ _ h => absurd h List.not_mem_nil | exact fun _ h => absurd h List.not_mem_nil

def wWriteUnitStoresEntriesS0 : State := tS (tQ 7 (tE 7 2 [(92, 15), (61, 127)]) (tD [(15, [tX])] { tC with wrAg := [(0, { base := 1048448 })] }))
def wWriteUnitStoresEntriesS1 : State := tS (tQ 7 (tE 7 2 [(92, 15), (61, 127)]) (tD [(15, [tX])] { tC with wrAg := [(0, { layout := 1 })] }))
theorem witness_WriteUnitStoresEntries :
    (∃ (s : State) (c p i a n : Nat) (e : Cqe) (g : Agen) (x : DqEnt) (l : List DqEnt), s.CurAt c p 7 2 i e ∧ ((s.core p).dataQ (wIna e.word)).ents = x :: l ∧ x.poison = false ∧ (e.n = wRep e.word → wrHoutEn e.word = true → (s.core p).hqRoom (wrHout e.word) = true) ∧ g = aget {} (s.core p).wrAg (wbits e.word 68 4) ∧ g.layout = 0 ∧ e.hnd = none ∧ n = wbits e.word 61 7 + 1 ∧ (a : Int) = g.addr ((s.core p).genBase e g) e.n ∧ a + n ≤ spaceSize g.space)
    ∧ (∃ (s u : State) (c p i : Nat) (e : Cqe) (x : DqEnt) (l : List DqEnt), s.CurAt c p 7 2 i e ∧ ((s.core p).dataQ (wIna e.word)).ents = x :: l ∧ x.poison = false ∧ (e.n = wRep e.word → wrHoutEn e.word = true → (s.core p).hqRoom (wrHout e.word) = true) ∧ s.writeEntry p e (aget {} (s.core p).wrAg (wbits e.word 68 4)) (bytesOf (wbits e.word 61 7 + 1) x.data.toNat) = .ok u) := by
  refine ⟨?_, ?_⟩
  · refine ⟨wWriteUnitStoresEntriesS0, 0, 0, 0, 1048448, wbits (tE 7 2 [(92, 15), (61, 127)]).word 61 7 + 1, tE 7 2 [(92, 15), (61, 127)], aget {} ((wWriteUnitStoresEntriesS0).core (0)).wrAg (wbits (tE 7 2 [(92, 15), (61, 127)]).word 68 4), tX, [], ?_⟩
    simp only [State.CurAt, State.Answers, State.Settled]; and_intros <;> first | with_reducible rfl | exact Or.inl ⟨rfl, rfl, rfl⟩ | exact all_clean (by decide +kernel) | decide +kernel | rfl | exact fun _ _ h => absurd h List.not_mem_nil | exact fun _ h => absurd h List.not_mem_nil
  · refine ⟨wWriteUnitStoresEntriesS1, okGet ((wWriteUnitStoresEntriesS1).writeEntry (0) (tE 7 2 [(92, 15), (61, 127)]) (aget {} ((wWriteUnitStoresEntriesS1).core (0)).wrAg (wbits (tE 7 2 [(92, 15), (61, 127)]).word 68 4)) (bytesOf (wbits (tE 7 2 [(92, 15), (61, 127)]).word 61 7 + 1) (tX).data.toNat)) (by decide +kernel), 0, 0, 0, tE 7 2 [(92, 15), (61, 127)], tX, [], ?_⟩
    simp only [State.CurAt, State.Answers, State.Settled]; and_intros <;> first | with_reducible rfl | exact Or.inl ⟨rfl, rfl, rfl⟩ | exact all_clean (by decide +kernel) | decide +kernel | rfl | exact fun _ _ h => absurd h List.not_mem_nil | exact fun _ h => absurd h List.not_mem_nil

def wUpdateStagesAndCommitsO : ObjSide := { State.reset.obj with table := [(1, tO), (2, { tO with base := 0x800010 }), (3, { tO with base := 0x800020 })] }
def wUpdateStagesAndCommitsS0 : State := { tS (tQ 8 (tE 8 2 [(92, 15), (48, 1), (32, 2)]) (tD [(15, [tX])] { tC with regs := [(0x2410, 0x7F0003)] })) with obj := wUpdateStagesAndCommitsO }
def wUpdateStagesAndCommitsS1 : State := tS (tQ 8 (tE 8 3 [(92, 15)]) (tD [(15, [tX, tX, tX])] tC))
def wUpdateStagesAndCommitsS2 : State := { tS { tC with upd := { phase := .pinWait, touched := [1] } } with obj := wUpdateStagesAndCommitsO }
def wUpdateStagesAndCommitsS4 : State := tS { tC with upd := { phase := .commit } }
theorem witness_UpdateStagesAndCommits :
    (∃ (s s0 s1 s2 s3 : State) (c p i q mb bad : Nat) (e : Cqe) (w : CWord) (x : DqEnt) (l : List DqEnt) (h : HpSet) (wb ms rec_ : List Byte) (o : List ParamOut), s.CurAt c p 8 2 i e ∧ w = e.word ∧ ((s.core p).dataQ (wIna w)).ents = x :: l ∧ x.poison = false ∧ s.updTagWait p (s.core p).stageObj (64 * (s.core p).upd.stg) = none ∧ h = (s.core p).upd.hp.getD (uSet w) {} ∧ q = uStart w + e.n ∧ mb = momBytes (uMfmt w) (uOpt w) ∧ (if e.n = 0 then (s.setCore p ((s.core p).dropDq (wIna w) 1)).stagePut p (runHeader h w e.seqno) else .ok (s.setCore p ((s.core p).dropDq (wIna w) 1))) = .ok s0 ∧ s0.updRead p e (uWobj w) (64 * q) 64 = .ok (wb, s1) ∧ s1.updRead p e (uMobj w) (mb * q) mb = .ok (ms, s2) ∧ o = (List.range 32).map (fun j => optStep (uOpt w) h (if uClip w then some (s.core p).upd.scale else none) (((unpackBits 32 32 x.data.toNat).map (BitVec.ofNat 32)).getD j 0) (((unpackBits 16 32 (numOf wb)).map (widen 0x0)).getD j 0) ((momRead (uMfmt w) (uOpt w) ms).1.getD j 0) ((momRead (uMfmt w) (uOpt w) ms).2.getD j 0)) ∧ rec_ = (o.flatMap fun y => bytesOf 4 y.u.toNat) ++ padTo (pad64 mb) (momWrite (s.core p).seq (uMfmt w) (uOpt w) (uMobj w) q (o.map ParamOut.m) (o.map ParamOut.v)) ∧ s2.stagePut p rec_ = .ok s3 ∧ bad = (o.filter ParamOut.bad).length)
    ∧ (∃ (s : State) (c p i : Nat) (e : Cqe) (l : List DqEnt) (b : FeltBlk) (g th : W32), s.CurAt c p 8 3 i e ∧ (s.core p).headDq (wIna e.word) 3 = some l ∧ (∀ x ∈ l, x.poison = false) ∧ b = feltOfBytes false ((l.flatMap fun x => bytesOf 128 x.data.toNat).take 260) ∧ g = f32sqrt (toF32 (Fp.ofInt false (b.n.foldl (· + ·) 0) ((b.e : Int) - 151))) ∧ th = BitVec.ofNat 32 (wbits e.word 0 32))
    ∧ (∃ (s u : State) (c p : Nat), s.Answers c p ∧ (s.core p).upd.phase = .pinWait ∧ s.makeShadows (s.core p).upd.touched = some u)
    ∧ (∃ (s : State) (c p : Nat), s.Answers c p ∧ (s.core p).upd.phase = .pinWait ∧ s.makeShadows (s.core p).upd.touched = none)
    ∧ (∃ (s s1 u : State) (c p : Nat) (x : CommitPos), s.Answers c p ∧ (s.core p).upd.phase = .commit ∧ s.updTagWait p (s.core p).stageObj (64 * (s.core p).upd.stg) = none ∧ s.makeShadows (s.core p).upd.touched = some s1 ∧ s1.replay p = (u, x) ∧ x.poison = false ∧ x.stop = none ∧ (u.core p).pre.contCommit = false)
    ∧ (∃ (s : State) (c p : Nat), s.Answers c p ∧ (s.core p).seq.state = .stopped ∧ (s.core p).upd.phase = .idle ∧ (s.core p).rcmt.running = false)
    ∧ (∃ (s : State) (c p : Nat), s.Answers c p ∧ ((s.core p).seq.state ≠ .stopped ∨ (s.core p).upd.phase ≠ .idle ∨ (s.core p).rcmt.running = true))
    ∧ (∃ (s : State) (c p : Nat), s.Answers c p ∧ (s.core p).rcmt.running = true) := by
  refine ⟨?_, ?_, ?_, ?_, ?_, ?_, ?_, ?_⟩
  · refine ⟨wUpdateStagesAndCommitsS0, okGet ((if (tE 8 2 [(92, 15), (48, 1), (32, 2)]).n = 0 then ((wUpdateStagesAndCommitsS0).setCore (0) (((wUpdateStagesAndCommitsS0).core (0)).dropDq (wIna ((tE 8 2 [(92, 15), (48, 1), (32, 2)]).word)) 1)).stagePut (0) (runHeader (((wUpdateStagesAndCommitsS0).core (0)).upd.hp.getD (uSet ((tE 8 2 [(92, 15), (48, 1), (32, 2)]).word)) {}) ((tE 8 2 [(92, 15), (48, 1), (32, 2)]).word) (tE 8 2 [(92, 15), (48, 1), (32, 2)]).seqno) else .ok ((wUpdateStagesAndCommitsS0).setCore (0) (((wUpdateStagesAndCommitsS0).core (0)).dropDq (wIna ((tE 8 2 [(92, 15), (48, 1), (32, 2)]).word)) 1)))) (by decide +kernel), (okGet ((okGet ((if (tE 8 2 [(92, 15), (48, 1), (32, 2)]).n = 0 then ((wUpdateStagesAndCommitsS0).setCore (0) (((wUpdateStagesAndCommitsS0).core (0)).dropDq (wIna ((tE 8 2 [(92, 15), (48, 1), (32, 2)]).word)) 1)).stagePut (0) (runHeader (((wUpdateStagesAndCommitsS0).core (0)).upd.hp.getD (uSet ((tE 8 2 [(92, 15), (48, 1), (32, 2)]).word)) {}) ((tE 8 2 [(92, 15), (48, 1), (32, 2)]).word) (tE 8 2 [(92, 15), (48, 1), (32, 2)]).seqno) else .ok ((wUpdateStagesAndCommitsS0).setCore (0) (((wUpdateStagesAndCommitsS0).core (0)).dropDq (wIna ((tE 8 2 [(92, 15), (48, 1), (32, 2)]).word)) 1)))) (by decide +kernel)).updRead (0) (tE 8 2 [(92, 15), (48, 1), (32, 2)]) (uWobj ((tE 8 2 [(92, 15), (48, 1), (32, 2)]).word)) (64 * (uStart ((tE 8 2 [(92, 15), (48, 1), (32, 2)]).word) + (tE 8 2 [(92, 15), (48, 1), (32, 2)]).n)) 64) (by decide +kernel)).2, (okGet (((okGet ((okGet ((if (tE 8 2 [(92, 15), (48, 1), (32, 2)]).n = 0 then ((wUpdateStagesAndCommitsS0).setCore (0) (((wUpdateStagesAndCommitsS0).core (0)).dropDq (wIna ((tE 8 2 [(92, 15), (48, 1), (32, 2)]).word)) 1)).stagePut (0) (runHeader (((wUpdateStagesAndCommitsS0).core (0)).upd.hp.getD (uSet ((tE 8 2 [(92, 15), (48, 1), (32, 2)]).word)) {}) ((tE 8 2 [(92, 15), (48, 1), (32, 2)]).word) (tE 8 2 [(92, 15), (48, 1), (32, 2)]).seqno) else .ok ((wUpdateStagesAndCommitsS0).setCore (0) (((wUpdateStagesAndCommitsS0).core (0)).dropDq (wIna ((tE 8 2 [(92, 15), (48, 1), (32, 2)]).word)) 1)))) (by decide +kernel)).updRead (0) (tE 8 2 [(92, 15), (48, 1), (32, 2)]) (uWobj ((tE 8 2 [(92, 15), (48, 1), (32, 2)]).word)) (64 * (uStart ((tE 8 2 [(92, 15), (48, 1), (32, 2)]).word) + (tE 8 2 [(92, 15), (48, 1), (32, 2)]).n)) 64) (by decide +kernel)).2).updRead (0) (tE 8 2 [(92, 15), (48, 1), (32, 2)]) (uMobj ((tE 8 2 [(92, 15), (48, 1), (32, 2)]).word)) ((momBytes (uMfmt ((tE 8 2 [(92, 15), (48, 1), (32, 2)]).word)) (uOpt ((tE 8 2 [(92, 15), (48, 1), (32, 2)]).word))) * (uStart ((tE 8 2 [(92, 15), (48, 1), (32, 2)]).word) + (tE 8 2 [(92, 15), (48, 1), (32, 2)]).n)) (momBytes (uMfmt ((tE 8 2 [(92, 15), (48, 1), (32, 2)]).word)) (uOpt ((tE 8 2 [(92, 15), (48, 1), (32, 2)]).word)))) (by decide +kernel)).2, okGet (((okGet (((okGet ((okGet ((if (tE 8 2 [(92, 15), (48, 1), (32, 2)]).n = 0 then ((wUpdateStagesAndCommitsS0).setCore (0) (((wUpdateStagesAndCommitsS0).core (0)).dropDq (wIna ((tE 8 2 [(92, 15), (48, 1), (32, 2)]).word)) 1)).stagePut (0) (runHeader (((wUpdateStagesAndCommitsS0).core (0)).upd.hp.getD (uSet ((tE 8 2 [(92, 15), (48, 1), (32, 2)]).word)) {}) ((tE 8 2 [(92, 15), (48, 1), (32, 2)]).word) (tE 8 2 [(92, 15), (48, 1), (32, 2)]).seqno) else .ok ((wUpdateStagesAndCommitsS0).setCore (0) (((wUpdateStagesAndCommitsS0).core (0)).dropDq (wIna ((tE 8 2 [(92, 15), (48, 1), (32, 2)]).word)) 1)))) (by decide +kernel)).updRead (0) (tE 8 2 [(92, 15), (48, 1), (32, 2)]) (uWobj ((tE 8 2 [(92, 15), (48, 1), (32, 2)]).word)) (64 * (uStart ((tE 8 2 [(92, 15), (48, 1), (32, 2)]).word) + (tE 8 2 [(92, 15), (48, 1), (32, 2)]).n)) 64) (by decide +kernel)).2).updRead (0) (tE 8 2 [(92, 15), (48, 1), (32, 2)]) (uMobj ((tE 8 2 [(92, 15), (48, 1), (32, 2)]).word)) ((momBytes (uMfmt ((tE 8 2 [(92, 15), (48, 1), (32, 2)]).word)) (uOpt ((tE 8 2 [(92, 15), (48, 1), (32, 2)]).word))) * (uStart ((tE 8 2 [(92, 15), (48, 1), (32, 2)]).word) + (tE 8 2 [(92, 15), (48, 1), (32, 2)]).n)) (momBytes (uMfmt ((tE 8 2 [(92, 15), (48, 1), (32, 2)]).word)) (uOpt ((tE 8 2 [(92, 15), (48, 1), (32, 2)]).word)))) (by decide +kernel)).2).stagePut (0) ((((List.range 32).map (fun j => optStep (uOpt ((tE 8 2 [(92, 15), (48, 1), (32, 2)]).word)) (((wUpdateStagesAndCommitsS0).core (0)).upd.hp.getD (uSet ((tE 8 2 [(92, 15), (48, 1), (32, 2)]).word)) {}) (if uClip ((tE 8 2 [(92, 15), (48, 1), (32, 2)]).word) then some ((wUpdateStagesAndCommitsS0).core (0)).upd.scale else none) (((unpackBits 32 32 (tX).data.toNat).map (BitVec.ofNat 32)).getD j 0) (((unpackBits 16 32 (numOf ((okGet ((okGet ((if (tE 8 2 [(92, 15), (48, 1), (32, 2)]).n = 0 then ((wUpdateStagesAndCommitsS0).setCore (0) (((wUpdateStagesAndCommitsS0).core (0)).dropDq (wIna ((tE 8 2 [(92, 15), (48, 1), (32, 2)]).word)) 1)).stagePut (0) (runHeader (((wUpdateStagesAndCommitsS0).core (0)).upd.hp.getD (uSet ((tE 8 2 [(92, 15), (48, 1), (32, 2)]).word)) {}) ((tE 8 2 [(92, 15), (48, 1), (32, 2)]).word) (tE 8 2 [(92, 15), (48, 1), (32, 2)]).seqno) else .ok ((wUpdateStagesAndCommitsS0).setCore (0) (((wUpdateStagesAndCommitsS0).core (0)).dropDq (wIna ((tE 8 2 [(92, 15), (48, 1), (32, 2)]).word)) 1)))) (by decide +kernel)).updRead (0) (tE 8 2 [(92, 15), (48, 1), (32, 2)]) (uWobj ((tE 8 2 [(92, 15), (48, 1), (32, 2)]).word)) (64 * (uStart ((tE 8 2 [(92, 15), (48, 1), (32, 2)]).word) + (tE 8 2 [(92, 15), (48, 1), (32, 2)]).n)) 64) (by decide +kernel)).1))).map (widen 0x0)).getD j 0) ((momRead (uMfmt ((tE 8 2 [(92, 15), (48, 1), (32, 2)]).word)) (uOpt ((tE 8 2 [(92, 15), (48, 1), (32, 2)]).word)) ((okGet (((okGet ((okGet ((if (tE 8 2 [(92, 15), (48, 1), (32, 2)]).n = 0 then ((wUpdateStagesAndCommitsS0).setCore (0) (((wUpdateStagesAndCommitsS0).core (0)).dropDq (wIna ((tE 8 2 [(92, 15), (48, 1), (32, 2)]).word)) 1)).stagePut (0) (runHeader (((wUpdateStagesAndCommitsS0).core (0)).upd.hp.getD (uSet ((tE 8 2 [(92, 15), (48, 1), (32, 2)]).word)) {}) ((tE 8 2 [(92, 15), (48, 1), (32, 2)]).word) (tE 8 2 [(92, 15), (48, 1), (32, 2)]).seqno) else .ok ((wUpdateStagesAndCommitsS0).setCore (0) (((wUpdateStagesAndCommitsS0).core (0)).dropDq (wIna ((tE 8 2 [(92, 15), (48, 1), (32, 2)]).word)) 1)))) (by decide +kernel)).updRead (0) (tE 8 2 [(92, 15), (48, 1), (32, 2)]) (uWobj ((tE 8 2 [(92, 15), (48, 1), (32, 2)]).word)) (64 * (uStart ((tE 8 2 [(92, 15), (48, 1), (32, 2)]).word) + (tE 8 2 [(92, 15), (48, 1), (32, 2)]).n)) 64) (by decide +kernel)).2).updRead (0) (tE 8 2 [(92, 15), (48, 1), (32, 2)]) (uMobj ((tE 8 2 [(92, 15), (48, 1), (32, 2)]).word)) ((momBytes (uMfmt ((tE 8 2 [(92, 15), (48, 1), (32, 2)]).word)) (uOpt ((tE 8 2 [(92, 15), (48, 1), (32, 2)]).word))) * (uStart ((tE 8 2 [(92, 15), (48, 1), (32, 2)]).word) + (tE 8 2 [(92, 15), (48, 1), (32, 2)]).n)) (momBytes (uMfmt ((tE 8 2 [(92, 15), (48, 1), (32, 2)]).word)) (uOpt ((tE 8 2 [(92, 15), (48, 1), (32, 2)]).word)))) (by decide +kernel)).1)).1.getD j 0) ((momRead (uMfmt ((tE 8 2 [(92, 15), (48, 1), (32, 2)]).word)) (uOpt ((tE 8 2 [(92, 15), (48, 1), (32, 2)]).word)) ((okGet (((okGet ((okGet ((if (tE 8 2 [(92, 15), (48, 1), (32, 2)]).n = 0 then ((wUpdateStagesAndCommitsS0).setCore (0) (((wUpdateStagesAndCommitsS0).core (0)).dropDq (wIna ((tE 8 2 [(92, 15), (48, 1), (32, 2)]).word)) 1)).stagePut (0) (runHeader (((wUpdateStagesAndCommitsS0).core (0)).upd.hp.getD (uSet ((tE 8 2 [(92, 15), (48, 1), (32, 2)]).word)) {}) ((tE 8 2 [(92, 15), (48, 1), (32, 2)]).word) (tE 8 2 [(92, 15), (48, 1), (32, 2)]).seqno) else .ok ((wUpdateStagesAndCommitsS0).setCore (0) (((wUpdateStagesAndCommitsS0).core (0)).dropDq (wIna ((tE 8 2 [(92, 15), (48, 1), (32, 2)]).word)) 1)))) (by decide +kernel)).updRead (0) (tE 8 2 [(92, 15), (48, 1), (32, 2)]) (uWobj ((tE 8 2 [(92, 15), (48, 1), (32, 2)]).word)) (64 * (uStart ((tE 8 2 [(92, 15), (48, 1), (32, 2)]).word) + (tE 8 2 [(92, 15), (48, 1), (32, 2)]).n)) 64) (by decide +kernel)).2).updRead (0) (tE 8 2 [(92, 15), (48, 1), (32, 2)]) (uMobj ((tE 8 2 [(92, 15), (48, 1), (32, 2)]).word)) ((momBytes (uMfmt ((tE 8 2 [(92, 15), (48, 1), (32, 2)]).word)) (uOpt ((tE 8 2 [(92, 15), (48, 1), (32, 2)]).word))) * (uStart ((tE 8 2 [(92, 15), (48, 1), (32, 2)]).word) + (tE 8 2 [(92, 15), (48, 1), (32, 2)]).n)) (momBytes (uMfmt ((tE 8 2 [(92, 15), (48, 1), (32, 2)]).word)) (uOpt ((tE 8 2 [(92, 15), (48, 1), (32, 2)]).word)))) (by decide +kernel)).1)).2.getD j 0))).flatMap fun y => bytesOf 4 y.u.toNat) ++ padTo (pad64 (momBytes (uMfmt ((tE 8 2 [(92, 15), (48, 1), (32, 2)]).word)) (uOpt ((tE 8 2 [(92, 15), (48, 1), (32, 2)]).word)))) (momWrite ((wUpdateStagesAndCommitsS0).core (0)).seq (uMfmt ((tE 8 2 [(92, 15), (48, 1), (32, 2)]).word)) (uOpt ((tE 8 2 [(92, 15), (48, 1), (32, 2)]).word)) (uMobj ((tE 8 2 [(92, 15), (48, 1), (32, 2)]).word)) (uStart ((tE 8 2 [(92, 15), (48, 1), (32, 2)]).word) + (tE 8 2 [(92, 15), (48, 1), (32, 2)]).n) (((List.range 32).map (fun j => optStep (uOpt ((tE 8 2 [(92, 15), (48, 1), (32, 2)]).word)) (((wUpdateStagesAndCommitsS0).core (0)).upd.hp.getD (uSet ((tE 8 2 [(92, 15), (48, 1), (32, 2)]).word)) {}) (if uClip ((tE 8 2 [(92, 15), (48, 1), (32, 2)]).word) then some ((wUpdateStagesAndCommitsS0).core (0)).upd.scale else none) (((unpackBits 32 32 (tX).data.toNat).map (BitVec.ofNat 32)).getD j 0) (((unpackBits 16 32 (numOf ((okGet ((okGet ((if (tE 8 2 [(92, 15), (48, 1), (32, 2)]).n = 0 then ((wUpdateStagesAndCommitsS0).setCore (0) (((wUpdateStagesAndCommitsS0).core (0)).dropDq (wIna ((tE 8 2 [(92, 15), (48, 1), (32, 2)]).word)) 1)).stagePut (0) (runHeader (((wUpdateStagesAndCommitsS0).core (0)).upd.hp.getD (uSet ((tE 8 2 [(92, 15), (48, 1), (32, 2)]).word)) {}) ((tE 8 2 [(92, 15), (48, 1), (32, 2)]).word) (tE 8 2 [(92, 15), (48, 1), (32, 2)]).seqno) else .ok ((wUpdateStagesAndCommitsS0).setCore (0) (((wUpdateStagesAndCommitsS0).core (0)).dropDq (wIna ((tE 8 2 [(92, 15), (48, 1), (32, 2)]).word)) 1)))) (by decide +kernel)).updRead (0) (tE 8 2 [(92, 15), (48, 1), (32, 2)]) (uWobj ((tE 8 2 [(92, 15), (48, 1), (32, 2)]).word)) (64 * (uStart ((tE 8 2 [(92, 15), (48, 1), (32, 2)]).word) + (tE 8 2 [(92, 15), (48, 1), (32, 2)]).n)) 64) (by decide +kernel)).1))).map (widen 0x0)).getD j 0) ((momRead (uMfmt ((tE 8 2 [(92, 15), (48, 1), (32, 2)]).word)) (uOpt ((tE 8 2 [(92, 15), (48, 1), (32, 2)]).word)) ((okGet (((okGet ((okGet ((if (tE 8 2 [(92, 15), (48, 1), (32, 2)]).n = 0 then ((wUpdateStagesAndCommitsS0).setCore (0) (((wUpdateStagesAndCommitsS0).core (0)).dropDq (wIna ((tE 8 2 [(92, 15), (48, 1), (32, 2)]).word)) 1)).stagePut (0) (runHeader (((wUpdateStagesAndCommitsS0).core (0)).upd.hp.getD (uSet ((tE 8 2 [(92, 15), (48, 1), (32, 2)]).word)) {}) ((tE 8 2 [(92, 15), (48, 1), (32, 2)]).word) (tE 8 2 [(92, 15), (48, 1), (32, 2)]).seqno) else .ok ((wUpdateStagesAndCommitsS0).setCore (0) (((wUpdateStagesAndCommitsS0).core (0)).dropDq (wIna ((tE 8 2 [(92, 15), (48, 1), (32, 2)]).word)) 1)))) (by decide +kernel)).updRead (0) (tE 8 2 [(92, 15), (48, 1), (32, 2)]) (uWobj ((tE 8 2 [(92, 15), (48, 1), (32, 2)]).word)) (64 * (uStart ((tE 8 2 [(92, 15), (48, 1), (32, 2)]).word) + (tE 8 2 [(92, 15), (48, 1), (32, 2)]).n)) 64) (by decide +kernel)).2).updRead (0) (tE 8 2 [(92, 15), (48, 1), (32, 2)]) (uMobj ((tE 8 2 [(92, 15), (48, 1), (32, 2)]).word)) ((momBytes (uMfmt ((tE 8 2 [(92, 15), (48, 1), (32, 2)]).word)) (uOpt ((tE 8 2 [(92, 15), (48, 1), (32, 2)]).word))) * (uStart ((tE 8 2 [(92, 15), (48, 1), (32, 2)]).word) + (tE 8 2 [(92, 15), (48, 1), (32, 2)]).n)) (momBytes (uMfmt ((tE 8 2 [(92, 15), (48, 1), (32, 2)]).word)) (uOpt ((tE 8 2 [(92, 15), (48, 1), (32, 2)]).word)))) (by decide +kernel)).1)).1.getD j 0) ((momRead (uMfmt ((tE 8 2 [(92, 15), (48, 1), (32, 2)]).word)) (uOpt ((tE 8 2 [(92, 15), (48, 1), (32, 2)]).word)) ((okGet (((okGet ((okGet ((if (tE 8 2 [(92, 15), (48, 1), (32, 2)]).n = 0 then ((wUpdateStagesAndCommitsS0).setCore (0) (((wUpdateStagesAndCommitsS0).core (0)).dropDq (wIna ((tE 8 2 [(92, 15), (48, 1), (32, 2)]).word)) 1)).stagePut (0) (runHeader (((wUpdateStagesAndCommitsS0).core (0)).upd.hp.getD (uSet ((tE 8 2 [(92, 15), (48, 1), (32, 2)]).word)) {}) ((tE 8 2 [(92, 15), (48, 1), (32, 2)]).word) (tE 8 2 [(92, 15), (48, 1), (32, 2)]).seqno) else .ok ((wUpdateStagesAndCommitsS0).setCore (0) (((wUpdateStagesAndCommitsS0).core (0)).dropDq (wIna ((tE 8 2 [(92, 15), (48, 1), (32, 2)]).word)) 1)))) (by decide +kernel)).updRead (0) (tE 8 2 [(92, 15), (48, 1), (32, 2)]) (uWobj ((tE 8 2 [(92, 15), (48, 1), (32, 2)]).word)) (64 * (uStart ((tE 8 2 [(92, 15), (48, 1), (32, 2)]).word) + (tE 8 2 [(92, 15), (48, 1), (32, 2)]).n)) 64) (by decide +kernel)).2).updRead (0) (tE 8 2 [(92, 15), (48, 1), (32, 2)]) (uMobj ((tE 8 2 [(92, 15), (48, 1), (32, 2)]).word)) ((momBytes (uMfmt ((tE 8 2 [(92, 15), (48, 1), (32, 2)]).word)) (uOpt ((tE 8 2 [(92, 15), (48, 1), (32, 2)]).word))) * (uStart ((tE 8 2 [(92, 15), (48, 1), (32, 2)]).word) + (tE 8 2 [(92, 15), (48, 1), (32, 2)]).n)) (momBytes (uMfmt ((tE 8 2 [(92, 15), (48, 1), (32, 2)]).word)) (uOpt ((tE 8 2 [(92, 15), (48, 1), (32, 2)]).word)))) (by decide +kernel)).1)).2.getD j 0))).map ParamOut.m) (((List.range 32).map (fun j => optStep (uOpt ((tE 8 2 [(92, 15), (48, 1), (32, 2)]).word)) (((wUpdateStagesAndCommitsS0).core (0)).upd.hp.getD (uSet ((tE 8 2 [(92, 15), (48, 1), (32, 2)]).word)) {}) (if uClip ((tE 8 2 [(92, 15), (48, 1), (32, 2)]).word) then some ((wUpdateStagesAndCommitsS0).core (0)).upd.scale else none) (((unpackBits 32 32 (tX).data.toNat).map (BitVec.ofNat 32)).getD j 0) (((unpackBits 16 32 (numOf ((okGet ((okGet ((if (tE 8 2 [(92, 15), (48, 1), (32, 2)]).n = 0 then ((wUpdateStagesAndCommitsS0).setCore (0) (((wUpdateStagesAndCommitsS0).core (0)).dropDq (wIna ((tE 8 2 [(92, 15), (48, 1), (32, 2)]).word)) 1)).stagePut (0) (runHeader (((wUpdateStagesAndCommitsS0).core (0)).upd.hp.getD (uSet ((tE 8 2 [(92, 15), (48, 1), (32, 2)]).word)) {}) ((tE 8 2 [(92, 15), (48, 1), (32, 2)]).word) (tE 8 2 [(92, 15), (48, 1), (32, 2)]).seqno) else .ok ((wUpdateStagesAndCommitsS0).setCore (0) (((wUpdateStagesAndCommitsS0).core (0)).dropDq (wIna ((tE 8 2 [(92, 15), (48, 1), (32, 2)]).word)) 1)))) (by decide +kernel)).updRead (0) (tE 8 2 [(92, 15), (48, 1), (32, 2)]) (uWobj ((tE 8 2 [(92, 15), (48, 1), (32, 2)]).word)) (64 * (uStart ((tE 8 2 [(92, 15), (48, 1), (32, 2)]).word) + (tE 8 2 [(92, 15), (48, 1), (32, 2)]).n)) 64) (by decide +kernel)).1))).map (widen 0x0)).getD j 0) ((momRead (uMfmt ((tE 8 2 [(92, 15), (48, 1), (32, 2)]).word)) (uOpt ((tE 8 2 [(92, 15), (48, 1), (32, 2)]).word)) ((okGet (((okGet ((okGet ((if (tE 8 2 [(92, 15), (48, 1), (32, 2)]).n = 0 then ((wUpdateStagesAndCommitsS0).setCore (0) (((wUpdateStagesAndCommitsS0).core (0)).dropDq (wIna ((tE 8 2 [(92, 15), (48, 1), (32, 2)]).word)) 1)).stagePut (0) (runHeader (((wUpdateStagesAndCommitsS0).core (0)).upd.hp.getD (uSet ((tE 8 2 [(92, 15), (48, 1), (32, 2)]).word)) {}) ((tE 8 2 [(92, 15), (48, 1), (32, 2)]).word) (tE 8 2 [(92, 15), (48, 1), (32, 2)]).seqno) else .ok ((wUpdateStagesAndCommitsS0).setCore (0) (((wUpdateStagesAndCommitsS0).core (0)).dropDq (wIna ((tE 8 2 [(92, 15), (48, 1), (32, 2)]).word)) 1)))) (by decide +kernel)).updRead (0) (tE 8 2 [(92, 15), (48, 1), (32, 2)]) (uWobj ((tE 8 2 [(92, 15), (48, 1), (32, 2)]).word)) (64 * (uStart ((tE 8 2 [(92, 15), (48, 1), (32, 2)]).word) + (tE 8 2 [(92, 15), (48, 1), (32, 2)]).n)) 64) (by decide +kernel)).2).updRead (0) (tE 8 2 [(92, 15), (48, 1), (32, 2)]) (uMobj ((tE 8 2 [(92, 15), (48, 1), (32, 2)]).word)) ((momBytes (uMfmt ((tE 8 2 [(92, 15), (48, 1), (32, 2)]).word)) (uOpt ((tE 8 2 [(92, 15), (48, 1), (32, 2)]).word))) * (uStart ((tE 8 2 [(92, 15), (48, 1), (32, 2)]).word) + (tE 8 2 [(92, 15), (48, 1), (32, 2)]).n)) (momBytes (uMfmt ((tE 8 2 [(92, 15), (48, 1), (32, 2)]).word)) (uOpt ((tE 8 2 [(92, 15), (48, 1), (32, 2)]).word)))) (by decide +kernel)).1)).1.getD j 0) ((momRead (uMfmt ((tE 8 2 [(92, 15), (48, 1), (32, 2)]).word)) (uOpt ((tE 8 2 [(92, 15), (48, 1), (32, 2)]).word)) ((okGet (((okGet ((okGet ((if (tE 8 2 [(92, 15), (48, 1), (32, 2)]).n = 0 then ((wUpdateStagesAndCommitsS0).setCore (0) (((wUpdateStagesAndCommitsS0).core (0)).dropDq (wIna ((tE 8 2 [(92, 15), (48, 1), (32, 2)]).word)) 1)).stagePut (0) (runHeader (((wUpdateStagesAndCommitsS0).core (0)).upd.hp.getD (uSet ((tE 8 2 [(92, 15), (48, 1), (32, 2)]).word)) {}) ((tE 8 2 [(92, 15), (48, 1), (32, 2)]).word) (tE 8 2 [(92, 15), (48, 1), (32, 2)]).seqno) else .ok ((wUpdateStagesAndCommitsS0).setCore (0) (((wUpdateStagesAndCommitsS0).core (0)).dropDq (wIna ((tE 8 2 [(92, 15), (48, 1), (32, 2)]).word)) 1)))) (by decide +kernel)).updRead (0) (tE 8 2 [(92, 15), (48, 1), (32, 2)]) (uWobj ((tE 8 2 [(92, 15), (48, 1), (32, 2)]).word)) (64 * (uStart ((tE 8 2 [(92, 15), (48, 1), (32, 2)]).word) + (tE 8 2 [(92, 15), (48, 1), (32, 2)]).n)) 64) (by decide +kernel)).2).updRead (0) (tE 8 2 [(92, 15), (48, 1), (32, 2)]) (uMobj ((tE 8 2 [(92, 15), (48, 1), (32, 2)]).word)) ((momBytes (uMfmt ((tE 8 2 [(92, 15), (48, 1), (32, 2)]).word)) (uOpt ((tE 8 2 [(92, 15), (48, 1), (32, 2)]).word))) * (uStart ((tE 8 2 [(92, 15), (48, 1), (32, 2)]).word) + (tE 8 2 [(92, 15), (48, 1), (32, 2)]).n)) (momBytes (uMfmt ((tE 8 2 [(92, 15), (48, 1), (32, 2)]).word)) (uOpt ((tE 8 2 [(92, 15), (48, 1), (32, 2)]).word)))) (by decide +kernel)).1)).2.getD j 0))).map ParamOut.v)))) (by decide +kernel), 0, 0, 0, uStart ((tE 8 2 [(92, 15), (48, 1), (32, 2)]).word) + (tE 8 2 [(92, 15), (48, 1), (32, 2)]).n, momBytes (uMfmt ((tE 8 2 [(92, 15), (48, 1), (32, 2)]).word)) (uOpt ((tE 8 2 [(92, 15), (48, 1), (32, 2)]).word)), (((List.range 32).map (fun j => optStep (uOpt ((tE 8 2 [(92, 15), (48, 1), (32, 2)]).word)) (((wUpdateStagesAndCommitsS0).core (0)).upd.hp.getD (uSet ((tE 8 2 [(92, 15), (48, 1), (32, 2)]).word)) {}) (if uClip ((tE 8 2 [(92, 15), (48, 1), (32, 2)]).word) then some ((wUpdateStagesAndCommitsS0).core (0)).upd.scale else none) (((unpackBits 32 32 (tX).data.toNat).map (BitVec.ofNat 32)).getD j 0) (((unpackBits 16 32 (numOf ((okGet ((okGet ((if (tE 8 2 [(92, 15), (48, 1), (32, 2)]).n = 0 then ((wUpdateStagesAndCommitsS0).setCore (0) (((wUpdateStagesAndCommitsS0).core (0)).dropDq (wIna ((tE 8 2 [(92, 15), (48, 1), (32, 2)]).word)) 1)).stagePut (0) (runHeader (((wUpdateStagesAndCommitsS0).core (0)).upd.hp.getD (uSet ((tE 8 2 [(92, 15), (48, 1), (32, 2)]).word)) {}) ((tE 8 2 [(92, 15), (48, 1), (32, 2)]).word) (tE 8 2 [(92, 15), (48, 1), (32, 2)]).seqno) else .ok ((wUpdateStagesAndCommitsS0).setCore (0) (((wUpdateStagesAndCommitsS0).core (0)).dropDq (wIna ((tE 8 2 [(92, 15), (48, 1), (32, 2)]).word)) 1)))) (by decide +kernel)).updRead (0) (tE 8 2 [(92, 15), (48, 1), (32, 2)]) (uWobj ((tE 8 2 [(92, 15), (48, 1), (32, 2)]).word)) (64 * (uStart ((tE 8 2 [(92, 15), (48, 1), (32, 2)]).word) + (tE 8 2 [(92, 15), (48, 1), (32, 2)]).n)) 64) (by decide +kernel)).1))).map (widen 0x0)).getD j 0) ((momRead (uMfmt ((tE 8 2 [(92, 15), (48, 1), (32, 2)]).word)) (uOpt ((tE 8 2 [(92, 15), (48, 1), (32, 2)]).word)) ((okGet (((okGet ((okGet ((if (tE 8 2 [(92, 15), (48, 1), (32, 2)]).n = 0 then ((wUpdateStagesAndCommitsS0).setCore (0) (((wUpdateStagesAndCommitsS0).core (0)).dropDq (wIna ((tE 8 2 [(92, 15), (48, 1), (32, 2)]).word)) 1)).stagePut (0) (runHeader (((wUpdateStagesAndCommitsS0).core (0)).upd.hp.getD (uSet ((tE 8 2 [(92, 15), (48, 1), (32, 2)]).word)) {}) ((tE 8 2 [(92, 15), (48, 1), (32, 2)]).word) (tE 8 2 [(92, 15), (48, 1), (32, 2)]).seqno) else .ok ((wUpdateStagesAndCommitsS0).setCore (0) (((wUpdateStagesAndCommitsS0).core (0)).dropDq (wIna ((tE 8 2 [(92, 15), (48, 1), (32, 2)]).word)) 1)))) (by decide +kernel)).updRead (0) (tE 8 2 [(92, 15), (48, 1), (32, 2)]) (uWobj ((tE 8 2 [(92, 15), (48, 1), (32, 2)]).word)) (64 * (uStart ((tE 8 2 [(92, 15), (48, 1), (32, 2)]).word) + (tE 8 2 [(92, 15), (48, 1), (32, 2)]).n)) 64) (by decide +kernel)).2).updRead (0) (tE 8 2 [(92, 15), (48, 1), (32, 2)]) (uMobj ((tE 8 2 [(92, 15), (48, 1), (32, 2)]).word)) ((momBytes (uMfmt ((tE 8 2 [(92, 15), (48, 1), (32, 2)]).word)) (uOpt ((tE 8 2 [(92, 15), (48, 1), (32, 2)]).word))) * (uStart ((tE 8 2 [(92, 15), (48, 1), (32, 2)]).word) + (tE 8 2 [(92, 15), (48, 1), (32, 2)]).n)) (momBytes (uMfmt ((tE 8 2 [(92, 15), (48, 1), (32, 2)]).word)) (uOpt ((tE 8 2 [(92, 15), (48, 1), (32, 2)]).word)))) (by decide +kernel)).1)).1.getD j 0) ((momRead (uMfmt ((tE 8 2 [(92, 15), (48, 1), (32, 2)]).word)) (uOpt ((tE 8 2 [(92, 15), (48, 1), (32, 2)]).word)) ((okGet (((okGet ((okGet ((if (tE 8 2 [(92, 15), (48, 1), (32, 2)]).n = 0 then ((wUpdateStagesAndCommitsS0).setCore (0) (((wUpdateStagesAndCommitsS0).core (0)).dropDq (wIna ((tE 8 2 [(92, 15), (48, 1), (32, 2)]).word)) 1)).stagePut (0) (runHeader (((wUpdateStagesAndCommitsS0).core (0)).upd.hp.getD (uSet ((tE 8 2 [(92, 15), (48, 1), (32, 2)]).word)) {}) ((tE 8 2 [(92, 15), (48, 1), (32, 2)]).word) (tE 8 2 [(92, 15), (48, 1), (32, 2)]).seqno) else .ok ((wUpdateStagesAndCommitsS0).setCore (0) (((wUpdateStagesAndCommitsS0).core (0)).dropDq (wIna ((tE 8 2 [(92, 15), (48, 1), (32, 2)]).word)) 1)))) (by decide +kernel)).updRead (0) (tE 8 2 [(92, 15), (48, 1), (32, 2)]) (uWobj ((tE 8 2 [(92, 15), (48, 1), (32, 2)]).word)) (64 * (uStart ((tE 8 2 [(92, 15), (48, 1), (32, 2)]).word) + (tE 8 2 [(92, 15), (48, 1), (32, 2)]).n)) 64) (by decide +kernel)).2).updRead (0) (tE 8 2 [(92, 15), (48, 1), (32, 2)]) (uMobj ((tE 8 2 [(92, 15), (48, 1), (32, 2)]).word)) ((momBytes (uMfmt ((tE 8 2 [(92, 15), (48, 1), (32, 2)]).word)) (uOpt ((tE 8 2 [(92, 15), (48, 1), (32, 2)]).word))) * (uStart ((tE 8 2 [(92, 15), (48, 1), (32, 2)]).word) + (tE 8 2 [(92, 15), (48, 1), (32, 2)]).n)) (momBytes (uMfmt ((tE 8 2 [(92, 15), (48, 1), (32, 2)]).word)) (uOpt ((tE 8 2 [(92, 15), (48, 1), (32, 2)]).word)))) (by decide +kernel)).1)).2.getD j 0))).filter ParamOut.bad).length, tE 8 2 [(92, 15), (48, 1), (32, 2)], (tE 8 2 [(92, 15), (48, 1), (32, 2)]).word, tX, [], ((wUpdateStagesAndCommitsS0).core (0)).upd.hp.getD (uSet ((tE 8 2 [(92, 15), (48, 1), (32, 2)]).word)) {}, (okGet ((okGet ((if (tE 8 2 [(92, 15), (48, 1), (32, 2)]).n = 0 then ((wUpdateStagesAndCommitsS0).setCore (0) (((wUpdateStagesAndCommitsS0).core (0)).dropDq (wIna ((tE 8 2 [(92, 15), (48, 1), (32, 2)]).word)) 1)).stagePut (0) (runHeader (((wUpdateStagesAndCommitsS0).core (0)).upd.hp.getD (uSet ((tE 8 2 [(92, 15), (48, 1), (32, 2)]).word)) {}) ((tE 8 2 [(92, 15), (48, 1), (32, 2)]).word) (tE 8 2 [(92, 15), (48, 1), (32, 2)]).seqno) else .ok ((wUpdateStagesAndCommitsS0).setCore (0) (((wUpdateStagesAndCommitsS0).core (0)).dropDq (wIna ((tE 8 2 [(92, 15), (48, 1), (32, 2)]).word)) 1)))) (by decide +kernel)).updRead (0) (tE 8 2 [(92, 15), (48, 1), (32, 2)]) (uWobj ((tE 8 2 [(92, 15), (48, 1), (32, 2)]).word)) (64 * (uStart ((tE 8 2 [(92, 15), (48, 1), (32, 2)]).word) + (tE 8 2 [(92, 15), (48, 1), (32, 2)]).n)) 64) (by decide +kernel)).1, (okGet (((okGet ((okGet ((if (tE 8 2 [(92, 15), (48, 1), (32, 2)]).n = 0 then ((wUpdateStagesAndCommitsS0).setCore (0) (((wUpdateStagesAndCommitsS0).core (0)).dropDq (wIna ((tE 8 2 [(92, 15), (48, 1), (32, 2)]).word)) 1)).stagePut (0) (runHeader (((wUpdateStagesAndCommitsS0).core (0)).upd.hp.getD (uSet ((tE 8 2 [(92, 15), (48, 1), (32, 2)]).word)) {}) ((tE 8 2 [(92, 15), (48, 1), (32, 2)]).word) (tE 8 2 [(92, 15), (48, 1), (32, 2)]).seqno) else .ok ((wUpdateStagesAndCommitsS0).setCore (0) (((wUpdateStagesAndCommitsS0).core (0)).dropDq (wIna ((tE 8 2 [(92, 15), (48, 1), (32, 2)]).word)) 1)))) (by decide +kernel)).updRead (0) (tE 8 2 [(92, 15), (48, 1), (32, 2)]) (uWobj ((tE 8 2 [(92, 15), (48, 1), (32, 2)]).word)) (64 * (uStart ((tE 8 2 [(92, 15), (48, 1), (32, 2)]).word) + (tE 8 2 [(92, 15), (48, 1), (32, 2)]).n)) 64) (by decide +kernel)).2).updRead (0) (tE 8 2 [(92, 15), (48, 1), (32, 2)]) (uMobj ((tE 8 2 [(92, 15), (48, 1), (32, 2)]).word)) ((momBytes (uMfmt ((tE 8 2 [(92, 15), (48, 1), (32, 2)]).word)) (uOpt ((tE 8 2 [(92, 15), (48, 1), (32, 2)]).word))) * (uStart ((tE 8 2 [(92, 15), (48, 1), (32, 2)]).word) + (tE 8 2 [(92, 15), (48, 1), (32, 2)]).n)) (momBytes (uMfmt ((tE 8 2 [(92, 15), (48, 1), (32, 2)]).word)) (uOpt ((tE 8 2 [(92, 15), (48, 1), (32, 2)]).word)))) (by decide +kernel)).1, (((List.range 32).map (fun j => optStep (uOpt ((tE 8 2 [(92, 15), (48, 1), (32, 2)]).word)) (((wUpdateStagesAndCommitsS0).core (0)).upd.hp.getD (uSet ((tE 8 2 [(92, 15), (48, 1), (32, 2)]).word)) {}) (if uClip ((tE 8 2 [(92, 15), (48, 1), (32, 2)]).word) then some ((wUpdateStagesAndCommitsS0).core (0)).upd.scale else none) (((unpackBits 32 32 (tX).data.toNat).map (BitVec.ofNat 32)).getD j 0) (((unpackBits 16 32 (numOf ((okGet ((okGet ((if (tE 8 2 [(92, 15), (48, 1), (32, 2)]).n = 0 then ((wUpdateStagesAndCommitsS0).setCore (0) (((wUpdateStagesAndCommitsS0).core (0)).dropDq (wIna ((tE 8 2 [(92, 15), (48, 1), (32, 2)]).word)) 1)).stagePut (0) (runHeader (((wUpdateStagesAndCommitsS0).core (0)).upd.hp.getD (uSet ((tE 8 2 [(92, 15), (48, 1), (32, 2)]).word)) {}) ((tE 8 2 [(92, 15), (48, 1), (32, 2)]).word) (tE 8 2 [(92, 15), (48, 1), (32, 2)]).seqno) else .ok ((wUpdateStagesAndCommitsS0).setCore (0) (((wUpdateStagesAndCommitsS0).core (0)).dropDq (wIna ((tE 8 2 [(92, 15), (48, 1), (32, 2)]).word)) 1)))) (by decide +kernel)).updRead (0) (tE 8 2 [(92, 15), (48, 1), (32, 2)]) (uWobj ((tE 8 2 [(92, 15), (48, 1), (32, 2)]).word)) (64 * (uStart ((tE 8 2 [(92, 15), (48, 1), (32, 2)]).word) + (tE 8 2 [(92, 15), (48, 1), (32, 2)]).n)) 64) (by decide +kernel)).1))).map (widen 0x0)).getD j 0) ((momRead (uMfmt ((tE 8 2 [(92, 15), (48, 1), (32, 2)]).word)) (uOpt ((tE 8 2 [(92, 15), (48, 1), (32, 2)]).word)) ((okGet (((okGet ((okGet ((if (tE 8 2 [(92, 15), (48, 1), (32, 2)]).n = 0 then ((wUpdateStagesAndCommitsS0).setCore (0) (((wUpdateStagesAndCommitsS0).core (0)).dropDq (wIna ((tE 8 2 [(92, 15), (48, 1), (32, 2)]).word)) 1)).stagePut (0) (runHeader (((wUpdateStagesAndCommitsS0).core (0)).upd.hp.getD (uSet ((tE 8 2 [(92, 15), (48, 1), (32, 2)]).word)) {}) ((tE 8 2 [(92, 15), (48, 1), (32, 2)]).word) (tE 8 2 [(92, 15), (48, 1), (32, 2)]).seqno) else .ok ((wUpdateStagesAndCommitsS0).setCore (0) (((wUpdateStagesAndCommitsS0).core (0)).dropDq (wIna ((tE 8 2 [(92, 15), (48, 1), (32, 2)]).word)) 1)))) (by decide +kernel)).updRead (0) (tE 8 2 [(92, 15), (48, 1), (32, 2)]) (uWobj ((tE 8 2 [(92, 15), (48, 1), (32, 2)]).word)) (64 * (uStart ((tE 8 2 [(92, 15), (48, 1), (32, 2)]).word) + (tE 8 2 [(92, 15), (48, 1), (32, 2)]).n)) 64) (by decide +kernel)).2).updRead (0) (tE 8 2 [(92, 15), (48, 1), (32, 2)]) (uMobj ((tE 8 2 [(92, 15), (48, 1), (32, 2)]).word)) ((momBytes (uMfmt ((tE 8 2 [(92, 15), (48, 1), (32, 2)]).word)) (uOpt ((tE 8 2 [(92, 15), (48, 1), (32, 2)]).word))) * (uStart ((tE 8 2 [(92, 15), (48, 1), (32, 2)]).word) + (tE 8 2 [(92, 15), (48, 1), (32, 2)]).n)) (momBytes (uMfmt ((tE 8 2 [(92, 15), (48, 1), (32, 2)]).word)) (uOpt ((tE 8 2 [(92, 15), (48, 1), (32, 2)]).word)))) (by decide +kernel)).1)).1.getD j 0) ((momRead (uMfmt ((tE 8 2 [(92, 15), (48, 1), (32, 2)]).word)) (uOpt ((tE 8 2 [(92, 15), (48, 1), (32, 2)]).word)) ((okGet (((okGet ((okGet ((if (tE 8 2 [(92, 15), (48, 1), (32, 2)]).n = 0 then ((wUpdateStagesAndCommitsS0).setCore (0) (((wUpdateStagesAndCommitsS0).core (0)).dropDq (wIna ((tE 8 2 [(92, 15), (48, 1), (32, 2)]).word)) 1)).stagePut (0) (runHeader (((wUpdateStagesAndCommitsS0).core (0)).upd.hp.getD (uSet ((tE 8 2 [(92, 15), (48, 1), (32, 2)]).word)) {}) ((tE 8 2 [(92, 15), (48, 1), (32, 2)]).word) (tE 8 2 [(92, 15), (48, 1), (32, 2)]).seqno) else .ok ((wUpdateStagesAndCommitsS0).setCore (0) (((wUpdateStagesAndCommitsS0).core (0)).dropDq (wIna ((tE 8 2 [(92, 15), (48, 1), (32, 2)]).word)) 1)))) (by decide +kernel)).updRead (0) (tE 8 2 [(92, 15), (48, 1), (32, 2)]) (uWobj ((tE 8 2 [(92, 15), (48, 1), (32, 2)]).word)) (64 * (uStart ((tE 8 2 [(92, 15), (48, 1), (32, 2)]).word) + (tE 8 2 [(92, 15), (48, 1), (32, 2)]).n)) 64) (by decide +kernel)).2).updRead (0) (tE 8 2 [(92, 15), (48, 1), (32, 2)]) (uMobj ((tE 8 2 [(92, 15), (48, 1), (32, 2)]).word)) ((momBytes (uMfmt ((tE 8 2 [(92, 15), (48, 1), (32, 2)]).word)) (uOpt ((tE 8 2 [(92, 15), (48, 1), (32, 2)]).word))) * (uStart ((tE 8 2 [(92, 15), (48, 1), (32, 2)]).word) + (tE 8 2 [(92, 15), (48, 1), (32, 2)]).n)) (momBytes (uMfmt ((tE 8 2 [(92, 15), (48, 1), (32, 2)]).word)) (uOpt ((tE 8 2 [(92, 15), (48, 1), (32, 2)]).word)))) (by decide +kernel)).1)).2.getD j 0))).flatMap fun y => bytesOf 4 y.u.toNat) ++ padTo (pad64 (momBytes (uMfmt ((tE 8 2 [(92, 15), (48, 1), (32, 2)]).word)) (uOpt ((tE 8 2 [(92, 15), (48, 1), (32, 2)]).word)))) (momWrite ((wUpdateStagesAndCommitsS0).core (0)).seq (uMfmt ((tE 8 2 [(92, 15), (48, 1), (32, 2)]).word)) (uOpt ((tE 8 2 [(92, 15), (48, 1), (32, 2)]).word)) (uMobj ((tE 8 2 [(92, 15), (48, 1), (32, 2)]).word)) (uStart ((tE 8 2 [(92, 15), (48, 1), (32, 2)]).word) + (tE 8 2 [(92, 15), (48, 1), (32, 2)]).n) (((List.range 32).map (fun j => optStep (uOpt ((tE 8 2 [(92, 15), (48, 1), (32, 2)]).word)) (((wUpdateStagesAndCommitsS0).core (0)).upd.hp.getD (uSet ((tE 8 2 [(92, 15), (48, 1), (32, 2)]).word)) {}) (if uClip ((tE 8 2 [(92, 15), (48, 1), (32, 2)]).word) then some ((wUpdateStagesAndCommitsS0).core (0)).upd.scale else none) (((unpackBits 32 32 (tX).data.toNat).map (BitVec.ofNat 32)).getD j 0) (((unpackBits 16 32 (numOf ((okGet ((okGet ((if (tE 8 2 [(92, 15), (48, 1), (32, 2)]).n = 0 then ((wUpdateStagesAndCommitsS0).setCore (0) (((wUpdateStagesAndCommitsS0).core (0)).dropDq (wIna ((tE 8 2 [(92, 15), (48, 1), (32, 2)]).word)) 1)).stagePut (0) (runHeader (((wUpdateStagesAndCommitsS0).core (0)).upd.hp.getD (uSet ((tE 8 2 [(92, 15), (48, 1), (32, 2)]).word)) {}) ((tE 8 2 [(92, 15), (48, 1), (32, 2)]).word) (tE 8 2 [(92, 15), (48, 1), (32, 2)]).seqno) else .ok ((wUpdateStagesAndCommitsS0).setCore (0) (((wUpdateStagesAndCommitsS0).core (0)).dropDq (wIna ((tE 8 2 [(92, 15), (48, 1), (32, 2)]).word)) 1)))) (by decide +kernel)).updRead (0) (tE 8 2 [(92, 15), (48, 1), (32, 2)]) (uWobj ((tE 8 2 [(92, 15), (48, 1), (32, 2)]).word)) (64 * (uStart ((tE 8 2 [(92, 15), (48, 1), (32, 2)]).word) + (tE 8 2 [(92, 15), (48, 1), (32, 2)]).n)) 64) (by decide +kernel)).1))).map (widen 0x0)).getD j 0) ((momRead (uMfmt ((tE 8 2 [(92, 15), (48, 1), (32, 2)]).word)) (uOpt ((tE 8 2 [(92, 15), (48, 1), (32, 2)]).word)) ((okGet (((okGet ((okGet ((if (tE 8 2 [(92, 15), (48, 1), (32, 2)]).n = 0 then ((wUpdateStagesAndCommitsS0).setCore (0) (((wUpdateStagesAndCommitsS0).core (0)).dropDq (wIna ((tE 8 2 [(92, 15), (48, 1), (32, 2)]).word)) 1)).stagePut (0) (runHeader (((wUpdateStagesAndCommitsS0).core (0)).upd.hp.getD (uSet ((tE 8 2 [(92, 15), (48, 1), (32, 2)]).word)) {}) ((tE 8 2 [(92, 15), (48, 1), (32, 2)]).word) (tE 8 2 [(92, 15), (48, 1), (32, 2)]).seqno) else .ok ((wUpdateStagesAndCommitsS0).setCore (0) (((wUpdateStagesAndCommitsS0).core (0)).dropDq (wIna ((tE 8 2 [(92, 15), (48, 1), (32, 2)]).word)) 1)))) (by decide +kernel)).updRead (0) (tE 8 2 [(92, 15), (48, 1), (32, 2)]) (uWobj ((tE 8 2 [(92, 15), (48, 1), (32, 2)]).word)) (64 * (uStart ((tE 8 2 [(92, 15), (48, 1), (32, 2)]).word) + (tE 8 2 [(92, 15), (48, 1), (32, 2)]).n)) 64) (by decide +kernel)).2).updRead (0) (tE 8 2 [(92, 15), (48, 1), (32, 2)]) (uMobj ((tE 8 2 [(92, 15), (48, 1), (32, 2)]).word)) ((momBytes (uMfmt ((tE 8 2 [(92, 15), (48, 1), (32, 2)]).word)) (uOpt ((tE 8 2 [(92, 15), (48, 1), (32, 2)]).word))) * (uStart ((tE 8 2 [(92, 15), (48, 1), (32, 2)]).word) + (tE 8 2 [(92, 15), (48, 1), (32, 2)]).n)) (momBytes (uMfmt ((tE 8 2 [(92, 15), (48, 1), (32, 2)]).word)) (uOpt ((tE 8 2 [(92, 15), (48, 1), (32, 2)]).word)))) (by decide +kernel)).1)).1.getD j 0) ((momRead (uMfmt ((tE 8 2 [(92, 15), (48, 1), (32, 2)]).word)) (uOpt ((tE 8 2 [(92, 15), (48, 1), (32, 2)]).word)) ((okGet (((okGet ((okGet ((if (tE 8 2 [(92, 15), (48, 1), (32, 2)]).n = 0 then ((wUpdateStagesAndCommitsS0).setCore (0) (((wUpdateStagesAndCommitsS0).core (0)).dropDq (wIna ((tE 8 2 [(92, 15), (48, 1), (32, 2)]).word)) 1)).stagePut (0) (runHeader (((wUpdateStagesAndCommitsS0).core (0)).upd.hp.getD (uSet ((tE 8 2 [(92, 15), (48, 1), (32, 2)]).word)) {}) ((tE 8 2 [(92, 15), (48, 1), (32, 2)]).word) (tE 8 2 [(92, 15), (48, 1), (32, 2)]).seqno) else .ok ((wUpdateStagesAndCommitsS0).setCore (0) (((wUpdateStagesAndCommitsS0).core (0)).dropDq (wIna ((tE 8 2 [(92, 15), (48, 1), (32, 2)]).word)) 1)))) (by decide +kernel)).updRead (0) (tE 8 2 [(92, 15), (48, 1), (32, 2)]) (uWobj ((tE 8 2 [(92, 15), (48, 1), (32, 2)]).word)) (64 * (uStart ((tE 8 2 [(92, 15), (48, 1), (32, 2)]).word) + (tE 8 2 [(92, 15), (48, 1), (32, 2)]).n)) 64) (by decide +kernel)).2).updRead (0) (tE 8 2 [(92, 15), (48, 1), (32, 2)]) (uMobj ((tE 8 2 [(92, 15), (48, 1), (32, 2)]).word)) ((momBytes (uMfmt ((tE 8 2 [(92, 15), (48, 1), (32, 2)]).word)) (uOpt ((tE 8 2 [(92, 15), (48, 1), (32, 2)]).word))) * (uStart ((tE 8 2 [(92, 15), (48, 1), (32, 2)]).word) + (tE 8 2 [(92, 15), (48, 1), (32, 2)]).n)) (momBytes (uMfmt ((tE 8 2 [(92, 15), (48, 1), (32, 2)]).word)) (uOpt ((tE 8 2 [(92, 15), (48, 1), (32, 2)]).word)))) (by decide +kernel)).1)).2.getD j 0))).map ParamOut.m) (((List.range 32).map (fun j => optStep (uOpt ((tE 8 2 [(92, 15), (48, 1), (32, 2)]).word)) (((wUpdateStagesAndCommitsS0).core (0)).upd.hp.getD (uSet ((tE 8 2 [(92, 15), (48, 1), (32, 2)]).word)) {}) (if uClip ((tE 8 2 [(92, 15), (48, 1), (32, 2)]).word) then some ((wUpdateStagesAndCommitsS0).core (0)).upd.scale else none) (((unpackBits 32 32 (tX).data.toNat).map (BitVec.ofNat 32)).getD j 0) (((unpackBits 16 32 (numOf ((okGet ((okGet ((if (tE 8 2 [(92, 15), (48, 1), (32, 2)]).n = 0 then ((wUpdateStagesAndCommitsS0).setCore (0) (((wUpdateStagesAndCommitsS0).core (0)).dropDq (wIna ((tE 8 2 [(92, 15), (48, 1), (32, 2)]).word)) 1)).stagePut (0) (runHeader (((wUpdateStagesAndCommitsS0).core (0)).upd.hp.getD (uSet ((tE 8 2 [(92, 15), (48, 1), (32, 2)]).word)) {}) ((tE 8 2 [(92, 15), (48, 1), (32, 2)]).word) (tE 8 2 [(92, 15), (48, 1), (32, 2)]).seqno) else .ok ((wUpdateStagesAndCommitsS0).setCore (0) (((wUpdateStagesAndCommitsS0).core (0)).dropDq (wIna ((tE 8 2 [(92, 15), (48, 1), (32, 2)]).word)) 1)))) (by decide +kernel)).updRead (0) (tE 8 2 [(92, 15), (48, 1), (32, 2)]) (uWobj ((tE 8 2 [(92, 15), (48, 1), (32, 2)]).word)) (64 * (uStart ((tE 8 2 [(92, 15), (48, 1), (32, 2)]).word) + (tE 8 2 [(92, 15), (48, 1), (32, 2)]).n)) 64) (by decide +kernel)).1))).map (widen 0x0)).getD j 0) ((momRead (uMfmt ((tE 8 2 [(92, 15), (48, 1), (32, 2)]).word)) (uOpt ((tE 8 2 [(92, 15), (48, 1), (32, 2)]).word)) ((okGet (((okGet ((okGet ((if (tE 8 2 [(92, 15), (48, 1), (32, 2)]).n = 0 then ((wUpdateStagesAndCommitsS0).setCore (0) (((wUpdateStagesAndCommitsS0).core (0)).dropDq (wIna ((tE 8 2 [(92, 15), (48, 1), (32, 2)]).word)) 1)).stagePut (0) (runHeader (((wUpdateStagesAndCommitsS0).core (0)).upd.hp.getD (uSet ((tE 8 2 [(92, 15), (48, 1), (32, 2)]).word)) {}) ((tE 8 2 [(92, 15), (48, 1), (32, 2)]).word) (tE 8 2 [(92, 15), (48, 1), (32, 2)]).seqno) else .ok ((wUpdateStagesAndCommitsS0).setCore (0) (((wUpdateStagesAndCommitsS0).core (0)).dropDq (wIna ((tE 8 2 [(92, 15), (48, 1), (32, 2)]).word)) 1)))) (by decide +kernel)).updRead (0) (tE 8 2 [(92, 15), (48, 1), (32, 2)]) (uWobj ((tE 8 2 [(92, 15), (48, 1), (32, 2)]).word)) (64 * (uStart ((tE 8 2 [(92, 15), (48, 1), (32, 2)]).word) + (tE 8 2 [(92, 15), (48, 1), (32, 2)]).n)) 64) (by decide +kernel)).2).updRead (0) (tE 8 2 [(92, 15), (48, 1), (32, 2)]) (uMobj ((tE 8 2 [(92, 15), (48, 1), (32, 2)]).word)) ((momBytes (uMfmt ((tE 8 2 [(92, 15), (48, 1), (32, 2)]).word)) (uOpt ((tE 8 2 [(92, 15), (48, 1), (32, 2)]).word))) * (uStart ((tE 8 2 [(92, 15), (48, 1), (32, 2)]).word) + (tE 8 2 [(92, 15), (48, 1), (32, 2)]).n)) (momBytes (uMfmt ((tE 8 2 [(92, 15), (48, 1), (32, 2)]).word)) (uOpt ((tE 8 2 [(92, 15), (48, 1), (32, 2)]).word)))) (by decide +kernel)).1)).1.getD j 0) ((momRead (uMfmt ((tE 8 2 [(92, 15), (48, 1), (32, 2)]).word)) (uOpt ((tE 8 2 [(92, 15), (48, 1), (32, 2)]).word)) ((okGet (((okGet ((okGet ((if (tE 8 2 [(92, 15), (48, 1), (32, 2)]).n = 0 then ((wUpdateStagesAndCommitsS0).setCore (0) (((wUpdateStagesAndCommitsS0).core (0)).dropDq (wIna ((tE 8 2 [(92, 15), (48, 1), (32, 2)]).word)) 1)).stagePut (0) (runHeader (((wUpdateStagesAndCommitsS0).core (0)).upd.hp.getD (uSet ((tE 8 2 [(92, 15), (48, 1), (32, 2)]).word)) {}) ((tE 8 2 [(92, 15), (48, 1), (32, 2)]).word) (tE 8 2 [(92, 15), (48, 1), (32, 2)]).seqno) else .ok ((wUpdateStagesAndCommitsS0).setCore (0) (((wUpdateStagesAndCommitsS0).core (0)).dropDq (wIna ((tE 8 2 [(92, 15), (48, 1), (32, 2)]).word)) 1)))) (by decide +kernel)).updRead (0) (tE 8 2 [(92, 15), (48, 1), (32, 2)]) (uWobj ((tE 8 2 [(92, 15), (48, 1), (32, 2)]).word)) (64 * (uStart ((tE 8 2 [(92, 15), (48, 1), (32, 2)]).word) + (tE 8 2 [(92, 15), (48, 1), (32, 2)]).n)) 64) (by decide +kernel)).2).updRead (0) (tE 8 2 [(92, 15), (48, 1), (32, 2)]) (uMobj ((tE 8 2 [(92, 15), (48, 1), (32, 2)]).word)) ((momBytes (uMfmt ((tE 8 2 [(92, 15), (48, 1), (32, 2)]).word)) (uOpt ((tE 8 2 [(92, 15), (48, 1), (32, 2)]).word))) * (uStart ((tE 8 2 [(92, 15), (48, 1), (32, 2)]).word) + (tE 8 2 [(92, 15), (48, 1), (32, 2)]).n)) (momBytes (uMfmt ((tE 8 2 [(92, 15), (48, 1), (32, 2)]).word)) (uOpt ((tE 8 2 [(92, 15), (48, 1), (32, 2)]).word)))) (by decide +kernel)).1)).2.getD j 0))).map ParamOut.v)), (List.range 32).map (fun j => optStep (uOpt ((tE 8 2 [(92, 15), (48, 1), (32, 2)]).word)) (((wUpdateStagesAndCommitsS0).core (0)).upd.hp.getD (uSet ((tE 8 2 [(92, 15), (48, 1), (32, 2)]).word)) {}) (if uClip ((tE 8 2 [(92, 15), (48, 1), (32, 2)]).word) then some ((wUpdateStagesAndCommitsS0).core (0)).upd.scale else none) (((unpackBits 32 32 (tX).data.toNat).map (BitVec.ofNat 32)).getD j 0) (((unpackBits 16 32 (numOf ((okGet ((okGet ((if (tE 8 2 [(92, 15), (48, 1), (32, 2)]).n = 0 then ((wUpdateStagesAndCommitsS0).setCore (0) (((wUpdateStagesAndCommitsS0).core (0)).dropDq (wIna ((tE 8 2 [(92, 15), (48, 1), (32, 2)]).word)) 1)).stagePut (0) (runHeader (((wUpdateStagesAndCommitsS0).core (0)).upd.hp.getD (uSet ((tE 8 2 [(92, 15), (48, 1), (32, 2)]).word)) {}) ((tE 8 2 [(92, 15), (48, 1), (32, 2)]).word) (tE 8 2 [(92, 15), (48, 1), (32, 2)]).seqno) else .ok ((wUpdateStagesAndCommitsS0).setCore (0) (((wUpdateStagesAndCommitsS0).core (0)).dropDq (wIna ((tE 8 2 [(92, 15), (48, 1), (32, 2)]).word)) 1)))) (by decide +kernel)).updRead (0) (tE 8 2 [(92, 15), (48, 1), (32, 2)]) (uWobj ((tE 8 2 [(92, 15), (48, 1), (32, 2)]).word)) (64 * (uStart ((tE 8 2 [(92, 15), (48, 1), (32, 2)]).word) + (tE 8 2 [(92, 15), (48, 1), (32, 2)]).n)) 64) (by decide +kernel)).1))).map (widen 0x0)).getD j 0) ((momRead (uMfmt ((tE 8 2 [(92, 15), (48, 1), (32, 2)]).word)) (uOpt ((tE 8 2 [(92, 15), (48, 1), (32, 2)]).word)) ((okGet (((okGet ((okGet ((if (tE 8 2 [(92, 15), (48, 1), (32, 2)]).n = 0 then ((wUpdateStagesAndCommitsS0).setCore (0) (((wUpdateStagesAndCommitsS0).core (0)).dropDq (wIna ((tE 8 2 [(92, 15), (48, 1), (32, 2)]).word)) 1)).stagePut (0) (runHeader (((wUpdateStagesAndCommitsS0).core (0)).upd.hp.getD (uSet ((tE 8 2 [(92, 15), (48, 1), (32, 2)]).word)) {}) ((tE 8 2 [(92, 15), (48, 1), (32, 2)]).word) (tE 8 2 [(92, 15), (48, 1), (32, 2)]).seqno) else .ok ((wUpdateStagesAndCommitsS0).setCore (0) (((wUpdateStagesAndCommitsS0).core (0)).dropDq (wIna ((tE 8 2 [(92, 15), (48, 1), (32, 2)]).word)) 1)))) (by decide +kernel)).updRead (0) (tE 8 2 [(92, 15), (48, 1), (32, 2)]) (uWobj ((tE 8 2 [(92, 15), (48, 1), (32, 2)]).word)) (64 * (uStart ((tE 8 2 [(92, 15), (48, 1), (32, 2)]).word) + (tE 8 2 [(92, 15), (48, 1), (32, 2)]).n)) 64) (by decide +kernel)).2).updRead (0) (tE 8 2 [(92, 15), (48, 1), (32, 2)]) (uMobj ((tE 8 2 [(92, 15), (48, 1), (32, 2)]).word)) ((momBytes (uMfmt ((tE 8 2 [(92, 15), (48, 1), (32, 2)]).word)) (uOpt ((tE 8 2 [(92, 15), (48, 1), (32, 2)]).word))) * (uStart ((tE 8 2 [(92, 15), (48, 1), (32, 2)]).word) + (tE 8 2 [(92, 15), (48, 1), (32, 2)]).n)) (momBytes (uMfmt ((tE 8 2 [(92, 15), (48, 1), (32, 2)]).word)) (uOpt ((tE 8 2 [(92, 15), (48, 1), (32, 2)]).word)))) (by decide +kernel)).1)).1.getD j 0) ((momRead (uMfmt ((tE 8 2 [(92, 15), (48, 1), (32, 2)]).word)) (uOpt ((tE 8 2 [(92, 15), (48, 1), (32, 2)]).word)) ((okGet (((okGet ((okGet ((if (tE 8 2 [(92, 15), (48, 1), (32, 2)]).n = 0 then ((wUpdateStagesAndCommitsS0).setCore (0) (((wUpdateStagesAndCommitsS0).core (0)).dropDq (wIna ((tE 8 2 [(92, 15), (48, 1), (32, 2)]).word)) 1)).stagePut (0) (runHeader (((wUpdateStagesAndCommitsS0).core (0)).upd.hp.getD (uSet ((tE 8 2 [(92, 15), (48, 1), (32, 2)]).word)) {}) ((tE 8 2 [(92, 15), (48, 1), (32, 2)]).word) (tE 8 2 [(92, 15), (48, 1), (32, 2)]).seqno) else .ok ((wUpdateStagesAndCommitsS0).setCore (0) (((wUpdateStagesAndCommitsS0).core (0)).dropDq (wIna ((tE 8 2 [(92, 15), (48, 1), (32, 2)]).word)) 1)))) (by decide +kernel)).updRead (0) (tE 8 2 [(92, 15), (48, 1), (32, 2)]) (uWobj ((tE 8 2 [(92, 15), (48, 1), (32, 2)]).word)) (64 * (uStart ((tE 8 2 [(92, 15), (48, 1), (32, 2)]).word) + (tE 8 2 [(92, 15), (48, 1), (32, 2)]).n)) 64) (by decide +kernel)).2).updRead (0) (tE 8 2 [(92, 15), (48, 1), (32, 2)]) (uMobj ((tE 8 2 [(92, 15), (48, 1), (32, 2)]).word)) ((momBytes (uMfmt ((tE 8 2 [(92, 15), (48, 1), (32, 2)]).word)) (uOpt ((tE 8 2 [(92, 15), (48, 1), (32, 2)]).word))) * (uStart ((tE 8 2 [(92, 15), (48, 1), (32, 2)]).word) + (tE 8 2 [(92, 15), (48, 1), (32, 2)]).n)) (momBytes (uMfmt ((tE 8 2 [(92, 15), (48, 1), (32, 2)]).word)) (uOpt ((tE 8 2 [(92, 15), (48, 1), (32, 2)]).word)))) (by decide +kernel)).1)).2.getD j 0)), ?_⟩
    simp only [State.CurAt, State.Answers, State.Settled]; and_intros <;> first | with_reducible rfl | exact Or.inl ⟨rfl, rfl, rfl⟩ | exact all_clean (by decide +kernel) | decide +kernel | rfl | exact fun _ _ h => absurd h List.not_mem_nil | exact fun _ h => absurd h List.not_mem_nil
  · refine ⟨wUpdateStagesAndCommitsS1, 0, 0, 0, tE 8 3 [(92, 15)], Option.get (((wUpdateStagesAndCommitsS1).core (0)).headDq (wIna (tE 8 3 [(92, 15)]).word) 3) (by decide +kernel), feltOfBytes false (((Option.get (((wUpdateStagesAndCommitsS1).core (0)).headDq (wIna (tE 8 3 [(92, 15)]).word) 3) (by decide +kernel)).flatMap fun x => bytesOf 128 x.data.toNat).take 260), f32sqrt (toF32 (Fp.ofInt false ((feltOfBytes false (((Option.get (((wUpdateStagesAndCommitsS1).core (0)).headDq (wIna (tE 8 3 [(92, 15)]).word) 3) (by decide +kernel)).flatMap fun x => bytesOf 128 x.data.toNat).take 260)).n.foldl (· + ·) 0) (((feltOfBytes false (((Option.get (((wUpdateStagesAndCommitsS1).core (0)).headDq (wIna (tE 8 3 [(92, 15)]).word) 3) (by decide +kernel)).flatMap fun x => bytesOf 128 x.data.toNat).take 260)).e : Int) - 151))), BitVec.ofNat 32 (wbits (tE 8 3 [(92, 15)]).word 0 32), ?_⟩
    simp only [State.CurAt, State.Answers, State.Settled]; and_intros <;> first | with_reducible rfl | exact Or.inl ⟨rfl, rfl, rfl⟩ | exact all_clean (by decide +kernel) | decide +kernel | rfl | exact fun _ _ h => absurd h List.not_mem_nil | exact fun _ h => absurd h List.not_mem_nil
  · refine ⟨wUpdateStagesAndCommitsS2, Option.get ((wUpdateStagesAndCommitsS2).makeShadows ((wUpdateStagesAndCommitsS2).core (0)).upd.touched) (by decide +kernel), 0, 0, ?_⟩
    simp only [State.Answers, State.Settled]; and_intros <;> first | with_reducible rfl | exact Or.inl ⟨rfl, rfl, rfl⟩ | exact all_clean (by decide +kernel) | decide +kernel | rfl | exact fun _ _ h => absurd h List.not_mem_nil | exact fun _ h => absurd h List.not_mem_nil
  · refine ⟨{ wUpdateStagesAndCommitsS2 with obj := { wUpdateStagesAndCommitsO with table := [(1, { tO with pincnt := 1 })] } }, 0, 0, ?_⟩
    simp only [State.Answers, State.Settled]; and_intros <;> first | with_reducible rfl | exact Or.inl ⟨rfl, rfl, rfl⟩ | exact all_clean (by decide +kernel) | decide +kernel | rfl | exact fun _ _ h => absurd h List.not_mem_nil | exact fun _ h => absurd h List.not_mem_nil
  · refine ⟨wUpdateStagesAndCommitsS4, (Option.get (wUpdateStagesAndCommitsS4.makeShadows []) (by decide +kernel)), ((Option.get (wUpdateStagesAndCommitsS4.makeShadows []) (by decide +kernel)).replay 0).1, 0, 0, ((Option.get (wUpdateStagesAndCommitsS4.makeShadows []) (by decide +kernel)).replay 0).2, ?_⟩
    simp only [State.Answers, State.Settled]; and_intros <;> first | with_reducible rfl | exact Or.inl ⟨rfl, rfl, rfl⟩ | exact all_clean (by decide +kernel) | decide +kernel | rfl | exact fun _ _ h => absurd h List.not_mem_nil | exact fun _ h => absurd h List.not_mem_nil
  · refine ⟨tS { tC with seq := { state := .stopped } }, 0, 0, ?_⟩
    simp only [State.Answers, State.Settled]; and_intros <;> first | with_reducible rfl | exact Or.inl ⟨rfl, rfl, rfl⟩ | exact all_clean (by decide +kernel) | decide +kernel | rfl | exact fun _ _ h => absurd h List.not_mem_nil | exact fun _ h => absurd h List.not_mem_nil
  · refine ⟨tS tC, 0, 0, ?_⟩
    simp only [State.Answers, State.Settled]; and_intros <;> first | with_reducible rfl | exact Or.inl ⟨rfl, rfl, rfl⟩ | exact all_clean (by decide +kernel) | decide +kernel | rfl | exact fun _ _ h => absurd h List.not_mem_nil | exact fun _ h => absurd h List.not_mem_nil
  · refine ⟨tS { tC with seq := { state := .stopped }, rcmt := { running := true } }, 0, 0, ?_⟩
    simp only [State.Answers, State.Settled]; and_intros <;> first | with_reducible rfl | exact Or.inl ⟨rfl, rfl, rfl⟩ | exact all_clean (by decide +kernel) | decide +kernel | rfl | exact fun _ _ h => absurd h List.not_mem_nil | exact fun _ h => absurd h List.not_mem_nil

def wExchangeWordsLeaveK : Core := tQ 9 (tE 9 3 [(69, 7), (66, 6)]) { tC with hq := [(7, { ents := [{ h := 5 }] }), (6, { send := some { core := 0, dev := 255, rhq := 3, credits := 1, retained := [] } })] }
def wExchangeWordsLeaveK5 : Core := tQ 9 { tE 9 3 [(69, 7), (66, 6)] with vals := [5, 0] } { tC with hq := [(7, { ents := [] }), (6, { send := some { core := 0, dev := 255, rhq := 3, credits := 1, retained := [] } })] }
def wExchangeWordsLeaveK4 : Core := tQ 9 (tE 9 3 [(69, 7), (66, 6)]) { tC with hq := [(7, { ents := [{ h := 5 }] }), (6, { send := some { core := 0, dev := 255, rhq := 3, credits := 0, retained := [] } })] }
theorem witness_ExchangeWordsLeave :
    (∃ (s : State) (c p i n sp dsp sa da : Nat) (e : Cqe) (w : CWord), s.WordAt c p 9 1 i e ∧ w = e.word ∧ e.n = 0 ∧ sp = wbits w 53 1 ∧ dsp = wbits w 52 1 ∧ sa = wbits w 239 17 * 64 ∧ da = wbits w 222 17 * 64 ∧ n = (wbits w 206 16 + 1) * 64 ∧ sa + n ≤ spaceSize sp ∧ da + n ≤ spaceSize dsp ∧ (s.localRead p sp sa n).2 = false ∧ s.isLocalDev (wbits w 54 8) = true)
    ∧ (∃ (s : State) (c p i q : Nat) (e : Cqe) (l : List Nat) (k : Core), s.WordAt c p 9 2 i e ∧ q = wbits e.word 69 3 ∧ wbit e.word 68 = true ∧ (s.core p).exchBlocked i e = false ∧ (s.core p).reserveFor q = some (l, k))
    ∧ (∃ (s : State) (c p i q : Nat) (e : Cqe), s.WordAt c p 9 2 i e ∧ q = wbits e.word 69 3 ∧ wbit e.word 68 = false ∧ (s.core p).exchBlocked i e = false)
    ∧ (∃ (s : State) (c p i q n : Nat) (e : Cqe) (x : HqEnt) (b : Nat × Nat × Nat) (f : SendEnd), s.WordAt c p 9 3 i e ∧ e.n ≤ wRep e.word ∧ e.vals = [] ∧ (s.core p).exchBlocked i e = false ∧ q = wbits e.word 66 3 ∧ ((s.core p).handleQ q).send = some f ∧ (s.core p).headHandle (wbits e.word 69 3) 9 e.seqno (if e.n = 0 then wbits e.word 62 4 else 0) = .ok x ∧ b = (s.core p).buffer x.h ∧ n = (wbits e.word 46 16 + 1) * 64 ∧ n ≤ b.2.2 ∧ b.2.1 + n ≤ spaceSize b.1 ∧ (s.localRead p b.1 b.2.1 n).2 = false ∧ s.mcGroup c q = none ∧ f.credits ≠ 0 ∧ s.isLocalDev f.dev = true)
    ∧ (∃ (s : State) (c p i q n : Nat) (e : Cqe) (x : HqEnt) (b : Nat × Nat × Nat) (f : SendEnd), s.WordAt c p 9 3 i e ∧ e.n ≤ wRep e.word ∧ e.vals = [] ∧ (s.core p).exchBlocked i e = false ∧ q = wbits e.word 66 3 ∧ ((s.core p).handleQ q).send = some f ∧ (s.core p).headHandle (wbits e.word 69 3) 9 e.seqno (if e.n = 0 then wbits e.word 62 4 else 0) = .ok x ∧ b = (s.core p).buffer x.h ∧ n = (wbits e.word 46 16 + 1) * 64 ∧ n ≤ b.2.2 ∧ b.2.1 + n ≤ spaceSize b.1 ∧ s.mcGroup c q = none ∧ f.credits = 0)
    ∧ (∃ (s : State) (c p i q n h ep : Nat) (e : Cqe) (b : Nat × Nat × Nat) (f : SendEnd), s.WordAt c p 9 3 i e ∧ e.vals = [h, ep] ∧ (s.core p).exchAhead i e exchPushes = false ∧ q = wbits e.word 66 3 ∧ ((s.core p).handleQ q).send = some f ∧ b = (s.core p).buffer h ∧ n = (wbits e.word 46 16 + 1) * 64 ∧ n ≤ b.2.2 ∧ b.2.1 + n ≤ spaceSize b.1 ∧ (s.localRead p b.1 b.2.1 n).2 = false ∧ s.mcGroup c q = none ∧ f.credits ≠ 0 ∧ s.isLocalDev f.dev = true) := by
  refine ⟨?_, ?_, ?_, ?_, ?_, ?_⟩
  · refine ⟨tS (tQ 9 (tE 9 1 [(53, 1), (239, 126975), (222, 16383), (54, 255)]) tC), 0, 0, 0, 64, 1, 0, 8126400, 1048512, tE 9 1 [(53, 1), (239, 126975), (222, 16383), (54, 255)], (tE 9 1 [(53, 1), (239, 126975), (222, 16383), (54, 255)]).word, ?_⟩
    simp only [State.WordAt, State.Answers, State.Settled]; and_intros <;> first | with_reducible rfl | exact Or.inl ⟨rfl, rfl, rfl⟩ | exact all_clean (by decide +kernel) | decide +kernel | rfl | exact fun _ _ h => absurd h List.not_mem_nil | exact fun _ h => absurd h List.not_mem_nil
  · refine ⟨tS (tQ 9 (tE 9 2 [(69, 7), (68, 1), (50, 255)]) { tC with pools := [(0, [5, 6, 7, 8])] }), 0, 0, 0, 7, tE 9 2 [(69, 7), (68, 1), (50, 255)], (Option.get (((tS (tQ 9 (tE 9 2 [(69, 7), (68, 1), (50, 255)]) { tC with pools := [(0, [5, 6, 7, 8])] })).core (0)).reserveFor (7)) (by decide +kernel)).1, (Option.get (((tS (tQ 9 (tE 9 2 [(69, 7), (68, 1), (50, 255)]) { tC with pools := [(0, [5, 6, 7, 8])] })).core (0)).reserveFor (7)) (by decide +kernel)).2, ?_⟩
    simp only [State.WordAt, State.Answers, State.Settled]; and_intros <;> first | with_reducible rfl | exact Or.inl ⟨rfl, rfl, rfl⟩ | exact all_clean (by decide +kernel) | decide +kernel | rfl | exact fun _ _ h => absurd h List.not_mem_nil | exact fun _ h => absurd h List.not_mem_nil
  · refine ⟨tS (tQ 9 (tE 9 2 [(69, 7), (50, 255)]) tC), 0, 0, 0, 7, tE 9 2 [(69, 7), (50, 255)], ?_⟩
    simp only [State.WordAt, State.Answers, State.Settled]; and_intros <;> first | with_reducible rfl | exact Or.inl ⟨rfl, rfl, rfl⟩ | exact all_clean (by decide +kernel) | decide +kernel | rfl | exact fun _ _ h => absurd h List.not_mem_nil | exact fun _ h => absurd h List.not_mem_nil
  · refine ⟨tS wExchangeWordsLeaveK, 0, 0, 0, 6, (wbits (tE 9 3 [(69, 7), (66, 6)]).word 46 16 + 1) * 64, tE 9 3 [(69, 7), (66, 6)], ({ h := 5 } : HqEnt), ((tS wExchangeWordsLeaveK).core (0)).buffer (({ h := 5 } : HqEnt)).h, { core := 0, dev := 255, rhq := 3, credits := 1, retained := [] }, ?_⟩
    simp only [State.WordAt, State.Answers, State.Settled]; and_intros <;> first | with_reducible rfl | exact Or.inl ⟨rfl, rfl, rfl⟩ | exact all_clean (by decide +kernel) | decide +kernel | rfl | exact fun _ _ h => absurd h List.not_mem_nil | exact fun _ h => absurd h List.not_mem_nil
  · refine ⟨tS wExchangeWordsLeaveK4, 0, 0, 0, 6, (wbits (tE 9 3 [(69, 7), (66, 6)]).word 46 16 + 1) * 64, tE 9 3 [(69, 7), (66, 6)], ({ h := 5 } : HqEnt), ((tS wExchangeWordsLeaveK4).core (0)).buffer (({ h := 5 } : HqEnt)).h, { core := 0, dev := 255, rhq := 3, credits := 0, retained := [] }, ?_⟩
    simp only [State.WordAt, State.Answers, State.Settled]; and_intros <;> first | with_reducible rfl | exact Or.inl ⟨rfl, rfl, rfl⟩ | exact all_clean (by decide +kernel) | decide +kernel | rfl | exact fun _ _ h => absurd h List.not_mem_nil | exact fun _ h => absurd h List.not_mem_nil
  · refine ⟨tS wExchangeWordsLeaveK5, 0, 0, 0, 6, (wbits (tE 9 3 [(69, 7), (66, 6)]).word 46 16 + 1) * 64, 5, 0, { tE 9 3 [(69, 7), (66, 6)] with vals := [5, 0] }, ((tS wExchangeWordsLeaveK5).core 0).buffer 5, { core := 0, dev := 255, rhq := 3, credits := 1, retained := [] }, ?_⟩
    simp only [State.WordAt, State.Answers, State.Settled]; and_intros <;> first | with_reducible rfl | exact Or.inl ⟨rfl, rfl, rfl⟩ | exact all_clean (by decide +kernel) | decide +kernel | rfl | exact fun _ _ h => absurd h List.not_mem_nil | exact fun _ h => absurd h List.not_mem_nil

def wExchangeMessagesAndBlocksS2 : State := tS (tQ 9 (tE 9 6 [(92, 15), (71, 1)]) (tD [(15, [tX, tX])] tC))
def wExchangeMessagesAndBlocksS3 : State := tS (tQ 9 (tE 9 0x40 [(92, 15), (62, 254)]) (tD [(15, [tX, tX])] tC))
def wExchangeMessagesAndBlocksX4 : CollInst := { c := 255, step := 0, attempt := 0, inst := 0, members := [255], me := 255 }
def wExchangeMessagesAndBlocksS4 : State := { tS (tQ 9 (tE 9 7 [(92, 15), (64, 255)]) (tD [(15, [tX, tX, tX])] tC)) with colls := [(7, wExchangeMessagesAndBlocksX4)], regs := [(0x347FC0, 3)] }
def wExchangeMessagesAndBlocksS5 : State := { tS (tQ 9 { tE 9 7 [(64, 255)] with n := 1, segs := 1 } tC) with colls := [(7, wExchangeMessagesAndBlocksX4)], regs := [(0x347FC0, 0x8C00), (0x347FC4, 0x20000), (0x347FC8, 2), (0x347FD0, 0xFFFF)] }
theorem witness_ExchangeMessagesAndBlocks :
    (∃ (s : State) (c p i n : Nat) (e : Cqe) (l : List DqEnt), s.WordAt c p 9 4 i e ∧ e.n = 0 ∧ n = wbits e.word 46 8 + 1 ∧ (s.core p).exchBlocked i e = false ∧ (∀ x ∈ ((s.core p).words 9).take i, x.started = true → x.fin = false → wOp x.word = 4 → mailBox x.word ≠ mailBox e.word) ∧ (s.core p).headDq (wIna e.word) (if 128 < n then 2 else 1) = some l ∧ (∀ x ∈ l, x.poison = false) ∧ s.isLocalDev (wbits e.word 54 8) = true)
    ∧ (∃ (s : State) (c p i j : Nat) (e : Cqe) (m : MbxMsg), s.WordAt c p 9 5 i e ∧ (s.core p).exchBlocked i e = false ∧ (s.core p).mbx[j]? = some m ∧ (wbit e.word 41 = true ∨ m.tag = wbits e.word 42 4) ∧ (∀ y ∈ (s.core p).mbx.take j, wbit e.word 41 = false ∧ y.tag ≠ wbits e.word 42 4) ∧ (s.core p).dqRoom (wOut e.word) (entriesOf m.data).length = true)
    ∧ (∃ (s : State) (c p i : Nat) (e : Cqe) (l : List DqEnt) (w16 : Bool) (b : FeltBlk), s.WordAt c p 9 6 i e ∧ (s.core p).exchBlocked i e = false ∧ w16 = wbit e.word 71 ∧ (s.core p).dqRoom (wOut e.word) (if w16 then 2 else 3) = true ∧ (s.core p).headDq (wIna e.word) 2 = some l ∧ (∀ x ∈ l, x.poison = false) ∧ wIna e.word ≠ wOut e.word ∧ b = feltQuantise ((unpackBits 32 64 (numOf (entsBytes l))).map fun x => f32 (BitVec.ofNat 32 x)) (s.feltE e.word) w16)
    ∧ (∃ (s : State) (c p i : Nat) (e : Cqe) (l : List DqEnt) (b : FeltBlk), s.WordAt c p 9 0x40 i e ∧ (s.core p).exchBlocked i e = false ∧ (s.core p).dqRoom (wOut e.word) 2 = true ∧ (s.core p).headDq (wIna e.word) 2 = some l ∧ (∀ x ∈ l, x.poison = false) ∧ wIna e.word ≠ wOut e.word ∧ b = feltQuantise ((unpackBits 32 64 (numOf (entsBytes l))).map fun x => f32 (BitVec.ofNat 32 x)) (wbits e.word 62 8) true)
    ∧ (∃ (s : State) (c p i slot : Nat) (e : Cqe) (x : CollInst) (l : List DqEnt) (b : FeltBlk), s.WordAt c p 9 7 i e ∧ (s.core p).pre.saved = none ∧ s.collOf (wbits e.word 64 8) = some (slot, x) ∧ s.inst slot = x ∧ s.dKind x.c = 3 ∧ e.n = 0 ∧ (s.core p).exchBlocked i e = false ∧ (s.core p).headDq (wIna e.word) 3 = some l ∧ (∀ y ∈ l, y.poison = false) ∧ b = feltOfBytes false (entsBytes l))
    ∧ (∃ (s u : State) (c p i slot pos b ex : Nat) (e : Cqe) (x : CollInst) (d : CDesc) (v : List Fp), s.WordAt c p 9 7 i e ∧ (s.core p).pre.saved = none ∧ s.collOf (wbits e.word 64 8) = some (slot, x) ∧ s.inst slot = x ∧ s.dKind x.c ≠ 3 ∧ e.segs = 1 ∧ d = s.desc x.c ∧ pos = (s.logical p).getD 0 - d.cfirst ∧ b = e.n % max 1 d.nblk ∧ s.ebOf x b = some ex ∧ s.contrib d p pos (e.n / max 1 d.nblk) b e = .ok (v, u) ∧ u.desc x.c = d ∧ (d.owner x.m b).2.1 ≠ pos ∧ ((feltQuantise v ex d.w).nf = false ∨ d.nfPol = false)) := by
  refine ⟨?_, ?_, ?_, ?_, ?_, ?_⟩
  · refine ⟨tS (tQ 9 (tE 9 4 [(92, 15), (46, 255), (54, 255)]) (tD [(15, [tX, tX])] tC)), 0, 0, 0, 256, tE 9 4 [(92, 15), (46, 255), (54, 255)], [tX, tX], ?_⟩
    simp only [State.WordAt, State.Answers, State.Settled]; and_intros <;> first | with_reducible rfl | exact Or.inl ⟨rfl, rfl, rfl⟩ | exact all_clean (by decide +kernel) | decide +kernel | rfl | exact fun _ _ h => absurd h List.not_mem_nil | exact fun _ h => absurd h List.not_mem_nil
  · refine ⟨tS (tQ 9 (tE 9 5 [(84, 15), (42, 14)]) { tC with mbx := [{ srcCore := 0, srcDev := 255, tag := 1, data := [1] }, { srcCore := 0, srcDev := 255, tag := 14, data := [1] }] }), 0, 0, 0, 1, tE 9 5 [(84, 15), (42, 14)], { srcCore := 0, srcDev := 255, tag := 14, data := [1] }, ?_⟩
    simp only [State.WordAt, State.Answers, State.Settled]; and_intros <;> first | with_reducible rfl | exact Or.inl ⟨rfl, rfl, rfl⟩ | exact all_clean (by decide +kernel) | decide +kernel | rfl | exact fun _ _ h => absurd h List.not_mem_nil | exact fun _ h => absurd h List.not_mem_nil
  · refine ⟨wExchangeMessagesAndBlocksS2, 0, 0, 0, tE 9 6 [(92, 15), (71, 1)], Option.get (((wExchangeMessagesAndBlocksS2).core (0)).headDq (wIna (tE 9 6 [(92, 15), (71, 1)]).word) 2) (by decide +kernel), true, feltQuantise ((unpackBits 32 64 (numOf (entsBytes (Option.get (((wExchangeMessagesAndBlocksS2).core (0)).headDq (wIna (tE 9 6 [(92, 15), (71, 1)]).word) 2) (by decide +kernel))))).map fun x => f32 (BitVec.ofNat 32 x)) ((wExchangeMessagesAndBlocksS2).feltE (tE 9 6 [(92, 15), (71, 1)]).word) (true), ?_⟩
    simp only [State.WordAt, State.Answers, State.Settled]; and_intros <;> first | with_reducible rfl | exact Or.inl ⟨rfl, rfl, rfl⟩ | exact all_clean (by decide +kernel) | decide +kernel | rfl | exact fun _ _ h => absurd h List.not_mem_nil | exact fun _ h => absurd h List.not_mem_nil
  · refine ⟨wExchangeMessagesAndBlocksS3, 0, 0, 0, tE 9 0x40 [(92, 15), (62, 254)], Option.get (((wExchangeMessagesAndBlocksS3).core (0)).headDq (wIna (tE 9 0x40 [(92, 15), (62, 254)]).word) 2) (by decide +kernel), feltQuantise ((unpackBits 32 64 (numOf (entsBytes (Option.get (((wExchangeMessagesAndBlocksS3).core (0)).headDq (wIna (tE 9 0x40 [(92, 15), (62, 254)]).word) 2) (by decide +kernel))))).map fun x => f32 (BitVec.ofNat 32 x)) (wbits (tE 9 0x40 [(92, 15), (62, 254)]).word 62 8) true, ?_⟩
    simp only [State.WordAt, State.Answers, State.Settled]; and_intros <;> first | with_reducible rfl | exact Or.inl ⟨rfl, rfl, rfl⟩ | exact all_clean (by decide +kernel) | decide +kernel | rfl | exact fun _ _ h => absurd h List.not_mem_nil | exact fun _ h => absurd h List.not_mem_nil
  · refine ⟨wExchangeMessagesAndBlocksS4, 0, 0, 0, 7, tE 9 7 [(92, 15), (64, 255)], wExchangeMessagesAndBlocksX4, Option.get (((wExchangeMessagesAndBlocksS4).core (0)).headDq (wIna (tE 9 7 [(92, 15), (64, 255)]).word) 3) (by decide +kernel), feltOfBytes false (entsBytes (Option.get (((wExchangeMessagesAndBlocksS4).core (0)).headDq (wIna (tE 9 7 [(92, 15), (64, 255)]).word) 3) (by decide +kernel))), ?_⟩
    simp only [State.WordAt, State.Answers, State.Settled]; and_intros <;> first | with_reducible rfl | exact Or.inl ⟨rfl, rfl, rfl⟩ | exact all_clean (by decide +kernel) | decide +kernel | rfl | exact fun _ _ h => absurd h List.not_mem_nil | exact fun _ h => absurd h List.not_mem_nil
  · refine ⟨wExchangeMessagesAndBlocksS5, (okGet ((wExchangeMessagesAndBlocksS5).contrib ((wExchangeMessagesAndBlocksS5).desc (wExchangeMessagesAndBlocksX4).c) (0) (((wExchangeMessagesAndBlocksS5).logical (0)).getD 0 - ((wExchangeMessagesAndBlocksS5).desc (wExchangeMessagesAndBlocksX4).c).cfirst) (({ tE 9 7 [(64, 255)] with n := 1, segs := 1 }).n / max 1 ((wExchangeMessagesAndBlocksS5).desc (wExchangeMessagesAndBlocksX4).c).nblk) (({ tE 9 7 [(64, 255)] with n := 1, segs := 1 }).n % max 1 ((wExchangeMessagesAndBlocksS5).desc (wExchangeMessagesAndBlocksX4).c).nblk) ({ tE 9 7 [(64, 255)] with n := 1, segs := 1 })) (by decide +kernel)).2, 0, 0, 0, 7, ((wExchangeMessagesAndBlocksS5).logical (0)).getD 0 - ((wExchangeMessagesAndBlocksS5).desc (wExchangeMessagesAndBlocksX4).c).cfirst, ({ tE 9 7 [(64, 255)] with n := 1, segs := 1 }).n % max 1 ((wExchangeMessagesAndBlocksS5).desc (wExchangeMessagesAndBlocksX4).c).nblk, Option.get ((wExchangeMessagesAndBlocksS5).ebOf (wExchangeMessagesAndBlocksX4) (({ tE 9 7 [(64, 255)] with n := 1, segs := 1 }).n % max 1 ((wExchangeMessagesAndBlocksS5).desc (wExchangeMessagesAndBlocksX4).c).nblk)) (by decide +kernel), { tE 9 7 [(64, 255)] with n := 1, segs := 1 }, wExchangeMessagesAndBlocksX4, (wExchangeMessagesAndBlocksS5).desc (wExchangeMessagesAndBlocksX4).c, (okGet ((wExchangeMessagesAndBlocksS5).contrib ((wExchangeMessagesAndBlocksS5).desc (wExchangeMessagesAndBlocksX4).c) (0) (((wExchangeMessagesAndBlocksS5).logical (0)).getD 0 - ((wExchangeMessagesAndBlocksS5).desc (wExchangeMessagesAndBlocksX4).c).cfirst) (({ tE 9 7 [(64, 255)] with n := 1, segs := 1 }).n / max 1 ((wExchangeMessagesAndBlocksS5).desc (wExchangeMessagesAndBlocksX4).c).nblk) (({ tE 9 7 [(64, 255)] with n := 1, segs := 1 }).n % max 1 ((wExchangeMessagesAndBlocksS5).desc (wExchangeMessagesAndBlocksX4).c).nblk) ({ tE 9 7 [(64, 255)] with n := 1, segs := 1 })) (by decide +kernel)).1, ?_⟩
    simp only [State.WordAt, State.Answers, State.Settled]; and_intros <;> first | with_reducible rfl | exact Or.inl ⟨rfl, rfl, rfl⟩ | exact all_clean (by decide +kernel) | decide +kernel | rfl | exact fun _ _ h => absurd h List.not_mem_nil | exact fun _ h => absurd h List.not_mem_nil

theorem witness_MeshDeliveriesLand :
    (∃ (s : State) (k src word dst sp a p : Nat) (d : List Byte), s.mesh[k]? = some (.put src word dst sp a d none) ∧ s.inOrder k = true ∧ s.phys dst = some p ∧ s.inReset p = false)
    ∧ (∃ (s : State) (k src word dst sp a p b : Nat) (d : List Byte), s.mesh[k]? = some (.put src word dst sp a d (some b)) ∧ s.inOrder k = true ∧ s.phys dst = some p ∧ s.inReset p = false ∧ s.holds p (some src) = false ∧ ¬(((s.core p).bar b).dist < 32768 ∧ 32768 ≤ ((s.core p).bar b).dist + 1))
    ∧ (∃ (s : State) (k src word dst sp a : Nat) (d : List Byte) (b : Option Nat), s.mesh[k]? = some (.put src word dst sp a d b) ∧ s.inOrder k = true ∧ s.phys dst = none)
    ∧ (∃ (s : State) (k src word shq h dst rhq ep p i : Nat) (ret : Bool) (d : List Byte) (r : RecvEnd) (l : List Nat) (b : BtEnt), s.mesh[k]? = some (.handle src word shq h ret dst rhq ep d none) ∧ s.inOrder k = true ∧ s.phys dst = some p ∧ s.inReset p = false ∧ s.holds p (some src) = false ∧ ((s.core p).handleQ rhq).recv = some r ∧ r.reserved = i :: l ∧ r.part = none ∧ i < 256 ∧ b = (s.core p).btEnt i ∧ d.length ≤ (b.size + 1) * 64 ∧ b.base * 64 + d.length ≤ spaceSize b.space)
    ∧ (∃ (s : State) (k src p word h i : Nat) (ret : Bool) (e : Cqe), s.mesh[k]? = some (.ack src p word none h ret) ∧ s.inOrder k = true ∧ s.inReset p = false ∧ ((s.core p).words 9)[i]? = some e ∧ e.started = true ∧ e.fin = false ∧ e.seqno = word ∧ wOp e.word ≠ 3 ∧ e.n ≠ 0)
    ∧ (∃ (s : State) (k src p q n : Nat) (e : SendEnd), s.mesh[k]? = some (.credit src p q n) ∧ s.inOrder k = true ∧ s.inReset p = false ∧ ((s.core p).handleQ q).send = some e ∧ s.holds p none = false)
    ∧ (∃ (s : State) (k src word dst tag sc p : Nat) (d : List Byte), s.mesh[k]? = some (.mail src word dst tag sc d false) ∧ s.inOrder k = true ∧ dst ≠ 0x3FF ∧ s.phys dst = some p ∧ s.inReset p = false ∧ (s.core p).mbx.length < 16)
    ∧ (∃ (s : State) (k src word dst tag sc p : Nat) (d : List Byte), s.mesh[k]? = some (.mail src word dst tag sc d false) ∧ s.inOrder k = true ∧ dst ≠ 0x3FF ∧ s.phys dst = some p ∧ s.inReset p = false ∧ 16 ≤ (s.core p).mbx.length)
    ∧ (∃ (s : State) (k src word dst tag sc : Nat) (d : List Byte), s.mesh[k]? = some (.mail src word dst tag sc d true)) := by
  refine ⟨?_, ?_, ?_, ?_, ?_, ?_, ?_, ?_, ?_⟩
  · refine ⟨{ tS tC with mesh := [.put 0 0 0 1 8126400 [1, 2] none] }, 0, 0, 0, 0, 1, 8126400, 0, [1, 2], ?_⟩
    and_intros <;> first | with_reducible rfl | exact Or.inl ⟨rfl, rfl, rfl⟩ | exact all_clean (by decide +kernel) | decide +kernel | rfl | exact fun _ _ h => absurd h List.not_mem_nil | exact fun _ h => absurd h List.not_mem_nil
  · refine ⟨{ tS tC with mesh := [.put 0 0 0 0 64 [1, 2] (some 31)] }, 0, 0, 0, 0, 0, 64, 0, 31, [1, 2], ?_⟩
    and_intros <;> first | with_reducible rfl | exact Or.inl ⟨rfl, rfl, rfl⟩ | exact all_clean (by decide +kernel) | decide +kernel | rfl | exact fun _ _ h => absurd h List.not_mem_nil | exact fun _ h => absurd h List.not_mem_nil
  · refine ⟨{ tS tC with mesh := [.put 0 0 1 0 64 [1, 2] none] }, 0, 0, 0, 1, 0, 64, [1, 2], none, ?_⟩
    and_intros <;> first | with_reducible rfl | exact Or.inl ⟨rfl, rfl, rfl⟩ | exact all_clean (by decide +kernel) | decide +kernel | rfl | exact fun _ _ h => absurd h List.not_mem_nil | exact fun _ h => absurd h List.not_mem_nil
  · refine ⟨{ tS { tC with hq := [(7, { recv := some { core := 0, dev := 255, rhq := 0, c := 1, pool := 0, reserved := [9], order := 0 } })] } with mesh := [.handle 0 0 1 5 false 0 7 0 (List.replicate 64 1) none] }, 0, 0, 0, 1, 5, 0, 7, 0, 0, 9, false, List.replicate 64 1, { core := 0, dev := 255, rhq := 0, c := 1, pool := 0, reserved := [9], order := 0 }, [], (({ tS { tC with hq := [(7, { recv := some { core := 0, dev := 255, rhq := 0, c := 1, pool := 0, reserved := [9], order := 0 } })] } with mesh := [.handle 0 0 1 5 false 0 7 0 (List.replicate 64 1) none] }).core (0)).btEnt (9), ?_⟩
    and_intros <;> first | with_reducible rfl | exact Or.inl ⟨rfl, rfl, rfl⟩ | exact all_clean (by decide +kernel) | decide +kernel | rfl | exact fun _ _ h => absurd h List.not_mem_nil | exact fun _ h => absurd h List.not_mem_nil
  · refine ⟨{ tS (tQ 9 { tE 9 1 [] with n := 1 } tC) with mesh := [.ack 0 0 0 none 0 false] }, 0, 0, 0, 0, 0, 0, false, { tE 9 1 [] with n := 1 }, ?_⟩
    and_intros <;> first | with_reducible rfl | exact Or.inl ⟨rfl, rfl, rfl⟩ | exact all_clean (by decide +kernel) | decide +kernel | rfl | exact fun _ _ h => absurd h List.not_mem_nil | exact fun _ h => absurd h List.not_mem_nil
  · refine ⟨{ tS { tC with hq := [(7, { send := some { core := 1, dev := 255, rhq := 0, credits := 0, retained := [] } })] } with mesh := [.credit 1 0 7 2] }, 0, 1, 0, 7, 2, { core := 1, dev := 255, rhq := 0, credits := 0, retained := [] }, ?_⟩
    and_intros <;> first | with_reducible rfl | exact Or.inl ⟨rfl, rfl, rfl⟩ | exact all_clean (by decide +kernel) | decide +kernel | rfl | exact fun _ _ h => absurd h List.not_mem_nil | exact fun _ h => absurd h List.not_mem_nil
  · refine ⟨{ tS tC with mesh := [.mail 1 0 0 15 1 [1] false] }, 0, 1, 0, 0, 15, 1, 0, [1], ?_⟩
    and_intros <;> first | with_reducible rfl | exact Or.inl ⟨rfl, rfl, rfl⟩ | exact all_clean (by decide +kernel) | decide +kernel | rfl | exact fun _ _ h => absurd h List.not_mem_nil | exact fun _ h => absurd h List.not_mem_nil
  · refine ⟨{ tS { tC with mbx := List.replicate 16 { srcCore := 1, srcDev := 255, tag := 0, data := [1] } } with mesh := [.mail 1 0 0 15 1 [1] false] }, 0, 1, 0, 0, 15, 1, 0, [1], ?_⟩
    and_intros <;> first | with_reducible rfl | exact Or.inl ⟨rfl, rfl, rfl⟩ | exact all_clean (by decide +kernel) | decide +kernel | rfl | exact fun _ _ h => absurd h List.not_mem_nil | exact fun _ h => absurd h List.not_mem_nil
  · refine ⟨{ tS tC with mesh := [.mail 1 0 0 15 1 [1] true] }, 0, 1, 0, 0, 15, 1, [1], ?_⟩
    and_intros <;> first | with_reducible rfl | exact Or.inl ⟨rfl, rfl, rfl⟩ | exact all_clean (by decide +kernel) | decide +kernel | rfl | exact fun _ _ h => absurd h List.not_mem_nil | exact fun _ h => absurd h List.not_mem_nil

def wStepMonitorRoundsT : Totals := { step := 0, attempt := 0, drnNf := 0, drnSat := 0, updNf := 0, normNf := 0, collNf := 0, lossSum := 0, lossCount := 0, lossNf := 0, laccW := [0, 0, 0, 0], laccU := [0, 0, 0, 0], laccSat := List.replicate 8 false, late := false }
def wStepMonitorRoundsR : CloseReport := { core := 0, step := 0, attempt := 0, drnNf := 0, drnSat := 0, updNf := 0, normNf := false, lossSum := 0, lossCount := 0, lossNf := 0, laccW := [0, 0, 0, 0], laccU := [0, 0, 0, 0], laccSat := List.replicate 8 false }
def wStepMonitorRoundsV : Verdict := { verdict := 2, totals := wStepMonitorRoundsT, lnsat := false, rUpdNf := false, rDrnNf := false, rSat := false, spike := false, loss := 0, ewma := 0, ewmaValid := false, stepsSeen := 0 }
theorem witness_StepMonitorRounds :
    (∃ (s : State) (k src c st a n : Nat), s.mesh[k]? = some (.openNotice src c st a n) ∧ s.inOrder k = true ∧ s.sm.sent.contains (st, a) = false)
    ∧ (∃ (s : State) (k src c st a n : Nat), s.mesh[k]? = some (.openNotice src c st a n) ∧ s.inOrder k = true ∧ s.sm.sent.contains (st, a) = true ∧ (s.core src).seq.state ≠ .halted ∧ (s.core src).seq.state ≠ .frozen)
    ∧ (∃ (s : State) (k src : Nat) (r : CloseReport) (l : Ledger), s.mesh[k]? = some (.closeReport src r) ∧ s.inOrder k = true ∧ s.sm.ledgers = [l] ∧ l.step = r.step ∧ l.attempt = r.attempt ∧ (∃ c ∈ l.opened, c ≠ r.core ∧ c ∉ l.reported))
    ∧ (∃ (s : State) (k src : Nat) (r : CloseReport) (l : Ledger), s.mesh[k]? = some (.closeReport src r) ∧ s.inOrder k = true ∧ s.sm.ledgers = [l] ∧ l.step = r.step ∧ l.attempt = r.attempt ∧ l.opened ≠ [] ∧ (∀ c ∈ l.opened, c = r.core ∨ c ∈ l.reported) ∧ s.colls = [] ∧ s.isAnchor = true)
    ∧ (∃ (s : State) (d m : Nat) (x : Totals) (r : Round), s.isAnchor = true ∧ x.done = false ∧ s.sm.rounds = [r] ∧ r.step = x.step ∧ r.attempt = x.attempt ∧ m ∈ r.roster ∧ m ≠ d ∧ afind r.got m = none)
    ∧ (∃ (s : State) (x : Totals) (pol : Nat), s.isAnchor = true ∧ x.done = false ∧ s.sm.rounds = [] ∧ s.roster = [s.devId] ∧ pol = (aget 1 s.regs 0x8010).toNat)
    ∧ (∃ (s : State) (p : Nat) (c : Core) (v : Verdict) (u : SeqCur), (s.cores.map Prod.fst).Nodup ∧ (p, c) ∈ s.cores ∧ c.pre.saved = none ∧ c.active = true ∧ c.seq.open_ = true ∧ c.seq.step = v.totals.step ∧ c.seq.attempt = v.totals.attempt ∧ c.seq.cur = some u ∧ u.sent = true ∧ u.outcome = none ∧ c.pre.contCommit = false ∧ v.verdict = 2)
    ∧ (∃ (s : State) (l : Ledger), l ∈ s.sm.ledgers ∧ l.reported ≠ [] ∧ l.timed = false) := by
  refine ⟨?_, ?_, ?_, ?_, ?_, ?_, ?_, ?_⟩
  · refine ⟨{ tS tC with mesh := [.openNotice 0 0 0 15 0] }, 0, 0, 0, 0, 15, 0, ?_⟩
    and_intros <;> first | with_reducible rfl | exact Or.inl ⟨rfl, rfl, rfl⟩ | exact all_clean (by decide +kernel) | decide +kernel | rfl | exact fun _ _ h => absurd h List.not_mem_nil | exact fun _ h => absurd h List.not_mem_nil
  · refine ⟨{ tS tC with mesh := [.openNotice 0 0 0 15 0], sm := { sent := [(0, 15)] } }, 0, 0, 0, 0, 15, 0, ?_⟩
    and_intros <;> first | with_reducible rfl | exact Or.inl ⟨rfl, rfl, rfl⟩ | exact all_clean (by decide +kernel) | decide +kernel | rfl | exact fun _ _ h => absurd h List.not_mem_nil | exact fun _ h => absurd h List.not_mem_nil
  · refine ⟨{ tS tC with mesh := [.closeReport 0 wStepMonitorRoundsR], sm := { ledgers := [{ step := 0, attempt := 0, opened := [0, 1], acc := wStepMonitorRoundsT }] } }, 0, 0, wStepMonitorRoundsR, { step := 0, attempt := 0, opened := [0, 1], acc := wStepMonitorRoundsT }, ?_⟩
    and_intros <;> first | with_reducible rfl | exact Or.inl ⟨rfl, rfl, rfl⟩ | exact all_clean (by decide +kernel) | decide +kernel | rfl | exact fun _ _ h => absurd h List.not_mem_nil | exact fun _ h => absurd h List.not_mem_nil
  · refine ⟨{ tS tC with mesh := [.closeReport 0 wStepMonitorRoundsR], sm := { ledgers := [{ step := 0, attempt := 0, opened := [0], acc := wStepMonitorRoundsT }] } }, 0, 0, wStepMonitorRoundsR, { step := 0, attempt := 0, opened := [0], acc := wStepMonitorRoundsT }, ?_⟩
    and_intros <;> first | with_reducible rfl | exact Or.inl ⟨rfl, rfl, rfl⟩ | exact all_clean (by decide +kernel) | decide +kernel | rfl | exact fun _ _ h => absurd h List.not_mem_nil | exact fun _ h => absurd h List.not_mem_nil
  · refine ⟨{ tS tC with sm := { rounds := [{ step := 0, attempt := 0, roster := [0, 1, 63] }] } }, 1, 63, wStepMonitorRoundsT, { step := 0, attempt := 0, roster := [0, 1, 63] }, ?_⟩
    and_intros <;> first | with_reducible rfl | exact Or.inl ⟨rfl, rfl, rfl⟩ | exact all_clean (by decide +kernel) | decide +kernel | rfl | exact fun _ _ h => absurd h List.not_mem_nil | exact fun _ h => absurd h List.not_mem_nil
  · refine ⟨tS tC, wStepMonitorRoundsT, 1, ?_⟩
    and_intros <;> first | with_reducible rfl | exact Or.inl ⟨rfl, rfl, rfl⟩ | exact all_clean (by decide +kernel) | decide +kernel | rfl | exact fun _ _ h => absurd h List.not_mem_nil | exact fun _ h => absurd h List.not_mem_nil
  · refine ⟨tS { tC with seq := { state := .running, open_ := true, cur := some { word := tW 0 9 [], pc := 0, sent := true } } }, 0, { tC with seq := { state := .running, open_ := true, cur := some { word := tW 0 9 [], pc := 0, sent := true } } }, wStepMonitorRoundsV, { word := tW 0 9 [], pc := 0, sent := true }, ?_⟩
    and_intros <;> first | with_reducible rfl | exact Or.inl ⟨rfl, rfl, rfl⟩ | exact all_clean (by decide +kernel) | decide +kernel | rfl | exact fun _ _ h => absurd h List.not_mem_nil | exact fun _ h => absurd h List.not_mem_nil
  · refine ⟨{ tS tC with sm := { ledgers := [{ step := 0, attempt := 0, opened := [0, 1], reported := [0], acc := wStepMonitorRoundsT }] } }, { step := 0, attempt := 0, opened := [0, 1], reported := [0], acc := wStepMonitorRoundsT }, ?_⟩
    and_intros <;> first | with_reducible rfl | exact Or.inl ⟨rfl, rfl, rfl⟩ | exact all_clean (by decide +kernel) | decide +kernel | rfl | exact fun _ _ h => absurd h List.not_mem_nil | exact fun _ h => absurd h List.not_mem_nil

def wHostCommandsRunCoresIMG : List Byte := bytesOf 128 (0x4E505254 + 2 ^ 32 + 2 ^ 48 + 2 ^ 272) ++ bytesOf 32 (1 + 160 * 2 ^ 64 + 16 * 2 ^ 128 + 16 * 2 ^ 192) ++ List.replicate 16 0
def wHostCommandsRunCoresC0 : BitVec 512 := tK [(0, 1), (18, 1), (32, 176), (40, 1)]
theorem witness_HostCommandsRunCores :
    (∃ (s : State) (r : Nat) (c : BitVec 512) (img d : List Byte) (l : List Section) (x : Section × Nat) (pc : Nat), s.HostCmd r 0x01 c ∧ d = img.take (cmdField c 32 8) ∧ leAt d 6 2 = 1 ∧ s.sec.recovery = false ∧ s.sealed_ = false ∧ s.headerCheck d = (0, 0) ∧ l = sectionsOf d ∧ (∀ n ∈ cmdSet c, ∃ p, s.phys n = some p ∧ (s.core p).parked = true) ∧ s.imageFits (cmdField c 40 2) (cmdField c 42 2) (placeSections l 0 0).2.1 (placeSections l 0 0).2.2 = true ∧ (∀ y ∈ l, y.ok d.length = true) ∧ (placeSections l 0 0).1.find? (fun y => y.1.typ = 1) = some x ∧ pc = (((s.objEnt (if x.1.inT1 then cmdField c 42 2 else cmdField c 40 2)).start + x.2) / 16 + leAt d 40 8) % 2 ^ 48)
    ∧ (∃ (s : State) (r : Nat) (c : BitVec 512), s.HostCmd r 0x02 c ∧ bitAt (cmdField c 20 1) 0 = false ∧ (∀ n ∈ cmdSet c, ∃ p, s.phys n = some p ∧ (s.core p).seq.state = .stopped))
    ∧ (∃ (s : State) (r : Nat) (c : BitVec 512), s.HostCmd r 0x02 c ∧ bitAt (cmdField c 20 1) 0 = true ∧ (∀ n ∈ cmdSet c, ∃ p, s.phys n = some p ∧ (s.core p).parked = true ∧ (s.core p).inCommit = false))
    ∧ (∃ (s : State) (r : Nat) (c : BitVec 512), s.HostCmd r 0x03 c ∧ (∀ n ∈ cmdSet c, ∀ p, s.phys n = some p → (s.core p).active = true → (s.core p).synced = true ∧ (s.core p).seq.cur = none))
    ∧ (∃ (s : State) (r n p : Nat) (c : BitVec 512), s.HostCmd r 0x03 c ∧ n ∈ cmdSet c ∧ s.phys n = some p ∧ (s.core p).active = true ∧ (s.core p).synced = false)
    ∧ (∃ (s : State) (r : Nat) (c : BitVec 512), s.HostCmd r 0x04 c ∧ cmdField c 24 6 = 0 ∧ (∀ n ∈ cmdSet c, ∃ p, s.phys n = some p ∧ (s.core p).pre.phase = .none ∧ ((s.core p).seq.state = .running ∨ (s.core p).seq.state = .stopped ∨ (s.core p).seq.state = .done)))
    ∧ (∃ (s : State) (r : Nat) (c : BitVec 512), s.Running r 0x04 c ∧ (∀ n ∈ cmdSet c, ∃ p, s.phys n = some p ∧ (s.core p).pre.phase = .saved))
    ∧ (∃ (s : State) (r : Nat) (c : BitVec 512), s.HostCmd r 0x05 c ∧ (∀ n ∈ cmdSet c, ∃ p, s.phys n = some p ∧ (s.core p).pre.phase = .saved ∧ (s.core p).seq.state ≠ .running ∧ (s.core p).seq.state ≠ .frozen))
    ∧ (∃ (s : State) (r : Nat) (c : BitVec 512), s.Running r 0x05 c ∧ (∀ n ∈ cmdSet c, ∀ p, s.phys n = some p → (s.core p).pre.phase ≠ .restoring))
    ∧ (∃ (s : State) (r n p : Nat) (c : BitVec 512) (q : StepRec), s.HostCmd r 0x0B c ∧ cmdSet c = [n] ∧ s.phys n = some p ∧ (s.core p).pre.phase = .none ∧ (s.core p).seq.open_ = true ∧ (s.core p).inCommit = false ∧ ((s.core p).parked = true ∨ (s.core p).seq.state = .running) ∧ (s.core p).seq.repeatRec = some q) := by
  refine ⟨?_, ?_, ?_, ?_, ?_, ?_, ?_, ?_, ?_, ?_⟩
  · refine ⟨tR 16 wHostCommandsRunCoresC0 false (tM tZ), 16, wHostCommandsRunCoresC0, wHostCommandsRunCoresIMG, (wHostCommandsRunCoresIMG).take (cmdField (wHostCommandsRunCoresC0) 32 8), sectionsOf ((wHostCommandsRunCoresIMG).take (cmdField (wHostCommandsRunCoresC0) 32 8)), Option.get ((placeSections (sectionsOf ((wHostCommandsRunCoresIMG).take (cmdField (wHostCommandsRunCoresC0) 32 8))) 0 0).1.find? (fun y => y.1.typ = 1)) (by decide +kernel), ((((tR 16 wHostCommandsRunCoresC0 false (tM tZ)).objEnt (if (Option.get ((placeSections (sectionsOf ((wHostCommandsRunCoresIMG).take (cmdField (wHostCommandsRunCoresC0) 32 8))) 0 0).1.find? (fun y => y.1.typ = 1)) (by decide +kernel)).1.inT1 then cmdField (wHostCommandsRunCoresC0) 42 2 else cmdField (wHostCommandsRunCoresC0) 40 2)).start + (Option.get ((placeSections (sectionsOf ((wHostCommandsRunCoresIMG).take (cmdField (wHostCommandsRunCoresC0) 32 8))) 0 0).1.find? (fun y => y.1.typ = 1)) (by decide +kernel)).2) / 16 + leAt ((wHostCommandsRunCoresIMG).take (cmdField (wHostCommandsRunCoresC0) 32 8)) 40 8) % 2 ^ 48, ?_⟩
    simp only [State.HostCmd]; and_intros <;> first | with_reducible rfl | exact Or.inl ⟨rfl, rfl, rfl⟩ | exact all_clean (by decide +kernel) | decide +kernel | rfl | exact fun _ _ h => absurd h List.not_mem_nil | exact fun _ h => absurd h List.not_mem_nil
  · refine ⟨tR 16 (tK [(0, 2), (18, 1)]) false (tS tZ), 16, tK [(0, 2), (18, 1)], ?_⟩
    simp only [State.HostCmd]; and_intros <;> first | with_reducible rfl | exact Or.inl ⟨rfl, rfl, rfl⟩ | exact all_clean (by decide +kernel) | decide +kernel | rfl | exact fun _ _ h => absurd h List.not_mem_nil | exact fun _ h => absurd h List.not_mem_nil
  · refine ⟨tR 0 (tK [(0, 2), (18, 1), (20, 1)]) false (tS { seq := { state := .done } }), 0, tK [(0, 2), (18, 1), (20, 1)], ?_⟩
    simp only [State.HostCmd]; and_intros <;> first | with_reducible rfl | exact Or.inl ⟨rfl, rfl, rfl⟩ | exact all_clean (by decide +kernel) | decide +kernel | rfl | exact fun _ _ h => absurd h List.not_mem_nil | exact fun _ h => absurd h List.not_mem_nil
  · refine ⟨tR 0 (tK [(0, 3), (18, 1)]) false (tS tC), 0, tK [(0, 3), (18, 1)], ?_⟩
    simp only [State.HostCmd]; and_intros <;> first | with_reducible rfl | exact Or.inl ⟨rfl, rfl, rfl⟩ | exact all_clean (by decide +kernel) | decide +kernel | rfl | exact fun _ _ h => absurd h List.not_mem_nil | exact fun _ h => absurd h List.not_mem_nil
  · refine ⟨tR 0 (tK [(0, 3), (18, 1)]) false (tS (tQ 6 (tE 6 1 []) tC)), 0, 0, 0, tK [(0, 3), (18, 1)], ?_⟩
    simp only [State.HostCmd]; and_intros <;> first | with_reducible rfl | exact Or.inl ⟨rfl, rfl, rfl⟩ | exact all_clean (by decide +kernel) | decide +kernel | rfl | exact fun _ _ h => absurd h List.not_mem_nil | exact fun _ h => absurd h List.not_mem_nil
  · refine ⟨tR 0 (tK [(0, 4), (18, 1)]) false (tS tC), 0, tK [(0, 4), (18, 1)], ?_⟩
    simp only [State.HostCmd]; and_intros <;> first | with_reducible rfl | exact Or.inl ⟨rfl, rfl, rfl⟩ | exact all_clean (by decide +kernel) | decide +kernel | rfl | exact fun _ _ h => absurd h List.not_mem_nil | exact fun _ h => absurd h List.not_mem_nil
  · refine ⟨tR 0 (tK [(0, 4), (18, 1)]) true (tS { tC with pre := { phase := .saved } }), 0, tK [(0, 4), (18, 1)], ?_⟩
    simp only [State.Running]; and_intros <;> first | with_reducible rfl | exact Or.inl ⟨rfl, rfl, rfl⟩ | exact all_clean (by decide +kernel) | decide +kernel | rfl | exact fun _ _ h => absurd h List.not_mem_nil | exact fun _ h => absurd h List.not_mem_nil
  · refine ⟨tR 0 (tK [(0, 5), (18, 1)]) false (tS { tZ with pre := { phase := .saved, valid := true, saved := some {} } }), 0, tK [(0, 5), (18, 1)], ?_⟩
    simp only [State.HostCmd]; and_intros <;> first | with_reducible rfl | exact Or.inl ⟨rfl, rfl, rfl⟩ | exact all_clean (by decide +kernel) | decide +kernel | rfl | exact fun _ _ h => absurd h List.not_mem_nil | exact fun _ h => absurd h List.not_mem_nil
  · refine ⟨tR 0 (tK [(0, 5), (18, 1)]) true (tS tC), 0, tK [(0, 5), (18, 1)], ?_⟩
    simp only [State.Running]; and_intros <;> first | with_reducible rfl | exact Or.inl ⟨rfl, rfl, rfl⟩ | exact all_clean (by decide +kernel) | decide +kernel | rfl | exact fun _ _ h => absurd h List.not_mem_nil | exact fun _ h => absurd h List.not_mem_nil
  · refine ⟨tR 0 (tK [(0, 11), (18, 1)]) false (tS { seq := { state := .running, open_ := true, repeatRec := some { loops := [], lc := [], bars := [], stashNum := 0 } } }), 0, 0, 0, tK [(0, 11), (18, 1)], { loops := [], lc := [], bars := [], stashNum := 0 }, ?_⟩
    simp only [State.HostCmd]; and_intros <;> first | with_reducible rfl | exact Or.inl ⟨rfl, rfl, rfl⟩ | exact all_clean (by decide +kernel) | decide +kernel | rfl | exact fun _ _ h => absurd h List.not_mem_nil | exact fun _ h => absurd h List.not_mem_nil

def wHostCommandsConfigureC0 : BitVec 512 := tK [(0, 6), (16, 1), (18, 1), (24, 0x900000)]
def wHostCommandsConfigureS0 : State := tR 0 wHostCommandsConfigureC0 false (tM tC)
def wHostCommandsConfigureS4 : State := tR 0 (tK [(0, 8)]) false { tS tC with obj := { State.reset.obj with table := [(1, { tO with base := 1 })], staged := [(1, { tO with base := 1 })] } }
theorem witness_HostCommandsConfigure :
    (∃ (s : State) (r i : Nat) (c : BitVec 512) (d : MigDest), s.HostCmd r 0x06 c ∧ i = cmdField c 16 2 ∧ (s.objEnt i).valid = true ∧ (∀ m ∈ s.obj.migs, m.obj ≠ i) ∧ d = { base := cmdField c 24 6, tier := bitsOf (cmdField c 18 1) 0 2, stripe := bitsOf (cmdField c 18 1) 2 4, muslin := bitAt (cmdField c 18 1) 6, mw := cmdField c 19 1 % 4, metaObj := cmdField c 20 2 } ∧ s.migRule i ((s.objEnt i).moved d) = none)
    ∧ (∃ (s : State) (r : Nat) (c : BitVec 512) (list : List (Nat × BitVec 32)), s.HostCmd r 0x07 c ∧ bitAt (cmdField c 36 1) 0 = true ∧ bitAt (cmdField c 36 1) 1 = false ∧ s.cfg.st = 0 ∧ cmdField c 32 4 = 0)
    ∧ (∃ (s : State) (r o : Nat) (c : BitVec 512) (v : BitVec 32), s.HostCmd r 0x07 c ∧ bitAt (cmdField c 36 1) 0 = false ∧ s.cfg.st = 1 ∧ s.cfg.locked = false ∧ cmdField c 32 4 = 1 ∧ (stagedReg o).isSome = true)
    ∧ (∃ (s : State) (r : Nat) (c : BitVec 512), s.HostCmd r 0x08 c ∧ s.checkDetail = none)
    ∧ (∃ (s : State) (r d : Nat) (c : BitVec 512), s.HostCmd r 0x08 c ∧ s.checkDetail = some d)
    ∧ (∃ (s : State) (r : Nat) (c : BitVec 512), s.HostCmd r 0x09 c ∧ s.cfg.st ≠ 0 ∧ s.checkDetail = none)
    ∧ (∃ (s : State) (r : Nat) (c : BitVec 512), s.HostCmd r 0x0A c ∧ s.cfg.st ≠ 0)
    ∧ (∃ (s : State) (r p : Nat) (c : BitVec 512), s.HostCmd r 0x0D c ∧ bitAt (cmdField c 16 2) 15 = true ∧ p = cmdField c 16 2 % 1024 ∧ p < 512 ∧ p ∉ s.fused ∧ (∀ f ∈ s.fences, f.p ≠ p))
    ∧ (∃ (s : State) (r p : Nat) (c : BitVec 512), s.HostCmd r 0x0E c ∧ p = cmdField c 16 2 % 512 ∧ s.isFenced p = true ∧ (s.cluster (clusterOf p)).oos = false)
    ∧ (∃ (s : State) (r : Nat) (c : BitVec 512), s.HostCmd r 0x0C c ∧ 2820 ≤ cmdField c 32 4)
    ∧ (∃ (s : State) (r : Nat) (c : BitVec 512), s.HostCmd r 0x0F c ∧ cmdField c 16 1 = 1) := by
  refine ⟨?_, ?_, ?_, ?_, ?_, ?_, ?_, ?_, ?_, ?_, ?_⟩
  · refine ⟨wHostCommandsConfigureS0, 0, cmdField (wHostCommandsConfigureC0) 16 2, wHostCommandsConfigureC0, { base := cmdField (wHostCommandsConfigureC0) 24 6, tier := bitsOf (cmdField (wHostCommandsConfigureC0) 18 1) 0 2, stripe := bitsOf (cmdField (wHostCommandsConfigureC0) 18 1) 2 4, muslin := bitAt (cmdField (wHostCommandsConfigureC0) 18 1) 6, mw := cmdField (wHostCommandsConfigureC0) 19 1 % 4, metaObj := cmdField (wHostCommandsConfigureC0) 20 2 }, ?_⟩
    simp only [State.HostCmd]; and_intros <;> first | with_reducible rfl | exact Or.inl ⟨rfl, rfl, rfl⟩ | exact all_clean (by decide +kernel) | decide +kernel | rfl | exact fun _ _ h => absurd h List.not_mem_nil | exact fun _ h => absurd h List.not_mem_nil
  · refine ⟨tR 0 (tK [(0, 7), (36, 1)]) false (tS tC), 0, tK [(0, 7), (36, 1)], [], ?_⟩
    simp only [State.HostCmd]; and_intros <;> first | with_reducible rfl | exact Or.inl ⟨rfl, rfl, rfl⟩ | exact all_clean (by decide +kernel) | decide +kernel | rfl | exact fun _ _ h => absurd h List.not_mem_nil | exact fun _ h => absurd h List.not_mem_nil
  · refine ⟨{ tR 0 (tK [(0, 7), (32, 1)]) false (tS tC) with cfg := { st := 1 } }, 0, 0x300014, tK [(0, 7), (32, 1)], 0xFFFFFFFF, ?_⟩
    simp only [State.HostCmd]; and_intros <;> first | with_reducible rfl | exact Or.inl ⟨rfl, rfl, rfl⟩ | exact all_clean (by decide +kernel) | decide +kernel | rfl | exact fun _ _ h => absurd h List.not_mem_nil | exact fun _ h => absurd h List.not_mem_nil
  · refine ⟨tR 0 (tK [(0, 8)]) false { tS tC with obj := {} }, 0, tK [(0, 8)], ?_⟩
    simp only [State.HostCmd]; and_intros <;> first | with_reducible rfl | exact Or.inl ⟨rfl, rfl, rfl⟩ | exact all_clean (by decide +kernel) | decide +kernel | rfl | exact fun _ _ h => absurd h List.not_mem_nil | exact fun _ h => absurd h List.not_mem_nil
  · refine ⟨wHostCommandsConfigureS4, 0, Option.get ((wHostCommandsConfigureS4).checkDetail) (by decide +kernel), tK [(0, 8)], ?_⟩
    simp only [State.HostCmd]; and_intros <;> first | with_reducible rfl | exact Or.inl ⟨rfl, rfl, rfl⟩ | exact all_clean (by decide +kernel) | decide +kernel | rfl | exact fun _ _ h => absurd h List.not_mem_nil | exact fun _ h => absurd h List.not_mem_nil
  · refine ⟨{ tR 0 (tK [(0, 9)]) false { tS tC with obj := {} } with cfg := { st := 1 } }, 0, tK [(0, 9)], ?_⟩
    simp only [State.HostCmd]; and_intros <;> first | with_reducible rfl | exact Or.inl ⟨rfl, rfl, rfl⟩ | exact all_clean (by decide +kernel) | decide +kernel | rfl | exact fun _ _ h => absurd h List.not_mem_nil | exact fun _ h => absurd h List.not_mem_nil
  · refine ⟨{ tR 0 (tK [(0, 10)]) false (tS tC) with cfg := { st := 1 } }, 0, tK [(0, 10)], ?_⟩
    simp only [State.HostCmd]; and_intros <;> first | with_reducible rfl | exact Or.inl ⟨rfl, rfl, rfl⟩ | exact all_clean (by decide +kernel) | decide +kernel | rfl | exact fun _ _ h => absurd h List.not_mem_nil | exact fun _ h => absurd h List.not_mem_nil
  · refine ⟨tR 0 (tK [(0, 13), (16, 0x81FF)]) false (tS tC), 0, 511, tK [(0, 13), (16, 0x81FF)], ?_⟩
    simp only [State.HostCmd]; and_intros <;> first | with_reducible rfl | exact Or.inl ⟨rfl, rfl, rfl⟩ | exact all_clean (by decide +kernel) | decide +kernel | rfl | exact fun _ _ h => absurd h List.not_mem_nil | exact fun _ h => absurd h List.not_mem_nil
  · refine ⟨{ tR 0 (tK [(0, 14), (16, 511)]) false (tS tC) with fences := [{ p := 511, cause := 1, persist := false }] }, 0, 511, tK [(0, 14), (16, 511)], ?_⟩
    simp only [State.HostCmd]; and_intros <;> first | with_reducible rfl | exact Or.inl ⟨rfl, rfl, rfl⟩ | exact all_clean (by decide +kernel) | decide +kernel | rfl | exact fun _ _ h => absurd h List.not_mem_nil | exact fun _ h => absurd h List.not_mem_nil
  · refine ⟨tR 16 (tK [(0, 12), (32, 2820)]) false (tS tC), 16, tK [(0, 12), (32, 2820)], ?_⟩
    simp only [State.HostCmd]; and_intros <;> first | with_reducible rfl | exact Or.inl ⟨rfl, rfl, rfl⟩ | exact all_clean (by decide +kernel) | decide +kernel | rfl | exact fun _ _ h => absurd h List.not_mem_nil | exact fun _ h => absurd h List.not_mem_nil
  · refine ⟨tR 16 (tK [(0, 15), (16, 1)]) false (tS tC), 16, tK [(0, 15), (16, 1)], ?_⟩
    simp only [State.HostCmd]; and_intros <;> first | with_reducible rfl | exact Or.inl ⟨rfl, rfl, rfl⟩ | exact all_clean (by decide +kernel) | decide +kernel | rfl | exact fun _ _ h => absurd h List.not_mem_nil | exact fun _ h => absurd h List.not_mem_nil

theorem witness_RingsTakeDoorbellsAndRelays :
    (∃ (s : State) (r tail : Nat), r < 17 ∧ s.ringOn r = true ∧ tail < s.sqSize r ∧ (s.ring r).job.isSome = true ∧ (∀ j ∈ (s.ring r).job, knownOpc (cmdOpc j.cmd) = true))
    ∧ (∃ (s : State) (r tail : Nat), r < 17 ∧ s.ringOn r = true ∧ s.sqSize r ≤ tail)
    ∧ (∃ (s : State) (r head u : Nat) (e : List Byte), r < 17 ∧ s.ringOn r = true ∧ head < s.cqSize r ∧ (s.ring r).held = some e ∧ u = (s.ring r).cqUsed - (head + s.cqSize r - (s.ring r).cqHead % s.cqSize r) % s.cqSize r ∧ u < s.cqSize r)
    ∧ (∃ (s : State) (src g : Nat) (c : BitVec 512) (d : List Byte) (j : RingJob) (l : List RingJob), g < 17 ∧ (s.ring (32 + g)).queue = j :: l ∧ j.started = true)
    ∧ (∃ (s : State) (src g : Nat) (c : BitVec 512) (d : List Byte), g < 17 ∧ (s.ring (32 + g)).queue = [] ∧ cmdOpc c = 0x0A ∧ s.cmdWaits c = false ∧ s.precheck (32 + g) c = none ∧ s.cfg.st ≠ 0 ∧ src ≠ s.devId)
    ∧ (∃ (s : State) (r d st sub : Nat) (y : RelayJob) (j : RingJob) (l : Amap (Nat × Nat)), r < 17 ∧ (s.ring r).relay = some y ∧ (s.ring r).job = some j ∧ d ∈ y.members ∧ afind y.results d = none ∧ l = aset y.results d (st, sub) ∧ l.length = y.members.length ∧ (s.ring r).cqUsed < s.cqSize r)
    ∧ (∃ (s : State) (r d st sub : Nat) (y : RelayJob) (j : RingJob), (s.ring r).relay = some y ∧ (s.ring r).job = some j ∧ d ∈ y.members ∧ afind y.results d = none ∧ (aset y.results d (st, sub)).length ≠ y.members.length)
    ∧ (∃ (s : State) (r d : Nat) (y : RelayJob) (j : RingJob) (l : Amap (Nat × Nat)), r < 17 ∧ (s.ring r).relay = some y ∧ (s.ring r).job = some j ∧ y.members.filter (fun x => (afind y.results x).isNone) = [d] ∧ l = aset y.results d (8, 0) ∧ l.length = y.members.length ∧ s.isLost d = false ∧ (∀ x ∈ y.results, x.2.1 = 0) ∧ (s.ring r).cqUsed < s.cqSize r) := by
  refine ⟨?_, ?_, ?_, ?_, ?_, ?_, ?_, ?_⟩
  · refine ⟨{ tR 16 (tK [(0, 15)]) true (tS tC) with regs := [(0x200300, 0x89)] }, 16, 15, ?_⟩
    and_intros <;> first | with_reducible rfl | exact Or.inl ⟨rfl, rfl, rfl⟩ | exact all_clean (by decide +kernel) | decide +kernel | rfl | exact fun _ _ h => absurd h List.not_mem_nil | exact fun _ h => absurd h List.not_mem_nil
  · refine ⟨{ tS tC with regs := [(0x200300, 0x89)] }, 16, 16, ?_⟩
    and_intros <;> first | with_reducible rfl | exact Or.inl ⟨rfl, rfl, rfl⟩ | exact all_clean (by decide +kernel) | decide +kernel | rfl | exact fun _ _ h => absurd h List.not_mem_nil | exact fun _ h => absurd h List.not_mem_nil
  · refine ⟨{ tS tC with regs := [(0x200300, 0x89)], rings := [(16, { cqUsed := 16, held := some [1] })] }, 16, 1, (({ tS tC with regs := [(0x200300, 0x89)], rings := [(16, { cqUsed := 16, held := some [1] })] }).ring (16)).cqUsed - ((1) + ({ tS tC with regs := [(0x200300, 0x89)], rings := [(16, { cqUsed := 16, held := some [1] })] }).cqSize (16) - (({ tS tC with regs := [(0x200300, 0x89)], rings := [(16, { cqUsed := 16, held := some [1] })] }).ring (16)).cqHead % ({ tS tC with regs := [(0x200300, 0x89)], rings := [(16, { cqUsed := 16, held := some [1] })] }).cqSize (16)) % ({ tS tC with regs := [(0x200300, 0x89)], rings := [(16, { cqUsed := 16, held := some [1] })] }).cqSize (16), [1], ?_⟩
    and_intros <;> first | with_reducible rfl | exact Or.inl ⟨rfl, rfl, rfl⟩ | exact all_clean (by decide +kernel) | decide +kernel | rfl | exact fun _ _ h => absurd h List.not_mem_nil | exact fun _ h => absurd h List.not_mem_nil
  · refine ⟨{ tS tC with rings := [(48, { queue := [{ cmd := 0, started := true }] })] }, 1, 16, tK [(0, 10)], [], { cmd := 0, started := true }, [], ?_⟩
    and_intros <;> first | with_reducible rfl | exact Or.inl ⟨rfl, rfl, rfl⟩ | exact all_clean (by decide +kernel) | decide +kernel | rfl | exact fun _ _ h => absurd h List.not_mem_nil | exact fun _ h => absurd h List.not_mem_nil
  · refine ⟨{ tS tC with cfg := { st := 1 } }, 1, 0, tK [(0, 10)], [], ?_⟩
    and_intros <;> first | with_reducible rfl | exact Or.inl ⟨rfl, rfl, rfl⟩ | exact all_clean (by decide +kernel) | decide +kernel | rfl | exact fun _ _ h => absurd h List.not_mem_nil | exact fun _ h => absurd h List.not_mem_nil
  · refine ⟨{ tS tC with rings := [(0, { job := some { cmd := 0, started := true }, relay := some { members := [1, 2], results := [(1, (0, 0))] } })] }, 0, 2, 0, 0, { members := [1, 2], results := [(1, (0, 0))] }, { cmd := 0, started := true }, [(1, (0, 0)), (2, (0, 0))], ?_⟩
    and_intros <;> first | with_reducible rfl | exact Or.inl ⟨rfl, rfl, rfl⟩ | exact all_clean (by decide +kernel) | decide +kernel | rfl | exact fun _ _ h => absurd h List.not_mem_nil | exact fun _ h => absurd h List.not_mem_nil
  · refine ⟨{ tS tC with rings := [(0, { job := some { cmd := 0, started := true }, relay := some { members := [1, 2] } })] }, 0, 2, 0, 0, { members := [1, 2] }, { cmd := 0, started := true }, ?_⟩
    and_intros <;> first | with_reducible rfl | exact Or.inl ⟨rfl, rfl, rfl⟩ | exact all_clean (by decide +kernel) | decide +kernel | rfl | exact fun _ _ h => absurd h List.not_mem_nil | exact fun _ h => absurd h List.not_mem_nil
  · refine ⟨{ tS tC with rings := [(0, { job := some { cmd := 0, started := true }, relay := some { members := [1, 2], results := [(1, (0, 0))] } })] }, 0, 2, { members := [1, 2], results := [(1, (0, 0))] }, { cmd := 0, started := true }, [(1, (0, 0)), (2, (8, 0))], ?_⟩
    and_intros <;> first | with_reducible rfl | exact Or.inl ⟨rfl, rfl, rfl⟩ | exact all_clean (by decide +kernel) | decide +kernel | rfl | exact fun _ _ h => absurd h List.not_mem_nil | exact fun _ h => absurd h List.not_mem_nil

def wFlipsAndGroupCommitsS4 : State := { tS tC with cfg := { st := 1 }, obj := { State.reset.obj with table := [(1, { tO with base := 1 })], staged := [(1, { tO with base := 1 })] } }
theorem witness_FlipsAndGroupCommits :
    (∃ (s : State) (f : Flip) (i : Nat), s.flip = some f ∧ i < 626 ∧ f.flipped.contains i = false ∧ (i < 600 ∨ 624 ≤ i))
    ∧ (∃ (s : State) (f : Flip) (r : Nat) (j : RingJob), s.flip = some f ∧ f.flipped.length = 626 ∧ s.oldWork = false ∧ f.ring = some r ∧ r < 17 ∧ s.ringHead r = some j ∧ j.started = true ∧ (s.ring r).cqUsed < s.cqSize r ∧ (∀ x ∈ f.regs, x.1 < 0x200000 ∨ 0x300000 ≤ x.1))
    ∧ (∃ (s : State) (f : Flip), s.flip = some f)
    ∧ (∃ (s : State) (src e : Nat), s.powered = true ∧ s.cfg.st ≠ 0 ∧ s.checkDetail = none)
    ∧ (∃ (s : State) (src e d : Nat), s.powered = true ∧ s.cfg.st ≠ 0 ∧ s.checkDetail = some d)
    ∧ (∃ (s : State) (c : TwoPc) (dev : Nat) (rt : List (Nat × List Nat)) (ft : BitVec 32), s.twopc = some c ∧ c.decided = false ∧ dev ∈ c.members ∧ s.devId ∈ c.members ∧ (∀ m ∈ c.members, (afind (aset c.votes dev (true, 0)) m).isSome = true) ∧ (∀ v ∈ aset c.votes dev (true, 0), v.2.1 = true) ∧ routeFault (fun a b => (afind (aget [] (aset c.routes dev rt) a) b).getD []) c.members s.stagedView.maxHop = none)
    ∧ (∃ (s : State) (c : TwoPc) (dev d : Nat) (rt : List (Nat × List Nat)) (ft : BitVec 32), s.twopc = some c ∧ c.decided = false ∧ dev ∈ c.members ∧ (∀ m ∈ c.members, (afind (aset c.votes dev (false, d)) m).isSome = true))
    ∧ (∃ (s : State) (src e : Nat) (ft : BitVec 32), s.cfg.st = 2 ∧ s.flip = none)
    ∧ (∃ (s : State) (src : Nat), s.cfg.st ≠ 0 ∧ s.flip = none)
    ∧ (∃ (s : State) (c : TwoPc), s.twopc = some c ∧ c.decided = false) := by
  refine ⟨?_, ?_, ?_, ?_, ?_, ?_, ?_, ?_, ?_, ?_⟩
  · refine ⟨{ tS tC with flip := some { epoch := 1, repoch := 0 } }, { epoch := 1, repoch := 0 }, 625, ?_⟩
    and_intros <;> first | with_reducible rfl | exact Or.inl ⟨rfl, rfl, rfl⟩ | exact all_clean (by decide +kernel) | decide +kernel | rfl | exact fun _ _ h => absurd h List.not_mem_nil | exact fun _ h => absurd h List.not_mem_nil
  · refine ⟨{ tR 16 (tK [(0, 9)]) true (tS tC) with flip := some { epoch := 1, repoch := 0, flipped := List.range 626, ring := some 16 } }, { epoch := 1, repoch := 0, flipped := List.range 626, ring := some 16 }, 16, { cmd := tK [(0, 9)], started := true }, ?_⟩
    and_intros <;> first | with_reducible rfl | exact Or.inl ⟨rfl, rfl, rfl⟩ | exact all_clean (by decide +kernel) | decide +kernel | rfl | exact fun _ _ h => absurd h List.not_mem_nil | exact fun _ h => absurd h List.not_mem_nil
  · refine ⟨{ tS tC with flip := some { epoch := 1, repoch := 0 } }, { epoch := 1, repoch := 0 }, ?_⟩
    and_intros <;> first | with_reducible rfl | exact Or.inl ⟨rfl, rfl, rfl⟩ | exact all_clean (by decide +kernel) | decide +kernel | rfl | exact fun _ _ h => absurd h List.not_mem_nil | exact fun _ h => absurd h List.not_mem_nil
  · refine ⟨{ tS tC with cfg := { st := 1 }, obj := {} }, 1, 5, ?_⟩
    and_intros <;> first | with_reducible rfl | exact Or.inl ⟨rfl, rfl, rfl⟩ | exact all_clean (by decide +kernel) | decide +kernel | rfl | exact fun _ _ h => absurd h List.not_mem_nil | exact fun _ h => absurd h List.not_mem_nil
  · refine ⟨wFlipsAndGroupCommitsS4, 1, 5, Option.get ((wFlipsAndGroupCommitsS4).checkDetail) (by decide +kernel), ?_⟩
    and_intros <;> first | with_reducible rfl | exact Or.inl ⟨rfl, rfl, rfl⟩ | exact all_clean (by decide +kernel) | decide +kernel | rfl | exact fun _ _ h => absurd h List.not_mem_nil | exact fun _ h => absurd h List.not_mem_nil
  · refine ⟨{ tS tC with twopc := some { ring := 0, epoch := 5, members := [255, 1], votes := [(1, (true, 0))] } }, { ring := 0, epoch := 5, members := [255, 1], votes := [(1, (true, 0))] }, 255, [], 5, ?_⟩
    and_intros <;> first | with_reducible rfl | exact Or.inl ⟨rfl, rfl, rfl⟩ | exact all_clean (by decide +kernel) | decide +kernel | rfl | exact fun _ _ h => absurd h List.not_mem_nil | exact fun _ h => absurd h List.not_mem_nil
  · refine ⟨{ tS tC with twopc := some { ring := 0, epoch := 5, members := [255, 1], votes := [(255, (true, 0))] } }, { ring := 0, epoch := 5, members := [255, 1], votes := [(255, (true, 0))] }, 1, 7, [], 5, ?_⟩
    and_intros <;> first | with_reducible rfl | exact Or.inl ⟨rfl, rfl, rfl⟩ | exact all_clean (by decide +kernel) | decide +kernel | rfl | exact fun _ _ h => absurd h List.not_mem_nil | exact fun _ h => absurd h List.not_mem_nil
  · refine ⟨{ tS tC with cfg := { st := 2 } }, 1, 5, 7, ?_⟩
    and_intros <;> first | with_reducible rfl | exact Or.inl ⟨rfl, rfl, rfl⟩ | exact all_clean (by decide +kernel) | decide +kernel | rfl | exact fun _ _ h => absurd h List.not_mem_nil | exact fun _ h => absurd h List.not_mem_nil
  · refine ⟨{ tS tC with cfg := { st := 1 } }, 1, ?_⟩
    and_intros <;> first | with_reducible rfl | exact Or.inl ⟨rfl, rfl, rfl⟩ | exact all_clean (by decide +kernel) | decide +kernel | rfl | exact fun _ _ h => absurd h List.not_mem_nil | exact fun _ h => absurd h List.not_mem_nil
  · refine ⟨{ tS tC with twopc := some { ring := 0, epoch := 5, members := [255, 1] } }, { ring := 0, epoch := 5, members := [255, 1] }, ?_⟩
    and_intros <;> first | with_reducible rfl | exact Or.inl ⟨rfl, rfl, rfl⟩ | exact all_clean (by decide +kernel) | decide +kernel | rfl | exact fun _ _ h => absurd h List.not_mem_nil | exact fun _ h => absurd h List.not_mem_nil

theorem witness_InterruptsAreTaken :
    (∃ (s : State) (p : Nat) (b : Bool), p < 14 ∧ bitAt (s.irqCfg (16 + p)) 17 = false)
    ∧ (∃ (s : State) (n : Nat), n ≠ 0 ∧ n < 1024 ∧ (s.irqSrc n).raw = false ∧ bitAt (s.irqCfg n) 17 = true ∧ bitsOf (s.irqCfg n) 0 3 = 0 ∧ (s.irqSrc n).masked = false ∧ (bitsOf (s.irqLim n) 0 12 = 0 ∨ (s.irqSrc n).win + 1 ≤ bitsOf (s.irqLim n) 0 12) ∧ (s.irqSrc n).serv = none)
    ∧ (∃ (s : State) (n : Nat), n ≠ 0 ∧ n < 1024 ∧ (s.irqSrc n).raw = false ∧ bitAt (s.irqCfg n) 17 = true ∧ bitsOf (s.irqCfg n) 0 3 = 0 ∧ (s.irqSrc n).masked = false ∧ bitsOf (s.irqLim n) 0 12 ≠ 0 ∧ bitsOf (s.irqLim n) 0 12 ≤ (s.irqSrc n).win)
    ∧ (∃ (s : State) (cp b : Nat), cp < 4 ∧ afind s.deliv cp = some b ∧ (s.irqSrc b).pend = true ∧ (s.irqSrc b).serv = none ∧ (s.irqSrc b).masked = false)
    ∧ (∃ (s : State) (cp : Nat), cp < 4 ∧ afind s.deliv cp = none)
    ∧ (∃ (s : State) (cp n q : Nat), cp < 4 ∧ (s.irqSrc n).serv = some (cp, q) ∧ 2 ≤ bitsOf (s.irqCfg n) 0 3)
    ∧ (∃ (s : State) (cp n : Nat), cp < 4 ∧ (s.irqSrc n).serv = none)
    ∧ (∃ (s : State) (n : Nat), n ≠ 0 ∧ n < 1024 ∧ (2 ≤ bitsOf (s.irqCfg n) 0 3 ∨ bitAt (s.irqCfg n) 17 = false ∨ (s.irqSrc n).raw = decide (bitsOf (s.irqCfg n) 0 3 = 1)))
    ∧ (∃ (s : State) (n : Nat), n ≠ 0 ∧ n < 1024 ∧ 2 ≤ bitsOf (s.irqCfg n) 0 3) := by
  refine ⟨?_, ?_, ?_, ?_, ?_, ?_, ?_, ?_, ?_⟩
  · refine ⟨tS tC, 13, true, ?_⟩
    and_intros <;> first | with_reducible rfl | exact Or.inl ⟨rfl, rfl, rfl⟩ | exact all_clean (by decide +kernel) | decide +kernel | rfl | exact fun _ _ h => absurd h List.not_mem_nil | exact fun _ h => absurd h List.not_mem_nil
  · refine ⟨{ tS tC with regs := [(0x101FFC, 0x20000)], irq := [(1023, { win := 255 })] }, 1023, ?_⟩
    and_intros <;> first | with_reducible rfl | exact Or.inl ⟨rfl, rfl, rfl⟩ | exact all_clean (by decide +kernel) | decide +kernel | rfl | exact fun _ _ h => absurd h List.not_mem_nil | exact fun _ h => absurd h List.not_mem_nil
  · refine ⟨{ tS tC with regs := [(0x101FFC, 0x20000)], irq := [(1023, { win := 256 })] }, 1023, ?_⟩
    and_intros <;> first | with_reducible rfl | exact Or.inl ⟨rfl, rfl, rfl⟩ | exact all_clean (by decide +kernel) | decide +kernel | rfl | exact fun _ _ h => absurd h List.not_mem_nil | exact fun _ h => absurd h List.not_mem_nil
  · refine ⟨{ tS tC with deliv := [(3, 1023)], irq := [(1023, { pend := true })] }, 3, 1023, ?_⟩
    and_intros <;> first | with_reducible rfl | exact Or.inl ⟨rfl, rfl, rfl⟩ | exact all_clean (by decide +kernel) | decide +kernel | rfl | exact fun _ _ h => absurd h List.not_mem_nil | exact fun _ h => absurd h List.not_mem_nil
  · refine ⟨tS tC, 3, ?_⟩
    and_intros <;> first | with_reducible rfl | exact Or.inl ⟨rfl, rfl, rfl⟩ | exact all_clean (by decide +kernel) | decide +kernel | rfl | exact fun _ _ h => absurd h List.not_mem_nil | exact fun _ h => absurd h List.not_mem_nil
  · refine ⟨{ tS tC with regs := [(0x101FFC, 2)], irq := [(1023, { serv := some (3, 1) })] }, 3, 1023, 1, ?_⟩
    and_intros <;> first | with_reducible rfl | exact Or.inl ⟨rfl, rfl, rfl⟩ | exact all_clean (by decide +kernel) | decide +kernel | rfl | exact fun _ _ h => absurd h List.not_mem_nil | exact fun _ h => absurd h List.not_mem_nil
  · refine ⟨tS tC, 3, 1023, ?_⟩
    and_intros <;> first | with_reducible rfl | exact Or.inl ⟨rfl, rfl, rfl⟩ | exact all_clean (by decide +kernel) | decide +kernel | rfl | exact fun _ _ h => absurd h List.not_mem_nil | exact fun _ h => absurd h List.not_mem_nil
  · refine ⟨tS tC, 1023, ?_⟩
    and_intros <;> first | with_reducible rfl | exact Or.inl ⟨rfl, rfl, rfl⟩ | exact all_clean (by decide +kernel) | decide +kernel | rfl | exact fun _ _ h => absurd h List.not_mem_nil | exact fun _ h => absurd h List.not_mem_nil
  · refine ⟨{ tS tC with regs := [(0x101FFC, 2)] }, 1023, ?_⟩
    and_intros <;> first | with_reducible rfl | exact Or.inl ⟨rfl, rfl, rfl⟩ | exact all_clean (by decide +kernel) | decide +kernel | rfl | exact fun _ _ h => absurd h List.not_mem_nil | exact fun _ h => absurd h List.not_mem_nil

theorem witness_FramesAndPreemption :
    (∃ (s : State) (n : Nat) (up : Bool), n < 4 ∧ bitAt (s.frameBind n) 1 = !up ∧ bitAt (s.frameBind n) 0 = true ∧ (s.frames.getD n {}).run = false ∧ n < s.frames.length ∧ (∀ l ∈ s.frameSet n, s.frameBars l = false))
    ∧ (∃ (s : State) (n : Nat) (up : Bool), n < 4 ∧ bitAt (s.frameBind n) 1 = !up ∧ (s.frames.getD n {}).run = true ∧ n < s.frames.length)
    ∧ (∃ (s : State) (c p : Nat), s.Answers c p ∧ ((s.core p).pre.frame.isSome = true ∨ (s.core p).pre.host = true) ∧ (s.core p).pre.phase = .none ∧ ((s.core p).seq.state = .running ∨ (s.core p).seq.state = .stopped ∨ (s.core p).seq.state = .done))
    ∧ (∃ (s : State) (c p n : Nat), s.Answers c p ∧ (s.core p).pre.phase = .waiting ∧ (s.core p).atBoundary = true)
    ∧ (∃ (s : State) (c p st lat n : Nat) (x : CoreCtx), s.Answers c p ∧ (s.core p).pre.phase = .saving ∧ (s.core p).pre.saved = some x ∧ (s.core p).pre.frame = some n)
    ∧ (∃ (s : State) (n : Nat), n < 4 ∧ n < s.frames.length ∧ (s.frames.getD n {}).run = true ∧ (s.frames.getD n {}).waiting = [] ∧ (s.frames.getD n {}).pend = false ∧ (∀ l ∈ (s.frames.getD n {}).cores, ∀ p, s.phys l = some p → (s.core p).seq.state = .done ∧ (s.core p).pre.host = false))
    ∧ (∃ (s : State) (n : Nat), n < 4 ∧ n < s.frames.length ∧ (s.frames.getD n {}).run = true ∧ (s.frames.getD n {}).waiting = [] ∧ (s.frames.getD n {}).pend = true ∧ (∀ l ∈ (s.frames.getD n {}).cores, ∀ p, s.phys l = some p → (s.core p).seq.state = .done))
    ∧ (∃ (s : State) (c p n : Nat) (x : CoreCtx), s.Answers c p ∧ (s.core p).pre.phase = .restoring ∧ (s.core p).pre.saved = some x ∧ (s.core p).pre.held = [])
    ∧ (∃ (s : State) (n : Nat), n < 4 ∧ (s.frames.getD n {}).run = true)
    ∧ (∃ (s : State) (p : Nat), p < 512 ∧ p ∉ s.fused ∧ (∀ f ∈ s.fences, f.p ≠ p)) := by
  refine ⟨?_, ?_, ?_, ?_, ?_, ?_, ?_, ?_, ?_, ?_⟩
  · refine ⟨{ tS tC with regs := [(0xC130, 0x1003)], frames := [{}, {}, {}, {}] }, 3, false, ?_⟩
    and_intros <;> first | with_reducible rfl | exact Or.inl ⟨rfl, rfl, rfl⟩ | exact all_clean (by decide +kernel) | decide +kernel | rfl | exact fun _ _ h => absurd h List.not_mem_nil | exact fun _ h => absurd h List.not_mem_nil
  · refine ⟨{ tS tC with regs := [(0xC130, 0x1001)], frames := [{}, {}, {}, { run := true, cores := [0] }] }, 3, true, ?_⟩
    and_intros <;> first | with_reducible rfl | exact Or.inl ⟨rfl, rfl, rfl⟩ | exact all_clean (by decide +kernel) | decide +kernel | rfl | exact fun _ _ h => absurd h List.not_mem_nil | exact fun _ h => absurd h List.not_mem_nil
  · refine ⟨tS { tC with pre := { frame := some 3 } }, 0, 0, ?_⟩
    simp only [State.Answers, State.Settled]; and_intros <;> first | with_reducible rfl | exact Or.inl ⟨rfl, rfl, rfl⟩ | exact all_clean (by decide +kernel) | decide +kernel | rfl | exact fun _ _ h => absurd h List.not_mem_nil | exact fun _ h => absurd h List.not_mem_nil
  · refine ⟨tS { tC with pre := { phase := .waiting, frame := some 3 } }, 0, 0, 0, ?_⟩
    simp only [State.Answers, State.Settled]; and_intros <;> first | with_reducible rfl | exact Or.inl ⟨rfl, rfl, rfl⟩ | exact all_clean (by decide +kernel) | decide +kernel | rfl | exact fun _ _ h => absurd h List.not_mem_nil | exact fun _ h => absurd h List.not_mem_nil
  · refine ⟨tS { tC with pre := { phase := .saving, frame := some 3, saved := some {} } }, 0, 0, 0, 0, 3, {}, ?_⟩
    simp only [State.Answers, State.Settled]; and_intros <;> first | with_reducible rfl | exact Or.inl ⟨rfl, rfl, rfl⟩ | exact all_clean (by decide +kernel) | decide +kernel | rfl | exact fun _ _ h => absurd h List.not_mem_nil | exact fun _ h => absurd h List.not_mem_nil
  · refine ⟨{ tS { seq := { state := .done }, pre := { phase := .saved, frame := some 3, saved := some {} } } with frames := [{}, {}, {}, { run := true, cores := [0] }] }, 3, ?_⟩
    and_intros <;> first | with_reducible rfl | exact Or.inl ⟨rfl, rfl, rfl⟩ | exact all_clean (by decide +kernel) | decide +kernel | rfl | exact fun _ _ h => absurd h List.not_mem_nil | exact fun _ h => absurd h List.not_mem_nil
  · refine ⟨{ tS { seq := { state := .done }, pre := { phase := .saved, frame := some 3, saved := some {} } } with frames := [{}, {}, {}, { run := true, cores := [0], pend := true }] }, 3, ?_⟩
    and_intros <;> first | with_reducible rfl | exact Or.inl ⟨rfl, rfl, rfl⟩ | exact all_clean (by decide +kernel) | decide +kernel | rfl | exact fun _ _ h => absurd h List.not_mem_nil | exact fun _ h => absurd h List.not_mem_nil
  · refine ⟨tS { tC with pre := { phase := .restoring, saved := some {} } }, 0, 0, 0, {}, ?_⟩
    simp only [State.Answers, State.Settled]; and_intros <;> first | with_reducible rfl | exact Or.inl ⟨rfl, rfl, rfl⟩ | exact all_clean (by decide +kernel) | decide +kernel | rfl | exact fun _ _ h => absurd h List.not_mem_nil | exact fun _ h => absurd h List.not_mem_nil
  · refine ⟨{ tS tC with frames := [{}, {}, {}, { run := true, cores := [0] }] }, 3, ?_⟩
    and_intros <;> first | with_reducible rfl | exact Or.inl ⟨rfl, rfl, rfl⟩ | exact all_clean (by decide +kernel) | decide +kernel | rfl | exact fun _ _ h => absurd h List.not_mem_nil | exact fun _ h => absurd h List.not_mem_nil
  · refine ⟨tS tC, 511, ?_⟩
    and_intros <;> first | with_reducible rfl | exact Or.inl ⟨rfl, rfl, rfl⟩ | exact all_clean (by decide +kernel) | decide +kernel | rfl | exact fun _ _ h => absurd h List.not_mem_nil | exact fun _ h => absurd h List.not_mem_nil

def wFlashFencesAndChannelsS0 : State := { tS tC with fl := { dirty := true } }
def wFlashFencesAndChannelsJ : FlashJob := { at_ := 0x3020000, data := [1], kind := .fences [511] 1 }
def wFlashFencesAndChannelsM : Migration := { obj := 1, dest := { tO with base := 0x900000 }, next := 0, running := true, ring := some 0 }
def wFlashFencesAndChannelsS5 : State := { tS tC with obj := { State.reset.obj with table := [(1, { tO with muslin := true, metaObj := 2 }), (2, { tO with base := 0x800010 })] } }
theorem witness_FlashFencesAndChannels :
    (∃ (s : State) (k q : Nat), s.fl.dirty = true ∧ (∀ j ∈ s.flashQ, ∀ a b, j.kind ≠ .fences a b) ∧ s.fenceTarget = (k, q))
    ∧ (∃ (s : State) (j : FlashJob) (l : List FlashJob) (ps : List Nat) (q : Nat), s.flashQ = j :: l ∧ s.flashBusy = true ∧ j.kind = .fences ps q)
    ∧ (∃ (s : State) (mv : Nat), s.flashQ ≠ [] ∧ s.flashBusy = false)
    ∧ (∃ (s : State) (o : Nat) (m : Migration), s.migOf o = some m ∧ recoded (s.objEnt o) m.dest = false ∧ (∀ y, (s.migRounds o migSlots).migOf o = some y → y.held = [] ∧ y.wait = []) ∧ m.next + 1 < (s.objEnt o).size)
    ∧ (∃ (s : State) (o : Nat) (m : Migration), s.migOf o = some m ∧ recoded (s.objEnt o) m.dest = false ∧ (∀ y, (s.migRounds o migSlots).migOf o = some y → y.held = [] ∧ y.wait = []) ∧ (s.objEnt o).size ≤ m.next + 1)
    ∧ (∃ (s : State) (o b k : Nat) (d : List Byte), (s.objEnt o).valid = true ∧ (s.objEnt o).muslin = true ∧ (s.objEnt o).mxq = 0 ∧ d.length = 4096 ∧ 4096 * b + 4096 ≤ (s.objEnt o).bytes ∧ s.migOf o = none ∧ (s.objEnt o).bpol ≠ 2 ∧ k = s.codecOf ((s.stripeMap (s.objEnt o).stripe ((s.objEnt o).start + 4096 * b)).elim 0 Prod.fst) b)
    ∧ (∃ (s : State) (o b k : Nat), (s.objEnt o).valid = true ∧ (s.objEnt o).muslin = true ∧ 4096 * b + 4096 ≤ (s.objEnt o).bytes ∧ k = s.codecOf ((s.stripeMap (s.objEnt o).stripe ((s.objEnt o).start + 4096 * b)).elim 0 Prod.fst) b)
    ∧ (∃ (s : State) (ch ce ue b : Nat), ch < 16 ∧ b = s.chanBlock ch ∧ bitAt (aget 0x01000801 s.regs (b + 0x10)).toNat 0 = true)
    ∧ (∃ (s : State) (c p n : Nat), s.Answers c p ∧ n < 16)
    ∧ (∃ (s : State) (w u : Nat), (w = 1 ∨ w = 2 ∨ w = 3 ∨ ((w = 4 ∨ w = 5) ∧ u < 8))) := by
  refine ⟨?_, ?_, ?_, ?_, ?_, ?_, ?_, ?_, ?_, ?_⟩
  · refine ⟨wFlashFencesAndChannelsS0, (State.fenceTarget wFlashFencesAndChannelsS0).1, (State.fenceTarget wFlashFencesAndChannelsS0).2, ?_⟩
    and_intros <;> first | with_reducible rfl | exact Or.inl ⟨rfl, rfl, rfl⟩ | exact all_clean (by decide +kernel) | decide +kernel | rfl | exact fun _ _ h => absurd h List.not_mem_nil | exact fun _ h => absurd h List.not_mem_nil
  · refine ⟨{ tS tC with flashQ := [wFlashFencesAndChannelsJ], flashBusy := true }, wFlashFencesAndChannelsJ, [], [511], 1, ?_⟩
    and_intros <;> first | with_reducible rfl | exact Or.inl ⟨rfl, rfl, rfl⟩ | exact all_clean (by decide +kernel) | decide +kernel | rfl | exact fun _ _ h => absurd h List.not_mem_nil | exact fun _ h => absurd h List.not_mem_nil
  · refine ⟨{ tS tC with flashQ := [wFlashFencesAndChannelsJ] }, 700, ?_⟩
    and_intros <;> first | with_reducible rfl | exact Or.inl ⟨rfl, rfl, rfl⟩ | exact all_clean (by decide +kernel) | decide +kernel | rfl | exact fun _ _ h => absurd h List.not_mem_nil | exact fun _ h => absurd h List.not_mem_nil
  · refine ⟨{ tM tC with obj := { State.reset.obj with table := [(1, tO)], migs := [wFlashFencesAndChannelsM] } }, 1, wFlashFencesAndChannelsM, ?_⟩
    and_intros <;> first | with_reducible rfl | exact Or.inl ⟨rfl, rfl, rfl⟩ | exact all_clean (by decide +kernel) | decide +kernel | rfl | exact fun _ _ h => absurd h List.not_mem_nil | exact fun _ h => absurd h List.not_mem_nil
  · refine ⟨{ tM tC with obj := { State.reset.obj with table := [(1, { tO with size := 1 })], migs := [{ wFlashFencesAndChannelsM with next := 0 }] } }, 1, { wFlashFencesAndChannelsM with next := 0 }, ?_⟩
    and_intros <;> first | with_reducible rfl | exact Or.inl ⟨rfl, rfl, rfl⟩ | exact all_clean (by decide +kernel) | decide +kernel | rfl | exact fun _ _ h => absurd h List.not_mem_nil | exact fun _ h => absurd h List.not_mem_nil
  · refine ⟨wFlashFencesAndChannelsS5, 1, 255, (wFlashFencesAndChannelsS5).codecOf (((wFlashFencesAndChannelsS5).stripeMap ((wFlashFencesAndChannelsS5).objEnt (1)).stripe (((wFlashFencesAndChannelsS5).objEnt (1)).start + 4096 * (255))).elim 0 Prod.fst) (255), List.replicate 4096 0, ?_⟩
    and_intros <;> first | with_reducible rfl | exact Or.inl ⟨rfl, rfl, rfl⟩ | exact all_clean (by decide +kernel) | decide +kernel | rfl | exact fun _ _ h => absurd h List.not_mem_nil | exact fun _ h => absurd h List.not_mem_nil
  · refine ⟨wFlashFencesAndChannelsS5, 1, 255, (wFlashFencesAndChannelsS5).codecOf (((wFlashFencesAndChannelsS5).stripeMap ((wFlashFencesAndChannelsS5).objEnt (1)).stripe (((wFlashFencesAndChannelsS5).objEnt (1)).start + 4096 * (255))).elim 0 Prod.fst) (255), ?_⟩
    and_intros <;> first | with_reducible rfl | exact Or.inl ⟨rfl, rfl, rfl⟩ | exact all_clean (by decide +kernel) | decide +kernel | rfl | exact fun _ _ h => absurd h List.not_mem_nil | exact fun _ h => absurd h List.not_mem_nil
  · refine ⟨tS tC, 15, 1, 1, (tS tC).chanBlock (15), ?_⟩
    and_intros <;> first | with_reducible rfl | exact Or.inl ⟨rfl, rfl, rfl⟩ | exact all_clean (by decide +kernel) | decide +kernel | rfl | exact fun _ _ h => absurd h List.not_mem_nil | exact fun _ h => absurd h List.not_mem_nil
  · refine ⟨tS tC, 0, 0, 15, ?_⟩
    simp only [State.Answers, State.Settled]; and_intros <;> first | with_reducible rfl | exact Or.inl ⟨rfl, rfl, rfl⟩ | exact all_clean (by decide +kernel) | decide +kernel | rfl | exact fun _ _ h => absurd h List.not_mem_nil | exact fun _ h => absurd h List.not_mem_nil
  · refine ⟨tS tC, 5, 7, ?_⟩
    and_intros <;> first | with_reducible rfl | exact Or.inl ⟨rfl, rfl, rfl⟩ | exact all_clean (by decide +kernel) | decide +kernel | rfl | exact fun _ _ h => absurd h List.not_mem_nil | exact fun _ h => absurd h List.not_mem_nil

def wPortsTrainAndReplayP : State := tN tC
theorem witness_PortsTrainAndReplay :
    (∃ (s : State) (p m n : Nat) (bad : List Nat), (s.port p).state = .training ∧ (s.port p).lanes = 0 ∧ bad = ((lanesTried (s.laneMax p) (s.port p).bad).filter (bitAt m)).foldl sins (s.port p).bad ∧ n = min (s.laneMax p) (widthOf bad) ∧ n ≠ 0)
    ∧ (∃ (s : State) (p m : Nat), (s.port p).state = .training ∧ (s.port p).lanes = 0 ∧ widthOf (((lanesTried (s.laneMax p) (s.port p).bad).filter (bitAt m)).foldl sins (s.port p).bad) = 0)
    ∧ (∃ (s : State) (p : Nat) (m : Hello), (s.port p).state = .training ∧ (s.port p).lanes ≠ 0 ∧ (s.port p).hello = false ∧ 2 ≤ m.rev)
    ∧ (∃ (s : State) (p : Nat) (m : Hello), (s.port p).state = .training ∧ (s.port p).lanes ≠ 0 ∧ (s.port p).hello = false ∧ m.rev = 1 ∧ (s.port p).txq = [])
    ∧ (∃ (s : State) (p n : Nat), (s.port p).state = .training ∧ (s.port p).hello = true ∧ n = (s.port p).keyMsg + 1 ∧ n ≠ 3)
    ∧ (∃ (s : State) (p : Nat), (s.port p).state = .training ∧ (s.port p).hello = true ∧ (s.port p).keyMsg = 2 ∧ (s.port p).txq = [])
    ∧ (∃ (s : State) (p g n : Nat) (cr : List Nat), (s.port p).isUp = true ∧ g = ((s.port p).rxSeq + 1) % 4096 ∧ (s.port p).txq = [])
    ∧ (∃ (s : State) (p g n a : Nat) (av k : Bool) (cr : List Nat), (s.port p).isUp = true)
    ∧ (∃ (s : State) (p a : Nat), (s.port p).isUp = true ∧ (s.port p).txq = [] ∧ (∀ g ∈ (s.port p).replay, g.sends < 8))
    ∧ (∃ (s : State) (p : Nat), (s.port p).isUp = true ∧ (s.port p).replay ≠ [] ∧ (∀ g ∈ (s.port p).replay, g.sends < 8))
    ∧ (∃ (s : State) (p l n : Nat), (s.port p).isUp = true ∧ l < 4 ∧ l ∉ (s.port p).bad ∧ s.laneLim p < n ∧ widthOf (sins (s.port p).bad l) ≠ 0)
    ∧ (∃ (s : State) (p : Nat) (g : Option Nat), (s.port p).state ≠ .failed ∧ (g.isSome = true ∨ s.routeBut p (s.port p).peerDev = none))
    ∧ (∃ (s : State) (p : Nat), (s.port p).state ≠ .failed ∧ (s.routeBut p (s.port p).peerDev).isSome = true)
    ∧ (∃ (s : State) (p : Nat), s.portEn p = true ∧ (afind s.lport p).isSome = true ∧ s.sec.recovery = false ∧ s.powered = true) := by
  refine ⟨?_, ?_, ?_, ?_, ?_, ?_, ?_, ?_, ?_, ?_, ?_, ?_, ?_, ?_⟩
  · refine ⟨{ wPortsTrainAndReplayP with ports := [(23, { state := .training })] }, 23, 1, 2, [0], ?_⟩
    and_intros <;> first | with_reducible rfl | exact Or.inl ⟨rfl, rfl, rfl⟩ | exact all_clean (by decide +kernel) | decide +kernel | rfl | exact fun _ _ h => absurd h List.not_mem_nil | exact fun _ h => absurd h List.not_mem_nil
  · refine ⟨{ wPortsTrainAndReplayP with ports := [(23, { state := .training })] }, 23, 15, ?_⟩
    and_intros <;> first | with_reducible rfl | exact Or.inl ⟨rfl, rfl, rfl⟩ | exact all_clean (by decide +kernel) | decide +kernel | rfl | exact fun _ _ h => absurd h List.not_mem_nil | exact fun _ h => absurd h List.not_mem_nil
  · refine ⟨{ wPortsTrainAndReplayP with ports := [(23, { state := .training, lanes := 4 })] }, 23, { rev := 2, feat := 0, dev := 4, port := 0, gid := 0, stepping := 0 }, ?_⟩
    and_intros <;> first | with_reducible rfl | exact Or.inl ⟨rfl, rfl, rfl⟩ | exact all_clean (by decide +kernel) | decide +kernel | rfl | exact fun _ _ h => absurd h List.not_mem_nil | exact fun _ h => absurd h List.not_mem_nil
  · refine ⟨{ wPortsTrainAndReplayP with ports := [(23, { state := .training, lanes := 4 })] }, 23, { rev := 1, feat := 0, dev := 4, port := 0, gid := 0, stepping := 0 }, ?_⟩
    and_intros <;> first | with_reducible rfl | exact Or.inl ⟨rfl, rfl, rfl⟩ | exact all_clean (by decide +kernel) | decide +kernel | rfl | exact fun _ _ h => absurd h List.not_mem_nil | exact fun _ h => absurd h List.not_mem_nil
  · refine ⟨{ wPortsTrainAndReplayP with ports := [(23, { state := .training, lanes := 4, hello := true, keyMsg := 1 })] }, 23, 2, ?_⟩
    and_intros <;> first | with_reducible rfl | exact Or.inl ⟨rfl, rfl, rfl⟩ | exact all_clean (by decide +kernel) | decide +kernel | rfl | exact fun _ _ h => absurd h List.not_mem_nil | exact fun _ h => absurd h List.not_mem_nil
  · refine ⟨{ wPortsTrainAndReplayP with ports := [(23, { state := .training, lanes := 4, hello := true, keyMsg := 2 })] }, 23, ?_⟩
    and_intros <;> first | with_reducible rfl | exact Or.inl ⟨rfl, rfl, rfl⟩ | exact all_clean (by decide +kernel) | decide +kernel | rfl | exact fun _ _ h => absurd h List.not_mem_nil | exact fun _ h => absurd h List.not_mem_nil
  · refine ⟨wPortsTrainAndReplayP, 23, 0, 3, [0, 0, 0, 0, 0, 0, 0, 0, 0, 0], ?_⟩
    and_intros <;> first | with_reducible rfl | exact Or.inl ⟨rfl, rfl, rfl⟩ | exact all_clean (by decide +kernel) | decide +kernel | rfl | exact fun _ _ h => absurd h List.not_mem_nil | exact fun _ h => absurd h List.not_mem_nil
  · refine ⟨wPortsTrainAndReplayP, 23, 0, 3, 0, false, false, [], ?_⟩
    and_intros <;> first | with_reducible rfl | exact Or.inl ⟨rfl, rfl, rfl⟩ | exact all_clean (by decide +kernel) | decide +kernel | rfl | exact fun _ _ h => absurd h List.not_mem_nil | exact fun _ h => absurd h List.not_mem_nil
  · refine ⟨{ wPortsTrainAndReplayP with ports := [(23, { state := .up, replay := [{ gseq := 0, sends := 7, flits := 1, pkt := none }] })] }, 23, 0, ?_⟩
    and_intros <;> first | with_reducible rfl | exact Or.inl ⟨rfl, rfl, rfl⟩ | exact all_clean (by decide +kernel) | decide +kernel | rfl | exact fun _ _ h => absurd h List.not_mem_nil | exact fun _ h => absurd h List.not_mem_nil
  · refine ⟨{ wPortsTrainAndReplayP with ports := [(23, { state := .upR1, replay := [{ gseq := 0, sends := 7, flits := 1, pkt := none }] })] }, 23, ?_⟩
    and_intros <;> first | with_reducible rfl | exact Or.inl ⟨rfl, rfl, rfl⟩ | exact all_clean (by decide +kernel) | decide +kernel | rfl | exact fun _ _ h => absurd h List.not_mem_nil | exact fun _ h => absurd h List.not_mem_nil
  · refine ⟨wPortsTrainAndReplayP, 23, 3, 40000, ?_⟩
    and_intros <;> first | with_reducible rfl | exact Or.inl ⟨rfl, rfl, rfl⟩ | exact all_clean (by decide +kernel) | decide +kernel | rfl | exact fun _ _ h => absurd h List.not_mem_nil | exact fun _ h => absurd h List.not_mem_nil
  · refine ⟨wPortsTrainAndReplayP, 23, some 0, ?_⟩
    and_intros <;> first | with_reducible rfl | exact Or.inl ⟨rfl, rfl, rfl⟩ | exact all_clean (by decide +kernel) | decide +kernel | rfl | exact fun _ _ h => absurd h List.not_mem_nil | exact fun _ h => absurd h List.not_mem_nil
  · refine ⟨{ wPortsTrainAndReplayP with regs := [(0x300010, 0x110003), (0x300018, 0x18), (0x300110, 0x2400000)], ports := [(23, { state := .up, peerDev := 4 }), (22, { state := .up, peerDev := 5 })], lport := [(23, { phys := 23 }), (22, { phys := 22 })] }, 23, ?_⟩
    and_intros <;> first | with_reducible rfl | exact Or.inl ⟨rfl, rfl, rfl⟩ | exact all_clean (by decide +kernel) | decide +kernel | rfl | exact fun _ _ h => absurd h List.not_mem_nil | exact fun _ h => absurd h List.not_mem_nil
  · refine ⟨wPortsTrainAndReplayP, 23, ?_⟩
    and_intros <;> first | with_reducible rfl | exact Or.inl ⟨rfl, rfl, rfl⟩ | exact all_clean (by decide +kernel) | decide +kernel | rfl | exact fun _ _ h => absurd h List.not_mem_nil | exact fun _ h => absurd h List.not_mem_nil

def wPacketsReachTheirUnitsX8 : CollInst := { c := 255, step := 257, attempt := 0, inst := 300, members := [3, 4], me := 0 }
def wPacketsReachTheirUnitsS8 : State := { tN tC with regs := [(0x300010, 0x100003), (0x300018, 0x18), (0x347FC4, 0x20000)], colls := [(15, wPacketsReachTheirUnitsX8)] }
theorem witness_PacketsReachTheirUnits :
    (∃ (s : State) (p : Nat) (h : PktHdr), s.Takes p 0 h ∧ h.vc = 0 ∧ s.cfg.st ≠ 0 ∧ s.flip = none)
    ∧ (∃ (s : State) (p tag c : Nat) (h : PktHdr) (d : List Byte), s.Takes p 1 h ∧ h.plen ≠ 0 ∧ tag ≠ 0xF ∧ h.dstCore ≠ 0x3FF ∧ s.phys h.dstCore = some c ∧ (s.core c).mbx.length < 16)
    ∧ (∃ (s : State) (p c sp : Nat) (h : PktHdr) (d : List Byte), s.Takes p 2 h ∧ localSpace h.obj = some sp ∧ s.phys h.dstCore = some c ∧ h.addr + d.length ≤ spaceSize sp ∧ h.dbarEn = false)
    ∧ (∃ (s : State) (p r : Nat) (h : PktHdr) (d : List Byte), s.Takes p 2 h ∧ localSpace h.obj = none ∧ s.check (.peer h.srcDev) true false h.obj h.addr d.length = some r)
    ∧ (∃ (s : State) (p c i : Nat) (h : PktHdr) (d : List Byte) (r : RecvEnd) (l : List Nat) (b : BtEnt), s.Takes p 3 h ∧ s.phys h.dstCore = some c ∧ h.addr = 0 ∧ h.dbarEn = false ∧ s.holds c none = false ∧ ((s.core c).handleQ h.rhq).recv = some r ∧ r.part = none ∧ r.reserved = i :: l ∧ i < 256 ∧ b = (s.core c).btEnt i ∧ d.length ≤ (b.size + 1) * 64 ∧ b.base * 64 + d.length ≤ spaceSize b.space)
    ∧ (∃ (s : State) (p c sp n q : Nat) (h : PktHdr), s.Takes p 4 h ∧ localSpace h.obj = some sp ∧ s.phys h.dstCore = some c ∧ h.addr + n ≤ spaceSize sp ∧ 0 < n ∧ n ≤ 4096 ∧ s.routePort (s.backHdr 5 h n) = some q ∧ q ≠ p ∧ (s.port q).isUp = false)
    ∧ (∃ (s : State) (p : Nat) (h : PktHdr) (d : List Byte), s.Takes p 5 h)
    ∧ (∃ (s : State) (p c i : Nat) (h : PktHdr) (r : RemOut) (e : Cqe), s.Takes p 6 h ∧ h.addr = 0 ∧ h.mgrp < 16 ∧ s.phys h.dstCore = some c ∧ (s.core c).rem.find? (fun r => r.dev = h.srcDev && r.core = h.srcCore) = some r ∧ r.hq = none ∧ ((s.core c).words 9)[i]? = some e ∧ e.started = true ∧ e.fin = false ∧ e.seqno = r.word ∧ wOp e.word ≠ 3 ∧ e.n ≠ 0)
    ∧ (∃ (s : State) (p k b : Nat) (h : PktHdr) (ch : CollHdr) (cb : CollBlk) (x : CollInst), s.Takes p 7 h ∧ ch.digest = s.digest ch.cdesc ∧ s.collOf ch.cdesc = some (k, x) ∧ s.inst k = x ∧ x.c = ch.cdesc ∧ x.inst = ch.inst + 256 * ch.instHi ∧ x.attempt % 256 = ch.attempt ∧ x.step % 256 = ch.step ∧ ch.phase = 0 ∧ b = ch.first ∧ (x.slot b).sup = false ∧ (x.slot b).final = false ∧ (x.slot b).sent = false ∧ (x.slot b).loc < (s.desc x.c).local_)
    ∧ (∃ (s : State) (d : Nat), s.isAnchor = true ∧ d < 64) := by
  refine ⟨?_, ?_, ?_, ?_, ?_, ?_, ?_, ?_, ?_, ?_⟩
  · refine ⟨{ tN tC with cfg := { st := 1 } }, 23, tH 0 0, ?_⟩
    simp only [State.Takes, State.Settled]; and_intros <;> first | with_reducible rfl | exact Or.inl ⟨rfl, rfl, rfl⟩ | exact all_clean (by decide +kernel) | decide +kernel | rfl | exact fun _ _ h => absurd h List.not_mem_nil | exact fun _ h => absurd h List.not_mem_nil
  · refine ⟨tN tC, 23, 14, 0, tH 1 1, [1], ?_⟩
    simp only [State.Takes, State.Settled]; and_intros <;> first | with_reducible rfl | exact Or.inl ⟨rfl, rfl, rfl⟩ | exact all_clean (by decide +kernel) | decide +kernel | rfl | exact fun _ _ h => absurd h List.not_mem_nil | exact fun _ h => absurd h List.not_mem_nil
  · refine ⟨tN tC, 23, 0, 0, tH 2 3, [1, 2], ?_⟩
    simp only [State.Takes, State.Settled]; and_intros <;> first | with_reducible rfl | exact Or.inl ⟨rfl, rfl, rfl⟩ | exact all_clean (by decide +kernel) | decide +kernel | rfl | exact fun _ _ h => absurd h List.not_mem_nil | exact fun _ h => absurd h List.not_mem_nil
  · refine ⟨tN tC, 23, Option.get ((tN tC).check (.peer ({ tH 2 3 with obj := 5 }).srcDev) true false ({ tH 2 3 with obj := 5 }).obj ({ tH 2 3 with obj := 5 }).addr ([1]).length) (by decide +kernel), { tH 2 3 with obj := 5 }, [1], ?_⟩
    simp only [State.Takes, State.Settled]; and_intros <;> first | with_reducible rfl | exact Or.inl ⟨rfl, rfl, rfl⟩ | exact all_clean (by decide +kernel) | decide +kernel | rfl | exact fun _ _ h => absurd h List.not_mem_nil | exact fun _ h => absurd h List.not_mem_nil
  · refine ⟨tN { tC with hq := [(7, { recv := some { core := 0, dev := 4, rhq := 0, c := 1, pool := 0, reserved := [9], order := 0 } })] }, 23, 0, 9, tH 3 3, List.replicate 64 1, { core := 0, dev := 4, rhq := 0, c := 1, pool := 0, reserved := [9], order := 0 }, [], ((tN { tC with hq := [(7, { recv := some { core := 0, dev := 4, rhq := 0, c := 1, pool := 0, reserved := [9], order := 0 } })] }).core (0)).btEnt (9), ?_⟩
    simp only [State.Takes, State.Settled]; and_intros <;> first | with_reducible rfl | exact Or.inl ⟨rfl, rfl, rfl⟩ | exact all_clean (by decide +kernel) | decide +kernel | rfl | exact fun _ _ h => absurd h List.not_mem_nil | exact fun _ h => absurd h List.not_mem_nil
  · refine ⟨{ tN tC with regs := [(0x300010, 0x110003), (0x300018, 0x18), (0x300110, 0x2000001)], ports := [(0, { state := .training }), (23, { state := .up })] }, 23, 0, 0, 4096, 0, tH 4 3, ?_⟩
    simp only [State.Takes, State.Settled]; and_intros <;> first | with_reducible rfl | exact Or.inl ⟨rfl, rfl, rfl⟩ | exact all_clean (by decide +kernel) | decide +kernel | rfl | exact fun _ _ h => absurd h List.not_mem_nil | exact fun _ h => absurd h List.not_mem_nil
  · refine ⟨tN tC, 23, tH 5 3, [1], ?_⟩
    simp only [State.Takes, State.Settled]; and_intros <;> first | with_reducible rfl | exact Or.inl ⟨rfl, rfl, rfl⟩ | exact all_clean (by decide +kernel) | decide +kernel | rfl | exact fun _ _ h => absurd h List.not_mem_nil | exact fun _ h => absurd h List.not_mem_nil
  · refine ⟨tN (tQ 9 { tE 9 1 [] with n := 1 } { tC with rem := [{ dev := 4, core := 0, word := 0, hq := none, h := 0, ret := false }] }), 23, 0, 0, tH 6 3, { dev := 4, core := 0, word := 0, hq := none, h := 0, ret := false }, { tE 9 1 [] with n := 1 }, ?_⟩
    simp only [State.Takes, State.Settled]; and_intros <;> first | with_reducible rfl | exact Or.inl ⟨rfl, rfl, rfl⟩ | exact all_clean (by decide +kernel) | decide +kernel | rfl | exact fun _ _ h => absurd h List.not_mem_nil | exact fun _ h => absurd h List.not_mem_nil
  · refine ⟨wPacketsReachTheirUnitsS8, 23, 15, 9, tH 7 2, { cdesc := 255, inst := 44, attempt := 0, step := 1, phase := 0, w := 0, instHi := 1, nb := 1, digest := State.digest wPacketsReachTheirUnitsS8 255, first := 9 }, { ecount := 1, mcnt := 0, maxc := 0, blk := feltZero 140 }, wPacketsReachTheirUnitsX8, ?_⟩
    simp only [State.Takes, State.Settled]; and_intros <;> first | with_reducible rfl | exact Or.inl ⟨rfl, rfl, rfl⟩ | exact all_clean (by decide +kernel) | decide +kernel | rfl | exact fun _ _ h => absurd h List.not_mem_nil | exact fun _ h => absurd h List.not_mem_nil
  · refine ⟨tS tC, 63, ?_⟩
    and_intros <;> first | with_reducible rfl | exact Or.inl ⟨rfl, rfl, rfl⟩ | exact all_clean (by decide +kernel) | decide +kernel | rfl | exact fun _ _ h => absurd h List.not_mem_nil | exact fun _ h => absurd h List.not_mem_nil

theorem witness_PortsRefusePackets :
    ∃ (s : State) (p : Nat) (h : PktHdr) (d : List Byte), s.powered = true ∧ s.flip = none ∧ (s.port p).isUp = true := by
  refine ⟨tN tC, 23, tH 2 3, [1], ?_⟩
  and_intros <;> first | with_reducible rfl | exact Or.inl ⟨rfl, rfl, rfl⟩ | exact all_clean (by decide +kernel) | decide +kernel | rfl | exact fun _ _ h => absurd h List.not_mem_nil | exact fun _ h => absurd h List.not_mem_nil

def wMulticastRepairsK : Core := { tC with hq := [(7, { recv := some { core := 0, dev := 4, rhq := 0, c := 1, pool := 0, reserved := [9], order := 0 } })] }
def wMulticastRepairsK3 : Core := { tC with hq := [(0, { send := some { core := 0, dev := 4, rhq := 7, credits := 0, retained := [5] } })] }
theorem witness_MulticastRepairs :
    (∃ (s : State) (g p k : Nat), g < 16 ∧ (aget ({} : McSend) s.mcs g).waits = true ∧ s.phys (bitsOf (aget 0 s.regs (0x300210 + 32 * g)).toNat 0 10) = some p ∧ k = (s.core p).hqRetain (bitsOf (aget 0 s.regs (0x300210 + 32 * g)).toNat 10 3))
    ∧ (∃ (s : State) (g m src p q : Nat) (x : HandleQ), g < 16 ∧ src = bitsOf (aget 0 s.regs (0x300210 + 32 * g)).toNat 0 10 ∧ s.phys src = some p ∧ (s.core p).hq.find? (fun y => y.2.recv.any fun r => decide (r.core = src) && !s.isLocalDev r.dev) = some (q, x) ∧ s.holds p none = false)
    ∧ (∃ (s : State) (g m d : Nat), g < 16 ∧ m < 65536 ∧ s.mcSource g = some d)
    ∧ (∃ (s : State) (g d m l p : Nat) (e : SendEnd) (x : Nat × Nat), l = bitsOf (aget 0 s.regs (0x300210 + 32 * g)).toNat 0 10 ∧ s.phys l = some p ∧ ((s.core p).handleQ (bitsOf (aget 0 s.regs (0x300210 + 32 * g)).toNat 10 3)).send = some e ∧ (aget ({} : McSend) s.mcs g).kept.find? (fun y => decide (y.1 % 65536 = m) && e.retained.contains y.2) = some x)
    ∧ (∃ (s : State) (g d : Nat), s.mcSource g = some d)
    ∧ (∃ (s : State) (g d : Nat), g < 16 ∧ d < 64)
    ∧ (∃ (s : State) (g hi d : Nat) (m : BitVec 32), g < 16 ∧ hi < 2 ∧ d < 32 ∧ m.getLsbD d = true)
    ∧ (∃ (s : State) (k src word dev dst tag : Nat) (d : List Byte), s.mesh[k]? = some (.rmail src word dev dst tag d true)) := by
  refine ⟨?_, ?_, ?_, ?_, ?_, ?_, ?_, ?_⟩
  · refine ⟨{ tS tC with mcs := [(15, { waits := true })] }, 15, 0, (({ tS tC with mcs := [(15, { waits := true })] }).core (0)).hqRetain (bitsOf (aget 0 ({ tS tC with mcs := [(15, { waits := true })] }).regs (0x300210 + 32 * (15))).toNat 10 3), ?_⟩
    and_intros <;> first | with_reducible rfl | exact Or.inl ⟨rfl, rfl, rfl⟩ | exact all_clean (by decide +kernel) | decide +kernel | rfl | exact fun _ _ h => absurd h List.not_mem_nil | exact fun _ h => absurd h List.not_mem_nil
  · refine ⟨tS wMulticastRepairsK, 15, 65535, bitsOf (aget 0 (tS wMulticastRepairsK).regs (0x300210 + 32 * (15))).toNat 0 10, 0, (Option.get (((tS wMulticastRepairsK).core (0)).hq.find? (fun y => y.2.recv.any fun r => decide (r.core = (bitsOf (aget 0 (tS wMulticastRepairsK).regs (0x300210 + 32 * (15))).toNat 0 10)) && !(tS wMulticastRepairsK).isLocalDev r.dev)) (by decide +kernel)).1, (Option.get (((tS wMulticastRepairsK).core (0)).hq.find? (fun y => y.2.recv.any fun r => decide (r.core = (bitsOf (aget 0 (tS wMulticastRepairsK).regs (0x300210 + 32 * (15))).toNat 0 10)) && !(tS wMulticastRepairsK).isLocalDev r.dev)) (by decide +kernel)).2, ?_⟩
    and_intros <;> first | with_reducible rfl | exact Or.inl ⟨rfl, rfl, rfl⟩ | exact all_clean (by decide +kernel) | decide +kernel | rfl | exact fun _ _ h => absurd h List.not_mem_nil | exact fun _ h => absurd h List.not_mem_nil
  · refine ⟨tS wMulticastRepairsK, 15, 65535, Option.get ((tS wMulticastRepairsK).mcSource (15)) (by decide +kernel), ?_⟩
    and_intros <;> first | with_reducible rfl | exact Or.inl ⟨rfl, rfl, rfl⟩ | exact all_clean (by decide +kernel) | decide +kernel | rfl | exact fun _ _ h => absurd h List.not_mem_nil | exact fun _ h => absurd h List.not_mem_nil
  · refine ⟨{ tS wMulticastRepairsK3 with mcs := [(15, { kept := [(3, 5)] })] }, 15, 4, 3, bitsOf (aget 0 ({ tS wMulticastRepairsK3 with mcs := [(15, { kept := [(3, 5)] })] }).regs (0x300210 + 32 * (15))).toNat 0 10, 0, { core := 0, dev := 4, rhq := 7, credits := 0, retained := [5] }, (3, 5), ?_⟩
    and_intros <;> first | with_reducible rfl | exact Or.inl ⟨rfl, rfl, rfl⟩ | exact all_clean (by decide +kernel) | decide +kernel | rfl | exact fun _ _ h => absurd h List.not_mem_nil | exact fun _ h => absurd h List.not_mem_nil
  · refine ⟨tS wMulticastRepairsK, 15, Option.get ((tS wMulticastRepairsK).mcSource (15)) (by decide +kernel), ?_⟩
    and_intros <;> first | with_reducible rfl | exact Or.inl ⟨rfl, rfl, rfl⟩ | exact all_clean (by decide +kernel) | decide +kernel | rfl | exact fun _ _ h => absurd h List.not_mem_nil | exact fun _ h => absurd h List.not_mem_nil
  · refine ⟨tS tC, 15, 63, ?_⟩
    and_intros <;> first | with_reducible rfl | exact Or.inl ⟨rfl, rfl, rfl⟩ | exact all_clean (by decide +kernel) | decide +kernel | rfl | exact fun _ _ h => absurd h List.not_mem_nil | exact fun _ h => absurd h List.not_mem_nil
  · refine ⟨tS tC, 15, 1, 31, 0x80000000, ?_⟩
    and_intros <;> first | with_reducible rfl | exact Or.inl ⟨rfl, rfl, rfl⟩ | exact all_clean (by decide +kernel) | decide +kernel | rfl | exact fun _ _ h => absurd h List.not_mem_nil | exact fun _ h => absurd h List.not_mem_nil
  · refine ⟨{ tS tC with mesh := [.rmail 0 0 4 0 15 [1] true] }, 0, 0, 0, 4, 0, 15, [1], ?_⟩
    and_intros <;> first | with_reducible rfl | exact Or.inl ⟨rfl, rfl, rfl⟩ | exact all_clean (by decide +kernel) | decide +kernel | rfl | exact fun _ _ h => absurd h List.not_mem_nil | exact fun _ h => absurd h List.not_mem_nil

def wCollectivesRunR : Amap W32 := [(0x347FC0, 0x8C00), (0x347FC4, 0x10000), (0x347FC8, 1), (0x347FCC, 1), (0x347FD0, 0xFFFFFFFF), (0x347FD8, 0x100000), (0x347FE4, 0x1000000), (0x347FEC, 0x1000000)]
def wCollectivesRunS0 : State := { tM (tQ 9 (tE 9 7 [(64, 255)]) tC) with regs := wCollectivesRunR }
def wCollectivesRunS1 : State := { tM (tQ 9 (tE 9 7 [(64, 255)]) tC) with regs := wCollectivesRunR.filter fun x => x.1 ≠ 0x347FEC }
def wCollectivesRunX : CollInst := { c := 255, step := 0, attempt := 0, inst := 0, members := [255], me := 0 }
theorem witness_CollectivesRun :
    (∃ (s : State) (c p i : Nat) (l : List (Nat × Nat)) (ms : List Nat), s.joiners c = some ((p, i) :: l) ∧ s.collOf c = none ∧ s.colls.length < 16 ∧ ms = s.roster.filter (fun m => bitAt (s.desc c).mmask m || s.rosterMask = 0) ∧ (∀ h ∈ s.collHeld, h.ch.cdesc ≠ c) ∧ s.refuses c (if (s.collStat c).step = (s.core p).prog.seq.step && (s.collStat c).attempt = (s.core p).prog.seq.attempt then (s.collStat c).started else 0) ms = false)
    ∧ (∃ (s : State) (c p i : Nat) (l : List (Nat × Nat)) (ms : List Nat), s.joiners c = some ((p, i) :: l) ∧ s.collOf c = none ∧ s.colls.length < 16 ∧ ms = s.roster.filter (fun m => bitAt (s.desc c).mmask m || s.rosterMask = 0) ∧ s.refuses c (if (s.collStat c).step = (s.core p).prog.seq.step && (s.collStat c).attempt = (s.core p).prog.seq.attempt then (s.collStat c).started else 0) ms = true)
    ∧ (∃ (s : State) (k src o c b j : Nat) (y : CollBlk) (x : CollInst), s.mesh[k]? = some (.block src o c b false y) ∧ s.inOrder k = true ∧ s.collOf c = some (j, x) ∧ s.inst j = x ∧ (x.slot b).sup = false ∧ (x.slot b).final = false ∧ (x.slot b).sent = false ∧ (x.slot b).loc + 1 < (s.desc x.c).local_)
    ∧ (∃ (s : State) (c j : Nat) (x : CollInst), s.collOf c = some (j, x) ∧ s.inst j = x ∧ (s.desc c).kind = 3 ∧ x.pushed.length = (s.desc c).cnum ∧ (∀ b ∈ x.res, b.ovf = false ∧ b.nf = false) ∧ x.fb = false ∧ x.ovf = false ∧ x.nf = false)
    ∧ (∃ (s : State) (c j : Nat) (x : CollInst), s.collOf c = some (j, x) ∧ s.inst j = x ∧ (s.desc c).kind = 0 ∧ x.gather = false ∧ s.reduced x = true)
    ∧ (∃ (s : State) (c j : Nat) (x : CollInst), s.collOf c = some (j, x) ∧ s.inst j = x ∧ (x.gather = true ∨ ((s.desc c).latePol = false ∧ ((s.desc c).rbudget = 0 ∨ x.attempt < (s.desc c).rbudget))))
    ∧ (∃ (s : State) (c j : Nat) (x : CollInst), s.collOf c = some (j, x) ∧ s.inst j = x ∧ x.gather = false ∧ (s.desc c).latePol = true ∧ x.fb = false ∧ (s.desc c).kind = 0)
    ∧ (∃ (s : State) (c j : Nat) (x : CollInst), s.collOf c = some (j, x) ∧ s.inst j = x ∧ x.fb = true ∧ (s.desc c).kind = 0 ∧ (∀ b ∈ x.ownedAll (s.desc c), (x.slot b).final = true ∧ (x.slot b).flag = false))
    ∧ (∃ (s : State) (k p c i : Nat) (b : FeltBlk) (e : Cqe), s.mesh[k]? = some (.normDown p c b) ∧ s.inOrder k = true ∧ (s.core p).pre.saved = none ∧ ((s.core p).words 9)[i]? = some e ∧ e.started = true ∧ e.fin = false ∧ wOp e.word = 7 ∧ xCdesc e.word = c ∧ e.n = 1) := by
  refine ⟨?_, ?_, ?_, ?_, ?_, ?_, ?_, ?_, ?_⟩
  · refine ⟨wCollectivesRunS0, 255, 0, 0, [], (wCollectivesRunS0).roster.filter (fun m => bitAt ((wCollectivesRunS0).desc (255)).mmask m || (wCollectivesRunS0).rosterMask = 0), ?_⟩
    and_intros <;> first | with_reducible rfl | exact Or.inl ⟨rfl, rfl, rfl⟩ | exact all_clean (by decide +kernel) | decide +kernel | rfl | exact fun _ _ h => absurd h List.not_mem_nil | exact fun _ h => absurd h List.not_mem_nil
  · refine ⟨wCollectivesRunS1, 255, 0, 0, [], (wCollectivesRunS1).roster.filter (fun m => bitAt ((wCollectivesRunS1).desc (255)).mmask m || (wCollectivesRunS1).rosterMask = 0), ?_⟩
    and_intros <;> first | with_reducible rfl | exact Or.inl ⟨rfl, rfl, rfl⟩ | exact all_clean (by decide +kernel) | decide +kernel | rfl | exact fun _ _ h => absurd h List.not_mem_nil | exact fun _ h => absurd h List.not_mem_nil
  · refine ⟨{ tS tC with regs := [(0x347FC4, 0x20000)], colls := [(15, wCollectivesRunX)], mesh := [.block 0 0 255 3 false { ecount := 1, mcnt := 0, maxc := 0, blk := feltZero 140 }] }, 0, 0, 0, 255, 3, 15, { ecount := 1, mcnt := 0, maxc := 0, blk := feltZero 140 }, wCollectivesRunX, ?_⟩
    and_intros <;> first | with_reducible rfl | exact Or.inl ⟨rfl, rfl, rfl⟩ | exact all_clean (by decide +kernel) | decide +kernel | rfl | exact fun _ _ h => absurd h List.not_mem_nil | exact fun _ h => absurd h List.not_mem_nil
  · refine ⟨{ tS tC with regs := [(0x347FC0, 3), (0x347FC4, 0x10000)], colls := [(15, { wCollectivesRunX with pushed := [0], res := some (feltZero 140) })] }, 255, 15, { wCollectivesRunX with pushed := [0], res := some (feltZero 140) }, ?_⟩
    and_intros <;> first | with_reducible rfl | exact Or.inl ⟨rfl, rfl, rfl⟩ | exact all_clean (by decide +kernel) | decide +kernel | rfl | exact fun _ _ h => absurd h List.not_mem_nil | exact fun _ h => absurd h List.not_mem_nil
  · refine ⟨{ tS tC with regs := wCollectivesRunR, colls := [(15, { wCollectivesRunX with slots := [(0, { final := true })], scales := [0] })] }, 255, 15, { wCollectivesRunX with slots := [(0, { final := true })], scales := [0] }, ?_⟩
    and_intros <;> first | with_reducible rfl | exact Or.inl ⟨rfl, rfl, rfl⟩ | exact all_clean (by decide +kernel) | decide +kernel | rfl | exact fun _ _ h => absurd h List.not_mem_nil | exact fun _ h => absurd h List.not_mem_nil
  · refine ⟨{ tS tC with regs := wCollectivesRunR, colls := [(15, wCollectivesRunX)] }, 255, 15, wCollectivesRunX, ?_⟩
    and_intros <;> first | with_reducible rfl | exact Or.inl ⟨rfl, rfl, rfl⟩ | exact all_clean (by decide +kernel) | decide +kernel | rfl | exact fun _ _ h => absurd h List.not_mem_nil | exact fun _ h => absurd h List.not_mem_nil
  · refine ⟨{ tS tC with regs := [(0x347FC0, 0x28C00), (0x347FC4, 0x10000), (0x347FC8, 1)], colls := [(15, wCollectivesRunX)] }, 255, 15, wCollectivesRunX, ?_⟩
    and_intros <;> first | with_reducible rfl | exact Or.inl ⟨rfl, rfl, rfl⟩ | exact all_clean (by decide +kernel) | decide +kernel | rfl | exact fun _ _ h => absurd h List.not_mem_nil | exact fun _ h => absurd h List.not_mem_nil
  · refine ⟨{ tS tC with regs := wCollectivesRunR, colls := [(15, { wCollectivesRunX with fb := true, slots := [(0, { final := true })] })] }, 255, 15, { wCollectivesRunX with fb := true, slots := [(0, { final := true })] }, ?_⟩
    and_intros <;> first | with_reducible rfl | exact Or.inl ⟨rfl, rfl, rfl⟩ | exact all_clean (by decide +kernel) | decide +kernel | rfl | exact fun _ _ h => absurd h List.not_mem_nil | exact fun _ h => absurd h List.not_mem_nil
  · refine ⟨{ tS (tQ 9 { tE 9 7 [(64, 255)] with n := 1 } tC) with mesh := [.normDown 0 255 (feltZero 140)] }, 0, 0, 255, 0, feltZero 140, { tE 9 7 [(64, 255)] with n := 1 }, ?_⟩
    and_intros <;> first | with_reducible rfl | exact Or.inl ⟨rfl, rfl, rfl⟩ | exact all_clean (by decide +kernel) | decide +kernel | rfl | exact fun _ _ h => absurd h List.not_mem_nil | exact fun _ h => absurd h List.not_mem_nil

theorem witness_PowerFollowsItsDemands :
    (∃ (s : State) (est : Nat), s.Settled 625)
    ∧ (∃ (s : State), s.powered = true ∧ s.pw.write = true)
    ∧ (∃ (s : State), s.powered = true ∧ s.pw.acked = true)
    ∧ (∃ (s : State) (mv : Nat) (f : Bool), s.powered = true)
    ∧ (∃ (s : State) (l : List Nat) (up dn : Bool) (x : Nat), s.Settled 625 ∧ x ∈ l.take 64 ∧ 115 ≤ x)
    ∧ (∃ (s : State) (l : List Nat) (dn : Bool) (x : Nat), s.Settled 625 ∧ (∀ y ∈ l.take 64, y < 115) ∧ x ∈ l.take 64 ∧ s.throtTemp < x ∧ s.pw.dTherm < 3)
    ∧ (∃ (s : State), s.Settled 625 ∧ s.pw.alert = false ∧ (∀ x ∈ s.pw.temps, x.2 ≤ s.throtTemp) ∧ s.pw.dTherm < 3)
    ∧ (∃ (s : State), s.Settled 625)
    ∧ (∃ (s : State), s.powered = true ∧ s.pwrfail = false ∧ s.pfThrot = true)
    ∧ (∃ (s : State), s.pwrfail = false ∧ s.pw.pfWait = true ∧ s.powered = true) := by
  refine ⟨?_, ?_, ?_, ?_, ?_, ?_, ?_, ?_, ?_, ?_⟩
  · refine ⟨tS tC, 1000, ?_⟩
    simp only [State.Settled]; and_intros <;> first | with_reducible rfl | exact Or.inl ⟨rfl, rfl, rfl⟩ | exact all_clean (by decide +kernel) | decide +kernel | rfl | exact fun _ _ h => absurd h List.not_mem_nil | exact fun _ h => absurd h List.not_mem_nil
  · refine ⟨{ tS tC with pw := { write := true } }, ?_⟩
    and_intros <;> first | with_reducible rfl | exact Or.inl ⟨rfl, rfl, rfl⟩ | exact all_clean (by decide +kernel) | decide +kernel | rfl | exact fun _ _ h => absurd h List.not_mem_nil | exact fun _ h => absurd h List.not_mem_nil
  · refine ⟨{ tS tC with pw := { acked := true } }, ?_⟩
    and_intros <;> first | with_reducible rfl | exact Or.inl ⟨rfl, rfl, rfl⟩ | exact all_clean (by decide +kernel) | decide +kernel | rfl | exact fun _ _ h => absurd h List.not_mem_nil | exact fun _ h => absurd h List.not_mem_nil
  · refine ⟨tS tC, 800, true, ?_⟩
    and_intros <;> first | with_reducible rfl | exact Or.inl ⟨rfl, rfl, rfl⟩ | exact all_clean (by decide +kernel) | decide +kernel | rfl | exact fun _ _ h => absurd h List.not_mem_nil | exact fun _ h => absurd h List.not_mem_nil
  · refine ⟨tS tC, [100, 115], true, true, 115, ?_⟩
    simp only [State.Settled]; and_intros <;> first | with_reducible rfl | exact Or.inl ⟨rfl, rfl, rfl⟩ | exact all_clean (by decide +kernel) | decide +kernel | rfl | exact fun _ _ h => absurd h List.not_mem_nil | exact fun _ h => absurd h List.not_mem_nil
  · refine ⟨tS tC, [114, 101], false, 101, ?_⟩
    simp only [State.Settled]; and_intros <;> first | with_reducible rfl | exact Or.inl ⟨rfl, rfl, rfl⟩ | exact all_clean (by decide +kernel) | decide +kernel | rfl | exact fun _ _ h => absurd h List.not_mem_nil | exact fun _ h => absurd h List.not_mem_nil
  · refine ⟨{ tS tC with pw := { temps := [(0, 100)] } }, ?_⟩
    simp only [State.Settled]; and_intros <;> first | with_reducible rfl | exact Or.inl ⟨rfl, rfl, rfl⟩ | exact all_clean (by decide +kernel) | decide +kernel | rfl | exact fun _ _ h => absurd h List.not_mem_nil | exact fun _ h => absurd h List.not_mem_nil
  · refine ⟨tS tC, ?_⟩
    simp only [State.Settled]; and_intros <;> first | with_reducible rfl | exact Or.inl ⟨rfl, rfl, rfl⟩ | exact all_clean (by decide +kernel) | decide +kernel | rfl | exact fun _ _ h => absurd h List.not_mem_nil | exact fun _ h => absurd h List.not_mem_nil
  · refine ⟨tS tC, ?_⟩
    and_intros <;> first | with_reducible rfl | exact Or.inl ⟨rfl, rfl, rfl⟩ | exact all_clean (by decide +kernel) | decide +kernel | rfl | exact fun _ _ h => absurd h List.not_mem_nil | exact fun _ h => absurd h List.not_mem_nil
  · refine ⟨{ tS tC with pw := { pfWait := true } }, ?_⟩
    and_intros <;> first | with_reducible rfl | exact Or.inl ⟨rfl, rfl, rfl⟩ | exact all_clean (by decide +kernel) | decide +kernel | rfl | exact fun _ _ h => absurd h List.not_mem_nil | exact fun _ h => absurd h List.not_mem_nil

theorem witness_ResetsLeaveTheResetState :
    (∃ (s : State) (w : Nat), s.powered = true ∧ s.anchor = w)
    ∧ (∃ (s : State) (l : List Nat) (i : Nat), s.powered = true ∧ i < 8 ∧ (s.chan i).state = 0 ∧ (s.obj.chans.map Prod.fst).Nodup ∧ (afind s.obj.chans i).isSome = true)
    ∧ (∃ (s : State) (b : Bool), s.powered = true)
    ∧ (∃ (s : State) (c p : Nat), s.powered = true ∧ s.coreRst = none ∧ s.phys c = some p)
    ∧ (∃ (s : State) (r : CoreRst), s.powered = true ∧ s.coreRst = some r ∧ r.begun = true ∧ s.isFenced r.p = false ∧ (∀ f ∈ s.frames, f.run = false))
    ∧ (∃ (s : State), s.powered = true ∧ s.isAnchor = true ∧ (∀ d, d < 64 → bitAt s.gmask d = true → d ∈ s.roster) ∧ s.devId < 64 ∧ bitAt s.gmask s.devId = true)
    ∧ (∃ (s : State) (d : Nat), s.powered = true ∧ d < 64 ∧ bitAt s.gmask d = true ∧ d ∉ s.roster) := by
  refine ⟨?_, ?_, ?_, ?_, ?_, ?_, ?_⟩
  · refine ⟨tS tC, (tS tC).anchor, ?_⟩
    and_intros <;> first | with_reducible rfl | exact Or.inl ⟨rfl, rfl, rfl⟩ | exact all_clean (by decide +kernel) | decide +kernel | rfl | exact fun _ _ h => absurd h List.not_mem_nil | exact fun _ h => absurd h List.not_mem_nil
  · refine ⟨{ tS tC with obj := { State.reset.obj with chans := [(7, { state := 0 })] } }, List.replicate 16 48, 7, ?_⟩
    and_intros <;> first | with_reducible rfl | exact Or.inl ⟨rfl, rfl, rfl⟩ | exact all_clean (by decide +kernel) | decide +kernel | rfl | exact fun _ _ h => absurd h List.not_mem_nil | exact fun _ h => absurd h List.not_mem_nil
  · refine ⟨tS tC, true, ?_⟩
    and_intros <;> first | with_reducible rfl | exact Or.inl ⟨rfl, rfl, rfl⟩ | exact all_clean (by decide +kernel) | decide +kernel | rfl | exact fun _ _ h => absurd h List.not_mem_nil | exact fun _ h => absurd h List.not_mem_nil
  · refine ⟨tS tC, 0, 0, ?_⟩
    and_intros <;> first | with_reducible rfl | exact Or.inl ⟨rfl, rfl, rfl⟩ | exact all_clean (by decide +kernel) | decide +kernel | rfl | exact fun _ _ h => absurd h List.not_mem_nil | exact fun _ h => absurd h List.not_mem_nil
  · refine ⟨{ tS tC with coreRst := some { l := 0, p := 0, begun := true } }, { l := 0, p := 0, begun := true }, ?_⟩
    and_intros <;> first | with_reducible rfl | exact Or.inl ⟨rfl, rfl, rfl⟩ | exact all_clean (by decide +kernel) | decide +kernel | rfl | exact fun _ _ h => absurd h List.not_mem_nil | exact fun _ h => absurd h List.not_mem_nil
  · refine ⟨{ tN tC with regs := [(0x300010, 0x100303), (0x300018, 0x18), (0x500074, 0x18)] }, ?_⟩
    and_intros <;> first | with_reducible rfl | exact Or.inl ⟨rfl, rfl, rfl⟩ | exact all_clean (by decide +kernel) | decide +kernel | rfl | exact fun _ _ h => absurd h List.not_mem_nil | exact fun _ h => absurd h List.not_mem_nil
  · refine ⟨{ tN tC with regs := [(0x300010, 0x100303), (0x300018, 0x18), (0x500078, 0x80000000)] }, 63, ?_⟩
    and_intros <;> first | with_reducible rfl | exact Or.inl ⟨rfl, rfl, rfl⟩ | exact all_clean (by decide +kernel) | decide +kernel | rfl | exact fun _ _ h => absurd h List.not_mem_nil | exact fun _ h => absurd h List.not_mem_nil

def wHostWindowReachesMemoryS : State := { tM tC with regs := [(0x200500, 1), (0x200504, 0x80)] }
theorem witness_ResetsLeaveTheResetState_list : ∃ s : State, s.flashBusy = false ∧ s.fenceBest = none :=
  ⟨State.reset, by decide +kernel, by decide +kernel⟩

theorem witness_HostWindowReachesMemory :
    (∃ (s : State) (ofs n o a : Nat), s.winShut ofs = false ∧ ((s.sealed_ = false ∨ s.inWrec (s.winAddr ofs) n = true)) ∧ s.checkAddr .host false false (s.winAddr ofs) n = .ok (o, a))
    ∧ (∃ (s : State) (ofs n r o : Nat), s.winShut ofs = false ∧ ((s.sealed_ = false ∨ s.inWrec (s.winAddr ofs) n = true)) ∧ s.checkAddr .host false false (s.winAddr ofs) n = .error (r, o))
    ∧ (∃ (s : State) (ofs o a : Nat) (d : List Byte), s.winShut ofs = false ∧ ((s.sealed_ = false ∨ s.inWrec (s.winAddr ofs) d.length = true)) ∧ s.checkAddr .host true false (s.winAddr ofs) d.length = .ok (o, a))
    ∧ (∃ (s : State) (ofs r o : Nat) (d : List Byte), s.winShut ofs = false ∧ ((s.sealed_ = false ∨ s.inWrec (s.winAddr ofs) d.length = true)) ∧ s.checkAddr .host true false (s.winAddr ofs) d.length = .error (r, o))
    ∧ (∃ (s : State) (ofs n : Nat) (d : List Byte), ((s.hwin ≠ none ∨ bitAt (aget 0 s.regs (0x200500 + 8 * (ofs / 2 ^ 32 % 16))).toNat 0 = false))) := by
  refine ⟨?_, ?_, ?_, ?_, ?_⟩
  · refine ⟨wHostWindowReachesMemoryS, 1048572, 4, (okGet ((wHostWindowReachesMemoryS).checkAddr .host false false ((wHostWindowReachesMemoryS).winAddr (1048572)) (4)) (by decide +kernel)).1, (okGet ((wHostWindowReachesMemoryS).checkAddr .host false false ((wHostWindowReachesMemoryS).winAddr (1048572)) (4)) (by decide +kernel)).2, ?_⟩
    and_intros <;> first | with_reducible rfl | exact Or.inl ⟨rfl, rfl, rfl⟩ | exact all_clean (by decide +kernel) | decide +kernel | rfl | exact fun _ _ h => absurd h List.not_mem_nil | exact fun _ h => absurd h List.not_mem_nil
  · refine ⟨wHostWindowReachesMemoryS, 1048576, 4, (errGet ((wHostWindowReachesMemoryS).checkAddr .host false false ((wHostWindowReachesMemoryS).winAddr (1048576)) (4)) (by decide +kernel)).1, (errGet ((wHostWindowReachesMemoryS).checkAddr .host false false ((wHostWindowReachesMemoryS).winAddr (1048576)) (4)) (by decide +kernel)).2, ?_⟩
    and_intros <;> first | with_reducible rfl | exact Or.inl ⟨rfl, rfl, rfl⟩ | exact all_clean (by decide +kernel) | decide +kernel | rfl | exact fun _ _ h => absurd h List.not_mem_nil | exact fun _ h => absurd h List.not_mem_nil
  · refine ⟨wHostWindowReachesMemoryS, 1048575, (okGet ((wHostWindowReachesMemoryS).checkAddr .host true false ((wHostWindowReachesMemoryS).winAddr (1048575)) ([1]).length) (by decide +kernel)).1, (okGet ((wHostWindowReachesMemoryS).checkAddr .host true false ((wHostWindowReachesMemoryS).winAddr (1048575)) ([1]).length) (by decide +kernel)).2, [1], ?_⟩
    and_intros <;> first | with_reducible rfl | exact Or.inl ⟨rfl, rfl, rfl⟩ | exact all_clean (by decide +kernel) | decide +kernel | rfl | exact fun _ _ h => absurd h List.not_mem_nil | exact fun _ h => absurd h List.not_mem_nil
  · refine ⟨wHostWindowReachesMemoryS, 1048576, (errGet ((wHostWindowReachesMemoryS).checkAddr .host true false ((wHostWindowReachesMemoryS).winAddr (1048576)) ([1]).length) (by decide +kernel)).1, (errGet ((wHostWindowReachesMemoryS).checkAddr .host true false ((wHostWindowReachesMemoryS).winAddr (1048576)) ([1]).length) (by decide +kernel)).2, [1], ?_⟩
    and_intros <;> first | with_reducible rfl | exact Or.inl ⟨rfl, rfl, rfl⟩ | exact all_clean (by decide +kernel) | decide +kernel | rfl | exact fun _ _ h => absurd h List.not_mem_nil | exact fun _ h => absurd h List.not_mem_nil
  · refine ⟨tS tC, 0, 4, [1], ?_⟩
    and_intros <;> first | with_reducible rfl | exact Or.inl ⟨rfl, rfl, rfl⟩ | exact all_clean (by decide +kernel) | decide +kernel | rfl | exact fun _ _ h => absurd h List.not_mem_nil | exact fun _ h => absurd h List.not_mem_nil

def wSealedPagesAreCheckedO : ObjSide := { State.reset.obj with table := [(1, tO), (2, { tO with base := 0x800010, kind := 6 })] }
def wSealedPagesAreCheckedS : State := { tS tC with sealed_ := true, regs := [(0x200500, 1), (0x200504, 0x80), (0x600050, 2)], obj := wSealedPagesAreCheckedO, sec := { owner := some 0 } }
def wSealedPagesAreCheckedG : Amap Byte := (List.range 4095).map fun i => (i, 0)
def wSealedPagesAreCheckedW1 : WPage := { page := 0, addr := 0x8000000000, record := bytesOf 8 1 ++ List.replicate 16 0 ++ [1] ++ List.replicate 7 0, got := wSealedPagesAreCheckedG }
def wSealedPagesAreCheckedW2 : WPage := { page := 0, addr := 0x8000000000, record := bytesOf 8 1 ++ List.replicate 24 0, got := wSealedPagesAreCheckedG }
def wSealedPagesAreCheckedS1 : State := { wSealedPagesAreCheckedS with sec := { owner := some 0, wpages := [wSealedPagesAreCheckedW1] } }
theorem witness_SealedPagesAreChecked :
    (∃ (s : State) (ofs k a : Nat) (b : Byte) (rec_ : List Byte) (x : Nat × Nat), s.sealed_ = true ∧ s.winShut ofs = false ∧ s.inWrec (s.winAddr ofs) 1 = false ∧ k = ofs / 4096 ∧ a = s.winAddr (ofs / 4096 * 4096) ∧ s.sec.owner.isSome = true ∧ (∀ p ∈ s.sec.rpages, p.page ≠ k) ∧ (∀ p ∈ s.sec.wpages, p.page ≠ k) ∧ s.sec.wpages.length < 16 ∧ s.checkAddr .host true false a 4096 = .ok x ∧ s.pageRecord k = some rec_)
    ∧ (∃ (s : State) (ofs ctr o a : Nat) (b : Byte) (w : WPage) (g : List (Nat × Byte)) (iv d : List Byte) (u : State), s.sealed_ = true ∧ s.winShut ofs = false ∧ s.inWrec (s.winAddr ofs) 1 = false ∧ s.sec.owner.isSome = true ∧ s.sec.rpages = [] ∧ s.sec.wpages = [w] ∧ w.page = ofs / 4096 ∧ afind w.got (ofs % 4096) = none ∧ w.got.length = 4095 ∧ g = aset w.got (ofs % 4096) b ∧ d = (List.range 4096).map (fun i => aget 0 g i) ∧ ctr = numOf (w.record.take 8) ∧ iv = [1, 0, 0, 0] ++ bytesOf 8 ctr ∧ (w.record.getD 24 0).toNat = 1 ∧ s.sec.hctr < ctr ∧ u = { s with sec := { s.sec with wpages := [] } } ∧ u.checkAddr .host true false w.addr 4096 = .ok (o, a))
    ∧ (∃ (s : State) (ofs ctr : Nat) (b : Byte) (w : WPage) (g : List (Nat × Byte)) (d : List Byte), s.sealed_ = true ∧ s.winShut ofs = false ∧ s.inWrec (s.winAddr ofs) 1 = false ∧ s.sec.owner.isSome = true ∧ s.sec.rpages = [] ∧ s.sec.wpages = [w] ∧ w.page = ofs / 4096 ∧ afind w.got (ofs % 4096) = none ∧ w.got.length = 4095 ∧ g = aset w.got (ofs % 4096) b ∧ d = (List.range 4096).map (fun i => aget 0 g i) ∧ ctr = numOf (w.record.take 8) ∧ ((w.record.getD 24 0).toNat ≠ 1 ∨ ctr ≤ s.sec.hctr ∨ Config.gcmTag (numOf s.sec.env) ([1, 0, 0, 0] ++ bytesOf 8 ctr) (bytesOf 8 w.addr ++ bytesOf 8 ctr) d ≠ (w.record.drop 8).take 16))
    ∧ (∃ (s : State) (ofs n k a o f : Nat) (rec_ : List Byte) (d : List Byte) (pz : Bool), s.sealed_ = true ∧ s.inWrec (s.winAddr ofs) n = false ∧ s.winShut ofs = false ∧ ofs % 4096 + n ≤ 4096 ∧ k = ofs / 4096 ∧ a = s.winAddr (k * 4096) ∧ s.sec.owner.isSome = true ∧ (∀ p ∈ s.sec.rpages, p.page ≠ k) ∧ s.sec.rpages.length < 16 ∧ s.pageRecord k = some rec_ ∧ s.checkAddr .host false false a 4096 = .ok (o, f) ∧ d = gcmXor (numOf s.sec.env) ([2, 0, 0, 0] ++ bytesOf 8 (s.sec.dctr + 1)) ((s.objRead o f 4096).1.map Prod.fst) ∧ pz = (s.objRead o f 4096).1.any Prod.snd)
    ∧ (∃ (s : State) (ofs n : Nat) (x : RPage), s.sealed_ = true ∧ s.inWrec (s.winAddr ofs) n = false ∧ s.winShut ofs = false ∧ ofs % 4096 + n ≤ 4096 ∧ s.sec.owner.isSome = true ∧ s.sec.rpages.find? (fun x => decide (x.page = ofs / 4096)) = some x)
    ∧ (∃ (s : State) (ofs n : Nat) (b : Byte), s.sealed_ = true ∧ s.inWrec (s.winAddr ofs) 1 = false ∧ s.inWrec (s.winAddr ofs) n = false ∧ s.winShut ofs = false ∧ ofs % 4096 + n ≤ 4096 ∧ s.sec.owner = none) := by
  refine ⟨?_, ?_, ?_, ?_, ?_, ?_⟩
  · refine ⟨wSealedPagesAreCheckedS, 4096, (4096) / 4096, (wSealedPagesAreCheckedS).winAddr ((4096) / 4096 * 4096), 1, Option.get ((wSealedPagesAreCheckedS).pageRecord ((4096) / 4096)) (by decide +kernel), okGet ((wSealedPagesAreCheckedS).checkAddr .host true false ((wSealedPagesAreCheckedS).winAddr ((4096) / 4096 * 4096)) 4096) (by decide +kernel), ?_⟩
    and_intros <;> first | with_reducible rfl | exact Or.inl ⟨rfl, rfl, rfl⟩ | exact all_clean (by decide +kernel) | decide +kernel | rfl | exact fun _ _ h => absurd h List.not_mem_nil | exact fun _ h => absurd h List.not_mem_nil
  · refine ⟨wSealedPagesAreCheckedS1, 4095, numOf ((wSealedPagesAreCheckedW1).record.take 8), (okGet (({ (wSealedPagesAreCheckedS1) with sec := { (wSealedPagesAreCheckedS1).sec with wpages := [] } }).checkAddr .host true false (wSealedPagesAreCheckedW1).addr 4096) (by decide +kernel)).1, (okGet (({ (wSealedPagesAreCheckedS1) with sec := { (wSealedPagesAreCheckedS1).sec with wpages := [] } }).checkAddr .host true false (wSealedPagesAreCheckedW1).addr 4096) (by decide +kernel)).2, 1, wSealedPagesAreCheckedW1, aset (wSealedPagesAreCheckedW1).got ((4095) % 4096) (1), [1, 0, 0, 0] ++ bytesOf 8 (numOf ((wSealedPagesAreCheckedW1).record.take 8)), (List.range 4096).map (fun i => aget 0 (aset (wSealedPagesAreCheckedW1).got ((4095) % 4096) (1)) i), { (wSealedPagesAreCheckedS1) with sec := { (wSealedPagesAreCheckedS1).sec with wpages := [] } }, ?_⟩
    and_intros <;> first | with_reducible rfl | exact Or.inl ⟨rfl, rfl, rfl⟩ | exact all_clean (by decide +kernel) | decide +kernel | rfl | exact fun _ _ h => absurd h List.not_mem_nil | exact fun _ h => absurd h List.not_mem_nil
  · refine ⟨{ wSealedPagesAreCheckedS with sec := { owner := some 0, wpages := [wSealedPagesAreCheckedW2] } }, 4095, numOf ((wSealedPagesAreCheckedW2).record.take 8), 1, wSealedPagesAreCheckedW2, aset (wSealedPagesAreCheckedW2).got ((4095) % 4096) (1), (List.range 4096).map (fun i => aget 0 (aset (wSealedPagesAreCheckedW2).got ((4095) % 4096) (1)) i), ?_⟩
    and_intros <;> first | with_reducible rfl | exact Or.inl ⟨rfl, rfl, rfl⟩ | exact all_clean (by decide +kernel) | decide +kernel | rfl | exact fun _ _ h => absurd h List.not_mem_nil | exact fun _ h => absurd h List.not_mem_nil
  · refine ⟨wSealedPagesAreCheckedS, 4092, 4, (4092) / 4096, (wSealedPagesAreCheckedS).winAddr (((4092) / 4096) * 4096), (okGet ((wSealedPagesAreCheckedS).checkAddr .host false false ((wSealedPagesAreCheckedS).winAddr (((4092) / 4096) * 4096)) 4096) (by decide +kernel)).1, (okGet ((wSealedPagesAreCheckedS).checkAddr .host false false ((wSealedPagesAreCheckedS).winAddr (((4092) / 4096) * 4096)) 4096) (by decide +kernel)).2, Option.get ((wSealedPagesAreCheckedS).pageRecord ((4092) / 4096)) (by decide +kernel), gcmXor (numOf (wSealedPagesAreCheckedS).sec.env) ([2, 0, 0, 0] ++ bytesOf 8 ((wSealedPagesAreCheckedS).sec.dctr + 1)) (((wSealedPagesAreCheckedS).objRead ((okGet ((wSealedPagesAreCheckedS).checkAddr .host false false ((wSealedPagesAreCheckedS).winAddr (((4092) / 4096) * 4096)) 4096) (by decide +kernel)).1) ((okGet ((wSealedPagesAreCheckedS).checkAddr .host false false ((wSealedPagesAreCheckedS).winAddr (((4092) / 4096) * 4096)) 4096) (by decide +kernel)).2) 4096).1.map Prod.fst), (((wSealedPagesAreCheckedS).objRead ((okGet ((wSealedPagesAreCheckedS).checkAddr .host false false ((wSealedPagesAreCheckedS).winAddr (((4092) / 4096) * 4096)) 4096) (by decide +kernel)).1) ((okGet ((wSealedPagesAreCheckedS).checkAddr .host false false ((wSealedPagesAreCheckedS).winAddr (((4092) / 4096) * 4096)) 4096) (by decide +kernel)).2) 4096).1.any Prod.snd), ?_⟩
    and_intros <;> first | with_reducible rfl | exact Or.inl ⟨rfl, rfl, rfl⟩ | exact all_clean (by decide +kernel) | decide +kernel | rfl | exact fun _ _ h => absurd h List.not_mem_nil | exact fun _ h => absurd h List.not_mem_nil
  · refine ⟨{ wSealedPagesAreCheckedS with sec := { owner := some 0, rpages := [{ page := 0, data := List.replicate 4096 0 }] } }, 4092, 4, { page := 0, data := List.replicate 4096 0 }, ?_⟩
    and_intros <;> first | with_reducible rfl | exact Or.inl ⟨rfl, rfl, rfl⟩ | exact all_clean (by decide +kernel) | decide +kernel | rfl | exact fun _ _ h => absurd h List.not_mem_nil | exact fun _ h => absurd h List.not_mem_nil
  · refine ⟨{ wSealedPagesAreCheckedS with sec := {} }, 4092, 4, 1, ?_⟩
    and_intros <;> first | with_reducible rfl | exact Or.inl ⟨rfl, rfl, rfl⟩ | exact all_clean (by decide +kernel) | decide +kernel | rfl | exact fun _ _ h => absurd h List.not_mem_nil | exact fun _ h => absurd h List.not_mem_nil

theorem witness_SecurityRequestsAreAnswered :
    (∃ (s : State) (tr : Nat) (l : List Nat), 0 ∈ l ∧ 1 ∈ l ∧ 2 ∈ l ∧ 3 ∈ l)
    ∧ (∃ (s : State) (tr : Nat) (l : List Nat) (i : Nat), i < 4 ∧ i ∉ l)
    ∧ (∃ (s : State) (tr i : Nat) (nonce b : List Byte), (i = 0 ∧ b = [7]) ∨ (1 ≤ i ∧ i ≤ 7 ∧ b = s.measValue i) ∨ (i = 0xFF ∧ b = s.measValue 1 ++ s.measValue 2 ++ s.measValue 3 ++ s.measValue 4 ++ s.measValue 5 ++ s.measValue 6 ++ s.measValue 7))
    ∧ (∃ (s : State) (tr i : Nat) (nonce : List Byte), 7 < i ∧ i ≠ 0xFF)
    ∧ (∃ (s : State) (n : Nat) (x : Spdm), afind s.sec.sess n = some x ∧ x.est = true)
    ∧ (∃ (s : State) (n : Nat) (x : Spdm), afind s.sec.sess n = some x ∧ x.est = true ∧ s.sec.owner = some n) := by
  refine ⟨?_, ?_, ?_, ?_, ?_, ?_⟩
  · refine ⟨tS tC, 0, [0, 1, 2, 3], ?_⟩
    and_intros <;> first | with_reducible rfl | exact Or.inl ⟨rfl, rfl, rfl⟩ | exact all_clean (by decide +kernel) | decide +kernel | rfl | exact fun _ _ h => absurd h List.not_mem_nil | exact fun _ h => absurd h List.not_mem_nil
  · refine ⟨tS tC, 0, [0, 1, 2], 3, ?_⟩
    and_intros <;> first | with_reducible rfl | exact Or.inl ⟨rfl, rfl, rfl⟩ | exact all_clean (by decide +kernel) | decide +kernel | rfl | exact fun _ _ h => absurd h List.not_mem_nil | exact fun _ h => absurd h List.not_mem_nil
  · refine ⟨tS tC, 0, 7, [], State.measValue (tS tC) 7, ?_⟩
    exact Or.inr (Or.inl ⟨by decide, by decide, rfl⟩)
  · refine ⟨tS tC, 0, 0xFE, [], ?_⟩
    and_intros <;> first | with_reducible rfl | exact Or.inl ⟨rfl, rfl, rfl⟩ | exact all_clean (by decide +kernel) | decide +kernel | rfl | exact fun _ _ h => absurd h List.not_mem_nil | exact fun _ h => absurd h List.not_mem_nil
  · refine ⟨{ tS tC with sec := { sess := [(3, { tr := 1, est := true })] } }, 3, { tr := 1, est := true }, ?_⟩
    and_intros <;> first | with_reducible rfl | exact Or.inl ⟨rfl, rfl, rfl⟩ | exact all_clean (by decide +kernel) | decide +kernel | rfl | exact fun _ _ h => absurd h List.not_mem_nil | exact fun _ h => absurd h List.not_mem_nil
  · refine ⟨{ tS tC with sec := { sess := [(3, { tr := 1, est := true })], owner := some 3 } }, 3, { tr := 1, est := true }, ?_⟩
    and_intros <;> first | with_reducible rfl | exact Or.inl ⟨rfl, rfl, rfl⟩ | exact all_clean (by decide +kernel) | decide +kernel | rfl | exact fun _ _ h => absurd h List.not_mem_nil | exact fun _ h => absurd h List.not_mem_nil

theorem witness_SessionsOpenAndEnd :
    (∃ (s : State) (tr : Nat) (d : List Byte), (∃ i < 4, afind s.sec.sess i = none))
    ∧ (∃ (s : State) (tr : Nat) (d : List Byte), (∀ i < 4, afind s.sec.sess i ≠ none))
    ∧ (∃ (s : State) (n : Nat) (x : Spdm), afind s.sec.sess n = some x ∧ x.est = false)
    ∧ (∃ (s : State) (n : Nat) (x : Spdm), afind s.sec.sess n = some x ∧ x.est = false)
    ∧ (∃ (s : State) (n : Nat) (x : Spdm), afind s.sec.sess n = some x ∧ x.est = true)
    ∧ (∃ (s : State) (n : Nat) (x : Spdm) (d : List Byte), afind s.sec.sess n = some x ∧ x.est = true)
    ∧ (∃ (s : State) (n : Nat) (x : Spdm), afind s.sec.sess n = some x ∧ x.est = true)
    ∧ (∃ (s : State) (n : Nat) (x : Spdm) (d : List Byte), afind s.sec.sess n = some x ∧ x.est = false) := by
  refine ⟨?_, ?_, ?_, ?_, ?_, ?_, ?_, ?_⟩
  · refine ⟨{ tS tC with sec := { sess := [(0, { tr := 0 }), (1, { tr := 0 }), (2, { tr := 0 })] } }, 1, [1], ?_⟩
    and_intros <;> first | with_reducible rfl | exact Or.inl ⟨rfl, rfl, rfl⟩ | exact all_clean (by decide +kernel) | decide +kernel | rfl | exact fun _ _ h => absurd h List.not_mem_nil | exact fun _ h => absurd h List.not_mem_nil
  · refine ⟨{ tS tC with sec := { sess := [(0, { tr := 0 }), (1, { tr := 0 }), (2, { tr := 0 }), (3, { tr := 0 })] } }, 1, [1], ?_⟩
    and_intros <;> first | with_reducible rfl | exact Or.inl ⟨rfl, rfl, rfl⟩ | exact all_clean (by decide +kernel) | decide +kernel | rfl | exact fun _ _ h => absurd h List.not_mem_nil | exact fun _ h => absurd h List.not_mem_nil
  · refine ⟨{ tS tC with sec := { sess := [(3, { tr := 1 })] } }, 3, { tr := 1 }, ?_⟩
    and_intros <;> first | with_reducible rfl | exact Or.inl ⟨rfl, rfl, rfl⟩ | exact all_clean (by decide +kernel) | decide +kernel | rfl | exact fun _ _ h => absurd h List.not_mem_nil | exact fun _ h => absurd h List.not_mem_nil
  · refine ⟨{ tS tC with sec := { sess := [(3, { tr := 1 })] } }, 3, { tr := 1 }, ?_⟩
    and_intros <;> first | with_reducible rfl | exact Or.inl ⟨rfl, rfl, rfl⟩ | exact all_clean (by decide +kernel) | decide +kernel | rfl | exact fun _ _ h => absurd h List.not_mem_nil | exact fun _ h => absurd h List.not_mem_nil
  · refine ⟨{ tS tC with sec := { sess := [(3, { tr := 1, est := true })] } }, 3, { tr := 1, est := true }, ?_⟩
    and_intros <;> first | with_reducible rfl | exact Or.inl ⟨rfl, rfl, rfl⟩ | exact all_clean (by decide +kernel) | decide +kernel | rfl | exact fun _ _ h => absurd h List.not_mem_nil | exact fun _ h => absurd h List.not_mem_nil
  · refine ⟨{ tS tC with sec := { sess := [(3, { tr := 1, est := true })] } }, 3, { tr := 1, est := true }, [1], ?_⟩
    and_intros <;> first | with_reducible rfl | exact Or.inl ⟨rfl, rfl, rfl⟩ | exact all_clean (by decide +kernel) | decide +kernel | rfl | exact fun _ _ h => absurd h List.not_mem_nil | exact fun _ h => absurd h List.not_mem_nil
  · refine ⟨{ tS tC with sec := { sess := [(3, { tr := 1, est := true })] } }, 3, { tr := 1, est := true }, ?_⟩
    and_intros <;> first | with_reducible rfl | exact Or.inl ⟨rfl, rfl, rfl⟩ | exact all_clean (by decide +kernel) | decide +kernel | rfl | exact fun _ _ h => absurd h List.not_mem_nil | exact fun _ h => absurd h List.not_mem_nil
  · refine ⟨{ tS tC with sec := { sess := [(3, { tr := 1 })] } }, 3, { tr := 1 }, [1], ?_⟩
    and_intros <;> first | with_reducible rfl | exact Or.inl ⟨rfl, rfl, rfl⟩ | exact all_clean (by decide +kernel) | decide +kernel | rfl | exact fun _ _ h => absurd h List.not_mem_nil | exact fun _ h => absurd h List.not_mem_nil

def wOwnersSealAndReleaseS : State := { tS tC with sec := { sess := [(3, { tr := 1, est := true })], owner := some 3 } }
theorem witness_OwnersSealAndRelease :
    (∃ (s : State) (n : Nat) (x : Spdm) (pk sig : List Byte), afind s.sec.sess n = some x ∧ x.est = true ∧ pk.length = 1312 ∧ sig.length = 2420 ∧ (s.sec.ownerKey = none ∨ s.sec.ownerKey = some pk))
    ∧ (∃ (s : State) (n : Nat) (x : Spdm) (pk sig : List Byte), afind s.sec.sess n = some x ∧ x.est = true ∧ (pk.length ≠ 1312 ∨ sig.length ≠ 2420 ∨ Config.verify 1 pk x.th sig = false ∨ ∃ k, s.sec.ownerKey = some k ∧ k ≠ pk))
    ∧ (∃ (s : State) (n : Nat) (x : Spdm), afind s.sec.sess n = some x ∧ x.est = true ∧ s.sealed_ = false)
    ∧ (∃ (s : State) (n : Nat) (x : Spdm), afind s.sec.sess n = some x ∧ x.est = true ∧ s.sec.owner = some n)
    ∧ (∃ (s : State) (m : Nat), s.MemWf ∧ s.sec.scrub = some m) := by
  refine ⟨?_, ?_, ?_, ?_, ?_⟩
  · refine ⟨wOwnersSealAndReleaseS, 3, { tr := 1, est := true }, List.replicate 1312 0, List.replicate 2420 0, ?_⟩
    and_intros <;> first | with_reducible rfl | exact Or.inl ⟨rfl, rfl, rfl⟩ | exact all_clean (by decide +kernel) | decide +kernel | rfl | exact fun _ _ h => absurd h List.not_mem_nil | exact fun _ h => absurd h List.not_mem_nil
  · refine ⟨wOwnersSealAndReleaseS, 3, { tr := 1, est := true }, [], [], ?_⟩
    exact ⟨by decide +kernel, by decide +kernel, Or.inl (by decide +kernel)⟩
  · refine ⟨wOwnersSealAndReleaseS, 3, { tr := 1, est := true }, ?_⟩
    and_intros <;> first | with_reducible rfl | exact Or.inl ⟨rfl, rfl, rfl⟩ | exact all_clean (by decide +kernel) | decide +kernel | rfl | exact fun _ _ h => absurd h List.not_mem_nil | exact fun _ h => absurd h List.not_mem_nil
  · refine ⟨{ wOwnersSealAndReleaseS with sealed_ := true }, 3, { tr := 1, est := true }, ?_⟩
    and_intros <;> first | with_reducible rfl | exact Or.inl ⟨rfl, rfl, rfl⟩ | exact all_clean (by decide +kernel) | decide +kernel | rfl | exact fun _ _ h => absurd h List.not_mem_nil | exact fun _ h => absurd h List.not_mem_nil
  · refine ⟨{ wOwnersSealAndReleaseS with sec := { scrub := some 0 } }, 0, ?_⟩
    simp only [State.MemWf]; and_intros <;> first | with_reducible rfl | exact Or.inl ⟨rfl, rfl, rfl⟩ | exact all_clean (by decide +kernel) | decide +kernel | rfl | exact fun _ _ h => absurd h List.not_mem_nil | exact fun _ h => absurd h List.not_mem_nil

def wUpdatesCheckThenWriteS : State := { tS tC with sec := { mbxBusy := true }, regs := [(0x600030, 1), (0x600040, 2592)] }
theorem witness_UpdatesCheckThenWrite :
    (∃ (s : State) (d : List Byte), s.mbxRuns 1 = true ∧ (∀ x ∈ s.sec.updating, x.2 ≠ some mbxWaits) ∧ 2592 ≤ (d.take (s.mbxReg 0x40)).length ∧ (d.take (s.mbxReg 0x40)).length ≤ 61440 ∧ afind s.sec.updating 5 = none)
    ∧ (∃ (s : State) (d : List Byte), s.mbxRuns 1 = true ∧ (∀ x ∈ s.sec.updating, x.2 ≠ some mbxWaits) ∧ 2592 ≤ (d.take (s.mbxReg 0x40)).length ∧ (d.take (s.mbxReg 0x40)).length ≤ 61440 ∧ afind s.sec.updating 5 = none ∧ s.sec.checkImage 5 (d.take (s.mbxReg 0x40)) ≠ 0)
    ∧ (∃ (s : State) (comp : Nat) (d : List Byte), 2 ≤ comp ∧ comp ≤ 5 ∧ d.length ≤ slotSize comp - 4096 ∧ afind s.sec.updating comp = none)
    ∧ (∃ (s : State) (comp : Nat) (d : List Byte), 2 ≤ comp ∧ comp ≤ 5 ∧ d.length ≤ slotSize comp - 4096 ∧ afind s.sec.updating comp ≠ none)
    ∧ (∃ (s : State), s.mbxRuns 2 = true ∧ (∀ j ∈ s.flashQ, ∀ l, j.kind ≠ .rollback l) ∧ s.sec.recovery = false ∧ s.mbxReg 0x34 < 16)
    ∧ (∃ (s : State) (d : List Byte), s.mbxRuns 3 = true ∧ (d.take (s.mbxReg 0x40)).length = 2592 ∧ s.sealed_ = false ∧ s.sec.recovery = false)
    ∧ (∃ (s : State) (d : List Byte), s.mbxRuns 3 = true ∧ (d.take (s.mbxReg 0x40)).length = 2592 ∧ (s.sealed_ = true ∨ s.sec.recovery = true)) := by
  refine ⟨?_, ?_, ?_, ?_, ?_, ?_, ?_⟩
  · refine ⟨wUpdatesCheckThenWriteS, List.replicate 2592 0, ?_⟩
    and_intros <;> first | with_reducible rfl | exact Or.inl ⟨rfl, rfl, rfl⟩ | exact all_clean (by decide +kernel) | decide +kernel | rfl | exact fun _ _ h => absurd h List.not_mem_nil | exact fun _ h => absurd h List.not_mem_nil
  · refine ⟨wUpdatesCheckThenWriteS, List.replicate 2592 0, ?_⟩
    and_intros <;> first | with_reducible rfl | exact Or.inl ⟨rfl, rfl, rfl⟩ | exact all_clean (by decide +kernel) | decide +kernel | rfl | exact fun _ _ h => absurd h List.not_mem_nil | exact fun _ h => absurd h List.not_mem_nil
  · refine ⟨wUpdatesCheckThenWriteS, 5, [], ?_⟩
    and_intros <;> first | with_reducible rfl | exact Or.inl ⟨rfl, rfl, rfl⟩ | exact all_clean (by decide +kernel) | decide +kernel | rfl | exact fun _ _ h => absurd h List.not_mem_nil | exact fun _ h => absurd h List.not_mem_nil
  · refine ⟨{ wUpdatesCheckThenWriteS with sec := { updating := [(5, none)] } }, 5, [], ?_⟩
    and_intros <;> first | with_reducible rfl | exact Or.inl ⟨rfl, rfl, rfl⟩ | exact all_clean (by decide +kernel) | decide +kernel | rfl | exact fun _ _ h => absurd h List.not_mem_nil | exact fun _ h => absurd h List.not_mem_nil
  · refine ⟨{ wUpdatesCheckThenWriteS with regs := [(0x600030, 2), (0x600034, 15)] }, ?_⟩
    and_intros <;> first | with_reducible rfl | exact Or.inl ⟨rfl, rfl, rfl⟩ | exact all_clean (by decide +kernel) | decide +kernel | rfl | exact fun _ _ h => absurd h List.not_mem_nil | exact fun _ h => absurd h List.not_mem_nil
  · refine ⟨{ wUpdatesCheckThenWriteS with regs := [(0x600030, 3), (0x600040, 2592)] }, List.replicate 2592 0, ?_⟩
    and_intros <;> first | with_reducible rfl | exact Or.inl ⟨rfl, rfl, rfl⟩ | exact all_clean (by decide +kernel) | decide +kernel | rfl | exact fun _ _ h => absurd h List.not_mem_nil | exact fun _ h => absurd h List.not_mem_nil
  · refine ⟨{ wUpdatesCheckThenWriteS with regs := [(0x600030, 3), (0x600040, 2592)], sealed_ := true }, List.replicate 2592 0, ?_⟩
    and_intros <;> first | with_reducible rfl | exact Or.inl ⟨rfl, rfl, rfl⟩ | exact all_clean (by decide +kernel) | decide +kernel | rfl | exact fun _ _ h => absurd h List.not_mem_nil | exact fun _ h => absurd h List.not_mem_nil

theorem witness_ManagementInterfacesAct :
    (∃ (s : State) (up : Bool), s.powered = true)
    ∧ (∃ (s : State) (bus code a : Nat), s.powered = true)
    ∧ (∃ (s : State) (a : Nat), s.powered = true)
    ∧ (∃ (s : State) (n : Nat), s.powered = true ∧ n < 64)
    ∧ (∃ (s : State) (n : Nat), s.powered = true ∧ 98 ≤ n)
    ∧ (∃ (s : State) (dr : List Bool), dr.length = 32)
    ∧ (∃ (s : State) (ir : Nat) (dr : List Bool), 8 ≤ ir ∧ s.sealed_ = true)
    ∧ (∃ (s : State) (ir : Nat) (dr : List Bool), ir ∈ [0, 1, 5, 6]) := by
  refine ⟨?_, ?_, ?_, ?_, ?_, ?_, ?_, ?_⟩
  · refine ⟨tS tC, false, ?_⟩
    and_intros <;> first | with_reducible rfl | exact Or.inl ⟨rfl, rfl, rfl⟩ | exact all_clean (by decide +kernel) | decide +kernel | rfl | exact fun _ _ h => absurd h List.not_mem_nil | exact fun _ h => absurd h List.not_mem_nil
  · refine ⟨tS tC, 1, 2, 0x55, ?_⟩
    and_intros <;> first | with_reducible rfl | exact Or.inl ⟨rfl, rfl, rfl⟩ | exact all_clean (by decide +kernel) | decide +kernel | rfl | exact fun _ _ h => absurd h List.not_mem_nil | exact fun _ h => absurd h List.not_mem_nil
  · refine ⟨tS tC, 127, ?_⟩
    and_intros <;> first | with_reducible rfl | exact Or.inl ⟨rfl, rfl, rfl⟩ | exact all_clean (by decide +kernel) | decide +kernel | rfl | exact fun _ _ h => absurd h List.not_mem_nil | exact fun _ h => absurd h List.not_mem_nil
  · refine ⟨tS tC, 63, ?_⟩
    and_intros <;> first | with_reducible rfl | exact Or.inl ⟨rfl, rfl, rfl⟩ | exact all_clean (by decide +kernel) | decide +kernel | rfl | exact fun _ _ h => absurd h List.not_mem_nil | exact fun _ h => absurd h List.not_mem_nil
  · refine ⟨tS tC, 98, ?_⟩
    and_intros <;> first | with_reducible rfl | exact Or.inl ⟨rfl, rfl, rfl⟩ | exact all_clean (by decide +kernel) | decide +kernel | rfl | exact fun _ _ h => absurd h List.not_mem_nil | exact fun _ h => absurd h List.not_mem_nil
  · refine ⟨tS tC, List.replicate 32 true, ?_⟩
    and_intros <;> first | with_reducible rfl | exact Or.inl ⟨rfl, rfl, rfl⟩ | exact all_clean (by decide +kernel) | decide +kernel | rfl | exact fun _ _ h => absurd h List.not_mem_nil | exact fun _ h => absurd h List.not_mem_nil
  · refine ⟨{ tS tC with sealed_ := true }, 8, [], ?_⟩
    and_intros <;> first | with_reducible rfl | exact Or.inl ⟨rfl, rfl, rfl⟩ | exact all_clean (by decide +kernel) | decide +kernel | rfl | exact fun _ _ h => absurd h List.not_mem_nil | exact fun _ h => absurd h List.not_mem_nil
  · refine ⟨tS tC, 6, [true], ?_⟩
    and_intros <;> first | with_reducible rfl | exact Or.inl ⟨rfl, rfl, rfl⟩ | exact all_clean (by decide +kernel) | decide +kernel | rfl | exact fun _ _ h => absurd h List.not_mem_nil | exact fun _ h => absurd h List.not_mem_nil

theorem witness_RegisterWritesTakeEffect :
    (∃ (s : State) (o : Nat) (v : BitVec 64), s.powered = true ∧ o % 8 = 0 ∧ o + 8 ≤ 0x4000000)
    ∧ (∃ (s : State) (o w : Nat) (v : BitVec 64), s.powered = true ∧ (o % 4 ≠ 0 ∨ (w ≠ 4 ∧ w ≠ 8) ∨ 0x4000000 ≤ o))
    ∧ (∃ (s : State) (o : Nat) (m : W32) (v : BitVec 64), s.powered = true ∧ ((o = 0x8010 ∧ m = 0xF) ∨ ∃ i, i < 16 ∧ ((o = 0x200500 + 8 * i ∧ m = 0xFFF00001) ∨ (o = 0x200504 + 8 * i ∧ m = 0xFFFFF))))
    ∧ (∃ (s : State) (v : BitVec 64), s.powered = true)
    ∧ (∃ (s : State) (v : BitVec 64), s.viewOn = false)
    ∧ (∃ (s : State) (o : Nat) (v : BitVec 64), s.powered = true ∧ o < 0x110000 ∧ o % 4 = 0)
    ∧ (∃ (s : State) (r : Nat) (v : BitVec 64), s.powered = true ∧ r < 17)
    ∧ (∃ (s : State) (k : Nat), s.powered = true ∧ k < 64) := by
  refine ⟨?_, ?_, ?_, ?_, ?_, ?_, ?_, ?_⟩
  · refine ⟨tS tC, 0x3FFFFF8, 1, ?_⟩
    and_intros <;> first | with_reducible rfl | exact Or.inl ⟨rfl, rfl, rfl⟩ | exact all_clean (by decide +kernel) | decide +kernel | rfl | exact fun _ _ h => absurd h List.not_mem_nil | exact fun _ h => absurd h List.not_mem_nil
  · refine ⟨tS tC, 0x4000000, 4, 1, ?_⟩
    and_intros <;> first | with_reducible rfl | exact Or.inl ⟨rfl, rfl, rfl⟩ | exact all_clean (by decide +kernel) | decide +kernel | rfl | exact fun _ _ h => absurd h List.not_mem_nil | exact fun _ h => absurd h List.not_mem_nil
  · refine ⟨tS tC, 0x200578, 0xFFF00001, 1, ?_⟩
    exact ⟨rfl, Or.inr ⟨15, by decide, Or.inl ⟨rfl, rfl⟩⟩⟩
  · refine ⟨tS tC, 1, ?_⟩
    and_intros <;> first | with_reducible rfl | exact Or.inl ⟨rfl, rfl, rfl⟩ | exact all_clean (by decide +kernel) | decide +kernel | rfl | exact fun _ _ h => absurd h List.not_mem_nil | exact fun _ h => absurd h List.not_mem_nil
  · refine ⟨tS tC, 1, ?_⟩
    and_intros <;> first | with_reducible rfl | exact Or.inl ⟨rfl, rfl, rfl⟩ | exact all_clean (by decide +kernel) | decide +kernel | rfl | exact fun _ _ h => absurd h List.not_mem_nil | exact fun _ h => absurd h List.not_mem_nil
  · refine ⟨tS tC, 0x10FFFC, 1, ?_⟩
    and_intros <;> first | with_reducible rfl | exact Or.inl ⟨rfl, rfl, rfl⟩ | exact all_clean (by decide +kernel) | decide +kernel | rfl | exact fun _ _ h => absurd h List.not_mem_nil | exact fun _ h => absurd h List.not_mem_nil
  · refine ⟨tS tC, 16, 1, ?_⟩
    and_intros <;> first | with_reducible rfl | exact Or.inl ⟨rfl, rfl, rfl⟩ | exact all_clean (by decide +kernel) | decide +kernel | rfl | exact fun _ _ h => absurd h List.not_mem_nil | exact fun _ h => absurd h List.not_mem_nil
  · refine ⟨tS tC, 63, ?_⟩
    and_intros <;> first | with_reducible rfl | exact Or.inl ⟨rfl, rfl, rfl⟩ | exact all_clean (by decide +kernel) | decide +kernel | rfl | exact fun _ _ h => absurd h List.not_mem_nil | exact fun _ h => absurd h List.not_mem_nil

def wControlProcessorsReachMemoryS : State := { tS tC with regs := [(0xC050, 0xE), (0xC054, 1), (0x101018, 0x20002), (0x102018, 0)] }
theorem witness_ControlProcessorsReachMemory :
    (∃ (s : State) (m : BitVec 32), s.powered = true)
    ∧ (∃ (s : State) (c : Nat), c < 4 ∧ s.powered = true ∧ s.cpRuns c = true ∧ aget 0 s.regs 0xC054 ≠ 0 ∧ bitAt (s.irqCfg 6) 17 = true ∧ bitsOf (s.irqCfg 6) 0 3 = 2 ∧ (s.irqSrc 6).masked = false ∧ bitsOf (s.irqLim 6) 0 12 = 0 ∧ (s.irqSrc 6).raw = false)
    ∧ (∃ (s : State) (c a : Nat) (d : List Byte), s.MemWf ∧ c < 4 ∧ s.powered = true ∧ s.cpRuns c = true ∧ 0x80000000 ≤ a ∧ a + d.length ≤ 0x80400000)
    ∧ (∃ (s : State) (c o n : Nat) (d : List Byte), c < 4 ∧ s.powered = true ∧ s.cpRuns c = true ∧ (d.length = 4 ∨ d.length = 8) ∧ o % d.length = 0 ∧ o + d.length ≤ 0x4000000)
    ∧ (∃ (s : State) (c a n : Nat) (w : Option (List Byte)), c < 4 ∧ s.powered = true ∧ s.cpRuns c = true ∧ (a < 0x40000000 ∨ (0x44000000 ≤ a ∧ a < 0x80000000) ∨ (0x80400000 < a ∧ a < 2 ^ 52) ∨ 2 ^ 53 ≤ a ∨ (2 ^ 52 ≤ a ∧ a < 2 ^ 53 ∧ s.findObj (a - 2 ^ 52) = none)))
    ∧ (∃ (s : State) (c a n : Nat) (w : Option (List Byte)), s.cpRuns c = false) := by
  refine ⟨?_, ?_, ?_, ?_, ?_, ?_⟩
  · refine ⟨tS tC, 0xE, ?_⟩
    and_intros <;> first | with_reducible rfl | exact Or.inl ⟨rfl, rfl, rfl⟩ | exact all_clean (by decide +kernel) | decide +kernel | rfl | exact fun _ _ h => absurd h List.not_mem_nil | exact fun _ h => absurd h List.not_mem_nil
  · refine ⟨wControlProcessorsReachMemoryS, 3, ?_⟩
    and_intros <;> first | with_reducible rfl | exact Or.inl ⟨rfl, rfl, rfl⟩ | exact all_clean (by decide +kernel) | decide +kernel | rfl | exact fun _ _ h => absurd h List.not_mem_nil | exact fun _ h => absurd h List.not_mem_nil
  · refine ⟨wControlProcessorsReachMemoryS, 3, 0x803FFFFC, [1, 2, 3, 4], ?_⟩
    simp only [State.MemWf]; and_intros <;> first | with_reducible rfl | exact Or.inl ⟨rfl, rfl, rfl⟩ | exact all_clean (by decide +kernel) | decide +kernel | rfl | exact fun _ _ h => absurd h List.not_mem_nil | exact fun _ h => absurd h List.not_mem_nil
  · refine ⟨wControlProcessorsReachMemoryS, 3, 0x3FFFFF8, 0, [1, 2, 3, 4, 5, 6, 7, 8], ?_⟩
    and_intros <;> first | with_reducible rfl | exact Or.inl ⟨rfl, rfl, rfl⟩ | exact all_clean (by decide +kernel) | decide +kernel | rfl | exact fun _ _ h => absurd h List.not_mem_nil | exact fun _ h => absurd h List.not_mem_nil
  · refine ⟨wControlProcessorsReachMemoryS, 3, 0x3FFFFFFF, 4, none, ?_⟩
    and_intros <;> first | with_reducible rfl | exact Or.inl ⟨rfl, rfl, rfl⟩ | exact all_clean (by decide +kernel) | decide +kernel | rfl | exact fun _ _ h => absurd h List.not_mem_nil | exact fun _ h => absurd h List.not_mem_nil
  · refine ⟨tS tC, 3, 0, 4, none, ?_⟩
    and_intros <;> first | with_reducible rfl | exact Or.inl ⟨rfl, rfl, rfl⟩ | exact all_clean (by decide +kernel) | decide +kernel | rfl | exact fun _ _ h => absurd h List.not_mem_nil | exact fun _ h => absurd h List.not_mem_nil

theorem witness_CountersClear :
    (∃ (s : State) (c p : Nat) (i : Instr) (lo hi : Nat), s.Answers c p ∧ ((i = .engCntClr c 0 ∧ lo = 0x2020 ∧ hi = 0x2080) ∨ (i = .engCntClr c 1 ∧ lo = 0x2120 ∧ hi = 0x2180) ∨ (i = .drnCntClr c ∧ lo = 0x2240 ∧ hi = 0x2254) ∨ (i = .seqCntClr c ∧ lo = 0x1300 ∧ hi = 0x1318) ∨ (i = .tpCntClr c ∧ lo = 0x2900 ∧ hi = 0x2918) ∨ (i = .strCntClr c ∧ lo = 0x3A00 ∧ hi = 0x3A9C) ∨ (i = .cerrCntClr c ∧ lo = 0x4040 ∧ hi = 0x4054)))
    ∧ (∃ (s : State) (c p : Nat), s.Answers c p)
    ∧ (∃ (s : State) (c p : Nat), s.Answers c p)
    ∧ (∃ (s : State) (p : Nat) (i : Instr) (lo hi : Nat), ((i = .smCntClr ∧ lo = 0x8080 ∧ hi = 0x809C) ∨ (i = .portCntClr p ∧ lo = portBase p + 0x40 ∧ hi = portBase p + 0x78) ∨ (i = .colCntClr ∧ lo = 0x340200 ∧ hi = 0x34022C) ∨ (i = .secCntClr ∧ lo = 0x600080 ∧ hi = 0x600094) ∨ (i = .pwrCntClr ∧ lo = 0x500080 ∧ hi = 0x500098))) := by
  refine ⟨?_, ?_, ?_, ?_⟩
  · refine ⟨tS tC, 0, 0, .engCntClr 0 0, 0x2020, 0x2080, ?_⟩
    simp only [State.Answers, State.Settled]; and_intros <;> first | with_reducible rfl | exact Or.inl ⟨rfl, rfl, rfl⟩ | exact all_clean (by decide +kernel) | decide +kernel | rfl | exact fun _ _ h => absurd h List.not_mem_nil | exact fun _ h => absurd h List.not_mem_nil
  · refine ⟨tS tC, 0, 0, ?_⟩
    simp only [State.Answers, State.Settled]; and_intros <;> first | with_reducible rfl | exact Or.inl ⟨rfl, rfl, rfl⟩ | exact all_clean (by decide +kernel) | decide +kernel | rfl | exact fun _ _ h => absurd h List.not_mem_nil | exact fun _ h => absurd h List.not_mem_nil
  · refine ⟨tS tC, 0, 0, ?_⟩
    simp only [State.Answers, State.Settled]; and_intros <;> first | with_reducible rfl | exact Or.inl ⟨rfl, rfl, rfl⟩ | exact all_clean (by decide +kernel) | decide +kernel | rfl | exact fun _ _ h => absurd h List.not_mem_nil | exact fun _ h => absurd h List.not_mem_nil
  · refine ⟨tS tC, 23, .smCntClr, 0x8080, 0x809C, ?_⟩
    and_intros <;> first | with_reducible rfl | exact Or.inl ⟨rfl, rfl, rfl⟩ | exact all_clean (by decide +kernel) | decide +kernel | rfl | exact fun _ _ h => absurd h List.not_mem_nil | exact fun _ h => absurd h List.not_mem_nil

theorem witness_StepRunsFront :
    (∃ (c : Instr) (s : State) (rest : List Instr), s.pending = c :: rest)
    ∧ (∃ (s : State), s.pending = []) := by
  refine ⟨?_, ?_⟩
  · refine ⟨.nop 0, { tS tC with pending := [.nop 0] }, [], ?_⟩
    and_intros <;> first | with_reducible rfl | exact Or.inl ⟨rfl, rfl, rfl⟩ | exact all_clean (by decide +kernel) | decide +kernel | rfl | exact fun _ _ h => absurd h List.not_mem_nil | exact fun _ h => absurd h List.not_mem_nil
  · refine ⟨tS tC, ?_⟩
    and_intros <;> first | with_reducible rfl | exact Or.inl ⟨rfl, rfl, rfl⟩ | exact all_clean (by decide +kernel) | decide +kernel | rfl | exact fun _ _ h => absurd h List.not_mem_nil | exact fun _ h => absurd h List.not_mem_nil

theorem witness_MemoriesKeepTheirForm :
    ∃ (s t : State), s.MemWf ∧ step s = .next t := by
  refine ⟨{ tS tC with pending := [.nop 0] }, tS tC, ?_⟩
  simp only [State.MemWf]; and_intros <;> first | with_reducible rfl | exact Or.inl ⟨rfl, rfl, rfl⟩ | exact all_clean (by decide +kernel) | decide +kernel | rfl | exact fun _ _ h => absurd h List.not_mem_nil | exact fun _ h => absurd h List.not_mem_nil

theorem witness_SealedModeEndsByScrub :
    ∃ (c : Instr) (s t : State), s.sealed_ = true ∧ exec c s = .next t := by
  refine ⟨.nop 0, { tS tC with sealed_ := true }, { tS tC with sealed_ := true }, ?_⟩
  and_intros <;> first | with_reducible rfl | exact Or.inl ⟨rfl, rfl, rfl⟩ | exact all_clean (by decide +kernel) | decide +kernel | rfl | exact fun _ _ h => absurd h List.not_mem_nil | exact fun _ h => absurd h List.not_mem_nil

theorem witness_LocalWritesReadBack :
    ∃ (s : State) (p sp a : Nat) (d : List Byte) (pz : Bool), s.MemWf ∧ sp < 2 ∧ a + d.length ≤ (if sp = 0 then 0x100000 else 0x800000) := by
  refine ⟨tS tC, 511, 1, 0x7FFFFF, [1], true, ?_⟩
  simp only [State.MemWf]; and_intros <;> first | with_reducible rfl | exact Or.inl ⟨rfl, rfl, rfl⟩ | exact all_clean (by decide +kernel) | decide +kernel | rfl | exact fun _ _ h => absurd h List.not_mem_nil | exact fun _ h => absurd h List.not_mem_nil

theorem witness_MuslinRoundTrips :
    ∃ (d : List Nat) (w : Nat), d.length = 4096 ∧ (∀ x ∈ d, x < 256) ∧ (w = 1 ∨ w = 2 ∨ w = 4) := by
  refine ⟨List.replicate 4096 255, 4, ?_⟩
  and_intros <;> first | with_reducible rfl | exact Or.inl ⟨rfl, rfl, rfl⟩ | exact all_clean (by decide +kernel) | decide +kernel | rfl | exact fun _ _ h => absurd h List.not_mem_nil | exact fun _ h => absurd h List.not_mem_nil

theorem witness_FeltSumsNeverOverflow :
    ∃ (w : Bool) (e : Nat) (l : List (List Fp)) (b : FeltBlk), l.length ≤ 128 ∧ (∀ v ∈ l, v.length = 64) ∧ b = (l.map fun v => feltQuantise v e w).foldl (feltAdd w) (feltZero e) := by
  refine ⟨true, 254, List.replicate 128 (List.replicate 64 (.fin true 1 100)), ((List.replicate 128 (List.replicate 64 (.fin true 1 100))).map fun v => feltQuantise v (254) (true)).foldl (feltAdd (true)) (feltZero (254)), ?_⟩
  and_intros <;> first | with_reducible rfl | exact Or.inl ⟨rfl, rfl, rfl⟩ | exact all_clean (by decide +kernel) | decide +kernel | rfl | exact fun _ _ h => absurd h List.not_mem_nil | exact fun _ h => absurd h List.not_mem_nil

theorem witness_AbsentUnitsReadZero :
    ∃ (s : State) (off : Nat) (v : BitVec 64), s.powered = true ∧ off % 4 = 0 ∧ ((∃ l o, l < 512 ∧ o < 0x10000 ∧ off = 0x1000000 + 0x10000 * l + o ∧ afind s.lmap l = none) ∨ (∃ n o, n < 48 ∧ o < 0x1000 ∧ off = 0x310000 + 0x1000 * n + o ∧ s.lport.length ≤ n) ∨ (∃ n o, n < 16 ∧ o < 0x1000 ∧ off = 0x420000 + 0x1000 * n + o ∧ s.lchan.length ≤ n) ∨ (∃ n o, n < 16 ∧ o < 0x1000 ∧ off = 0x430000 + 0x1000 * n + o ∧ s.lcodec.length ≤ n)) := by
  refine ⟨tS tC, 0x2FFFFFC, 1, ?_⟩
  exact ⟨rfl, rfl, Or.inl ⟨511, 0xFFFC, by decide, by decide, rfl, rfl⟩⟩

theorem witness_BarrierOverrunHalts :
    (∃ (s : State) (p b n : Nat) (r : HaltRec), (s.core p).seq.state ≠ .halted ∧ (s.core p).seq.state ≠ .frozen ∧ ((s.core p).bar b).dist < 32768 ∧ 32768 ≤ ((s.core p).bar b).dist + n)
    ∧ (∃ (s : State) (p b n : Nat) (r : HaltRec), ((s.core p).seq.state = .halted ∨ (s.core p).seq.state = .frozen) ∧ ((s.core p).bar b).dist < 32768 ∧ 32768 ≤ ((s.core p).bar b).dist + n)
    ∧ (∃ (s : State) (c p b n : Nat) (w : CWord) (k : Core), s.SeqReady c p 0x3 w k ∧ wbits w 67 5 = b ∧ wbits w 59 8 = n ∧ (k.bar b).dist < 32768 ∧ 32768 ≤ (k.bar b).dist + n)
    ∧ (∃ (s : State) (p b n : Nat) (r : HaltRec), ((s.core p).bar b).dist + n < 32768) := by
  refine ⟨?_, ?_, ?_, ?_⟩
  · refine ⟨tS { seq := { state := .running, bars := [(31, { count := 32767 })] } }, 0, 31, 1, {}, ?_⟩
    and_intros <;> first | with_reducible rfl | exact Or.inl ⟨rfl, rfl, rfl⟩ | exact all_clean (by decide +kernel) | decide +kernel | rfl | exact fun _ _ h => absurd h List.not_mem_nil | exact fun _ h => absurd h List.not_mem_nil
  · refine ⟨tS { seq := { state := .halted, bars := [(31, { count := 32767 })] } }, 0, 31, 1, {}, ?_⟩
    and_intros <;> first | with_reducible rfl | exact Or.inl ⟨rfl, rfl, rfl⟩ | exact all_clean (by decide +kernel) | decide +kernel | rfl | exact fun _ _ h => absurd h List.not_mem_nil | exact fun _ h => absurd h List.not_mem_nil
  · refine ⟨tS (tSeq 3 [(67, 31), (59, 1)] { seq := { state := .running, bars := [(31, { count := 32767 })] } }), 0, 0, 31, 1, tW 0 3 [(67, 31), (59, 1)], tSeq 3 [(67, 31), (59, 1)] { seq := { state := .running, bars := [(31, { count := 32767 })] } }, ?_⟩
    simp only [State.SeqReady, State.Answers, State.Settled]; and_intros <;> first | with_reducible rfl | exact Or.inl ⟨rfl, rfl, rfl⟩ | exact all_clean (by decide +kernel) | decide +kernel | rfl | exact fun _ _ h => absurd h List.not_mem_nil | exact fun _ h => absurd h List.not_mem_nil
  · refine ⟨tS { seq := { state := .running, bars := [(31, { count := 32766 })] } }, 0, 31, 1, {}, ?_⟩
    and_intros <;> first | with_reducible rfl | exact Or.inl ⟨rfl, rfl, rfl⟩ | exact all_clean (by decide +kernel) | decide +kernel | rfl | exact fun _ _ h => absurd h List.not_mem_nil | exact fun _ h => absurd h List.not_mem_nil

def wStagingIsDiscardedT : Totals := { step := 0, attempt := 0, drnNf := 0, drnSat := 0, updNf := 0, normNf := 0, collNf := 0, lossSum := 0, lossCount := 0, lossNf := 0, laccW := [0, 0, 0, 0], laccU := [0, 0, 0, 0], laccSat := List.replicate 8 false, late := false }
def wStagingIsDiscardedV : Verdict := { verdict := 3, totals := wStagingIsDiscardedT, lnsat := false, rUpdNf := false, rDrnNf := false, rSat := false, spike := false, loss := 0, ewma := 0, ewmaValid := false, stepsSeen := 0 }
theorem witness_StagingIsDiscarded :
    (∃ (s : State) (c p : Nat), s.Answers c p ∧ (s.core p).parked = true ∧ (s.core p).inCommit = false ∧ s.sec.recovery = false)
    ∧ (∃ (s : State) (r n p : Nat) (c : BitVec 512), s.HostCmd r 0x0B c ∧ cmdSet c = [n] ∧ s.phys n = some p ∧ (s.core p).pre.phase = .none ∧ (s.core p).seq.open_ = true ∧ (s.core p).inCommit = false ∧ ((s.core p).parked = true ∨ (s.core p).seq.state = .running))
    ∧ (∃ (s : State) (p : Nat) (c : Core) (v : Verdict) (u : SeqCur), (s.cores.map Prod.fst).Nodup ∧ (p, c) ∈ s.cores ∧ c.pre.saved = none ∧ c.active = true ∧ c.seq.open_ = true ∧ c.seq.step = v.totals.step ∧ c.seq.attempt = v.totals.attempt ∧ c.seq.cur = some u ∧ u.sent = true ∧ u.outcome = none ∧ c.pre.contCommit = false ∧ (v.verdict = 2 ∨ v.verdict = 3)) := by
  refine ⟨?_, ?_, ?_⟩
  · refine ⟨tS { tZ with upd := { stg := 3 } }, 0, 0, ?_⟩
    simp only [State.Answers, State.Settled]; and_intros <;> first | with_reducible rfl | exact Or.inl ⟨rfl, rfl, rfl⟩ | exact all_clean (by decide +kernel) | decide +kernel | rfl | exact fun _ _ h => absurd h List.not_mem_nil | exact fun _ h => absurd h List.not_mem_nil
  · refine ⟨tR 0 (tK [(0, 11), (18, 1)]) false (tS { seq := { state := .running, open_ := true }, upd := { stg := 3 } }), 0, 0, 0, tK [(0, 11), (18, 1)], ?_⟩
    simp only [State.HostCmd]; and_intros <;> first | with_reducible rfl | exact Or.inl ⟨rfl, rfl, rfl⟩ | exact all_clean (by decide +kernel) | decide +kernel | rfl | exact fun _ _ h => absurd h List.not_mem_nil | exact fun _ h => absurd h List.not_mem_nil
  · refine ⟨tS { seq := { state := .running, open_ := true, cur := some { word := tW 0 0xD [], pc := 0, sent := true } }, upd := { stg := 3 } }, 0, { seq := { state := .running, open_ := true, cur := some { word := tW 0 0xD [], pc := 0, sent := true } }, upd := { stg := 3 } }, wStagingIsDiscardedV, { word := tW 0 0xD [], pc := 0, sent := true }, ?_⟩
    and_intros <;> first | with_reducible rfl | exact Or.inl ⟨rfl, rfl, rfl⟩ | exact all_clean (by decide +kernel) | decide +kernel | rfl | exact fun _ _ h => absurd h List.not_mem_nil | exact fun _ h => absurd h List.not_mem_nil

/-! ### Ill-formed commands are refused, and the largest operand that fits is taken -/

/-- A control packet's header that is well formed. -/
def tHw : PktHdr := tH 0 0
/-- A collective header that is well formed. -/
def tCh : CollHdr := { cdesc := 255, inst := 255, attempt := 255, step := 255, phase := 3, w := 1, instHi := 31, nb := 29, digest := 65535, first := 2 ^ 28 - 1 }

theorem test_wf_core_operands :
    (Instr.nop 511).wf = true ∧ (Instr.nop 512).wf = false ∧ (Instr.wordStart 0 10).wf = true ∧ (Instr.wordStart 0 11).wf = false
    ∧ (Instr.wordStart 0 0).wf = false ∧ (Instr.mmaWl 0 2).wf = false ∧ (Instr.drnTile 0 2).wf = false ∧ (Instr.slotMoveDone 0 1 7).wf = true
    ∧ (Instr.slotMoveDone 0 1 8).wf = false ∧ (Instr.dmaSegmentIssue 0 16).wf = false ∧ (Instr.dmaSegmentDone 0 24 false false).wf = false
    ∧ (Instr.poolStatCapture 0 16).wf = false ∧ (Instr.clusterRequest 64 0 0 0).wf = false ∧ (Instr.clusterRequest 63 10 0 0).wf = false
    ∧ (Instr.noAckTimeout 512).wf = false := by decide

theorem test_wf_control_operands :
    (Instr.claim 4).wf = false ∧ (Instr.irqHeoi 0).wf = false ∧ (Instr.irqHeoi 1024).wf = false ∧ (Instr.eoi 3 1024).wf = false
    ∧ (Instr.start 17).wf = false ∧ (Instr.sqTail 16 1024).wf = false ∧ (Instr.cqHead 16 1024).wf = false ∧ (Instr.frameEdge 4 true).wf = false
    ∧ (Instr.externalInput 14 true).wf = false ∧ (Instr.islandFlip 626).wf = false ∧ (Instr.prepareReceive 64 0).wf = false
    ∧ (Instr.prepareReceive 63 256).wf = false ∧ (Instr.lossNoticeReceive 64).wf = false ∧ (Instr.relayedCommandReceive 0 17 0 []).wf = false
    ∧ (Instr.cpMemoryAccess 0 (2 ^ 64) 4 none).wf = false ∧ (Instr.registerWrite 1 0 4 0).wf = false ∧ (Instr.registerWrite 0 0 2 0).wf = false
    ∧ (Instr.registerWrite 0 4 8 0).wf = false ∧ (Instr.registerWrite 0 4 4 0).wf = true ∧ (Instr.hostWindowRead (2 ^ 36) 4).wf = false
    ∧ (Instr.sealedPageRead 4095 2).wf = false ∧ (Instr.stage 17 []).wf = false := by decide

theorem test_wf_stage_list : (Instr.stage 0 (List.replicate 65536 (0, 0))).wf = false := by
  simp only [Instr.wf, List.length_replicate]; decide

theorem test_wf_link_operands :
    (Instr.retrain 24).wf = false ∧ (Instr.portTraining 23 16).wf = false ∧ (Instr.keyExchangeMessage 0 4 true true).wf = false
    ∧ (Instr.keyExchangeMessage 0 0 true true).wf = false ∧ (Instr.flitGroupReceive 0 4096 true false 0 false (List.replicate 10 0) 1).wf = false
    ∧ (Instr.flitGroupReceive 0 0 true true 4096 false (List.replicate 10 0) 1).wf = false ∧ (Instr.flitGroupReceive 0 0 true false 0 false [] 1).wf = false
    ∧ (Instr.flitGroupReceive 0 0 true false 0 false (List.replicate 10 256) 1).wf = false ∧ (Instr.nakReceive 0 4096).wf = false
    ∧ (Instr.laneErrorWindow 0 4 1).wf = false ∧ (Instr.refclkSerLoss 4).wf = false ∧ (Instr.gapNotice 16 0).wf = false
    ∧ (Instr.gapNotice 15 65536).wf = false ∧ (Instr.prunedClear 15 2 0).wf = false ∧ (Instr.voilePacket 0 tHw true 16 []).wf = false
    ∧ (Instr.writePacket 0 tHw true (List.replicate 4097 0)).wf = false ∧ (Instr.voilePacket 0 tHw true 0 (List.replicate 4097 0)).wf = false
    ∧ (Instr.hello 0 { rev := 2, feat := 0, dev := 256, port := 0, gid := 0, stepping := 0 }).wf = false
    ∧ (Instr.hello 0 { rev := 2, feat := 0, dev := 0, port := 32, gid := 0, stepping := 0 }).wf = false := by decide +kernel

theorem test_wf_headers :
    tHw.wf = true ∧ { tHw with typ := 16 }.wf = false ∧ { tHw with vc := 4 }.wf = false ∧ { tHw with cls := 2 }.wf = false
    ∧ { tHw with hops := 16 }.wf = false ∧ { tHw with cepoch := 16 }.wf = false ∧ { tHw with repoch := 256 }.wf = false
    ∧ { tHw with srcDev := 256 }.wf = false ∧ { tHw with dstDev := 256 }.wf = false ∧ { tHw with plen := 256 }.wf = false
    ∧ { tHw with lastB := 64 }.wf = false ∧ { tHw with srcCore := 1024 }.wf = false ∧ { tHw with dstCore := 1024 }.wf = false
    ∧ { tHw with addr := 2 ^ 52 }.wf = false ∧ { tHw with obj := 65536 }.wf = false ∧ { tHw with dbar := 32 }.wf = false
    ∧ { tHw with rhq := 8 }.wf = false ∧ { tHw with hepoch := 256 }.wf = false ∧ { tHw with mseq := 65536 }.wf = false
    ∧ { tHw with mgrp := 32 }.wf = false ∧ { tHw with route := 1024 }.wf = false
    ∧ tCh.wf = true ∧ { tCh with cdesc := 256 }.wf = false ∧ { tCh with inst := 256 }.wf = false ∧ { tCh with attempt := 256 }.wf = false
    ∧ { tCh with step := 256 }.wf = false ∧ { tCh with phase := 4 }.wf = false ∧ { tCh with w := 2 }.wf = false ∧ { tCh with instHi := 32 }.wf = false
    ∧ { tCh with nb := 30 }.wf = false ∧ { tCh with digest := 65536 }.wf = false ∧ { tCh with first := 2 ^ 28 }.wf = false := by decide

theorem test_wf_other_operands :
    (Instr.migrationGranuleDone 65536).wf = false ∧ (Instr.codecBlockWrite 0 0 4096 [0]).wf = false ∧ (Instr.patrolScrubPass 16 0 0).wf = false
    ∧ (Instr.collDeadline 256).wf = false ∧ (Instr.powerLoopEval 4096).wf = false ∧ (Instr.pmbusPoll 1024 false).wf = false
    ∧ (Instr.thermalSample [] false false).wf = false ∧ (Instr.thermalSample (List.replicate 64 256) false false).wf = false
    ∧ (Instr.memoryTrainingDone []).wf = false ∧ (Instr.getDigests 0 8).wf = false ∧ (Instr.challenge 0 0 []).wf = false
    ∧ (Instr.challenge 0 8 (List.replicate 32 0)).wf = false ∧ (Instr.getMeasurements 0 8 []).wf = false ∧ (Instr.finish 4 true).wf = false
    ∧ (Instr.ownerClaim 0 [] (List.replicate 2420 0)).wf = false ∧ (Instr.ownerClaim 0 (List.replicate 1312 0) []).wf = false
    ∧ (Instr.pldmFirmwareUpdate 1 []).wf = false ∧ (Instr.pldmFirmwareUpdate 6 []).wf = false ∧ (Instr.chipError 0 0).wf = false
    ∧ (Instr.chipError 6 0).wf = false ∧ (Instr.mctpControlMessage 3 0 none).wf = false ∧ (Instr.dynamicAddressAssignment 128).wf = false
    ∧ (Instr.pruneWaitExpiry 16).wf = false ∧ (Instr.rejoinRequest 0 64).wf = false ∧ (Instr.sealedPageWrite (2 ^ 36) 0).wf = false := by decide +kernel

/-! ### The spec's worked examples -/

/-- 01, example after R35: on an FJ2-480 physical core 0x0D3 carries logical core 198. -/
theorem test_r31_spares : State.reset.logical 0x0D3 = some 198 ∧ State.reset.phys 198 = some 0x0D3 := by decide +kernel

/-- 02, worked tile: the exponent AUTO chooses, cell (0,0) with its saturation, and cell (1,0). -/
theorem test_r51_worked_tile :
    autoExp [([decodeElem 0 0x3FC0], [decodeElem 0 0x4040])] [] = some (-38)
    ∧ ({} : Cell).mac (-38) (decodeElem 0 0x3FC0) (decodeElem 0 0x4040) = ({ acc := 0x12000000000, nf := false }, false)
    ∧ (({} : Cell).macs (-38) [(decodeElem 0 0x3FC0, decodeElem 0 0x4040), (decodeElem 0 0x4580, decodeElem 0 0x4980)])
        = ({ acc := 0x7FFFFFFFFFFFFFFF, nf := false }, true)
    ∧ (({} : Cell).macs (-38) [(decodeElem 0 0x3781, decodeElem 0 0x3700), (decodeElem 0 0x3782, decodeElem 0 0x3700), (decodeElem 0 0x3783, decodeElem 0 0x3700)])
        = ({ acc := 97, nf := false }, false) := by decide +kernel

/-- 02, example after R65: keyed rounding of 1.00390625 + 2^−12 to BF16. -/
theorem test_r63_keyed_rounding :
    (roundKeyed 0 false 0x9000 (f32 0x3F808800)).code = 0x3F81 ∧ (roundKeyed 0 false 0x7000 (f32 0x3F808800)).code = 0x3F80 := by decide +kernel

/-- 02, example after R74: a Felt-16 sum of 1.5 and 0.75, with 2.5 too large at E = 128, and the redo at 129. -/
theorem test_r70_felt_sum :
    let q := fun e (x : W32) => feltQuantise [f32 x] e true
    (q 128 0x3FC00000).n.getD 0 0 = 192 ∧ (q 128 0x3F400000).n.getD 0 0 = 96
    ∧ (feltDecode true 1 (feltAdd true (q 128 0x3FC00000) (q 128 0x3F400000))).getD 0 0 = 0x40100000
    ∧ (q 128 0x40200000).n.getD 0 0 = 255 ∧ (q 128 0x40200000).ovf = true ∧ (q 128 0x40200000).extra = 1
    ∧ (feltDecode true 1 (feltAdd true (feltAdd true (q 129 0x3FC00000) (q 129 0x3F400000)) (q 129 0x40200000))).getD 0 0 = 0x40980000 := by
  decide +kernel

/-- 04, example before R124: two columns of the hard-swish gradient drain, and the derivative that is not exactly 0. -/
theorem test_r112_drain_gradient :
    let d : Drain := { param := [0x3E000000, 0, 0, 0, 0, 0] }
    let w := tW 5 1 [(69, 1), (65, 3)]
    (convert 0 false (f32 (d.element w 0 0x3FC00000 0x3F400000).2)).code = 0x3DC0
    ∧ (convert 0 false (f32 (d.element w 0 0xC0600000 0xBF200000).2)).code = 0x8000
    ∧ (convert 0 false (f32 (d.element w 0 0xBFC00000 0x40000000).2)).code = 0xB180 := by decide +kernel

/-- 06, example after R206: the fields of the encoded engine word, and of the LOOP word. -/
theorem test_r193_engine_word :
    let w : CWord := 0x2301003F010000003F60200000000000
    let l : CWord := 0x20050000000000000000400000500000
    checkWord w false false = none ∧ wUnit w = 3 ∧ wOp w = 1 ∧ wRep w = 63 ∧ wIna w = 0 ∧ wInb w = 1 ∧ eTexp w = -20 ∧ eStart w = 0 ∧ eFin w = 1
    ∧ checkWord l false false = none ∧ wOp l = 5 ∧ wbits l 44 24 = 4 ∧ wbits l 20 24 = 5 := by decide +kernel

/-- 08, example after R243: an AdamW element, and the weight written for the random value named. -/
theorem test_r238_adamw :
    let h : HpSet := { lr := 0x3A800000, b1 := 0x3F600000, b2 := 0x3F7C0000, eps := 0x35800000, wd := 0x38800000, mu := 0 }
    optStep 2 h none 0x3E800000 0x3F800000 0x3E800000 0x3D800000 = ⟨0x3E800000, 0x3F7FFFC0, 0x3E800000, 0x3D800000⟩
    ∧ (roundKeyed 0 false 0x3B02 (f32 0x3F7FBC00)).code = 0x3F7F := by decide +kernel

/-- 10, example before R317: the chunks of a coded block of 2,048 BF16 values, and the payload length they give. -/
theorem test_r314_muslin_chunks :
    let c := codeChunk ((List.range 64).map fun i => i % 2 * 0x7F)
    let d := codeChunk ((List.range 64).map fun i => 0x90 + i % 8)
    let h := codeChunk (List.replicate 64 0x3F)
    (c.head?, c.length) = (some 0x17, 58) ∧ (d.take 2, d.length) = ([0x13, 0x90], 26) ∧ h = [0x01, 0x3F]
    ∧ 31 * c.length + d.length + 32 * h.length = 1888 := by decide +kernel

/-- 11, example after R340: device 0x05 sends from core 12 to core 40 of device 0x2B by port 19. -/
theorem test_r339_route :
    let s : State := { tS tC with regs := [(0x300010, 0x120005), (0x3001AC, 0x21C0000)], ports := [(18, { state := .up }), (19, { state := .up }), (20, { state := .up })] }
    s.routePort { tH 2 3 with dstDev := 0x2B, srcCore := 12, dstCore := 40 } = some 19 := by decide +kernel

/-- 16, example after R477: 3,300 µF from 12.0 V and 4.5 V give 204.2 mJ; the check fails at 7.52 V. -/
theorem test_r477_hold_up : holdUp 3300 4500 12000 = 204187 ∧ holdUp 3300 4500 7530 ≥ 60000 ∧ holdUp 3300 4500 7520 < 60000 := by decide

/-! ### One step -/

/-- The next state of an outcome that has one. -/
def tNext : Host.Outcome State Fault Refusal → Option State
  | .next t => some t
  | _ => none

/-- A NOP in hand ends, and the step takes it off the queue. -/
theorem test_step_nop :
    (tNext (step { tS (tSeq 0 [] tC) with pending := [.nop 0] })).map (fun t => ((t.core 0).seq.cur, t.pending)) = some (none, []) := by decide +kernel

/-- An empty queue idles. -/
theorem test_step_empty : step (tS tC) = .next (tS tC) := rfl

end Sys2Proof.Tests
end

section
/-! Proofs of the statements of the scope (00): how a step runs its command, that every command is answered, and what an access of a
register does (R6, R7, R387, R393, R408, R414). -/

namespace Sys2Proof.Machine

/-! ### The step -/

theorem step_of_pending_nil {s : State} (h : s.pending = []) : step s = .next s := by
  simp only [step, h]

theorem step_of_pending_cons {s : State} {c : Instr} {rest : List Instr} (h : s.pending = c :: rest) :
    step s = exec c { s with pending := rest } := by
  simp only [step, h]

/-- Settles O47: the two branches of the step, on an empty queue and on a queue with a front. -/
theorem stepRunsFront : Obligations.StepRunsFront :=
  ⟨fun _ _ => step_of_pending_cons rfl, fun _ _ _ => step_of_pending_cons, fun _ => step_of_pending_nil⟩

/-! ### Every command is answered -/

/-- The meaning of each command is a total function of the state, under `.next`: an error is a state of the device (R25, R168). -/
theorem exists_exec_eq_next (c : Instr) (s : State) : ∃ t, exec c s = .next t := by
  cases c <;> exact ⟨_, rfl⟩

/-- Settles O48: every arm of `exec` answers a next state. -/
theorem everyCommandAnswers : Obligations.EveryCommandAnswers := exists_exec_eq_next

/-- A register that starts a command has the command's own effect: nothing is lost between `exec` and `afterOut`. -/
theorem next_afterOut_exec (c : Instr) (s : State) : .next (afterOut s (exec c s)) = exec c s := by
  obtain ⟨t, h⟩ := exists_exec_eq_next c s
  rw [h]
  rfl

/-! ### Sets of numbers -/

@[simp] theorem mem_sins (l : List Nat) (i j : Nat) : j ∈ sins l i ↔ j = i ∨ j ∈ l := by
  induction l with
  | nil => simp [sins]
  | cons k t ih =>
    unfold sins
    split
    · next h => subst h; simp
    · split
      · simp
      · simp only [List.mem_cons, ih]; tauto

@[simp] theorem mem_sdel (l : List Nat) (i j : Nat) : j ∈ sdel l i ↔ j ∈ l ∧ j ≠ i := by
  simp [sdel]

/-! ### Accesses of BAR0 (R387) -/

theorem bar0Ok_iff (o w : Nat) : bar0Ok o w = true ↔ (w = 4 ∨ w = 8) ∧ o % w = 0 ∧ o + w ≤ 0x4000000 := by
  simp [bar0Ok, and_assoc]

theorem exec_registerWrite_bar0 {s : State} {o w : Nat} (v : BitVec 64) (hp : s.powered = true) (h : bar0Ok o w = true) :
    exec (.registerWrite 0 o w v) s = .next (s.writeBar0 o w v) := by
  simp [exec, execRegisterWrite, hp, h]

theorem exec_registerWrite_bar0_error {s : State} {o w : Nat} (v : BitVec 64) (hp : s.powered = true) (h : bar0Ok o w = false) :
    exec (.registerWrite 0 o w v) s = .next { s with out := s.out ++ [.accessError] } := by
  simp [exec, execRegisterWrite, hp, h, State.emit]

theorem State.writeWord_unpowered {s : State} (o : Nat) (v : W32) (hp : s.powered = false) : s.writeWord o v = s := by
  simp [State.writeWord, hp]

/-- A write of 4 B is the write of one word, with clocks or without. -/
theorem exec_registerWrite_word (s : State) {o : Nat} (v : BitVec 64) (h : o % 4 = 0) (hl : o + 4 ≤ 0x4000000) :
    exec (.registerWrite 0 o 4 v) s = .next (s.writeWord o (v.setWidth 32)) := by
  cases hp : s.powered with
  | true => exact exec_registerWrite_bar0 v hp ((bar0Ok_iff o 4).2 ⟨.inl rfl, h, hl⟩)
  | false => simp [exec, execRegisterWrite, hp, State.writeWord_unpowered]

/-- R387: a write of 8 B is the lower word and then the upper word. -/
theorem exec_registerWrite_double {s : State} {o : Nat} (v : BitVec 64) (hp : s.powered = true) (h : o % 8 = 0) (hl : o + 8 ≤ 0x4000000) :
    exec (.registerWrite 0 o 8 v) s = .next ((s.writeWord o (v.setWidth 32)).writeWord (o + 4) ((v >>> 32).setWidth 32)) :=
  exec_registerWrite_bar0 v hp ((bar0Ok_iff o 8).2 ⟨.inr rfl, h, hl⟩)

/-! ### Which block a word of BAR0 belongs to -/

section Blocks
variable {s : State} {o : Nat}

theorem State.absentUnit_of_lt (h : o < 0x310000) : s.absentUnit o = false := by
  simp [State.absentUnit, show ¬ 0x310000 ≤ o by omega, show ¬ 0x410000 ≤ o by omega, show ¬ 0x420000 ≤ o by omega,
    show ¬ 0x430000 ≤ o by omega]

theorem State.absentUnit_of_le (h : 0x440000 ≤ o) : s.absentUnit o = false := by
  simp [State.absentUnit, show ¬ o < 0x340000 by omega, show ¬ o < 0x420000 by omega, show ¬ o < 0x430000 by omega,
    show ¬ o < 0x440000 by omega]

theorem State.writeWord_absent (v : W32) (h : s.absentUnit o = true) : s.writeWord o v = s := by
  simp [State.writeWord, h]

theorem State.writeWord_low (v : W32) (hp : s.powered = true) (ha : o % 4 = 0) (h : o < 0x100000) :
    s.writeWord o v = s.writeLow o v.toNat := by
  simp [State.writeWord, hp, ha, State.absentUnit_of_lt (s := s) (show o < 0x310000 by omega), h, show ¬ 0x1000000 ≤ o by omega]

theorem State.writeWord_host (v : W32) (hp : s.powered = true) (ha : o % 4 = 0) (h : 0x200000 ≤ o) (h' : o < 0x300000) :
    s.writeWord o v = s.writeHost o v.toNat := by
  simp [State.writeWord, hp, ha, State.absentUnit_of_lt (s := s) (show o < 0x310000 by omega), h', show ¬ o < 0x200000 by omega,
    show ¬ o < 0x100000 by omega, show ¬ 0x1000000 ≤ o by omega]

theorem State.writeWord_pwr (v : W32) (hp : s.powered = true) (ha : o % 4 = 0) (h : 0x500000 ≤ o) (h' : o < 0x600000) :
    s.writeWord o v = s.writePwr o v.toNat := by
  simp [State.writeWord, hp, ha, State.absentUnit_of_le (s := s) (show 0x440000 ≤ o by omega), h', show ¬ o < 0x500000 by omega,
    show ¬ o < 0x400000 by omega, show ¬ o < 0x340000 by omega, show ¬ o < 0x300000 by omega, show ¬ o < 0x200000 by omega,
    show ¬ o < 0x100000 by omega, show ¬ 0x1000000 ≤ o by omega]

theorem State.writeWord_core (v : W32) (hp : s.powered = true) (ha : o % 4 = 0) (h : 0x1000000 ≤ o) (h' : o < 0x3000000) :
    s.writeWord o v = s.writeCore ((o - 0x1000000) / 0x10000) (o % 0x10000) v.toNat := by
  simp [State.writeWord, hp, ha, State.absentUnit_of_le (s := s) (show 0x440000 ≤ o by omega), h, h']

end Blocks

/-! ### What a register keeps (R6) -/

theorem ofNat_full_sub {x : Nat} (h : x < 2 ^ 32) : BitVec.ofNat 32 (full - x) = ~~~BitVec.ofNat 32 x := by
  apply BitVec.eq_of_toNat_eq
  simp only [full, BitVec.toNat_ofNat, BitVec.toNat_not]
  omega

/-- The word that a register without staged bits holds after a write: its RW bits from the write, its W1C bits cleared where the write has
a 1. -/
theorem RegDef.ofNat_after (r : RegDef) (old v : W32) :
    BitVec.ofNat 32 (r.after 0 old.toNat v.toNat)
      = ((old &&& ~~~BitVec.ofNat 32 r.rw) ||| (v &&& BitVec.ofNat 32 r.rw)) &&& ~~~(v &&& BitVec.ofNat 32 r.w1c) := by
  have hfull : BitVec.ofNat 32 full = BitVec.allOnes 32 := rfl
  have hrw : r.rw &&& full < 2 ^ 32 := Nat.lt_of_le_of_lt Nat.and_le_right (by decide)
  have hw : v.toNat &&& r.w1c < 2 ^ 32 := Nat.lt_of_le_of_lt Nat.and_le_left v.isLt
  simp only [RegDef.after, Nat.sub_zero, BitVec.ofNat_and, BitVec.ofNat_or, ofNat_full_sub hrw, ofNat_full_sub hw, hfull,
    BitVec.and_allOnes, BitVec.ofNat_toNat, BitVec.setWidth_eq]

theorem RegDef.ofNat_after_and_rw {r : RegDef} (old v : W32) (h : r.w1c = 0) :
    BitVec.ofNat 32 (r.after 0 old.toNat v.toNat) &&& BitVec.ofNat 32 r.rw = v &&& BitVec.ofNat 32 r.rw := by
  rw [RegDef.ofNat_after, h]
  ext i
  simp only [BitVec.getElem_and, BitVec.getElem_or, BitVec.getElem_not, BitVec.getElem_zero]
  grind

theorem RegDef.ofNat_after_of_rw_zero {r : RegDef} (old v : W32) (h : r.rw = 0) :
    BitVec.ofNat 32 (r.after 0 old.toNat v.toNat) = old &&& ~~~(v &&& BitVec.ofNat 32 r.w1c) := by
  rw [RegDef.ofNat_after, h]
  ext i
  simp only [BitVec.getElem_and, BitVec.getElem_or, BitVec.getElem_not, BitVec.getElem_zero]
  grind

/-- A register without staged bits that is no ring's sizes: a write changes this register only. -/
theorem State.storeReg_of_regDef {s : State} {o : Nat} {r : RegDef} (v : W32) (hr : regDef o = some r) (hst : stagedReg o = none)
    (hring : ¬(0x200100 ≤ o ∧ o < 0x200320)) :
    s.storeReg o v.toNat
      = { s with regs := aset s.regs o (BitVec.ofNat 32 (r.after 0 (aget (BitVec.ofNat 32 r.d) s.regs o).toNat v.toNat)) } := by
  have h : ¬(0x200100 ≤ o ∧ o < 0x200320 ∧ o % 32 = 0) := fun h => hring ⟨h.1, h.2.1⟩
  simp [State.storeReg, hr, hst, and_assoc, h]

/-- Such a register, where it has no W1C bits, takes exactly its RW bits from a write. -/
theorem State.storeReg_rw {s : State} {o : Nat} {r : RegDef} (v : W32) (hr : regDef o = some r) (hw : r.w1c = 0)
    (hst : stagedReg o = none) (hring : ¬(0x200100 ≤ o ∧ o < 0x200320)) :
    aget 0 (s.storeReg o v.toNat).regs o &&& BitVec.ofNat 32 r.rw = v &&& BitVec.ofNat 32 r.rw
      ∧ s.storeReg o v.toNat = { s with regs := (s.storeReg o v.toNat).regs }
      ∧ ∀ x, x ≠ o → aget 0 (s.storeReg o v.toNat).regs x = aget 0 s.regs x := by
  rw [State.storeReg_of_regDef v hr hst hring]
  refine ⟨?_, rfl, fun x hx => aget_aset_ne _ _ _ hx.symm⟩
  rw [aget_aset_self, RegDef.ofNat_after_and_rw _ v hw]

/-- Such a register of W1C bits alone: a 1 clears its bit, and nothing else changes. -/
theorem State.storeReg_w1c {s : State} {o : Nat} {r : RegDef} (v : W32) (hr : regDef o = some r) (hw : r.rw = 0)
    (hst : stagedReg o = none) (hring : ¬(0x200100 ≤ o ∧ o < 0x200320)) :
    aget 0 (s.storeReg o v.toNat).regs o = aget (BitVec.ofNat 32 r.d) s.regs o &&& ~~~(v &&& BitVec.ofNat 32 r.w1c)
      ∧ s.storeReg o v.toNat = { s with regs := (s.storeReg o v.toNat).regs } := by
  rw [State.storeReg_of_regDef v hr hst hring]
  refine ⟨?_, rfl⟩
  rw [aget_aset_self, RegDef.ofNat_after_of_rw_zero _ v hw]

/-! ### SM_POLICY and the segments of the host window -/

/-- The two words of each of the window's 16 segments. -/
theorem regDef_window : ∀ i < 16,
    (regDef (0x200500 + 8 * i) = some { rw := 0xFFF00001 } ∧ stagedReg (0x200500 + 8 * i) = none)
      ∧ (regDef (0x200504 + 8 * i) = some { rw := 0xFFFFF } ∧ stagedReg (0x200504 + 8 * i) = none) := by
  decide

theorem State.redrive_window (s : State) {o : Nat} (h : 0x200500 ≤ o) (h' : o < 0x200580) : s.redrive o = s := by
  unfold State.redrive
  grind

theorem State.writeHost_window (s : State) {o : Nat} (v : Nat) (h : 0x200500 ≤ o) (h' : o < 0x200580) :
    s.writeHost o v = s.storeReg o v := by
  simp [State.writeHost, State.redrive_window _ h h', show o - 0x200000 ≠ 0x580 by omega, show ¬ o - 0x200000 < 0x320 by omega]

theorem State.writeWord_window {s : State} {o : Nat} (v : W32) (hp : s.powered = true) (ha : o % 4 = 0) (h : 0x200500 ≤ o)
    (h' : o < 0x200580) : s.writeWord o v = s.storeReg o v.toNat := by
  rw [State.writeWord_host v hp ha (by omega) (by omega), State.writeHost_window s _ h h']

theorem State.writeWord_smPolicy {s : State} (v : W32) (hp : s.powered = true) : s.writeWord 0x8010 v = s.storeReg 0x8010 v.toNat :=
  State.writeWord_low v hp (by decide) (by decide)

/-! ### PWR_CAUSE and the staged power limit -/

theorem State.irqOnly_causeLevel (s : State) (cause inten src : Nat) (d : W32) : s.IrqOnly (s.causeLevel cause inten src d) :=
  State.irqOnly_level _ _ _

/-- What follows a write of registers in the interrupt controller changes nothing else. -/
theorem State.IrqOnly.of_regs {s u t : State} (hu : u = { s with regs := u.regs }) (h : u.IrqOnly t) : s.IrqOnly { t with regs := s.regs } := by
  rw [h, hu]
  rfl

theorem State.writeWord_pwrCause {s : State} (v : W32) (hp : s.powered = true) :
    s.writeWord 0x500020 v = (s.storeReg 0x500020 v.toNat).causeLevel 0x500020 0x500024 10 0x3F :=
  State.writeWord_pwr v hp (by decide) (by decide) (by decide)

/-- With VIEW 0 a write of a register whose RW bits are all staged is ignored. -/
theorem State.writeWord_staged_viewOff {s : State} (v : W32) (hv : s.viewOn = false) : s.writeWord 0x500010 v = s := by
  cases hp : s.powered with
  | false => exact State.writeWord_unpowered _ _ hp
  | true =>
    rw [State.writeWord_pwr v hp (by decide) (by decide) (by decide)]
    change (s.storeReg 0x500010 v.toNat).redrive 0x500010 = s
    have h : s.storeReg 0x500010 v.toNat = s := by simp [State.storeReg, hv, show regDef 0x500010 = none from rfl]
    rw [h]
    rfl

/-! ### BAR2 (R393, R408) -/

theorem exec_registerWrite_bar2 {s : State} {o : Nat} (v : BitVec 64) (hp : s.powered = true) (h : o % 4 = 0) :
    exec (.registerWrite 2 o 4 v) s = .next (s.writeBar2 o (v.setWidth 32)) := by
  simp [exec, execRegisterWrite, hp, h]

theorem State.writeBar2_entry (s : State) {o : Nat} (v : W32) (h : o < 0x110000) :
    s.writeBar2 o v = { s with bar2 := Memory.put s.bar2 o (bytesOf 4 v.toNat) } := by
  simp [State.writeBar2, h]

/-- The doorbells of a ring are the commands SQ_TAIL and CQ_HEAD. -/
theorem State.writeBar2_doorbell (s : State) {r : Nat} (v : W32) (hr : r < 17) :
    s.writeBar2 (0x120000 + 0x1000 * r) v = afterOut s (exec (.sqTail r (v.toNat % 1024)) s)
      ∧ s.writeBar2 (0x120004 + 0x1000 * r) v = afterOut s (exec (.cqHead r (v.toNat % 1024)) s) := by
  have tail : (0x120000 + 0x1000 * r) % 0x1000 = 0 ∧ (0x120000 + 0x1000 * r - 0x120000) / 0x1000 = r := by omega
  have head : (0x120004 + 0x1000 * r) % 0x1000 = 4 ∧ (0x120004 + 0x1000 * r - 0x120000) / 0x1000 = r := by omega
  simp only [exec]
  constructor
  · rw [State.writeBar2, if_neg (by omega), if_pos (by simp; omega)]
    simp only [tail]
  · rw [State.writeBar2, if_neg (by omega), if_pos (by simp; omega)]
    simp only [head]

/-- The vector control word of vector k. -/
theorem State.writeBar2_vector (s : State) {k : Nat} (v : W32) (hk : k < 64) :
    s.writeBar2 (0x1F000C + 16 * k) v
      = State.msixTable { s with bar2 := Memory.put s.bar2 (0x1F000C + 16 * k) (bytesOf 4 v.toNat) } (12 + 16 * k) v.toNat := by
  have place : 0x1F000C + 16 * k - 0x1F0000 = 12 + 16 * k := by omega
  rw [State.writeBar2, if_neg (by omega), if_neg (by simp; omega), if_pos (by simp; omega), place]

theorem State.msixTable_mask (s : State) {k : Nat} (hk : k < 64) :
    s.msixTable (12 + 16 * k) 1 = { s with msixMask := sins s.msixMask k } := by
  simp [State.msixTable, show (12 + 16 * k) % 16 = 12 by omega, show (12 + 16 * k) / 16 = k by omega, hk, bitAt, bitsOf]

theorem State.msixTable_unmask (s : State) {k : Nat} (hk : k < 64) :
    s.msixTable (12 + 16 * k) 0
      = { s with msixMask := sdel s.msixMask k, msixPba := sdel s.msixPba k
                 out := if k ∈ s.msixPba then s.out ++ [.msix k] else s.out } := by
  by_cases h : k ∈ s.msixPba <;>
    simp [State.msixTable, show (12 + 16 * k) % 16 = 12 by omega, show (12 + 16 * k) / 16 = k by omega, hk, bitAt, bitsOf, h, State.emit]

theorem toNat_setWidth_mod (v : BitVec 64) : (v.setWidth 32 : W32).toNat % 1024 = v.toNat % 1024 := by
  rw [BitVec.toNat_setWidth]
  omega

/-! ### The clauses of O44 -/

/-- A register of BAR0 that only keeps its RW bits takes exactly these from a write (R6). -/
theorem exec_registerWrite_rw {s : State} {o : Nat} {m : W32} (v : BitVec 64) (hp : s.powered = true)
    (ho : (o = 0x8010 ∧ m = 0xF) ∨ ∃ i, i < 16 ∧ ((o = 0x200500 + 8 * i ∧ m = 0xFFF00001) ∨ (o = 0x200504 + 8 * i ∧ m = 0xFFFFF))) :
    ∃ t, exec (.registerWrite 0 o 4 v) s = .next t ∧ aget 0 t.regs o &&& m = v.setWidth 32 &&& m ∧ t = { s with regs := t.regs }
      ∧ (∀ x, x ≠ o → aget 0 t.regs x = aget 0 s.regs x) := by
  refine ⟨s.storeReg o (v.setWidth 32 : W32).toNat, ?_, ?_⟩
  · obtain ⟨rfl, -⟩ | ⟨i, hi, ⟨rfl, -⟩ | ⟨rfl, -⟩⟩ := ho
    · rw [exec_registerWrite_word s v (by decide) (by decide), State.writeWord_smPolicy _ hp]
    · rw [exec_registerWrite_word s v (by omega) (by omega), State.writeWord_window _ hp (by omega) (by omega) (by omega)]
    · rw [exec_registerWrite_word s v (by omega) (by omega), State.writeWord_window _ hp (by omega) (by omega) (by omega)]
  · obtain ⟨rfl, rfl⟩ | ⟨i, hi, ⟨rfl, rfl⟩ | ⟨rfl, rfl⟩⟩ := ho
    · exact State.storeReg_rw (r := { rw := 0xF, d := 1 }) _ rfl rfl rfl (by decide)
    · obtain ⟨⟨hr, hst⟩, -⟩ := regDef_window i hi
      exact State.storeReg_rw _ hr rfl hst (by omega)
    · obtain ⟨-, hr, hst⟩ := regDef_window i hi
      exact State.storeReg_rw _ hr rfl hst (by omega)

/-- A 1 clears a bit of PWR_CAUSE, and source 10 follows. -/
theorem exec_registerWrite_pwrCause {s : State} (v : BitVec 64) (hp : s.powered = true) :
    ∃ t, exec (.registerWrite 0 0x500020 4 v) s = .next t
      ∧ aget 0 t.regs 0x500020 = aget 0 s.regs 0x500020 &&& ~~~((v.setWidth 32 : W32) &&& 0x3F)
      ∧ s.IrqOnly { t with regs := s.regs } := by
  obtain ⟨cleared, frame⟩ :=
    State.storeReg_w1c (s := s) (o := 0x500020) (r := { rw := 0, w1c := 0x3F }) (v.setWidth 32) rfl rfl rfl (by decide)
  have source := State.irqOnly_causeLevel (s.storeReg 0x500020 (v.setWidth 32 : W32).toNat) 0x500020 0x500024 10 0x3F
  rw [exec_registerWrite_word s v (by decide) (by decide), State.writeWord_pwrCause _ hp]
  exact ⟨_, rfl, source.regs ▸ cleared, State.IrqOnly.of_regs frame source⟩

/-- Masking a vector holds it; unmasking it sends its pending message (R408; log 15). -/
theorem exec_registerWrite_vector {s : State} {k : Nat} (hp : s.powered = true) (hk : k < 64) :
    ∃ t u, exec (.registerWrite 2 (0x1F000C + 16 * k) 4 1) s = .next t ∧ exec (.registerWrite 2 (0x1F000C + 16 * k) 4 0) s = .next u
      ∧ k ∈ t.msixMask ∧ k ∉ u.msixMask ∧ t.out = s.out ∧ u.out = (if k ∈ s.msixPba then s.out ++ [.msix k] else s.out) ∧ k ∉ u.msixPba
      ∧ (∀ j, j ≠ k → (j ∈ t.msixMask ↔ j ∈ s.msixMask) ∧ (j ∈ u.msixMask ↔ j ∈ s.msixMask)) := by
  have word (v : BitVec 64) := exec_registerWrite_bar2 (s := s) (o := 0x1F000C + 16 * k) v hp (by omega)
  refine ⟨_, _, (word 1).trans (congrArg _ ((State.writeBar2_vector s _ hk).trans (State.msixTable_mask _ hk))),
    (word 0).trans (congrArg _ ((State.writeBar2_vector s _ hk).trans (State.msixTable_unmask _ hk))), ?_⟩
  simp +contextual

/-- Settles O44, a clause at a time. -/
theorem registerWritesTakeEffect : Obligations.RegisterWritesTakeEffect := by
  refine ⟨?double, ?refused, fun s o m v => exec_registerWrite_rw v, fun s v => exec_registerWrite_pwrCause v, ?staged, ?entry, ?doorbell,
    fun s k => exec_registerWrite_vector⟩
  case double =>
    intro s o v hp ha hl
    exact ⟨_, _, exec_registerWrite_word s v (by omega) (by omega), exec_registerWrite_word _ (v >>> 32) (by omega) (by omega),
      exec_registerWrite_double v hp ha hl⟩
  case refused =>
    intro s o w v hp h
    refine exec_registerWrite_bar0_error v hp (Bool.eq_false_iff.2 fun hok => ?_)
    obtain ⟨rfl | rfl, ha, hl⟩ := (bar0Ok_iff o w).1 hok <;> omega
  case staged =>
    intro s v hv
    rw [exec_registerWrite_word s v (by decide) (by decide), State.writeWord_staged_viewOff _ hv]
  case entry =>
    intro s o v hp ho ha
    rw [exec_registerWrite_bar2 v hp ha, State.writeBar2_entry _ _ ho]
  case doorbell =>
    intro s r v hp hr
    obtain ⟨tail, head⟩ := State.writeBar2_doorbell s (v.setWidth 32) hr
    rw [exec_registerWrite_bar2 v hp (by omega), exec_registerWrite_bar2 v hp (by omega), tail, head, toNat_setWidth_mod]
    exact ⟨next_afterOut_exec _ s, next_afterOut_exec _ s⟩

/-! ### Absent units (R7) -/

/-- The word at `o` of BAR0 belongs to a core, a port, a DDR5 channel or a codec engine that no logical number names. -/
def State.AbsentWord (s : State) (o : Nat) : Prop :=
  (s.absentUnit o = true ∧ 0x310000 ≤ o ∧ o < 0x440000)
    ∨ (0x1000000 ≤ o ∧ o < 0x3000000 ∧ afind s.lmap ((o - 0x1000000) / 0x10000) = none)

section Absent
variable {s : State} {o : Nat}

theorem State.absentUnit_port {n x : Nat} (hn : n < 48) (hx : x < 0x1000) (h : s.lport.length ≤ n) :
    s.absentUnit (0x310000 + 0x1000 * n + x) = true := by
  have unit : (0x310000 + 0x1000 * n + x - 0x310000) / 0x1000 = n := by omega
  rw [State.absentUnit, if_pos (by simp; omega), unit]
  exact decide_eq_true h

theorem State.absentUnit_chan {n x : Nat} (hn : n < 16) (hx : x < 0x1000) (h : s.lchan.length ≤ n) :
    s.absentUnit (0x420000 + 0x1000 * n + x) = true := by
  have unit : (0x420000 + 0x1000 * n + x) % 0x10000 / 0x1000 = n := by omega
  rw [State.absentUnit, if_neg (by simp; omega), if_neg (by simp; omega), if_pos (by simp; omega), unit]
  exact decide_eq_true h

theorem State.absentUnit_codec {n x : Nat} (hn : n < 16) (hx : x < 0x1000) (h : s.lcodec.length ≤ n) :
    s.absentUnit (0x430000 + 0x1000 * n + x) = true := by
  have unit : (0x430000 + 0x1000 * n + x) % 0x10000 / 0x1000 = n := by omega
  rw [State.absentUnit, if_neg (by simp; omega), if_neg (by simp; omega), if_neg (by simp; omega), if_pos (by simp; omega), unit]
  exact decide_eq_true h

theorem State.AbsentWord.lt (h : s.AbsentWord o) : o < 0x3000000 := by
  obtain ⟨-, -, h⟩ | ⟨-, h, -⟩ := h <;> omega

theorem State.phys_of_unmapped {l : Nat} (h : afind s.lmap l = none) : s.phys l = none := by
  simp [State.phys, h]

theorem State.AbsentWord.writeWord (h : s.AbsentWord o) (v : W32) (hp : s.powered = true) (ha : o % 4 = 0) : s.writeWord o v = s := by
  obtain ⟨habs, -, -⟩ | ⟨hlo, hhi, hl⟩ := h
  · exact State.writeWord_absent v habs
  · rw [State.writeWord_core v hp ha hlo hhi, State.writeCore, State.phys_of_unmapped hl]

theorem State.AbsentWord.readWord (h : s.AbsentWord o) : s.readWord o = 0 := by
  obtain ⟨habs, -, -⟩ | ⟨hlo, hhi, hl⟩ := h
  · simp [State.readWord, habs]
  · simp [State.readWord, hlo, hhi, State.readCore, hl]

/-- Reading it brings nothing about: it is no CP's claim register, and no pool is captured without a core. -/
theorem State.AbsentWord.readEffect (h : s.AbsentWord o) : s.readEffect o = (s, 0) := by
  have read := h.readWord
  obtain ⟨-, hlo, hhi⟩ | ⟨hlo, hhi, hl⟩ := h
  · simp [State.readEffect, read, show ¬ o < 0x100200 by omega, show ¬ 0x1000000 ≤ o by omega]
  · simp [State.readEffect, read, show ¬ o < 0x100200 by omega, State.phys_of_unmapped hl]

end Absent

/-- A load of a word of BAR0 by CP0, which runs always. -/
theorem exec_cpMemoryAccess_load {s : State} {o : Nat} (hp : s.powered = true) (h : bar0Ok o 4 = true) :
    exec (.cpMemoryAccess 0 (0x40000000 + o) 4 none) s = .next (s.readBar0 o 4) := by
  obtain ⟨-, -, hl⟩ := (bar0Ok_iff o 4).1 h
  simp [exec, execCpMemoryAccess, hp, h, State.cpRuns, show 0x40000000 + o < 0x44000000 by omega]

/-- Settles O55: each of the four kinds of address is one of an absent word. -/
theorem absentUnitsReadZero : Obligations.AbsentUnitsReadZero := by
  intro s o v hp ha h
  have absent : s.AbsentWord o := by
    obtain ⟨l, x, hl, hx, rfl, hnone⟩ | ⟨n, x, hn, hx, rfl, hlen⟩ | ⟨n, x, hn, hx, rfl, hlen⟩ | ⟨n, x, hn, hx, rfl, hlen⟩ := h
    · refine .inr ⟨by omega, by omega, ?_⟩
      rwa [show (0x1000000 + 0x10000 * l + x - 0x1000000) / 0x10000 = l by omega]
    · exact .inl ⟨State.absentUnit_port hn hx hlen, by omega, by omega⟩
    · exact .inl ⟨State.absentUnit_chan hn hx hlen, by omega, by omega⟩
    · exact .inl ⟨State.absentUnit_codec hn hx hlen, by omega, by omega⟩
  have hlt := absent.lt
  have hok : bar0Ok o 4 = true := (bar0Ok_iff o 4).2 ⟨.inl rfl, ha, by omega⟩
  refine ⟨?_, ?_⟩
  · rw [exec_registerWrite_word s v ha (by omega), absent.writeWord _ hp ha]
  · rw [exec_cpMemoryAccess_load hp hok, State.readBar0, absent.readEffect]
    rfl

end Sys2Proof.Machine
end

section
/-! Proofs of the statements of the organisation (01): the state after reset, packets that a port refuses, frame runs and preemption, the
caches (R20 to R36, R290 to R294, R326 to R344, R409 to R436). -/

namespace Sys2Proof.Machine

/-! ### The state after reset (R31, R471) -/

/-- The physical core that carries logical core l after boot: every block of 16 physical cores has 15 of them (log 4). -/
def bootCoreOf (l : Nat) : Nat := l + (l + 8) / 15

theorem bootCoreOf_block (k i : Nat) : bootCoreOf (15 * k + i) = 16 * k + bootCoreOf i := by
  unfold bootCoreOf
  omega

theorem filter_range_not_spare (k : Nat) :
    (List.range (16 * k)).filter (fun p => p % 16 ≠ 7) = (List.range (15 * k)).map bootCoreOf := by
  induction k with
  | zero => rfl
  | succ k ih =>
    have first : (List.range 16).filter (fun p => p % 16 ≠ 7) = (List.range 15).map bootCoreOf := by decide
    have block : ((List.range 16).map (16 * k + ·)).filter (fun p => p % 16 ≠ 7) = ((List.range 15).map (15 * k + ·)).map bootCoreOf := by
      simp only [List.filter_map, Function.comp_def, Nat.mul_add_mod, first, List.map_map, bootCoreOf_block]
    rw [Nat.mul_succ, Nat.mul_succ, List.range_add, List.range_add, List.filter_append, List.map_append, ih, block]

theorem bootCores_eq : bootCores = (List.range 480).map bootCoreOf := filter_range_not_spare 32

/-- Numbers given in ascending order from n on. -/
theorem afind_zipIdx_map {α β : Type} (f : α → β) (l : List α) (n i : Nat) :
    afind ((l.zipIdx n).map fun x => (x.2, f x.1)) (n + i) = l[i]?.map f := by
  induction l generalizing n i with
  | nil => rfl
  | cons a t ih =>
    cases i with
    | zero => simp [afind]
    | succ i => simpa [afind, Nat.add_right_comm, Nat.add_assoc, Nat.add_comm 1] using ih (n + 1) i

theorem State.phys_reset (l : Nat) : State.reset.phys l = bootCores[l]? := by
  have h : afind State.reset.lmap l = bootCores[l]?.map fun p => { phys := p } := by
    simpa [State.reset, bootMap] using afind_zipIdx_map (fun p => ({ phys := p } : MapEnt)) bootCores 0 l
  rw [State.phys, h]
  cases bootCores[l]? <;> rfl

theorem State.phys_reset_of_lt {l : Nat} (h : l < 480) : State.reset.phys l = some (l + (l + 8) / 15) := by
  simp [State.phys_reset, bootCores_eq, h, bootCoreOf]

theorem State.phys_reset_of_le {l : Nat} (h : 480 ≤ l) : State.reset.phys l = none := by
  simp [State.phys_reset, bootCores_eq, h]

theorem State.mem_spares_reset (p : Nat) : p ∈ State.reset.spares ↔ p < 512 ∧ p % 16 = 7 := by
  simp [State.reset]

/-- Settles O50: the map of logical cores is computed by blocks of 16, the rest of the state stands in the definition. -/
theorem resetStateIsAsStated : Obligations.ResetStateIsAsStated := by
  refine ⟨⟨rfl, rfl, rfl, rfl, rfl, rfl⟩, fun _ => ⟨rfl, rfl, rfl, fun _ => rfl⟩, fun _ => ⟨rfl, rfl, rfl⟩, rfl,
    fun _ => State.phys_reset_of_lt, fun _ => State.phys_reset_of_le, State.mem_spares_reset, rfl, rfl, rfl, fun _ => rfl, ?_⟩
  exact ⟨rfl, rfl, rfl, rfl, rfl, rfl, rfl, rfl, rfl, rfl, rfl, rfl, rfl, rfl, fun _ => rfl⟩

/-! ### Counters of the device and of ports -/

@[simp] theorem State.count_bump_self (s : State) (o n : Nat) : (s.bump o n).count o = (s.count o + n) % 2 ^ 32 := by
  simp [State.count, State.bump, BitVec.toNat_add]

theorem State.count_bump_ne (s : State) {o o' : Nat} (n : Nat) (h : o ≠ o') : (s.bump o n).count o' = s.count o' := by
  simp [State.count, State.bump, aget_aset_ne _ _ _ h]

theorem State.count_congr {s t : State} (h : t.cnt = s.cnt) (o : Nat) : t.count o = s.count o := by
  rw [State.count, State.count, h]

@[simp] theorem State.port_modPort_self (s : State) (p : Nat) (f : Port → Port) : (s.modPort p f).port p = f (s.port p) := by
  simp [State.port, State.modPort, State.setPort]

/-- Without a flip every island runs with the settings in force. -/
theorem State.settled_of_flip_none {s : State} (hp : s.powered = true) (hf : s.flip = none) (i : Nat) : s.Settled i :=
  ⟨hp, by rw [hf]; rfl⟩

/-! ### What a refused packet changes -/

/-- Two states differ at most in ports, counters, registers, and the interrupt controller. -/
def State.PortOnly (s t : State) : Prop :=
  t = { s with ports := t.ports, regs := t.regs, cnt := t.cnt, irq := t.irq, msixPba := t.msixPba, out := t.out, deliv := t.deliv }

theorem State.PortOnly.trans {s t u : State} (h : s.PortOnly t) (k : t.PortOnly u) : s.PortOnly u := by
  unfold State.PortOnly at *
  rw [k, h]

theorem State.PortOnly.frame {s t : State} (h : s.PortOnly t) :
    t.t0 = s.t0 ∧ t.slice = s.slice ∧ t.tier = s.tier ∧ t.cores = s.cores := by
  unfold State.PortOnly at h
  rw [h]
  exact ⟨rfl, rfl, rfl, rfl⟩

theorem State.IrqOnly.portOnly {s t : State} (h : s.IrqOnly t) : s.PortOnly t := by
  unfold State.IrqOnly at h
  unfold State.PortOnly
  rw [h]

theorem State.portOnly_modPort (s : State) (p : Nat) (f : Port → Port) : s.PortOnly (s.modPort p f) := rfl
theorem State.portOnly_owe (s : State) (p : Nat) (h : PktHdr) : s.PortOnly (s.owe p h) := rfl
theorem State.portOnly_portCount (s : State) (p o n : Nat) : s.PortOnly (s.portCount p o n) := rfl

/-- An error bit of a port and its source: registers and the interrupt controller. -/
theorem State.portErr_only (s : State) (p b : Nat) : ∃ r, ({ s with regs := r } : State).IrqOnly (s.portErr p b) :=
  ⟨_, State.irqOnly_level _ _ _⟩

theorem State.portOnly_portErr (s : State) (p b : Nat) : s.PortOnly (s.portErr p b) := by
  obtain ⟨r, h⟩ := s.portErr_only p b
  exact State.PortOnly.trans (t := { s with regs := r }) rfl h.portOnly

@[simp] theorem State.count_portErr (s : State) (p b o : Nat) : (s.portErr p b).count o = s.count o := by
  obtain ⟨r, h⟩ := s.portErr_only p b
  exact State.count_congr h.cnt o

@[simp] theorem State.port_portErr (s : State) (p b q : Nat) : (s.portErr p b).port q = s.port q := by
  obtain ⟨r, h⟩ := s.portErr_only p b
  rw [State.port, State.port, h.ports]

theorem State.portOnly_freezePeer (s : State) (p sub src obj addr : Nat) : s.PortOnly (s.freezePeer p sub src obj addr) :=
  (State.portOnly_modPort s p _).trans (State.portOnly_portErr _ _ _)

@[simp] theorem State.count_freezePeer (s : State) (p sub src obj addr o : Nat) :
    (s.freezePeer p sub src obj addr).count o = s.count o :=
  State.count_portErr _ _ _ _

/-- The stream of the sender is frozen (R330). -/
theorem State.mem_frozen_freezePeer (s : State) (p sub src obj addr : Nat) :
    src ∈ ((s.freezePeer p sub src obj addr).port p).frozen := by
  simp [State.freezePeer]

theorem State.portOnly_noRoute (s : State) (inp : Option Nat) (off : Nat) : s.PortOnly (s.noRoute inp off) :=
  (State.portOnly_portCount s _ _ _).trans (State.portOnly_portErr _ _ _)

@[simp] theorem State.count_portCount_self (s : State) (p o n : Nat) :
    (s.portCount p o n).count (portBase p + o) = (s.count (portBase p + o) + n) % 2 ^ 32 :=
  State.count_bump_self _ _ _

theorem State.count_noRoute (s : State) (p off : Nat) :
    (s.noRoute (some p) off).count (portBase p + off) = (s.count (portBase p + off) + 1) % 2 ^ 32 := by
  simp [State.noRoute]

@[simp] theorem State.count_owe (s : State) (p : Nat) (h : PktHdr) (o : Nat) : (s.owe p h).count o = s.count o := rfl

/-! ### The order of a port's tests (R326, R327, R330, R338, R343, R344) -/

/-- Freed flits change nothing that a port tests. -/
theorem State.memberTest_owe (s : State) (p : Nat) (h : PktHdr) : (s.owe p h).memberTest p h = s.memberTest p h := by
  simp only [State.memberTest, State.owe, State.port_modPort_self]
  rfl

theorem State.barred_owe (s : State) (p : Nat) (h : PktHdr) (d : Nat) :
    ((s.owe p h).lost || ((s.owe p h).port p).frozen.contains d) = (s.lost || (s.port p).frozen.contains d) := by
  simp only [State.owe, State.port_modPort_self]
  rfl

section Tests
variable {s : State} {p typ : Nat} {h : PktHdr} {b : PktBody} {again : Instr} {f : State → State}
  (hs : s.Settled (s.portIsland p)) (hup : (s.port p).isUp = true)
include hs hup

theorem State.rx_badTag :
    s.rx p typ h false b again f = (((s.owe p h).portCount p 0x58 1).portErr p 2).freezePeer p 0 h.srcDev 0xFFFF 0 := by
  simp [State.rx, State.under_settled _ hs, hup]

theorem State.rx_malformed (hb : s.badPkt p typ h = true) : s.rx p typ h true b again f = (s.owe p h).portCount p 0x70 1 := by
  simp [State.rx, State.under_settled _ hs, hup, hb]

/-- A packet of a newer configuration epoch is kept whole (R343). -/
theorem State.rx_newer (hb : s.badPkt p typ h = false) (hv : h.vc ≠ 0) (hn : s.newerEpoch h = true) :
    s.rx p typ h true b again f = { s with linkHeld := s.linkHeld ++ [again] } := by
  simp [State.rx, State.under_settled _ hs, hup, hb, hv, hn]

theorem State.rx_frozen (hb : s.badPkt p typ h = false) (hv : h.vc ≠ 0) (hn : s.newerEpoch h = false)
    (hz : s.lost = true ∨ h.srcDev ∈ (s.port p).frozen) : s.rx p typ h true b again f = s.owe p h := by
  have barred : (s.lost || (s.port p).frozen.contains h.srcDev) = true := by simpa using hz
  simp only [State.rx, State.under_settled _ hs, hup, hb, hn, State.barred_owe, barred]
  simp [hv]

variable (hb : s.badPkt p typ h = false) (hv : h.vc ≠ 0) (hn : s.newerEpoch h = false) (hl : s.lost = false)
  (hz : h.srcDev ∉ (s.port p).frozen)
include hb hv hn hl hz

/-- A packet that fails a roster test is counted, and goes no further (R344). -/
theorem State.rx_nonMember {off : Nat} (hm : s.memberTest p h = some off) : s.rx p typ h true b again f = (s.owe p h).portCount p off 1 := by
  have open_ : (s.lost || (s.port p).frozen.contains h.srcDev) = false := by simpa using ⟨hl, hz⟩
  simp only [State.rx, State.under_settled _ hs, hup, hb, hn, hv, State.barred_owe, open_, State.memberTest_owe, hm]
  simp

/-- A packet for another device with no hops left has no way on (R338). -/
theorem State.rx_noHops (hm : s.memberTest p h = none) (hc : h.mc = false) (hd : h.dstDev ≠ 0xFF) (ho : h.dstDev ≠ s.devId)
    (hh : h.hops ≤ 1) : s.rx p typ h true b again f = (s.owe p h).noRoute (some p) 0x64 := by
  have open_ : (s.lost || (s.port p).frozen.contains h.srcDev) = false := by simpa using ⟨hl, hz⟩
  have ho' : h.dstDev ≠ (s.owe p h).devId := ho
  simp only [State.rx, State.under_settled _ hs, hup, hb, hn, hv, State.barred_owe, open_, State.memberTest_owe, hm, hc, hd, ho', hh]
  simp

end Tests

theorem State.memberTest_stranger {s : State} {p : Nat} {h : PktHdr} (hu : (s.port p).state = .up) (hr : s.inRoster h.srcDev = false) :
    s.memberTest p h = some 0x68 := by
  simp [State.memberTest, hu, hr]

theorem State.memberTest_rosterEpoch {s : State} {p : Nat} {h : PktHdr} (hu : (s.port p).state = .up) (hr : s.inRoster h.srcDev = true)
    (h1 : h.repoch ≠ s.repoch % 256) (h2 : h.repoch ≠ (s.repoch + 255) % 256) : s.memberTest p h = some 0x6C := by
  simp [State.memberTest, hu, hr, h1, h2]

/-- A WRITE packet meets the tests of every packet before it writes. -/
theorem exec_writePacket_rx (s : State) (p : Nat) (h : PktHdr) (ok : Bool) (d : List Byte) :
    ∃ f, exec (.writePacket p h ok d) s = .next (s.rx p 2 h ok (.data d) (.writePacket p h ok d) f) :=
  ⟨_, rfl⟩

/-- Settles O32: a packet ends at the first test of its port that fails. -/
theorem portsRefusePackets : Obligations.PortsRefusePackets := by
  intro s p h d hp hf hup
  have hs := State.settled_of_flip_none hp hf (s.portIsland p)
  obtain ⟨f, good⟩ := exec_writePacket_rx s p h true d
  refine ⟨?tag, ?malformed, ?newer, ?frozen, ?stranger, ?epoch, ?hops⟩
  case tag =>
    obtain ⟨f, bad⟩ := exec_writePacket_rx s p h false d
    rw [State.rx_badTag hs hup] at bad
    refine ⟨_, bad, State.mem_frozen_freezePeer _ _ _ _ _ _, by simp, ?_⟩
    exact ((((State.portOnly_owe s p h).trans (State.portOnly_portCount _ _ _ _)).trans (State.portOnly_portErr _ _ _)).trans
      (State.portOnly_freezePeer _ _ _ _ _ _)).frame
  case malformed =>
    intro hb
    rw [State.rx_malformed hs hup hb] at good
    exact ⟨_, good, by simp, rfl, rfl, rfl, rfl⟩
  case newer =>
    intro hb hv hn
    rw [good, State.rx_newer hs hup hb hv hn]
  case frozen =>
    intro hb hv hn hz
    rw [good, State.rx_frozen hs hup hb hv hn hz]
  case stranger =>
    intro hb hv hn hl hz hu hr
    rw [good, State.rx_nonMember hs hup hb hv hn hl hz (State.memberTest_stranger hu hr)]
  case epoch =>
    intro hb hv hn hl hz hu hr h1 h2
    rw [good, State.rx_nonMember hs hup hb hv hn hl hz (State.memberTest_rosterEpoch hu hr h1 h2)]
  case hops =>
    intro hb hv hn hl hz hm hc hd ho hh
    rw [State.rx_noHops hs hup hb hv hn hl hz hm hc hd ho hh] at good
    exact ⟨_, good, State.count_noRoute _ _ _, ((State.portOnly_owe s p h).trans (State.portOnly_noRoute _ _ _)).frame⟩

/-! ### Clusters, and what leaves them -/

@[simp] theorem State.cluster_setCluster_self (s : State) (g : Nat) (x : Cluster) : (s.setCluster g x).cluster g = x := by
  simp [State.cluster, State.setCluster]

theorem State.cluster_setCluster_ne (s : State) {g h : Nat} (x : Cluster) (hg : g ≠ h) : (s.setCluster g x).cluster h = s.cluster h := by
  simp [State.cluster, State.setCluster, aget_aset_ne _ _ _ hg]

theorem State.cluster_congr {s t : State} (h : t.clusters = s.clusters) (g : Nat) : t.cluster g = s.cluster g := by
  rw [State.cluster, State.cluster, h]

@[simp] theorem State.cluster_setCore (s : State) (p : Nat) (c : Core) (g : Nat) : (s.setCore p c).cluster g = s.cluster g := rfl
@[simp] theorem State.cluster_putWord (s : State) (p q i : Nat) (e : Cqe) (g : Nat) : (s.putWord p q i e).cluster g = s.cluster g := rfl
@[simp] theorem State.cluster_rstBegin (s : State) (g : Nat) : s.rstBegin.cluster g = s.cluster g :=
  State.cluster_congr (State.rstBegin_clusters s) g

@[simp] theorem State.cluster_bumpCluster_self (s : State) (g o n : Nat) :
    (s.bumpCluster g o n).cluster g = { s.cluster g with cnt := ((s.bumpCluster g o n).cluster g).cnt } := by
  simp [State.bumpCluster]

theorem State.finished_rstBegin {s : State} {p q i : Nat} (h : s.Finished p q i) : s.rstBegin.Finished p q i := by
  rw [State.Finished, State.core_rstBegin]
  exact h

theorem State.StopOnly.clusters {s t : State} (h : s.StopOnly t) : t.clusters = s.clusters := by
  rw [h.1]

theorem State.bumpGen_only (s : State) (o : Nat) : s.bumpGen o = { s with obj := (s.bumpGen o).obj } := by
  unfold State.bumpGen
  simp only
  split <;> rfl

/-- Two states have the same clusters, and every core the same control queues. -/
def State.SameWords (s t : State) : Prop := t.clusters = s.clusters ∧ ∀ q, (t.core q).cq = (s.core q).cq

theorem State.SameWords.refl (s : State) : s.SameWords s := ⟨rfl, fun _ => rfl⟩

theorem State.SameWords.trans {s t u : State} (h : s.SameWords t) (k : t.SameWords u) : s.SameWords u :=
  ⟨k.1.trans h.1, fun q => (k.2 q).trans (h.2 q)⟩

theorem State.sameWords_bumpGen (s : State) (o : Nat) : s.SameWords (s.bumpGen o) := by
  rw [State.bumpGen_only]
  exact ⟨rfl, fun _ => rfl⟩

theorem State.sameWords_wholeWrite (s : State) (o ofs : Nat) (d : List PByte) : s.SameWords (s.wholeWrite o ofs d) := by
  have write := State.writeOnly_objWrite (s.bumpGen o) o ofs d
  refine ((State.sameWords_bumpGen s o).trans ⟨write.clusters, fun q => ?_⟩).trans (State.sameWords_bumpGen _ o)
  rw [write.2 q]

/-- A line that goes to its tier is written, or freezes the core that wrote it: clusters and words stay (R299). -/
theorem State.sameWords_lineToMemory (s : State) (v : CLine) : s.SameWords (s.lineToMemory v) := by
  unfold State.lineToMemory
  split
  · exact State.SameWords.refl s
  · simp only
    split
    · exact ⟨(State.stopOnly_freeze s v.owner _).clusters, fun q => ((State.stopOnly_freeze s v.owner _).2 q).cq⟩
    · exact State.sameWords_wholeWrite _ _ _ _

theorem State.sameWords_linesToMemory (s : State) (l : List CLine) : s.SameWords (l.foldl (fun s x => s.lineToMemory x) s) :=
  foldl_inv (fun t : State => s.SameWords t) _ (fun _ x h => h.trans (State.sameWords_lineToMemory _ x)) _ _ (State.SameWords.refl s)

/-! ### Requests to the cluster switch -/

@[simp] theorem State.core_askSwitch (s : State) (p line : Nat) (wr : Option (List Byte)) (z : Bool) (q : Nat) :
    (s.askSwitch p line wr z).core q = s.core q := rfl

/-- The write-back of a line by core p. -/
def CLine.writeBack (p : Nat) (x : CLine) : SwReq := { port := p % 8, line := x.line, wr := some x.bytes, poison := x.poison, stamp := none }

/-- The write-backs of lines go to the switch. -/
def State.writeBacks (s : State) (p : Nat) (l : List CLine) : State :=
  l.foldl (fun s x => s.askSwitch p x.line (some x.bytes) x.poison) s

@[simp] theorem State.core_writeBacks (s : State) (p : Nat) (l : List CLine) (q : Nat) : (s.writeBacks p l).core q = s.core q := by
  unfold State.writeBacks
  exact foldl_keeps (fun t : State => t.core q) (fun t x => t.askSwitch p x.line (some x.bytes) x.poison) (fun _ _ => rfl) l s

theorem State.reqs_writeBacks (s : State) (p : Nat) (l : List CLine) :
    ((s.writeBacks p l).cluster (clusterOf p)).reqs = (s.cluster (clusterOf p)).reqs ++ l.map (CLine.writeBack p) := by
  induction l generalizing s with
  | nil => simp [State.writeBacks]
  | cons x t ih =>
    have first : ((s.askSwitch p x.line (some x.bytes) x.poison).cluster (clusterOf p)).reqs
        = (s.cluster (clusterOf p)).reqs ++ [x.writeBack p] := by
      simp [State.askSwitch, CLine.writeBack]
    have rest := ih (s.askSwitch p x.line (some x.bytes) x.poison)
    rw [first, List.append_assoc] at rest
    exact rest

/-! ### Flushing the L1 (R291) -/

/-- The lines after a flush of `sc`, or after an invalidate. -/
def flushed (sc : List CLine) (inv : Bool) (l : List CLine) : List CLine :=
  if inv then l.filter fun x => !sc.contains x else l.map fun x => if sc.contains x then { x with dirty := false } else x

theorem State.l1Flush_begin (s : State) (p i : Nat) {e : Cqe} (inv : Bool) (h : e.n = 0) :
    s.l1Flush p i e inv = ((s.setCore p { s.core p with vec := { (s.core p).vec with
      l1 := flushed ((s.core p).l1Scope e.word) inv (s.core p).vec.l1 } }).writeBacks p (((s.core p).l1Scope e.word).filter CLine.dirty)).putWord
      p 6 i { e with n := 1 } := by
  rw [State.l1Flush, if_pos h]
  rfl

theorem State.l1Flush_end {s : State} {p i : Nat} {e : Cqe} (inv : Bool) (h : e.n ≠ 0)
    (hw : ∀ r ∈ (s.cluster (clusterOf p)).reqs, r.port = p % 8 → r.wr = none) : s.l1Flush p i e inv = s.finish p 6 i e := by
  have quiet : ((s.cluster (clusterOf p)).reqs.any fun r => decide (r.port = p % 8) && r.wr.isSome) = false := by
    simpa using hw
  simp only [State.l1Flush, h, quiet, if_false, Bool.false_eq_true]

/-- A flush or invalidate cleans or drops its lines and sends one write-back for each dirty one. -/
theorem State.l1Flush_effect (s : State) (p i : Nat) {e : Cqe} (inv : Bool) (h : e.n = 0) :
    ((s.l1Flush p i e inv).core p).vec.l1 = flushed ((s.core p).l1Scope e.word) inv (s.core p).vec.l1
      ∧ ((s.l1Flush p i e inv).cluster (clusterOf p)).reqs
        = (s.cluster (clusterOf p)).reqs ++ (((s.core p).l1Scope e.word).filter CLine.dirty).map (CLine.writeBack p) := by
  rw [State.l1Flush_begin s p i inv h]
  constructor
  · rw [State.putWord, State.core_modCore_self, State.core_writeBacks, State.core_setCore_self]
    rfl
  · rw [State.cluster_putWord, State.reqs_writeBacks, State.cluster_setCore]

theorem Core.lt_of_curAt {c : Core} {q i : Nat} {e : Cqe} (h : c.curAt q = some (i, e)) : i < (c.words q).length := by
  obtain ⟨⟨x, j⟩, hf, hx⟩ := Option.map_eq_some_iff.1 h
  obtain ⟨rfl, rfl⟩ := Prod.mk.inj hx
  exact (List.mem_zipIdx (List.mem_of_find?_eq_some hf)).2.1.trans_eq (by simp)

theorem State.WordAt.lt {s : State} {c p q op i : Nat} {e : Cqe} (h : s.WordAt c p q op i e) : i < ((s.core p).words q).length := by
  obtain ⟨-, word, -⟩ := h
  exact (List.getElem?_eq_some_iff.1 word).1

theorem State.CurAt.lt {s : State} {c p q op i : Nat} {e : Cqe} (h : s.CurAt c p q op i e) : i < ((s.core p).words q).length := by
  obtain ⟨-, cur, -⟩ := h
  exact Core.lt_of_curAt cur

theorem exec_vecL1flush_cur {s : State} {c p i : Nat} {e : Cqe} (h : s.CurAt c p 6 0xB i e) :
    exec (.vecL1flush c) s = .next (s.l1Flush p i e false).rstBegin :=
  congrArg _ (State.onCur_ready h _)

theorem exec_vecL1inv_cur {s : State} {c p i : Nat} {e : Cqe} (h : s.CurAt c p 6 0xC i e) :
    exec (.vecL1inv c) s = .next (s.l1Flush p i e true).rstBegin :=
  congrArg _ (State.onCur_ready h _)

/-! ### Flushing the L2 (R291) -/

/-- Lines of the L2 in the scope of a flush word of core p. -/
def State.l2Scope (s : State) (p : Nat) (w : CWord) : List CLine :=
  (s.cluster (clusterOf p)).l2.filter fun x => wbit w 71
    || ((s.objEnt (wbits w 55 16)).valid && (s.objEnt (wbits w 55 16)).start < x.line * 128 + 128
      && x.line * 128 < (s.objEnt (wbits w 55 16)).start + (s.objEnt (wbits w 55 16)).bytes)

theorem State.l2Flush_eq (s : State) (p i : Nat) (e : Cqe) (inv : Bool) :
    ∃ n, s.l2Flush p i e inv = ((s.l2Scope p e.word).foldl (fun s x => s.lineToMemory x)
      ((s.setCluster (clusterOf p) { s.cluster (clusterOf p) with
        l2 := flushed (s.l2Scope p e.word) inv (s.cluster (clusterOf p)).l2 }).bumpCluster (clusterOf p) 0xC18 n)).finish p 1 i e :=
  ⟨_, rfl⟩

/-- A flush or invalidate cleans or drops its lines, and the word finishes. -/
theorem State.l2Flush_effect {s : State} {p i : Nat} (e : Cqe) (inv : Bool) (hi : i < ((s.core p).words 1).length) :
    (s.l2Flush p i e inv).Finished p 1 i
      ∧ ((s.l2Flush p i e inv).cluster (clusterOf p)).l2 = flushed (s.l2Scope p e.word) inv (s.cluster (clusterOf p)).l2 := by
  obtain ⟨n, eq⟩ := State.l2Flush_eq s p i e inv
  rw [eq]
  generalize hu : (s.setCluster (clusterOf p) _).bumpCluster (clusterOf p) 0xC18 n = u
  obtain ⟨clusters, words⟩ := State.sameWords_linesToMemory u (s.l2Scope p e.word)
  constructor
  · refine State.finished_finish e ?_
    rw [Core.words, words p, ← hu]
    exact hi
  · rw [State.finish, State.cluster_putWord, State.cluster_congr clusters, ← hu, State.cluster_bumpCluster_self, State.cluster_setCluster_self]

theorem exec_strL2flush_word {s : State} {c p i : Nat} {e : Cqe} (h : s.WordAt c p 1 4 i e) :
    exec (.strL2flush c i) s = .next (s.l2Flush p i e false).rstBegin :=
  congrArg _ (State.onWord_ready h _)

theorem exec_strL2inv_word {s : State} {c p i : Nat} {e : Cqe} (h : s.WordAt c p 1 5 i e) :
    exec (.strL2inv c i) s = .next (s.l2Flush p i e true).rstBegin :=
  congrArg _ (State.onWord_ready h _)

/-! ### Lines of a cache -/

/-- A line put into a cache stands last. -/
theorem getLast?_cacheInsert (sets ways pick : Nat) (c : List CLine) (x : CLine) :
    (cacheInsert sets ways pick c x).1.getLast? = some x := by
  unfold cacheInsert
  simp only
  split
  · simp
  · split <;> simp

theorem lineIn_cacheSet {c : List CLine} {x y : CLine} (h : lineIn c x.line = some y) : lineIn (cacheSet c x) x.line = some x := by
  induction c with
  | nil => simp [lineIn] at h
  | cons z t ih =>
    by_cases hz : z.line = x.line
    · simp [lineIn, cacheSet, hz]
    · have rest : lineIn t x.line = some y := by simpa [lineIn, hz] using h
      simpa [lineIn, cacheSet, hz] using ih rest

/-- Two states differ in the clusters by requests that have not arrived, at most. -/
def State.AsksOnly (s t : State) : Prop :=
  ∀ g, ∃ l : List SwReq, (∀ r ∈ l, r.stamp = none) ∧ t.cluster g = { s.cluster g with reqs := (s.cluster g).reqs ++ l }

theorem State.asksOnly_of_clusters {s t : State} (h : t.clusters = s.clusters) : s.AsksOnly t :=
  fun g => ⟨[], nofun, by rw [State.cluster_congr h, List.append_nil]⟩

theorem State.AsksOnly.trans {s t u : State} (h : s.AsksOnly t) (k : t.AsksOnly u) : s.AsksOnly u := by
  intro g
  obtain ⟨l, hl, eq⟩ := h g
  obtain ⟨m, hm, eq'⟩ := k g
  refine ⟨l ++ m, fun r hr => (List.mem_append.1 hr).elim (hl r) (hm r), ?_⟩
  rw [eq', eq, List.append_assoc]

theorem State.asksOnly_askSwitch (s : State) (p line : Nat) (wr : Option (List Byte)) (z : Bool) : s.AsksOnly (s.askSwitch p line wr z) := by
  intro g
  by_cases h : clusterOf p = g
  · subst h
    exact ⟨[{ port := p % 8, line := line, wr := wr, poison := z, stamp := none }], by simp, by simp [State.askSwitch]⟩
  · exact ⟨[], nofun, by simp [State.askSwitch, State.cluster_setCluster_ne _ _ h]⟩

/-- A line put into an L1 stands last, and the core waits for what it waited for; at most the line that leaves asks the switch. -/
theorem State.l1Insert_effect (s : State) (p : Nat) (x : CLine) :
    ((s.l1Insert p x).core p).vec.miss = (s.core p).vec.miss ∧ ((s.l1Insert p x).core p).vec.l1.getLast? = some x
      ∧ s.AsksOnly (s.l1Insert p x) := by
  have put (k : Core) (c : List CLine) (w : Nat) :
      State.AsksOnly s (State.setCore { s with fresh := s.fresh + 1 } p { k with vec := { k.vec with l1 := (cacheInsert l1Sets l1Ways w c x).1 } }) :=
    State.asksOnly_of_clusters rfl
  unfold State.l1Insert
  simp only [State.free]
  split
  · rw [State.core_setCore_self]
    exact ⟨rfl, getLast?_cacheInsert _ _ _ _ _, put _ _ _⟩
  · split
    · rw [State.core_askSwitch, State.core_setCore_self]
      exact ⟨rfl, getLast?_cacheInsert _ _ _ _ _, (put _ _ _).trans (State.asksOnly_askSwitch _ _ _ _ _)⟩
    · rw [State.core_setCore_self]
      exact ⟨rfl, getLast?_cacheInsert _ _ _ _ _, put _ _ _⟩

/-- Core p waits for no line any more. -/
def State.stopWaiting (s : State) (p : Nat) : State := s.setCore p { s.core p with vec := { (s.core p).vec with miss := none } }

/-- The line that a core waits for is put into its L1; another line is not. -/
theorem State.l1Fill_eq (s : State) (p line : Nat) (b : List Byte) (z : Bool) :
    s.l1Fill p line b z = s
      ∨ ∃ l, s.l1Fill p line b z = (s.stopWaiting p).l1Insert p { line := l, bytes := b, dirty := false, poison := z } := by
  unfold State.l1Fill
  simp only
  split
  · exact .inl rfl
  · split
    · exact .inl rfl
    · exact .inr ⟨_, rfl⟩

theorem State.l1Fill_waiting_eq {s : State} {p line l : Nat} (b : List Byte) (z : Bool) (hm : (s.core p).vec.miss = some l)
    (ha : (s.core p).vec.missAt = line) :
    s.l1Fill p line b z = (s.stopWaiting p).l1Insert p { line := l, bytes := b, dirty := false, poison := z } := by
  subst ha
  simp only [State.l1Fill, hm, ne_eq, not_true_eq_false, if_false]
  rfl

theorem State.l1Fill_waiting {s : State} {p line l : Nat} (b : List Byte) (z : Bool) (hm : (s.core p).vec.miss = some l)
    (ha : (s.core p).vec.missAt = line) :
    ((s.l1Fill p line b z).core p).vec.miss = none
      ∧ ((s.l1Fill p line b z).core p).vec.l1.getLast? = some { line := l, bytes := b, dirty := false, poison := z } := by
  obtain ⟨miss, last, -⟩ := (s.stopWaiting p).l1Insert_effect p { line := l, bytes := b, dirty := false, poison := z }
  rw [State.l1Fill_waiting_eq b z hm ha]
  exact ⟨miss.trans (by rw [State.stopWaiting, State.core_setCore_self]), last⟩

theorem State.asksOnly_l1Fill (s : State) (p line : Nat) (b : List Byte) (z : Bool) : s.AsksOnly (s.l1Fill p line b z) := by
  obtain eq | ⟨l, eq⟩ := s.l1Fill_eq p line b z
  · rw [eq]
    exact State.asksOnly_of_clusters rfl
  · obtain ⟨-, -, asks⟩ := (s.stopWaiting p).l1Insert_effect p { line := l, bytes := b, dirty := false, poison := z }
    rw [eq]
    exact State.AsksOnly.trans (State.asksOnly_of_clusters (State.setCore_clusters _ _ _)) asks

theorem State.asksOnly_fillPort (s : State) (g line port : Nat) (b : List PByte) : s.AsksOnly (s.fillPort g line port b) := by
  unfold State.fillPort
  simp only
  split
  · split
    · exact State.asksOnly_of_clusters (State.stopOnly_freeze _ _ _).clusters
    · exact State.asksOnly_of_clusters rfl
  · exact State.asksOnly_l1Fill _ _ _ _ _

theorem State.asksOnly_fillPorts (s : State) (g line : Nat) (ports : List Nat) (b : List PByte) :
    s.AsksOnly (ports.foldl (fun s port => s.fillPort g line port b) s) :=
  foldl_inv (fun t : State => s.AsksOnly t) _ (fun _ x h => h.trans (State.asksOnly_fillPort _ g line x b)) _ _
    (State.asksOnly_of_clusters rfl)

/-- A line put into an L2 stands last; the rest of its cluster is as it was, but for a counter. -/
theorem State.l2Insert_effect (s : State) (g : Nat) (x : CLine) :
    ((s.l2Insert g x).cluster g).l2.getLast? = some x ∧ ((s.l2Insert g x).cluster g).miss = (s.cluster g).miss
      ∧ ((s.l2Insert g x).cluster g).reqs = (s.cluster g).reqs := by
  unfold State.l2Insert
  simp only [State.free]
  split
  · rw [State.cluster_setCluster_self]
    exact ⟨getLast?_cacheInsert _ _ _ _ _, rfl, rfl⟩
  · rw [State.cluster_congr (State.sameWords_lineToMemory _ _).1]
    split
    · rw [State.cluster_bumpCluster_self, State.cluster_setCluster_self]
      exact ⟨getLast?_cacheInsert _ _ _ _ _, rfl, rfl⟩
    · rw [State.cluster_setCluster_self]
      exact ⟨getLast?_cacheInsert _ _ _ _ _, rfl, rfl⟩

theorem State.clusters_lineRead (s : State) (line : Nat) : (s.lineRead line).2.clusters = s.clusters := by
  unfold State.lineRead
  simp only
  split
  · exact (State.readOnly_objRead _ _ _ _).clusters
  · rfl

/-! ### The cluster switch (R20, R21) -/

/-- Request `r` alone is at the switch of cluster g, and has arrived with its stamp. -/
def State.arrived (s : State) (g : Nat) (r : SwReq) (stamp : Nat) : State :=
  s.setCluster g { s.cluster g with reqs := [{ r with stamp := some stamp }] }

/-- A read that waits for a miss register is counted (R21). -/
def State.countWait (s : State) (g : Nat) : State :=
  if (s.cluster g).reqs.any fun r => r.stamp.isSome && r.wr.isNone then s.bumpCluster g 0xC20 1 else s

@[simp] theorem State.core_countWait (s : State) (g q : Nat) : (s.countWait g).core q = s.core q := by
  unfold State.countWait
  split <;> rfl

@[simp] theorem State.cluster_countWait (s : State) (g : Nat) :
    (s.countWait g).cluster g = { s.cluster g with cnt := ((s.countWait g).cluster g).cnt } := by
  unfold State.countWait
  split
  · exact State.cluster_bumpCluster_self _ _ _ _
  · rfl

theorem Cluster.nextReq_lone {k : Cluster} {r : SwReq} (hr : k.reqs = [r]) (ha : r.stamp.isSome = true) (hs : k.serveable r = true) :
    k.nextReq = some r := by
  simp [Cluster.nextReq, hr, ha, hs]

theorem Cluster.nextReq_unarrived {k : Cluster} (h : ∀ r ∈ k.reqs, r.stamp = none) : k.nextReq = none := by
  have none : (k.reqs.filter fun r => r.stamp.isSome && k.serveable r) = [] := by
    simpa using fun r hr hs => absurd hs (by simp [h r hr])
  rw [Cluster.nextReq, none]
  rfl

theorem State.arbitrate_unarrived {s : State} {g : Nat} (n : Nat) (h : ∀ r ∈ (s.cluster g).reqs, r.stamp = none) : s.arbitrate g n = s := by
  cases n with
  | zero => rfl
  | succ n => simp [State.arbitrate, Cluster.nextReq_unarrived h]

theorem State.l2Ecc_zero (s : State) (g line : Nat) : s.l2Ecc g line 0 = s := by
  unfold State.l2Ecc
  simp only
  split <;> rfl

/-- A lone request that arrives and can be served is served. -/
theorem exec_clusterRequest_lone {s : State} {g port stamp : Nat} {r : SwReq} (hs : s.Settled (512 + g)) (hg : g < 64)
    (ho : (s.cluster g).oos = false) (hr : (s.cluster g).reqs = [r]) (hp : r.port = port) (hn : r.stamp = none)
    (hv : (s.cluster g).serveable r = true) :
    exec (.clusterRequest g port stamp 0) s = .next (((s.arrived g r stamp).serveReq g { r with stamp := some stamp }).countWait g) := by
  have shut : (decide (64 ≤ g) || (s.cluster g).oos) = false := by simp [hg, ho]
  have place : [r].findIdx? (fun r => decide (r.port = port) && r.stamp.isNone) = some 0 := by
    simp [hp, hn, List.findIdx?_cons]
  have next : ((s.arrived g r stamp).cluster g).nextReq = some { r with stamp := some stamp } := by
    rw [State.arrived, State.cluster_setCluster_self]
    exact Cluster.nextReq_lone rfl rfl hv
  have served : (s.arrived g r stamp).arbitrate g 1 = (s.arrived g r stamp).serveReq g { r with stamp := some stamp } := by
    rw [State.arbitrate, next]
    rfl
  simp only [exec, execClusterRequest, State.under_settled _ hs, shut, hr, place, State.l2Ecc_zero, Bool.false_eq_true, Nat.zero_ne_one,
    if_false]
  exact congrArg (fun t : State => Host.Outcome.next (t.countWait g)) served

/-- The prefetches of a stream come by the L2's own input. -/
theorem Cluster.issuePf_keeps (k : Cluster) (cause : Nat) (st : PfStream) :
    (k.issuePf cause st).miss = k.miss ∧ ∀ q ∈ (k.issuePf cause st).reqs, q ∈ k.reqs ∨ q.port = l2Input := by
  unfold Cluster.issuePf
  refine foldl_inv (fun t : Cluster => t.miss = k.miss ∧ ∀ q ∈ t.reqs, q ∈ k.reqs ∨ q.port = l2Input) _ ?_ _ _ ⟨rfl, fun _ => .inl⟩
  rintro t i ⟨miss, reqs⟩
  simp only
  split
  · exact ⟨miss, reqs⟩
  · refine ⟨miss, fun q hq => ?_⟩
    obtain hq | hq := List.mem_append.1 hq
    · exact reqs q hq
    · rw [List.mem_singleton.1 hq]
      exact .inr rfl

theorem ne_l2Input {port : Nat} (h : port < 8) : port ≠ l2Input := Nat.ne_of_lt h

section Serve
variable {s : State} {g : Nat} {r : SwReq} (hp : r.port < 8)
include hp

/-- A read that hits fills the L1 of the core that waits (R20, R290). -/
theorem State.serveReq_hit {x : CLine} {l : Nat} (hw : r.wr = none) (hx : lineIn (s.cluster g).l2 r.line = some x)
    (hm : (s.core (8 * g + r.port)).vec.miss = some l) (ha : (s.core (8 * g + r.port)).vec.missAt = r.line) :
    ((s.serveReq g r).core (8 * g + r.port)).vec.miss = none
      ∧ ((s.serveReq g r).core (8 * g + r.port)).vec.l1.getLast? = some { line := l, bytes := x.bytes, dirty := false, poison := x.poison } := by
  have fill : ∃ t : State, s.serveReq g r = t.l1Fill (8 * g + r.port) r.line x.bytes x.poison ∧ ∀ q, t.core q = s.core q := by
    simp only [State.serveReq, ne_l2Input hp, hw, hx, if_false]
    refine ⟨_, rfl, fun q => ?_⟩
    split <;> rfl
  obtain ⟨t, eq, core⟩ := fill
  rw [eq]
  exact State.l1Fill_waiting _ _ (by rw [core, hm]) (by rw [core, ha])

/-- A write-back to a line of the L2 leaves it dirty (R290). -/
theorem State.serveReq_writeBack {d : List Byte} {x : CLine} (hw : r.wr = some d) (hx : lineIn (s.cluster g).l2 r.line = some x) :
    ((s.serveReq g r).cluster g).reqs = (s.cluster g).reqs.erase r
      ∧ lineIn ((s.serveReq g r).cluster g).l2 r.line
        = some { line := r.line, bytes := d, dirty := true, owner := 8 * g + r.port, poison := r.poison } := by
  simp only [State.serveReq, ne_l2Input hp, hw, hx, if_false, Option.isSome_some, if_true,
    State.cluster_setCluster_self]
  exact ⟨trivial, lineIn_cacheSet (x := { line := r.line, bytes := d, dirty := true, owner := 8 * g + r.port, poison := r.poison }) hx⟩

/-- A miss takes a miss register; what the prefetcher asks for comes by the L2's own input (R21, R292). -/
theorem State.serveReq_miss (hw : r.wr = none) (hx : lineIn (s.cluster g).l2 r.line = none)
    (hm : ∀ m ∈ (s.cluster g).miss, m.line ≠ r.line) :
    (∀ q ∈ ((s.serveReq g r).cluster g).reqs, q ∈ (s.cluster g).reqs.erase r ∨ q.port = l2Input)
      ∧ ({ line := r.line, ports := [r.port], cause := r.port, prefetch := false } : MissReg) ∈ ((s.serveReq g r).cluster g).miss := by
  have noReg : (s.cluster g).miss.find? (fun m => decide (m.line = r.line)) = none := by simpa using hm
  have served : ∃ (t : State) (k : Cluster) (o : Option PfStream), s.serveReq g r = t.setCluster g (o.elim k fun st => k.issuePf r.port st)
      ∧ k.reqs = (s.cluster g).reqs.erase r
      ∧ k.miss = (s.cluster g).miss ++ [{ line := r.line, ports := [r.port], cause := r.port, prefetch := false }] := by
    simp only [State.serveReq, ne_l2Input hp, hw, hx, noReg, if_false]
    exact ⟨_, _, _, rfl, rfl, rfl⟩
  obtain ⟨t, k, o, eq, reqs, miss⟩ := served
  obtain ⟨regs, asked⟩ : (o.elim k fun st => k.issuePf r.port st).miss = k.miss
      ∧ ∀ q ∈ (o.elim k fun st => k.issuePf r.port st).reqs, q ∈ k.reqs ∨ q.port = l2Input := by
    cases o with
    | none => exact ⟨rfl, fun _ => .inl⟩
    | some st => exact k.issuePf_keeps r.port st
  rw [eq, State.cluster_setCluster_self, regs, miss, ← reqs]
  exact ⟨asked, by simp⟩

end Serve

/-! ### Fills (R21, R292) -/

/-- The line of the L2 that a fill brings. -/
def filledLine (line : Nat) (b : List PByte) (pf : Bool) : CLine :=
  { line := line, bytes := b.map Prod.fst, dirty := false, poison := b.any Prod.snd, pf := pf }

/-- The line that has been read is put into the L2, and the ports that wait get it. -/
def State.filled (s : State) (g line : Nat) (m : MissReg) : State :=
  m.ports.foldl (fun t port => t.fillPort g line port (s.lineRead line).1)
    ((s.lineRead line).2.l2Insert g (filledLine line (s.lineRead line).1 m.prefetch))

/-- The line stands last in the L2; the miss registers stay, and no request arrives. -/
theorem State.filled_effect (s : State) (g line : Nat) (m : MissReg) :
    ((s.filled g line m).cluster g).miss = (s.cluster g).miss
      ∧ ((s.filled g line m).cluster g).l2.getLast? = some (filledLine line (s.lineRead line).1 m.prefetch)
      ∧ ∀ r ∈ ((s.filled g line m).cluster g).reqs, r ∈ (s.cluster g).reqs ∨ r.stamp = none := by
  obtain ⟨last, miss, reqs⟩ := (s.lineRead line).2.l2Insert_effect g (filledLine line (s.lineRead line).1 m.prefetch)
  obtain ⟨l, hl, cluster⟩ := State.asksOnly_fillPorts ((s.lineRead line).2.l2Insert g (filledLine line (s.lineRead line).1 m.prefetch)) g line
    m.ports (s.lineRead line).1 g
  rw [State.cluster_congr (State.clusters_lineRead s line)] at miss reqs
  rw [State.filled, cluster]
  refine ⟨miss, last, fun r hr => ?_⟩
  rw [reqs] at hr
  exact (List.mem_append.1 hr).imp_right (hl r)

theorem exec_l2MissFill_allowed {s s1 : State} {g line : Nat} {y : Nat × Nat} {m : MissReg} (hs : s.Settled (512 + g))
    (hm : (s.cluster g).miss.find? (fun m => m.line = line) = some m)
    (h1 : s1 = s.setCluster g { s.cluster g with miss := (s.cluster g).miss.erase m }) (hc : s1.lineCheck g line m.cause = .ok y) :
    exec (.l2MissFill g line) s = .next ((s1.filled g line m).arbitrate g ((s1.filled g line m).cluster g).reqs.length) := by
  simp only [exec, execL2MissFill, State.under_settled _ hs, hm, ← h1, hc]
  rfl

/-- Settles O8, a clause at a time. -/
theorem cachesFlushAndFill : Obligations.CachesFlushAndFill := by
  refine ⟨?l1flush, ?l1inv, ?l1end, ?l2flush, ?l2inv, ?hit, ?miss, ?writeBack, ?fill⟩
  case l1flush =>
    rintro s c p i e _ h hn rfl
    obtain ⟨l1, reqs⟩ := s.l1Flush_effect p i false hn
    exact ⟨_, exec_vecL1flush_cur h, by rw [State.core_rstBegin]; exact l1, by rw [State.cluster_rstBegin]; exact reqs⟩
  case l1inv =>
    rintro s c p i e _ h hn rfl
    obtain ⟨l1, reqs⟩ := s.l1Flush_effect p i true hn
    exact ⟨_, exec_vecL1inv_cur h, by rw [State.core_rstBegin]; exact l1, by rw [State.cluster_rstBegin]; exact reqs⟩
  case l1end =>
    intro s c p i op e cmd hop h hn hw
    have done (inv : Bool) : (s.l1Flush p i e inv).rstBegin.Finished p 6 i := by
      rw [State.l1Flush_end inv hn hw]
      exact State.finished_rstBegin (State.finished_finish e (State.CurAt.lt h))
    obtain ⟨rfl, rfl⟩ | ⟨rfl, rfl⟩ := hop
    · exact ⟨_, exec_vecL1flush_cur h, done false⟩
    · exact ⟨_, exec_vecL1inv_cur h, done true⟩
  case l2flush =>
    rintro s c p i e _ _ h rfl rfl
    obtain ⟨done, l2⟩ := State.l2Flush_effect e false (State.WordAt.lt h)
    exact ⟨_, exec_strL2flush_word h, State.finished_rstBegin done, by rw [State.cluster_rstBegin]; exact l2⟩
  case l2inv =>
    rintro s c p i e _ _ h rfl rfl
    obtain ⟨done, l2⟩ := State.l2Flush_effect e true (State.WordAt.lt h)
    exact ⟨_, exec_strL2inv_word h, State.finished_rstBegin done, by rw [State.cluster_rstBegin]; exact l2⟩
  case hit =>
    rintro s g port stamp l r x hs hg ho hr rfl hp hn hw hx hm ha
    have hv : (s.cluster g).serveable r = true := by simp [Cluster.serveable, hx]
    have cluster : ((s.arrived g r stamp).cluster g).l2 = (s.cluster g).l2 := by rw [State.arrived, State.cluster_setCluster_self]
    refine ⟨_, exec_clusterRequest_lone hs hg ho hr rfl hn hv, ?_⟩
    rw [State.core_countWait]
    exact State.serveReq_hit (r := { r with stamp := some stamp }) hp hw (cluster ▸ hx) hm ha
  case miss =>
    rintro s g port stamp r hs hg ho hr rfl hp hn hw hx hm hl
    have hv : (s.cluster g).serveable r = true := by simp [Cluster.serveable, hl]
    have cluster : (s.arrived g r stamp).cluster g = { s.cluster g with reqs := [{ r with stamp := some stamp }] } :=
      State.cluster_setCluster_self _ _ _
    obtain ⟨reqs, taken⟩ := State.serveReq_miss (s := s.arrived g r stamp) (g := g) (r := { r with stamp := some stamp }) hp hw
      (by rw [cluster]; exact hx) (by rw [cluster]; exact hm)
    refine ⟨_, exec_clusterRequest_lone hs hg ho hr rfl hn hv, ?_⟩
    rw [State.cluster_countWait]
    refine ⟨fun q hq => (reqs q hq).resolve_left ?_, taken⟩
    simp [cluster]
  case writeBack =>
    rintro s g port stamp r d x hs hg ho hr rfl hp hn hw hx
    have hv : (s.cluster g).serveable r = true := by simp [Cluster.serveable, hw]
    have cluster : (s.arrived g r stamp).cluster g = { s.cluster g with reqs := [{ r with stamp := some stamp }] } :=
      State.cluster_setCluster_self _ _ _
    obtain ⟨reqs, line⟩ := State.serveReq_writeBack (s := s.arrived g r stamp) (g := g) (r := { r with stamp := some stamp }) hp hw
      (by rw [cluster]; exact hx)
    refine ⟨_, exec_clusterRequest_lone hs hg ho hr rfl hn hv, ?_⟩
    rw [State.cluster_countWait]
    exact ⟨by rw [reqs, cluster]; simp, line⟩

  case fill =>
    intro s s1 g line y m hs hm hr h1 hc
    obtain ⟨miss, last, reqs⟩ := s1.filled_effect g line m
    have cluster : s1.cluster g = { s.cluster g with miss := (s.cluster g).miss.erase m } := by rw [h1, State.cluster_setCluster_self]
    rw [cluster] at miss reqs
    have idle : ∀ r ∈ ((s1.filled g line m).cluster g).reqs, r.stamp = none := fun r hr' => (reqs r hr').resolve_left (by simp [hr])
    exact ⟨_, by rw [exec_l2MissFill_allowed hs hm h1 hc, State.arbitrate_unarrived _ idle], miss, last⟩

/-! ### Frame runs (R409 to R412) -/

@[simp] theorem State.frameCause_cnt (s : State) (n b : Nat) : (s.frameCause n b).cnt = s.cnt := by
  simp [State.frameCause, State.raise, State.causeLevel]
@[simp] theorem State.frameCause_cores (s : State) (n b : Nat) : (s.frameCause n b).cores = s.cores := by
  simp [State.frameCause, State.raise, State.causeLevel]
@[simp] theorem State.frameCause_frames (s : State) (n b : Nat) : (s.frameCause n b).frames = s.frames := by
  simp [State.frameCause, State.raise, State.causeLevel]

@[simp] theorem State.count_frameCause (s : State) (n b o : Nat) : (s.frameCause n b).count o = s.count o :=
  State.count_congr (State.frameCause_cnt s n b) o

/-- A fold that gives the core of each element the idempotent update `g`, while an invariant of what the step reads is kept: each core is
updated once, however often it is named. -/
theorem State.core_foldl {α : Type} {step : State → α → State} {place : α → Option Nat} {g : Core → Core} {I : State → Prop}
    (hg : ∀ c, g (g c) = g c) (hI : ∀ s x, I s → I (step s x))
    (hstep : ∀ s x q, I s → (step s x).core q = if place x = some q then g (s.core q) else s.core q) (l : List α) {s : State} (hs : I s)
    (q : Nat) : (l.foldl step s).core q = if q ∈ l.filterMap place then g (s.core q) else s.core q := by
  induction l generalizing s with
  | nil => simp
  | cons x t ih =>
    rw [List.foldl_cons, ih (hI s x hs), hstep s x q hs]
    have mem : q ∈ (x :: t).filterMap place ↔ place x = some q ∨ q ∈ t.filterMap place := by simp
    rw [if_congr mem rfl rfl]
    by_cases hx : place x = some q <;> by_cases ht : q ∈ t.filterMap place <;> simp only [hx, ht, hg, if_true, if_false, true_or, false_or]

/-- A core of a frame's set takes part in its run. -/
def Core.inRun (n : Nat) (c : Core) : Core := { c with pre := { c.pre with frame := some n } }

def State.joinRun (n : Nat) (s : State) (l : Nat) : State := (s.phys l).elim s fun p => s.modCore p (Core.inRun n)

theorem State.core_joinRun (n : Nat) (s : State) (l q : Nat) :
    (s.joinRun n l).core q = if s.phys l = some q then (s.core q).inRun n else s.core q := by
  unfold State.joinRun
  cases s.phys l with
  | none => rfl
  | some p =>
    by_cases h : p = q
    · subst h
      simp
    · simp [h, State.core_modCore_ne]

theorem State.joinRun_only (n : Nat) (s : State) (l : Nat) : s.joinRun n l = { s with cores := (s.joinRun n l).cores } := by
  unfold State.joinRun
  cases s.phys l <;> rfl

/-- The state when a run of binding n starts: the run is noted and counted (R410). -/
def State.runBegun (s : State) (n : Nat) : State :=
  { s with frames := s.frames.set n { run := true, cores := s.frameSet n, waiting := s.frameSet n } }.bump (0xC180 + 16 * n) 1

theorem exec_frameEdge_start {s : State} {n : Nat} {up : Bool} (hn : n < 4) (he : bitAt (s.frameBind n) 1 = !up)
    (hb : bitAt (s.frameBind n) 0 = true) (hr : (s.frames.getD n {}).run = false) (hf : ∀ l ∈ s.frameSet n, s.frameBars l = false) :
    exec (.frameEdge n up) s = .next ((s.frameSet n).foldl (State.joinRun n) (s.runBegun n)) := by
  have fit : (s.frameSet n).any s.frameBars = false := by simpa using hf
  have edge : bitAt (s.frameBind n) 1 ≠ up := by simp [he]
  simp only [exec, execFrameEdge, show ¬ 4 ≤ n by omega, edge, hr, hb, fit, if_false, Bool.false_eq_true, Bool.not_true]
  refine congrArg _ (congrArg (List.foldl · _ _) ?_)
  funext t l
  unfold State.joinRun
  cases t.phys l <;> rfl

/-- The cores of the set take part in the run, and in nothing else has a core changed. -/
theorem State.core_joinRun_foldl (s : State) (n : Nat) {l p : Nat} (hl : l ∈ s.frameSet n) (hp : s.phys l = some p) :
    ((s.frameSet n).foldl (State.joinRun n) (s.runBegun n)).core p = (s.core p).inRun n := by
  have mem : p ∈ (s.frameSet n).filterMap s.phys := List.mem_filterMap.2 ⟨l, hl, hp⟩
  rw [State.core_foldl (place := s.phys) (g := Core.inRun n) (I := fun t => t.lmap = s.lmap) (fun _ => rfl) ?keep ?step _ (s := s.runBegun n) rfl, if_pos mem]
  · rfl
  case keep =>
    intro t x ht
    rw [State.joinRun_only, ← ht]
  case step =>
    intro t x q ht
    rw [State.core_joinRun, State.phys, State.phys, ht]

theorem exec_frameEdge_pending {s : State} {n : Nat} {up : Bool} (hn : n < 4) (he : bitAt (s.frameBind n) 1 = !up)
    (hr : (s.frames.getD n {}).run = true) (hp : (s.frames.getD n {}).pend = false) :
    exec (.frameEdge n up) s
      = .next { (s.bump (0xC184 + 16 * n) 1).frameCause n 1 with frames := s.frames.set n { s.frames.getD n {} with pend := true } } := by
  have edge : bitAt (s.frameBind n) 1 ≠ up := by simp [he]
  simp only [exec, execFrameEdge, show ¬ 4 ≤ n by omega, edge, hr, hp, if_false, if_true, Bool.false_eq_true, State.frameCause_frames]
  rfl

theorem exec_frameEdge_dropped {s : State} {n : Nat} {up : Bool} (hn : n < 4) (he : bitAt (s.frameBind n) 1 = !up)
    (hr : (s.frames.getD n {}).run = true) (hp : (s.frames.getD n {}).pend = true) :
    exec (.frameEdge n up) s = .next ((((s.bump (0xC184 + 16 * n) 1).frameCause n 1).bump (0xC18C + 16 * n) 1).frameCause n 3) := by
  have edge : bitAt (s.frameBind n) 1 ≠ up := by simp [he]
  simp only [exec, execFrameEdge, show ¬ 4 ≤ n by omega, edge, hr, hp, if_false, if_true]

/-! ### Request, boundary and save (R410, R429, R431, R435) -/

theorem exec_preemptRequest_taken {s : State} {c p : Nat} (ha : s.Answers c p)
    (hw : (s.core p).pre.frame.isSome = true ∨ (s.core p).pre.host = true) (hph : (s.core p).pre.phase = .none)
    (hst : (s.core p).seq.state = .running ∨ (s.core p).seq.state = .stopped ∨ (s.core p).seq.state = .done) :
    exec (.preemptRequest c) s = .next (s.setCore p (s.core p).preemptStop).rstBegin := by
  have taken : (((s.core p).pre.frame.isSome || (s.core p).pre.host) && decide ((s.core p).pre.phase = .none)
      && (decide ((s.core p).seq.state = .running) || decide ((s.core p).seq.state = .stopped) || decide ((s.core p).seq.state = .done))) = true := by
    simpa [hph, or_assoc] using ⟨hw, hst⟩
  simp only [exec, execPreemptRequest, State.onCore_answers _ ha, taken, if_true]

/-- What the boundary captures: the core without its fills, and with its L1 flushed and invalidated (R431). -/
def Core.captured (k : Core) : CoreCtx :=
  { (k.modSeq fun q => { q with fills := [] }).toCoreCtx with vec := { k.vec with l1 := [], miss := none } }

/-- The core at the boundary: captured, cleared and PREEMPTED (R410, R431). -/
def Core.atSave (k : Core) (n : Nat) : Core :=
  { k.clearFrame with
    pre := { k.pre with phase := .saving, saved := some k.captured, bwait := n, contCommit := k.inCommit }
    seq := { k.clearFrame.seq with state := .preempted } }

theorem exec_preemptBoundary_reached {s : State} {c p : Nat} (n : Nat) (ha : s.Answers c p) (hph : (s.core p).pre.phase = .waiting)
    (hb : (s.core p).atBoundary = true) :
    exec (.preemptBoundary c n) s
      = .next ((s.setCore p ((s.core p).atSave n)).writeBacks p ((s.core p).vec.l1.filter CLine.dirty)).rstBegin := by
  simp only [exec, execPreemptBoundary, State.onCore_answers _ ha, hph, hb]
  rfl

/-- The save area is written: slices, their poison, and free values; no core changes. -/
theorem State.writeSave_only (s : State) (p : Nat) (x : CoreCtx) (pr : Pre) :
    ∃ m z f, s.writeSave p x pr = { s with slice := m, slicePz := z, fresh := f } := by
  unfold State.writeSave
  refine foldl_inv (fun t : State => ∃ m z f, t = { s with slice := m, slicePz := z, fresh := f }) _ ?_ _ _ ⟨_, _, _, rfl⟩
  rintro t y ⟨m, z, f, rfl⟩
  exact ⟨_, _, _, rfl⟩

/-- The save's end on its core. -/
def Core.saveEnded (b w : Nat) (c : Core) : Core :=
  ({ c with pre := { c.pre with phase := .saved, valid := true, bytes := b, saveCyc := 16 + w + 11 } } : Core).bump 0x4050 1

theorem exec_saveDone_frame {s : State} {c p n : Nat} {x : CoreCtx} (st lat : Nat) (ha : s.Answers c p)
    (hph : (s.core p).pre.phase = .saving) (hx : (s.core p).pre.saved = some x) (hf : (s.core p).pre.frame = some n) :
    exec (.saveDone c st lat) s = .next (((s.writeSave p x (s.core p).pre).modCore p
      (Core.saveEnded x.saveBytes ((x.saveBytes + 255) / 256 + st))).frameGo c p n lat).rstBegin := by
  simp only [exec, execSaveDone, State.onCore_answers _ ha, hph, hx, hf]
  rfl

theorem State.core_frameGo_self (s : State) (l p n lat : Nat) : (s.frameGo l p n lat).core p = (s.core p).startSaved (s.frameStart n) := by
  have started := State.core_modCore_self s p fun c => c.startSaved (s.frameStart n)
  unfold State.frameGo
  simp only
  split <;> exact started

theorem State.frameStart_congr {s t : State} (h : t.regs = s.regs) (n : Nat) : t.frameStart n = s.frameStart n := by
  rw [State.frameStart, State.frameStart, h]

/-! ### The end of a run, and restore (R410, R411, R436) -/

/-- A core of a run that ends: it restores, unless a host preempted it before (R410). -/
def Core.leaveRun (c : Core) : Core :=
  if c.pre.host then { c with pre := { c.pre with frame := none }, seq := { c.seq with state := .preempted } } else c.beginRestore

theorem Core.leaveRun_leaveRun (c : Core) : c.leaveRun.leaveRun = c.leaveRun := by
  cases h : c.pre.host <;> simp [Core.leaveRun, Core.beginRestore, h]

theorem State.core_modCore_irqCore (s : State) (p : Nat) (g : Core → Core) (q : Nat) :
    ((s.modCore p g).irqCore p).core q = if some p = some q then g (s.core q) else s.core q := by
  rw [State.core_irqCore]
  by_cases h : p = q
  · subst h
    simp
  · simp [h, State.core_modCore_ne]

/-- The state when a run of binding n has ended, and when the pending one starts, counted (R410, R411). -/
def State.runEnded (s : State) (n : Nat) : State := { s with frames := s.frames.set n { s.frames.getD n {} with run := false } }
def State.runAgain (s : State) (n : Nat) : State :=
  { s with frames := s.frames.set n { s.frames.getD n {} with pend := false } }.bump (0xC180 + 16 * n) 1

section RunEnd
variable {s : State} {n : Nat} (hn : n < 4) (hr : (s.frames.getD n {}).run = true) (hw : (s.frames.getD n {}).waiting = [])
  (hd : ∀ l ∈ (s.frames.getD n {}).cores, ∀ p, s.phys l = some p → (s.core p).seq.state = .done)
include hr hw hd

/-- Every core of the run is DONE, and none has still to start. -/
theorem State.runOver : (!(s.frames.getD n {}).run || !(s.frames.getD n {}).waiting.isEmpty
    || !(((s.frames.getD n {}).cores.filterMap s.phys).all fun p => decide ((s.core p).seq.state = .done))) = false := by
  have done : ((s.frames.getD n {}).cores.filterMap s.phys).all (fun p => decide ((s.core p).seq.state = .done)) = true := by
    simp only [List.all_eq_true, decide_eq_true_eq, List.mem_filterMap]
    exact fun p ⟨l, hl, hp⟩ => hd l hl p hp
  rw [hr, hw, done]
  rfl

include hn

theorem exec_frameRunEnd_restore (hp : (s.frames.getD n {}).pend = false) :
    exec (.frameRunEnd n) s = .next (((s.frames.getD n {}).cores.filterMap s.phys).foldl
      (fun s p => (s.modCore p Core.leaveRun).irqCore p) (s.runEnded n)) := by
  simp only [exec, execFrameRunEnd]
  rw [if_neg (by omega), if_neg (Bool.eq_false_iff.1 (State.runOver hr hw hd)), if_neg (Bool.eq_false_iff.1 hp)]
  rfl

theorem exec_frameRunEnd_next (hp : (s.frames.getD n {}).pend = true) :
    exec (.frameRunEnd n) s = .next (((s.frames.getD n {}).cores.filterMap s.phys).foldl
      (fun s p => (s.modCore p fun c => c.startSaved (s.frameStart n)).irqCore p) (s.runAgain n)) := by
  simp only [exec, execFrameRunEnd]
  rw [if_neg (by omega), if_neg (Bool.eq_false_iff.1 (State.runOver hr hw hd)), if_pos hp]
  rfl

end RunEnd

/-- The restored core, with the cycles its restore took. -/
def Core.restoreEnded (x : CoreCtx) (w : Nat) (c : Core) : Core := { c.restored x with pre := { (c.restored x).pre with restCyc := 28 + w } }

theorem exec_restoreDone_good {s : State} {c p : Nat} {x : CoreCtx} (n : Nat) (ha : s.Answers c p)
    (hph : (s.core p).pre.phase = .restoring) (hx : (s.core p).pre.saved = some x) (hh : (s.core p).pre.held = []) :
    exec (.restoreDone c n false) s
      = .next ((s.modCore p (Core.restoreEnded x (((s.core p).pre.bytes + 255) / 256 + n))).irqCore p).rstBegin := by
  simp only [exec, execRestoreDone, State.onCore_answers _ ha, hph, hx, hh]
  rfl

/-! ### A fence on no acknowledgement (R25, R420, R421) -/

/-- A failing run leaves a core that does not run and has nothing saved or under way. -/
theorem State.core_frameFail {s : State} {p : Nat} (n : Nat) (h : (s.core p).active = false) (hph : (s.core p).pre.phase = .none) :
    (s.frameFail n).core p = s.core p := by
  unfold State.frameFail
  simp only
  split
  · rfl
  · rw [State.core_congr (State.frameCause_cores _ _ _)]
    refine foldl_inv (fun t : State => t.core p = s.core p) _ ?_ _ _ rfl
    intro t l ht
    split
    · rename_i q _
      by_cases e : q = p
      · subst e
        have kept : (s.core q).abandonPre = s.core q := by simp [Core.abandonPre, hph]
        simp [ht, hph, kept, Core.stop_of_not_active h]
      · rw [State.core_modCore_ne _ _ e, ht]
    · exact ht

theorem State.core_failRun {s : State} {p : Nat} (r : Option Nat) (h : (s.core p).active = false) (hph : (s.core p).pre.phase = .none) :
    (s.failRun r).core p = s.core p := by
  cases r with
  | none => rfl
  | some n => exact State.core_frameFail n h hph

theorem State.StopOnly.fences {s t : State} (h : s.StopOnly t) : t.fences = s.fences := by
  rw [h.1]

/-- The fence that a core gets which is not fenced or fused: it is in the list, and the core is STOPPED with nothing saved; then its run fails
(R421, R423). -/
theorem State.fenceCore_new {s : State} {p : Nat} (cause : Nat) (hu : p ∉ s.fused) (hf : ∀ f ∈ s.fences, f.p ≠ p) :
    ∃ (u : State) (r : Option Nat) (c : Core), s.fenceCore p cause = u.failRun r ∧ u.core p = c.fenceStop cause
      ∧ u.fences = s.fences ++ [{ p := p, cause := cause, persist := false }] := by
  have new : (s.fused.contains p || s.fences.any fun f => decide (f.p = p)) = false := by
    simpa using ⟨hu, hf⟩
  obtain ⟨ob, released⟩ := State.releasePins_only s p
  unfold State.fenceCore
  simp only [new, if_false, Bool.false_eq_true]
  refine ⟨_, _, (s.releasePins p).core p, rfl, ?_, ?_⟩
  · rw [State.core_level]
    exact State.core_modCore_self (s.releasePins p) p fun c => c.fenceStop cause
  · rw [State.level_fences, released]
    rfl

/-- Settles O28, a clause at a time. -/
theorem framesAndPreemption : Obligations.FramesAndPreemption := by
  refine ⟨?start, ?edge, ?request, ?boundary, ?saved, ?restore, ?again, ?restored, ?deadline, ?fence⟩
  case start =>
    intro s n up hn he hb hr hlen hf
    have frames : ((s.frameSet n).foldl (State.joinRun n) (s.runBegun n)).frames = (s.runBegun n).frames :=
      foldl_keeps State.frames _ (fun t l => by rw [State.joinRun_only]) _ _
    have cnt : ((s.frameSet n).foldl (State.joinRun n) (s.runBegun n)).cnt = (s.runBegun n).cnt :=
      foldl_keeps State.cnt _ (fun t l => by rw [State.joinRun_only]) _ _
    refine ⟨_, exec_frameEdge_start hn he hb hr hf, ?_, ?_, fun l hl p hp => State.core_joinRun_foldl s n hl hp⟩
    · rw [frames]
      simp [State.runBegun, State.bump, List.getD, hlen]
    · rw [State.count_congr cnt]
      exact State.count_bump_self _ _ _
  case edge =>
    intro s n up hn he hr hlen
    cases hp : (s.frames.getD n {}).pend with
    | false =>
      refine ⟨_, exec_frameEdge_pending hn he hr hp, ?_, State.frameCause_cores _ _ _, ?_, nofun⟩
      · simp [List.getD, hlen]
      · exact (State.count_frameCause _ _ _ _).trans (State.count_bump_self _ _ _)
    | true =>
      refine ⟨_, exec_frameEdge_dropped hn he hr hp, ?_, ?_, ?_, fun _ => ?_⟩
      · have kept : { s.frames.getD n {} with pend := true } = s.frames.getD n {} := by rw [← hp]
        rw [kept]
        simp [State.bump]
      · simp [State.bump]
      · rw [State.count_frameCause, State.count_bump_ne _ _ (by omega), State.count_frameCause, State.count_bump_self]
      · rw [State.count_frameCause, State.count_bump_self, State.count_frameCause, State.count_bump_ne _ _ (by omega)]
  case request =>
    intro s c p ha hw hph hst
    refine ⟨_, exec_preemptRequest_taken ha hw hph hst, ?_⟩
    rw [State.core_rstBegin, State.core_setCore_self]
    exact ⟨rfl, rfl, rfl, rfl, rfl⟩
  case boundary =>
    intro s c p n ha hph hb
    refine ⟨_, (s.core p).captured, exec_preemptBoundary_reached n ha hph hb, ?_⟩
    rw [State.core_rstBegin, State.core_writeBacks, State.core_setCore_self]
    exact ⟨rfl, rfl, rfl, rfl, rfl, rfl, rfl, rfl, rfl, rfl, rfl, rfl⟩
  case saved =>
    intro s c p st lat n x ha hph hx hf
    refine ⟨_, exec_saveDone_frame st lat ha hph hx hf, ?_⟩
    obtain ⟨m, z, f, only⟩ := State.writeSave_only s p x (s.core p).pre
    rw [State.core_rstBegin, State.core_frameGo_self, State.core_modCore_self, only]
    exact ⟨rfl, rfl, rfl, rfl, Core.count_bump_self _ _ _, rfl, rfl, hx⟩
  case restore =>
    intro s n hn hlen hr hw hp hd
    refine ⟨_, exec_frameRunEnd_restore hn hr hw (fun l hl p hp => (hd l hl p hp).1) hp, ?_, fun l hl p hp => ?_⟩
    · rw [foldl_keeps State.frames _ (fun t x => by simp)]
      simp [State.runEnded, List.getD, hlen]
    · have mem : p ∈ ((s.frames.getD n {}).cores.filterMap s.phys).filterMap some := by
        simpa using ⟨l, hl, hp⟩
      rw [State.core_foldl (place := some) (I := fun _ => True) Core.leaveRun_leaveRun (fun _ _ _ => trivial)
        (fun t x q _ => State.core_modCore_irqCore t x _ q) _ (s := s.runEnded n) trivial, if_pos mem]
      have host : (s.core p).pre.host = false := (hd l hl p hp).2
      rw [show (s.runEnded n).core p = s.core p from rfl, Core.leaveRun, host]
      exact ⟨rfl, rfl⟩
  case again =>
    intro s n hn hlen hr hw hp hd
    refine ⟨_, exec_frameRunEnd_next hn hr hw hd hp, ?_, ?_, fun l hl p hp => ?_⟩
    · rw [foldl_keeps State.frames _ (fun t x => by simp)]
      simp [State.runAgain, State.bump, List.getD, hlen]
    · rw [State.count_congr (foldl_keeps State.cnt _ (fun t x => by simp) _ _)]
      exact State.count_bump_self _ _ _
    · have mem : p ∈ ((s.frames.getD n {}).cores.filterMap s.phys).filterMap some := by
        simpa using ⟨l, hl, hp⟩
      rw [State.core_foldl (place := some) (g := fun c => c.startSaved (s.frameStart n)) (I := fun t => t.regs = s.regs) (fun _ => rfl)
        (fun t x ht => by simpa using ht) ?_ _ (s := s.runAgain n) rfl, if_pos mem]
      · exact ⟨rfl, rfl⟩
      · intro t x q ht
        rw [State.core_modCore_irqCore, State.frameStart_congr ht]
  case restored =>
    intro s c p n x ha hph hx hh
    refine ⟨_, exec_restoreDone_good n ha hph hx hh, ?_⟩
    rw [State.core_rstBegin, State.core_irqCore, State.core_modCore_self]
    exact ⟨rfl, rfl, (Nat.add_assoc _ _ _).symm, rfl, rfl, rfl, rfl, rfl, rfl, rfl, rfl⟩
  case deadline =>
    intro s n hn hr
    have run : exec (.frameDeadline n) s = .next ((s.bump (0xC188 + 16 * n) 1).frameCause n 0) := by
      simp only [exec, execFrameDeadline, show ¬ 4 ≤ n by omega, hr, decide_false, Bool.not_true, Bool.or_self, Bool.false_eq_true, if_false]
    exact ⟨_, run, State.frameCause_frames _ _ _, (State.count_frameCause _ _ _ _).trans (State.count_bump_self _ _ _)⟩
  case fence =>
    intro s p hp hu hf
    obtain ⟨u, r, c, fenced, stopped, listed⟩ := State.fenceCore_new 6 hu hf
    have run : exec (.noAckTimeout p) s = .next (u.failRun r) := by
      rw [← fenced]
      simp [exec, execNoAckTimeout, hp]
    refine ⟨_, run, (State.stopOnly_failRun u r).fences.trans listed, ?_⟩
    rw [State.core_failRun r (by rw [stopped]; rfl) (by rw [stopped]; rfl), stopped]
    exact ⟨rfl, rfl, rfl⟩

end Sys2Proof.Machine
end

section
/-! Proofs of the statements of numbers and exact sums (02): sums of Felt blocks (R70 to R72), the words that open and close a step (R165, R166),
the exchange's messages and blocks (R199, R202, R287, R359), and the accumulating words of the engines (R79 to R94, R100). -/

namespace Sys2Proof.Machine

/-! ### Sums of Felt blocks (R70 to R72) -/

/-- A quantised element stays within the scale (R71). -/
theorem natAbs_feltElem_le (e f : Nat) (x : Fp) : (feltElem e f x).1.natAbs ≤ 2 ^ f - 1 := by
  cases x with
  | fin neg m x =>
    simp only [feltElem]
    split <;> split <;> omega
  | _ => exact Nat.zero_le _

/-- A sum that the element's width holds is not clamped (R72). -/
theorem feltClamp_of_le {w : Bool} {x : Int} (h : x.natAbs ≤ 2 ^ (feltW w - 1) - 1) : feltClamp w x = (x, false) := by
  have low : ¬ x > 2 ^ (feltW w - 1) - 1 := by
    cases w <;> norm_num [feltW] at h ⊢ <;> omega
  have high : ¬ x < -(2 ^ (feltW w - 1)) := by
    cases w <;> norm_num [feltW] at h ⊢ <;> omega
  simp only [feltClamp, if_neg low, if_neg high]

/-- The exact sum of element i over contributions quantised at e. -/
def feltSum (e f : Nat) (l : List (List Fp)) (i : Nat) : Int := (l.map fun v => (feltElem e f (v.getD i (.fin false 0 0))).1).sum

theorem feltSum_concat (e f : Nat) (l : List (List Fp)) (v : List Fp) (i : Nat) :
    feltSum e f (l ++ [v]) i = feltSum e f l i + (feltElem e f (v.getD i (.fin false 0 0))).1 := by
  simp [feltSum]

theorem natAbs_feltSum_le (e f : Nat) (l : List (List Fp)) (i : Nat) : (feltSum e f l i).natAbs ≤ l.length * (2 ^ f - 1) := by
  induction l with
  | nil => simp [feltSum]
  | cons v t ih =>
    have elem := natAbs_feltElem_le e f (v.getD i (.fin false 0 0))
    have split : feltSum e f (v :: t) i = (feltElem e f (v.getD i (.fin false 0 0))).1 + feltSum e f t i := by
      simp [feltSum]
    calc (feltSum e f (v :: t) i).natAbs ≤ (2 ^ f - 1) + t.length * (2 ^ f - 1) := by
          rw [split]
          exact (Int.natAbs_add_le _ _).trans (Nat.add_le_add elem ih)
      _ = (v :: t).length * (2 ^ f - 1) := by
          rw [List.length_cons]
          ring

/-- 128 elements at the scale fit an element's width (R70). -/
theorem feltClamp_feltSum {w : Bool} {e : Nat} {l : List (List Fp)} (h : l.length ≤ 128) (i : Nat) :
    feltClamp w (feltSum e (feltF w) l i) = (feltSum e (feltF w) l i, false) := by
  apply feltClamp_of_le
  have bound := natAbs_feltSum_le e (feltF w) l i
  have scale : l.length * (2 ^ feltF w - 1) ≤ 128 * (2 ^ feltF w - 1) := Nat.mul_le_mul_right _ h
  cases w <;> norm_num [feltF, feltW] at bound scale ⊢ <;> omega

theorem feltQuantise_n {v : List Fp} (h : v.length = 64) (e : Nat) (w : Bool) :
    (feltQuantise v e w).n = (List.range 64).map fun i => (feltElem e (feltF w) (v.getD i (.fin false 0 0))).1 := by
  apply List.ext_getElem
  · simp [feltQuantise, h]
  · intro i hi _
    have lt : i < v.length := by simpa [feltQuantise] using hi
    simp [feltQuantise, List.getD, lt]

/-- Block `b` is the exact sum of the contributions `l` quantised at e (R70). -/
structure IsFeltSum (w : Bool) (e : Nat) (l : List (List Fp)) (b : FeltBlk) : Prop where
  e_eq : b.e = e
  count_eq : b.count = min 127 l.length
  n_eq : b.n = (List.range 64).map (feltSum e (feltF w) l)
  ovf_eq : b.ovf = l.any fun v => (feltQuantise v e w).ovf
  nf_eq : b.nf = l.any fun v => (feltQuantise v e w).nf

theorem isFeltSum_feltZero (w : Bool) (e : Nat) : IsFeltSum w e [] (feltZero e) where
  e_eq := rfl
  count_eq := rfl
  n_eq := rfl
  ovf_eq := rfl
  nf_eq := rfl

/-- The first contribution takes the identity's place (R73). -/
theorem isFeltSum_feltQuantise (w : Bool) (e : Nat) {v : List Fp} (h : v.length = 64) : IsFeltSum w e [v] (feltQuantise v e w) where
  e_eq := rfl
  count_eq := rfl
  n_eq := by simp [feltQuantise_n h, feltSum]
  ovf_eq := by simp
  nf_eq := by simp

/-- Adding one more block to fewer than 128 stays exact: no element is clamped (R72). -/
theorem IsFeltSum.feltAdd {b : FeltBlk} {w : Bool} {e : Nat} {l : List (List Fp)} {v : List Fp} (hb : IsFeltSum w e l b) (hl : l.length < 128)
    (hv : v.length = 64) : IsFeltSum w e (l ++ [v]) (feltAdd w b (feltQuantise v e w)) := by
  cases l with
  | nil =>
    have first : Machine.feltAdd w b (feltQuantise v e w) = feltQuantise v e w := if_pos hb.count_eq
    rw [first]
    exact isFeltSum_feltQuantise w e hv
  | cons u t =>
    have counted : b.count ≠ 0 := by
      have := hb.count_eq
      simp only [List.length_cons] at this
      omega
    have sums : List.zipWith (fun x y => feltClamp w (x + y)) b.n (feltQuantise v e w).n
        = (List.range 64).map fun i => (feltSum e (feltF w) (u :: t ++ [v]) i, false) := by
      rw [hb.n_eq, feltQuantise_n hv, List.zipWith_map, List.zipWith_self]
      refine List.map_congr_left fun i _ => ?_
      rw [← feltSum_concat, feltClamp_feltSum (by simp only [List.length_append, List.length_singleton]; omega)]
    have added : Machine.feltAdd w b (feltQuantise v e w)
        = ⟨e, min 127 (b.count + 1), b.nf || (feltQuantise v e w).nf, b.ovf || (feltQuantise v e w).ovf,
            max b.extra (feltQuantise v e w).extra, (List.range 64).map (feltSum e (feltF w) (u :: t ++ [v]))⟩ := by
      have same : ¬ b.e ≠ (feltQuantise v e w).e := not_not.mpr hb.e_eq
      simp only [Machine.feltAdd, if_neg counted, if_neg same, sums]
      simp [feltQuantise, show b.e = e from hb.e_eq, Function.comp_def]
    rw [added]
    exact {
      e_eq := rfl
      count_eq := by
        simp only [hb.count_eq, List.length_append, List.length_singleton]
        omega
      n_eq := rfl
      ovf_eq := by simp [hb.ovf_eq, List.any_append, Bool.or_assoc]
      nf_eq := by simp [hb.nf_eq, List.any_append, Bool.or_assoc] }

/-- The sum of up to 128 blocks, added in order from the identity. -/
theorem isFeltSum_foldl (w : Bool) (e : Nat) {l : List (List Fp)} (hl : l.length ≤ 128) (hv : ∀ v ∈ l, v.length = 64) :
    IsFeltSum w e l ((l.map fun v => feltQuantise v e w).foldl (feltAdd w) (feltZero e)) := by
  induction l using List.reverseRecOn with
  | nil => exact isFeltSum_feltZero w e
  | append_singleton l v ih =>
    have shorter : l.length < 128 := by simpa using hl
    have before := ih shorter.le fun u hu => hv u (List.mem_append_left _ hu)
    simpa using before.feltAdd shorter (hv v (by simp))

/-- Settles O54: the fold keeps the exact sum, by induction on the contributions. -/
theorem feltSumsNeverOverflow : Obligations.FeltSumsNeverOverflow := by
  rintro w e l b hl hv rfl
  have total := isFeltSum_foldl w e hl hv
  refine ⟨fun i hi => ?_, total.e_eq, total.count_eq, ?_, ?_, ?_⟩
  · rw [total.n_eq]
    simp [List.getD, hi, feltSum]
  · simp [total.n_eq]
  · simp [total.ovf_eq]
  · simp [total.nf_eq]

/-! ### The words that open and close a step (R165, R166) -/

/-- STEP.OPEN with its wait met, every queue empty and no step open. -/
theorem exec_stepOpen_ready {s : State} {c p : Nat} {w : CWord} {k : Core} (h : s.SeqReady c p 0xC w k) (hf : k.pre.frame = none)
    (hs : k.synced = true) (ho : k.seq.open_ = false) :
    exec (.stepOpen c) s = .next (((s.setCore p ((k.openStep w s.runSeed s.updRne).seqDone none)).send
      (.openNotice p c (k.openStep w s.runSeed s.updRne).seq.step (k.openStep w s.runSeed s.updRne).seq.attempt k.seq.seqno)).wordSignal p w
        (k.seqHalt 0 0)).rstBegin := by
  simp only [exec, execStepOpen]
  rw [State.onSeq_ready h]
  simp [hf, hs, ho]

/-- The counts that belong to a step read 0 after STEP.OPEN. -/
theorem Core.count_openStep (k : Core) (w : CWord) (seed : W64) (rne : Bool) {o : Nat} (h : o = 0x2258 ∨ o = 0x225C ∨ o = 0x250C) :
    (k.openStep w seed rne).count o = 0 := by
  change (aget 0 (aset (aset (aset k.cnt 0x2258 0) 0x225C 0) 0x250C 0) o).toNat = 0
  rcases h with rfl | rfl | rfl
  · rw [aget_aset_ne _ _ _ (by decide), aget_aset_ne _ _ _ (by decide), aget_aset_self]
    rfl
  · rw [aget_aset_ne _ _ _ (by decide), aget_aset_self]
    rfl
  · rw [aget_aset_self]
    rfl

/-- A bit that a mask takes out. -/
theorem getLsbD_and_not {w n : Nat} (x : BitVec w) {m : BitVec w} (h : m.getLsbD n = true) : (x &&& ~~~m).getLsbD n = false := by
  simp [h]

/-- STEP.OPEN clears bits 3 and 4 of the flags, and bit 10 says that it is the reissue of a repeat. -/
theorem Core.flags_openStep (k : Core) (w : CWord) (seed : W64) (rne : Bool) :
    (k.openStep w seed rne).seq.flags.getLsbD 3 = false ∧ (k.openStep w seed rne).seq.flags.getLsbD 4 = false
      ∧ (k.openStep w seed rne).seq.flags.getLsbD 10 = k.seq.repeating := by
  have flags : (k.openStep w seed rne).seq.flags
      = if k.seq.repeating then k.seq.flags &&& ~~~(0x418 : BitVec 32) ||| 0x400 else k.seq.flags &&& ~~~(0x418 : BitVec 32) := rfl
  have cleared : ∀ n ∈ [3, 4, 10], (k.seq.flags &&& ~~~(0x418 : BitVec 32)).getLsbD n = false := by
    intro n hn
    apply getLsbD_and_not
    revert n
    decide
  have set_ : (0x400 : BitVec 32).getLsbD 3 = false ∧ (0x400 : BitVec 32).getLsbD 4 = false ∧ (0x400 : BitVec 32).getLsbD 10 = true := by decide
  rw [flags]
  cases k.seq.repeating with
  | false => exact ⟨cleared 3 (by simp), cleared 4 (by simp), cleared 10 (by simp)⟩
  | true =>
    simp only [if_true, BitVec.getLsbD_or, cleared 3 (by simp), cleared 4 (by simp), cleared 10 (by simp), set_, Bool.or_self, Bool.or_true,
      and_self]

/-- A STEP.CLOSE that has not reported sends its report once its wait is met and every queue is empty (R244). -/
theorem exec_stepClose_report {s : State} {c p : Nat} {u : SeqCur} {k : Core} (ha : s.Answers c p) (hr : (s.core p).active = true)
    (hp : (s.core p).preOk = true) (hc : (s.core p).seq.cur = some u) (hw : wOp u.word = 0xD) (hu : u.sent = false)
    (hk : (s.core p).seqWait u.word = .ready k) (ho : (s.core p).seq.open_ = true) (hf : (s.core p).pre.frame = none)
    (hs : (s.core p).synced = true) :
    ∃ k' : Core, exec (.stepClose c) s = .next (((s.setCore p k').send (.closeReport p ((s.core p).closeReport c))).rstBegin)
      ∧ k'.seq = { k.seq with cur := some { u with sent := true } } := by
  simp only [exec, execStepClose]
  rw [State.onCore_answers _ ha]
  simp only [hc, hr, hp, hw, hu, hk, ho, hf, hs, ne_eq, not_true, decide_false, Bool.not_true, Bool.not_false, Bool.or_self, Option.isSome_none,
    Bool.false_eq_true, if_false, if_true]
  exact ⟨_, rfl, rfl⟩

/-- A core whose step ends with outcome `o`: STEP_SKIPPED, bit 9, says whether it was skipped (R166). -/
def Core.stepEnded (k : Core) (o : Nat) : Core :=
  (k.modSeq fun q => { q with
    open_ := false, repeatRec := none
    flags := if o = 2 then k.seq.flags &&& ~~~(0x200 : BitVec 32) ||| 0x200 else k.seq.flags &&& ~~~(0x200 : BitVec 32) }).seqDone none

/-- A core with a STOP under way stops once its words are done (R174). -/
def Core.stopsWhenSynced (k : Core) : Core :=
  if k.seq.stopping && k.synced then k.modSeq fun q => { q with state := .stopped, stopping := false } else k

/-- A STEP.CLOSE that has reported and has its outcome closes the step (R166). -/
theorem exec_stepClose_outcome {s : State} {c p o : Nat} {u : SeqCur} (ha : s.Answers c p) (hr : (s.core p).active = true)
    (hp : (s.core p).preOk = true) (hc : (s.core p).seq.cur = some u) (hw : wOp u.word = 0xD) (hu : u.sent = true) (ho : u.outcome = some o) :
    exec (.stepClose c) s
      = .next (((s.setCore p ((s.core p).stepEnded o).stopsWhenSynced).wordSignal p u.word ((s.core p).seqHalt 0 0)).rstBegin) := by
  simp only [exec, execStepClose]
  rw [State.onCore_answers _ ha]
  simp only [hc, hr, hp, hw, hu, ho, ne_eq, not_true, decide_false, Bool.not_true, Bool.or_self, Bool.false_eq_true, if_false]
  rfl

theorem Core.seq_stepEnded (k : Core) (o : Nat) :
    (k.stepEnded o).stopsWhenSynced.seq.open_ = false ∧ (k.stepEnded o).stopsWhenSynced.seq.repeatRec = none
      ∧ (k.stepEnded o).stopsWhenSynced.seq.cur = none ∧ (k.stepEnded o).stopsWhenSynced.seq.flags.getLsbD 9 = decide (o = 2)
      ∧ (k.stepEnded o).stopsWhenSynced.seq.seqno = (k.seq.seqno + 1) % 65536 := by
  have flags : (k.stepEnded o).seq.flags.getLsbD 9 = decide (o = 2) := by
    change (if o = 2 then k.seq.flags &&& ~~~(0x200 : BitVec 32) ||| 0x200 else k.seq.flags &&& ~~~(0x200 : BitVec 32)).getLsbD 9 = decide (o = 2)
    have bit : (0x200 : BitVec 32).getLsbD 9 = true := by decide
    by_cases h : o = 2
    · rw [if_pos h, BitVec.getLsbD_or, bit, Bool.or_true, decide_eq_true h]
    · rw [if_neg h, getLsbD_and_not _ bit, decide_eq_false h]
  unfold Core.stopsWhenSynced
  split <;> exact ⟨rfl, rfl, rfl, flags, rfl⟩

/-- A word's signal leaves the step of a core: whether it is open, its record, the flags and the word's number. -/
theorem State.seq_wordSignal (s : State) (p q : Nat) (w : CWord) (r : HaltRec) :
    ((s.wordSignal p w r).core q).seq.open_ = (s.core q).seq.open_ ∧ ((s.wordSignal p w r).core q).seq.repeatRec = (s.core q).seq.repeatRec
      ∧ ((s.wordSignal p w r).core q).seq.flags = (s.core q).seq.flags ∧ ((s.wordSignal p w r).core q).seq.seqno = (s.core q).seq.seqno := by
  obtain ⟨b, only, _⟩ := State.wordSignal_core s p q w r
  rw [only]
  exact ⟨rfl, rfl, rfl, rfl⟩

/-- Settles O3, a clause at a time. -/
theorem stepsOpenAndClose : Obligations.StepsOpenAndClose := by
  refine ⟨?opened, ?report, ?closed⟩
  case opened =>
    rintro s c p n w k h hf hq ho rfl
    have run := exec_stepOpen_ready h hf (k.synced_iff.mpr hq) ho
    obtain ⟨nf, nf', repeated⟩ := k.flags_openStep w s.runSeed s.updRne
    have zero := fun {o} => k.count_openStep w s.runSeed s.updRne (o := o)
    exact ⟨k.openStep w s.runSeed s.updRne, _, rfl, run, rfl, rfl, rfl, rfl, rfl, rfl, rfl, zero (.inl rfl), zero (.inr (.inl rfl)),
      zero (.inr (.inr rfl)), rfl, rfl, nf, nf', repeated, rfl, rfl, rfl, rfl, rfl⟩
  case report =>
    intro s c p u k ha hr hp hc hw hu hk ho hf hq
    obtain ⟨k', run, seq⟩ := exec_stepClose_report ha hr hp hc hw hu hk ho hf ((s.core p).synced_iff.mpr hq)
    refine ⟨_, (s.core p).closeReport c, run, by simp, rfl, rfl, rfl, rfl, rfl, rfl, ?_⟩
    rw [State.core_rstBegin, State.core_send, State.core_setCore_self, seq, Core.seqWait_ready hk]
    exact ⟨rfl, ho⟩
  case closed =>
    intro s c p o u ha hr hp hc hw hu ho
    obtain ⟨open_, record, cur, skipped, seqno⟩ := (s.core p).seq_stepEnded o
    obtain ⟨keepOpen, keepRecord, keepFlags, keepSeqno⟩ := State.seq_wordSignal (s.setCore p ((s.core p).stepEnded o).stopsWhenSynced) p p u.word
      ((s.core p).seqHalt 0 0)
    refine ⟨_, exec_stepClose_outcome ha hr hp hc hw hu ho, ?_⟩
    rw [State.core_rstBegin, keepOpen, keepRecord, keepFlags, keepSeqno, State.cur_wordSignal _ _ (by rw [State.core_setCore_self, cur]),
      State.core_setCore_self]
    exact ⟨open_, record, rfl, skipped, seqno⟩

/-! ### Words of a queue, and queues that are popped and pushed -/

/-- A word put back stands in its place. -/
theorem State.words_putWord_self (s : State) (p q i : Nat) (e : Cqe) : ((s.putWord p q i e).core p).words q = ((s.core p).words q).set i e := by
  rw [State.putWord, State.core_modCore_self, Core.setWord, Core.words_setWords_self]

theorem State.getElem?_putWord_self {s : State} {p q i : Nat} (e : Cqe) (h : i < ((s.core p).words q).length) :
    (((s.putWord p q i e).core p).words q)[i]? = some e := by
  rw [State.words_putWord_self, List.getElem?_set_self h]

@[simp] theorem State.core_putWord_self (s : State) (p q i : Nat) (e : Cqe) : (s.putWord p q i e).core p = (s.core p).setWord q i e :=
  State.core_modCore_self s p _

@[simp] theorem Core.dataQ_setWord (c : Core) (q i : Nat) (e : Cqe) (r : Nat) : (c.setWord q i e).dataQ r = c.dataQ r := rfl
@[simp] theorem Core.words_pushDq (c : Core) (q : Nat) (l : List DqEnt) (r : Nat) : (c.pushDq q l).words r = c.words r := rfl
@[simp] theorem Core.words_dropDq (c : Core) (q n r : Nat) : (c.dropDq q n).words r = c.words r := rfl

theorem Core.dataQ_pushDq_ne (c : Core) {q r : Nat} (l : List DqEnt) (h : q ≠ r) : (c.pushDq q l).dataQ r = c.dataQ r :=
  Core.dataQ_setDataQ_ne _ _ h
theorem Core.dataQ_dropDq_ne (c : Core) {q r : Nat} (n : Nat) (h : q ≠ r) : (c.dropDq q n).dataQ r = c.dataQ r :=
  Core.dataQ_setDataQ_ne _ _ h

/-- Entries at the front of INA, none poisoned, are taken. -/
theorem Core.exchTake_clean {c : Core} {q n : Nat} {l : List DqEnt} (h : c.headDq q n = some l) (hp : ∀ x ∈ l, x.poison = false) :
    c.exchTake q n = some (.ok (l, c.dropDq q n)) := by
  have clean : l.any DqEnt.poison = false := by simpa using hp
  simp [Core.exchTake, h, clean]

/-! ### Mailboxes (R199, R287, R288) -/

theorem State.WordAt.word {s : State} {c p q op i : Nat} {e : Cqe} (h : s.WordAt c p q op i e) : ((s.core p).words q)[i]? = some e := by
  obtain ⟨-, word, -⟩ := h
  exact word

theorem State.WordAt.op_eq {s : State} {c p q op i : Nat} {e : Cqe} (h : s.WordAt c p q op i e) : wOp e.word = op := by
  obtain ⟨-, -, -, -, -, op⟩ := h
  exact op

/-- EX.MAIL of n bytes, `m` entries, to a core of this device, with its entries there and no earlier message to the same mailbox on its way. -/
theorem exec_exMail_local {s : State} {c p i n m : Nat} {e : Cqe} {l : List DqEnt} (h : s.WordAt c p 9 4 i e) (h0 : e.n = 0)
    (hn : n = wbits e.word 46 8 + 1) (hm : m = if 128 < n then 2 else 1) (hb : (s.core p).exchBlocked i e = false)
    (he : ∀ x ∈ ((s.core p).words 9).take i, x.started = true → x.fin = false → wOp x.word = 4 → mailBox x.word ≠ mailBox e.word)
    (hl : (s.core p).headDq (wIna e.word) m = some l) (hp : ∀ x ∈ l, x.poison = false) (hd : s.isLocalDev (wbits e.word 54 8) = true) :
    exec (.exMail c i) s = .next ((((s.setCore p ((s.core p).dropDq (wIna e.word) m)).putWord p 9 i { e with n := 1, segs := 1 }).send
      (.mail p e.seqno (wbits e.word 62 10) (wbits e.word 42 4) c ((entsBytes l).take n) false)).rstBegin) := by
  subst hn hm
  have none_earlier : (((s.core p).words 9).take i).any (fun x => x.started && !x.fin && wOp x.word = 4 && mailBox x.word = mailBox e.word)
      = false := by
    simpa [and_assoc] using he
  have dev : xDdev e.word = wbits e.word 54 8 := by simp [xDdev, h.op_eq]
  have core : xDcore e.word = wbits e.word 62 10 := by simp [xDcore, h.op_eq]
  have here : ((s.setCore p ((s.core p).dropDq (wIna e.word) (if 128 < wbits e.word 46 8 + 1 then 2 else 1))).putWord p 9 i
      { e with n := 1, segs := 1 }).isLocalDev (xDdev e.word) = true := by
    rw [dev]
    exact hd
  simp only [exec, execExMail]
  rw [State.onWord_ready h]
  simp only [h0, hb, none_earlier, Core.exchTake_clean hl hp, here, core, xTag, ne_eq, not_true, decide_false, Bool.or_self, Bool.false_eq_true,
    if_false, if_true]

/-- The first element that a test takes, with its place. -/
theorem find?_zipIdx_eq_some {α : Type} {l : List α} {j : Nat} {a : α} {f : α → Bool} (hj : l[j]? = some a) (ha : f a = true)
    (hl : ∀ y ∈ l.take j, f y = false) : l.zipIdx.find? (fun x => f x.1) = some (a, j) := by
  rw [List.find?_eq_some_iff_getElem]
  obtain ⟨lt, at_⟩ := List.getElem?_eq_some_iff.mp hj
  refine ⟨ha, j, by simpa using lt, by simp [at_], fun m hm => ?_⟩
  have earlier : l[m]'(hm.trans lt) ∈ l.take j := List.mem_take_iff_getElem.mpr ⟨m, by omega, rfl⟩
  simpa using hl _ earlier

/-- EX.MRECV with its message there and room for it. -/
theorem exec_exMrecv_hit {s : State} {c p i j : Nat} {e : Cqe} {m : MbxMsg} (h : s.WordAt c p 9 5 i e) (hb : (s.core p).exchBlocked i e = false)
    (hj : (s.core p).mbx[j]? = some m) (hm : wbit e.word 41 = true ∨ m.tag = wbits e.word 42 4)
    (hl : ∀ y ∈ (s.core p).mbx.take j, wbit e.word 41 = false ∧ y.tag ≠ wbits e.word 42 4)
    (hr : (s.core p).dqRoom (wOut e.word) (entriesOf m.data).length = true) :
    exec (.exMrecv c i) s = .next (((s.setCore p (({ s.core p with mbx := (s.core p).mbx.eraseIdx j } : Core).pushDq (wOut e.word)
      ((entriesOf m.data).map fun x => { data := x, tok := e.seqno }))).finish p 9 i e).rstBegin) := by
  have hit : (s.core p).mbx.zipIdx.find? (fun x => wbit e.word 41 || decide (x.1.tag = xTag e.word)) = some (m, j) := by
    refine find?_zipIdx_eq_some (f := fun y : MbxMsg => wbit e.word 41 || decide (y.tag = xTag e.word)) hj ?_ fun y hy => ?_
    · exact (Bool.or_eq_true _ _).mpr (hm.imp_right fun h => decide_eq_true h)
    · exact Bool.or_eq_false_iff.mpr ⟨(hl y hy).1, decide_eq_false (hl y hy).2⟩
  simp only [exec, execExMrecv]
  rw [State.onWord_ready h]
  simp only [hb, hit, hr, Bool.not_true, Bool.false_eq_true, if_false]

/-! ### Felt blocks of EX.FELT and GCONV (R199, R202) -/

/-- The block of an EX.FELT as it is pushed; GCONV's has an empty header (R202). -/
def pushedBlk (plain : Bool) (b : FeltBlk) : FeltBlk := if plain then { b with count := 0, nf := false, ovf := false, extra := 0 } else b

/-- A group of 64 values that is there, with room for its block, is quantised. -/
theorem State.feltStep_ready {s : State} {p i : Nat} {e : Cqe} {l : List DqEnt} {w16 : Bool} (ex : Nat) (plain : Bool)
    (hb : (s.core p).exchBlocked i e = false) (hr : (s.core p).dqRoom (wOut e.word) (if w16 then 2 else 3) = true)
    (hl : (s.core p).headDq (wIna e.word) 2 = some l) (hp : ∀ x ∈ l, x.poison = false) :
    s.feltStep p i (s.core p) e w16 ex plain = (s.setCore p (((s.core p).dropDq (wIna e.word) 2).pushDq (wOut e.word)
      ((entriesOf (feltBytes w16 (pushedBlk plain (feltQuantise ((unpackBits 32 64 (numOf (entsBytes l))).map fun x => f32 (BitVec.ofNat 32 x)) ex
        w16)))).map fun x => { data := x, tok := e.seqno }))).putWord p 9 i { e with n := e.n + 1, fin := e.n = wRep e.word } := by
  simp only [State.feltStep, hb, hr, Core.exchTake_clean hl hp, Bool.not_true, Bool.false_eq_true, if_false]
  rfl

/-- What a quantised group leaves: its entries popped, the block pushed, the word one quantum on. -/
theorem Core.felt_effect {k : Core} {i : Nat} {e : Cqe} (f : Cqe) (l : List DqEnt) (hi : (k.words 9)[i]? = some e)
    (hne : wIna e.word ≠ wOut e.word) :
    (((((k.dropDq (wIna e.word) 2).pushDq (wOut e.word) l).setWord 9 i f).dataQ (wOut e.word)).ents = (k.dataQ (wOut e.word)).ents ++ l)
      ∧ ((((k.dropDq (wIna e.word) 2).pushDq (wOut e.word) l).setWord 9 i f).dataQ (wIna e.word)).ents = (k.dataQ (wIna e.word)).ents.drop 2
      ∧ ((((k.dropDq (wIna e.word) 2).pushDq (wOut e.word) l).setWord 9 i f).words 9)[i]? = some f := by
  obtain ⟨lt, _⟩ := List.getElem?_eq_some_iff.mp hi
  refine ⟨?_, ?_, ?_⟩
  · rw [Core.dataQ_setWord, Core.dataQ_pushDq_self, Core.dataQ_dropDq_ne _ _ hne]
  · rw [Core.dataQ_setWord, Core.dataQ_pushDq_ne _ _ hne.symm, Core.dataQ_dropDq_self]
  · rw [Core.setWord, Core.words_setWords_self, List.getElem?_set_self (by simpa using lt)]

/-! ### Contributions to a collective (R353, R359, R381) -/

theorem Core.prog_of_unsaved {c : Core} (h : c.pre.saved = none) : c.prog = c := by
  simp [Core.prog, h]

theorem Core.onSaved_of_unsaved {c : Core} (f : Core → Core) (h : c.pre.saved = none) : c.onSaved f = f c := by
  simp [Core.onSaved, h]

/-- The EX.COLL of a core's program takes a quantum in the collective that runs. -/
theorem exec_exColl_running {s : State} {c p i slot : Nat} {e : Cqe} {x : CollInst} (h : s.WordAt c p 9 7 i e) (hs : (s.core p).pre.saved = none)
    (hx : s.collOf (wbits e.word 64 8) = some (slot, x)) :
    exec (.exColl c i) s = .next ((if s.dKind x.c = 3 then s.normStep slot p i (s.core p) e else s.collStep slot p i e).rstBegin) := by
  obtain ⟨ha, hw, work, started, unfinished, op⟩ := h
  simp only [exec, execExColl]
  rw [State.onCore_answers _ ha]
  simp only [Core.prog_of_unsaved hs, hw, work, started, unfinished, op, xCdesc, hx, ne_eq, not_true, decide_false, Bool.not_true, Bool.true_or,
    Bool.or_self, Bool.false_eq_true, if_false]

/-- An EX.COLL of a NORM whose block is there sends it up (R381). -/
theorem State.normStep_up {s : State} {p i slot : Nat} {e : Cqe} {l : List DqEnt} {b : FeltBlk} (hs : (s.core p).pre.saved = none) (hn : e.n = 0)
    (hb : (s.core p).exchBlocked i e = false) (hl : (s.core p).headDq (wIna e.word) 3 = some l) (hp : ∀ y ∈ l, y.poison = false)
    (hf : b = feltOfBytes false (entsBytes l)) :
    s.normStep slot p i (s.core p) e = (s.setCore p (((s.core p).dropDq (wIna e.word) 3).setWord 9 i { e with n := 1 })).send
      (.normUp p (s.inst slot).c { b with n := b.n.take 16 ++ List.replicate 48 0 }) := by
  subst hf
  simp only [State.normStep, hb, hn, Core.exchTake_clean hl hp, State.modCore, Core.onSaved_of_unsaved _ hs, Bool.false_eq_true, if_false, if_true]

/-- Two states differ at most in what a core's read of an object changes: its lookaside and counters, and what any read changes (R300, R311). -/
def State.LookOnly (s t : State) : Prop :=
  (t = { s with cores := t.cores, cnt := t.cnt, regs := t.regs, irq := t.irq, msixPba := t.msixPba, out := t.out, deliv := t.deliv })
    ∧ ∀ q, t.core q = { s.core q with look := (t.core q).look, cnt := (t.core q).cnt }

theorem State.LookOnly.refl (s : State) : s.LookOnly s := ⟨rfl, fun _ => rfl⟩

theorem State.LookOnly.trans {s t u : State} (h : s.LookOnly t) (k : t.LookOnly u) : s.LookOnly u := by
  refine ⟨?_, fun q => ?_⟩
  · rw [k.1, h.1]
  · rw [k.2 q, h.2 q]

theorem State.LookOnly.mesh {s t : State} (h : s.LookOnly t) : t.mesh = s.mesh := by
  rw [h.1]

theorem State.LookOnly.lmap {s t : State} (h : s.LookOnly t) : t.lmap = s.lmap := by
  rw [h.1]

theorem State.LookOnly.inst {s t : State} (h : s.LookOnly t) (k : Nat) : t.inst k = s.inst k := by
  rw [h.1]
  rfl

theorem State.ReadOnly.lookOnly {s t : State} (h : s.ReadOnly t) : s.LookOnly t := by
  refine ⟨?_, fun q => by rw [h.core]⟩
  unfold State.ReadOnly at h
  rw [h]

theorem State.lookOnly_modCore (s : State) (p : Nat) (f : Core → Core)
    (h : f (s.core p) = { s.core p with look := (f (s.core p)).look, cnt := (f (s.core p)).cnt }) : s.LookOnly (s.modCore p f) := by
  refine ⟨rfl, fun q => ?_⟩
  by_cases e : p = q
  · subst e
    rw [State.core_modCore_self]
    exact h
  · rw [State.core_modCore_ne _ _ e]

theorem State.lookOnly_noteRead (s : State) (p obj : Nat) : s.LookOnly (s.noteRead p obj) := by
  have noted : s.LookOnly (s.modCore p fun c => c.noteLook obj s.epoch) := by
    apply State.lookOnly_modCore
    unfold Core.noteLook
    split <;> rfl
  refine noted.trans ?_
  unfold State.noteRead
  simp only
  split
  · split
    · exact State.LookOnly.refl _
    · exact State.lookOnly_modCore _ _ _ rfl
  · exact State.LookOnly.refl _

theorem State.lookOnly_coreRead (s : State) (p obj ofs n : Nat) : s.LookOnly (s.coreRead p obj ofs n).2 := by
  unfold State.coreRead
  simp only
  split
  · exact State.lookOnly_noteRead s p obj
  · exact (State.lookOnly_noteRead s p obj).trans (State.readOnly_objRead _ _ _ _).lookOnly

/-- Reading a block of a contribution, where the read is good. -/
theorem State.lookOnly_contrib {s u : State} {d : CDesc} {p pos t b : Nat} {e : Cqe} {v : List Fp}
    (h : s.contrib d p pos t b e = .ok (v, u)) : s.LookOnly u := by
  have read : ∀ {ofs l r}, s.srcRead d p pos ofs e = .ok (l, r) → s.LookOnly r := by
    intro ofs l r hr
    unfold State.srcRead at hr
    split at hr
    · split at hr
      · cases hr
      · simp only at hr
        split at hr
        · cases hr
        · cases hr
          exact State.LookOnly.refl s
    · simp only at hr
      split at hr
      · cases hr
      · split at hr
        · cases hr
        · cases hr
          exact State.lookOnly_coreRead _ _ _ _ _
  unfold State.contrib at h
  split at h
  · cases h
  · rename_i hr
    cases h
    exact read hr

@[simp] theorem State.inst_setColl_self (s : State) (k : Nat) (x : CollInst) : (s.setColl k x).inst k = x := aget_aset_self _ _ _ _

/-- A contribution of another core's block that is not dropped goes to its chip owner (R359, R363). -/
theorem State.contribute_send {s : State} {k p pos b ex : Nat} {v : List Fp} {x : CollInst} {d : CDesc} (hx : s.inst k = x) (hd : s.desc x.c = d)
    (ho : (d.owner x.m b).2.1 ≠ pos) (hn : (feltQuantise v ex d.w).nf = false ∨ d.nfPol = false) :
    s.contribute k p pos b ex false v = (s.setColl k { x with emax := max x.emax ex }).send
      (.block p (s.chipOwner d x.m b) x.c b false ⟨1, 0, feltCandidate v, feltQuantise v ex d.w⟩) := by
  have kept : ((feltQuantise v ex d.w).nf && d.nfPol) = false := by
    rcases hn with h | h <;> simp [h]
  simp only [State.contribute, hx, hd, kept, ho, Bool.false_and, Bool.false_eq_true, if_false]
  rfl

/-- The EX.COLL after block b of contribution t of its pass 1. -/
def Cqe.nextContrib (e : Cqe) (d : CDesc) : Cqe := if e.n + 1 < d.ncont * d.nblk then { e with n := e.n + 1 } else { e with n := 0, segs := 2 }

/-- The state in which a core contributes: the collective is in phase 2, its EX.COLL a block on. -/
def State.contributing (u : State) (slot p i : Nat) (x : CollInst) (e : Cqe) : State :=
  (if x.phase = 1 then u.setColl slot { x with phase := 2 } else u).putColl p i e

/-- A block of a contribution whose E_b is known (R359). -/
theorem State.collStep_contributes {s u : State} {p i slot ex : Nat} {e : Cqe} {x : CollInst} {d : CDesc} {v : List Fp} (hx : s.inst slot = x)
    (hs : e.segs = 1) (hd : s.desc x.c = d) (he : s.ebOf x (e.n % max 1 d.nblk) = some ex)
    (hc : s.contrib d p ((s.logical p).getD 0 - d.cfirst) (e.n / max 1 d.nblk) (e.n % max 1 d.nblk) e = .ok (v, u)) :
    s.collStep slot p i e = (u.contributing slot p i x (e.nextContrib d)).contribute slot p ((s.logical p).getD 0 - d.cfirst)
      (e.n % max 1 d.nblk) ex false v := by
  simp only [State.collStep, State.contributing, Cqe.nextContrib, hx, hd, hs, he, hc]

theorem State.core_putColl_self {s : State} {p : Nat} (i : Nat) (e : Cqe) (h : (s.core p).pre.saved = none) :
    (s.putColl p i e).core p = (s.core p).setWord 9 i e := by
  rw [State.putColl, State.core_modCore_self]
  exact Core.onSaved_of_unsaved _ h

theorem State.desc_congr {s t : State} (h : t.regs = s.regs) (c : Nat) : t.desc c = s.desc c := by
  have bytes : t.descBytes c = s.descBytes c := by simp only [State.descBytes, h]
  have field : t.descField c = s.descField c := by
    funext o n
    simp only [State.descField, bytes]
  unfold State.desc
  rw [field]

theorem State.chipOwner_congr {s t : State} (h : t.lmap = s.lmap) (d : CDesc) (m b : Nat) : t.chipOwner d m b = s.chipOwner d m b := by
  simp only [State.chipOwner, State.phys, h]

/-- What the state in which a core contributes keeps of the one before: the collective but for its phase, and all that a path is chosen by. -/
theorem State.contributing_keeps {u : State} {slot p i : Nat} {x : CollInst} (e : Cqe) (hx : u.inst slot = x) :
    (∃ n, (u.contributing slot p i x e).inst slot = { x with phase := n }) ∧ (u.contributing slot p i x e).mesh = u.mesh
      ∧ (u.contributing slot p i x e).regs = u.regs ∧ (u.contributing slot p i x e).lmap = u.lmap := by
  unfold State.contributing
  split
  · exact ⟨⟨2, State.inst_setColl_self u slot _⟩, rfl, rfl, rfl⟩
  · exact ⟨⟨x.phase, hx⟩, rfl, rfl, rfl⟩

/-- The core that contributes: its EX.COLL is a block on. -/
theorem State.core_contributing_self {u : State} {p : Nat} (slot i : Nat) (x : CollInst) (e : Cqe) (h : (u.core p).pre.saved = none) :
    (u.contributing slot p i x e).core p = (u.core p).setWord 9 i e := by
  unfold State.contributing
  split
  · exact State.core_putColl_self (s := u.setColl slot _) i e h
  · exact State.core_putColl_self i e h

/-- The contribution leaves for the chip owner of its block (R363). -/
theorem State.contribute_contributing {u : State} {slot p i pos b ex : Nat} {v : List Fp} {x : CollInst} {d : CDesc} (e : Cqe)
    (hx : u.inst slot = x) (hd : u.desc x.c = d) (ho : (d.owner x.m b).2.1 ≠ pos) (hn : (feltQuantise v ex d.w).nf = false ∨ d.nfPol = false) :
    ∃ y, (u.contributing slot p i x e).contribute slot p pos b ex false v = ((u.contributing slot p i x e).setColl slot y).send
      (.block p (u.chipOwner d x.m b) x.c b false ⟨1, 0, feltCandidate v, feltQuantise v ex d.w⟩) := by
  obtain ⟨⟨n, inst⟩, -, regs, lmap⟩ := State.contributing_keeps (p := p) (i := i) e hx
  rw [State.contribute_send (x := { x with phase := n }) inst ((State.desc_congr regs _).trans hd) ho hn, State.chipOwner_congr lmap]
  exact ⟨_, rfl⟩

/-- Settles O20, a clause at a time. -/
theorem exchangeMessagesAndBlocks : Obligations.ExchangeMessagesAndBlocks := by
  refine ⟨?mail, ?receive, ?felt, ?gconv, ?norm, ?contribution⟩
  case mail =>
    intro s c p i n e l h h0 hn hb he hl hp hd
    refine ⟨_, exec_exMail_local h h0 hn rfl hb he hl hp hd, by simp [State.putWord, entsBytes], ?_, by simp⟩
    rw [State.core_rstBegin, State.core_send]
    exact State.getElem?_putWord_self _ (by simpa using h.lt)
  case receive =>
    intro s c p i j e m h hb hj hm hl hr
    refine ⟨_, exec_exMrecv_hit h hb hj hm hl hr, ?_, by simp [State.finish], ?_⟩
    · refine State.finished_rstBegin (State.finished_finish e ?_)
      rw [State.core_setCore_self, Core.words_pushDq]
      exact h.lt
    · rw [State.core_rstBegin, State.finish, State.core_putWord_self, State.core_setCore_self, Core.dataQ_setWord, Core.dataQ_pushDq_self]
      rfl
  case felt =>
    rintro s c p i e l w16 b h hb rfl hr hl hp hne rfl
    have run : exec (.exFelt c i) s = .next (s.feltStep p i (s.core p) e (wbit e.word 71) (s.feltE e.word) false).rstBegin := by
      simp only [exec, execExFelt, State.onWord_ready h]
    refine ⟨_, run, ?_⟩
    rw [State.core_rstBegin, State.feltStep_ready _ _ hb hr hl hp, State.core_putWord_self, State.core_setCore_self]
    exact Core.felt_effect _ _ h.word hne
  case gconv =>
    rintro s c p i e l b h hb hr hl hp hne rfl
    have run : exec (.gconv c i) s = .next (s.feltStep p i (s.core p) e true (wbits e.word 62 8) true).rstBegin := by
      simp only [exec, execGconv, State.onWord_ready h]
    refine ⟨_, run, ?_⟩
    rw [State.core_rstBegin, State.feltStep_ready (w16 := true) _ _ hb hr hl hp, State.core_putWord_self, State.core_setCore_self]
    exact Core.felt_effect _ _ h.word hne
  case norm =>
    intro s c p i slot e x l b h hs hx hi hk hn hb hl hp hf
    have run := exec_exColl_running h hs hx
    rw [if_pos hk, State.normStep_up hs hn hb hl hp hf, hi] at run
    refine ⟨_, run, by simp, ?_, by simp⟩
    rw [State.core_rstBegin, State.core_send, State.core_setCore_self, Core.setWord, Core.words_setWords_self,
      List.getElem?_set_self (by simpa using h.lt)]
  case contribution =>
    intro s u c p i slot pos b ex e x d v h hs hx hi hk hp hd₀ hpos hblk he hc hd ho hn
    subst hpos
    subst hblk
    subst hd₀
    have read := State.lookOnly_contrib hc
    have core : u.core p = { s.core p with look := (u.core p).look, cnt := (u.core p).cnt } := read.2 p
    have inst : u.inst slot = x := (read.inst slot).trans hi
    have saved : (u.core p).pre.saved = none := by rw [core]; exact hs
    have lt : i < ((u.core p).words 9).length := by rw [core]; exact h.lt
    obtain ⟨-, mesh, -, -⟩ := State.contributing_keeps (p := p) (i := i) (e.nextContrib (s.desc x.c)) inst
    obtain ⟨y, sent⟩ := State.contribute_contributing (p := p) (i := i) (e.nextContrib (s.desc x.c)) inst hd ho hn
    have run := exec_exColl_running h hs hx
    rw [if_neg hk, State.collStep_contributes hi hp rfl he hc, sent, State.chipOwner_congr read.lmap] at run
    refine ⟨_, run, ?_, ?_⟩
    · rw [State.rstBegin_mesh, State.mesh_send]
      exact congrArg (· ++ [_]) (mesh.trans read.mesh)
    · rw [State.core_rstBegin, State.core_send]
      change (((State.contributing u slot p i x _).core p).words 9)[i]? = _
      rw [State.core_contributing_self _ _ _ _ saved, Core.setWord, Core.words_setWords_self, List.getElem?_set_self lt]
      rfl

/-! ### One cycle of an engine: what it pops, its registers, its word -/

@[simp] theorem Core.eng_setWord (c : Core) (q i : Nat) (e : Cqe) (g : Nat) : (c.setWord q i e).eng g = c.eng g := rfl
@[simp] theorem Core.eng_bump (c : Core) (o n g : Nat) : (c.bump o n).eng g = c.eng g := rfl
@[simp] theorem Core.dataQ_bump (c : Core) (o n q : Nat) : (c.bump o n).dataQ q = c.dataQ q := rfl
@[simp] theorem Core.words_bump (c : Core) (o n q : Nat) : (c.bump o n).words q = c.words q := rfl

@[simp] theorem Core.dataQ_setEng (c : Core) (g : Nat) (x : Engine) (q : Nat) : (c.setEng g x).dataQ q = c.dataQ q := by
  unfold Core.setEng
  split <;> rfl

@[simp] theorem Core.words_setEng (c : Core) (g : Nat) (x : Engine) (q : Nat) : (c.setEng g x).words q = c.words q := by
  unfold Core.setEng
  split <;> rfl

/-- A pop for an engine takes the head of its queue; a serving's is counted in the shared tile register (R216). -/
theorem Core.popEng_only (c : Core) (q : Nat) : c.popEng q = { c.dropDq q 1 with sht := (c.popEng q).sht } := by
  unfold Core.popEng
  split <;> rfl

@[simp] theorem Core.words_popEng (c : Core) (q r : Nat) : (c.popEng q).words r = c.words r := by
  rw [Core.popEng_only]
  rfl

theorem Core.ents_popEng_self (c : Core) (q : Nat) : ((c.popEng q).dataQ q).ents = (c.dataQ q).ents.drop 1 := by
  rw [Core.popEng_only]
  exact congrArg DataQ.ents (c.dataQ_dropDq_self q 1)

theorem Core.dataQ_popEng_ne (c : Core) {q r : Nat} (h : q ≠ r) : (c.popEng q).dataQ r = c.dataQ r := by
  rw [Core.popEng_only]
  exact c.dataQ_dropDq_ne 1 h

theorem Core.words_popEngs (c : Core) (l : List Nat) (q : Nat) : (l.foldl Core.popEng c).words q = c.words q :=
  foldl_keeps (fun k : Core => k.words q) _ (fun k x => k.words_popEng x q) l c

theorem Core.dataQ_popEngs_of_not_mem (c : Core) {l : List Nat} {q : Nat} (h : q ∉ l) : (l.foldl Core.popEng c).dataQ q = c.dataQ q := by
  induction l generalizing c with
  | nil => rfl
  | cons x t ih =>
    obtain ⟨hx, ht⟩ := not_or.mp (mt List.mem_cons.mpr h)
    rw [List.foldl_cons, ih _ ht, Core.dataQ_popEng_ne _ (Ne.symm hx)]

/-- Each of several queues that an engine pops loses its head. -/
theorem Core.ents_popEngs (c : Core) {l : List Nat} {q : Nat} (hl : l.Nodup) (h : q ∈ l) :
    ((l.foldl Core.popEng c).dataQ q).ents = (c.dataQ q).ents.drop 1 := by
  induction l generalizing c with
  | nil => cases h
  | cons x t ih =>
    obtain ⟨hx, ht⟩ := List.nodup_cons.mp hl
    rw [List.foldl_cons]
    rcases List.mem_cons.mp h with rfl | h
    · rw [Core.dataQ_popEngs_of_not_mem _ hx, Core.ents_popEng_self]
    · have other : x ≠ q := fun e => hx (e ▸ h)
      rw [ih _ ht h, Core.dataQ_popEng_ne _ other]

/-- A core after a cycle of engine g: the word's operands popped, the engine as `y`, `n` updates counted, the word as `f`. -/
def Core.engCycle (k : Core) (g i : Nat) (w : CWord) (y : Engine) (n : Nat) (f : Cqe) : Core :=
  ((((engQueues w).foldl Core.popEng k).setEng g y).bump (0x2000 + 0x100 * g + 0x30) n).setWord (3 + g) i f

@[simp] theorem Core.eng_engCycle (k : Core) (g i : Nat) (w : CWord) (y : Engine) (n : Nat) (f : Cqe) : (k.engCycle g i w y n f).eng g = y := by
  simp [Core.engCycle]

theorem Core.ents_engCycle (k : Core) (g i : Nat) {w : CWord} (y : Engine) (n : Nat) (f : Cqe) (hw : (engQueues w).Nodup) {q : Nat}
    (hq : q ∈ engQueues w) : ((k.engCycle g i w y n f).dataQ q).ents = (k.dataQ q).ents.drop 1 := by
  simp only [Core.engCycle, Core.dataQ_setWord, Core.dataQ_bump, Core.dataQ_setEng]
  exact k.ents_popEngs hw hq

theorem Core.getElem?_engCycle {k : Core} {g i : Nat} (w : CWord) (y : Engine) (n : Nat) (f : Cqe) (h : i < (k.words (3 + g)).length) :
    ((k.engCycle g i w y n f).words (3 + g))[i]? = some f := by
  rw [Core.engCycle, Core.setWord, Core.words_setWords_self, Core.words_bump, Core.words_setEng, Core.words_popEngs, List.getElem?_set_self h]

theorem State.engCycle_putWord (s : State) (p g i : Nat) (w : CWord) (y : Engine) (n : Nat) (f : Cqe) :
    ((s.setCore p ((((engQueues w).foldl Core.popEng (s.core p)).setEng g y).bump (0x2000 + 0x100 * g + 0x30) n)).putWord p (3 + g) i f).core p
      = (s.core p).engCycle g i w y n f := by
  rw [State.core_putWord_self, State.core_setCore_self]
  rfl

/-! ### MMA.RANK (R79 to R88, R94) -/

theorem exec_mmaRank_cur {s : State} {c p g i : Nat} {e : Cqe} (hg : g < 2) (h : s.CurAt c p (3 + g) 1 i e) :
    exec (.mmaRank c g 0) s = .next (s.mmaRank p g i e 0).rstBegin := by
  simp only [exec, execMmaRank, hg, if_true]
  rw [State.onCur_ready h]

/-- No operand entry is poisoned. -/
theorem find?_operands_eq_none {ops : List (DqEnt × DqEnt)} (w : CWord) (h : ∀ o ∈ ops, o.1.poison = false ∧ o.2.poison = false) :
    ((List.range ops.length).flatMap fun j => [(wIna w + j, (ops.getD j ({ data := 0 }, { data := 0 })).1),
      (wInb w + j, (ops.getD j ({ data := 0 }, { data := 0 })).2)]).find? (fun x => x.2.poison) = none := by
  rw [List.find?_eq_none]
  intro x hx
  obtain ⟨j, hj, hx⟩ := List.mem_flatMap.mp hx
  have lt : j < ops.length := List.mem_range.mp hj
  obtain ⟨a, b⟩ := h _ (List.getElem_mem lt)
  rw [List.getD_eq_getElem _ _ lt] at hx
  rcases List.mem_pair.mp hx with rfl | rfl
  · simp [a]
  · simp [b]

/-- The engine after an input cycle that makes its tile and scans `r`: the tile goes on, is left open, or is complete (R84 to R88). -/
def Engine.ranked (x : Engine) (w : CWord) (last : Bool) (r : Tile × List Scan × Nat) : Engine :=
  if !last then { x with active := r.1, scans := r.2.1 }
  else if eFin w = 0 then { x with active := r.1, scans := r.2.1, tileOpen := true, openPack := ePack w, openA := eFmtA w, openB := eFmtB w }
  else { x with active := r.1, tileOpen := false, pre := [], scans := [] }.complete (if eFin w = 1 then .drain else .hold (eSlot w))

/-- An input cycle whose operands are there and clean, the tile of the word in the active registers of `x`. -/
theorem State.mmaRank_cycle {s : State} {p g i : Nat} {e : Cqe} {x : Engine} {ops : List (DqEnt × DqEnt)} (ha : ((s.core p).eng g).act = .active)
    (hs : e.n = 0 → eStart e.word ≠ 1 ∧ eStart e.word ≠ 2 ∧ eStart e.word ≠ 3)
    (hx : (if e.n = 0 then (if eStart e.word = 0 then { (s.core p).eng g with pre := [] } else (s.core p).eng g).prepare e.word
      else some ((s.core p).eng g)) = some x)
    (ho : (s.core p).operands e.word = some ops) (hc : ∀ o ∈ ops, o.1.poison = false ∧ o.2.poison = false) :
    ∃ n, (s.mmaRank p g i e 0).core p = (s.core p).engCycle g i e.word
      (x.ranked e.word (decide (e.n = wRep e.word)) (ops.zipIdx.foldl (fun y z => rankStep e.word (x.pre.flatMap fun l => l.map f32)
        (decide (e.n = wRep e.word ∧ eFin e.word ≠ 0)) y z.2 z.1) (x.active, x.scans, 0)))
      n { e with n := e.n + 1, fin := decide (e.n = wRep e.word) } := by
  have slot : (decide (e.n = 0) && decide (eStart e.word = 3) && decide (e.vals.getD 0 0 = 0)) = false := by
    by_cases h : e.n = 0
    · simp [(hs h).2.2]
    · simp [h]
  have preload : ∀ y : Engine, y.preLeft e.word e.n = false := by
    intro y
    by_cases h : e.n = 0
    · simp [Engine.preLeft, (hs h).1, (hs h).2.1]
    · simp [Engine.preLeft, h]
  have ends : (decide (e.n = wRep e.word) && decide (eFin e.word ≠ 0)) = decide (e.n = wRep e.word ∧ eFin e.word ≠ 0) :=
    (Bool.decide_and _ _).symm
  unfold State.mmaRank
  simp only
  rw [if_neg (not_not.mpr ha)]
  simp only [slot, preload, ho, hx, find?_operands_eq_none e.word hc, ends, checkFences, State.checkCount, if_false, Bool.false_eq_true,
    OfNat.zero_ne_ofNat, zero_ne_one, decide_false, Bool.or_self]
  exact ⟨_, State.engCycle_putWord s p g i e.word _ _ _⟩

/-- A tile that FIN = DRAIN ends moves to the free shadow and is offered to the drain (R86, R88). -/
theorem Engine.ranked_drain {x : Engine} {w : CWord} (r : Tile × List Scan × Nat) (hf : eFin w = 1) (hs : x.shUse = .none) :
    x.ranked w true r = { x with
      active := {}, tileOpen := false, pre := [], scans := [], finish := none, shadow := r.1, shUse := .toDrain, offers := x.offers ++ [none] } := by
  simp [Engine.ranked, hf, Engine.complete, hs, Engine.toShadow]

theorem Engine.slot_setSlot_mark (x : Engine) (n : Nat) (qs : List Nat) (st : QState) :
    ((x.setSlot n ((x.slot n).mark qs st)).slot n).tile = (x.slot n).tile := by
  by_cases h : n < x.slots.length
  · simp [Engine.setSlot, Engine.slot, List.getD, h, Slot.mark]
  · simp [Engine.setSlot, Engine.slot, List.getD, h]

/-- A tile that FIN = HOLD ends moves to the free shadow on its way to its slot (R86, R88, R96). -/
theorem Engine.ranked_hold {x : Engine} {w : CWord} (r : Tile × List Scan × Nat) (hf : eFin w = 2) (hs : x.shUse = .none) :
    (x.ranked w true r).shadow = r.1 ∧ (x.ranked w true r).shUse = .toSlot
      ∧ ((x.ranked w true r).slot (eSlot w)).tile = (x.slot (eSlot w)).tile ∧ (x.ranked w true r).tileOpen = false := by
  have held : x.ranked w true r
      = (({ x with active := r.1, tileOpen := false, pre := [], scans := [] } : Engine).setSlot (eSlot w)
        ((x.slot (eSlot w)).mark allQs .busy)).toShadow (.hold (eSlot w)) := by
    simp only [Engine.ranked, hf, Engine.complete]
    exact if_pos hs
  rw [held]
  exact ⟨rfl, rfl, x.slot_setSlot_mark _ _ _, rfl⟩

/-! ### MMA.WL and MMA.ST (R90, R91) -/

/-- A weight row goes into the latch (R90). -/
theorem exec_mmaWl_row {s : State} {c p g i : Nat} {e : Cqe} {d : DqEnt} {l : List DqEnt} (hg : g < 2) (h : s.CurAt c p (3 + g) 2 i e)
    (ha : ((s.core p).eng g).act = .active) (hd : ((s.core p).dataQ (wInb e.word)).ents = d :: l) (hp : d.poison = false) :
    exec (.mmaWl c g) s = .next (((s.setCore p (((s.core p).popEng (wInb e.word)).setEng g { (s.core p).eng g with
      latch := (((s.core p).eng g).latch ++ List.replicate (16 - ((s.core p).eng g).latch.length) ({ data := 0 } : DqEnt)).set e.n d
      latFmt := eFmtB e.word })).tick p (3 + g) i e 16).rstBegin) := by
  have rows : (if ((s.core p).eng g).latch.length < 16 then ((s.core p).eng g).latch ++ List.replicate (16 - ((s.core p).eng g).latch.length)
      ({ data := 0 } : DqEnt) else ((s.core p).eng g).latch)
      = ((s.core p).eng g).latch ++ List.replicate (16 - ((s.core p).eng g).latch.length) ({ data := 0 } : DqEnt) := by
    split
    · rfl
    · rw [Nat.sub_eq_zero_of_le (by omega), List.replicate_zero, List.append_nil]
  simp only [exec, execMmaWl, if_neg (Nat.not_le.mpr hg)]
  rw [State.onCur_ready h]
  simp only [hd, hp, rows, Bool.false_eq_true, if_false]
  rw [if_neg (not_not.mpr ha)]

theorem State.CurAt.op_eq {s : State} {c p q op i : Nat} {e : Cqe} (h : s.CurAt c p q op i e) : wOp e.word = op := by
  obtain ⟨-, -, -, op⟩ := h
  exact op

theorem exec_mmaSt_cur {s : State} {c p g i : Nat} {e : Cqe} (hg : g < 2) (h : s.CurAt c p (3 + g) 3 i e) :
    exec (.mmaSt c g 0) s = .next (s.mmaSt p g i e 0).rstBegin := by
  simp only [exec, execMmaSt, hg, if_true]
  rw [State.onCur_ready h]

theorem engQueues_nodup_of_st {w : CWord} (h : wOp w = 3) : (engQueues w).Nodup := by
  simp only [engQueues, h]
  exact List.nodup_range.map fun a b => by simp

/-- A cycle of MMA.ST whose activation vectors are there and clean; a row in the middle of one problem's slot, its exponent set, gets the column
sums (R91). -/
theorem State.mmaSt_cycle {s : State} {p g i : Nat} {e : Cqe} {heads : List DqEnt} (ha : ((s.core p).eng g).act = .active)
    (hh : heads = (List.range (packOf (ePack e.word))).filterMap (fun j => ((s.core p).dataQ (wIna e.word + j)).ents.head?))
    (hl : heads.length = packOf (ePack e.word)) (hc : ∀ h ∈ heads, h.poison = false) :
    ∃ (y : Engine) (n : Nat), (s.mmaSt p g i e 0).core p
        = (s.core p).engCycle g i e.word y n { e with n := e.n + 1, fin := decide (e.n = wRep e.word) }
      ∧ (ePack e.word = 0 → stScanning e.word 1 (((s.core p).eng g).slot (eSlot e.word + e.n / 16)).tile 0 = false → e.n % 16 ≠ 0 →
        e.n % 16 ≠ 15 → e.n ≠ wRep e.word →
        y.slots = ((s.core p).eng g).slots.set (eSlot e.word + e.n / 16) { ((s.core p).eng g).slot (eSlot e.word + e.n / 16) with
          tile := addSums ((s.core p).eng g) e.word (((s.core p).eng g).slot (eSlot e.word + e.n / 16)).tile 0 (e.n % 16)
            (((((s.core p).eng g).slot (eSlot e.word + e.n / 16)).tile.q.getD 0 {}).texp) (heads.getD 0 { data := 0 }) }) := by
  have clean : heads.zipIdx.find? (fun x => x.1.poison) = none := by
    rw [List.find?_eq_none]
    intro x hx
    simp [hc x.1 (List.fst_mem_of_mem_zipIdx hx)]
  unfold State.mmaSt
  simp only [← hh]
  rw [if_neg (not_not.mpr ha), if_neg (by omega)]
  simp only [clean, checkFences, State.checkCount, if_false, Bool.false_eq_true, OfNat.zero_ne_ofNat, zero_ne_one, decide_false, Bool.or_self]
  refine ⟨_, _, State.engCycle_putWord s p g i e.word _ _ _, fun hpk hsc h0 h15 hlast => ?_⟩
  have pk : packOf (ePack e.word) = 1 := by rw [hpk]; rfl
  simp only [pk, h0, h15, hlast, hsc, if_false, decide_false, Bool.or_self, Bool.false_eq_true, List.foldl_nil, List.range_one, List.foldl_cons,
    Bool.not_false, if_true]
  rfl

/-- Settles O10, a clause at a time. -/
theorem enginesAccumulate : Obligations.EnginesAccumulate := by
  refine ⟨?rank, ?first, ?weights, ?sums⟩
  case rank =>
    rintro s c p g i e x ops r hg h rfl ha hn ho hc rfl
    have ready : (if e.n = 0 then (if eStart e.word = 0 then { (s.core p).eng g with pre := [] } else (s.core p).eng g).prepare e.word
        else some ((s.core p).eng g)) = some ((s.core p).eng g) := by
      split
      · have cont : eStart e.word = 4 := hn.resolve_left (not_not.mpr ‹_›)
        simp [Engine.prepare, cont]
      · rfl
    obtain ⟨n, core⟩ := State.mmaRank_cycle ha (fun h0 => by have := hn.resolve_left (not_not.mpr h0); omega) ready ho hc
    refine ⟨_, _, exec_mmaRank_cur hg h, rfl, ?_⟩
    rw [State.core_rstBegin, core, Core.eng_engCycle]
    refine ⟨fun hm => ?_, fun hm hf => ?_, fun hm hf hs => ?_, fun hm hf hs => ?_, fun hd q hq => Core.ents_engCycle _ _ _ _ _ _ hd hq,
      Core.getElem?_engCycle _ _ _ _ h.lt⟩
    · rw [decide_eq_false hm]
      exact ⟨rfl, rfl, rfl⟩
    · rw [decide_eq_true hm, Engine.ranked, if_neg (by simp), if_pos hf]
      exact ⟨rfl, rfl, rfl⟩
    · rw [decide_eq_true hm, Engine.ranked_drain _ hf hs]
      exact ⟨rfl, rfl, rfl, rfl⟩
    · rw [decide_eq_true hm]
      exact Engine.ranked_hold _ hf hs
  case first =>
    rintro s c p g i e x ops hg h rfl ha hn hst hfin hrep ho hc
    have ready : (if e.n = 0 then (if eStart e.word = 0 then { (s.core p).eng g with pre := [] } else (s.core p).eng g).prepare e.word
        else some ((s.core p).eng g))
        = some { (s.core p).eng g with pre := [], active := (beginTile e.word []).1, scans := (beginTile e.word []).2 } := by
      simp [hn, hst, Engine.prepare, hfin]
    have goesOn : ¬ 0 = wRep e.word := by omega
    obtain ⟨n, core⟩ := State.mmaRank_cycle ha (fun _ => by omega) ready ho hc
    refine ⟨_, exec_mmaRank_cur hg h, ?_⟩
    rw [State.core_rstBegin, core, Core.eng_engCycle, Core.getElem?_engCycle _ _ _ _ h.lt]
    simp only [hn, goesOn, false_and, decide_false]
    exact ⟨rfl, trivial⟩
  case weights =>
    rintro s c p g i e x d l hg h rfl ha hd hp
    refine ⟨_, exec_mmaWl_row hg h ha hd hp, ?_⟩
    rw [State.core_rstBegin, State.tick, State.core_putWord_self, State.core_setCore_self, Core.eng_setWord, Core.eng_setEng_self,
      Core.dataQ_setWord, Core.dataQ_setEng, Core.ents_popEng_self, hd, Core.setWord, Core.words_setWords_self, Core.words_setEng,
      Core.words_popEng, List.getElem?_set_self h.lt]
    exact ⟨rfl, rfl, rfl, rfl⟩
  case sums =>
    rintro s c p g i e x heads hg h rfl ha hh hl hc
    obtain ⟨y, n, core, slots⟩ := State.mmaSt_cycle ha hh hl hc
    refine ⟨_, exec_mmaSt_cur hg h, ?_⟩
    rw [State.core_rstBegin, core, Core.eng_engCycle]
    exact ⟨fun q hq => Core.ents_engCycle _ _ _ _ _ _ (engQueues_nodup_of_st h.op_eq) hq, Core.getElem?_engCycle _ _ _ _ h.lt, slots⟩

end Sys2Proof.Machine
end

section
/-! Proofs of the statements of the outer-product engines (03): slots and the shadow registers (R79, R88, R96, R98, R99), the activity ramp
(R104 to R106, R469), the clear of an L2's counters (R294). -/

namespace Sys2Proof.Machine

/-! ### The end of a slot word (R79, R96, R98, R99) -/

/-- Quarters of a slot change their state and take the quarters of a tile (R96, R98). -/
def Engine.putQuarters (x : Engine) (sl : Nat) (qs : List Nat) (st : QState) (t : Tile) : Engine :=
  x.setSlot sl { (x.slot sl).mark qs st with tile := (x.slot sl).tile.takeQs t qs }

/-- A command that leaves core p as `k` and finishes its word, of a queue that `k` has kept: the engine and the memories are those of `k` and of
the state that `k` is put into. -/
theorem State.slotWord_ends {s u : State} {c p g op i : Nat} {e : Cqe} {k : Core} {cmd : Instr} (h : s.CurAt c p (3 + g) op i e)
    (run : exec cmd s = .next ((u.setCore p k).finish p (3 + g) i e).rstBegin) (hw : k.words (3 + g) = (s.core p).words (3 + g)) :
    ∃ t, exec cmd s = .next t ∧ t.Finished p (3 + g) i ∧ (t.core p).eng g = k.eng g
      ∧ t.t0 = u.t0 ∧ t.slice = u.slice ∧ t.tier = u.tier := by
  have lt : i < (((u.setCore p k).core p).words (3 + g)).length := by
    rw [State.core_setCore_self, hw]
    exact h.lt
  refine ⟨_, run, State.finished_rstBegin (State.finished_finish e lt), ?_, State.rstBegin_t0 _, State.rstBegin_slice _, State.rstBegin_tier _⟩
  rw [State.core_rstBegin, State.finish, State.core_putWord_self, State.core_setCore_self, Core.eng_setWord]

/-! ### Slot words (R79, R96, R98, R99) -/

section SlotWords

variable {s : State} {c p g i : Nat} {e : Cqe}

/-- MMA.DRAIN hands its slot to the drain (R79). -/
theorem exec_mmaDrain_first (hg : g < 2) (h : s.CurAt c p (3 + g) 4 i e) (ha : ((s.core p).eng g).act = .active) (hn : e.n = 0) :
    exec (.mmaDrain c g) s = .next ((s.setCore p ((s.core p).setEng g { (s.core p).eng g with
      offers := ((s.core p).eng g).offers ++ [some (eSlot e.word)]
      moves := ((s.core p).eng g).moves ++ [{ slot := eSlot e.word, qs := eQs e.word, kind := .drain (some e.seqno) false }] })).putWord
        p (3 + g) i { e with n := 1 }).rstBegin := by
  simp only [exec, execMmaDrain, if_neg (Nat.not_le.mpr hg)]
  rw [State.onCur_ready h]
  simp [ha, hn]

/-- MMA.SPILL writes its image and frees its quarters (R98, R99). -/
theorem exec_mmaSpill_cur (hg : g < 2) (h : s.CurAt c p (3 + g) 5 i e) (ha : ((s.core p).eng g).act = .active) :
    exec (.mmaSpill c g) s = .next (((s.localWrite p 0 (eSpAddr e.word) (spillImage (((s.core p).eng g).slot (eSlot e.word)).tile (eQs e.word))
      false).setCore p (((s.core p).setEng g (((s.core p).eng g).putQuarters (eSlot e.word) (eQs e.word) .free {})).bump
        (0x2000 + 0x100 * g + 0x2C) 1)).finish p (3 + g) i e).rstBegin := by
  simp only [exec, execMmaSpill, if_neg (Nat.not_le.mpr hg)]
  rw [State.onCur_ready h]
  simp only [if_neg (not_not.mpr ha)]
  rfl

/-- MMA.FILL of a clean and valid image takes its quarters (R98, R99). -/
theorem exec_mmaFill_good (hg : g < 2) (h : s.CurAt c p (3 + g) 6 i e) (ha : ((s.core p).eng g).act = .active)
    (hp : (s.localRead p 0 (eSpAddr e.word) imageLen).2 = false)
    (hb : fillBad (tileOfImage (s.localRead p 0 (eSpAddr e.word) imageLen).1) (ePack e.word) (eProbs e.word) = false) :
    exec (.mmaFill c g) s = .next ((s.setCore p ((s.core p).setEng g (((s.core p).eng g).putQuarters (eSlot e.word) (eQs e.word) .held
      (tileOfImage (s.localRead p 0 (eSpAddr e.word) imageLen).1)))).finish p (3 + g) i e).rstBegin := by
  simp only [exec, execMmaFill, if_neg (Nat.not_le.mpr hg)]
  rw [State.onCur_ready h]
  simp only [if_neg (not_not.mpr ha), hp, hb, Bool.false_eq_true, if_false]
  rfl

/-- MMA.FREE frees its quarters (R96). -/
theorem exec_mmaFree_cur (hg : g < 2) (h : s.CurAt c p (3 + g) 7 i e) (ha : ((s.core p).eng g).act = .active) :
    exec (.mmaFree c g) s = .next ((s.setCore p ((s.core p).setEng g
      (((s.core p).eng g).putQuarters (eSlot e.word) (eQs e.word) .free {}))).finish p (3 + g) i e).rstBegin := by
  simp only [exec, execMmaFree, if_neg (Nat.not_le.mpr hg)]
  rw [State.onCur_ready h]
  simp only [if_neg (not_not.mpr ha)]
  rfl

end SlotWords

/-! ### Tiles that move (R86, R88, R96) -/

theorem exec_tileToShadow_free {s : State} {c p g : Nat} {d : TileDest} (hg : g < 2) (ha : s.Answers c p) (hw : (s.core p).working = true)
    (hf : ((s.core p).eng g).finish = some d) (hs : ((s.core p).eng g).shUse = .none) :
    exec (.tileToShadow c g) s = .next (s.setCore p ((s.core p).setEng g (((s.core p).eng g).toShadow d))).rstBegin := by
  simp only [exec, execTileToShadow, if_neg (Nat.not_le.mpr hg)]
  rw [State.onCore_answers _ ha]
  simp [hf, hw, hs]

/-- A tile in the shadow: the registers it leaves are empty, and one for the drain is offered to it (R86, R88). -/
theorem Engine.toShadow_effect (x : Engine) (d : TileDest) :
    (x.toShadow d).shadow = x.active ∧ (x.toShadow d).finish = none ∧ (d = .drain → (x.toShadow d).offers = x.offers ++ [none]) := by
  cases d with
  | drain => exact ⟨rfl, rfl, fun _ => rfl⟩
  | hold sl => exact ⟨rfl, rfl, nofun⟩

@[simp] theorem Core.eng_finishSeq (k : Core) (q n g : Nat) : (k.finishSeq q n).eng g = k.eng g := rfl

/-- The engine when its oldest move `m` ends and leaves the moves `l` (R96). -/
def Engine.moveEnded (x : Engine) (m : SlotMove) (l : List SlotMove) : Engine :=
  match m.kind with
  | .hold => { x.setSlot m.slot { st := [.held, .held, .held, .held], tile := x.shadow } with moves := l, shadow := {}, shUse := .none }
  | .resume => { x.setSlot m.slot { st := [.free, .free, .free, .free], tile := {} } with moves := l, shUse := .ready }
  | .drain _ _ => { x.putQuarters m.slot m.qs .free {} with moves := l }

/-- The oldest move, which is no drain move that the drain has still to take, ends. -/
theorem exec_slotMoveDone_head {s : State} {c p g : Nat} {m : SlotMove} {l : List SlotMove} (ha : s.Answers c p) (hw : (s.core p).working = true)
    (hm : ((s.core p).eng g).moves = m :: l) (hk : ∀ w, m.kind ≠ .drain w false) :
    ∃ t, exec (.slotMoveDone c g m.slot) s = .next t ∧ (t.core p).eng g = ((s.core p).eng g).moveEnded m l := by
  obtain ⟨slot, qs, kind⟩ := m
  simp only [exec, execSlotMoveDone]
  rw [State.onCore_answers _ ha]
  refine ⟨_, rfl, ?_⟩
  rw [State.core_rstBegin]
  cases kind with
  | hold => simp [hm, hw, Engine.moveEnded, Engine.setSlot, List.replicate]
  | resume => simp [hm, hw, Engine.moveEnded, Engine.setSlot, List.replicate]
  | drain word taken =>
    cases taken with
    | false => exact absurd rfl (hk word)
    | true =>
      cases word with
      | none => simp [hm, hw, Engine.moveEnded, Engine.putQuarters, Engine.setSlot]
      | some n => simp [hm, hw, Engine.moveEnded, Engine.putQuarters, Engine.setSlot]

/-- Settles O11, a clause at a time. -/
theorem engineSlotsMove : Obligations.EngineSlotsMove := by
  refine ⟨?drain, ?spill, ?fill, ?free, ?shadow, ?held, ?resumed, ?drained⟩
  case drain =>
    intro s c p g i e hg h ha hn
    refine ⟨_, exec_mmaDrain_first hg h ha hn, ?_⟩
    rw [State.core_rstBegin, State.core_putWord_self, State.core_setCore_self, Core.eng_setWord, Core.eng_setEng_self]
    exact ⟨rfl, rfl⟩
  case spill =>
    rintro s c p g i sl e x hg h ha rfl rfl
    obtain ⟨t, run, done, eng, t0, slice, tier⟩ := State.slotWord_ends h (exec_mmaSpill_cur hg h ha) (Core.words_setEng _ _ _ _)
    refine ⟨t, run, done, t0, ?_, slice, tier⟩
    rw [eng, Core.eng_bump, Core.eng_setEng_self]
    rfl
  case fill =>
    rintro s c p g i sl e x im hg h ha rfl rfl hp rfl hb
    obtain ⟨t, run, done, eng, memories⟩ := State.slotWord_ends h (exec_mmaFill_good hg h ha hp hb) (Core.words_setEng _ _ _ _)
    refine ⟨t, run, done, ?_, memories⟩
    rw [eng, Core.eng_setEng_self]
    rfl
  case free =>
    rintro s c p g i sl e x hg h ha rfl rfl
    obtain ⟨t, run, done, eng, memories⟩ := State.slotWord_ends h (exec_mmaFree_cur hg h ha) (Core.words_setEng _ _ _ _)
    refine ⟨t, run, done, ?_, memories⟩
    rw [eng, Core.eng_setEng_self]
    rfl
  case shadow =>
    intro s c p g d hg ha hw hf hs
    refine ⟨_, exec_tileToShadow_free hg ha hw hf hs, ?_⟩
    rw [State.core_rstBegin, State.core_setCore_self, Core.eng_setEng_self]
    exact Engine.toShadow_effect _ d
  case held =>
    intro s c p g m l ha hw hm hk
    obtain ⟨t, run, eng⟩ := exec_slotMoveDone_head ha hw hm (by simp [hk])
    refine ⟨t, run, ?_⟩
    rw [eng, Engine.moveEnded, hk]
    exact ⟨rfl, rfl, rfl⟩
  case resumed =>
    intro s c p g m l ha hw hm hk
    obtain ⟨t, run, eng⟩ := exec_slotMoveDone_head ha hw hm (by simp [hk])
    refine ⟨t, run, ?_⟩
    rw [eng, Engine.moveEnded, hk]
    exact ⟨rfl, rfl, rfl⟩
  case drained =>
    intro s c p g m l w ha hw hm hk
    obtain ⟨t, run, eng⟩ := exec_slotMoveDone_head ha hw hm (by simp [hk])
    refine ⟨t, run, ?_⟩
    rw [eng, Engine.moveEnded, hk]
    exact ⟨rfl, rfl⟩

/-! ### The clear of the L2 counters (R294) -/

/-- A map of which only the keys with a property are kept. -/
theorem aget_filter {α : Type} (d : α) (m : Amap α) (f : Nat → Bool) (i : Nat) :
    aget d (m.filter fun x => f x.1) i = if f i then aget d m i else d := by
  induction m with
  | nil => simp [aget]
  | cons h t ih =>
    obtain ⟨k, v⟩ := h
    by_cases hk : k = i
    · subst hk
      cases hf : f k <;> simp [hf, ih, aget]
    · cases hf : f k <;> simp [hf, ih, aget, hk]

/-- The clear of the L2 counters leaves the counts of the cluster's errors, from 0x4100 on (R25, ch. 14). -/
theorem exec_l2CntClr_keeps_errors {s : State} {c p o : Nat} (ha : s.Answers c p) (ho : 0x4100 ≤ o) :
    ∃ t, exec (.l2CntClr c) s = .next t ∧ aget 0 (t.cluster (clusterOf p)).cnt o = aget 0 (s.cluster (clusterOf p)).cnt o := by
  refine ⟨_, congrArg Host.Outcome.next (State.onCore_answers _ ha), ?_⟩
  rw [State.cluster_rstBegin, State.cluster_setCluster_self]
  exact (aget_filter 0 _ (fun k => decide (0x4100 ≤ k)) o).trans (if_pos (decide_eq_true ho))

/-- Reset, after an L2 of cluster 0 has corrected one error (R25). -/
def l2Corrected : State := State.reset.bumpCluster 0 0x4100 1

theorem State.phys_bumpCluster (s : State) (g o n l : Nat) : (s.bumpCluster g o n).phys l = s.phys l := rfl

theorem l2Corrected_answers : l2Corrected.Answers 0 0 :=
  ⟨(State.phys_bumpCluster _ _ _ _ _).trans (State.phys_reset_of_lt (by decide)), rfl, State.settled_of_flip_none rfl rfl 0⟩

/-- Refutes O46: a clear of the L2 does not empty the cluster's counters. In `l2Corrected` the count of corrected errors is 1, and the clear
keeps it. -/
theorem not_countersClear : ¬ Obligations.CountersClear := by
  unfold Obligations.CountersClear
  rintro ⟨-, -, clearsL2, -⟩
  obtain ⟨t, run, empties, -⟩ := clearsL2 l2Corrected 0 0 l2Corrected_answers
  obtain ⟨u, run', keeps⟩ := exec_l2CntClr_keeps_errors l2Corrected_answers (Nat.le_refl 0x4100)
  obtain rfl : t = u := Host.Outcome.next.inj (run.symm.trans run')
  have one : aget 0 (l2Corrected.cluster (clusterOf 0)).cnt 0x4100 = 1 := rfl
  rw [empties, one] at keeps
  exact absurd keeps (by decide)

/-! ### The activity ramp (R104 to R107, R469) -/

theorem State.rampCore_of_answers {s : State} {c p : Nat} (h : s.Answers c p) : s.rampCore c = some p := by
  obtain ⟨hp, -, -⟩ := h
  unfold State.phys at hp
  unfold State.rampCore
  cases hm : afind s.lmap c with
  | none => simp [hm] at hp
  | some m =>
    rw [hm] at hp
    exact (Option.ite_none_right_eq_some.mp hp).2

section Ramp

variable {s : State} {c p g : Nat}

/-- A waiting engine gets its start token within the limit of the slopes; over it the wait counts (R104, R105, R469). -/
theorem exec_startTokenGrant_waiting (hg : g < 2) (ha : s.Answers c p) (hw : (s.core p).awaitsToken g = true) :
    exec (.startTokenGrant c g) s = .next (if 64 * s.didt < s.slopes .up + slope64 ((s.core p).rampReg g) then s.bump 0x500090 1
      else (s.setCore p ((s.core p).setEng g { (s.core p).eng g with
        act := .up, groups := 1, rampLen := (s.core p).rampReg g, stopReq := false })).bump 0x500088 1).rstBegin := by
  simp only [exec, execStartTokenGrant, if_neg (Nat.not_le.mpr hg)]
  rw [State.onCore_answers _ ha]
  simp [hw]

theorem exec_rampUpDone_up (hg : g < 2) (ha : s.Answers c p) (hu : ((s.core p).eng g).act = .up) :
    exec (.rampUpDone c g) s = .next (s.setCore p ((s.core p).setEng g { (s.core p).eng g with act := .active, groups := 8 })).rstBegin := by
  simp only [exec, execRampUpDone, if_neg (Nat.not_le.mpr hg)]
  rw [State.onCore_answers _ ha]
  simp [hu]

theorem exec_idleHoldExpiry_quiet (hg : g < 2) (ha : s.Answers c p) (hu : ((s.core p).eng g).act = .active)
    (hq : (s.core p).engQuiet g = true) :
    exec (.idleHoldExpiry c g) s = .next (s.setCore p ((s.core p).setEng g { (s.core p).eng g with stopReq := true })).rstBegin := by
  simp only [exec, execIdleHoldExpiry, if_neg (Nat.not_le.mpr hg)]
  rw [State.onCore_answers _ ha]
  simp [hu, hq]

/-- An engine that asks for a stop slot gets it within the limit of the slopes (R106, R469). -/
theorem exec_stopSlotGrant_asked (hg : g < 2) (ha : s.Answers c p) (hu : ((s.core p).eng g).act = .active)
    (hq : ((s.core p).eng g).stopReq = true) (hl : s.slopes .down + slope64 ((s.core p).rampReg g) ≤ 64 * s.didt) :
    exec (.stopSlotGrant c g) s = .next ((s.setCore p ((s.core p).setEng g { (s.core p).eng g with
      act := .down, stopReq := false, rampLen := (s.core p).rampReg g })).bump 0x50008C 1).rstBegin := by
  simp only [exec, execStopSlotGrant, if_neg (Nat.not_le.mpr hg)]
  rw [State.onCore_answers _ ha]
  simp [hu, hq, Nat.not_lt.mpr hl]

theorem exec_rampDownDone_down (hg : g < 2) (ha : s.Answers c p) (hu : ((s.core p).eng g).act = .down) :
    exec (.rampDownDone c g) s = .next (s.setCore p ((s.core p).setEng g { (s.core p).eng g with act := .idle, groups := 0 })) := by
  simp only [exec, execRampDownDone, if_neg (Nat.not_le.mpr hg), State.rampCore_of_answers ha]
  obtain ⟨-, hr, hs⟩ := ha
  rw [State.under_settled _ hs]
  simp [hr, hu]

end Ramp

/-- Settles O12, a state of the ramp at a time. -/
theorem engineRampStates : Obligations.EngineRampStates := by
  refine ⟨?granted, ?waits, fun _ _ _ _ => exec_rampUpDone_up, fun _ _ _ _ => exec_idleHoldExpiry_quiet, ?stops,
    fun _ _ _ _ => exec_rampDownDone_down⟩
  case granted =>
    intro s c p g hg ha hw hl
    refine ⟨_, exec_startTokenGrant_waiting hg ha hw, ?_⟩
    rw [if_neg (Nat.not_lt.mpr hl), State.core_rstBegin, State.core_bump, State.core_setCore_self, Core.eng_setEng_self,
      State.count_congr (State.rstBegin_cnt _), State.count_bump_self]
    exact ⟨rfl, rfl, rfl, rfl⟩
  case waits =>
    intro s c p g hg ha hw hl
    rw [exec_startTokenGrant_waiting hg ha hw, if_pos hl]
  case stops =>
    intro s c p g hg ha hu hq hl
    refine ⟨_, exec_stopSlotGrant_asked hg ha hu hq hl, ?_⟩
    rw [State.core_rstBegin, State.core_bump, State.core_setCore_self, Core.eng_setEng_self,
      State.count_congr (State.rstBegin_cnt _), State.count_bump_self]
    exact ⟨rfl, rfl, rfl⟩

end Sys2Proof.Machine
end

section
/-! Proofs of the statements of the drain (04): the words that write one setting of a unit, and the fence word of the drain's parameters (R109,
R110, R125, R131, R190, R195, R198). -/

namespace Sys2Proof.Machine

/-! ### The word that a unit is at -/

theorem Core.started_of_curAt {c : Core} {q i : Nat} {e : Cqe} (h : c.curAt q = some (i, e)) : e.started = true := by
  obtain ⟨⟨x, j⟩, found, same⟩ := Option.map_eq_some_iff.1 h
  obtain ⟨rfl, rfl⟩ := Prod.mk.inj same
  have test := List.find?_some found
  exact (Bool.and_eq_true_iff.1 test).1

theorem Core.word_of_curAt {c : Core} {q i : Nat} {e : Cqe} (h : c.curAt q = some (i, e)) : (c.words q)[i]? = some e := by
  obtain ⟨⟨x, j⟩, found, same⟩ := Option.map_eq_some_iff.1 h
  obtain ⟨rfl, rfl⟩ := Prod.mk.inj same
  exact List.mem_zipIdx_iff_getElem?.1 (List.mem_of_find?_eq_some found)

/-! ### A fence word that is done (R110) -/

theorem Core.words_finishSeq_self (c : Core) (q n : Nat) :
    (c.finishSeq q n).words q = (c.words q).map fun x => if x.started && x.seqno = n then { x with fin := true } else x :=
  c.words_setWords_self q _

theorem Core.words_finishSeq_ne (c : Core) {q r : Nat} (n : Nat) (h : q ≠ r) : (c.finishSeq q n).words r = c.words r :=
  c.words_setWords_ne _ h

@[simp] theorem Core.drn_finishSeq (c : Core) (q n : Nat) : (c.finishSeq q n).drn = c.drn := rfl

/-- A started word is finished by its sequence number. -/
theorem Core.getElem?_finishSeq_self {c : Core} {q i : Nat} {e : Cqe} (h : (c.words q)[i]? = some e) (hs : e.started = true) :
    ((c.finishSeq q e.seqno).words q)[i]? = some { e with fin := true } := by
  simp [Core.words_finishSeq_self, h, hs]

theorem State.core_fenceDone_self (s : State) (p : Nat) (e : Cqe) :
    (s.fenceDone p e).core p = ((s.core p).finishSeq 5 e.seqno).finishSeq 10 e.seqno :=
  State.core_modCore_self s p _

/-- The fence word is finished in lane A: the marking of lane B's copy leaves lane A's queue. -/
theorem State.finished_fenceDone {s : State} {p i : Nat} {e : Cqe} (h : ((s.core p).words 5)[i]? = some e) (hs : e.started = true) :
    (s.fenceDone p e).Finished p 5 i := by
  rw [State.Finished, State.core_fenceDone_self, Core.words_finishSeq_ne _ _ (by decide), Core.getElem?_finishSeq_self h hs]
  rfl

/-! ### The end of a word that writes a setting -/

/-- A command that leaves core p as `k` and finishes its word, of a queue that `k` has kept. -/
theorem State.settingWord_ends {s : State} {p q i : Nat} {e : Cqe} {k : Core} {cmd : Instr}
    (run : exec cmd s = .next ((s.setCore p k).finish p q i e).rstBegin) (hw : k.words q = (s.core p).words q)
    (hl : i < ((s.core p).words q).length) :
    ∃ t, exec cmd s = .next t ∧ t.Finished p q i ∧ t.core p = k.setWord q i { e with fin := true } := by
  have lt : i < (((s.setCore p k).core p).words q).length := by
    rw [State.core_setCore_self, hw]
    exact hl
  refine ⟨_, run, State.finished_rstBegin (State.finished_finish e lt), ?_⟩
  rw [State.core_rstBegin, State.finish, State.core_putWord_self, State.core_setCore_self]

/-- The fields of the generator that an AGSET word sets (R190). -/
theorem agenOf_eq (w : CWord) (lo len : Nat) (sp : Bool) : agenOf w lo len sp = {
    space := if sp then wbits w 66 2 else 0, layout := if sp then wbits w 64 2 else 0, base := wbits w lo len
    stride := [signedOf 20 (wbits w 140 20), signedOf 20 (wbits w 172 20), signedOf 20 (wbits w 204 20), signedOf 20 (wbits w 236 20)]
    count := [wbits w 128 12, wbits w 160 12, wbits w 192 12, wbits w 224 12] } := rfl

/-- The rounding context that a SRCTX word sets (R125, R195). -/
def srctxOf (w : CWord) : RndCtx :=
  { obj := wbits w 55 16, base := wbits w 7 48, tstep := wbits w 224 32, pstep := wbits w 200 24, rstep := wbits w 176 24, n := 0 }

/-- The hyperparameters that UPD.HP sets (R198). -/
def hpOf (w : CWord) : HpSet where
  lr := BitVec.ofNat 32 (wbits w 224 32)
  b1 := BitVec.ofNat 32 (wbits w 192 32)
  b2 := BitVec.ofNat 32 (wbits w 160 32)
  eps := BitVec.ofNat 32 (wbits w 128 32)
  wd := BitVec.ofNat 32 (wbits w 32 32)
  mu := BitVec.ofNat 32 (wbits w 0 32)

/-- The drain with the parameter of a DRN.CFG word; NORM_E takes 8 bits and clears the norm accumulators (R109, R131). -/
def Drain.configured (d : Drain) (w : CWord) : Drain :=
  { d with
    param := d.param.set (wbits w 69 3) (BitVec.ofNat 32 (wbits w 0 (if wbits w 69 3 = 5 then 8 else 32)))
    nacc := if wbits w 69 3 = 5 then [] else d.nacc }

/-! ### The words that write a setting -/

section SettingWords

variable {s : State} {c p i : Nat} {e : Cqe}

theorem exec_ldAgset_at (h : s.WordAt c p 2 1 i e) :
    exec (.ldAgset c i) s = .next ((s.setCore p { s.core p with
      ldAg := aset (s.core p).ldAg (wbits e.word 68 4) (agenOf e.word 40 24 true) }).finish p 2 i e).rstBegin :=
  congrArg _ (State.onWord_ready h _)

theorem exec_vecAgset_cur (h : s.CurAt c p 6 0xD i e) :
    exec (.vecAgset c) s = .next ((s.setCore p { s.core p with
      vecAg := aset (s.core p).vecAg (wbits e.word 68 3) (agenOf e.word 0 52 false) }).finish p 6 i e).rstBegin :=
  congrArg _ (State.onCur_ready h _)

theorem exec_wrAgset_cur (h : s.CurAt c p 7 1 i e) :
    exec (.wrAgset c) s = .next ((s.setCore p { s.core p with
      wrAg := aset (s.core p).wrAg (wbits e.word 68 4) (agenOf e.word 40 24 true) }).finish p 7 i e).rstBegin :=
  congrArg _ (State.onCur_ready h _)

theorem exec_drnSrctx_cur {l : Nat} (hl : l < 2) (h : s.CurAt c p (laneQ l) 2 i e) :
    exec (.drnSrctx c l) s = .next ((s.setCore p { s.core p with
      drn := { (s.core p).drn with ctx := (s.core p).drn.ctx.set l (srctxOf e.word) } }).finish p (laneQ l) i e).rstBegin := by
  simp only [exec, execDrnSrctx, if_neg (Nat.not_le.mpr hl)]
  rw [State.onCur_ready h]
  rfl

theorem exec_drnCfg_cur (h : s.CurAt c p 5 3 i e) :
    exec (.drnCfg c) s = .next ((s.setCore p { s.core p with drn := (s.core p).drn.configured e.word }).fenceDone p e).rstBegin := by
  simp only [exec, execDrnCfg, State.onFenceWord]
  rw [State.onCur_ready h]
  by_cases norm : wbits e.word 69 3 = 5 <;> simp [norm, Drain.configured]

theorem exec_vecSrctx_cur (h : s.CurAt c p 6 0xE i e) :
    exec (.vecSrctx c) s = .next ((s.setCore p { s.core p with
      vec := { (s.core p).vec with ctx := srctxOf e.word } }).finish p 6 i e).rstBegin :=
  congrArg _ (State.onCur_ready h _)

theorem exec_updHp_cur (h : s.CurAt c p 8 1 i e) :
    exec (.updHp c) s = .next ((s.setCore p { s.core p with
      upd := { (s.core p).upd with hp := (s.core p).upd.hp.set (wbits e.word 70 2) (hpOf e.word) } }).finish p 8 i e).rstBegin :=
  congrArg _ (State.onCur_ready h _)

end SettingWords

/-- Settles O13, a word at a time. -/
theorem configurationWordsWrite : Obligations.ConfigurationWordsWrite := by
  refine ⟨?ldAgset, ?vecAgset, ?wrAgset, ?drnSrctx, ?drnCfg, ?vecSrctx, ?updHp⟩
  case ldAgset =>
    rintro s c p i n e h rfl
    obtain ⟨t, run, done, core⟩ := State.settingWord_ends (exec_ldAgset_at h) rfl h.lt
    exact ⟨t, run, done, by rw [core, Core.setWord_ldAg, agenOf_eq]; rfl⟩
  case vecAgset =>
    rintro s c p i n e h rfl
    obtain ⟨t, run, done, core⟩ := State.settingWord_ends (exec_vecAgset_cur h) rfl h.lt
    exact ⟨t, run, done, by rw [core, Core.setWord_vecAg, agenOf_eq]; rfl⟩
  case wrAgset =>
    rintro s c p i n e h rfl
    obtain ⟨t, run, done, core⟩ := State.settingWord_ends (exec_wrAgset_cur h) rfl h.lt
    exact ⟨t, run, done, by rw [core, Core.setWord_wrAg, agenOf_eq]; rfl⟩
  case drnSrctx =>
    rintro s c p i l q e hl rfl h
    obtain ⟨t, run, done, core⟩ := State.settingWord_ends (exec_drnSrctx_cur hl h) rfl h.lt
    exact ⟨t, run, done, congrArg (·.drn) core⟩
  case drnCfg =>
    intro s c p i e h
    have ⟨_, cur, _⟩ := h
    have word : (((s.setCore p { s.core p with drn := (s.core p).drn.configured e.word }).core p).words 5)[i]? = some e := by
      rw [State.core_setCore_self]
      exact Core.word_of_curAt cur
    refine ⟨_, exec_drnCfg_cur h, State.finished_rstBegin (State.finished_fenceDone word (Core.started_of_curAt cur)), ?_⟩
    rw [State.core_rstBegin, State.core_fenceDone_self, Core.drn_finishSeq, Core.drn_finishSeq, State.core_setCore_self]
    exact ⟨rfl, rfl, rfl, rfl⟩
  case vecSrctx =>
    intro s c p i e h
    obtain ⟨t, run, done, core⟩ := State.settingWord_ends (exec_vecSrctx_cur h) rfl h.lt
    exact ⟨t, run, done, congrArg (·.vec) core⟩
  case updHp =>
    intro s c p i e h
    obtain ⟨t, run, done, core⟩ := State.settingWord_ends (exec_updHp_cur h) rfl h.lt
    exact ⟨t, run, done, congrArg (·.upd) core⟩

end Sys2Proof.Machine
end

section
/-! Proofs of the statements of the core programs (05): the words of the sequencer, barriers, the end of a program, dispatch, issue and
completion (R136 to R174). -/

namespace Sys2Proof.Machine

/-! ### Words whose effect is on the sequencer alone (R159) -/

/-- Settles O1: each word is one change of the core, made when its wait is met. -/
theorem seqWordsCompute : Obligations.SeqWordsCompute := by
  refine ⟨?nop, ?barSet, ?sync, ?lcSet, ?lcAdd, ?flagClr, ?endWord⟩
  case nop => exact fun s c p w k h => congrArg _ (State.seqPlain_ready h _)
  case barSet => exact fun s c p w k h => congrArg _ (State.seqPlain_ready h _)
  case sync =>
    intro s c p w k h hq
    have run := State.onSeq_ready h fun s p k w => if k.synced then (s.setCore p (k.seqDone none)).wordSignal p w (k.seqHalt 0 0) else s
    rw [(Core.synced_iff k).2 hq] at run
    exact congrArg _ run
  case lcSet =>
    rintro s c p w k n v h rfl rfl
    exact ⟨_, rfl, congrArg _ (State.seqPlain_ready h _)⟩
  case lcAdd =>
    rintro s c p w k n x v h rfl hx hv
    have limited : max 0 (min 16777215 x) = v := by
      rw [hv]
      grind
    subst hx
    refine ⟨_, rfl, ?_⟩
    rw [← limited]
    exact congrArg _ (State.seqPlain_ready h _)
  case flagClr => exact fun s c p w k h => congrArg _ (State.seqPlain_ready h _)
  case endWord => exact fun s c p w k h => congrArg _ (State.seqPlain_ready h _)

/-! ### SEQ words that go elsewhere -/

/-- An increment overruns a barrier (R151). -/
theorem Barrier.overrun_iff (x : Barrier) (n : Nat) :
    (x.ok && decide (32768 ≤ x.dist + n)) = true ↔ x.dist < 32768 ∧ 32768 ≤ x.dist + n := by
  simp [Barrier.ok]

section SeqWords

variable {s : State} {c p : Nat} {w : CWord} {k : Core}

/-- BAR.SIG adds to COUNT, or halts on an overrun (R151, R159). -/
theorem exec_barSig_ready (h : s.SeqReady c p 0x3 w k) :
    exec (.barSig c) s = .next
      (if (k.bar (wbits w 67 5)).dist < 32768 ∧ 32768 ≤ (k.bar (wbits w 67 5)).dist + wbits w 59 8
        then (s.halt p (k.seqHalt 0x07 (wbits w 67 5 + 256))).rstBegin
        else s.afterSeq p w k ((k.setBar (wbits w 67 5)
          { k.bar (wbits w 67 5) with count := ((k.bar (wbits w 67 5)).count + wbits w 59 8) % 65536 }).seqDone none)) := by
  simp only [exec, execBarSig, State.onSeq_ready h, Barrier.overrun_iff]
  split <;> rfl

/-- The body of a LOOP nests in the loops on the stack (R160). -/
theorem Core.loop_nests {e : Nat} (hpc : k.seq.pc ≤ e) (hout : ∀ l ∈ k.seq.loops.getLast?, e ≤ l.endA) :
    (decide (e < k.seq.pc) || k.seq.loops.getLast?.any fun l => decide (l.endA < e)) = false := by
  cases outer : k.seq.loops.getLast? with
  | none => simpa using hpc
  | some l => simpa using ⟨hpc, hout l outer⟩

theorem target_eq {pc ofs a : Nat} (h : (a : Int) = ((pc : Int) + signedOf 24 ofs) % 2 ^ 48) : target pc ofs = a := by
  simp only [target, Nat.cast_pow, Nat.cast_ofNat, ← h, Int.toNat_natCast]

/-- No word in flight names a queue: the test of Q.BIND (R144). -/
theorem Core.unnamed {f : Cqe → List Nat} {q : Nat} (h : ∀ e ∈ k.allWords, q ∉ f e) : (k.allWords.any fun e => (f e).contains q) = false := by
  simpa using h

end SeqWords

/-- Settles O2, a word at a time. -/
theorem seqControlFlow : Obligations.SeqControlFlow := by
  refine ⟨?barSig, ?loop, ?loopZero, ?br, ?brc, ?dataBind, ?handleBind, ?lcPop⟩
  case barSig =>
    rintro s c p b n w k h rfl rfl hu
    rw [exec_barSig_ready h, if_neg hu]
    rfl
  case loop =>
    rintro s c p n endA w k h rfl rfl hl hpc hout hn
    simp only [exec, execLoop, State.onSeq_ready h, Core.loop_nests hpc hout, Nat.not_le.2 hl, Nat.ne_of_gt hn]
    rfl
  case loopZero =>
    rintro s c p endA w k h hn rfl hl hpc hout
    refine ⟨_, rfl, ?_⟩
    simp only [exec, execLoop, State.onSeq_ready h, Core.loop_nests hpc hout, Nat.not_le.2 hl, ← hn]
    rfl
  case br =>
    intro s c p a w k h ha
    rw [← target_eq ha]
    exact congrArg _ (State.onSeq_ready h _)
  case brc =>
    intro s c p a w k h ha
    rw [← target_eq ha]
    exact congrArg _ (State.onSeq_ready h _)
  case dataBind =>
    rintro s c p q w k h rfl hb hw he
    simp only [exec, execQBind, State.onSeq_ready h, hb, he, Core.unnamed (f := fun e => dqNames e.word) hw]
    rfl
  case handleBind =>
    rintro s c p q w k h rfl hb hw he hr
    simp only [exec, execQBind, State.onSeq_ready h, hb, he, hr, Core.unnamed (f := k.hqNames) hw]
    rfl
  case lcPop =>
    rintro s c p q src w k e l h rfl hb he hm hp
    have role : k.popRole (wIna w) 0 = none := by simp [Core.popRole, hb]
    simp only [exec, execLcPop, State.onSeq_ready h, role, he, hm, hp]
    simp [State.afterSeq, Core.dropDq, he, bitsOf]
    rfl

theorem State.SeqReady.wait_eq {s : State} {c p op : Nat} {w : CWord} {k : Core} (h : s.SeqReady c p op w k) :
    k = { s.core p with seq := { (s.core p).seq with bars := k.seq.bars } } := by
  obtain ⟨-, -, -, -, -, wait⟩ := h
  exact Core.seqWait_ready wait

/-- The record of a halt of the word in hand is the same before its wait is met and after. -/
theorem State.SeqReady.seqHalt_eq {s : State} {c p op : Nat} {w : CWord} {k : Core} (h : s.SeqReady c p op w k) (reason info : Nat) :
    k.seqHalt reason info = (s.core p).seqHalt reason info := by
  rw [h.wait_eq]
  rfl

theorem Core.state_of_active {c : Core} (h : c.active = true) : c.seq.state = .running := of_decide_eq_true h

theorem Core.not_stopped_of_active {c : Core} (h : c.active = true) : c.seq.state ≠ .halted ∧ c.seq.state ≠ .frozen := by
  rw [Core.state_of_active h]
  exact ⟨nofun, nofun⟩

theorem State.signal_overrun {s : State} {p b n : Nat} (r : HaltRec) (h : ((s.core p).bar b).dist < 32768)
    (h' : 32768 ≤ ((s.core p).bar b).dist + n) :
    s.signal p b n r = s.halt p { r with reason := 0x07, info := b + 256 + r.unit * 4096 } :=
  if_pos ((Barrier.overrun_iff _ n).2 ⟨h, h'⟩)

theorem State.signal_of_not_overrun {s : State} {p b n : Nat} (r : HaltRec)
    (h : ¬(((s.core p).bar b).dist < 32768 ∧ 32768 ≤ ((s.core p).bar b).dist + n)) :
    s.signal p b n r = s.setCore p ((s.core p).setBar b { (s.core p).bar b with count := (((s.core p).bar b).count + n) % 65536 }) :=
  if_neg (mt (Barrier.overrun_iff _ n).1 h)

/-- A halt on a core that has stopped already is counted (R170, R172). -/
theorem State.halt_of_stopped {s : State} {p : Nat} (r : HaltRec) (h : (s.core p).seq.state = .halted ∨ (s.core p).seq.state = .frozen) :
    s.halt p r = s.bumpCore p cHaltMulti 1 := by
  have stopped : (decide ((s.core p).seq.state = .halted) || decide ((s.core p).seq.state = .frozen)) = true := by simpa using h
  exact if_pos stopped

/-- Settles O56: an overrun is a halt, and a halt leaves the barriers of every core. -/
theorem barrierOverrunHalts : Obligations.BarrierOverrunHalts := by
  refine ⟨?halts, ?stopped, ?barSig, ?adds⟩
  case halts =>
    intro s p b n r hh hf hd ho
    rw [State.signal_overrun r hd ho, State.seq_halt _ hh hf]
    exact ⟨rfl, rfl, rfl, fun q _ => ((State.stopOnly_halt _ _ _).2 q).seq_bars⟩
  case stopped =>
    intro s p b n r hs hd ho
    rw [State.signal_overrun r hd ho, State.halt_of_stopped _ hs, State.bumpCore, State.core_modCore_self]
    exact ⟨rfl, Core.count_bump_self _ _ _⟩
  case barSig =>
    rintro s c p b n w k h rfl rfl hd ho
    have ⟨_, _, _, active, _, wait⟩ := h
    obtain ⟨hh, hf⟩ := Core.not_stopped_of_active active
    refine ⟨_, (exec_barSig_ready h).trans (by rw [if_pos ⟨hd, ho⟩]), ?_⟩
    have bars := ((State.stopOnly_halt s p (k.seqHalt 0x07 (wbits w 67 5 + 256))).2 p).seq_bars
    rw [State.core_rstBegin, State.seq_halt _ hh hf]
    refine ⟨rfl, rfl, rfl, ?_⟩
    rw [Core.bar, bars]
    rfl
  case adds =>
    intro s p b n r hlt
    rw [State.signal_of_not_overrun r (by omega), State.core_setCore_self, Core.bar_setBar_self]
    exact ⟨rfl, rfl⟩

/-! ### The end of a program, STOP and RESTART (R159, R168, R173, R174) -/

/-- A halt of a running core: nothing else of the machine changes, and its sequencer keeps all but the stop and its record. -/
theorem State.halt_active {s : State} {p : Nat} (r : HaltRec) (h : (s.core p).active = true) :
    s.StopOnly (s.halt p r) ∧ ((s.halt p r).core p).seq = { (s.core p).seq with
      state := .halted, stopping := false, cur := none, haltUnits := [r.unit], haltOld := (s.core p).seq.halt, halt := r } := by
  obtain ⟨hh, hf⟩ := Core.not_stopped_of_active h
  exact ⟨State.stopOnly_halt s p r, State.seq_halt r hh hf⟩

theorem exec_brk_ready {s : State} {c p : Nat} {w : CWord} {k : Core} (h : s.SeqReady c p 0xF w k) :
    exec (.brk c) s = .next (s.halt p ((s.core p).seqHalt 0x10 (wbits w 56 16))).rstBegin := by
  rw [← h.seqHalt_eq]
  exact congrArg _ (State.onSeq_ready h _)

theorem exec_watchdog_due {s : State} {c p : Nat} (ha : s.Answers c p) (hr : (s.core p).active = true) (hp : (s.core p).preOk = true)
    (hw : (s.core p).seq.wdog ≠ 0) (h0 : (s.core p).awaitsToken 0 = false) (h1 : (s.core p).awaitsToken 1 = false) :
    exec (.watchdog c) s = .next (s.halt p
      { pc := (s.core p).seq.pc, unit := 0, reason := 0x0F, seqno := 0, info := (s.core p).waitingUnits }).rstBegin := by
  simp [exec, execWatchdog, State.onCore_answers _ ha, hr, hp, hw, h0, h1]

theorem exec_coreDone_idle {s : State} {c p : Nat} (ha : s.Answers c p) (hr : (s.core p).active = true) (hp : (s.core p).preOk = true)
    (he : (s.core p).seq.ending = true) (hq : (s.core p).synced = true) (hd : (s.core p).drn.cur = none) :
    exec (.coreDone c) s = .next (((s.setCore p ((s.core p).modSeq fun q => { q with state := .done, stopping := false })).irqCore p).emit
      (.coreDone c)).rstBegin := by
  simp [exec, execCoreDone, State.onCore_answers _ ha, hr, hp, he, hq, hd]

/-- A running core with nothing dispatched and nothing in hand stops at once (R174). -/
theorem Core.seq_stop_idle {c : Core} (hr : c.active = true) (hs : c.synced = true) (hc : c.seq.cur = none) :
    c.stop.seq = { c.seq with state := .stopped, stopping := false, cur := none } := by
  have run := Core.state_of_active hr
  rw [Core.synced] at hs
  rw [Core.stop, if_pos hr]
  simp [Core.settleStop, Core.active, Core.synced, run, hs, hc]

/-- A running core with words dispatched lets them finish (R174). -/
theorem Core.seq_stop_busy {c : Core} (hr : c.active = true) (hs : c.synced = false) :
    c.stop.seq = { c.seq with stopping := true, cur := if c.seq.cur.any SeqCur.sent then c.seq.cur else none } := by
  rw [Core.synced] at hs
  rw [Core.stop, if_pos hr]
  simp [Core.settleStop, Core.synced, hs]

theorem exec_seqCtrlStop_answers {s : State} {c p : Nat} (ha : s.Answers c p) :
    exec (.seqCtrlStop c) s = .next (s.modCore p Core.stop).rstBegin :=
  congrArg _ (State.onCore_answers _ ha)

/-- What RESTART makes of a core whose pins are released (R174). -/
def Core.restarted (c : Core) : Core :=
  ({ c.flush with upd := { c.flush.upd with stg := 0, phase := .idle, touched := [] }, stash := { peak := c.flush.stash.peak } } : Core).modSeq
    fun q => { q with bars := [], loops := [], open_ := false, repeating := false, repeatRec := none, stopping := false
                      pc := q.start, state := .running }

theorem State.restartCore_eq (s : State) (p : Nat) : s.restartCore p = ((s.releasePins p).modCore p Core.restarted).irqCore p := rfl

theorem State.core_releasePins_self (s : State) (p : Nat) : (s.releasePins p).core p = { s.core p with pins := [] } := by
  obtain ⟨ob, eq⟩ := State.releasePins_only s p
  rw [eq, State.core_modCore_self]
  rfl

theorem State.core_releasePins_ne (s : State) {p q : Nat} (h : p ≠ q) : (s.releasePins p).core q = s.core q := by
  obtain ⟨ob, eq⟩ := State.releasePins_only s p
  rw [eq, State.core_modCore_ne _ _ h]
  rfl

theorem State.core_restartCore_self (s : State) (p : Nat) :
    (s.restartCore p).core p = ({ s.core p with pins := [] } : Core).restarted := by
  rw [State.restartCore_eq, State.core_irqCore, State.core_modCore_self, State.core_releasePins_self]

theorem State.core_restartCore_ne (s : State) {p q : Nat} (h : p ≠ q) : (s.restartCore p).core q = s.core q := by
  rw [State.restartCore_eq, State.core_irqCore, State.core_modCore_ne _ _ h, State.core_releasePins_ne s h]

/-- Two states differ in the cores, in the objects with their pins, and in the interrupt controller, at most. -/
def State.RestartOnly (s t : State) : Prop :=
  t = { s with cores := t.cores, obj := t.obj, irq := t.irq, msixPba := t.msixPba, out := t.out, deliv := t.deliv }

theorem State.restartOnly_restartCore (s : State) (p : Nat) : s.RestartOnly (s.restartCore p) := by
  obtain ⟨ob, eq⟩ := State.releasePins_only s p
  have irq := State.irqOnly_irqCore ((s.releasePins p).modCore p Core.restarted) p
  rw [State.RestartOnly, State.restartCore_eq, irq, eq]
  rfl

theorem exec_restart_parked {s : State} {c p : Nat} (ha : s.Answers c p) (hp : (s.core p).parked = true) (hc : (s.core p).inCommit = false)
    (hr : s.sec.recovery = false) : exec (.restart c) s = .next (s.restartCore p).rstBegin := by
  simp [exec, execRestart, State.onCore_answers _ ha, State.mayRestart, hp, hc, hr]

theorem aget_map_snd {α : Type} {d : α} {f : α → α} (hd : f d = d) (m : Amap α) (i : Nat) :
    aget d (m.map fun x => (x.1, f x.2)) i = f (aget d m i) := by
  induction m with
  | nil => exact hd.symm
  | cons x t ih =>
    simp only [List.map_cons, aget]
    split
    · rfl
    · exact ih

/-- A flushed data queue keeps its binding (R174). -/
theorem Core.dataQ_flush (c : Core) (q : Nat) : c.flush.dataQ q = { c.dataQ q with ents := [], served := none } :=
  aget_map_snd (f := fun x : DataQ => { x with ents := [], served := none }) rfl c.dq q

/-- Settles O4, an event at a time. -/
theorem coreEndsItsProgram : Obligations.CoreEndsItsProgram := by
  refine ⟨?irq, ?brk, ?watchdog, ?done, ?stop, ?restart⟩
  case irq => exact fun s c p w k h => congrArg _ (State.onSeq_ready h _)
  case brk =>
    intro s c p w k h
    have ⟨_, _, _, active, _⟩ := h
    exact ⟨_, exec_brk_ready h, State.halt_active _ active⟩
  case watchdog =>
    intro s c p ha hr hp hw h0 h1
    exact ⟨_, exec_watchdog_due ha hr hp hw h0 h1, State.halt_active _ hr⟩
  case done =>
    intro s c p ha hr hp he hq hd
    refine ⟨_, exec_coreDone_idle ha hr hp he ((Core.synced_iff _).2 hq) hd, ?_, ?_⟩
    · rw [State.core_rstBegin, State.core_emit, State.core_irqCore, State.core_setCore_self]
      rfl
    · simp
  case stop =>
    intro s c p ha hr
    refine ⟨_, exec_seqCtrlStop_answers ha, ?_, ?_, fun q hq => ?_, ?_⟩
    · intro hs hc
      rw [State.core_rstBegin, State.core_modCore_self, Core.seq_stop_idle hr hs hc]
      exact ⟨rfl, rfl⟩
    · intro hs
      rw [State.core_rstBegin, State.core_modCore_self, Core.seq_stop_busy hr hs]
      exact ⟨Core.state_of_active hr, rfl⟩
    · rw [State.core_rstBegin, State.core_modCore_ne _ _ hq.symm]
    · rw [State.core_rstBegin, State.core_modCore_self]
      exact (Core.stopOnly_stop _).cq
  case restart =>
    intro s c p ha hst hc hrec
    have parked : (s.core p).parked = true := by simpa [Core.parked, or_assoc] using hst
    have only := State.restartOnly_restartCore s p
    refine ⟨_, exec_restart_parked ha parked hc hrec, ?_⟩
    rw [State.core_rstBegin, State.core_restartCore_self]
    refine ⟨rfl, rfl, rfl, rfl, rfl, rfl, rfl, rfl, rfl, rfl, fun q => ?_, fun q hq => ?_, ?_⟩
    · have queue : (({ s.core p with pins := [] } : Core).restarted).dataQ q = ({ s.core p with pins := [] } : Core).flush.dataQ q := rfl
      rw [queue, Core.dataQ_flush]
      exact ⟨rfl, rfl⟩
    · rw [State.core_rstBegin, State.core_restartCore_ne s hq.symm]
    · rw [State.rstBegin_t0, State.rstBegin_slice, State.rstBegin_tier, only]
      exact ⟨rfl, rfl, rfl⟩

/-! ### Dispatch (R136, R138, R141) -/

/-- Two cores differ at most in what fetching changes: the fetch buffer, its fills with their DMA segments, and counters (R138). -/
def Core.FetchOnly (c d : Core) : Prop :=
  d = { c with dmaQ := d.dmaQ, cnt := d.cnt, seq := { c.seq with fetch := d.seq.fetch, fills := d.seq.fills } }

theorem Core.FetchOnly.refl (c : Core) : c.FetchOnly c := rfl

theorem Core.FetchOnly.trans {c d e : Core} (h : c.FetchOnly d) (k : d.FetchOnly e) : c.FetchOnly e := by
  unfold Core.FetchOnly at *
  rw [k, h]

theorem Core.fetchOnly_touchLine (c : Core) (line : Nat) : c.FetchOnly (c.touchLine line) := by
  unfold Core.touchLine
  split <;> rfl

theorem State.fetchOnly_askLine (s : State) (p line : Nat) (d : Bool) : (s.core p).FetchOnly ((s.askLine p line d).core p) := by
  obtain ⟨q, f, n, eq⟩ := State.core_askLine s p line d
  rw [eq]
  rfl

theorem State.regs_askLine (s : State) (p line : Nat) (d : Bool) : (s.askLine p line d).regs = s.regs := by
  unfold State.askLine
  simp only
  split
  · split <;> rfl
  · rfl

/-- A checked word is dispatched by a core that differs by its fetching only. -/
theorem exec_dispatch_word {s : State} {c p : Nat} {w : CWord} (ha : s.Answers c p) (hd : (s.core p).canDispatch = true)
    (ht : (s.core p).tokFull = false) (hf : (s.core p).fetchAt (s.core p).seq.pc = .word w)
    (hc : checkWord w (s.core p).seq.mode (s.collNorm w) = none) :
    ∃ u : State, (s.core p).FetchOnly (u.core p) ∧ exec (.dispatch c) s = .next ((u.core p).dispatchWord (CWord.seen w) p u).rstBegin := by
  have running : (s.core p).seq.state ≠ .halted := by
    have active : (s.core p).active = true := by
      simp only [Core.canDispatch, Bool.and_eq_true] at hd
      tauto
    exact (Core.not_stopped_of_active active).1
  generalize hk : ((s.core p).touchLine (((s.core p).seq.pc + (wWidth w - 1)) % 2 ^ 48 / 32)).touchLine ((s.core p).seq.pc / 32) = k
  have touched : (s.core p).FetchOnly k := by
    rw [← hk]
    exact (Core.fetchOnly_touchLine _ _).trans (Core.fetchOnly_touchLine _ _)
  generalize hu : (if (k.fetchLine (k.seq.pc / 32 + 1)).isNone then (s.setCore p k).askLine p (k.seq.pc / 32 + 1) false
    else s.setCore p k) = u
  have asked : k.FetchOnly (u.core p) ∧ u.regs = s.regs := by
    rw [← hu]
    split
    · refine ⟨?_, State.regs_askLine _ _ _ _⟩
      have ask := State.fetchOnly_askLine (s.setCore p k) p (k.seq.pc / 32 + 1) false
      rwa [State.core_setCore_self] at ask
    · rw [State.core_setCore_self]
      exact ⟨Core.FetchOnly.refl _, rfl⟩
  have mode : k.seq.mode = (s.core p).seq.mode := by rw [touched]
  have kind : u.collNorm w = s.collNorm w := by rw [State.collNorm, State.collNorm, asked.2]
  refine ⟨u, touched.trans asked.1, ?_⟩
  simp only [exec, execDispatch, State.onCore_answers _ ha, running, if_false, State.dispatch, hd, ht, hf, hk, hu, mode, kind, hc]
  rfl

theorem queuesOf_nodup (w : CWord) : (queuesOf w).Nodup := by
  unfold queuesOf
  split
  · split
    · decide
    · split <;> exact List.nodup_singleton _
  · exact List.nodup_singleton _

/-- A word put at the end of a control queue, whose engine stays awake for it (R106, R136). -/
def Core.enqueue (e : Cqe) (c : Core) (q : Nat) : Core := (c.setWords q (c.words q ++ [e])).wakeEngine q

theorem Core.wakeEngine_only (c : Core) (q : Nat) :
    c.wakeEngine q = { c with engA := (c.wakeEngine q).engA, engB := (c.wakeEngine q).engB } := by
  unfold Core.wakeEngine
  split
  · unfold Core.setEng
    simp only
    split <;> rfl
  · rfl

@[simp] theorem Core.seq_enqueue (e : Cqe) (c : Core) (q : Nat) : (c.enqueue e q).seq = c.seq := by
  rw [Core.enqueue, Core.wakeEngine_only]
  rfl

@[simp] theorem Core.words_enqueue_self (e : Cqe) (c : Core) (q : Nat) : (c.enqueue e q).words q = c.words q ++ [e] := by
  rw [Core.enqueue, Core.wakeEngine_only]
  exact c.words_setWords_self q _

theorem Core.words_enqueue_ne (e : Cqe) (c : Core) {q r : Nat} (h : q ≠ r) : (c.enqueue e q).words r = c.words r := by
  rw [Core.enqueue, Core.wakeEngine_only]
  exact c.words_setWords_ne _ h

/-- A fence word goes to both lanes of the drain, any other word to one queue. -/
theorem Core.words_enqueue_all (e : Cqe) {qs : List Nat} (hn : qs.Nodup) (c : Core) (q : Nat) :
    (qs.foldl (Core.enqueue e) c).words q = if q ∈ qs then c.words q ++ [e] else c.words q := by
  induction qs generalizing c with
  | nil => rfl
  | cons r t ih =>
    obtain ⟨hr, ht⟩ := List.nodup_cons.1 hn
    rw [List.foldl_cons, ih ht]
    by_cases same : r = q
    · subst same
      simp [hr]
    · simp [Core.words_enqueue_ne e c same, Ne.symm same]

theorem Core.seq_enqueue_all (e : Cqe) (qs : List Nat) (c : Core) : (qs.foldl (Core.enqueue e) c).seq = c.seq :=
  foldl_keeps (fun c : Core => c.seq) _ (fun c q => Core.seq_enqueue e c q) qs c

theorem Core.dispatchWord_seq {w : CWord} (c : Core) (p : Nat) (s : State) (h : wUnit w = 0) :
    c.dispatchWord w p s = s.setCore p (c.modSeq fun q => { q with cur := some { word := w, pc := q.pc } }) := by
  simp only [Core.dispatchWord, h, if_true]

/-- The core after the dispatch of a word of a unit, with the loop index recorded (R136, R186). -/
def Core.dispatched (c : Core) (w : CWord) (il : Nat) : Core :=
  ((((queuesOf w).foldl (Core.enqueue { word := w, seqno := c.seq.seqno, pc := c.seq.pc, ilev := il }) c).modSeq fun q =>
    { q with seqno := (q.seqno + 1) % 65536, live := q.live ++ [q.seqno] }).bump cDispatched 1).advance (wWidth w)

theorem Core.dispatchWord_unit {c : Core} {w : CWord} {il : Nat} (p : Nat) (s : State) (h : wUnit w ≠ 0)
    (hr : ∀ q ∈ queuesOf w, c.occ q + wWidth w ≤ cqDepth q)
    (hi : (ilevOf w < 4 ∧ il = 0) ∨ (4 ≤ ilevOf w ∧ ∃ l, c.seq.loops[ilevOf w - 4]? = some l ∧ il = l.idx)) :
    c.dispatchWord w p s = s.setCore p (c.dispatched w il) := by
  have room : ((queuesOf w).any fun q => decide (cqDepth q < c.occ q + wWidth w)) = false := by
    simpa using hr
  obtain ⟨few, rfl⟩ | ⟨many, l, loop, rfl⟩ := hi
  · simp only [Core.dispatchWord, h, room, Nat.not_le.2 few]
    rfl
  · simp only [Core.dispatchWord, h, room, many, loop]
    rfl

theorem Core.words_dispatched (c : Core) (w : CWord) (il q : Nat) :
    (c.dispatched w il).words q
      = if q ∈ queuesOf w then c.words q ++ [{ word := w, seqno := c.seq.seqno, pc := c.seq.pc, ilev := il }] else c.words q :=
  Core.words_enqueue_all _ (queuesOf_nodup w) c q

theorem Core.seqno_dispatched (c : Core) (w : CWord) (il : Nat) : (c.dispatched w il).seq.seqno = (c.seq.seqno + 1) % 65536 :=
  congrArg (fun q : Sequencer => (q.seqno + 1) % 65536) (Core.seq_enqueue_all _ _ c)

theorem Core.pc_dispatched (c : Core) (w : CWord) (il : Nat) :
    (c.dispatched w il).seq.pc = (loopNext c.seq.loops.reverse c.seq.pc (wWidth w)).2 % 2 ^ 48 := by
  have kept := Core.seq_enqueue_all { word := w, seqno := c.seq.seqno, pc := c.seq.pc, ilev := il } (queuesOf w) c
  have next := congrArg (fun q : Sequencer => (loopNext q.loops.reverse q.pc (wWidth w)).2 % 2 ^ 48) kept
  exact next

/-! ### Fetching (R138) -/

/-- A line that has come is in the buffer (R138). -/
theorem Core.fetchLine_fillLine (c : Core) (x : FetchLine) : (c.fillLine x).fetchLine x.line = some x := by
  have others : ∀ l : List FetchLine, (∀ y ∈ l, y.line ≠ x.line) → (l ++ [x]).find? (fun y => y.line = x.line) = some x := by
    intro l hl
    rw [List.find?_append, List.find?_eq_none.2 (by simpa using hl)]
    simp
  refine others _ fun y hy => ?_
  have kept : y ∈ c.seq.fetch.filter fun y => y.line ≠ x.line := by
    split at hy
    · exact List.mem_of_mem_drop hy
    · exact hy
  simpa using (List.mem_filter.1 kept).2

theorem exec_fetchFill_granted {s s1 : State} {c p line o ofs : Nat} {f : FetchFill} (ha : s.Answers c p)
    (hf : (s.core p).seq.fills.find? (fun f => f.line = line) = some f) (h0 : f.segs = 0)
    (h1 : s1 = s.modCore p fun k => k.modSeq fun q => { q with fills := q.fills.filter fun g => g.line ≠ line })
    (hc : s1.checkAddr (.core c) false true (line * 512) 512 = .ok (o, ofs)) (hp : ∀ b ∈ (s1.coreRead p o ofs 512).1, b.2 = false) :
    exec (.fetchFill c line) s = .next ((s1.coreRead p o ofs 512).2.modCore p fun k =>
      k.fillLine { line := line, bytes := (s1.coreRead p o ofs 512).1.map Prod.fst, poison := false }).rstBegin := by
  have clean : (s1.coreRead p o ofs 512).1.any Prod.snd = false := by
    rw [List.any_eq_false]
    intro b hb
    rw [hp b hb]
    exact Bool.false_ne_true
  subst h1
  simp only [State.modCore] at hc clean ⊢
  simp only [exec, execFetchFill, State.onCore_answers _ ha, hf, h0, hc, clean]
  rfl

theorem State.LookOnly.seq {s t : State} (h : s.LookOnly t) (p : Nat) : (t.core p).seq = (s.core p).seq := by
  rw [h.2 p]

/-! ### Start and completion of a word (R141, R148, R150) -/

theorem exec_wordStart_go {s s' : State} {c p q i : Nat} {e e' : Cqe} {k : Core} (ha : s.Answers c p) (hr : (s.core p).active = true)
    (hp : (s.core p).preOk = true) (hn : (s.core p).nextAt q = some (i, e)) (hw : (s.core p).wordWait q e = .ready k)
    (ht : (s.core p).tokHeads e = .ok) (hg : s.unitStart p q e = .go s' e') :
    exec (.wordStart c q) s = .next (s'.modCore p fun c =>
      ({ c with seq := { c.seq with bars := k.seq.bars } } : Core).setWord q i { e' with started := true }).rstBegin := by
  have running := (Core.not_stopped_of_active hr).1
  simp only [exec, execWordStart, State.onCore_answers _ ha, running, if_false, State.wordStart, hr, hp, hn, hw, ht, hg]
  rfl

/-- The core without the head word of a queue, which has completed (R141). -/
def Core.retired (c : Core) (q n : Nat) : Core := (c.popWord q n).modSeq fun x => { x with live := x.live.erase n }

theorem Core.cq_retired {c : Core} {q : Nat} {e : Cqe} {l : List Cqe} (h : c.words q = e :: l) :
    c.retired q e.seqno = { c with cq := aset c.cq q l, seq := { c.seq with live := c.seq.live.erase e.seqno } } := by
  simp [Core.retired, Core.popWord, h, Core.setWords, Core.modSeq]

theorem Core.completeFlags_only (c : Core) (e : Cqe) :
    c.completeFlags e = { c with seq := { c.seq with flags := (c.completeFlags e).seq.flags } } := by
  unfold Core.completeFlags
  split
  · rfl
  · rfl
  · rfl
  · simp only
    split <;> rfl
  · rfl

/-- The state after the completion of word e, at the head of queue q (R141, R150, R163). -/
def State.completed (s : State) (p q : Nat) (e : Cqe) : State :=
  ((((s.modCore p fun c => c.retired q e.seqno).unitComplete p q e).modCore p fun c => c.completeFlags e).wordSignal p e.word
    (e.haltRec (unitOf q) 0 0)).modCore p Core.settleStop

theorem exec_wordComplete_done {s : State} {c p q : Nat} {e : Cqe} {l : List Cqe} (ha : s.Answers c p) (hr : (s.core p).working = true)
    (hq : (s.core p).words q = e :: l) (hf : e.fin = true) (hn : isFence e.word = false) :
    exec (.wordComplete c q) s = .next (s.completed p q e).rstBegin := by
  simp only [exec, execWordComplete, State.onCore_answers _ ha, hr, hq, hf, hn]
  rfl

/-- The word leaves its queue and the words not completed; handles, flags, its signal and a STOP that ends leave the control queues. -/
theorem State.core_completed {s : State} {p q : Nat} {e : Cqe} {l : List Cqe} (h : (s.core p).words q = e :: l) :
    ((s.completed p q e).core p).cq = aset (s.core p).cq q l
      ∧ ((s.completed p q e).core p).seq.live = (s.core p).seq.live.erase e.seqno := by
  let u := s.modCore p fun c => c.retired q e.seqno
  have retired : u.core p = (s.core p).retired q e.seqno := State.core_modCore_self _ _ _
  rw [Core.cq_retired h] at retired
  have handles := State.handleOnly_unitComplete u p q p e
  let v := (u.unitComplete p q e).modCore p fun c => c.completeFlags e
  have flags : v.core p = ((u.unitComplete p q e).core p).completeFlags e := State.core_modCore_self _ _ _
  rw [Core.completeFlags_only] at flags
  obtain ⟨b, signal⟩ := State.wordSignal_core v p p e.word (e.haltRec (unitOf q) 0 0)
  have settled : (s.completed p q e).core p = ((v.wordSignal p e.word (e.haltRec (unitOf q) 0 0)).core p).settleStop :=
    State.core_modCore_self _ _ _
  have stop := signal.trans (Core.stopOnly_settleStop _)
  rw [settled, stop.cq, stop.seq_live, flags]
  exact ⟨handles.cq.trans (by rw [retired]), (congrArg (·.live) handles.seq).trans (by rw [retired])⟩
/-- Settles O5, a command at a time. -/
theorem wordsIssue : Obligations.WordsIssue := by
  refine ⟨?seqWord, ?unitWord, ?fill, ?start, ?complete⟩
  case seqWord =>
    rintro s c p w _ ha hd ht hf hc rfl hu
    obtain ⟨u, fetched, run⟩ := exec_dispatch_word ha hd ht hf hc
    refine ⟨_, run, ?_⟩
    rw [Core.dispatchWord_seq _ _ _ hu, State.core_rstBegin, State.core_setCore_self, fetched]
    exact ⟨rfl, rfl, rfl⟩
  case unitWord =>
    rintro s c p il w _ ha hd ht hf hc rfl hu hr hi
    obtain ⟨u, fetched, run⟩ := exec_dispatch_word ha hd ht hf hc
    have words (q : Nat) : (u.core p).words q = (s.core p).words q := by
      rw [fetched]
      rfl
    have seq : (u.core p).seq.seqno = (s.core p).seq.seqno ∧ (u.core p).seq.pc = (s.core p).seq.pc
        ∧ (u.core p).seq.loops = (s.core p).seq.loops := by
      rw [fetched]
      exact ⟨rfl, rfl, rfl⟩
    obtain ⟨seqno, pc, loops⟩ := seq
    have room : ∀ q ∈ queuesOf (CWord.seen w), (u.core p).occ q + wWidth (CWord.seen w) ≤ cqDepth q := by
      intro q hq
      rw [Core.occ, words]
      exact hr q hq
    rw [Core.dispatchWord_unit p u hu room (by rwa [loops])] at run
    refine ⟨_, run, ?_⟩
    rw [State.core_rstBegin, State.core_setCore_self, Core.seqno_dispatched, Core.pc_dispatched, seqno, pc, loops]
    refine ⟨fun q hq => ?_, fun q hq => ?_, rfl, rfl⟩
    · rw [Core.words_dispatched, if_pos hq, words, seqno, pc]
    · rw [Core.words_dispatched, if_neg hq, words]
  case fill =>
    rintro s s1 c p line o ofs f ha hf h0 h1 hc hp
    refine ⟨_, exec_fetchFill_granted ha hf h0 h1 hc hp, ?_⟩
    rw [State.core_rstBegin, State.core_modCore_self]
    refine ⟨Core.fetchLine_fillLine _ { line := line, bytes := _, poison := false }, fun g hg => ?_⟩
    have listed : g ∈ ((s1.coreRead p o ofs 512).2.core p).seq.fills := hg
    rw [(State.lookOnly_coreRead s1 p o ofs 512).seq, h1, State.core_modCore_self] at listed
    simpa using (List.mem_filter.1 listed).2
  case start =>
    intro s s' c p q i e e' k ha hr hp hn hw ht hg
    refine ⟨_, exec_wordStart_go ha hr hp hn hw ht hg, ?_⟩
    rw [State.core_rstBegin, State.core_modCore_self]
    exact ⟨Core.words_setWords_self _ _ _, rfl⟩
  case complete =>
    intro s c p q e l ha hr hq hf hn
    obtain ⟨queues, live⟩ := State.core_completed (p := p) hq
    refine ⟨_, exec_wordComplete_done ha hr hq hf hn, ?_⟩
    rw [State.core_rstBegin, Core.words, queues]
    refine ⟨aget_aset_self _ _ _ _, live, fun r h => ?_⟩
    rw [Core.words, queues]
    exact aget_aset_ne _ _ _ h.symm

end Sys2Proof.Machine
end

section
/-! Proofs of the statements of the core programs (05): the words of the vector unit (R163, R195, R196, R496). -/

namespace Sys2Proof.Machine

/-! ### Popping groups (R143, R146) -/

theorem Core.popAll_keeps_words {c k : Core} {ins : List (Nat × Nat)} {g : List (List DqEnt)} (h : c.popAll ins = some (k, g)) :
    k.cq = c.cq := by
  induction ins generalizing c k g with
  | nil =>
    obtain ⟨rfl, -⟩ := Prod.mk.inj (Option.some.inj h)
    rfl
  | cons x t ih =>
    unfold Core.popAll at h
    split at h
    · cases h
    · split at h
      · cases h
      · next rest =>
        obtain ⟨rfl, -⟩ := Prod.mk.inj (Option.some.inj h)
        exact (ih rest :)

/-- With room, entries in every queue and none of them poisoned, a vector word goes on with what it popped. -/
theorem State.vecPop_clean {s : State} {p : Nat} {ins outs : List (Nat × Nat)} {k : Core} {g : List (List DqEnt)} (e : Cqe)
    (f : Core → List (List DqEnt) → State) (hr : (s.core p).roomAll outs = true) (hk : (s.core p).popAll ins = some (k, g))
    (hp : ∀ l ∈ g, ∀ x ∈ l, x.poison = false) : s.vecPop p e ins outs f = f k g := by
  have clean : (ins.zip g).find? (fun x => x.2.any DqEnt.poison) = none := by
    rw [List.find?_eq_none]
    intro x hx
    have good := hp x.2 (List.of_mem_zip hx).2
    simpa using good
  simp only [State.vecPop, hr, hk, clean]
  rfl

/-! ### The end of a quantum -/

/-- A command that leaves core p as `k` and the word as `f`, where `k` has kept the control queues. -/
theorem State.vecWord_ends {s : State} {c p op i : Nat} {e f : Cqe} {k : Core} {cmd : Instr} (h : s.CurAt c p 6 op i e)
    (run : exec cmd s = .next ((s.setCore p k).putWord p 6 i f).rstBegin) (hq : k.cq = (s.core p).cq) :
    ∃ t, exec cmd s = .next t ∧ (t.core p).dq = k.dq ∧ ((t.core p).words 6)[i]? = some f ∧ t.t0 = s.t0 ∧ t.slice = s.slice
      ∧ t.tier = s.tier := by
  have lt : i < (((s.setCore p k).core p).words 6).length := by
    rw [State.core_setCore_self, Core.words, hq]
    exact h.lt
  refine ⟨_, run, ?_, ?_, State.rstBegin_t0 _, State.rstBegin_slice _, State.rstBegin_tier _⟩
  · rw [State.core_rstBegin, State.core_putWord_self, State.core_setCore_self]
    rfl
  · rw [State.core_rstBegin, State.getElem?_putWord_self f lt]

/-- A quantum of a word of `n + 1` quanta. -/
theorem State.tick_succ (s : State) (p q i : Nat) (e : Cqe) (n : Nat) :
    s.tick p q i e (n + 1) = s.putWord p q i { e with n := e.n + 1, fin := decide (n ≤ e.n) } := by
  rw [State.tick, decide_eq_decide.2 Nat.succ_le_succ_iff]

section Rows

variable {s : State} {p i : Nat} {e : Cqe} {ins : List (Nat × Nat)} {k : Core} {g : List (List DqEnt)}

/-- A row's groups are gathered until all of them are there. -/
theorem State.rowOp_gathers (res : List W32 → List W32) (h : e.n ≤ wRep e.word) (hk : (s.core p).popAll ins = some (k, g))
    (hp : ∀ l ∈ g, ∀ x ∈ l, x.poison = false) :
    s.rowOp p i (s.core p) e ins res = (s.setCore p k).putWord p 6 i
      { e with n := e.n + 1, vals := e.vals ++ g.flatMap fun l => (preRow (vFmtI e.word) l).map BitVec.toNat } := by
  rw [State.rowOp, if_pos (Nat.lt_succ_of_le h), State.vecPop_clean e _ rfl hk hp]

/-- A gathered row pushes the groups of its result. -/
theorem State.rowOp_pushes (res : List W32 → List W32) (h : wRep e.word < e.n) (hr : (s.core p).roomAll (vecOut e.word) = true) :
    s.rowOp p i (s.core p) e ins res = (s.setCore p ((s.core p).vecPush (wOut e.word) e ((List.range 64).map fun j =>
      (res (e.vals.map (BitVec.ofNat 32))).getD (64 * (e.n - (wRep e.word + 1)) + j) 0))).tick p 6 i e (2 * (wRep e.word + 1)) := by
  rw [State.rowOp, if_neg (by omega), if_neg (by simp [hr])]

end Rows

/-! ### The words -/

/-- The operands of a VEC.EW: two or three with b and c (R196). -/
def ewIns (w : CWord) : List (Nat × Nat) :=
  [(wIna w, groupEnts (vFmtI w))] ++ (if ewUsesB (vFn w) then [(wInb w, groupEnts (vFmtI w))] else [])
    ++ (if vIncEn w then [(vInc w, groupEnts (vFmtI w))] else [])

/-- The 64 results of a VEC.EW on its groups, with +0 for an operand that it does not take (R196; log 167). -/
def ewRow (w : CWord) (g : List (List DqEnt)) : List W32 :=
  (List.range 64).map fun j => ewOp (vFn w) (vImm w) ((preRow (vFmtI w) (g.getD 0 [])).getD j 0)
    ((if ewUsesB (vFn w) then preRow (vFmtI w) (g.getD 1 []) else []).getD j 0)
    ((if vIncEn w then preRow (vFmtI w) (g.getD (if ewUsesB (vFn w) then 2 else 1) []) else []).getD j 0)

/-- The reduction with one more group (R196; log 41). -/
def redNext (e : Cqe) (g : List (List DqEnt)) : W32 :=
  redGroup (wbits e.word 64 2) (wbit e.word 71) (if e.n = 0 then none else some (BitVec.ofNat 32 (e.vals.getD 0 0)))
    (preRow (vFmtI e.word) (g.getD 0 []))

/-- The function of a VEC.NORM on the row gathered, whose groups of two or three operands come in turns (R196). -/
def normRow (w : CWord) (l : List W32) : List W32 :=
  Config.norm (decide (vFn w = 1)) (strided (if vIncEn w then 3 else 2) 0 l) (strided (if vIncEn w then 3 else 2) 1 l)
    (if vIncEn w then strided (if vIncEn w then 3 else 2) 2 l else []) (vImm w)

section VectorWords

variable {s : State} {c p i : Nat} {e : Cqe} {k : Core} {g : List (List DqEnt)}

theorem exec_vecEw_clean (h : s.CurAt c p 6 1 i e) (hr : (s.core p).roomAll (vecOut e.word) = true)
    (hk : (s.core p).popAll (ewIns e.word) = some (k, g)) (hp : ∀ l ∈ g, ∀ x ∈ l, x.poison = false) :
    exec (.vecEw c) s = .next ((s.setCore p (k.vecPush (wOut e.word) e (ewRow e.word g))).putWord p 6 i
      { e with n := e.n + 1, fin := decide (wRep e.word ≤ e.n) }).rstBegin := by
  unfold ewIns at hk
  simp only [exec, execVecEw, State.onCur_ready h, State.vecPop_clean e _ hr hk hp, State.tick_succ]
  rfl

theorem exec_vecRed_clean (h : s.CurAt c p 6 2 i e) (hr : e.n = wRep e.word → (s.core p).roomAll (vecOut e.word) = true)
    (hk : (s.core p).popAll [(wIna e.word, groupEnts (vFmtI e.word))] = some (k, g)) (hp : ∀ l ∈ g, ∀ x ∈ l, x.poison = false) :
    exec (.vecRed c) s = .next ((s.setCore p (if e.n = wRep e.word
      then k.vecPush (wOut e.word) e (redNext e g :: List.replicate 63 0) else k)).putWord p 6 i
      { e with n := e.n + 1, vals := [(redNext e g).toNat], fin := decide (wRep e.word ≤ e.n) }).rstBegin := by
  have room : (s.core p).roomAll (if e.n = wRep e.word then vecOut e.word else []) = true := by
    split
    · exact hr ‹_›
    · rfl
  simp only [exec, execVecRed, State.onCur_ready h, State.vecPop_clean e _ room hk hp, State.tick_succ]
  rfl

theorem exec_vecCmpred_clean (h : s.CurAt c p 6 3 i e) (hk : (s.core p).popAll [(wIna e.word, groupEnts (vFmtI e.word))] = some (k, g))
    (hp : ∀ l ∈ g, ∀ x ∈ l, x.poison = false) :
    exec (.vecCmpred c) s = .next ((s.setCore p k).putWord p 6 i { e with
      n := e.n + 1, fin := decide (wRep e.word ≤ e.n)
      vals := [if (preRow (vFmtI e.word) (g.getD 0 [])).any (fun x => cmpOp (vFn e.word) x (vImm e.word)) || e.vals.getD 0 0 = 1
        then 1 else 0] }).rstBegin := by
  simp only [exec, execVecCmpred, State.onCur_ready h, State.vecPop_clean (outs := []) e _ rfl hk hp, State.tick_succ]

theorem exec_vecSmax_cur (h : s.CurAt c p 6 4 i e) :
    exec (.vecSmax c) s = .next (s.rowOp p i (s.core p) e [(wIna e.word, groupEnts (vFmtI e.word))] Config.softmax).rstBegin :=
  congrArg _ (State.onCur_ready h _)

theorem exec_vecNorm_cur (h : s.CurAt c p 6 5 i e) :
    ∃ ins, exec (.vecNorm c) s = .next (s.rowOp p i (s.core p) e ins (normRow e.word)).rstBegin := by
  refine ⟨[(wIna e.word, groupEnts (vFmtI e.word)), (wInb e.word, groupEnts (vFmtI e.word))]
    ++ (if vIncEn e.word then [(vInc e.word, groupEnts (vFmtI e.word))] else []), ?_⟩
  simp only [exec, execVecNorm]
  rw [State.onCur_ready h]
  have turns : ([(wIna e.word, groupEnts (vFmtI e.word)), (wInb e.word, groupEnts (vFmtI e.word))]
      ++ (if vIncEn e.word then [(vInc e.word, groupEnts (vFmtI e.word))] else [])).length = if vIncEn e.word then 3 else 2 := by
    split <;> rfl
  simp only [turns]
  rfl

end VectorWords

/-- Settles O15, a word at a time. -/
theorem vectorWordsCompute : Obligations.VectorWordsCompute := by
  refine ⟨?ew, ?red, ?cmpred, ?gather, ?smax, ?norm⟩
  case ew =>
    rintro s c p i n e _ ins k g _ h rfl rfl rfl hr hk hp rfl
    obtain ⟨t, run, dq, word, mem⟩ := State.vecWord_ends h (exec_vecEw_clean h hr hk hp) (Core.popAll_keeps_words hk :)
    exact ⟨t, run, dq, word, mem⟩
  case red =>
    rintro s c p i e _ k g _ h rfl hr hk hp rfl
    have kept : (if e.n = wRep e.word then k.vecPush (wOut e.word) e (redNext e g :: List.replicate 63 0) else k).cq = (s.core p).cq := by
      split <;> exact (Core.popAll_keeps_words hk :)
    obtain ⟨t, run, dq, word, -⟩ := State.vecWord_ends h (exec_vecRed_clean h hr hk hp) kept
    exact ⟨t, run, word, dq.trans (apply_ite (fun c : Core => c.dq) _ _ _)⟩
  case cmpred =>
    rintro s c p i e _ k g h rfl hk hp
    obtain ⟨t, run, dq, word, -⟩ := State.vecWord_ends h (exec_vecCmpred_clean h hk hp) (Core.popAll_keeps_words hk)
    exact ⟨t, run, dq, word⟩
  case gather =>
    rintro s c p i e _ k g h rfl hn hk hp
    have run := exec_vecSmax_cur h
    rw [State.rowOp_gathers _ hn hk hp] at run
    obtain ⟨t, run, dq, word, -⟩ := State.vecWord_ends h run (Core.popAll_keeps_words hk)
    exact ⟨t, run, dq, word⟩
  case smax =>
    rintro s c p i e _ _ h rfl hn hr rfl
    have run := exec_vecSmax_cur h
    rw [State.rowOp_pushes _ hn hr] at run
    obtain ⟨t, run, dq, word, -⟩ := State.vecWord_ends h run rfl
    exact ⟨t, run, dq, word⟩
  case norm =>
    rintro s c p i _ e _ _ h rfl hn hr rfl rfl
    obtain ⟨ins, run⟩ := exec_vecNorm_cur h
    rw [State.rowOp_pushes _ hn hr] at run
    obtain ⟨t, run, dq, word, -⟩ := State.vecWord_ends h run rfl
    exact ⟨t, run, dq, word⟩

end Sys2Proof.Machine
end

section
/-! Proofs of the statements of the core programs (05): the commands of a ring that act on cores (R176, R177, R394 to R397, R436). -/

namespace Sys2Proof.Machine

/-! ### What a completion leaves, and what it sends (R394, R397) -/

/-- Two states have the same cores, and everything that was sent out stays sent out. -/
def State.SendsOn (s t : State) : Prop := t.cores = s.cores ∧ s.out ⊆ t.out

theorem State.SendsOn.refl (s : State) : s.SendsOn s := ⟨rfl, List.Subset.refl _⟩

theorem State.SendsOn.trans {s t u : State} (h : s.SendsOn t) (k : t.SendsOn u) : s.SendsOn u :=
  ⟨k.1.trans h.1, List.Subset.trans h.2 k.2⟩

theorem State.sendsOn_emit (s : State) (e : OutEvent) : s.SendsOn (s.emit e) := ⟨rfl, List.subset_append_left _ _⟩
theorem State.sendsOn_setIrq (s : State) (i : Nat) (x : IrqSrc) : s.SendsOn (s.setIrq i x) := .refl s
theorem State.sendsOn_setRing (s : State) (r : Nat) (x : Ring) : s.SendsOn (s.setRing r x) := .refl s

theorem State.sendsOn_msix (s : State) (v : Nat) : s.SendsOn (s.msix v) := by
  unfold State.msix
  split
  · exact .refl s
  · exact State.sendsOn_emit _ _

theorem State.sendsOn_irqDeliver (s : State) : s.SendsOn s.irqDeliver := by
  unfold State.irqDeliver
  refine foldl_inv (fun t : State => s.SendsOn t) _ ?_ _ _ (.refl s)
  intro t c h
  refine h.trans ?_
  split
  · exact .refl t
  · split
    · exact .refl t
    · exact State.sendsOn_emit { t with deliv := _ } _

theorem State.sendsOn_irqPend (s : State) (i : Nat) : s.SendsOn (s.irqPend i) := by
  unfold State.irqPend
  refine State.SendsOn.trans ?_ (State.sendsOn_irqDeliver _)
  simp only
  split
  · exact (State.sendsOn_setIrq s i _).trans (State.sendsOn_msix _ _)
  · exact State.sendsOn_setIrq s i _

theorem State.sendsOn_irqEvent (s : State) (i : Nat) : s.SendsOn (s.irqEvent i) := by
  unfold State.irqEvent
  simp only
  split
  · exact State.sendsOn_setIrq s i _
  · split
    · exact State.sendsOn_setIrq s i _
    · exact (State.sendsOn_setIrq s i _).trans (State.sendsOn_irqPend _ i)

theorem State.sendsOn_level (s : State) (i : Nat) (b : Bool) : s.SendsOn (s.level i b) := by
  unfold State.level
  simp only
  split
  · exact .refl s
  · refine (State.sendsOn_setIrq s i { s.irqSrc i with raw := b }).trans ?_
    split
    · exact .refl _
    · split
      · exact State.sendsOn_irqEvent _ i
      · exact (State.sendsOn_setIrq _ i _).trans (State.sendsOn_irqDeliver _)
      · split
        · exact State.sendsOn_irqEvent _ i
        · exact .refl _

/-- Writing a completion entry sends it, and the vector of the ring where it is enabled. -/
theorem State.sendsOn_cqWrite (s : State) (r : Nat) (e : List Byte) (noirq : Bool) :
    s.SendsOn (s.cqWrite r e noirq)
      ∧ OutEvent.hostWrite (s.cqBase r + 16 * (s.ring r).cqTail) (e.set 7 (if (s.ring r).phase then 1 else 0)) ∈ (s.cqWrite r e noirq).out := by
  unfold State.cqWrite
  extract_lets x n a tail e' u v
  have sent : s.SendsOn v ∧ OutEvent.hostWrite a e' ∈ v.out :=
    ⟨(State.sendsOn_setRing s r _).trans (State.sendsOn_emit u _), by simp [v]⟩
  clear_value v
  split
  · exact ⟨sent.1.trans (State.sendsOn_msix _ _), (State.sendsOn_msix v _).2 sent.2⟩
  · exact sent

theorem State.sendsOn_cqPost (s : State) (r : Nat) (j : RingJob) (k : Compl) : s.SendsOn (s.cqPost r j k) := by
  unfold State.cqPost
  simp only
  split
  · exact (State.sendsOn_setRing s r _).trans (State.sendsOn_cqWrite _ _ _ _).1
  · exact (State.sendsOn_setRing s r _).trans (State.sendsOn_level _ _ _)

theorem State.sendsOn_ringSettle (s : State) (r n : Nat) : s.SendsOn (s.ringSettle r n) := by
  induction n generalizing s with
  | zero => exact .refl s
  | succ n ih =>
    unfold State.ringSettle
    split
    · split
      · exact .refl s
      · exact (State.sendsOn_cqPost _ _ _ _).trans (ih _)
    · exact .refl s

@[simp] theorem State.ring_setRing_self (s : State) (r : Nat) (x : Ring) : (s.setRing r x).ring r = x := aget_aset_self _ _ _ _

/-- The eighth byte of an entry is its phase already. -/
theorem Compl.entry_phase (k : Compl) (cid head : Nat) (phase : Bool) :
    (k.entry cid head phase).set 7 (if phase then 1 else 0) = k.entry cid head phase := rfl

/-- With room in the completion queue a host ring's command completes with its entry. -/
theorem State.ringDone_completes {s : State} {r : Nat} {j : RingJob} (k : Compl) (hr : r < 17) (hc : (s.ring r).cqUsed < s.cqSize r) :
    s.SendsOn (s.ringDone r j k) ∧ s.Completes (s.ringDone r j k) r j.cmd k := by
  rw [State.ringDone, if_pos (by omega), State.hostDone]
  have settled := State.sendsOn_ringSettle (s.cqPost r j k) r 1024
  refine ⟨(State.sendsOn_cqPost s r j k).trans settled, settled.2 ?_⟩
  rw [State.cqPost]
  simp only [hc, if_true]
  have written := (State.sendsOn_cqWrite (s.setRing r { s.ring r with sqHead := ((s.ring r).sqHead + 1) % s.sqSize r, job := none, relay := none })
    r (k.entry (cmdCid j.cmd) (((s.ring r).sqHead + 1) % s.sqSize r) (s.ring r).phase) (cmdNoirq j.cmd)).2
  rw [State.ring_setRing_self, Compl.entry_phase] at written
  exact written

/-- Two states have the same rings with the same registers: below 0x400000 no register differs. -/
def State.SameRings (s t : State) : Prop := t.rings = s.rings ∧ ∀ d o, o < 0x400000 → aget d t.regs o = aget d s.regs o

theorem State.SameRings.refl (s : State) : s.SameRings s := ⟨rfl, fun _ _ _ => rfl⟩

theorem State.SameRings.trans {s t u : State} (h : s.SameRings t) (k : t.SameRings u) : s.SameRings u :=
  ⟨k.1.trans h.1, fun d o ho => (k.2 d o ho).trans (h.2 d o ho)⟩

theorem State.sameRings_of_eq {s t : State} (h : t.rings = s.rings) (k : t.regs = s.regs) : s.SameRings t := ⟨h, fun _ _ _ => by rw [k]⟩

theorem State.IrqOnly.sameRings {s t : State} (h : s.IrqOnly t) : s.SameRings t := State.sameRings_of_eq h.rings h.regs

theorem State.SameRings.ring {s t : State} (h : s.SameRings t) (r : Nat) : t.ring r = s.ring r := by rw [State.ring, State.ring, h.1]

theorem State.SameRings.sizes {s t : State} (h : s.SameRings t) {r : Nat} (hr : r < 17) :
    t.sqSize r = s.sqSize r ∧ t.cqSize r = s.cqSize r ∧ t.cqBase r = s.cqBase r := by
  have cfg : t.ringCfg r = s.ringCfg r := by rw [State.ringCfg, State.ringCfg, h.2 _ _ (by omega)]
  refine ⟨by rw [State.sqSize, State.sqSize, cfg], by rw [State.cqSize, State.cqSize, cfg], ?_⟩
  rw [State.cqBase, State.cqBase, h.2 _ _ (by omega), h.2 _ _ (by omega)]

/-- A command's effect that leaves the rings completes the command on the ring that it found. -/
theorem State.SameRings.completes {s t : State} {r : Nat} {c : BitVec 512} (h : s.SameRings t) (hr : r < 17)
    (hc : (s.ring r).cqUsed < s.cqSize r) (j : RingJob) (hj : j.cmd = c) :
    t.SendsOn (t.ringDone r j {}) ∧ s.Completes (t.ringDone r j {}) r c {} := by
  obtain ⟨sq, cq, base⟩ := h.sizes hr
  have room : (t.ring r).cqUsed < t.cqSize r := by rwa [h.ring, cq]
  obtain ⟨sent, done⟩ := State.ringDone_completes (j := j) {} hr room
  refine ⟨sent, ?_⟩
  rwa [State.Completes, h.ring, sq, base, hj] at done

theorem State.SendsOn.core {s t : State} (h : s.SendsOn t) (p : Nat) : t.core p = s.core p := State.core_congr h.1 p

/-! ### How a command of a ring runs (R394, R395) -/

theorem State.HostCmd.runs {s : State} {r opc : Nat} {c : BitVec 512} (h : s.HostCmd r opc c) (payload : List Byte)
    (eff : State → Nat → RingJob → Ans) : s.onRing r opc payload eff = s.runHere r { cmd := c } eff := by
  obtain ⟨hp, -, hh, ho, hw, hc, hr, -⟩ := h
  simp [State.onRing, hh, hp, ho, hw, hc, hr]

theorem State.Running.runs {s : State} {r opc : Nat} {c : BitVec 512} (h : s.Running r opc c) (payload : List Byte)
    (eff : State → Nat → RingJob → Ans) : s.onRing r opc payload eff = s.runHere r { cmd := c, started := true } eff := by
  obtain ⟨hp, -, hh, ho, hr, ht, -⟩ := h
  simp [State.onRing, hh, hp, ho, hr, ht]

theorem State.runHere_done {s t : State} {r : Nat} {j : RingJob} {k : Compl} {eff : State → Nat → RingJob → Ans} (h : eff s r j = .done t k) :
    s.runHere r j eff = t.ringDone r j k := by
  rw [State.runHere, h]

theorem State.runHere_wait {s t : State} {r : Nat} {j : RingJob} {eff : State → Nat → RingJob → Ans} (h : eff s r j = .wait t) :
    s.runHere r j eff = t := by
  rw [State.runHere, h]

/-- A command whose effect ends at once, and leaves the rings, completes with status OK. -/
theorem State.HostCmd.ends {s t : State} {r opc : Nat} {c : BitVec 512} (h : s.HostCmd r opc c) (payload : List Byte)
    {eff : State → Nat → RingJob → Ans} (he : eff s r { cmd := c } = ok t) (hs : s.SameRings t) :
    t.SendsOn (s.onRing r opc payload eff) ∧ s.Completes (s.onRing r opc payload eff) r c {} := by
  rw [h.runs, State.runHere_done he]
  obtain ⟨-, hr, -, -, -, -, -, hc⟩ := h
  exact hs.completes hr hc _ rfl

theorem State.Running.ends {s : State} {r opc : Nat} {c : BitVec 512} (h : s.Running r opc c) (payload : List Byte)
    {eff : State → Nat → RingJob → Ans} (he : eff s r { cmd := c, started := true } = ok s) :
    s.SendsOn (s.onRing r opc payload eff) ∧ s.Completes (s.onRing r opc payload eff) r c {} := by
  rw [h.runs, State.runHere_done he]
  obtain ⟨-, hr, -, -, -, -, hc⟩ := h
  exact (State.SameRings.refl s).completes hr hc _ rfl

/-- A command that has begun goes on. -/
theorem State.goesOn_ringBegin (s : State) {r : Nat} (c : BitVec 512) (hr : r < 17) : (s.ringBegin r { cmd := c }).GoesOn r c := by
  rw [State.GoesOn, State.ringBegin, if_neg (by omega), State.ring_setRing_self]

theorem State.HostCmd.goesOn {s t : State} {r opc : Nat} {c : BitVec 512} (h : s.HostCmd r opc c) (payload : List Byte)
    {eff : State → Nat → RingJob → Ans} (he : eff s r { cmd := c } = .wait (t.ringBegin r { cmd := c })) :
    (s.onRing r opc payload eff).GoesOn r c ∧ (s.onRing r opc payload eff).cores = t.cores ∧ (s.onRing r opc payload eff).out = t.out := by
  rw [h.runs, State.runHere_wait he]
  obtain ⟨-, hr, -⟩ := h
  exact ⟨State.goesOn_ringBegin t c hr, rfl, rfl⟩

/-! ### Commands that change each core of their set (R396, R397) -/

/-- What every step keeps, and the step at `a` makes true, holds after a fold over a list that names `a`. -/
theorem foldl_establishes {σ α : Type} (P : σ → Prop) (f : σ → α → σ) {a : α} {l : List α} (ha : a ∈ l) (keeps : ∀ s x, P s → P (f s x))
    (makes : ∀ s, P (f s a)) (s : σ) : P (l.foldl f s) := by
  obtain ⟨l₁, l₂, rfl⟩ := List.append_of_mem ha
  rw [List.foldl_append, List.foldl_cons]
  exact foldl_inv P f keeps l₂ _ (makes _)

theorem State.mem_setPhys {s : State} {c : BitVec 512} {n p : Nat} (hn : n ∈ cmdSet c) (hp : s.phys n = some p) : p ∈ s.setPhys c :=
  List.mem_filterMap.2 ⟨n, hn, hp⟩

theorem State.needState_all {s : State} {c : BitVec 512} {f : Core → Bool} (g : Ans)
    (h : ∀ n ∈ cmdSet c, ∃ p, s.phys n = some p ∧ f (s.core p) = true) : s.needState c f g = g := by
  have all : (cmdSet c).find? (fun l => (s.phys l).all fun p => !f (s.core p)) = none := by
    refine List.find?_eq_none.2 fun n hn => ?_
    obtain ⟨p, hp, hf⟩ := h n hn
    simp [hp, hf]
  rw [State.needState, all]

/-- A command that gives each core of its set the idempotent update `g`. -/
theorem State.core_eachCore {s : State} {c : BitVec 512} {f : State → Nat → State} {g : Core → Core} (hg : ∀ k, g (g k) = g k)
    (hf : ∀ s p q, (f s p).core q = if some p = some q then g (s.core q) else s.core q) {n p : Nat} (hn : n ∈ cmdSet c)
    (hp : s.phys n = some p) : (s.eachCore c f).core p = g (s.core p) := by
  rw [State.eachCore, State.core_foldl (I := fun _ => True) (place := some) hg (fun _ _ _ => trivial) (fun s x q _ => hf s x q) _ trivial,
    List.filterMap_some, if_pos (State.mem_setPhys hn hp)]

theorem State.core_modCore (s : State) (p : Nat) (g : Core → Core) (q : Nat) :
    (s.modCore p g).core q = if some p = some q then g (s.core q) else s.core q := by
  rw [← State.core_modCore_irqCore, State.core_irqCore]

theorem State.sameRings_eachCore {f : State → Nat → State} (h : ∀ (s : State) p, s.SameRings (f s p)) (s : State) (c : BitVec 512) :
    s.SameRings (s.eachCore c f) :=
  foldl_inv (fun t : State => s.SameRings t) f (fun t p ht => State.SameRings.trans ht (h t p)) _ s (.refl s)

theorem State.sameRings_modCore (s : State) (p : Nat) (g : Core → Core) : s.SameRings (s.modCore p g) := .refl s

theorem State.sameRings_modCore_irqCore (s : State) (p : Nat) (g : Core → Core) : s.SameRings ((s.modCore p g).irqCore p) :=
  (State.sameRings_modCore s p g).trans (State.irqOnly_irqCore _ p).sameRings

theorem State.RestartOnly.sameRings {s t : State} (h : s.RestartOnly t) : s.SameRings t := by
  rw [State.RestartOnly] at h
  exact State.sameRings_of_eq (by rw [h]) (by rw [h])

/-! #### START (R397) -/

def Core.started (k : Core) : Core := k.modSeq fun q => { q with state := .running, stopping := false }

theorem startCmd_stopped {s : State} (r : Nat) {j : RingJob} (hf : bitAt (cmdField j.cmd 20 1) 0 = false)
    (h : ∀ n ∈ cmdSet j.cmd, ∃ p, s.phys n = some p ∧ (s.core p).seq.state = .stopped) :
    startCmd s r j = ok (s.eachCore j.cmd fun s p => (s.modCore p Core.started).irqCore p) := by
  rw [startCmd, State.needState_all]
  · simp only [hf]
    rfl
  · simpa [hf] using h

theorem startCmd_restart {s : State} (r : Nat) {j : RingJob} (hf : bitAt (cmdField j.cmd 20 1) 0 = true)
    (h : ∀ n ∈ cmdSet j.cmd, ∃ p, s.phys n = some p ∧ (s.core p).parked = true ∧ (s.core p).inCommit = false) :
    startCmd s r j = ok (s.eachCore j.cmd State.restartCore) := by
  rw [startCmd, State.needState_all]
  · simp only [hf]
    rfl
  · simpa [hf] using h

/-- A core runs from the beginning of its program, with no word in its control queues. -/
def Core.AtStart (k : Core) : Prop := k.seq.state = .running ∧ k.seq.pc = k.seq.start ∧ k.cq = []

theorem State.core_restartCore_start (s : State) (p q : Nat) : ((s.restartCore p).core q).seq.start = (s.core q).seq.start := by
  by_cases h : p = q
  · subst h
    rw [State.core_restartCore_self]
    rfl
  · rw [State.core_restartCore_ne s h]

theorem State.atStart_restartCore (s : State) (p : Nat) : ((s.restartCore p).core p).AtStart := by
  rw [State.core_restartCore_self]
  exact ⟨rfl, rfl, rfl⟩

theorem State.AtStart.restartCore {s : State} {q : Nat} (h : (s.core q).AtStart) (p : Nat) : ((s.restartCore p).core q).AtStart := by
  by_cases hp : p = q
  · subst hp
    exact State.atStart_restartCore s p
  · rwa [State.core_restartCore_ne s hp]

/-- Every core of a RESTART's set begins its program again. -/
theorem State.atStart_eachCore {s : State} {c : BitVec 512} {n p : Nat} (hn : n ∈ cmdSet c) (hp : s.phys n = some p) :
    ((s.eachCore c State.restartCore).core p).AtStart ∧ ((s.eachCore c State.restartCore).core p).seq.start = (s.core p).seq.start :=
  ⟨foldl_establishes (fun t : State => (t.core p).AtStart) _ (State.mem_setPhys hn hp) (fun _ q h => State.AtStart.restartCore h q)
      (fun t => State.atStart_restartCore t p) s,
    foldl_keeps (fun t : State => (t.core p).seq.start) _ (fun t q => State.core_restartCore_start t q p) _ s⟩

/-! #### STOP (R174, R397) -/

/-- A core in which STOP has begun, before it ends: dispatch has stopped, and only a word already sent is in hand (R174). -/
def Core.stopped (k : Core) : Core := k.modSeq fun q => { q with stopping := true, cur := if q.cur.any SeqCur.sent then q.cur else none }

theorem Core.stopped_stopped (k : Core) : k.stopped.stopped = k.stopped := by
  simp only [Core.stopped, Core.modSeq]
  split <;> simp_all

theorem Core.stop_of_active {k : Core} (h : k.active = true) : k.stop = k.stopped.settleStop := if_pos h

theorem Core.stop_stop (k : Core) : k.stop.stop = k.stop := by
  cases h : k.active
  case false => rw [Core.stop_of_not_active h, Core.stop_of_not_active h]
  case true =>
    rw [Core.stop_of_active h, Core.settleStop]
    split
    next => rfl
    next open_ =>
      have active : k.stopped.active = true := h
      rw [Core.stop_of_active active, Core.stopped_stopped]
      exact if_neg open_

theorem State.setPhys_congr {s t : State} (h : t.phys = s.phys) (c : BitVec 512) : t.setPhys c = s.setPhys c := by
  rw [State.setPhys, State.setPhys, h]

/-- STOP of every core of a command's set. -/
def State.stopCores (s : State) (c : BitVec 512) : State := s.eachCore c fun s p => s.modCore p Core.stop

theorem State.core_stopCores {s : State} {c : BitVec 512} {n p : Nat} (hn : n ∈ cmdSet c) (hp : s.phys n = some p) :
    (s.stopCores c).core p = (s.core p).stop :=
  State.core_eachCore Core.stop_stop (fun s p q => State.core_modCore s p Core.stop q) hn hp

theorem State.setPhys_stopCores (s : State) (c : BitVec 512) : (s.stopCores c).setPhys c = s.setPhys c :=
  State.setPhys_congr (foldl_keeps State.phys (fun s p => State.modCore s p Core.stop) (fun _ _ => rfl) (s.setPhys c) s) c

theorem State.stopCmd_idle {s : State} (r : Nat) {c : BitVec 512}
    (h : ∀ n ∈ cmdSet c, ∀ p, s.phys n = some p → (s.core p).active = true → (s.core p).synced = true ∧ (s.core p).seq.cur = none) :
    stopCmd s r { cmd := c } = ok (s.stopCores c) := by
  refine if_pos ?_
  change ((s.stopCores c).setPhys c).all (fun p => !((s.stopCores c).core p).active) = true
  rw [State.setPhys_stopCores, List.all_eq_true]
  intro p hp
  obtain ⟨n, hn, hp⟩ := List.mem_filterMap.1 hp
  rw [State.core_stopCores hn hp]
  cases ha : (s.core p).active
  case false => rw [Core.stop_of_not_active ha, ha]; rfl
  case true =>
    obtain ⟨hs, hc⟩ := h n hn p hp ha
    rw [Core.active, Core.seq_stop_idle ha hs hc]
    rfl

theorem State.stopCmd_busy {s : State} (r : Nat) {n p : Nat} {c : BitVec 512} (hn : n ∈ cmdSet c) (hp : s.phys n = some p)
    (ha : (s.core p).active = true) (hs : (s.core p).synced = false) :
    stopCmd s r { cmd := c } = .wait ((s.stopCores c).ringBegin r { cmd := c }) := by
  refine if_neg ?_
  change ¬ ((s.stopCores c).setPhys c).all (fun p => !((s.stopCores c).core p).active) = true
  rw [State.setPhys_stopCores, List.all_eq_true]
  intro all
  have := all p (State.mem_setPhys hn hp)
  rw [State.core_stopCores hn hp, Core.active, Core.seq_stop_busy ha hs] at this
  simp [Core.state_of_active ha] at this

/-! #### PREEMPT and RESUME (R397, R436) -/

/-- A core that a PREEMPT without PROG has marked. -/
def Core.preempted (k : Core) : Core := { k with pre := { k.pre with host := true, prog := none } }

theorem preemptCmd_marks {s : State} (r : Nat) {c : BitVec 512} (h0 : cmdField c 24 6 = 0)
    (h : ∀ n ∈ cmdSet c, ∃ p, s.phys n = some p ∧ (s.core p).pre.phase = .none
      ∧ ((s.core p).seq.state = .running ∨ (s.core p).seq.state = .stopped ∨ (s.core p).seq.state = .done)) :
    preemptCmd s r { cmd := c } = .wait ((s.eachCore c fun s p => s.modCore p Core.preempted).ringBegin r { cmd := c }) := by
  simp only [preemptCmd, h0]
  rw [if_pos Bool.not_false, if_neg (by simp), State.needState_all]
  · rfl
  · intro n hn
    obtain ⟨p, hp, none, state⟩ := h n hn
    exact ⟨p, hp, by simpa [Core.unsaved, none, or_assoc] using state⟩

theorem preemptCmd_saved {s : State} (r : Nat) {c : BitVec 512} (h : ∀ n ∈ cmdSet c, ∃ p, s.phys n = some p ∧ (s.core p).pre.phase = .saved) :
    preemptCmd s r { cmd := c, started := true } = ok s := by
  have none : (cmdSet c).find? (fun l => (s.phys l).all fun p => (s.core p).unsaved && !(s.core p).pre.host) = none := by
    refine List.find?_eq_none.2 fun n hn => ?_
    obtain ⟨p, hp, saved⟩ := h n hn
    simp [hp, Core.unsaved, saved]
  have all : (s.setPhys c).all (fun p => (s.core p).pre.phase = .saved) = true := by
    refine List.all_eq_true.2 fun p hp => ?_
    obtain ⟨n, hn, hp⟩ := List.mem_filterMap.1 hp
    obtain ⟨q, hq, saved⟩ := h n hn
    obtain rfl : q = p := Option.some.inj (hq.symm.trans hp)
    exact decide_eq_true saved
  simp [preemptCmd, none, all]

theorem resumeCmd_begins {s : State} (r : Nat) {c : BitVec 512}
    (h : ∀ n ∈ cmdSet c, ∃ p, s.phys n = some p ∧ (s.core p).pre.phase = .saved ∧ (s.core p).seq.state ≠ .running
      ∧ (s.core p).seq.state ≠ .frozen) :
    resumeCmd s r { cmd := c } = .wait ((s.eachCore c fun s p => (s.modCore p Core.beginRestore).irqCore p).ringBegin r { cmd := c }) := by
  rw [resumeCmd, if_pos Bool.not_false, State.needState_all]
  intro n hn
  obtain ⟨p, hp, saved, running, frozen⟩ := h n hn
  exact ⟨p, hp, by simp [saved, running, frozen]⟩

theorem resumeCmd_restored {s : State} (r : Nat) {c : BitVec 512}
    (h : ∀ n ∈ cmdSet c, ∀ p, s.phys n = some p → (s.core p).pre.phase ≠ .restoring) :
    resumeCmd s r { cmd := c, started := true } = ok s := by
  refine if_pos (List.all_eq_true.2 fun p hp => ?_)
  obtain ⟨n, hn, hp⟩ := List.mem_filterMap.1 hp
  exact decide_eq_true (h n hn p hp)

/-! #### STEP_REPEAT (R167) -/

/-- The core that has taken its step back (R167). -/
def Core.Repeated (k d : Core) (q : StepRec) : Prop :=
  d.seq.state = .running ∧ d.seq.pc = k.seq.stepPc ∧ d.seq.loops = q.loops ∧ d.seq.lc = q.lc ∧ d.seq.bars = q.bars ∧ d.seq.open_ = false
    ∧ d.seq.repeating = true ∧ d.upd.stg = 0 ∧ d.cq = []

theorem State.dropPins_foldl_only (s : State) (l : List PinEnt) :
    ∃ ob, l.foldl (fun (s : State) x => s.dropPins x.obj x.ver x.stepCnt) s = { s with obj := ob } := by
  refine foldl_inv (fun t : State => ∃ ob, t = { s with obj := ob }) _ ?_ l s ⟨s.obj, rfl⟩
  rintro _ x ⟨ob, rfl⟩
  exact ⟨_, State.dropPins_only _ _ _ _⟩

theorem State.core_repeatStep {s : State} {p : Nat} {q : StepRec} (h : (s.core p).seq.repeatRec = some q) :
    (s.core p).Repeated ((s.repeatStep p).core p) q := by
  obtain ⟨ob, eq⟩ := State.dropPins_foldl_only s (s.core p).pins
  rw [State.repeatStep, eq, State.core_irqCore, State.core_modCore_self]
  exact ⟨rfl, rfl, congrArg (Option.elim · [] StepRec.loops) h, congrArg (Option.elim · (s.core p).seq.lc StepRec.lc) h,
    congrArg (Option.elim · [] StepRec.bars) h, rfl, rfl, rfl, rfl⟩

theorem State.sameRings_repeatStep (s : State) (p : Nat) : s.SameRings (s.repeatStep p) := by
  obtain ⟨ob, eq⟩ := State.dropPins_foldl_only s (s.core p).pins
  rw [State.repeatStep, eq]
  exact (State.sameRings_of_eq rfl rfl).trans (State.irqOnly_irqCore _ p).sameRings

theorem stepRepeatCmd_open {s : State} (r : Nat) {n p : Nat} {c : BitVec 512} (hc : cmdSet c = [n]) (hp : s.phys n = some p)
    (h0 : (s.core p).pre.phase = .none) (ho : (s.core p).seq.open_ = true) (hi : (s.core p).inCommit = false)
    (hs : (s.core p).parked = true ∨ (s.core p).seq.state = .running) : stepRepeatCmd s r { cmd := c } = ok (s.repeatStep p) := by
  rw [stepRepeatCmd, State.needState_all]
  · simp [State.eachCore, State.setPhys, hc, hp]
  · intro m hm
    rw [hc, List.mem_singleton] at hm
    subst hm
    exact ⟨p, hp, by simpa [Core.unsaved, h0, ho, hi] using hs⟩

/-! #### What the writes of an image leave (R176, R255, R296) -/

/-- Error bits stand in the blocks of the channels and codecs, above the registers of the rings. -/
theorem State.sameRings_setBit (s : State) {o : Nat} (b : Nat) (h : 0x400000 ≤ o) : s.SameRings (s.setBit o b) := by
  refine ⟨rfl, fun d i hi => ?_⟩
  exact aget_aset_ne _ _ _ (by omega)

theorem State.sameRings_level (s : State) (i : Nat) (b : Bool) : s.SameRings (s.level i b) := (State.irqOnly_level s i b).sameRings

theorem State.sameRings_codecErr (s : State) (k b : Nat) : s.SameRings (s.codecErr k b) :=
  (State.sameRings_setBit s b (by omega)).trans (State.sameRings_level _ _ _)

theorem State.chanBlock_ge (s : State) (ch : Nat) : 0x400000 ≤ s.chanBlock ch := by
  unfold State.chanBlock
  split <;> omega

theorem State.sameRings_chanErr (s : State) (ch b : Nat) : s.SameRings (s.chanErr ch b) := by
  have bit := State.sameRings_setBit s b (Nat.le_add_right_of_le (State.chanBlock_ge s ch) (k := 0x18))
  unfold State.chanErr
  simp only
  split
  · exact bit.trans (State.sameRings_level _ _ _)
  · exact bit

theorem State.sameRings_bump (s : State) (o n : Nat) : s.SameRings (s.bump o n) := .refl s
theorem State.sameRings_bumpCodec (s : State) (k o n : Nat) : s.SameRings (s.bumpCodec k o n) := .refl s

theorem State.sameRings_countPoison (s : State) (tier set a n : Nat) : s.SameRings (s.countPoison tier set a n) := by
  unfold State.countPoison
  refine foldl_inv (fun t : State => s.SameRings t) _ (fun t x h => ?_) _ _ (.refl s)
  split
  · split
    · exact h
    · exact h
  · exact h

theorem State.sameRings_readImage (s : State) (obj : Nat) (e : ObjEnt) (b : Nat) : s.SameRings (s.readImage obj e b).2 := by
  unfold State.readImage
  extract_lets slot m recP rec_ form elem plen crc slen ch k s1 stored bad raw iv auth plain
  have counted : s.SameRings s1 := (State.sameRings_countPoison s _ _ _ _).trans (State.sameRings_countPoison _ _ _ _ _)
  clear_value s1
  split
  · exact State.sameRings_countPoison _ _ _ _ _
  · split
    · exact counted.trans ((State.sameRings_bump s1 _ 1).trans (State.sameRings_chanErr _ _ _))
    · have failed : s.SameRings ((s1.bumpCodec k 0x54 1).codecErr k 0) :=
        counted.trans ((State.sameRings_bumpCodec s1 _ _ _).trans (State.sameRings_codecErr _ _ _))
      split
      · exact failed
      · simp only
        split
        · exact failed
        · exact counted

theorem State.sameRings_writePart (s : State) (tier set a : Nat) (d : List PByte) : s.SameRings (s.writePart tier set a d) := by
  unfold State.writePart
  simp only
  split
  · exact .refl s
  · split
    · exact .refl s
    · exact .refl s
  · exact .refl s
  · exact .refl s

theorem State.sameRings_devWrite (s : State) (tier set a : Nat) (d : List PByte) : s.SameRings (s.devWrite tier set a d) := by
  unfold State.devWrite
  exact foldl_inv (fun t : State => s.SameRings t) _ (fun t x h => State.SameRings.trans h (State.sameRings_writePart _ _ _ _ _)) _ _ (.refl s)

theorem State.sameRings_writeImage (s : State) (obj : Nat) (e : ObjEnt) (b : Nat) (d : List PByte) : s.SameRings (s.writeImage obj e b d) := by
  unfold State.writeImage
  extract_lets po im sl m s0 od vc en pl sn pa hd iv st tg ch k s1 s2 s3 s4
  have stored : s.SameRings s2 :=
    (State.sameRings_countPoison s _ _ _ _).trans ((State.sameRings_devWrite s0 _ _ _ _).trans (State.sameRings_devWrite s1 _ _ _ _))
  clear_value s2
  have raw : s.SameRings s4 := by
    simp only [s4]
    split
    · exact stored
    · exact stored
  clear_value s4
  split
  · exact raw
  · exact raw

theorem State.sameRings_writeGroups (s : State) (e : ObjEnt) (b : Nat) (d : List PByte) (r : Nat × Nat) : s.SameRings (s.writeGroups e b d r) :=
  (State.sameRings_devWrite s _ _ _ _).trans (State.sameRings_devWrite _ _ _ _ _)

theorem State.sameRings_writeBlock (s : State) (obj : Nat) (e : ObjEnt) (b at_ : Nat) (d : List PByte) :
    s.SameRings (s.writeBlock obj e b at_ d) := by
  unfold State.writeBlock
  extract_lets r im
  have read : s.SameRings r.2 := by
    simp only [r]
    split
    · exact .refl s
    · exact State.sameRings_readImage s obj e b
  split
  · exact read.trans (State.sameRings_writeImage r.2 obj e b im)
  · exact read.trans (State.sameRings_writeGroups r.2 e b im _)

theorem State.sameRings_imgWrite (s : State) (obj : Nat) (e : ObjEnt) (ofs : Nat) (d : List PByte) : s.SameRings (s.imgWrite obj e ofs d) := by
  unfold State.imgWrite
  split
  · exact State.sameRings_devWrite _ _ _ _ _
  · exact foldl_inv (fun t : State => s.SameRings t) _ (fun t b h => State.SameRings.trans h (State.sameRings_writeBlock _ _ _ _ _ _)) _ _ (.refl s)

theorem State.sameRings_objWrite (s : State) (obj ofs : Nat) (d : List PByte) : s.SameRings (s.objWrite obj ofs d) := by
  unfold State.objWrite
  extract_lets e s1 s2
  have live : s.SameRings s1 := State.sameRings_imgWrite _ _ _ _ _
  have moved : s.SameRings s2 := by
    simp only [s2]
    split
    · split
      · exact live.trans (State.sameRings_imgWrite _ _ _ _ _)
      · exact live
    · exact live
  split
  · exact moved.trans (State.sameRings_imgWrite _ _ _ _ _)
  · exact moved

/-- The rings, the places of the cores, their sequencers and the places of the objects are the same. -/
structure State.Placing (s t : State) : Prop where
  rings : s.SameRings t
  lmap : t.lmap = s.lmap
  seq : ∀ q, (t.core q).seq = (s.core q).seq
  start : ∀ o, (t.objEnt o).start = (s.objEnt o).start

theorem State.Placing.trans {s t u : State} (h : s.Placing t) (k : t.Placing u) : s.Placing u :=
  ⟨h.rings.trans k.rings, k.lmap.trans h.lmap, fun q => (k.seq q).trans (h.seq q), fun o => (k.start o).trans (h.start o)⟩

theorem State.objEnt_setObj_self (s : State) (o : Nat) (e : ObjEnt) : (s.setObj o e).objEnt o = e := aget_aset_self _ _ _ _

theorem State.objEnt_setObj_ne (s : State) {o i : Nat} {e : ObjEnt} (h : o ≠ i) : (s.setObj o e).objEnt i = s.objEnt i :=
  aget_aset_ne _ _ _ h

theorem State.placing_bumpGen (s : State) (o : Nat) : s.Placing (s.bumpGen o) := by
  have only := State.bumpGen_only s o
  refine ⟨State.sameRings_of_eq (by rw [only]) (by rw [only]), by rw [only], fun q => by rw [only]; rfl, fun i => ?_⟩
  unfold State.bumpGen
  simp only
  split
  · by_cases h : o = i
    · subst h
      rw [State.objEnt_setObj_self]
      rfl
    · rw [State.objEnt_setObj_ne s h]
  · rfl

theorem State.placing_objWrite (s : State) (o ofs : Nat) (d : List PByte) : s.Placing (s.objWrite o ofs d) := by
  have write := State.writeOnly_objWrite s o ofs d
  exact ⟨State.sameRings_objWrite s o ofs d, write.lmap, write.core_seq, fun i => by rw [State.objEnt, State.objEnt, write.obj]⟩

theorem State.placing_wholeWrite (s : State) (o ofs : Nat) (d : List PByte) : s.Placing (s.wholeWrite o ofs d) :=
  ((State.placing_bumpGen s o).trans (State.placing_objWrite _ o ofs d)).trans (State.placing_bumpGen _ o)

/-! #### LOAD_IMAGE (R176, R177) -/

/-- One section of an image is placed. -/
def State.putSection (c : BitVec 512) (d : List Byte) (s : State) (x : Section × Nat) : State :=
  s.wholeWrite (if x.1.inT1 then cmdField c 42 2 else cmdField c 40 2) x.2 (((d.drop x.1.ofs).take x.1.size).map fun b => (b, false))

theorem State.placing_putSections (s : State) (c : BitVec 512) (d : List Byte) (l : List (Section × Nat)) :
    s.Placing (l.foldl (State.putSection c d) s) :=
  foldl_inv (fun t : State => s.Placing t) _ (fun t _ h => h.trans (State.placing_wholeWrite t _ _ _)) _ _
    ⟨.refl s, rfl, fun _ => rfl, fun _ => rfl⟩

/-- A core that is set to begin at `pc`. -/
def Core.beginAt (pc : Nat) (k : Core) : Core := k.modSeq fun q => { q with start := pc, pc := pc, fetch := [], fills := [] }

theorem placeSections_map_fst (l : List Section) (a b : Nat) : (placeSections l a b).1.map Prod.fst = l := by
  induction l generalizing a b with
  | nil => rfl
  | cons x t ih => exact congrArg (x :: ·) (ih _ _)

/-- A section that is placed is a section of the image. -/
theorem any_typ_of_find?_placeSections {l : List Section} {x : Section × Nat}
    (h : (placeSections l 0 0).1.find? (fun y => y.1.typ = 1) = some x) : l.any (fun y => y.typ = 1) = true := by
  rw [List.any_eq_true]
  refine ⟨x.1, ?_, List.find?_some (p := fun y : Section × Nat => decide (y.1.typ = 1)) h⟩
  rw [← placeSections_map_fst l 0 0]
  exact List.mem_map_of_mem (List.mem_of_find?_eq_some h)

theorem loadImage_program {s : State} {r : Nat} {c : BitVec 512} {img d : List Byte} (hr : r < 17) (hd : d = img.take (cmdField c 32 8))
    (hk : leAt d 6 2 = 1) (hv : s.sec.recovery = false) (hs : s.sealed_ = false) (hh : s.headerCheck d = (0, 0))
    (hp : ∀ n ∈ cmdSet c, ∃ p, s.phys n = some p ∧ (s.core p).parked = true)
    (hf : s.imageFits (cmdField c 40 2) (cmdField c 42 2) (placeSections (sectionsOf d) 0 0).2.1 (placeSections (sectionsOf d) 0 0).2.2 = true)
    (ho : ∀ y ∈ sectionsOf d, y.ok d.length = true) (hc : (sectionsOf d).any (fun y => y.typ = 1) = true) :
    loadImage img s r { cmd := c } = ok (s.placeImage c d (placeSections (sectionsOf d) 0 0).1) := by
  have sections : (sectionsOf d).all (fun y => y.ok d.length) = true := List.all_eq_true.2 ho
  simp only [loadImage, if_pos (show r < 32 by omega), ← hd, hk]
  rw [State.needState_all _ hp]
  simp [hh, hs, hf, sections, hc, hv]

/-- Where a placed image begins whose first CODE section is `x`. -/
def State.entryOf (s : State) (c : BitVec 512) (d : List Byte) (x : Section × Nat) : Nat :=
  (((s.objEnt (if x.1.inT1 then cmdField c 42 2 else cmdField c 40 2)).start + x.2) / 16 + leAt d 40 8) % 2 ^ 48

theorem State.Placing.entryOf {s t : State} (h : s.Placing t) (c : BitVec 512) (d : List Byte) (x : Section × Nat) :
    t.entryOf c d x = s.entryOf c d x := by
  rw [State.entryOf, State.entryOf, h.start]

theorem State.Placing.phys {s t : State} (h : s.Placing t) (n : Nat) : t.phys n = s.phys n := by
  rw [State.phys, State.phys, h.lmap]

theorem State.placeImage_eq (s : State) (c : BitVec 512) (d : List Byte) {l : List (Section × Nat)} {x : Section × Nat}
    (hx : l.find? (fun y => y.1.typ = 1) = some x) : ∃ sec, s.placeImage c d l
      = { (l.foldl (State.putSection c d) s).eachCore c (fun t p => t.modCore p (Core.beginAt ((l.foldl (State.putSection c d) s).entryOf c d x)))
          with sec := sec } := by
  unfold State.placeImage
  simp only [hx]
  exact ⟨_, rfl⟩

theorem State.placeImage_places {s : State} {c : BitVec 512} {d : List Byte} {l : List (Section × Nat)} {x : Section × Nat}
    (hx : l.find? (fun y => y.1.typ = 1) = some x) :
    s.SameRings (s.placeImage c d l)
      ∧ ∀ n ∈ cmdSet c, ∀ p, s.phys n = some p → ((s.placeImage c d l).core p).seq = ((s.core p).beginAt (s.entryOf c d x)).seq := by
  have placed := State.placing_putSections s c d l
  obtain ⟨sec, eq⟩ := State.placeImage_eq s c d hx
  rw [eq, placed.entryOf]
  generalize l.foldl (State.putSection c d) s = t at placed
  refine ⟨placed.rings.trans (State.sameRings_eachCore (fun t p => State.sameRings_modCore t p _) t c), fun n hn p hp => ?_⟩
  have begun := State.core_eachCore (g := Core.beginAt (s.entryOf c d x)) (fun _ => rfl) (fun t p q => State.core_modCore t p _ q) hn
    ((placed.phys n).trans hp)
  refine (congrArg (fun k : Core => k.seq) begun).trans ?_
  simp only [Core.beginAt, Core.modSeq, placed.seq]

/-! ### The commands (R176, R177, R394 to R397, R436) -/

/-- A command that ends at once, with the core of each that it names as it leaves it. -/
theorem State.HostCmd.ends_cores {s t : State} {r opc : Nat} {c : BitVec 512} (h : s.HostCmd r opc c) (payload : List Byte)
    {eff : State → Nat → RingJob → Ans} (he : eff s r { cmd := c } = ok t) (hs : s.SameRings t) :
    s.Completes (s.onRing r opc payload eff) r c {} ∧ ∀ p, (s.onRing r opc payload eff).core p = t.core p := by
  obtain ⟨sent, done⟩ := h.ends payload he hs
  exact ⟨done, sent.core⟩

/-- Settles O23: each command's effect on a ring's head is that of its lemma above; an effect that leaves the rings completes as R394 says. -/
theorem hostCommandsRunCores : Obligations.HostCommandsRunCores := by
  refine ⟨?load, ?start, ?restart, ?stop, ?stopBusy, ?preempt, ?preempted, ?resume, ?resumed, ?stepRepeat⟩
  case load =>
    rintro s r c img d l x pc h hd hk hv hs hh rfl hp hf ho hx rfl
    have ⟨_, hr, _⟩ := h
    obtain ⟨rings, cores⟩ := State.placeImage_places (s := s) (c := c) (d := d) hx
    obtain ⟨done, core⟩ := h.ends_cores img (loadImage_program hr hd hk hv hs hh hp hf ho (any_typ_of_find?_placeSections hx)) rings
    exact ⟨_, rfl, done, fun n hn p hp => by rw [core, cores n hn p hp]; rfl⟩
  case start =>
    intro s r c h hb hp
    obtain ⟨done, core⟩ := h.ends_cores [] (startCmd_stopped r hb hp)
      (State.sameRings_eachCore (fun s p => State.sameRings_modCore_irqCore s p _) s c)
    refine ⟨_, rfl, done, fun n hn p hp => ?_⟩
    rw [core, State.core_eachCore (g := Core.started) (fun _ => rfl) (fun s p q => State.core_modCore_irqCore s p _ q) hn hp]
    rfl
  case restart =>
    intro s r c h hb hp
    obtain ⟨done, core⟩ := h.ends_cores [] (startCmd_restart r hb hp)
      (State.sameRings_eachCore (fun s p => (State.restartOnly_restartCore s p).sameRings) s c)
    refine ⟨_, rfl, done, fun n hn p hp => ?_⟩
    obtain ⟨⟨state, pc, cq⟩, start⟩ := State.atStart_eachCore hn hp
    rw [core]
    exact ⟨state, pc.trans start, cq⟩
  case stop =>
    intro s r c h hi
    obtain ⟨done, core⟩ := h.ends_cores [] (State.stopCmd_idle r hi) (State.sameRings_eachCore (fun s p => State.sameRings_modCore s p _) s c)
    refine ⟨_, rfl, done, fun n hn p hp => ?_⟩
    rw [core, State.core_stopCores hn hp]
    cases ha : (s.core p).active
    case false => rw [Core.stop_of_not_active ha]; rfl
    case true =>
      obtain ⟨hs, hc⟩ := hi n hn p hp ha
      rw [Core.seq_stop_idle ha hs hc]
      rfl
  case stopBusy =>
    intro s r n p c h hn hp ha hs
    obtain ⟨goes, cores, out⟩ := h.goesOn [] (State.stopCmd_busy r hn hp ha hs)
    refine ⟨_, rfl, goes, ?_, ?_, out.trans (foldl_keeps State.out (fun s p => State.modCore s p Core.stop) (fun _ _ => rfl) _ s)⟩
    all_goals rw [State.core_congr cores, State.core_stopCores hn hp, Core.seq_stop_busy ha hs]
    exact Core.state_of_active ha
  case preempt =>
    intro s r c h h0 hp
    obtain ⟨goes, cores, -⟩ := h.goesOn [] (preemptCmd_marks r h0 hp)
    refine ⟨_, rfl, goes, fun n hn p hp => ?_⟩
    rw [State.core_congr cores, State.core_eachCore (g := Core.preempted) (fun _ => rfl) (fun s p q => State.core_modCore s p _ q) hn hp]
    rfl
  case preempted =>
    intro s r c h hp
    obtain ⟨sent, done⟩ := h.ends [] (preemptCmd_saved r hp)
    exact ⟨_, rfl, done, sent.1⟩
  case resume =>
    intro s r c h hp
    obtain ⟨goes, cores, -⟩ := h.goesOn [] (resumeCmd_begins r hp)
    refine ⟨_, rfl, goes, fun n hn p hp => ?_⟩
    rw [State.core_congr cores,
      State.core_eachCore (g := Core.beginRestore) (fun _ => rfl) (fun s p q => State.core_modCore_irqCore s p _ q) hn hp]
    exact ⟨rfl, rfl⟩
  case resumed =>
    intro s r c h hp
    obtain ⟨sent, done⟩ := h.ends [] (resumeCmd_restored r hp)
    exact ⟨_, rfl, done, sent.1⟩
  case stepRepeat =>
    intro s r n p c q h hc hp h0 ho hi hs hq
    obtain ⟨done, core⟩ := h.ends_cores [] (stepRepeatCmd_open r hc hp h0 ho hi hs) (State.sameRings_repeatStep s p)
    refine ⟨_, rfl, done, ?_⟩
    rw [core]
    exact State.core_repeatStep hq

end Sys2Proof.Machine
end

section
/-! Proofs of the statements of the control words (06): the words of the vector unit that gather, scatter, sort, choose, sum and update (R190, R196, R203,
R240, R250, R496). -/

namespace Sys2Proof.Machine

/-! ### The end of a quantum -/

/-- A command that puts core p as `k` and word i as `f`, in place of a word that `k` holds. -/
theorem State.putWord_ends {s u : State} {p q i : Nat} {f : Cqe} {k : Core} {cmd : Instr}
    (run : exec cmd s = .next ((u.setCore p k).putWord p q i f).rstBegin) (hl : i < (k.words q).length) :
    ∃ t, exec cmd s = .next t ∧ t.core p = k.setWord q i f ∧ ((t.core p).words q)[i]? = some f
      ∧ t.t0 = u.t0 ∧ t.slice = u.slice ∧ t.tier = u.tier ∧ t.mesh = u.mesh := by
  refine ⟨_, run, ?_, ?_, State.rstBegin_t0 _, State.rstBegin_slice _, State.rstBegin_tier _, State.rstBegin_mesh _⟩
  · rw [State.core_rstBegin, State.core_putWord_self, State.core_setCore_self]
  · rw [State.core_rstBegin, State.getElem?_putWord_self]
    rwa [State.core_setCore_self]

theorem State.finished_of_word {s : State} {p q i : Nat} {e : Cqe} (h : ((s.core p).words q)[i]? = some e) (hf : e.fin = true) :
    s.Finished p q i := by
  simp [State.Finished, h, hf]

theorem Core.words_congr {c d : Core} (h : d.cq = c.cq) (q : Nat) : d.words q = c.words q := by
  simp [Core.words, h]

/-! ### Popping groups, and room -/

/-- Popping groups takes entries from data queues, and changes nothing else. -/
theorem Core.popAll_only {c k : Core} {ins : List (Nat × Nat)} {g : List (List DqEnt)} (h : c.popAll ins = some (k, g)) :
    k = { c with dq := k.dq } := by
  induction ins generalizing c k g with
  | nil =>
    obtain ⟨rfl, -⟩ := Prod.mk.inj (Option.some.inj h)
    rfl
  | cons x t ih =>
    unfold Core.popAll at h
    split at h
    · cases h
    · split at h
      · cases h
      · next rest =>
        obtain ⟨rfl, -⟩ := Prod.mk.inj (Option.some.inj h)
        exact (ih rest :)

theorem Core.roomAll_nil (c : Core) : c.roomAll [] = true := rfl

theorem Core.roomAll_cons (c : Core) (q n : Nat) (l : List (Nat × Nat)) : c.roomAll ((q, n) :: l) = (c.dqRoom q n && c.roomAll l) := rfl

/-! ### Lines of the L1 (R290) -/

/-- Scattering changes the lines of the L1 only. -/
theorem Core.scatterGo_only (p : Nat) (w : CWord) (n : Nat) (l : List (Nat × Nat)) (c : Core) (m : Nat) :
    (c.scatterGo p w n l m).1 = { c with vec := { c.vec with l1 := (c.scatterGo p w n l m).1.vec.l1 } } := by
  induction l generalizing c m with
  | nil => rfl
  | cons x t ih =>
    simp only [Core.scatterGo]
    split
    · rfl
    · rfl
    · split
      · rfl
      · split
        · rfl
        · rw [ih]
          rfl

/-! ### Codes and losses -/

theorem Core.words_pushCodes (c : Core) (q f tok : Nat) (l : List Nat) (r : Nat) : (c.pushCodes q f tok l).words r = c.words r := rfl

theorem Core.words_addLoss (c : Core) (x : W32) (q : Nat) : (c.addLoss x).words q = c.words q := by
  unfold Core.addLoss
  split <;> rfl

/-! ### The words -/

/-- The lanes of a VEC.OPT by SGD (R203). -/
def optRow (k : Core) (w : CWord) (g : List (List DqEnt)) : List (W32 × W32) :=
  (List.range 64).map fun j => sgdU1 (vImm w) (k.upd.hp.getD 0 {}) ((preRow (vFmtI w) (g.getD 0 [])).getD j 0)
    ((preRow 0x0 (g.getD 1 [])).getD j 0) ((preRow 0xC (g.getD 2 [])).getD j 0)

/-- The core after a group of VEC.OPT: the weights in BF16 at OUT, the moments in FP32 at OUT + 1 (R203). -/
def Core.optPush (k : Core) (e : Cqe) (r : List (W32 × W32)) : Core :=
  (k.pushCodes (wOut e.word) 0x0 e.seqno (r.map fun x => (convert 0x0 false (f32 x.1)).code)).pushCodes (wOut e.word + 1) 0xC e.seqno
    (r.map fun x => x.2.toNat)

/-- The entries of the indices of the boxes kept, 32 each (R196). -/
def nmsEnts (n tok : Nat) (idx : List Nat) : List DqEnt :=
  (List.range n).map fun j => { data := BitVec.ofNat 1024 (packBits 32 ((idx.drop (32 * j)).take 32)), tok := tok }

section VectorMoves

variable {s : State} {c p i : Nat} {e : Cqe}

theorem exec_vecGath_hits {ix : List DqEnt} {l : List Nat} (h : s.CurAt c p 6 6 i e) (hx : (s.core p).headDq (wInb e.word) 2 = some ix)
    (hp : ∀ x ∈ ix, x.poison = false)
    (hg : (s.core p).gatherGo e.word e.n ((indices ix).drop e.vals.length) e.vals = (l, none, false))
    (hr : (s.core p).roomAll (vecOut e.word) = true) :
    exec (.vecGath c) s = .next ((s.setCore p (((s.core p).dropDq (wInb e.word) 2).vecPush (wOut e.word) e
      (l.map (widen (vFmtI e.word))))).putWord p 6 i { e with n := e.n + 1, vals := [], fin := decide (wRep e.word ≤ e.n) }).rstBegin := by
  have clean : ix.any DqEnt.poison = false := by simpa using hp
  simp only [exec, execVecGath]
  rw [State.onCur_ready h]
  simp only [hx, clean, hg, hr, State.tick_succ]
  rfl

theorem exec_vecScat_hits {dat ix : List DqEnt} {k : Core} {m : Nat} (h : s.CurAt c p 6 7 i e)
    (hd : (s.core p).headDq (wIna e.word) (groupEnts (vFmtI e.word)) = some dat) (hx : (s.core p).headDq (wInb e.word) 2 = some ix)
    (hdp : ∀ x ∈ dat, x.poison = false) (hxp : ∀ x ∈ ix, x.poison = false)
    (hg : (s.core p).scatterGo p e.word e.n (((indices ix).zip (unpackBits (fmtWidth (vFmtI e.word)) 64
      (dat.foldr (fun y acc => y.data.toNat + acc * 2 ^ 1024) 0))).drop (e.vals.getD 0 0)) (e.vals.getD 0 0) = (k, m, none, false)) :
    exec (.vecScat c) s = .next (((s.setCore p k).setCore p ((k.dropDq (wIna e.word) (groupEnts (vFmtI e.word))).dropDq (wInb e.word) 2)).putWord
      p 6 i { e with n := e.n + 1, vals := [], fin := decide (wRep e.word ≤ e.n) }).rstBegin := by
  have cleanData : dat.any DqEnt.poison = false := by simpa using hdp
  have cleanIndices : ix.any DqEnt.poison = false := by simpa using hxp
  simp only [exec, execVecScat]
  rw [State.onCur_ready h]
  simp only [hd, hx, cleanData, cleanIndices, hg, State.tick_succ]
  rfl

/-- VEC.SORT with its groups gathered and room for the sorted keys and payload. -/
theorem exec_vecSort_sorts {r : List (W32 × Nat)} (h : s.CurAt c p 6 8 i e) (hn : wRep e.word < e.n)
    (hr : (s.core p).roomAll (vecOut e.word) = true) (hq : (s.core p).dqRoom (wOut e.word + 1) (groupEnts (vFmtI e.word)) = true)
    (hk : r = (sortKeys (wbit e.word 64) ((List.range (e.vals.length / 2)).map fun j =>
      (BitVec.ofNat 32 (e.vals.getD (2 * j) 0), e.vals.getD (2 * j + 1) 0))).take (vK e.word)) :
    exec (.vecSort c) s = .next ((State.setCore { s with fresh := s.fresh + 128 } p (((s.core p).vecPush (wOut e.word) e
      ((List.range 64).map fun j => if j < r.length then (r.getD j (0, 0)).1 else BitVec.ofNat 32 (s.freeCode j))).pushCodes (wOut e.word + 1)
        (vFmtI e.word) e.seqno ((List.range 64).map fun j => if j < r.length then (r.getD j (0, 0)).2 else s.freeCode (64 + j)))).putWord
      p 6 i { e with fin := true }).rstBegin := by
  subst hk
  simp only [exec, execVecSort]
  rw [State.onCur_ready h]
  simp only [if_neg (Nat.not_le.mpr hn), Core.roomAll_cons, hr, hq]
  rfl

/-- VEC.NMS with its boxes gathered and room for the indices. -/
theorem exec_vecNms_keeps {n : Nat} {r : List Nat} (h : s.CurAt c p 6 9 i e) (hw : wRep e.word < e.n) (hn : n = (vK e.word + 31) / 32)
    (hr : (s.core p).dqRoom (wOut e.word) n = true)
    (hk : r = nmsKeep (vImm e.word) (vK e.word) ((List.range (e.vals.length / 4)).map fun j =>
      ((e.vals.drop (4 * j)).take 4).map (BitVec.ofNat 32))) :
    exec (.vecNms c) s = .next ((State.setCore { s with fresh := s.fresh + 64 } p ((s.core p).pushDq (wOut e.word) (nmsEnts n e.seqno
      ((List.range (32 * n)).map fun j => if j < r.length then r.getD j 0 else s.freeCode j)))).putWord p 6 i { e with fin := true }).rstBegin := by
  subst hn hk
  simp only [exec, execVecNms]
  rw [State.onCur_ready h]
  simp only [if_neg (Nat.not_le.mpr hw), hr]
  rfl

theorem exec_vecLoss_clean {k : Core} {x : DqEnt} (h : s.CurAt c p 6 0xA i e) (hk : (s.core p).popAll [(wIna e.word, 1)] = some (k, [[x]]))
    (hp : x.poison = false) :
    exec (.vecLoss c) s = .next ((s.setCore p (if k.seq.open_
      then k.addLoss (widen (vFmtI e.word) (bitsOf x.data.toNat 0 (fmtWidth (vFmtI e.word)))) else k)).putWord p 6 i
        { e with fin := true }).rstBegin := by
  have clean : ∀ l ∈ [[x]], ∀ y ∈ l, y.poison = false := by simpa using hp
  simp only [exec, execVecLoss, State.onCur_ready h, State.vecPop_clean (outs := []) e _ rfl hk clean]
  rfl

theorem exec_vecOpt_sgd {k : Core} {g : List (List DqEnt)} (h : s.CurAt c p 6 0x40 i e)
    (hr : (s.core p).dqRoom (wOut e.word) 1 = true) (hq : (s.core p).dqRoom (wOut e.word + 1) 2 = true)
    (hk : (s.core p).popAll [(wIna e.word, groupEnts (vFmtI e.word)), (wInb e.word, 1), (vInc e.word, 2)] = some (k, g))
    (hp : ∀ l ∈ g, ∀ x ∈ l, x.poison = false) (hf : vFn e.word = 0) :
    exec (.vecOpt c) s = .next ((s.setCore p (k.optPush e (optRow k e.word g))).putWord p 6 i
      { e with n := e.n + 1, fin := decide (wRep e.word ≤ e.n) }).rstBegin := by
  have room : (s.core p).roomAll [(wOut e.word, 1), (wOut e.word + 1, 2)] = true := by
    rw [Core.roomAll_cons, Core.roomAll_cons, hr, hq, Core.roomAll_nil]
    rfl
  simp only [exec, execVecOpt, State.onCur_ready h, State.vecPop_clean e _ room hk hp, State.tick_succ, hf, if_true]
  rfl

end VectorMoves

/-- A place of the result below the end of what is kept holds what is kept. -/
theorem getD_keptOrFree {α : Type} {d x : α} {r : List α} {n j : Nat} (free : Nat → α) (hj : j < r.length) (hn : j < n) :
    ((List.range n).map fun j => if j < r.length then r.getD j d else free j).getD j x = r.getD j d := by
  simp [List.getD_eq_getElem?_getD, hn, hj]

/-- Settles O16, a word at a time. -/
theorem vectorWordsMoveAndSort : Obligations.VectorWordsMoveAndSort := by
  refine ⟨?gath, ?scat, ?sort, ?nms, ?loss, ?opt⟩
  case gath =>
    rintro s c p i e _ ix l h rfl hx hp hg hr
    obtain ⟨t, run, core, word, -⟩ := State.putWord_ends (exec_vecGath_hits h hx hp hg hr) h.lt
    exact ⟨t, run, by rw [core, Core.setWord_dq], word⟩
  case scat =>
    rintro s c p i e _ dat ix _ k m h rfl hd hx hdp hxp rfl hg
    have kept := Core.scatterGo_only p e.word e.n (((indices ix).zip (unpackBits (fmtWidth (vFmtI e.word)) 64
      (dat.foldr (fun y acc => y.data.toNat + acc * 2 ^ 1024) 0))).drop (e.vals.getD 0 0)) (s.core p) (e.vals.getD 0 0)
    rw [hg] at kept
    have words : k.words 6 = (s.core p).words 6 := by rw [show k = _ from kept]; rfl
    obtain ⟨t, run, core, word, -⟩ := State.putWord_ends (exec_vecScat_hits h hd hx hdp hxp hg)
      (by rw [Core.words_dropDq, Core.words_dropDq, words]; exact h.lt)
    exact ⟨t, run, by rw [core, Core.setWord_vec]; rfl, by rw [core, Core.setWord_dq], word⟩
  case sort =>
    rintro s c p i e _ r h rfl hn hr hq hk
    obtain ⟨t, run, core, word, -⟩ := State.putWord_ends (exec_vecSort_sorts h hn hr hq hk) h.lt
    refine ⟨t, _, _, run, State.finished_of_word word rfl, ?_, fun j hj hj' => ?_, by rw [core, Core.setWord_dq]⟩
    · rw [List.length_map, List.length_range]
    · simp [List.getD_eq_getElem?_getD, hj, hj']
  case nms =>
    rintro s c p i n e _ r h rfl hw hn hr hk
    obtain ⟨t, run, core, word, -⟩ := State.putWord_ends (exec_vecNms_keeps h hw hn hr hk) h.lt
    refine ⟨t, (List.range (32 * n)).map fun j => if j < r.length then r.getD j 0 else s.freeCode j, run, State.finished_of_word word rfl,
      fun j => getD_keptOrFree _, ?_⟩
    rw [core, Core.dataQ_setWord, Core.dataQ_pushDq_self]
    rfl
  case loss =>
    rintro s c p i e _ k x h rfl hk hp
    have kept := Core.popAll_only hk
    obtain ⟨t, run, core, word, -⟩ := State.putWord_ends (exec_vecLoss_clean h hk hp)
      (by rw [apply_ite (fun k : Core => k.words 6), Core.words_addLoss, ite_self, Core.words_congr (Core.popAll_keeps_words hk)]; exact h.lt)
    refine ⟨t, run, State.finished_of_word word rfl, ?_⟩
    rw [core, Core.setWord_upd, apply_ite (fun k : Core => k.upd), kept]
  case opt =>
    rintro s c p i e _ k g r h rfl hr hq hk hp hf rfl
    obtain ⟨t, run, core, word, -⟩ := State.putWord_ends (exec_vecOpt_sgd h hr hq hk hp hf)
      (by rw [Core.optPush, Core.words_pushCodes, Core.words_pushCodes, Core.words_congr (Core.popAll_keeps_words hk)]; exact h.lt)
    exact ⟨t, run, by rw [core, Core.setWord_dq, Core.optPush, optRow], word⟩

end Sys2Proof.Machine
end

section
/-! Proofs of the statements of the control words (06): the words of the load unit and the servings of the shared tile register (R190, R192, R201, R211,
R213, R215, R216, R262, R495). -/

namespace Sys2Proof.Machine

/-! ### Entries that a load word pushes -/

section LoadWords

variable {s : State} {c p i : Nat} {e : Cqe}

theorem exec_ldVec_reads {x : DqEnt} {l : List Got} (h : s.WordAt c p 2 2 i e) (hr : (s.core p).dqRoom (wOut e.word) 1 = true)
    (hs : (s.core p).servedAhead (wOut e.word) = false)
    (hx : s.loadOperand p e 0 (e.gen 0) (e.scaleGen (wbits e.word 64 4) 2) (wbits e.word 64 4) (ldVecRate e.word) (lanesOf (wbits e.word 38 2))
      = .ok (x, l)) :
    exec (.ldVec c i 0) s = .next ((s.setCore p ((s.core p).pushDq (wOut e.word) [x])).putWord p 2 i
      { e with n := e.n + 1, held := l, fin := decide (wRep e.word ≤ e.n) }).rstBegin := by
  simp only [exec, execLdVec]
  rw [State.onWord_ready h]
  simp only [hr, hs, hx, State.tick_succ]
  rfl

theorem exec_ldPair_reads {a b : DqEnt} {l m : List Got} (h : s.WordAt c p 2 3 i e) (hr : (s.core p).dqRoom (wOut e.word) 1 = true)
    (hr' : (s.core p).dqRoom (wOut e.word + 1) 1 = true) (hs : (s.core p).servedAhead (wOut e.word) = false)
    (hs' : (s.core p).servedAhead (wOut e.word + 1) = false)
    (ha : s.loadOperand p e 0 (e.gen 0) (e.scaleGen (wbits e.word 64 4) 2) (wbits e.word 64 4) (pairRate (wbits e.word 64 4) (wbits e.word 60 4))
      (lanesOf (wbits e.word 38 2)) = .ok (a, l))
    (hb : s.loadOperand p e 1 (e.gen 1) (e.scaleGen (wbits e.word 60 4) 3) (wbits e.word 60 4) (pairRate (wbits e.word 64 4) (wbits e.word 60 4))
      (lanesOf (wbits e.word 36 2)) = .ok (b, m)) :
    exec (.ldPair c i) s = .next ((s.setCore p (((s.core p).pushDq (wOut e.word) [a]).pushDq (wOut e.word + 1) [b])).putWord p 2 i
      { e with n := e.n + 1, held := l ++ m, fin := decide (wRep e.word ≤ e.n) }).rstBegin := by
  simp only [exec, execLdPair]
  rw [State.onWord_ready h]
  simp only [hr, hr', hs, hs', ha, hb, State.tick_succ]
  rfl

/-- The entry that an LD.CAST pushes: entry n of its block, with the block's scales (R262). -/
def castEnt (e : Cqe) : DqEnt :=
  { data := e.ents.getD (e.n % 16) 0, side := some (BitVec.ofNat 512 (e.vals.getD 0 0)), tok := e.seqno, poison := e.vals.getD 1 0 = 1 }

/-- The word with the block of the rows that it has read (R262). -/
def Cqe.castRead (e : Cqe) (rows : List (List Byte × Bool)) : Cqe :=
  { e with
    ents := (castBlock (wbits e.word 64 4) (rows.map Prod.fst)).1
    vals := [(castBlock (wbits e.word 64 4) (rows.map Prod.fst)).2.toNat, if rows.any Prod.snd then 1 else 0] }

/-- The poison of a block, kept as the word's second value. -/
theorem decide_flag (n : Nat) (b : Bool) : decide ([n, if b then 1 else 0].getD 1 0 = 1) = b := by
  cases b <;> rfl

theorem castEnt_castRead {e : Cqe} (rows : List (List Byte × Bool)) (h : e.n % 16 = 0) :
    castEnt (e.castRead rows) = {
      data := (castBlock (wbits e.word 64 4) (rows.map Prod.fst)).1.getD 0 0
      side := some (castBlock (wbits e.word 64 4) (rows.map Prod.fst)).2
      tok := e.seqno
      poison := rows.any Prod.snd } := by
  have flag : decide ((e.castRead rows).vals.getD 1 0 = 1) = rows.any Prod.snd := decide_flag ..
  simp only [castEnt, flag]
  simp [Cqe.castRead, h]

/-- The entry that an XPOSE pushes: column n of its rows (R201). -/
def xposeEnt (e : Cqe) : DqEnt :=
  { data := BitVec.ofNat 1024 (packBits 16 (e.ents.map fun r => bitsOf r.toNat (16 * (e.n % 64)) 16)), tok := e.seqno
    poison := e.vals.getD 0 0 = 1 }

/-- The word with the rows that it has read (R201). -/
def Cqe.xposeRead (e : Cqe) (rows : List (List Byte × Bool)) : Cqe :=
  { e with ents := rows.map fun r => entryOf r.1, vals := [if rows.any Prod.snd then 1 else 0] }

/-- The first entry of a block reads its rows. -/
theorem exec_ldCast_block {rows : List (List Byte × Bool)} (h : s.WordAt c p 2 4 i e) (hr : (s.core p).dqRoom (wOut e.word) 1 = true)
    (hs : (s.core p).servedAhead (wOut e.word) = false) (hn : e.n % 16 = 0)
    (hx : s.readRows p (e.gen 0) ((s.core p).genBase e (e.gen 0)) (e.n / 16 * 32) 32 = .ok rows) :
    exec (.ldCast c i) s = .next ((s.setCore p ((s.core p).pushDq (wOut e.word) [castEnt (e.castRead rows)])).putWord p 2 i
      { e.castRead rows with n := e.n + 1, fin := decide (wRep e.word ≤ e.n) }).rstBegin := by
  simp only [exec, execLdCast]
  rw [State.onWord_ready h]
  simp only [hr, hs, hn, hx, State.tick_succ]
  simp only [castEnt, Cqe.castRead, hn]
  rfl

theorem exec_ldCast_next (h : s.WordAt c p 2 4 i e) (hr : (s.core p).dqRoom (wOut e.word) 1 = true)
    (hs : (s.core p).servedAhead (wOut e.word) = false) (hn : e.n % 16 ≠ 0) :
    exec (.ldCast c i) s = .next ((s.setCore p ((s.core p).pushDq (wOut e.word) [castEnt e])).putWord p 2 i
      { e with n := e.n + 1, fin := decide (wRep e.word ≤ e.n) }).rstBegin := by
  simp only [exec, execLdCast]
  rw [State.onWord_ready h]
  simp only [hr, hs, if_neg hn, State.tick_succ]
  rfl

/-- The first entry of a block reads its rows. -/
theorem exec_xpose_block {rows : List (List Byte × Bool)} (h : s.WordAt c p 2 0x40 i e) (hr : (s.core p).dqRoom (wOut e.word) 1 = true)
    (hs : (s.core p).servedAhead (wOut e.word) = false) (hn : e.n % 64 = 0)
    (hx : s.readRows p (e.gen 0) ((s.core p).genBase e (e.gen 0)) e.n 64 = .ok rows) :
    exec (.xpose c i) s = .next ((s.setCore p ((s.core p).pushDq (wOut e.word) [xposeEnt (e.xposeRead rows)])).putWord p 2 i
      { e.xposeRead rows with n := e.n + 1, fin := decide (64 * (wRep e.word + 1) ≤ e.n + 1) }).rstBegin := by
  simp only [exec, execXpose]
  rw [State.onWord_ready h]
  simp only [hr, hs, hn, hx, State.tick]
  simp only [xposeEnt, Cqe.xposeRead, hn]
  rfl

theorem exec_xpose_next (h : s.WordAt c p 2 0x40 i e) (hr : (s.core p).dqRoom (wOut e.word) 1 = true)
    (hs : (s.core p).servedAhead (wOut e.word) = false) (hn : e.n % 64 ≠ 0) :
    exec (.xpose c i) s = .next ((s.setCore p ((s.core p).pushDq (wOut e.word) [xposeEnt e])).putWord p 2 i
      { e with n := e.n + 1, fin := decide (64 * (wRep e.word + 1) ≤ e.n + 1) }).rstBegin := by
  simp only [exec, execXpose]
  rw [State.onWord_ready h]
  simp only [hr, hs, if_neg hn, State.tick]
  rfl

end LoadWords

/-! ### The shared tile register -/

/-- Serving changes data queues and the shared tile register only. -/
theorem Core.serve_only (k : Core) (e : Cqe) (a : Bool) : k.serve e a = { k with dq := (k.serve e a).dq, sht := (k.serve e a).sht } := by
  unfold Core.serve
  generalize (if a then wbits e.word 60 4 else wOut e.word) = q
  dsimp only
  split
  · rfl
  · split
    · rfl
    · split
      · rfl
      · split <;> rfl

theorem Core.words_serve (k : Core) (e : Cqe) (a : Bool) (q : Nat) : (k.serve e a).words q = k.words q := by
  rw [k.serve_only e a]
  rfl

/-- An LD.SHT puts one row into the buffer of its tile; `k` is the core with one entry served on each side. -/
theorem exec_ldSht_row {s : State} {c p i : Nat} {e : Cqe} {k : Core} {r : Got × Got} {x : Sht} (h : s.WordAt c p 2 5 i e)
    (hk : k = ((s.core p).serve e true).serve e false) (hn : e.n < 16 * (wRep e.word + 1))
    (hb : e.n % 16 = 0 → k.sht.bufs.any Option.isNone = true) (hr : (s.setCore p k).shtRow p e = .ok r)
    (hx : k.sht.putRow e.seqno (e.n / 16) (e.n % 16) (entryOf r.1.1) r.1.2 = some x) :
    exec (.ldSht c i) s = .next (((s.setCore p k).setCore p { k with sht := x }).putWord p 2 i
      { e with n := e.n + 1, held := [r.2] }).rstBegin := by
  subst hk
  have reading : shtReading e = true := decide_eq_true hn
  have free : (decide (e.n % 16 = 0) && !(((s.core p).serve e true).serve e false).sht.bufs.any Option.isNone) = false := by
    by_cases h0 : e.n % 16 = 0
    · simp [hb h0]
    · simp [h0]
  simp only [exec, execLdSht]
  rw [State.onWord_ready h]
  simp only [reading, free, hr, hx]
  rfl

/-- The serving that is next pushes its next entry to engine A (R213, R215). -/
theorem Core.serve_pushes {k : Core} {e : Cqe} {v : Serving} {d : Entry} {z : Bool} (hv : k.sht.nextPush (wbits e.word 60 4) true = some v)
    (hw : v.word = e.seqno) (hr : k.dqRoom (wbits e.word 60 4) 1 = true) (hd : k.sht.colEntry v v.pushA = some (d, z)) :
    k.serve e true = { k.pushDq (wbits e.word 60 4) [{ data := d, tok := e.seqno, poison := z, srv := some (v.word, v.num) }] with
      sht := k.sht.modServ v.word v.num fun v => { v with pushA := v.pushA + 1 } } := by
  simp [Core.serve, hv, hw, hr, hd]

/-- A core without its oldest serving `v`, the rest being `l`: the serving's buffers are free, and it is counted (R216). -/
def Core.released (k : Core) (v : Serving) (l : List Serving) : Core :=
  ({ k with sht := {
    bufs := k.sht.bufs.map fun b => b.bind fun y => if y.word = v.word ∧ y.serving = v.num then none else some y
    servs := l } } : Core).bump 0x2900 1

/-- A queue that word n has served is served no more. -/
def Core.unserve (n : Nat) (k : Core) (q : Nat) : Core :=
  if (k.dataQ q).served = some n then k.setDataQ q { k.dataQ q with served := none } else k

/-- An LD.SHT whose last serving has left is finished (R216). -/
def Core.shtEnded (k : Core) (v : Serving) : Core :=
  let d := (k.unserve v.word v.outA).unserve v.word v.outB
  d.setWords 2 ((d.words 2).map fun e => if e.started && e.seqno = v.word then { e with fin := true } else e)

theorem Core.unserve_only (n : Nat) (k : Core) (q : Nat) : k.unserve n q = { k with dq := (k.unserve n q).dq } := by
  unfold Core.unserve
  split <;> rfl

theorem Core.shtEnded_only (k : Core) (v : Serving) : k.shtEnded v = { k with dq := (k.shtEnded v).dq, cq := (k.shtEnded v).cq } := by
  unfold Core.shtEnded
  rw [Core.unserve_only v.word (k.unserve v.word v.outA), Core.unserve_only v.word k]
  rfl

/-- A serving whose entries both engines have popped leaves; with the last serving of its word the word is finished (R216). -/
theorem exec_servingRelease_popped {s : State} {c p : Nat} {v : Serving} {l : List Serving} (ha : s.Answers c p)
    (hw : (s.core p).working = true) (hl : (s.core p).sht.servs = v :: l) (hA : v.tiles * (64 / v.r) ≤ v.popA)
    (hB : v.tiles * (64 / v.r) ≤ v.popB) :
    exec (.servingRelease c) s = .next (s.setCore p (if l.any fun x => x.word = v.word then (s.core p).released v l
      else ((s.core p).released v l).shtEnded v)).rstBegin := by
  simp only [exec, execServingRelease]
  rw [State.onCore_answers _ ha]
  simp only [hl, hw, decide_eq_false (Nat.not_lt.mpr hA), decide_eq_false (Nat.not_lt.mpr hB), apply_ite (s.setCore p)]
  rfl

/-- No buffer of the shared tile register is of serving `v` any more, and the serving is counted. -/
theorem Core.released_effect (k : Core) (v : Serving) (l : List Serving) :
    (k.released v l).sht.servs = l ∧ (∀ b ∈ (k.released v l).sht.bufs, ∀ y ∈ b, ¬(y.word = v.word ∧ y.serving = v.num))
      ∧ (k.released v l).count 0x2900 = (k.count 0x2900 + 1) % 2 ^ 32 := by
  refine ⟨rfl, fun b hb y hy own => ?_, Core.count_bump_self ..⟩
  obtain ⟨b, -, rfl⟩ := List.mem_map.1 hb
  obtain ⟨x, -, kept⟩ := Option.bind_eq_some_iff.1 (Option.mem_def.1 hy)
  split at kept
  · cases kept
  · next other =>
    obtain rfl := Option.some.inj kept
    exact other own

/-- Settles O9, a word at a time. -/
theorem loadWordsPush : Obligations.LoadWordsPush := by
  refine ⟨?vec, ?pair, ?castBlock, ?castNext, ?sht, ?serve, ?release, ?xposeBlock, ?xposeNext⟩
  case vec =>
    rintro s c p i _ _ e x l h rfl rfl hr hs hx
    obtain ⟨t, run, core, word, t0, slice, -⟩ := State.putWord_ends (exec_ldVec_reads h hr hs hx) h.lt
    exact ⟨t, run, by rw [core, Core.dataQ_setWord, Core.dataQ_pushDq_self], word, t0, slice⟩
  case pair =>
    rintro s c p i _ _ _ e a b l m h rfl rfl rfl hr hr' hs hs' ha hb
    have ne : wOut e.word ≠ wOut e.word + 1 := (Nat.lt_succ_self _).ne
    obtain ⟨t, run, core, word, -⟩ := State.putWord_ends (exec_ldPair_reads h hr hr' hs hs' ha hb) h.lt
    refine ⟨t, run, ?_, ?_, word⟩
    · rw [core, Core.dataQ_setWord, Core.dataQ_pushDq_ne _ _ ne.symm, Core.dataQ_pushDq_self]
    · rw [core, Core.dataQ_setWord, Core.dataQ_pushDq_self, Core.dataQ_pushDq_ne _ _ ne]
  case castBlock =>
    rintro s c p i _ e rows h rfl hr hs hn hx
    obtain ⟨t, run, core, word, -⟩ := State.putWord_ends (exec_ldCast_block h hr hs hn hx) h.lt
    refine ⟨t, _, _, run, rfl, rfl, ?_, by rw [word]; rfl⟩
    rw [core, Core.dataQ_setWord, Core.dataQ_pushDq_self, castEnt_castRead rows hn]
  case castNext =>
    rintro s c p i _ e h rfl hr hs hn
    obtain ⟨t, run, core, word, -⟩ := State.putWord_ends (exec_ldCast_next h hr hs hn) h.lt
    exact ⟨t, run, by rw [core, Core.dataQ_setWord, Core.dataQ_pushDq_self, List.map_append]; rfl, word⟩
  case sht =>
    rintro s _ c p i _ e k r x h hk rfl hn hb hr hx rfl
    have words : ({ k with sht := x } : Core).words 2 = (s.core p).words 2 := by
      change k.words 2 = _
      rw [hk, Core.words_serve, Core.words_serve]
    obtain ⟨t, run, core, word, -⟩ := State.putWord_ends (exec_ldSht_row h hk hn hb hr hx) (words ▸ h.lt)
    exact ⟨t, run, by rw [core, Core.setWord_sht], by rw [core, Core.setWord_dq], by rw [word]; rfl⟩
  case serve =>
    intro k e v d z hv hw hr hd
    rw [Core.serve_pushes hv hw hr hd]
    exact congrArg DataQ.ents (Core.dataQ_pushDq_self ..)
  case release =>
    intro s c p v l ha hw hl hA hB
    have left : ∀ k : Core, k.sht = ((s.core p).released v l).sht → k.cnt = ((s.core p).released v l).cnt → k.sht.servs = l
        ∧ (∀ b ∈ k.sht.bufs, ∀ y ∈ b, ¬(y.word = v.word ∧ y.serving = v.num)) ∧ k.count 0x2900 = ((s.core p).count 0x2900 + 1) % 2 ^ 32 := by
      intro k sht cnt
      rw [Core.count, sht, cnt]
      exact Core.released_effect ..
    refine ⟨_, exec_servingRelease_popped ha hw hl hA hB, ?_⟩
    rw [State.core_rstBegin, State.core_setCore_self]
    split
    · exact left _ rfl rfl
    · exact left _ (by rw [Core.shtEnded_only]) (by rw [Core.shtEnded_only])
  case xposeBlock =>
    rintro s c p i _ e rows h rfl hr hs hn hx
    obtain ⟨t, run, core, word, -⟩ := State.putWord_ends (exec_xpose_block h hr hs hn hx) h.lt
    refine ⟨t, run, ?_, by rw [word]; rfl⟩
    rw [core, Core.dataQ_setWord, Core.dataQ_pushDq_self, List.map_append]
    simp [xposeEnt, Cqe.xposeRead, hn, Function.comp_def]
  case xposeNext =>
    rintro s c p i _ e h rfl hr hs hn
    obtain ⟨t, run, core, word, -⟩ := State.putWord_ends (exec_xpose_next h hr hs hn) h.lt
    exact ⟨t, run, by rw [core, Core.dataQ_setWord, Core.dataQ_pushDq_self, List.map_append]; rfl, by rw [word]; rfl⟩

end Sys2Proof.Machine
end

section
/-! Proofs of the statements of the control words (06): the words of the update unit, its commit and commit recovery (R198, R230, R235, R238 to R240,
R243, R244, R247, R248, R428). -/

namespace Sys2Proof.Machine

/-! ### What a whole write of an object leaves -/

/-- Two states differ at most in what a whole write of an object changes: slices and tiers with their poison, the object's entry, counters, error
bits, and the interrupt controller (R255, R277, R296, R311, R312). -/
def State.WholeOnly (s t : State) : Prop :=
  (t = { s with slice := t.slice, slicePz := t.slicePz, tier := t.tier, tierPz := t.tierPz, obj := { s.obj with table := t.obj.table }
                cores := t.cores, cnt := t.cnt, regs := t.regs, irq := t.irq, msixPba := t.msixPba, out := t.out, deliv := t.deliv })
    ∧ ∀ q, t.core q = { s.core q with cnt := (t.core q).cnt }

theorem State.WholeOnly.refl (s : State) : s.WholeOnly s := ⟨rfl, fun _ => rfl⟩

theorem State.WholeOnly.trans {s t u : State} (h : s.WholeOnly t) (k : t.WholeOnly u) : s.WholeOnly u := by
  refine ⟨?_, fun q => ?_⟩
  · rw [k.1, h.1]
  · rw [k.2 q, h.2 q]

theorem State.WriteOnly.wholeOnly {s t : State} (h : s.WriteOnly t) : s.WholeOnly t := by
  refine ⟨?_, h.2⟩
  rw [h.1]

theorem State.wholeOnly_bumpGen (s : State) (o : Nat) : s.WholeOnly (s.bumpGen o) := by
  unfold State.bumpGen
  simp only
  split
  · exact ⟨rfl, fun _ => rfl⟩
  · exact .refl s

theorem State.wholeOnly_wholeWrite (s : State) (o ofs : Nat) (d : List PByte) : s.WholeOnly (s.wholeWrite o ofs d) :=
  ((State.wholeOnly_bumpGen s o).trans (State.writeOnly_objWrite _ o ofs d).wholeOnly).trans (State.wholeOnly_bumpGen _ o)

/-! ### What an access of the update unit leaves -/

/-- Two cores differ at most in the staging pointer, UPD_DENIED, the lookaside and counters. -/
def Core.UpdOnly (c d : Core) : Prop :=
  d = { c with upd := { c.upd with stg := d.upd.stg, denied := d.upd.denied }, look := d.look, cnt := d.cnt }

/-- Two states have the same T0, and their cores differ at most in what accesses of the update unit change. -/
def State.UpdOnly (s t : State) : Prop := t.t0 = s.t0 ∧ ∀ q, (s.core q).UpdOnly (t.core q)

theorem State.UpdOnly.refl (s : State) : s.UpdOnly s := ⟨rfl, fun _ => rfl⟩

theorem State.UpdOnly.trans {s t u : State} (h : s.UpdOnly t) (k : t.UpdOnly u) : s.UpdOnly u := by
  refine ⟨k.1.trans h.1, fun q => ?_⟩
  unfold Core.UpdOnly
  rw [k.2 q, h.2 q]

theorem State.LookOnly.updOnly {s t : State} (h : s.LookOnly t) : s.UpdOnly t := by
  refine ⟨by rw [h.1], fun q => ?_⟩
  rw [h.2 q]
  rfl

theorem State.WholeOnly.updOnly {s t : State} (h : s.WholeOnly t) : s.UpdOnly t := by
  refine ⟨by rw [h.1], fun q => ?_⟩
  rw [h.2 q]
  rfl

theorem State.updOnly_modCore (s : State) (p : Nat) (f : Core → Core) (h : (s.core p).UpdOnly (f (s.core p))) : s.UpdOnly (s.modCore p f) := by
  refine ⟨rfl, fun q => ?_⟩
  by_cases e : p = q
  · subst e
    rwa [State.core_modCore_self]
  · rw [State.core_modCore_ne _ _ e]
    rfl

/-- A write at the staging pointer that is not refused (R234). -/
theorem State.updOnly_stagePut {s t : State} {p : Nat} {d : List Byte} (h : s.stagePut p d = .ok t) : s.UpdOnly t := by
  unfold State.stagePut at h
  simp only at h
  split at h
  · cases h
  · cases h
    exact (State.wholeOnly_wholeWrite ..).updOnly.trans (State.updOnly_modCore _ _ _ rfl)

/-- A read of the update unit that ends in its bytes (R238). -/
theorem State.updOnly_updRead {s t : State} {p obj ofs n : Nat} {e : Cqe} {b : List Byte} (h : s.updRead p e obj ofs n = .ok (b, t)) :
    s.UpdOnly t := by
  unfold State.updRead at h
  split at h
  · cases h
  · simp only at h
    split at h
    · cases h
    · obtain ⟨-, rfl⟩ := Prod.mk.inj (Except.ok.inj h)
      exact (State.lookOnly_coreRead ..).updOnly

/-! ### UPD.RUN (R235, R238, R240, R243, R244) -/

/-- The LAMB sums of a word's set with a group's weights and directions (R243). -/
def Upd.addLamb (u : Upd) (el k : Nat) (ws us : List W32) : Upd :=
  let a := ws.foldl (laccAdd el) (u.laccW.getD k 0, false)
  let b := us.foldl (laccAdd el) (u.laccU.getD k 0, false)
  { u with
    laccW := u.laccW.set k a.1
    laccU := u.laccU.set k b.1
    laccSat := (u.laccSat.set k (u.laccSat.getD k false || a.2)).set (4 + k) (u.laccSat.getD (4 + k) false || b.2) }

/-- The update unit after a group of word `e`: LAMB's sums, and idle after the last (R243). -/
def Upd.grouped (u : Upd) (el : Nat) (e : Cqe) (ws us : List W32) : Upd :=
  let x := if uOpt e.word = 4 then u.addLamb el (uSet e.word) ws us else u
  if e.n = wRep e.word then { x with phase := .idle } else x

/-- What the unit `x` after a group of word `e` keeps of the unit `u` that has staged it. -/
def Upd.Grouped (u : Upd) (e : Cqe) (x : Upd) : Prop :=
  x.stg = u.stg ∧ x.hp = u.hp ∧ (uOpt e.word ≠ 4 → x.laccW = u.laccW ∧ x.laccU = u.laccU) ∧ (e.n = wRep e.word → x.phase = .idle)

theorem Upd.grouped_grouped (u : Upd) (el : Nat) (e : Cqe) (ws us : List W32) : u.Grouped e (u.grouped el e ws us) := by
  unfold Upd.grouped
  refine ⟨?_, ?_, fun h => ?_, fun h => ?_⟩
  · split <;> split <;> rfl
  · split <;> split <;> rfl
  · rw [if_neg h]
    split <;> exact ⟨rfl, rfl⟩
  · rw [if_pos h]

/-- A core after a group: the unit as `x`, 32 parameters and the `bad` ones of them counted (R244). -/
def Core.groupDone (c : Core) (x : Upd) (bad : Nat) : Core := ((({ c with upd := x } : Core).bump 0x2500 32).bump 0x2508 bad).bump 0x250C bad

theorem Core.count_groupDone (c : Core) (x : Upd) (bad : Nat) :
    (c.groupDone x bad).count 0x2500 = (c.count 0x2500 + 32) % 2 ^ 32 ∧ (c.groupDone x bad).count 0x250C = (c.count 0x250C + bad) % 2 ^ 32 := by
  constructor
  · rw [Core.groupDone, Core.count_bump_ne _ _ (by decide), Core.count_bump_ne _ _ (by decide), Core.count_bump_self]
    rfl
  · rw [Core.groupDone, Core.count_bump_self, Core.count_bump_ne _ _ (by decide), Core.count_bump_ne _ _ (by decide)]
    rfl

/-- What a group stages of its parameters: the gradients `g`, weights and moments as read (R240). -/
def Core.groupOut (c : Core) (w : CWord) (g : List W32) (wb ms : List Byte) : List ParamOut :=
  (List.range 32).map fun j => optStep (uOpt w) (c.upd.hp.getD (uSet w) {}) (if uClip w then some c.upd.scale else none) (g.getD j 0)
    (((unpackBits 16 32 (numOf wb)).map (widen 0x0)).getD j 0) ((momRead (uMfmt w) (uOpt w) ms).1.getD j 0)
    ((momRead (uMfmt w) (uOpt w) ms).2.getD j 0)

/-- The record of a group: 32 directions, then the new moments (R235). -/
def groupRec (sq : Sequencer) (w : CWord) (q : Nat) (o : List ParamOut) : List Byte :=
  (o.flatMap fun y => bytesOf 4 y.u.toNat)
    ++ padTo (pad64 (momBytes (uMfmt w) (uOpt w))) (momWrite sq (uMfmt w) (uOpt w) (uMobj w) q (o.map ParamOut.m) (o.map ParamOut.v))

/-- A group whose header, reads and record go through. -/
theorem State.updGroup_stages {s s0 s1 s2 s3 : State} {p i : Nat} {e : Cqe} {g : List W32} {wb ms : List Byte} {o : List ParamOut}
    (h0 : (if e.n = 0 then s.stagePut p (runHeader ((s.core p).upd.hp.getD (uSet e.word) {}) e.word e.seqno) else .ok s) = .ok s0)
    (h1 : s0.updRead p e (uWobj e.word) (64 * (uStart e.word + e.n)) 64 = .ok (wb, s1))
    (h2 : s1.updRead p e (uMobj e.word) (momBytes (uMfmt e.word) (uOpt e.word) * (uStart e.word + e.n)) (momBytes (uMfmt e.word) (uOpt e.word))
      = .ok (ms, s2))
    (ho : o = (s.core p).groupOut e.word g wb ms)
    (h3 : s2.stagePut p (groupRec (s.core p).seq e.word (uStart e.word + e.n) o) = .ok s3) :
    s.UpdOnly s3 ∧ ∃ x, (s3.core p).upd.Grouped e x
      ∧ s.updGroup p i e g = (s3.setCore p ((s3.core p).groupDone x (o.filter ParamOut.bad).length)).tick p 8 i e (wRep e.word + 1) := by
  have begun : s.UpdOnly s0 := by
    split at h0
    · exact State.updOnly_stagePut h0
    · cases h0
      exact .refl s
  have read : s.UpdOnly s2 := (begun.trans (State.updOnly_updRead h1)).trans (State.updOnly_updRead h2)
  refine ⟨read.trans (State.updOnly_stagePut h3), _, Upd.grouped_grouped (s3.core p).upd (s3.core p).lnormE e
    ((unpackBits 16 32 (numOf wb)).map (widen 0x0)) (o.map ParamOut.u), ?_⟩
  have seq : (s2.core p).seq = (s.core p).seq := by rw [read.2 p]
  have scale : (s2.core p).upd.scale = (s.core p).upd.scale := by rw [read.2 p]
  subst ho
  unfold groupRec Core.groupOut at h3
  simp only [State.updGroup, h0, h1, h2, seq, scale, h3]
  rfl

/-! ### UPD.NORM (R239) -/

section UpdWords

variable {s : State} {c p i : Nat} {e : Cqe}

theorem exec_updRun_entry {x : DqEnt} {l : List DqEnt} (h : s.CurAt c p 8 2 i e) (hx : ((s.core p).dataQ (wIna e.word)).ents = x :: l)
    (hp : x.poison = false) (ht : s.updTagWait p (s.core p).stageObj (64 * (s.core p).upd.stg) = none) :
    exec (.updRun c) s = .next ((s.setCore p ((s.core p).dropDq (wIna e.word) 1)).updGroup p i e
      ((unpackBits 32 32 x.data.toNat).map (BitVec.ofNat 32))).rstBegin := by
  simp only [exec, execUpdRun]
  rw [State.onCur_ready h]
  simp only [hx, hp, ht]
  rfl

theorem exec_updNorm_clean {l : List DqEnt} (h : s.CurAt c p 8 3 i e) (hl : (s.core p).headDq (wIna e.word) 3 = some l)
    (hp : ∀ x ∈ l, x.poison = false) :
    exec (.updNorm c) s = .next ((s.setCore p { (s.core p).dropDq (wIna e.word) 3 with
      upd := (s.core p).upd.norm (feltOfBytes false ((l.flatMap fun x => bytesOf 128 x.data.toNat).take 260))
        (BitVec.ofNat 32 (wbits e.word 0 32)) }).putWord p 8 i { e with fin := true }).rstBegin := by
  have clean : l.any DqEnt.poison = false := by simpa using hp
  simp only [exec, execUpdNorm]
  rw [State.onCur_ready h]
  simp only [hl, clean]
  rfl

end UpdWords

/-- The global norm of a block of squares (R239). -/
def normOf (b : FeltBlk) : W32 := f32sqrt (toF32 (Fp.ofInt false (b.n.foldl (· + ·) 0) ((b.e : Int) - 151)))

theorem Upd.norm_ovf {u : Upd} {b : FeltBlk} (th : W32) (h : b.ovf = true) : u.norm b th = { u with normValid := false, normOvf := true } :=
  if_pos h

/-- The clip scale of a block without overflow (R239). -/
theorem Upd.norm_of_sum {u : Upd} {b : FeltBlk} (th : W32) (h : b.ovf = false) :
    u.norm b th = { u with
      normOvf := false, normNf := b.nf, gnorm := normOf b, normValid := true
      scale := if b.nf || f32eq (normOf b) 0 || !f32fin (normOf b) || f32nan th || f32le th 0 || !f32lt (f32div th (normOf b)) 0x3F800000
        then 0x3F800000 else f32div th (normOf b) } := by
  have scales (off lt : Bool) (q : W32) : (if off then 0x3F800000 else if lt then q else 0x3F800000) = if off || !lt then 0x3F800000 else q := by
    cases off <;> cases lt <;> rfl
  simp only [Upd.norm, h, Bool.false_eq_true, if_false, scales]
  rfl

/-! ### The commit (R230, R247, R248) -/

/-- A write of a commit is made whole, or refused and counted (R248). -/
theorem State.commitPut_cases (s : State) (p obj ofs : Nat) (d : List Byte) :
    s.commitPut p obj ofs d = s.wholeWrite obj ofs (d.map fun b => (b, false))
      ∨ s.commitPut p obj ofs d = s.modCore p fun c => ({ c with upd := { c.upd with denied := true } } : Core).bump 0x2524 1 := by
  unfold State.commitPut State.updWrite
  cases s.check (.core ((s.logical p).getD 0)) true false obj ofs d.length with
  | none => exact .inl rfl
  | some r => exact .inr rfl

theorem State.updOnly_commitPut (s : State) (p obj ofs : Nat) (d : List Byte) : s.UpdOnly (s.commitPut p obj ofs d) := by
  obtain h | h := s.commitPut_cases p obj ofs d
  · rw [h]
    exact (State.wholeOnly_wholeWrite ..).updOnly
  · rw [h]
    exact State.updOnly_modCore _ _ _ rfl

/-- A write of a commit leaves the update unit but for UPD_DENIED, and the shadows. -/
theorem State.commitPut_keeps (s : State) (p obj ofs : Nat) (d : List Byte) :
    ((s.commitPut p obj ofs d).core p).upd.phase = (s.core p).upd.phase ∧ ((s.commitPut p obj ofs d).core p).upd.stg = (s.core p).upd.stg
      ∧ (s.commitPut p obj ofs d).obj.shadows = s.obj.shadows := by
  obtain h | h := s.commitPut_cases p obj ofs d
  · obtain ⟨rest, cores⟩ := State.wholeOnly_wholeWrite s obj ofs (d.map fun b => (b, false))
    rw [h]
    exact ⟨by rw [cores p], by rw [cores p], by rw [rest]⟩
  · rw [h, State.core_modCore_self]
    exact ⟨rfl, rfl, rfl⟩

theorem exec_pinWaitRelease_begins {s u : State} {c p : Nat} (ha : s.Answers c p) (hph : (s.core p).upd.phase = .pinWait)
    (hu : s.makeShadows (s.core p).upd.touched = some u) :
    ∃ ofs d, exec (.pinWaitRelease c) s = .next ((u.modCore p fun c => { c with upd := { c.upd with phase := .commit } }).commitPut p
      (s.core p).stageObj ofs d).rstBegin := by
  refine ⟨64 * (s.core p).upd.stg, logHeader (s.core p).stepSeq.step, ?_⟩
  simp only [exec, execPinWaitRelease]
  rw [State.onCore_answers _ ha]
  have begun : s.beginCommit p = (u.modCore p fun c => { c with upd := { c.upd with phase := .commit } }).commitPut p
      (s.core p).stageObj (64 * (s.core p).upd.stg) (logHeader (s.core p).stepSeq.step) := by
    simp only [State.beginCommit, hu]
  have phase := (State.commitPut_keeps (u.modCore p fun c => { c with upd := { c.upd with phase := .commit } }) p (s.core p).stageObj
    (64 * (s.core p).upd.stg) (logHeader (s.core p).stepSeq.step)).1
  rw [State.core_modCore_self] at phase
  rw [if_neg (not_not.mpr hph), begun, if_neg (by rw [phase]; exact nofun)]

theorem exec_pinWaitRelease_waits {s : State} {c p : Nat} (ha : s.Answers c p) (hph : (s.core p).upd.phase = .pinWait)
    (hu : s.makeShadows (s.core p).upd.touched = none) :
    exec (.pinWaitRelease c) s = .next ((s.setCore p { s.core p with upd := { (s.core p).upd with phase := .pinWait } }).bumpCore p 0x251C 1).rstBegin := by
  simp only [exec, execPinWaitRelease]
  rw [State.onCore_answers _ ha]
  simp only [if_neg (not_not.mpr hph), State.beginCommit, hu, State.core_setCore_self, if_true]

/-! ### The report of a commit (R247, R252) -/

/-- Two states differ at most in what sending a packet changes: ports, free values, registers, counters, and the interrupt controller. -/
def State.LinkOnly (s t : State) : Prop := ({ s with fresh := t.fresh } : State).PortOnly t

theorem State.LinkOnly.trans {s t u : State} (h : s.LinkOnly t) (k : t.LinkOnly u) : s.LinkOnly u := by
  unfold State.LinkOnly State.PortOnly at *
  rw [k, h]

theorem State.PortOnly.linkOnly {s t : State} (h : s.PortOnly t) : s.LinkOnly t := by
  unfold State.LinkOnly State.PortOnly at *
  rw [h]

theorem State.LinkOnly.refl (s : State) : s.LinkOnly s := rfl

theorem State.linkOnly_emitGroups (s : State) (p : Nat) (l : List TxGroup) : s.LinkOnly (s.emitGroups p l) := by
  refine foldl_inv (fun t : State => s.LinkOnly t) _ (fun t g h => h.trans ?_) _ _ (.refl s)
  simp only
  split <;> exact .refl _

theorem State.linkOnly_setPort (s : State) (p : Nat) (x : Port) : s.LinkOnly (s.setPort p x) := rfl

theorem State.linkOnly_portRetrain (s : State) (p : Nat) : s.LinkOnly (s.portRetrain p) :=
  (State.PortOnly.trans (State.portOnly_modPort ..) (State.portOnly_portCount ..)).linkOnly

/-- A packet that leaves by port p, which is as `x` then. -/
theorem State.linkOnly_portGroups (s : State) (p n : Nat) (x : Port) (l : List TxGroup) :
    s.LinkOnly (((State.setPort { s with fresh := s.fresh + 1 } p x).portCount p 0x40 n).emitGroups p l) :=
  State.LinkOnly.trans (t := (State.setPort { s with fresh := s.fresh + 1 } p x).portCount p 0x40 n) rfl (State.linkOnly_emitGroups ..)

theorem State.linkOnly_portPut (s : State) (p : Nat) (k : Pkt) : s.LinkOnly (s.portPut p k) := by
  have counted (u : State) (b : Prop) [Decidable b] (n : Nat) : u.LinkOnly (if b then u.bump 0x340228 n else u) := by
    split <;> exact rfl
  unfold State.portPut
  simp only
  split
  · exact ((State.linkOnly_portGroups ..).trans (counted ..)).trans (State.linkOnly_portRetrain ..)
  · exact (State.linkOnly_portGroups ..).trans (counted ..)

theorem State.linkOnly_portPump (s : State) (p n : Nat) : s.LinkOnly (s.portPump p n) := by
  induction n generalizing s with
  | zero => exact .refl s
  | succ n ih =>
    unfold State.portPump
    simp only
    split
    · exact .refl s
    · split
      · split
        · exact .refl s
        · exact (State.portOnly_portCount ..).linkOnly
      · split
        · exact .refl s
        · split
          · exact .refl s
          · next x _ k _ _ => exact ((State.linkOnly_setPort ..).trans (State.linkOnly_portPut _ p k)).trans (ih _)

/-- Sending a packet of this device. -/
theorem State.linkOnly_hxSend (s : State) (h : PktHdr) (b : PktBody) : s.LinkOnly (s.hxSend h b) := by
  unfold State.hxSend State.hxRoute
  split
  · exact (State.portOnly_noRoute ..).linkOnly
  · exact State.LinkOnly.trans (State.portOnly_modPort ..).linkOnly (State.linkOnly_portPump ..)

theorem State.linkOnly_smCause (s : State) (n : Nat) : s.LinkOnly (s.smCause n) :=
  State.LinkOnly.trans (t := { s with regs := aset s.regs 0x8038 (aget 0 s.regs 0x8038 ||| (1 <<< n)) }) rfl
    (State.irqOnly_level ..).portOnly.linkOnly

/-- Two states differ at most in the step monitor and in what sending a packet changes; the cores that commit are the same. -/
def State.ReportOnly (s t : State) : Prop := ({ s with sm := t.sm } : State).LinkOnly t ∧ t.sm.commits = s.sm.commits

theorem State.LinkOnly.reportOnly {s t : State} (h : s.LinkOnly t) : s.ReportOnly t := by
  unfold State.ReportOnly State.LinkOnly State.PortOnly at *
  rw [h]
  exact ⟨rfl, rfl⟩

theorem State.reportOnly_devCommitted (s : State) (dev : Nat) : s.ReportOnly (s.devCommitted dev) := by
  unfold State.devCommitted
  split
  · exact ⟨rfl, rfl⟩
  · simp only
    split
    · obtain ⟨rest, commits⟩ := (State.linkOnly_smCause { s with sm := { s.sm with commitDevs := sdel s.sm.commitDevs dev } } 0).reportOnly
      exact ⟨rest, commits⟩
    · exact ⟨rfl, rfl⟩

theorem State.reportOnly_ownCommitted (s : State) : s.ReportOnly s.ownCommitted := by
  unfold State.ownCommitted
  split
  · exact State.reportOnly_devCommitted s _
  · exact ((State.linkOnly_smCause s 0).trans (State.linkOnly_hxSend ..)).reportOnly

/-- The core that reports commits no more; else the step monitor and the links change at most (R247). -/
theorem State.coreCommitted_only (s : State) (p : Nat) :
    ({ s with sm := { s.sm with commits := sdel s.sm.commits p } } : State).ReportOnly (s.coreCommitted p) := by
  unfold State.coreCommitted
  simp only
  split
  · exact State.reportOnly_ownCommitted _
  · exact ⟨rfl, rfl⟩

theorem State.ReportOnly.frame {s t : State} (h : s.ReportOnly t) :
    t.cores = s.cores ∧ t.t0 = s.t0 ∧ t.slice = s.slice ∧ t.tier = s.tier ∧ t.obj = s.obj := by
  obtain ⟨h, -⟩ := h
  unfold State.LinkOnly State.PortOnly at h
  rw [h]
  exact ⟨rfl, rfl, rfl, rfl, rfl⟩

/-! ### The end of a commit (R166, R247, R248) -/

/-- The core whose commit has ended: its step's STEP.CLOSE is told that it is committed (R166, R247). -/
def Core.commitEnded (c : Core) : Core :=
  (({ c with upd := { c.upd with stg := 0, phase := .idle, touched := [] } } : Core).bump 0x2510 1).modSeq fun q =>
    { q with cur := q.cur.map fun u => if u.sent then { u with outcome := some 1 } else u }

theorem State.endCommit_eq {s : State} {p : Nat} (h : (s.core p).pre.contCommit = false) :
    ∃ b, s.endCommit p = State.coreCommitted { s.modCore p Core.commitEnded with rneUsed := b } p := by
  refine ⟨s.rneUsed || s.rneInForce (s.core p).stepSeq, ?_⟩
  simp [State.endCommit, State.modCore, Core.tellClose, Core.bump, h, Core.modSeq]
  rfl

theorem exec_commitDone_ends {s s1 u : State} {c p : Nat} {x : CommitPos} (ha : s.Answers c p) (hph : (s.core p).upd.phase = .commit)
    (ht : s.updTagWait p (s.core p).stageObj (64 * (s.core p).upd.stg) = none) (hm : s.makeShadows (s.core p).upd.touched = some s1)
    (hr : s1.replay p = (u, x)) (hp : x.poison = false) (hs : x.stop = none) :
    exec (.commitDone c) s = .next (u.endCommit p).rstBegin := by
  simp only [exec, execCommitDone]
  rw [State.onCore_answers _ ha]
  simp only [if_neg (not_not.mpr hph), ht, hm, hr, hs, hp]
  rfl

/-! ### Commit recovery (R428) -/

theorem exec_rcmtGo_starts {s : State} {c p : Nat} (ha : s.Answers c p) (hst : (s.core p).seq.state = .stopped)
    (hph : (s.core p).upd.phase = .idle) (hr : (s.core p).rcmt.running = false) :
    exec (.rcmtGo c) s = .next (s.setCore p { s.core p with rcmt := { running := true } }).rstBegin := by
  simp only [exec, execRcmtGo]
  rw [State.onCore_answers _ ha]
  simp [hst, hph, hr]

theorem exec_rcmtGo_refused {s : State} {c p : Nat} (ha : s.Answers c p)
    (h : (s.core p).seq.state ≠ .stopped ∨ (s.core p).upd.phase ≠ .idle ∨ (s.core p).rcmt.running = true) :
    exec (.rcmtGo c) s = .next (s.setCore p { s.core p with rcmt := { (s.core p).rcmt with err := true } }).rstBegin := by
  simp only [exec, execRcmtGo]
  rw [State.onCore_answers _ ha, if_neg]
  simp only [Bool.and_eq_true, decide_eq_true_eq, Bool.not_eq_true', not_and_or]
  simpa [or_assoc] using h

/-- Two states have the same T0, and core p the same sequencer. -/
def State.RecoverOnly (p : Nat) (s t : State) : Prop := t.t0 = s.t0 ∧ (t.core p).seq = (s.core p).seq

theorem State.RecoverOnly.trans {p : Nat} {s t u : State} (h : s.RecoverOnly p t) (k : t.RecoverOnly p u) : s.RecoverOnly p u :=
  ⟨k.1.trans h.1, k.2.trans h.2⟩

theorem State.UpdOnly.recoverOnly {s t : State} (h : s.UpdOnly t) (p : Nat) : s.RecoverOnly p t :=
  ⟨h.1, by rw [h.2 p]⟩

theorem State.recoverOnly_modCore (s : State) (p : Nat) (f : Core → Core) (h : (f (s.core p)).seq = (s.core p).seq) :
    s.RecoverOnly p (s.modCore p f) :=
  ⟨rfl, by rw [State.core_modCore_self, h]⟩

theorem State.recoverOnly_foldl {α : Type} {p : Nat} {f : State → α → State} (h : ∀ (t : State) (x : α), t.RecoverOnly p (f t x)) (l : List α) (s : State) :
    s.RecoverOnly p (l.foldl f s) :=
  foldl_inv (fun t : State => s.RecoverOnly p t) f (fun t x k => k.trans (h t x)) l s ⟨rfl, rfl⟩

/-- A group that is recovered: writes of the update unit, reads, and the count of groups. -/
theorem State.recoverOnly_rcmtGroup (s : State) (p stage : Nat) (sq : Sequencer) (ent : Option (Nat × Nat × List Byte × List Byte)) (r : StageRun)
    (q : Nat) (s0 : State) : s.RecoverOnly p (s.rcmtGroup p stage sq ent r q s0) := by
  have put (t : State) (obj ofs : Nat) (d : List Byte) : t.RecoverOnly p (t.commitPut p obj ofs d) := (State.updOnly_commitPut ..).recoverOnly p
  have read (t : State) (obj ofs n : Nat) : t.RecoverOnly p (t.objRead obj ofs n).2 :=
    (State.readOnly_objRead ..).lookOnly.updOnly.recoverOnly p
  cases ent with
  | some x =>
    exact ((put s _ _ _).trans (put _ _ _ _)).trans (State.recoverOnly_modCore _ p _ rfl)
  | none => exact (((read s _ _ _).trans (read _ _ _ _)).trans (put _ _ _ _)).trans (put _ _ _ _)

/-- Cores that report keep every core and T0. -/
theorem State.coreCommitteds_frame (l : List Nat) (s : State) :
    (l.foldl State.coreCommitted s).cores = s.cores ∧ (l.foldl State.coreCommitted s).t0 = s.t0 := by
  refine foldl_inv (fun t : State => t.cores = s.cores ∧ t.t0 = s.t0) _ (fun (t : State) p h => ?_) l s ⟨rfl, rfl⟩
  obtain ⟨cores, t0, -⟩ := (t.coreCommitted_only p).frame
  exact ⟨cores.trans h.1, t0.trans h.2⟩

/-- The end of a recovery, after writes that give the state `t`: the cores `l` report. -/
theorem State.RecoverOnly.ended {p : Nat} {s t : State} (h : s.RecoverOnly p t) (l : List Nat) (u : State)
    (hu : u = l.foldl State.coreCommitted (t.modCore p fun c => { c with rcmt := { c.rcmt with running := false, done := true } })) :
    (u.core p).rcmt.running = false ∧ (u.core p).rcmt.done = true ∧ (u.core p).seq = (s.core p).seq ∧ u.t0 = s.t0 := by
  obtain ⟨cores, t0⟩ := State.coreCommitteds_frame l (t.modCore p fun c => { c with rcmt := { c.rcmt with running := false, done := true } })
  rw [hu, State.core_congr cores, t0, State.core_modCore_self]
  exact ⟨rfl, rfl, h.2, h.1⟩

theorem exec_rcmtDone_ends {s : State} {c p : Nat} (ha : s.Answers c p) (hr : (s.core p).rcmt.running = true) :
    ∃ t, exec (.rcmtDone c) s = .next t ∧ (t.core p).rcmt.running = false ∧ (t.core p).rcmt.done = true ∧ (t.core p).seq = (s.core p).seq
      ∧ t.t0 = s.t0 := by
  simp only [exec, execRcmtDone]
  rw [State.onCore_answers _ ha]
  refine ⟨_, rfl, ?_⟩
  simp only [hr, Bool.not_true, Bool.false_eq_true, if_false, State.core_rstBegin, State.rstBegin_t0]
  refine State.RecoverOnly.ended (State.RecoverOnly.trans (State.recoverOnly_foldl ?_ _ s) (State.recoverOnly_foldl ?_ _ _)) _ _ rfl
  · exact fun t x => State.recoverOnly_rcmtGroup ..
  · exact fun t x => ⟨rfl, rfl⟩

/-- Settles O18, a clause at a time. -/
theorem updateStagesAndCommits : Obligations.UpdateStagesAndCommits := by
  refine ⟨?run, ?norm, ?begins, ?waits, ?commit, ?go, ?refused, ?done⟩
  case run =>
    rintro s s0 s1 s2 s3 c p i _ _ _ e _ x l _ wb ms _ _ h rfl hx hp ht rfl rfl rfl h0 h1 h2 rfl rfl h3 rfl
    have core := State.core_setCore_self s p ((s.core p).dropDq (wIna e.word) 1)
    obtain ⟨staged, y, ⟨stg, hps, lamb, idle⟩, group⟩ := State.updGroup_stages (s := s.setCore p ((s.core p).dropDq (wIna e.word) 1)) (p := p)
      (i := i) (g := (unpackBits 32 32 x.data.toNat).map (BitVec.ofNat 32)) (by rw [core]; exact h0) h1 h2 rfl (by rw [core]; exact h3)
    have only := staged.2 p
    rw [core] at group only
    have run := exec_updRun_entry h hx hp ht
    rw [group, State.tick_succ] at run
    have words : (s3.core p).words 8 = (s.core p).words 8 := by rw [only]; rfl
    have entries : ((s3.core p).dataQ (wIna e.word)).ents = l := by
      rw [only]
      change (((s.core p).dropDq (wIna e.word) 1).dataQ (wIna e.word)).ents = l
      rw [Core.dataQ_dropDq_self, hx]
      rfl
    have upd : (s3.core p).upd.hp = (s.core p).upd.hp ∧ (s3.core p).upd.laccW = (s.core p).upd.laccW
        ∧ (s3.core p).upd.laccU = (s.core p).upd.laccU := by
      rw [only]
      exact ⟨rfl, rfl, rfl⟩
    obtain ⟨hp, laccW, laccU⟩ := upd
    obtain ⟨t, run, core, word, t0, -, tier, -⟩ := State.putWord_ends run (by change i < ((s3.core p).words 8).length; rw [words]; exact h.lt)
    have counts := Core.count_groupDone (s3.core p) y
    refine ⟨t, run, ?_, tier, t0.trans staged.1, ?_, word, ?_, ?_, ?_, fun h4 => ?_, fun hn => ?_⟩
    · rw [core]
      exact entries
    · rw [core]
      exact stg
    · rw [core]
      exact (counts _).1
    · rw [core]
      exact (counts _).2
    · rw [core]
      exact hps.trans hp
    · rw [core]
      exact ⟨(lamb h4).1.trans laccW, (lamb h4).2.trans laccU⟩
    · rw [core]
      exact idle hn
  case norm =>
    rintro s c p i e l b g th h hl hp rfl rfl rfl
    obtain ⟨t, run, core, word, -⟩ := State.putWord_ends (exec_updNorm_clean h hl hp) h.lt
    refine ⟨t, run, State.finished_of_word word rfl, by rw [core, Core.setWord_dq], fun ho => ?_, fun ho => ?_⟩
    · rw [core, Core.setWord_upd, Upd.norm_ovf _ ho]
    · rw [core, Core.setWord_upd, Upd.norm_of_sum _ ho]
      exact ⟨rfl, rfl, rfl, rfl, rfl, rfl⟩
  case begins =>
    intro s u c p ha hph hu
    obtain ⟨ofs, d, run⟩ := exec_pinWaitRelease_begins ha hph hu
    obtain ⟨phase, stg, shadows⟩ := (u.modCore p fun c => { c with upd := { c.upd with phase := .commit } }).commitPut_keeps p (s.core p).stageObj
      ofs d
    refine ⟨_, run, ?_, ?_, ?_⟩
    · rw [State.core_rstBegin, phase, State.core_modCore_self]
    · rw [State.core_rstBegin, stg, State.core_modCore_self]
    · rw [State.rstBegin_obj, shadows]
      rfl
  case waits =>
    intro s c p ha hph hu
    refine ⟨_, exec_pinWaitRelease_waits ha hph hu, ?_, ?_, State.rstBegin_obj _, State.rstBegin_tier _⟩
    · rw [State.core_rstBegin, State.bumpCore, State.core_modCore_self, State.core_setCore_self, ← hph]
      rfl
    · rw [State.core_rstBegin, State.bumpCore, State.core_modCore_self, State.core_setCore_self, Core.count_bump_self]
      rfl
  case commit =>
    intro s s1 u c p x ha hph ht hm hr hp hs hc
    obtain ⟨b, ended⟩ := State.endCommit_eq hc
    have run := exec_commitDone_ends ha hph ht hm hr hp hs
    rw [ended] at run
    have reported := State.coreCommitted_only { u.modCore p Core.commitEnded with rneUsed := b } p
    obtain ⟨cores, -, slice, tier, obj⟩ := reported.frame
    have core : ((State.coreCommitted { u.modCore p Core.commitEnded with rneUsed := b } p).rstBegin.core p) = (u.core p).commitEnded := by
      rw [State.core_rstBegin, State.core_congr cores]
      exact State.core_modCore_self ..
    refine ⟨_, run, ?_, ?_, ?_, ?_, fun y hy hsent => ?_, ?_, ?_, ?_, ?_⟩
    · rw [core]; rfl
    · rw [core]; rfl
    · rw [core]; rfl
    · rw [core]
      exact Core.count_bump_self ..
    · rw [core]
      simp [Core.commitEnded, hy, hsent]
    · rw [State.rstBegin_tier, tier]; rfl
    · rw [State.rstBegin_slice, slice]; rfl
    · rw [State.rstBegin_obj, obj]; rfl
    · rw [State.rstBegin_sm, reported.2]; rfl
  case go =>
    intro s c p ha hst hph hr
    exact ⟨_, exec_rcmtGo_starts ha hst hph hr, by rw [State.core_rstBegin, State.core_setCore_self]⟩
  case refused =>
    intro s c p ha h
    exact ⟨_, exec_rcmtGo_refused ha h, by rw [State.core_rstBegin, State.core_setCore_self]⟩
  case done => exact fun s c p => exec_rcmtDone_ends

end Sys2Proof.Machine
end

section
/-! Proofs of the statements of the control words (06): the words of the exchange that put, bind and forward (R199, R281 to R284, R346). -/

namespace Sys2Proof.Machine

/-! ### Handles that are popped (R283) -/

theorem Core.ents_of_headHandle {c : Core} {q unit seqno d : Nat} {x : HqEnt} (h : c.headHandle q unit seqno d = .ok x) :
    ∃ l, (c.handleQ q).ents = x :: l := by
  unfold Core.headHandle at h
  split at h
  · cases h
  · next y l hl =>
    simp only at h
    split at h
    · cases h
    · split at h
      · cases h
      · split at h
        · cases h
        · cases h
          exact ⟨l, hl⟩

/-- A popped handle leaves its queue and is held; a look-ahead one is counted. -/
theorem Core.popHandle_only {c : Core} {q : Nat} {x : HqEnt} {l : List HqEnt} (h : (c.handleQ q).ents = x :: l) :
    c.popHandle q = { c with hq := (c.setHandleQ q { c.handleQ q with ents := l }).hq, heldH := c.heldH ++ [hIdx x.h]
                             cnt := (c.popHandle q).cnt } := by
  simp only [Core.popHandle, h]
  split <;> rfl

theorem Core.count_popHandle {c : Core} {q o : Nat} (h : cLa q 1 ≠ o) : (c.popHandle q).count o = c.count o := by
  unfold Core.popHandle
  simp only
  split
  · rfl
  · split
    · exact Core.count_bump_ne _ _ h
    · rfl

/-- Every queue but the popped one is as it was, and the popped one has lost its head. -/
theorem Core.handleQ_popHandle {c : Core} {q : Nat} {x : HqEnt} {l : List HqEnt} (h : (c.handleQ q).ents = x :: l) (r : Nat) :
    ((c.popHandle q).handleQ r).send = (c.handleQ r).send
      ∧ ((c.popHandle q).handleQ r).ents = if q = r then (c.handleQ q).ents.drop 1 else (c.handleQ r).ents := by
  rw [Core.popHandle_only h]
  change ((c.setHandleQ q { c.handleQ q with ents := l }).handleQ r).send = _ ∧ ((c.setHandleQ q { c.handleQ q with ents := l }).handleQ r).ents = _
  by_cases e : q = r
  · subst e
    simp [h]
  · simp [Core.handleQ_setHandleQ_ne _ _ e, e]

theorem Core.words_popHandle {c : Core} {q : Nat} {x : HqEnt} {l : List HqEnt} (h : (c.handleQ q).ents = x :: l) (r : Nat) :
    (c.popHandle q).words r = c.words r := by
  rw [Core.popHandle_only h]
  rfl

/-- The LA counters of the handle queues end before the credit waits (R293). -/
theorem cLa_ne_creditWait (w : CWord) (n : Nat) : cLa (wbits w n 3) 1 ≠ 0x3A98 := by
  have bound : wbits w n 3 < 2 ^ 3 := Nat.mod_lt _ (by decide)
  unfold cLa
  omega

/-! ### EX.PUT (R282) -/

section ExchangeWords

variable {s : State} {c p i : Nat} {e : Cqe}

/-- A put to a core of this device, its ranges in their spaces and its source clean. -/
theorem exec_exPut_local {n : Nat} (h : s.WordAt c p 9 1 i e) (h0 : e.n = 0) (hn : n = (wbits e.word 206 16 + 1) * 64)
    (hs : wbits e.word 239 17 * 64 + n ≤ spaceSize (wbits e.word 53 1)) (hd : wbits e.word 222 17 * 64 + n ≤ spaceSize (wbits e.word 52 1))
    (hr : (s.localRead p (wbits e.word 53 1) (wbits e.word 239 17 * 64) n).2 = false) (hl : s.isLocalDev (wbits e.word 54 8) = true) :
    exec (.exPut c i) s = .next ((s.putWord p 9 i { e with n := 1, segs := 1 }).send (.put p e.seqno (wbits e.word 62 10) (wbits e.word 52 1)
      (wbits e.word 222 17 * 64) (s.localRead p (wbits e.word 53 1) (wbits e.word 239 17 * 64) n).1
      (if wbit e.word 46 then some (wbits e.word 47 5) else none))).rstBegin := by
  subst hn
  have dev : xDdev e.word = wbits e.word 54 8 := by simp [xDdev, h.op_eq]
  have core : xDcore e.word = wbits e.word 62 10 := by simp [xDcore, h.op_eq]
  have dbar : xDbar e.word = if wbit e.word 46 then some (wbits e.word 47 5) else none := by simp [xDbar, h.op_eq]
  simp only [exec, execExPut]
  rw [State.onWord_ready h]
  simp only [dev, core, dbar, if_neg (not_not.mpr h0), if_neg (Nat.not_lt.mpr hs), if_neg (Nat.not_lt.mpr hd), hr, hl]
  rfl

/-! ### EX.HBIND (R283) -/

theorem Core.reserveFor_length {k d : Core} {q : Nat} {l : List Nat} (h : k.reserveFor q = some (l, d)) : l.length = k.hqCredits q := by
  unfold Core.reserveFor at h
  simp only at h
  split at h
  · cases h
  · next room =>
    obtain ⟨rfl, -⟩ := Prod.mk.inj (Option.some.inj h)
    rw [List.length_take, Nat.min_eq_left (Nat.not_lt.mp room)]

theorem Core.reserveFor_only {k d : Core} {q : Nat} {l : List Nat} (h : k.reserveFor q = some (l, d)) : d = { k with pools := d.pools } := by
  unfold Core.reserveFor at h
  simp only at h
  split at h
  · cases h
  · obtain ⟨-, rfl⟩ := Prod.mk.inj (Option.some.inj h)
    rfl

/-- The order of binding of a core's next link (R284). -/
def Core.bindOrder (k : Core) : Nat :=
  k.hq.foldl (fun n y => match y.2.recv with
    | some r => max n (r.order + 1)
    | none => n) 0

/-- The receiving end that an EX.HBIND makes with the handles `l` (R199, R283). -/
def recvEndOf (k : Core) (w : CWord) (l : List Nat) : RecvEnd :=
  { core := wbits w 58 10, dev := wbits w 50 8, rhq := wbits w 47 3, c := l.length, pool := bitsOf (k.hqCfg (wbits w 69 3)) 7 4, reserved := l
    order := k.bindOrder }

/-- The sending end that an EX.HBIND makes with credits that came before it (R199, R283; log 48). -/
def sendEndOf (w : CWord) (early : Nat) : SendEnd :=
  { core := wbits w 58 10, dev := wbits w 50 8, rhq := wbits w 47 3, credits := early, retained := [] }

theorem exec_exHbind_receives {l : List Nat} {k : Core} (h : s.WordAt c p 9 2 i e) (hd : wbit e.word 68 = true)
    (hb : (s.core p).exchBlocked i e = false) (hk : (s.core p).reserveFor (wbits e.word 69 3) = some (l, k)) :
    exec (.exHbind c i) s = .next (((s.setCore p (k.setHandleQ (wbits e.word 69 3) { (s.core p).handleQ (wbits e.word 69 3) with
      recv := some (recvEndOf k e.word l) })).sendCredit p (wbits e.word 69 3) l.length).putWord p 9 i { e with fin := true }).rstBegin := by
  have dev : xDdev e.word = wbits e.word 50 8 := by simp [xDdev, h.op_eq]
  have core : xDcore e.word = wbits e.word 58 10 := by simp [xDcore, h.op_eq]
  simp only [exec, execExHbind]
  rw [State.onWord_ready h]
  simp only [hb, xDir, hd, xHq, hk, dev, core]
  rfl

/-- Credits of a multicast group whose source binds (log 48). -/
def State.bindGroup (s : State) (c q : Nat) : State :=
  match s.mcGroup c q with
  | some g => { s with mcs := aset s.mcs g { cred := if (aget ({} : McSend) s.mcs g).mseq = 0 then (aget ({} : McSend) s.mcs g).cred else [] } }
  | none => s

theorem State.bindGroup_only (s : State) (c q : Nat) : s.bindGroup c q = { s with mcs := (s.bindGroup c q).mcs } := by
  unfold State.bindGroup
  split <;> rfl

theorem exec_exHbind_sends (h : s.WordAt c p 9 2 i e) (hd : wbit e.word 68 = false) (hb : (s.core p).exchBlocked i e = false) :
    exec (.exHbind c i) s = .next (((s.setCore p ((s.core p).setHandleQ (wbits e.word 69 3) { (s.core p).handleQ (wbits e.word 69 3) with
      send := some (sendEndOf e.word ((s.core p).handleQ (wbits e.word 69 3)).early), early := 0 })).bindGroup c (wbits e.word 69 3)).putWord
        p 9 i { e with fin := true }).rstBegin := by
  have dev : xDdev e.word = wbits e.word 50 8 := by simp [xDdev, h.op_eq]
  have core : xDcore e.word = wbits e.word 58 10 := by simp [xDcore, h.op_eq]
  simp only [exec, execExHbind]
  rw [State.onWord_ready h]
  simp only [hb, xDir, hd, xHq, dev, core]
  rfl

/-- The credits of a receiving end that has just been bound go to its sender (R283). -/
theorem State.mesh_sendCredit {s : State} {p q : Nat} {r : RecvEnd} (n : Nat) (h : ((s.core p).handleQ q).recv = some r) :
    (∀ sp, s.isLocalDev r.dev = true → s.phys r.core = some sp →
        (s.sendCredit p q n).mesh = s.mesh ++ [.credit ((s.logical p).getD 0x3FF) sp r.rhq n])
      ∧ (s.isLocalDev r.dev = false → (s.sendCredit p q n).mesh = s.mesh ++ [.rcredit p r.dev r.core r.rhq n]) := by
  constructor
  · intro sp hl hs
    simp [State.sendCredit, h, hl, hs]
  · intro hl
    simp [State.sendCredit, h, hl]

/-! ### EX.HFWD (R283, R346) -/

theorem Core.exchAhead_congr {c d : Core} {i : Nat} {e f : Cqe} {uses : Cqe → List (Bool × Nat)} (hw : d.words 9 = c.words 9)
    (hu : uses f = uses e) : d.exchAhead i f uses = c.exchAhead i e uses := by
  rw [Core.exchAhead, Core.exchAhead, hw, hu]

/-- The sends that an EX.HFWD has still to make do not depend on the handle that it holds. -/
theorem exchPushes_vals {e : Cqe} (h : wOp e.word = 3) (v : List Nat) : exchPushes { e with vals := v } = exchPushes e := by
  simp [exchPushes, h]

/-- The state with the handle `x` popped by word i of an EX.HFWD, which keeps it with its epoch (R283). -/
def State.hfwdPopped (s : State) (p i : Nat) (e : Cqe) (x : HqEnt) : State :=
  (s.setCore p ((s.core p).popHandle (wbits e.word 69 3))).putWord p 9 i { e with vals := [x.h, x.epoch] }

theorem exec_exHfwd_pops {x : HqEnt} {f : SendEnd} (h : s.WordAt c p 9 3 i e) (hn : e.n ≤ wRep e.word) (hv : e.vals = [])
    (hb : (s.core p).exchBlocked i e = false) (hf : ((s.core p).handleQ (wbits e.word 66 3)).send = some f)
    (hx : (s.core p).headHandle (wbits e.word 69 3) 9 e.seqno (if e.n = 0 then wbits e.word 62 4 else 0) = .ok x) :
    exec (.exHfwd c i) s
      = .next ((s.hfwdPopped p i e x).hfwdSend c p i { e with vals := [x.h, x.epoch] } f x.h x.epoch).rstBegin := by
  obtain ⟨pops, pushes⟩ := Bool.or_eq_false_iff.1 hb
  obtain ⟨l, hl⟩ := Core.ents_of_headHandle hx
  have later : ((s.core p).popHandle (wbits e.word 69 3)).exchAhead i { e with vals := [x.h, x.epoch] } exchPushes = false := by
    rw [Core.exchAhead_congr (Core.words_popHandle hl 9) (exchPushes_vals h.op_eq _), pushes]
  simp only [exec, execExHfwd]
  rw [State.onWord_ready h]
  simp only [xHout, xHq, xTokH, hf, hv, decide_eq_false (Nat.not_lt.mpr hn), pops, hx, later]
  rfl

theorem exec_exHfwd_held {f : SendEnd} {v ep : Nat} (h : s.WordAt c p 9 3 i e) (hv : e.vals = [v, ep])
    (hb : (s.core p).exchAhead i e exchPushes = false) (hf : ((s.core p).handleQ (wbits e.word 66 3)).send = some f) :
    exec (.exHfwd c i) s = .next (s.hfwdSend c p i e f v ep).rstBegin := by
  simp only [exec, execExHfwd]
  rw [State.onWord_ready h]
  simp only [xHout, hf, hv, hb]
  rfl

end ExchangeWords

/-- The core of an EX.HFWD whose buffer has been sent over the link of queue q with one credit of `f` (R283). -/
def Core.hfwdSent (k : Core) (i q v : Nat) (e : Cqe) (f : SendEnd) : Core :=
  ({ k.setHandleQ q { k.handleQ q with send := some { f with credits := f.credits - 1 } } with
    heldH := erase1 k.heldH (hIdx v), transit := k.transit ++ [hIdx v] } : Core).setWord 9 i { e with n := e.n + 1, segs := e.segs + 1, vals := [] }

theorem Core.hfwdSent_effect {k : Core} {i : Nat} (q v : Nat) (e : Cqe) (f : SendEnd) (hi : i < (k.words 9).length) :
    ((k.hfwdSent i q v e f).words 9)[i]? = some { e with n := e.n + 1, segs := e.segs + 1, vals := [] }
      ∧ ((k.hfwdSent i q v e f).handleQ q).send = some { f with credits := f.credits - 1 }
      ∧ (∀ r, ((k.hfwdSent i q v e f).handleQ r).ents = (k.handleQ r).ents) ∧ hIdx v ∈ (k.hfwdSent i q v e f).transit := by
  have queues (r : Nat) : (k.hfwdSent i q v e f).handleQ r
      = (k.setHandleQ q { k.handleQ q with send := some { f with credits := f.credits - 1 } }).handleQ r := rfl
  refine ⟨?_, ?_, fun r => ?_, List.mem_append_right _ (List.mem_singleton.2 rfl)⟩
  · rw [Core.hfwdSent, Core.setWord, Core.words_setWords_self]
    exact List.getElem?_set_self hi
  · rw [queues, Core.handleQ_setHandleQ_self]
  · rw [queues]
    by_cases h : q = r
    · rw [h, Core.handleQ_setHandleQ_self]
    · rw [Core.handleQ_setHandleQ_ne _ _ h]

/-- A buffer that is sent over a link on this device with a credit. -/
theorem State.hfwdSend_local {s : State} {c p i : Nat} {e : Cqe} {f : SendEnd} {v ep n : Nat} {b : Nat × Nat × Nat} (ho : wOp e.word = 3)
    (hb : b = (s.core p).buffer v) (hn : n = (wbits e.word 46 16 + 1) * 64) (hs : n ≤ b.2.2) (hr : b.2.1 + n ≤ spaceSize b.1)
    (hz : (s.localRead p b.1 b.2.1 n).2 = false) (hg : s.mcGroup c (wbits e.word 66 3) = none) (hc : f.credits ≠ 0)
    (hl : s.isLocalDev f.dev = true) :
    (s.hfwdSend c p i e f v ep).core p = (s.core p).hfwdSent i (wbits e.word 66 3) v e f
      ∧ (s.hfwdSend c p i e f v ep).mesh = s.mesh ++ [.handle p e.seqno (wbits e.word 66 3) v (wbit e.word 39) f.core f.rhq ep
          (s.localRead p b.1 b.2.1 n).1 (if wbit e.word 40 then some (wbits e.word 41 5) else none)]
      ∧ (s.hfwdSend c p i e f v ep).t0 = s.t0 ∧ (s.hfwdSend c p i e f v ep).slice = s.slice := by
  subst hb hn
  have dbar : xDbar e.word = if wbit e.word 40 then some (wbits e.word 41 5) else none := by simp [xDbar, ho]
  have sent : s.hfwdSend c p i e f v ep = ((s.setCore p ((s.core p).setHandleQ (wbits e.word 66 3) { (s.core p).handleQ (wbits e.word 66 3) with
      send := some { f with credits := f.credits - 1 } })).handleSent p i e v).send (.handle p e.seqno (wbits e.word 66 3) v (wbit e.word 39) f.core
        f.rhq ep (s.localRead p ((s.core p).buffer v).1 ((s.core p).buffer v).2.1 ((wbits e.word 46 16 + 1) * 64)).1
        (if wbit e.word 40 then some (wbits e.word 41 5) else none)) := by
    simp only [State.hfwdSend, xFwdLen, xHout, xRet, dbar, Nat.not_lt.mpr hs, Nat.not_lt.mpr hr, decide_false, hg, if_neg hc, hz, Bool.or_false,
      Bool.false_eq_true, if_false]
    exact if_pos hl
  rw [sent]
  refine ⟨?_, rfl, State.send_t0 .., State.send_slice ..⟩
  rw [State.core_send, State.handleSent, State.core_putWord_self, State.core_modCore_self, State.core_setCore_self]
  rfl

/-- Without a credit the sender waits, and the wait is counted (log 44). -/
theorem State.hfwdSend_waits {s : State} {c p i : Nat} {e : Cqe} {f : SendEnd} {v ep n : Nat} {b : Nat × Nat × Nat}
    (hb : b = (s.core p).buffer v) (hn : n = (wbits e.word 46 16 + 1) * 64) (hs : n ≤ b.2.2) (hr : b.2.1 + n ≤ spaceSize b.1)
    (hg : s.mcGroup c (wbits e.word 66 3) = none) (hc : f.credits = 0) :
    s.hfwdSend c p i e f v ep = s.bumpCore p 0x3A98 1 := by
  subst hb hn
  simp [State.hfwdSend, xFwdLen, xHout, hg, hc, Nat.not_lt.mpr hs, Nat.not_lt.mpr hr]

section Popped

variable {s : State} {p : Nat} {e : Cqe} {x : HqEnt} {l : List HqEnt} (h : ((s.core p).handleQ (wbits e.word 69 3)).ents = x :: l) (i : Nat)

theorem State.core_hfwdPopped (s : State) (p i : Nat) (e : Cqe) (x : HqEnt) :
    (s.hfwdPopped p i e x).core p = ((s.core p).popHandle (wbits e.word 69 3)).setWord 9 i { e with vals := [x.h, x.epoch] } := by
  rw [State.hfwdPopped, State.core_putWord_self, State.core_setCore_self]

include h

theorem State.buffer_hfwdPopped (v : Nat) : ((s.hfwdPopped p i e x).core p).buffer v = (s.core p).buffer v := by
  rw [State.core_hfwdPopped, Core.popHandle_only h]
  rfl

theorem State.getElem?_hfwdPopped (hi : i < ((s.core p).words 9).length) :
    (((s.hfwdPopped p i e x).core p).words 9)[i]? = some { e with vals := [x.h, x.epoch] } := by
  rw [State.core_hfwdPopped, Core.setWord, Core.words_setWords_self, Core.words_popHandle h]
  exact List.getElem?_set_self hi

theorem State.ents_hfwdPopped :
    (((s.hfwdPopped p i e x).core p).handleQ (wbits e.word 69 3)).ents = ((s.core p).handleQ (wbits e.word 69 3)).ents.drop 1 := by
  rw [State.core_hfwdPopped]
  exact ((Core.handleQ_popHandle h _).2).trans (if_pos rfl)

theorem State.heldH_hfwdPopped : ((s.hfwdPopped p i e x).core p).heldH = (s.core p).heldH ++ [hIdx x.h] := by
  rw [State.core_hfwdPopped, Core.popHandle_only h]
  rfl

end Popped

/-- Settles O19, a clause at a time. -/
theorem exchangeWordsLeave : Obligations.ExchangeWordsLeave := by
  refine ⟨?put, ?receives, ?sends, ?forwards, ?waits, ?held⟩
  case put =>
    rintro s c p i n _ _ _ _ e _ h rfl h0 rfl rfl rfl rfl hn hs hd hr hl
    refine ⟨_, exec_exPut_local h h0 hn hs hd hr hl, State.rstBegin_mesh _, ?_, State.rstBegin_t0 _, State.rstBegin_slice _, ?_⟩
    · rw [State.core_rstBegin, State.core_send, State.getElem?_putWord_self _ h.lt]
    · rw [State.core_rstBegin, State.core_send, State.core_putWord_self, Core.setWord_hq]
  case receives =>
    rintro s c p i _ e l k h rfl hd hb hk
    have run := exec_exHbind_receives h hd hb hk
    set d := k.setHandleQ (wbits e.word 69 3) { (s.core p).handleQ (wbits e.word 69 3) with recv := some (recvEndOf k e.word l) } with hd'
    have end_ : (((s.setCore p d).core p).handleQ (wbits e.word 69 3)).recv = some (recvEndOf k e.word l) := by
      rw [State.core_setCore_self, hd', Core.handleQ_setHandleQ_self]
    have words : ((s.setCore p d).sendCredit p (wbits e.word 69 3) l.length).core p = d := by
      rw [State.core_sendCredit, State.core_setCore_self]
    have lt : i < (d.words 9).length := by
      change i < (k.words 9).length
      rw [Core.reserveFor_only hk]
      exact h.lt
    obtain ⟨here, there⟩ := State.mesh_sendCredit l.length end_
    refine ⟨_, recvEndOf k e.word l, run, ?_, ?_, rfl, rfl, rfl, rfl, rfl, Core.reserveFor_length hk, ?_, ?_, fun sp hl hs => ?_, fun hl => ?_⟩
    · exact State.finished_rstBegin (State.finished_finish e (by rw [words]; exact lt))
    · rw [State.core_rstBegin, State.core_putWord_self, words]
      exact congrArg HandleQ.recv (Core.handleQ_setHandleQ_self ..)
    · rw [State.core_rstBegin, State.core_putWord_self, words]
      rfl
    · rw [State.core_rstBegin, State.core_putWord_self, words]
      change (d.handleQ (wbits e.word 69 3)).ents = _
      rw [hd', Core.handleQ_setHandleQ_self]
    · exact (State.rstBegin_mesh _).trans (here sp hl hs)
    · exact (State.rstBegin_mesh _).trans (there hl)
  case sends =>
    rintro s c p i _ e h rfl hd hb
    set d := (s.core p).setHandleQ (wbits e.word 69 3) { (s.core p).handleQ (wbits e.word 69 3) with
      send := some (sendEndOf e.word ((s.core p).handleQ (wbits e.word 69 3)).early), early := 0 } with hd'
    have bound : ((s.setCore p d).bindGroup c (wbits e.word 69 3)).core p = d := by
      rw [State.bindGroup_only]
      exact State.core_setCore_self ..
    refine ⟨_, exec_exHbind_sends h hd hb, ?_, ?_, ?_, ?_⟩
    · exact State.finished_rstBegin (State.finished_finish e (by rw [bound]; exact h.lt))
    · rw [State.core_rstBegin, State.core_putWord_self, bound]
      exact congrArg HandleQ.send (Core.handleQ_setHandleQ_self ..)
    · rw [State.core_rstBegin, State.core_putWord_self, bound]
      rfl
    · rw [State.rstBegin_mesh, State.bindGroup_only]
      rfl
  case forwards =>
    rintro s c p i _ n e x b f h hn hv hb rfl hf hx hbuf hlen hs hr hz hg hc hl
    obtain ⟨l, ents⟩ := Core.ents_of_headHandle hx
    obtain ⟨core, mesh, t0, slice⟩ := State.hfwdSend_local (s := s.hfwdPopped p i e x) (i := i) (e := { e with vals := [x.h, x.epoch] })
      (ep := x.epoch) h.op_eq (hbuf.trans (State.buffer_hfwdPopped ents i _).symm) hlen hs hr hz hg hc hl
    have popped := State.getElem?_hfwdPopped ents i h.lt
    obtain ⟨word, send, rest, transit⟩ := Core.hfwdSent_effect (wbits e.word 66 3) x.h { e with vals := [x.h, x.epoch] } f
      (List.getElem?_eq_some_iff.1 popped).1
    refine ⟨_, exec_exHfwd_pops h hn hv hb hf hx, (State.rstBegin_mesh _).trans mesh, ?_, ?_, ?_, ?_, (State.rstBegin_t0 _).trans t0,
      (State.rstBegin_slice _).trans slice⟩
    all_goals rw [State.core_rstBegin, core]
    · exact word
    · exact send
    · exact (rest _).trans (State.ents_hfwdPopped ents i)
    · exact transit
  case waits =>
    rintro s c p i _ n e x b f h hn hv hb rfl hf hx hbuf hlen hs hr hg hc
    obtain ⟨l, ents⟩ := Core.ents_of_headHandle hx
    have run := exec_exHfwd_pops h hn hv hb hf hx
    rw [State.hfwdSend_waits (e := { e with vals := [x.h, x.epoch] }) (hbuf.trans (State.buffer_hfwdPopped ents i _).symm) hlen hs hr hg hc] at run
    refine ⟨_, run, ?_, State.rstBegin_mesh _, ?_, ?_, ?_⟩
    all_goals rw [State.core_rstBegin, State.bumpCore, State.core_modCore_self]
    · rw [Core.count_bump_self, State.core_hfwdPopped]
      exact congrArg (fun n => (n + 1) % 2 ^ 32) (Core.count_popHandle (cLa_ne_creditWait _ _))
    · exact State.getElem?_hfwdPopped ents i h.lt
    · exact State.heldH_hfwdPopped ents i
    · exact State.ents_hfwdPopped ents i
  case held =>
    rintro s c p i _ n v ep e b f h hv hb rfl hf hbuf hlen hs hr hz hg hc hl
    obtain ⟨core, mesh, -⟩ := State.hfwdSend_local (i := i) (ep := ep) h.op_eq hbuf hlen hs hr hz hg hc hl
    obtain ⟨word, send, -, transit⟩ := Core.hfwdSent_effect (wbits e.word 66 3) v e f h.lt
    refine ⟨_, exec_exHfwd_held h hv hb hf, (State.rstBegin_mesh _).trans mesh, ?_, ?_, ?_⟩
    all_goals rw [State.core_rstBegin, core]
    · exact word
    · exact send
    · exact transit

end Sys2Proof.Machine
end

section
/-! Proofs of the statements of the control words (06): the words of the stream unit that load a descriptor, copy and cancel (R189, R270 to R277). -/

namespace Sys2Proof.Machine

/-! ### A stream word that executes -/

/-- A settled core completes a request of any epoch as it stands (R302). -/
theorem State.underAt_settled {s : State} {p : Nat} (ep : Nat) (g : State → State) (h : s.Settled p) : s.underAt p ep g = g s := by
  unfold State.underAt
  rw [State.under_settled g h, ite_self]

/-- A STR.COPY in the place asked for takes its step. -/
theorem State.strCopy_ready {s : State} {c p i : Nat} {e : Cqe} (h : s.WordAt c p 1 2 i e) :
    exec (.strCopy c i) s = .next (s.copyStep p i e).rstBegin := by
  obtain ⟨⟨phys, noReset, settled⟩, word, work, started, unfinished, op⟩ := h
  have run (g : State → State) (ep : Nat) (b : Bool) : (if b then s.underAt p ep g else s.under p g) = g s := by
    rw [State.underAt_settled ep g settled, State.under_settled g settled, ite_self]
  change execStrCopy c i s = _
  simp only [execStrCopy, phys, noReset, run]
  simp [State.doWord, word, work, started, unfinished, op]

/-- A step of a STR.COPY that finishes it. -/
theorem State.strCopy_finishes {s u : State} {c p i : Nat} {e : Cqe} (h : s.WordAt c p 1 2 i e) (hs : s.copyStep p i e = u.finish p 1 i e)
    (hl : i < ((u.core p).words 1).length) :
    ∃ t, exec (.strCopy c i) s = .next t ∧ t.Finished p 1 i ∧ t.t0 = u.t0 ∧ t.slice = u.slice ∧ t.tier = u.tier := by
  refine ⟨_, State.strCopy_ready h, ?_, ?_⟩
  · rw [hs]
    exact State.finished_rstBegin (State.finished_finish e hl)
  · rw [hs, State.rstBegin_t0, State.rstBegin_slice, State.rstBegin_tier]
    exact ⟨rfl, rfl, rfl⟩

/-! ### Setting a copy up (R275) -/

/-- The set-up of a copy of data bytes with every access allowed: its segments go behind the channels' queues. -/
theorem State.copySetup_allowed {s : State} {p i : Nat} {e : Cqe} {d : BitVec 512} {sx dx : StrSide × Nat} (hd : d = e.desc)
    (hsc : dScales d = 0) (hsx : sx = (s.core p).srcSide d e.hnd) (hdx : dx = (s.core p).dstSide d e.out) (hr : sx.1.record = none)
    (hm : damaskBad d (sideOffsets d (dDstPat d) dx.2 e.ilev) dx.1.base = false)
    (hso : ∀ o ∈ sideOffsets d (!dDstPat d) sx.2 e.ilev, s.sideCheck p false sx.1 o (dUnit d) = none)
    (hdo : ∀ o ∈ sideOffsets d (dDstPat d) dx.2 e.ilev, s.sideCheck p true dx.1 o (dUnit d) = none) :
    ∃ (u : State) (l : List DmaSeg) (f : Cqe), s.copySetup p i e = (u.setCore p { u.core p with dmaQ := (u.core p).dmaQ ++ l }).putWord p 1 i f
      ∧ (u = s ∨ u = s.bumpGen dx.1.obj) ∧ f.n = 1 ∧ f.segs = l.length := by
  subst hd hsx hdx
  have reads := List.filterMap_eq_nil_iff.2 hso
  have writes := List.filterMap_eq_nil_iff.2 hdo
  simp only [State.copySetup, hsc, hr, hm, reads, writes, Option.any_none, Bool.false_eq_true, if_false, if_true, List.append_nil, List.head?_nil]
  refine ⟨_, _, _, rfl, ?_, rfl, rfl⟩
  split
  · exact .inr rfl
  · exact .inl rfl

/-! ### What the move of a copy leaves -/

/-- Two states have the same object table, and their cores differ at most in the lookaside and counters. -/
def State.MoveOnly (s t : State) : Prop := t.obj = s.obj ∧ ∀ q, t.core q = { s.core q with look := (t.core q).look, cnt := (t.core q).cnt }

theorem State.MoveOnly.refl (s : State) : s.MoveOnly s := ⟨rfl, fun _ => rfl⟩

theorem State.MoveOnly.trans {s t u : State} (h : s.MoveOnly t) (k : t.MoveOnly u) : s.MoveOnly u := by
  refine ⟨k.1.trans h.1, fun q => ?_⟩
  rw [k.2 q, h.2 q]

theorem State.MoveOnly.words {s t : State} (h : s.MoveOnly t) (p q : Nat) : (t.core p).words q = (s.core p).words q := by
  rw [h.2 p]
  rfl

theorem State.MoveOnly.objEnt {s t : State} (h : s.MoveOnly t) (o : Nat) : t.objEnt o = s.objEnt o := by
  rw [State.objEnt, h.1]
  rfl

theorem State.LookOnly.moveOnly {s t : State} (h : s.LookOnly t) : s.MoveOnly t := ⟨by rw [h.1], h.2⟩

theorem State.WriteOnly.moveOnly {s t : State} (h : s.WriteOnly t) : s.MoveOnly t := by
  refine ⟨by rw [h.1], fun q => ?_⟩
  rw [h.2 q]

theorem State.moveOnly_localWrite (s : State) (p space a : Nat) (d : List Byte) (z : Bool) : s.MoveOnly (s.localWrite p space a d z) := by
  unfold State.localWrite
  split <;> exact ⟨rfl, fun _ => rfl⟩

theorem State.moveOnly_localClear (s : State) (p space : Nat) (l : List (Nat × Nat)) : s.MoveOnly (s.localClear p space l) := by
  unfold State.localClear
  split <;> exact ⟨rfl, fun _ => rfl⟩

/-- Steps that each move data only. -/
theorem State.moveOnly_foldl {α : Type} {f : State → α → State} (h : ∀ (s : State) x, s.MoveOnly (f s x)) (l : List α) (s : State) :
    s.MoveOnly (l.foldl f s) :=
  foldl_inv (fun t : State => s.MoveOnly t) f (fun t x k => k.trans (h t x)) l s (.refl s)

/-- Reads that each gather data and leave a state. -/
theorem State.moveOnly_foldl_snd {α β : Type} {f : β × State → α → β × State}
    (h : ∀ (y : β × State) x, y.2.MoveOnly (f y x).2) (l : List α) (y : β × State) : y.2.MoveOnly (l.foldl f y).2 :=
  foldl_inv (fun z : β × State => y.2.MoveOnly z.2) f (fun z x k => k.trans (h z x)) l y (.refl y.2)

theorem State.moveOnly_coreRead (s : State) (p obj ofs n : Nat) : s.MoveOnly (s.coreRead p obj ofs n).2 :=
  (State.lookOnly_coreRead s p obj ofs n).moveOnly

/-- Reading the units of a side (R275). -/
theorem State.moveOnly_gather (s : State) (p : Nat) (x : StrSide) (offs : List Nat) (u : Nat) : s.MoveOnly (s.gather p x offs u).2 := by
  unfold State.gather
  split
  · exact .refl s
  · split
    · refine State.moveOnly_foldl_snd (y := ([], s)) (fun y b => ?_) _
      exact State.moveOnly_coreRead y.2 p x.obj (4096 * b) 4096
    · refine State.moveOnly_foldl_snd (y := ([], s)) (fun y o => ?_) _
      exact State.moveOnly_coreRead y.2 p x.obj o u

/-- Writing the units of a side (R275). -/
theorem State.moveOnly_scatter (s : State) (p : Nat) (x : StrSide) (damask : Bool) (offs : List Nat) (u : Nat) (d : List PByte) :
    s.MoveOnly (s.scatter p x damask offs u d) := by
  unfold State.scatter
  split
  · exact (State.moveOnly_foldl (fun t y => State.moveOnly_localWrite t p _ _ _ _) _ _).trans (State.moveOnly_localClear _ p _ _)
  · split
    · refine State.moveOnly_foldl (fun t b => ?_) _ _
      refine .trans ?_ (State.writeOnly_objWrite _ _ _ _).moveOnly
      split
      · exact (State.readOnly_objRead t _ _ _).lookOnly.moveOnly
      · exact .refl t
    · exact State.moveOnly_foldl (fun t y => (State.writeOnly_objWrite t _ _ _).moveOnly) _ _

theorem State.copyRead_plain (s : State) (p : Nat) {d : BitVec 512} {x : StrSide} (offs : List Nat) (u : Nat) (hr : x.record = none)
    (hc : dCodec d = 0) : s.copyRead p d x offs u = s.gather p x offs u := by
  simp [State.copyRead, hr, hc]

theorem State.copyWrite_plain (s : State) (p : Nat) {d : BitVec 512} (damask : Bool) (x : StrSide) (offs : List Nat) (u : Nat)
    (data : List PByte) (hc : dCodec d = 0) : s.copyWrite p d damask x offs u data = s.scatter p x damask offs u data := by
  simp [State.copyWrite, hc]

/-! ### Moving a copy (R270, R277) -/

theorem State.objEnt_bumpGen_muslin (s : State) (o : Nat) : ((s.bumpGen o).objEnt o).muslin = (s.objEnt o).muslin := by
  unfold State.bumpGen
  simp only
  split
  · rw [State.objEnt, State.setObj, aget_aset_self]
  · rfl

/-- The generation of the destination after its units are written: it rises where the destination is an object (R277). -/
def State.moved (s : State) (x : StrSide) : State := if (localSpace x.obj).isNone then s.bumpGen x.obj else s

theorem State.wholeOnly_moved (s : State) (x : StrSide) : s.WholeOnly (s.moved x) := by
  unfold State.moved
  split
  · exact State.wholeOnly_bumpGen s x.obj
  · exact .refl s

theorem State.moved_memory (s : State) (x : StrSide) : (s.moved x).t0 = s.t0 ∧ (s.moved x).slice = s.slice ∧ (s.moved x).tier = s.tier := by
  unfold State.moved
  split
  · rw [State.bumpGen_only]
    exact ⟨rfl, rfl, rfl⟩
  · exact ⟨rfl, rfl, rfl⟩

/-- A copy of clean data bytes to a destination that Muslin does not code finishes in its move. -/
theorem State.copyMove_clean {s : State} {p i u : Nat} {e : Cqe} {d : BitVec 512} {sx dx : StrSide × Nat} {r : List PByte × State} {t : State}
    (hg : e.wgen = none) (hd : d = e.desc) (hu : u = dUnit d) (hsc : dScales d = 0) (hc : dCodec d = 0)
    (hsx : sx = (s.core p).srcSide d e.hnd) (hdx : dx = (s.core p).dstSide d e.out) (hrec : sx.1.record = none)
    (hr : r = s.copyRead p d sx.1 (natOffs (sideOffsets d (!dDstPat d) sx.2 e.ilev)) u) (hclean : dUnits d ≤ cleanUnits r.1 u)
    (ht : t = r.2.copyWrite p d (dDdamask d) dx.1 ((natOffs (sideOffsets d (dDstPat d) dx.2 e.ilev)).take (dUnits d)) u (r.1.take (dUnits d * u)))
    (hm : (localSpace dx.1.obj).isSome = true ∨ (t.objEnt dx.1.obj).muslin = false) :
    s.copyMove p i e = (t.moved dx.1).finish p 1 i e := by
  have late : ((localSpace dx.1.obj).isNone && ((t.moved dx.1).objEnt dx.1.obj).muslin) = false := by
    unfold State.moved
    split
    · next hn =>
      have notMuslin := hm.resolve_left (by simp [Option.isNone_iff_eq_none.1 hn])
      rw [State.objEnt_bumpGen_muslin, notMuslin, Bool.and_false]
    · next hn => simp [hn]
  unfold State.moved at late
  subst hd hu hsx hdx hr ht
  simp only [State.copyMove, State.moved, hg, hrec, hsc, hc, late, min_eq_right hclean, Option.any_none, Bool.false_eq_true, if_false, if_true,
    lt_irrefl, zero_ne_one, decide_false, Bool.false_and, List.isEmpty_nil]

/-! ### Handles taken out (R274, R284) -/

/-- A freed buffer refills a reservation or a free list: every queue keeps its entries. -/
theorem Core.ents_putFree (c : Core) (i q : Nat) : ((c.putFree i).1.handleQ q).ents = (c.handleQ q).ents := by
  unfold Core.putFree
  split
  · rfl
  · simp only
    split
    · rfl
    · split
      · rfl
      · next l _ _ _ _ =>
        by_cases h : l = q
        · subst h
          rw [Core.handleQ_setHandleQ_self]
        · rw [Core.handleQ_setHandleQ_ne _ _ h]

/-- Two states have the same memories, core p the same entries of handle queues and the same control queues. -/
def State.EntsKept (p : Nat) (s t : State) : Prop :=
  t.t0 = s.t0 ∧ t.slice = s.slice ∧ t.tier = s.tier ∧ (t.core p).cq = (s.core p).cq
    ∧ ∀ q, ((t.core p).handleQ q).ents = ((s.core p).handleQ q).ents

theorem State.EntsKept.refl (p : Nat) (s : State) : s.EntsKept p s := ⟨rfl, rfl, rfl, rfl, fun _ => rfl⟩

theorem State.EntsKept.trans {p : Nat} {s t u : State} (h : s.EntsKept p t) (k : t.EntsKept p u) : s.EntsKept p u := by
  obtain ⟨t0, slice, tier, cq, ents⟩ := h
  obtain ⟨t0', slice', tier', cq', ents'⟩ := k
  exact ⟨t0'.trans t0, slice'.trans slice, tier'.trans tier, cq'.trans cq, fun q => (ents' q).trans (ents q)⟩

theorem State.sendCredit_mesh (s : State) (p q n : Nat) : s.sendCredit p q n = { s with mesh := (s.sendCredit p q n).mesh } := by
  unfold State.sendCredit
  split
  · split
    · split <;> rfl
    · rfl
  · rfl

theorem State.release_only (s : State) (p h : Nat) :
    s.release p h = { s with cores := (s.release p h).cores, mesh := (s.release p h).mesh } := by
  unfold State.release
  simp only
  split
  · rw [State.sendCredit_mesh]
    rfl
  · rfl

theorem State.core_release (s : State) (p h : Nat) :
    (s.release p h).core p = (({ s.core p with heldH := erase1 (s.core p).heldH (hIdx h), inflight := erase1 (s.core p).inflight (hIdx h)
                                               transit := erase1 (s.core p).transit (hIdx h) } : Core).putFree (hIdx h)).1 := by
  unfold State.release
  simp only
  split
  · rw [State.core_sendCredit, State.core_setCore_self]
  · rw [State.core_setCore_self]

theorem State.entsKept_release (s : State) (p h : Nat) : s.EntsKept p (s.release p h) := by
  have words := (State.handleOnly_release s p h p).cq
  have ents (q : Nat) : (((s.release p h).core p).handleQ q).ents = ((s.core p).handleQ q).ents := by
    rw [State.core_release, Core.ents_putFree]
    rfl
  rw [State.release_only] at words ents ⊢
  exact ⟨rfl, rfl, rfl, words, ents⟩

/-- A copy toward queue q that STR.CANCEL with epoch `ep` marks (R274). -/
def Cqe.copyToward (q ep : Nat) (y : Cqe) : Bool :=
  y.started && wOp y.word = 2 && y.out.isSome && y.vals.getD 0 8 = q && epochOld ep (wbits y.word 52 8) && !y.cancelled

/-- A handle that STR.CANCEL with epoch `ep` takes out (R274). -/
def HqEnt.old (ep : Nat) (h : HqEnt) : Bool := epochOld ep h.epoch && !h.poison

/-- STR.CANCEL takes the old handles out, marks the copies before it, and releases what it took. -/
theorem State.strCancel_ready {s : State} {c p i q ep : Nat} {e : Cqe} (h : s.WordAt c p 1 3 i e) (hq : wbits e.word 69 3 = q)
    (hep : wbits e.word 61 8 = ep) :
    ∃ k : Core, exec (.strCancel c i) s = .next (((((s.core p).handleQ q).ents.filter (HqEnt.old ep)).foldl (fun s h => s.release p h.h)
        (s.setCore p k)).putWord p 1 i { e with fin := true }).rstBegin
      ∧ (k.handleQ q).ents = ((s.core p).handleQ q).ents.filter (fun h => !h.old ep)
      ∧ k.words 1 = ((s.core p).words 1).zipIdx.map fun y => if y.2 < i && y.1.copyToward q ep then { y.1 with cancelled := true } else y.1 := by
  subst hq hep
  apply Exists.intro
  refine ⟨?run, ?ents, ?words⟩
  case run =>
    change execStrCancel c i s = _
    rw [execStrCancel, State.onWord_ready h]
    rfl
  case ents =>
    split
    · exact congrArg HandleQ.ents (Core.handleQ_setHandleQ_self ..)
    · exact congrArg HandleQ.ents (Core.handleQ_setHandleQ_self ..)
  case words =>
    split
    · exact Core.words_setWords_self ..
    · exact Core.words_setWords_self ..

/-- An earlier copy toward the queue is marked, or was before. -/
theorem cancelled_of_marked {l : List Cqe} {i j q ep : Nat} {y : Cqe} (hj : j < i) (hy : l[j]? = some y) (hs : y.started = true)
    (ho : wOp y.word = 2) (hh : y.out.isSome = true) (hq : y.vals.getD 0 8 = q) (he : epochOld ep (wbits y.word 52 8) = true) :
    ((l.zipIdx.map fun y => if y.2 < i && y.1.copyToward q ep then { y.1 with cancelled := true } else y.1)[j]?.any Cqe.cancelled) = true := by
  have mark : y.copyToward q ep = !y.cancelled := by
    simp only [Cqe.copyToward, hs, ho, hh, hq, he, decide_true, Bool.true_and]
  simp only [List.getElem?_map, List.getElem?_zipIdx, hy, Option.map_some, Option.any_some, Nat.zero_add, hj, decide_true, Bool.true_and, mark]
  cases hc : y.cancelled
  · rfl
  · exact hc

/-! ### The statement -/

/-- Settles O6, word by word: each command is reduced to the step of its word, a copy's through what its reads and writes leave of the word's
queue. -/
theorem streamWordsMove : Obligations.StreamWordsMove := by
  unfold Obligations.StreamWordsMove
  refine ⟨?ldd, ?setup, ?move, ?last, ?cancel⟩
  case ldd =>
    intro s c p i sp a r e h hsp ha hr inside clean
    obtain ⟨b, hb⟩ : ∃ b, b = BitVec.ofNat 512 (numOf ((s.localGran p sp a 64).map Prod.fst)) := ⟨_, rfl⟩
    have noPoison : (s.localGran p sp a 64).any Prod.snd = false := by simpa using clean
    have run : exec (.strLdd c i) s
        = .next ((s.setCore p { s.core p with sd := aset (s.core p).sd r b }).putWord p 1 i { e with fin := true }).rstBegin := by
      change execStrLdd c i s = _
      simp only [execStrLdd, State.onWord_ready h, hsp, ha, hr, Nat.not_lt.2 inside, noPoison, hb, State.finish, Bool.false_eq_true, if_false]
    obtain ⟨t, ht, core, word, t0, slice, tier, -⟩ := State.putWord_ends run h.lt
    refine ⟨t, ht, State.finished_of_word word rfl, ?_, fun x hx => ?_, t0, slice, tier⟩
    · rw [core, ← hb]
      exact aget_aset_self ..
    · rw [core]
      exact aget_aset_ne _ _ _ (Ne.symm hx)
  case setup =>
    intro s c p i e d sx dx h hn hd hsc hsx hdx hr hm hso hdo
    obtain ⟨u, l, f, setup, hu, n, segs⟩ := State.copySetup_allowed hd hsc hsx hdx hr hm hso hdo
    have run : exec (.strCopy c i) s = .next ((u.setCore p { u.core p with dmaQ := (u.core p).dmaQ ++ l }).putWord p 1 i f).rstBegin := by
      rw [State.strCopy_ready h, State.copyStep, if_pos hn, setup]
    have same : u.cores = s.cores ∧ u.t0 = s.t0 ∧ u.slice = s.slice ∧ u.tier = s.tier := by
      rcases hu with rfl | rfl
      · exact ⟨rfl, rfl, rfl, rfl⟩
      · rw [State.bumpGen_only]
        exact ⟨rfl, rfl, rfl, rfl⟩
    obtain ⟨cores, t0, slice, tier⟩ := same
    have uCore : u.core p = s.core p := State.core_congr cores p
    rw [uCore] at run
    obtain ⟨t, ht, core, word, t0', slice', tier', -⟩ := State.putWord_ends run h.lt
    refine ⟨t, l, ht, ?_, ?_, t0'.trans t0, slice'.trans slice, tier'.trans tier⟩
    · rw [core]
      rfl
    · rw [word, Option.map_some, n, segs]
  case move =>
    intro s c p i u e d sx dx r h hn hs hg ahead hd hu hsc hc hsx hdx hrec hm hr hclean
    obtain ⟨t', ht'⟩ : ∃ t', t' = r.2.copyWrite p d (dDdamask d) dx.1 ((natOffs (sideOffsets d (dDstPat d) dx.2 e.ilev)).take (dUnits d)) u
      (r.1.take (dUnits d * u)) := ⟨_, rfl⟩
    have read : s.MoveOnly r.2 := by
      rw [hr, State.copyRead_plain _ _ _ _ hrec hc]
      exact State.moveOnly_gather ..
    have write : r.2.MoveOnly t' := by
      rw [ht', State.copyWrite_plain _ _ _ _ _ _ _ hc]
      exact State.moveOnly_scatter ..
    have kept := read.trans write
    have move := State.copyMove_clean (i := i) hg hd hu hsc hc hsx hdx hrec hr hclean ht' (by rwa [kept.objEnt])
    have step : s.copyStep p i e = (t'.moved dx.1).finish p 1 i e := by
      simp only [State.copyStep, hn, hs, ahead, move, one_ne_zero, OfNat.one_ne_ofNat, ne_eq, not_true, Bool.false_eq_true, if_false]
    have words : ((t'.moved dx.1).core p).words 1 = (s.core p).words 1 := by
      rw [(State.wholeOnly_moved t' dx.1).2 p]
      exact kept.words p 1
    obtain ⟨t, ht, fin, t0, slice, tier⟩ := State.strCopy_finishes h step (by rw [words]; exact h.lt)
    obtain ⟨t0', slice', tier'⟩ := State.moved_memory t' dx.1
    exact ⟨t, t', ht, fin, ht', t0.trans t0', slice.trans slice', tier.trans tier'⟩
  case last =>
    intro s c p i e h hn hs
    exact State.strCopy_finishes h (by simp [State.copyStep, hn, hs]) h.lt
  case cancel =>
    intro s c p i q ep e h hq hep
    obtain ⟨k, run, ents, words⟩ := State.strCancel_ready h hq hep
    obtain ⟨u, hu⟩ : ∃ u : State, u = (((s.core p).handleQ q).ents.filter (HqEnt.old ep)).foldl (fun s h => s.release p h.h) (s.setCore p k) :=
      ⟨_, rfl⟩
    have kept : (s.setCore p k).EntsKept p u := by
      rw [hu]
      exact foldl_inv (fun t : State => (s.setCore p k).EntsKept p t) _ (fun t x a => a.trans (State.entsKept_release t p x.h)) _ _ (.refl p _)
    obtain ⟨t0, slice, tier, cq, uEnts⟩ := kept
    rw [State.core_setCore_self] at cq uEnts
    have uWords := (Core.words_congr cq 1).trans words
    rw [← hu, State.putWord] at run
    have len : i < ((u.core p).words 1).length := by
      rw [uWords, List.length_map, List.length_zipIdx]
      exact h.lt
    refine ⟨_, run, State.finished_rstBegin (State.finished_finish e len), ?_, ?_, ?_, ?_, ?_⟩
    · rw [State.core_rstBegin, State.core_modCore_self]
      exact (uEnts q).trans ents
    · intro j y hj hy hs ho hh hvals he
      rw [State.core_rstBegin, State.core_modCore_self, Core.setWord, Core.words_setWords_self, List.getElem?_set_ne hj.ne', uWords]
      exact cancelled_of_marked hj hy hs ho hh hvals he
    · rw [State.rstBegin_t0]
      exact t0
    · rw [State.rstBegin_slice]
      exact slice
    · rw [State.rstBegin_tier]
      exact tier

end Sys2Proof.Machine
end

section
/-! Proofs about the statement of the training passes (07): where STR.PIN counts its pin while a commit has moved a version to its shadow
(R227, R230, R231). -/

namespace Sys2Proof.Machine

/-! ### The shadow that a commit makes (R230) -/

/-- A version that moves to its shadow: the object keeps its entry but for its pins, and a shadow of the version is added. -/
theorem State.makeShadow_eq {s t : State} {o : Nat} (h : s.makeShadow o = some t) :
    ∃ (u : State) (x : Shadow), s.WriteOnly u ∧ x.obj = o ∧ x.ver = (s.objEnt o).version
      ∧ t = { u with obj := { u.obj with table := aset u.obj.table o { s.objEnt o with pincnt := 0 }, shadows := u.obj.shadows ++ [x] } } := by
  simp only [State.makeShadow, Option.ite_none_left_eq_some] at h
  obtain ⟨-, h⟩ := h
  split at h
  · cases h
  · exact ⟨_, _, (State.readOnly_objRead ..).writeOnly.trans (State.writeOnly_objWrite ..), rfl, rfl, (Option.some.inj h).symm⟩

/-- A version that is moved to its shadow is still the current one, and the move beside that is a write. -/
theorem State.makeShadow_moves {s t : State} {o : Nat} (h : s.makeShadow o = some t) :
    s.WriteOnly { t with obj := s.obj } ∧ (t.objEnt o).version = (s.objEnt o).version ∧ (t.shadowOf o (s.objEnt o).version).isSome = true := by
  obtain ⟨u, x, wrote, ofObj, ofVer, rfl⟩ := State.makeShadow_eq h
  refine ⟨?_, ?_, ?_⟩
  · rw [← wrote.obj]
    exact wrote
  · rw [State.objEnt, aget_aset_self]
  · simp [State.shadowOf, ofObj, ofVer]

/-- A word that executes does so still after the move. -/
theorem State.WordAt.of_writeOnly {s t : State} {c p q op i : Nat} {e : Cqe} (w : s.WriteOnly { t with obj := s.obj }) (h : s.WordAt c p q op i e) :
    t.WordAt c p q op i e := by
  obtain ⟨⟨phys, noReset, powered, unflipped⟩, word, work, rest⟩ := h
  have core : t.core p = { s.core p with cnt := (t.core p).cnt } := w.2 p
  have lmap : t.lmap = s.lmap := w.lmap
  have coreRst : t.coreRst = s.coreRst := w.coreRst
  have flip : t.flip = s.flip := w.flip
  have isPowered : t.powered = s.powered := w.powered
  refine ⟨⟨?_, ?_, ?_, ?_⟩, ?_, ?_, rest⟩
  · rwa [State.phys, lmap]
  · rwa [State.inReset, coreRst]
  · rwa [isPowered]
  · rwa [flip]
  · rw [core]
    exact word
  · rw [core]
    exact work

/-! ### A pin of a version that has its shadow (R230, R231) -/

/-- Pins of a version with a shadow count on the shadow alone. -/
theorem State.addPins_shadowed {s : State} {o v : Nat} (n : Nat) (h : (s.shadowOf o v).isSome = true) :
    s.addPins o v n = { s with obj := { s.obj with
      shadows := s.obj.shadows.map fun x => if x.obj = o ∧ x.ver = v then { x with pins := x.pins + n } else x } } := by
  simp [State.addPins, Option.isNone_eq_false_iff.2 h]

/-- STR.PIN of the current version takes its entry of the pin table and one pin on the object side. -/
theorem State.strPin_takes {s : State} {c p i o v : Nat} {e : Cqe} (h : s.WordAt c p 1 6 i e) (ho : wbits e.word 56 16 = o)
    (hv : wbits e.word 40 16 = v) (hcur : (s.objEnt o).version = v) (hnew : (s.core p).pinOf o = none) (hroom : (s.core p).pins.length < 8) :
    ∃ k : Core, k = { s.core p with pins := (s.core p).pins ++ [{ obj := o, ver := v, cnt := 1, stepPin := true, stepCnt := 1 }] }
      ∧ exec (.strPin c i) s = .next (((s.setCore p k).addPins o v 1).finish p 1 i e).rstBegin := by
  refine ⟨_, rfl, ?_⟩
  change execStrPin c i s = _
  simp [execStrPin, State.onWord_ready h, ho, hv, hcur, hnew, Nat.not_le.2 hroom]

/-- STR.PIN of the current version, which a commit has moved to its shadow, leaves the object's own count. -/
theorem State.strPin_shadowed_keeps_pincnt {s t : State} {c p i o v : Nat} {e : Cqe} (h : s.WordAt c p 1 6 i e) (ho : wbits e.word 56 16 = o)
    (hv : wbits e.word 40 16 = v) (hcur : (s.objEnt o).version = v) (hnew : (s.core p).pinOf o = none) (hroom : (s.core p).pins.length < 8)
    (hs : (s.shadowOf o v).isSome = true) (run : exec (.strPin c i) s = .next t) : (t.objEnt o).pincnt = (s.objEnt o).pincnt := by
  obtain ⟨k, -, takes⟩ := State.strPin_takes h ho hv hcur hnew hroom
  obtain rfl := Host.Outcome.next.inj (run.symm.trans takes)
  rw [State.addPins_shadowed (s := s.setCore p k) 1 hs, State.objEnt, State.rstBegin_obj]
  rfl

/-! ### The counterexample -/

/-- STR.PIN of version 0 of object 1, started: format 2, unit 1, operation 6, OBJ from bit 56 (R181). -/
def strPinWord : Cqe := { word := BitVec.ofNat 256 (2 * 2 ^ 124 + 2 ^ 120 + 6 * 2 ^ 112 + 2 ^ 56), seqno := 0, pc := 0, ilev := 0, started := true }

/-- Core 1 holds a pin of version 0 of object 1, which is current; core 0 is at a STR.PIN of the same version; object 2 is the shadow pool. -/
def pinnedAtCommit : State :=
  { lmap := [(0, { phys := 0 }), (1, { phys := 1 })]
    ncores := 2
    cores := [(0, { seq := { state := .running }, cq := [(1, [strPinWord])] }),
              (1, { pins := [{ obj := 1, ver := 0, cnt := 1, stepPin := false, stepCnt := 0 }] })]
    regs := [(0x400200, 2)]
    obj := { State.reset.obj with
      table := [(1, { valid := true, tier := 1, base := 16, size := 1, backing := 3, pincnt := 1 }),
                (2, { valid := true, tier := 1, base := 32, size := 1, kind := 5 }), (3, { valid := true, tier := 1, base := 48, size := 1 })] } }

theorem pinnedAtCommit_wordAt : pinnedAtCommit.WordAt 0 0 1 6 0 strPinWord :=
  ⟨⟨rfl, rfl, State.settled_of_flip_none rfl rfl 0⟩, rfl, rfl, rfl, rfl, by decide⟩

/-- The pool takes the shadow of object 1's version 0. -/
theorem exists_makeShadow_pinnedAtCommit : ∃ t, pinnedAtCommit.makeShadow 1 = some t := ⟨_, rfl⟩

/-- Refutes O7: from the move of R230 to the end of the commit the current version has its shadow, and STR.PIN of it then counts on the shadow, not
on the object. Such a state is what the move of version 0 of object 1 leaves of `pinnedAtCommit`. -/
theorem not_pinsAndSegments : ¬ Obligations.PinsAndSegments := by
  unfold Obligations.PinsAndSegments
  rintro ⟨pinCounts, -⟩
  obtain ⟨s, moved⟩ := exists_makeShadow_pinnedAtCommit
  obtain ⟨wrote, current, shadowed⟩ := State.makeShadow_moves moved
  have word : s.WordAt 0 0 1 6 0 strPinWord := pinnedAtCommit_wordAt.of_writeOnly wrote
  have noPins : (s.core 0).pins = [] := wrote.core_pins 0
  have unpinned : (s.core 0).pinOf 1 = none := by
    rw [Core.pinOf, noPins]
    rfl
  have room : (s.core 0).pins.length < 8 := by
    rw [noPins]
    decide
  obtain ⟨t, run, -, -, counted⟩ := pinCounts s 0 0 0 1 0 strPinWord word (by decide) (by decide) current unpinned room
  have kept := State.strPin_shadowed_keeps_pincnt word (by decide) (by decide) current unpinned room shadowed run
  omega

end Sys2Proof.Machine
end

section
/-! Proofs of the statement of the update unit's chapter about local memories (R252, R253, R255, R259): a write of a near scratchpad or of a slice
reads back with its poison, and leaves every other byte and every other word's poison. -/

namespace Sys2Proof.Machine

/-! ### Marks of poisoned units (R255, R311) -/

/-- Unit `u` of `g` bytes holds one of the n bytes at a. -/
def MeetsUnit (g a n u : Nat) : Prop := a / g ≤ u ∧ u ≤ (a + n - 1) / g

/-- Marking a list of units. -/
theorem mem_foldl_sins (first u : Nat) (l marks : List Nat) :
    u ∈ l.foldl (fun m i => sins m (first + i)) marks ↔ u ∈ marks ∨ ∃ i ∈ l, u = first + i := by
  induction l generalizing marks with
  | nil => simp
  | cons i t ih =>
    rw [List.foldl_cons, ih, mem_sins]
    simp only [List.mem_cons, exists_eq_or_imp]
    tauto

/-- Clearing those of a list of units that meet a test. -/
theorem mem_foldl_sdel (first u : Nat) (P : Nat → Prop) [DecidablePred P] (l marks : List Nat) :
    u ∈ l.foldl (fun m i => if P (first + i) then sdel m (first + i) else m) marks ↔ u ∈ marks ∧ ∀ i ∈ l, u = first + i → ¬ P u := by
  induction l generalizing marks with
  | nil => simp
  | cons i t ih =>
    rw [List.foldl_cons, ih, List.forall_mem_cons]
    split
    next h =>
      have same : u ≠ first + i ↔ (u = first + i → ¬ P u) := ⟨fun hn he => absurd he hn, fun hp he => hp he (he ▸ h)⟩
      rw [mem_sdel, same, and_assoc]
    next h => exact and_congr_right fun _ => (and_iff_right fun he => he ▸ h).symm

/-- The units from the first to the last that n bytes meet. -/
theorem exists_range_iff_meetsUnit {g a n u : Nat} : (∃ i ∈ List.range ((a + n - 1) / g + 1 - a / g), u = a / g + i) ↔ MeetsUnit g a n u := by
  simp only [List.mem_range, MeetsUnit]
  exact ⟨fun ⟨i, hi, he⟩ => by omega, fun h => ⟨u - a / g, by omega⟩⟩

/-- Poisoned data mark every unit that they meet. -/
theorem mem_pzWrite_poison {g a n u : Nat} (marks : List Nat) (hn : n ≠ 0) :
    u ∈ pzWrite g marks a n true ↔ u ∈ marks ∨ MeetsUnit g a n u := by
  simp only [pzWrite, if_neg hn, if_true, mem_foldl_sins, exists_range_iff_meetsUnit]

/-- Good data clear the units that they cover whole. -/
theorem mem_pzWrite_good {g a n u : Nat} (marks : List Nat) (hn : n ≠ 0) :
    u ∈ pzWrite g marks a n false ↔ u ∈ marks ∧ (MeetsUnit g a n u → ¬(a ≤ u * g ∧ u * g + g ≤ a + n)) := by
  simp only [pzWrite, if_neg hn, Bool.false_eq_true, if_false, mem_foldl_sdel (a / g) u fun v => a ≤ v * g ∧ v * g + g ≤ a + n,
    ← exists_range_iff_meetsUnit (n := n), forall_exists_index, and_imp]

/-- A write leaves the marks of the units that it does not meet. -/
theorem mem_pzWrite_outside {g a n u : Nat} (marks : List Nat) (z : Bool) (h : n ≠ 0 → ¬ MeetsUnit g a n u) :
    u ∈ pzWrite g marks a n z ↔ u ∈ marks := by
  by_cases hn : n = 0
  · rw [pzWrite, if_pos hn]
  · cases z
    case false => rw [mem_pzWrite_good marks hn]; exact and_iff_left fun m => absurd m (h hn)
    case true => rw [mem_pzWrite_poison marks hn]; exact or_iff_left (h hn)

theorem pzRead_iff {g a n : Nat} (marks : List Nat) : pzRead g marks a n = true ↔ n ≠ 0 ∧ ∃ u ∈ marks, MeetsUnit g a n u := by
  simp [pzRead, MeetsUnit]

/-- A read of units that a write does not meet finds their marks as they were. -/
theorem pzRead_pzWrite_outside {g a n b k : Nat} (marks : List Nat) (z : Bool)
    (h : n ≠ 0 → k ≠ 0 → ∀ u, MeetsUnit g b k u → ¬ MeetsUnit g a n u) :
    pzRead g (pzWrite g marks a n z) b k = pzRead g marks b k := by
  rw [Bool.eq_iff_iff, pzRead_iff, pzRead_iff]
  refine and_congr_right fun hk => exists_congr fun u => ?_
  rw [and_congr_left_iff]
  exact fun m => mem_pzWrite_outside marks z fun hn => h hn hk u m

theorem pzRead_pzWrite_poison {g a n : Nat} (marks : List Nat) (hn : n ≠ 0) : pzRead g (pzWrite g marks a n true) a n = true := by
  have first : MeetsUnit g a n (a / g) := ⟨le_refl _, Nat.div_le_div_right (by omega)⟩
  exact (pzRead_iff _).2 ⟨hn, a / g, (mem_pzWrite_poison marks hn).2 (.inr first), first⟩

/-- Good data that cover whole words leave none of them marked. -/
theorem pzRead_pzWrite_good {a n : Nat} (marks : List Nat) (ha : a % 8 = 0) (hn : n % 8 = 0) :
    pzRead 8 (pzWrite 8 marks a n false) a n = false := by
  rw [Bool.eq_false_iff, Ne, pzRead_iff]
  rintro ⟨h0, u, hu, meets⟩
  have cleared := ((mem_pzWrite_good marks h0).1 hu).2 meets
  unfold MeetsUnit at meets
  omega

/-! ### Bytes of a memory -/

theorem Memory.bytes_congr {m m' : Memory} {a n : Nat} (h : ∀ i, a ≤ i → i < a + n → Memory.read m' i = Memory.read m i) :
    Memory.bytes m' a n = Memory.bytes m a n := by
  induction n generalizing a with
  | zero => rfl
  | succ n ih =>
    rw [Memory.bytes, Memory.bytes, h a (by omega) (by omega), ih fun i hl hu => h i (by omega) (by omega)]

theorem Memory.bytes_put_outside {m : Memory} {a b n : Nat} (d : List Byte) (hw : Memory.wf m = true) (h : b + n ≤ a ∨ a + d.length ≤ b) :
    Memory.bytes (Memory.put m a d) b n = Memory.bytes m b n :=
  Memory.bytes_congr fun i hl hu => Memory.read_put_outside d hw (by omega)

/-! ### The two local spaces (R253, R259) -/

/-- The memory of a local space: T0 (0), the slices (1). -/
def State.localMem (s : State) (sp : Nat) : Memory := if sp = 0 then s.t0 else s.slice

/-- The marks of poisoned words of a local space. -/
def State.localMarks (s : State) (sp : Nat) : List Nat := if sp = 0 then s.t0Pz else s.slicePz

/-- The place in a local space's memory of byte a of physical core p. -/
def localKey (sp p a : Nat) : Nat := if sp = 0 then t0Key p a else sliceKey p a

theorem State.localRead_eq (s : State) (p sp a n : Nat) :
    s.localRead p sp a n = (Memory.bytes (s.localMem sp) (localKey sp p a) n, pzRead 8 (s.localMarks sp) (localKey sp p a) n) := by
  unfold State.localRead State.localMem State.localMarks localKey
  split <;> rfl

theorem State.localMem_localWrite_same (s : State) (p sp a : Nat) (d : List Byte) (z : Bool) :
    (s.localWrite p sp a d z).localMem sp = Memory.put (s.localMem sp) (localKey sp p a) d := by
  unfold State.localWrite State.localMem localKey
  split <;> rfl

theorem State.localMarks_localWrite_same (s : State) (p sp a : Nat) (d : List Byte) (z : Bool) :
    (s.localWrite p sp a d z).localMarks sp = pzWrite 8 (s.localMarks sp) (localKey sp p a) d.length z := by
  unfold State.localWrite State.localMarks localKey
  split <;> rfl

/-- A write of one space leaves the other. -/
theorem State.localRead_localWrite_other (s : State) (p sp a : Nat) (d : List Byte) (z : Bool) (hsp : sp < 2) (q b n : Nat) :
    (s.localWrite p sp a d z).localRead q (1 - sp) b n = s.localRead q (1 - sp) b n := by
  obtain rfl | rfl : sp = 0 ∨ sp = 1 := by omega
  · rfl
  · rfl

theorem State.MemWf.localMem {s : State} (h : s.MemWf) (sp : Nat) : Memory.wf (s.localMem sp) = true := by
  obtain ⟨ht0, hslice, -⟩ := h
  unfold State.localMem
  split
  · exact ht0
  · exact hslice

theorem State.MemWf.localWrite {s : State} (h : s.MemWf) (p sp a : Nat) (d : List Byte) (z : Bool) : (s.localWrite p sp a d z).MemWf := by
  obtain ⟨ht0, hslice, rest⟩ := h
  unfold State.localWrite
  split
  · exact ⟨Memory.wf_put _ d ht0, hslice, rest⟩
  · exact ⟨ht0, Memory.wf_put _ d hslice, rest⟩

/-- A core's bytes stand together, and begin at a whole word. -/
theorem localKey_eq (sp p : Nat) : ∃ k, ∀ a, localKey sp p a = 8 * k + a := by
  unfold localKey t0Key sliceKey
  split
  · exact ⟨p * 0x20000, fun a => by omega⟩
  · exact ⟨p * 0x100000, fun a => by omega⟩

/-- No word holds bytes of two cores. -/
theorem localKey_apart {sp p q a n b k : Nat} (h : q ≠ p) (ha : a + n ≤ if sp = 0 then 0x100000 else 0x800000)
    (hb : b + k ≤ if sp = 0 then 0x100000 else 0x800000) :
    (localKey sp q b + k + 7) / 8 ≤ localKey sp p a / 8 ∨ (localKey sp p a + n + 7) / 8 ≤ localKey sp q b / 8 := by
  unfold localKey t0Key sliceKey
  by_cases hs : sp = 0
  · simp only [hs, if_true] at ha hb ⊢
    omega
  · simp only [hs, if_false] at ha hb ⊢
    omega

/-- A write leaves the bytes and the marks of words that it does not meet. -/
theorem State.localRead_localWrite_apart {s : State} {p q sp a b n : Nat} {d : List Byte} (z : Bool) (hw : s.MemWf)
    (h : (localKey sp q b + n + 7) / 8 ≤ localKey sp p a / 8 ∨ (localKey sp p a + d.length + 7) / 8 ≤ localKey sp q b / 8) :
    (s.localWrite p sp a d z).localRead q sp b n = s.localRead q sp b n := by
  rw [State.localRead_eq, State.localRead_eq, State.localMem_localWrite_same, State.localMarks_localWrite_same,
    Memory.bytes_put_outside d (hw.localMem sp) (by omega), pzRead_pzWrite_outside]
  unfold MeetsUnit
  omega

/-- Settles O52: the bytes by what a memory reads after a write, the poison by what a read of marks finds after one. -/
theorem localWritesReadBack : Obligations.LocalWritesReadBack := by
  intro s p sp a d z hw hsp ha
  obtain ⟨k, key⟩ := localKey_eq sp p
  have wf := hw.localMem sp
  refine ⟨?back, ?poisoned, ?good, ?bytes, ?cores, ?words, ?space, hw.localWrite p sp a d z⟩
  case back =>
    rw [State.localRead_eq, State.localMem_localWrite_same]
    exact Memory.bytes_put _ d wf
  case poisoned =>
    rintro hd rfl
    rw [State.localRead_eq, State.localMarks_localWrite_same]
    exact pzRead_pzWrite_poison _ (by simpa using hd)
  case good =>
    rintro rfl h8 hn
    rw [State.localRead_eq, State.localMarks_localWrite_same, key]
    exact pzRead_pzWrite_good _ (by omega) hn
  case bytes =>
    intro b n apart
    rw [State.localRead_eq, State.localRead_eq, State.localMem_localWrite_same]
    refine Memory.bytes_put_outside d wf ?_
    rw [key, key]
    omega
  case cores => exact fun q b n hq hb => State.localRead_localWrite_apart z hw (localKey_apart hq ha hb)
  case words =>
    intro b n apart
    rw [State.localRead_eq, State.localRead_eq, State.localMarks_localWrite_same, key, key]
    refine pzRead_pzWrite_outside _ z ?_
    unfold MeetsUnit
    omega
  case space => exact State.localRead_localWrite_other s p sp a d z hsp

end Sys2Proof.Machine
end

section
/-! Proofs of the statements about the step monitor and the staging pointer (R230, R237, R243 to R252): ledgers, rounds and their verdict, and what
a step repeat, a RESTART and a verdict leave. -/

namespace Sys2Proof.Machine

/-! ### States with the same near scratchpads, slices and tiers -/

/-- Two states have the same near scratchpads, slices and tiers, with their poison. -/
def State.SameMemory (s t : State) : Prop :=
  t.t0 = s.t0 ∧ t.slice = s.slice ∧ t.tier = s.tier ∧ t.t0Pz = s.t0Pz ∧ t.slicePz = s.slicePz ∧ t.tierPz = s.tierPz

theorem State.SameMemory.refl (s : State) : s.SameMemory s := ⟨rfl, rfl, rfl, rfl, rfl, rfl⟩

theorem State.SameMemory.trans {s t u : State} (h : s.SameMemory t) (k : t.SameMemory u) : s.SameMemory u := by
  obtain ⟨h1, h2, h3, h4, h5, h6⟩ := h
  obtain ⟨k1, k2, k3, k4, k5, k6⟩ := k
  exact ⟨k1.trans h1, k2.trans h2, k3.trans h3, k4.trans h4, k5.trans h5, k6.trans h6⟩

theorem State.IrqOnly.sameMemory {s t : State} (h : s.IrqOnly t) : s.SameMemory t := ⟨h.t0, h.slice, h.tier, h.t0Pz, h.slicePz, h.tierPz⟩

theorem State.RestartOnly.sameMemory {s t : State} (h : s.RestartOnly t) : s.SameMemory t := by
  rw [State.RestartOnly] at h
  rw [h]
  exact .refl s

theorem State.sameMemory_rstBegin (s : State) : s.SameMemory s.rstBegin := by
  simp [State.SameMemory]

/-! #### A completion (R394, R397) -/

theorem State.sameMemory_cqWrite (s : State) (r : Nat) (e : List Byte) (noirq : Bool) : s.SameMemory (s.cqWrite r e noirq) := by
  unfold State.cqWrite
  extract_lets x n a tail e' u v
  have sent : s.SameMemory v := .refl s
  split
  · exact sent.trans (State.irqOnly_msix ..).sameMemory
  · exact sent

theorem State.sameMemory_cqPost (s : State) (r : Nat) (j : RingJob) (k : Compl) : s.SameMemory (s.cqPost r j k) := by
  unfold State.cqPost
  simp only
  split
  · exact State.SameMemory.trans (t := s.setRing r _) (.refl s) (State.sameMemory_cqWrite ..)
  · exact State.SameMemory.trans (t := s.setRing r _) (.refl s) (State.irqOnly_level ..).sameMemory

theorem State.sameMemory_ringSettle (s : State) (r n : Nat) : s.SameMemory (s.ringSettle r n) := by
  induction n generalizing s with
  | zero => exact .refl s
  | succ n ih =>
    unfold State.ringSettle
    split
    · split
      · exact .refl s
      · exact (State.sameMemory_cqPost ..).trans (ih _)
    · exact .refl s

theorem State.sameMemory_hostDone (s : State) (r : Nat) (j : RingJob) (k : Compl) : s.SameMemory (s.hostDone r j k) :=
  (State.sameMemory_cqPost ..).trans (State.sameMemory_ringSettle ..)

/-- A command of the host whose effect ends at once changes no memory beyond that effect (R394). -/
theorem State.HostCmd.sameMemory {s t : State} {r opc : Nat} {c : BitVec 512} (h : s.HostCmd r opc c) (payload : List Byte)
    {eff : State → Nat → RingJob → Ans} (he : eff s r { cmd := c } = ok t) : t.SameMemory (s.onRing r opc payload eff) := by
  rw [h.runs, State.runHere_done he]
  obtain ⟨-, hr, -⟩ := h
  rw [State.ringDone, if_pos (by omega)]
  exact State.sameMemory_hostDone ..

/-! ### A step repeat (R167, R237) -/

theorem State.RestartOnly.refl (s : State) : s.RestartOnly s := rfl

theorem State.RestartOnly.trans {s t u : State} (h : s.RestartOnly t) (k : t.RestartOnly u) : s.RestartOnly u := by
  unfold State.RestartOnly at *
  rw [k, h]

theorem State.restartOnly_modCore (s : State) (p : Nat) (f : Core → Core) : s.RestartOnly (s.modCore p f) := rfl

theorem State.IrqOnly.restartOnly {s t : State} (h : s.IrqOnly t) : s.RestartOnly t := by
  rw [State.IrqOnly] at h
  rw [h]
  rfl

theorem State.restartOnly_repeatStep (s : State) (p : Nat) : s.RestartOnly (s.repeatStep p) := by
  obtain ⟨ob, eq⟩ := State.dropPins_foldl_only s (s.core p).pins
  rw [State.repeatStep, eq]
  exact State.RestartOnly.trans (t := State.modCore { s with obj := ob } p _) rfl (State.irqOnly_irqCore ..).restartOnly

/-- A step repeat resets the staging pointer of its core (R237). -/
theorem State.stg_repeatStep (s : State) (p : Nat) : ((s.repeatStep p).core p).upd.stg = 0 := by
  obtain ⟨ob, eq⟩ := State.dropPins_foldl_only s (s.core p).pins
  rw [State.repeatStep, eq, State.core_irqCore, State.core_modCore_self]
  rfl

theorem State.core_repeatStep_ne (s : State) {p q : Nat} (h : p ≠ q) : (s.repeatStep p).core q = s.core q := by
  obtain ⟨ob, eq⟩ := State.dropPins_foldl_only s (s.core p).pins
  rw [State.repeatStep, eq, State.core_irqCore, State.core_modCore_ne _ _ h]
  rfl

/-! ### A verdict other than COMMIT comes to one core (R246) -/

section OneCore

variable {v : Verdict} (hv : v.verdict ≠ 1)
include hv

theorem State.restartOnly_coreVerdict (s : State) (p : Nat) : s.RestartOnly (s.coreVerdict p v) := by
  unfold State.coreVerdict
  extract_lets c t
  rw [if_neg hv]
  have norms : s.RestartOnly t := State.restartOnly_modCore ..
  split
  · exact norms.trans (State.restartOnly_modCore ..)
  · split
    · exact norms.trans (State.restartOnly_repeatStep ..)
    · exact norms

theorem State.core_coreVerdict_ne (s : State) {p q : Nat} (h : p ≠ q) : (s.coreVerdict p v).core q = s.core q := by
  unfold State.coreVerdict
  simp only [if_neg hv]
  split
  · rw [State.core_modCore_ne _ _ h, State.core_modCore_ne _ _ h]
  · split
    · rw [State.core_repeatStep_ne _ h, State.core_modCore_ne _ _ h]
    · rw [State.core_modCore_ne _ _ h]

end OneCore

/-- What a SKIP makes of a core that waits for the verdict, where no commit of a saved step is under way: its staging is empty, the SKIP is
counted, and its STEP.CLOSE is told (R166, R246). -/
theorem State.core_coreVerdict_skip {s : State} {p : Nat} {v : Verdict} {u : SeqCur} (hv : v.verdict = 2)
    (hc : (s.core p).pre.contCommit = false) (hu : (s.core p).seq.cur = some u) (hs : u.sent = true) :
    ((s.coreVerdict p v).core p).upd.stg = 0 ∧ ((s.coreVerdict p v).core p).upd.phase = .idle ∧ ((s.coreVerdict p v).core p).upd.touched = []
      ∧ ((s.coreVerdict p v).core p).count 0x2514 = ((s.core p).count 0x2514 + 1) % 2 ^ 32
      ∧ ((s.coreVerdict p v).core p).seq.cur = some { u with outcome := some 2 } := by
  have counted (k : Core) : (k.bump 0x2514 1).count 0x2514 = (k.count 0x2514 + 1) % 2 ^ 32 := Core.count_bump_self k _ _
  unfold State.coreVerdict
  simp only [hv, if_neg (show ¬(2 = 1) by decide), if_true, State.core_modCore_self]
  simp only [Core.tellClose, Core.bump, hc, Bool.false_eq_true, if_false, Core.modSeq, hu, Option.map_some, hs, if_true, true_and, and_true]
  exact counted (s.core p)

/-- A SKIP and a LATE verdict reset the staging pointer of a core whose step is open (R237, R246). -/
theorem State.stg_coreVerdict {s : State} {p : Nat} {v : Verdict} {u : SeqCur} (hv : v.verdict = 2 ∨ v.verdict = 3)
    (hc : (s.core p).pre.contCommit = false) (ho : (s.core p).seq.open_ = true) (hu : (s.core p).seq.cur = some u) (hs : u.sent = true) :
    ((s.coreVerdict p v).core p).upd.stg = 0 := by
  obtain skip | late := hv
  case inl =>
    obtain ⟨stg, -⟩ := State.core_coreVerdict_skip skip hc hu hs
    exact stg
  case inr =>
    unfold State.coreVerdict
    simp only [late, if_neg (show ¬(3 = 1) by decide), if_neg (show ¬(3 = 2) by decide), ho, if_true]
    exact State.stg_repeatStep ..

/-! ### A verdict other than COMMIT comes to every core that waits (R246) -/

/-- A core that waits for verdict v: its number, and whether its waiting step is the saved one. -/
def waitOf (v : Verdict) (x : Nat × Core) : Option (Nat × Bool) :=
  match x.2.pre.saved with
  | some y => if y.seq.awaits v.totals then some (x.1, true) else none
  | none => if x.2.seq.awaits v.totals && x.2.active then some (x.1, false) else none

/-- One waiting core acts on a verdict; a preempted one holds it. -/
def State.actOn (v : Verdict) (s : State) (x : Nat × Bool) : State :=
  if x.2 then s.modCore x.1 fun c => { c with pre := { c.pre with held := c.pre.held ++ [.verdict v] } } else s.coreVerdict x.1 v

theorem fst_of_waitOf {v : Verdict} {x : Nat × Core} {y : Nat × Bool} (h : waitOf v x = some y) : y.1 = x.1 := by
  unfold waitOf at h
  split at h
  all_goals
    obtain ⟨-, h⟩ := Option.ite_none_right_eq_some.1 h
    rw [← Option.some.inj h]

theorem waitOf_waiting {v : Verdict} {p : Nat} {c : Core} {u : SeqCur} (hp : c.pre.saved = none) (ha : c.active = true) (ho : c.seq.open_ = true)
    (hs : c.seq.step = v.totals.step) (ht : c.seq.attempt = v.totals.attempt) (hu : c.seq.cur = some u) (hsent : u.sent = true)
    (hout : u.outcome = none) : waitOf v (p, c) = some (p, false) := by
  simp [waitOf, hp, ha, Sequencer.awaits, ho, hs, ht, hu, hsent, hout]

/-- The state in which the waiting cores act on verdict v: the monitor has taken it, and the scale planes are settled (R250, R372). -/
def State.noted (s : State) (v : Verdict) : State := (s.noteVerdict v).flipPlanes v.verdict

section Verdicts

variable {v : Verdict} (hv : v.verdict ≠ 1)
include hv

theorem State.takeVerdict_eq (s : State) :
    s.takeVerdict v = ((s.noted v).cores.filterMap (waitOf v)).foldl (State.actOn v) (s.noted v) := by
  unfold State.takeVerdict
  simp only [hv, if_false]
  rfl

theorem State.restartOnly_actOn (s : State) (x : Nat × Bool) : s.RestartOnly (s.actOn v x) := by
  unfold State.actOn
  split
  · exact State.restartOnly_modCore ..
  · exact State.restartOnly_coreVerdict hv ..

theorem State.core_actOn_ne (s : State) {x : Nat × Bool} {q : Nat} (h : x.1 ≠ q) : (s.actOn v x).core q = s.core q := by
  unfold State.actOn
  split
  · exact State.core_modCore_ne _ _ h
  · exact State.core_coreVerdict_ne hv s h

theorem State.restartOnly_actOn_foldl (l : List (Nat × Bool)) (s : State) : s.RestartOnly (l.foldl (State.actOn v) s) :=
  foldl_inv (fun t : State => s.RestartOnly t) _ (fun t x h => h.trans (State.restartOnly_actOn hv t x)) l s (.refl s)

theorem State.core_actOn_foldl_ne {l : List (Nat × Bool)} {q : Nat} (h : ∀ x ∈ l, x.1 ≠ q) (s : State) :
    (l.foldl (State.actOn v) s).core q = s.core q := by
  induction l generalizing s with
  | nil => rfl
  | cons x t ih =>
    obtain ⟨hx, ht⟩ := List.forall_mem_cons.1 h
    rw [List.foldl_cons, ih ht, State.core_actOn_ne hv s hx]

/-- A waiting core acts on the verdict once, as it was before the others acted. -/
theorem State.core_actOn_foldl {l : List (Nat × Bool)} {p : Nat} (hl : l.Pairwise fun x y => x.1 ≠ y.1) (hp : (p, false) ∈ l) (s : State) :
    ∃ u : State, u.core p = s.core p ∧ (l.foldl (State.actOn v) s).core p = (u.coreVerdict p v).core p := by
  obtain ⟨l₁, l₂, rfl⟩ := List.append_of_mem hp
  obtain ⟨-, hl₂, before⟩ := List.pairwise_append.1 hl
  obtain ⟨after, -⟩ := List.pairwise_cons.1 hl₂
  refine ⟨l₁.foldl (State.actOn v) s, State.core_actOn_foldl_ne hv (fun x hx => before x hx _ (List.mem_cons_self ..)) s, ?_⟩
  rw [List.foldl_append, List.foldl_cons, State.core_actOn_foldl_ne hv fun x hx => (after x hx).symm]
  rfl

end Verdicts

/-! ### The monitor takes a verdict (R250 to R252) -/

theorem State.LinkOnly.sameMemory {s t : State} (h : s.LinkOnly t) : s.SameMemory t := by
  unfold State.LinkOnly State.PortOnly at h
  rw [h]
  exact .refl s

theorem State.LinkOnly.cores_sm {s t : State} (h : s.LinkOnly t) : t.cores = s.cores ∧ t.sm = s.sm := by
  unfold State.LinkOnly State.PortOnly at h
  rw [h]
  exact ⟨rfl, rfl⟩

theorem State.linkOnly_smCount (s : State) (o n : Nat) : s.LinkOnly (s.smCount o n) := rfl

/-- A cause that is raised with its counter. -/
theorem State.linkOnly_smNote (s : State) (o n b : Nat) : s.LinkOnly ((s.smCount o n).smCause b) :=
  (State.linkOnly_smCount s o n).trans (State.linkOnly_smCause ..)

/-- The monitor as a verdict leaves it. -/
def StepMon.noted (m : StepMon) (v : Verdict) : StepMon :=
  { m with verdict := some v, ewma := v.ewma, ewmaValid := v.ewmaValid, stepsSeen := v.stepsSeen, loss := v.loss, lastStep := v.totals.step
           ledgers := m.ledgers.filter fun l => !(l.step = v.totals.step ∧ l.attempt = v.totals.attempt) }

theorem State.linkOnly_noteVerdict (s : State) (v : Verdict) : ({ s with sm := s.sm.noted v } : State).LinkOnly (s.noteVerdict v) := by
  have noted (t : State) (b : Prop) [Decidable b] (o n i : Nat) : t.LinkOnly (if b then (t.smCount o n).smCause i else t) := by
    split
    · exact State.linkOnly_smNote ..
    · exact .refl t
  have counted (t : State) : t.LinkOnly (if v.verdict = 1 then t.smCount 0x84 1 else if v.verdict = 2 then (t.smCount 0x88 1).smCause 1
      else (t.smCount 0x8C 1).smCause 2) := by
    split
    · exact State.linkOnly_smCount ..
    · split <;> exact State.linkOnly_smNote ..
  have limit (t : State) (b : Prop) [Decidable b] : t.LinkOnly (if b then t.smCause 5 else t) := by
    split
    · exact State.linkOnly_smCause ..
    · exact .refl t
  unfold State.noteVerdict
  simp only
  refine State.LinkOnly.trans ?_ (limit ..)
  refine State.LinkOnly.trans ?_ (State.linkOnly_smCount ..)
  refine State.LinkOnly.trans ?_ (noted ..)
  refine State.LinkOnly.trans ?_ (noted ..)
  exact (State.linkOnly_smCount _ 0x80 1).trans (counted _)

theorem State.noted_keeps (s : State) (v : Verdict) :
    s.SameMemory (s.noted v) ∧ (s.noted v).cores = s.cores ∧ (s.noted v).sm = s.sm.noted v := by
  have note := State.linkOnly_noteVerdict s v
  have planes : (s.noteVerdict v).SameMemory (s.noted v) := .refl _
  obtain ⟨cores, sm⟩ := note.cores_sm
  exact ⟨State.SameMemory.trans note.sameMemory planes, cores, sm⟩

/-- With no COMMIT the monitor takes the verdict, the waiting cores act, and no memory changes. -/
theorem State.takeVerdict_keeps {v : Verdict} (hv : v.verdict ≠ 1) (s : State) :
    s.SameMemory (s.takeVerdict v) ∧ (s.takeVerdict v).sm = s.sm.noted v := by
  obtain ⟨memory, -, sm⟩ := State.noted_keeps s v
  have acted := State.restartOnly_actOn_foldl hv ((s.noted v).cores.filterMap (waitOf v)) (s.noted v)
  rw [State.takeVerdict_eq hv]
  refine ⟨memory.trans acted.sameMemory, ?_⟩
  rw [State.RestartOnly] at acted
  rw [acted]
  exact sm

/-- A listed core of a state that lists each core once. -/
theorem State.core_of_mem {s : State} {p : Nat} {c : Core} (hn : (s.cores.map Prod.fst).Nodup) (hp : (p, c) ∈ s.cores) : s.core p = c := by
  unfold State.core
  generalize s.cores = m at hn hp
  induction m with
  | nil => exact absurd hp List.not_mem_nil
  | cons x t ih =>
    obtain ⟨fresh, rest⟩ := List.nodup_cons.1 hn
    obtain rfl | hp := List.mem_cons.1 hp
    · exact if_pos rfl
    · have other : x.1 ≠ p := fun e => fresh (List.mem_map.2 ⟨_, hp, e.symm⟩)
      exact (if_neg other).trans (ih rest hp)

/-- A core that waits for a verdict other than COMMIT acts on it once, as it was when the verdict came. -/
theorem State.core_takeVerdict {s : State} {p : Nat} {c : Core} {v : Verdict} (hv : v.verdict ≠ 1) (hn : (s.cores.map Prod.fst).Nodup)
    (hp : (p, c) ∈ s.cores) (hw : waitOf v (p, c) = some (p, false)) :
    ∃ u : State, u.core p = c ∧ (s.takeVerdict v).core p = (u.coreVerdict p v).core p := by
  obtain ⟨-, same, -⟩ := State.noted_keeps s v
  have once : (s.cores.filterMap (waitOf v)).Pairwise fun x y => x.1 ≠ y.1 := by
    refine List.Pairwise.filterMap _ ?_ (List.pairwise_map.1 hn)
    intro a b hab x hx y hy
    rwa [fst_of_waitOf hx, fst_of_waitOf hy]
  obtain ⟨u, hu, met⟩ := State.core_actOn_foldl hv once (List.mem_filterMap.2 ⟨_, hp, hw⟩) (s.noted v)
  refine ⟨u, hu.trans ((State.core_congr same p).trans (State.core_of_mem hn hp)), ?_⟩
  rw [State.takeVerdict_eq hv, same, met]

/-! ### Ledgers (R244, R249) -/

theorem StepMon.exists_modLedger (m : StepMon) (step attempt : Nat) {f : Ledger → Ledger} {P : Ledger → Prop}
    (hf : ∀ l, l.step = step → l.attempt = attempt → P (f l)) : ∃ l ∈ (m.modLedger step attempt f).ledgers, P l := by
  unfold StepMon.modLedger
  split
  next h =>
    obtain ⟨l, hl, hs⟩ := List.any_eq_true.1 h
    have here := of_decide_eq_true hs
    exact ⟨f l, List.mem_map.2 ⟨l, hl, if_pos here⟩, hf l here.1 here.2⟩
  next => exact ⟨_, List.mem_append_right _ (List.mem_singleton_self _), hf _ rfl rfl⟩

/-- The ledger of the only step that is open. -/
theorem StepMon.modLedger_single {m : StepMon} {l : Ledger} (h : m.ledgers = [l]) (f : Ledger → Ledger) :
    m.modLedger l.step l.attempt f = { m with ledgers := [f l] } := by
  simp [StepMon.modLedger, h]

theorem State.closed_iff {s : State} {l : Ledger} (h : s.colls = []) :
    s.closed l = true ↔ l.opened ≠ [] ∧ ∀ c ∈ l.opened, c ∈ l.reported := by
  simp [State.closed, h]

/-- A ledger in which a core that opened has not reported stays (R244). -/
theorem State.closed_of_missing {s : State} {l : Ledger} {c : Nat} (ho : c ∈ l.opened) (hr : c ∉ l.reported) : s.closed l = false := by
  have missing : (l.opened.all fun c => l.reported.contains c) = false :=
    List.all_eq_false.2 ⟨c, ho, by simpa using hr⟩
  rw [State.closed, missing, Bool.and_false, Bool.false_and]

theorem State.sendTotals_of_open {s : State} {l : Ledger} (h : s.sm.ledgers = [l]) (ho : s.closed l = false) : s.sendTotals = s := by
  simp [State.sendTotals, h, ho]

/-- At the anchor the totals of the ledger that closes go to its own monitor (R244, R245). -/
theorem State.sendTotals_of_closed {s : State} {l : Ledger} (h : s.sm.ledgers = [l]) (hc : s.closed l = true) (ha : s.isAnchor = true) :
    s.sendTotals = State.send { s with sm := { s.sm with ledgers := [], sent := s.sm.sent ++ [(l.step, l.attempt)] } }
      (.totals { l.acc with late := l.late }) := by
  have anchor (m : StepMon) : ({ s with sm := m } : State).isAnchor = true := ha
  simp [State.sendTotals, h, hc, anchor]

theorem exec_openNoticeReceive_open {s : State} {k src c st a n : Nat} (hm : s.mesh[k]? = some (.openNotice src c st a n)) (hi : s.inOrder k = true)
    (hs : s.sm.sent.contains (st, a) = false) :
    exec (.openNoticeReceive k) s = .next ((s.unsend k).modLedger st a fun l => { l with opened := sins l.opened c }) := by
  change execOpenNoticeReceive k s = _
  simp only [execOpenNoticeReceive, hm, hi, State.unsend, hs, Bool.not_true, Bool.false_eq_true, if_false]

theorem exec_openNoticeReceive_sent {s : State} {k src c st a n : Nat} (hm : s.mesh[k]? = some (.openNotice src c st a n)) (hi : s.inOrder k = true)
    (hs : s.sm.sent.contains (st, a) = true) :
    exec (.openNoticeReceive k) s
      = .next ((s.unsend k).halt src { pc := (s.core src).seq.stepPc, unit := 0, reason := 0x01, seqno := n, info := 0xC }) := by
  change execOpenNoticeReceive k s = _
  simp only [execOpenNoticeReceive, hm, hi, State.unsend, hs, Bool.not_true, Bool.false_eq_true, if_false, if_true]
  rfl

/-- The ledger that has taken a close report (R244). -/
def Ledger.reports (l : Ledger) (r : CloseReport) : Ledger := { l with acc := totalsAdd l.acc (reportTotals r), reported := sins l.reported r.core }

/-- The state once the only ledger has taken close report `r`, which was message k. -/
def State.reported (s : State) (k : Nat) (l : Ledger) (r : CloseReport) : State :=
  { s with mesh := s.mesh.eraseIdx k, sm := { s.sm with ledgers := [l.reports r] } }

theorem exec_closeReportReceive_single {s : State} {k src : Nat} {r : CloseReport} {l : Ledger} (hm : s.mesh[k]? = some (.closeReport src r))
    (hi : s.inOrder k = true) (hl : s.sm.ledgers = [l]) (hs : l.step = r.step) (ha : l.attempt = r.attempt) :
    exec (.closeReportReceive k) s = .next (s.reported k l r).sendTotals := by
  change execCloseReportReceive k s = _
  simp only [execCloseReportReceive, hm, hi, Bool.not_true, Bool.false_eq_true, if_false, State.modLedger, State.unsend, ← hs, ← ha,
    StepMon.modLedger_single hl]
  rfl

/-! ### Rounds (R245, R250) -/

theorem exec_deviceTotalsReceive_some {s : State} {d : Nat} {x : Totals} (ha : s.isAnchor = true) (hx : x.done = false) :
    exec (.deviceTotalsReceive d (some x)) s = .next (s.addTotals d x) := by
  change execDeviceTotalsReceive d (some x) s = _
  simp [execDeviceTotalsReceive, ha, hx]

theorem State.closeRound_waits {s : State} {r : Round} {m : Nat} (hm : m ∈ r.roster) (hg : afind r.got m = none) : s.closeRound r = s := by
  have missing : (r.roster.all fun d => (afind r.got d).isSome) = false := List.all_eq_false.2 ⟨m, hm, by simp [hg]⟩
  rw [State.closeRound, missing]
  rfl

theorem State.addTotals_waits {s : State} {d m : Nat} {x : Totals} {r : Round} (hr : s.sm.rounds = [r]) (hs : r.step = x.step)
    (ha : r.attempt = x.attempt) (hm : m ∈ r.roster) (hd : m ≠ d) (hg : afind r.got m = none) :
    s.addTotals d x = { s with sm := { s.sm with rounds := [{ r with got := aset r.got d x }] } } := by
  have waits (t : State) : t.closeRound { r with got := aset r.got d x } = t :=
    State.closeRound_waits hm ((afind_aset_ne _ _ hd.symm).trans hg)
  simp [State.addTotals, hr, ← hs, ← ha, waits]

/-- A device alone completes its round with its own totals (R245). -/
theorem State.addTotals_alone {s : State} {x : Totals} (hr : s.sm.rounds = []) (hs : s.roster = [s.devId]) :
    s.addTotals s.devId x
      = State.send { s with sm := { s.sm with rounds := [], commitDevs := if (s.formVerdict x).verdict = 1 then [s.devId] else s.sm.commitDevs } }
          (.verdict (s.formVerdict x)) := by
  have dev (m : StepMon) : ({ s with sm := m } : State).devId = s.devId := rfl
  have verdict (l : List Round) : ({ s with sm := { s.sm with rounds := l } } : State).formVerdict x = s.formVerdict x := rfl
  simp [State.addTotals, hr, hs, aset, State.closeRound, afind, State.endRound, dev, verdict]

/-- When a round's verdict is SKIP (R245, R250). -/
def State.skips (s : State) (x : Totals) : Bool :=
  x.laccSat.any id || (bitAt s.smPolicy 0 && (x.updNf ≠ 0 || x.normNf ≠ 0)) || (bitAt s.smPolicy 1 && x.drnNf + x.lossNf ≠ 0)
    || (bitAt s.smPolicy 2 && s.satLim < x.drnSat) || (bitAt s.smPolicy 3 && (s.formVerdict x).spike)

theorem State.verdict_formVerdict (s : State) (x : Totals) :
    (s.formVerdict x).verdict = if x.late then 3 else if s.skips x then 2 else 1 := rfl

theorem State.skips_iff (s : State) (x : Totals) :
    s.skips x = true ↔ x.laccSat.any id = true ∨ (bitAt s.smPolicy 0 = true ∧ (x.updNf ≠ 0 ∨ x.normNf ≠ 0))
      ∨ (bitAt s.smPolicy 1 = true ∧ x.drnNf + x.lossNf ≠ 0) ∨ (bitAt s.smPolicy 2 = true ∧ s.satLim < x.drnSat)
      ∨ (bitAt s.smPolicy 3 = true ∧ (s.formVerdict x).spike = true) := by
  simp only [State.skips, Bool.or_eq_true, Bool.and_eq_true, decide_eq_true_eq, or_assoc]

/-- A round that counted no loss learns nothing (R250). -/
theorem State.formVerdict_lossless (s : State) {x : Totals} (h : x.lossCount = 0) :
    (s.formVerdict x).spike = false ∧ (s.formVerdict x).ewma = s.sm.ewma := by
  simp [State.formVerdict, h]

/-! ### The deadline of a close (R249, R252) -/

/-- A ledger that a close deadline marks: a core has reported and it is not marked yet. -/
def Ledger.due (l : Ledger) : Bool := !l.reported.isEmpty && !l.timed

/-- The ledger after a close deadline (R249). -/
def Ledger.marked (l : Ledger) : Ledger := if l.due then { l with timed := true } else l

theorem exec_closeDeadline_due {s : State} (h : s.sm.ledgers.any Ledger.due = true) :
    exec .closeDeadline s
      = .next ((State.smCause { s with sm := { s.sm with ledgers := s.sm.ledgers.map Ledger.marked } } 6).smCount 0x9C 1) :=
  congrArg Host.Outcome.next (if_pos h)

/-- A cause of the monitor is a bit of SM_CAUSE; it counts nothing (R252). -/
theorem State.smCause_effect (s : State) (n : Nat) :
    aget 0 (s.smCause n).regs 0x8038 = aget 0 s.regs 0x8038 ||| (1 <<< n) ∧ (s.smCause n).cnt = s.cnt ∧ (s.smCause n).sm = s.sm := by
  simp [State.smCause]

/-- Every ledger in which a core has reported is marked. -/
theorem Ledger.timed_marked {l : Ledger} (h : l.marked.reported ≠ []) : l.marked.timed = true := by
  unfold Ledger.marked at h ⊢
  split at h
  next due => rw [if_pos due]
  next due =>
    rw [if_neg due]
    simpa [Ledger.due, h] using due

/-- Settles O22, an event of the monitor at a time. -/
theorem stepMonitorRounds : Obligations.StepMonitorRounds := by
  refine ⟨?notice, ?refused, ?report, ?closes, ?waits, ?alone, ?skip, ?deadline⟩
  case notice =>
    intro s k src c st a n hm hi hs
    refine ⟨_, exec_openNoticeReceive_open hm hi hs, rfl, rfl, StepMon.exists_modLedger _ st a fun l hst ha => ⟨hst, ha, ?_⟩⟩
    exact (mem_sins ..).2 (.inl rfl)
  case refused =>
    intro s k src c st a n hm hi hs hh hf
    refine ⟨_, exec_openNoticeReceive_sent hm hi hs, ?_⟩
    rw [State.seq_halt (s := s.unsend k) _ hh hf]
    refine ⟨?_, rfl, rfl⟩
    rw [(State.stopOnly_halt (s.unsend k) src _).1]
    rfl
  case report =>
    intro s k src r l hm hi hl hst ha missing
    obtain ⟨c, ho, hc, hr⟩ := missing
    refine ⟨_, exec_closeReportReceive_single hm hi hl hst ha, ?_⟩
    rw [State.sendTotals_of_open (s := s.reported k l r) rfl (State.closed_of_missing ho (by simp [Ledger.reports, hc, hr]))]
    exact ⟨rfl, rfl⟩
  case closes =>
    intro s k src r l hm hi hl hst ha hne all hcolls hanchor
    refine ⟨_, exec_closeReportReceive_single hm hi hl hst ha, ?_⟩
    have closed : (s.reported k l r).closed (l.reports r) = true :=
      (State.closed_iff hcolls).2 ⟨hne, fun c hc => (mem_sins ..).2 (all c hc)⟩
    rw [State.sendTotals_of_closed (s := s.reported k l r) rfl closed hanchor, ← hst, ← ha]
    exact ⟨rfl, rfl, rfl⟩
  case waits =>
    intro s d m x r ha hx hr hst hat hm hd hg
    refine ⟨_, exec_deviceTotalsReceive_some ha hx, ?_⟩
    rw [State.addTotals_waits hr hst hat hm hd hg]
    exact ⟨rfl, rfl⟩
  case alone =>
    rintro s x _ ha hx hr hs rfl
    refine ⟨_, s.formVerdict x, exec_deviceTotalsReceive_some ha hx, ?_⟩
    rw [State.addTotals_alone hr hs]
    refine ⟨rfl, rfl, rfl, fun late => ?_, fun late => ⟨?_, ?_⟩, State.formVerdict_lossless s⟩
    · rw [State.verdict_formVerdict, if_pos late]
    · rw [State.verdict_formVerdict, late]
      refine Iff.trans ?_ (State.skips_iff s x)
      cases s.skips x <;> decide
    · rw [State.verdict_formVerdict, late]
      cases s.skips x <;> decide
  case skip =>
    intro s p c v u hn hp hsaved hact hopen hst hat hcur hsent hout hcont hv
    have other : v.verdict ≠ 1 := by omega
    obtain ⟨w, core, met⟩ := State.core_takeVerdict other hn hp (waitOf_waiting hsaved hact hopen hst hat hcur hsent hout)
    obtain ⟨⟨t0, slice, tier, -⟩, sm⟩ := State.takeVerdict_keeps other s
    rw [← core] at hcont hcur
    obtain ⟨stg, phase, touched, counted, told⟩ := State.core_coreVerdict_skip hv hcont hcur hsent
    rw [core] at counted
    refine ⟨_, rfl, by rw [sm]; rfl, by rw [sm]; rfl, by rw [sm]; rfl, ?_⟩
    rw [met]
    exact ⟨stg, phase, touched, counted, told, tier, slice, t0⟩
  case deadline =>
    intro s l hl hr ht
    have due : s.sm.ledgers.any Ledger.due = true := List.any_eq_true.2 ⟨l, hl, by simp [Ledger.due, hr, ht]⟩
    refine ⟨_, exec_closeDeadline_due due, ?_⟩
    obtain ⟨cause, cnt, sm⟩ := State.smCause_effect { s with sm := { s.sm with ledgers := s.sm.ledgers.map Ledger.marked } } 6
    refine ⟨?_, ?_, ?_, ?_⟩
    · rw [State.smCount, State.bump_regs, cause]
      simp
    · rw [State.smCount, State.count_bump_self, State.count_congr cnt]
      rfl
    · rw [State.smCount, State.bump_sm, sm]
      intro x hx
      obtain ⟨y, -, rfl⟩ := List.mem_map.1 hx
      exact Ledger.timed_marked
    · rw [State.smCount, State.bump_sm, sm]
      exact List.length_map ..

/-- Settles O57: a step repeat, a RESTART and a verdict reset the pointer of their core, and what goes with them leaves the memories. -/
theorem stagingIsDiscarded : Obligations.StagingIsDiscarded := by
  refine ⟨?restart, ?repeats, ?verdict⟩
  case restart =>
    intro s c p ha hp hc hr
    refine ⟨_, exec_restart_parked ha hp hc hr, ?_, (State.restartOnly_restartCore s p).sameMemory.trans (State.sameMemory_rstBegin _)⟩
    rw [State.core_rstBegin, State.core_restartCore_self]
    rfl
  case repeats =>
    intro s r n p c h hset hp h0 ho hi hs
    have run := stepRepeatCmd_open r hset hp h0 ho hi hs
    obtain ⟨sent, -⟩ := h.ends [] run (State.sameRings_repeatStep s p)
    refine ⟨_, rfl, ?_, (State.restartOnly_repeatStep s p).sameMemory.trans (h.sameMemory [] run)⟩
    rw [sent.core]
    exact State.stg_repeatStep s p
  case verdict =>
    intro s p c v u hn hp hsaved hact hopen hst hat hcur hsent hout hcont hv
    have other : v.verdict ≠ 1 := by omega
    obtain ⟨w, core, met⟩ := State.core_takeVerdict other hn hp (waitOf_waiting hsaved hact hopen hst hat hcur hsent hout)
    obtain ⟨memory, -⟩ := State.takeVerdict_keeps other s
    rw [← core] at hcont hopen hcur
    refine ⟨_, rfl, ?_, memory⟩
    rw [met]
    exact State.stg_coreVerdict hv hcont hopen hcur hsent

end Sys2Proof.Machine
end

section
/-! Proof of the statement that every step keeps the canonical form of the memories (09; R255, R295, R471). The form is a fact about six
lists of cells alone, so one lemma for each function of the model that answers a state says that the function keeps it. Few functions
write a memory; the others keep it because the functions they are made of do, or because they update other fields. -/

namespace Sys2Proof.Machine

-- One proof at a time: several hundred short proofs elaborated at once exhaust the threads that the check's memory limit allows.
set_option Elab.async false

/-! ### Canonical memories of what a function answers -/

/-- The next state of an outcome has canonical memories. -/
def Out.MemWf (o : Out) : Prop := ∀ t, o = .next t → t.MemWf

/-- The state that a command of a ring answers with has canonical memories. -/
def Ans.MemWf : Ans → Prop
  | .wait t => t.MemWf
  | .done t _ => t.MemWf

/-- The state that the start of a word answers with has canonical memories. -/
def Start.MemWf : Start → Prop
  | .go t _ => t.MemWf
  | .wait t => t.MemWf
  | .stop t => t.MemWf

/-- The state in which a buffer has landed has canonical memories. -/
def Landing.MemWf : Landing → Prop
  | .done t => t.MemWf
  | .outside _ => True

/-- An access that may stop its core leaves canonical memories, whether it stops the core or goes on; `f` picks the state that goes on. -/
def Tried {α : Type} (f : α → State) : Except State α → Prop
  | .error t => t.MemWf
  | .ok y => (f y).MemWf

theorem Tried.error {α : Type} {f : α → State} {x : Except State α} {t : State} (k : Tried f x) (e : x = .error t) : t.MemWf := by
  rw [e] at k
  exact k

theorem Tried.ok {α : Type} {f : α → State} {x : Except State α} {y : α} (k : Tried f x) (e : x = .ok y) : (f y).MemWf := by
  rw [e] at k
  exact k

theorem Landing.MemWf.done {x : Landing} {t : State} (k : x.MemWf) (e : x = .done t) : t.MemWf := by
  rw [e] at k
  exact k

theorem Out.MemWf.next {t : State} (h : t.MemWf) : Out.MemWf (.next t) := by
  rintro _ ⟨⟩
  exact h

theorem Ans.MemWf.ite {x y : Ans} {c : Prop} [Decidable c] (hx : x.MemWf) (hy : y.MemWf) : (if c then x else y).MemWf := by
  split
  · exact hx
  · exact hy

theorem Start.MemWf.ite {x y : Start} {c : Prop} [Decidable c] (hx : x.MemWf) (hy : y.MemWf) : (if c then x else y).MemWf := by
  split
  · exact hx
  · exact hy

theorem Tried.ite {α : Type} {f : α → State} {x y : Except State α}
    {c : Prop} [Decidable c] (hx : Tried f x) (hy : Tried f y) : Tried f (if c then x else y) := by
  split
  · exact hx
  · exact hy

/-! ### The form, by the shape of an update -/

/-- An update of other fields: each memory is the same by the update's own text. -/
theorem State.MemWf.keep {s t : State} (h : s.MemWf) (ht0 : t.t0 = s.t0 := by with_reducible rfl)
    (hslice : t.slice = s.slice := by with_reducible rfl) (htier : t.tier = s.tier := by with_reducible rfl)
    (hflash : t.flash = s.flash := by with_reducible rfl) (hbar2 : t.bar2 = s.bar2 := by with_reducible rfl)
    (hsram : t.sram = s.sram := by with_reducible rfl) : t.MemWf := by
  unfold State.MemWf
  rw [ht0, hslice, htier, hflash, hbar2, hsram]
  exact h

theorem State.MemWf.ite {s t : State} {c : Prop} [Decidable c] (hs : s.MemWf) (ht : t.MemWf) : (if c then s else t).MemWf := by
  split
  · exact hs
  · exact ht

theorem State.MemWf.foldl {α : Type} {f : State → α → State} {l : List α} {s : State} (hf : ∀ s x, s.MemWf → (f s x).MemWf)
    (h : s.MemWf) : (l.foldl f s).MemWf :=
  foldl_inv State.MemWf f hf l s h

theorem State.MemWf.foldl_fst {α β : Type} {f : State × β → α → State × β} {l : List α}
    {x : State × β} (hf : ∀ y a, y.1.MemWf → (f y a).1.MemWf) (h : x.1.MemWf) : (l.foldl f x).1.MemWf :=
  foldl_inv (fun y => y.1.MemWf) f hf l x h

theorem State.MemWf.foldl_snd {α β : Type} {f : β × State → α → β × State} {l : List α}
    {x : β × State} (hf : ∀ y a, y.2.MemWf → (f y a).2.MemWf) (h : x.2.MemWf) : (l.foldl f x).2.MemWf :=
  foldl_inv (fun y => y.2.MemWf) f hf l x h

theorem State.MemWf.of_fst {β : Type} {x : State × β} {t : State} {b : β} (h : x.1.MemWf) (e : x = (t, b)) : t.MemWf := by
  rw [e] at h
  exact h

theorem State.MemWf.of_snd {β : Type} {x : β × State} {t : State} {b : β} (h : x.2.MemWf) (e : x = (b, t)) : t.MemWf := by
  rw [e] at h
  exact h

/-! #### The relations of the laws that leave every memory -/

theorem State.MemWf.irqOnly {s t : State} (h : s.MemWf) (k : s.IrqOnly t) : t.MemWf := by
  unfold State.IrqOnly at k
  rw [k]
  exact h.keep

theorem State.MemWf.portOnly {s t : State} (h : s.MemWf) (k : s.PortOnly t) : t.MemWf := by
  unfold State.PortOnly at k
  rw [k]
  exact h.keep

theorem State.MemWf.linkOnly {s t : State} (h : s.MemWf) (k : s.LinkOnly t) : t.MemWf := by
  unfold State.LinkOnly State.PortOnly at k
  rw [k]
  exact h.keep

theorem State.MemWf.readOnly {s t : State} (h : s.MemWf) (k : s.ReadOnly t) : t.MemWf := by
  unfold State.ReadOnly at k
  rw [k]
  exact h.keep

theorem State.MemWf.stopOnly {s t : State} (h : s.MemWf) (k : s.StopOnly t) : t.MemWf := by
  obtain ⟨k, -⟩ := k
  rw [k]
  exact h.keep

theorem State.MemWf.ite_fst {β : Type} {x y : State × β} {c : Prop} [Decidable c] (hx : x.1.MemWf) (hy : y.1.MemWf) :
    (if c then x else y).1.MemWf := by
  split
  · exact hx
  · exact hy

theorem State.MemWf.ite_snd {β : Type} {x y : β × State} {c : Prop} [Decidable c] (hx : x.2.MemWf) (hy : y.2.MemWf) :
    (if c then x else y).2.MemWf := by
  split
  · exact hx
  · exact hy

theorem Memory.wfFrom_filter (f : Host.Cell → Bool) {lo : Nat} {m : Memory}
    (h : Memory.wfFrom lo m = true) : Memory.wfFrom lo (m.filter f) = true := by
  induction m generalizing lo with
  | nil => rfl
  | cons c t ih =>
    obtain ⟨k, b⟩ := c
    simp only [Memory.wfFrom, Bool.and_eq_true, decide_eq_true_eq] at h
    obtain ⟨⟨hlo, hb⟩, ht⟩ := h
    rw [List.filter_cons]
    split
    · simp only [Memory.wfFrom, Bool.and_eq_true, decide_eq_true_eq]
      exact ⟨⟨hlo, hb⟩, ih ht⟩
    · exact Memory.wfFrom_le (ih ht) (by omega)

theorem Memory.wf_filter (f : Host.Cell → Bool) {m : Memory} (h : Memory.wf m = true) : Memory.wf (m.filter f) = true := Memory.wfFrom_filter f h

theorem Start.MemWf.go {x : Start} {t : State} {e : Cqe} (k : x.MemWf) (h : x = .go t e) : t.MemWf := by
  rw [h] at k
  exact k

theorem Start.MemWf.wait {x : Start} {t : State} (k : x.MemWf) (h : x = .wait t) : t.MemWf := by
  rw [h] at k
  exact k

theorem Start.MemWf.stop {x : Start} {t : State} (k : x.MemWf) (h : x = .stop t) : t.MemWf := by
  rw [h] at k
  exact k

section
variable {s : State}

/-! ### Cores, flips, counters, interrupts and local memory -/

theorem State.MemWf.localPoison {p space a : Nat} {pz : List Nat} (h : s.MemWf) : (s.localPoison p space a pz).MemWf := .ite h.keep h.keep

theorem State.MemWf.localClear {p space : Nat} {parts : List (Nat × Nat)} (h : s.MemWf) : (s.localClear p space parts).MemWf := .ite h.keep h.keep

theorem State.MemWf.setCore {p : Nat} {c : Core} (h : s.MemWf) : (s.setCore p c).MemWf := h.keep rfl rfl rfl rfl rfl rfl

theorem State.MemWf.modCore {p : Nat} {f : Core → Core} (h : s.MemWf) : (s.modCore p f).MemWf := h.setCore

theorem State.MemWf.enter {f : Flip} (h : s.MemWf) : (s.enter f).MemWf := h.keep rfl rfl rfl rfl rfl rfl

theorem State.MemWf.leave {old : State} {f : Flip} (h : s.MemWf) : (s.leave old f).MemWf := h.keep rfl rfl rfl rfl rfl rfl

theorem State.MemWf.under {isl : Nat} {g : State → State} (h : s.MemWf) (hg : ∀ s, s.MemWf → (g s).MemWf) : (s.under isl g).MemWf :=
  .ite h <| by split; exacts [hg _ h, .ite (hg _ h) <| .ite (hg _ h.enter).leave (hg _ h.enter)]

theorem State.MemWf.rstBegin (h : s.MemWf) : (s.rstBegin).MemWf := by
  unfold State.rstBegin
  split
  · exact .ite h.keep h
  · exact h

theorem State.MemWf.onCore {l : Nat} {f : State → Nat → Core → State}
    (h : s.MemWf) (hf : ∀ s p c, s.MemWf → (f s p c).MemWf) : (s.onCore l f).MemWf := by
  unfold State.onCore
  split
  · exact .ite h (.rstBegin (h.under (fun _ h1 => hf _ _ _ h1)))
  · exact h

theorem State.MemWf.bump {off n : Nat} (h : s.MemWf) : (s.bump off n).MemWf := h.keep rfl rfl rfl rfl rfl rfl

theorem State.MemWf.bumpCore {p off n : Nat} (h : s.MemWf) : (s.bumpCore p off n).MemWf := h.modCore

theorem State.MemWf.emit {e : OutEvent} (h : s.MemWf) : (s.emit e).MemWf := h.keep rfl rfl rfl rfl rfl rfl

theorem State.MemWf.send {f : Flight} (h : s.MemWf) : (s.send f).MemWf := h.keep rfl rfl rfl rfl rfl rfl

theorem State.MemWf.free (h : s.MemWf) : (s.free).2.MemWf := h.keep rfl rfl rfl rfl rfl rfl

theorem State.MemWf.setIrq {src : Nat} {x : IrqSrc} (h : s.MemWf) : (s.setIrq src x).MemWf := h.keep rfl rfl rfl rfl rfl rfl

theorem State.MemWf.msix {v : Nat} (h : s.MemWf) : (s.msix v).MemWf := h.irqOnly (State.irqOnly_msix ..)

theorem State.MemWf.irqDeliver (h : s.MemWf) : (s.irqDeliver).MemWf := h.irqOnly (State.irqOnly_deliver _)

theorem State.MemWf.irqPend {src : Nat} (h : s.MemWf) : (s.irqPend src).MemWf := h.irqOnly (State.irqOnly_pend ..)

theorem State.MemWf.irqEvent {src : Nat} (h : s.MemWf) : (s.irqEvent src).MemWf := h.irqOnly (State.irqOnly_event ..)

theorem State.MemWf.level {src : Nat} {b : Bool} (h : s.MemWf) : (s.level src b).MemWf := h.irqOnly (State.irqOnly_level ..)

theorem State.MemWf.pulse {src : Nat} (h : s.MemWf) : (s.pulse src).MemWf := h.irqOnly (State.irqOnly_pulse ..)

theorem State.MemWf.irqCore {p : Nat} (h : s.MemWf) : (s.irqCore p).MemWf := h.irqOnly (State.irqOnly_irqCore ..)

theorem State.MemWf.causeLevel {cause inten src : Nat} {d : W32} (h : s.MemWf) : (s.causeLevel cause inten src d).MemWf := h.irqOnly
    (State.irqOnly_causeLevel ..)

theorem State.MemWf.raise {cause inten src : Nat} {d bits : W32} (h : s.MemWf) : (s.raise cause inten src d bits).MemWf := h.keep.causeLevel

theorem State.MemWf.frameCause {n bit : Nat} (h : s.MemWf) : (s.frameCause n bit).MemWf := h.stopOnly (State.stopOnly_frameCause ..)

theorem State.MemWf.frameFail {n : Nat} (h : s.MemWf) : (s.frameFail n).MemWf := h.stopOnly (State.stopOnly_frameFail ..)

theorem State.MemWf.failRun {fr : Option Nat} (h : s.MemWf) : (s.failRun fr).MemWf := h.stopOnly (State.stopOnly_failRun ..)

theorem State.MemWf.halt {p : Nat} {r : HaltRec} (h : s.MemWf) : (s.halt p r).MemWf := h.stopOnly (State.stopOnly_halt ..)

theorem State.MemWf.freeze {p : Nat} {r : FrzRec} (h : s.MemWf) : (s.freeze p r).MemWf := h.stopOnly (State.stopOnly_freeze ..)

theorem State.MemWf.sameCycle {p unit : Nat} {f : State → State} (h : s.MemWf) : (s.sameCycle p unit f).MemWf :=
  .ite h <| by dsimp only; split; exacts [h.setCore.bumpCore, h.setCore.bumpCore.freeze, h]

theorem State.MemWf.sendCredit {p q n : Nat} (h : s.MemWf) : (s.sendCredit p q n).MemWf := by
  unfold State.sendCredit
  split
  · exact .ite (by split; exacts [h.send, h]) h.send
  · exact h

theorem State.MemWf.release {p hd : Nat} (h : s.MemWf) : (s.release p hd).MemWf := by
  unfold State.release
  dsimp only
  split
  · exact h.setCore.sendCredit
  · exact h.setCore

theorem State.MemWf.signal {p b n : Nat} {r : HaltRec} (h : s.MemWf) : (s.signal p b n r).MemWf := .ite h.halt h.setCore

/-! ### Objects and their images -/

theorem State.MemWf.setObj {i : Nat} {e : ObjEnt} (h : s.MemWf) : (s.setObj i e).MemWf := h.keep rfl rfl rfl rfl rfl rfl

theorem State.MemWf.writePart {tier set a : Nat} {d : List PByte} (h : s.MemWf) : (s.writePart tier set a d).MemWf := by
  unfold State.writePart
  dsimp only
  split
  · exact h.localWrite ..
  · split
    · exact h.bumpCore
    · exact h
  · obtain ⟨ht0, hslice, htier, rest⟩ := h
    exact ⟨ht0, hslice, Memory.wf_put _ _ htier, rest⟩
  · exact h

theorem State.MemWf.devWrite {tier set a : Nat} {d : List PByte} (h : s.MemWf) : (s.devWrite tier set a d).MemWf :=
  .foldl (fun _ _ h1 => h1.writePart) h

theorem State.MemWf.bumpCodec {k off n : Nat} (h : s.MemWf) : (s.bumpCodec k off n).MemWf := h.bump

theorem State.MemWf.setBit {off bit : Nat} (h : s.MemWf) : (s.setBit off bit).MemWf := h.keep rfl rfl rfl rfl rfl rfl

theorem State.MemWf.codecErr {k bit : Nat} (h : s.MemWf) : (s.codecErr k bit).MemWf := h.readOnly (State.readOnly_codecErr ..)

theorem State.MemWf.chanErr {ch bit : Nat} (h : s.MemWf) : (s.chanErr ch bit).MemWf := h.readOnly (State.readOnly_chanErr ..)

theorem State.MemWf.chanCe {ch n : Nat} (h : s.MemWf) : (s.chanCe ch n).MemWf := .ite h.bump.keep.chanErr h.bump.keep

theorem State.MemWf.chanUe {ch n : Nat} (h : s.MemWf) : (s.chanUe ch n).MemWf := .ite h h.bump.chanErr

theorem State.MemWf.countPoison {tier set a n : Nat} (h : s.MemWf) : (s.countPoison tier set a n).MemWf := h.readOnly (State.readOnly_countPoison
    ..)

theorem State.MemWf.readImage {obj : Nat} {e : ObjEnt} {b : Nat} (h : s.MemWf) : (s.readImage obj e b).2.MemWf := h.readOnly
    (State.readOnly_readImage ..)

theorem State.MemWf.readBlock {obj : Nat} {e : ObjEnt} {b : Nat} (h : s.MemWf) : (s.readBlock obj e b).2.MemWf := h.readOnly
    (State.readOnly_readBlock ..)

theorem State.MemWf.writeImage {obj : Nat} {e : ObjEnt} {b : Nat} {d : List PByte} (h : s.MemWf) : (s.writeImage obj e b d).MemWf :=
  .ite (.bumpCodec (.ite h.countPoison.devWrite.devWrite.bumpCodec.bumpCodec.bumpCodec h.countPoison.devWrite.devWrite.bumpCodec.bumpCodec)) <|
    .ite h.countPoison.devWrite.devWrite.bumpCodec.bumpCodec.bumpCodec h.countPoison.devWrite.devWrite.bumpCodec.bumpCodec

theorem State.MemWf.writeGroups {e : ObjEnt} {b : Nat} {img : List PByte} {r : Nat × Nat} (h : s.MemWf) : (s.writeGroups e b img r).MemWf :=
  h.devWrite.devWrite

theorem State.MemWf.writeBlock {obj : Nat} {e : ObjEnt} {b at_ : Nat} {d : List PByte} (h : s.MemWf) : (s.writeBlock obj e b at_ d).MemWf :=
  .ite (.writeImage (by split; exacts [h, h.readImage])) (.writeGroups (by split; exacts [h, h.readImage]))

theorem State.MemWf.imgRead {obj : Nat} {e : ObjEnt} {ofs n : Nat} (h : s.MemWf) : (s.imgRead obj e ofs n).2.MemWf := h.readOnly
    (State.readOnly_imgRead ..)

theorem State.MemWf.imgWrite {obj : Nat} {e : ObjEnt} {ofs : Nat} {d : List PByte} (h : s.MemWf) : (s.imgWrite obj e ofs d).MemWf :=
  .ite h.devWrite (.foldl (fun _ _ h1 => h1.writeBlock) h)

theorem State.MemWf.objRead {obj ofs n : Nat} (h : s.MemWf) : (s.objRead obj ofs n).2.MemWf := h.readOnly (State.readOnly_objRead ..)

theorem State.MemWf.objWrite {obj ofs : Nat} {d : List PByte} (h : s.MemWf) : (s.objWrite obj ofs d).MemWf := by
  unfold State.objWrite
  dsimp only
  split
  · exact .imgWrite (by split; exacts [.ite h.imgWrite.imgWrite h.imgWrite, h.imgWrite])
  · split
    · exact .ite h.imgWrite.imgWrite h.imgWrite
    · exact h.imgWrite

theorem State.MemWf.codecGate {obj : Nat} {e : ObjEnt} {b : Nat} {write : Bool} (h : s.MemWf) : (s.codecGate obj e b write).2.MemWf := by
  unfold State.codecGate
  split
  exacts [h, by dsimp only; split; exacts [h, by split; exacts [h, h.keep.codecErr]]]

theorem State.MemWf.dropLook {objs : List Nat} (h : s.MemWf) : (s.dropLook objs).MemWf := h.keep rfl rfl rfl rfl rfl rfl

theorem State.MemWf.noteRead {p obj : Nat} (h : s.MemWf) : (s.noteRead p obj).MemWf := by
  unfold State.noteRead
  dsimp only
  split
  · exact .ite h.modCore h.modCore.bumpCore
  · exact h.modCore

theorem State.MemWf.coreRead {p obj ofs n : Nat} (h : s.MemWf) : (s.coreRead p obj ofs n).2.MemWf := by
  unfold State.coreRead
  dsimp only
  split
  · exact h.noteRead
  · exact h.noteRead.objRead

theorem State.MemWf.bumpGen {obj : Nat} (h : s.MemWf) : (s.bumpGen obj).MemWf := .ite h.setObj h

theorem State.MemWf.wholeWrite {obj ofs : Nat} {d : List PByte} (h : s.MemWf) : (s.wholeWrite obj ofs d).MemWf := h.bumpGen.objWrite.bumpGen

/-! ### The sequencer -/

theorem State.MemWf.askLine {p line : Nat} {demand : Bool} (h : s.MemWf) : (s.askLine p line demand).MemWf := by
  unfold State.askLine
  dsimp only
  split
  · exact .ite h.setCore h
  · exact h.setCore

theorem memWf_execFetchFill {c line : Nat} (h : s.MemWf) : Out.MemWf (execFetchFill c line s) := by
  unfold execFetchFill
  refine .next (h.onCore (fun _ _ _ h1 => ?_))
  split
  · exact h1
  · exact .ite h1 <| by dsimp only; split; exacts [.ite h1.setCore.freeze h1.setCore, .ite h1.setCore.coreRead.halt h1.setCore.coreRead.modCore]

theorem memWf_dispatchWord {c : Core} {w : CWord} {p : Nat} (h : s.MemWf) : (Core.dispatchWord c w p s).MemWf :=
  .ite h.setCore <| .ite h.setCore <| .ite h.halt h.setCore

theorem State.MemWf.dispatch {p : Nat} (h : s.MemWf) : (s.dispatch p).MemWf := by
  unfold State.dispatch
  dsimp only
  split
  · exact h
  · split
    · exact h.bumpCore
    · split
      · exact h.askLine
      · exact h.halt
      · split
        · exact .halt (.ite h.setCore.askLine h.setCore)
        · exact memWf_dispatchWord (.ite h.setCore.askLine h.setCore)

theorem memWf_execDispatch {c : Nat} (h : s.MemWf) : Out.MemWf (execDispatch c s) :=
  .next (h.onCore (fun _ _ _ h1 => .ite h1.sameCycle h1.dispatch))

theorem State.MemWf.wordSignal {p : Nat} {w : CWord} {r : HaltRec} (h : s.MemWf) : (s.wordSignal p w r).MemWf := .ite h.signal h

theorem State.MemWf.onSeq {c op : Nat} {eff : State → Nat → Core → CWord → State}
    (h : s.MemWf) (heff : ∀ s p c w, s.MemWf → (eff s p c w).MemWf) : (s.onSeq c op eff).MemWf :=
  h.onCore (fun _ _ _ h1 => by split; exacts [h1, .ite h1 <| by split; exacts [h1.bumpCore, h1.halt, heff _ _ _ _ h1]])

theorem State.MemWf.seqPlain {c op : Nat} {eff : Core → CWord → Core} (h : s.MemWf) : (s.seqPlain c op eff).MemWf :=
  h.onSeq (fun _ _ _ _ h1 => h1.setCore.wordSignal)

theorem memWf_execNop {c : Nat} (h : s.MemWf) : Out.MemWf (execNop c s) := .next h.seqPlain

theorem memWf_execQBind {c : Nat} (h : s.MemWf) : Out.MemWf (execQBind c s) :=
  .next (h.onSeq (fun _ _ _ _ h1 => .ite (.ite h1 <| .ite h1.halt h1.setCore.wordSignal) <| .ite h1 <| .ite h1.halt h1.setCore.wordSignal))

theorem memWf_execBarSet {c : Nat} (h : s.MemWf) : Out.MemWf (execBarSet c s) := .next h.seqPlain

theorem memWf_execBarSig {c : Nat} (h : s.MemWf) : Out.MemWf (execBarSig c s) :=
  .next (h.onSeq (fun _ _ _ _ h1 => .ite h1.halt h1.setCore.wordSignal))

theorem memWf_execSync {c : Nat} (h : s.MemWf) : Out.MemWf (execSync c s) := .next (h.onSeq (fun _ _ _ _ h1 => .ite h1.setCore.wordSignal h1))

theorem memWf_execLoop {c : Nat} (h : s.MemWf) : Out.MemWf (execLoop c s) :=
  .next (h.onSeq (fun _ _ _ _ h1 => .ite h1.halt <| .ite h1.halt <| .ite h1.setCore.wordSignal h1.setCore.wordSignal))

theorem memWf_execBr {c : Nat} (h : s.MemWf) : Out.MemWf (execBr c s) := .next (h.onSeq (fun _ _ _ _ h1 => h1.setCore.wordSignal))

theorem memWf_execBrc {c : Nat} (h : s.MemWf) : Out.MemWf (execBrc c s) := .next (h.onSeq (fun _ _ _ _ h1 => h1.setCore.wordSignal))

theorem memWf_execLcSet {c : Nat} (h : s.MemWf) : Out.MemWf (execLcSet c s) := .next h.seqPlain

theorem memWf_execLcAdd {c : Nat} (h : s.MemWf) : Out.MemWf (execLcAdd c s) := .next h.seqPlain

theorem memWf_execLcPop {c : Nat} (h : s.MemWf) : Out.MemWf (execLcPop c s) := by
  unfold execLcPop
  refine .next (h.onSeq (fun _ _ _ _ h1 => ?_))
  dsimp only
  split
  · exact h1.halt
  · split
    · exact h1.setCore
    · exact .ite h1.halt <| .ite h1.halt h1.setCore.wordSignal

theorem memWf_execFlagClr {c : Nat} (h : s.MemWf) : Out.MemWf (execFlagClr c s) := .next h.seqPlain

theorem memWf_execStepOpen {c : Nat} (h : s.MemWf) : Out.MemWf (execStepOpen c s) :=
  .next (h.onSeq (fun _ _ _ _ h1 => .ite h1.halt <| .ite h1 <| .ite h1.halt h1.setCore.send.wordSignal))

theorem memWf_execStepClose {c : Nat} (h : s.MemWf) : Out.MemWf (execStepClose c s) := by
  unfold execStepClose
  refine .next (h.onCore (fun _ _ _ h1 => ?_))
  split
  · exact h1
  · split
    · exact h1
    · split
      · split
        · exact h1.bumpCore
        · exact h1.halt
        · exact .ite h1.halt <| .ite h1 h1.setCore.send
      · split
        · exact h1
        · exact h1.setCore.wordSignal

theorem memWf_execIrq {c : Nat} (h : s.MemWf) : Out.MemWf (execIrq c s) := .next (h.onSeq (fun _ _ _ _ h1 => h1.setCore.irqCore.wordSignal))

theorem memWf_execBrk {c : Nat} (h : s.MemWf) : Out.MemWf (execBrk c s) := .next (h.onSeq (fun _ _ _ _ h1 => h1.halt))

theorem memWf_execEndWord {c : Nat} (h : s.MemWf) : Out.MemWf (execEndWord c s) := .next h.seqPlain

theorem memWf_execCoreDone {c : Nat} (h : s.MemWf) : Out.MemWf (execCoreDone c s) :=
  .next (h.onCore (fun _ _ _ h1 => .ite h1.setCore.irqCore.emit h1))

theorem memWf_execWatchdog {c : Nat} (h : s.MemWf) : Out.MemWf (execWatchdog c s) := .next (h.onCore (fun _ _ _ h1 => .ite h1.halt h1))

theorem State.MemWf.dropPins {obj ver n : Nat} (h : s.MemWf) : (s.dropPins obj ver n).MemWf := .ite (.ite h.setObj h) h.keep

theorem State.MemWf.releasePins {p : Nat} (h : s.MemWf) : (s.releasePins p).MemWf := .modCore (.foldl (fun _ _ h1 => h1.dropPins) h)

theorem State.MemWf.restartCore {p : Nat} (h : s.MemWf) : (s.restartCore p).MemWf := h.releasePins.modCore.irqCore

theorem memWf_execRestart {c : Nat} (h : s.MemWf) : Out.MemWf (execRestart c s) := .next (h.onCore (fun _ _ _ h1 => .ite h1.restartCore h1))

theorem memWf_execSeqCtrlStop {c : Nat} (h : s.MemWf) : Out.MemWf (execSeqCtrlStop c s) := .next (h.onCore (fun _ _ _ h1 => h1.modCore))

theorem State.MemWf.repeatStep {p : Nat} (h : s.MemWf) : (s.repeatStep p).MemWf := .irqCore (.modCore (.foldl (fun _ _ h1 => h1.dropPins) h))

/-! ### Fences and flash -/

theorem State.MemWf.huMeasured (h : s.MemWf) : (s.huMeasured).MemWf := h.keep rfl rfl rfl rfl rfl rfl

theorem State.MemWf.pwrCause {bits : W32} (h : s.MemWf) : (s.pwrCause bits).MemWf := h.raise

theorem State.MemWf.flashTry (h : s.MemWf) : (s.flashTry).MemWf := by
  unfold State.flashTry
  split
  · exact h
  · exact .ite h <| .ite h.huMeasured.keep h.huMeasured.pwrCause.bump.keep

theorem memWf_execFlashDeferRetest {mv : Nat} (h : s.MemWf) : Out.MemWf (execFlashDeferRetest mv s) := .next (.ite h h.keep.flashTry)

theorem memWf_execFenceListWrite (h : s.MemWf) : Out.MemWf (execFenceListWrite s) := .next (.ite h h.keep.flashTry)

theorem State.MemWf.mbxEnd {st : Nat} (h : s.MemWf) : (s.mbxEnd st).MemWf := h.keep.pulse

theorem State.MemWf.flashEnd {k : FlashKind} (h : s.MemWf) : (s.flashEnd k).MemWf := by
  unfold State.flashEnd
  split
  · exact h.keep
  · exact h.keep
  · exact .ite h.keep.mbxEnd h.keep
  · exact .ite h.keep.mbxEnd h.keep
  · exact h

theorem State.MemWf.sectorWritten {at_ : Nat} {d : List Byte} (h : s.MemWf) : State.MemWf { s with flash := sectorWrite s.flash at_ d } := by
  obtain ⟨ht0, hslice, htier, hflash, rest⟩ := h
  exact ⟨ht0, hslice, htier, Memory.wf_put _ _ (Memory.wf_put _ _ hflash), rest⟩

theorem memWf_execFlashSectorDone (h : s.MemWf) : Out.MemWf (execFlashSectorDone s) := by
  unfold execFlashSectorDone
  refine .next ?_
  split
  · exact h
  · split
    · exact h
    · exact (State.MemWf.bump h.sectorWritten.keep).flashEnd.flashTry

theorem State.MemWf.fenceCore {p cause : Nat} (h : s.MemWf) : (s.fenceCore p cause).MemWf := .ite h h.releasePins.modCore.keep.level.failRun

theorem State.MemWf.checkFence {p res : Nat} (h : s.MemWf) : (s.checkFence p res).MemWf := h.fenceCore

theorem State.MemWf.checkCount {p res : Nat} (h : s.MemWf) : (s.checkCount p res).MemWf := .ite h.bumpCore h

theorem State.MemWf.setCluster {g : Nat} {x : Cluster} (h : s.MemWf) : (s.setCluster g x).MemWf := h.keep rfl rfl rfl rfl rfl rfl

theorem State.MemWf.fenceCluster {g : Nat} (h : s.MemWf) : (s.fenceCluster g).MemWf := .setCluster (.foldl (fun _ _ h1 => h1.fenceCore) h)

theorem memWf_execNoAckTimeout {p : Nat} (h : s.MemWf) : Out.MemWf (execNoAckTimeout p s) := .next (.ite h.fenceCore h)

/-! ### Words of a unit -/

theorem State.MemWf.doWord {p q op i : Nat} {f : State → Nat → Core → Cqe → State}
    (h : s.MemWf) (hf : ∀ s p c e, s.MemWf → (f s p c e).MemWf) : (s.doWord p q op i f).MemWf := by
  unfold State.doWord
  dsimp only
  split
  · exact h
  · exact .ite h <| .ite (hf _ _ _ _ h) h.sameCycle

theorem State.MemWf.onWord {c q op i : Nat} {f : State → Nat → Core → Cqe → State}
    (h : s.MemWf) (hf : ∀ s p c e, s.MemWf → (f s p c e).MemWf) : (s.onWord c q op i f).MemWf :=
  h.onCore (fun _ _ _ h1 => h1.doWord hf)

theorem State.MemWf.underAt {p ep : Nat} {g : State → State} (h : s.MemWf) (hg : ∀ s, s.MemWf → (g s).MemWf) : (s.underAt p ep g).MemWf :=
  .ite (hg _ h) (h.under hg)

theorem State.MemWf.onCur {c q op : Nat} {f : State → Nat → Core → Nat → Cqe → State}
    (h : s.MemWf) (hf : ∀ s p c i e, s.MemWf → (f s p c i e).MemWf) : (s.onCur c q op f).MemWf :=
  h.onCore (fun _ _ _ h1 => by split; exacts [h1, .ite h1 <| .ite (hf _ _ _ _ _ h1) h1.sameCycle])

theorem State.MemWf.putWord {p q i : Nat} {e : Cqe} (h : s.MemWf) : (s.putWord p q i e).MemWf := h.modCore

theorem State.MemWf.finish {p q i : Nat} {e : Cqe} (h : s.MemWf) : (s.finish p q i e).MemWf := h.putWord

theorem State.MemWf.haltWord {p q : Nat} {e : Cqe} {reason info : Nat} (h : s.MemWf) : (s.haltWord p q e reason info).MemWf := h.halt

theorem State.MemWf.haltIllegal {p q : Nat} {e : Cqe} (h : s.MemWf) : (s.haltIllegal p q e).MemWf := h.haltWord

theorem State.MemWf.freezeAt {p unit reason obj addr : Nat} (h : s.MemWf) : (s.freezeAt p unit reason obj addr).MemWf := h.freeze

/-! ### The stash -/

theorem State.MemWf.stashPresent {p : Nat} (h : s.MemWf) : (s.stashPresent p).MemWf := .ite h.setCore h

theorem memWf_execStashSpill {c : Nat} (h : s.MemWf) : Out.MemWf (execStashSpill c s) := by
  unfold execStashSpill
  refine .next (h.onCore (fun _ _ _ h1 => ?_))
  exact .ite h1 <| by split; exacts [h1, .ite h1.freezeAt <| by dsimp only; split; exacts [h1.freezeAt, h1.freezeAt, h1.setCore]]

theorem memWf_execStashSpillDone {c : Nat} (h : s.MemWf) : Out.MemWf (execStashSpillDone c s) := by
  unfold execStashSpillDone
  refine .next (h.onCore (fun _ _ _ h1 => ?_))
  dsimp only
  split
  · exact h1
  · exact .ite h1 <| by split; exacts [h1, .stashPresent (.setCore (.foldl (fun _ _ h2 => h2.wholeWrite) h1.objRead))]

theorem State.MemWf.recordRead {p num ofs n : Nat} {r : List PByte × State} (h : s.MemWf) (e : s.recordRead p num ofs n = some r) : r.2.MemWf := by
  unfold State.recordRead at e
  dsimp only at e
  split at e
  · cases e
  · split at e
    · cases e
      exact h.objRead
    · cases e
      exact h.objRead
    · cases e
      exact .foldl_snd (fun _ _ h1 => h1.objRead) h

theorem State.MemWf.addPins {obj ver n : Nat} (h : s.MemWf) : (s.addPins obj ver n).MemWf := .ite h.setObj h.keep

theorem memWf_execStrPin {c i : Nat} (h : s.MemWf) : Out.MemWf (execStrPin c i s) :=
  .next (h.onWord (fun _ _ _ _ h1 => .ite h1.haltWord h1.setCore.addPins.finish))

theorem memWf_execStrUnpin {c i : Nat} (h : s.MemWf) : Out.MemWf (execStrUnpin c i s) :=
  .next (h.onWord (fun _ _ _ _ h1 => by dsimp only; split; exacts [h1.haltWord, .ite h1.haltWord h1.setCore.dropPins.finish]))

/-! ### The stream lanes -/

theorem State.MemWf.gather {p : Nat} {x : StrSide} {offs : List Nat} {u : Nat} (h : s.MemWf) : (s.gather p x offs u).2.MemWf := by
  unfold State.gather
  split
  · exact h
  · split
    · exact .foldl_snd (fun _ _ h1 => h1.coreRead) h
    · exact .foldl_snd (fun _ _ h1 => h1.coreRead) h

theorem State.MemWf.scatter {p : Nat} {x : StrSide} {damask : Bool} {offs : List Nat} {u : Nat} {d : List PByte}
    (h : s.MemWf) : (s.scatter p x damask offs u d).MemWf := by
  unfold State.scatter
  dsimp only
  split
  · exact .localClear (.foldl (fun _ _ h1 => h1.localWrite ..) h)
  · split
    · refine .foldl (fun _ _ h1 => .objWrite ?_) h
      split
      · exact h1.objRead
      · exact h1
    · exact .foldl (fun _ _ h1 => h1.objWrite) h

theorem State.MemWf.startCopy {p : Nat} {e : Cqe} (h : s.MemWf) : (s.startCopy p e).MemWf := by
  unfold State.startCopy
  extract_lets c d hin hout ill head src la
  clear_value head src
  split
  · exact h.haltIllegal
  · split
    · exact h.haltWord
    · split
      · exact h.setCore
      · exact h.haltWord
      · exact .ite h.haltIllegal <| .ite h <| .ite (by split; exacts [h.bumpCore, .ite h.haltIllegal <| by split; exacts [h, h.setCore]]) h.setCore

theorem State.MemWf.startStream {p : Nat} {e : Cqe} (h : s.MemWf) : (s.startStream p e).MemWf := .ite h <| .ite h.startCopy <| .ite h.haltWord h

theorem memWf_execStrLdd {c i : Nat} (h : s.MemWf) : Out.MemWf (execStrLdd c i s) :=
  .next (h.onWord (fun _ _ _ _ h1 => .ite h1.freezeAt <| .ite h1.haltWord h1.setCore.finish))

theorem State.MemWf.copySetup {p i : Nat} {e : Cqe} (h : s.MemWf) : (s.copySetup p i e).MemWf :=
  .ite h.haltWord <| .ite h.haltIllegal <| by split; exacts [h.freezeAt, .putWord (.setCore (.ite h.bumpGen h))]

theorem State.MemWf.copyRecords {so do_ n : Nat} {a b : ObjEnt} (h : s.MemWf) : (s.copyRecords so do_ n a b).MemWf :=
  .ite h (.foldl (fun _ _ h1 => h1.devWrite) h)

theorem State.MemWf.copyRead {p : Nat} {d : BitVec 512} {x : StrSide} {offs : List Nat} {u : Nat}
    (h : s.MemWf) : (s.copyRead p d x offs u).2.MemWf := by
  unfold State.copyRead
  split
  · split
    · next r e =>
      have hr := h.recordRead e
      exact .ite hr.bumpCore hr
    · exact h
  · split
    · split
      · exact h.noteRead
      · exact h
    · exact h.gather

theorem State.MemWf.copyWrite {p : Nat} {d : BitVec 512} {damask : Bool} {x : StrSide} {offs : List Nat} {u : Nat} {data : List PByte}
    (h : s.MemWf) : (s.copyWrite p d damask x offs u data).MemWf :=
  .ite (.foldl (fun _ _ h1 => h1.devWrite) h) h.scatter

theorem State.MemWf.streamComplete {p : Nat} {e : Cqe} (h : s.MemWf) : (s.streamComplete p e).MemWf := by
  unfold State.streamComplete
  split
  · exact h
  · dsimp only
    split
    · exact .ite (.stashPresent (.modCore (by split; exacts [h.release, h]))) <| by split; exacts [h.release, h]
    · split
      · exact .release (.bumpCore (.ite (.stashPresent (.modCore (by split; exacts [h.release, h]))) <| by split; exacts [h.release, h]))
      · exact .setCore (.ite (.stashPresent (.modCore (by split; exacts [h.release, h]))) <| by split; exacts [h.release, h])

theorem State.MemWf.copyMove {p i : Nat} {e : Cqe} (h : s.MemWf) : (s.copyMove p i e).MemWf := by
  unfold State.copyMove
  extract_lets c d u sx dx so do_ src mismatch stale s1 r data sc s2 perUnit good s3 s4 s5 s6
  have h2 : s2.MemWf := .ite_snd h.copyRead h.copyRead.copyRead
  have h3 : s3.MemWf := h2.copyWrite
  have h4 : s4.MemWf := .ite h3 h3.copyWrite
  have h5 : s5.MemWf := .ite h4.copyRecords h4
  have h6 : s6.MemWf := .ite h5.bumpGen h5
  exact .ite h.haltWord <| .ite (.ite h.haltWord h.modCore.putWord) <| .ite h3.haltWord <| .ite h6.finish h6.modCore.putWord

theorem State.MemWf.copyStep {p i : Nat} {e : Cqe} (h : s.MemWf) : (s.copyStep p i e).MemWf :=
  .ite h.copySetup <| .ite h <| .ite h.finish <| .ite h h.copyMove

theorem memWf_execStrCopy {c i : Nat} (h : s.MemWf) : Out.MemWf (execStrCopy c i s) := by
  unfold execStrCopy
  refine .next ?_
  split
  · exact h
  · exact .ite h (.rstBegin (.ite (h.underAt (fun _ h1 => h1.doWord (fun _ _ _ _ h2 => h2.copyStep))) (h.under (fun _ h1 => h1.doWord (fun _ _ _ _
      h2 => h2.copyStep)))))

theorem memWf_execStrCancel {c i : Nat} (h : s.MemWf) : Out.MemWf (execStrCancel c i s) :=
  .next (h.onWord (fun _ _ _ _ h1 => .putWord (.foldl (fun _ _ h2 => h2.release) h1.setCore)))

theorem memWf_execDmaSegmentIssue {c ch : Nat} (h : s.MemWf) : Out.MemWf (execDmaSegmentIssue c ch s) := by
  unfold execDmaSegmentIssue
  refine .next (h.onCore (fun _ _ _ h1 => ?_))
  split
  · exact h1
  · split
    · exact h1
    · split
      · exact h1.bumpCore
      · exact h1
      · dsimp only
        split
        · exact h1.freezeAt
        · exact .ite h1.setCore <| by split; exacts [h1, h1.codecGate]

theorem State.MemWf.dropDone {p seqno : Nat} (h : s.MemWf) : (s.dropDone p seqno).MemWf := .ite h <| by split; exacts [h, h.setCore.release]

theorem State.MemWf.segmentDone {p tag : Nat} {g : DmaSeg} {ce ue : Bool} (h : s.MemWf) : (s.segmentDone p tag g ce ue).MemWf := by
  unfold State.segmentDone
  extract_lets s1 e s2 s3 c k
  have h1 : s1.MemWf := .ite h.chanCe h
  have h2 : s2.MemWf := by
    unfold s2
    split
    · exact .ite h1 h1.keep
    · exact h1
  have h3 : s3.MemWf := .ite h2.chanUe h1
  split
  · exact .ite h3.setCore.dropDone h3.setCore
  · exact h3.setCore
  · exact h3.setCore

theorem memWf_execDmaSegmentDone {c tag : Nat} {ce ue : Bool} (h : s.MemWf) : Out.MemWf (execDmaSegmentDone c tag ce ue s) :=
  .next (by split; exacts [h, .ite h <| by split; exacts [h, .rstBegin (h.underAt (fun _ h1 => h1.segmentDone))]])

/-! ### The load words -/

theorem State.MemWf.startLoad {p : Nat} {e : Cqe} (h : s.MemWf) : (s.startLoad p e).MemWf := by
  unfold State.startLoad
  extract_lets c w run hin hinEn role damask
  clear_value role damask
  split
  · exact h
  · split
    · exact h.haltWord
    · split
      · exact h.haltWord
      · exact .ite h.haltIllegal <| .ite h.setCore <| .ite (by split; exacts [h.setCore, h.haltWord, State.MemWf.ite h.setCore h]) h

theorem State.MemWf.loadComplete {p : Nat} {e : Cqe} (h : s.MemWf) : (s.loadComplete p e).MemWf := by
  unfold State.loadComplete
  split
  · exact .ite h.release h
  · exact h

theorem State.MemWf.eccMark {p : Nat} {g : Agen} {base : ℤ} {k l : Nat} (h : s.MemWf) : (s.eccMark p g base k l).MemWf := .ite h.keep h.keep

theorem State.MemWf.loadStop {p : Nat} {e : Cqe} {a : Access} (h : s.MemWf) : (s.loadStop p e a).MemWf := by
  unfold State.loadStop
  split
  · exact h.freezeAt
  · exact h.haltIllegal

theorem State.MemWf.tick {p q i : Nat} {e : Cqe} {total : Nat} (h : s.MemWf) : (s.tick p q i e total).MemWf := h.putWord

theorem memWf_execLdAgset {c i : Nat} (h : s.MemWf) : Out.MemWf (execLdAgset c i s) := .next (h.onWord (fun _ _ _ _ h1 => h1.setCore.finish))

theorem memWf_execLdVec {c i : Nat} {ecc : Nat} (h : s.MemWf) : Out.MemWf (execLdVec c i s ecc) := by
  unfold execLdVec
  exact .next (h.onWord (fun _ _ _ _ h1 => .ite h1 <| .ite h1.setCore <| by split; exacts [h1.loadStop, .ite h1.eccMark.fenceCore h1.setCore.tick]))

theorem memWf_execLdPair {c i : Nat} (h : s.MemWf) : Out.MemWf (execLdPair c i s) := by
  unfold execLdPair
  refine .next (h.onWord (fun _ _ _ _ h1 => ?_))
  exact .ite h1 <| .ite h1.setCore <| .ite h1.setCore <| by split; exacts [h1.setCore.tick, h1.loadStop, h1.loadStop]

theorem memWf_execLdCast {c i : Nat} (h : s.MemWf) : Out.MemWf (execLdCast c i s) :=
  .next (h.onWord (fun _ _ _ _ h1 => .ite h1 <| .ite h1.setCore <| .ite (by split; exacts [h1.loadStop, h1.setCore.tick]) h1.setCore.tick))

theorem memWf_execLdSht {c i : Nat} (h : s.MemWf) : Out.MemWf (execLdSht c i s) := by
  unfold execLdSht
  refine .next (h.onWord (fun _ _ _ _ h1 => ?_))
  dsimp only
  split
  · exact h1.setCore
  · exact .ite h1.setCore.bumpCore <| by split; exacts [by split; exacts [h1.setCore, h1.setCore.setCore.putWord], h1.setCore.loadStop]

theorem memWf_execServingRelease {c : Nat} (h : s.MemWf) : Out.MemWf (execServingRelease c s) :=
  .next (h.onCore (fun _ _ _ h1 => by split; exacts [h1, .ite h1 <| .ite h1.setCore h1.setCore]))

theorem memWf_execXpose {c i : Nat} (h : s.MemWf) : Out.MemWf (execXpose c i s) :=
  .next (h.onWord (fun _ _ _ _ h1 => .ite h1 <| .ite h1.setCore <| .ite (by split; exacts [h1.loadStop, h1.setCore.tick]) h1.setCore.tick))

/-! ### The engines -/

theorem State.MemWf.startEng {p eng : Nat} {e : Cqe} (h : s.MemWf) : (s.startEng p eng e).MemWf := by
  unfold State.startEng
  extract_lets c q w g off
  split
  · exact State.MemWf.ite h.bumpCore h
  · split
    · exact h
    · split
      · exact .ite h.haltIllegal h.haltWord
      · split
        · exact h.haltIllegal
        · exact h.haltWord
        · split
          · exact h
          · exact h.haltWord
          · exact .ite h.bumpCore h.setCore

theorem memWf_execTileToShadow {c e : Nat} (h : s.MemWf) : Out.MemWf (execTileToShadow c e s) :=
  .next (.ite h (h.onCore (fun _ _ _ h1 => by dsimp only; split; exacts [h1, .ite h1 <| .ite h1.setCore h1.bumpCore])))

theorem memWf_execSlotMoveDone {c e slot : Nat} (h : s.MemWf) : Out.MemWf (execSlotMoveDone c e slot s) := by
  unfold execSlotMoveDone
  refine .next (h.onCore fun _ _ _ h1 => ?_)
  extract_lets g
  split
  · exact h1
  · refine .ite h1 ?_
    dsimp only
    split
    · exact h1.setCore
    · exact h1.setCore
    · exact h1.setCore

theorem State.MemWf.popPre {p eng i : Nat} {e : Cqe} (h : s.MemWf) : (s.popPre p eng i e).MemWf :=
  .ite h.bumpCore <| by split; exacts [h.setCore.bumpCore, .ite h.haltWord h.setCore.putWord]

theorem State.MemWf.mmaRank {p eng i : Nat} {e : Cqe} {res : Nat} (h : s.MemWf) : (s.mmaRank p eng i e res).MemWf := by
  unfold State.mmaRank
  extract_lets q k w g off
  refine .ite h <| .ite (.ite h.setCore.putWord h.bumpCore) <| .ite h.popPre ?_
  split
  · exact h.setCore.bumpCore
  · split
    · exact .ite h h.bumpCore
    · extract_lets bad
      clear_value bad
      split
      · exact h.haltWord
      · exact .ite h.checkFence h.checkCount.setCore.putWord

theorem memWf_execMmaRank {c e res : Nat} (h : s.MemWf) : Out.MemWf (execMmaRank c e res s) :=
  .next (.ite (h.onCur (fun _ _ _ _ _ h1 => h1.mmaRank)) h)

theorem memWf_execMmaWl {c e : Nat} (h : s.MemWf) : Out.MemWf (execMmaWl c e s) :=
  .next (.ite h (h.onCur (fun _ _ _ _ _ h1 => .ite h1 <| by split; exacts [h1.setCore.bumpCore, .ite h1.haltWord h1.setCore.tick])))

theorem State.MemWf.mmaSt {p eng i : Nat} {e : Cqe} {res : Nat} (h : s.MemWf) : (s.mmaSt p eng i e res).MemWf :=
  .ite h <| .ite h.setCore.bumpCore <| by split; exacts [h.haltWord, .ite h.checkFence h.checkCount.setCore.putWord]

theorem memWf_execMmaSt {c e res : Nat} (h : s.MemWf) : Out.MemWf (execMmaSt c e res s) := .next (.ite (h.onCur (fun _ _ _ _ _ h1 => h1.mmaSt)) h)

theorem memWf_execMmaDrain {c e : Nat} (h : s.MemWf) : Out.MemWf (execMmaDrain c e s) :=
  .next (.ite h (h.onCur (fun _ _ _ _ _ h1 => .ite h1 h1.setCore.putWord)))

theorem memWf_execMmaSpill {c e : Nat} (h : s.MemWf) : Out.MemWf (execMmaSpill c e s) := by
  unfold execMmaSpill
  exact .next (.ite h (h.onCur fun _ _ _ _ _ h1 => .ite h1 (State.MemWf.setCore (h1.localWrite ..)).finish))

theorem memWf_execMmaFill {c e : Nat} (h : s.MemWf) : Out.MemWf (execMmaFill c e s) :=
  .next (.ite h (h.onCur (fun _ _ _ _ _ h1 => .ite h1 <| .ite h1.modCore.haltWord <| .ite h1.modCore.haltWord h1.setCore.finish)))

theorem memWf_execMmaFree {c e : Nat} (h : s.MemWf) : Out.MemWf (execMmaFree c e s) :=
  .next (.ite h (h.onCur (fun _ _ _ _ _ h1 => .ite h1 h1.setCore.finish)))

theorem memWf_execStartTokenGrant {c e : Nat} (h : s.MemWf) : Out.MemWf (execStartTokenGrant c e s) :=
  .next (.ite h (h.onCore (fun _ _ _ h1 => .ite h1 <| .ite h1.bump h1.setCore.bump)))

theorem memWf_execRampUpDone {c e : Nat} (h : s.MemWf) : Out.MemWf (execRampUpDone c e s) :=
  .next (.ite h (h.onCore (fun _ _ _ h1 => .ite h1.setCore h1)))

theorem memWf_execIdleHoldExpiry {c e : Nat} (h : s.MemWf) : Out.MemWf (execIdleHoldExpiry c e s) :=
  .next (.ite h (h.onCore (fun _ _ _ h1 => .ite h1.setCore h1)))

theorem memWf_execStopSlotGrant {c e : Nat} (h : s.MemWf) : Out.MemWf (execStopSlotGrant c e s) :=
  .next (.ite h (h.onCore (fun _ _ _ h1 => .ite h1 <| .ite h1.bump h1.setCore.bump)))

theorem memWf_execRampDownDone {c e : Nat} (h : s.MemWf) : Out.MemWf (execRampDownDone c e s) :=
  .next (.ite h <| by split; exacts [h, .ite h (h.under (fun _ h1 => .ite h1.setCore h1))])

/-! ### The drains -/

theorem State.MemWf.startDrain {p q : Nat} {e : Cqe} (h : s.MemWf) : (s.startDrain p q e).MemWf := by
  unfold State.startDrain
  dsimp only
  split
  · exact h
  · split
    · split
      · exact h.haltWord
      · exact .ite h.haltIllegal <| .ite h h
    · exact h
    · exact .ite h <| by split; exacts [h.haltWord, .ite h.setCore <| .ite h.setCore h.setCore]

theorem State.MemWf.onFenceWord {c op : Nat} {f : State → Nat → Core → Nat → Cqe → State}
    (h : s.MemWf) (hf : ∀ s p c i e, s.MemWf → (f s p c i e).MemWf) : (s.onFenceWord c op f).MemWf :=
  h.onCur hf

theorem State.MemWf.fenceDone {p : Nat} {e : Cqe} (h : s.MemWf) : (s.fenceDone p e).MemWf := h.modCore

theorem memWf_execDrainAcceptTile {c e : Nat} (h : s.MemWf) : Out.MemWf (execDrainAcceptTile c e s) :=
  .next (.ite h (h.onCore (fun _ _ _ h1 => .ite h1 <| by split; exacts [h1, h1.setCore])))

theorem State.MemWf.drainRow {p i : Nat} {e : Cqe} {d : DrnTile} (h : s.MemWf) : (s.drainRow p i e d).MemWf := by
  unfold State.drainRow
  dsimp only
  split
  · exact .ite h.setCore.bumpCore <| .ite h.haltWord <| .ite h.haltWord <| .ite h.setCore h.setCore.tick
  · exact h.setCore.bumpCore
  · exact h.setCore.bumpCore

theorem memWf_execDrnTile {c lane : Nat} (h : s.MemWf) : Out.MemWf (execDrnTile c lane s) :=
  .next (.ite h (h.onCur (fun _ _ _ _ _ h1 => by split; exacts [.ite h1.drainRow h1, h1])))

theorem memWf_execDrnSrctx {c lane : Nat} (h : s.MemWf) : Out.MemWf (execDrnSrctx c lane s) :=
  .next (.ite h (h.onCur (fun _ _ _ _ _ h1 => h1.setCore.finish)))

theorem memWf_execDrnCfg {c : Nat} (h : s.MemWf) : Out.MemWf (execDrnCfg c s) := .next (h.onFenceWord (fun _ _ _ _ _ h1 => h1.setCore.fenceDone))

theorem memWf_execDrnTbl {c : Nat} (h : s.MemWf) : Out.MemWf (execDrnTbl c s) := by
  unfold execDrnTbl
  exact .next (h.onFenceWord (fun _ _ _ _ _ h1 => by split; exacts [h1.setCore, .ite h1.haltWord <| .ite h1.setCore.putWord h1.setCore.fenceDone]))

theorem memWf_execDrnStat {c : Nat} (h : s.MemWf) : Out.MemWf (execDrnStat c s) :=
  .next (h.onFenceWord (fun _ _ _ _ _ h1 => .ite h1.setCore <| .ite h1.setCore.fenceDone h1.setCore.fenceDone.modCore.send))

theorem memWf_execDrnCntClr {c : Nat} (h : s.MemWf) : Out.MemWf (execDrnCntClr c s) := .next (h.onCore (fun _ _ _ h1 => h1.setCore))

theorem memWf_execEngCntClr {c e : Nat} (h : s.MemWf) : Out.MemWf (execEngCntClr c e s) := .next (.ite h (h.onCore (fun _ _ _ h1 => h1.setCore)))

/-! ### The caches -/

theorem State.MemWf.bumpCluster {g off n : Nat} (h : s.MemWf) : (s.bumpCluster g off n).MemWf := h.setCluster

theorem State.MemWf.lineToMemory {v : CLine} (h : s.MemWf) : (s.lineToMemory v).MemWf :=
  .ite h <| by dsimp only; split; exacts [h.freezeAt, h.wholeWrite]

theorem State.MemWf.l2Insert {g : Nat} {x : CLine} (h : s.MemWf) : (s.l2Insert g x).MemWf := by
  unfold State.l2Insert
  dsimp only
  split
  · exact h.free.setCluster
  · exact .lineToMemory (.ite h.free.setCluster.bumpCluster h.free.setCluster)

theorem State.MemWf.askSwitch {p line : Nat} {wr : Option (List Byte)} {poison : Bool} (h : s.MemWf) : (s.askSwitch p line wr poison).MemWf :=
  h.setCluster

theorem State.MemWf.l1Insert {p : Nat} {x : CLine} (h : s.MemWf) : (s.l1Insert p x).MemWf := by
  unfold State.l1Insert
  dsimp only
  split
  · exact h.free.setCore
  · exact .ite h.free.setCore.askSwitch h.free.setCore

theorem State.MemWf.l1Fill {p line : Nat} {bytes : List Byte} {poison : Bool} (h : s.MemWf) : (s.l1Fill p line bytes poison).MemWf := by
  unfold State.l1Fill
  dsimp only
  split
  · exact h
  · exact .ite h h.setCore.l1Insert

theorem State.MemWf.servePf {g : Nat} {r : SwReq} (h : s.MemWf) : (s.servePf g r).MemWf := .ite h h.setCluster.bumpCluster

theorem State.MemWf.serveReq {g : Nat} {r : SwReq} (h : s.MemWf) : (s.serveReq g r).MemWf := by
  unfold State.serveReq
  extract_lets k0 k p s1
  have h1 : s1.MemWf := h.setCluster
  refine .ite h1.servePf ?_
  split
  · exact .ite h1.setCluster h1.l2Insert
  · split
    · exact .l1Fill (.ite h1.setCluster.bumpCluster h1)
    · split
      · exact .ite h1.setCluster.bumpCluster h1.setCluster
      · exact h1.setCluster

theorem State.MemWf.arbitrate {g fuel : Nat} (h : s.MemWf) : (s.arbitrate g fuel).MemWf := by
  induction fuel generalizing s with
  | zero => exact h
  | succ n ih =>
    unfold State.arbitrate
    split
    · exact h
    · exact ih h.serveReq

theorem State.MemWf.l2Ecc {g line err : Nat} (h : s.MemWf) : (s.l2Ecc g line err).MemWf := by
  unfold State.l2Ecc
  dsimp only
  split
  · exact h
  · exact .ite h.bumpCluster <| .ite h.setCluster.bumpCluster h

theorem memWf_execClusterRequest {g port stamp err : Nat} (h : s.MemWf) : Out.MemWf (execClusterRequest g port stamp err s) := by
  unfold execClusterRequest
  refine .next (h.under (fun _ h1 => ?_))
  dsimp only
  split
  · exact h1
  · exact .ite h1.bumpCluster.fenceCluster <| by split; exacts [h1, .ite h1.setCluster.l2Ecc.arbitrate.bumpCluster h1.setCluster.l2Ecc.arbitrate]

theorem State.MemWf.fillPort {g line port : Nat} {bytes : List PByte} (h : s.MemWf) : (s.fillPort g line port bytes).MemWf := by
  unfold State.fillPort
  dsimp only
  split
  · exact .ite h.freezeAt h
  · exact h.l1Fill

theorem State.MemWf.lineRead {line : Nat} (h : s.MemWf) : (s.lineRead line).2.MemWf := by
  unfold State.lineRead
  dsimp only
  split
  · exact h.objRead
  · exact h

theorem memWf_execL2MissFill {g line : Nat} (h : s.MemWf) : Out.MemWf (execL2MissFill g line s) := by
  unfold execL2MissFill
  refine .next (h.under (fun _ h1 => ?_))
  dsimp only
  split
  · exact h1
  · exact .arbitrate (.foldl (fun _ _ h2 => h2.fillPort) (by split; exacts [h1.setCluster.lineRead.l2Insert, h1.setCluster]))

theorem State.MemWf.l1Miss {p a : Nat} (h : s.MemWf) : (s.l1Miss p a).MemWf := by
  unfold State.l1Miss
  extract_lets line ask
  have hask (t : State) (n : Nat) (ht : t.MemWf) : (ask t n).MemWf := ht.modCore.askSwitch
  refine .ite h ?_
  split
  · exact hask _ _ h
  · extract_lets t
    have ht : t.MemWf := h.noteRead
    split
    · exact ht.l1Insert
    · exact .ite (hask _ _ ht) (hask _ _ ht)

theorem State.MemWf.l1Flush {p i : Nat} {e : Cqe} {inv : Bool} (h : s.MemWf) : (s.l1Flush p i e inv).MemWf :=
  .ite (.putWord (.foldl (fun _ _ h1 => h1.askSwitch) h.setCore)) <| .ite h h.finish

theorem memWf_execVecL1flush {c : Nat} (h : s.MemWf) : Out.MemWf (execVecL1flush c s) := .next (h.onCur (fun _ _ _ _ _ h1 => h1.l1Flush))

theorem memWf_execVecL1inv {c : Nat} (h : s.MemWf) : Out.MemWf (execVecL1inv c s) := .next (h.onCur (fun _ _ _ _ _ h1 => h1.l1Flush))

theorem State.MemWf.l2Flush {p i : Nat} {e : Cqe} {inv : Bool} (h : s.MemWf) : (s.l2Flush p i e inv).MemWf :=
  .finish (.foldl (fun _ _ h1 => h1.lineToMemory) h.setCluster.bumpCluster)

theorem memWf_execStrL2flush {c i : Nat} (h : s.MemWf) : Out.MemWf (execStrL2flush c i s) := .next (h.onWord (fun _ _ _ _ h1 => h1.l2Flush))

theorem memWf_execStrL2inv {c i : Nat} (h : s.MemWf) : Out.MemWf (execStrL2inv c i s) := .next (h.onWord (fun _ _ _ _ h1 => h1.l2Flush))

theorem memWf_execL2CntClr {c : Nat} (h : s.MemWf) : Out.MemWf (execL2CntClr c s) := .next (h.onCore (fun _ _ _ h1 => h1.setCluster))

/-! ### Ports and links -/

theorem State.MemWf.setPort {p : Nat} {x : Port} (h : s.MemWf) : (s.setPort p x).MemWf := h.keep rfl rfl rfl rfl rfl rfl

theorem State.MemWf.modPort {p : Nat} {f : Port → Port} (h : s.MemWf) : (s.modPort p f).MemWf := h.setPort

theorem State.MemWf.portCount {p off n : Nat} (h : s.MemWf) : (s.portCount p off n).MemWf := h.bump

theorem State.MemWf.portErr {p bit : Nat} (h : s.MemWf) : (s.portErr p bit).MemWf := h.portOnly (State.portOnly_portErr ..)

theorem State.MemWf.emitGroups {p : Nat} {l : List TxGroup} (h : s.MemWf) : (s.emitGroups p l).MemWf := h.linkOnly (State.linkOnly_emitGroups ..)

theorem State.MemWf.portRetrain {p : Nat} (h : s.MemWf) : (s.portRetrain p).MemWf := h.linkOnly (State.linkOnly_portRetrain ..)

theorem State.MemWf.portPut {p : Nat} {k : Pkt} (h : s.MemWf) : (s.portPut p k).MemWf := h.linkOnly (State.linkOnly_portPut ..)

theorem State.MemWf.portPump {p fuel : Nat} (h : s.MemWf) : (s.portPump p fuel).MemWf := h.linkOnly (State.linkOnly_portPump ..)

theorem State.MemWf.portSend {p : Nat} {k : Pkt} (h : s.MemWf) : (s.portSend p k).MemWf := h.modPort.portPump

theorem State.MemWf.noRoute {inp : Option Nat} {off : Nat} (h : s.MemWf) : (s.noRoute inp off).MemWf := h.portOnly (State.portOnly_noRoute ..)

theorem State.MemWf.hxRoute {k : Pkt} {inp : Option Nat} (h : s.MemWf) : (s.hxRoute k inp).MemWf := by
  unfold State.hxRoute
  split
  · exact h.noRoute
  · exact h.portSend

theorem State.MemWf.hxSend {hd : PktHdr} {b : PktBody} (h : s.MemWf) : (s.hxSend hd b).MemWf := h.linkOnly (State.linkOnly_hxSend ..)

theorem State.MemWf.sendCtl {d : Nat} {m : CtlMsg} (h : s.MemWf) : (s.sendCtl d m).MemWf := h.hxSend

theorem State.MemWf.portReplay {p : Nat} (h : s.MemWf) : (s.portReplay p).MemWf := .ite h.portRetrain h.setPort.portCount.emitGroups

theorem memWf_execNakReceive {p ack : Nat} (h : s.MemWf) : Out.MemWf (execNakReceive p ack s) := .next (.ite h h.modPort.portReplay.portPump)

theorem memWf_execReplayTimeout {p : Nat} (h : s.MemWf) : Out.MemWf (execReplayTimeout p s) := .next (.ite h h.portReplay)

theorem State.MemWf.portIdle {p : Nat} (h : s.MemWf) : (s.portIdle p).MemWf := .ite h h.setPort.emitGroups

theorem memWf_execFlitGroupReceive {p gseq : Nat} {crcOk ackValid : Bool} {ack : Nat} {nak : Bool} {cret : List Nat} {flits : Nat}
    (h : s.MemWf) : Out.MemWf (execFlitGroupReceive p gseq crcOk ackValid ack nak cret flits s) :=
  .next (.ite h <| .ite (.ite (.ite h h.portCount) (.portIdle (.setPort (.ite h h.portCount)))) <|
    .ite (.portPump (.ite h.setPort.portCount.portReplay h.setPort.portCount)) (.portIdle (.portPump (.ite h.setPort.portCount.portReplay
    h.setPort.portCount))))

theorem State.MemWf.portStart {p : Nat} (h : s.MemWf) : (s.portStart p).MemWf := .ite h.modPort h

theorem State.MemWf.sendCtlBut {p d : Nat} {m : CtlMsg} (h : s.MemWf) : (s.sendCtlBut p d m).MemWf := by
  unfold State.sendCtlBut
  split
  · exact h
  · exact h.portSend

theorem State.MemWf.portDead {p : Nat} (h : s.MemWf) : (s.portDead p).MemWf := h.modPort.portErr.sendCtlBut

theorem memWf_execPortTraining {p fail : Nat} (h : s.MemWf) : Out.MemWf (execPortTraining p fail s) :=
  .next (.ite (.ite h.portStart h) <| .ite (.portDead (.ite (.setPort (.ite h.portStart h)) (.portErr (.setPort (.ite h.portStart h))))) (.emit
    (.ite (.setPort (.ite h.portStart h)) (.portErr (.setPort (.ite h.portStart h))))))

theorem State.MemWf.portUp {p : Nat} {st : PortState} (h : s.MemWf) : (s.portUp p st).MemWf := h.setPort.keep.emitGroups.portPump

theorem memWf_execHello {p : Nat} {m : Hello} (h : s.MemWf) : Out.MemWf (execHello p m s) :=
  .next (.ite h <| .ite h.setPort <| .ite h.setPort h.setPort.portUp)

theorem memWf_execKeyExchangeMessage {p n : Nat} {authOk sealedOk : Bool}
    (h : s.MemWf) : Out.MemWf (execKeyExchangeMessage p n authOk sealedOk s) :=
  .next (.ite h <| .ite h.setPort <| .ite (.portUp (.setPort (.ite h h.bump))) (.setPort (.ite h h.bump)))

theorem memWf_execRetrain {p : Nat} (h : s.MemWf) : Out.MemWf (execRetrain p s) := .next (.ite h h.modPort.portRetrain)

theorem memWf_execLaneErrorWindow {p lane errs : Nat} (h : s.MemWf) : Out.MemWf (execLaneErrorWindow p lane errs s) :=
  .next (.ite h.portCount <| .ite h.portCount.setPort.portErr.portDead h.portCount.setPort.portErr.portRetrain)

theorem State.MemWf.markLost {d : Nat} (h : s.MemWf) : (s.markLost d).MemWf := .ite h h.keep.level

theorem State.MemWf.noteCut {m d : Nat} (h : s.MemWf) : (s.noteCut m d).MemWf := .ite h.keep.markLost h.keep

theorem memWf_execPortFailed {p : Nat} {last : Option Nat} (h : s.MemWf) : Out.MemWf (execPortFailed p last s) :=
  .next (.ite h <| .ite (.ite (.noteCut (.ite (.ite h h.portDead) (.foldl (fun _ _ h1 => .ite h1.noRoute h1.hxRoute) (.modPort (.ite h
    h.portDead))))) (.sendCtl (.ite (.ite h h.portDead) (.foldl (fun _ _ h1 => .ite h1.noRoute h1.hxRoute) (.modPort (.ite h h.portDead)))))) <|
    .ite (.ite h h.portDead) (.foldl (fun _ _ h1 => .ite h1.noRoute h1.hxRoute) (.modPort (.ite h h.portDead))))

theorem memWf_execRefclkSerLoss {quad : Nat} (h : s.MemWf) : Out.MemWf (execRefclkSerLoss quad s) :=
  .next (.foldl (fun _ _ h1 => .ite h1 h1.portDead) h)

/-! ### The vector unit -/

theorem State.MemWf.vecWait {p : Nat} {ins outs : List (Nat × Nat)} (h : s.MemWf) : (s.vecWait p ins outs).MemWf := h.modCore

theorem State.MemWf.vecPop {p : Nat} {e : Cqe} {ins outs : List (Nat × Nat)} {f : Core → List (List DqEnt) → State}
    (h : s.MemWf) (hf : ∀ c es, (f c es).MemWf) : (s.vecPop p e ins outs f).MemWf :=
  .ite h.vecWait <| by split; exacts [h.vecWait, by split; exacts [h.haltWord, hf _ _]]

theorem State.MemWf.startVec {p : Nat} {e : Cqe} (h : s.MemWf) : (s.startVec p e).MemWf := .ite h <| by split; exacts [h.haltWord, .ite h.vecWait h]

theorem memWf_execVecEw {c : Nat} (h : s.MemWf) : Out.MemWf (execVecEw c s) :=
  .next (h.onCur (fun _ _ _ _ _ h1 => h1.vecPop (fun _ _ => h1.setCore.tick)))

theorem memWf_execVecRed {c : Nat} (h : s.MemWf) : Out.MemWf (execVecRed c s) :=
  .next (h.onCur (fun _ _ _ _ _ h1 => h1.vecPop (fun _ _ => h1.setCore.tick)))

theorem memWf_execVecCmpred {c : Nat} (h : s.MemWf) : Out.MemWf (execVecCmpred c s) :=
  .next (h.onCur (fun _ _ _ _ _ h1 => h1.vecPop (fun _ _ => h1.setCore.tick)))

theorem State.MemWf.rowOp {p i : Nat} {k : Core} {e : Cqe} {ins : List (Nat × Nat)} {res : List W32 → List W32}
    (h : s.MemWf) : (s.rowOp p i k e ins res).MemWf :=
  .ite (h.vecPop (fun _ _ => h.setCore.putWord)) <| .ite h.vecWait h.setCore.tick

theorem memWf_execVecSmax {c : Nat} (h : s.MemWf) : Out.MemWf (execVecSmax c s) := .next (h.onCur (fun _ _ _ _ _ h1 => h1.rowOp))

theorem memWf_execVecNorm {c : Nat} (h : s.MemWf) : Out.MemWf (execVecNorm c s) := .next (h.onCur (fun _ _ _ _ _ h1 => h1.rowOp))

theorem memWf_execVecGath {c : Nat} (h : s.MemWf) : Out.MemWf (execVecGath c s) := by
  unfold execVecGath
  refine .next (h.onCur (fun _ _ _ _ _ h1 => ?_))
  dsimp only
  split
  · exact h1.vecWait
  · exact .ite h1.haltWord <| .ite h1.haltWord <| by split; exacts [h1.freezeAt, h1.putWord.l1Miss, .ite h1.vecWait.putWord h1.setCore.tick]

theorem memWf_execVecScat {c : Nat} (h : s.MemWf) : Out.MemWf (execVecScat c s) := by
  unfold execVecScat
  refine .next (h.onCur (fun _ _ _ _ _ h1 => ?_))
  dsimp only
  split
  · split
    · exact h1.haltWord
    · split
      · exact h1.haltWord
      · exact .ite h1.setCore.haltWord <| by split; exacts [h1.setCore.freezeAt, h1.setCore.putWord.l1Miss, h1.setCore.setCore.tick]
  · exact h1.vecWait

theorem memWf_execVecSort {c : Nat} (h : s.MemWf) : Out.MemWf (execVecSort c s) :=
  .next (h.onCur (fun _ _ _ _ _ h1 => .ite (h1.vecPop (fun _ _ => h1.setCore.putWord)) <| .ite h1.vecWait h1.keep.setCore.finish))

theorem memWf_execVecNms {c : Nat} (h : s.MemWf) : Out.MemWf (execVecNms c s) :=
  .next (h.onCur (fun _ _ _ _ _ h1 => .ite (h1.vecPop (fun _ _ => h1.setCore.putWord)) <| .ite h1.vecWait h1.keep.setCore.finish))

theorem memWf_execVecLoss {c : Nat} (h : s.MemWf) : Out.MemWf (execVecLoss c s) :=
  .next (h.onCur (fun _ _ _ _ _ h1 => h1.vecPop (fun _ _ => h1.setCore.finish)))

theorem memWf_execVecAgset {c : Nat} (h : s.MemWf) : Out.MemWf (execVecAgset c s) := .next (h.onCur (fun _ _ _ _ _ h1 => h1.setCore.finish))

theorem memWf_execVecSrctx {c : Nat} (h : s.MemWf) : Out.MemWf (execVecSrctx c s) := .next (h.onCur (fun _ _ _ _ _ h1 => h1.setCore.finish))

theorem memWf_execVecOpt {c : Nat} (h : s.MemWf) : Out.MemWf (execVecOpt c s) :=
  .next (h.onCur (fun _ _ _ _ _ h1 => h1.vecPop (fun _ _ => h1.setCore.tick)))

/-! ### The write unit -/

theorem State.MemWf.startWrite {p : Nat} {e : Cqe} (h : s.MemWf) : (s.startWrite p e).MemWf := by
  unfold State.startWrite
  dsimp only
  split
  · exact h.stashPresent
  · split
    · exact h.stashPresent
    · split
      · exact h.stashPresent.haltWord
      · split
        · exact .ite h.stashPresent.vecWait h.stashPresent
        · split
          · exact .ite h.stashPresent.modCore.haltWord h.stashPresent.setCore
          · exact h.stashPresent.haltWord
          · exact .ite h.stashPresent.vecWait h.stashPresent.setCore

theorem memWf_execWrAgset {c : Nat} (h : s.MemWf) : Out.MemWf (execWrAgset c s) := .next (h.onCur (fun _ _ _ _ _ h1 => h1.setCore.finish))

theorem State.MemWf.writeEntry {p : Nat} {e : Cqe} {g : Agen} {d : List Byte} (h : s.MemWf) : Tried id (s.writeEntry p e g d) := by
  unfold State.writeEntry
  extract_lets k stash a len
  clear_value stash
  split
  · refine .ite h.freezeAt ?_
    split
    · exact h.haltIllegal
    · extract_lets pl
      split
      · exact h.freezeAt
      · exact State.MemWf.foldl (fun _ _ h1 => h1.wholeWrite) h
  · refine .ite h.freezeAt ?_
    split
    · exact h.haltIllegal
    · exact State.MemWf.localClear (.foldl (fun _ _ h1 => h1.localWrite ..) h)

theorem memWf_execWrRows {c : Nat} (h : s.MemWf) : Out.MemWf (execWrRows c s) := by
  unfold execWrRows
  refine .next (h.onCur fun _ _ _ _ _ h1 => ?_)
  dsimp only
  split
  · exact h1.vecWait
  · split
    · exact h1
    · split
      · exact h1.haltWord
      · split
        · next e => exact h1.writeEntry.error e
        · next e => exact (State.MemWf.modCore (h1.writeEntry.ok e)).tick

theorem State.MemWf.writeComplete {p : Nat} {e : Cqe} (h : s.MemWf) : (s.writeComplete p e).MemWf := by
  unfold State.writeComplete
  split
  · exact h
  · exact .ite h.modCore.modCore h.modCore.release.stashPresent

theorem memWf_execTpCntClr {c : Nat} (h : s.MemWf) : Out.MemWf (execTpCntClr c s) := .next (h.onCore (fun _ _ _ h1 => h1.setCore))

/-! ### The update unit and commits -/

theorem State.MemWf.updWrite {p obj ofs : Nat} {d : List Byte} {t : State} (h : s.MemWf) (e : s.updWrite p obj ofs d = some t) : t.MemWf := by
  unfold State.updWrite at e
  split at e
  · cases e
  · cases e
    exact h.wholeWrite

theorem State.MemWf.startUpd {p : Nat} {e : Cqe} (h : s.MemWf) : (s.startUpd p e).MemWf := by
  unfold State.startUpd
  dsimp only
  refine .ite h <| .ite h ?_
  split
  · exact h.haltWord
  · refine .ite (State.MemWf.ite h.bumpCore h) <| .ite h <| .ite h.haltIllegal ?_
    split
    · exact h.freezeAt
    · exact h.setCore

theorem memWf_execUpdHp {c : Nat} (h : s.MemWf) : Out.MemWf (execUpdHp c s) := .next (h.onCur (fun _ _ _ _ _ h1 => h1.setCore.finish))

theorem State.MemWf.stagePut {p : Nat} {d : List Byte} (h : s.MemWf) : Tried id (s.stagePut p d) := by
  unfold State.stagePut
  dsimp only
  split
  · exact h.freezeAt
  · exact h.wholeWrite.modCore

theorem State.MemWf.updRead {p : Nat} {e : Cqe} {obj ofs n : Nat} (h : s.MemWf) : Tried Prod.snd (s.updRead p e obj ofs n) := by
  unfold State.updRead
  split
  · exact h.freezeAt
  · exact .ite h.coreRead.haltWord h.coreRead

theorem State.MemWf.updGroup {p i : Nat} {e : Cqe} {g : List W32} (h : s.MemWf) : (s.updGroup p i e g).MemWf := by
  unfold State.updGroup
  dsimp only
  have head : Tried id (if e.n = 0 then s.stagePut p (runHeader ((s.core p).upd.hp.getD (uSet e.word) {}) e.word e.seqno) else .ok s) := by
    split
    · exact h.stagePut
    · exact h
  split
  · next e1 => exact head.error e1
  · next s1 e1 =>
    have h1 : s1.MemWf := head.ok e1
    split
    · next e2 => exact h1.updRead.error e2
    · next s2 e2 =>
      have h2 : s2.MemWf := h1.updRead.ok e2
      split
      · next e3 => exact h2.updRead.error e3
      · next s3 e3 =>
        have h3 : s3.MemWf := h2.updRead.ok e3
        split
        · next e4 => exact h3.stagePut.error e4
        · next s4 e4 =>
          have h4 : s4.MemWf := h3.stagePut.ok e4
          exact h4.setCore.tick

theorem memWf_execUpdRun {c : Nat} (h : s.MemWf) : Out.MemWf (execUpdRun c s) := by
  unfold execUpdRun
  refine .next (h.onCur (fun _ _ _ _ _ h1 => ?_))
  split
  · exact h1.setCore.bumpCore
  · exact .ite h1.haltWord <| by split; exacts [h1.bumpCore.bumpCore, h1.setCore.updGroup]

theorem memWf_execUpdNorm {c : Nat} (h : s.MemWf) : Out.MemWf (execUpdNorm c s) :=
  .next (h.onCur (fun _ _ _ _ _ h1 => by split; exacts [h1.setCore, .ite h1.haltWord h1.setCore.finish]))

theorem memWf_execUpdCntClr {c : Nat} (h : s.MemWf) : Out.MemWf (execUpdCntClr c s) := .next (h.onCore (fun _ _ _ h1 => h1.setCore))

theorem State.MemWf.makeShadow {obj : Nat} {t : State} (h : s.MemWf) (e : s.makeShadow obj = some t) : t.MemWf := by
  unfold State.makeShadow at e
  dsimp only at e
  split at e
  · cases e
  · split at e
    · cases e
    · cases e
      exact h.objRead.objWrite.setObj.keep

theorem State.MemWf.makeShadows {objs : List Nat} {t : State} (h : s.MemWf) (e : s.makeShadows objs = some t) : t.MemWf := by
  unfold State.makeShadows at e
  refine foldl_inv (fun a : Option State => ∀ t, a = some t → t.MemWf) _ (fun a o ha t e => ?_) objs (some s) (fun t e => ?_) t e
  · obtain ⟨u, hu, e⟩ := Option.bind_eq_some_iff.1 e
    split at e
    · cases e
      exact ha _ hu
    · exact (ha _ hu).makeShadow e
  · cases e
    exact h

theorem State.MemWf.commitPut {p obj ofs : Nat} {d : List Byte} (h : s.MemWf) : (s.commitPut p obj ofs d).MemWf := by
  unfold State.commitPut
  split
  · next e => exact h.updWrite e
  · exact h.modCore

theorem State.MemWf.commitGroup {s0 : State} {p stage : Nat} {r : StageRun} {n : Nat} {x : CommitPos}
    (h : s.MemWf) : (s.commitGroup s0 p stage r n x).1.MemWf := by
  unfold State.commitGroup
  dsimp only
  split
  · exact h
  · split
    · exact h
    · split
      · exact h.objRead.objRead
      · exact .commitPut (.commitPut (.ite (.commitPut (.commitPut h.objRead.objRead)) (.commitPut h.objRead.objRead)))

theorem State.MemWf.commitVersion {p stage obj : Nat} {x : CommitPos} (h : s.MemWf) : (s.commitVersion p stage obj x).1.MemWf := h.commitPut.setObj

theorem State.MemWf.beginCommit {p : Nat} (h : s.MemWf) : (s.beginCommit p).MemWf := by
  unfold State.beginCommit
  dsimp only
  split
  · exact h.setCore
  · next e => exact (h.makeShadows e).modCore.commitPut

theorem State.MemWf.replay {p : Nat} (h : s.MemWf) : (s.replay p).1.MemWf := by
  unfold State.replay
  dsimp only
  split
  · exact .foldl_fst (fun _ _ h1 => .foldl_fst (fun _ _ h2 => h2.commitGroup) h1) h
  · exact .foldl_fst (fun _ _ h1 => h1.commitVersion) (.foldl_fst (fun _ _ h1 => .foldl_fst (fun _ _ h2 => h2.commitGroup) h1) h)

theorem memWf_execRcmtGo {c : Nat} (h : s.MemWf) : Out.MemWf (execRcmtGo c s) := .next (h.onCore (fun _ _ _ h1 => .ite h1.setCore h1.setCore))

theorem State.MemWf.rcmtGroup {p stage : Nat} {sq : Sequencer} {ent : Option (Nat × Nat × List Byte × List Byte)} {r : StageRun} {q : Nat}
    {s0 : State} (h : s.MemWf) : (s.rcmtGroup p stage sq ent r q s0).MemWf := by
  unfold State.rcmtGroup
  dsimp only
  split
  · exact h.commitPut.commitPut.modCore
  · exact h.objRead.objRead.commitPut.commitPut

/-! ### The exchange unit -/

theorem State.MemWf.startExch {p : Nat} {e : Cqe} (h : s.MemWf) : (s.startExch p e).MemWf := by
  unfold State.startExch
  extract_lets c w op halt ill d l role
  clear_value role
  generalize s.dKind d = kind
  split
  · exact h
  · split
    · exact h.haltWord
    · split
      · split
        · exact h.haltIllegal
        · split
          · exact h
          · split
            · split
              · exact h.haltWord
              · exact h
            · exact h
      · split
        · exact h.haltWord
        · refine .ite h.haltWord <| .ite h.bumpCore <| .ite ?_ h
          split
          · exact .ite h.haltIllegal h
          · exact h

theorem memWf_execExPut {c i : Nat} (h : s.MemWf) : Out.MemWf (execExPut c i s) :=
  .next (h.onWord (fun _ _ _ _ h1 => .ite h1 <| .ite h1.freezeAt <| .ite h1.freezeAt <| .ite h1.haltWord <|
    .ite h1.putWord.send (.foldl (fun _ _ h2 => h2.hxSend) h1.putWord.modCore)))

theorem State.MemWf.hold {p : Nat} {hd : Held} (h : s.MemWf) : (s.hold p hd).MemWf := h.modCore.bumpCore

theorem State.MemWf.deliverBar {p : Nat} {src dbar : Option Nat} (h : s.MemWf) : (s.deliverBar p src dbar).MemWf := by
  unfold State.deliverBar
  split
  · exact h
  · exact .ite h.hold h.signal

theorem State.MemWf.dropDelivery {l : Nat} (h : s.MemWf) : (s.dropDelivery l).MemWf := by
  unfold State.dropDelivery
  split
  · exact h.bumpCore
  · exact h

theorem State.MemWf.unsend {k : Nat} (h : s.MemWf) : (s.unsend k).MemWf := h.keep rfl rfl rfl rfl rfl rfl

theorem State.MemWf.putLocal {p space addr : Nat} {data : List Byte} (h : s.MemWf) : (s.putLocal p space addr data).MemWf := by
  unfold State.putLocal
  extract_lets o gen
  clear_value o
  have hgen (t : State) (ht : t.MemWf) : (gen t).MemWf := by
    cases o with
    | none => exact ht
    | some o => exact ht.bumpGen
  exact hgen _ ((hgen _ h).localWrite ..)

theorem memWf_execPutDelivery {k : Nat} (h : s.MemWf) : Out.MemWf (execPutDelivery k s) :=
  .next (by split; exacts [.ite h <| by dsimp only; split; exacts [h.unsend.send.dropDelivery, h.unsend.send.putLocal.deliverBar], h])

theorem State.MemWf.landHandle {p : Nat} {src : Option Nat} {rhq epoch ofs : Nat} {data : List Byte} {pz : List Nat} {last : Bool}
    {dbar : Option Nat} (h : s.MemWf) : (s.landHandle p src rhq epoch ofs data pz last dbar).MemWf := by
  unfold State.landHandle
  extract_lets c hold put
  have hput (t : State) (f : Core → Core) (ht : t.MemWf) : (put t f).MemWf := ht.modCore
  split
  · exact h
  · split
    · exact h
    · split
      · exact h
      · exact (hput _ _ h).release
    · extract_lets b base s1 tok ent s2 s3
      have h1 : s1.MemWf := (h.localWrite ..).localPoison
      have h2 : s2.MemWf := hput _ _ h1.free
      have h3 : s3.MemWf := .ite h2.hold h2
      split
      · trivial
      · split
        · exact hput _ _ h1
        · exact h3.deliverBar

theorem memWf_execHandleDelivery {k : Nat} (h : s.MemWf) : Out.MemWf (execHandleDelivery k s) := by
  unfold execHandleDelivery
  refine .next ?_
  split
  · refine .ite h ?_
    dsimp only
    split
    · exact h.unsend.dropDelivery.send
    · split
      · next e => exact (h.unsend.landHandle.done e).send
      · exact h.unsend.freezeAt
  · exact h

theorem State.MemWf.handleAcked {p word q hd : Nat} {ret : Bool} (h : s.MemWf) : (s.handleAcked p word q hd ret).MemWf :=
  .ite h <| by dsimp only; split; exacts [.ite h.release (.foldl (fun _ _ h1 => h1.release) h.setCore), h.release]

theorem State.MemWf.takeAck {p word : Nat} {hq : Option Nat} {hd : Nat} {ret : Bool} (h : s.MemWf) : (s.takeAck p word hq hd ret).MemWf :=
  .modCore (by split; exacts [h.handleAcked, h])

theorem memWf_execExchAck {k : Nat} (h : s.MemWf) : Out.MemWf (execExchAck k s) := .next (by split; exacts [.ite h.unsend.takeAck h, h])

theorem State.MemWf.takeCredit {p hq n : Nat} (h : s.MemWf) : (s.takeCredit p hq n).MemWf := .ite h.hold h.modCore

theorem memWf_execCreditReturn {k : Nat} (h : s.MemWf) : Out.MemWf (execCreditReturn k s) :=
  .next (by split; exacts [.ite h h.unsend.takeCredit, .ite h h.unsend.hxSend, h])

theorem memWf_execExHbind {c i : Nat} (h : s.MemWf) : Out.MemWf (execExHbind c i s) := by
  unfold execExHbind
  refine .next (h.onWord (fun _ _ _ _ h1 => ?_))
  exact .ite h1 <| .ite (by split; exacts [h1, h1.setCore.sendCredit.finish]) (.finish (by split; exacts [h1.setCore.keep, h1.setCore]))

theorem State.MemWf.sendBuffer {hd : PktHdr} {data : List Byte} {dbar : Option Nat} {pz : List Nat}
    (h : s.MemWf) : (s.sendBuffer hd data dbar pz).MemWf :=
  .foldl (fun _ _ h1 => h1.hxSend) h

theorem State.MemWf.mcBuffer {hd : PktHdr} {l : List Nat} {data : List Byte} {dbar : Option Nat}
    (h : s.MemWf) : (s.mcBuffer hd l data dbar).MemWf :=
  .foldl (fun _ _ h1 => h1.sendBuffer) h

theorem State.MemWf.noteRemote {p : Nat} {e : Cqe} {dev core q hd : Nat} (h : s.MemWf) : (s.noteRemote p e dev core q hd).MemWf := h.modCore

theorem State.MemWf.handleSent {p i : Nat} {e : Cqe} {hd : Nat} (h : s.MemWf) : (s.handleSent p i e hd).MemWf := h.modCore.putWord

theorem State.MemWf.hfwdSend {c p i : Nat} {e : Cqe} {end_ : SendEnd} {hd epoch : Nat}
    (h : s.MemWf) : (s.hfwdSend c p i e end_ hd epoch).MemWf := by
  unfold State.hfwdSend
  refine .ite h.freezeAt ?_
  extract_lets k w q b
  split
  · exact .ite (.bumpCore h.keep) <| .ite h.haltWord <| State.MemWf.mcBuffer (.noteRemote (.handleSent h.keep))
  · exact .ite h.bumpCore <| .ite h.haltWord <| .ite h.setCore.handleSent.send h.setCore.handleSent.noteRemote.sendBuffer

theorem memWf_execExHfwd {c i : Nat} (h : s.MemWf) : Out.MemWf (execExHfwd c i s) := by
  unfold execExHfwd
  refine .next (h.onWord (fun _ _ _ _ h1 => ?_))
  split
  · exact h1
  · exact .ite h1 h1.hfwdSend
  · exact .ite h1 <| by split; exacts [h1.setCore, h1.haltWord, .ite h1.setCore.putWord h1.setCore.putWord.hfwdSend]

theorem memWf_execExMail {c i : Nat} (h : s.MemWf) : Out.MemWf (execExMail c i s) := by
  unfold execExMail
  refine .next (h.onWord (fun _ _ _ _ h1 => ?_))
  exact .ite h1 <| by split; exacts [h1.setCore, h1.haltWord, .ite h1.setCore.putWord.send h1.setCore.putWord.send.hxSend]

theorem State.MemWf.mailTo {p : Nat} {m : MbxMsg} {t : State} (h : s.MemWf) (e : s.mailTo p m = some t) : t.MemWf := by
  unfold State.mailTo at e
  dsimp only at e
  split at e
  · cases e
  · cases e
    exact h.setCore

theorem State.MemWf.mailArrive {k : Nat} (h : s.MemWf) : (s.mailArrive k).MemWf := by
  unfold State.mailArrive
  split
  · split
    · exact h
    · dsimp only
      split
      · exact h.unsend.takeAck
      · split
        · exact h.dropDelivery.unsend.takeAck
        · split
          · next e => exact (h.mailTo e).unsend.takeAck
          · exact h.keep
  · exact h

theorem memWf_execMailboxRetry {k : Nat} (h : s.MemWf) : Out.MemWf (execMailboxRetry k s) := .next (by split; exacts [h.keep.bumpCore, h])

theorem memWf_execVoileRemoteRetry {k : Nat} (h : s.MemWf) : Out.MemWf (execVoileRemoteRetry k s) :=
  .next (by split; exacts [h.keep.bumpCore.hxSend, h])

theorem memWf_execExMrecv {c i : Nat} (h : s.MemWf) : Out.MemWf (execExMrecv c i s) :=
  .next (h.onWord (fun _ _ _ _ h1 => .ite h1 <| by split; exacts [h1, .ite h1.setCore h1.setCore.finish]))

theorem State.MemWf.feltStep {p i : Nat} {k : Core} {e : Cqe} {w16 : Bool} {ex : Nat} {plain : Bool}
    (h : s.MemWf) : (s.feltStep p i k e w16 ex plain).MemWf :=
  .ite h <| .ite h.setCore <| by split; exacts [h.setCore, h.haltWord, h.setCore.putWord]

theorem memWf_execExFelt {c i : Nat} (h : s.MemWf) : Out.MemWf (execExFelt c i s) := .next (h.onWord (fun _ _ _ _ h1 => h1.feltStep))

theorem memWf_execGconv {c i : Nat} (h : s.MemWf) : Out.MemWf (execGconv c i s) := .next (h.onWord (fun _ _ _ _ h1 => h1.feltStep))

theorem memWf_execStrCntClr {c : Nat} (h : s.MemWf) : Out.MemWf (execStrCntClr c s) := .next (h.onCore (fun _ _ _ h1 => h1.setCore))

/-! ### Packets -/

theorem State.MemWf.owe {p : Nat} {hd : PktHdr} (h : s.MemWf) : (s.owe p hd).MemWf := h.modPort

theorem State.MemWf.freezePeer {p sub src obj addr : Nat} (h : s.MemWf) : (s.freezePeer p sub src obj addr).MemWf := h.portOnly
    (State.portOnly_freezePeer ..)

theorem State.MemWf.mcForward {p : Nat} {hd : PktHdr} {b : PktBody} (h : s.MemWf) : (s.mcForward p hd b).MemWf :=
  .ite h (.foldl (fun _ _ h1 => h1.portSend) h)

theorem State.MemWf.rx {p typ : Nat} {hd : PktHdr} {tagOk : Bool} {b : PktBody} {again : Instr} {f : State → State}
    (h : s.MemWf) (hf : ∀ s, s.MemWf → (f s).MemWf) : (s.rx p typ hd tagOk b again f).MemWf := by
  unfold State.rx
  refine h.under (fun _ h1 => ?_)
  split
  · exact h1
  · split
    · exact h1.owe.portCount.portErr.freezePeer
    · split
      · exact h1.owe.portCount
      · split
        · exact h1.keep
        · dsimp only
          split
          · exact h1.owe
          · split
            · exact h1.owe.portCount
            · exact .ite (.ite (hf _ h1.owe) h1.owe.portSend) <| .ite (.ite (hf _ h1.owe.mcForward) h1.owe.mcForward) <| .ite (hf _ h1.owe) <|
                .ite h1.owe.noRoute h1.owe.hxRoute

theorem State.MemWf.ackPkt {hd : PktHdr} (h : s.MemWf) : (s.ackPkt hd).MemWf := h.hxSend

theorem State.MemWf.peerCore {p : Nat} {hd : PktHdr} {f : Nat → State} (h : s.MemWf) (hf : ∀ l, (f l).MemWf) : (s.peerCore p hd f).MemWf := by
  unfold State.peerCore
  split
  · exact h.freezePeer
  · exact hf _

theorem memWf_execWritePacket {p : Nat} {hd : PktHdr} {tagOk : Bool} {data : List Byte}
    (h : s.MemWf) : Out.MemWf (execWritePacket p hd tagOk data s) := by
  unfold execWritePacket
  refine .next (h.rx (fun _ h1 => ?_))
  split
  · exact h1.peerCore (fun _ => .ite h1.freezePeer h1.putLocal.localPoison.deliverBar.ackPkt)
  · exact h1.peerCore (fun _ => by split; exacts [h1.freezePeer, h1.wholeWrite.deliverBar.ackPkt])

theorem memWf_execReadPacket {p : Nat} {hd : PktHdr} {tagOk : Bool} {len : Nat} (h : s.MemWf) : Out.MemWf (execReadPacket p hd tagOk len s) := by
  unfold execReadPacket
  refine .next (h.rx (fun _ h1 => ?_))
  dsimp only
  split
  · exact h1.peerCore (fun _ => .ite h1.freezePeer (.foldl (fun _ _ h3 => h3.hxSend) h1))
  · exact h1.peerCore (fun _ => by split; exacts [h1.freezePeer, .foldl (fun _ _ h3 => h3.hxSend) h1.objRead])

theorem memWf_execRdrspPacket {p : Nat} {hd : PktHdr} {tagOk : Bool} {data : List Byte}
    (h : s.MemWf) : Out.MemWf (execRdrspPacket p hd tagOk data s) :=
  .next (h.rx (fun _ h1 => h1))

theorem State.MemWf.resendStatus {v : Nat} (h : s.MemWf) : (s.resendStatus v).MemWf := h.keep rfl rfl rfl rfl rfl rfl

theorem memWf_execHdelivPacket {p : Nat} {hd : PktHdr} {tagOk : Bool} {data : List Byte}
    (h : s.MemWf) : Out.MemWf (execHdelivPacket p hd tagOk data s) := by
  unfold execHdelivPacket
  refine .next (h.rx fun _ h1 => .ite h1 (h1.peerCore fun _ => ?_))
  dsimp only
  split
  · exact h1.freezePeer
  · next e =>
    have h2 := h1.landHandle.done e
    exact .ite (.ackPkt (.ite h2.resendStatus h2)) (.ite h2.resendStatus h2)

theorem State.MemWf.mcSettle {g : Nat} (h : s.MemWf) : (s.mcSettle g).MemWf := by
  unfold State.mcSettle
  dsimp only
  split
  · exact h
  · exact .foldl (fun _ _ h1 => h1.modCore.takeAck) h

theorem State.MemWf.mcAck {g d : Nat} (h : s.MemWf) : (s.mcAck g d).MemWf := h.keep.mcSettle

theorem State.MemWf.collAcked {c : Nat} (h : s.MemWf) : (s.collAcked c).MemWf := by
  unfold State.collAcked
  split
  · exact h.keep
  · exact h

theorem memWf_execAckPacket {p : Nat} {hd : PktHdr} {tagOk : Bool} (h : s.MemWf) : Out.MemWf (execAckPacket p hd tagOk s) := by
  unfold execAckPacket
  refine .next (h.rx (fun _ h1 => ?_))
  split
  · exact h1.mcAck
  · split
    · exact h1.collAcked
    · exact .ite (by split; exacts [h1.keep, by split; exacts [h1.send, h1]]) <| by split; exacts [h1, by split; exacts [h1, h1.modCore.takeAck]]

theorem State.MemWf.mcSent {g : Nat} {m : McSend} (h : s.MemWf) : State.MemWf { s with mcs := aset s.mcs g m } := h.keep

theorem memWf_execPruneWaitExpiry {g : Nat} (h : s.MemWf) : Out.MemWf (execPruneWaitExpiry g s) := by
  unfold execPruneWaitExpiry
  refine .next ?_
  extract_lets m b src
  clear_value m b src
  split
  · exact h
  · extract_lets k slow s1
    have h1 : s1.MemWf := .foldl (fun _ _ h2 => .sendCtl (.portCount h2.keep)) h
    clear_value s1 slow k
    exact .ite h h1.mcSent.mcSettle

theorem State.MemWf.gapNotice {g mseq : Nat} (h : s.MemWf) : (s.gapNotice g mseq).MemWf := by
  unfold State.gapNotice
  dsimp only
  split
  · exact h.keep
  · split
    · exact h.keep
    · exact .ite h.keep.free.hold h.keep.free.modCore

theorem memWf_execGapNotice {g mseq : Nat} (h : s.MemWf) : Out.MemWf (execGapNotice g mseq s) := .next (.ite h h.gapNotice)

theorem memWf_execHxMcResend {g mseq : Nat} (h : s.MemWf) : Out.MemWf (execHxMcResend g mseq s) :=
  .next (by dsimp only; split; exacts [h.keep, h.keep.resendStatus.sendCtl])

theorem memWf_execResendRequest {g dev mseq : Nat} (h : s.MemWf) : Out.MemWf (execResendRequest g dev mseq s) := by
  unfold execResendRequest
  refine .next ?_
  extract_lets m src l
  split
  · exact h
  · extract_lets c
    split
    · exact h.sendCtl
    · split
      · exact h.sendCtl
      · exact h.modCore.sendBuffer

theorem memWf_execRejoin {g : Nat} (h : s.MemWf) : Out.MemWf (execRejoin g s) := .next (by split; exacts [h, h.keep.sendCtl])

theorem State.MemWf.mcRejoin {g d : Nat} (h : s.MemWf) : (s.mcRejoin g d).MemWf := h.keep rfl rfl rfl rfl rfl rfl

theorem memWf_execRejoinRequest {g dev : Nat} (h : s.MemWf) : Out.MemWf (execRejoinRequest g dev s) := .next (.ite h h.mcRejoin)

theorem memWf_execPrunedClear {g hi : Nat} {mask : BitVec 32} (h : s.MemWf) : Out.MemWf (execPrunedClear g hi mask s) :=
  .next (.ite h (.foldl (fun _ _ h1 => h1.mcRejoin) h))

theorem memWf_execPortCntClr {p : Nat} (h : s.MemWf) : Out.MemWf (execPortCntClr p s) := .next h.keep

/-! ### The step monitor -/

theorem State.MemWf.smCause {n : Nat} (h : s.MemWf) : (s.smCause n).MemWf := h.linkOnly (State.linkOnly_smCause ..)

theorem State.MemWf.smCount {off n : Nat} (h : s.MemWf) : (s.smCount off n).MemWf := h.bump

theorem State.MemWf.modLedger {step attempt : Nat} {f : Ledger → Ledger} (h : s.MemWf) : (s.modLedger step attempt f).MemWf := h.keep rfl rfl rfl
    rfl rfl rfl

theorem State.MemWf.sendTotals (h : s.MemWf) : (s.sendTotals).MemWf := by
  unfold State.sendTotals
  split
  · exact h
  · exact .ite h.keep.send h.keep.hxSend

theorem memWf_execOpenNoticeReceive {k : Nat} (h : s.MemWf) : Out.MemWf (execOpenNoticeReceive k s) :=
  .next (by split; exacts [.ite h <| .ite h.unsend.halt h.unsend.modLedger, h])

theorem memWf_execCloseReportReceive {k : Nat} (h : s.MemWf) : Out.MemWf (execCloseReportReceive k s) :=
  .next (by split; exacts [.ite h h.unsend.modLedger.sendTotals, .ite h h.unsend.modLedger, h])

theorem memWf_execCloseDeadline (h : s.MemWf) : Out.MemWf (execCloseDeadline s) := .next (.ite h.keep.smCause.smCount h)

theorem State.MemWf.endRound {r : Round} {t : Totals} (h : s.MemWf) : (s.endRound r t).MemWf := .foldl (fun _ _ h1 => h1.hxSend) h.keep.send

theorem State.MemWf.closeRound {r : Round} (h : s.MemWf) : (s.closeRound r).MemWf := .ite h <| by split; exacts [h, h.endRound]

theorem State.MemWf.addTotals {dev : Nat} {t : Totals} (h : s.MemWf) : (s.addTotals dev t).MemWf := .ite h h.keep.closeRound

theorem State.MemWf.devCommitted {dev : Nat} (h : s.MemWf) : (s.devCommitted dev).MemWf := .ite h <| .ite h.keep.smCause h.keep

theorem State.MemWf.ownCommitted (h : s.MemWf) : (s.ownCommitted).MemWf := .ite h.devCommitted h.smCause.hxSend

theorem State.MemWf.coreCommitted {p : Nat} (h : s.MemWf) : (s.coreCommitted p).MemWf := .ite h.keep.ownCommitted h.keep

theorem memWf_execDeviceTotalsReceive {dev : Nat} {t : Option Totals} (h : s.MemWf) : Out.MemWf (execDeviceTotalsReceive dev t s) :=
  .next (.ite h <| by split; exacts [.ite h.devCommitted h.addTotals, by split; exacts [h, h.unsend.addTotals]])

theorem State.MemWf.coreVerdict {p : Nat} {v : Verdict} (h : s.MemWf) : (s.coreVerdict p v).MemWf :=
  .ite (.ite h.modCore.keep.beginCommit.smCause h.modCore.keep.beginCommit) <| .ite h.modCore.modCore <| .ite h.modCore.repeatStep h.modCore

theorem State.MemWf.flipPlanes {verdict : Nat} (h : s.MemWf) : (s.flipPlanes verdict).MemWf := h.keep rfl rfl rfl rfl rfl rfl

theorem State.MemWf.noteVerdict {v : Verdict} (h : s.MemWf) : (s.noteVerdict v).MemWf := by
  unfold State.noteVerdict
  extract_lets t nf m0 m s1 s2 s3 s4 s5
  have h1 : s1.MemWf := .smCount h.keep
  have h2 : s2.MemWf := .ite h1.smCount <| .ite h1.smCount.smCause h1.smCount.smCause
  have h3 : s3.MemWf := .ite h2.smCount.smCause h2
  have h4 : s4.MemWf := .ite h3.smCount.smCause h3
  exact .ite h4.smCount.smCause h4.smCount

theorem State.MemWf.takeVerdict {v : Verdict} (h : s.MemWf) : (s.takeVerdict v).MemWf :=
  .ite (.ownCommitted (.foldl (fun _ _ h1 => .ite h1.modCore h1.coreVerdict) (.ite h.noteVerdict.flipPlanes.keep h.noteVerdict.flipPlanes)))
    (.foldl (fun _ _ h1 => .ite h1.modCore h1.coreVerdict) (.ite h.noteVerdict.flipPlanes.keep h.noteVerdict.flipPlanes))

theorem memWf_execVerdictReceive {v : Option Verdict} (h : s.MemWf) : Out.MemWf (execVerdictReceive v s) :=
  .next (by split; exacts [h.takeVerdict, by split; exacts [h, h.unsend.takeVerdict]])

theorem memWf_execPinWaitRelease {c : Nat} (h : s.MemWf) : Out.MemWf (execPinWaitRelease c s) :=
  .next (h.onCore (fun _ _ _ h1 => .ite h1 <| .ite h1.beginCommit.bumpCore h1.beginCommit))

theorem State.MemWf.endCommit {p : Nat} (h : s.MemWf) : (s.endCommit p).MemWf := h.modCore.keep.coreCommitted

theorem memWf_execCommitDone {c : Nat} (h : s.MemWf) : Out.MemWf (execCommitDone c s) := by
  unfold execCommitDone
  refine .next (h.onCore fun _ _ _ h1 => .ite h1 ?_)
  split
  · exact h1.bumpCore
  · split
    · exact h1.modCore.smCause
    · next t e =>
      extract_lets r idle
      have h2 : r.1.MemWf := (h1.makeShadows e).replay
      split
      · exact h2.modCore.freezeAt
      · exact .ite h2.modCore.halt h2.endCommit

theorem memWf_execRcmtDone {c : Nat} (h : s.MemWf) : Out.MemWf (execRcmtDone c s) :=
  .next (h.onCore (fun _ _ _ h1 => .ite h1 (.foldl (fun _ _ h2 => h2.coreCommitted) 
    (.modCore (.foldl (fun _ _ h2 => h2.setObj) (.foldl (fun _ _ h2 => h2.rcmtGroup) h1))))))

theorem memWf_execSmCntClr (h : s.MemWf) : Out.MemWf (execSmCntClr s) := .next h.keep

/-! ### Collectives -/

theorem State.MemWf.setColl {k : Nat} {x : CollInst} (h : s.MemWf) : (s.setColl k x).MemWf := h.keep rfl rfl rfl rfl rfl rfl

theorem State.MemWf.setDstat {c : Nat} {x : CollStat} (h : s.MemWf) : (s.setDstat c x).MemWf := h.keep rfl rfl rfl rfl rfl rfl

theorem State.MemWf.colCount {off n : Nat} (h : s.MemWf) : (s.colCount off n).MemWf := h.bump

theorem State.MemWf.colCause {n : Nat} (h : s.MemWf) : (s.colCause n).MemWf := h.keep.level

theorem State.MemWf.setSlot {k b : Nat} {y : CollSlot} (h : s.MemWf) : (s.setSlot k b y).MemWf := by
  unfold State.setSlot
  dsimp only
  split
  · exact h.setColl.localWrite ..
  · exact h.setColl

theorem State.MemWf.scaleTo {dev c core kind b v : Nat} (h : s.MemWf) : (s.scaleTo dev c core kind b v).MemWf := h.hxSend

theorem State.MemWf.scaleSpread {k kind b v : Nat} (h : s.MemWf) : (s.scaleSpread k kind b v).MemWf := .foldl (fun _ _ h1 => h1.scaleTo) h

theorem State.MemWf.planeWrite {x : CollInst} {b v : Nat} (h : s.MemWf) : (s.planeWrite x b v).MemWf := h.objWrite

theorem State.MemWf.destWrite {d : CDesc} {i ofs : Nat} {b : List Byte} (h : s.MemWf) : (s.destWrite d i ofs b).MemWf := by
  unfold State.destWrite
  split
  · exact h
  · split
    · exact .ite h.freezeAt (h.localWrite ..)
    · dsimp only
      split
      · exact h.freezeAt
      · exact h.wholeWrite

theorem State.MemWf.srcRead {d : CDesc} {p i ofs : Nat} {e : Cqe} (h : s.MemWf) : Tried Prod.snd (s.srcRead d p i ofs e) := by
  unfold State.srcRead
  split
  · exact .ite h.freezeAt <| .ite h.haltWord h
  · dsimp only
    split
    · exact h.freezeAt
    · exact .ite h.coreRead.haltWord h.coreRead

theorem State.MemWf.writeResult {k b : Nat} (h : s.MemWf) : (s.writeResult k b).MemWf := by
  unfold State.writeResult
  refine .scaleSpread ?_
  refine .setColl ?_
  refine .planeWrite ?_
  split
  · refine .colCount ?_
    split
    · refine .colCount ?_
      split
      · exact .colCount (by split; exacts [h.destWrite, h.destWrite.destWrite.destWrite])
      · split
        · exact h.destWrite
        · exact h.destWrite.destWrite.destWrite
    · split
      · exact .colCount (by split; exacts [h.destWrite, h.destWrite.destWrite.destWrite])
      · split
        · exact h.destWrite
        · exact h.destWrite.destWrite.destWrite
  · split
    · refine .colCount ?_
      split
      · exact .colCount (by split; exacts [h.destWrite, h.destWrite.destWrite.destWrite])
      · split
        · exact h.destWrite
        · exact h.destWrite.destWrite.destWrite
    · split
      · exact .colCount (by split; exacts [h.destWrite, h.destWrite.destWrite.destWrite])
      · split
        · exact h.destWrite
        · exact h.destWrite.destWrite.destWrite

theorem State.MemWf.listRedo {k b v : Nat} (h : s.MemWf) : (s.listRedo k b v).MemWf := .scaleSpread (.ite h.setColl.setSlot h.setColl)

theorem State.MemWf.redoRound {k : Nat} (h : s.MemWf) : (s.redoRound k).MemWf := by
  unfold State.redoRound
  exact .ite (.foldl (fun _ _ h1 => h1.listRedo.colCount) h) h

theorem State.MemWf.blockTo {k dev phase b : Nat} {blks : List CollBlk} {bytes : List Byte}
    (h : s.MemWf) : (s.blockTo k dev phase b blks bytes).MemWf :=
  h.setColl.hxSend

theorem State.MemWf.settleBlock {k b : Nat} (h : s.MemWf) : (s.settleBlock k b).MemWf := by
  unfold State.settleBlock
  exact .ite h <| by split; exacts [.redoRound (.ite h.setSlot h.setSlot.writeResult), h.setSlot.blockTo]

theorem State.MemWf.blockArrive {k b : Nat} {redo : Bool} {c : CollBlk} (h : s.MemWf) : (s.blockArrive k b redo c).MemWf := by
  unfold State.blockArrive
  exact .ite h.colCount h.setSlot.settleBlock

theorem State.MemWf.groupArrive {k b phase : Nat} {c : CollBlk} (h : s.MemWf) : (s.groupArrive k b phase c).MemWf := by
  unfold State.groupArrive
  exact .ite h.colCount h.setSlot.settleBlock

theorem State.MemWf.settleScale {k b : Nat} (h : s.MemWf) : (s.settleScale k b).MemWf := by
  unfold State.settleScale
  exact .ite h <| by dsimp only; split; exacts [h.setColl.scaleTo, h.setColl.setColl.scaleSpread]

theorem State.MemWf.takeScale {c kind b v : Nat} {dev : Bool} (h : s.MemWf) : (s.takeScale c kind b v dev).MemWf := by
  unfold State.takeScale
  split
  · exact h
  · split
    · exact h.setColl.settleScale
    · exact h.setColl.scaleSpread
    · exact h.listRedo
    · exact h.planeWrite.setColl.scaleSpread

theorem memWf_execMailboxMessage {k : Nat} (h : s.MemWf) : Out.MemWf (execMailboxMessage k s) :=
  .next (by split; exacts [.ite h.unsend.takeScale h, h.mailArrive])

theorem State.MemWf.putColl {p i : Nat} {e : Cqe} (h : s.MemWf) : (s.putColl p i e).MemWf := h.modCore

theorem State.MemWf.contrib {d : CDesc} {p pos t b : Nat} {e : Cqe} (h : s.MemWf) : Tried Prod.snd (s.contrib d p pos t b e) := by
  unfold State.contrib
  split
  · next e => exact h.srcRead.error e
  · next e => exact h.srcRead.ok e

theorem State.MemWf.contribute {k p pos b ex : Nat} {redo : Bool} {v : List Fp} (h : s.MemWf) : (s.contribute k p pos b ex redo v).MemWf :=
  .ite (.blockArrive (.ite (.ite h.colCount.colCause.modLedger h) (.setColl (.ite h.colCount.colCause.modLedger h)))) (.send (.ite (.ite
    h.colCount.colCause.modLedger h) (.setColl (.ite h.colCount.colCause.modLedger h))))

theorem State.MemWf.gatherOwn {k p pos b : Nat} {e : Cqe} (h : s.MemWf) : (s.gatherOwn k p pos b e).MemWf := by
  unfold State.gatherOwn
  dsimp only
  split
  · next e => exact h.srcRead.error e
  · next t e =>
    have h1 : t.MemWf := h.srcRead.ok e
    exact .foldl (fun _ _ h2 => h2.blockTo) h1.destWrite.setColl

theorem State.MemWf.collStep {k p i : Nat} {e : Cqe} (h : s.MemWf) : (s.collStep k p i e).MemWf := by
  unfold State.collStep
  dsimp only
  split
  · split
    · next e1 => exact h.contrib.error e1
    · next t e1 =>
      have h1 : t.MemWf := h.contrib.ok e1
      exact .ite h1.putColl.takeScale h1.putColl.send
  · split
    · exact h
    · split
      · next e1 => exact h.contrib.error e1
      · next t e1 =>
        have h1 : t.MemWf := h.contrib.ok e1
        exact (State.MemWf.ite h1.setColl h1).putColl.contribute
  · split
    · exact .ite h.putColl h
    · refine .foldl_fst (fun y _ h1 => ?_) h.putColl
      split
      · exact h1
      · split
        · next e1 => exact h1.contrib.error e1
        · next t e1 =>
          have h2 : t.MemWf := h1.contrib.ok e1
          exact h2.contribute
  · split
    · exact h
    · exact h.putColl.gatherOwn

theorem State.MemWf.normStep {k p i : Nat} {c : Core} {e : Cqe} (h : s.MemWf) : (s.normStep k p i c e).MemWf :=
  .ite h <| .ite (by split; exacts [h.modCore, h.haltWord, h.modCore.send]) <| .ite h <| .ite h.modCore h.modCore.setColl

theorem memWf_execExColl {c i : Nat} (h : s.MemWf) : Out.MemWf (execExColl c i s) :=
  .next (h.onCore (fun _ _ _ h1 => by dsimp only; split; exacts [h1, .ite h1 <| by split; exacts [h1, .ite h1.normStep h1.collStep]]))

theorem State.MemWf.collFinish {c st step attempt inst : Nat} (h : s.MemWf) : (s.collFinish c st step attempt inst).MemWf := by
  unfold State.collFinish
  refine .sendTotals ?_
  split
  · refine .modLedger ?_
    refine .foldl (fun _ _ h1 => by split; exacts [h1, h1.modCore]) ?_
    split
    · exact .colCause (.ite h.setDstat.colCount.colCause.colCount <| .ite h.setDstat.colCount.colCause.colCount h.setDstat.colCount.colCause)
    · exact .ite h.setDstat.colCount.colCause.colCount <| .ite h.setDstat.colCount.colCause.colCount h.setDstat.colCount.colCause
  · refine .foldl (fun _ _ h1 => by split; exacts [h1, h1.modCore]) ?_
    split
    · exact .colCause (.ite h.setDstat.colCount.colCause.colCount <| .ite h.setDstat.colCount.colCause.colCount h.setDstat.colCount.colCause)
    · exact .ite h.setDstat.colCount.colCause.colCount <| .ite h.setDstat.colCount.colCause.colCount h.setDstat.colCount.colCause

theorem State.MemWf.collEnd {k st : Nat} (h : s.MemWf) : (s.collEnd k st).MemWf := h.keep.collFinish

theorem State.MemWf.collDeliver {k : Nat} {hd : PktHdr} {ch : CollHdr} {blks : List CollBlk} {bytes : List Byte}
    (h : s.MemWf) : (s.collDeliver k hd ch blks bytes).MemWf :=
  .hxSend (.ite (.foldl (fun _ _ h1 => .foldl (fun _ _ h2 => h2.blockTo) h1.destWrite.setColl) h) (.foldl (fun _ _ h1 => h1.groupArrive) h))

theorem State.MemWf.takeColl {p : Nat} {hd : PktHdr} {ch : CollHdr} {blks : List CollBlk} {bytes : List Byte}
    (h : s.MemWf) : (s.takeColl p hd ch blks bytes).MemWf := by
  unfold State.takeColl
  split
  · dsimp only
    split
    · exact h.colCount.collEnd
    · exact h.colCount
  · split
    · exact .ite h.collDeliver <| .ite h.keep h.colCount
    · exact .ite h.keep h.colCount

theorem memWf_execCollPacket {p : Nat} {hd : PktHdr} {tagOk : Bool} {ch : CollHdr} {blks : List CollBlk} {bytes : List Byte}
    (h : s.MemWf) : Out.MemWf (execCollPacket p hd tagOk ch blks bytes s) :=
  .next (h.rx (fun _ h1 => h1.colCount.takeColl))

theorem memWf_execCollBlockArrival {k : Nat} (h : s.MemWf) : Out.MemWf (execCollBlockArrival k s) :=
  .next (by split; exacts [.ite h <| by split; exacts [h.unsend.blockArrive, h.unsend.colCount], h])

theorem memWf_execCollInstanceStart {c : Nat} (h : s.MemWf) : Out.MemWf (execCollInstanceStart c s) := by
  unfold execCollInstanceStart
  refine .next ?_
  split
  · exact h
  · exact h
  · exact .ite h <| .ite h.collFinish (.foldl (fun _ _ h1 => h1.takeColl) (.keep (.foldl (fun _ _ h1 => h1.modCore) h.setColl.setDstat)))

theorem memWf_execCollInstanceEnd {c : Nat} (h : s.MemWf) : Out.MemWf (execCollInstanceEnd c s) :=
  .next (by split; exacts [h, .ite (.ite h.collEnd h) <| .ite (.ite h.collEnd h) <| .ite h <| .ite h.setDstat.setColl h.setDstat.collEnd])

theorem State.MemWf.normSend {k : Nat} {b : FeltBlk} (h : s.MemWf) : (s.normSend k b).MemWf :=
  .ite (.foldl (fun _ _ h1 => h1.hxSend) (.foldl (fun _ _ h1 => by split; exacts [h1.send, h1]) h.setColl)) h.hxSend

theorem State.MemWf.normAdd {k : Nat} {b : FeltBlk} {dev : Bool} (h : s.MemWf) : (s.normAdd k b dev).MemWf :=
  .ite (.ite h.setColl.normSend h.setColl) <| .ite h.setColl.colCount <| .ite h.setColl.normSend h.setColl

theorem memWf_execNormMessage {k : Nat} (h : s.MemWf) : Out.MemWf (execNormMessage k s) := by
  unfold execNormMessage
  refine .next ?_
  split
  · exact .ite h <| by split; exacts [h.unsend.normAdd, h.unsend]
  · exact .ite h <| by split; exacts [h.unsend, .ite h.unsend.normAdd (.foldl (fun _ _ h1 => by split; exacts [h1.send, h1]) h.unsend.setColl)]
  · exact .ite h h.unsend.modCore
  · exact h

theorem memWf_execCollDeadline {c : Nat} (h : s.MemWf) : Out.MemWf (execCollDeadline c s) := by
  unfold execCollDeadline
  refine .next ?_
  split
  · exact h
  · refine .ite h.collEnd <| .ite h <| .ite ?_ ?_
    · split
      · exact .ite h.setColl h.setColl.setColl.normSend
      · exact h.setColl
    · exact .foldl (fun _ _ h1 => .ite h1 h1.setSlot.blockTo) h.setColl

theorem memWf_execFallbackDeadline {c : Nat} (h : s.MemWf) : Out.MemWf (execFallbackDeadline c s) :=
  .next (by split; exacts [h, .ite h <| .ite (.ite h.setColl.normSend h) (.setColl (.foldl (fun _ _ h1 => h1.setSlot.writeResult) h))])

theorem memWf_execAbortColl (h : s.MemWf) : Out.MemWf (execAbortColl s) := .next (.foldl (fun _ _ h1 => h1.collEnd) h)

theorem memWf_execColCntClr (h : s.MemWf) : Out.MemWf (execColCntClr s) := .next h.keep

theorem State.MemWf.mailAnswer {hd : PktHdr} {ok : Bool} (h : s.MemWf) : (s.mailAnswer hd ok).MemWf := h.hxSend

theorem State.MemWf.mailAnswered {hd : PktHdr} (h : s.MemWf) : (s.mailAnswered hd).MemWf := by
  unfold State.mailAnswered
  split
  · exact h
  · exact .ite h.unsend.takeAck h.keep

theorem memWf_execVoilePacket {p : Nat} {hd : PktHdr} {tagOk : Bool} {tag : Nat} {data : List Byte}
    (h : s.MemWf) : Out.MemWf (execVoilePacket p hd tagOk tag data s) := by
  unfold execVoilePacket
  refine .next (h.rx fun s h1 => ?_)
  extract_lets c kind b engine
  have he (t : State) (ht : t.MemWf) : (engine t).MemWf := .ite ht.send (.foldl (fun _ _ h2 => h2.takeScale) ht)
  refine .ite h1.mailAnswered <| .ite (.ite (he _ h1) h1.mailAnswer) <| h1.peerCore fun _ => .ite (he _ h1) ?_
  split
  · next e => exact (h1.mailTo e).mailAnswer
  · exact h1.mailAnswer

/-! ### Staging and flips -/

theorem State.MemWf.openSession {propose : Bool} (h : s.MemWf) : (s.openSession propose).MemWf := h.keep rfl rfl rfl rfl rfl rfl

theorem State.MemWf.closeSession (h : s.MemWf) : (s.closeSession).MemWf := h.keep rfl rfl rfl rfl rfl rfl

theorem State.MemWf.setStaged {off : Nat} {v : W32} (h : s.MemWf) : (s.setStaged off v).MemWf :=
  .ite h.keep <| .ite h.keep <| .ite h.keep <| .ite h.keep <| .ite h.keep <| .ite (.ite h.keep h) <| .ite h.keep <| .ite h.keep h

theorem State.MemWf.stageWrite {off : Nat} {v : W32} (h : s.MemWf) : (s.stageWrite off v).MemWf := .ite h.bump <| .ite h h.setStaged

theorem State.MemWf.moveBlocks {lport lchan lcodec : Amap MapEnt} (h : s.MemWf) : (s.moveBlocks lport lchan lcodec).MemWf := h.keep rfl rfl rfl rfl
    rfl rfl

theorem State.MemWf.stagedView (h : s.MemWf) : (s.stagedView).MemWf := .ite h h.moveBlocks.keep

theorem State.MemWf.cfgCause {bit : Nat} (h : s.MemWf) : (s.cfgCause bit).MemWf := h.raise

theorem State.MemWf.runCheck (h : s.MemWf) : (s.runCheck).1.MemWf := by
  unfold State.runCheck
  split
  · exact h.keep
  · exact h.keep.bump.cfgCause

theorem State.MemWf.beginFlip {epoch : Nat} {ring tell : Option Nat} {gfeat : W32} (h : s.MemWf) : (s.beginFlip epoch ring tell gfeat).MemWf :=
    h.keep rfl rfl rfl rfl rfl rfl

theorem State.MemWf.applyMaps {f : Flip} (h : s.MemWf) : (s.applyMaps f).MemWf := by
  unfold State.applyMaps
  exact h.moveBlocks.keep

theorem State.MemWf.flipIsland {isl : Nat} (h : s.MemWf) : (s.flipIsland isl).MemWf := by
  unfold State.flipIsland
  split
  · exact h
  · extract_lets mine s1 s2
    have h1 : s1.MemWf := h.keep
    have h2 : s2.MemWf := .ite h1.applyMaps h1
    exact .ite h h2.keep

theorem State.MemWf.splitPools {t : State} (ht : t.MemWf) : (s.splitPools t).MemWf := by
  unfold State.splitPools
  exact ht.keep

theorem State.MemWf.endFlip {f : Flip} (h : s.MemWf) : (s.endFlip f).MemWf := by
  unfold State.endFlip
  extract_lets e0 s1 s2 o2 s3 s4 s5 s6
  have h2 : s2.MemWf := .dropLook (.splitPools h.enter.keep)
  have h3 : s3.MemWf := h2.keep
  have h4 : s4.MemWf := by
    unfold s4
    split
    · exact h3.keep
    · exact h3
  have h5 : s5.MemWf := .ite h4.keep h4
  have h6 : s6.MemWf := h5.keep
  exact h6.closeSession.level.bump.cfgCause

/-! ### Firmware -/

theorem State.MemWf.checkImage {comp : Nat} {img : List Byte} (h : s.MemWf) : (s.checkImage comp img).1.MemWf := h.keep rfl rfl rfl rfl rfl rfl

theorem State.MemWf.startUpdate {comp : Nat} {img : List Byte} {who : Option Nat} (h : s.MemWf) : (s.startUpdate comp img who).MemWf :=
  h.keep.flashTry

/-! ### Sessions and sealed mode -/

theorem State.MemWf.answer {tr code : Nat} {d : List Byte} (h : s.MemWf) : (s.answer tr code d).MemWf := h.emit

theorem State.MemWf.refuse {tr : Nat} (h : s.MemWf) : (s.refuse tr).MemWf := h.answer

theorem memWf_execGetVersion {tr : Nat} (h : s.MemWf) : Out.MemWf (execGetVersion tr s) := .next h.answer

theorem memWf_execGetCapabilities {tr : Nat} (h : s.MemWf) : Out.MemWf (execGetCapabilities tr s) := .next h.answer

theorem memWf_execNegotiateAlgorithms {tr : Nat} {offer : List Nat} (h : s.MemWf) : Out.MemWf (execNegotiateAlgorithms tr offer s) :=
  .next (.ite h.answer h.refuse)

theorem memWf_execGetDigests {tr slot : Nat} (h : s.MemWf) : Out.MemWf (execGetDigests tr slot s) := .next (.ite h.answer h.refuse)

theorem memWf_execGetCertificate {tr slot ofs len : Nat} (h : s.MemWf) : Out.MemWf (execGetCertificate tr slot ofs len s) :=
  .next (.ite h.answer h.refuse)

theorem memWf_execChallenge {tr slot : Nat} {nonce : List Byte} (h : s.MemWf) : Out.MemWf (execChallenge tr slot nonce s) :=
  .next (.ite h.answer h.refuse)

theorem memWf_execGetMeasurements {tr index : Nat} {nonce : List Byte} (h : s.MemWf) : Out.MemWf (execGetMeasurements tr index nonce s) :=
  .next (.ite h.answer <| .ite h.answer <| .ite h.answer h.refuse)

theorem State.MemWf.discardPages (h : s.MemWf) : (s.discardPages).MemWf := h.keep.bump

theorem State.MemWf.endOwner (h : s.MemWf) : (s.endOwner).MemWf := by
  unfold State.endOwner
  exact h.discardPages.keep

theorem State.MemWf.endSession {sess : Nat} (h : s.MemWf) : (s.endSession sess).MemWf := by
  unfold State.endSession
  exact .keep (.ite h.endOwner h)

theorem memWf_execKeyExchange {tr : Nat} {data : List Byte} (h : s.MemWf) : Out.MemWf (execKeyExchange tr data s) :=
  .next (by split; exacts [h.refuse, h.keep.answer])

theorem memWf_execFinish {sess : Nat} {macOk : Bool} (h : s.MemWf) : Out.MemWf (execFinish sess macOk s) :=
  .next (by split; exacts [h, .ite h.refuse <| .ite h.endSession.refuse h.keep.bump.answer])

theorem State.MemWf.inSession {sess : Nat} {f : Spdm → State} (h : s.MemWf) (hf : ∀ d, (f d).MemWf) : (s.inSession sess f).MemWf := by
  unfold State.inSession
  split
  · exact h
  · exact .ite (hf _) h.refuse

theorem memWf_execKeyUpdate {sess : Nat} (h : s.MemWf) : Out.MemWf (execKeyUpdate sess s) := .next (h.inSession (fun _ => h.keep.answer))

theorem memWf_execHeartbeat {sess : Nat} (h : s.MemWf) : Out.MemWf (execHeartbeat sess s) := .next (h.inSession (fun _ => h.answer))

theorem memWf_execEndSession {sess : Nat} (h : s.MemWf) : Out.MemWf (execEndSession sess s) := .next (h.inSession (fun _ => h.endSession.answer))

theorem memWf_execSessionFault {sess : Nat} (h : s.MemWf) : Out.MemWf (execSessionFault sess s) := .next h.endSession

theorem memWf_execIdeKm {sess : Nat} {data : List Byte} (h : s.MemWf) : Out.MemWf (execIdeKm sess data s) :=
  .next (h.inSession (fun _ => h.keep.answer))

theorem memWf_execOwnerClaim {sess : Nat} {pk sig : List Byte} (h : s.MemWf) : Out.MemWf (execOwnerClaim sess pk sig s) :=
  .next (h.inSession (fun _ => .ite h.refuse (.answer (.keep (.ite h h.endOwner)))))

theorem memWf_execSeal {sess : Nat} (h : s.MemWf) : Out.MemWf (execSeal sess s) :=
  .next (h.inSession (fun _ => .ite h.refuse <| .ite h.answer <| .ite h.keep.answer h.refuse))

theorem memWf_execRelease {sess : Nat} (h : s.MemWf) : Out.MemWf (execRelease sess s) := .next (h.inSession (fun _ => .ite h.refuse h.keep.answer))

theorem memWf_execOwnerInfo {sess : Nat} (h : s.MemWf) : Out.MemWf (execOwnerInfo sess s) := .next (h.inSession (fun _ => .ite h.refuse h.answer))

theorem State.MemWf.scrubbed (h : s.MemWf) : s.scrubbed.MemWf := by
  obtain ⟨-, -, htier, hflash, hbar2, hsram⟩ := h
  exact ⟨rfl, rfl, Memory.wf_filter _ htier, hflash, hbar2, hsram⟩

theorem memWf_execScrubDone (h : s.MemWf) : Out.MemWf (execScrubDone s) := .next (by split; exacts [h, h.scrubbed.keep])

theorem memWf_execManifestWrite {data : List Byte} (h : s.MemWf) : Out.MemWf (execManifestWrite data s) :=
  .next (.ite h <| .ite h.mbxEnd <| .ite h.mbxEnd <| .ite h.checkImage.mbxEnd h.checkImage.startUpdate)

theorem memWf_execArbCommit (h : s.MemWf) : Out.MemWf (execArbCommit s) := .next (.ite h <| .ite h.mbxEnd <| .ite h.mbxEnd h.keep.flashTry)

theorem memWf_execDebugUnlock {token : List Byte} (h : s.MemWf) : Out.MemWf (execDebugUnlock token s) :=
  .next (.ite h <| .ite h.mbxEnd <| .ite h.mbxEnd <| .ite h.checkImage.mbxEnd <| .ite h.checkImage.mbxEnd <|
    .ite h.checkImage.mbxEnd h.checkImage.keep.mbxEnd)

theorem memWf_execSecCntClr (h : s.MemWf) : Out.MemWf (execSecCntClr s) := .next h.keep

theorem memWf_execPldmFirmwareUpdate {comp : Nat} {img : List Byte} (h : s.MemWf) : Out.MemWf (execPldmFirmwareUpdate comp img s) :=
  .next (.ite h.refuse <| .ite h.answer <| .ite h.checkImage.refuse h.checkImage.startUpdate.answer)

/-! ### The rings -/

theorem State.MemWf.setRing {r : Nat} {x : Ring} (h : s.MemWf) : (s.setRing r x).MemWf := h.keep rfl rfl rfl rfl rfl rfl

theorem State.MemWf.ringBegin {r : Nat} {j : RingJob} (h : s.MemWf) : (s.ringBegin r j).MemWf := h.setRing

theorem State.MemWf.cqLevel (h : s.MemWf) : (s.cqLevel).MemWf := h.level

theorem State.MemWf.cqWrite {r : Nat} {e : List Byte} {noirq : Bool} (h : s.MemWf) : (s.cqWrite r e noirq).MemWf :=
  .ite h.setRing.emit.msix h.setRing.emit

theorem State.MemWf.cqPost {r : Nat} {j : RingJob} {k : Compl} (h : s.MemWf) : (s.cqPost r j k).MemWf := .ite h.setRing.cqWrite h.setRing.cqLevel

theorem State.MemWf.ringSettle {r fuel : Nat} (h : s.MemWf) : (s.ringSettle r fuel).MemWf := by
  induction fuel generalizing s with
  | zero => exact h
  | succ n ih =>
    unfold State.ringSettle
    split
    · exact .ite h (ih h.cqPost)
    · exact h

theorem State.MemWf.hostDone {r : Nat} {j : RingJob} {k : Compl} (h : s.MemWf) : (s.hostDone r j k).MemWf := h.cqPost.ringSettle

theorem State.MemWf.relayNote {r dev st sub : Nat} (h : s.MemWf) : (s.relayNote r dev st sub).MemWf := by
  unfold State.relayNote
  dsimp only
  split
  · exact .ite h <| .ite h.setRing.hostDone h.setRing
  · exact h

theorem State.MemWf.ringDone {r : Nat} {j : RingJob} {k : Compl} (h : s.MemWf) : (s.ringDone r j k).MemWf :=
  .ite h.hostDone <| .ite h.setRing.relayNote h.setRing.sendCtl

theorem State.MemWf.ringEnd {r : Nat} {k : Compl} (h : s.MemWf) : (s.ringEnd r k).MemWf := by
  unfold State.ringEnd
  split
  · exact .ite h.ringDone h
  · exact h

theorem memWf_execRelayResultReceive {r dev status subst : Nat} (h : s.MemWf) : Out.MemWf (execRelayResultReceive r dev status subst s) :=
  .next h.relayNote

theorem memWf_execRelayTimeout {r : Nat} (h : s.MemWf) : Out.MemWf (execRelayTimeout r s) :=
  .next (by split; exacts [h, .foldl (fun _ _ h1 => h1.relayNote) h.cfgCause])

theorem memWf_execSqTail {r tail : Nat} (h : s.MemWf) : Out.MemWf (execSqTail r tail s) :=
  .next (.ite h <| .ite h.setRing (.ringSettle (.ite h.setRing.pulse h.setRing.keep.level)))

theorem memWf_execCqHead {r head : Nat} (h : s.MemWf) : Out.MemWf (execCqHead r head s) :=
  .next (.ite h <| .ite h.setRing (.ringSettle (by split; exacts [.ite h.setRing.cqWrite.cqLevel h.setRing, h.setRing])))

/-! ### Migration and the memory commands -/

theorem State.MemWf.migFill (h : s.MemWf) : (s.migFill).MemWf := h.keep rfl rfl rfl rfl rfl rfl

theorem State.MemWf.modMig {obj : Nat} {f : Migration → Migration} (h : s.MemWf) : (s.modMig obj f).MemWf := h.keep rfl rfl rfl rfl rfl rfl

theorem State.MemWf.migNeed {obj g : Nat} {dest : ObjEnt} (h : s.MemWf) : (s.migNeed obj g dest).MemWf := h.modMig.migFill

theorem State.MemWf.migRounds {obj fuel : Nat} (h : s.MemWf) : (s.migRounds obj fuel).MemWf := by
  induction fuel generalizing s with
  | zero => exact h
  | succ n ih =>
    unfold State.migRounds
    split
    · exact h
    · exact .ite h (ih h.modMig.migFill)

theorem State.MemWf.migBegin {m : Migration} (h : s.MemWf) : (s.migBegin m).MemWf := h.bumpGen.setObj.modMig.migNeed

theorem State.MemWf.migNext (h : s.MemWf) : (s.migNext).MemWf := .ite h <| by split; exacts [h, h.migBegin]

theorem State.MemWf.startMig {obj : Nat} {dest : ObjEnt} {ring : Option Nat} (h : s.MemWf) : (s.startMig obj dest ring).MemWf := h.keep.migNext

theorem State.MemWf.migSwitch {m : Migration} (h : s.MemWf) : (s.migSwitch m).MemWf := by
  unfold State.migSwitch
  dsimp only
  split
  · exact h.setObj.bumpGen.dropLook.keep.migNext.ringEnd
  · exact h.setObj.bumpGen.dropLook.keep.migNext

theorem State.MemWf.migGate {obj g : Nat} {src dst : ObjEnt} (h : s.MemWf) : (s.migGate obj g src dst).2.MemWf := by
  unfold State.migGate
  refine .foldl_snd (fun _ _ h1 => ?_) h
  split
  · exact h1
  · dsimp only
    split
    · exact h1.codecGate.codecGate
    · exact h1.codecGate

theorem State.MemWf.copyStored {e d : ObjEnt} {g : Nat} (h : s.MemWf) : (s.copyStored e d g).MemWf :=
  .ite h.countPoison.devWrite h.countPoison.devWrite.devWrite

theorem memWf_execMigrationGranuleDone {obj : Nat} (h : s.MemWf) : Out.MemWf (execMigrationGranuleDone obj s) := by
  unfold execMigrationGranuleDone
  refine .next ?_
  split
  · exact h
  · extract_lets e s1 g r s2
    have h1 : s1.MemWf := h.migRounds
    have hg : g.2.MemWf := .ite_snd h1.migGate h1
    have h2 : s2.MemWf := .ite hg.imgRead.imgWrite hg.copyStored
    exact .ite hg <| .ite h2.modMig.migNeed h2.migSwitch

theorem memWf_execCodecBlockWrite {obj blk ofs : Nat} {data : List Byte} (h : s.MemWf) : Out.MemWf (execCodecBlockWrite obj blk ofs data s) :=
  .next (.ite h h.objWrite)

theorem State.MemWf.codecFail {k : Nat} (h : s.MemWf) : (s.codecFail k).MemWf := by
  unfold State.codecFail
  split
  · exact h
  · exact h.keep

theorem memWf_execCodecBlockRead {obj blk : Nat} {fail : Bool} (h : s.MemWf) : Out.MemWf (execCodecBlockRead obj blk s fail) :=
  .next (.ite h <| .ite h.readBlock.codecFail h.readBlock)

theorem memWf_execPatrolScrubPass {ch ce ue : Nat} (h : s.MemWf) : Out.MemWf (execPatrolScrubPass ch ce ue s) :=
  .next (.ite h h.bump.chanCe.chanUe.keep)

theorem memWf_execPoolStatCapture {c pool : Nat} (h : s.MemWf) : Out.MemWf (execPoolStatCapture c pool s) :=
  .next (.ite h (h.onCore (fun _ _ _ h1 => h1.setCore.emit)))

theorem State.MemWf.declareLost (h : s.MemWf) : (s.declareLost).MemWf := .ite h <| .ite h.keep.level h.keep.level.sendCtl

theorem State.MemWf.chanFail {ch : Nat} (h : s.MemWf) : (s.chanFail ch).MemWf := h.keep.chanErr

theorem memWf_execChipError {what unit : Nat} (h : s.MemWf) : Out.MemWf (execChipError what unit s) := by
  unfold execChipError
  refine .next ?_
  split
  · exact h.level.declareLost
  · exact h.declareLost
  · exact h.declareLost
  · exact .ite h.chanFail.declareLost h
  · exact .ite h.chanFail.declareLost h
  · exact h

/-! ### Preemption -/

theorem State.MemWf.saveWritten {a n : Nat} {d : List Byte} (h : s.MemWf) : State.MemWf
    { s with slice := Memory.put s.slice a d, slicePz := pzWrite 8 s.slicePz a n false } := by
  obtain ⟨ht0, hslice, rest⟩ := h
  exact ⟨ht0, Memory.wf_put _ _ hslice, rest⟩

theorem State.MemWf.writeSave {p : Nat} {x : CoreCtx} {pr : Pre} (h : s.MemWf) : (s.writeSave p x pr).MemWf := by
  unfold State.writeSave
  exact .foldl (fun _ _ h1 => h1.saveWritten) (State.MemWf.saveWritten h.keep)

theorem memWf_execPreemptRequest {c : Nat} (h : s.MemWf) : Out.MemWf (execPreemptRequest c s) :=
  .next (h.onCore (fun _ _ _ h1 => .ite h1.setCore h1))

theorem memWf_execPreemptBoundary {c cyc : Nat} (h : s.MemWf) : Out.MemWf (execPreemptBoundary c cyc s) :=
  .next (h.onCore (fun _ _ _ h1 => .ite h1 (.foldl (fun _ _ h2 => h2.askSwitch) h1.setCore)))

theorem State.MemWf.frameGo {l p n lat : Nat} (h : s.MemWf) : (s.frameGo l p n lat).MemWf := .ite h.modCore.keep.keep h.modCore.keep

theorem memWf_execSaveDone {c stall lat : Nat} (h : s.MemWf) : Out.MemWf (execSaveDone c stall lat s) := by
  unfold execSaveDone
  refine .next (h.onCore fun _ _ _ h1 => ?_)
  extract_lets waits
  split
  · extract_lets b w s1 s2
    have h2 : s2.MemWf := h1.writeSave.modCore
    split
    · exact h2.frameGo
    · split
      · exact h2.modCore
      · exact h2
  · split
    · exact .ite h1.frameGo h1
    · exact h1
  · exact h1

theorem State.MemWf.applyHeld {p : Nat} {hd : Held} (h : s.MemWf) : (s.applyHeld p hd).MemWf := by
  unfold State.applyHeld
  split
  · exact h.signal
  · exact h.modCore
  · exact h.takeCredit
  · exact h.coreVerdict

theorem memWf_execRestoreDone {c stall : Nat} {bad : Bool} (h : s.MemWf) : Out.MemWf (execRestoreDone c stall bad s) := by
  unfold execRestoreDone
  exact .next (h.onCore (fun _ _ _ h1 => by split; exacts [.ite h1.modCore.halt (.irqCore (.foldl (fun _ _ h2 => h2.applyHeld) h1.modCore)), h1]))

theorem memWf_execFrameEdge {n : Nat} {rising : Bool} (h : s.MemWf) : Out.MemWf (execFrameEdge n rising s) := by
  unfold execFrameEdge
  refine .next ?_
  split
  · exact h
  · dsimp only
    split
    · exact h
    · split
      · exact .ite h.bump.frameCause.bump.frameCause h.bump.frameCause.keep
      · exact .ite h <| .ite h.frameCause (.foldl (fun _ _ h1 => by split; exacts [h1.modCore, h1]) h.keep.bump)

theorem memWf_execFrameRunEnd {n : Nat} (h : s.MemWf) : Out.MemWf (execFrameRunEnd n s) :=
  .next (.ite h <| .ite h <| .ite (.foldl (fun _ _ h1 => h1.modCore.irqCore) h.keep.bump) (.foldl (fun _ _ h1 => h1.modCore.irqCore) h.keep))

theorem memWf_execFrameDeadline {n : Nat} (h : s.MemWf) : Out.MemWf (execFrameDeadline n s) := .next (.ite h h.bump.frameCause)

theorem memWf_execCerrCntClr {c : Nat} (h : s.MemWf) : Out.MemWf (execCerrCntClr c s) := .next (h.onCore (fun _ _ _ h1 => h1.setCore))

theorem memWf_execSeqCntClr {c : Nat} (h : s.MemWf) : Out.MemWf (execSeqCntClr c s) := .next (h.onCore (fun _ _ _ h1 => h1.setCore))

/-! ### The commands of a ring -/

theorem memWf_ok (h : s.MemWf) : (ok s).MemWf := h

theorem memWf_fail {st detail : Nat} (h : s.MemWf) : (fail s st detail).MemWf := h

theorem State.MemWf.runHere {r : Nat} {j : RingJob} {eff : State → Nat → RingJob → Ans}
    (h : s.MemWf) (heff : ∀ s r j, s.MemWf → (eff s r j).MemWf) : (s.runHere r j eff).MemWf := by
  have k := heff s r j h
  unfold State.runHere
  split
  · next e =>
    rw [e] at k
    exact k
  · next t _ e =>
    rw [e] at k
    exact State.MemWf.ringDone k

theorem State.MemWf.needState {c : BitVec 512} {f : Core → Bool} {g : Ans} (h : s.MemWf) (hg : g.MemWf) : (s.needState c f g).MemWf := by
  unfold State.needState
  split
  · exact memWf_fail h
  · exact hg

theorem State.MemWf.eachCore {c : BitVec 512} {f : State → Nat → State}
    (h : s.MemWf) (hf : ∀ s p, s.MemWf → (f s p).MemWf) : (s.eachCore c f).MemWf :=
  .foldl (fun _ _ h1 => hf _ _ h1) h

theorem State.MemWf.placeImage {c : BitVec 512} {d : List Byte} {l : List (Section × Nat)} (h : s.MemWf) : (s.placeImage c d l).MemWf := by
  unfold State.placeImage
  exact .keep (.eachCore (.foldl (fun _ _ h1 => h1.wholeWrite) h) (fun _ _ h1 => h1.modCore))

theorem memWf_loadImage {img : List Byte} {r : Nat} {j : RingJob} (h : s.MemWf) : (loadImage img s r j).MemWf := by
  unfold loadImage
  extract_lets c d kind fw refuse hd x x1 l pl
  have h1 : x.1.MemWf := h.checkImage
  have h2 : x1.1.MemWf := .ite_fst h.checkImage h
  exact .ite (.ite h (memWf_ok h)) <| .ite (memWf_fail h) <| h.needState <| .ite h <|
    .ite (.ite (memWf_fail h) <| .ite h1 <| .ite h1 <| .ite h1 h1.ringBegin.startUpdate)
      (.ite h2 <| .ite h2 <| .ite h2 <| .ite h (memWf_ok h2.placeImage))

theorem memWf_startCmd {r : Nat} {j : RingJob} (h : s.MemWf) : (startCmd s r j).MemWf := by
  unfold startCmd
  exact h.needState (memWf_ok (h.eachCore (fun _ _ h1 => .ite h1.restartCore h1.modCore.irqCore)))

theorem memWf_stopCmd {r : Nat} {j : RingJob} (h : s.MemWf) : (stopCmd s r j).MemWf :=
  .ite (memWf_ok (.ite h (h.eachCore (fun _ _ h1 => h1.modCore)))) (.ringBegin (.ite h (h.eachCore (fun _ _ h1 => h1.modCore))))

theorem memWf_preemptCmd {r : Nat} {j : RingJob} (h : s.MemWf) : (preemptCmd s r j).MemWf := by
  unfold preemptCmd
  dsimp only
  split
  · exact .ite (memWf_fail h) (h.needState (.ringBegin (h.eachCore (fun _ _ h1 => h1.modCore))))
  · split
    · exact memWf_fail h
    · exact .ite (memWf_ok h) h

theorem memWf_resumeCmd {r : Nat} {j : RingJob} (h : s.MemWf) : (resumeCmd s r j).MemWf :=
  .ite (h.needState (.ringBegin (h.eachCore (fun _ _ h1 => h1.modCore.irqCore)))) <| .ite (memWf_ok h) h

theorem memWf_stepRepeatCmd {r : Nat} {j : RingJob} (h : s.MemWf) : (stepRepeatCmd s r j).MemWf :=
  h.needState (memWf_ok (h.eachCore (fun _ _ h1 => h1.repeatStep)))

theorem memWf_migrateCmd {r : Nat} {j : RingJob} (h : s.MemWf) : (migrateCmd s r j).MemWf :=
  .ite h <| .ite (memWf_fail h) <| .ite (memWf_fail h) <| by split; exacts [memWf_fail h, h.ringBegin.startMig]

theorem memWf_stageCmd {list : List (Nat × W32)} {r : Nat} {j : RingJob} (h : s.MemWf) : (stageCmd list s r j).MemWf :=
  .ite (memWf_fail h) <| by split; exacts [memWf_fail h, memWf_ok (.foldl (fun _ _ h1 => h1.stageWrite) (.ite h.openSession h))]

theorem memWf_checkCmd {r : Nat} {j : RingJob} (h : s.MemWf) : (checkCmd s r j).MemWf := by
  unfold checkCmd
  split
  · next e => exact h.runCheck.of_fst e
  · next e => exact h.runCheck.of_fst e

theorem memWf_commitCmd {r : Nat} {j : RingJob} (h : s.MemWf) : (commitCmd s r j).MemWf := by
  unfold commitCmd
  refine .ite h (.ite h ?_)
  split
  · next e => exact h.runCheck.of_fst e
  · next e => exact (h.runCheck.of_fst e).ringBegin.beginFlip

theorem memWf_abortCmd {r : Nat} {j : RingJob} (h : s.MemWf) : (abortCmd s r j).MemWf := by
  unfold abortCmd
  exact .ite (memWf_ok h) (memWf_ok h.closeSession.cfgCause)

theorem memWf_attestCmd {r : Nat} {j : RingJob} (h : s.MemWf) : (attestCmd s r j).MemWf := .ite (memWf_fail h) (memWf_ok h.emit)

theorem memWf_fenceCmd {r : Nat} {j : RingJob} (h : s.MemWf) : (fenceCmd s r j).MemWf :=
  .ite (.ite (memWf_fail h) <| .ite (memWf_fail h) (memWf_ok h.fenceCore)) <| by split; exacts [memWf_fail h, memWf_ok h.fenceCore]

theorem State.MemWf.lift {ps : List Nat} (h : s.MemWf) : (s.lift ps).MemWf := .foldl (fun _ _ h1 => h1.modCore) h.keep

theorem memWf_unfenceCmd {pass : Bool} {r : Nat} {j : RingJob} (h : s.MemWf) : (unfenceCmd pass s r j).MemWf :=
  .ite (memWf_fail h) <| .ite (.ite (memWf_ok h.keep) (memWf_ok h.keep.lift.setCluster)) (memWf_ok h.lift)

theorem memWf_queryCmd {r : Nat} {j : RingJob} (h : s.MemWf) : (queryCmd s r j).MemWf := .ite (memWf_fail h) (memWf_ok h.emit)

theorem State.MemWf.runRelayed {r : Nat} (h : s.MemWf) : (s.runRelayed r).MemWf := by
  unfold State.runRelayed
  split
  · exact h
  · dsimp only
    split
    · exact h
    · split
      · exact h.ringDone
      · split
        · exact h.runHere (fun _ _ _ h1 => memWf_loadImage h1)
        · exact h.runHere (fun _ _ _ h1 => memWf_startCmd h1)
        · exact h.runHere (fun _ _ _ h1 => memWf_stopCmd h1)
        · exact h.runHere (fun _ _ _ h1 => memWf_preemptCmd h1)
        · exact h.runHere (fun _ _ _ h1 => memWf_resumeCmd h1)
        · exact h.runHere (fun _ _ _ h1 => memWf_migrateCmd h1)
        · exact h.runHere (fun _ _ _ h1 => memWf_stageCmd h1)
        · exact h.runHere (fun _ _ _ h1 => memWf_checkCmd h1)
        · exact h.runHere (fun _ _ _ h1 => memWf_commitCmd h1)
        · exact h.runHere (fun _ _ _ h1 => memWf_abortCmd h1)
        · exact h.runHere (fun _ _ _ h1 => memWf_stepRepeatCmd h1)
        · exact h.runHere (fun _ _ _ h1 => memWf_attestCmd h1)
        · exact h.runHere (fun _ _ _ h1 => memWf_fenceCmd h1)
        · exact h
        · exact h.runHere (fun _ _ _ h1 => memWf_queryCmd h1)
        · exact h.ringDone

theorem State.MemWf.takeRelayed {src ring : Nat} {c : BitVec 512} {payload : List Byte} (h : s.MemWf) : (s.takeRelayed src ring c payload).MemWf :=
  .ite h h.setRing.runRelayed

theorem memWf_execRelayedCommandReceive {src ring : Nat} {cmd : BitVec 512} {payload : List Byte}
    (h : s.MemWf) : Out.MemWf (execRelayedCommandReceive src ring cmd payload s) :=
  .next h.takeRelayed

theorem State.MemWf.relayStart {r : Nat} {j : RingJob} {payload : List Byte} (h : s.MemWf) : (s.relayStart r j payload).MemWf :=
  .ite h.ringBegin.setRing.ringDone (.foldl (fun _ _ h1 => .ite h1.takeRelayed h1.sendCtl) h.ringBegin.setRing)

theorem State.MemWf.prepare {src epoch : Nat} (h : s.MemWf) : (s.prepare src epoch).1.MemWf := by
  unfold State.prepare
  have opened : (if s.cfg.st = 0 then s.openSession false else s).MemWf := .ite h.openSession h
  dsimp only
  split
  · next e => exact opened.runCheck.of_fst e
  · next e => exact (opened.runCheck.of_fst e).keep

theorem State.MemWf.groupAbort {t : TwoPc} {k : Compl} (h : s.MemWf) : (s.groupAbort t k).MemWf :=
  .ringEnd (.cfgCause (.keep (.closeSession (.foldl (fun _ _ h1 => h1.sendCtl) h))))

theorem State.MemWf.decide2 (h : s.MemWf) : (s.decide2).MemWf := by
  unfold State.decide2
  split
  · exact h
  · split
    · exact h
    · split
      · dsimp only
        split
        · exact h.groupAbort
        · exact .ite (.beginFlip (.foldl (fun _ _ h1 => h1.sendCtl) h.keep)) (.foldl (fun _ _ h1 => h1.sendCtl) h.keep)
      · exact h.groupAbort

theorem State.MemWf.takeVote {dev : Nat} {good : Bool} {detail : Nat} {routes : List (Nat × List Nat)} {feat : W32}
    (h : s.MemWf) : (s.takeVote dev good detail routes feat).MemWf := by
  unfold State.takeVote
  split
  · exact h
  · exact .ite h h.keep.decide2

theorem State.MemWf.groupStart {r : Nat} {j : RingJob} (h : s.MemWf) : (s.groupStart r j).MemWf :=
  .ite (.takeVote (.prepare (.foldl (fun _ _ h1 => h1.sendCtl) h.ringBegin.keep))) (.foldl (fun _ _ h1 => h1.sendCtl) h.ringBegin.keep)

theorem State.MemWf.onRing {r opc : Nat} {payload : List Byte} {hd : State → Nat → RingJob → Ans}
    (h : s.MemWf) (hhd : ∀ s r j, s.MemWf → (hd s r j).MemWf) : (s.onRing r opc payload hd).MemWf := by
  unfold State.onRing
  split
  · exact h
  · split
    · exact h
    · exact .ite (.ite h (h.runHere hhd)) <| .ite h <| by split; exacts [h.ringDone, .ite (.ite h.groupStart h.relayStart) (h.runHere hhd)]

theorem memWf_execLoadImage {r : Nat} {img : List Byte} (h : s.MemWf) : Out.MemWf (execLoadImage r img s) :=
  .next (h.onRing (fun _ _ _ h1 => memWf_loadImage h1))

theorem memWf_execStart {r : Nat} (h : s.MemWf) : Out.MemWf (execStart r s) := .next (h.onRing (fun _ _ _ h1 => memWf_startCmd h1))

theorem memWf_execStop {r : Nat} (h : s.MemWf) : Out.MemWf (execStop r s) := .next (h.onRing (fun _ _ _ h1 => memWf_stopCmd h1))

theorem memWf_execPreempt {r : Nat} (h : s.MemWf) : Out.MemWf (execPreempt r s) := .next (h.onRing (fun _ _ _ h1 => memWf_preemptCmd h1))

theorem memWf_execResume {r : Nat} (h : s.MemWf) : Out.MemWf (execResume r s) := .next (h.onRing (fun _ _ _ h1 => memWf_resumeCmd h1))

theorem memWf_execMigrate {r : Nat} (h : s.MemWf) : Out.MemWf (execMigrate r s) := .next (h.onRing (fun _ _ _ h1 => memWf_migrateCmd h1))

theorem memWf_execStage {r : Nat} {list : List (Nat × W32)} (h : s.MemWf) : Out.MemWf (execStage r list s) :=
  .next (h.onRing (fun _ _ _ h1 => memWf_stageCmd h1))

theorem memWf_execCheck {r : Nat} (h : s.MemWf) : Out.MemWf (execCheck r s) := by
  unfold execCheck
  exact .next (h.onRing (fun _ _ _ h1 => memWf_checkCmd h1))

theorem memWf_execCommit {r : Nat} (h : s.MemWf) : Out.MemWf (execCommit r s) := .next (h.onRing (fun _ _ _ h1 => memWf_commitCmd h1))

theorem memWf_execAbort {r : Nat} (h : s.MemWf) : Out.MemWf (execAbort r s) := by
  unfold execAbort
  exact .next (h.onRing (fun _ _ _ h1 => memWf_abortCmd h1))

theorem memWf_execStepRepeat {r : Nat} (h : s.MemWf) : Out.MemWf (execStepRepeat r s) := .next (h.onRing (fun _ _ _ h1 => memWf_stepRepeatCmd h1))

theorem memWf_execAttest {r : Nat} (h : s.MemWf) : Out.MemWf (execAttest r s) := .next (h.onRing (fun _ _ _ h1 => memWf_attestCmd h1))

theorem memWf_execFence {r : Nat} (h : s.MemWf) : Out.MemWf (execFence r s) := .next (h.onRing (fun _ _ _ h1 => memWf_fenceCmd h1))

theorem memWf_execUnfence {r : Nat} {pass : Bool} (h : s.MemWf) : Out.MemWf (execUnfence r pass s) :=
  .next (h.onRing (fun _ _ _ h1 => memWf_unfenceCmd h1))

theorem memWf_execQuery {r : Nat} (h : s.MemWf) : Out.MemWf (execQuery r s) := .next (h.onRing (fun _ _ _ h1 => memWf_queryCmd h1))

/-! ### Power -/

theorem State.MemWf.avsWrite {mv : Nat} (h : s.MemWf) : (s.avsWrite mv).MemWf := h.keep.emit

theorem State.MemWf.stepIs {step : Nat} (h : s.MemWf) : (s.stepIs step).MemWf := h.keep.level

theorem State.MemWf.pwSettle (h : s.MemWf) : (s.pwSettle).MemWf :=
  .ite h.bump.stepIs.keep.avsWrite <| .ite (.ite h h.keep.avsWrite) <| .ite h.keep.avsWrite h

theorem memWf_execAvsWriteAck (h : s.MemWf) : Out.MemWf (execAvsWriteAck s) := .next (.ite h.keep h)

theorem memWf_execFrequencyChange (h : s.MemWf) : Out.MemWf (execFrequencyChange s) := .next (.ite h h.keep.bump.stepIs)

theorem memWf_execPowerLoopEval {est : Nat} (h : s.MemWf) : Out.MemWf (execPowerLoopEval est s) :=
  .next (h.under (fun _ h1 => .pwSettle (.ite h1.keep h1.keep.pwrCause)))

theorem memWf_execPmbusPoll {mv : Nat} {fault : Bool} (h : s.MemWf) : Out.MemWf (execPmbusPoll mv fault s) :=
  .next (.ite h <| .ite h.keep.pwrCause h.keep)

theorem State.MemWf.thermUp (h : s.MemWf) : (s.thermUp).MemWf := .ite h h.keep.pwrCause

theorem State.MemWf.flashAbandon (h : s.MemWf) : s.flashAbandon.MemWf := by
  unfold State.flashAbandon
  split
  · exact h
  · refine .ite h ?_
    extract_lets d s1
    have h1 : s1.MemWf := .keep (h.sectorWritten (d := d)) 
    split
    · exact h1.keep
    · exact h1.keep
    · exact h1

theorem State.MemWf.trip (h : s.MemWf) : (s.trip).MemWf := by
  unfold State.trip
  exact h.declareLost.flashAbandon.emit.keep

theorem memWf_execThermalSample {temps : List Nat} {rise fall : Bool} (h : s.MemWf) : Out.MemWf (execThermalSample temps rise fall s) :=
  .next (h.under (fun _ h1 => .ite h1.keep.trip (.pwSettle (.ite h1.keep.thermUp <| .ite h1.keep.keep h1.keep))))

theorem memWf_execThermAlert {asserted : Bool} (h : s.MemWf) : Out.MemWf (execThermAlert asserted s) :=
  .next (h.under (fun _ h1 => .ite h1.keep.level.thermUp.pwSettle h1.keep.level))

theorem memWf_execPwrfailN {low : Bool} (h : s.MemWf) : Out.MemWf (execPwrfailN low s) := by
  unfold execPwrfailN
  refine .next ?_
  extract_lets x1 s1 s2
  have h1 : s1.MemWf := h.keep
  exact .ite h <| .ite h1 <| .ite (.pwrCause (.pwSettle (State.MemWf.keep (s := s2) h1.level))) h1.level

theorem memWf_execPwrfailRecovery (h : s.MemWf) : Out.MemWf (execPwrfailRecovery s) := .next (.ite h <| .ite h.keep.pwSettle.flashTry h.keep)

theorem memWf_execPwrCntClr (h : s.MemWf) : Out.MemWf (execPwrCntClr s) := .next h.keep

/-! ### The sealed windows -/

theorem State.MemWf.winFreeze {reason obj addr : Nat} (h : s.MemWf) : (s.winFreeze reason obj addr).MemWf := h.keep.level

theorem State.MemWf.winRelease (h : s.MemWf) : (s.winRelease).MemWf := h.keep.level

theorem memWf_execReleaseWindow (h : s.MemWf) : Out.MemWf (execReleaseWindow s) := .next h.winRelease

theorem State.MemWf.winRead {a n : Nat} (h : s.MemWf) : (s.winRead a n).MemWf := by
  unfold State.winRead
  split
  · exact h.winFreeze.emit
  · exact h.objRead.emit

theorem State.MemWf.winWrite {a : Nat} {d : List Byte} (h : s.MemWf) : (s.winWrite a d).MemWf := by
  unfold State.winWrite
  split
  · exact h.winFreeze
  · exact h.wholeWrite

theorem State.MemWf.sealFail {a : Nat} (h : s.MemWf) : (s.sealFail a).MemWf := h.bump.winFreeze

theorem State.MemWf.pageDone {w : WPage} (h : s.MemWf) : (s.pageDone w).MemWf := by
  unfold State.pageDone
  extract_lets d ctr dir iv x s1
  have h1 : s1.MemWf := h.keep
  refine .ite h1.sealFail ?_
  split
  · exact h1.winFreeze
  · extract_lets s2
    have h2 : s2.MemWf := h1.wholeWrite
    exact .bump h2.keep

theorem State.MemWf.sealedByte {ofs : Nat} {b : Byte} (h : s.MemWf) : (s.sealedByte ofs b).MemWf := by
  unfold State.sealedByte
  extract_lets k a sec s1
  have h1 : s1.MemWf := .ite h.keep h
  refine .ite h1.sealFail ?_
  split
  · extract_lets w s2
    have h2 : s2.MemWf := h1.keep
    exact .ite h1.sealFail <| .ite h2.pageDone h2
  · refine .ite h1.sealFail ?_
    split
    · exact h1.winFreeze
    · split
      · exact h1.sealFail
      · exact h1.keep

theorem memWf_execSealedPageWrite {ofs : Nat} {b : Byte} (h : s.MemWf) : Out.MemWf (execSealedPageWrite ofs b s) := .next (.ite h h.sealedByte)

theorem State.MemWf.sealedRead {ofs n : Nat} (h : s.MemWf) : (s.sealedRead ofs n).MemWf := by
  unfold State.sealedRead
  dsimp only
  split
  · exact .ite h.sealFail.emit h.emit
  · exact .ite h.sealFail.emit <| by split; exacts [h.winFreeze.emit, h.objRead.wholeWrite.keep.bump.emit]

theorem memWf_execSealedPageRead {ofs len : Nat} (h : s.MemWf) : Out.MemWf (execSealedPageRead ofs len s) :=
  .next (.ite h <| .ite h.emit h.sealedRead)

theorem memWf_execHostWindowRead {ofs len : Nat} (h : s.MemWf) : Out.MemWf (execHostWindowRead ofs len s) :=
  .next (.ite h.emit <| .ite (.ite h.emit h.sealedRead) h.winRead)

theorem memWf_execHostWindowWrite {ofs : Nat} {data : List Byte} (h : s.MemWf) : Out.MemWf (execHostWindowWrite ofs data s) :=
  .next (.ite h <| .ite (.foldl (fun _ _ h1 => .ite h1 h1.sealedByte) h) h.winWrite)

/-! ### Reset -/

theorem State.MemWf.rollbackBoot (h : s.MemWf) : (s.rollbackBoot).MemWf := .ite h <| by split; exacts [h, h.keep]

theorem State.MemWf.boot {last : Nat} (h : s.MemWf) : (s.boot last).MemWf := by
  unfold State.boot
  extract_lets bl b b1
  have hb : b.MemWf := by
    obtain ⟨-, hslice, htier, hflash, -, -⟩ := h
    exact ⟨rfl, hslice, htier, hflash, rfl, rfl⟩
  exact .emit (hb.rollbackBoot.keep)

theorem State.MemWf.coldReset (h : s.MemWf) : s.coldReset.MemWf := by
  unfold State.coldReset
  extract_lets s1 best l s2
  have h2 : s2.MemWf := .ite h.flashAbandon.emit h.flashAbandon
  refine .boot ?_
  obtain ⟨ht0, -, -, hflash, hbar2, hsram⟩ := h2
  exact ⟨ht0, rfl, rfl, hflash, hbar2, hsram⟩

theorem State.MemWf.warmReset {last : Nat} (h : s.MemWf) : (s.warmReset last).MemWf := by
  unfold State.warmReset
  extract_lets x b
  have hb : b.MemWf := .boot h.keep
  exact .ite hb.keep hb

theorem memWf_execSysPwrok {high : Bool} (h : s.MemWf) : Out.MemWf (execSysPwrok high s) := .next h.coldReset.keep

theorem memWf_execMemoryTrainingDone {ddrCap : List Nat} (h : s.MemWf) : Out.MemWf (execMemoryTrainingDone ddrCap s) := .next (.ite h h.keep.keep)

theorem memWf_execSysRstN (h : s.MemWf) : Out.MemWf (execSysRstN s) := .next (.ite h.warmReset h)

theorem memWf_execWarmReset (h : s.MemWf) : Out.MemWf (execWarmReset s) := .next (.ite h.warmReset h)

theorem State.MemWf.takeReset {src : Nat} (h : s.MemWf) : (s.takeReset src).MemWf := .ite h.warmReset h

theorem memWf_execGroupResetMessage {src : Nat} (h : s.MemWf) : Out.MemWf (execGroupResetMessage src s) := .next h.takeReset

theorem State.MemWf.groupReset (h : s.MemWf) : (s.groupReset).MemWf :=
  .ite h.keep <| .ite (.warmReset (.foldl (fun _ _ h1 => h1.sendCtl) h)) (.foldl (fun _ _ h1 => h1.sendCtl) h)

theorem memWf_execGroupReset (h : s.MemWf) : Out.MemWf (execGroupReset s) := .next (.ite h.groupReset h)

theorem State.MemWf.flr {perst : Bool} (h : s.MemWf) : (s.flr perst).MemWf := by
  unfold State.flr
  extract_lets host ob sec s1 s2 s3
  have h1 : s1.MemWf := by
    obtain ⟨ht0, hslice, htier, hflash, -, hsram⟩ := h
    exact ⟨ht0, hslice, htier, hflash, rfl, hsram⟩
  clear_value s1
  have h2 : s2.MemWf := h1.winRelease.level.cqLevel
  have h3 : s3.MemWf := .foldl (fun _ _ h4 => h4.endSession) h2
  exact .ite h3.closeSession.cfgCause h3

theorem memWf_execFlr {perst : Bool} (h : s.MemWf) : Out.MemWf (execFlr perst s) := .next (.ite h.flr h)

theorem State.MemWf.coreReset {l : Nat} (h : s.MemWf) : (s.coreReset l).MemWf := .ite h <| by split; exacts [h.keep, h.keep.rstBegin]

theorem memWf_execCoreReset {c : Nat} (h : s.MemWf) : Out.MemWf (execCoreReset c s) := .next (.ite h.coreReset h)

theorem State.MemWf.endCoreReset {r : CoreRst} (h : s.MemWf) : (s.endCoreReset r).MemWf :=
  .irqCore (.keep (.modCore (.releasePins (.foldl (fun _ _ h1 => h1.frameFail) h))))

theorem memWf_execCoreResetDone (h : s.MemWf) : Out.MemWf (execCoreResetDone s) :=
  .next (by split; exacts [h, .ite h <| .ite h.keep <| .ite h.endCoreReset h])

/-! ### Multicast groups -/

theorem memWf_heldPacket {i : Instr} (h : s.MemWf) : Out.MemWf (heldPacket i s) := by
  unfold heldPacket
  split
  · exact memWf_execVoilePacket h
  · exact memWf_execWritePacket h
  · exact memWf_execHdelivPacket h
  · exact memWf_execReadPacket h
  · exact memWf_execRdrspPacket h
  · exact memWf_execAckPacket h
  · exact memWf_execCollPacket h
  · exact .next h

theorem memWf_afterOut {o : Out} (h : s.MemWf) (ho : o.MemWf) : (afterOut s o).MemWf := by
  unfold afterOut
  split
  · exact ho _ rfl
  · exact h

theorem State.MemWf.runLinkHeld {isl : Nat} (h : s.MemWf) : (s.runLinkHeld isl).MemWf :=
  .foldl (fun _ _ h1 => memWf_afterOut h1 (memWf_heldPacket h1)) h.keep

theorem memWf_execIslandFlip {isl : Nat} (h : s.MemWf) : Out.MemWf (execIslandFlip isl s) := .next (.ite h.flipIsland.runLinkHeld h.flipIsland)

theorem State.MemWf.takeFlip {dev : Nat} (h : s.MemWf) : (s.takeFlip dev).MemWf := by
  unfold State.takeFlip
  split
  · exact h
  · exact .ite h <| .ite h.keep.ringEnd h.keep

theorem memWf_execFlipComplete (h : s.MemWf) : Out.MemWf (execFlipComplete s) := by
  unfold execFlipComplete
  refine .next ?_
  split
  · exact h
  · exact .ite h <| by dsimp only; split; exacts [h.endFlip.ringEnd, .ite h.endFlip.takeFlip h.endFlip.sendCtl, h.endFlip]

theorem memWf_execFlipTimeout (h : s.MemWf) : Out.MemWf (execFlipTimeout s) := .next (.ite h.cfgCause h)

theorem State.MemWf.takePrepare {src epoch : Nat} (h : s.MemWf) : (s.takePrepare src epoch).MemWf := h.prepare.sendCtl

theorem memWf_execPrepareReceive {src epoch : Nat} (h : s.MemWf) : Out.MemWf (execPrepareReceive src epoch s) := .next (.ite h.takePrepare h)

theorem memWf_execVoteReceive {dev : Nat} {ok : Bool} {detail : Nat} {routes : List (Nat × List Nat)} {feat : W32}
    (h : s.MemWf) : Out.MemWf (execVoteReceive dev ok detail s routes feat) :=
  .next h.takeVote

theorem State.MemWf.takeCommit {src epoch : Nat} {feat : W32} (h : s.MemWf) : (s.takeCommit src epoch feat).MemWf := .ite h.beginFlip h

theorem memWf_execGroupCommitReceive {src epoch : Nat} {feat : W32} (h : s.MemWf) : Out.MemWf (execGroupCommitReceive src epoch s feat) :=
  .next h.takeCommit

theorem State.MemWf.takeAbort (h : s.MemWf) : (s.takeAbort).MemWf := .ite h h.closeSession.cfgCause

theorem memWf_execGroupAbortReceive {src : Nat} (h : s.MemWf) : Out.MemWf (execGroupAbortReceive src s) := .next h.takeAbort

theorem memWf_execTwoPhaseTimeout (h : s.MemWf) : Out.MemWf (execTwoPhaseTimeout s) := by
  unfold execTwoPhaseTimeout
  refine .next ?_
  split
  · exact h
  · exact .ite h.cfgCause.groupAbort <| by dsimp only; split; exacts [h, .ringEnd (.keep (.foldl (fun _ _ h1 => h1.markLost) h.cfgCause))]

theorem State.MemWf.takeLoss {dev : Nat} (h : s.MemWf) : (s.takeLoss dev).MemWf := .ite h (.foldl (fun _ _ h1 => h1.relayNote) h.markLost)

theorem memWf_execLossNoticeReceive {dev : Nat} (h : s.MemWf) : Out.MemWf (execLossNoticeReceive dev s) := .next h.takeLoss

theorem State.MemWf.takeLastGseq {p gseq : Nat} (h : s.MemWf) : (s.takeLastGseq p gseq).MemWf := .ite (memWf_afterOut h (memWf_execPortFailed h)) h

theorem State.MemWf.ctlAct {src : Nat} {m : CtlMsg} (h : s.MemWf) : (s.ctlAct src m).MemWf := by
  unfold State.ctlAct
  split
  · exact h.takeRelayed
  · exact h.relayNote
  · exact h.takeLoss
  · exact .ite h h.gapNotice
  · exact memWf_afterOut h (memWf_execResendRequest h)
  · exact .ite h.resendStatus h
  · exact .ite h h.mcRejoin
  · exact h.takePrepare
  · exact h.takeVote
  · exact h.takeCommit
  · exact h.takeAbort
  · exact h.takeFlip
  · exact h.takeReset
  · exact .ite h.noteCut h
  · exact h.sendCtlBut
  · exact h.takeLastGseq

theorem memWf_execCtlPacket {port : Nat} {hd : PktHdr} {tagOk : Bool} {m : CtlMsg} (h : s.MemWf) : Out.MemWf (execCtlPacket port hd tagOk m s) :=
  .next (h.rx (fun _ h1 => h1.ctlAct))

/-! ### Claims and completions of interrupts -/

theorem memWf_execExternalInput {pin : Nat} {level : Bool} (h : s.MemWf) : Out.MemWf (execExternalInput pin level s) := .next (.ite h h.level)

theorem memWf_execIrqSourceEvent {src : Nat} {level : Bool} (h : s.MemWf) : Out.MemWf (execIrqSourceEvent src level s) := .next (.ite h h.level)

theorem State.MemWf.claim {cp : Nat} (h : s.MemWf) : (s.claim cp).1.MemWf := by
  unfold State.claim
  split
  · exact h
  · exact h.setIrq.keep.irqDeliver

theorem memWf_execClaim {cp : Nat} (h : s.MemWf) : Out.MemWf (execClaim cp s) := .next (.ite h h.claim.emit)

theorem State.MemWf.reeval {src : Nat} {host : Bool} (h : s.MemWf) : (s.reeval src host).MemWf := by
  unfold State.reeval
  dsimp only
  split
  · exact h
  · exact h.setIrq
  · exact .ite h <| .ite h.setIrq <| .ite h.setIrq.msix h.setIrq

theorem memWf_execEoi {cp src : Nat} (h : s.MemWf) : Out.MemWf (execEoi cp src s) := .next (.ite h <| .ite h.bump h.setIrq.reeval.irqDeliver)

theorem memWf_execIrqHeoi {src : Nat} (h : s.MemWf) : Out.MemWf (execIrqHeoi src s) := .next (.ite h h.setIrq.reeval.irqDeliver)

theorem memWf_execIrqStormWindow (h : s.MemWf) : Out.MemWf (execIrqStormWindow s) := .next h.keep

theorem State.MemWf.irqAssert {src : Nat} (h : s.MemWf) : (s.irqAssert src).MemWf := .ite h.irqPend h

theorem memWf_execIrqStatClear {src : Nat} {storm stuck : Bool} (h : s.MemWf) : Out.MemWf (execIrqStatClear src storm stuck s) :=
  .next (.ite h <| .ite h.setIrq.irqAssert h.setIrq)

/-! ### The start of a word -/

theorem State.MemWf.unitStart {p q : Nat} {e : Cqe} (h : s.MemWf) : (s.unitStart p q e).MemWf := by
  unfold State.unitStart
  split
  · exact h.startStream
  · exact h.startLoad
  · exact h.startEng
  · exact h.startEng
  · exact h.startDrain
  · exact h.startVec
  · exact h.startWrite
  · exact .ite h h.startUpd
  · exact h.startExch
  · exact .ite h h.startDrain
  · exact h

theorem State.MemWf.wordStart {p q : Nat} (h : s.MemWf) : (s.wordStart p q).MemWf := by
  unfold State.wordStart
  refine .ite h ?_
  split
  · exact h
  · split
    · exact h.bumpCore
    · exact h.haltWord
    · split
      · exact h.bumpCore
      · split
        · next hs => exact h.unitStart.wait hs
        · next hs => exact h.unitStart.stop hs
        · next hs =>
          split
          · exact h.haltWord
          · exact (h.unitStart.go hs).modCore

theorem memWf_execWordStart {c q : Nat} (h : s.MemWf) : Out.MemWf (execWordStart c q s) :=
  .next (h.onCore (fun _ _ _ h1 => .ite h1.sameCycle h1.wordStart))

theorem State.MemWf.unitComplete {p q : Nat} {e : Cqe} (h : s.MemWf) : (s.unitComplete p q e).MemWf := by
  unfold State.unitComplete
  split
  · exact h.streamComplete
  · exact h.loadComplete
  · exact h.writeComplete
  · exact h

theorem memWf_execWordComplete {c q : Nat} (h : s.MemWf) : Out.MemWf (execWordComplete c q s) :=
  .next (h.onCore (fun _ _ _ h1 => .ite h1 <| by split; exacts [h1, .ite h1 h1.modCore.unitComplete.modCore.wordSignal.modCore]))

/-! ### The registers -/

theorem State.MemWf.storeReg {off v : Nat} (h : s.MemWf) : (s.storeReg off v).MemWf :=
  .ite (.stageWrite (by split; exacts [h, h.keep])) <| by split; exacts [h, h.keep]

theorem State.MemWf.causeBits {cause inten src : Nat} {d : W32} (h : s.MemWf) : (s.causeBits cause inten src d).MemWf :=
  .foldl (fun _ _ h1 => h1.level) h

theorem State.MemWf.redrive {off : Nat} (h : s.MemWf) : (s.redrive off).MemWf :=
  .ite h.causeBits <| .ite h.causeLevel <| .ite h.causeLevel <| .ite h.level <| .ite h.level <| .ite h.causeLevel <| .ite h.causeBits <|
    .ite h.causeLevel <| .ite h.causeLevel <| .ite h.level <| .ite h.causeLevel h

theorem State.MemWf.writeIrqCfg {src v : Nat} (h : s.MemWf) : (s.writeIrqCfg src v).MemWf := by
  unfold State.writeIrqCfg
  dsimp only
  split
  · exact .irqDeliver (.ite h.storeReg h.storeReg.irqAssert)
  · exact h.storeReg.setIrq.irqDeliver
  · exact h.storeReg.irqDeliver

theorem State.MemWf.writeRst {v : Nat} (h : s.MemWf) : (s.writeRst v).MemWf :=
  .ite h.storeReg.warmReset <| .ite (.groupReset (.ite h.storeReg.coreReset h.storeReg)) <| .ite h.storeReg.coreReset h.storeReg

theorem State.MemWf.writeGpio {v : Nat} (h : s.MemWf) : (s.writeGpio v).MemWf := .foldl (fun _ _ h1 => h1.emit.level) h.storeReg

theorem State.MemWf.writePort {p v : Nat} (h : s.MemWf) : (s.writePort p v).MemWf :=
  .ite h.storeReg.modPort <| .ite (memWf_afterOut h.storeReg (memWf_execRetrain h.storeReg)) <| .ite h.storeReg.portStart h.storeReg

theorem State.MemWf.mbxGo (h : s.MemWf) : (s.mbxGo).MemWf := .ite h <| .ite h.keep h.mbxEnd

theorem State.MemWf.writeDesc {off v : Nat} (h : s.MemWf) : (s.writeDesc off v).MemWf := .ite h h.storeReg.setDstat

theorem State.MemWf.writeLow {off v : Nat} (h : s.MemWf) : (s.writeLow off v).MemWf := by
  unfold State.writeLow
  extract_lets s1
  have h1 : s1.MemWf := .ite h h.keep
  exact .ite (.ite h1.keep h1) <| .ite (.ite h.keep h) <| .ite (.ite h.stageWrite h) <|
    .ite (.ite (memWf_afterOut h (memWf_execSmCntClr h)) h) <| .ite h.storeReg.irqDeliver h.storeReg.redrive

theorem State.MemWf.writeIrq {off v : Nat} (h : s.MemWf) : (s.writeIrq off v).MemWf := by
  unfold State.writeIrq
  exact .ite (memWf_afterOut h (memWf_execIrqHeoi h)) <| .ite (memWf_afterOut h (memWf_execEoi h)) <| .ite h.writeIrqCfg <|
    .ite (memWf_afterOut h (memWf_execIrqStatClear h)) h.storeReg.irqDeliver

theorem State.MemWf.writeHost {off v : Nat} (h : s.MemWf) : (s.writeHost off v).MemWf := by
  unfold State.writeHost
  exact .ite (.ite h.winRelease h) <| .ite (.ite h.setRing h) h.storeReg.redrive

theorem State.MemWf.writeHx {off v : Nat} (h : s.MemWf) : (s.writeHx off v).MemWf := by
  unfold State.writeHx
  refine .ite (.ite (memWf_afterOut h (memWf_execHxMcResend h)) h.storeReg) <| .ite (memWf_afterOut h (memWf_execPrunedClear h)) <|
    .ite (.ite (memWf_afterOut h (memWf_execRejoin h)) h) <| .ite h.storeReg.redrive ?_
  split
  · exact h.writePort
  · exact .ite (memWf_afterOut h (memWf_execPortCntClr h)) h
  · exact h.storeReg.redrive

theorem State.MemWf.writeCol {off v : Nat} (h : s.MemWf) : (s.writeCol off v).MemWf := by
  unfold State.writeCol
  exact .ite (.ite (memWf_afterOut h.storeReg (memWf_execAbortColl h.storeReg)) h.storeReg) <|
    .ite (.ite (memWf_afterOut h (memWf_execColCntClr h)) h) <| .ite h.writeDesc h.storeReg.redrive

theorem State.MemWf.writeMem {off v : Nat} (h : s.MemWf) : (s.writeMem off v).MemWf :=
  .ite (.ite h h.stageWrite) <| .ite (.ite h.storeReg h) h.storeReg.redrive

theorem State.MemWf.writePwr {off v : Nat} (h : s.MemWf) : (s.writePwr off v).MemWf := by
  unfold State.writePwr
  split
  · exact h.writeRst
  · exact h.keep
  · exact .ite (memWf_afterOut h (memWf_execPwrCntClr h)) h
  · exact h.writeGpio
  · exact h.storeReg.redrive

theorem State.MemWf.writeSec {off v : Nat} (h : s.MemWf) : (s.writeSec off v).MemWf := by
  unfold State.writeSec
  split
  · exact .ite h.mbxGo h
  · exact .ite h.storeReg h
  · exact .ite (memWf_afterOut h (memWf_execSecCntClr h)) h
  · exact h.storeReg

theorem State.MemWf.writeSeqCtrl {p v : Nat} (h : s.MemWf) : (s.writeSeqCtrl p v).MemWf :=
  .ite (.modCore (.ite h.modCore.restartCore h.modCore)) <| .ite h.modCore.restartCore h.modCore

theorem State.MemWf.writeSeq {l p o v : Nat} (h : s.MemWf) : (s.writeSeq l p o v).MemWf :=
  .ite h.writeSeqCtrl <| .ite (.ite h.modCore.irqCore h) <| .ite h.modCore <| .ite h.modCore <| .ite h.modCore <| .ite h.modCore <|
    .ite (.ite h.modCore h) <| .ite (.ite h.modCore h) <| .ite (.ite (memWf_afterOut h (memWf_execSeqCntClr h)) h) h

theorem State.MemWf.writeCntClr {l o : Nat} (h : s.MemWf) : (s.writeCntClr l o).MemWf := by
  unfold State.writeCntClr
  split
  · exact memWf_afterOut h (memWf_execEngCntClr h)
  · exact memWf_afterOut h (memWf_execEngCntClr h)
  · exact memWf_afterOut h (memWf_execDrnCntClr h)
  · exact memWf_afterOut h (memWf_execUpdCntClr h)
  · exact memWf_afterOut h (memWf_execTpCntClr h)
  · exact memWf_afterOut h (memWf_execStrCntClr h)
  · exact memWf_afterOut h (memWf_execL2CntClr h)
  · exact memWf_afterOut h (memWf_execCerrCntClr h)
  · exact h

theorem State.MemWf.writeCore {l o v : Nat} (h : s.MemWf) : (s.writeCore l o v).MemWf := by
  unfold State.writeCore
  split
  · exact h
  · extract_lets c st g s1
    have h1 : s1.MemWf := .ite h.modCore h
    refine .ite h <| .ite h.writeSeq <| .ite (.ite h.modCore h) <| .ite (.ite h.modCore h) <| .ite h.modCore <| .ite h.setCluster <|
      .ite (.ite (memWf_afterOut h1 (memWf_execRcmtGo h1)) h1) ?_
    split
    · exact .ite h <| .ite h.modCore.stashPresent h.modCore
    · exact .ite h.writeCntClr h

theorem State.MemWf.writeWord {off : Nat} {v : W32} (h : s.MemWf) : (s.writeWord off v).MemWf := by
  unfold State.writeWord
  exact .ite h <| .ite (.ite h.writeCore h) <| .ite h.writeLow <| .ite h.writeIrq <| .ite h.writeHost <| .ite h.writeHx <| .ite h.writeCol <|
    .ite h.writeMem <| .ite h.writePwr <| .ite h.writeSec h

theorem State.MemWf.writeBar0 {off width : Nat} {v : W64} (h : s.MemWf) : (s.writeBar0 off width v).MemWf := .ite h.writeWord.writeWord h.writeWord

theorem State.MemWf.msixTable {o v : Nat} (h : s.MemWf) : (s.msixTable o v).MemWf := .ite h <| .ite h.keep <| .ite h.keep.emit h.keep

theorem State.MemWf.bar2Written {a : Nat} {d : List Byte} (h : s.MemWf) : State.MemWf { s with bar2 := Memory.put s.bar2 a d } := by
  obtain ⟨ht0, hslice, htier, hflash, hbar2, hsram⟩ := h
  exact ⟨ht0, hslice, htier, hflash, Memory.wf_put _ _ hbar2, hsram⟩

theorem State.MemWf.writeBar2 {off : Nat} {v : W32} (h : s.MemWf) : (s.writeBar2 off v).MemWf := by
  unfold State.writeBar2
  refine .ite h.bar2Written <| .ite ?_ <| .ite h.bar2Written.msixTable h
  dsimp only
  split
  · exact memWf_afterOut h (memWf_execSqTail h)
  · exact memWf_afterOut h (memWf_execCqHead h)
  · exact h

theorem memWf_execRegisterWrite {bar ofs width : Nat} {val : BitVec 64} (h : s.MemWf) : Out.MemWf (execRegisterWrite bar ofs width val s) :=
  .next (.ite h <| .ite (.ite h.writeBar0 h.emit) <| .ite (.ite h.writeBar2.writeBar2 h.writeBar2) h)

theorem memWf_execCpRun {mask : BitVec 32} (h : s.MemWf) : Out.MemWf (execCpRun mask s) := .next h.writeWord

theorem memWf_execCpWatchdog {cp : Nat} (h : s.MemWf) : Out.MemWf (execCpWatchdog cp s) := .next (.ite h h.pulse)

theorem State.MemWf.readEffect {off : Nat} (h : s.MemWf) : (s.readEffect off).1.MemWf := by
  unfold State.readEffect
  refine .ite_fst h.claim <| .ite_fst ?_ h
  split
  · exact h
  · exact h.setCore

theorem State.MemWf.readBar0 {off width : Nat} (h : s.MemWf) : (s.readBar0 off width).MemWf := .ite h.readEffect.readEffect.emit h.readEffect.emit

theorem State.MemWf.cpDevice {a len : Nat} {wr : Option (List Byte)} (h : s.MemWf) : (s.cpDevice a len wr).MemWf := by
  unfold State.cpDevice
  split
  · exact h.emit
  · split
    · exact h.wholeWrite
    · exact h.objRead.emit

theorem State.MemWf.sramWritten {a : Nat} {d : List Byte} (h : s.MemWf) : State.MemWf { s with sram := Memory.put s.sram a d } := by
  obtain ⟨ht0, hslice, htier, hflash, hbar2, hsram⟩ := h
  exact ⟨ht0, hslice, htier, hflash, hbar2, Memory.wf_put _ _ hsram⟩

theorem memWf_execCpMemoryAccess {cp addr len : Nat} {wr : Option (List Byte)} (h : s.MemWf) : Out.MemWf (execCpMemoryAccess cp addr len wr s) := by
  unfold execCpMemoryAccess
  refine .next <| .ite h <| .ite (.ite h.emit ?bar0) <| .ite ?sram <| .ite h.cpDevice h.emit
  case bar0 =>
    split
    · exact h.writeBar0
    · exact h.readBar0
  case sram =>
    split
    · exact h.sramWritten
    · exact h.emit

/-! ### The package and its buses -/

theorem memWf_execPcieLinkEvent {up : Bool} (h : s.MemWf) : Out.MemWf (execPcieLinkEvent up s) := .next (.ite h h.keep.pulse)

theorem memWf_execMctpControlMessage {bus code : Nat} {addr : Option Nat} (h : s.MemWf) : Out.MemWf (execMctpControlMessage bus code addr s) :=
  .next (.ite h (.answer (by split; exacts [h.keep, h])))

theorem memWf_execDynamicAddressAssignment {addr : Nat} (h : s.MemWf) : Out.MemWf (execDynamicAddressAssignment addr s) := .next (.ite h.keep h)

theorem State.MemWf.sensor {n : Nat} {r : Nat × State} (h : s.MemWf) (e : s.sensor n = some r) : r.2.MemWf := by
  unfold State.sensor at e
  split at e
  · cases e
    exact h
  · split at e
    · cases e
      exact h
    · split at e
      · cases e
        exact h
      · split at e
        · cases e
          exact h.free
        · cases e

theorem memWf_execPldmSensorRead {sensor : Nat} (h : s.MemWf) : Out.MemWf (execPldmSensorRead sensor s) := by
  unfold execPldmSensorRead
  refine .next (.ite h ?_)
  split
  · exact h.refuse
  · next e => exact (h.sensor e).answer

theorem memWf_execJtagInstruction {ir : Nat} {dr : List Bool} (h : s.MemWf) : Out.MemWf (execJtagInstruction ir dr s) :=
  .next (.ite h.keep.emit <| .ite h.keep.keep.emit <| .ite h.keep.keep.emit h.keep.emit)

/-! ### Every command, and the step -/

/-- Every command leaves the memories canonical: one lemma for each arm of `exec`, in the order of the arms. -/
theorem memWf_exec (c : Instr) (h : s.MemWf) : Out.MemWf (exec c s) := by
  cases c <;> dsimp only [exec]
  exacts [memWf_execDispatch h, memWf_execFetchFill h, memWf_execWordStart h, memWf_execWordComplete h, memWf_execWatchdog h,
    memWf_execCoreDone h, memWf_execNop h, memWf_execQBind h, memWf_execBarSet h, memWf_execBarSig h, memWf_execSync h, memWf_execLoop h,
    memWf_execBr h, memWf_execBrc h, memWf_execLcSet h, memWf_execLcAdd h, memWf_execLcPop h, memWf_execFlagClr h, memWf_execStepOpen h,
    memWf_execStepClose h, memWf_execIrq h, memWf_execBrk h, memWf_execEndWord h, memWf_execStrLdd h, memWf_execStrCopy h, memWf_execStrCancel h,
    memWf_execStrL2flush h, memWf_execStrL2inv h, memWf_execStrPin h, memWf_execStrUnpin h, memWf_execDmaSegmentIssue h,
    memWf_execDmaSegmentDone h, memWf_execLdAgset h, memWf_execLdVec h, memWf_execLdPair h, memWf_execLdCast h, memWf_execLdSht h,
    memWf_execServingRelease h, memWf_execXpose h, memWf_execMmaRank h, memWf_execMmaWl h, memWf_execMmaSt h, memWf_execMmaDrain h,
    memWf_execMmaSpill h, memWf_execMmaFill h, memWf_execMmaFree h, memWf_execTileToShadow h, memWf_execSlotMoveDone h,
    memWf_execStartTokenGrant h, memWf_execRampUpDone h, memWf_execIdleHoldExpiry h, memWf_execStopSlotGrant h, memWf_execRampDownDone h,
    memWf_execDrnTile h, memWf_execDrainAcceptTile h, memWf_execDrnSrctx h, memWf_execDrnCfg h, memWf_execDrnTbl h, memWf_execDrnStat h,
    memWf_execVecEw h, memWf_execVecRed h, memWf_execVecCmpred h, memWf_execVecSmax h, memWf_execVecNorm h, memWf_execVecGath h,
    memWf_execVecScat h, memWf_execVecSort h, memWf_execVecNms h, memWf_execVecLoss h, memWf_execVecL1flush h, memWf_execVecL1inv h,
    memWf_execVecAgset h, memWf_execVecSrctx h, memWf_execVecOpt h, memWf_execWrAgset h, memWf_execWrRows h, memWf_execStashSpill h,
    memWf_execStashSpillDone h, memWf_execUpdHp h, memWf_execUpdRun h, memWf_execUpdNorm h, memWf_execExPut h, memWf_execExHbind h,
    memWf_execExHfwd h, memWf_execExMail h, memWf_execExMrecv h, memWf_execExFelt h, memWf_execExColl h, memWf_execGconv h,
    memWf_execPutDelivery h, memWf_execHandleDelivery h, memWf_execExchAck h, memWf_execCreditReturn h, memWf_execMailboxMessage h,
    memWf_execMailboxRetry h, memWf_execClusterRequest h, memWf_execL2MissFill h, memWf_execOpenNoticeReceive h, memWf_execCloseReportReceive h,
    memWf_execDeviceTotalsReceive h, memWf_execVerdictReceive h, memWf_execPinWaitRelease h, memWf_execCommitDone h, memWf_execCloseDeadline h,
    memWf_execLoadImage h, memWf_execStart h, memWf_execStop h, memWf_execPreempt h, memWf_execResume h, memWf_execMigrate h, memWf_execStage h,
    memWf_execCheck h, memWf_execCommit h, memWf_execAbort h, memWf_execStepRepeat h, memWf_execAttest h, memWf_execFence h, memWf_execUnfence h,
    memWf_execQuery h, memWf_execSqTail h, memWf_execCqHead h, memWf_execRelayedCommandReceive h, memWf_execRelayResultReceive h,
    memWf_execRelayTimeout h, memWf_execIslandFlip h, memWf_execFlipComplete h, memWf_execFlipTimeout h, memWf_execPrepareReceive h,
    memWf_execVoteReceive h, memWf_execGroupCommitReceive h, memWf_execGroupAbortReceive h, memWf_execTwoPhaseTimeout h,
    memWf_execExternalInput h, memWf_execIrqSourceEvent h, memWf_execClaim h, memWf_execEoi h, memWf_execIrqHeoi h, memWf_execIrqStormWindow h,
    memWf_execIrqStatClear h, memWf_execFrameEdge h, memWf_execPreemptRequest h, memWf_execPreemptBoundary h, memWf_execSaveDone h,
    memWf_execFrameRunEnd h, memWf_execRestoreDone h, memWf_execFrameDeadline h, memWf_execNoAckTimeout h, memWf_execFenceListWrite h,
    memWf_execFlashSectorDone h, memWf_execFlashDeferRetest h, memWf_execRcmtGo h, memWf_execRcmtDone h, memWf_execMigrationGranuleDone h,
    memWf_execCodecBlockWrite h, memWf_execCodecBlockRead h, memWf_execPatrolScrubPass h, memWf_execPortTraining h, memWf_execHello h,
    memWf_execKeyExchangeMessage h, memWf_execFlitGroupReceive h, memWf_execNakReceive h, memWf_execReplayTimeout h, memWf_execLaneErrorWindow h,
    memWf_execPortFailed h, memWf_execCtlPacket h, memWf_execVoilePacket h, memWf_execVoileRemoteRetry h, memWf_execWritePacket h,
    memWf_execHdelivPacket h, memWf_execReadPacket h, memWf_execRdrspPacket h, memWf_execAckPacket h, memWf_execCollPacket h,
    memWf_execLossNoticeReceive h, memWf_execGapNotice h, memWf_execPruneWaitExpiry h, memWf_execHxMcResend h, memWf_execResendRequest h,
    memWf_execRejoin h, memWf_execRejoinRequest h, memWf_execPrunedClear h, memWf_execRetrain h, memWf_execRefclkSerLoss h,
    memWf_execCollInstanceStart h, memWf_execCollBlockArrival h, memWf_execCollInstanceEnd h, memWf_execCollDeadline h,
    memWf_execFallbackDeadline h, memWf_execAbortColl h, memWf_execNormMessage h, memWf_execPowerLoopEval h, memWf_execAvsWriteAck h,
    memWf_execFrequencyChange h, memWf_execPmbusPoll h, memWf_execThermalSample h, memWf_execThermAlert h, memWf_execPwrfailN h,
    memWf_execPwrfailRecovery h, memWf_execSysPwrok h, memWf_execMemoryTrainingDone h, memWf_execSysRstN h, memWf_execWarmReset h,
    memWf_execFlr h, memWf_execCoreReset h, memWf_execCoreResetDone h, memWf_execGroupReset h, memWf_execGroupResetMessage h, memWf_execRestart h,
    memWf_execSeqCtrlStop h, memWf_execReleaseWindow h, memWf_execHostWindowRead h, memWf_execHostWindowWrite h, memWf_execSealedPageWrite h,
    memWf_execSealedPageRead h, memWf_execPoolStatCapture h, memWf_execCpRun h, memWf_execCpWatchdog h, memWf_execCpMemoryAccess h,
    memWf_execEngCntClr h, memWf_execDrnCntClr h, memWf_execSeqCntClr h, memWf_execTpCntClr h, memWf_execUpdCntClr h, memWf_execSmCntClr h,
    memWf_execStrCntClr h, memWf_execL2CntClr h, memWf_execPortCntClr h, memWf_execColCntClr h, memWf_execCerrCntClr h, memWf_execSecCntClr h,
    memWf_execPwrCntClr h, memWf_execRegisterWrite h, memWf_execGetVersion h, memWf_execGetCapabilities h, memWf_execNegotiateAlgorithms h,
    memWf_execGetDigests h, memWf_execGetCertificate h, memWf_execChallenge h, memWf_execGetMeasurements h, memWf_execKeyExchange h,
    memWf_execFinish h, memWf_execKeyUpdate h, memWf_execHeartbeat h, memWf_execEndSession h, memWf_execIdeKm h, memWf_execOwnerClaim h,
    memWf_execSeal h, memWf_execRelease h, memWf_execOwnerInfo h, memWf_execScrubDone h, memWf_execManifestWrite h, memWf_execArbCommit h,
    memWf_execDebugUnlock h, memWf_execPldmFirmwareUpdate h, memWf_execPldmSensorRead h, memWf_execChipError h, memWf_execPcieLinkEvent h,
    memWf_execSessionFault h, memWf_execMctpControlMessage h, memWf_execDynamicAddressAssignment h, memWf_execJtagInstruction h]

end

/-- Settles O49: the queue is no memory, so the command at its front runs on canonical memories, and every command keeps them so. -/
theorem memoriesKeepTheirForm : Obligations.MemoriesKeepTheirForm := by
  intro s t h hs
  cases hp : s.pending with
  | nil =>
    rw [step_of_pending_nil hp] at hs
    cases hs
    exact h
  | cons c rest =>
    rw [step_of_pending_cons hp] at hs
    exact memWf_exec c h.keep t hs

end Sys2Proof.Machine
end

section
/-! Proofs of the statements of multicast (09; R288, R346 to R350): what sending leaves of the registers, who takes part in a group, and how
members are pruned, told and taken back. -/

namespace Sys2Proof.Machine

/-! ### What sending leaves (R322 to R344) -/

theorem State.emitGroups_regs (s : State) (p : Nat) (l : List TxGroup) : (s.emitGroups p l).regs = s.regs := by
  refine foldl_inv (fun t : State => t.regs = s.regs) _ (fun t g h => ?_) l s rfl
  dsimp only
  split
  · exact h
  · exact h

theorem State.portRetrain_regs (s : State) (p : Nat) : (s.portRetrain p).regs = s.regs := rfl

theorem State.portPut_regs (s : State) (p : Nat) (k : Pkt) : (s.portPut p k).regs = s.regs := by
  have counted (u : State) (b : Prop) [Decidable b] (n : Nat) : (if b then u.bump 0x340228 n else u).regs = u.regs := by
    split <;> rfl
  unfold State.portPut
  dsimp only
  split
  · rw [State.portRetrain_regs, counted, State.emitGroups_regs]
    rfl
  · rw [counted, State.emitGroups_regs]
    rfl

theorem State.portPump_regs (s : State) (p n : Nat) : (s.portPump p n).regs = s.regs := by
  induction n generalizing s with
  | zero => rfl
  | succ n ih =>
    unfold State.portPump
    dsimp only
    split
    · rfl
    · split
      · split
        · rfl
        · rfl
      · split
        · rfl
        · split
          · rfl
          · rw [ih, State.portPut_regs]
            rfl

/-- A packet of this device that finds no way sets bit 4 of the error register of port 0 (log 46); no other register changes. -/
theorem State.hxSend_regs (s : State) (h : PktHdr) (b : PktBody) :
    (s.hxSend h b).regs = s.regs ∨ (s.hxSend h b).regs = aset s.regs 0x31001C (aget 0 s.regs 0x31001C ||| 16) := by
  unfold State.hxSend State.hxRoute
  split
  · exact .inr (State.level_regs ..)
  · exact .inl (State.portPump_regs ..)

theorem State.aget_regs_hxSend (s : State) (h : PktHdr) (b : PktBody) (d : W32) {o : Nat} (ho : o ≠ 0x31001C) :
    aget d (s.hxSend h b).regs o = aget d s.regs o := by
  obtain e | e := State.hxSend_regs s h b
  · rw [e]
  · rw [e, aget_aset_ne _ _ _ ho.symm]

/-- Bit 0 of every register is as it was before a packet left. -/
theorem State.bit_zero_regs_hxSend (s : State) (h : PktHdr) (b : PktBody) (o : Nat) :
    (aget 0 (s.hxSend h b).regs o).getLsbD 0 = (aget 0 s.regs o).getLsbD 0 := by
  by_cases ho : o = 0x31001C
  · subst ho
    obtain e | e := State.hxSend_regs s h b
    · rw [e]
    · rw [e, aget_aset_self, BitVec.getLsbD_or]
      simp
  · rw [State.aget_regs_hxSend _ _ _ _ ho]

theorem State.LinkOnly.mcs {s t : State} (h : s.LinkOnly t) : t.mcs = s.mcs := by
  unfold State.LinkOnly State.PortOnly at h
  rw [h]

theorem State.LinkOnly.mesh {s t : State} (h : s.LinkOnly t) : t.mesh = s.mesh := by
  unfold State.LinkOnly State.PortOnly at h
  rw [h]

theorem State.linkOnly_sendCtl (s : State) (d : Nat) (m : CtlMsg) : s.LinkOnly (s.sendCtl d m) := State.linkOnly_hxSend ..

theorem State.linkOnly_sendBuffer (s : State) (h : PktHdr) (data : List Byte) (dbar : Option Nat) (pz : List Nat) :
    s.LinkOnly (s.sendBuffer h data dbar pz) :=
  foldl_inv (fun t : State => s.LinkOnly t) _ (fun _ _ k => k.trans (State.linkOnly_hxSend ..)) _ s (.refl s)

/-! ### What an acknowledgement of a word leaves (R283, R347) -/

/-- Two states differ at most in their cores and in the messages under way. -/
def State.CoresMesh (s t : State) : Prop := t = { s with cores := t.cores, mesh := t.mesh }

theorem State.CoresMesh.refl (s : State) : s.CoresMesh s := rfl

theorem State.CoresMesh.trans {s t u : State} (h : s.CoresMesh t) (k : t.CoresMesh u) : s.CoresMesh u := by
  unfold State.CoresMesh at *
  rw [k, h]

theorem State.CoresMesh.regs {s t : State} (h : s.CoresMesh t) : t.regs = s.regs := by
  rw [State.CoresMesh] at h
  rw [h]

theorem State.CoresMesh.mcs {s t : State} (h : s.CoresMesh t) : t.mcs = s.mcs := by
  rw [State.CoresMesh] at h
  rw [h]

theorem State.coresMesh_setCore (s : State) (p : Nat) (c : Core) : s.CoresMesh (s.setCore p c) := rfl
theorem State.coresMesh_modCore (s : State) (p : Nat) (f : Core → Core) : s.CoresMesh (s.modCore p f) := rfl
theorem State.coresMesh_release (s : State) (p h : Nat) : s.CoresMesh (s.release p h) := State.release_only s p h

theorem State.coresMesh_handleAcked (s : State) (p word q h : Nat) (ret : Bool) : s.CoresMesh (s.handleAcked p word q h ret) := by
  unfold State.handleAcked
  dsimp only
  split
  · exact .refl s
  · split
    · split
      · exact State.coresMesh_release s p h
      · exact foldl_inv (fun t : State => s.CoresMesh t) _ (fun t o k => k.trans (State.coresMesh_release t p o)) _ _
          (State.coresMesh_setCore ..)
    · exact State.coresMesh_release s p h

theorem State.coresMesh_takeAck (s : State) (p word : Nat) (hq : Option Nat) (h : Nat) (ret : Bool) :
    s.CoresMesh (s.takeAck p word hq h ret) := by
  unfold State.takeAck
  cases hq with
  | none => exact State.coresMesh_modCore ..
  | some q => exact (State.coresMesh_handleAcked s p word q h ret).trans (State.coresMesh_modCore ..)

/-- Words whose buffers every member has acknowledged are told; the group is as it was. -/
theorem State.coresMesh_mcSettle (s : State) (g : Nat) : s.CoresMesh (s.mcSettle g) := by
  unfold State.mcSettle
  dsimp only
  split
  · exact .refl s
  · exact foldl_inv (fun t : State => s.CoresMesh t) _
      (fun _ _ k => k.trans ((State.coresMesh_modCore ..).trans (State.coresMesh_takeAck ..))) _ s (.refl s)

/-! ### The members of a group (R346, R347) -/

theorem bitAt_eq_testBit (w i : Nat) : bitAt w i = w.testBit i := by
  rw [bitAt, bitsOf, Nat.pow_one, Nat.shiftRight_eq_div_pow, Nat.testBit_eq_decide_div_mod_eq]

theorem mem_maskList (n m d : Nat) : d ∈ maskList n m ↔ d < n ∧ bitAt m d = true := by
  simp [maskList]

/-- A bit of a pair of registers is a bit of the register that holds it. -/
theorem bitAt_pair (lo hi : W32) {d : Nat} (h : d < 64) :
    bitAt (lo.toNat + hi.toNat * 2 ^ 32) d = (if d < 32 then lo else hi).getLsbD (d % 32) := by
  have hlo := lo.isLt
  rw [bitAt_eq_testBit, Nat.add_comm, Nat.mul_comm, Nat.testBit_two_pow_mul_add _ hlo]
  split
  · rw [Nat.mod_eq_of_lt ‹_›, BitVec.testBit_toNat]
  · rw [show d % 32 = d - 32 by omega, BitVec.testBit_toNat]

/-- The members of group g, pruned or not. -/
def State.mcMask (s : State) (g : Nat) : Nat :=
  (aget 0 s.regs (0x300200 + 32 * g)).toNat + (aget 0 s.regs (0x300204 + 32 * g)).toNat * 2 ^ 32

/-- The register of PRUNED that holds member d of group g. -/
def prunedOfs (g d : Nat) : Nat := 0x300200 + 32 * g + (if d < 32 then 8 else 12)

/-- Member d of group g is pruned. -/
def State.prunedBit (s : State) (g d : Nat) : Bool := (aget 0 s.regs (prunedOfs g d)).getLsbD (d % 32)

theorem State.mem_mcMembers (s : State) (g d : Nat) :
    d ∈ s.mcMembers g ↔ (d < 64 ∧ bitAt (s.mcMask g) d = true) ∧ s.prunedBit g d = false := by
  have mask : (aget 0 s.regs (0x300200 + 32 * g)).toNat + (aget 0 s.regs (0x300200 + 32 * g + 4)).toNat * 2 ^ 32 = s.mcMask g := by
    rw [State.mcMask, show 0x300204 + 32 * g = 0x300200 + 32 * g + 4 by omega]
  rw [State.mcMembers, List.mem_filter, mask, mem_maskList, Bool.not_eq_true']
  refine and_congr_right fun ⟨hd, _⟩ => ?_
  rw [bitAt_pair _ _ hd, State.prunedBit, prunedOfs]
  split
  · rfl
  · rfl

theorem State.mcMask_congr {s t : State} {g : Nat} (h : ∀ o, o < 0x310000 → aget 0 t.regs o = aget 0 s.regs o) (hg : g < 16) :
    t.mcMask g = s.mcMask g := by
  rw [State.mcMask, State.mcMask, h _ (by omega), h _ (by omega)]

theorem prunedOfs_bounds (g d : Nat) : 0x300208 + 32 * g ≤ prunedOfs g d ∧ prunedOfs g d ≤ 0x30020C + 32 * g := by
  unfold prunedOfs
  split
  · omega
  · omega

theorem State.prunedBit_congr {s t : State} {g : Nat} (h : ∀ o, o < 0x310000 → aget 0 t.regs o = aget 0 s.regs o) (hg : g < 16) (d : Nat) :
    t.prunedBit g d = s.prunedBit g d := by
  have bounds := prunedOfs_bounds g d
  rw [State.prunedBit, State.prunedBit, h _ (by omega)]

theorem prunedOfs_eq_iff {g d x : Nat} (hd : d < 64) (hx : x < 64) : prunedOfs g d = prunedOfs g x ↔ (d / 32 = x / 32) := by
  unfold prunedOfs
  split
  · split
    · omega
    · omega
  · split
    · omega
    · omega

theorem getLsbD_one_shiftLeft {n i : Nat} (hi : i < 32) : BitVec.getLsbD ((1 <<< n : W32)) i = decide (i = n) := by
  rw [show ((1 <<< n : W32)) = BitVec.ofNat 32 (2 ^ n) by rw [← Nat.one_shiftLeft]; rfl, BitVec.getLsbD_ofNat, decide_eq_true hi, Bool.true_and,
    Nat.testBit_two_pow]
  exact decide_eq_decide.2 eq_comm

/-- A write of a register of PRUNED changes no mask, and no bits but those that it holds. -/
theorem State.mcMask_setPruned (s : State) (g d : Nat) (v : W32) : State.mcMask { s with regs := aset s.regs (prunedOfs g d) v } g = s.mcMask g := by
  have bounds := prunedOfs_bounds g d
  rw [State.mcMask, State.mcMask, aget_aset_ne _ _ _ (by omega), aget_aset_ne _ _ _ (by omega)]

theorem State.prunedBit_set (s : State) {g d x : Nat} (hd : d < 64) (hx : x < 64) :
    State.prunedBit { s with regs := aset s.regs (prunedOfs g d) (aget 0 s.regs (prunedOfs g d) ||| 1 <<< (d % 32)) } g x
      = (s.prunedBit g x || decide (x = d)) := by
  rw [State.prunedBit, State.prunedBit]
  by_cases h : prunedOfs g d = prunedOfs g x
  · have same := (prunedOfs_eq_iff hd hx).1 h
    rw [h, aget_aset_self, BitVec.getLsbD_or, getLsbD_one_shiftLeft (by omega)]
    congr 2
    exact propext (by omega)
  · have apart := mt (prunedOfs_eq_iff hd hx).2 h
    rw [aget_aset_ne _ _ _ h, decide_eq_false (by omega), Bool.or_false]

theorem State.prunedBit_clear (s : State) {g d x : Nat} (hd : d < 64) (hx : x < 64) :
    State.prunedBit { s with regs := aset s.regs (prunedOfs g d) (aget 0 s.regs (prunedOfs g d) &&& ~~~(1 <<< (d % 32) : W32)) } g x
      = (s.prunedBit g x && !decide (x = d)) := by
  rw [State.prunedBit, State.prunedBit]
  by_cases h : prunedOfs g d = prunedOfs g x
  · have same := (prunedOfs_eq_iff hd hx).1 h
    rw [h, aget_aset_self, BitVec.getLsbD_and, BitVec.getLsbD_not, getLsbD_one_shiftLeft (by omega), decide_eq_true (show x % 32 < 32 by omega),
      Bool.true_and]
    congr 3
    exact propext (by omega)
  · have apart := mt (prunedOfs_eq_iff hd hx).2 h
    rw [aget_aset_ne _ _ _ h, decide_eq_false (by omega), Bool.not_false, Bool.and_true]

/-! ### The wait of a sender expires (R347, R348) -/

/-- Member d of group g is pruned: its bit is set, the prune is counted at the port that leads to it, and it is told its first missed buffer. -/
def State.pruneMember (s : State) (g mseq d : Nat) : State :=
  let off := if d < 32 then 0x300200 + 32 * g + 8 else 0x300200 + 32 * g + 12
  let s := { s with regs := aset s.regs off (aget 0 s.regs off ||| (1 <<< (d % 32))) }
  let q := (s.routePort (s.hdr 3 d 0 0 0)).getD 0
  (s.portCount q 0x78 1).sendCtl d (.gapNotice g (mseq % 65536))

/-- The bit of member d alone is set. -/
def State.setPruned (s : State) (g d : Nat) : State :=
  { s with regs := aset s.regs (prunedOfs g d) (aget 0 s.regs (prunedOfs g d) ||| 1 <<< (d % 32)) }

theorem State.pruneMember_only (s : State) (g mseq d : Nat) :
    (s.setPruned g d).LinkOnly (s.pruneMember g mseq d)
      ∧ ∀ o, o < 0x310000 → aget 0 (s.pruneMember g mseq d).regs o = aget 0 (s.setPruned g d).regs o := by
  have ofs : (if d < 32 then 0x300200 + 32 * g + 8 else 0x300200 + 32 * g + 12) = prunedOfs g d := by
    unfold prunedOfs
    split <;> rfl
  unfold State.pruneMember
  rw [ofs]
  refine ⟨(State.portOnly_portCount ..).linkOnly.trans (State.linkOnly_sendCtl ..), fun o ho => ?_⟩
  exact State.aget_regs_hxSend _ _ _ _ (by omega)

/-- What pruning of the members in `l` changes of group g: their bits. -/
structure State.Pruned (s t : State) (g : Nat) (l : List Nat) : Prop where
  mask : t.mcMask g = s.mcMask g
  bit : ∀ x, x < 64 → t.prunedBit g x = (s.prunedBit g x || decide (x ∈ l))

theorem State.pruned_pruneMember (s : State) {g d : Nat} (mseq : Nat) (hg : g < 16) (hd : d < 64) : s.Pruned (s.pruneMember g mseq d) g [d] := by
  obtain ⟨-, regs⟩ := State.pruneMember_only s g mseq d
  refine ⟨(State.mcMask_congr regs hg).trans (State.mcMask_setPruned ..), fun x hx => ?_⟩
  rw [State.prunedBit_congr regs hg, State.setPruned, State.prunedBit_set s hd hx, decide_eq_decide.2 List.mem_singleton]

theorem State.pruned_foldl {g : Nat} (mseq : Nat) (hg : g < 16) {l : List Nat} (hl : ∀ d ∈ l, d < 64) (s : State) :
    s.Pruned (l.foldl (fun s d => s.pruneMember g mseq d) s) g l := by
  induction l generalizing s with
  | nil => exact ⟨rfl, fun x _ => by simp⟩
  | cons d l ih =>
    obtain ⟨hd, hl⟩ := List.forall_mem_cons.1 hl
    obtain ⟨mask, bit⟩ := s.pruned_pruneMember mseq hg hd
    obtain ⟨mask', bit'⟩ := ih hl (s.pruneMember g mseq d)
    refine ⟨mask'.trans mask, fun x hx => ?_⟩
    rw [List.foldl_cons, bit' x hx, bit x hx, Bool.or_assoc, ← Bool.decide_or, decide_eq_decide.2]
    rw [List.mem_singleton, List.mem_cons]

theorem State.Pruned.mem_mcMembers {s t : State} {g : Nat} {l : List Nat} (h : s.Pruned t g l) (d : Nat) :
    d ∈ t.mcMembers g ↔ d ∈ s.mcMembers g ∧ d ∉ l := by
  obtain ⟨mask, bit⟩ := h
  rw [State.mem_mcMembers, State.mem_mcMembers, mask, and_assoc (c := d ∉ l)]
  refine and_congr_right fun ⟨hd, _⟩ => ?_
  rw [bit d hd, Bool.or_eq_false_iff, decide_eq_false_iff_not]

/-- The members of group g that hold its sender back (R347). -/
def State.slow (s : State) (g k : Nat) : List Nat := (s.mcMembers g).filter fun d => !(aget ({} : McSend) s.mcs g).free k d

theorem exec_pruneWaitExpiry {s : State} {g p : Nat} (hw : (aget ({} : McSend) s.mcs g).waits = true)
    (hp : s.phys (bitsOf (aget 0 s.regs (0x300210 + 32 * g)).toNat 0 10) = some p) :
    ∃ u : State, u = (s.slow g ((s.core p).hqRetain (bitsOf (aget 0 s.regs (0x300210 + 32 * g)).toNat 10 3))).foldl
          (fun u d => u.pruneMember g (aget ({} : McSend) s.mcs g).mseq d) s
      ∧ exec (.pruneWaitExpiry g) s = .next (State.mcSettle
          { u with mcs := aset u.mcs g { aget ({} : McSend) s.mcs g with waits := false } } g) := by
  refine ⟨_, rfl, ?_⟩
  have src : 0x300200 + 32 * g + 0x10 = 0x300210 + 32 * g := by omega
  simp only [exec, execPruneWaitExpiry, src, hp, hw, Bool.not_true, Bool.false_eq_true, if_false]
  rfl

theorem mem_mcMembers_mcSettle (s : State) (g d : Nat) : d ∈ (s.mcSettle g).mcMembers g ↔ d ∈ s.mcMembers g := by
  rw [State.mcMembers, State.mcMembers, (State.coresMesh_mcSettle s g).regs]

theorem pruneWaitExpiry_prunes {s : State} {g p : Nat} (hg : g < 16) (hw : (aget ({} : McSend) s.mcs g).waits = true)
    (hp : s.phys (bitsOf (aget 0 s.regs (0x300210 + 32 * g)).toNat 0 10) = some p) :
    ∃ t, exec (.pruneWaitExpiry g) s = .next t ∧ (aget ({} : McSend) t.mcs g).waits = false
      ∧ ∀ d, d ∈ t.mcMembers g ↔ d ∈ s.mcMembers g
          ∧ (aget ({} : McSend) s.mcs g).free ((s.core p).hqRetain (bitsOf (aget 0 s.regs (0x300210 + 32 * g)).toNat 10 3)) d = true := by
  obtain ⟨u, hu, he⟩ := exec_pruneWaitExpiry hw hp
  have small : ∀ d ∈ s.slow g ((s.core p).hqRetain (bitsOf (aget 0 s.regs (0x300210 + 32 * g)).toNat 10 3)), d < 64 := by
    intro d hd
    obtain ⟨⟨h, -⟩, -⟩ := (State.mem_mcMembers s g d).1 (List.mem_of_mem_filter hd)
    exact h
  have pruned := State.pruned_foldl (aget ({} : McSend) s.mcs g).mseq hg small s
  rw [← hu] at pruned
  refine ⟨_, he, ?_, fun d => ?_⟩
  · rw [(State.coresMesh_mcSettle ..).mcs, aget_aset_self]
  · rw [mem_mcMembers_mcSettle]
    refine (pruned.mem_mcMembers d).trans (and_congr_right fun hd => ?_)
    rw [State.slow, List.mem_filter, not_and, Bool.not_eq_true', Bool.not_eq_false]
    exact imp_iff_right hd

/-! ### A gap (R348) -/

theorem State.isLocalDev_congr {s t : State} (h : ∀ d, aget d t.regs 0x300010 = aget d s.regs 0x300010) (d : Nat) :
    t.isLocalDev d = s.isLocalDev d := by
  rw [State.isLocalDev, State.isLocalDev, State.devId, State.devId, h]

/-- The entry that a member's queue gets for the buffers that it misses. -/
def State.gapEnt (s : State) : HqEnt := { h := 0, poison := true, tok := s.free.1.toNat % 65536 }

theorem exec_gapNotice_poison {s : State} {g m p q : Nat} {x : HandleQ} (hg : g < 16)
    (hp : s.phys (bitsOf (aget 0 s.regs (0x300210 + 32 * g)).toNat 0 10) = some p)
    (hq : (s.core p).hq.find? (fun y => y.2.recv.any fun r =>
      decide (r.core = bitsOf (aget 0 s.regs (0x300210 + 32 * g)).toNat 0 10) && !s.isLocalDev r.dev) = some (q, x))
    (hh : s.holds p none = false) :
    exec (.gapNotice g m) s = .next (State.modCore { s with
        regs := aset s.regs (mcrxOfs g) (BitVec.ofNat 32 (1 + m % 65536 * 4)), fresh := s.fresh + 1 } p fun c =>
          c.setHandleQ q { c.handleQ q with ents := (c.handleQ q).ents ++ [s.gapEnt] }) := by
  have ofs : mcrxOfs g = 0x300400 + 4 * g := rfl
  have src : aget 0 (aset s.regs (mcrxOfs g) (BitVec.ofNat 32 (1 + m % 65536 * 4))) (0x300210 + 32 * g) = aget 0 s.regs (0x300210 + 32 * g) :=
    aget_aset_ne _ _ _ (by omega)
  have dev (d : Nat) : State.isLocalDev { s with regs := aset s.regs (mcrxOfs g) (BitVec.ofNat 32 (1 + m % 65536 * 4)) } d = s.isLocalDev d :=
    State.isLocalDev_congr (fun _ => aget_aset_ne _ _ _ (by omega)) d
  have phys : State.phys { s with regs := aset s.regs (mcrxOfs g) (BitVec.ofNat 32 (1 + m % 65536 * 4)) }
      (bitsOf (aget 0 s.regs (0x300210 + 32 * g)).toNat 0 10) = some p := hp
  have held : State.holds { s with regs := aset s.regs (mcrxOfs g) (BitVec.ofNat 32 (1 + m % 65536 * 4)), fresh := s.fresh + 1 } p none = false := hh
  have core : State.core { s with regs := aset s.regs (mcrxOfs g) (BitVec.ofNat 32 (1 + m % 65536 * 4)) } p = s.core p := rfl
  simp only [exec, execGapNotice, State.gapNotice, if_neg (show ¬ 16 ≤ g by omega), src, dev, phys, core, hq, State.free, held,
    Bool.false_eq_true, if_false]
  rfl

/-! ### Buffers sent again (R349) -/

/-- The source of a group lies in the registers of the device and of the group, and in the cores. -/
theorem State.mcSource_congr {s t : State} {g : Nat} (hd : ∀ d, aget d t.regs 0x300010 = aget d s.regs 0x300010)
    (hs : aget 0 t.regs (0x300210 + 32 * g) = aget 0 s.regs (0x300210 + 32 * g)) (hl : t.lmap = s.lmap) (hc : t.cores = s.cores) :
    t.mcSource g = s.mcSource g := by
  have core (p : Nat) : t.core p = s.core p := State.core_congr hc p
  have phys (l : Nat) : t.phys l = s.phys l := by rw [State.phys, State.phys, hl]
  rw [State.mcSource, State.mcSource]
  simp only [hs, core, phys, State.isLocalDev_congr hd]

/-- The request for a buffer as HX_MC_RESEND holds it, with its status. -/
def resendWord (g m st : Nat) : W32 := (BitVec.ofNat 32 (g % 16 + m % 65536 * 16) &&& 0xFFFFF) ||| BitVec.ofNat 32 (st * 2 ^ 21)

theorem toNat_resendWord_pending {g m : Nat} (hg : g < 16) (hm : m < 65536) : (resendWord g m 1).toNat = g + m * 16 + 2 ^ 21 := by
  have low : (g + m * 16) % 2 ^ 32 &&& 2 ^ 20 - 1 = g + m * 16 := by
    rw [Nat.and_two_pow_sub_one_eq_mod]
    omega
  rw [resendWord, Nat.mod_eq_of_lt hg, Nat.mod_eq_of_lt hm, BitVec.toNat_or, BitVec.toNat_and, BitVec.toNat_ofNat, BitVec.toNat_ofNat]
  change (g + m * 16) % 2 ^ 32 &&& 2 ^ 20 - 1 ||| 2 ^ 21 = _
  have high : 2 ^ 21 * 1 + (g + m * 16) = 2 ^ 21 * 1 ||| (g + m * 16) := Nat.two_pow_add_eq_or_of_lt (by omega) 1
  rw [low, Nat.or_comm]
  exact high.symm.trans (by omega)

theorem exec_hxMcResend {s : State} {g m d : Nat} (hg : g < 16) (hs : s.mcSource g = some d) :
    exec (.hxMcResend g m) s = .next (State.sendCtl { s with
      regs := aset (aset s.regs 0x300030 (BitVec.ofNat 32 (g % 16 + m % 65536 * 16))) 0x300030 (resendWord g m 1) }
        d (.resend (g % 16) (m % 65536))) := by
  have source : State.mcSource { s with regs := aset s.regs 0x300030 (BitVec.ofNat 32 (g % 16 + m % 65536 * 16)) } (g % 16) = some d := by
    rw [Nat.mod_eq_of_lt hg, ← hs]
    exact State.mcSource_congr (fun _ => aget_aset_ne _ _ _ (by decide)) (aget_aset_ne _ _ _ (by omega)) rfl rfl
  simp only [exec, execHxMcResend, source, State.resendStatus, aget_aset_self]
  rfl

/-- What a buffer sent again waits for: no word is told of its acknowledgement (R349). -/
def resentOut (dev l : Nat) : RemOut := { dev := dev, core := l, word := 65536, hq := none, h := 0, ret := false }

theorem exec_resendRequest_retained {s : State} {g d m p : Nat} {e : SendEnd} {x : Nat × Nat}
    (hp : s.phys (bitsOf (aget 0 s.regs (0x300210 + 32 * g)).toNat 0 10) = some p)
    (he : ((s.core p).handleQ (bitsOf (aget 0 s.regs (0x300210 + 32 * g)).toNat 10 3)).send = some e)
    (hx : (aget ({} : McSend) s.mcs g).kept.find? (fun y => decide (y.1 % 65536 = m) && e.retained.contains y.2) = some x) :
    ∃ t, exec (.resendRequest g d m) s = .next t ∧ (s.modCore p fun c =>
      { c with rem := c.rem ++ [resentOut d (bitsOf (aget 0 s.regs (0x300210 + 32 * g)).toNat 0 10)] }).LinkOnly t := by
  obtain ⟨t, ht⟩ := exists_exec_eq_next (.resendRequest g d m) s
  refine ⟨t, ht, ?_⟩
  simp only [exec, execResendRequest, hp, he, hx] at ht
  cases ht
  exact State.linkOnly_sendBuffer ..

/-! ### Members taken back (R349) -/

theorem exec_rejoin {s : State} {g d : Nat} (hs : s.mcSource g = some d) :
    exec (.rejoin g) s = .next (State.sendCtl
      { s with regs := aset s.regs (mcrxOfs g) (aget 0 s.regs (mcrxOfs g) &&& ~~~(1 : W32)) } d (.rejoin g)) := by
  simp only [exec, execRejoin, hs]

theorem State.mcRejoin_mseq (s : State) (g d : Nat) : (aget ({} : McSend) (s.mcRejoin g d).mcs g).mseq = (aget ({} : McSend) s.mcs g).mseq := by
  rw [State.mcRejoin, aget_aset_self]

theorem State.mcRejoin_acked (s : State) (g d : Nat) :
    aget 0 (aget ({} : McSend) (s.mcRejoin g d).mcs g).acked d = (aget ({} : McSend) s.mcs g).mseq := by
  rw [State.mcRejoin, aget_aset_self, aget_aset_self]

theorem State.mem_mcMembers_mcRejoin (s : State) {g d : Nat} (hd : d < 64) (x : Nat) :
    x ∈ (s.mcRejoin g d).mcMembers g ↔ x ∈ s.mcMembers g ∨ (x = d ∧ bitAt (s.mcMask g) d = true) := by
  have mask : (s.mcRejoin g d).mcMask g = s.mcMask g := State.mcMask_setPruned ..
  have bit (hx : x < 64) : (s.mcRejoin g d).prunedBit g x = (s.prunedBit g x && !decide (x = d)) := State.prunedBit_clear s hd hx
  rw [State.mem_mcMembers, State.mem_mcMembers, mask]
  constructor
  · rintro ⟨⟨hx, hm⟩, hb⟩
    rw [bit hx] at hb
    by_cases e : x = d
    · subst e
      exact .inr ⟨rfl, hm⟩
    · rw [decide_eq_false e, Bool.not_false, Bool.and_true] at hb
      exact .inl ⟨⟨hx, hm⟩, hb⟩
  · rintro (⟨⟨hx, hm⟩, hb⟩ | ⟨rfl, hm⟩)
    · refine ⟨⟨hx, hm⟩, ?_⟩
      rw [bit hx, hb, Bool.false_and]
    · refine ⟨⟨hd, hm⟩, ?_⟩
      rw [bit hd, decide_eq_true rfl, Bool.not_true, Bool.and_false]

theorem State.prunedBit_rejoin_foldl {g x : Nat} (hx : x < 64) {l : List Nat} (hl : ∀ d ∈ l, d < 64) (s : State) :
    (l.foldl (fun s d => s.mcRejoin g d) s).prunedBit g x = (s.prunedBit g x && !decide (x ∈ l)) := by
  induction l generalizing s with
  | nil => simp
  | cons d l ih =>
    obtain ⟨hd, hl⟩ := List.forall_mem_cons.1 hl
    have step : (s.mcRejoin g d).prunedBit g x = (s.prunedBit g x && !decide (x = d)) := State.prunedBit_clear s hd hx
    rw [List.foldl_cons, ih hl, step, Bool.and_assoc, ← Bool.not_or, ← Bool.decide_or, decide_eq_decide.2 List.mem_cons.symm]

/-- The acknowledgements of a member that rejoins count from the next buffer on, whichever members rejoin with it. -/
theorem State.acked_rejoin_foldl (s : State) {g d : Nat} {l : List Nat} (hd : d ∈ l) :
    aget 0 (aget ({} : McSend) (l.foldl (fun s d => s.mcRejoin g d) s).mcs g).acked d = (aget ({} : McSend) s.mcs g).mseq := by
  have mseq : (aget ({} : McSend) (l.foldl (fun s d => s.mcRejoin g d) s).mcs g).mseq = (aget ({} : McSend) s.mcs g).mseq :=
    foldl_inv (fun t : State => (aget ({} : McSend) t.mcs g).mseq = (aget ({} : McSend) s.mcs g).mseq) _
      (fun t x h => (t.mcRejoin_mseq g x).trans h) l s rfl
  rw [← mseq]
  refine foldl_establishes (fun t : State => aget 0 (aget ({} : McSend) t.mcs g).acked d = (aget ({} : McSend) t.mcs g).mseq) _ hd
    (fun t x h => ?_) (fun t => ?_) s
  · rw [State.mcRejoin_mseq, ← h]
    by_cases e : x = d
    · rw [e, State.mcRejoin_acked, h]
    · rw [State.mcRejoin, aget_aset_self, aget_aset_ne _ _ _ e]
  · rw [State.mcRejoin_mseq, State.mcRejoin_acked]

/-- The members that a write of ones to half `hi` of PRUNED names. -/
def rejoining (hi : Nat) (m : W32) : List Nat := (maskList 32 m.toNat).map (· + 32 * hi)

theorem mem_rejoining {hi d : Nat} {m : W32} (hd : d < 32) : d + 32 * hi ∈ rejoining hi m ↔ m.getLsbD d = true := by
  rw [rejoining, List.mem_map]
  constructor
  · rintro ⟨x, hx, e⟩
    obtain rfl : x = d := Nat.add_right_cancel e
    obtain ⟨-, hb⟩ := (mem_maskList ..).1 hx
    rwa [bitAt_eq_testBit, BitVec.testBit_toNat] at hb
  · intro hb
    refine ⟨d, (mem_maskList ..).2 ⟨hd, ?_⟩, rfl⟩
    rwa [bitAt_eq_testBit, BitVec.testBit_toNat]

theorem lt_of_mem_rejoining {hi d : Nat} {m : W32} (hh : hi < 2) (h : d ∈ rejoining hi m) : d < 64 := by
  obtain ⟨x, hx, rfl⟩ := List.mem_map.1 h
  obtain ⟨hx, -⟩ := (mem_maskList ..).1 hx
  omega

theorem exec_prunedClear {g hi : Nat} (s : State) (m : W32) (hg : g < 16) (hh : hi < 2) :
    exec (.prunedClear g hi m) s = .next ((rejoining hi m).foldl (fun s d => s.mcRejoin g d) s) := by
  simp only [exec, execPrunedClear, if_neg (show ¬ 16 ≤ g by omega), Nat.mod_eq_of_lt hh]
  rfl

/-- A 1 written to PRUNED clears its bit, and no other bit of the register. -/
theorem State.pruned_rejoin_foldl (s : State) {g hi : Nat} (m : W32) (hh : hi < 2) :
    aget 0 ((rejoining hi m).foldl (fun s d => s.mcRejoin g d) s).regs (0x300208 + 32 * g + 4 * hi)
      = aget 0 s.regs (0x300208 + 32 * g + 4 * hi) &&& ~~~m := by
  have ofs {i : Nat} (hi' : i < 32) : prunedOfs g (i + 32 * hi) = 0x300208 + 32 * g + 4 * hi := by
    unfold prunedOfs
    split
    · omega
    · omega
  have bit (t : State) {i : Nat} (hi' : i < 32) :
      (aget 0 t.regs (0x300208 + 32 * g + 4 * hi)).getLsbD i = t.prunedBit g (i + 32 * hi) := by
    rw [State.prunedBit, ofs hi', show (i + 32 * hi) % 32 = i by omega]
  refine BitVec.eq_of_getLsbD_eq fun i hi' => ?_
  rw [bit _ hi', State.prunedBit_rejoin_foldl (by omega) (fun _ => lt_of_mem_rejoining hh), BitVec.getLsbD_and, BitVec.getLsbD_not, bit _ hi',
    decide_eq_true hi', Bool.true_and, Bool.decide_congr (mem_rejoining hi'), Bool.decide_eq_true]

theorem State.cores_rejoin_foldl (s : State) (g : Nat) (l : List Nat) : (l.foldl (fun s d => s.mcRejoin g d) s).cores = s.cores :=
  foldl_inv (fun t : State => t.cores = s.cores) (fun s d => s.mcRejoin g d) (fun _ _ h => h) l s rfl

/-! ### A message that another device refused (R288, R350) -/

theorem exec_voileRemoteRetry {s : State} {k src word dev dst tag : Nat} {d : List Byte}
    (h : s.mesh[k]? = some (.rmail src word dev dst tag d true)) :
    ∃ t, exec (.voileRemoteRetry k) s = .next t
      ∧ (State.bumpCore { s with mesh := s.mesh.set k (.rmail src word dev dst tag d false) } src 0x3A94 1).LinkOnly t := by
  obtain ⟨t, ht⟩ := exists_exec_eq_next (.voileRemoteRetry k) s
  refine ⟨t, ht, ?_⟩
  simp only [exec, execVoileRemoteRetry, h] at ht
  cases ht
  exact State.linkOnly_hxSend ..

/-- Settles O33: one lemma above for each command; sending changes no register of a group. -/
theorem multicastRepairs : Obligations.MulticastRepairs := by
  refine ⟨?prune, ?gap, ?resend, ?request, ?rejoin, ?rejoined, ?cleared, ?retry⟩
  case prune =>
    rintro s g p _ hg hw hp rfl
    exact pruneWaitExpiry_prunes hg hw hp
  case gap =>
    rintro s g m _ p q x hg rfl hp hq hh
    refine ⟨_, s.gapEnt, exec_gapNotice_poison hg hp hq hh, aget_aset_self .., ?_, rfl, ?_⟩
    · rw [State.core_modCore_self, Core.handleQ, Core.setHandleQ, aget_aset_self]
      rfl
    · rw [State.core_modCore_self]
      rfl
  case resend =>
    intro s g m d hg hm hs
    have word := toNat_resendWord_pending hg hm
    refine ⟨_, exec_hxMcResend hg hs, ?_, ?_, ?_, (State.linkOnly_sendCtl ..).cores_sm.1⟩
    all_goals
      rw [State.sendCtl, State.aget_regs_hxSend _ _ _ _ (by decide), aget_aset_self, word, bitsOf, Nat.shiftRight_eq_div_pow]
      omega
  case request =>
    rintro s g d m _ p e x rfl hp he hx
    obtain ⟨t, ht, only⟩ := exec_resendRequest_retained (d := d) hp he hx
    obtain ⟨cores, -⟩ := only.cores_sm
    obtain ⟨t0, slice, -, -⟩ := State.PortOnly.frame only
    refine ⟨t, ht, ?_, only.mcs, t0, slice⟩
    rw [State.core_congr cores, State.core_modCore_self]
    rfl
  case rejoin =>
    intro s g d hs
    have only := State.linkOnly_sendCtl
      { s with regs := aset s.regs (mcrxOfs g) (aget 0 s.regs (mcrxOfs g) &&& ~~~(1 : W32)) } d (.rejoin g)
    refine ⟨_, exec_rejoin hs, ?_, only.cores_sm.1, only.mcs⟩
    rw [bitAt_eq_testBit, BitVec.testBit_toNat, State.sendCtl, State.bit_zero_regs_hxSend, ← mcrxOfs, aget_aset_self]
    exact getLsbD_and_not _ rfl
  case rejoined =>
    intro s g d hg hd
    refine ⟨s.mcRejoin g d, ?_, s.mcRejoin_acked g d, s.mem_mcMembers_mcRejoin hd, rfl⟩
    rw [exec, execRejoinRequest, if_neg]
    simp [hg, hd]
  case cleared =>
    intro s g hi d m hg hh hd hm
    exact ⟨_, exec_prunedClear s m hg hh, s.acked_rejoin_foldl ((mem_rejoining hd).2 hm), s.pruned_rejoin_foldl m hh, s.cores_rejoin_foldl ..⟩
  case retry =>
    intro s k src word dev dst tag d h
    obtain ⟨t, ht, only⟩ := exec_voileRemoteRetry h
    refine ⟨t, ht, only.mesh, ?_⟩
    rw [State.core_congr only.cores_sm.1, State.bumpCore, State.core_modCore_self, Core.count_bump_self]
    rfl

end Sys2Proof.Machine
end

section
/-! Proofs of the statement of the Muslin codec (R313, R314): packing, chunks and byte planes each give back what they were given. -/

namespace Sys2Proof.Machine

/-! ### Packed elements and bytes (R43) -/

theorem packBits_lt (w : Nat) (l : List Nat) : packBits w l < 2 ^ (w * l.length) := by
  induction l with
  | nil => simp [packBits]
  | cons c cs ih =>
    have hc : c % 2 ^ w < 2 ^ w := Nat.mod_lt _ (by positivity)
    have hm : (packBits w cs + 1) * 2 ^ w ≤ 2 ^ (w * cs.length) * 2 ^ w := Nat.mul_le_mul_right _ ih
    rw [packBits, List.length_cons, Nat.mul_succ, Nat.pow_add]
    rw [Nat.add_mul] at hm
    omega

theorem bitsOf_packBits (w : Nat) (l : List Nat) (i : Nat) (hi : i < l.length) : bitsOf (packBits w l) (w * i) w = l[i] % 2 ^ w := by
  induction l generalizing i with
  | nil => cases hi
  | cons c cs ih =>
    have shift : packBits w (c :: cs) >>> w = packBits w cs := by
      rw [packBits, Nat.shiftRight_eq_div_pow, Nat.add_mul_div_right _ _ (by positivity), Nat.div_eq_of_lt (Nat.mod_lt _ (by positivity)),
        Nat.zero_add]
    cases i with
    | zero => simp [bitsOf, packBits]
    | succ i =>
      have hi' : i < cs.length := Nat.lt_of_succ_lt_succ hi
      rw [bitsOf, Nat.mul_succ, Nat.add_comm, Nat.shiftRight_add, shift]
      exact ih i hi'

theorem unpackBits_packBits {w : Nat} {l : List Nat} (h : ∀ v ∈ l, v < 2 ^ w) : unpackBits w l.length (packBits w l) = l := by
  refine List.ext_getElem (by simp [unpackBits]) fun i _ hi => ?_
  have hv := h l[i] (List.getElem_mem hi)
  simp [unpackBits, bitsOf_packBits w l i hi, Nat.mod_eq_of_lt hv]

theorem bytesOf_succ (n x : Nat) : bytesOf (n + 1) x = BitVec.ofNat 8 x :: bytesOf n (x / 256) := by
  have byte (i : Nat) : bitsOf x (8 * (i + 1)) 8 = bitsOf (x / 256) (8 * i) 8 := by
    rw [bitsOf, Nat.mul_succ, Nat.add_comm, Nat.shiftRight_add, Nat.shiftRight_eq_div_pow x 8]
    rfl
  have low : BitVec.ofNat 8 (bitsOf x 0 8) = BitVec.ofNat 8 x := BitVec.eq_of_toNat_eq (by simp [bitsOf])
  simp [bytesOf, List.range_succ_eq_map, low, byte]

theorem numOf_bytesOf (n x : Nat) : numOf (bytesOf n x) = x % 256 ^ n := by
  induction n generalizing x with
  | zero => simp [bytesOf, numOf, Nat.mod_one]
  | succ n ih =>
    have split : x % (256 * 256 ^ n) = x % 256 + 256 * (x / 256 % 256 ^ n) := Nat.mod_mul
    rw [bytesOf_succ, numOf, ih, BitVec.toNat_ofNat, Nat.pow_succ' (n := n) (m := 256), split, Nat.mul_comm]

@[simp] theorem length_bytesOf (n x : Nat) : (bytesOf n x).length = n := by
  simp [bytesOf]

theorem map_ofNat_map_toNat (l : List Byte) : (l.map BitVec.toNat).map (BitVec.ofNat 8) = l := by
  simp [Function.comp_def]

/-! ### Chunks of a Muslin container (R313, R314) -/

theorem lt_two_pow_bitLen (n : Nat) : n < 2 ^ bitLen n := by
  unfold bitLen
  split
  · simp_all
  · exact Nat.lt_log2_self

theorem foldl_min_le (l : List Nat) (a : Nat) : l.foldl min a ≤ a ∧ ∀ v ∈ l, l.foldl min a ≤ v := by
  induction l generalizing a with
  | nil => simp
  | cons b l ih =>
    obtain ⟨ha, hl⟩ := ih (min a b)
    simp only [List.foldl_cons, List.mem_cons, forall_eq_or_imp]
    exact ⟨by omega, by omega, hl⟩

theorem le_foldl_max (l : List Nat) (a : Nat) : a ≤ l.foldl max a ∧ ∀ v ∈ l, v ≤ l.foldl max a := by
  induction l generalizing a with
  | nil => simp
  | cons b l ih =>
    obtain ⟨ha, hl⟩ := ih (max a b)
    simp only [List.foldl_cons, List.mem_cons, forall_eq_or_imp]
    exact ⟨by omega, by omega, hl⟩

/-- The tags 0x11 to 0x17: the numbers above the least one, packed in n bits each. -/
theorem decodeChunk_packed {x : List Nat} {lo n : Nat} (r : List Nat) (hn : 1 ≤ n) (hn' : n ≤ 7) (hx : x.length = 64)
    (h : ∀ v ∈ x, lo ≤ v ∧ v - lo < 2 ^ n ∧ v < 256) :
    decodeChunk ([0x10 + n, lo] ++ (bytesOf (8 * n) (packBits n (x.map fun v => v - lo))).map BitVec.toNat ++ r) = some (x, r) := by
  have hlt : ∀ v ∈ x.map (fun v => v - lo), v < 2 ^ n := by
    simpa using fun v hv => (h v hv).2.1
  have unpack := unpackBits_packBits hlt
  have fits : packBits n (x.map fun v => v - lo) < 256 ^ (8 * n) := by
    have := packBits_lt n (x.map fun v => v - lo)
    rw [List.length_map, hx] at this
    rwa [show 256 = 2 ^ 8 from rfl, ← Nat.pow_mul, show 8 * (8 * n) = n * 64 by omega]
  have back : (x.map fun v => v - lo).map (fun v => (lo + v) % 256) = x := by
    rw [List.map_map]
    refine (List.map_congr_left fun v hv => ?_).trans x.map_id
    obtain ⟨hlo, -, hv⟩ := h v hv
    simp only [Function.comp_apply, id_eq]
    omega
  rw [List.length_map, hx] at unpack
  have len : ((bytesOf (8 * n) (packBits n (x.map fun v => v - lo))).map BitVec.toNat).length = 8 * n := by simp
  simp only [decodeChunk, List.cons_append, List.nil_append]
  rw [if_neg (by omega), if_neg (by omega), if_pos (by omega), Nat.add_sub_cancel_left, if_neg (by simp), List.take_left' len, List.drop_left' len,
    map_ofNat_map_toNat, numOf_bytesOf, Nat.mod_eq_of_lt fits, unpack, back]

theorem eq_replicate_of_bounds {x : List Nat} {lo hi : Nat} (h : ∀ v ∈ x, lo ≤ v ∧ v ≤ hi) (he : hi = lo) : x = List.replicate x.length lo :=
  List.eq_replicate_of_mem fun v hv => by
    have := h v hv
    omega

theorem decodeChunk_codeChunk {x : List Nat} (r : List Nat) (hx : x.length = 64) (hb : ∀ v ∈ x, v < 256) :
    decodeChunk (codeChunk x ++ r) = some (x, r) := by
  have bounds : ∀ v ∈ x, x.foldl min (x.headD 0) ≤ v ∧ v ≤ x.foldl max 0 := fun v hv =>
    ⟨(foldl_min_le x _).2 v hv, (le_foldl_max x 0).2 v hv⟩
  have inside : x.foldl min (x.headD 0) ≤ x.foldl max 0 := by
    obtain ⟨v, hv⟩ := List.exists_mem_of_length_pos (by omega : 0 < x.length)
    exact (bounds v hv).1.trans (bounds v hv).2
  simp only [codeChunk]
  generalize x.foldl min (x.headD 0) = lo at bounds inside
  generalize x.foldl max 0 = hi at bounds inside
  split
  case isTrue h0 =>
    have hz := eq_replicate_of_bounds (lo := 0) (fun v hv => ⟨v.zero_le, (bounds v hv).2⟩) h0
    simp [decodeChunk, ← hx, ← hz]
  case isFalse h0 =>
    split
    case isTrue he =>
      have hc := eq_replicate_of_bounds bounds he
      simp [decodeChunk, ← hx, ← hc]
    case isFalse he =>
      split
      case isTrue h7 =>
        have span := lt_two_pow_bitLen (hi - lo)
        have some_bit : bitLen (hi - lo) ≠ 0 := fun h => by
          rw [h] at span
          omega
        refine decodeChunk_packed r (by omega) h7 hx fun v hv => ⟨(bounds v hv).1, ?_, hb v hv⟩
        have := bounds v hv
        omega
      case isFalse h7 => simp [decodeChunk, ← hx]

theorem decodeChunks_flatMap_codeChunk (l : List (List Nat)) (h : ∀ x ∈ l, x.length = 64 ∧ ∀ v ∈ x, v < 256) :
    decodeChunks l.length (l.flatMap codeChunk) = some l.flatten := by
  induction l with
  | nil => rfl
  | cons x l ih =>
    obtain ⟨⟨hx, hb⟩, hl⟩ := List.forall_mem_cons.mp h
    simp [decodeChunks, decodeChunk_codeChunk _ hx hb, ih hl]

/-! ### Byte planes (R313) -/

/-- Rows of k numbers each, one after the other: place i * k + j holds number j of row i. -/
theorem getD_flatMap_range_map (f : Nat → Nat → Nat) {n k i j : Nat} (hi : i < n) (hj : j < k) :
    ((List.range n).flatMap fun i => (List.range k).map (f i)).getD (i * k + j) 0 = f i j := by
  induction n with
  | zero => cases hi
  | succ n ih =>
    have len : ((List.range n).flatMap fun i => (List.range k).map (f i)).length = n * k := by simp
    have below (h : i < n) : i * k + j < n * k := by
      have := Nat.mul_le_mul_right k (Nat.succ_le_of_lt h)
      rw [Nat.succ_mul] at this
      omega
    rw [List.range_succ, List.flatMap_append]
    rcases Nat.lt_succ_iff_lt_or_eq.mp hi with h | rfl
    · rw [List.getD_append _ _ _ _ (by rw [len]; exact below h), ih h]
    · rw [List.getD_append_right _ _ _ _ (by omega), len]
      simp [List.getD_eq_getElem?_getD, hj]

theorem length_toPlanes (w : Nat) (d : List Nat) : (toPlanes w d).length = w * (4096 / w) := by
  simp [toPlanes]

theorem mem_toPlanes_lt {w : Nat} {d : List Nat} (h : ∀ x ∈ d, x < 256) : ∀ v ∈ toPlanes w d, v < 256 := by
  intro v hv
  simp only [toPlanes, List.mem_flatMap, List.mem_map] at hv
  obtain ⟨b, -, j, -, rfl⟩ := hv
  rcases Nat.lt_or_ge (w * j + b) d.length with hl | hl
  · rw [List.getD_eq_getElem _ _ hl]
    exact h _ (List.getElem_mem hl)
  · rw [List.getD_eq_default _ _ hl]
    decide

theorem ofPlanes_toPlanes {w : Nat} {d : List Nat} (hw : 0 < w) (hd : d.length = 4096 / w * w) : ofPlanes w (toPlanes w d) = d := by
  refine List.ext_getElem (by simp [ofPlanes, hd]) fun i hi hi' => ?_
  have hb : i % w < w := Nat.mod_lt _ hw
  have hj : i / w < 4096 / w := by
    rw [Nat.div_lt_iff_lt_mul hw, ← hd]
    exact hi'
  have place : i / w * w + i % w = i := Nat.div_add_mod' i w
  rw [← List.getD_eq_getElem _ 0 hi, ← List.getD_eq_getElem _ 0 hi', ← place, ofPlanes, getD_flatMap_range_map _ hj hb, toPlanes,
    getD_flatMap_range_map _ hb hj, Nat.mul_comm]

/-! ### Containers -/

theorem flatten_map_drop_take (n k : Nat) (s : List Nat) (h : s.length = n * k) :
    ((List.range n).map fun c => (s.drop (k * c)).take k).flatten = s := by
  induction n generalizing s with
  | zero => simp [List.eq_nil_of_length_eq_zero (h.trans (Nat.zero_mul k))]
  | succ n ih =>
    rw [Nat.succ_mul] at h
    have rest := ih (s.drop k) (by simp [h])
    have step (c : Nat) : s.drop (k * (c + 1)) = (s.drop k).drop (k * c) := by rw [List.drop_drop, Nat.mul_succ, Nat.add_comm]
    simp only [List.range_succ_eq_map, List.map_cons, List.map_map, Function.comp_def, step, List.flatten_cons, rest, Nat.mul_zero,
      List.drop_zero, List.take_append_drop]

theorem decodeChunks_planes {s : List Nat} (hs : s.length = 4096) (hb : ∀ v ∈ s, v < 256) :
    decodeChunks 64 ((List.range 64).flatMap fun c => codeChunk ((s.drop (64 * c)).take 64)) = some s := by
  have chunks := decodeChunks_flatMap_codeChunk ((List.range 64).map fun c => (s.drop (64 * c)).take 64) (by
    simp only [List.mem_map, List.mem_range, forall_exists_index, and_imp, forall_apply_eq_imp_iff₂]
    intro c hc
    exact ⟨by simp; omega, fun v hv => hb v (List.mem_of_mem_drop (List.mem_of_mem_take hv))⟩)
  rwa [List.length_map, List.length_range, List.flatMap_map, flatten_map_drop_take 64 64 s hs] at chunks

/-- Settles O53, by the three forms of a container: empty, raw, and coded chunk by chunk over the byte planes. -/
theorem muslinRoundTrips : Obligations.MuslinRoundTrips := by
  intro d w hd hb hw
  have whole : d.length = 4096 / w * w ∧ w * (4096 / w) = 4096 ∧ 0 < w := by
    rcases hw with rfl | rfl | rfl <;> simp [hd]
  obtain ⟨rows, planes, pos⟩ := whole
  unfold muslinEncode
  split
  case isTrue hz =>
    have zero : ∀ x ∈ d, x = 0 := by simpa using hz
    have empty : d = List.replicate 4096 0 := hd ▸ List.eq_replicate_of_mem zero
    exact ⟨congrArg some empty.symm, Nat.zero_le _, fun _ => zero, fun _ => rfl⟩
  case isFalse hz =>
    have some_byte : ¬ ∀ x ∈ d, x = 0 := by simpa using hz
    dsimp only
    split
    case isTrue hl => simp [muslinDecode, hd, some_byte]
    case isFalse hl =>
      have coded := decodeChunks_planes ((length_toPlanes w d).trans planes) (mem_toPlanes_lt hb)
      refine ⟨?_, (Nat.lt_of_not_le hl).le, by simp [some_byte]⟩
      simp [muslinDecode, coded, ofPlanes_toPlanes pos rows]

end Sys2Proof.Machine
end

section
/-! Proofs of the statement of the host window (R388): what passes a window that answers, what its checks refuse, and its release. -/

namespace Sys2Proof.Machine

/-! ### The freeze and the release -/

/-- The window's source is driven after the window's record is written: nothing else changes. -/
theorem State.irqOnly_hwin_level (s : State) (x : Option HwinFrz) (i : Nat) (b : Bool) :
    (State.level { s with hwin := x } i b).hwin = x ∧ s.IrqOnly { State.level { s with hwin := x } i b with hwin := s.hwin } := by
  have only := State.irqOnly_level { s with hwin := x } i b
  refine ⟨only.hwin, ?_⟩
  unfold State.IrqOnly at *
  rw [only]

theorem State.irqOnly_winRelease (s : State) : s.winRelease.hwin = none ∧ s.IrqOnly { s.winRelease with hwin := s.hwin } :=
  s.irqOnly_hwin_level none 683 false

theorem State.irqOnly_winFreeze (s : State) (r o a : Nat) :
    (s.winFreeze r o a).hwin = some { reason := r, obj := o, addr := a } ∧ s.IrqOnly { s.winFreeze r o a with hwin := s.hwin } :=
  s.irqOnly_hwin_level _ 683 true

/-! ### What the window passes -/

/-- The accesses that are no sealed page's: outside sealed mode, or of the record object (R454). -/
theorem State.not_sealedPage {s : State} {a n : Nat} (h : s.sealed_ = false ∨ s.inWrec a n = true) : (s.sealed_ && !s.inWrec a n) = false := by
  rcases h with h | h <;> simp [h]

theorem exec_hostWindowRead_open {s : State} {ofs n : Nat} (hshut : s.winShut ofs = false)
    (hs : s.sealed_ = false ∨ s.inWrec (s.winAddr ofs) n = true) :
    exec (.hostWindowRead ofs n) s = .next (s.winRead (s.winAddr ofs) n) := by
  simp only [exec, execHostWindowRead, hshut, State.not_sealedPage hs, Bool.false_eq_true, if_false]

theorem exec_hostWindowWrite_open {s : State} {ofs : Nat} {d : List Byte} (hshut : s.winShut ofs = false)
    (hs : s.sealed_ = false ∨ s.inWrec (s.winAddr ofs) d.length = true) :
    exec (.hostWindowWrite ofs d) s = .next (s.winWrite (s.winAddr ofs) d) := by
  simp only [exec, execHostWindowWrite, hshut, State.not_sealedPage hs, Bool.false_eq_true, if_false]

theorem State.winRead_ok {s : State} {a n o ofs : Nat} (h : s.checkAddr .host false false a n = .ok (o, ofs)) :
    s.winRead a n = (s.objRead o ofs n).2.emit (.readData ((s.objRead o ofs n).1.map Prod.fst) ((s.objRead o ofs n).1.any Prod.snd)) := by
  simp only [State.winRead, h]

theorem State.winRead_error {s : State} {a n r o : Nat} (h : s.checkAddr .host false false a n = .error (r, o)) :
    s.winRead a n = (s.winFreeze r o a).emit .accessError := by
  simp only [State.winRead, h]

theorem State.winWrite_ok {s : State} {a o ofs : Nat} {d : List Byte} (h : s.checkAddr .host true false a d.length = .ok (o, ofs)) :
    s.winWrite a d = s.wholeWrite o ofs (d.map fun b => (b, false)) := by
  simp only [State.winWrite, h]

theorem State.winWrite_error {s : State} {a r o : Nat} {d : List Byte} (h : s.checkAddr .host true false a d.length = .error (r, o)) :
    s.winWrite a d = s.winFreeze r o a := by
  simp only [State.winWrite, h]

theorem State.getLast?_out_emit (s : State) (e : OutEvent) : (s.emit e).out.getLast? = some e := by
  simp [State.emit]

/-! ### The window that does not answer -/

theorem State.winShut_of_frozen_or_off {s : State} {ofs : Nat}
    (h : s.hwin ≠ none ∨ bitAt (aget 0 s.regs (0x200500 + 8 * (ofs / 2 ^ 32 % 16))).toNat 0 = false) : s.winShut ofs = true := by
  rcases h with frozen | off
  · simp [State.winShut, Option.isSome_iff_ne_none.mpr frozen]
  · have seg : s.segOn (winSeg ofs) = false := off
    simp [State.winShut, seg]

/-- Settles O37: each clause is one way through the window, and a freeze or a release changes the window's record and its interrupt source. -/
theorem hostWindowReachesMemory : Obligations.HostWindowReachesMemory := by
  refine ⟨?release, ?read, ?readRefused, ?write, ?writeRefused, ?shut⟩
  case release =>
    intro s
    exact ⟨_, rfl, s.irqOnly_winRelease⟩
  case read =>
    intro s ofs n o a hshut hs hok
    refine ⟨_, exec_hostWindowRead_open hshut hs, ?_, ?_⟩
    · rw [State.winRead_ok hok, State.getLast?_out_emit]
    · rw [State.winRead_ok hok]
      exact (State.readOnly_objRead s o a n).trans (State.irqOnly_emit _ _).readOnly
  case readRefused =>
    intro s ofs n r o hshut hs herr
    obtain ⟨frozen, only⟩ := s.irqOnly_winFreeze r o (s.winAddr ofs)
    refine ⟨_, exec_hostWindowRead_open hshut hs, ?_⟩
    rw [State.winRead_error herr]
    exact ⟨State.getLast?_out_emit .., frozen, only.trans (State.irqOnly_emit _ _)⟩
  case write =>
    intro s ofs o a d hshut hs hok
    obtain ⟨rest, cores⟩ := State.wholeOnly_wholeWrite s o a (d.map fun b => (b, false))
    refine ⟨_, exec_hostWindowWrite_open hshut hs, ?_⟩
    rw [State.winWrite_ok hok]
    exact ⟨rfl, rfl, by rw [rest], by rw [rest], cores⟩
  case writeRefused =>
    intro s ofs r o d hshut hs herr
    refine ⟨_, exec_hostWindowWrite_open hshut hs, ?_⟩
    rw [State.winWrite_error herr]
    exact s.irqOnly_winFreeze r o (s.winAddr ofs)
  case shut =>
    intro s ofs n d h
    have hshut := State.winShut_of_frozen_or_off h
    refine ⟨?_, s.emit .accessError, ?_, rfl⟩
    · simp only [exec, execHostWindowWrite, hshut, if_true]
    · simp only [exec, execHostWindowRead, hshut, if_true]

end Sys2Proof.Machine
end

section
/-! Proofs of the statement of the resets (R309, R389, R453, R471 to R474): what a boot keeps, and what a function level, a core and a group reset
leave. -/

namespace Sys2Proof.Machine

/-! ### The boot (R472) -/

theorem State.rollbackBoot_only (s : State) : s.rollbackBoot = { s with sec := s.rollbackBoot.sec } := by
  unfold State.rollbackBoot
  split
  · rfl
  · split <;> rfl

/-- What every boot from `s` leaves, be it cold or warm: memories, keys, fences and flash as they stood, the rest at its reset value. -/
structure State.Booted (s : State) (last : Nat) (t : State) : Prop where
  t0 : t.t0 = []
  slice : t.slice = s.slice
  tier : t.tier = s.tier
  flash : t.flash = s.flash
  fences : t.fences = s.fences
  fl : t.fl = s.fl
  t3Key : t.t3Key = s.t3Key
  epoch : t.epoch = 0
  rings : t.rings = []
  flip : t.flip = none
  bar2 : t.bar2 = []
  sram : t.sram = []
  rstLast : t.rstLast = last
  pending : t.pending = s.pending

theorem State.booted_boot (s : State) (last : Nat) : s.Booted last (s.boot last) ∧ (s.boot last).sealed_ = false := by
  unfold State.boot
  extract_lets bl b r
  have kept {α : Type} (f : State → α) : f r = f { b with sec := r.sec } := congrArg f b.rollbackBoot_only
  exact ⟨{ t0 := kept State.t0, slice := kept State.slice, tier := kept State.tier, flash := kept State.flash, fences := kept State.fences
           fl := kept State.fl, t3Key := kept State.t3Key, epoch := kept State.epoch, rings := kept State.rings, flip := kept State.flip
           bar2 := kept State.bar2, sram := kept State.sram, rstLast := kept State.rstLast, pending := kept State.pending },
    kept State.sealed_⟩

/-! ### Cold and warm resets (R453, R471) -/

theorem State.flashAbandon_idle {s : State} (h : s.flashBusy = false) : s.flashAbandon = s := by
  unfold State.flashAbandon
  split
  · rfl
  · simp [h]

/-- Cutting off a sector operation leaves the T3 key and the queue of commands. -/
theorem State.flashAbandon_keeps (s : State) : s.flashAbandon.t3Key = s.t3Key ∧ s.flashAbandon.pending = s.pending := by
  unfold State.flashAbandon
  split
  · exact ⟨rfl, rfl⟩
  · dsimp only
    split
    · exact ⟨rfl, rfl⟩
    · split <;> exact ⟨rfl, rfl⟩

/-- A cold reset is a boot of a state with empty memories, a new T3 key and the fence list of flash. -/
theorem State.coldReset_boots (s : State) :
    ∃ u : State, s.coldReset = u.boot 0 ∧ u.slice = [] ∧ u.tier = [] ∧ u.t3Key = s.t3Key + 1 ∧ u.pending = s.pending
      ∧ u.flash = s.flashAbandon.flash ∧ (s.flashAbandon.fenceBest = none → u.fences = [] ∧ u.fl.lost = true) := by
  obtain ⟨key, pending⟩ := s.flashAbandon_keeps
  have pin (t : State) (b : Bool) (e : OutEvent) :
      (if b then t.emit e else t).t3Key = t.t3Key ∧ (if b then t.emit e else t).pending = t.pending
        ∧ (if b then t.emit e else t).flash = t.flash := by
    split <;> exact ⟨rfl, rfl, rfl⟩
  obtain ⟨pinKey, pinPending, pinFlash⟩ := pin s.flashAbandon s.flashAbandon.pw.tripped (.pin pinTrip false)
  refine ⟨_, rfl, rfl, rfl, ?_, pinPending.trans pending, pinFlash, fun lost => ?_⟩
  · dsimp only
    rw [pinKey, key]
  · simp [lost]

theorem State.booted_warmReset (s : State) (last : Nat) : s.Booted last (s.warmReset last) := by
  obtain ⟨b, -⟩ := State.booted_boot { s with sec := { s.sec with debug := s.sec.debug || s.sec.debugNext } } last
  unfold State.warmReset
  dsimp only
  split
  · exact { b with }
  · exact { b with }

theorem State.warmReset_sealed (s : State) (last : Nat) :
    (s.warmReset last).sealed_ = s.sealed_ ∧ (s.sealed_ = true → (s.warmReset last).sec.scrub.isSome = true) := by
  unfold State.warmReset
  dsimp only
  split
  case isTrue h => exact ⟨h.symm, fun _ => rfl⟩
  case isFalse h => exact ⟨by rw [(State.booted_boot _ last).2, Bool.eq_false_of_not_eq_true h], fun k => absurd k h⟩

theorem exec_sysRstN {s : State} (h : s.powered = true) : exec .sysRstN s = .next (s.warmReset 1) := by
  simp only [exec, execSysRstN, h, if_true]

theorem exec_warmReset {s : State} (h : s.powered = true) : exec .warmReset s = .next (s.warmReset 2) := by
  simp only [exec, execWarmReset, h, if_true]

theorem exec_groupResetMessage_anchor {s : State} (h : s.powered = true) :
    exec (.groupResetMessage s.anchor) s = .next (s.warmReset 3) := by
  simp only [exec, execGroupResetMessage, State.takeReset, h, decide_true, Bool.and_true, if_true]

/-! ### Memory training (R304, R309) -/

/-- Entries that keep their key are found where they were. -/
theorem afind_map_of_key {α : Type} (f : Nat × α → Nat × α) (hf : ∀ x, (f x).1 = x.1) (m : Amap α) (i : Nat) :
    afind (m.map f) i = (afind m i).map fun v => (f (i, v)).2 := by
  induction m with
  | nil => rfl
  | cons x m ih =>
    obtain ⟨k, v⟩ := x
    have hk := hf (k, v)
    rw [List.map_cons]
    by_cases h : k = i
    · subst h
      simp only [afind, hk, if_true, Option.map_some]
    · simp only [afind, hk, if_neg h, ih]

theorem exec_memoryTrainingDone_stack {s : State} {l : List Nat} {i : Nat} (hp : s.powered = true) (hi : i < 8) (h0 : (s.chan i).state = 0)
    (hs : (afind s.obj.chans i).isSome = true) :
    ∃ t, exec (.memoryTrainingDone l) s = .next t ∧ t.chan i = { state := 1, cap := 48 }
      ∧ aget {} t.obj.stripes 0 = { valid := true, tier := 0, gran := 1, chmask := 0xFF, start := 0, len := 384, chofs := 0 } := by
  obtain ⟨x, hx⟩ := Option.isSome_iff_exists.mp hs
  have hx0 : x.state = 0 := by
    rwa [State.chan, aget_eq_afind, hx, Option.getD_some] at h0
  simp only [exec, execMemoryTrainingDone, hp, Bool.not_true, Bool.false_eq_true, if_false]
  refine ⟨_, rfl, ?_, rfl⟩
  rw [State.chan, aget_eq_afind, afind_map_of_key, hx]
  · simp [hx0, hi]
  · intro y
    split
    · rfl
    · split <;> rfl

/-! ### Function level reset (R389) -/

theorem State.irqSrc_msix (s : State) (v j : Nat) : (s.msix v).irqSrc j = s.irqSrc j := by
  unfold State.msix
  split <;> rfl

theorem State.irqSrc_irqDeliver (s : State) (j : Nat) : s.irqDeliver.irqSrc j = s.irqSrc j := by
  refine foldl_inv (fun t : State => t.irqSrc j = s.irqSrc j) _ (fun t c h => ?_) _ s rfl
  split
  · exact h
  · split <;> exact h

theorem State.irqSrc_irqPend_ne (s : State) {i j : Nat} (h : i ≠ j) : (s.irqPend i).irqSrc j = s.irqSrc j := by
  unfold State.irqPend
  dsimp only
  rw [State.irqSrc_irqDeliver]
  split
  · rw [State.irqSrc_msix, State.irqSrc_setIrq_ne s _ h]
  · rw [State.irqSrc_setIrq_ne s _ h]

theorem State.irqSrc_irqEvent_ne (s : State) {i j : Nat} (h : i ≠ j) : (s.irqEvent i).irqSrc j = s.irqSrc j := by
  unfold State.irqEvent
  dsimp only
  split
  · exact State.irqSrc_setIrq_ne s _ h
  · split
    · exact State.irqSrc_setIrq_ne s _ h
    · rw [State.irqSrc_irqPend_ne _ h, State.irqSrc_setIrq_ne s _ h]

/-- Driving a source leaves every other source. -/
theorem State.irqSrc_level_ne (s : State) {i j : Nat} (b : Bool) (h : i ≠ j) : (s.level i b).irqSrc j = s.irqSrc j := by
  have set (x : IrqSrc) := State.irqSrc_setIrq_ne s x h
  unfold State.level
  dsimp only
  split
  · rfl
  · split
    · exact set _
    · split
      · rw [State.irqSrc_irqEvent_ne _ h, set]
      · rw [State.irqSrc_irqDeliver, State.irqSrc_setIrq_ne _ _ h, set]
      · split
        · rw [State.irqSrc_irqEvent_ne _ h, set]
        · exact set _

/-- Two states differ at most in what the end of a function level reset changes: sessions, the configuration session, counters, registers, and the
interrupt controller, of whose sources only the window's, the completion queues' and the configuration's are driven. -/
def State.FlrOnly (s t : State) : Prop :=
  (t = { s with sec := t.sec, cfg := t.cfg, staged := t.staged, obj := t.obj, cnt := t.cnt, regs := t.regs, irq := t.irq, msixPba := t.msixPba
                out := t.out, deliv := t.deliv })
    ∧ ∀ n, n ≠ 681 → n ≠ 682 → n ≠ 683 → n ≠ 3 → t.irqSrc n = s.irqSrc n

theorem State.FlrOnly.trans {s t u : State} (h : s.FlrOnly t) (k : t.FlrOnly u) : s.FlrOnly u := by
  refine ⟨?_, fun n h1 h2 h3 h4 => (k.2 n h1 h2 h3 h4).trans (h.2 n h1 h2 h3 h4)⟩
  rw [k.1, h.1]

theorem State.FlrOnly.refl (s : State) : s.FlrOnly s := ⟨rfl, fun _ _ _ _ _ => rfl⟩

theorem State.flrOnly_level (s : State) (b : Bool) {i : Nat} (hi : i = 681 ∨ i = 682 ∨ i = 683 ∨ i = 3) : s.FlrOnly (s.level i b) := by
  refine ⟨?_, fun n h1 h2 h3 h4 => State.irqSrc_level_ne s b (by omega)⟩
  have only := State.irqOnly_level s i b
  unfold State.IrqOnly at only
  rw [only]

theorem State.flrOnly_endSession (s : State) (n : Nat) : s.FlrOnly (s.endSession n) := by
  unfold State.endSession
  dsimp only
  split <;> exact ⟨rfl, fun _ _ _ _ _ => rfl⟩

theorem State.flrOnly_closeSession_cfgCause (s : State) : s.FlrOnly (s.closeSession.cfgCause 4) := by
  have close : s.FlrOnly { s.closeSession with regs := aset s.closeSession.regs 0xC030 (aget 0 s.closeSession.regs 0xC030 ||| BitVec.ofNat 32 (2 ^ 4)) } :=
    ⟨rfl, fun _ _ _ _ _ => rfl⟩
  exact close.trans (State.flrOnly_level _ _ (by omega))

theorem State.flrOnly_winRelease (s : State) : ({ s with hwin := none } : State).FlrOnly s.winRelease := State.flrOnly_level _ _ (by omega)

theorem State.flrOnly_cqLevel (s : State) : s.FlrOnly s.cqLevel := State.flrOnly_level _ _ (by omega)

/-- A function level reset clears the records of the host function, then drives sources and ends sessions. -/
theorem State.flr_only (s : State) (perst : Bool) :
    ∃ u : State, u.FlrOnly (s.flr perst) ∧ u.bar2 = [] ∧ u.hwin = none ∧ (∀ x ∈ u.rings, 32 ≤ x.1) ∧ u.t0 = s.t0 ∧ u.slice = s.slice
      ∧ u.tier = s.tier ∧ u.cores = s.cores ∧ u.msixMask = List.range 64 ∧ ∀ n, (u.irqSrc n).hpend = false := by
  unfold State.flr
  extract_lets host obj sec s1 s2 s3
  have driven : ({ s1 with hwin := none } : State).FlrOnly s2 :=
    (s1.flrOnly_winRelease.trans (State.flrOnly_level _ false (by omega))).trans (State.flrOnly_cqLevel _)
  have ended : s2.FlrOnly s3 := foldl_inv (fun u : State => s2.FlrOnly u) _ (fun u x h => h.trans (u.flrOnly_endSession x.1)) _ s2 (.refl s2)
  refine ⟨{ s1 with hwin := none }, ?_, rfl, rfl, ?_, rfl, rfl, rfl, rfl, rfl, fun n => ?_⟩
  · clear_value s1 s2 s3
    split
    · exact (driven.trans ended).trans s3.flrOnly_closeSession_cfgCause
    · exact driven.trans ended
  · intro x hx
    simpa using (List.mem_filter.mp hx).2
  · exact congrArg IrqSrc.hpend (aget_map_snd (d := {}) (f := fun x : IrqSrc => { x with hpend := false }) rfl s.irq n)

/-! ### Core reset (R473) -/

theorem State.rstBegin_waiting (s : State) (l p : Nat) :
    State.rstBegin { s with coreRst := some { l := l, p := p, begun := false } }
      = { s with coreRst := some { l := l, p := p, begun := !(s.core p).inCommit } } := by
  change (if !false && !(s.core p).inCommit then _ else _) = _
  cases (s.core p).inCommit <;> rfl

theorem State.coreReset_free {s : State} {c p : Nat} (hr : s.coreRst = none) (hc : s.phys c = some p) :
    s.coreReset c = { s with coreRst := some { l := c, p := p, begun := !(s.core p).inCommit } } := by
  rw [← State.rstBegin_waiting]
  simp only [State.coreReset, hr, hc, Option.isSome_none, Bool.false_eq_true, if_false]

theorem State.endCoreReset_clears {s : State} (r : CoreRst) (hf : ∀ f ∈ s.frames, f.run = false) :
    (s.endCoreReset r).coreRst = none ∧ (s.endCoreReset r).core r.p = { fence := (s.core r.p).fence } ∧ (s.endCoreReset r).t0 = s.t0
      ∧ (s.endCoreReset r).slice = s.slice := by
  have still (n : Nat) : (s.frames.getD n {}).run = false := by
    rw [List.getD_eq_getElem?_getD]
    cases h : s.frames[n]? with
    | none => rfl
    | some f => exact hf f (List.mem_of_getElem? h)
  have runs : ((List.range 4).filter fun n => let f := s.frames.getD n {}; f.run && f.cores.contains r.l) = [] := by
    refine List.filter_eq_nil_iff.mpr fun n _ => ?_
    simp only [still, Bool.false_and, Bool.false_eq_true, not_false_eq_true]
  obtain ⟨ob, pins⟩ := s.releasePins_only r.p
  unfold State.endCoreReset
  rw [runs]
  dsimp only [List.foldl_nil]
  rw [pins]
  have only := State.irqOnly_irqCore
    { ((State.modCore { s with obj := ob } r.p fun c => { c with pins := [] }).modCore r.p fun c => { fence := c.fence }) with coreRst := none } r.p
  refine ⟨only.coreRst, ?_, only.t0, only.slice⟩
  rw [only.core]
  refine (State.core_modCore_self (State.modCore { s with obj := ob } r.p fun c => { c with pins := [] }) r.p fun c => { fence := c.fence }).trans ?_
  rw [State.core_modCore_self]
  rfl

theorem exec_coreResetDone_begun {s : State} {r : CoreRst} (hp : s.powered = true) (hr : s.coreRst = some r) (hb : r.begun = true)
    (hf : s.isFenced r.p = false) : exec .coreResetDone s = .next (s.endCoreReset r) := by
  simp only [exec, execCoreResetDone, hr, hp, hf, hb, Bool.not_true, Bool.false_eq_true, if_false, if_true]

/-! ### Group reset (R474) -/

theorem State.devId_sendCtl (s : State) (d : Nat) (m : CtlMsg) : (s.sendCtl d m).devId = s.devId := by
  rw [State.devId, State.sendCtl, State.aget_regs_hxSend _ _ _ _ (by decide), State.devId]

/-- Telling the members leaves this device's number. -/
theorem State.linkOnly_sendReset (s : State) (l : List Nat) :
    s.LinkOnly (l.foldl (fun s d => s.sendCtl d .reset) s) ∧ (l.foldl (fun s d => s.sendCtl d .reset) s).devId = s.devId :=
  foldl_inv (fun u : State => s.LinkOnly u ∧ u.devId = s.devId) _
    (fun u d ⟨only, dev⟩ => ⟨only.trans (u.linkOnly_sendCtl d .reset), (u.devId_sendCtl d .reset).trans dev⟩) l s ⟨.refl s, rfl⟩

theorem State.groupReset_anchor {s : State} (ha : s.isAnchor = true) (hm : ∀ d, d < 64 → bitAt s.gmask d = true → d ∈ s.roster)
    (hd : s.devId < 64) (hs : bitAt s.gmask s.devId = true) : ∃ u : State, s.LinkOnly u ∧ s.groupReset = u.warmReset 3 := by
  have members : (maskList 64 s.gmask).all (fun d => s.roster.contains d) = true := by
    rw [List.all_eq_true]
    intro d h
    obtain ⟨hlt, hb⟩ := (mem_maskList ..).1 h
    exact List.contains_iff_mem.mpr (hm d hlt hb)
  have self : s.devId ∈ maskList 64 s.gmask := (mem_maskList ..).2 ⟨hd, hs⟩
  obtain ⟨told, dev⟩ := s.linkOnly_sendReset ((maskList 64 s.gmask).filter fun d => d ≠ s.devId)
  refine ⟨_, told, ?_⟩
  rw [State.groupReset]
  simp only [ha, members, Bool.not_true, Bool.or_self, Bool.false_eq_true, if_false]
  rw [if_pos]
  rw [dev]
  exact List.contains_iff_mem.mpr self

theorem exec_groupReset_nonmember {s : State} {d : Nat} (hp : s.powered = true) (hd : d < 64) (hb : bitAt s.gmask d = true) (hn : d ∉ s.roster) :
    exec .groupReset s = .next { s with rstStat := s.rstStat ||| 0x10 } := by
  have outside : (maskList 64 s.gmask).all (fun d => s.roster.contains d) = false := by
    rw [List.all_eq_false]
    exact ⟨d, (mem_maskList ..).2 ⟨hd, hb⟩, by simpa using hn⟩
  simp only [exec, execGroupReset, State.groupReset, hp, outside, Bool.not_false, Bool.or_true, if_true]

/-- Settles O36: a boot for the cold and the warm resets, and one lemma above for each of the others. -/
theorem resetsLeaveTheResetState : Obligations.ResetsLeaveTheResetState := by
  refine ⟨?cold, ?warm, ?training, ?flr, ?coreReset, ?coreResetDone, ?groupReset, ?nonmember⟩
  case cold =>
    intro s b
    obtain ⟨u, boots, slice, tier, key, pending, flash, fences⟩ := s.coldReset_boots
    obtain ⟨left, unsealed⟩ := u.booted_boot 0
    refine ⟨{ s.coldReset with powered := b }, rfl, rfl, ?_⟩
    dsimp only
    rw [boots]
    refine ⟨left.t0, left.slice.trans slice, left.tier.trans tier, fun idle => ?_, left.t3Key.trans key, left.epoch, left.rings, unsealed, left.rstLast,
      left.pending.trans pending, fun idle lost => ?_⟩
    · rw [left.flash, flash, State.flashAbandon_idle idle]
    · rw [State.flashAbandon_idle idle] at fences
      rw [left.fences, left.fl]
      exact fences lost
  case warm =>
    rintro s w hp rfl
    refine ⟨_, _, _, exec_sysRstN hp, exec_warmReset hp, exec_groupResetMessage_anchor hp, (s.booted_warmReset 1).rstLast, (s.booted_warmReset 2).rstLast,
      (s.booted_warmReset 3).rstLast, fun t ht => ?_⟩
    obtain ⟨last, rfl⟩ : ∃ last, t = s.warmReset last := by
      rcases ht with rfl | rfl | rfl
      exacts [⟨1, rfl⟩, ⟨2, rfl⟩, ⟨3, rfl⟩]
    have left := s.booted_warmReset last
    obtain ⟨sealed, scrub⟩ := s.warmReset_sealed last
    exact ⟨left.t0, left.slice, left.tier, left.flash, left.fences, left.t3Key, left.epoch, left.rings, left.flip, left.bar2, left.sram, sealed, scrub,
      left.pending⟩
  case training =>
    intro s l i hp hi h0 _ hs
    exact exec_memoryTrainingDone_stack hp hi h0 hs
  case flr =>
    intro s b hp
    obtain ⟨u, ⟨only, sources⟩, bar2, hwin, rings, t0, slice, tier, cores, mask, hpend⟩ := s.flr_only b
    refine ⟨s.flr b, by simp only [exec, execFlr, hp, if_true], ?_⟩
    refine ⟨by rw [only, bar2], by rw [only, hwin], by rw [only]; exact rings, by rw [only, t0], by rw [only, slice], by rw [only, tier],
      by rw [only, cores], by rw [only, mask], fun n => ?_⟩
    by_cases driven : n = 681 ∨ n = 682 ∨ n = 683 ∨ n = 3
    · exact .inr driven
    · push Not at driven
      obtain ⟨h1, h2, h3, h4⟩ := driven
      rw [sources n h1 h2 h3 h4]
      exact .inl (hpend n)
  case coreReset =>
    intro s c p hp hr hc
    refine ⟨s.coreReset c, by simp only [exec, execCoreReset, hp, if_true], ?_⟩
    rw [State.coreReset_free hr hc]
    exact ⟨rfl, rfl⟩
  case coreResetDone =>
    intro s r hp hr hb hf hruns
    exact ⟨_, exec_coreResetDone_begun hp hr hb hf, State.endCoreReset_clears r hruns⟩
  case groupReset =>
    intro s hp ha hm hd hs
    obtain ⟨u, told, reset⟩ := State.groupReset_anchor ha hm hd hs
    have left := u.booted_warmReset 3
    refine ⟨u.warmReset 3, ?_, left.rstLast, left.slice.trans ?_, left.t0⟩
    · simp only [exec, execGroupReset, hp, if_true, reset]
    · unfold State.LinkOnly State.PortOnly at told
      rw [told]
  case nonmember =>
    intro s d hp hd hb hn
    exact exec_groupReset_nonmember hp hd hb hn

end Sys2Proof.Machine
end

section
/-! Proofs of the statement of the commands that configure (R306, R396 to R398, R414 to R416, R421, R426, R450): each command's effect, and what
its completion leaves of it. -/

namespace Sys2Proof.Machine

/-! ### What a completion changes (R394, R397) -/

/-- Two states differ at most in what the completion of a host ring's command changes: rings, what is sent out, and the interrupt controller. -/
def State.DoneOnly (s t : State) : Prop := t = { s with rings := t.rings, irq := t.irq, msixPba := t.msixPba, out := t.out, deliv := t.deliv }

theorem State.DoneOnly.trans {s t u : State} (h : s.DoneOnly t) (k : t.DoneOnly u) : s.DoneOnly u := by
  unfold State.DoneOnly at *
  rw [k, h]

theorem State.DoneOnly.refl (s : State) : s.DoneOnly s := rfl

/-- What does not look at the rings, at what is sent out or at the interrupt controller reads the same after a completion. -/
theorem State.DoneOnly.kept {α : Type} {s t : State} (h : s.DoneOnly t) (f : State → α)
    (hf : ∀ (u : State) rings irq pba out deliv,
      f { u with rings := rings, irq := irq, msixPba := pba, out := out, deliv := deliv } = f u := by intros; rfl) : f t = f s := by
  rw [h, hf]

theorem State.IrqOnly.doneOnly {s t : State} (h : s.IrqOnly t) : s.DoneOnly t := by
  unfold State.IrqOnly at h
  unfold State.DoneOnly
  rw [h]

theorem State.doneOnly_setRing (s : State) (r : Nat) (x : Ring) : s.DoneOnly (s.setRing r x) := rfl

theorem State.doneOnly_cqWrite (s : State) (r : Nat) (e : List Byte) (noirq : Bool) : s.DoneOnly (s.cqWrite r e noirq) := by
  unfold State.cqWrite
  extract_lets x n a tail e' u v
  have written : s.DoneOnly v := (State.doneOnly_setRing s r _).trans (State.irqOnly_emit u _).doneOnly
  clear_value v
  split
  · exact written.trans (State.irqOnly_msix v _).doneOnly
  · exact written

theorem State.doneOnly_cqPost (s : State) (r : Nat) (j : RingJob) (k : Compl) : s.DoneOnly (s.cqPost r j k) := by
  unfold State.cqPost
  dsimp only
  split
  · exact (State.doneOnly_setRing s r _).trans (State.doneOnly_cqWrite ..)
  · exact (State.doneOnly_setRing s r _).trans (State.irqOnly_level ..).doneOnly

theorem State.doneOnly_ringSettle (s : State) (r n : Nat) : s.DoneOnly (s.ringSettle r n) := by
  induction n generalizing s with
  | zero => exact .refl s
  | succ n ih =>
    unfold State.ringSettle
    split
    · split
      · exact .refl s
      · exact (State.doneOnly_cqPost ..).trans (ih _)
    · exact .refl s

theorem State.doneOnly_ringDone (s : State) {r : Nat} (j : RingJob) (k : Compl) (hr : r < 17) : s.DoneOnly (s.ringDone r j k) := by
  rw [State.ringDone, if_pos (by omega), State.hostDone]
  exact (State.doneOnly_cqPost ..).trans (State.doneOnly_ringSettle ..)

/-- Two states have the same rings, and the same registers of rings. -/
def State.RingsKept (s t : State) : Prop :=
  t.rings = s.rings ∧ ∀ d o, 0x200000 ≤ o → o < 0x201000 → aget d t.regs o = aget d s.regs o

theorem State.RingsKept.refl (s : State) : s.RingsKept s := ⟨rfl, fun _ _ _ _ => rfl⟩

theorem State.RingsKept.trans {s t u : State} (h : s.RingsKept t) (k : t.RingsKept u) : s.RingsKept u :=
  ⟨k.1.trans h.1, fun d o h1 h2 => (k.2 d o h1 h2).trans (h.2 d o h1 h2)⟩

theorem State.ringsKept_of_eq {s t : State} (h : t.rings = s.rings) (k : t.regs = s.regs) : s.RingsKept t := ⟨h, fun _ _ _ _ => by rw [k]⟩

theorem State.IrqOnly.ringsKept {s t : State} (h : s.IrqOnly t) : s.RingsKept t := State.ringsKept_of_eq h.rings h.regs

theorem State.ringsKept_setReg (s : State) {o : Nat} (v : W32) (ho : o < 0x200000) : s.RingsKept { s with regs := aset s.regs o v } :=
  ⟨rfl, fun _ _ h1 _ => aget_aset_ne _ _ _ (by omega)⟩

theorem State.ringsKept_raise (s : State) {cause : Nat} (inten src : Nat) (d bits : W32) (hc : cause < 0x200000) :
    s.RingsKept (s.raise cause inten src d bits) :=
  (s.ringsKept_setReg _ hc).trans (State.irqOnly_level ..).ringsKept

/-- A command whose effect ends at once, and leaves the rings, completes with the status that the effect answers. -/
theorem State.HostCmd.answers {s t : State} {r opc : Nat} {c : BitVec 512} {k : Compl} (h : s.HostCmd r opc c) (payload : List Byte)
    {eff : State → Nat → RingJob → Ans} (he : eff s r { cmd := c } = .done t k) (kept : s.RingsKept t) :
    s.Completes (s.onRing r opc payload eff) r c k ∧ t.DoneOnly (s.onRing r opc payload eff) ∧ t.out ⊆ (s.onRing r opc payload eff).out := by
  rw [h.runs, State.runHere_done he]
  obtain ⟨-, hr, -, -, -, -, -, hc⟩ := h
  obtain ⟨rings, regs⟩ := kept
  have ring : t.ring r = s.ring r := by rw [State.ring, State.ring, rings]
  have cfg : t.ringCfg r = s.ringCfg r := by rw [State.ringCfg, State.ringCfg, regs _ _ (by omega) (by omega)]
  have sq : t.sqSize r = s.sqSize r := by rw [State.sqSize, State.sqSize, cfg]
  have cq : t.cqSize r = s.cqSize r := by rw [State.cqSize, State.cqSize, cfg]
  have base : t.cqBase r = s.cqBase r := by
    rw [State.cqBase, State.cqBase, regs _ _ (by omega) (by omega), regs _ _ (by omega) (by omega)]
  obtain ⟨sent, done⟩ := State.ringDone_completes (s := t) (j := { cmd := c }) k hr (by rwa [ring, cq])
  refine ⟨?_, State.doneOnly_ringDone t _ k hr, sent.2⟩
  rwa [State.Completes, ring, sq, base] at done

/-- A command that has begun, and whose effect leaves the rings from there, goes on. -/
theorem State.HostCmd.begins {s t u : State} {r opc : Nat} {c : BitVec 512} (h : s.HostCmd r opc c) (payload : List Byte)
    {eff : State → Nat → RingJob → Ans} (he : eff s r { cmd := c } = .wait t) (hu : t.rings = (u.ringBegin r { cmd := c }).rings) :
    s.onRing r opc payload eff = t ∧ t.GoesOn r c := by
  rw [h.runs, State.runHere_wait he]
  obtain ⟨-, hr, -⟩ := h
  have goes := State.goesOn_ringBegin u c hr
  refine ⟨rfl, ?_⟩
  rwa [State.GoesOn, State.ring, hu]

/-! ### MIGRATE (R305, R306) -/

/-- What MIGRATE asked of a migration: the object, its destination image, and the ring that it came by. -/
def Migration.asked (m : Migration) : Nat × ObjEnt × Option Nat := (m.obj, m.dest, m.ring)

theorem Migration.asked_take (m : Migration) (quota : Nat) (out : List Nat) : (m.take quota out).asked = m.asked :=
  foldl_keeps Migration.asked _ (fun x ch => by split <;> rfl) _ { m with wait := [] }

theorem map_asked_fillSlots (quota : Nat) (done l : List Migration) :
    (fillSlots quota done l).map Migration.asked = (done ++ l).map Migration.asked := by
  induction l generalizing done with
  | nil => rw [fillSlots, List.append_nil]
  | cons m t ih =>
    rw [fillSlots, ih]
    simp [Migration.asked_take]

/-- The migrations are the same, each as it was asked for, and so are the rings and what has been sent out. -/
def State.SameMigs (s t : State) : Prop :=
  t.obj.migs.map Migration.asked = s.obj.migs.map Migration.asked ∧ t.rings = s.rings ∧ t.out = s.out

theorem State.SameMigs.trans {s t u : State} (h : s.SameMigs t) (k : t.SameMigs u) : s.SameMigs u :=
  ⟨k.1.trans h.1, k.2.1.trans h.2.1, k.2.2.trans h.2.2⟩

theorem State.SameMigs.refl (s : State) : s.SameMigs s := ⟨rfl, rfl, rfl⟩

theorem State.sameMigs_modMig (s : State) (i : Nat) {f : Migration → Migration} (hf : ∀ m, (f m).asked = m.asked) : s.SameMigs (s.modMig i f) := by
  refine ⟨?_, rfl, rfl⟩
  rw [State.modMig, List.map_map]
  refine List.map_congr_left fun m _ => ?_
  rw [Function.comp_apply]
  split
  · exact hf m
  · rfl

theorem State.sameMigs_migFill (s : State) : s.SameMigs s.migFill := ⟨map_asked_fillSlots .., rfl, rfl⟩

theorem State.sameMigs_bumpGen (s : State) (o : Nat) : s.SameMigs (s.bumpGen o) := by
  unfold State.bumpGen
  dsimp only
  split
  · exact ⟨rfl, rfl, rfl⟩
  · exact .refl s

theorem State.sameMigs_setObj (s : State) (o : Nat) (e : ObjEnt) : s.SameMigs (s.setObj o e) := ⟨rfl, rfl, rfl⟩

theorem State.sameMigs_migNeed (s : State) (i g : Nat) (dest : ObjEnt) : s.SameMigs (s.migNeed i g dest) :=
  (State.sameMigs_modMig s i (f := fun m => { m with held := [], wait := s.imageSegs (s.objEnt i) g ++ s.imageSegs dest g }) fun _ => rfl).trans
    (State.sameMigs_migFill _)

theorem State.sameMigs_migBegin (s : State) (m : Migration) : s.SameMigs (s.migBegin m) := by
  unfold State.migBegin
  extract_lets s1 e s2
  have marked : s.SameMigs s2 := (s.sameMigs_bumpGen m.obj).trans (s1.sameMigs_setObj ..)
  clear_value s2
  exact (marked.trans (s2.sameMigs_modMig m.obj (f := fun m => { m with running := true }) fun _ => rfl)).trans (State.sameMigs_migNeed ..)

theorem State.sameMigs_migNext (s : State) : s.SameMigs s.migNext := by
  unfold State.migNext
  split
  · exact .refl s
  · split
    · exact .refl s
    · exact s.sameMigs_migBegin _

/-- A migration that is accepted takes its place among the migrations. -/
theorem State.startMig_asked (s : State) (i : Nat) (dest : ObjEnt) (ring : Option Nat) :
    (∃ m ∈ (s.startMig i dest ring).obj.migs, m.obj = i ∧ m.dest = dest ∧ m.ring = ring) ∧ (s.startMig i dest ring).rings = s.rings
      ∧ (s.startMig i dest ring).out = s.out := by
  obtain ⟨asked, rings, out⟩ := State.sameMigs_migNext
    { s with obj := { s.obj with migs := s.obj.migs ++ [{ obj := i, dest := dest, next := 0, running := false, ring := ring }] } }
  refine ⟨?_, rings, out⟩
  have here : (i, dest, ring) ∈ (s.startMig i dest ring).obj.migs.map Migration.asked := by
    rw [State.startMig, asked]
    simp [Migration.asked]
  obtain ⟨m, hm, eq⟩ := List.mem_map.mp here
  simp only [Migration.asked, Prod.mk.injEq] at eq
  exact ⟨m, hm, eq⟩

/-- The destination image that a MIGRATE names (R396). -/
def migDestOf (c : BitVec 512) : MigDest :=
  { base := cmdField c 24 6, tier := bitsOf (cmdField c 18 1) 0 2, stripe := bitsOf (cmdField c 18 1) 2 4, muslin := bitAt (cmdField c 18 1) 6
    mw := cmdField c 19 1 % 4, metaObj := cmdField c 20 2 }

theorem migrateCmd_accepted {s : State} (r : Nat) {c : BitVec 512} (hv : (s.objEnt (cmdField c 16 2)).valid = true)
    (hm : ∀ m ∈ s.obj.migs, m.obj ≠ cmdField c 16 2) (hr : s.migRule (cmdField c 16 2) ((s.objEnt (cmdField c 16 2)).moved (migDestOf c)) = none) :
    migrateCmd s r { cmd := c }
      = .wait ((s.ringBegin r { cmd := c }).startMig (cmdField c 16 2) ((s.objEnt (cmdField c 16 2)).moved (migDestOf c)) (some r)) := by
  have free : (s.obj.migs.any fun m => decide (m.obj = cmdField c 16 2)) = false := by simpa using hm
  rw [migDestOf] at hr ⊢
  simp only [migrateCmd, hv, free, hr, Bool.not_true, Bool.false_eq_true, if_false]

/-! ### STAGE, CHECK, COMMIT and ABORT (R414 to R416) -/

theorem stageCmd_opens {s : State} {r : Nat} {c : BitVec 512} (list : List (Nat × W32)) (ho : bitAt (cmdField c 36 1) 0 = true)
    (hp : bitAt (cmdField c 36 1) 1 = false) (hs : s.cfg.st = 0) (hn : cmdField c 32 4 = 0) :
    stageCmd list s r { cmd := c } = ok (s.openSession false) := by
  simp [stageCmd, ho, hp, hs, hn]

theorem stageCmd_writes {s : State} {r o : Nat} {c : BitVec 512} {v : BitVec 32} (hr : r < 17) (ho : bitAt (cmdField c 36 1) 0 = false)
    (hs : s.cfg.st = 1) (hl : s.cfg.locked = false) (hn : cmdField c 32 4 = 1) (hf : (stagedReg o).isSome = true) :
    stageCmd [(o, v)] s r { cmd := c } = ok { s with staged := aset s.staged o v } := by
  have field : stagedField o = true := by rw [stagedField, hf, Bool.true_or]
  have host : r < 32 := by omega
  simp [stageCmd, host, ho, hn, field, State.stageWrite, State.setStaged, hs, hl, hf]

theorem State.runCheck_passes {s : State} (h : s.checkDetail = none) : s.runCheck = ({ s with regs := aset s.regs 0xC018 0 }, none) := by
  simp only [State.runCheck, h]

theorem State.runCheck_fails {s : State} {d : Nat} (h : s.checkDetail = some d) :
    s.runCheck = ((State.bump { s with regs := aset s.regs 0xC018 (BitVec.ofNat 32 d) } 0xC044 1).cfgCause 1, some d) := by
  simp only [State.runCheck, h]

theorem checkCmd_passes {s : State} (r : Nat) (j : RingJob) (h : s.checkDetail = none) :
    checkCmd s r j = ok { s with regs := aset s.regs 0xC018 0 } := by
  rw [checkCmd, State.runCheck_passes h]

theorem checkCmd_fails {s : State} (r : Nat) (j : RingJob) {d : Nat} (h : s.checkDetail = some d) :
    checkCmd s r j
      = .done ((State.bump { s with regs := aset s.regs 0xC018 (BitVec.ofNat 32 d) } 0xC044 1).cfgCause 1) { status := stCheckFail, detail := d } := by
  rw [checkCmd, State.runCheck_fails h]
  rfl

theorem State.ringsKept_cfgCause (s : State) (bit : Nat) : s.RingsKept (s.cfgCause bit) := s.ringsKept_raise _ _ _ _ (by decide)

/-- Setting a bit of CFG_CAUSE writes that register and drives its source. -/
theorem State.cfgCause_only (s : State) (bit : Nat) :
    ({ s with regs := aset s.regs 0xC030 (aget 0 s.regs 0xC030 ||| BitVec.ofNat 32 (2 ^ bit)) } : State).IrqOnly (s.cfgCause bit) :=
  State.irqOnly_level ..

theorem commitCmd_begins {s : State} (r : Nat) {c : BitVec 512} (hs : s.cfg.st ≠ 0) (hc : s.checkDetail = none) :
    commitCmd s r { cmd := c }
      = .wait ((State.ringBegin { s with regs := aset s.regs 0xC018 0 } r { cmd := c }).beginFlip ((s.epoch + 1) % 16) (some r) none) := by
  simp only [commitCmd, Bool.false_eq_true, if_false, if_neg hs, State.runCheck_passes hc]

theorem State.beginFlip_flip (s : State) (epoch : Nat) (ring : Option Nat) :
    ∃ f, (s.beginFlip epoch ring none).flip = some f ∧ f.epoch = epoch ∧ f.flipped = [] ∧ f.ring = ring ∧ f.regs = s.staged :=
  ⟨_, rfl, rfl, rfl, rfl, rfl⟩

theorem State.closeSession_cfgCause (s : State) (bit : Nat) :
    (s.closeSession.cfgCause bit).cfg = {} ∧ (s.closeSession.cfgCause bit).staged = [] ∧ (s.closeSession.cfgCause bit).obj.staged = []
      ∧ (s.closeSession.cfgCause bit).epoch = s.epoch ∧ (s.closeSession.cfgCause bit).lmap = s.lmap
      ∧ (s.closeSession.cfgCause bit).obj.table = s.obj.table ∧ s.RingsKept (s.closeSession.cfgCause bit) := by
  have cause := s.closeSession.cfgCause_only bit
  refine ⟨cause.cfg, cause.staged, ?_, cause.epoch, cause.lmap, ?_, (State.ringsKept_of_eq rfl rfl).trans (s.closeSession.ringsKept_cfgCause bit)⟩
  all_goals
    rw [cause.obj]
    rfl

theorem abortCmd_closes {s : State} (r : Nat) (j : RingJob) (hs : s.cfg.st ≠ 0) : abortCmd s r j = ok (s.closeSession.cfgCause 4) := by
  rw [abortCmd, if_neg hs]

/-! ### FENCE and UNFENCE (R421, R426) -/

theorem State.ringsKept_frameFail (s : State) (n : Nat) : s.RingsKept (s.frameFail n) := by
  unfold State.frameFail
  dsimp only
  split
  · exact .refl s
  · refine State.RingsKept.trans ?_ (State.ringsKept_raise _ _ _ _ _ (by decide))
    refine foldl_inv (fun t : State => s.RingsKept t) _ (fun t l h => ?_) _ _ (.refl s)
    split
    · exact h
    · exact h

theorem State.ringsKept_failRun (s : State) (fr : Option Nat) : s.RingsKept (s.failRun fr) := by
  cases fr with
  | none => exact .refl s
  | some n => exact s.ringsKept_frameFail n

/-- A fence marks the map entry of its core and takes it off the spares; the rings stay. -/
theorem State.fenceCore_maps {s : State} {p : Nat} (cause : Nat) (hu : p ∉ s.fused) (hf : ∀ f ∈ s.fences, f.p ≠ p) :
    (∀ x ∈ (s.fenceCore p cause).lmap, x.2.phys = p → x.2.valid = false) ∧ p ∉ (s.fenceCore p cause).spares
      ∧ s.RingsKept (s.fenceCore p cause) := by
  have new : (s.fused.contains p || s.fences.any fun f => decide (f.p = p)) = false := by
    simpa using ⟨hu, hf⟩
  obtain ⟨ob, released⟩ := State.releasePins_only s p
  rw [State.fenceCore, new, if_neg Bool.false_ne_true]
  extract_lets c run x s1 s2 s3
  have pins : s.RingsKept s1 := State.ringsKept_of_eq (by rw [show s1 = _ from released]; rfl) (by rw [show s1 = _ from released]; rfl)
  have rings : s.RingsKept s3 := pins
  have level := State.irqOnly_level s3 4 true
  have failed := (State.stopOnly_failRun (s3.level 4 true) run).1
  refine ⟨fun y hy hp => ?_, fun hp => ?_, (rings.trans level.ringsKept).trans (State.ringsKept_failRun ..)⟩
  · rw [failed] at hy
    dsimp only at hy
    rw [level.lmap] at hy
    obtain ⟨z, -, rfl⟩ := List.mem_map.mp hy
    by_cases e : z.2.phys = p
    · rw [if_pos e]
    · rw [if_neg e] at hp
      exact absurd hp e
  · rw [failed] at hp
    dsimp only at hp
    rw [level.spares] at hp
    simpa using (List.mem_filter.mp hp).2

theorem fenceCmd_physical {s : State} (r : Nat) {c : BitVec 512} (hb : bitAt (cmdField c 16 2) 15 = true) (hp : cmdField c 16 2 % 1024 < 512)
    (hu : cmdField c 16 2 % 1024 ∉ s.fused) : fenceCmd s r { cmd := c } = ok (s.fenceCore (cmdField c 16 2 % 1024) 8) := by
  simp [fenceCmd, hb, hp, hu]

theorem unfenceCmd_lifts {s : State} (r : Nat) {c : BitVec 512} (hf : s.isFenced (cmdField c 16 2 % 512) = true)
    (ho : (s.cluster (clusterOf (cmdField c 16 2 % 512))).oos = false) :
    unfenceCmd true s r { cmd := c } = ok (s.lift [cmdField c 16 2 % 512]) := by
  simp only [unfenceCmd, hf, ho, Bool.not_true, Bool.or_self, Bool.false_eq_true, if_false]

/-- A core whose fence is lifted is a spare without a fence. -/
theorem State.lift_one (s : State) (p : Nat) :
    (s.lift [p]).isFenced p = false ∧ p ∈ (s.lift [p]).spares ∧ ((s.lift [p]).core p).fence = {} ∧ (s.lift [p]).lmap = s.lmap
      ∧ s.RingsKept (s.lift [p]) := by
  refine ⟨?_, (mem_sins ..).2 (.inl rfl), ?_, rfl, .refl s⟩
  · simp [State.lift, State.isFenced]
  · exact congrArg Core.fence (State.core_modCore_self _ p fun c => { c with fence := {} })

/-! ### ATTEST and QUERY (R400, R450) -/

theorem attestCmd_writes {s : State} (r : Nat) {c : BitVec 512} (h : 2820 ≤ cmdField c 32 4) :
    attestCmd s r { cmd := c } = ok (s.emit (.hostWrite (cmdField c 24 8) (s.evidence (bytesOf 28 (cmdField c 36 28))))) := by
  rw [attestCmd, if_neg (Nat.not_lt.mpr h)]

/-- The results of the members of the last command that ring r relayed, as QUERY writes them. -/
def State.lastResults (s : State) (r : Nat) : List Byte :=
  (s.ring r).last.flatMap fun x => [BitVec.ofNat 8 x.2.1, BitVec.ofNat 8 x.2.2, BitVec.ofNat 8 x.1, 0]

theorem queryCmd_results {s : State} (r : Nat) {c : BitVec 512} (h : cmdField c 16 1 = 1) :
    queryCmd s r { cmd := c } = ok (s.emit (.hostWrite (cmdField c 24 8) ((s.lastResults r).take (cmdField c 32 4)))) := by
  simp only [queryCmd, h]
  rfl

/-- A command that only writes to the host, and completes. -/
theorem State.HostCmd.writes {s : State} {r opc : Nat} {c : BitVec 512} (h : s.HostCmd r opc c) (payload : List Byte)
    {eff : State → Nat → RingJob → Ans} {e : OutEvent} (he : eff s r { cmd := c } = ok (s.emit e)) :
    s.Completes (s.onRing r opc payload eff) r c {} ∧ e ∈ (s.onRing r opc payload eff).out ∧ (s.onRing r opc payload eff).cores = s.cores := by
  obtain ⟨done, only, sent⟩ := h.answers payload he (State.irqOnly_emit s e).ringsKept
  exact ⟨done, sent (List.mem_append_right _ (List.mem_singleton_self e)), only.kept State.cores⟩

/-- Settles O24: each command's effect on a ring's head is that of its lemma above, and its completion changes rings and what is sent out only. -/
theorem hostCommandsConfigure : Obligations.HostCommandsConfigure := by
  refine ⟨?migrate, ?opens, ?stages, ?passes, ?fails, ?commit, ?abort, ?fence, ?unfence, ?attest, ?query⟩
  case migrate =>
    rintro s r _ c _ h rfl hv hm rfl hr
    obtain ⟨asked, rings, out⟩ := (s.ringBegin r { cmd := c }).startMig_asked (cmdField c 16 2)
      ((s.objEnt (cmdField c 16 2)).moved (migDestOf c)) (some r)
    obtain ⟨run, goes⟩ := h.begins [] (migrateCmd_accepted r hv hm hr) rings
    refine ⟨_, rfl, ?_⟩
    rw [run]
    exact ⟨goes, asked, out⟩
  case opens =>
    intro s r c list h ho hp hs hn
    obtain ⟨done, only, -⟩ := h.answers (listBytes list) (stageCmd_opens list ho hp hs hn) (.refl s)
    exact ⟨_, rfl, done, only.kept (fun t => t.cfg.st), only.kept (fun t => t.cfg.lmap), only.kept State.staged,
      only.kept State.epoch, only.kept State.lmap⟩
  case stages =>
    intro s r o c v h ho hs hl hn hf
    have ⟨_, hr, _⟩ := h
    obtain ⟨done, only, -⟩ := h.answers (listBytes [(o, v)]) (stageCmd_writes hr ho hs hl hn hf) (.refl s)
    exact ⟨_, rfl, done, only.kept State.staged, only.kept (fun t => aget 0 t.regs o), only.kept State.cfg⟩
  case passes =>
    intro s r c h hc
    obtain ⟨done, only, -⟩ := h.answers [] (checkCmd_passes r _ hc) (s.ringsKept_setReg _ (by decide))
    exact ⟨_, rfl, done, (only.kept (fun t => aget 1 t.regs 0xC018)).trans (aget_aset_self ..), only.kept State.cfg, only.kept State.flip⟩
  case fails =>
    intro s r d c h hc
    have kept := (s.ringsKept_setReg (o := 0xC018) (BitVec.ofNat 32 d) (by decide)).trans
      (State.ringsKept_cfgCause (State.bump { s with regs := aset s.regs 0xC018 (BitVec.ofNat 32 d) } 0xC044 1) 1)
    obtain ⟨done, only, -⟩ := h.answers [] (checkCmd_fails r _ hc) kept
    have cause := State.cfgCause_only (State.bump { s with regs := aset s.regs 0xC018 (BitVec.ofNat 32 d) } 0xC044 1) 1
    refine ⟨_, rfl, done, ?_, ?_, (only.kept State.cfg).trans cause.cfg, (only.kept State.flip).trans cause.flip⟩
    · rw [only.kept State.regs, cause.regs, aget_aset_ne _ _ _ (by decide)]
      exact aget_aset_self ..
    · rw [State.count, only.kept State.cnt, cause.cnt]
      exact State.count_bump_self ..
  case commit =>
    intro s r c h hs hc
    obtain ⟨run, goes⟩ := h.begins [] (commitCmd_begins r hs hc) rfl
    obtain ⟨f, flip, epoch, flipped, ring, regs⟩ := State.beginFlip_flip (State.ringBegin { s with regs := aset s.regs 0xC018 0 } r { cmd := c })
      ((s.epoch + 1) % 16) (some r)
    refine ⟨_, f, rfl, ?_⟩
    rw [run]
    exact ⟨goes, flip, epoch, flipped, ring, regs, rfl, rfl, rfl⟩
  case abort =>
    intro s r c h hs
    obtain ⟨cfg, staged, obj, epoch, lmap, table, kept⟩ := s.closeSession_cfgCause 4
    obtain ⟨done, only, -⟩ := h.answers [] (abortCmd_closes r _ hs) kept
    exact ⟨_, rfl, done, (only.kept State.cfg).trans cfg, (only.kept State.staged).trans staged, (only.kept fun t => t.obj.staged).trans obj,
      (only.kept State.epoch).trans epoch, (only.kept State.lmap).trans lmap, (only.kept fun t => t.obj.table).trans table⟩
  case fence =>
    rintro s r _ c h hb rfl hp hu hf
    obtain ⟨marked, spare, kept⟩ := State.fenceCore_maps 8 hu hf
    obtain ⟨u, run, k, fenced, stopped, listed⟩ := State.fenceCore_new 8 hu hf
    obtain ⟨done, only, -⟩ := h.answers [] (fenceCmd_physical r hb hp hu) kept
    have fences := (State.stopOnly_failRun u run).fences.trans listed
    have core := State.core_failRun run (by rw [stopped]; rfl) (by rw [stopped]; rfl)
    rw [← fenced] at fences core
    refine ⟨_, rfl, done, (only.kept State.fences).trans fences, ?_, ?_, ?_, ?_⟩
    · rw [only.kept fun t => t.core _, core, stopped]
      rfl
    · rwa [only.kept State.spares]
    · rwa [only.kept State.lmap]
    · rw [only.kept fun t => t.core _, core, stopped]
      rfl
  case unfence =>
    rintro s r _ c h rfl hf ho
    obtain ⟨free, spare, fence, lmap, kept⟩ := s.lift_one (cmdField c 16 2 % 512)
    obtain ⟨done, only, -⟩ := h.answers [] (unfenceCmd_lifts r hf ho) kept
    exact ⟨_, rfl, done, (only.kept fun t => t.isFenced _).trans free, (only.kept State.spares).symm ▸ spare,
      (only.kept fun t => (t.core _).fence).trans fence, (only.kept State.lmap).trans lmap⟩
  case attest =>
    intro s r c h hl
    exact ⟨_, rfl, h.writes [] (attestCmd_writes r hl)⟩
  case query =>
    intro s r c h hk
    exact ⟨_, rfl, h.writes [] (queryCmd_results r hk)⟩

end Sys2Proof.Machine
end

section
/-! Proofs of the statements of security and of the management interfaces (15, 17): requests and their answers (R447 to R449), sessions and owner
status (R448, R451), sealed mode and its end (R452, R453), and the buses and JTAG (R403, R439, R490, R492). -/

namespace Sys2Proof.Machine

/-! ### Answers -/

theorem State.answer_eq (s : State) (tr code : Nat) (d : List Byte) : s.answer tr code d = { s with out := s.out ++ [.response tr code d] } := rfl

theorem State.refuse_eq (s : State) (tr : Nat) : s.refuse tr = { s with out := s.out ++ [.response tr 0x7F []] } := rfl

@[simp] theorem State.answer_sec (s : State) (tr code : Nat) (d : List Byte) : (s.answer tr code d).sec = s.sec := rfl
@[simp] theorem State.answer_sealed_ (s : State) (tr code : Nat) (d : List Byte) : (s.answer tr code d).sealed_ = s.sealed_ := rfl
@[simp] theorem State.refuse_sec (s : State) (tr : Nat) : (s.refuse tr).sec = s.sec := rfl
@[simp] theorem State.refuse_sealed_ (s : State) (tr : Nat) : (s.refuse tr).sealed_ = s.sealed_ := rfl

theorem State.getLast?_out_answer (s : State) (tr code : Nat) (d : List Byte) : (s.answer tr code d).out.getLast? = some (.response tr code d) :=
  State.getLast?_out_emit ..

theorem State.getLast?_out_refuse (s : State) (tr : Nat) : (s.refuse tr).out.getLast? = some (.response tr 0x7F []) :=
  State.getLast?_out_emit ..

/-! ### Requests outside a session -/

theorem offered_iff (l : List Nat) : (List.range 4).all l.contains = true ↔ ∀ i < 4, i ∈ l := by
  simp

/-- R449: the blocks of a request for measurements, and their answer. -/
theorem exec_getMeasurements_answers {s : State} {tr i : Nat} (nonce : List Byte) {b : List Byte} (h : (i = 0 ∧ b = [7])
    ∨ (1 ≤ i ∧ i ≤ 7 ∧ b = s.measValue i)
    ∨ (i = 0xFF ∧ b = s.measValue 1 ++ s.measValue 2 ++ s.measValue 3 ++ s.measValue 4 ++ s.measValue 5 ++ s.measValue 6 ++ s.measValue 7)) :
    exec (.getMeasurements tr i nonce) s = .next (s.answer tr 0x60 (b ++ nonce ++ s.sec.attestKey.sign (b ++ nonce))) := by
  simp only [exec, execGetMeasurements]
  rcases h with ⟨rfl, rfl⟩ | ⟨hi, hi', rfl⟩ | ⟨rfl, rfl⟩
  · rfl
  · rw [if_neg (by omega), if_pos hi']
    simp
  · simp

theorem exec_getMeasurements_refuses {s : State} {tr i : Nat} (nonce : List Byte) (h : 7 < i) (h' : i ≠ 0xFF) :
    exec (.getMeasurements tr i nonce) s = .next (s.refuse tr) := by
  simp [exec, execGetMeasurements, show i ≠ 0 by omega, show ¬ i ≤ 7 by omega, h']

/-! ### Requests inside a session -/

section Session
variable {s : State} {n : Nat} {x : Spdm}

theorem State.inSession_est (f : Spdm → State) (h : afind s.sec.sess n = some x) (he : x.est = true) : s.inSession n f = f x := by
  simp [State.inSession, h, he]

theorem next_inSession_est (f : Spdm → State) (h : afind s.sec.sess n = some x) (he : x.est = true) : (.next (s.inSession n f) : Out) = .next (f x) := by
  rw [State.inSession_est f h he]

theorem State.inSession_not_est (f : Spdm → State) (h : afind s.sec.sess n = some x) (he : x.est = false) : s.inSession n f = s.refuse x.tr := by
  simp [State.inSession, h, he]

end Session

/-- Settles O39, a request at a time. -/
theorem securityRequestsAreAnswered : Obligations.SecurityRequestsAreAnswered := by
  refine ⟨fun s tr => ⟨rfl, _, rfl⟩, ?offer, ?short, ?digests, ?cert, ?challenge, ?meas, ?noBlock, ?heartbeat, ?info⟩
  case offer =>
    intro s tr l h0 h1 h2 h3
    have offered : (List.range 4).all l.contains = true := (offered_iff l).2 fun i hi => by interval_cases i <;> assumption
    simp only [exec, execNegotiateAlgorithms, offered, if_true]
    rfl
  case short =>
    intro s tr l i hi hn
    have offered : ¬ (List.range 4).all l.contains = true := fun h => hn ((offered_iff l).1 h i hi)
    simp only [exec, execNegotiateAlgorithms, if_neg offered]
    rfl
  case digests =>
    intro s tr slot
    simp only [exec, execGetDigests]
    split <;> rfl
  case cert =>
    intro s tr slot ofs n
    have served : (decide (slot = 0) && s.certServed) = true
        ↔ slot = 0 ∧ sha3 (Memory.bytes s.flash 0x3020000 0x10000) = Config.certHash := by
      rw [Bool.and_eq_true, decide_eq_true_eq, State.certServed, State.devidCert, decide_eq_true_eq]
    simp only [exec, execGetCertificate, served]
    split <;> rfl
  case challenge =>
    intro s tr slot nonce
    simp only [exec, execChallenge]
    split <;> rfl
  case meas =>
    intro s tr i nonce b h
    exact exec_getMeasurements_answers nonce h
  case noBlock =>
    intro s tr i nonce h h'
    exact exec_getMeasurements_refuses nonce h h'
  case heartbeat =>
    intro s n x h he
    exact next_inSession_est _ h he
  case info =>
    intro s n x h he ho
    refine (next_inSession_est _ h he).trans ?_
    rw [if_neg (not_not_intro ho)]
    rfl

/-! ### Sessions that begin and end -/

theorem afind_adel_self {α : Type} (m : Amap α) (i : Nat) : afind (adel m i) i = none := by
  induction m with
  | nil => rfl
  | cons h t ih =>
    obtain ⟨k, v⟩ := h
    by_cases hk : k = i
    · simpa [adel, hk] using ih
    · simpa [adel, hk, afind] using ih

theorem afind_adel_ne {α : Type} (m : Amap α) {i j : Nat} (h : i ≠ j) : afind (adel m i) j = afind m j := by
  induction m with
  | nil => rfl
  | cons hd t ih =>
    obtain ⟨k, v⟩ := hd
    by_cases hk : k = i
    · have hj : ¬ k = j := hk ▸ h
      simpa [adel, hk, afind, h] using ih
    · by_cases hj : k = j
      · subst hj
        simp [adel, afind, hk]
      · simpa [adel, hk, afind, hj] using ih

/-- R451: the sessions and owner status after the end of one. -/
theorem State.endSession_owner {s : State} {n : Nat} (h : s.sec.owner = some n) :
    (s.endSession n).sec = { s.sec with sess := adel s.sec.sess n, owner := none, env := [], wpages := [], rpages := [] }
      ∧ (s.endSession n).count 0x60008C = (s.count 0x60008C + (s.sec.wpages.length + s.sec.rpages.length)) % 2 ^ 32 := by
  simp only [State.endSession, h, if_true]
  exact ⟨rfl, State.count_bump_self ..⟩

theorem State.endSession_other {s : State} {n : Nat} (h : s.sec.owner ≠ some n) :
    s.endSession n = { s with sec := { s.sec with sess := adel s.sec.sess n } } := by
  simp [State.endSession, h]

/-- The end of a session keeps every field of the security island but the sessions and what the owner status holds. -/
theorem State.endSession_only (s : State) (n : Nat) :
    (s.endSession n).sec.sess = adel s.sec.sess n ∧ (s.endSession n).sec.ownerKey = s.sec.ownerKey ∧ (s.endSession n).sealed_ = s.sealed_ := by
  by_cases h : s.sec.owner = some n
  · rw [(State.endSession_owner h).1]
    refine ⟨rfl, rfl, ?_⟩
    simp only [State.endSession, h, if_true]
    rfl
  · rw [State.endSession_other h]
    exact ⟨rfl, rfl, rfl⟩

theorem exec_keyExchange_free {s : State} (tr : Nat) (d : List Byte) (h : ∃ i < 4, afind s.sec.sess i = none) :
    ∃ i < 4, afind s.sec.sess i = none ∧ exec (.keyExchange tr d) s
      = .next (State.answer { s with sec := { s.sec with sess := aset s.sec.sess i { tr := tr, th := sha3 d } } } tr 0x64
          ([BitVec.ofNat 8 i] ++ Config.derive 2 [] d ++ s.sec.attestKey.sign (sha3 d))) := by
  obtain ⟨j, hj, hn⟩ := h
  cases hf : (List.range 4).find? fun i => (afind s.sec.sess i).isNone with
  | none => simpa [hn] using List.find?_eq_none.1 hf j (List.mem_range.2 hj)
  | some i =>
    have free : afind s.sec.sess i = none := by simpa using List.find?_some hf
    refine ⟨i, List.mem_range.1 (List.mem_of_find?_eq_some hf), free, ?_⟩
    simp only [exec, execKeyExchange, hf]
    rfl

theorem exec_keyExchange_full {s : State} (tr : Nat) (d : List Byte) (h : ∀ i < 4, afind s.sec.sess i ≠ none) :
    exec (.keyExchange tr d) s = .next (s.refuse tr) := by
  have full : ((List.range 4).find? fun i => (afind s.sec.sess i).isNone) = none :=
    List.find?_eq_none.2 fun i hi => by simpa using h i (List.mem_range.1 hi)
  simp only [exec, execKeyExchange, full]

/-- Settles O40, a request at a time. -/
theorem sessionsOpenAndEnd : Obligations.SessionsOpenAndEnd := by
  refine ⟨?opens, fun s tr d => exec_keyExchange_full tr d, ?finish, ?fails, ?update, ?ide, ?ends, ?refused⟩
  case opens =>
    intro s tr d h
    obtain ⟨i, hi, free, run⟩ := exec_keyExchange_free tr d h
    exact ⟨_, i, run, hi, free, afind_aset_self .., fun j hj => afind_aset_ne _ _ hj.symm, rfl, rfl, _, rfl⟩
  case finish =>
    intro s n x h he
    refine ⟨_, by simp only [exec, execFinish, h, he, Bool.false_eq_true, if_false, Bool.not_true]; rfl, ?_⟩
    exact ⟨⟨_, afind_aset_self .., rfl, rfl⟩, fun j hj => afind_aset_ne _ _ hj.symm, State.count_bump_self .., rfl⟩
  case fails =>
    intro s n x h he
    obtain ⟨sess, -, -⟩ := s.endSession_only n
    refine ⟨(s.endSession n).refuse x.tr, by simp [exec, execFinish, h, he], ?_, fun j hj => ?_, State.getLast?_out_refuse ..⟩
    · rw [State.refuse_sec, sess, afind_adel_self]
    · rw [State.refuse_sec, sess, afind_adel_ne _ hj.symm]
  case update =>
    intro s n x h he
    exact ⟨_, next_inSession_est _ h he, rfl, State.getLast?_out_answer ..⟩
  case ide =>
    intro s n x d h he
    exact ⟨_, next_inSession_est _ h he, rfl⟩
  case ends =>
    intro s n x h he
    obtain ⟨sess, key, sealed⟩ := s.endSession_only n
    refine ⟨(s.endSession n).answer x.tr 0x6C [], s.endSession n, next_inSession_est _ h he, rfl, rfl, ?_,
      fun j hj => ?_, fun ho => ?_, fun ho => ?_, State.getLast?_out_answer .., sealed, key⟩
    · rw [State.answer_sec, sess, afind_adel_self]
    · rw [State.answer_sec, sess, afind_adel_ne _ hj.symm]
    · obtain ⟨sec, count⟩ := State.endSession_owner ho
      rw [State.answer_sec, sec]
      exact ⟨rfl, rfl, rfl, rfl, count⟩
    · rw [State.answer_sec, State.endSession_other ho]
      exact ⟨rfl, rfl, rfl, rfl⟩
  case refused =>
    intro s n x d h he
    have refused (f : Spdm → State) : (.next (s.inSession n f) : Out) = .next (s.refuse x.tr) := by
      rw [State.inSession_not_est f h he]
    have same (f : Spdm → State) : (.next (s.inSession n f) : Out) = exec (.keyUpdate n) s := (refused f).trans (refused _).symm
    exact ⟨refused _, same _, same _, same _, same _, same _⟩


/-! ### Owner status and sealed mode -/

/-- R451: what OWNER_CLAIM asks of its key and signature. -/
def State.claims (s : State) (x : Spdm) (pk sig : List Byte) : Prop :=
  pk.length = 1312 ∧ sig.length = 2420 ∧ (∀ k, s.sec.ownerKey = some k → k = pk) ∧ Config.verify 1 pk x.th sig = true

/-- Owner status passes to session n with key pk; a new owner session starts its page counters at 0 (R451). -/
def State.owned (s : State) (n : Nat) (x : Spdm) (pk : List Byte) : State :=
  let u := if s.sec.owner = some n then s else s.endOwner
  { u with sec := { u.sec with ownerKey := some pk, owner := some n, env := kdf (Config.derive 3 x.th []) (ascii "FJ2 ENVELOPE")
                               hctr := if u.sec.owner = some n then u.sec.hctr else 0, dctr := if u.sec.owner = some n then u.sec.dctr else 0 } }

section Owner
variable {s : State} {n : Nat} {x : Spdm}

theorem exec_ownerClaim_of_claims {pk sig : List Byte} (h : afind s.sec.sess n = some x) (he : x.est = true) (hc : s.claims x pk sig) :
    exec (.ownerClaim n pk sig) s = .next ((s.owned n x pk).answer x.tr 0x7E [0x01]) := by
  obtain ⟨hpk, hsig, hkey, hv⟩ := hc
  refine (next_inSession_est _ h he).trans ?_
  cases hk : s.sec.ownerKey with
  | none => simp [hpk, hsig, mldsaOk, hv]; rfl
  | some k => simp [hpk, hsig, mldsaOk, hv, hkey k hk]; rfl

theorem exec_ownerClaim_refused {pk sig : List Byte} (h : afind s.sec.sess n = some x) (he : x.est = true) (hc : ¬ s.claims x pk sig) :
    exec (.ownerClaim n pk sig) s = .next (s.refuse x.tr) := by
  refine (next_inSession_est _ h he).trans (congrArg _ (if_pos ?_))
  simp only [Bool.or_eq_true, decide_eq_true_eq, Bool.not_eq_true', mldsaOk]
  by_contra hn
  simp only [not_or, not_not, Bool.not_eq_false] at hn
  obtain ⟨⟨⟨hpk, hsig⟩, hkey⟩, hv⟩ := hn
  refine hc ⟨hpk, hsig, fun k hk => ?_, hv⟩
  simpa [hk] using hkey

theorem State.sealable_iff : s.sealable = true ↔ s.sec.recovery = false ∧ s.sec.debug = false
    ∧ (∀ i < 16, bitAt (aget 0 s.regs (0x200500 + 8 * i)).toNat 0 = false)
    ∧ (s.objEnt s.wrec).valid = true ∧ (s.objEnt s.wrec).tier = 1 ∧ (s.objEnt s.wrec).kind = 6 := by
  simp [State.sealable, State.segOn, and_assoc]

end Owner

/-- The bytes from an address on, of a memory in its form. -/
theorem Memory.read_filter_ge {m : Memory} (n a : Nat) (h : Memory.wf m = true) :
    Memory.read (m.filter fun x => n ≤ x.1) a = if n ≤ a then Memory.read m a else 0 := by
  unfold Memory.wf at h
  generalize 0 = lo at h
  induction m generalizing lo with
  | nil => simp [Memory.read]
  | cons c t ih =>
    obtain ⟨k, b⟩ := c
    simp only [Memory.wfFrom, Bool.and_eq_true, decide_eq_true_eq] at h
    obtain ⟨-, ht⟩ := h
    rw [List.filter_cons]
    split
    · next hk =>
      simp only [decide_eq_true_eq] at hk
      rw [Memory.read, Memory.read, ih _ ht]
      by_cases ha : n ≤ a
      · simp only [ha, if_true]
      · rw [if_neg (by omega), if_pos (by omega), if_neg ha]
    · next hk =>
      simp only [decide_eq_true_eq] at hk
      rw [Memory.read, ih _ ht]
      split_ifs with ha h1 h2
      · omega
      · exact Memory.read_below ht (by omega)
      · rfl
      · rfl

/-- R453: the end of a scrub. -/
theorem exec_scrubDone_of_scrub {s : State} {m : Nat} (h : s.sec.scrub = some m) :
    exec .scrubDone s = .next { s.scrubbed with sealed_ := false, sec := { s.sec with scrub := none } } := by
  simp only [exec, execScrubDone, h]

/-- Settles O41, a request at a time. -/
theorem ownersSealAndRelease : Obligations.OwnersSealAndRelease := by
  refine ⟨?claim, ?refused, ?sealing, ?release, ?scrub⟩
  case claim =>
    intro s n x pk sig h he hpk hsig hkey
    by_cases hv : Config.verify 1 pk x.th sig = true
    · have hc : s.claims x pk sig := ⟨hpk, hsig, fun k hk => by simpa [hk] using hkey, hv⟩
      refine ⟨_, exec_ownerClaim_of_claims h he hc, fun _ => ?_⟩
      by_cases ho : s.sec.owner = some n
      · simp [State.owned, ho]
      · simp [State.owned, ho, State.endOwner, State.discardPages]
    · exact ⟨_, exec_ownerClaim_refused h he fun hc => hv hc.2.2.2, fun hv' => absurd hv' hv⟩
  case refused =>
    intro s n x pk sig h he hr
    refine exec_ownerClaim_refused h he ?_
    rintro ⟨hpk, hsig, hkey, hv⟩
    rcases hr with h1 | h1 | h1 | ⟨k, h1, h2⟩
    · exact h1 hpk
    · exact h1 hsig
    · simp [hv] at h1
    · exact h2 (hkey k h1)
  case sealing =>
    intro s n x h he hs
    refine ⟨_, next_inSession_est _ h he, ?_⟩
    rw [← State.sealable_iff]
    by_cases ho : s.sec.owner = some n
    · cases hl : s.sealable <;> simp [ho, hs, State.getLast?_out_refuse]
    · simp [ho, hs, State.getLast?_out_refuse]
  case release =>
    intro s n x h he ho
    refine ⟨_, (next_inSession_est _ h he).trans (congrArg _ (if_neg (not_not_intro ho))), rfl, fun hs => ?_, fun hs => ?_, rfl, ho⟩
    · simp [hs]
    · simp [hs]
  case scrub =>
    intro s m hw hm
    obtain ⟨-, -, ht, -, -, -⟩ := hw
    refine ⟨_, exec_scrubDone_of_scrub hm, rfl, rfl, fun ch a hc ha => ?_, fun ch a hc => ?_, rfl, rfl, rfl, rfl, rfl⟩
    · refine (Memory.read_filter_ge _ _ ht).trans (if_neg ?_)
      simp only [tierKey]
      omega
    · refine (Memory.read_filter_ge _ _ ht).trans (if_pos ?_)
      simp only [tierKey]
      omega

/-! ### Buses and JTAG -/

theorem List.length_bitsLow (n v : Nat) : (bitsLow n v).length = n := by simp [bitsLow]

/-- Settles O43, an interface at a time. -/
theorem managementInterfacesAct : Obligations.ManagementInterfacesAct := by
  refine ⟨?link, ?mctp, ?address, ?sensor, ?noSensor, ?idcode, ?bypass, ?sealed, ?scan⟩
  case link =>
    intro s up hp
    have run : exec (.pcieLinkEvent up) s = .next (State.pulse { s with linkUp := up, sec := if up then s.sec else { s.sec with ide := [] } } 8) := by
      simp [exec, execPcieLinkEvent, hp]
    have only := State.irqOnly_pulse { s with linkUp := up, sec := if up then s.sec else { s.sec with ide := [] } } 8
    refine ⟨_, run, only.linkUp, only.sec, ?_⟩
    unfold State.IrqOnly at only ⊢
    rw [only]
  case mctp =>
    intro s bus code a hp
    have run (new : Option Nat) : exec (.mctpControlMessage bus code new) s
        = .next (State.answer (match new with | some a => { s with smbus := a % 128 } | none => s) bus code (Config.message 0x100 [code])) := by
      cases new <;> simp [exec, execMctpControlMessage, hp]
    exact ⟨_, _, _, run _, run _, rfl, rfl⟩
  case address =>
    intro s a hp
    simp [exec, execDynamicAddressAssignment, hp]
  case sensor =>
    intro s n hp hn
    have run : exec (.pldmSensorRead n) s = .next (s.answer 2 0x11 (bytesOf 4 (aget 0 s.pw.temps n))) := by
      simp [exec, execPldmSensorRead, hp, State.sensor, hn]
    exact run
  case noSensor =>
    intro s n hp hn
    have none : s.sensor n = none := by
      simp [State.sensor, show ¬ n < 64 by omega, show n ≠ 64 by omega, show n ≠ 66 by omega, show ¬ n < 65 + 33 by omega]
    have run : exec (.pldmSensorRead n) s = .next (s.refuse 2) := by
      simp [exec, execPldmSensorRead, hp, none]
    exact run
  case idcode =>
    intro s dr hl
    have shifted : (bitsLow 32 idCode ++ dr).take dr.length = bitsLow 32 idCode := by
      rw [hl]
      exact List.take_left' (List.length_bitsLow ..)
    simp only [exec, execJtagInstruction, shifted, if_true]
    rfl
  case bypass =>
    intro s dr
    rfl
  case sealed =>
    intro s ir dr hi hs
    have run : exec (.jtagInstruction ir dr) s = .next (State.emit { s with jtag := ir } (.tdo (bypass dr))) := by
      simp [exec, execJtagInstruction, show ir ≠ 2 by omega, show ¬ ir ≤ 1 by omega, show ir ≠ 5 by omega, show ir ≠ 6 by omega, State.debugOk, hs]
    exact run
  case scan =>
    intro s ir dr hi
    simp only [List.mem_cons, List.not_mem_nil, or_false] at hi
    rcases hi with rfl | rfl | rfl | rfl <;> exact ⟨_, rfl, rfl, rfl, rfl, rfl⟩

end Sys2Proof.Machine
end

section
/-! # Sealed mode (O51)

Only the end of a scrub and a cold reset end sealed mode (R451, R453, R471). Every other function of the model leaves the mark as it finds
it, and each lemma below says so for one function, in the order of the definitions: the frame rule of the field `sealed_`, tagged for `simp`
so that the rule of a function follows from those of the functions it calls. -/

namespace Sys2Proof.Machine

set_option Elab.async false

/-! ### The mark of sealed mode, by the shape of an update -/

/-- The mark of sealed mode in the next state of an outcome. -/
def sealedAfter : Out → Bool
  | .next t => t.sealed_
  | _ => false

/-- The mark in the state that a command of a ring answers with. -/
def Ans.sealed_ : Ans → Bool
  | .wait t => t.sealed_
  | .done t _ => t.sealed_

/-- The mark in the state that the start of a word answers with. -/
def Start.sealed_ : Start → Bool
  | .go t _ => t.sealed_
  | .wait t => t.sealed_
  | .stop t => t.sealed_

/-- The mark in the state that an access leaves, whether it stops its core or goes on; `f` picks the state that goes on. -/
def triedSealed {α : Type} (f : α → State) : Except State α → Bool
  | .error t => t.sealed_
  | .ok y => (f y).sealed_

@[simp] theorem sealedAfter_next (t : State) : sealedAfter (.next t) = t.sealed_ := rfl
@[simp] theorem Ans.wait_sealed_ (t : State) : (Ans.wait t).sealed_ = t.sealed_ := rfl
@[simp] theorem Ans.done_sealed_ (t : State) (k : Compl) : (Ans.done t k).sealed_ = t.sealed_ := rfl
@[simp] theorem Start.go_sealed_ (t : State) (e : Cqe) : (Start.go t e).sealed_ = t.sealed_ := rfl
@[simp] theorem Start.wait_sealed_ (t : State) : (Start.wait t).sealed_ = t.sealed_ := rfl
@[simp] theorem Start.stop_sealed_ (t : State) : (Start.stop t).sealed_ = t.sealed_ := rfl
@[simp] theorem triedSealed_error {α : Type} (f : α → State) (t : State) : triedSealed f (.error t) = t.sealed_ := rfl
@[simp] theorem triedSealed_ok {α : Type} (f : α → State) (y : α) : triedSealed f (.ok y) = (f y).sealed_ := rfl

@[simp] theorem State.ite_sealed_ (c : Prop) [Decidable c] (s t : State) : (if c then s else t).sealed_ = if c then s.sealed_ else t.sealed_ :=
  apply_ite State.sealed_ ..
@[simp] theorem Ans.ite_sealed_ (c : Prop) [Decidable c] (x y : Ans) : (if c then x else y).sealed_ = if c then x.sealed_ else y.sealed_ :=
  apply_ite Ans.sealed_ ..
@[simp] theorem Start.ite_sealed_ (c : Prop) [Decidable c] (x y : Start) : (if c then x else y).sealed_ = if c then x.sealed_ else y.sealed_ :=
  apply_ite Start.sealed_ ..
@[simp] theorem triedSealed_ite {α : Type} (f : α → State) (c : Prop) [Decidable c] (x y : Except State α) :
    triedSealed f (if c then x else y) = if c then triedSealed f x else triedSealed f y :=
  apply_ite (triedSealed f) ..
@[simp] theorem State.ite_fst_sealed_ {β : Type} (c : Prop) [Decidable c] (x y : State × β) :
    (if c then x else y).1.sealed_ = if c then x.1.sealed_ else y.1.sealed_ :=
  apply_ite (fun z : State × β => z.1.sealed_) ..
@[simp] theorem State.ite_snd_sealed_ {β : Type} (c : Prop) [Decidable c] (x y : β × State) :
    (if c then x else y).2.sealed_ = if c then x.2.sealed_ else y.2.sealed_ :=
  apply_ite (fun z : β × State => z.2.sealed_) ..

@[simp] theorem State.foldl_sealed_ {α : Type} {f : State → α → State} (hf : ∀ s x, (f s x).sealed_ = s.sealed_) (l : List α) (s : State) :
    (l.foldl f s).sealed_ = s.sealed_ :=
  foldl_keeps State.sealed_ f hf l s
@[simp] theorem State.foldl_fst_sealed_ {α β : Type} {f : State × β → α → State × β} (hf : ∀ y a, (f y a).1.sealed_ = y.1.sealed_)
    (l : List α) (x : State × β) : (l.foldl f x).1.sealed_ = x.1.sealed_ :=
  foldl_keeps (fun y : State × β => y.1.sealed_) f hf l x
@[simp] theorem State.foldl_snd_sealed_ {α β : Type} {f : β × State → α → β × State} (hf : ∀ y a, (f y a).2.sealed_ = y.2.sealed_)
    (l : List α) (x : β × State) : (l.foldl f x).2.sealed_ = x.2.sealed_ :=
  foldl_keeps (fun y : β × State => y.2.sealed_) f hf l x

theorem sealed_ite {c : Prop} [Decidable c] {s t : State} {b : Bool} (hs : s.sealed_ = b) (ht : t.sealed_ = b) : (if c then s else t).sealed_ = b := by
  rw [State.ite_sealed_, hs, ht, ite_self]

theorem tried_ite {α : Type} {f : α → State} {c : Prop} [Decidable c] {x y : Except State α} {b : Bool}
    (hx : triedSealed f x = b) (hy : triedSealed f y = b) :
    triedSealed f (if c then x else y) = b := by
  rw [triedSealed_ite, hx, hy, ite_self]

section Answered
variable {α β : Type} {s t : State} {b : Bool}

theorem State.StopOnly.sealed_ (h : s.StopOnly t) : t.sealed_ = s.sealed_ := by
  rw [h.1]

theorem sealed_of_error {f : α → State} {x : Except State α} (k : triedSealed f x = b) (e : x = .error t) : t.sealed_ = b := by
  rw [← k, e, triedSealed_error]

theorem sealed_of_ok {f : α → State} {x : Except State α} {y : α} (k : triedSealed f x = b) (e : x = .ok y) : (f y).sealed_ = b := by
  rw [← k, e, triedSealed_ok]

theorem sealed_of_fst {x : State × β} {y : β} (k : x.1.sealed_ = b) (e : x = (t, y)) : t.sealed_ = b := by
  rw [← k, e]

theorem sealed_of_start {x : Start} (k : x.sealed_ = b) :
    (∀ e, x = .go t e → t.sealed_ = b) ∧ (x = .wait t → t.sealed_ = b) ∧ (x = .stop t → t.sealed_ = b) := by
  subst k
  exact ⟨fun _ e => by rw [e, Start.go_sealed_], fun e => by rw [e, Start.wait_sealed_], fun e => by rw [e, Start.stop_sealed_]⟩

end Answered

section Marks
variable {s : State}

@[simp] theorem State.localWrite_sealed_ {p sp a : Nat} {d : List Byte} {z : Bool} : (s.localWrite p sp a d z).sealed_ = s.sealed_ := by
  unfold State.localWrite
  split <;> rfl

/-! #### Cores, flips, counters, interrupts and local memory -/

@[simp] theorem State.localPoison_sealed_ {p space a : Nat} {pz : List Nat} : (s.localPoison p space a pz).sealed_ = s.sealed_ := by
  simp [State.localPoison]
@[simp] theorem State.localClear_sealed_ {p space : Nat} {parts : List (Nat × Nat)} : (s.localClear p space parts).sealed_ = s.sealed_ := by
  simp [State.localClear]
@[simp] theorem State.enter_sealed_ {f : Flip} : (s.enter f).sealed_ = s.sealed_ := rfl
@[simp] theorem State.leave_sealed_ {old : State} {f : Flip} : (s.leave old f).sealed_ = s.sealed_ := rfl

@[simp] theorem State.under_sealed_ {isl : Nat} {g : State → State} (hg : ∀ s, (g s).sealed_ = s.sealed_) : (s.under isl g).sealed_ = s.sealed_ := by
  unfold State.under
  dsimp only
  (repeat' split) <;> simp [*]

@[simp] theorem State.onCore_sealed_ {l : Nat} {f : State → Nat → Core → State} (hf : ∀ s p c, (f s p c).sealed_ = s.sealed_) :
    (s.onCore l f).sealed_ = s.sealed_ := by
  unfold State.onCore
  split <;> simp [*]

@[simp] theorem State.free_sealed_ : (s.free).2.sealed_ = s.sealed_ := rfl
@[simp] theorem State.msix_sealed_ {v : Nat} : (s.msix v).sealed_ = s.sealed_ := by simp [State.msix]
@[simp] theorem State.irqDeliver_sealed_ : s.irqDeliver.sealed_ = s.sealed_ := (State.irqOnly_deliver s).sealed_
@[simp] theorem State.irqPend_sealed_ {src : Nat} : (s.irqPend src).sealed_ = s.sealed_ := by simp [State.irqPend]
@[simp] theorem State.irqEvent_sealed_ {src : Nat} : (s.irqEvent src).sealed_ = s.sealed_ := by simp [State.irqEvent]
@[simp] theorem State.causeLevel_sealed_ {cause inten src : Nat} {d : W32} : (s.causeLevel cause inten src d).sealed_ = s.sealed_ := by
  simp [State.causeLevel]
@[simp] theorem State.raise_sealed_ {cause inten src : Nat} {d bits : W32} : (s.raise cause inten src d bits).sealed_ = s.sealed_ := by
  simp [State.raise]
@[simp] theorem State.frameCause_sealed_ {n bit : Nat} : (s.frameCause n bit).sealed_ = s.sealed_ := by simp [State.frameCause]
@[simp] theorem State.frameFail_sealed_ {n : Nat} : (s.frameFail n).sealed_ = s.sealed_ := (State.stopOnly_frameFail s n).sealed_

@[simp] theorem State.failRun_sealed_ {fr : Option Nat} : (s.failRun fr).sealed_ = s.sealed_ := by
  unfold State.failRun
  split <;> simp

@[simp] theorem State.halt_sealed_ {p : Nat} {r : HaltRec} : (s.halt p r).sealed_ = s.sealed_ := by simp [State.halt]
@[simp] theorem State.freeze_sealed_ {p : Nat} {r : FrzRec} : (s.freeze p r).sealed_ = s.sealed_ := by simp [State.freeze]

@[simp] theorem State.sameCycle_sealed_ {p unit : Nat} {f : State → State} : (s.sameCycle p unit f).sealed_ = s.sealed_ := by
  unfold State.sameCycle
  dsimp only
  (repeat' split) <;> simp

@[simp] theorem State.sendCredit_sealed_ {p q n : Nat} : (s.sendCredit p q n).sealed_ = s.sealed_ := by
  unfold State.sendCredit
  (repeat' split) <;> simp

@[simp] theorem State.release_sealed_ {p hd : Nat} : (s.release p hd).sealed_ = s.sealed_ := by
  unfold State.release
  dsimp only
  split <;> simp

@[simp] theorem State.signal_sealed_ {p b n : Nat} {r : HaltRec} : (s.signal p b n r).sealed_ = s.sealed_ := by simp [State.signal]

/-! #### Objects and their images -/

@[simp] theorem State.setObj_sealed_ {i : Nat} {e : ObjEnt} : (s.setObj i e).sealed_ = s.sealed_ := rfl

@[simp] theorem State.writePart_sealed_ {tier set a : Nat} {d : List PByte} : (s.writePart tier set a d).sealed_ = s.sealed_ := by
  unfold State.writePart
  dsimp only
  split
  · exact State.localWrite_sealed_
  · split <;> rfl
  · rfl
  · rfl

@[simp] theorem State.devWrite_sealed_ {tier set a : Nat} {d : List PByte} : (s.devWrite tier set a d).sealed_ = s.sealed_ := by simp [State.devWrite]
@[simp] theorem State.bumpCodec_sealed_ {k off n : Nat} : (s.bumpCodec k off n).sealed_ = s.sealed_ := rfl
@[simp] theorem State.setBit_sealed_ {off bit : Nat} : (s.setBit off bit).sealed_ = s.sealed_ := rfl
@[simp] theorem State.codecErr_sealed_ {k bit : Nat} : (s.codecErr k bit).sealed_ = s.sealed_ := by simp [State.codecErr]
@[simp] theorem State.chanErr_sealed_ {ch bit : Nat} : (s.chanErr ch bit).sealed_ = s.sealed_ := by simp [State.chanErr]

@[simp] theorem State.chanCe_sealed_ {ch n : Nat} : (s.chanCe ch n).sealed_ = s.sealed_ := by
  unfold State.chanCe
  dsimp only
  split <;> simp

@[simp] theorem State.chanUe_sealed_ {ch n : Nat} : (s.chanUe ch n).sealed_ = s.sealed_ := by simp [State.chanUe]
@[simp] theorem State.countPoison_sealed_ {tier set a n : Nat} : (s.countPoison tier set a n).sealed_ = s.sealed_ :=
  (State.readOnly_countPoison ..).sealed_
@[simp] theorem State.readImage_sealed_ {obj : Nat} {e : ObjEnt} {b : Nat} : (s.readImage obj e b).2.sealed_ = s.sealed_ :=
  (State.readOnly_readImage ..).sealed_
@[simp] theorem State.readBlock_sealed_ {obj : Nat} {e : ObjEnt} {b : Nat} : (s.readBlock obj e b).2.sealed_ = s.sealed_ := by simp [State.readBlock]
@[simp] theorem State.writeImage_sealed_ {obj : Nat} {e : ObjEnt} {b : Nat} {d : List PByte} : (s.writeImage obj e b d).sealed_ = s.sealed_ := by
  simp [State.writeImage]
@[simp] theorem State.writeGroups_sealed_ {e : ObjEnt} {b : Nat} {img : List PByte} {r : Nat × Nat} :
    (s.writeGroups e b img r).sealed_ = s.sealed_ := by
  simp [State.writeGroups]
@[simp] theorem State.writeBlock_sealed_ {obj : Nat} {e : ObjEnt} {b at_ : Nat} {d : List PByte} : (s.writeBlock obj e b at_ d).sealed_ = s.sealed_ :=
  (State.writeOnly_writeBlock ..).sealed_
@[simp] theorem State.imgRead_sealed_ {obj : Nat} {e : ObjEnt} {ofs n : Nat} : (s.imgRead obj e ofs n).2.sealed_ = s.sealed_ := by
  simp [State.imgRead]
@[simp] theorem State.imgWrite_sealed_ {obj : Nat} {e : ObjEnt} {ofs : Nat} {d : List PByte} : (s.imgWrite obj e ofs d).sealed_ = s.sealed_ := by
  simp [State.imgWrite]
@[simp] theorem State.objRead_sealed_ {obj ofs n : Nat} : (s.objRead obj ofs n).2.sealed_ = s.sealed_ := by simp [State.objRead]

@[simp] theorem State.objWrite_sealed_ {obj ofs : Nat} {d : List PByte} : (s.objWrite obj ofs d).sealed_ = s.sealed_ := by
  unfold State.objWrite
  dsimp only
  (repeat' split) <;> simp

@[simp] theorem State.codecGate_sealed_ {obj : Nat} {e : ObjEnt} {b : Nat} {write : Bool} : (s.codecGate obj e b write).2.sealed_ = s.sealed_ := by
  simp [State.codecGate]
@[simp] theorem State.dropLook_sealed_ {objs : List Nat} : (s.dropLook objs).sealed_ = s.sealed_ := rfl

@[simp] theorem State.noteRead_sealed_ {p obj : Nat} : (s.noteRead p obj).sealed_ = s.sealed_ := by
  unfold State.noteRead
  dsimp only
  split <;> simp

@[simp] theorem State.coreRead_sealed_ {p obj ofs n : Nat} : (s.coreRead p obj ofs n).2.sealed_ = s.sealed_ := by
  unfold State.coreRead
  dsimp only
  split <;> simp

@[simp] theorem State.bumpGen_sealed_ {obj : Nat} : (s.bumpGen obj).sealed_ = s.sealed_ := by simp [State.bumpGen]
@[simp] theorem State.wholeWrite_sealed_ {obj ofs : Nat} {d : List PByte} : (s.wholeWrite obj ofs d).sealed_ = s.sealed_ := by simp [State.wholeWrite]

/-! #### The sequencer -/

@[simp] theorem State.askLine_sealed_ {p line : Nat} {demand : Bool} : (s.askLine p line demand).sealed_ = s.sealed_ := by
  unfold State.askLine
  dsimp only
  split <;> simp

@[simp] theorem sealedAfter_execFetchFill {c line : Nat} : sealedAfter (execFetchFill c line s) = s.sealed_ := by
  refine State.onCore_sealed_ fun _ _ _ => ?_
  dsimp only
  (repeat' split) <;> simp

@[simp] theorem Core.dispatchWord_sealed_ {c : Core} {w : CWord} {p : Nat} : (Core.dispatchWord c w p s).sealed_ = s.sealed_ := by
  simp [Core.dispatchWord]

@[simp] theorem State.dispatch_sealed_ {p : Nat} : (s.dispatch p).sealed_ = s.sealed_ := by
  unfold State.dispatch
  dsimp only
  (repeat' split) <;> simp

@[simp] theorem sealedAfter_execDispatch {c : Nat} : sealedAfter (execDispatch c s) = s.sealed_ := by simp [execDispatch]
@[simp] theorem State.wordSignal_sealed_ {p : Nat} {w : CWord} {r : HaltRec} : (s.wordSignal p w r).sealed_ = s.sealed_ := by simp [State.wordSignal]

@[simp] theorem State.onSeq_sealed_ {c op : Nat} {eff : State → Nat → Core → CWord → State} (hf : ∀ s p c w, (eff s p c w).sealed_ = s.sealed_) :
    (s.onSeq c op eff).sealed_ = s.sealed_ := by
  refine State.onCore_sealed_ fun s p k => ?_
  split
  · rfl
  · rw [State.ite_sealed_]
    (repeat' split) <;> simp [hf]

@[simp] theorem State.seqPlain_sealed_ {c op : Nat} {eff : Core → CWord → Core} : (s.seqPlain c op eff).sealed_ = s.sealed_ := by
  simp [State.seqPlain]
@[simp] theorem sealedAfter_execNop {c : Nat} : sealedAfter (execNop c s) = s.sealed_ := by simp [execNop]
@[simp] theorem sealedAfter_execQBind {c : Nat} : sealedAfter (execQBind c s) = s.sealed_ := by simp [execQBind]
@[simp] theorem sealedAfter_execBarSet {c : Nat} : sealedAfter (execBarSet c s) = s.sealed_ := by simp [execBarSet]
@[simp] theorem sealedAfter_execBarSig {c : Nat} : sealedAfter (execBarSig c s) = s.sealed_ := by simp [execBarSig]
@[simp] theorem sealedAfter_execSync {c : Nat} : sealedAfter (execSync c s) = s.sealed_ := by simp [execSync]
@[simp] theorem sealedAfter_execLoop {c : Nat} : sealedAfter (execLoop c s) = s.sealed_ := by simp [execLoop]
@[simp] theorem sealedAfter_execBr {c : Nat} : sealedAfter (execBr c s) = s.sealed_ := by simp [execBr]
@[simp] theorem sealedAfter_execBrc {c : Nat} : sealedAfter (execBrc c s) = s.sealed_ := by simp [execBrc]
@[simp] theorem sealedAfter_execLcSet {c : Nat} : sealedAfter (execLcSet c s) = s.sealed_ := by simp [execLcSet]
@[simp] theorem sealedAfter_execLcAdd {c : Nat} : sealedAfter (execLcAdd c s) = s.sealed_ := by simp [execLcAdd]

@[simp] theorem sealedAfter_execLcPop {c : Nat} : sealedAfter (execLcPop c s) = s.sealed_ := by
  refine State.onCore_sealed_ fun _ _ _ => ?_
  dsimp only
  (repeat' split) <;> simp

@[simp] theorem sealedAfter_execFlagClr {c : Nat} : sealedAfter (execFlagClr c s) = s.sealed_ := by simp [execFlagClr]
@[simp] theorem sealedAfter_execStepOpen {c : Nat} : sealedAfter (execStepOpen c s) = s.sealed_ := by simp [execStepOpen]

@[simp] theorem sealedAfter_execStepClose {c : Nat} : sealedAfter (execStepClose c s) = s.sealed_ := by
  refine State.onCore_sealed_ fun _ _ _ => ?_
  dsimp only
  (repeat' split) <;> simp

@[simp] theorem sealedAfter_execIrq {c : Nat} : sealedAfter (execIrq c s) = s.sealed_ := by simp [execIrq]
@[simp] theorem sealedAfter_execBrk {c : Nat} : sealedAfter (execBrk c s) = s.sealed_ := by simp [execBrk]
@[simp] theorem sealedAfter_execEndWord {c : Nat} : sealedAfter (execEndWord c s) = s.sealed_ := by simp [execEndWord]
@[simp] theorem sealedAfter_execCoreDone {c : Nat} : sealedAfter (execCoreDone c s) = s.sealed_ := by simp [execCoreDone]
@[simp] theorem sealedAfter_execWatchdog {c : Nat} : sealedAfter (execWatchdog c s) = s.sealed_ := by simp [execWatchdog]
@[simp] theorem State.dropPins_sealed_ {obj ver n : Nat} : (s.dropPins obj ver n).sealed_ = s.sealed_ := by simp [State.dropPins]
@[simp] theorem State.releasePins_sealed_ {p : Nat} : (s.releasePins p).sealed_ = s.sealed_ := by simp [State.releasePins]
@[simp] theorem State.restartCore_sealed_ {p : Nat} : (s.restartCore p).sealed_ = s.sealed_ := by simp [State.restartCore]
@[simp] theorem sealedAfter_execRestart {c : Nat} : sealedAfter (execRestart c s) = s.sealed_ := by simp [execRestart]

@[simp] theorem sealedAfter_execSeqCtrlStop {c : Nat} : sealedAfter (execSeqCtrlStop c s) = s.sealed_ := by
  refine State.onCore_sealed_ fun _ _ _ => ?_
  simp

@[simp] theorem State.repeatStep_sealed_ {p : Nat} : (s.repeatStep p).sealed_ = s.sealed_ := by simp [State.repeatStep]

/-! #### Fences and flash -/

@[simp] theorem State.huMeasured_sealed_ : s.huMeasured.sealed_ = s.sealed_ := rfl
@[simp] theorem State.pwrCause_sealed_ {bits : W32} : (s.pwrCause bits).sealed_ = s.sealed_ := by simp [State.pwrCause]

@[simp] theorem State.flashTry_sealed_ : s.flashTry.sealed_ = s.sealed_ := by
  unfold State.flashTry
  split <;> simp

@[simp] theorem sealedAfter_execFlashDeferRetest {mv : Nat} : sealedAfter (execFlashDeferRetest mv s) = s.sealed_ := by simp [execFlashDeferRetest]
@[simp] theorem sealedAfter_execFenceListWrite : sealedAfter (execFenceListWrite s) = s.sealed_ := by simp [execFenceListWrite]
@[simp] theorem State.mbxEnd_sealed_ {st : Nat} : (s.mbxEnd st).sealed_ = s.sealed_ := by simp [State.mbxEnd]

@[simp] theorem State.flashEnd_sealed_ {k : FlashKind} : (s.flashEnd k).sealed_ = s.sealed_ := by
  unfold State.flashEnd
  split <;> simp

@[simp] theorem sealedAfter_execFlashSectorDone : sealedAfter (execFlashSectorDone s) = s.sealed_ := by
  unfold execFlashSectorDone
  split <;> simp

@[simp] theorem State.fenceCore_sealed_ {p cause : Nat} : (s.fenceCore p cause).sealed_ = s.sealed_ := by simp [State.fenceCore]
@[simp] theorem State.checkFence_sealed_ {p res : Nat} : (s.checkFence p res).sealed_ = s.sealed_ := by simp [State.checkFence]
@[simp] theorem State.checkCount_sealed_ {p res : Nat} : (s.checkCount p res).sealed_ = s.sealed_ := by simp [State.checkCount]
@[simp] theorem State.setCluster_sealed_ {g : Nat} {x : Cluster} : (s.setCluster g x).sealed_ = s.sealed_ := rfl

@[simp] theorem State.fenceCluster_sealed_ {g : Nat} : (s.fenceCluster g).sealed_ = s.sealed_ := by
  unfold State.fenceCluster
  extract_lets s1
  have fenced : s1.sealed_ = s.sealed_ := State.foldl_sealed_ (fun _ _ => State.fenceCore_sealed_) _ _
  exact State.setCluster_sealed_.trans fenced

@[simp] theorem sealedAfter_execNoAckTimeout {p : Nat} : sealedAfter (execNoAckTimeout p s) = s.sealed_ := by simp [execNoAckTimeout]

/-! #### Words of a unit -/

@[simp] theorem State.doWord_sealed_ {p q op i : Nat} {f : State → Nat → Core → Cqe → State} (hf : ∀ s p c e, (f s p c e).sealed_ = s.sealed_) :
    (s.doWord p q op i f).sealed_ = s.sealed_ := by
  unfold State.doWord
  dsimp only
  (repeat' split) <;> simp [*]

@[simp] theorem State.onWord_sealed_ {c q op i : Nat} {f : State → Nat → Core → Cqe → State} (hf : ∀ s p c e, (f s p c e).sealed_ = s.sealed_) :
    (s.onWord c q op i f).sealed_ = s.sealed_ := by
  unfold State.onWord
  simp [*]

@[simp] theorem State.underAt_sealed_ {p ep : Nat} {g : State → State} (hg : ∀ s, (g s).sealed_ = s.sealed_) :
    (s.underAt p ep g).sealed_ = s.sealed_ := by
  unfold State.underAt
  split <;> simp [*]

@[simp] theorem State.onCur_sealed_ {c q op : Nat} {f : State → Nat → Core → Nat → Cqe → State}
    (hf : ∀ s p c i e, (f s p c i e).sealed_ = s.sealed_) : (s.onCur c q op f).sealed_ = s.sealed_ := by
  refine State.onCore_sealed_ fun s p k => ?_
  split
  · rfl
  · simp [hf]

@[simp] theorem State.putWord_sealed_ {p q i : Nat} {e : Cqe} : (s.putWord p q i e).sealed_ = s.sealed_ := rfl
@[simp] theorem State.finish_sealed_ {p q i : Nat} {e : Cqe} : (s.finish p q i e).sealed_ = s.sealed_ := rfl
@[simp] theorem State.haltWord_sealed_ {p q : Nat} {e : Cqe} {reason info : Nat} : (s.haltWord p q e reason info).sealed_ = s.sealed_ := by
  simp [State.haltWord]
@[simp] theorem State.haltIllegal_sealed_ {p q : Nat} {e : Cqe} : (s.haltIllegal p q e).sealed_ = s.sealed_ := by simp [State.haltIllegal]
@[simp] theorem State.freezeAt_sealed_ {p unit reason obj addr : Nat} : (s.freezeAt p unit reason obj addr).sealed_ = s.sealed_ := by
  simp [State.freezeAt]

/-! #### The stash -/

@[simp] theorem State.stashPresent_sealed_ {p : Nat} : (s.stashPresent p).sealed_ = s.sealed_ := by simp [State.stashPresent]

@[simp] theorem sealedAfter_execStashSpill {c : Nat} : sealedAfter (execStashSpill c s) = s.sealed_ := by
  refine State.onCore_sealed_ fun _ _ _ => ?_
  dsimp only
  (repeat' split) <;> simp

@[simp] theorem sealedAfter_execStashSpillDone {c : Nat} : sealedAfter (execStashSpillDone c s) = s.sealed_ := by
  refine State.onCore_sealed_ fun _ _ _ => ?_
  dsimp only
  (repeat' split) <;> simp

theorem State.recordRead_sealed_ {p num ofs n : Nat} {r : List PByte × State} (e : s.recordRead p num ofs n = some r) : r.2.sealed_ = s.sealed_ := by
  unfold State.recordRead at e
  dsimp only at e
  split at e
  · cases e
  · split at e
    · cases e
      exact State.objRead_sealed_
    · cases e
      exact State.objRead_sealed_
    · cases e
      refine State.foldl_snd_sealed_ (fun _ _ => ?_) _ _
      exact State.objRead_sealed_

@[simp] theorem State.addPins_sealed_ {obj ver n : Nat} : (s.addPins obj ver n).sealed_ = s.sealed_ := by simp [State.addPins]
@[simp] theorem sealedAfter_execStrPin {c i : Nat} : sealedAfter (execStrPin c i s) = s.sealed_ := by simp [execStrPin]

@[simp] theorem sealedAfter_execStrUnpin {c i : Nat} : sealedAfter (execStrUnpin c i s) = s.sealed_ := by
  refine State.onWord_sealed_ fun _ _ _ _ => ?_
  dsimp only
  (repeat' split) <;> simp

/-! #### The stream lanes -/

@[simp] theorem State.gather_sealed_ {p : Nat} {x : StrSide} {offs : List Nat} {u : Nat} : (s.gather p x offs u).2.sealed_ = s.sealed_ := by
  unfold State.gather
  split <;> simp

@[simp] theorem State.scatter_sealed_ {p : Nat} {x : StrSide} {damask : Bool} {offs : List Nat} {u : Nat} {d : List PByte} :
    (s.scatter p x damask offs u d).sealed_ = s.sealed_ := by
  unfold State.scatter
  dsimp only
  split
  · exact State.localClear_sealed_.trans (State.foldl_sealed_ (fun _ _ => State.localWrite_sealed_) _ _)
  · split
    · refine State.foldl_sealed_ (fun s b => State.objWrite_sealed_.trans ?_) _ _
      split
      · exact State.objRead_sealed_
      · rfl
    · exact State.foldl_sealed_ (fun _ _ => State.objWrite_sealed_) _ _

@[simp] theorem State.startCopy_sealed_ {p : Nat} {e : Cqe} : (s.startCopy p e).sealed_ = s.sealed_ := by
  unfold State.startCopy
  dsimp only
  (repeat' split) <;> simp

@[simp] theorem State.startStream_sealed_ {p : Nat} {e : Cqe} : (s.startStream p e).sealed_ = s.sealed_ := by simp [State.startStream]
@[simp] theorem sealedAfter_execStrLdd {c i : Nat} : sealedAfter (execStrLdd c i s) = s.sealed_ := by simp [execStrLdd]

@[simp] theorem State.copySetup_sealed_ {p i : Nat} {e : Cqe} : (s.copySetup p i e).sealed_ = s.sealed_ := by
  unfold State.copySetup
  dsimp only
  (repeat' split) <;> simp

@[simp] theorem State.copyRecords_sealed_ {so do_ n : Nat} {a b : ObjEnt} : (s.copyRecords so do_ n a b).sealed_ = s.sealed_ := by
  simp [State.copyRecords]

@[simp] theorem State.copyRead_sealed_ {p : Nat} {d : BitVec 512} {x : StrSide} {offs : List Nat} {u : Nat} :
    (s.copyRead p d x offs u).2.sealed_ = s.sealed_ := by
  unfold State.copyRead
  split
  · split
    · next e => simp [State.recordRead_sealed_ e]
    · rfl
  · split
    · split <;> simp
    · exact State.gather_sealed_

@[simp] theorem State.copyWrite_sealed_ {p : Nat} {d : BitVec 512} {damask : Bool} {x : StrSide} {offs : List Nat} {u : Nat} {data : List PByte} :
    (s.copyWrite p d damask x offs u data).sealed_ = s.sealed_ := by
  simp [State.copyWrite]

@[simp] theorem State.streamComplete_sealed_ {p : Nat} {e : Cqe} : (s.streamComplete p e).sealed_ = s.sealed_ := by
  unfold State.streamComplete
  dsimp only
  (repeat' split) <;> simp

@[simp] theorem State.copyMove_sealed_ {p i : Nat} {e : Cqe} : (s.copyMove p i e).sealed_ = s.sealed_ := by simp [State.copyMove]
@[simp] theorem State.copyStep_sealed_ {p i : Nat} {e : Cqe} : (s.copyStep p i e).sealed_ = s.sealed_ := by simp [State.copyStep]

@[simp] theorem sealedAfter_execStrCopy {c i : Nat} : sealedAfter (execStrCopy c i s) = s.sealed_ := by
  unfold execStrCopy
  split <;> simp

@[simp] theorem sealedAfter_execStrCancel {c i : Nat} : sealedAfter (execStrCancel c i s) = s.sealed_ := by simp [execStrCancel]

@[simp] theorem sealedAfter_execDmaSegmentIssue {c ch : Nat} : sealedAfter (execDmaSegmentIssue c ch s) = s.sealed_ := by
  refine State.onCore_sealed_ fun _ _ _ => ?_
  dsimp only
  (repeat' split) <;> simp

@[simp] theorem State.dropDone_sealed_ {p seqno : Nat} : (s.dropDone p seqno).sealed_ = s.sealed_ := by
  unfold State.dropDone
  dsimp only
  (repeat' split) <;> simp

@[simp] theorem State.segmentDone_sealed_ {p tag : Nat} {g : DmaSeg} {ce ue : Bool} : (s.segmentDone p tag g ce ue).sealed_ = s.sealed_ := by
  unfold State.segmentDone
  dsimp only
  (repeat' split) <;> simp

@[simp] theorem sealedAfter_execDmaSegmentDone {c tag : Nat} {ce ue : Bool} : sealedAfter (execDmaSegmentDone c tag ce ue s) = s.sealed_ := by
  unfold execDmaSegmentDone
  simp only [sealedAfter_next]
  (repeat' split) <;> simp

/-! #### The load words -/

@[simp] theorem State.startLoad_sealed_ {p : Nat} {e : Cqe} : (s.startLoad p e).sealed_ = s.sealed_ := by
  unfold State.startLoad
  dsimp only
  (repeat' split) <;> simp

@[simp] theorem State.loadComplete_sealed_ {p : Nat} {e : Cqe} : (s.loadComplete p e).sealed_ = s.sealed_ := by
  unfold State.loadComplete
  split <;> simp

@[simp] theorem State.eccMark_sealed_ {p : Nat} {g : Agen} {base : ℤ} {k l : Nat} : (s.eccMark p g base k l).sealed_ = s.sealed_ := by
  simp [State.eccMark]

@[simp] theorem State.loadStop_sealed_ {p : Nat} {e : Cqe} {a : Access} : (s.loadStop p e a).sealed_ = s.sealed_ := by
  unfold State.loadStop
  split <;> simp

@[simp] theorem State.tick_sealed_ {p q i : Nat} {e : Cqe} {total : Nat} : (s.tick p q i e total).sealed_ = s.sealed_ := rfl

@[simp] theorem sealedAfter_execLdAgset {c i : Nat} : sealedAfter (execLdAgset c i s) = s.sealed_ := by
  refine State.onWord_sealed_ fun _ _ _ _ => ?_
  simp

@[simp] theorem sealedAfter_execLdVec {c i : Nat} {ecc : Nat} : sealedAfter (execLdVec c i s ecc) = s.sealed_ := by
  refine State.onWord_sealed_ fun _ _ _ _ => ?_
  dsimp only
  (repeat' split) <;> simp

@[simp] theorem sealedAfter_execLdPair {c i : Nat} : sealedAfter (execLdPair c i s) = s.sealed_ := by
  refine State.onWord_sealed_ fun _ _ _ _ => ?_
  dsimp only
  (repeat' split) <;> simp

@[simp] theorem sealedAfter_execLdCast {c i : Nat} : sealedAfter (execLdCast c i s) = s.sealed_ := by
  refine State.onWord_sealed_ fun _ _ _ _ => ?_
  dsimp only
  (repeat' split) <;> simp

@[simp] theorem sealedAfter_execLdSht {c i : Nat} : sealedAfter (execLdSht c i s) = s.sealed_ := by
  refine State.onWord_sealed_ fun _ _ _ _ => ?_
  dsimp only
  (repeat' split) <;> simp

@[simp] theorem sealedAfter_execServingRelease {c : Nat} : sealedAfter (execServingRelease c s) = s.sealed_ := by
  refine State.onCore_sealed_ fun _ _ _ => ?_
  split <;> simp

@[simp] theorem sealedAfter_execXpose {c i : Nat} : sealedAfter (execXpose c i s) = s.sealed_ := by
  refine State.onWord_sealed_ fun _ _ _ _ => ?_
  dsimp only
  (repeat' split) <;> simp

/-! #### The engines -/

@[simp] theorem State.startEng_sealed_ {p eng : Nat} {e : Cqe} : (s.startEng p eng e).sealed_ = s.sealed_ := by
  unfold State.startEng
  dsimp only
  (repeat' split) <;> simp

@[simp] theorem sealedAfter_execTileToShadow {c e : Nat} : sealedAfter (execTileToShadow c e s) = s.sealed_ := by
  rw [execTileToShadow, sealedAfter_next, State.ite_sealed_, State.onCore_sealed_ fun s p k => ?_, ite_self]
  dsimp only
  split
  · rfl
  · simp

@[simp] theorem sealedAfter_execSlotMoveDone {c e slot : Nat} : sealedAfter (execSlotMoveDone c e slot s) = s.sealed_ := by
  refine State.onCore_sealed_ fun _ _ _ => ?_
  dsimp only
  (repeat' split) <;> simp

@[simp] theorem State.popPre_sealed_ {p eng i : Nat} {e : Cqe} : (s.popPre p eng i e).sealed_ = s.sealed_ := by
  unfold State.popPre
  dsimp only
  (repeat' split) <;> simp

@[simp] theorem State.mmaRank_sealed_ {p eng i : Nat} {e : Cqe} {res : Nat} : (s.mmaRank p eng i e res).sealed_ = s.sealed_ := by
  unfold State.mmaRank
  dsimp only
  (repeat' split) <;> simp

@[simp] theorem sealedAfter_execMmaRank {c e res : Nat} : sealedAfter (execMmaRank c e res s) = s.sealed_ := by simp [execMmaRank]

@[simp] theorem sealedAfter_execMmaWl {c e : Nat} : sealedAfter (execMmaWl c e s) = s.sealed_ := by
  rw [execMmaWl, sealedAfter_next, State.ite_sealed_, State.onCur_sealed_ fun s p k i w => ?_, ite_self]
  dsimp only
  split
  · rfl
  · split
    · rfl
    · split
      · exact State.haltWord_sealed_
      · exact State.tick_sealed_

@[simp] theorem State.mmaSt_sealed_ {p eng i : Nat} {e : Cqe} {res : Nat} : (s.mmaSt p eng i e res).sealed_ = s.sealed_ := by
  unfold State.mmaSt
  dsimp only
  (repeat' split) <;> simp

@[simp] theorem sealedAfter_execMmaSt {c e res : Nat} : sealedAfter (execMmaSt c e res s) = s.sealed_ := by simp [execMmaSt]
@[simp] theorem sealedAfter_execMmaDrain {c e : Nat} : sealedAfter (execMmaDrain c e s) = s.sealed_ := by simp [execMmaDrain]

@[simp] theorem sealedAfter_execMmaSpill {c e : Nat} : sealedAfter (execMmaSpill c e s) = s.sealed_ := by
  rw [execMmaSpill, sealedAfter_next, State.ite_sealed_, State.onCur_sealed_ fun s p k i w => ?_, ite_self]
  dsimp only
  split
  · rfl
  · exact State.finish_sealed_.trans State.localWrite_sealed_

@[simp] theorem sealedAfter_execMmaFill {c e : Nat} : sealedAfter (execMmaFill c e s) = s.sealed_ := by simp [execMmaFill]
@[simp] theorem sealedAfter_execMmaFree {c e : Nat} : sealedAfter (execMmaFree c e s) = s.sealed_ := by simp [execMmaFree]
@[simp] theorem sealedAfter_execStartTokenGrant {c e : Nat} : sealedAfter (execStartTokenGrant c e s) = s.sealed_ := by simp [execStartTokenGrant]
@[simp] theorem sealedAfter_execRampUpDone {c e : Nat} : sealedAfter (execRampUpDone c e s) = s.sealed_ := by simp [execRampUpDone]
@[simp] theorem sealedAfter_execIdleHoldExpiry {c e : Nat} : sealedAfter (execIdleHoldExpiry c e s) = s.sealed_ := by simp [execIdleHoldExpiry]
@[simp] theorem sealedAfter_execStopSlotGrant {c e : Nat} : sealedAfter (execStopSlotGrant c e s) = s.sealed_ := by simp [execStopSlotGrant]

@[simp] theorem sealedAfter_execRampDownDone {c e : Nat} : sealedAfter (execRampDownDone c e s) = s.sealed_ := by
  unfold execRampDownDone
  simp only [sealedAfter_next]
  (repeat' split) <;> simp [*]

/-! #### The drains -/

@[simp] theorem State.startDrain_sealed_ {p q : Nat} {e : Cqe} : (s.startDrain p q e).sealed_ = s.sealed_ := by
  unfold State.startDrain
  dsimp only
  (repeat' split) <;> simp

@[simp] theorem State.onFenceWord_sealed_ {c op : Nat} {f : State → Nat → Core → Nat → Cqe → State}
    (hf : ∀ s p c i e, (f s p c i e).sealed_ = s.sealed_) : (s.onFenceWord c op f).sealed_ = s.sealed_ := by
  unfold State.onFenceWord
  simp [*]

@[simp] theorem State.fenceDone_sealed_ {p : Nat} {e : Cqe} : (s.fenceDone p e).sealed_ = s.sealed_ := rfl

@[simp] theorem sealedAfter_execDrainAcceptTile {c e : Nat} : sealedAfter (execDrainAcceptTile c e s) = s.sealed_ := by
  rw [execDrainAcceptTile, sealedAfter_next, State.ite_sealed_, State.onCore_sealed_ fun s p k => ?_, ite_self]
  dsimp only
  split
  · rfl
  · split <;> rfl

@[simp] theorem State.drainRow_sealed_ {p i : Nat} {e : Cqe} {d : DrnTile} : (s.drainRow p i e d).sealed_ = s.sealed_ := by
  unfold State.drainRow
  dsimp only
  split <;> simp

@[simp] theorem sealedAfter_execDrnTile {c lane : Nat} : sealedAfter (execDrnTile c lane s) = s.sealed_ := by
  rw [execDrnTile, sealedAfter_next, State.ite_sealed_, State.onCur_sealed_ fun s p k i e => ?_, ite_self]
  split
  · simp
  · rfl

@[simp] theorem sealedAfter_execDrnSrctx {c lane : Nat} : sealedAfter (execDrnSrctx c lane s) = s.sealed_ := by
  rw [execDrnSrctx, sealedAfter_next, State.ite_sealed_, State.onCur_sealed_ fun s p k i e => ?_, ite_self]
  exact State.finish_sealed_

@[simp] theorem sealedAfter_execDrnCfg {c : Nat} : sealedAfter (execDrnCfg c s) = s.sealed_ := by
  refine State.onCore_sealed_ fun _ _ _ => ?_
  split <;> simp

@[simp] theorem sealedAfter_execDrnTbl {c : Nat} : sealedAfter (execDrnTbl c s) = s.sealed_ := by
  refine State.onCore_sealed_ fun _ _ _ => ?_
  dsimp only
  (repeat' split) <;> simp

@[simp] theorem sealedAfter_execDrnStat {c : Nat} : sealedAfter (execDrnStat c s) = s.sealed_ := by simp [execDrnStat]

@[simp] theorem sealedAfter_execDrnCntClr {c : Nat} : sealedAfter (execDrnCntClr c s) = s.sealed_ := by
  refine State.onCore_sealed_ fun _ _ _ => ?_
  simp

@[simp] theorem sealedAfter_execEngCntClr {c e : Nat} : sealedAfter (execEngCntClr c e s) = s.sealed_ := by
  rw [execEngCntClr, sealedAfter_next, State.ite_sealed_, State.onCore_sealed_ fun s p k => State.setCore_sealed_ .., ite_self]

/-! #### The caches -/

@[simp] theorem State.bumpCluster_sealed_ {g off n : Nat} : (s.bumpCluster g off n).sealed_ = s.sealed_ := rfl

@[simp] theorem State.lineToMemory_sealed_ {v : CLine} : (s.lineToMemory v).sealed_ = s.sealed_ := by
  unfold State.lineToMemory
  dsimp only
  (repeat' split) <;> simp

@[simp] theorem State.l2Insert_sealed_ {g : Nat} {x : CLine} : (s.l2Insert g x).sealed_ = s.sealed_ := by
  unfold State.l2Insert
  dsimp only
  split <;> simp

@[simp] theorem State.askSwitch_sealed_ {p line : Nat} {wr : Option (List Byte)} {poison : Bool} :
    (s.askSwitch p line wr poison).sealed_ = s.sealed_ :=
  rfl

@[simp] theorem State.l1Insert_sealed_ {p : Nat} {x : CLine} : (s.l1Insert p x).sealed_ = s.sealed_ := by
  unfold State.l1Insert
  dsimp only
  split <;> simp

@[simp] theorem State.l1Fill_sealed_ {p line : Nat} {bytes : List Byte} {poison : Bool} : (s.l1Fill p line bytes poison).sealed_ = s.sealed_ := by
  unfold State.l1Fill
  dsimp only
  split <;> simp

@[simp] theorem State.servePf_sealed_ {g : Nat} {r : SwReq} : (s.servePf g r).sealed_ = s.sealed_ := by simp [State.servePf]

@[simp] theorem State.serveReq_sealed_ {g : Nat} {r : SwReq} : (s.serveReq g r).sealed_ = s.sealed_ := by
  unfold State.serveReq
  dsimp only
  (repeat' split) <;> simp

@[simp] theorem State.arbitrate_sealed_ {g fuel : Nat} : (s.arbitrate g fuel).sealed_ = s.sealed_ := by
  induction fuel generalizing s with
  | zero => rfl
  | succ n ih =>
    unfold State.arbitrate
    split
    · rfl
    · exact ih.trans State.serveReq_sealed_

@[simp] theorem State.l2Ecc_sealed_ {g line err : Nat} : (s.l2Ecc g line err).sealed_ = s.sealed_ := by
  unfold State.l2Ecc
  dsimp only
  split <;> simp

@[simp] theorem sealedAfter_execClusterRequest {g port stamp err : Nat} : sealedAfter (execClusterRequest g port stamp err s) = s.sealed_ := by
  refine State.under_sealed_ fun s => ?_
  dsimp only
  split
  · rfl
  · split
    · simp
    · split
      · rfl
      · simp

@[simp] theorem State.fillPort_sealed_ {g line port : Nat} {bytes : List PByte} : (s.fillPort g line port bytes).sealed_ = s.sealed_ := by
  unfold State.fillPort
  split <;> simp

@[simp] theorem State.lineRead_sealed_ {line : Nat} : (s.lineRead line).2.sealed_ = s.sealed_ := by
  unfold State.lineRead
  dsimp only
  split <;> simp

@[simp] theorem sealedAfter_execL2MissFill {g line : Nat} : sealedAfter (execL2MissFill g line s) = s.sealed_ := by
  refine State.under_sealed_ fun s => ?_
  dsimp only
  split
  · rfl
  · rw [State.arbitrate_sealed_, State.foldl_sealed_ (fun _ _ => State.fillPort_sealed_)]
    split
    · exact State.l2Insert_sealed_.trans State.lineRead_sealed_
    · rfl

@[simp] theorem State.l1Miss_sealed_ {p a : Nat} : (s.l1Miss p a).sealed_ = s.sealed_ := by
  unfold State.l1Miss
  dsimp only
  (repeat' split) <;> simp

@[simp] theorem State.l1Flush_sealed_ {p i : Nat} {e : Cqe} {inv : Bool} : (s.l1Flush p i e inv).sealed_ = s.sealed_ := by
  unfold State.l1Flush
  dsimp only
  split
  · exact State.putWord_sealed_.trans (State.foldl_sealed_ (fun _ _ => State.askSwitch_sealed_) _ _)
  · simp

@[simp] theorem sealedAfter_execVecL1flush {c : Nat} : sealedAfter (execVecL1flush c s) = s.sealed_ := by simp [execVecL1flush]
@[simp] theorem sealedAfter_execVecL1inv {c : Nat} : sealedAfter (execVecL1inv c s) = s.sealed_ := by simp [execVecL1inv]
@[simp] theorem State.l2Flush_sealed_ {p i : Nat} {e : Cqe} {inv : Bool} : (s.l2Flush p i e inv).sealed_ = s.sealed_ := by simp [State.l2Flush]
@[simp] theorem sealedAfter_execStrL2flush {c i : Nat} : sealedAfter (execStrL2flush c i s) = s.sealed_ := by simp [execStrL2flush]
@[simp] theorem sealedAfter_execStrL2inv {c i : Nat} : sealedAfter (execStrL2inv c i s) = s.sealed_ := by simp [execStrL2inv]

@[simp] theorem sealedAfter_execL2CntClr {c : Nat} : sealedAfter (execL2CntClr c s) = s.sealed_ := by
  refine State.onCore_sealed_ fun _ _ _ => ?_
  simp

/-! #### Ports and links -/

@[simp] theorem State.setPort_sealed_ {p : Nat} {x : Port} : (s.setPort p x).sealed_ = s.sealed_ := rfl
@[simp] theorem State.modPort_sealed_ {p : Nat} {f : Port → Port} : (s.modPort p f).sealed_ = s.sealed_ := rfl
@[simp] theorem State.portCount_sealed_ {p off n : Nat} : (s.portCount p off n).sealed_ = s.sealed_ := rfl
@[simp] theorem State.portErr_sealed_ {p bit : Nat} : (s.portErr p bit).sealed_ = s.sealed_ := by simp [State.portErr]
@[simp] theorem State.emitGroups_sealed_ {p : Nat} {l : List TxGroup} : (s.emitGroups p l).sealed_ = s.sealed_ :=
  State.foldl_sealed_ (fun s g => by dsimp only; split <;> rfl) l s
@[simp] theorem State.portRetrain_sealed_ {p : Nat} : (s.portRetrain p).sealed_ = s.sealed_ := rfl
@[simp] theorem State.portPut_sealed_ {p : Nat} {k : Pkt} : (s.portPut p k).sealed_ = s.sealed_ := by simp [State.portPut]

@[simp] theorem State.portPump_sealed_ {p fuel : Nat} : (s.portPump p fuel).sealed_ = s.sealed_ := by
  induction fuel generalizing s with
  | zero => rfl
  | succ n ih =>
    unfold State.portPump
    dsimp only
    split
    · rfl
    · split
      · simp
      · split
        · rfl
        · split
          · rfl
          · exact ih.trans State.portPut_sealed_

@[simp] theorem State.portSend_sealed_ {p : Nat} {k : Pkt} : (s.portSend p k).sealed_ = s.sealed_ := by simp [State.portSend]
@[simp] theorem State.noRoute_sealed_ {inp : Option Nat} {off : Nat} : (s.noRoute inp off).sealed_ = s.sealed_ := by simp [State.noRoute]

@[simp] theorem State.hxRoute_sealed_ {k : Pkt} {inp : Option Nat} : (s.hxRoute k inp).sealed_ = s.sealed_ := by
  unfold State.hxRoute
  split <;> simp

@[simp] theorem State.hxSend_sealed_ {hd : PktHdr} {b : PktBody} : (s.hxSend hd b).sealed_ = s.sealed_ := by simp [State.hxSend]
@[simp] theorem State.sendCtl_sealed_ {d : Nat} {m : CtlMsg} : (s.sendCtl d m).sealed_ = s.sealed_ := by simp [State.sendCtl]
@[simp] theorem State.portReplay_sealed_ {p : Nat} : (s.portReplay p).sealed_ = s.sealed_ := by simp [State.portReplay]
@[simp] theorem sealedAfter_execNakReceive {p ack : Nat} : sealedAfter (execNakReceive p ack s) = s.sealed_ := by simp [execNakReceive]
@[simp] theorem sealedAfter_execReplayTimeout {p : Nat} : sealedAfter (execReplayTimeout p s) = s.sealed_ := by simp [execReplayTimeout]
@[simp] theorem State.portIdle_sealed_ {p : Nat} : (s.portIdle p).sealed_ = s.sealed_ := by simp [State.portIdle]
@[simp] theorem sealedAfter_execFlitGroupReceive {p gseq : Nat} {crcOk ackValid : Bool} {ack : Nat} {nak : Bool} {cret : List Nat} {flits : Nat} :
    sealedAfter (execFlitGroupReceive p gseq crcOk ackValid ack nak cret flits s) = s.sealed_ := by
  simp [execFlitGroupReceive]
@[simp] theorem State.portStart_sealed_ {p : Nat} : (s.portStart p).sealed_ = s.sealed_ := by simp [State.portStart]

@[simp] theorem State.sendCtlBut_sealed_ {p d : Nat} {m : CtlMsg} : (s.sendCtlBut p d m).sealed_ = s.sealed_ := by
  unfold State.sendCtlBut
  split <;> simp

@[simp] theorem State.portDead_sealed_ {p : Nat} : (s.portDead p).sealed_ = s.sealed_ := by simp [State.portDead]
@[simp] theorem sealedAfter_execPortTraining {p fail : Nat} : sealedAfter (execPortTraining p fail s) = s.sealed_ := by simp [execPortTraining]
@[simp] theorem State.portUp_sealed_ {p : Nat} {st : PortState} : (s.portUp p st).sealed_ = s.sealed_ := by simp [State.portUp]
@[simp] theorem sealedAfter_execHello {p : Nat} {m : Hello} : sealedAfter (execHello p m s) = s.sealed_ := by simp [execHello]
@[simp] theorem sealedAfter_execKeyExchangeMessage {p n : Nat} {authOk sealedOk : Bool} :
    sealedAfter (execKeyExchangeMessage p n authOk sealedOk s) = s.sealed_ := by
  simp [execKeyExchangeMessage]
@[simp] theorem sealedAfter_execRetrain {p : Nat} : sealedAfter (execRetrain p s) = s.sealed_ := by simp [execRetrain]
@[simp] theorem sealedAfter_execLaneErrorWindow {p lane errs : Nat} : sealedAfter (execLaneErrorWindow p lane errs s) = s.sealed_ := by
  simp [execLaneErrorWindow]
@[simp] theorem State.markLost_sealed_ {d : Nat} : (s.markLost d).sealed_ = s.sealed_ := by simp [State.markLost]
@[simp] theorem State.noteCut_sealed_ {m d : Nat} : (s.noteCut m d).sealed_ = s.sealed_ := by simp [State.noteCut]
@[simp] theorem sealedAfter_execPortFailed {p : Nat} {last : Option Nat} : sealedAfter (execPortFailed p last s) = s.sealed_ := by
  simp [execPortFailed]
@[simp] theorem sealedAfter_execRefclkSerLoss {quad : Nat} : sealedAfter (execRefclkSerLoss quad s) = s.sealed_ := by simp [execRefclkSerLoss]

/-! #### The vector unit -/

@[simp] theorem State.vecWait_sealed_ {p : Nat} {ins outs : List (Nat × Nat)} : (s.vecWait p ins outs).sealed_ = s.sealed_ := rfl

@[simp] theorem State.vecPop_sealed_ {p : Nat} {e : Cqe} {ins outs : List (Nat × Nat)} {f : Core → List (List DqEnt) → State}
    (hf : ∀ c es, (f c es).sealed_ = s.sealed_) : (s.vecPop p e ins outs f).sealed_ = s.sealed_ := by
  unfold State.vecPop
  (repeat' split) <;> simp [*]

@[simp] theorem State.startVec_sealed_ {p : Nat} {e : Cqe} : (s.startVec p e).sealed_ = s.sealed_ := by
  unfold State.startVec
  dsimp only
  (repeat' split) <;> simp

@[simp] theorem sealedAfter_execVecEw {c : Nat} : sealedAfter (execVecEw c s) = s.sealed_ :=
  State.onCur_sealed_ fun _ _ _ _ _ => State.vecPop_sealed_ fun _ _ => State.tick_sealed_
@[simp] theorem sealedAfter_execVecRed {c : Nat} : sealedAfter (execVecRed c s) = s.sealed_ :=
  State.onCur_sealed_ fun _ _ _ _ _ => State.vecPop_sealed_ fun _ _ => State.tick_sealed_
@[simp] theorem sealedAfter_execVecCmpred {c : Nat} : sealedAfter (execVecCmpred c s) = s.sealed_ :=
  State.onCur_sealed_ fun _ _ _ _ _ => State.vecPop_sealed_ fun _ _ => State.tick_sealed_

@[simp] theorem State.rowOp_sealed_ {p i : Nat} {k : Core} {e : Cqe} {ins : List (Nat × Nat)} {res : List W32 → List W32} :
    (s.rowOp p i k e ins res).sealed_ = s.sealed_ := by
  unfold State.rowOp
  dsimp only
  split
  · exact State.vecPop_sealed_ fun _ _ => State.putWord_sealed_
  · split
    · exact State.vecWait_sealed_
    · exact State.tick_sealed_

@[simp] theorem sealedAfter_execVecSmax {c : Nat} : sealedAfter (execVecSmax c s) = s.sealed_ := by simp [execVecSmax]
@[simp] theorem sealedAfter_execVecNorm {c : Nat} : sealedAfter (execVecNorm c s) = s.sealed_ := by simp [execVecNorm]

@[simp] theorem sealedAfter_execVecGath {c : Nat} : sealedAfter (execVecGath c s) = s.sealed_ := by
  refine State.onCore_sealed_ fun _ _ _ => ?_
  dsimp only
  (repeat' split) <;> simp

@[simp] theorem sealedAfter_execVecScat {c : Nat} : sealedAfter (execVecScat c s) = s.sealed_ := by
  refine State.onCore_sealed_ fun _ _ _ => ?_
  dsimp only
  (repeat' split) <;> simp

@[simp] theorem sealedAfter_execVecSort {c : Nat} : sealedAfter (execVecSort c s) = s.sealed_ := by
  refine State.onCur_sealed_ fun s p k i e => ?_
  dsimp only
  split
  · exact State.vecPop_sealed_ fun _ _ => State.putWord_sealed_
  · split
    · exact State.vecWait_sealed_
    · exact State.finish_sealed_

@[simp] theorem sealedAfter_execVecNms {c : Nat} : sealedAfter (execVecNms c s) = s.sealed_ := by
  refine State.onCur_sealed_ fun s p k i e => ?_
  dsimp only
  split
  · exact State.vecPop_sealed_ fun _ _ => State.putWord_sealed_
  · split
    · exact State.vecWait_sealed_
    · exact State.finish_sealed_

@[simp] theorem sealedAfter_execVecLoss {c : Nat} : sealedAfter (execVecLoss c s) = s.sealed_ :=
  State.onCur_sealed_ fun _ _ _ _ _ => State.vecPop_sealed_ fun _ _ => State.finish_sealed_

@[simp] theorem sealedAfter_execVecAgset {c : Nat} : sealedAfter (execVecAgset c s) = s.sealed_ := by
  refine State.onCore_sealed_ fun _ _ _ => ?_
  split <;> simp

@[simp] theorem sealedAfter_execVecSrctx {c : Nat} : sealedAfter (execVecSrctx c s) = s.sealed_ := by
  refine State.onCore_sealed_ fun _ _ _ => ?_
  split <;> simp

@[simp] theorem sealedAfter_execVecOpt {c : Nat} : sealedAfter (execVecOpt c s) = s.sealed_ :=
  State.onCur_sealed_ fun _ _ _ _ _ => State.vecPop_sealed_ fun _ _ => State.tick_sealed_

/-! #### The write unit -/

@[simp] theorem State.startWrite_sealed_ {p : Nat} {e : Cqe} : (s.startWrite p e).sealed_ = s.sealed_ := by
  unfold State.startWrite
  dsimp only
  (repeat' split) <;> simp

@[simp] theorem sealedAfter_execWrAgset {c : Nat} : sealedAfter (execWrAgset c s) = s.sealed_ := by
  refine State.onCore_sealed_ fun _ _ _ => ?_
  split <;> simp

@[simp] theorem State.writeEntry_sealed_ {p : Nat} {e : Cqe} {g : Agen} {d : List Byte} : triedSealed id (s.writeEntry p e g d) = s.sealed_ := by
  unfold State.writeEntry
  extract_lets k stash a len
  clear_value stash
  split
  · refine tried_ite State.freezeAt_sealed_ ?_
    split
    · exact State.haltIllegal_sealed_
    · extract_lets pl
      split
      · exact State.freezeAt_sealed_
      · exact State.foldl_sealed_ (fun _ _ => State.wholeWrite_sealed_) _ _
  · refine tried_ite State.freezeAt_sealed_ ?_
    split
    · exact State.haltIllegal_sealed_
    · exact State.localClear_sealed_.trans (State.foldl_sealed_ (fun _ _ => State.localWrite_sealed_) _ _)

@[simp] theorem sealedAfter_execWrRows {c : Nat} : sealedAfter (execWrRows c s) = s.sealed_ := by
  refine State.onCur_sealed_ fun s p k i e => ?_
  dsimp only
  split
  · exact State.vecWait_sealed_
  · split
    · rfl
    · split
      · exact State.haltWord_sealed_
      · split
        · next h => exact sealed_of_error State.writeEntry_sealed_ h
        · next t h =>
          have written : t.sealed_ = s.sealed_ := sealed_of_ok State.writeEntry_sealed_ h
          exact State.tick_sealed_.trans written

@[simp] theorem State.writeComplete_sealed_ {p : Nat} {e : Cqe} : (s.writeComplete p e).sealed_ = s.sealed_ := by
  unfold State.writeComplete
  split <;> simp

@[simp] theorem sealedAfter_execTpCntClr {c : Nat} : sealedAfter (execTpCntClr c s) = s.sealed_ := by
  refine State.onCore_sealed_ fun _ _ _ => ?_
  simp

/-! #### The update unit and commits -/

theorem State.updWrite_sealed_ {p obj ofs : Nat} {d : List Byte} {t : State} (e : s.updWrite p obj ofs d = some t) : t.sealed_ = s.sealed_ := by
  unfold State.updWrite at e
  (repeat' split at e) <;> cases e <;> simp

@[simp] theorem State.startUpd_sealed_ {p : Nat} {e : Cqe} : (s.startUpd p e).sealed_ = s.sealed_ := by
  unfold State.startUpd
  dsimp only
  (repeat' split) <;> simp

@[simp] theorem sealedAfter_execUpdHp {c : Nat} : sealedAfter (execUpdHp c s) = s.sealed_ := by
  refine State.onCore_sealed_ fun _ _ _ => ?_
  split <;> simp

@[simp] theorem State.stagePut_sealed_ {p : Nat} {d : List Byte} : triedSealed id (s.stagePut p d) = s.sealed_ := by
  unfold State.stagePut
  dsimp only
  split <;> simp

@[simp] theorem State.updRead_sealed_ {p : Nat} {e : Cqe} {obj ofs n : Nat} : triedSealed Prod.snd (s.updRead p e obj ofs n) = s.sealed_ := by
  unfold State.updRead
  dsimp only
  (repeat' split) <;> simp

@[simp] theorem State.updGroup_sealed_ {p i : Nat} {e : Cqe} {g : List W32} : (s.updGroup p i e g).sealed_ = s.sealed_ := by
  unfold State.updGroup
  dsimp only
  have head : triedSealed id (if e.n = 0 then s.stagePut p (runHeader ((s.core p).upd.hp.getD (uSet e.word) {}) e.word e.seqno) else .ok s)
      = s.sealed_ := by
    split
    · exact State.stagePut_sealed_
    · rfl
  split
  · next e1 => exact sealed_of_error head e1
  · next s1 e1 =>
    have h1 : s1.sealed_ = s.sealed_ := sealed_of_ok head e1
    split
    · next e2 => exact (sealed_of_error State.updRead_sealed_ e2).trans h1
    · next s2 e2 =>
      have h2 : s2.sealed_ = s.sealed_ := (sealed_of_ok State.updRead_sealed_ e2).trans h1
      split
      · next e3 => exact (sealed_of_error State.updRead_sealed_ e3).trans h2
      · next s3 e3 =>
        have h3 : s3.sealed_ = s.sealed_ := (sealed_of_ok State.updRead_sealed_ e3).trans h2
        split
        · next e4 => exact (sealed_of_error State.stagePut_sealed_ e4).trans h3
        · next e4 => exact State.tick_sealed_.trans ((sealed_of_ok State.stagePut_sealed_ e4).trans h3)

@[simp] theorem sealedAfter_execUpdRun {c : Nat} : sealedAfter (execUpdRun c s) = s.sealed_ := by
  refine State.onCore_sealed_ fun _ _ _ => ?_
  dsimp only
  (repeat' split) <;> simp

@[simp] theorem sealedAfter_execUpdNorm {c : Nat} : sealedAfter (execUpdNorm c s) = s.sealed_ := by
  refine State.onCore_sealed_ fun _ _ _ => ?_
  dsimp only
  (repeat' split) <;> simp

@[simp] theorem sealedAfter_execUpdCntClr {c : Nat} : sealedAfter (execUpdCntClr c s) = s.sealed_ := by
  refine State.onCore_sealed_ fun _ _ _ => ?_
  simp

theorem State.makeShadow_sealed_ {obj : Nat} {t : State} (e : s.makeShadow obj = some t) : t.sealed_ = s.sealed_ := by
  unfold State.makeShadow at e
  dsimp only at e
  split at e
  · cases e
  · split at e
    · cases e
    · cases e
      exact State.objWrite_sealed_.trans State.objRead_sealed_

theorem State.makeShadows_sealed_ {objs : List Nat} {t : State} (e : s.makeShadows objs = some t) : t.sealed_ = s.sealed_ := by
  unfold State.makeShadows at e
  refine foldl_inv (fun a : Option State => ∀ t, a = some t → t.sealed_ = s.sealed_) _ (fun a o ha t e => ?_) objs (some s) (fun t e => ?_) t e
  · obtain ⟨u, hu, e⟩ := Option.bind_eq_some_iff.1 e
    split at e
    · cases e
      exact ha _ hu
    · exact (State.makeShadow_sealed_ e).trans (ha _ hu)
  · cases e
    rfl

@[simp] theorem State.commitPut_sealed_ {p obj ofs : Nat} {d : List Byte} : (s.commitPut p obj ofs d).sealed_ = s.sealed_ := by
  unfold State.commitPut
  split
  · next e => exact State.updWrite_sealed_ e
  · rfl

@[simp] theorem State.commitGroup_sealed_ {s0 : State} {p stage : Nat} {r : StageRun} {n : Nat} {x : CommitPos} :
    (s.commitGroup s0 p stage r n x).1.sealed_ = s.sealed_ := by
  unfold State.commitGroup
  dsimp only
  (repeat' split) <;> simp

@[simp] theorem State.commitVersion_sealed_ {p stage obj : Nat} {x : CommitPos} : (s.commitVersion p stage obj x).1.sealed_ = s.sealed_ := by
  simp [State.commitVersion]

@[simp] theorem State.beginCommit_sealed_ {p : Nat} : (s.beginCommit p).sealed_ = s.sealed_ := by
  unfold State.beginCommit
  dsimp only
  split
  · rfl
  · next t e =>
    have made : t.sealed_ = s.sealed_ := State.makeShadows_sealed_ e
    exact State.commitPut_sealed_.trans made

@[simp] theorem State.replay_sealed_ {p : Nat} : (s.replay p).1.sealed_ = s.sealed_ := by simp [State.replay]
@[simp] theorem sealedAfter_execRcmtGo {c : Nat} : sealedAfter (execRcmtGo c s) = s.sealed_ := by simp [execRcmtGo]

@[simp] theorem State.rcmtGroup_sealed_ {p stage : Nat} {sq : Sequencer} {ent : Option (Nat × Nat × List Byte × List Byte)} {r : StageRun} {q : Nat}
    {s0 : State} : (s.rcmtGroup p stage sq ent r q s0).sealed_ = s.sealed_ := by
  unfold State.rcmtGroup
  split <;> simp

/-! #### The exchange unit -/

@[simp] theorem State.startExch_sealed_ {p : Nat} {e : Cqe} : (s.startExch p e).sealed_ = s.sealed_ := by
  unfold State.startExch
  dsimp only
  (repeat' split) <;> simp

@[simp] theorem sealedAfter_execExPut {c i : Nat} : sealedAfter (execExPut c i s) = s.sealed_ := by simp [execExPut]
@[simp] theorem State.hold_sealed_ {p : Nat} {hd : Held} : (s.hold p hd).sealed_ = s.sealed_ := rfl

@[simp] theorem State.deliverBar_sealed_ {p : Nat} {src dbar : Option Nat} : (s.deliverBar p src dbar).sealed_ = s.sealed_ := by
  unfold State.deliverBar
  split <;> simp

@[simp] theorem State.dropDelivery_sealed_ {l : Nat} : (s.dropDelivery l).sealed_ = s.sealed_ := by
  unfold State.dropDelivery
  split <;> simp

@[simp] theorem State.unsend_sealed_ {k : Nat} : (s.unsend k).sealed_ = s.sealed_ := rfl

@[simp] theorem State.putLocal_sealed_ {p space addr : Nat} {data : List Byte} : (s.putLocal p space addr data).sealed_ = s.sealed_ := by
  unfold State.putLocal
  dsimp only
  split
  · rw [State.bumpGen_sealed_, State.localWrite_sealed_, State.bumpGen_sealed_]
  · exact State.localWrite_sealed_

@[simp] theorem sealedAfter_execPutDelivery {k : Nat} : sealedAfter (execPutDelivery k s) = s.sealed_ := by
  unfold execPutDelivery
  simp only [sealedAfter_next]
  (repeat' split) <;> simp

theorem State.landHandle_sealed_ {p : Nat} {src : Option Nat} {rhq epoch ofs : Nat} {data : List Byte} {pz : List Nat} {last : Bool} {dbar : Option
    Nat} {t : State} (e : s.landHandle p src rhq epoch ofs data pz last dbar = .done t) : t.sealed_ = s.sealed_ := by
  unfold State.landHandle at e
  dsimp only at e
  split at e
  · cases e
    rfl
  · split at e
    · cases e
      rfl
    · split at e <;> cases e
      · rfl
      · rw [State.release_sealed_, State.modCore_sealed_]
    · split at e
      · cases e
      · split at e <;> cases e
        · rw [State.modCore_sealed_, State.localPoison_sealed_, State.localWrite_sealed_]
        · rw [State.deliverBar_sealed_, State.ite_sealed_, State.hold_sealed_, ite_self, State.modCore_sealed_, State.free_sealed_,
            State.localPoison_sealed_, State.localWrite_sealed_]

@[simp] theorem sealedAfter_execHandleDelivery {k : Nat} : sealedAfter (execHandleDelivery k s) = s.sealed_ := by
  rw [execHandleDelivery, sealedAfter_next]
  split
  · split
    · rfl
    · dsimp only
      split
      · simp
      · split
        · next t e =>
          have landed : t.sealed_ = (s.unsend k).sealed_ := State.landHandle_sealed_ e
          exact landed
        · simp
  · rfl

@[simp] theorem State.handleAcked_sealed_ {p word q hd : Nat} {ret : Bool} : (s.handleAcked p word q hd ret).sealed_ = s.sealed_ := by
  unfold State.handleAcked
  dsimp only
  (repeat' split) <;> simp

@[simp] theorem State.takeAck_sealed_ {p word : Nat} {hq : Option Nat} {hd : Nat} {ret : Bool} :
    (s.takeAck p word hq hd ret).sealed_ = s.sealed_ := by
  unfold State.takeAck
  split <;> simp

@[simp] theorem sealedAfter_execExchAck {k : Nat} : sealedAfter (execExchAck k s) = s.sealed_ := by
  unfold execExchAck
  split <;> simp

@[simp] theorem State.takeCredit_sealed_ {p hq n : Nat} : (s.takeCredit p hq n).sealed_ = s.sealed_ := by simp [State.takeCredit]

@[simp] theorem sealedAfter_execCreditReturn {k : Nat} : sealedAfter (execCreditReturn k s) = s.sealed_ := by
  unfold execCreditReturn
  split <;> simp

@[simp] theorem sealedAfter_execExHbind {c i : Nat} : sealedAfter (execExHbind c i s) = s.sealed_ := by
  refine State.onWord_sealed_ fun _ _ _ _ => ?_
  dsimp only
  (repeat' split) <;> simp

@[simp] theorem State.sendBuffer_sealed_ {hd : PktHdr} {data : List Byte} {dbar : Option Nat} {pz : List Nat} :
    (s.sendBuffer hd data dbar pz).sealed_ = s.sealed_ := by
  simp [State.sendBuffer]
@[simp] theorem State.mcBuffer_sealed_ {hd : PktHdr} {l : List Nat} {data : List Byte} {dbar : Option Nat} :
    (s.mcBuffer hd l data dbar).sealed_ = s.sealed_ := by
  simp [State.mcBuffer]
@[simp] theorem State.noteRemote_sealed_ {p : Nat} {e : Cqe} {dev core q hd : Nat} : (s.noteRemote p e dev core q hd).sealed_ = s.sealed_ := rfl
@[simp] theorem State.handleSent_sealed_ {p i : Nat} {e : Cqe} {hd : Nat} : (s.handleSent p i e hd).sealed_ = s.sealed_ := rfl

@[simp] theorem State.hfwdSend_sealed_ {c p i : Nat} {e : Cqe} {end_ : SendEnd} {hd epoch : Nat} :
    (s.hfwdSend c p i e end_ hd epoch).sealed_ = s.sealed_ := by
  unfold State.hfwdSend
  dsimp only
  (repeat' split) <;> simp

@[simp] theorem sealedAfter_execExHfwd {c i : Nat} : sealedAfter (execExHfwd c i s) = s.sealed_ := by
  refine State.onWord_sealed_ fun _ _ _ _ => ?_
  dsimp only
  (repeat' split) <;> simp

@[simp] theorem sealedAfter_execExMail {c i : Nat} : sealedAfter (execExMail c i s) = s.sealed_ := by
  refine State.onWord_sealed_ fun _ _ _ _ => ?_
  dsimp only
  (repeat' split) <;> simp

theorem State.mailTo_sealed_ {p : Nat} {m : MbxMsg} {t : State} (e : s.mailTo p m = some t) : t.sealed_ = s.sealed_ := by
  unfold State.mailTo at e
  dsimp only at e
  split at e
  · cases e
  · cases e
    rfl

@[simp] theorem State.mailArrive_sealed_ {k : Nat} : (s.mailArrive k).sealed_ = s.sealed_ := by
  unfold State.mailArrive
  split
  · dsimp only
    split
    · rfl
    · split
      · simp
      · split
        · simp
        · split
          · next t e =>
            have put : t.sealed_ = s.sealed_ := State.mailTo_sealed_ e
            exact State.takeAck_sealed_.trans put
          · rfl
  · rfl

@[simp] theorem sealedAfter_execMailboxRetry {k : Nat} : sealedAfter (execMailboxRetry k s) = s.sealed_ := by
  unfold execMailboxRetry
  split <;> simp

@[simp] theorem sealedAfter_execVoileRemoteRetry {k : Nat} : sealedAfter (execVoileRemoteRetry k s) = s.sealed_ := by
  unfold execVoileRemoteRetry
  split <;> simp

@[simp] theorem sealedAfter_execExMrecv {c i : Nat} : sealedAfter (execExMrecv c i s) = s.sealed_ := by
  refine State.onWord_sealed_ fun _ _ _ _ => ?_
  dsimp only
  (repeat' split) <;> simp

@[simp] theorem State.feltStep_sealed_ {p i : Nat} {k : Core} {e : Cqe} {w16 : Bool} {ex : Nat} {plain : Bool} :
    (s.feltStep p i k e w16 ex plain).sealed_ = s.sealed_ := by
  unfold State.feltStep
  dsimp only
  (repeat' split) <;> simp

@[simp] theorem sealedAfter_execExFelt {c i : Nat} : sealedAfter (execExFelt c i s) = s.sealed_ := by simp [execExFelt]
@[simp] theorem sealedAfter_execGconv {c i : Nat} : sealedAfter (execGconv c i s) = s.sealed_ := by simp [execGconv]

@[simp] theorem sealedAfter_execStrCntClr {c : Nat} : sealedAfter (execStrCntClr c s) = s.sealed_ := by
  refine State.onCore_sealed_ fun _ _ _ => ?_
  simp

/-! #### Packets -/

@[simp] theorem State.owe_sealed_ {p : Nat} {hd : PktHdr} : (s.owe p hd).sealed_ = s.sealed_ := rfl
@[simp] theorem State.freezePeer_sealed_ {p sub src obj addr : Nat} : (s.freezePeer p sub src obj addr).sealed_ = s.sealed_ := by
  simp [State.freezePeer]
@[simp] theorem State.mcForward_sealed_ {p : Nat} {hd : PktHdr} {b : PktBody} : (s.mcForward p hd b).sealed_ = s.sealed_ := by simp [State.mcForward]

@[simp] theorem State.rx_sealed_ {p typ : Nat} {hd : PktHdr} {tagOk : Bool} {b : PktBody} {again : Instr} {f : State → State}
    (hf : ∀ s, (f s).sealed_ = s.sealed_) : (s.rx p typ hd tagOk b again f).sealed_ = s.sealed_ := by
  refine State.under_sealed_ fun s => ?_
  split
  · rfl
  · split
    · simp
    · split
      · simp
      · split
        · rfl
        · dsimp only
          split
          · simp
          · split
            · simp
            · split
              · split <;> simp [hf]
              · split
                · split <;> simp [hf]
                · split
                  · simp [hf]
                  · split <;> simp

@[simp] theorem State.ackPkt_sealed_ {hd : PktHdr} : (s.ackPkt hd).sealed_ = s.sealed_ := by simp [State.ackPkt]

@[simp] theorem State.peerCore_sealed_ {p : Nat} {hd : PktHdr} {f : Nat → State} (hf : ∀ l, (f l).sealed_ = s.sealed_) :
    (s.peerCore p hd f).sealed_ = s.sealed_ := by
  unfold State.peerCore
  split <;> simp [*]

@[simp] theorem sealedAfter_execWritePacket {p : Nat} {hd : PktHdr} {tagOk : Bool} {data : List Byte} :
    sealedAfter (execWritePacket p hd tagOk data s) = s.sealed_ := by
  refine State.rx_sealed_ fun s => ?_
  split
  · exact State.peerCore_sealed_ fun c => by split <;> simp
  · refine State.peerCore_sealed_ fun c => ?_
    split <;> simp

@[simp] theorem sealedAfter_execReadPacket {p : Nat} {hd : PktHdr} {tagOk : Bool} {len : Nat} :
    sealedAfter (execReadPacket p hd tagOk len s) = s.sealed_ := by
  refine State.rx_sealed_ fun s => ?_
  dsimp only
  split
  · exact State.peerCore_sealed_ fun c => by split <;> simp
  · refine State.peerCore_sealed_ fun c => ?_
    split <;> simp

@[simp] theorem sealedAfter_execRdrspPacket {p : Nat} {hd : PktHdr} {tagOk : Bool} {data : List Byte} :
    sealedAfter (execRdrspPacket p hd tagOk data s) = s.sealed_ := by
  simp [execRdrspPacket]
@[simp] theorem State.resendStatus_sealed_ {v : Nat} : (s.resendStatus v).sealed_ = s.sealed_ := rfl

@[simp] theorem sealedAfter_execHdelivPacket {p : Nat} {hd : PktHdr} {tagOk : Bool} {data : List Byte} :
    sealedAfter (execHdelivPacket p hd tagOk data s) = s.sealed_ := by
  refine State.rx_sealed_ fun s => ?_
  split
  · rfl
  · refine State.peerCore_sealed_ fun c => ?_
    dsimp only
    split
    · simp
    · next e => simp [State.landHandle_sealed_ e]

@[simp] theorem State.mcSettle_sealed_ {g : Nat} : (s.mcSettle g).sealed_ = s.sealed_ := by
  unfold State.mcSettle
  dsimp only
  split <;> simp

@[simp] theorem State.mcAck_sealed_ {g d : Nat} : (s.mcAck g d).sealed_ = s.sealed_ := by simp [State.mcAck]

@[simp] theorem State.collAcked_sealed_ {c : Nat} : (s.collAcked c).sealed_ = s.sealed_ := by
  unfold State.collAcked
  split <;> simp

@[simp] theorem sealedAfter_execAckPacket {p : Nat} {hd : PktHdr} {tagOk : Bool} : sealedAfter (execAckPacket p hd tagOk s) = s.sealed_ := by
  refine State.rx_sealed_ fun s => ?_
  split
  · simp
  · split
    · simp
    · split
      · split
        · rfl
        · split <;> simp
      · split
        · rfl
        · split <;> simp

@[simp] theorem sealedAfter_execPruneWaitExpiry {g : Nat} : sealedAfter (execPruneWaitExpiry g s) = s.sealed_ := by
  unfold execPruneWaitExpiry
  dsimp only
  split <;> simp

@[simp] theorem State.gapNotice_sealed_ {g mseq : Nat} : (s.gapNotice g mseq).sealed_ = s.sealed_ := by
  unfold State.gapNotice
  dsimp only
  (repeat' split) <;> simp

@[simp] theorem sealedAfter_execGapNotice {g mseq : Nat} : sealedAfter (execGapNotice g mseq s) = s.sealed_ := by simp [execGapNotice]

@[simp] theorem sealedAfter_execHxMcResend {g mseq : Nat} : sealedAfter (execHxMcResend g mseq s) = s.sealed_ := by
  unfold execHxMcResend
  dsimp only
  split <;> simp

@[simp] theorem sealedAfter_execResendRequest {g dev mseq : Nat} : sealedAfter (execResendRequest g dev mseq s) = s.sealed_ := by
  unfold execResendRequest
  simp only [sealedAfter_next]
  (repeat' split) <;> simp

@[simp] theorem sealedAfter_execRejoin {g : Nat} : sealedAfter (execRejoin g s) = s.sealed_ := by
  unfold execRejoin
  split <;> simp

@[simp] theorem State.mcRejoin_sealed_ {g d : Nat} : (s.mcRejoin g d).sealed_ = s.sealed_ := rfl
@[simp] theorem sealedAfter_execRejoinRequest {g dev : Nat} : sealedAfter (execRejoinRequest g dev s) = s.sealed_ := by simp [execRejoinRequest]

@[simp] theorem sealedAfter_execPrunedClear {g hi : Nat} {mask : BitVec 32} : sealedAfter (execPrunedClear g hi mask s) = s.sealed_ := by
  rw [execPrunedClear, sealedAfter_next, State.ite_sealed_, State.foldl_sealed_ fun _ _ => State.mcRejoin_sealed_, ite_self]

@[simp] theorem sealedAfter_execPortCntClr {p : Nat} : sealedAfter (execPortCntClr p s) = s.sealed_ := rfl

/-! #### The step monitor -/

@[simp] theorem State.smCause_sealed_ {n : Nat} : (s.smCause n).sealed_ = s.sealed_ := by simp [State.smCause]
@[simp] theorem State.smCount_sealed_ {off n : Nat} : (s.smCount off n).sealed_ = s.sealed_ := rfl
@[simp] theorem State.modLedger_sealed_ {step attempt : Nat} {f : Ledger → Ledger} : (s.modLedger step attempt f).sealed_ = s.sealed_ := rfl

@[simp] theorem State.sendTotals_sealed_ : s.sendTotals.sealed_ = s.sealed_ := by
  unfold State.sendTotals
  split <;> simp

@[simp] theorem sealedAfter_execOpenNoticeReceive {k : Nat} : sealedAfter (execOpenNoticeReceive k s) = s.sealed_ := by
  unfold execOpenNoticeReceive
  split <;> simp

@[simp] theorem sealedAfter_execCloseReportReceive {k : Nat} : sealedAfter (execCloseReportReceive k s) = s.sealed_ := by
  unfold execCloseReportReceive
  split <;> simp

@[simp] theorem sealedAfter_execCloseDeadline : sealedAfter (execCloseDeadline s) = s.sealed_ := by simp [execCloseDeadline]
@[simp] theorem State.endRound_sealed_ {r : Round} {t : Totals} : (s.endRound r t).sealed_ = s.sealed_ := by simp [State.endRound]

@[simp] theorem State.closeRound_sealed_ {r : Round} : (s.closeRound r).sealed_ = s.sealed_ := by
  unfold State.closeRound
  (repeat' split) <;> simp

@[simp] theorem State.addTotals_sealed_ {dev : Nat} {t : Totals} : (s.addTotals dev t).sealed_ = s.sealed_ := by simp [State.addTotals]
@[simp] theorem State.devCommitted_sealed_ {dev : Nat} : (s.devCommitted dev).sealed_ = s.sealed_ := by simp [State.devCommitted]
@[simp] theorem State.ownCommitted_sealed_ : s.ownCommitted.sealed_ = s.sealed_ := by simp [State.ownCommitted]
@[simp] theorem State.coreCommitted_sealed_ {p : Nat} : (s.coreCommitted p).sealed_ = s.sealed_ := by simp [State.coreCommitted]

@[simp] theorem sealedAfter_execDeviceTotalsReceive {dev : Nat} {t : Option Totals} : sealedAfter (execDeviceTotalsReceive dev t s) = s.sealed_ := by
  unfold execDeviceTotalsReceive
  simp only [sealedAfter_next]
  (repeat' split) <;> simp

@[simp] theorem State.coreVerdict_sealed_ {p : Nat} {v : Verdict} : (s.coreVerdict p v).sealed_ = s.sealed_ := by
  unfold State.coreVerdict
  dsimp only
  (repeat' split) <;> simp

@[simp] theorem State.flipPlanes_sealed_ {verdict : Nat} : (s.flipPlanes verdict).sealed_ = s.sealed_ := rfl
@[simp] theorem State.noteVerdict_sealed_ {v : Verdict} : (s.noteVerdict v).sealed_ = s.sealed_ := by simp [State.noteVerdict]
@[simp] theorem State.takeVerdict_sealed_ {v : Verdict} : (s.takeVerdict v).sealed_ = s.sealed_ := by simp [State.takeVerdict]

@[simp] theorem sealedAfter_execVerdictReceive {v : Option Verdict} : sealedAfter (execVerdictReceive v s) = s.sealed_ := by
  unfold execVerdictReceive
  simp only [sealedAfter_next]
  (repeat' split) <;> simp

@[simp] theorem sealedAfter_execPinWaitRelease {c : Nat} : sealedAfter (execPinWaitRelease c s) = s.sealed_ := by simp [execPinWaitRelease]
@[simp] theorem State.endCommit_sealed_ {p : Nat} : (s.endCommit p).sealed_ = s.sealed_ := by simp [State.endCommit]

@[simp] theorem sealedAfter_execCommitDone {c : Nat} : sealedAfter (execCommitDone c s) = s.sealed_ := by
  refine State.onCore_sealed_ fun s p k => ?_
  split
  · rfl
  · split
    · rfl
    · split
      · exact State.smCause_sealed_
      · next t e =>
        have made : t.sealed_ = s.sealed_ := State.makeShadows_sealed_ e
        have replayed : (t.replay p).1.sealed_ = s.sealed_ := State.replay_sealed_.trans made
        dsimp only
        split
        · exact State.freezeAt_sealed_.trans replayed
        · split
          · exact State.halt_sealed_.trans replayed
          · exact State.endCommit_sealed_.trans replayed

@[simp] theorem sealedAfter_execRcmtDone {c : Nat} : sealedAfter (execRcmtDone c s) = s.sealed_ := by
  refine State.onCore_sealed_ fun s p k => ?_
  split
  · rfl
  · dsimp only
    rw [State.foldl_sealed_ fun _ _ => State.coreCommitted_sealed_, State.modCore_sealed_, State.foldl_sealed_ fun _ _ => State.setObj_sealed_,
      State.foldl_sealed_ fun _ _ => State.rcmtGroup_sealed_]

@[simp] theorem sealedAfter_execSmCntClr : sealedAfter (execSmCntClr s) = s.sealed_ := rfl

/-! #### Collectives -/

@[simp] theorem State.setColl_sealed_ {k : Nat} {x : CollInst} : (s.setColl k x).sealed_ = s.sealed_ := rfl
@[simp] theorem State.setDstat_sealed_ {c : Nat} {x : CollStat} : (s.setDstat c x).sealed_ = s.sealed_ := rfl
@[simp] theorem State.colCount_sealed_ {off n : Nat} : (s.colCount off n).sealed_ = s.sealed_ := rfl
@[simp] theorem State.colCause_sealed_ {n : Nat} : (s.colCause n).sealed_ = s.sealed_ := by simp [State.colCause]

@[simp] theorem State.setSlot_sealed_ {k b : Nat} {y : CollSlot} : (s.setSlot k b y).sealed_ = s.sealed_ := by
  unfold State.setSlot
  dsimp only
  split
  · exact State.localWrite_sealed_
  · rfl

@[simp] theorem State.scaleTo_sealed_ {dev c core kind b v : Nat} : (s.scaleTo dev c core kind b v).sealed_ = s.sealed_ := by simp [State.scaleTo]
@[simp] theorem State.scaleSpread_sealed_ {k kind b v : Nat} : (s.scaleSpread k kind b v).sealed_ = s.sealed_ := by simp [State.scaleSpread]
@[simp] theorem State.planeWrite_sealed_ {x : CollInst} {b v : Nat} : (s.planeWrite x b v).sealed_ = s.sealed_ := by simp [State.planeWrite]

@[simp] theorem State.destWrite_sealed_ {d : CDesc} {i ofs : Nat} {b : List Byte} : (s.destWrite d i ofs b).sealed_ = s.sealed_ := by
  unfold State.destWrite
  split
  · rfl
  · split
    · split
      · exact State.freezeAt_sealed_
      · exact State.localWrite_sealed_
    · dsimp only
      split
      · exact State.freezeAt_sealed_
      · exact State.wholeWrite_sealed_

@[simp] theorem State.srcRead_sealed_ {d : CDesc} {p i ofs : Nat} {e : Cqe} : triedSealed Prod.snd (s.srcRead d p i ofs e) = s.sealed_ := by
  unfold State.srcRead
  dsimp only
  (repeat' split) <;> simp

@[simp] theorem State.writeResult_sealed_ {k b : Nat} : (s.writeResult k b).sealed_ = s.sealed_ := by
  unfold State.writeResult
  dsimp only
  (repeat' split) <;> simp

@[simp] theorem State.listRedo_sealed_ {k b v : Nat} : (s.listRedo k b v).sealed_ = s.sealed_ := by simp [State.listRedo]

@[simp] theorem State.redoRound_sealed_ {k : Nat} : (s.redoRound k).sealed_ = s.sealed_ := by
  unfold State.redoRound
  dsimp only
  split
  · exact State.foldl_sealed_ (fun _ _ => State.colCount_sealed_.trans State.listRedo_sealed_) _ _
  · rfl

@[simp] theorem State.blockTo_sealed_ {k dev phase b : Nat} {blks : List CollBlk} {bytes : List Byte} :
    (s.blockTo k dev phase b blks bytes).sealed_ = s.sealed_ := by
  simp [State.blockTo]

@[simp] theorem State.settleBlock_sealed_ {k b : Nat} : (s.settleBlock k b).sealed_ = s.sealed_ := by
  unfold State.settleBlock
  dsimp only
  split
  · rfl
  · split
    · refine State.redoRound_sealed_.trans ?_
      split
      · exact State.setSlot_sealed_
      · exact State.writeResult_sealed_.trans State.setSlot_sealed_
    · exact State.blockTo_sealed_.trans State.setSlot_sealed_

@[simp] theorem State.blockArrive_sealed_ {k b : Nat} {redo : Bool} {c : CollBlk} : (s.blockArrive k b redo c).sealed_ = s.sealed_ := by
  simp [State.blockArrive]
@[simp] theorem State.groupArrive_sealed_ {k b phase : Nat} {c : CollBlk} : (s.groupArrive k b phase c).sealed_ = s.sealed_ := by
  simp [State.groupArrive]

@[simp] theorem State.settleScale_sealed_ {k b : Nat} : (s.settleScale k b).sealed_ = s.sealed_ := by
  unfold State.settleScale
  dsimp only
  split
  · rfl
  · split
    · exact State.scaleTo_sealed_
    · exact State.scaleSpread_sealed_

@[simp] theorem State.takeScale_sealed_ {c kind b v : Nat} {dev : Bool} : (s.takeScale c kind b v dev).sealed_ = s.sealed_ := by
  unfold State.takeScale
  dsimp only
  (repeat' split) <;> simp

@[simp] theorem sealedAfter_execMailboxMessage {k : Nat} : sealedAfter (execMailboxMessage k s) = s.sealed_ := by
  unfold execMailboxMessage
  split <;> simp

@[simp] theorem State.putColl_sealed_ {p i : Nat} {e : Cqe} : (s.putColl p i e).sealed_ = s.sealed_ := rfl

@[simp] theorem State.contrib_sealed_ {d : CDesc} {p pos t b : Nat} {e : Cqe} : triedSealed Prod.snd (s.contrib d p pos t b e) = s.sealed_ := by
  unfold State.contrib
  split
  · next e1 => exact sealed_of_error State.srcRead_sealed_ e1
  · next t e1 =>
    have read : t.sealed_ = s.sealed_ := sealed_of_ok State.srcRead_sealed_ e1
    exact read

@[simp] theorem State.contribute_sealed_ {k p pos b ex : Nat} {redo : Bool} {v : List Fp} :
    (s.contribute k p pos b ex redo v).sealed_ = s.sealed_ := by
  simp [State.contribute]

@[simp] theorem State.gatherOwn_sealed_ {k p pos b : Nat} {e : Cqe} : (s.gatherOwn k p pos b e).sealed_ = s.sealed_ := by
  unfold State.gatherOwn
  extract_lets x d o d'
  split
  · next e1 => exact sealed_of_error State.srcRead_sealed_ e1
  · next t e1 =>
    have read : t.sealed_ = s.sealed_ := sealed_of_ok State.srcRead_sealed_ e1
    extract_lets s1 x1 s2
    have put : s2.sealed_ = t.sealed_ := State.setColl_sealed_.trans State.destWrite_sealed_
    clear_value s2
    exact (State.foldl_sealed_ (fun _ _ => State.blockTo_sealed_) _ _).trans (put.trans read)

@[simp] theorem State.collStep_sealed_ {k p i : Nat} {e : Cqe} : (s.collStep k p i e).sealed_ = s.sealed_ := by
  unfold State.collStep
  dsimp only
  split
  · split
    · next e1 => exact sealed_of_error State.contrib_sealed_ e1
    · next e1 =>
      have h1 := sealed_of_ok State.contrib_sealed_ e1
      split <;> simp [← h1]
  · split
    · rfl
    · split
      · next e1 => exact sealed_of_error State.contrib_sealed_ e1
      · next e1 =>
        have h1 := sealed_of_ok State.contrib_sealed_ e1
        simp [← h1]
  · split
    · simp
    · refine (State.foldl_fst_sealed_ (fun a t => ?_) _ _).trans State.putColl_sealed_
      split
      · rfl
      · split
        · next e1 => exact sealed_of_error State.contrib_sealed_ e1
        · next e1 => exact State.contribute_sealed_.trans (sealed_of_ok State.contrib_sealed_ e1)
  · split
    · rfl
    · simp

@[simp] theorem State.normStep_sealed_ {k p i : Nat} {c : Core} {e : Cqe} : (s.normStep k p i c e).sealed_ = s.sealed_ := by
  unfold State.normStep
  dsimp only
  (repeat' split) <;> simp

@[simp] theorem sealedAfter_execExColl {c i : Nat} : sealedAfter (execExColl c i s) = s.sealed_ := by
  refine State.onCore_sealed_ fun _ _ _ => ?_
  dsimp only
  (repeat' split) <;> simp

@[simp] theorem State.collFinish_sealed_ {c st step attempt inst : Nat} : (s.collFinish c st step attempt inst).sealed_ = s.sealed_ := by
  unfold State.collFinish
  dsimp only
  rw [State.sendTotals_sealed_, State.ite_sealed_, State.modLedger_sealed_, ite_self, State.foldl_sealed_ fun s l => by split <;> rfl]
  split <;> simp

@[simp] theorem State.collEnd_sealed_ {k st : Nat} : (s.collEnd k st).sealed_ = s.sealed_ := by simp [State.collEnd]
@[simp] theorem State.collDeliver_sealed_ {k : Nat} {hd : PktHdr} {ch : CollHdr} {blks : List CollBlk} {bytes : List Byte} :
    (s.collDeliver k hd ch blks bytes).sealed_ = s.sealed_ := by
  simp [State.collDeliver]

@[simp] theorem State.takeColl_sealed_ {p : Nat} {hd : PktHdr} {ch : CollHdr} {blks : List CollBlk} {bytes : List Byte} :
    (s.takeColl p hd ch blks bytes).sealed_ = s.sealed_ := by
  unfold State.takeColl
  dsimp only
  (repeat' split) <;> simp

@[simp] theorem sealedAfter_execCollPacket {p : Nat} {hd : PktHdr} {tagOk : Bool} {ch : CollHdr} {blks : List CollBlk} {bytes : List Byte} :
    sealedAfter (execCollPacket p hd tagOk ch blks bytes s) = s.sealed_ := by
  simp [execCollPacket]

@[simp] theorem sealedAfter_execCollBlockArrival {k : Nat} : sealedAfter (execCollBlockArrival k s) = s.sealed_ := by
  unfold execCollBlockArrival
  simp only [sealedAfter_next]
  (repeat' split) <;> simp

@[simp] theorem sealedAfter_execCollInstanceStart {c : Nat} : sealedAfter (execCollInstanceStart c s) = s.sealed_ := by
  rw [execCollInstanceStart, sealedAfter_next]
  split
  · rfl
  · rfl
  · refine sealed_ite rfl ?_
    extract_lets q d x inst members sca y k s1 s2 s3 mine
    refine sealed_ite State.collFinish_sealed_ ?_
    have begun : s3.sealed_ = s.sealed_ :=
      (State.foldl_sealed_ (fun _ _ => State.modCore_sealed_ ..) _ _).trans (State.setDstat_sealed_.trans State.setColl_sealed_)
    clear_value s3
    exact (State.foldl_sealed_ (fun _ _ => State.takeColl_sealed_) _ _).trans begun

@[simp] theorem sealedAfter_execCollInstanceEnd {c : Nat} : sealedAfter (execCollInstanceEnd c s) = s.sealed_ := by
  unfold execCollInstanceEnd
  split <;> simp

@[simp] theorem State.normSend_sealed_ {k : Nat} {b : FeltBlk} : (s.normSend k b).sealed_ = s.sealed_ := by
  unfold State.normSend
  dsimp only
  split
  · rw [State.foldl_sealed_ fun _ _ => State.hxSend_sealed_, State.foldl_sealed_ fun s l => by split <;> rfl]
    rfl
  · exact State.hxSend_sealed_

@[simp] theorem State.normAdd_sealed_ {k : Nat} {b : FeltBlk} {dev : Bool} : (s.normAdd k b dev).sealed_ = s.sealed_ := by simp [State.normAdd]

@[simp] theorem sealedAfter_execNormMessage {k : Nat} : sealedAfter (execNormMessage k s) = s.sealed_ := by
  rw [execNormMessage, sealedAfter_next]
  split
  · split
    · rfl
    · split <;> simp
  · split
    · rfl
    · split
      · simp
      · dsimp only
        split
        · simp
        · exact State.foldl_sealed_ (fun s l => by split <;> rfl) _ _
  · split <;> rfl
  · rfl

@[simp] theorem sealedAfter_execCollDeadline {c : Nat} : sealedAfter (execCollDeadline c s) = s.sealed_ := by
  unfold execCollDeadline
  simp only [sealedAfter_next]
  (repeat' split) <;> simp

@[simp] theorem sealedAfter_execFallbackDeadline {c : Nat} : sealedAfter (execFallbackDeadline c s) = s.sealed_ := by
  unfold execFallbackDeadline
  split <;> simp

@[simp] theorem sealedAfter_execAbortColl : sealedAfter (execAbortColl s) = s.sealed_ := by simp [execAbortColl]
@[simp] theorem sealedAfter_execColCntClr : sealedAfter (execColCntClr s) = s.sealed_ := rfl
@[simp] theorem State.mailAnswer_sealed_ {hd : PktHdr} {ok : Bool} : (s.mailAnswer hd ok).sealed_ = s.sealed_ := by simp [State.mailAnswer]

@[simp] theorem State.mailAnswered_sealed_ {hd : PktHdr} : (s.mailAnswered hd).sealed_ = s.sealed_ := by
  unfold State.mailAnswered
  split <;> simp

@[simp] theorem sealedAfter_execVoilePacket {p : Nat} {hd : PktHdr} {tagOk : Bool} {tag : Nat} {data : List Byte} :
    sealedAfter (execVoilePacket p hd tagOk tag data s) = s.sealed_ := by
  refine State.rx_sealed_ fun s => ?_
  dsimp only
  split
  · simp
  · split
    · split
      · split <;> simp
      · simp
    · refine State.peerCore_sealed_ fun c => ?_
      split
      · split <;> simp
      · split
        · next e => exact State.mailAnswer_sealed_.trans (State.mailTo_sealed_ e)
        · simp

/-! #### Staging and flips -/

@[simp] theorem State.openSession_sealed_ {propose : Bool} : (s.openSession propose).sealed_ = s.sealed_ := rfl
@[simp] theorem State.closeSession_sealed_ : s.closeSession.sealed_ = s.sealed_ := rfl
@[simp] theorem State.setStaged_sealed_ {off : Nat} {v : W32} : (s.setStaged off v).sealed_ = s.sealed_ := by simp [State.setStaged]
@[simp] theorem State.stageWrite_sealed_ {off : Nat} {v : W32} : (s.stageWrite off v).sealed_ = s.sealed_ := by simp [State.stageWrite]
@[simp] theorem State.moveBlocks_sealed_ {lport lchan lcodec : Amap MapEnt} : (s.moveBlocks lport lchan lcodec).sealed_ = s.sealed_ := rfl
@[simp] theorem State.stagedView_sealed_ : s.stagedView.sealed_ = s.sealed_ := by simp [State.stagedView]
@[simp] theorem State.cfgCause_sealed_ {bit : Nat} : (s.cfgCause bit).sealed_ = s.sealed_ := by simp [State.cfgCause]

@[simp] theorem State.runCheck_sealed_ : (s.runCheck).1.sealed_ = s.sealed_ := by
  unfold State.runCheck
  split <;> simp

@[simp] theorem State.beginFlip_sealed_ {epoch : Nat} {ring tell : Option Nat} {gfeat : W32} :
    (s.beginFlip epoch ring tell gfeat).sealed_ = s.sealed_ :=
  rfl
@[simp] theorem State.applyMaps_sealed_ {f : Flip} : (s.applyMaps f).sealed_ = s.sealed_ := rfl

@[simp] theorem State.flipIsland_sealed_ {isl : Nat} : (s.flipIsland isl).sealed_ = s.sealed_ := by
  unfold State.flipIsland
  split <;> simp

@[simp] theorem State.splitPools_sealed_ {t : State} (ht : t.sealed_ = s.sealed_) : (s.splitPools t).sealed_ = s.sealed_ := by
  unfold State.splitPools
  dsimp only
  simp [*]

@[simp] theorem State.endFlip_sealed_ {f : Flip} : (s.endFlip f).sealed_ = s.sealed_ := by
  unfold State.endFlip
  split <;> simp

/-! #### Firmware -/

@[simp] theorem State.checkImage_sealed_ {comp : Nat} {img : List Byte} : (s.checkImage comp img).1.sealed_ = s.sealed_ := rfl
@[simp] theorem State.startUpdate_sealed_ {comp : Nat} {img : List Byte} {who : Option Nat} : (s.startUpdate comp img who).sealed_ = s.sealed_ := by
  simp [State.startUpdate]

/-! #### Sessions and sealed mode -/

@[simp] theorem sealedAfter_execGetVersion {tr : Nat} : sealedAfter (execGetVersion tr s) = s.sealed_ := rfl
@[simp] theorem sealedAfter_execGetCapabilities {tr : Nat} : sealedAfter (execGetCapabilities tr s) = s.sealed_ := rfl
@[simp] theorem sealedAfter_execNegotiateAlgorithms {tr : Nat} {offer : List Nat} : sealedAfter (execNegotiateAlgorithms tr offer s) = s.sealed_ := by
  simp [execNegotiateAlgorithms]
@[simp] theorem sealedAfter_execGetDigests {tr slot : Nat} : sealedAfter (execGetDigests tr slot s) = s.sealed_ := by simp [execGetDigests]
@[simp] theorem sealedAfter_execGetCertificate {tr slot ofs len : Nat} : sealedAfter (execGetCertificate tr slot ofs len s) = s.sealed_ := by
  simp [execGetCertificate]
@[simp] theorem sealedAfter_execChallenge {tr slot : Nat} {nonce : List Byte} : sealedAfter (execChallenge tr slot nonce s) = s.sealed_ := by
  simp [execChallenge]
@[simp] theorem sealedAfter_execGetMeasurements {tr index : Nat} {nonce : List Byte} :
    sealedAfter (execGetMeasurements tr index nonce s) = s.sealed_ := by
  simp [execGetMeasurements]
@[simp] theorem State.discardPages_sealed_ : s.discardPages.sealed_ = s.sealed_ := rfl
@[simp] theorem State.endOwner_sealed_ : s.endOwner.sealed_ = s.sealed_ := rfl
@[simp] theorem State.endSession_sealed_ {sess : Nat} : (s.endSession sess).sealed_ = s.sealed_ := by simp [State.endSession]

@[simp] theorem sealedAfter_execKeyExchange {tr : Nat} {data : List Byte} : sealedAfter (execKeyExchange tr data s) = s.sealed_ := by
  unfold execKeyExchange
  split <;> simp

@[simp] theorem sealedAfter_execFinish {sess : Nat} {macOk : Bool} : sealedAfter (execFinish sess macOk s) = s.sealed_ := by
  unfold execFinish
  split <;> simp

@[simp] theorem State.inSession_sealed_ {sess : Nat} {f : Spdm → State} (hf : ∀ d, (f d).sealed_ = s.sealed_) :
    (s.inSession sess f).sealed_ = s.sealed_ := by
  unfold State.inSession
  split <;> simp [*]

@[simp] theorem sealedAfter_execKeyUpdate {sess : Nat} : sealedAfter (execKeyUpdate sess s) = s.sealed_ := State.inSession_sealed_ fun _ => rfl
@[simp] theorem sealedAfter_execHeartbeat {sess : Nat} : sealedAfter (execHeartbeat sess s) = s.sealed_ := State.inSession_sealed_ fun _ => rfl
@[simp] theorem sealedAfter_execEndSession {sess : Nat} : sealedAfter (execEndSession sess s) = s.sealed_ := by simp [execEndSession]
@[simp] theorem sealedAfter_execSessionFault {sess : Nat} : sealedAfter (execSessionFault sess s) = s.sealed_ := by simp [execSessionFault]
@[simp] theorem sealedAfter_execIdeKm {sess : Nat} {data : List Byte} : sealedAfter (execIdeKm sess data s) = s.sealed_ :=
  State.inSession_sealed_ fun _ => rfl
@[simp] theorem sealedAfter_execOwnerClaim {sess : Nat} {pk sig : List Byte} : sealedAfter (execOwnerClaim sess pk sig s) = s.sealed_ := by
  simp [execOwnerClaim]
@[simp] theorem sealedAfter_execRelease {sess : Nat} : sealedAfter (execRelease sess s) = s.sealed_ := by simp [execRelease]
@[simp] theorem sealedAfter_execOwnerInfo {sess : Nat} : sealedAfter (execOwnerInfo sess s) = s.sealed_ := by simp [execOwnerInfo]
@[simp] theorem State.scrubbed_sealed_ : s.scrubbed.sealed_ = s.sealed_ := rfl
@[simp] theorem sealedAfter_execManifestWrite {data : List Byte} : sealedAfter (execManifestWrite data s) = s.sealed_ := by simp [execManifestWrite]
@[simp] theorem sealedAfter_execArbCommit : sealedAfter (execArbCommit s) = s.sealed_ := by simp [execArbCommit]
@[simp] theorem sealedAfter_execDebugUnlock {token : List Byte} : sealedAfter (execDebugUnlock token s) = s.sealed_ := by simp [execDebugUnlock]
@[simp] theorem sealedAfter_execSecCntClr : sealedAfter (execSecCntClr s) = s.sealed_ := rfl
@[simp] theorem sealedAfter_execPldmFirmwareUpdate {comp : Nat} {img : List Byte} : sealedAfter (execPldmFirmwareUpdate comp img s) = s.sealed_ := by
  simp [execPldmFirmwareUpdate]

/-! #### The rings -/

@[simp] theorem State.setRing_sealed_ {r : Nat} {x : Ring} : (s.setRing r x).sealed_ = s.sealed_ := rfl
@[simp] theorem State.ringBegin_sealed_ {r : Nat} {j : RingJob} : (s.ringBegin r j).sealed_ = s.sealed_ := rfl
@[simp] theorem State.cqLevel_sealed_ : s.cqLevel.sealed_ = s.sealed_ := by simp [State.cqLevel]
@[simp] theorem State.cqWrite_sealed_ {r : Nat} {e : List Byte} {noirq : Bool} : (s.cqWrite r e noirq).sealed_ = s.sealed_ := by simp [State.cqWrite]
@[simp] theorem State.cqPost_sealed_ {r : Nat} {j : RingJob} {k : Compl} : (s.cqPost r j k).sealed_ = s.sealed_ := by simp [State.cqPost]

@[simp] theorem State.ringSettle_sealed_ {r fuel : Nat} : (s.ringSettle r fuel).sealed_ = s.sealed_ := by
  induction fuel generalizing s with
  | zero => rfl
  | succ n ih =>
    unfold State.ringSettle
    split
    · split
      · rfl
      · exact ih.trans State.cqPost_sealed_
    · rfl

@[simp] theorem State.hostDone_sealed_ {r : Nat} {j : RingJob} {k : Compl} : (s.hostDone r j k).sealed_ = s.sealed_ := by simp [State.hostDone]

@[simp] theorem State.relayNote_sealed_ {r dev st sub : Nat} : (s.relayNote r dev st sub).sealed_ = s.sealed_ := by
  unfold State.relayNote
  dsimp only
  split <;> simp

@[simp] theorem State.ringDone_sealed_ {r : Nat} {j : RingJob} {k : Compl} : (s.ringDone r j k).sealed_ = s.sealed_ := by simp [State.ringDone]

@[simp] theorem State.ringEnd_sealed_ {r : Nat} {k : Compl} : (s.ringEnd r k).sealed_ = s.sealed_ := by
  unfold State.ringEnd
  split <;> simp

@[simp] theorem sealedAfter_execRelayResultReceive {r dev status subst : Nat} :
    sealedAfter (execRelayResultReceive r dev status subst s) = s.sealed_ := by
  simp [execRelayResultReceive]

@[simp] theorem sealedAfter_execRelayTimeout {r : Nat} : sealedAfter (execRelayTimeout r s) = s.sealed_ := by
  unfold execRelayTimeout
  split <;> simp

@[simp] theorem sealedAfter_execSqTail {r tail : Nat} : sealedAfter (execSqTail r tail s) = s.sealed_ := by simp [execSqTail]

@[simp] theorem sealedAfter_execCqHead {r head : Nat} : sealedAfter (execCqHead r head s) = s.sealed_ := by
  unfold execCqHead
  simp only [sealedAfter_next]
  (repeat' split) <;> simp

/-! #### Migration and the memory commands -/

@[simp] theorem State.migFill_sealed_ : s.migFill.sealed_ = s.sealed_ := rfl
@[simp] theorem State.modMig_sealed_ {obj : Nat} {f : Migration → Migration} : (s.modMig obj f).sealed_ = s.sealed_ := rfl
@[simp] theorem State.migNeed_sealed_ {obj g : Nat} {dest : ObjEnt} : (s.migNeed obj g dest).sealed_ = s.sealed_ := rfl

@[simp] theorem State.migRounds_sealed_ {obj fuel : Nat} : (s.migRounds obj fuel).sealed_ = s.sealed_ := by
  induction fuel generalizing s with
  | zero => rfl
  | succ n ih =>
    unfold State.migRounds
    split
    · rfl
    · split
      · rfl
      · exact ih.trans State.migFill_sealed_

@[simp] theorem State.migBegin_sealed_ {m : Migration} : (s.migBegin m).sealed_ = s.sealed_ := by simp [State.migBegin]

@[simp] theorem State.migNext_sealed_ : s.migNext.sealed_ = s.sealed_ := by
  unfold State.migNext
  (repeat' split) <;> simp

@[simp] theorem State.startMig_sealed_ {obj : Nat} {dest : ObjEnt} {ring : Option Nat} : (s.startMig obj dest ring).sealed_ = s.sealed_ := by
  simp [State.startMig]

@[simp] theorem State.migSwitch_sealed_ {m : Migration} : (s.migSwitch m).sealed_ = s.sealed_ := by
  unfold State.migSwitch
  split <;> simp

@[simp] theorem State.migGate_sealed_ {obj g : Nat} {src dst : ObjEnt} : (s.migGate obj g src dst).2.sealed_ = s.sealed_ := by simp [State.migGate]
@[simp] theorem State.copyStored_sealed_ {e d : ObjEnt} {g : Nat} : (s.copyStored e d g).sealed_ = s.sealed_ := by simp [State.copyStored]

@[simp] theorem sealedAfter_execMigrationGranuleDone {obj : Nat} : sealedAfter (execMigrationGranuleDone obj s) = s.sealed_ := by
  unfold execMigrationGranuleDone
  split <;> simp

@[simp] theorem sealedAfter_execCodecBlockWrite {obj blk ofs : Nat} {data : List Byte} :
    sealedAfter (execCodecBlockWrite obj blk ofs data s) = s.sealed_ := by
  simp [execCodecBlockWrite]

@[simp] theorem State.codecFail_sealed_ {k : Nat} : (s.codecFail k).sealed_ = s.sealed_ := by
  unfold State.codecFail
  split <;> simp

@[simp] theorem sealedAfter_execCodecBlockRead {obj blk : Nat} {fail : Bool} : sealedAfter (execCodecBlockRead obj blk s fail) = s.sealed_ := by
  simp [execCodecBlockRead]
@[simp] theorem sealedAfter_execPatrolScrubPass {ch ce ue : Nat} : sealedAfter (execPatrolScrubPass ch ce ue s) = s.sealed_ := by
  simp [execPatrolScrubPass]

@[simp] theorem sealedAfter_execPoolStatCapture {c pool : Nat} : sealedAfter (execPoolStatCapture c pool s) = s.sealed_ := by
  rw [execPoolStatCapture, sealedAfter_next, State.ite_sealed_, State.onCore_sealed_ fun s p k => ?_, ite_self]
  rfl

@[simp] theorem State.declareLost_sealed_ : s.declareLost.sealed_ = s.sealed_ := by simp [State.declareLost]
@[simp] theorem State.chanFail_sealed_ {ch : Nat} : (s.chanFail ch).sealed_ = s.sealed_ := by simp [State.chanFail]

@[simp] theorem sealedAfter_execChipError {what unit : Nat} : sealedAfter (execChipError what unit s) = s.sealed_ := by
  unfold execChipError
  split <;> simp

/-! #### Preemption -/

@[simp] theorem State.writeSave_sealed_ {p : Nat} {x : CoreCtx} {pr : Pre} : (s.writeSave p x pr).sealed_ = s.sealed_ := by simp [State.writeSave]
@[simp] theorem sealedAfter_execPreemptRequest {c : Nat} : sealedAfter (execPreemptRequest c s) = s.sealed_ := by simp [execPreemptRequest]

@[simp] theorem sealedAfter_execPreemptBoundary {c cyc : Nat} : sealedAfter (execPreemptBoundary c cyc s) = s.sealed_ := by
  refine State.onCore_sealed_ fun s p k => ?_
  split
  · rfl
  · exact State.foldl_sealed_ (fun _ _ => State.askSwitch_sealed_) _ _

@[simp] theorem State.frameGo_sealed_ {l p n lat : Nat} : (s.frameGo l p n lat).sealed_ = s.sealed_ := by simp [State.frameGo]

@[simp] theorem sealedAfter_execSaveDone {c stall lat : Nat} : sealedAfter (execSaveDone c stall lat s) = s.sealed_ := by
  refine State.onCore_sealed_ fun _ _ _ => ?_
  dsimp only
  (repeat' split) <;> simp

@[simp] theorem State.applyHeld_sealed_ {p : Nat} {hd : Held} : (s.applyHeld p hd).sealed_ = s.sealed_ := by
  unfold State.applyHeld
  split <;> simp

@[simp] theorem sealedAfter_execRestoreDone {c stall : Nat} {bad : Bool} : sealedAfter (execRestoreDone c stall bad s) = s.sealed_ := by
  refine State.onCore_sealed_ fun _ _ _ => ?_
  split <;> simp

@[simp] theorem sealedAfter_execFrameEdge {n : Nat} {rising : Bool} : sealedAfter (execFrameEdge n rising s) = s.sealed_ := by
  rw [execFrameEdge, sealedAfter_next]
  split
  · rfl
  · dsimp only
    split
    · rfl
    · split
      · simp
      · split
        · rfl
        · split
          · simp
          · exact State.foldl_sealed_ (fun s x => by split <;> rfl) _ _

@[simp] theorem sealedAfter_execFrameRunEnd {n : Nat} : sealedAfter (execFrameRunEnd n s) = s.sealed_ := by simp [execFrameRunEnd]
@[simp] theorem sealedAfter_execFrameDeadline {n : Nat} : sealedAfter (execFrameDeadline n s) = s.sealed_ := by simp [execFrameDeadline]

@[simp] theorem sealedAfter_execCerrCntClr {c : Nat} : sealedAfter (execCerrCntClr c s) = s.sealed_ := by
  refine State.onCore_sealed_ fun _ _ _ => ?_
  simp

@[simp] theorem sealedAfter_execSeqCntClr {c : Nat} : sealedAfter (execSeqCntClr c s) = s.sealed_ := by
  refine State.onCore_sealed_ fun _ _ _ => ?_
  simp

/-! #### The commands of a ring -/

@[simp] theorem Ans.ok_sealed_ : (ok s).sealed_ = s.sealed_ := rfl
@[simp] theorem Ans.fail_sealed_ {st detail : Nat} : (fail s st detail).sealed_ = s.sealed_ := rfl

@[simp] theorem State.runHere_sealed_ {r : Nat} {j : RingJob} {eff : State → Nat → RingJob → Ans} (hf : ∀ s r j, (eff s r j).sealed_ = s.sealed_) :
    (s.runHere r j eff).sealed_ = s.sealed_ := by
  have k := hf s r j
  unfold State.runHere
  split
  · next e => rw [← k, e, Ans.wait_sealed_]
  · next e => rw [← k, e, Ans.done_sealed_, State.ringDone_sealed_]

@[simp] theorem State.needState_sealed_ {c : BitVec 512} {f : Core → Bool} {g : Ans} (hg : g.sealed_ = s.sealed_) :
    (s.needState c f g).sealed_ = s.sealed_ := by
  unfold State.needState
  split <;> simp [*]

@[simp] theorem State.eachCore_sealed_ {c : BitVec 512} {f : State → Nat → State} (hf : ∀ s p, (f s p).sealed_ = s.sealed_) :
    (s.eachCore c f).sealed_ = s.sealed_ := by
  unfold State.eachCore
  simp [*]

@[simp] theorem State.placeImage_sealed_ {c : BitVec 512} {d : List Byte} {l : List (Section × Nat)} : (s.placeImage c d l).sealed_ = s.sealed_ := by
  unfold State.placeImage
  dsimp only
  exact (State.eachCore_sealed_ fun _ _ => State.modCore_sealed_ ..).trans (State.foldl_sealed_ (fun _ _ => State.wholeWrite_sealed_) _ _)

@[simp] theorem Ans.loadImage_sealed_ {img : List Byte} {r : Nat} {j : RingJob} : (loadImage img s r j).sealed_ = s.sealed_ := by simp [loadImage]
@[simp] theorem Ans.startCmd_sealed_ {r : Nat} {j : RingJob} : (startCmd s r j).sealed_ = s.sealed_ := by simp [startCmd]

@[simp] theorem Ans.stopCmd_sealed_ {r : Nat} {j : RingJob} : (stopCmd s r j).sealed_ = s.sealed_ := by
  unfold stopCmd
  extract_lets s1
  have stopped : s1.sealed_ = s.sealed_ := sealed_ite rfl (State.eachCore_sealed_ fun _ _ => State.modCore_sealed_ ..)
  split
  · exact stopped
  · exact State.ringBegin_sealed_.trans stopped

@[simp] theorem Ans.preemptCmd_sealed_ {r : Nat} {j : RingJob} : (preemptCmd s r j).sealed_ = s.sealed_ := by
  unfold preemptCmd
  dsimp only
  split
  · split
    · simp
    · exact State.needState_sealed_ (State.ringBegin_sealed_.trans (State.eachCore_sealed_ fun _ _ => rfl))
  · split
    · simp
    · split <;> simp

@[simp] theorem Ans.resumeCmd_sealed_ {r : Nat} {j : RingJob} : (resumeCmd s r j).sealed_ = s.sealed_ := by simp [resumeCmd]
@[simp] theorem Ans.stepRepeatCmd_sealed_ {r : Nat} {j : RingJob} : (stepRepeatCmd s r j).sealed_ = s.sealed_ := by simp [stepRepeatCmd]

@[simp] theorem Ans.migrateCmd_sealed_ {r : Nat} {j : RingJob} : (migrateCmd s r j).sealed_ = s.sealed_ := by
  unfold migrateCmd
  dsimp only
  (repeat' split) <;> simp

@[simp] theorem Ans.stageCmd_sealed_ {list : List (Nat × W32)} {r : Nat} {j : RingJob} : (stageCmd list s r j).sealed_ = s.sealed_ := by
  unfold stageCmd
  dsimp only
  (repeat' split) <;> simp

@[simp] theorem Ans.checkCmd_sealed_ {r : Nat} {j : RingJob} : (checkCmd s r j).sealed_ = s.sealed_ := by
  unfold checkCmd
  split
  · next e => exact sealed_of_fst State.runCheck_sealed_ e
  · next e => exact sealed_of_fst State.runCheck_sealed_ e

@[simp] theorem Ans.commitCmd_sealed_ {r : Nat} {j : RingJob} : (commitCmd s r j).sealed_ = s.sealed_ := by
  unfold commitCmd
  split
  · rfl
  · split
    · rfl
    · split
      · next e => exact sealed_of_fst State.runCheck_sealed_ e
      · next e => exact State.beginFlip_sealed_.trans (State.ringBegin_sealed_.trans (sealed_of_fst State.runCheck_sealed_ e))

@[simp] theorem Ans.abortCmd_sealed_ {r : Nat} {j : RingJob} : (abortCmd s r j).sealed_ = s.sealed_ := by simp [abortCmd]
@[simp] theorem Ans.attestCmd_sealed_ {r : Nat} {j : RingJob} : (attestCmd s r j).sealed_ = s.sealed_ := by simp [attestCmd]

@[simp] theorem Ans.fenceCmd_sealed_ {r : Nat} {j : RingJob} : (fenceCmd s r j).sealed_ = s.sealed_ := by
  unfold fenceCmd
  dsimp only
  (repeat' split) <;> simp

@[simp] theorem State.lift_sealed_ {ps : List Nat} : (s.lift ps).sealed_ = s.sealed_ := by
  unfold State.lift
  exact State.foldl_sealed_ (fun _ _ => State.modCore_sealed_ ..) _ _

@[simp] theorem Ans.unfenceCmd_sealed_ {pass : Bool} {r : Nat} {j : RingJob} : (unfenceCmd pass s r j).sealed_ = s.sealed_ := by simp [unfenceCmd]
@[simp] theorem Ans.queryCmd_sealed_ {r : Nat} {j : RingJob} : (queryCmd s r j).sealed_ = s.sealed_ := by simp [queryCmd]

@[simp] theorem State.runRelayed_sealed_ {r : Nat} : (s.runRelayed r).sealed_ = s.sealed_ := by
  unfold State.runRelayed
  dsimp only
  (repeat' split) <;> simp

@[simp] theorem State.takeRelayed_sealed_ {src ring : Nat} {c : BitVec 512} {payload : List Byte} :
    (s.takeRelayed src ring c payload).sealed_ = s.sealed_ := by
  simp [State.takeRelayed]
@[simp] theorem sealedAfter_execRelayedCommandReceive {src ring : Nat} {cmd : BitVec 512} {payload : List Byte} :
    sealedAfter (execRelayedCommandReceive src ring cmd payload s) = s.sealed_ := by
  simp [execRelayedCommandReceive]
@[simp] theorem State.relayStart_sealed_ {r : Nat} {j : RingJob} {payload : List Byte} : (s.relayStart r j payload).sealed_ = s.sealed_ := by
  simp [State.relayStart]

@[simp] theorem State.prepare_sealed_ {src epoch : Nat} : (s.prepare src epoch).1.sealed_ = s.sealed_ := by
  have opened : State.sealed_ (if s.cfg.st = 0 then s.openSession false else s) = s.sealed_ := by simp
  unfold State.prepare
  dsimp only
  split
  · next e => exact (sealed_of_fst State.runCheck_sealed_ e).trans opened
  · next e => exact (sealed_of_fst State.runCheck_sealed_ e).trans opened

@[simp] theorem State.groupAbort_sealed_ {t : TwoPc} {k : Compl} : (s.groupAbort t k).sealed_ = s.sealed_ := by simp [State.groupAbort]

@[simp] theorem State.decide2_sealed_ : s.decide2.sealed_ = s.sealed_ := by
  unfold State.decide2
  dsimp only
  (repeat' split) <;> simp

@[simp] theorem State.takeVote_sealed_ {dev : Nat} {good : Bool} {detail : Nat} {routes : List (Nat × List Nat)} {feat : W32} :
    (s.takeVote dev good detail routes feat).sealed_ = s.sealed_ := by
  unfold State.takeVote
  split <;> simp

@[simp] theorem State.groupStart_sealed_ {r : Nat} {j : RingJob} : (s.groupStart r j).sealed_ = s.sealed_ := by simp [State.groupStart]

@[simp] theorem State.onRing_sealed_ {r opc : Nat} {payload : List Byte} {hd : State → Nat → RingJob → Ans}
    (hf : ∀ s r j, (hd s r j).sealed_ = s.sealed_) : (s.onRing r opc payload hd).sealed_ = s.sealed_ := by
  unfold State.onRing
  (repeat' split) <;> simp [*]

@[simp] theorem sealedAfter_execLoadImage {r : Nat} {img : List Byte} : sealedAfter (execLoadImage r img s) = s.sealed_ := by simp [execLoadImage]
@[simp] theorem sealedAfter_execStart {r : Nat} : sealedAfter (execStart r s) = s.sealed_ := by simp [execStart]
@[simp] theorem sealedAfter_execStop {r : Nat} : sealedAfter (execStop r s) = s.sealed_ := by simp [execStop]
@[simp] theorem sealedAfter_execPreempt {r : Nat} : sealedAfter (execPreempt r s) = s.sealed_ := by simp [execPreempt]
@[simp] theorem sealedAfter_execResume {r : Nat} : sealedAfter (execResume r s) = s.sealed_ := by simp [execResume]
@[simp] theorem sealedAfter_execMigrate {r : Nat} : sealedAfter (execMigrate r s) = s.sealed_ := by simp [execMigrate]
@[simp] theorem sealedAfter_execStage {r : Nat} {list : List (Nat × W32)} : sealedAfter (execStage r list s) = s.sealed_ := by simp [execStage]
@[simp] theorem sealedAfter_execCheck {r : Nat} : sealedAfter (execCheck r s) = s.sealed_ := by simp [execCheck]
@[simp] theorem sealedAfter_execCommit {r : Nat} : sealedAfter (execCommit r s) = s.sealed_ := by simp [execCommit]
@[simp] theorem sealedAfter_execAbort {r : Nat} : sealedAfter (execAbort r s) = s.sealed_ := by simp [execAbort]
@[simp] theorem sealedAfter_execStepRepeat {r : Nat} : sealedAfter (execStepRepeat r s) = s.sealed_ := by simp [execStepRepeat]
@[simp] theorem sealedAfter_execAttest {r : Nat} : sealedAfter (execAttest r s) = s.sealed_ := by simp [execAttest]
@[simp] theorem sealedAfter_execFence {r : Nat} : sealedAfter (execFence r s) = s.sealed_ := by simp [execFence]
@[simp] theorem sealedAfter_execUnfence {r : Nat} {pass : Bool} : sealedAfter (execUnfence r pass s) = s.sealed_ := by simp [execUnfence]
@[simp] theorem sealedAfter_execQuery {r : Nat} : sealedAfter (execQuery r s) = s.sealed_ := by simp [execQuery]

/-! #### Power -/

@[simp] theorem State.avsWrite_sealed_ {mv : Nat} : (s.avsWrite mv).sealed_ = s.sealed_ := rfl
@[simp] theorem State.stepIs_sealed_ {step : Nat} : (s.stepIs step).sealed_ = s.sealed_ := by simp [State.stepIs]
@[simp] theorem State.pwSettle_sealed_ : s.pwSettle.sealed_ = s.sealed_ := by simp [State.pwSettle]
@[simp] theorem sealedAfter_execAvsWriteAck : sealedAfter (execAvsWriteAck s) = s.sealed_ := by simp [execAvsWriteAck]
@[simp] theorem sealedAfter_execFrequencyChange : sealedAfter (execFrequencyChange s) = s.sealed_ := by simp [execFrequencyChange]
@[simp] theorem sealedAfter_execPowerLoopEval {est : Nat} : sealedAfter (execPowerLoopEval est s) = s.sealed_ := by simp [execPowerLoopEval]
@[simp] theorem sealedAfter_execPmbusPoll {mv : Nat} {fault : Bool} : sealedAfter (execPmbusPoll mv fault s) = s.sealed_ := by simp [execPmbusPoll]
@[simp] theorem State.thermUp_sealed_ : s.thermUp.sealed_ = s.sealed_ := by simp [State.thermUp]

@[simp] theorem State.flashAbandon_sealed_ : s.flashAbandon.sealed_ = s.sealed_ := by
  unfold State.flashAbandon
  split
  · rfl
  · refine sealed_ite rfl ?_
    extract_lets d s1
    split <;> rfl

@[simp] theorem State.trip_sealed_ : s.trip.sealed_ = s.sealed_ := State.flashAbandon_sealed_.trans State.declareLost_sealed_
@[simp] theorem sealedAfter_execThermalSample {temps : List Nat} {rise fall : Bool} :
    sealedAfter (execThermalSample temps rise fall s) = s.sealed_ := by
  simp [execThermalSample]
@[simp] theorem sealedAfter_execThermAlert {asserted : Bool} : sealedAfter (execThermAlert asserted s) = s.sealed_ := by simp [execThermAlert]
@[simp] theorem sealedAfter_execPwrfailN {low : Bool} : sealedAfter (execPwrfailN low s) = s.sealed_ := by simp [execPwrfailN]
@[simp] theorem sealedAfter_execPwrfailRecovery : sealedAfter (execPwrfailRecovery s) = s.sealed_ := by simp [execPwrfailRecovery]
@[simp] theorem sealedAfter_execPwrCntClr : sealedAfter (execPwrCntClr s) = s.sealed_ := rfl

/-! #### The sealed windows -/

@[simp] theorem State.winFreeze_sealed_ {reason obj addr : Nat} : (s.winFreeze reason obj addr).sealed_ = s.sealed_ := by simp [State.winFreeze]
@[simp] theorem State.winRelease_sealed_ : s.winRelease.sealed_ = s.sealed_ := by simp [State.winRelease]
@[simp] theorem sealedAfter_execReleaseWindow : sealedAfter (execReleaseWindow s) = s.sealed_ := by simp [execReleaseWindow]

@[simp] theorem State.winRead_sealed_ {a n : Nat} : (s.winRead a n).sealed_ = s.sealed_ := by
  unfold State.winRead
  split <;> simp

@[simp] theorem State.winWrite_sealed_ {a : Nat} {d : List Byte} : (s.winWrite a d).sealed_ = s.sealed_ := by
  unfold State.winWrite
  split <;> simp

@[simp] theorem State.sealFail_sealed_ {a : Nat} : (s.sealFail a).sealed_ = s.sealed_ := by simp [State.sealFail]

@[simp] theorem State.pageDone_sealed_ {w : WPage} : (s.pageDone w).sealed_ = s.sealed_ := by
  unfold State.pageDone
  dsimp only
  (repeat' split) <;> simp

@[simp] theorem State.sealedByte_sealed_ {ofs : Nat} {b : Byte} : (s.sealedByte ofs b).sealed_ = s.sealed_ := by
  unfold State.sealedByte
  dsimp only
  (repeat' split) <;> simp

@[simp] theorem sealedAfter_execSealedPageWrite {ofs : Nat} {b : Byte} : sealedAfter (execSealedPageWrite ofs b s) = s.sealed_ := by
  simp [execSealedPageWrite]

@[simp] theorem State.sealedRead_sealed_ {ofs n : Nat} : (s.sealedRead ofs n).sealed_ = s.sealed_ := by
  unfold State.sealedRead
  dsimp only
  (repeat' split) <;> simp

@[simp] theorem sealedAfter_execSealedPageRead {ofs len : Nat} : sealedAfter (execSealedPageRead ofs len s) = s.sealed_ := by
  simp [execSealedPageRead]
@[simp] theorem sealedAfter_execHostWindowRead {ofs len : Nat} : sealedAfter (execHostWindowRead ofs len s) = s.sealed_ := by
  simp [execHostWindowRead]
@[simp] theorem sealedAfter_execHostWindowWrite {ofs : Nat} {data : List Byte} : sealedAfter (execHostWindowWrite ofs data s) = s.sealed_ := by
  simp [execHostWindowWrite]

/-! #### Reset -/

@[simp] theorem State.rollbackBoot_sealed_ : s.rollbackBoot.sealed_ = s.sealed_ := by
  unfold State.rollbackBoot
  dsimp only
  (repeat' split) <;> simp

@[simp] theorem State.warmReset_sealed_ {last : Nat} : (s.warmReset last).sealed_ = s.sealed_ := by
  unfold State.warmReset
  cases h : s.sealed_ with
  | true => rfl
  | false => exact (State.booted_boot ..).2

@[simp] theorem sealedAfter_execMemoryTrainingDone {ddrCap : List Nat} : sealedAfter (execMemoryTrainingDone ddrCap s) = s.sealed_ := by
  simp [execMemoryTrainingDone]
@[simp] theorem sealedAfter_execSysRstN : sealedAfter (execSysRstN s) = s.sealed_ := by simp [execSysRstN]
@[simp] theorem sealedAfter_execWarmReset : sealedAfter (execWarmReset s) = s.sealed_ := by simp [execWarmReset]
@[simp] theorem State.takeReset_sealed_ {src : Nat} : (s.takeReset src).sealed_ = s.sealed_ := by simp [State.takeReset]
@[simp] theorem sealedAfter_execGroupResetMessage {src : Nat} : sealedAfter (execGroupResetMessage src s) = s.sealed_ := by
  simp [execGroupResetMessage]
@[simp] theorem State.groupReset_sealed_ : s.groupReset.sealed_ = s.sealed_ := by simp [State.groupReset]
@[simp] theorem sealedAfter_execGroupReset : sealedAfter (execGroupReset s) = s.sealed_ := by simp [execGroupReset]
@[simp] theorem State.flr_sealed_ {perst : Bool} : (s.flr perst).sealed_ = s.sealed_ := by simp [State.flr]
@[simp] theorem sealedAfter_execFlr {perst : Bool} : sealedAfter (execFlr perst s) = s.sealed_ := by simp [execFlr]

@[simp] theorem State.coreReset_sealed_ {l : Nat} : (s.coreReset l).sealed_ = s.sealed_ := by
  unfold State.coreReset
  (repeat' split) <;> simp

@[simp] theorem sealedAfter_execCoreReset {c : Nat} : sealedAfter (execCoreReset c s) = s.sealed_ := by simp [execCoreReset]
@[simp] theorem State.endCoreReset_sealed_ {r : CoreRst} : (s.endCoreReset r).sealed_ = s.sealed_ := by simp [State.endCoreReset]

@[simp] theorem sealedAfter_execCoreResetDone : sealedAfter (execCoreResetDone s) = s.sealed_ := by
  unfold execCoreResetDone
  split <;> simp

/-! #### Multicast groups -/

@[simp] theorem sealedAfter_heldPacket {i : Instr} : sealedAfter (heldPacket i s) = s.sealed_ := by
  unfold heldPacket
  split <;> simp

@[simp] theorem State.afterOut_sealed_ {o : Out} (ho : sealedAfter o = s.sealed_) : (afterOut s o).sealed_ = s.sealed_ := by
  unfold afterOut
  split
  · exact ho
  · rfl

@[simp] theorem State.runLinkHeld_sealed_ {isl : Nat} : (s.runLinkHeld isl).sealed_ = s.sealed_ := by simp [State.runLinkHeld]
@[simp] theorem sealedAfter_execIslandFlip {isl : Nat} : sealedAfter (execIslandFlip isl s) = s.sealed_ := by simp [execIslandFlip]

@[simp] theorem State.takeFlip_sealed_ {dev : Nat} : (s.takeFlip dev).sealed_ = s.sealed_ := by
  unfold State.takeFlip
  split <;> simp

@[simp] theorem sealedAfter_execFlipComplete : sealedAfter (execFlipComplete s) = s.sealed_ := by
  unfold execFlipComplete
  simp only [sealedAfter_next]
  (repeat' split) <;> simp

@[simp] theorem sealedAfter_execFlipTimeout : sealedAfter (execFlipTimeout s) = s.sealed_ := by simp [execFlipTimeout]
@[simp] theorem State.takePrepare_sealed_ {src epoch : Nat} : (s.takePrepare src epoch).sealed_ = s.sealed_ := by simp [State.takePrepare]
@[simp] theorem sealedAfter_execPrepareReceive {src epoch : Nat} : sealedAfter (execPrepareReceive src epoch s) = s.sealed_ := by
  simp [execPrepareReceive]
@[simp] theorem sealedAfter_execVoteReceive {dev : Nat} {ok : Bool} {detail : Nat} {routes : List (Nat × List Nat)} {feat : W32} :
    sealedAfter (execVoteReceive dev ok detail s routes feat) = s.sealed_ := by
  simp [execVoteReceive]
@[simp] theorem State.takeCommit_sealed_ {src epoch : Nat} {feat : W32} : (s.takeCommit src epoch feat).sealed_ = s.sealed_ := by
  simp [State.takeCommit]
@[simp] theorem sealedAfter_execGroupCommitReceive {src epoch : Nat} {feat : W32} :
    sealedAfter (execGroupCommitReceive src epoch s feat) = s.sealed_ := by
  simp [execGroupCommitReceive]
@[simp] theorem State.takeAbort_sealed_ : s.takeAbort.sealed_ = s.sealed_ := by simp [State.takeAbort]
@[simp] theorem sealedAfter_execGroupAbortReceive {src : Nat} : sealedAfter (execGroupAbortReceive src s) = s.sealed_ := by
  simp [execGroupAbortReceive]

@[simp] theorem sealedAfter_execTwoPhaseTimeout : sealedAfter (execTwoPhaseTimeout s) = s.sealed_ := by
  unfold execTwoPhaseTimeout
  simp only [sealedAfter_next]
  (repeat' split) <;> simp

@[simp] theorem State.takeLoss_sealed_ {dev : Nat} : (s.takeLoss dev).sealed_ = s.sealed_ := by simp [State.takeLoss]
@[simp] theorem sealedAfter_execLossNoticeReceive {dev : Nat} : sealedAfter (execLossNoticeReceive dev s) = s.sealed_ := by
  simp [execLossNoticeReceive]
@[simp] theorem State.takeLastGseq_sealed_ {p gseq : Nat} : (s.takeLastGseq p gseq).sealed_ = s.sealed_ := by simp [State.takeLastGseq]

@[simp] theorem State.ctlAct_sealed_ {src : Nat} {m : CtlMsg} : (s.ctlAct src m).sealed_ = s.sealed_ := by
  unfold State.ctlAct
  split <;> simp

@[simp] theorem sealedAfter_execCtlPacket {port : Nat} {hd : PktHdr} {tagOk : Bool} {m : CtlMsg} :
    sealedAfter (execCtlPacket port hd tagOk m s) = s.sealed_ := by
  simp [execCtlPacket]

/-! #### Claims and completions of interrupts -/

@[simp] theorem sealedAfter_execExternalInput {pin : Nat} {level : Bool} : sealedAfter (execExternalInput pin level s) = s.sealed_ := by
  simp [execExternalInput]
@[simp] theorem sealedAfter_execIrqSourceEvent {src : Nat} {level : Bool} : sealedAfter (execIrqSourceEvent src level s) = s.sealed_ := by
  simp [execIrqSourceEvent]

@[simp] theorem State.claim_sealed_ {cp : Nat} : (s.claim cp).1.sealed_ = s.sealed_ := by
  unfold State.claim
  split <;> simp

@[simp] theorem sealedAfter_execClaim {cp : Nat} : sealedAfter (execClaim cp s) = s.sealed_ := by simp [execClaim]

@[simp] theorem State.reeval_sealed_ {src : Nat} {host : Bool} : (s.reeval src host).sealed_ = s.sealed_ := by
  unfold State.reeval
  dsimp only
  split <;> simp

@[simp] theorem sealedAfter_execEoi {cp src : Nat} : sealedAfter (execEoi cp src s) = s.sealed_ := by simp [execEoi]
@[simp] theorem sealedAfter_execIrqHeoi {src : Nat} : sealedAfter (execIrqHeoi src s) = s.sealed_ := by simp [execIrqHeoi]
@[simp] theorem sealedAfter_execIrqStormWindow : sealedAfter (execIrqStormWindow s) = s.sealed_ := rfl
@[simp] theorem State.irqAssert_sealed_ {src : Nat} : (s.irqAssert src).sealed_ = s.sealed_ := by simp [State.irqAssert]
@[simp] theorem sealedAfter_execIrqStatClear {src : Nat} {storm stuck : Bool} : sealedAfter (execIrqStatClear src storm stuck s) = s.sealed_ := by
  simp [execIrqStatClear]

/-! #### The start of a word -/

@[simp] theorem State.unitStart_sealed_ {p q : Nat} {e : Cqe} : (s.unitStart p q e).sealed_ = s.sealed_ := by
  unfold State.unitStart
  split <;> simp

@[simp] theorem State.wordStart_sealed_ {p q : Nat} : (s.wordStart p q).sealed_ = s.sealed_ := by
  unfold State.wordStart
  dsimp only
  split
  · rfl
  · split
    · rfl
    · split
      · rfl
      · exact State.haltWord_sealed_
      · split
        · rfl
        · split
          · next e => exact (sealed_of_start State.unitStart_sealed_).2.1 e
          · next e => exact (sealed_of_start State.unitStart_sealed_).2.2 e
          · next t _ e =>
            have started : t.sealed_ = s.sealed_ := (sealed_of_start State.unitStart_sealed_).1 _ e
            split
            · exact State.haltWord_sealed_
            · exact (State.modCore_sealed_ ..).trans started

@[simp] theorem sealedAfter_execWordStart {c q : Nat} : sealedAfter (execWordStart c q s) = s.sealed_ := by simp [execWordStart]

@[simp] theorem State.unitComplete_sealed_ {p q : Nat} {e : Cqe} : (s.unitComplete p q e).sealed_ = s.sealed_ := by
  unfold State.unitComplete
  split <;> simp

@[simp] theorem sealedAfter_execWordComplete {c q : Nat} : sealedAfter (execWordComplete c q s) = s.sealed_ := by
  refine State.onCore_sealed_ fun _ _ _ => ?_
  dsimp only
  (repeat' split) <;> simp

/-! #### The registers -/

@[simp] theorem State.storeReg_sealed_ {off v : Nat} : (s.storeReg off v).sealed_ = s.sealed_ := by
  unfold State.storeReg
  split <;> simp

@[simp] theorem State.causeBits_sealed_ {cause inten src : Nat} {d : W32} : (s.causeBits cause inten src d).sealed_ = s.sealed_ :=
  State.foldl_sealed_ (fun _ _ => State.level_sealed_ ..) _ s
@[simp] theorem State.redrive_sealed_ {off : Nat} : (s.redrive off).sealed_ = s.sealed_ := by simp [State.redrive]

@[simp] theorem State.writeIrqCfg_sealed_ {src v : Nat} : (s.writeIrqCfg src v).sealed_ = s.sealed_ := by
  unfold State.writeIrqCfg
  dsimp only
  split <;> simp

@[simp] theorem State.writeRst_sealed_ {v : Nat} : (s.writeRst v).sealed_ = s.sealed_ := by simp [State.writeRst]
@[simp] theorem State.writeGpio_sealed_ {v : Nat} : (s.writeGpio v).sealed_ = s.sealed_ := by simp [State.writeGpio]
@[simp] theorem State.writePort_sealed_ {p v : Nat} : (s.writePort p v).sealed_ = s.sealed_ := by simp [State.writePort]
@[simp] theorem State.mbxGo_sealed_ : s.mbxGo.sealed_ = s.sealed_ := by simp [State.mbxGo]
@[simp] theorem State.writeDesc_sealed_ {off v : Nat} : (s.writeDesc off v).sealed_ = s.sealed_ := by simp [State.writeDesc]

@[simp] theorem State.writeLow_sealed_ {off v : Nat} : (s.writeLow off v).sealed_ = s.sealed_ := by
  unfold State.writeLow
  exact sealed_ite (sealed_ite (sealed_ite rfl rfl) (sealed_ite rfl rfl)) <| sealed_ite (sealed_ite rfl rfl) <|
    sealed_ite (sealed_ite State.stageWrite_sealed_ rfl) <| sealed_ite (sealed_ite (State.afterOut_sealed_ sealedAfter_execSmCntClr) rfl) <|
    sealed_ite (State.irqDeliver_sealed_.trans State.storeReg_sealed_) <| State.redrive_sealed_.trans State.storeReg_sealed_

@[simp] theorem State.writeIrq_sealed_ {off v : Nat} : (s.writeIrq off v).sealed_ = s.sealed_ := by
  unfold State.writeIrq
  exact sealed_ite (State.afterOut_sealed_ sealedAfter_execIrqHeoi) <| sealed_ite (State.afterOut_sealed_ sealedAfter_execEoi) <|
    sealed_ite State.writeIrqCfg_sealed_ <| sealed_ite (State.afterOut_sealed_ sealedAfter_execIrqStatClear) <|
    State.irqDeliver_sealed_.trans State.storeReg_sealed_

@[simp] theorem State.writeHost_sealed_ {off v : Nat} : (s.writeHost off v).sealed_ = s.sealed_ := by
  unfold State.writeHost
  exact sealed_ite (sealed_ite State.winRelease_sealed_ rfl) <| sealed_ite (sealed_ite rfl rfl) <| State.redrive_sealed_.trans State.storeReg_sealed_

@[simp] theorem State.writeHx_sealed_ {off v : Nat} : (s.writeHx off v).sealed_ = s.sealed_ := by
  unfold State.writeHx
  refine sealed_ite (sealed_ite (State.afterOut_sealed_ sealedAfter_execHxMcResend) State.storeReg_sealed_) <|
    sealed_ite (State.afterOut_sealed_ sealedAfter_execPrunedClear) <| sealed_ite (sealed_ite (State.afterOut_sealed_ sealedAfter_execRejoin) rfl) <|
    sealed_ite (State.redrive_sealed_.trans State.storeReg_sealed_) ?_
  split
  · exact State.writePort_sealed_
  · exact sealed_ite (State.afterOut_sealed_ sealedAfter_execPortCntClr) rfl
  · exact State.redrive_sealed_.trans State.storeReg_sealed_

@[simp] theorem State.writeCol_sealed_ {off v : Nat} : (s.writeCol off v).sealed_ = s.sealed_ := by
  unfold State.writeCol
  exact sealed_ite (sealed_ite ((State.afterOut_sealed_ sealedAfter_execAbortColl).trans State.storeReg_sealed_) State.storeReg_sealed_) <|
    sealed_ite (sealed_ite (State.afterOut_sealed_ sealedAfter_execColCntClr) rfl) <|
    sealed_ite State.writeDesc_sealed_ <| State.redrive_sealed_.trans State.storeReg_sealed_

@[simp] theorem State.writeMem_sealed_ {off v : Nat} : (s.writeMem off v).sealed_ = s.sealed_ := by simp [State.writeMem]

@[simp] theorem State.writePwr_sealed_ {off v : Nat} : (s.writePwr off v).sealed_ = s.sealed_ := by
  unfold State.writePwr
  split
  · exact State.writeRst_sealed_
  · rfl
  · exact sealed_ite (State.afterOut_sealed_ sealedAfter_execPwrCntClr) rfl
  · exact State.writeGpio_sealed_
  · exact State.redrive_sealed_.trans State.storeReg_sealed_

@[simp] theorem State.writeSec_sealed_ {off v : Nat} : (s.writeSec off v).sealed_ = s.sealed_ := by
  unfold State.writeSec
  split
  · exact sealed_ite State.mbxGo_sealed_ rfl
  · exact sealed_ite State.storeReg_sealed_ rfl
  · exact sealed_ite (State.afterOut_sealed_ sealedAfter_execSecCntClr) rfl
  · exact State.storeReg_sealed_

@[simp] theorem State.writeSeqCtrl_sealed_ {p v : Nat} : (s.writeSeqCtrl p v).sealed_ = s.sealed_ := by simp [State.writeSeqCtrl]
@[simp] theorem State.writeSeq_sealed_ {l p o v : Nat} : (s.writeSeq l p o v).sealed_ = s.sealed_ := by simp [State.writeSeq]

@[simp] theorem State.writeCntClr_sealed_ {l o : Nat} : (s.writeCntClr l o).sealed_ = s.sealed_ := by
  unfold State.writeCntClr
  split <;> simp

@[simp] theorem State.writeCore_sealed_ {l o v : Nat} : (s.writeCore l o v).sealed_ = s.sealed_ := by
  unfold State.writeCore
  split
  · rfl
  · extract_lets c st g s1
    have h1 : s1.sealed_ = s.sealed_ := sealed_ite rfl rfl
    refine sealed_ite rfl <| sealed_ite State.writeSeq_sealed_ <| sealed_ite (sealed_ite rfl rfl) <| sealed_ite (sealed_ite rfl rfl) <|
      sealed_ite rfl <| sealed_ite rfl <| sealed_ite (sealed_ite ((State.afterOut_sealed_ sealedAfter_execRcmtGo).trans h1) h1) ?_
    split
    · exact sealed_ite rfl <| sealed_ite (State.stashPresent_sealed_.trans rfl) rfl
    · exact sealed_ite State.writeCntClr_sealed_ rfl

@[simp] theorem State.writeWord_sealed_ {off : Nat} {v : W32} : (s.writeWord off v).sealed_ = s.sealed_ := by simp [State.writeWord]
@[simp] theorem State.writeBar0_sealed_ {off width : Nat} {v : W64} : (s.writeBar0 off width v).sealed_ = s.sealed_ := by simp [State.writeBar0]
@[simp] theorem State.msixTable_sealed_ {o v : Nat} : (s.msixTable o v).sealed_ = s.sealed_ := by simp [State.msixTable]

@[simp] theorem State.writeBar2_sealed_ {off : Nat} {v : W32} : (s.writeBar2 off v).sealed_ = s.sealed_ := by
  unfold State.writeBar2
  dsimp only
  (repeat' split) <;> simp

@[simp] theorem sealedAfter_execRegisterWrite {bar ofs width : Nat} {val : BitVec 64} :
    sealedAfter (execRegisterWrite bar ofs width val s) = s.sealed_ := by
  simp [execRegisterWrite]
@[simp] theorem sealedAfter_execCpRun {mask : BitVec 32} : sealedAfter (execCpRun mask s) = s.sealed_ := by simp [execCpRun]
@[simp] theorem sealedAfter_execCpWatchdog {cp : Nat} : sealedAfter (execCpWatchdog cp s) = s.sealed_ := by simp [execCpWatchdog]

@[simp] theorem State.readEffect_sealed_ {off : Nat} : (s.readEffect off).1.sealed_ = s.sealed_ := by
  unfold State.readEffect
  dsimp only
  (repeat' split) <;> simp

@[simp] theorem State.readBar0_sealed_ {off width : Nat} : (s.readBar0 off width).sealed_ = s.sealed_ := by simp [State.readBar0]

@[simp] theorem State.cpDevice_sealed_ {a len : Nat} {wr : Option (List Byte)} : (s.cpDevice a len wr).sealed_ = s.sealed_ := by
  unfold State.cpDevice
  dsimp only
  (repeat' split) <;> simp

@[simp] theorem sealedAfter_execCpMemoryAccess {cp addr len : Nat} {wr : Option (List Byte)} :
    sealedAfter (execCpMemoryAccess cp addr len wr s) = s.sealed_ := by
  unfold execCpMemoryAccess
  simp only [sealedAfter_next]
  (repeat' split) <;> simp

/-! #### The package and its buses -/

@[simp] theorem sealedAfter_execPcieLinkEvent {up : Bool} : sealedAfter (execPcieLinkEvent up s) = s.sealed_ := by simp [execPcieLinkEvent]

@[simp] theorem sealedAfter_execMctpControlMessage {bus code : Nat} {addr : Option Nat} :
    sealedAfter (execMctpControlMessage bus code addr s) = s.sealed_ := by
  unfold execMctpControlMessage
  dsimp only
  (repeat' split) <;> simp

@[simp] theorem sealedAfter_execDynamicAddressAssignment {addr : Nat} : sealedAfter (execDynamicAddressAssignment addr s) = s.sealed_ := by
  simp [execDynamicAddressAssignment]

theorem State.sensor_sealed_ {n : Nat} {r : Nat × State} (e : s.sensor n = some r) : r.2.sealed_ = s.sealed_ := by
  unfold State.sensor at e
  (repeat' split at e) <;> cases e <;> simp

@[simp] theorem sealedAfter_execPldmSensorRead {sensor : Nat} : sealedAfter (execPldmSensorRead sensor s) = s.sealed_ := by
  rw [execPldmSensorRead, sealedAfter_next]
  split
  · rfl
  · split
    · rfl
    · next e => exact State.sensor_sealed_ e

@[simp] theorem sealedAfter_execJtagInstruction {ir : Nat} {dr : List Bool} : sealedAfter (execJtagInstruction ir dr s) = s.sealed_ := by
  simp [execJtagInstruction]

/-! #### Every command -/

/-- In sealed mode `SEAL` only answers. -/
theorem sealedAfter_execSeal_of_sealed {sess : Nat} (h : s.sealed_ = true) : sealedAfter (execSeal sess s) = s.sealed_ :=
  State.inSession_sealed_ fun _ => by
    rw [if_pos h]
    exact sealed_ite (s.refuse_sealed_ _) (s.answer_sealed_ ..)

/-- Every command but a cold reset and the end of a scrub leaves sealed mode on: one lemma for each arm of `exec`, in the order of the arms. -/
theorem sealedAfter_exec (c : Instr) (h : s.sealed_ = true) (hp : ∀ b, c ≠ .sysPwrok b) (hd : c ≠ .scrubDone) :
    sealedAfter (exec c s) = s.sealed_ := by
  cases c <;> dsimp only [exec]
  exacts [sealedAfter_execDispatch, sealedAfter_execFetchFill, sealedAfter_execWordStart, sealedAfter_execWordComplete, sealedAfter_execWatchdog,
    sealedAfter_execCoreDone, sealedAfter_execNop, sealedAfter_execQBind, sealedAfter_execBarSet, sealedAfter_execBarSig, sealedAfter_execSync,
    sealedAfter_execLoop, sealedAfter_execBr, sealedAfter_execBrc, sealedAfter_execLcSet, sealedAfter_execLcAdd, sealedAfter_execLcPop,
    sealedAfter_execFlagClr, sealedAfter_execStepOpen, sealedAfter_execStepClose, sealedAfter_execIrq, sealedAfter_execBrk, sealedAfter_execEndWord,
    sealedAfter_execStrLdd, sealedAfter_execStrCopy, sealedAfter_execStrCancel, sealedAfter_execStrL2flush, sealedAfter_execStrL2inv,
    sealedAfter_execStrPin, sealedAfter_execStrUnpin, sealedAfter_execDmaSegmentIssue, sealedAfter_execDmaSegmentDone, sealedAfter_execLdAgset,
    sealedAfter_execLdVec, sealedAfter_execLdPair, sealedAfter_execLdCast, sealedAfter_execLdSht, sealedAfter_execServingRelease,
    sealedAfter_execXpose, sealedAfter_execMmaRank, sealedAfter_execMmaWl, sealedAfter_execMmaSt, sealedAfter_execMmaDrain, sealedAfter_execMmaSpill,
    sealedAfter_execMmaFill, sealedAfter_execMmaFree, sealedAfter_execTileToShadow, sealedAfter_execSlotMoveDone, sealedAfter_execStartTokenGrant,
    sealedAfter_execRampUpDone, sealedAfter_execIdleHoldExpiry, sealedAfter_execStopSlotGrant, sealedAfter_execRampDownDone, sealedAfter_execDrnTile,
    sealedAfter_execDrainAcceptTile, sealedAfter_execDrnSrctx, sealedAfter_execDrnCfg, sealedAfter_execDrnTbl, sealedAfter_execDrnStat,
    sealedAfter_execVecEw, sealedAfter_execVecRed, sealedAfter_execVecCmpred, sealedAfter_execVecSmax, sealedAfter_execVecNorm,
    sealedAfter_execVecGath, sealedAfter_execVecScat, sealedAfter_execVecSort, sealedAfter_execVecNms, sealedAfter_execVecLoss,
    sealedAfter_execVecL1flush, sealedAfter_execVecL1inv, sealedAfter_execVecAgset, sealedAfter_execVecSrctx, sealedAfter_execVecOpt,
    sealedAfter_execWrAgset, sealedAfter_execWrRows, sealedAfter_execStashSpill, sealedAfter_execStashSpillDone, sealedAfter_execUpdHp,
    sealedAfter_execUpdRun, sealedAfter_execUpdNorm, sealedAfter_execExPut, sealedAfter_execExHbind, sealedAfter_execExHfwd, sealedAfter_execExMail,
    sealedAfter_execExMrecv, sealedAfter_execExFelt, sealedAfter_execExColl, sealedAfter_execGconv, sealedAfter_execPutDelivery,
    sealedAfter_execHandleDelivery, sealedAfter_execExchAck, sealedAfter_execCreditReturn, sealedAfter_execMailboxMessage,
    sealedAfter_execMailboxRetry, sealedAfter_execClusterRequest, sealedAfter_execL2MissFill, sealedAfter_execOpenNoticeReceive,
    sealedAfter_execCloseReportReceive, sealedAfter_execDeviceTotalsReceive, sealedAfter_execVerdictReceive, sealedAfter_execPinWaitRelease,
    sealedAfter_execCommitDone, sealedAfter_execCloseDeadline, sealedAfter_execLoadImage, sealedAfter_execStart, sealedAfter_execStop,
    sealedAfter_execPreempt, sealedAfter_execResume, sealedAfter_execMigrate, sealedAfter_execStage, sealedAfter_execCheck, sealedAfter_execCommit,
    sealedAfter_execAbort, sealedAfter_execStepRepeat, sealedAfter_execAttest, sealedAfter_execFence, sealedAfter_execUnfence, sealedAfter_execQuery,
    sealedAfter_execSqTail, sealedAfter_execCqHead, sealedAfter_execRelayedCommandReceive, sealedAfter_execRelayResultReceive,
    sealedAfter_execRelayTimeout, sealedAfter_execIslandFlip, sealedAfter_execFlipComplete, sealedAfter_execFlipTimeout,
    sealedAfter_execPrepareReceive, sealedAfter_execVoteReceive, sealedAfter_execGroupCommitReceive, sealedAfter_execGroupAbortReceive,
    sealedAfter_execTwoPhaseTimeout, sealedAfter_execExternalInput, sealedAfter_execIrqSourceEvent, sealedAfter_execClaim, sealedAfter_execEoi,
    sealedAfter_execIrqHeoi, sealedAfter_execIrqStormWindow, sealedAfter_execIrqStatClear, sealedAfter_execFrameEdge, sealedAfter_execPreemptRequest,
    sealedAfter_execPreemptBoundary, sealedAfter_execSaveDone, sealedAfter_execFrameRunEnd, sealedAfter_execRestoreDone,
    sealedAfter_execFrameDeadline, sealedAfter_execNoAckTimeout, sealedAfter_execFenceListWrite, sealedAfter_execFlashSectorDone,
    sealedAfter_execFlashDeferRetest, sealedAfter_execRcmtGo, sealedAfter_execRcmtDone, sealedAfter_execMigrationGranuleDone,
    sealedAfter_execCodecBlockWrite, sealedAfter_execCodecBlockRead, sealedAfter_execPatrolScrubPass, sealedAfter_execPortTraining,
    sealedAfter_execHello, sealedAfter_execKeyExchangeMessage, sealedAfter_execFlitGroupReceive, sealedAfter_execNakReceive,
    sealedAfter_execReplayTimeout, sealedAfter_execLaneErrorWindow, sealedAfter_execPortFailed, sealedAfter_execCtlPacket,
    sealedAfter_execVoilePacket, sealedAfter_execVoileRemoteRetry, sealedAfter_execWritePacket, sealedAfter_execHdelivPacket,
    sealedAfter_execReadPacket, sealedAfter_execRdrspPacket, sealedAfter_execAckPacket, sealedAfter_execCollPacket,
    sealedAfter_execLossNoticeReceive, sealedAfter_execGapNotice, sealedAfter_execPruneWaitExpiry, sealedAfter_execHxMcResend,
    sealedAfter_execResendRequest, sealedAfter_execRejoin, sealedAfter_execRejoinRequest, sealedAfter_execPrunedClear, sealedAfter_execRetrain,
    sealedAfter_execRefclkSerLoss, sealedAfter_execCollInstanceStart, sealedAfter_execCollBlockArrival, sealedAfter_execCollInstanceEnd,
    sealedAfter_execCollDeadline, sealedAfter_execFallbackDeadline, sealedAfter_execAbortColl, sealedAfter_execNormMessage,
    sealedAfter_execPowerLoopEval, sealedAfter_execAvsWriteAck, sealedAfter_execFrequencyChange, sealedAfter_execPmbusPoll,
    sealedAfter_execThermalSample, sealedAfter_execThermAlert, sealedAfter_execPwrfailN, sealedAfter_execPwrfailRecovery, absurd rfl (hp _),
    sealedAfter_execMemoryTrainingDone, sealedAfter_execSysRstN, sealedAfter_execWarmReset, sealedAfter_execFlr, sealedAfter_execCoreReset,
    sealedAfter_execCoreResetDone, sealedAfter_execGroupReset, sealedAfter_execGroupResetMessage, sealedAfter_execRestart,
    sealedAfter_execSeqCtrlStop, sealedAfter_execReleaseWindow, sealedAfter_execHostWindowRead, sealedAfter_execHostWindowWrite,
    sealedAfter_execSealedPageWrite, sealedAfter_execSealedPageRead, sealedAfter_execPoolStatCapture, sealedAfter_execCpRun,
    sealedAfter_execCpWatchdog, sealedAfter_execCpMemoryAccess, sealedAfter_execEngCntClr, sealedAfter_execDrnCntClr, sealedAfter_execSeqCntClr,
    sealedAfter_execTpCntClr, sealedAfter_execUpdCntClr, sealedAfter_execSmCntClr, sealedAfter_execStrCntClr, sealedAfter_execL2CntClr,
    sealedAfter_execPortCntClr, sealedAfter_execColCntClr, sealedAfter_execCerrCntClr, sealedAfter_execSecCntClr, sealedAfter_execPwrCntClr,
    sealedAfter_execRegisterWrite, sealedAfter_execGetVersion, sealedAfter_execGetCapabilities, sealedAfter_execNegotiateAlgorithms,
    sealedAfter_execGetDigests, sealedAfter_execGetCertificate, sealedAfter_execChallenge, sealedAfter_execGetMeasurements,
    sealedAfter_execKeyExchange, sealedAfter_execFinish, sealedAfter_execKeyUpdate, sealedAfter_execHeartbeat, sealedAfter_execEndSession,
    sealedAfter_execIdeKm, sealedAfter_execOwnerClaim, sealedAfter_execSeal_of_sealed h, sealedAfter_execRelease, sealedAfter_execOwnerInfo,
    absurd rfl hd, sealedAfter_execManifestWrite, sealedAfter_execArbCommit, sealedAfter_execDebugUnlock, sealedAfter_execPldmFirmwareUpdate,
    sealedAfter_execPldmSensorRead, sealedAfter_execChipError, sealedAfter_execPcieLinkEvent, sealedAfter_execSessionFault,
    sealedAfter_execMctpControlMessage, sealedAfter_execDynamicAddressAssignment, sealedAfter_execJtagInstruction]

end Marks

theorem State.coldReset_empties (s : State) :
    s.coldReset.t0 = [] ∧ s.coldReset.slice = [] ∧ s.coldReset.tier = [] ∧ s.coldReset.t3Key = s.t3Key + 1 := by
  obtain ⟨u, boots, slice, tier, key, -⟩ := s.coldReset_boots
  obtain ⟨b, -⟩ := State.booted_boot u 0
  rw [boots]
  exact ⟨b.t0, b.slice.trans slice, b.tier.trans tier, b.t3Key.trans key⟩

/-- The end of a scrub that is in progress ends sealed mode with empty memories; one that is not in progress leaves the mark. -/
theorem exec_scrubDone_empties {s t : State} (e : exec .scrubDone s = .next t) :
    t.sealed_ = s.sealed_ ∨ (s.sec.scrub.isSome = true ∧ t.t0 = [] ∧ t.slice = [] ∧ t.t3Key = s.t3Key + 1) := by
  cases hm : s.sec.scrub with
  | none =>
    simp only [exec, execScrubDone, hm] at e
    cases e
    exact .inl rfl
  | some m =>
    rw [exec_scrubDone_of_scrub hm] at e
    cases e
    exact .inr ⟨rfl, rfl, rfl, rfl⟩

/-- Settles O51: the end of a scrub and a cold reset empty the memories and renew the T3 key; no other command ends sealed mode. -/
theorem sealedModeEndsByScrub : Obligations.SealedModeEndsByScrub := by
  intro c s t h e
  by_cases hp : ∃ b, c = .sysPwrok b
  · obtain ⟨b, rfl⟩ := hp
    cases e
    exact .inr (.inr ⟨b, rfl, s.coldReset_empties⟩)
  · by_cases hd : c = .scrubDone
    · subst hd
      exact (exec_scrubDone_empties e).imp (·.trans h) fun emptied => .inl ⟨rfl, emptied⟩
    · have kept := sealedAfter_exec c h (fun b hb => hp ⟨b, hb⟩) hd
      rw [e, sealedAfter_next] at kept
      exact .inl (kept.trans h)

end Sys2Proof.Machine
end

section
/-! # The control processors (O45) -/

namespace Sys2Proof.Machine

/-! ### CP_RUN (R401) -/

theorem regDef_cpRun : regDef 0xC050 = some { rw := 0xE } ∧ stagedReg 0xC050 = none := by decide

theorem State.writeWord_cpRun {s : State} (v : W32) (hp : s.powered = true) :
    s.writeWord 0xC050 v = (s.storeReg 0xC050 v.toNat).irqDeliver :=
  State.writeWord_low v hp (by decide) (by decide)

theorem exec_cpRun {s : State} (v : W32) (hp : s.powered = true) : exec (.cpRun v) s = .next (s.storeReg 0xC050 v.toNat).irqDeliver := by
  rw [← State.writeWord_cpRun v hp]
  rfl

theorem State.cpRuns_storeReg {s : State} (v : W32) {c : Nat} (h : 1 ≤ c) (h' : c < 4) :
    (s.storeReg 0xC050 v.toNat).cpRuns c = v.getLsbD c := by
  obtain ⟨kept, -, -⟩ := State.storeReg_rw (s := s) v regDef_cpRun.1 rfl regDef_cpRun.2 (by decide)
  have mask : (BitVec.ofNat 32 0xE).getLsbD c = true := by
    interval_cases c <;> rfl
  have bit := congrArg (BitVec.getLsbD · c) kept
  simp only [BitVec.getLsbD_and, mask, Bool.and_true] at bit
  rw [State.cpRuns, bitAt_eq_testBit, decide_eq_false (by omega), Bool.false_or]
  exact bit

/-! ### An enabled edge source takes a pulse (R402, R407) -/

theorem State.irqSrc_irqPend_edge {s : State} {i : Nat} (h : bitsOf (s.irqCfg i) 0 3 = 2) : ((s.irqPend i).irqSrc i).pend = true := by
  unfold State.irqPend
  dsimp only
  rw [State.irqSrc_irqDeliver]
  split
  · rw [State.irqSrc_msix, State.irqSrc_setIrq_self]
    simp [h]
  · rw [State.irqSrc_setIrq_self]
    simp [h]

theorem State.irqSrc_irqEvent_edge {s : State} {i : Nat} (h : bitsOf (s.irqCfg i) 0 3 = 2) (hm : (s.irqSrc i).masked = false)
    (hl : bitsOf (s.irqLim i) 0 12 = 0) : ((s.irqEvent i).irqSrc i).pend = true := by
  simp [State.irqEvent, hm, hl, State.irqSrc_irqPend_edge (s := s.setIrq i _) h]

/-- The rising edge of a level that a rising-edge source follows is an event. -/
theorem State.level_rises {s : State} {i : Nat} (he : bitAt (s.irqCfg i) 17 = true) (h : bitsOf (s.irqCfg i) 0 3 = 2)
    (hr : (s.irqSrc i).raw = false) : s.level i true = (s.setIrq i { s.irqSrc i with raw := true }).irqEvent i := by
  simp [State.level, hr, he, h, levelAsserted]

/-- The falling edge of a rising-edge source leaves it pending. -/
theorem State.level_falls {s : State} {i : Nat} (h : bitsOf (s.irqCfg i) 0 3 = 2) :
    ((s.level i false).irqSrc i).pend = (s.irqSrc i).pend := by
  unfold State.level
  dsimp only
  split
  · rfl
  · split
    · rw [State.irqSrc_setIrq_self]
    · simp [h, levelAsserted]

theorem State.irqSrc_pulse_edge {s : State} {i : Nat} (he : bitAt (s.irqCfg i) 17 = true) (h : bitsOf (s.irqCfg i) 0 3 = 2)
    (hm : (s.irqSrc i).masked = false) (hl : bitsOf (s.irqLim i) 0 12 = 0) (hr : (s.irqSrc i).raw = false) :
    ((s.pulse i).irqSrc i).pend = true := by
  have cfg : (s.level i true).irqCfg i = s.irqCfg i := by simp [State.irqCfg]
  rw [State.pulse, State.level_falls (cfg ▸ h), State.level_rises he h hr]
  exact State.irqSrc_irqEvent_edge (s := s.setIrq i { s.irqSrc i with raw := true }) h
    ((congrArg IrqSrc.masked (State.irqSrc_setIrq_self ..)).trans hm) hl

/-! ### Loads and stores of a control processor (R401) -/

section Access
variable {s : State} {c a n : Nat} {w : Option (List Byte)}

theorem exec_cpMemoryAccess_stopped (h : s.cpRuns c = false) : exec (.cpMemoryAccess c a n w) s = .next s := by
  simp [exec, execCpMemoryAccess, h]

theorem exec_cpWatchdog_stopped (h : s.cpRuns c = false) : exec (.cpWatchdog c) s = .next s := by
  simp [exec, execCpWatchdog, h]

section Running
variable (hc : c < 4) (hp : s.powered = true) (hr : s.cpRuns c = true)
include hc hp hr

theorem exec_cpWatchdog_running (hw : aget 0 s.regs 0xC054 ≠ 0) : exec (.cpWatchdog c) s = .next (s.pulse 6) := by
  have armed : ¬ aget 0 s.regs 0xC054 = 0 := hw
  simp only [exec, execCpWatchdog, show ¬ 4 ≤ c by omega, hp, hr, armed, decide_false, Bool.not_true, Bool.or_false, Bool.false_eq_true, if_false]

theorem exec_cpMemoryAccess_storeSram {d : List Byte} (hl : 0x80000000 ≤ a) (hu : a + d.length ≤ 0x80400000) :
    exec (.cpMemoryAccess c a n (some d)) s = .next { s with sram := Memory.put s.sram (a - 0x80000000) d } := by
  simp [exec, execCpMemoryAccess, show ¬ 4 ≤ c by omega, hp, hr, hl, hu, show ¬ a < 0x44000000 by omega]

theorem exec_cpMemoryAccess_loadSram (hl : 0x80000000 ≤ a) (hu : a + n ≤ 0x80400000) :
    exec (.cpMemoryAccess c a n none) s = .next (s.emit (.readData (Memory.bytes s.sram (a - 0x80000000) n))) := by
  simp [exec, execCpMemoryAccess, show ¬ 4 ≤ c by omega, hp, hr, hl, hu, show ¬ a < 0x44000000 by omega]

/-- A store of a word or of two to BAR0 is the host's register write. -/
theorem exec_cpMemoryAccess_storeBar0 {o : Nat} {d : List Byte} (hd : d.length = 4 ∨ d.length = 8) (ha : o % d.length = 0)
    (hu : o + d.length ≤ 0x4000000) :
    exec (.cpMemoryAccess c (0x40000000 + o) n (some d)) s = exec (.registerWrite 0 o d.length (BitVec.ofNat 64 (numOf d))) s := by
  have ok : bar0Ok o d.length = true := by simp [bar0Ok, hd, ha, hu]
  simp [exec, execCpMemoryAccess, execRegisterWrite, show ¬ 4 ≤ c by omega, hp, hr, ok, show 0x40000000 + o < 0x44000000 by omega]

/-- An address of no region, or of device memory in no object, gives an access error. -/
theorem exec_cpMemoryAccess_unmapped
    (h : a < 0x40000000 ∨ (0x44000000 ≤ a ∧ a < 0x80000000) ∨ (0x80400000 < a ∧ a < 2 ^ 52) ∨ 2 ^ 53 ≤ a
      ∨ (2 ^ 52 ≤ a ∧ a < 2 ^ 53 ∧ s.findObj (a - 2 ^ 52) = none)) :
    exec (.cpMemoryAccess c a n w) s = .next (s.emit .accessError) := by
  have bar0 : ¬(0x40000000 ≤ a ∧ a < 0x44000000) := by omega
  have sram (k : Nat) : ¬(0x80000000 ≤ a ∧ a + k ≤ 0x80400000) := by omega
  have device (hd : 2 ^ 52 ≤ a ∧ a < 2 ^ 53) : s.cpDevice (a - 2 ^ 52) n w = s.emit .accessError := by
    have absent : s.findObj (a - 2 ^ 52) = none := by
      rcases h with h | h | h | h | ⟨-, -, h⟩
      · omega
      · omega
      · omega
      · omega
      · exact h
    rw [State.cpDevice, State.cpCheck, absent]
  simp only [exec, execCpMemoryAccess, hp, hr, Bool.and_eq_true, Bool.or_eq_true, decide_eq_true_eq, Bool.not_true, Bool.false_eq_true,
    or_false, if_neg (show ¬ 4 ≤ c by omega), if_neg bar0, if_neg (sram _)]
  split
  · next hd => rw [device hd]
  · rfl

end Running
end Access

/-- Settles O45: each access goes to the region that holds its address. -/
theorem controlProcessorsReachMemory : Obligations.ControlProcessorsReachMemory := by
  refine ⟨fun s m hp => ?_, fun s c hc hp hr hw he h2 hm hl hraw => ?_, fun s c a d hw hc hp hr hl hu => ?_, fun s c o n d hc hp hr hd ha hu => ?_,
    fun s c a n w hc hp hr h => ?_, fun s c a n w h => ⟨exec_cpMemoryAccess_stopped h, exec_cpWatchdog_stopped h⟩⟩
  · obtain ⟨-, stored, -⟩ := State.storeReg_rw (s := s) m regDef_cpRun.1 rfl regDef_cpRun.2 (by decide)
    have deliver := State.irqOnly_deliver (s.storeReg 0xC050 m.toNat)
    refine ⟨_, exec_cpRun m hp, fun c h1 h4 => ?_, rfl, .of_regs stored deliver⟩
    rw [← State.cpRuns_storeReg m h1 h4, State.cpRuns, State.cpRuns, deliver.regs]
  · exact ⟨_, exec_cpWatchdog_running hc hp hr hw, State.irqSrc_pulse_edge he h2 hm hl hraw, State.irqOnly_pulse ..⟩
  · obtain ⟨-, -, -, -, -, wf⟩ := hw
    refine ⟨_, _, exec_cpMemoryAccess_storeSram hc hp hr hl hu, exec_cpMemoryAccess_loadSram hc hp hr hl hu, rfl, ?_, fun b hb =>
      Memory.read_put_outside d wf hb⟩
    rw [Memory.bytes_put _ _ wf]
    rfl
  · exact exec_cpMemoryAccess_storeBar0 hc hp hr hd ha hu
  · exact exec_cpMemoryAccess_unmapped hc hp hr h

end Sys2Proof.Machine
end

section
/-! # Updates (O42) -/

namespace Sys2Proof.Machine

/-! ### The flash queue (R388, R478) -/

/-- A cause of the power manager changes its register and the interrupt controller. -/
theorem State.irqOnly_pwrCause (s : State) (bits : W32) : s.IrqOnly { s.pwrCause bits with regs := s.regs } :=
  .of_regs (u := { s with regs := aset s.regs 0x500020 (aget 0 s.regs 0x500020 ||| bits) }) rfl (State.irqOnly_causeLevel ..)

@[simp] theorem State.pwrCause_flashQ (s : State) (bits : W32) : (s.pwrCause bits).flashQ = s.flashQ := (s.irqOnly_pwrCause bits).flashQ
@[simp] theorem State.pwrCause_flash (s : State) (bits : W32) : (s.pwrCause bits).flash = s.flash := (s.irqOnly_pwrCause bits).flash
@[simp] theorem State.pwrCause_sec (s : State) (bits : W32) : (s.pwrCause bits).sec = s.sec := (s.irqOnly_pwrCause bits).sec

/-- Whether the job at the front begins or is put off, the queue, flash and the security block stay. -/
theorem State.flashTry_keeps (s : State) : s.flashTry.flashQ = s.flashQ ∧ s.flashTry.flash = s.flash ∧ s.flashTry.sec = s.sec := by
  unfold State.flashTry
  split
  · exact ⟨rfl, rfl, rfl⟩
  · have putOff : ((s.huMeasured.pwrCause 0x20).bump 0x500098 1).flashQ = s.flashQ ∧ ((s.huMeasured.pwrCause 0x20).bump 0x500098 1).flash = s.flash
        ∧ ((s.huMeasured.pwrCause 0x20).bump 0x500098 1).sec = s.sec := by
      simp only [State.bump_flashQ, State.bump_flash, State.bump_sec, State.pwrCause_flashQ, State.pwrCause_flash, State.pwrCause_sec]
      exact ⟨rfl, rfl, rfl⟩
    extract_lets fence
    split
    · exact ⟨rfl, rfl, rfl⟩
    · split
      · exact ⟨rfl, rfl, rfl⟩
      · exact putOff

/-! ### The jobs of an update (R476) -/

/-- The flash jobs of an update, in order: erase the inactive slot's header, program the image, program the new header. -/
def updateJobs (x : Sec) (comp : Nat) (img : List Byte) : List FlashJob :=
  let t := x.inactive comp
  let a := slotAt comp t.1
  [{ at_ := a, data := [], kind := .erase (2 * comp + t.1) }] ++ sectorJobs (a + 4096) img
    ++ [{ at_ := a, data := slotHeader comp ((t.2 + 1) % 2 ^ 32) img.length,
          kind := .header (2 * comp + t.1) (imageOf comp img ((t.2 + 1) % 2 ^ 32)) }]

/-- The bytes that a job programs of an image. -/
def FlashJob.imageData (j : FlashJob) : List Byte := if j.kind = .image then j.data else []

/-- The sectors of an image hold its bytes, each once and in order. -/
theorem flatMap_drop_take {α : Type} (n : Nat) (l : List α) (k : Nat) (h : l.length ≤ n * k) :
    ((List.range k).flatMap fun i => (l.drop (n * i)).take n) = l := by
  induction k generalizing l with
  | zero => rw [List.length_eq_zero_iff.1 (Nat.le_zero.1 h)]; rfl
  | succ k ih =>
    have rest : ((List.range k).flatMap fun i => ((l.drop n).drop (n * i)).take n) = l.drop n :=
      ih (l.drop n) (by rw [List.length_drop]; rw [Nat.mul_succ] at h; omega)
    calc ((List.range (k + 1)).flatMap fun i => (l.drop (n * i)).take n)
        = l.take n ++ (List.range k).flatMap fun i => ((l.drop n).drop (n * i)).take n := by
          rw [List.range_succ_eq_map, List.flatMap_cons, List.flatMap_map, Nat.mul_zero, List.drop_zero]
          simp only [List.drop_drop, Nat.mul_succ, Nat.add_comm n]
      _ = l := by rw [rest, List.take_append_drop]

theorem flatMap_imageData_sectorJobs (a : Nat) (img : List Byte) : (sectorJobs a img).flatMap FlashJob.imageData = img := by
  have sectors : img.length ≤ 4096 * ((img.length + 4095) / 4096) := by omega
  rw [sectorJobs, List.flatMap_map]
  exact flatMap_drop_take 4096 img _ sectors

theorem head?_updateJobs (x : Sec) (comp : Nat) (img : List Byte) :
    (updateJobs x comp img).head?.map FlashJob.kind = some (.erase (2 * comp + (x.inactive comp).1)) := rfl

theorem getLast?_updateJobs (x : Sec) (comp : Nat) (img : List Byte) :
    ∃ i, (updateJobs x comp img).getLast?.map FlashJob.kind = some (.header (2 * comp + (x.inactive comp).1) i) := by
  rw [updateJobs, List.getLast?_concat]
  exact ⟨_, rfl⟩

theorem flatMap_imageData_updateJobs (x : Sec) (comp : Nat) (img : List Byte) : (updateJobs x comp img).flatMap FlashJob.imageData = img := by
  rw [updateJobs, List.flatMap_append, List.flatMap_append, flatMap_imageData_sectorJobs]
  simp [FlashJob.imageData]

/-- An update queues its jobs and marks its component. -/
theorem State.startUpdate_effect (s : State) (comp : Nat) (img : List Byte) (who : Option Nat) :
    (s.startUpdate comp img who).flashQ = s.flashQ ++ updateJobs s.sec comp img ∧ (s.startUpdate comp img who).flash = s.flash
      ∧ afind (s.startUpdate comp img who).sec.updating comp = some who := by
  unfold State.startUpdate
  extract_lets t a seq slot jobs
  obtain ⟨queue, flash, sec⟩ :=
    State.flashTry_keeps { s with flashQ := s.flashQ ++ jobs, sec := { s.sec with updating := aset s.sec.updating comp who } }
  rw [queue, flash, sec]
  exact ⟨rfl, rfl, afind_aset_self _ _ _⟩

/-! ### The mailbox and PLDM (R442, R457, R458, R479) -/

/-- The state in which the check of an image is recorded (R457). -/
def State.checked (s : State) (comp : Nat) (img : List Byte) : State := (s.checkImage comp img).1

theorem State.mbxEnd_sec (s : State) (st : Nat) : (s.mbxEnd st).sec = { s.sec with mbxBusy := false, mbxStatus := st } := by
  rw [State.mbxEnd, State.pulse_sec]

theorem State.mbxEnd_flashQ (s : State) (st : Nat) : (s.mbxEnd st).flashQ = s.flashQ := by
  rw [State.mbxEnd, State.pulse_flashQ]

theorem updateJobs_checked (s : State) (comp : Nat) (img : List Byte) (c : Nat) (i : List Byte) :
    updateJobs (s.checked c i).sec comp img = updateJobs s.sec comp img := rfl

/-- An image that passes the checks is queued: the erase of the header, the whole image, the header. -/
theorem State.startUpdate_checked (s : State) (comp : Nat) (img : List Byte) (who : Option Nat) :
    ∃ js, ((s.checked comp img).startUpdate comp img who).flashQ = s.flashQ ++ js
      ∧ afind ((s.checked comp img).startUpdate comp img who).sec.updating comp = some who
      ∧ js.head?.map FlashJob.kind = some (.erase (2 * comp + (s.sec.inactive comp).1))
      ∧ (∃ i, js.getLast?.map FlashJob.kind = some (.header (2 * comp + (s.sec.inactive comp).1) i))
      ∧ js.flatMap FlashJob.imageData = img ∧ ((s.checked comp img).startUpdate comp img who).flash = s.flash := by
  obtain ⟨queue, flash, updating⟩ := State.startUpdate_effect (s.checked comp img) comp img who
  rw [updateJobs_checked] at queue
  exact ⟨_, queue, updating, head?_updateJobs .., getLast?_updateJobs .., flatMap_imageData_updateJobs .., flash⟩

section Manifest
variable {s : State} {d : List Byte} (hr : s.mbxRuns 1 = true) (hw : ∀ x ∈ s.sec.updating, x.2 ≠ some mbxWaits)
  (hl : 2592 ≤ (d.take (s.mbxReg 0x40)).length) (hu : (d.take (s.mbxReg 0x40)).length ≤ 61440) (hb : afind s.sec.updating 5 = none)
include hr hw hl hu hb

theorem exec_manifestWrite_checks :
    exec (.manifestWrite d) s = .next (if s.sec.checkImage 5 (d.take (s.mbxReg 0x40)) ≠ 0
      then (s.checked 5 (d.take (s.mbxReg 0x40))).mbxEnd (mbxOf (s.sec.checkImage 5 (d.take (s.mbxReg 0x40))))
      else (s.checked 5 (d.take (s.mbxReg 0x40))).startUpdate 5 (d.take (s.mbxReg 0x40)) (some mbxWaits)) := by
  have idle : (s.sec.updating.any fun x => x.2 = some mbxWaits) = false := by simpa using hw
  have long : ¬ (d.take (s.mbxReg 0x40)).length < trailerLen + 32 := not_lt.2 hl
  have short : ¬ slotSize 5 - 4096 < (d.take (s.mbxReg 0x40)).length := not_lt.2 hu
  simp only [exec, execManifestWrite, hr, idle, hb, long, short, decide_false, Bool.not_true, Bool.or_false, Bool.false_eq_true, if_false,
    Option.isSome_none]
  rfl

end Manifest

section Pldm
variable {s : State} {comp : Nat} {d : List Byte} (h2 : 2 ≤ comp) (h5 : comp ≤ 5) (hl : d.length ≤ slotSize comp - 4096)
include h2 h5 hl

theorem exec_pldmFirmwareUpdate_checks (hb : afind s.sec.updating comp = none) :
    exec (.pldmFirmwareUpdate comp d) s = .next (if s.sec.checkImage comp d ≠ 0 then (s.checked comp d).refuse 2
      else ((s.checked comp d).startUpdate comp d none).answer 2 0 []) := by
  simp only [exec, execPldmFirmwareUpdate, hb, show ¬ comp < 2 by omega, show ¬ 5 < comp by omega, show ¬ slotSize comp - 4096 < d.length by omega,
    decide_false, Bool.or_false, Bool.false_eq_true, if_false, Option.isSome_none]
  rfl

theorem exec_pldmFirmwareUpdate_busy (hb : afind s.sec.updating comp ≠ none) :
    exec (.pldmFirmwareUpdate comp d) s = .next (s.answer 2 0x05 []) := by
  simp [exec, execPldmFirmwareUpdate, Option.isSome_iff_ne_none.2 hb, show ¬ comp < 2 by omega, show ¬ 5 < comp by omega,
    show ¬ slotSize comp - 4096 < d.length by omega]

end Pldm

/-- The counters that ARB_COMMIT writes: for each counter named, the larger of it and the running image's number (R458). -/
def State.arbTargets (s : State) : List Nat :=
  [4, 3, 2, 5].zipIdx.map fun x =>
    let cur := s.sec.svn.getD x.2 0
    if bitAt (s.mbxReg 0x34) x.2 then max cur ((afind s.sec.run x.1).elim cur Image.svn) else cur

/-- The flash job of ARB_COMMIT's staging record. -/
def State.arbJob (s : State) : FlashJob :=
  { at_ := 0x3032000 + 0x1000 * s.rollbackTarget.1, data := rollbackRec s.arbTargets s.rollbackTarget.2, kind := .rollback s.arbTargets }

theorem exec_arbCommit_stages {s : State} (hr : s.mbxRuns 2 = true) (hq : ∀ j ∈ s.flashQ, ∀ l, j.kind ≠ .rollback l)
    (hrec : s.sec.recovery = false) (hm : s.mbxReg 0x34 < 16) :
    exec .arbCommit s = .next (State.flashTry { s with flashQ := s.flashQ ++ [s.arbJob] }) := by
  rw [exec]
  unfold execArbCommit
  extract_lets due comps ts t j
  have noneDue : due = false := by
    refine List.any_eq_false.2 fun j hj => ?_
    split
    · next l e => exact absurd e (hq j hj l)
    · exact Bool.false_ne_true
  simp only [hr, noneDue, hrec, Bool.not_true, Bool.or_false, Bool.false_eq_true, if_false, if_neg (show ¬ 16 ≤ s.mbxReg 0x34 by omega)]
  rfl

section Debug
variable {s : State} {d : List Byte} (hr : s.mbxRuns 3 = true) (hl : (d.take (s.mbxReg 0x40)).length = 2592)
include hr hl

/-- A token that passes, is signed by Luastan and names this device arms debug mode. -/
theorem exec_debugUnlock_arms (hs : s.sealed_ = false) (hrec : s.sec.recovery = false) (hc : s.sec.checkImage 6 (d.take (s.mbxReg 0x40)) = 0)
    (hsig : signerOf (d.take (s.mbxReg 0x40)) = 0) (hd : (d.take (s.mbxReg 0x40)).take 32 = devidHash) :
    exec (.debugUnlock d) s = .next (State.mbxEnd { s.checked 6 (d.take (s.mbxReg 0x40)) with
      sec := { (s.checked 6 (d.take (s.mbxReg 0x40))).sec with debugNext := true } } 0) := by
  have passes : (s.checkImage 6 (d.take (s.mbxReg 0x40))).2 = 0 := hc
  simp only [exec, execDebugUnlock, hr, hl, hs, hrec, passes, hsig, hd, show trailerLen = 2560 from rfl, Bool.not_true, Bool.or_false,
    Bool.false_eq_true, if_false, ne_eq, not_true_eq_false]
  rfl

theorem exec_debugUnlock_denied (hs : s.sealed_ = true ∨ s.sec.recovery = true) : exec (.debugUnlock d) s = .next (s.mbxEnd 3) := by
  have denied : (s.sealed_ || s.sec.recovery) = true := by simpa using hs
  simp only [exec, execDebugUnlock, hr, hl, denied, show trailerLen = 2560 from rfl, Bool.not_true, Bool.false_eq_true, if_false, ne_eq,
    not_true_eq_false, if_true]

end Debug

/-- Settles O42: an image that passes the checks is queued, the staging record carries the counters' targets, and the mailbox answers. -/
theorem updatesCheckThenWrite : Obligations.UpdatesCheckThenWrite := by
  refine ⟨fun s d hr hw hl hu hb => ?_, fun s d hr hw hl hu hb hc => ?_, fun s comp d h2 h5 hl hb => ?_,
    fun s comp d h2 h5 hl hb => exec_pldmFirmwareUpdate_busy h2 h5 hl hb, fun s hr hq hrec hm => ?_, fun s d hr hl hs hrec => ?_,
    fun s d hr hl hs => ⟨_, exec_debugUnlock_denied hr hl hs, State.mbxEnd_sec ..⟩⟩
  · obtain ⟨js, queue, updating, first, last, image, flash⟩ := s.startUpdate_checked 5 (d.take (s.mbxReg 0x40)) (some mbxWaits)
    refine ⟨_, js, exec_manifestWrite_checks hr hw hl hu hb, fun hc => ?_⟩
    rw [if_neg (not_not.2 hc)]
    exact ⟨queue, updating, first, last, image, flash⟩
  · refine ⟨_, exec_manifestWrite_checks hr hw hl hu hb, ?_⟩
    rw [if_pos hc, State.mbxEnd_sec, State.mbxEnd_flashQ]
    exact ⟨rfl, rfl, rfl, rfl, rfl⟩
  · obtain ⟨js, queue, updating, first, last, image, flash⟩ := s.startUpdate_checked comp d none
    refine ⟨_, js, exec_pldmFirmwareUpdate_checks h2 h5 hl hb, fun hc => ?_⟩
    rw [if_neg (not_not.2 hc)]
    exact ⟨queue, updating, first, last, image, flash, State.getLast?_out_answer ..⟩
  · obtain ⟨queue, -, sec⟩ := State.flashTry_keeps { s with flashQ := s.flashQ ++ [s.arbJob] }
    refine ⟨_, s.arbJob, s.arbTargets, exec_arbCommit_stages hr hq hrec hm, queue, rfl, sec, fun i hi => ?_⟩
    interval_cases i <;> rfl
  · by_cases h : s.sec.checkImage 6 (d.take (s.mbxReg 0x40)) = 0 ∧ signerOf (d.take (s.mbxReg 0x40)) = 0
        ∧ (d.take (s.mbxReg 0x40)).take 32 = devidHash
    · obtain ⟨hc, hsig, hd⟩ := h
      refine ⟨_, exec_debugUnlock_arms hr hl hs hrec hc hsig hd, fun _ _ _ => ?_⟩
      rw [State.mbxEnd_sec]
      exact ⟨rfl, rfl, rfl, rfl⟩
    · exact ⟨_, rfl, fun hc hsig hd => absurd ⟨hc, hsig, hd⟩ h⟩

end Sys2Proof.Machine
end

section
/-! # The power manager (O35) -/

namespace Sys2Proof.Machine

/-! ### What a step of the power manager may change -/

/-- Two states differ at most in the power manager, counters, the interrupt controller and what was sent out. -/
def State.PowerOnly (s t : State) : Prop :=
  t = { s with pw := t.pw, cnt := t.cnt, irq := t.irq, msixPba := t.msixPba, out := t.out, deliv := t.deliv }

theorem State.PowerOnly.keeps {s t : State} (h : s.PowerOnly t) : t.regs = s.regs ∧ t.powered = s.powered ∧ t.pwrfail = s.pwrfail
    ∧ t.flashQ = s.flashQ ∧ t.flashBusy = s.flashBusy ∧ t.huMv = s.huMv := by
  rw [h]
  exact ⟨rfl, rfl, rfl, rfl, rfl, rfl⟩

theorem State.stepIs_pw (s : State) (n : Nat) : (s.stepIs n).pw = { s.pw with step := n } := by
  rw [State.stepIs, State.level_pw]

theorem State.powerOnly_stepIs (s : State) (n : Nat) : s.PowerOnly (s.stepIs n) := by
  have h := State.irqOnly_level { s with pw := { s.pw with step := n } } 11 (n ≠ 0)
  rw [State.PowerOnly, State.stepIs, h]

theorem State.PowerOnly.avsWrite {s t : State} (h : s.PowerOnly t) (x : Power) (mv : Nat) : s.PowerOnly (State.avsWrite { t with pw := x } mv) := by
  unfold State.PowerOnly at h ⊢
  rw [h]
  rfl

theorem State.PowerOnly.of_bump {s t : State} {o n : Nat} (h : (s.bump o n).PowerOnly t) : s.PowerOnly t := by
  unfold State.PowerOnly at h ⊢
  rw [h]
  rfl

theorem State.powerOnly_refl (s : State) : s.PowerOnly s := rfl

/-- The step follows the demands: after it the step is the larger of the two, and the demands are as they were (R462). -/
theorem State.pwSettle_step (s : State) :
    s.pwSettle.pw = { s.pw with step := max s.pw.step s.pw.demand, goal := s.pwSettle.pw.goal, setMv := s.pwSettle.pw.setMv
                                write := s.pwSettle.pw.write, acked := s.pwSettle.pw.acked } := by
  unfold State.pwSettle
  extract_lets x g waits t y
  split
  · next h =>
    have started : y = { s.pw with step := g } := State.stepIs_pw ..
    rw [State.avsWrite, State.emit_pw]
    dsimp only
    rw [started, max_eq_right (Nat.le_of_lt h)]
  · next h =>
    have high : max s.pw.step s.pw.demand = s.pw.step := max_eq_left (not_lt.1 h)
    rw [high]
    (repeat' split) <;> rfl

theorem State.powerOnly_pwSettle (s : State) : s.PowerOnly s.pwSettle := by
  unfold State.pwSettle
  extract_lets x g waits t
  split
  · exact State.PowerOnly.avsWrite (.of_bump (State.powerOnly_stepIs ..)) _ _
  · (repeat' split) <;> rfl

/-! ### Causes, demands and trips (R460, R467, R477) -/

theorem State.regs_pwrCause (s : State) (bits : W32) :
    (s.pwrCause bits).regs = aset s.regs 0x500020 (aget 0 s.regs 0x500020 ||| bits) :=
  (State.irqOnly_causeLevel { s with regs := aset s.regs 0x500020 (aget 0 s.regs 0x500020 ||| bits) } ..).regs

@[simp] theorem State.pwrCause_pw (s : State) (bits : W32) : (s.pwrCause bits).pw = s.pw := (s.irqOnly_pwrCause bits).pw
@[simp] theorem State.pwrCause_powered (s : State) (bits : W32) : (s.pwrCause bits).powered = s.powered := (s.irqOnly_pwrCause bits).powered
@[simp] theorem State.pwrCause_pwrfail (s : State) (bits : W32) : (s.pwrCause bits).pwrfail = s.pwrfail := (s.irqOnly_pwrCause bits).pwrfail

/-- A cause that is raised reads 1 in PWR_CAUSE. -/
theorem State.getLsbD_pwrCause (s : State) {bits : W32} {i : Nat} (h : bits.getLsbD i = true) :
    (aget 0 (s.pwrCause bits).regs 0x500020).getLsbD i = true := by
  rw [State.regs_pwrCause, aget_aset_self, BitVec.getLsbD_or, h, Bool.or_true]

theorem State.thermUp_below {s : State} (h : s.pw.dTherm < 3) :
    s.thermUp = State.pwrCause { s with pw := { s.pw with dTherm := s.pw.dTherm + 1 } } 4 :=
  if_neg (not_le.2 h)

theorem State.flashAbandon_lost (s : State) : s.flashAbandon.lost = s.lost := by
  unfold State.flashAbandon
  split
  · rfl
  · dsimp only
    split
    · rfl
    · split <;> rfl

theorem State.declareLost_lost (s : State) : s.declareLost.lost = true := by
  have link (u : State) (d : Nat) (m : CtlMsg) : (u.sendCtl d m).lost = u.lost := by
    rw [u.linkOnly_sendCtl d m]
  have level : (State.level { s with lost := true } 1 true).lost = true := State.level_lost ..
  unfold State.declareLost
  split
  · assumption
  · dsimp only
    split
    · exact level
    · rw [link, level]

/-- A trip stops the clocks and loses the device. -/
theorem State.trip_effect (s : State) : s.trip.powered = false ∧ s.trip.lost = true ∧ s.trip.pw.tripped = true :=
  ⟨rfl, (State.flashAbandon_lost _).trans s.declareLost_lost, rfl⟩

/-! ### The evaluations of the loop (R466) -/

theorem Power.evalPlim_keeps (x : Power) (est limit : Nat) :
    (x.evalPlim est limit).dFast = x.dFast ∧ (x.evalPlim est limit).overFast = x.overFast ∧ (x.evalPlim est limit).dTherm = x.dTherm
      ∧ (x.evalPlim est limit).step = x.step := by
  unfold Power.evalPlim
  dsimp only
  (repeat' split) <;> exact ⟨rfl, rfl, rfl, rfl⟩

theorem Power.evalFast_keeps (x : Power) (est limit fast : Nat) :
    (x.evalFast est limit fast).dPlim = x.dPlim ∧ (x.evalFast est limit fast).dTherm = x.dTherm
      ∧ (x.evalFast est limit fast).step = x.step := by
  unfold Power.evalFast
  dsimp only
  (repeat' split) <;> exact ⟨rfl, rfl, rfl⟩

/-- The second evaluation in a row above FAST raises its demand. -/
theorem Power.evalFast_above {x : Power} {est limit fast : Nat} (h : fast < est) (ho : 1 ≤ x.overFast) (hd : x.dFast < 3) :
    (x.evalFast est limit fast).dFast = x.dFast + 1 := by
  simp [Power.evalFast, h, ho, hd]

/-- The power manager after the judgements of an evaluation, before the step follows. -/
def State.evaluated (s : State) (est : Nat) : Power :=
  { (s.pw.evalPlim est s.pwrLimit).evalFast est s.pwrLimit s.pwrFast with
    est := est, dPf := if s.pwrfail && s.pfThrot then 3 else ((s.pw.evalPlim est s.pwrLimit).evalFast est s.pwrLimit s.pwrFast).dPf }

/-- An evaluation judges the demands, and the step follows them. -/
theorem exec_powerLoopEval_settles {s : State} (est : Nat) (h : s.Settled 625) :
    ∃ u : State, u.pw = s.evaluated est ∧ exec (.powerLoopEval est) s = .next u.pwSettle := by
  rw [exec, execPowerLoopEval, State.under_settled _ h]
  extract_lets x y z bits t u
  refine ⟨u, ?_, rfl⟩
  have judged : t.pw = s.evaluated est := rfl
  simp only [u]
  split
  · exact judged
  · rw [State.pwrCause_pw, judged]

/-! ### Heat and power failure (R467, R477, R478) -/

/-- The temperatures of a sample, kept by sensor, hold a property where the sample does. -/
theorem any_zipIdx_map_swap (f : Nat → Bool) (l : List Nat) : ((l.zipIdx.map fun x => (x.2, x.1)).any fun x => f x.2) = l.any f := by
  calc ((l.zipIdx.map fun x => (x.2, x.1)).any fun x => f x.2) = (l.zipIdx.map Prod.fst).any f := by
        rw [List.any_map, List.any_map]
        rfl
    _ = l.any f := by rw [List.zipIdx_map_fst]

/-- A sample at the trip point trips. -/
theorem exec_thermalSample_trips {s : State} {l : List Nat} {x : Nat} (up dn : Bool) (h : s.Settled 625) (hx : x ∈ l.take 64) (ht : 115 ≤ x) :
    ∃ u : State, exec (.thermalSample l up dn) s = .next u.trip := by
  have trips : ((l.take 64).any fun y => decide (tripTemp ≤ y)) = true := List.any_eq_true.2 ⟨x, hx, decide_eq_true ht⟩
  rw [exec, execThermalSample, State.under_settled _ h]
  dsimp only
  rw [any_zipIdx_map_swap fun y => decide (tripTemp ≤ y), if_pos trips]
  exact ⟨_, rfl⟩

/-- A hot sample below the trip point raises the thermal demand where its pace allows. -/
theorem exec_thermalSample_heats {s : State} {l : List Nat} {x : Nat} (dn : Bool) (h : s.Settled 625) (hl : ∀ y ∈ l.take 64, y < 115)
    (hx : x ∈ l.take 64) (ht : s.throtTemp < x) :
    ∃ u : State, u.pw.dTherm = s.pw.dTherm ∧ u.powered = s.powered ∧ exec (.thermalSample l true dn) s = .next u.thermUp.pwSettle := by
  have trips : ((l.take 64).any fun y => decide (tripTemp ≤ y)) = false :=
    List.any_eq_false.2 fun y hy => by rw [decide_eq_true_eq]; exact not_le.2 (hl y hy)
  have hot : ((l.take 64).any fun y => decide (s.throtTemp < y)) = true := List.any_eq_true.2 ⟨x, hx, decide_eq_true ht⟩
  rw [exec, execThermalSample, State.under_settled _ h]
  dsimp only
  rw [any_zipIdx_map_swap fun y => decide (tripTemp ≤ y), if_neg (Bool.eq_false_iff.1 trips)]
  refine ⟨{ s with pw := { s.pw with temps := (l.take 64).zipIdx.map fun x => (x.2, x.1) } }, rfl, rfl, ?_⟩
  rw [if_pos]
  exact Bool.and_eq_true_iff.2 ⟨Bool.or_eq_true_iff.2 (.inr ((any_zipIdx_map_swap (fun y => decide (s.throtTemp < y)) _).trans hot)), rfl⟩

/-- THERM_ALERT where nothing was hot raises the thermal demand once. -/
theorem exec_thermAlert_heats {s : State} (h : s.Settled 625) (ha : s.pw.alert = false) (ht : ∀ x ∈ s.pw.temps, x.2 ≤ s.throtTemp) :
    exec (.thermAlert true) s = .next (State.level { s with pw := { s.pw with alert := true } } 29 false).thermUp.pwSettle := by
  have cool : (s.pw.temps.any fun x => decide (s.throtTemp < x.2)) = false :=
    List.any_eq_false.2 fun x hx => by rw [decide_eq_true_eq]; exact not_lt.2 (ht x hx)
  rw [exec, execThermAlert, State.under_settled _ h]
  dsimp only
  rw [ha, cool]
  rfl

theorem exec_thermAlert_ends {s : State} (h : s.Settled 625) :
    exec (.thermAlert false) s = .next (State.level { s with pw := { s.pw with alert := false } } 29 true) := by
  rw [exec, execThermAlert, State.under_settled _ h]
  rfl

/-- After the thermal demand rises the step is not below it. -/
theorem State.thermUp_pwSettle {s : State} (h : s.pw.dTherm < 3) :
    s.thermUp.pwSettle.pw.alert = s.pw.alert ∧ s.thermUp.pwSettle.pw.dTherm = s.pw.dTherm + 1
      ∧ s.thermUp.pwSettle.pw.dTherm ≤ s.thermUp.pwSettle.pw.step ∧ (aget 0 s.thermUp.pwSettle.regs 0x500020).getLsbD 2 = true
      ∧ s.thermUp.pwSettle.powered = s.powered := by
  obtain ⟨regs, powered, -⟩ := s.thermUp.powerOnly_pwSettle.keeps
  have up : s.thermUp.pw = { s.pw with dTherm := s.pw.dTherm + 1 } := by rw [State.thermUp_below h, State.pwrCause_pw]
  have largest (x : Power) : x.dTherm ≤ max x.step x.demand := by
    unfold Power.demand
    omega
  rw [State.pwSettle_step, regs, powered, up]
  refine ⟨rfl, rfl, largest { s.pw with dTherm := s.pw.dTherm + 1 }, ?_, ?_⟩
  · rw [State.thermUp_below h]
    exact State.getLsbD_pwrCause _ rfl
  · rw [State.thermUp_below h, State.pwrCause_powered]

/-- The state in which a falling PWRFAIL_N is seen by its interrupt source. -/
def State.pwrfailSeen (s : State) : State := State.level { s with pwrfail := true, pw := { s.pw with pfWait := true } } 28 false

/-- A power failure demands step 3 where PF_THROT is on, and the flash writes wait. -/
theorem exec_pwrfailN_low {s : State} (hp : s.powered = true) (hf : s.pwrfail = false) (ht : s.pfThrot = true) :
    exec (.pwrfailN true) s
      = .next ((State.pwSettle { s.pwrfailSeen with pw := { s.pw with pfWait := true, dPf := 3 } }).pwrCause 8) := by
  have throt : s.pwrfailSeen.pfThrot = true := by
    rw [State.pfThrot, State.pwrfailSeen, State.level_regs, ← ht, State.pfThrot]
  have pw : s.pwrfailSeen.pw = { s.pw with pfWait := true } := State.level_pw ..
  have seen : exec (.pwrfailN true) s = .next ((State.pwSettle { s.pwrfailSeen with
      pw := { s.pwrfailSeen.pw with dPf := if s.pwrfailSeen.pfThrot then 3 else s.pwrfailSeen.pw.dPf } }).pwrCause 8) := by
    rw [exec, execPwrfailN, if_neg (Bool.eq_false_iff.1 hf)]
    dsimp only
    rw [if_neg (show ¬(!s.powered) = true by simp [hp]), if_pos rfl]
    rfl
  rw [seen, if_pos throt, pw]

theorem State.huEnough_congr {s t : State} (hr : t.regs = s.regs) (hm : t.huMv = s.huMv) : t.huEnough = s.huEnough := by
  unfold State.huEnough State.huEnergy State.huCfg State.huVmin
  rw [hr, hm]

/-- The job at the front of the flash queue begins while the hold-up energy is enough and no power failure stands. -/
theorem State.flashTry_begins {s : State} (hq : s.flashQ ≠ []) (hb : s.flashBusy = false) (he : s.huEnough = true) (hf : s.pwrfail = false)
    (hw : s.pw.pfWait = false) : s.flashTry.flashBusy = true := by
  obtain ⟨j, rest, hj⟩ := List.exists_cons_of_ne_nil hq
  simp [State.flashTry, hj, hb, he, hf, hw]

theorem State.flashTry_pfWait (s : State) : s.flashTry.pw.pfWait = s.pw.pfWait ∧ s.flashTry.pw.dPf = s.pw.dPf := by
  unfold State.flashTry
  split
  · exact ⟨rfl, rfl⟩
  · have putOff : ((s.huMeasured.pwrCause 0x20).bump 0x500098 1).pw = s.huMeasured.pw := by rw [State.bump_pw, State.pwrCause_pw]
    extract_lets fence
    split
    · exact ⟨rfl, rfl⟩
    · split
      · exact ⟨rfl, rfl⟩
      · dsimp only
        rw [putOff]
        exact ⟨rfl, rfl⟩

/-- The power manager when a power failure is over. -/
def Power.recovered (x : Power) : Power := { x with pfWait := false, dPf := 0 }

theorem exec_pwrfailRecovery_settles {s : State} (hf : s.pwrfail = false) (hw : s.pw.pfWait = true) (hp : s.powered = true) :
    exec .pwrfailRecovery s = .next (State.pwSettle { s with pw := s.pw.recovered }).flashTry := by
  simp [exec, execPwrfailRecovery, hf, hw, hp, Power.recovered]

/-- Settles O35: the step follows the demands at once, and each event sets its demand or its cause. -/
theorem powerFollowsItsDemands : Obligations.PowerFollowsItsDemands := by
  refine ⟨fun s est h => ?_, fun s hp hw => ?_, fun s hp ha => ?_, fun s mv f hp => ?_, fun s l up dn x h hx ht => ?_,
    fun s l dn x h hl hx ht hd => ?_, fun s h ha ht hd => ?_, fun s h => ?_, fun s hp hf ht => ?_, fun s hf hw hp => ?_⟩
  · obtain ⟨u, pw, run⟩ := exec_powerLoopEval_settles est h
    obtain ⟨plimFast, plimOver, plimTherm, plimStep⟩ := s.pw.evalPlim_keeps est s.pwrLimit
    obtain ⟨fastPlim, fastTherm, fastStep⟩ := (s.pw.evalPlim est s.pwrLimit).evalFast_keeps est s.pwrLimit s.pwrFast
    refine ⟨_, run, ?_⟩
    rw [State.pwSettle_step, pw]
    refine ⟨rfl, ?_, fastPlim, fun hf ht => ?_, fun hl ho hd => ?_, fastTherm.trans plimTherm⟩
    · exact congrArg (max · _) (fastStep.trans plimStep)
    · simp [State.evaluated, hf, ht]
    · exact (Power.evalFast_above hl (plimOver ▸ ho) (plimFast ▸ hd)).trans (congrArg (· + 1) plimFast)
  · simp [exec, execAvsWriteAck, hp, hw]
  · have run : exec .frequencyChange s = .next
        ((State.bump { s with pw := { s.pw with acked := false } } 0x500084 (s.pw.step - s.pw.goal)).stepIs s.pw.goal) := by
      simp [exec, execFrequencyChange, hp, ha]
    refine ⟨_, run, by rw [State.stepIs_pw, State.bump_pw], ?_⟩
    exact (State.count_congr (State.level_cnt ..) _).trans (State.count_bump_self ..)
  · have run : exec (.pmbusPoll mv f) s = .next (if f then State.pwrCause { s with pw := { s.pw with readMv := mv } } 0x10
        else { s with pw := { s.pw with readMv := mv } }) := by
      simp [exec, execPmbusPoll, hp]
    refine ⟨_, run, ?_⟩
    cases f with
    | false => exact ⟨rfl, fun h => absurd h Bool.false_ne_true, fun _ => rfl⟩
    | true => exact ⟨State.pwrCause_pw .., fun _ => State.getLsbD_pwrCause _ rfl, fun h => absurd h.symm Bool.false_ne_true⟩
  · obtain ⟨u, run⟩ := exec_thermalSample_trips up dn h hx ht
    exact ⟨_, run, u.trip_effect⟩
  · obtain ⟨u, therm, powered, run⟩ := exec_thermalSample_heats dn h hl hx ht
    obtain ⟨-, demand, step, cause, on⟩ := State.thermUp_pwSettle (s := u) (therm ▸ hd)
    exact ⟨_, run, therm ▸ demand, step, cause, on.trans (powered.trans h.1)⟩
  · have pw : (State.level { s with pw := { s.pw with alert := true } } 29 false).pw = { s.pw with alert := true } := State.level_pw ..
    obtain ⟨alert, demand, step, -, -⟩ :=
      State.thermUp_pwSettle (s := State.level { s with pw := { s.pw with alert := true } } 29 false) (by rw [pw]; exact hd)
    rw [pw] at alert demand
    exact ⟨_, exec_thermAlert_heats h ha ht, alert, demand, step⟩
  · refine ⟨_, exec_thermAlert_ends h, State.level_pw .., ?_⟩
    have only := State.irqOnly_level { s with pw := { s.pw with alert := false } } 29 true
    rw [State.IrqOnly, only]
  · obtain ⟨-, -, fail, -⟩ := (State.powerOnly_pwSettle { s.pwrfailSeen with pw := { s.pw with pfWait := true, dPf := 3 } }).keeps
    refine ⟨_, exec_pwrfailN_low hp hf ht, ?_, ?_, ?_, ?_, State.getLsbD_pwrCause _ rfl⟩
    · rw [State.pwrCause_pwrfail, fail]
      exact State.level_pwrfail ..
    · rw [State.pwrCause_pw, State.pwSettle_step]
    · rw [State.pwrCause_pw, State.pwSettle_step]
    · rw [State.pwrCause_pw, State.pwSettle_step]
      simp [Power.demand]
  · obtain ⟨regs, -, fail, queue, busy, mv⟩ := (State.powerOnly_pwSettle { s with pw := s.pw.recovered }).keeps
    have wait : (State.pwSettle { s with pw := s.pw.recovered }).pw.pfWait = false := by
      rw [State.pwSettle_step]
      rfl
    obtain ⟨tryWait, tryPf⟩ := (State.pwSettle { s with pw := s.pw.recovered }).flashTry_pfWait
    refine ⟨_, exec_pwrfailRecovery_settles hf hw hp, tryWait.trans wait, tryPf.trans ?_, fun hq hb he => ?_⟩
    · rw [State.pwSettle_step]
      rfl
    · refine State.flashTry_begins (by rw [queue]; exact hq) (busy.trans hb) ((State.huEnough_congr regs mv).trans he) (fail.trans hf) wait

end Sys2Proof.Machine
end

section
/-! # Doorbells and relayed commands (O25) -/

namespace Sys2Proof.Machine

/-! ### What a completion leaves of its ring (R394, R400) -/

/-- The host's head of the completion queue and the results of the last relayed command: no completion moves them. -/
def Ring.settled (x : Ring) : Nat × Amap (Nat × Nat) := (x.cqHead, x.last)

theorem State.ring_congr {s t : State} (h : t.rings = s.rings) (r : Nat) : t.ring r = s.ring r := by rw [State.ring, State.ring, h]

theorem State.IrqOnly.ring {s t : State} (h : s.IrqOnly t) (r : Nat) : t.ring r = s.ring r := State.ring_congr h.rings r

theorem State.settled_cqWrite (s : State) (r : Nat) (e : List Byte) (noirq : Bool) :
    ((s.cqWrite r e noirq).ring r).settled = (s.ring r).settled := by
  unfold State.cqWrite
  extract_lets x n a tail e' u v
  have written : (v.ring r).settled = (s.ring r).settled := (congrArg Ring.settled (State.ring_setRing_self s r _)).trans rfl
  split
  · rw [(State.irqOnly_msix v _).ring, written]
  · exact written

theorem State.settled_cqPost (s : State) (r : Nat) (j : RingJob) (k : Compl) : ((s.cqPost r j k).ring r).settled = (s.ring r).settled := by
  unfold State.cqPost
  extract_lets x head y e
  split
  · rw [State.settled_cqWrite, State.ring_setRing_self]
    rfl
  · rw [State.cqLevel, (State.irqOnly_level _ _ _).ring, State.ring_setRing_self]
    rfl

theorem State.settled_ringSettle (s : State) (r n : Nat) : ((s.ringSettle r n).ring r).settled = (s.ring r).settled := by
  induction n generalizing s with
  | zero => rfl
  | succ n ih =>
    unfold State.ringSettle
    split
    · split
      · rfl
      · exact (ih _).trans (State.settled_cqPost ..)
    · rfl

theorem State.settled_hostDone (s : State) (r : Nat) (j : RingJob) (k : Compl) : ((s.hostDone r j k).ring r).settled = (s.ring r).settled :=
  (State.settled_ringSettle ..).trans (State.settled_cqPost ..)

/-- A ring whose command in progress has an opcode of R396 has nothing to settle. -/
theorem State.ringSettle_busy {s : State} {r : Nat} {j : RingJob} (n : Nat) (hr : r < 32) (hj : (s.ring r).job = some j)
    (ho : knownOpc (cmdOpc j.cmd) = true) : s.ringSettle r n = s := by
  cases n with
  | zero => rfl
  | succ n =>
    have head : s.ringHead r = some j := by
      rw [State.ringHead, if_neg (by omega), hj]
    rw [State.ringSettle, head]
    exact if_pos ho

/-! ### The doorbells (R393, R394) -/

/-- A tail below the size of the queue becomes the ring's, and source 680 or 681 follows. -/
def State.tailTaken (s : State) (r tail : Nat) : State :=
  if r = 0 then (s.setRing r { s.ring r with sqTail := tail }).pulse 680
  else State.level { s.setRing r { s.ring r with sqTail := tail } with regs := aset s.regs 0x200400 (aget 0 s.regs 0x200400 ||| (1 <<< r)) } 681 true

theorem State.tailTaken_effect (s : State) {r : Nat} (hr : r < 17) (tail : Nat) :
    (s.tailTaken r tail).ring r = { s.ring r with sqTail := tail }
      ∧ (r ≠ 0 → (aget 0 (s.tailTaken r tail).regs 0x200400).getLsbD r = true) ∧ (s.tailTaken r tail).bar2 = s.bar2 := by
  unfold State.tailTaken
  split
  · next h =>
    have only := (s.setRing r { s.ring r with sqTail := tail }).irqOnly_pulse 680
    exact ⟨(only.ring r).trans (State.ring_setRing_self ..), absurd h, only.bar2⟩
  · have only := State.irqOnly_level { s.setRing r { s.ring r with sqTail := tail } with
      regs := aset s.regs 0x200400 (aget 0 s.regs 0x200400 ||| (1 <<< r)) } 681 true
    refine ⟨(only.ring r).trans (State.ring_setRing_self ..), fun _ => ?_, only.bar2⟩
    rw [only.regs, aget_aset_self]
    have one : (((1 <<< r : Nat) : W32)).getLsbD r = true := by
      interval_cases r <;> rfl
    rw [BitVec.getLsbD_or, one, Bool.or_true]

section Doorbells
variable {s : State} {r : Nat} (hr : r < 17) (ho : s.ringOn r = true)
include hr ho

theorem exec_sqTail_takes {tail : Nat} (ht : tail < s.sqSize r) : exec (.sqTail r tail) s = .next ((s.tailTaken r tail).ringSettle r 1024) := by
  simp only [exec, execSqTail, ho, show ¬ 17 ≤ r by omega, if_neg (not_le.2 ht), decide_false, Bool.not_true, Bool.or_false,
    Bool.false_eq_true, if_false]
  rfl

theorem exec_sqTail_bad {tail : Nat} (ht : s.sqSize r ≤ tail) : exec (.sqTail r tail) s = .next (s.setRing r { s.ring r with badDb := true }) := by
  simp [exec, execSqTail, ho, show ¬ 17 ≤ r by omega, ht]

/-- A head that makes room writes the completion that was held. -/
theorem exec_cqHead_writes {head u : Nat} {e : List Byte} (hh : head < s.cqSize r) (he : (s.ring r).held = some e)
    (hu : u = (s.ring r).cqUsed - (head + s.cqSize r - (s.ring r).cqHead % s.cqSize r) % s.cqSize r) (room : u < s.cqSize r) :
    exec (.cqHead r head) s
      = .next (((s.setRing r { s.ring r with cqHead := head, cqUsed := u }).cqWrite r (e.take 16) (e.getD 16 0 = 1)).cqLevel.ringSettle r 1024) := by
  simp only [exec, execCqHead, ho, show ¬ 17 ≤ r by omega, if_neg (not_le.2 hh), decide_false, Bool.not_true, Bool.or_false, Bool.false_eq_true,
    if_false, ← hu, he, if_pos room]

end Doorbells

/-! ### A member's relayed command (R400) -/

section Relayed
variable {s : State} {src g : Nat} {c : BitVec 512} {d : List Byte}

/-- The state in which a relayed command stands at the end of its ring's queue. -/
def State.relayQueued (s : State) (src g : Nat) (c : BitVec 512) (d : List Byte) : State :=
  s.setRing (32 + g) { s.ring (32 + g) with src := src, queue := (s.ring (32 + g)).queue ++ [{ cmd := c, payload := d }] }

theorem exec_relayedCommandReceive (hg : g < 17) :
    exec (.relayedCommandReceive src g c d) s = .next ((s.relayQueued src g c d).runRelayed (32 + g)) := by
  simp only [exec, execRelayedCommandReceive, State.takeRelayed, if_neg (not_le.2 hg)]
  rfl

theorem State.ringHead_relayQueued {j : RingJob} {l : List RingJob} (h : (s.ring (32 + g)).queue ++ [{ cmd := c, payload := d }] = j :: l) :
    (s.relayQueued src g c d).ringHead (32 + g) = some j := by
  rw [State.ringHead, State.relayQueued, State.ring_setRing_self, if_pos (by omega), h]
  rfl

/-- The commands of a member's ring run one at a time. -/
theorem State.runRelayed_behind {r : Nat} {j : RingJob} (h : s.ringHead r = some j) (hj : j.started = true) : s.runRelayed r = s := by
  simp only [State.runRelayed, h, hj, Bool.true_or, if_true]

/-- An ABORT that may run at the head of a member's ring. -/
theorem State.runRelayed_abort {r : Nat} {j : RingJob} (h : s.ringHead r = some j) (hj : j.started = false) (ho : cmdOpc j.cmd = 0x0A)
    (hw : s.cmdWaits j.cmd = false) (hp : s.precheck r j.cmd = none) (hs : s.cfg.st ≠ 0) :
    s.runRelayed r = (s.closeSession.cfgCause 4).ringDone r j {} := by
  simp only [State.runRelayed, h, hj, ho, hw, hp, Bool.or_self, Bool.false_eq_true, if_false]
  exact State.runHere_done (abortCmd_closes r j hs)

theorem State.LinkOnly.session {s t : State} (h : s.LinkOnly t) : t.cfg = s.cfg ∧ t.staged = s.staged ∧ t.rings = s.rings := by
  unfold State.LinkOnly State.PortOnly at h
  rw [h]
  exact ⟨rfl, rfl, rfl⟩

/-- The command of a member's ring ends: it leaves the queue, its result goes to the anchor, and the member's session stays. -/
theorem State.ringDone_member {r : Nat} (j : RingJob) (k : Compl) (hr : 32 ≤ r) (hd : (s.ring r).src ≠ s.devId) :
    (s.ringDone r j k).cfg = s.cfg ∧ (s.ringDone r j k).staged = s.staged ∧ ((s.ringDone r j k).ring r).queue = (s.ring r).queue.drop 1 := by
  have sent : s.ringDone r j k = State.sendCtl (s.setRing r { s.ring r with queue := (s.ring r).queue.drop 1 }) (s.ring r).src
      (.relayResult (r - 32) k.status k.subst) := by
    rw [State.ringDone, if_neg (not_lt.2 hr)]
    exact if_neg hd
  obtain ⟨cfg, staged, rings⟩ := (State.linkOnly_sendCtl (s.setRing r { s.ring r with queue := (s.ring r).queue.drop 1 }) (s.ring r).src
    (.relayResult (r - 32) k.status k.subst)).session
  rw [sent, State.ring_congr rings, State.ring_setRing_self]
  exact ⟨cfg, staged, rfl⟩

theorem State.devId_closeSession_cfgCause (bit : Nat) : (s.closeSession.cfgCause bit).devId = s.devId := by
  rw [State.devId, (s.closeSession.cfgCause_only bit).regs, aget_aset_ne _ _ _ (by decide)]
  rfl

/-- An ABORT that finds its ring empty closes the member's session. -/
theorem State.relayQueued_abort (hq : (s.ring (32 + g)).queue = []) (ho : cmdOpc c = 0x0A) (hw : s.cmdWaits c = false)
    (hp : s.precheck (32 + g) c = none) (hs : s.cfg.st ≠ 0) (hd : src ≠ s.devId) :
    ((s.relayQueued src g c d).runRelayed (32 + g)).cfg = {} ∧ ((s.relayQueued src g c d).runRelayed (32 + g)).staged = []
      ∧ (((s.relayQueued src g c d).runRelayed (32 + g)).ring (32 + g)).queue = [] := by
  have head := State.ringHead_relayQueued (s := s) (src := src) (g := g) (c := c) (d := d) (l := []) (by rw [hq]; rfl)
  obtain ⟨cfg, staged, -, -, -, -, kept⟩ := (s.relayQueued src g c d).closeSession_cfgCause 4
  have ring : ((s.relayQueued src g c d).closeSession.cfgCause 4).ring (32 + g)
      = { s.ring (32 + g) with src := src, queue := [{ cmd := c, payload := d }] } := by
    rw [State.ring_congr kept.1, State.relayQueued, State.ring_setRing_self, hq]
    rfl
  have away : (((s.relayQueued src g c d).closeSession.cfgCause 4).ring (32 + g)).src ≠ ((s.relayQueued src g c d).closeSession.cfgCause 4).devId := by
    rw [ring, State.devId_closeSession_cfgCause]
    exact hd
  obtain ⟨doneCfg, doneStaged, doneQueue⟩ := State.ringDone_member { cmd := c, payload := d } {} (by omega) away
  rw [State.runRelayed_abort head rfl ho hw hp hs]
  exact ⟨doneCfg.trans cfg, doneStaged.trans staged, by rw [doneQueue, ring]; rfl⟩

end Relayed

/-! ### Results at the anchor (R400) -/

section Results
variable {s : State} {r d st sub : Nat} {y : RelayJob} {j : RingJob} (hy : (s.ring r).relay = some y) (hj : (s.ring r).job = some j)
  (hm : d ∈ y.members) (hn : afind y.results d = none)
include hy hj hm hn

/-- The result of the last member completes the command. -/
theorem State.relayNote_last (h : (aset y.results d (st, sub)).length = y.members.length) :
    s.relayNote r d st sub
      = (s.setRing r { s.ring r with last := aset y.results d (st, sub) }).hostDone r j (relayCompl (aset y.results d (st, sub))) := by
  simp [State.relayNote, hy, hj, hm, hn, h]

theorem State.relayNote_more (h : (aset y.results d (st, sub)).length ≠ y.members.length) :
    s.relayNote r d st sub = s.setRing r { s.ring r with relay := some { y with results := aset y.results d (st, sub) } } := by
  simp [State.relayNote, hy, hj, hm, hn, h]

/-- With room in the completion queue the last result completes the command on its ring. -/
theorem State.relayNote_completes (hr : r < 17) (h : (aset y.results d (st, sub)).length = y.members.length) (room : (s.ring r).cqUsed < s.cqSize r) :
    ((s.relayNote r d st sub).ring r).last = aset y.results d (st, sub)
      ∧ s.Completes (s.relayNote r d st sub) r j.cmd (relayCompl (aset y.results d (st, sub))) := by
  rw [State.relayNote_last hy hj hm hn h]
  have ring : (s.setRing r { s.ring r with last := aset y.results d (st, sub) }).ring r = { s.ring r with last := aset y.results d (st, sub) } :=
    State.ring_setRing_self ..
  constructor
  · refine (congrArg Prod.snd (State.settled_hostDone ..)).trans ?_
    rw [ring]
    rfl
  · obtain ⟨-, done⟩ := State.ringDone_completes (s := s.setRing r { s.ring r with last := aset y.results d (st, sub) }) (j := j)
      (relayCompl (aset y.results d (st, sub))) hr (by rw [ring]; exact room)
    rw [State.ringDone, if_pos (by omega), State.Completes, ring] at done
    exact done

end Results

theorem relayCompl_ok {l : Amap (Nat × Nat)} (h : ∀ x ∈ l, x.2.1 = 0) : relayCompl l = {} := by
  have none_failed : l.filter (fun x => x.2.1 ≠ stOk) = [] := List.filter_eq_nil_iff.2 fun x hx => by simp [stOk, h x hx]
  rw [relayCompl, none_failed]

theorem relayCompl_failed {l m : Amap (Nat × Nat)} {x : Nat × Nat × Nat} (h : l.filter (fun z => z.2.1 ≠ 0) = x :: m) :
    relayCompl l = { status := 0x0B, subst := x.2.1, failCnt := m.length + 1, failDev := x.1 } := by
  have failed : l.filter (fun z => z.2.1 ≠ stOk) = x :: m := h
  rw [relayCompl, failed]
  rfl

/-- A failure among results that are all good is the only one. -/
theorem filter_aset_failed {m : Amap (Nat × Nat)} {d st sub : Nat} (h : ∀ x ∈ m, x.2.1 = 0) (hs : st ≠ 0) :
    (aset m d (st, sub)).filter (fun z => z.2.1 ≠ 0) = [(d, st, sub)] := by
  induction m with
  | nil => simp [aset, hs]
  | cons x m ih =>
    obtain ⟨k, v⟩ := x
    obtain ⟨hv, hm⟩ := List.forall_mem_cons.1 h
    have good : m.filter (fun z => z.2.1 ≠ 0) = [] := List.filter_eq_nil_iff.2 fun x hx => by simp [hm x hx]
    have fails : (fun z : Nat × Nat × Nat => decide (z.2.1 ≠ 0)) (d, st, sub) = true := decide_eq_true hs
    have passes : ¬ (fun z : Nat × Nat × Nat => decide (z.2.1 ≠ 0)) (k, v) = true := by simpa using hv
    unfold aset
    split
    · rw [List.filter_cons_of_pos (p := fun z : Nat × Nat × Nat => decide (z.2.1 ≠ 0)) fails, good]
    · split
      · rw [List.filter_cons_of_pos (p := fun z : Nat × Nat × Nat => decide (z.2.1 ≠ 0)) fails,
          List.filter_cons_of_neg (p := fun z : Nat × Nat × Nat => decide (z.2.1 ≠ 0)) passes, good]
      · rw [List.filter_cons_of_neg (p := fun z : Nat × Nat × Nat => decide (z.2.1 ≠ 0)) passes, ih hm]

theorem State.isLost_congr {s t : State} (h : ∀ o, 0x300000 ≤ o → aget 0 t.regs o = aget 0 s.regs o) (d : Nat) : t.isLost d = s.isLost d := by
  unfold State.isLost
  split <;> rw [h _ (by decide)]

theorem State.isLost_cfgCause (s : State) (bit d : Nat) : (s.cfgCause bit).isLost d = s.isLost d :=
  State.isLost_congr (fun o ho => by rw [(s.cfgCause_only bit).regs, aget_aset_ne _ _ _ (by omega)]) d

/-- At the timeout the one member that is missing counts as failed. -/
theorem exec_relayTimeout_missing {s : State} {r d : Nat} {y : RelayJob} (hy : (s.ring r).relay = some y)
    (hm : y.members.filter (fun x => (afind y.results x).isNone) = [d]) (hl : s.isLost d = false) :
    exec (.relayTimeout r) s = .next ((s.cfgCause 3).relayNote r d 8 0) := by
  simp only [exec, execRelayTimeout, hy, hm, List.foldl_cons, List.foldl_nil, s.isLost_cfgCause, hl, Bool.false_eq_true, if_false]
  rfl

/-- Registers of a ring that are kept place its completions where they were. -/
theorem State.RingsKept.completes {s t u : State} {r : Nat} {c : BitVec 512} {k : Compl} (h : s.RingsKept t) (hr : r < 17)
    (done : t.Completes u r c k) : s.Completes u r c k := by
  obtain ⟨rings, regs⟩ := h
  have ring : t.ring r = s.ring r := State.ring_congr rings r
  have cfg : t.ringCfg r = s.ringCfg r := by rw [State.ringCfg, State.ringCfg, regs _ _ (by omega) (by omega)]
  have sq : t.sqSize r = s.sqSize r := by rw [State.sqSize, State.sqSize, cfg]
  have base : t.cqBase r = s.cqBase r := by
    rw [State.cqBase, State.cqBase, regs _ _ (by omega) (by omega), regs _ _ (by omega) (by omega)]
  rwa [State.Completes, ring, sq, base] at done

theorem State.RingsKept.cqSize {s t : State} (h : s.RingsKept t) {r : Nat} (hr : r < 17) : t.cqSize r = s.cqSize r := by
  rw [State.cqSize, State.cqSize, State.ringCfg, State.ringCfg, h.2 _ _ (by omega) (by omega)]

theorem State.RingsKept.ring {s t : State} (h : s.RingsKept t) (r : Nat) : t.ring r = s.ring r := State.ring_congr h.1 r

/-- Settles O25: a doorbell moves its pointer, a member's ring runs one command at a time, and the last result completes the command. -/
theorem ringsTakeDoorbellsAndRelays : Obligations.RingsTakeDoorbellsAndRelays := by
  refine ⟨fun s r tail hr ho ht hj hk => ?_, fun s r tail hr ho ht => ⟨_, exec_sqTail_bad hr ho ht, rfl⟩,
    fun s r head u e hr ho hh he hu room => ?_,
    fun s src g c d j l hg hq hj => ?_, fun s src g c d hg hq ho hw hp hs hd => ?_, fun s r d st sub y j l hr hy hj hm hn hl len room => ?_,
    fun s r d st sub y j hy hj hm hn len => ?_, fun s r d y j l hr hy hj hm hl len hlost hres room => ?_⟩
  · obtain ⟨j, hj⟩ := Option.isSome_iff_exists.1 hj
    obtain ⟨ring, pending, bar2⟩ := s.tailTaken_effect hr tail
    have settled : (s.tailTaken r tail).ringSettle r 1024 = s.tailTaken r tail :=
      State.ringSettle_busy 1024 (by omega) (by rw [ring]; exact hj) (hk j hj)
    exact ⟨_, (exec_sqTail_takes hr ho ht).trans (congrArg _ settled), ring, pending, bar2⟩
  · obtain ⟨-, sent⟩ := State.sendsOn_cqWrite (s.setRing r { s.ring r with cqHead := head, cqUsed := u }) r (e.take 16) (e.getD 16 0 = 1)
    rw [State.ring_setRing_self] at sent
    refine ⟨_, exec_cqHead_writes hr ho hh he hu room, ?_, ?_⟩
    · exact (State.sendsOn_ringSettle ..).2 ((State.sendsOn_level ..).2 sent)
    · refine (congrArg Prod.fst (State.settled_ringSettle ..)).trans ?_
      rw [State.cqLevel, (State.irqOnly_level _ _ _).ring, State.settled_cqWrite, State.ring_setRing_self]
      rfl
  · have head := State.ringHead_relayQueued (src := src) (show (s.ring (32 + g)).queue ++ [{ cmd := c, payload := d }] = j :: (l ++ [_]) by rw [hq]; rfl)
    refine ⟨_, exec_relayedCommandReceive hg, ?_, ?_⟩
    · rw [State.runRelayed_behind head hj, State.relayQueued, State.ring_setRing_self, hq]
    · rw [State.runRelayed_behind head hj]
      rfl
  · obtain ⟨cfg, staged, queue⟩ := State.relayQueued_abort (d := d) hq ho hw hp hs hd
    exact ⟨_, exec_relayedCommandReceive hg, cfg, staged, queue⟩
  · subst hl
    obtain ⟨last, done⟩ := State.relayNote_completes hy hj hm hn hr len room
    refine ⟨_, rfl, last, fun ok => ?_, fun x m failed => ?_⟩
    · rwa [relayCompl_ok ok] at done
    · rwa [relayCompl_failed failed] at done
  · refine ⟨_, rfl, ?_, ?_⟩
    · rw [State.relayNote_more hy hj hm hn len, State.ring_setRing_self]
    · rw [State.relayNote_more hy hj hm hn len]
      rfl
  · subst hl
    obtain ⟨member, missing⟩ := List.mem_filter.1 (hm ▸ List.mem_singleton_self d : d ∈ y.members.filter fun x => (afind y.results x).isNone)
    have kept := s.ringsKept_cfgCause 3
    obtain ⟨-, done⟩ := State.relayNote_completes (s := s.cfgCause 3) (st := 8) (sub := 0) (by rw [kept.ring]; exact hy)
      (by rw [kept.ring]; exact hj) member (Option.isNone_iff_eq_none.1 missing) hr len (by rw [kept.ring, kept.cqSize hr]; exact room)
    rw [relayCompl_failed (filter_aset_failed hres (by decide))] at done
    exact ⟨_, exec_relayTimeout_missing hy hm hlost, kept.completes hr done⟩

end Sys2Proof.Machine
end

section
/-! # Flips and group commits (O26) -/

namespace Sys2Proof.Machine

/-! ### What the messages and the completion of a commit may change -/

/-- Two states differ at most in what sending packets and completing commands changes, and among the registers in a port's cause alone. -/
def State.SentOnly (s t : State) : Prop :=
  t = { s with rings := t.rings, irq := t.irq, msixPba := t.msixPba, out := t.out, deliv := t.deliv, ports := t.ports, regs := t.regs
               cnt := t.cnt, fresh := t.fresh }
    ∧ ∀ d o, o ≠ 0x31001C → aget d t.regs o = aget d s.regs o

theorem State.SentOnly.refl (s : State) : s.SentOnly s := ⟨rfl, fun _ _ _ => rfl⟩

theorem State.SentOnly.trans {s t u : State} (h : s.SentOnly t) (k : t.SentOnly u) : s.SentOnly u := by
  refine ⟨?_, fun d o ho => (k.2 d o ho).trans (h.2 d o ho)⟩
  rw [k.1, h.1]

theorem State.SentOnly.keeps {s t : State} (h : s.SentOnly t) :
    t.cfg = s.cfg ∧ t.staged = s.staged ∧ t.flip = s.flip ∧ t.epoch = s.epoch ∧ t.twopc = s.twopc ∧ t.obj = s.obj := by
  rw [h.1]
  exact ⟨rfl, rfl, rfl, rfl, rfl, rfl⟩

theorem State.SentOnly.devId {s t : State} (h : s.SentOnly t) : t.devId = s.devId := by
  rw [State.devId, h.2 _ _ (by decide), State.devId]

theorem State.DoneOnly.sentOnly {s t : State} (h : s.DoneOnly t) : s.SentOnly t := by
  unfold State.DoneOnly at h
  rw [h]
  exact ⟨rfl, fun _ _ _ => rfl⟩

theorem State.sentOnly_sendCtl (s : State) (d : Nat) (m : CtlMsg) : s.SentOnly (s.sendCtl d m) := by
  have link := s.linkOnly_sendCtl d m
  refine ⟨?_, fun _ o ho => State.aget_regs_hxSend _ _ _ _ ho⟩
  unfold State.LinkOnly State.PortOnly at link
  rw [link]

theorem State.sentOnly_foldl_sendCtl (s : State) (l : List Nat) (m : CtlMsg) : s.SentOnly (l.foldl (fun s d => s.sendCtl d m) s) :=
  foldl_inv (fun t : State => s.SentOnly t) _ (fun t d h => h.trans (t.sentOnly_sendCtl d m)) l s (.refl s)

theorem State.sentOnly_setRing (s : State) (r : Nat) (x : Ring) : s.SentOnly (s.setRing r x) := ⟨rfl, fun _ _ _ => rfl⟩

theorem State.sentOnly_hostDone (s : State) (r : Nat) (j : RingJob) (k : Compl) : s.SentOnly (s.hostDone r j k) :=
  ((State.doneOnly_cqPost ..).trans (State.doneOnly_ringSettle ..)).sentOnly

theorem State.sentOnly_relayNote (s : State) (r dev st sub : Nat) : s.SentOnly (s.relayNote r dev st sub) := by
  unfold State.relayNote
  dsimp only
  split
  · split
    · exact .refl s
    · split
      · exact (s.sentOnly_setRing ..).trans (State.sentOnly_hostDone ..)
      · exact s.sentOnly_setRing ..
  · exact .refl s

theorem State.sentOnly_ringDone (s : State) (r : Nat) (j : RingJob) (k : Compl) : s.SentOnly (s.ringDone r j k) := by
  unfold State.ringDone
  dsimp only
  split
  · exact s.sentOnly_hostDone ..
  · split
    · exact (s.sentOnly_setRing ..).trans (State.sentOnly_relayNote ..)
    · exact (s.sentOnly_setRing ..).trans (State.sentOnly_sendCtl ..)

theorem State.sentOnly_ringEnd (s : State) (r : Nat) (k : Compl) : s.SentOnly (s.ringEnd r k) := by
  unfold State.ringEnd
  split
  · split
    · exact s.sentOnly_ringDone ..
    · exact .refl s
  · exact .refl s

theorem State.getLsbD_cfgCause (s : State) {bit : Nat} (h : bit < 32) : (aget 0 (s.cfgCause bit).regs 0xC030).getLsbD bit = true := by
  rw [(s.cfgCause_only bit).regs, aget_aset_self, BitVec.getLsbD_or, BitVec.getLsbD_ofNat, Nat.testBit_two_pow_self]
  simp [h]

/-- A cause that is set stays set as another one is raised. -/
theorem State.getLsbD_cfgCause_of (s : State) (bit : Nat) {i : Nat} (h : (aget 0 s.regs 0xC030).getLsbD i = true) :
    (aget 0 (s.cfgCause bit).regs 0xC030).getLsbD i = true := by
  rw [(s.cfgCause_only bit).regs, aget_aset_self, BitVec.getLsbD_or, h, Bool.true_or]

/-! ### An island's flip (R416) -/

theorem afind_map_snd {α β : Type} (g : Nat × α → Nat × β) (hg : ∀ x, (g x).1 = x.1) (m : Amap α) (i : Nat) :
    afind (m.map g) i = (afind m i).map fun x => (g (i, x)).2 := by
  induction m with
  | nil => rfl
  | cons x m ih =>
    obtain ⟨k, v⟩ := x
    rw [List.map_cons, afind]
    by_cases h : k = i
    · subst h
      rw [afind, if_pos (hg _), if_pos rfl]
      rfl
    · rw [afind, if_neg (by rw [hg]; exact h), if_neg h, ih]

theorem State.mapEntry_fst (s : State) (old : Amap MapEnt) (epoch : Nat) (x : Nat × MapEnt) : (s.mapEntry old epoch x).1 = x.1 := by
  unfold State.mapEntry
  split
  · split <;> rfl
  · rfl

/-- A map's entry takes effect with its core, and is valid where the core works. -/
theorem State.mapEntry_snd (s : State) (old : Amap MapEnt) (epoch : Nat) (x : Nat × MapEnt) :
    (s.mapEntry old epoch x).2.phys = x.2.phys ∧ (s.mapEntry old epoch x).2.valid = !s.isFenced x.2.phys := by
  unfold State.mapEntry
  split
  · split
    · next h => exact ⟨h, by rw [h]⟩
    · exact ⟨rfl, rfl⟩
  · exact ⟨rfl, rfl⟩

/-- An island that has not flipped takes its staged registers, and the control complex the maps. -/
theorem State.flipIsland_flips {s : State} {f : Flip} {i : Nat} (hf : s.flip = some f) (hi : i < 626) (hn : f.flipped.contains i = false) :
    ∃ m g, g.flipped = sins f.flipped i ∧ g.epoch = f.epoch
      ∧ s.flipIsland i = { (if i = 624 then State.applyMaps { s with regs := m } f else { s with regs := m }) with flip := some g } := by
  have due : ¬((islandCount ≤ i || f.flipped.contains i) = true) := by
    rw [hn, Bool.or_false, decide_eq_true_eq]
    exact not_le.2 hi
  unfold State.flipIsland
  split
  · next h => rw [h] at hf; cases hf
  · next f' h =>
    rw [h] at hf
    cases hf
    dsimp only
    rw [if_neg due]
    refine ⟨overRegs s.regs (f.regs.filter fun x => if i = 624 then ofControl x.1 else i = 625 && ofPower x.1),
      { f with flipped := sins f.flipped i, regs := f.regs.filter fun x => !(if i = 624 then ofControl x.1 else i = 625 && ofPower x.1) },
      rfl, rfl, ?_⟩
    rfl

theorem exec_islandFlip_noPort {s : State} {i : Nat} (h : i < 600 ∨ 624 ≤ i) : exec (.islandFlip i) s = .next (s.flipIsland i) := by
  have noPort : ¬((s.flip.isSome && 600 ≤ i && i < 624) = true) := by
    simp only [Bool.and_eq_true, decide_eq_true_eq]
    omega
  simp only [exec, execIslandFlip, if_neg noPort]

/-- The control complex takes the map of the flip. -/
theorem State.afind_lmap_applyMaps (s : State) (f : Flip) {l : Nat} {x : MapEnt} (h : afind f.lmap l = some x) :
    ∃ e, afind (s.applyMaps f).lmap l = some e ∧ e.phys = x.phys ∧ e.valid = !s.isFenced x.phys := by
  obtain ⟨phys, valid⟩ := s.mapEntry_snd s.lmap f.epoch (l, x)
  refine ⟨_, ?_, phys, valid⟩
  exact (afind_map_snd _ (s.mapEntry_fst s.lmap f.epoch) f.lmap l).trans (by rw [h]; rfl)

/-! ### The end of a flip (R416) -/

/-- What holds of a state while the new settings of flip `f` become the device's. -/
structure State.Entered (s : State) (f : Flip) (t : State) : Prop where
  flip : t.flip = none
  epoch : t.epoch = f.epoch
  repoch : t.repoch = f.repoch
  cnt : t.cnt = s.cnt
  cgrp : t.obj.cgrp = f.cgrp
  stripes : t.obj.stripes = f.stripes
  rings : t.rings = s.rings
  regs : ∀ d o, 0x200000 ≤ o → o < 0x201000 → aget d t.regs o = aget d s.regs o

theorem aget_overRegs_ne {m l : Amap W32} {o : Nat} (d : W32) (h : ∀ x ∈ l, x.1 ≠ o) : aget d (overRegs m l) o = aget d m o := by
  induction l generalizing m with
  | nil => rfl
  | cons x l ih =>
    obtain ⟨hx, hl⟩ := List.forall_mem_cons.1 h
    exact (ih hl).trans (aget_aset_ne _ _ _ hx)

/-- The flip ends: the new settings are the device's, the session is closed, and the commit is counted. -/
theorem State.endFlip_effect {s : State} {f : Flip} (hr : ∀ x ∈ f.regs, x.1 < 0x200000 ∨ 0x300000 ≤ x.1) :
    (s.endFlip f).flip = none ∧ (s.endFlip f).epoch = f.epoch ∧ (s.endFlip f).repoch = f.repoch ∧ (s.endFlip f).cfg = {}
      ∧ (s.endFlip f).staged = [] ∧ (s.endFlip f).count 0xC040 = (s.count 0xC040 + 1) % 2 ^ 32 ∧ (s.endFlip f).obj.cgrp = f.cgrp
      ∧ (s.endFlip f).obj.stripes = f.stripes ∧ s.RingsKept (s.endFlip f) := by
  unfold State.endFlip
  extract_lets e s1 s2 ob s3 s4 s5 s6
  have h1 : s.Entered f s1 :=
    { flip := rfl, epoch := rfl, repoch := rfl, cnt := rfl, cgrp := rfl, stripes := rfl, rings := rfl
      regs := fun d o h1 h2 => aget_overRegs_ne d fun x hx => by have := hr x hx; omega }
  have h2 : s.Entered f s2 := { h1 with }
  have h3 : s.Entered f s3 := { h2 with }
  have h4 : s.Entered f s4 := by
    simp only [s4]
    split
    · exact { h3 with regs := fun d o h1 h2 => (aget_aset_ne _ _ _ (by omega)).trans (h3.regs d o h1 h2) }
    · exact h3
  have h5 : s.Entered f s5 := by
    simp only [s5]
    split
    · exact { h4 with }
    · exact h4
  have h6 : s.Entered f s6 := { h5 with }
  clear_value s6
  have closed : (s6.closeSession.level 4 false).cfg = {} ∧ (s6.closeSession.level 4 false).staged = []
      ∧ (s6.closeSession.level 4 false).obj = s6.closeSession.obj := ⟨State.level_cfg .., State.level_staged .., State.level_obj ..⟩
  have cause := ((s6.closeSession.level 4 false).bump 0xC040 1).cfgCause_only 0
  refine ⟨cause.flip.trans ?_, cause.epoch.trans ?_, cause.repoch.trans ?_, cause.cfg.trans closed.1, cause.staged.trans closed.2.1, ?_, ?_, ?_, ?_⟩
  · exact (State.level_flip ..).trans h6.flip
  · exact (State.level_epoch ..).trans h6.epoch
  · exact (State.level_repoch ..).trans h6.repoch
  · have counted : (s6.closeSession.level 4 false).count 0xC040 = s.count 0xC040 :=
      State.count_congr ((s6.closeSession.level_cnt ..).trans h6.cnt) _
    exact (State.count_congr cause.cnt _).trans ((State.count_bump_self ..).trans (by rw [counted]))
  · rw [cause.obj]
    exact (congrArg ObjSide.cgrp closed.2.2).trans h6.cgrp
  · rw [cause.obj]
    exact (congrArg ObjSide.stripes closed.2.2).trans h6.stripes
  · have entered : s.RingsKept s6 := ⟨h6.rings, h6.regs⟩
    have bumped : s6.RingsKept ((s6.closeSession.level 4 false).bump 0xC040 1) :=
      State.ringsKept_of_eq (s6.closeSession.level_rings ..) (s6.closeSession.level_regs ..)
    exact (entered.trans bumped).trans (State.ringsKept_cfgCause ..)

/-- The command that a flip ends completes on its ring. -/
theorem exec_flipComplete_ends {s : State} {f : Flip} {r : Nat} {j : RingJob} (hf : s.flip = some f) (hall : f.flipped.length = 626)
    (hw : s.oldWork = false) (hring : f.ring = some r) (hr : r < 17) (hh : s.ringHead r = some j) (hj : j.started = true)
    (hregs : ∀ x ∈ f.regs, x.1 < 0x200000 ∨ 0x300000 ≤ x.1) : exec .flipComplete s = .next ((s.endFlip f).ringDone r j {}) := by
  obtain ⟨-, -, -, -, -, -, -, -, kept⟩ := s.endFlip_effect hregs
  have started : (s.ring r).job = some j := by
    rw [State.ringHead, if_neg (by omega)] at hh
    split at hh
    · next k hk => rwa [hk]
    · split at hh
      · cases hh
      · rw [← Option.some.inj hh] at hj
        exact absurd hj Bool.false_ne_true
  have head : (s.endFlip f).ringHead r = some j := by
    rw [State.ringHead, if_neg (by omega), kept.ring, started]
  have all : f.all = true := decide_eq_true hall
  simp only [exec, execFlipComplete, hf, all, hw, hring, State.ringEnd, head, hj, Bool.not_true, Bool.or_self, Bool.false_eq_true, if_false, if_true]

/-! ### The members of a group commit (R418) -/

/-- The session that a member locks at the target epoch. -/
def Session.prepared (x : Session) (src epoch : Nat) : Session := { x with st := 2, locked := true, epoch := epoch, from_ := src }

section Prepare
variable {s : State} {src e : Nat} (hp : s.powered = true) (hs : s.cfg.st ≠ 0)
include hp hs

omit hs in
theorem exec_prepareReceive_votes : ∃ t, exec (.prepareReceive src e) s = .next t ∧ (s.prepare src e).1.SentOnly t :=
  ⟨s.takePrepare src e, by simp only [exec, execPrepareReceive, hp, if_true], State.sentOnly_sendCtl ..⟩

theorem exec_prepareReceive_locks (hc : s.checkDetail = none) :
    ∃ t, exec (.prepareReceive src e) s = .next t
      ∧ State.SentOnly { s with regs := aset s.regs 0xC018 0, cfg := s.cfg.prepared src e } t := by
  have prepared : s.prepare src e = ({ s with regs := aset s.regs 0xC018 0, cfg := s.cfg.prepared src e }, none) := by
    simp only [State.prepare, if_neg hs, State.runCheck_passes hc]
    rfl
  obtain ⟨t, run, only⟩ := exec_prepareReceive_votes (s := s) (src := src) (e := e) hp
  rw [prepared] at only
  exact ⟨t, run, only⟩

theorem exec_prepareReceive_fails {d : Nat} (hc : s.checkDetail = some d) :
    ∃ t, exec (.prepareReceive src e) s = .next t
      ∧ State.SentOnly ((State.bump { s with regs := aset s.regs 0xC018 (BitVec.ofNat 32 d) } 0xC044 1).cfgCause 1) t := by
  have refused : s.prepare src e = ((State.bump { s with regs := aset s.regs 0xC018 (BitVec.ofNat 32 d) } 0xC044 1).cfgCause 1, some d) := by
    simp only [State.prepare, if_neg hs, State.runCheck_fails hc]
  obtain ⟨t, run, only⟩ := exec_prepareReceive_votes (s := s) (src := src) (e := e) hp
  rw [refused] at only
  exact ⟨t, run, only⟩

end Prepare

/-! ### The anchor of a group commit (R340, R418) -/

/-- The commit with one more vote. -/
def TwoPc.voted (c : TwoPc) (dev : Nat) (good : Bool) (detail : Nat) (rt : List (Nat × List Nat)) (ft : W32) : TwoPc :=
  { c with votes := aset c.votes dev (good, detail), routes := aset c.routes dev rt, feat := c.feat &&& ft }

theorem exec_voteReceive (s : State) (dev detail : Nat) (good : Bool) (rt : List (Nat × List Nat)) (ft : W32) :
    exec (.voteReceive dev good detail rt ft) s = .next (s.takeVote dev good detail rt ft) := rfl

/-- The hop limit that the staged settings give does not look at the commit. -/
theorem State.maxHop_stagedView_twopc (s : State) (x : Option TwoPc) : State.maxHop (State.stagedView { s with twopc := x }) = s.stagedView.maxHop := by
  unfold State.stagedView
  dsimp only
  split <;> rfl

theorem State.takeVote_member {s : State} {c : TwoPc} {dev detail : Nat} {good : Bool} {rt : List (Nat × List Nat)} {ft : W32}
    (hc : s.twopc = some c) (hd : c.decided = false) (hm : dev ∈ c.members) :
    s.takeVote dev good detail rt ft = State.decide2 { s with twopc := some (c.voted dev good detail rt ft) } := by
  have open_ : ¬((c.decided || !c.members.contains dev) = true) := by
    rw [hd, List.contains_iff_mem.2 hm]
    exact Bool.false_ne_true
  unfold State.takeVote
  split
  · next h => rw [hc] at h; cases h
  · next c' h =>
    rw [hc] at h
    cases h
    exact if_neg open_

/-- An abort tells the members, closes the session and completes the command; its cause is set. -/
theorem State.groupAbort_effect (s : State) (c : TwoPc) (k : Compl) :
    (s.groupAbort c k).twopc = none ∧ (s.groupAbort c k).cfg = {} ∧ (s.groupAbort c k).staged = [] ∧ (s.groupAbort c k).flip = s.flip
      ∧ (s.groupAbort c k).epoch = s.epoch
      ∧ ∀ i, (aget 0 s.regs 0xC030).getLsbD i = true → (aget 0 (s.groupAbort c k).regs 0xC030).getLsbD i = true := by
  unfold State.groupAbort
  extract_lets t u
  have told : s.SentOnly t := State.sentOnly_foldl_sendCtl ..
  clear_value t
  obtain ⟨-, -, flip, epoch, -, -⟩ := told.keeps
  have cause := State.cfgCause_only { t.closeSession with twopc := none } 4
  have ended := State.sentOnly_ringEnd (State.cfgCause { t.closeSession with twopc := none } 4) c.ring k
  obtain ⟨endCfg, endStaged, endFlip, endEpoch, endTwopc, -⟩ := ended.keeps
  refine ⟨endTwopc.trans cause.twopc, endCfg.trans cause.cfg, endStaged.trans cause.staged, endFlip.trans (cause.flip.trans flip),
    endEpoch.trans (cause.epoch.trans epoch), fun i hi => ?_⟩
  rw [ended.2 _ _ (by decide)]
  refine State.getLsbD_cfgCause_of _ 4 ?_
  rw [← told.2 _ _ (by decide)] at hi
  exact hi

/-- All votes good and no route refused: the commit is decided, and this anchor's own flip begins. -/
theorem State.decide2_commits {s : State} {c : TwoPc} (hc : s.twopc = some c) (hd : c.decided = false)
    (hv : ∀ m ∈ c.members, (afind c.votes m).isSome = true) (hg : ∀ v ∈ c.votes, v.2.1 = true)
    (hr : routeFault (fun a b => (afind (aget [] c.routes a) b).getD []) c.members s.stagedView.maxHop = none) (hm : s.devId ∈ c.members) :
    ∃ f, s.decide2.twopc = some { c with decided := true } ∧ s.decide2.flip = some f ∧ f.epoch = c.epoch ∧ f.tell = some s.devId := by
  have voted : (c.members.all fun d => (afind c.votes d).isSome) = true := List.all_eq_true.2 hv
  have good : (c.votes.all fun x => x.2.1) = true := List.all_eq_true.2 hg
  have due : ¬((c.decided || !c.members.all fun d => (afind c.votes d).isSome) = true) := by
    rw [hd, voted]
    exact Bool.false_ne_true
  unfold State.decide2
  split
  · next h => rw [hc] at h; cases h
  · next c' h =>
    rw [hc] at h
    cases h
    rw [if_neg due, if_pos good]
    extract_lets tab links s1 s2
    split
    · next x h => rw [show routeFault tab c.members s.stagedView.maxHop = none from hr] at h; cases h
    · have told : s1.SentOnly s2 := State.sentOnly_foldl_sendCtl ..
      clear_value s2
      have dev : s2.devId = s.devId := told.devId
      rw [dev, if_pos (List.contains_iff_mem.2 hm)]
      obtain ⟨-, -, -, -, twopc, -⟩ := told.keeps
      exact ⟨_, twopc, rfl, rfl, rfl⟩

/-- A refusal among the votes aborts the commit. -/
theorem State.decide2_aborts {s : State} {c : TwoPc} (hc : s.twopc = some c) (hd : c.decided = false)
    (hv : ∀ m ∈ c.members, (afind c.votes m).isSome = true) {v : Nat × Bool × Nat} (hm : v ∈ c.votes) (hf : v.2.1 = false) :
    s.decide2 = s.groupAbort c (voteCompl c.votes) := by
  have voted : (c.members.all fun d => (afind c.votes d).isSome) = true := List.all_eq_true.2 hv
  have bad : ¬((c.votes.all fun x => x.2.1) = true) := fun h => absurd (List.all_eq_true.1 h v hm) (by rw [hf]; exact Bool.false_ne_true)
  have due : ¬((c.decided || !c.members.all fun d => (afind c.votes d).isSome) = true) := by
    rw [hd, voted]
    exact Bool.false_ne_true
  unfold State.decide2
  split
  · next h => rw [hc] at h; cases h
  · next c' h =>
    rw [hc] at h
    cases h
    rw [if_neg due, if_neg bad]

theorem mem_aset {α : Type} (m : Amap α) (i : Nat) (x : α) : (i, x) ∈ aset m i x := by
  induction m with
  | nil => exact List.mem_singleton_self _
  | cons y m ih =>
    unfold aset
    split
    · exact List.mem_cons_self
    · split
      · exact List.mem_cons_self
      · exact List.mem_cons_of_mem _ ih

/-- Settles O26: a flip and a group commit go through their states, and the messages between them leave the session. -/
theorem flipsAndGroupCommits : Obligations.FlipsAndGroupCommits := by
  refine ⟨fun s f i hf hi hn hp => ?_, fun s f r j hf hall hw hring hr hh hj room hregs => ?_, fun s f hf => ?_, fun s src e hp hs hc => ?_,
    fun s src e d hp hs hc => ?_, fun s c dev rt ft hc hd hm hself hv hg hroute => ?_, fun s c dev d rt ft hc hd hm hv => ?_,
    fun s src e ft hs hf => ?_, fun s src hs hf => ?_, fun s c hc hd => ?_⟩
  · obtain ⟨m, g, flipped, epoch, run⟩ := State.flipIsland_flips hf hi hn
    refine ⟨_, g, exec_islandFlip_noPort hp, ?_⟩
    rw [run]
    refine ⟨rfl, flipped, epoch, fun h => ?_, ?_, fun h l x hx => ?_⟩
    · rw [if_neg h]
      exact ⟨rfl, rfl⟩
    · split <;> rfl
    · rw [if_pos h]
      exact State.afind_lmap_applyMaps _ f hx
  · obtain ⟨flip, epoch, repoch, cfg, staged, count, cgrp, stripes, kept⟩ := s.endFlip_effect hregs
    have only := (s.endFlip f).doneOnly_ringDone j {} hr
    obtain ⟨-, done⟩ := State.ringDone_completes (s := s.endFlip f) (j := j) {} hr (by rw [kept.ring, kept.cqSize hr]; exact room)
    refine ⟨_, exec_flipComplete_ends hf hall hw hring hr hh hj hregs, ?_, ?_, ?_, ?_, ?_, ?_, ?_, ?_, kept.completes hr done⟩
    · exact (only.kept State.flip).trans flip
    · exact (only.kept State.epoch).trans epoch
    · exact (only.kept State.repoch).trans repoch
    · exact (only.kept State.cfg).trans cfg
    · exact (only.kept State.staged).trans staged
    · exact (State.count_congr (only.kept State.cnt) _).trans count
    · exact (congrArg ObjSide.cgrp (only.kept State.obj)).trans cgrp
    · exact (congrArg ObjSide.stripes (only.kept State.obj)).trans stripes
  · have run : exec .flipTimeout s = .next (s.cfgCause 2) := by simp [exec, execFlipTimeout, hf]
    have cause := s.cfgCause_only 2
    exact ⟨_, run, cause.flip.trans hf, s.getLsbD_cfgCause (by decide), cause.epoch⟩
  · obtain ⟨t, run, only⟩ := exec_prepareReceive_locks (src := src) (e := e) hp hs hc
    obtain ⟨cfg, -, flip, epoch, -, -⟩ := only.keeps
    exact ⟨t, run, by rw [cfg]; rfl, by rw [cfg]; rfl, by rw [cfg]; rfl, by rw [cfg]; rfl, epoch, flip⟩
  · obtain ⟨t, run, only⟩ := exec_prepareReceive_fails (src := src) (e := e) hp hs hc
    obtain ⟨cfg, -, flip, -, -, -⟩ := only.keeps
    have cause := State.cfgCause_only (State.bump { s with regs := aset s.regs 0xC018 (BitVec.ofNat 32 d) } 0xC044 1) 1
    refine ⟨t, run, cfg.trans cause.cfg, ?_, flip.trans cause.flip⟩
    rw [only.2 _ _ (by decide), cause.regs, aget_aset_ne _ _ _ (by decide)]
    exact aget_aset_self ..
  · obtain ⟨f, twopc, flip, epoch, tell⟩ := State.decide2_commits (s := { s with twopc := some (c.voted dev true 0 rt ft) }) rfl hd hv hg
      ((congrArg _ (s.maxHop_stagedView_twopc _)).trans hroute) hself
    refine ⟨_, f, { c.voted dev true 0 rt ft with decided := true }, exec_voteReceive .., ?_⟩
    rw [State.takeVote_member hc hd hm]
    exact ⟨twopc, rfl, rfl, flip, epoch, tell, rfl⟩
  · obtain ⟨twopc, cfg, staged, flip, epoch, -⟩ :=
      State.groupAbort_effect { s with twopc := some (c.voted dev false d rt ft) } (c.voted dev false d rt ft) (voteCompl (c.voted dev false d rt ft).votes)
    have run := (State.takeVote_member hc hd hm).trans
      (State.decide2_aborts (s := { s with twopc := some (c.voted dev false d rt ft) }) rfl hd hv (mem_aset c.votes dev (false, d)) rfl)
    refine ⟨_, exec_voteReceive .., ?_⟩
    rw [run]
    exact ⟨twopc, cfg, staged, flip, epoch⟩
  · have run : exec (.groupCommitReceive src e ft) s = .next (s.beginFlip e none (some src) ft) := by
      simp [exec, execGroupCommitReceive, State.takeCommit, hs, hf]
    exact ⟨_, _, run, rfl, rfl, rfl, rfl, rfl, rfl⟩
  · have run : exec (.groupAbortReceive src) s = .next (s.closeSession.cfgCause 4) := by
      simp [exec, execGroupAbortReceive, State.takeAbort, hs, hf]
    obtain ⟨cfg, staged, -, epoch, -, table, -⟩ := s.closeSession_cfgCause 4
    exact ⟨_, run, cfg, staged, table, epoch, s.closeSession.getLsbD_cfgCause (by decide)⟩
  · have run : exec .twoPhaseTimeout s = .next ((s.cfgCause 3).groupAbort c (voteCompl c.votes)) := by
      simp [exec, execTwoPhaseTimeout, hc, hd]
    obtain ⟨twopc, cfg, -, flip, -, causes⟩ := (s.cfgCause 3).groupAbort_effect c (voteCompl c.votes)
    exact ⟨_, run, twopc, cfg, flip.trans (s.cfgCause_only 3).flip, causes 3 (s.getLsbD_cfgCause (by decide))⟩

end Sys2Proof.Machine
end

section
/-! Proofs of the statements of links (11; R321 to R335, R486): what a port that sends leaves of itself and of the others, how a port fails, and
how ports train, accept, refuse and send again. -/

namespace Sys2Proof.Machine

/-! ### One port and the others -/

@[simp] theorem State.port_setPort_self (s : State) (p : Nat) (x : Port) : (s.setPort p x).port p = x := aget_aset_self ..

theorem State.port_setPort_ne (s : State) {p q : Nat} (x : Port) (h : q ≠ p) : (s.setPort p x).port q = s.port q := aget_aset_ne _ _ _ h.symm

theorem State.port_modPort_ne (s : State) {p q : Nat} (f : Port → Port) (h : q ≠ p) : (s.modPort p f).port q = s.port q :=
  s.port_setPort_ne _ h

@[simp] theorem State.port_portCount (s : State) (p o n q : Nat) : (s.portCount p o n).port q = s.port q := rfl

theorem State.port_portRetrain_self (s : State) (p : Nat) :
    (s.portRetrain p).port p = { s.port p with state := .training, lanes := 0, hello := false, keyMsg := 0 } := by
  rw [State.portRetrain, State.port_portCount, State.port_modPort_self]

theorem State.port_portRetrain_ne (s : State) {p q : Nat} (h : q ≠ p) : (s.portRetrain p).port q = s.port q := by
  rw [State.portRetrain, State.port_portCount, State.port_modPort_ne _ _ h]

theorem State.count_portRetrain_self (s : State) (p : Nat) :
    (s.portRetrain p).count (portBase p + 0x74) = (s.count (portBase p + 0x74) + 1) % 2 ^ 32 :=
  State.count_portCount_self ..

theorem State.count_portCount_ne (s : State) (p n : Nat) {o o' : Nat} (h : o ≠ o') :
    (s.portCount p o n).count (portBase p + o') = s.count (portBase p + o') :=
  s.count_bump_ne n (by omega)

/-! ### Groups that leave (R321, R322) -/

/-- Link control takes what is owed; the rest of the port, the other ports, and the counters stay. -/
theorem State.emitGroups_keeps (s : State) (p : Nat) (l : List TxGroup) :
    (∃ o, (s.emitGroups p l).port p = { s.port p with owe := o }) ∧ (∀ q, q ≠ p → (s.emitGroups p l).port q = s.port q)
      ∧ (s.emitGroups p l).cnt = s.cnt := by
  refine foldl_inv (fun t : State => (∃ o, t.port p = { s.port p with owe := o }) ∧ (∀ q, q ≠ p → t.port q = s.port q) ∧ t.cnt = s.cnt)
    _ (fun t g ht => ?_) l s ⟨⟨_, rfl⟩, fun _ _ => rfl, rfl⟩
  obtain ⟨⟨o, own⟩, others, counted⟩ := ht
  have sent : ∀ u : State, u.ports = (t.setPort p { t.port p with owe := (t.port p).owe.map (· - 255) }).ports → u.cnt = t.cnt →
      (∃ o, u.port p = { s.port p with owe := o }) ∧ (∀ q, q ≠ p → u.port q = s.port q) ∧ u.cnt = s.cnt := by
    intro u hu hc
    refine ⟨⟨o.map (· - 255), ?_⟩, fun q hq => ?_, hc.trans counted⟩
    · rw [State.port, hu]
      exact (t.port_setPort_self p _).trans (by rw [own])
    · rw [State.port, hu]
      exact (t.port_setPort_ne _ hq).trans (others q hq)
  dsimp only
  split
  · exact sent _ rfl rfl
  · exact sent _ rfl rfl

/-- An idle group is kept for replay and numbered; what was accepted, what is refused, the credits and the counters stay. -/
theorem State.portIdle_keeps (s : State) (p : Nat) :
    (∃ n r o, (s.portIdle p).port p = { s.port p with txSeq := n, replay := r, owe := o }) ∧ (s.portIdle p).cnt = s.cnt := by
  unfold State.portIdle
  dsimp only
  split
  · exact ⟨⟨_, _, _, rfl⟩, rfl⟩
  · obtain ⟨⟨o, own⟩, -, counted⟩ := State.emitGroups_keeps
      (s.setPort p { s.port p with
        txSeq := ((s.port p).txSeq + 1) % 4096, replay := (s.port p).replay ++ [{ gseq := (s.port p).txSeq, sends := 1, flits := 0, pkt := none }] })
      p [{ gseq := (s.port p).txSeq, sends := 1, flits := 0, pkt := none }]
    rw [State.port_setPort_self] at own
    exact ⟨⟨_, _, _, own⟩, counted⟩

/-- A port where every group has been sent less than 8 times sends them all again, and counts them (R322). -/
theorem State.portReplay_keeps (s : State) (p : Nat) (h : ∀ g ∈ (s.port p).replay, g.sends < 8) :
    (∃ o, (s.portReplay p).port p
        = { s.port p with replay := (s.port p).replay.map (fun g => g.again s.lost (g.sends + 1)), owe := o })
      ∧ (s.portReplay p).count (portBase p + 0x48) = (s.count (portBase p + 0x48) + (s.port p).replay.length) % 2 ^ 32 := by
  have few : ¬((s.port p).replay.any fun g => decide (8 ≤ g.sends)) = true := by simpa using h
  unfold State.portReplay
  extract_lets x l
  rw [if_neg few]
  obtain ⟨⟨o, own⟩, -, counted⟩ := State.emitGroups_keeps ((s.setPort p { x with replay := l }).portCount p 0x48 l.length) p l
  refine ⟨⟨o, own.trans ?_⟩, (State.count_congr counted _).trans ?_⟩
  · rw [State.port_portCount, State.port_setPort_self]
  · rw [State.count_portCount_self, List.length_map]
    rfl

/-- The link of a port with nothing that waits is up: full credits, the next key, and its count from 0 (R324, R331). -/
theorem State.portUp_of_nothing_waits (s : State) (p : Nat) (st : PortState) (h : (s.port p).txq = []) :
    ∃ o, (s.portUp p st).port p = { s.port p with
      state := st, cred := s.pools p, owe := o, key := s.fresh, pctr := 0, nakked := false
      replay := (s.port p).replay.map fun g => g.again s.lost 1 } := by
  unfold State.portUp
  extract_lets x s1 s2
  have at1 : s1.port p = { x with
      state := st, cred := s.pools p, owe := [0, 0, 0, 0, 0, 0, 0, 0, 0, 0], key := s.fresh, pctr := 0, nakked := false
      replay := x.replay.map fun g => g.again s.lost 1 } := s.port_setPort_self p _
  obtain ⟨⟨o, own⟩, -, -⟩ := State.emitGroups_keeps { s1 with fresh := s1.fresh + 1 } p (s1.port p).replay
  have own' : s2.port p = { s1.port p with owe := o } := own
  have empty : (s2.port p).txq.length = 0 := by
    rw [own', at1]
    exact congrArg List.length h
  rw [empty]
  exact ⟨o, own'.trans (by rw [at1])⟩

/-! ### A port that sends: its state and the other ports -/

/-- Port p sends: the other ports stay, and its own state too, unless it was up and now trains again. -/
def State.SendsBy (s : State) (p : Nat) (t : State) : Prop :=
  (∀ q, q ≠ p → t.port q = s.port q) ∧ ((t.port p).state = (s.port p).state ∨ (s.port p).isUp = true ∧ (t.port p).state = .training)

theorem State.SendsBy.refl (s : State) (p : Nat) : s.SendsBy p s := ⟨fun _ _ => rfl, .inl rfl⟩

theorem Port.isUp_congr {x y : Port} (h : x.state = y.state) : x.isUp = y.isUp := by simp only [Port.isUp, h]

theorem State.SendsBy.trans {s t u : State} {p : Nat} (h : s.SendsBy p t) (k : t.SendsBy p u) : s.SendsBy p u := by
  obtain ⟨h1, h2⟩ := h
  obtain ⟨k1, k2⟩ := k
  refine ⟨fun q hq => (k1 q hq).trans (h1 q hq), ?_⟩
  obtain same | ⟨up, train⟩ := h2
  · rw [← same, ← Port.isUp_congr same]
    exact k2
  · obtain same' | ⟨up', -⟩ := k2
    · exact .inr ⟨up, same'.trans train⟩
    · simp [Port.isUp, train] at up'

theorem State.sendsBy_setPort (s : State) (p : Nat) (x : Port) (h : x.state = (s.port p).state) : s.SendsBy p (s.setPort p x) :=
  ⟨fun _ hq => s.port_setPort_ne x hq, .inl (by rw [State.port_setPort_self, h])⟩

theorem State.sendsBy_emitGroups (s : State) (p : Nat) (l : List TxGroup) : s.SendsBy p (s.emitGroups p l) := by
  obtain ⟨⟨o, own⟩, others, -⟩ := s.emitGroups_keeps p l
  exact ⟨others, .inl (by rw [own])⟩

theorem State.sendsBy_portRetrain {s : State} {p : Nat} (h : (s.port p).isUp = true) : s.SendsBy p (s.portRetrain p) :=
  ⟨fun _ hq => s.port_portRetrain_ne hq, .inr ⟨h, by rw [State.port_portRetrain_self]⟩⟩

theorem State.SendsBy.portRetrain {s t : State} {p : Nat} (h : s.SendsBy p t) (up : (s.port p).isUp = true) : s.SendsBy p (t.portRetrain p) :=
  ⟨fun q hq => (t.port_portRetrain_ne hq).trans (h.1 q hq), .inr ⟨up, by rw [State.port_portRetrain_self]⟩⟩

theorem State.sendsBy_portPut {s : State} {p : Nat} (k : Pkt) (h : (s.port p).isUp = true) : s.SendsBy p (s.portPut p k) := by
  have counted (u : State) (b : Prop) [Decidable b] (n : Nat) : u.SendsBy p (if b then u.bump 0x340228 n else u) := by
    split
    · exact .refl u p
    · exact .refl u p
  unfold State.portPut
  extract_lets x k' s1 gs x' s2 s3
  have put : s.SendsBy p s3 :=
    ((s1.sendsBy_setPort p x' rfl).trans (State.sendsBy_emitGroups ((s1.setPort p x').portCount p 0x40 (hdrFlits k'.h)) p gs)).trans
      (counted s2 _ _)
  split
  · exact put.portRetrain h
  · exact put

theorem State.sendsBy_portPump (s : State) (p n : Nat) : s.SendsBy p (s.portPump p n) := by
  induction n generalizing s with
  | zero => exact .refl s p
  | succ n ih =>
    unfold State.portPump
    dsimp only
    split
    · exact .refl s p
    · next h =>
      have up : (s.port p).isUp = true := by
        rw [Bool.or_eq_true, not_or, Bool.not_eq_true', Bool.not_eq_false] at h
        exact h.1
      split
      · split
        · exact .refl s p
        · exact .refl s p
      · split
        · exact .refl s p
        · split
          · exact .refl s p
          · next k _ _ =>
            refine State.SendsBy.trans (State.SendsBy.trans (s.sendsBy_setPort p (Port.arbitrated _ _ _ k.h) ?_) (State.sendsBy_portPut k ?_)) (ih _)
            · rfl
            · rw [State.port_setPort_self]
              exact up

theorem State.sendsBy_portSend (s : State) (p : Nat) (k : Pkt) : s.SendsBy p (s.portSend p k) :=
  (s.sendsBy_setPort p { s.port p with txq := (s.port p).txq ++ [k] } rfl).trans (State.sendsBy_portPump _ p _)

/-- A port that is not up keeps what waits. -/
theorem State.portPump_of_not_up {s : State} {p : Nat} (h : (s.port p).isUp = false) (n : Nat) : s.portPump p n = s := by
  cases n with
  | zero => rfl
  | succ n =>
    unfold State.portPump
    dsimp only
    rw [h]
    rfl

/-- Sending fails no port, and no port that has failed works by it. -/
theorem State.SendsBy.failed_iff {s t : State} {p : Nat} (h : s.SendsBy p t) (n : Nat) :
    (t.port n).state = .failed ↔ (s.port n).state = .failed := by
  obtain ⟨others, own⟩ := h
  by_cases hn : n = p
  · subst hn
    obtain same | ⟨up, train⟩ := own
    · rw [same]
    · have : (s.port n).state ≠ .failed := by
        intro hf
        simp [Port.isUp, hf] at up
      simp [train, this]
  · rw [others n hn]

/-! ### A port that fails (R335, R345) -/

@[simp] theorem State.port_noRoute (s : State) (inp : Option Nat) (o q : Nat) : (s.noRoute inp o).port q = s.port q := by
  rw [State.noRoute, State.port_portErr, State.port_portCount]

theorem State.portErr_regs (s : State) (p b : Nat) :
    (s.portErr p b).regs = aset s.regs (portBase p + 0x1C) (aget 0 s.regs (portBase p + 0x1C) ||| (1 <<< b)) :=
  State.level_regs ..

/-- A port in use or in training takes directed control messages; no revision-1 link does (R332, R336). -/
def Port.ctlWay (x : Port) : Bool := x.state = .training || x.state = .up

/-- A port other than p is a way for a control message to a device exactly where there is a topology and the port is in use or in training. -/
theorem State.routeBut_test_iff {s : State} {p d q : Nat} (hd : d < 64) :
    (q ≠ p && decide ((s.port q).state ≠ .failed) && !s.portGone q && s.carries q (s.hdr 0 d 0 0 64)) = true
      ↔ q ≠ p ∧ s.topo ≠ 0 ∧ (s.port q).ctlWay = true := by
  have dev : (s.hdr 0 d 0 0 64).dstDev ≠ 0xFF := by
    show d ≠ 0xFF
    omega
  have typ : (s.hdr 0 d 0 0 64).typ = 0 := rfl
  unfold State.portGone State.carries Port.ctlWay
  cases hs : (s.port q).state with
  | down => simp [hs]
  | training => simp [hs, dev, and_comm]
  | up => simp [hs, dev, and_comm]
  | upR1 => simp [typ]
  | failed => simp
  | refused => simp [hs]

theorem State.routeBut_isSome_iff (s : State) (p d : Nat) :
    (s.routeBut p d).isSome = true ↔ d < 64 ∧ ∃ q ∈ s.portsTo d, q ≠ p ∧ s.topo ≠ 0 ∧ (s.port q).ctlWay = true := by
  unfold State.routeBut
  split
  · next h => simp [Nat.not_lt.mpr h]
  · next h =>
    have hd := Nat.not_le.mp h
    rw [List.find?_isSome]
    simp only [State.routeBut_test_iff hd, hd, true_and]

theorem State.way_of_routeBut {s : State} {p d q : Nat} (h : s.routeBut p d = some q) : q ≠ p ∧ (s.port q).ctlWay = true := by
  unfold State.routeBut at h
  split at h
  · cases h
  · next hd =>
    have ok := List.find?_some h
    obtain ⟨ne, -, way⟩ := (State.routeBut_test_iff (Nat.not_le.mp hd)).mp ok
    exact ⟨ne, way⟩

/-- A control message that avoids port p goes by no port, or by another, which takes control messages. -/
theorem State.sendCtlBut_cases (s : State) (p d : Nat) (m : CtlMsg) :
    (s.routeBut p d = none ∧ s.sendCtlBut p d m = s)
      ∨ ∃ q k, q ≠ p ∧ (s.port q).ctlWay = true ∧ s.sendCtlBut p d m = s.portSend q k := by
  unfold State.sendCtlBut
  split
  · next h => exact .inl ⟨h, rfl⟩
  · next q h => exact .inr ⟨q, _, (State.way_of_routeBut h).1, (State.way_of_routeBut h).2, rfl⟩

theorem State.portSend_regs (s : State) (p : Nat) (k : Pkt) : (s.portSend p k).regs = s.regs := State.portPump_regs ..

theorem State.port_sendCtlBut (s : State) (p d : Nat) (m : CtlMsg) : (s.sendCtlBut p d m).port p = s.port p := by
  obtain ⟨-, e⟩ | ⟨q, k, ne, -, e⟩ := s.sendCtlBut_cases p d m
  · rw [e]
  · rw [e]
    exact (s.sendsBy_portSend q k).1 p ne.symm

theorem State.sendCtlBut_regs (s : State) (p d : Nat) (m : CtlMsg) : (s.sendCtlBut p d m).regs = s.regs := by
  obtain ⟨-, e⟩ | ⟨q, k, -, -, e⟩ := s.sendCtlBut_cases p d m
  · rw [e]
  · rw [e, State.portSend_regs]

theorem State.failed_sendCtlBut (s : State) (p d : Nat) (m : CtlMsg) (n : Nat) :
    ((s.sendCtlBut p d m).port n).state = .failed ↔ (s.port n).state = .failed := by
  obtain ⟨-, e⟩ | ⟨q, k, -, -, e⟩ := s.sendCtlBut_cases p d m
  · rw [e]
  · rw [e]
    exact (s.sendsBy_portSend q k).failed_iff n

/-- The port as it fails, before its peer is asked. -/
def State.portDown (s : State) (p : Nat) : State := (s.modPort p fun x => { x with state := .failed, lanes := 0 }).portErr p 1

theorem State.portDead_eq (s : State) (p : Nat) :
    s.portDead p = (s.portDown p).sendCtlBut p (s.port p).peerDev (.askGseq (s.port p).peerPort) := rfl

theorem State.port_portDown_self (s : State) (p : Nat) : (s.portDown p).port p = { s.port p with state := .failed, lanes := 0 } := by
  rw [State.portDown, State.port_portErr, State.port_modPort_self]

theorem State.port_portDown_ne (s : State) {p q : Nat} (h : q ≠ p) : (s.portDown p).port q = s.port q := by
  rw [State.portDown, State.port_portErr, State.port_modPort_ne _ _ h]

@[simp] theorem State.port_portDead_self (s : State) (p : Nat) : (s.portDead p).port p = { s.port p with state := .failed, lanes := 0 } := by
  rw [State.portDead_eq, State.port_sendCtlBut, State.port_portDown_self]

theorem State.portDead_regs (s : State) (p : Nat) :
    (s.portDead p).regs = aset s.regs (portBase p + 0x1C) (aget 0 s.regs (portBase p + 0x1C) ||| (1 <<< 1)) := by
  rw [State.portDead_eq, State.sendCtlBut_regs, State.portDown, State.portErr_regs]
  rfl

/-- Exactly the port itself fails. -/
theorem State.failed_portDead_iff (s : State) (p n : Nat) : ((s.portDead p).port n).state = .failed ↔ n = p ∨ (s.port n).state = .failed := by
  by_cases h : n = p
  · subst h
    simp
  · rw [State.portDead_eq, State.failed_sendCtlBut, State.port_portDown_ne s h]
    simp [h]

/-! ### Another route than by a port that fails -/

theorem State.portDown_regs (s : State) (p : Nat) :
    (s.portDown p).regs = aset s.regs (portBase p + 0x1C) (aget 0 s.regs (portBase p + 0x1C) ||| (1 <<< 1)) :=
  State.portErr_regs ..

/-- The routing entries of devices and the group stand apart from the registers of ports: a route is kept where the ports that take messages are. -/
theorem State.routeBut_isSome_mono {s t : State} {p d : Nat} (regs : ∀ e o, o ≠ portBase p + 0x1C → aget e t.regs o = aget e s.regs o)
    (ways : ∀ q, q ≠ p → (s.port q).ctlWay = true → (t.port q).ctlWay = true) (h : (s.routeBut p d).isSome = true) :
    (t.routeBut p d).isSome = true := by
  obtain ⟨hd, q, named, ne, topo, way⟩ := (s.routeBut_isSome_iff p d).mp h
  have ports : t.portsTo d = s.portsTo d := by
    rw [State.portsTo, State.portsTo, State.hxRt, State.hxRt, regs _ _ (by unfold portBase; omega)]
  have shape : t.topo = s.topo := by
    rw [State.topo, State.topo, State.hxGroup, State.hxGroup, regs _ _ (by unfold portBase; omega)]
  exact (t.routeBut_isSome_iff p d).mpr ⟨hd, q, by rw [ports]; exact named, ne, by rw [shape]; exact topo, ways q ne way⟩

/-- A port in use or in training stays so while it sends. -/
theorem State.SendsBy.ctlWay {s t : State} {p : Nat} (h : s.SendsBy p t) {n : Nat} (hn : (s.port n).ctlWay = true) : (t.port n).ctlWay = true := by
  obtain ⟨others, own⟩ := h
  by_cases hp : n = p
  · subst hp
    obtain same | ⟨-, train⟩ := own
    · rw [Port.ctlWay, same]
      exact hn
    · simp [Port.ctlWay, train]
  · rw [others n hp]
    exact hn

theorem State.ctlWay_sendCtlBut (s : State) (p d : Nat) (m : CtlMsg) {n : Nat} (h : (s.port n).ctlWay = true) :
    ((s.sendCtlBut p d m).port n).ctlWay = true := by
  obtain ⟨-, e⟩ | ⟨q, k, -, -, e⟩ := s.sendCtlBut_cases p d m
  · rw [e]
    exact h
  · rw [e]
    exact (s.sendsBy_portSend q k).ctlWay h

theorem State.routeBut_portDead_of_some {s : State} {p d : Nat} (h : (s.routeBut p d).isSome = true) :
    ((s.portDead p).routeBut p d).isSome = true := by
  refine State.routeBut_isSome_mono (fun e o ho => ?_) (fun q hq way => ?_) h
  · rw [State.portDead_regs, aget_aset_ne _ _ _ ho.symm]
  · rw [State.portDead_eq]
    refine State.ctlWay_sendCtlBut _ p _ _ ?_
    rw [s.port_portDown_ne hq]
    exact way

/-- Where no other route to the peer is left, no message leaves, and none is left after. -/
theorem State.routeBut_portDead_of_none {s : State} {p : Nat} (h : s.routeBut p (s.port p).peerDev = none) :
    (s.portDead p).routeBut p (s.port p).peerDev = none := by
  have down : (s.portDown p).routeBut p (s.port p).peerDev = none := by
    rw [← Option.not_isSome_iff_eq_none] at h ⊢
    refine fun some => h (State.routeBut_isSome_mono (fun e o ho => ?_) (fun q hq way => ?_) some)
    · rw [State.portDown_regs, aget_aset_ne _ _ _ ho.symm]
    · rw [s.port_portDown_ne hq] at way
      exact way
  have quiet : s.portDead p = s.portDown p := by
    rw [State.portDead_eq, State.sendCtlBut, down]
  rw [quiet, down]

/-! ### Packets that leave a port that has failed -/

/-- A port that carries nothing on takes no packet. -/
theorem State.port_hxRoute_of_gone {s : State} {p : Nat} (h : s.portGone p = true) (k : Pkt) (inp : Option Nat) :
    (s.hxRoute k inp).port p = s.port p := by
  unfold State.hxRoute
  split
  · exact s.port_noRoute ..
  · next q hq =>
    have ok := List.find?_some hq
    have ne : p ≠ q := by
      rintro rfl
      simp [h] at ok
    exact (s.sendsBy_portSend q _).1 p ne

/-- A packet may wait at a port that has failed; what is kept for replay stays. -/
theorem State.hxRoute_of_failed {s : State} {p : Nat} (h : (s.port p).state = .failed) (k : Pkt) (inp : Option Nat) :
    ((s.hxRoute k inp).port p).state = .failed ∧ ((s.hxRoute k inp).port p).replay = (s.port p).replay := by
  unfold State.hxRoute
  split
  · rw [State.port_noRoute]
    exact ⟨h, rfl⟩
  · next q _ =>
    by_cases ne : p = q
    · subst ne
      unfold State.portSend
      dsimp only
      rw [State.portPump_of_not_up]
      · rw [State.port_modPort_self]
        exact ⟨h, rfl⟩
      · rw [State.port_modPort_self]
        simp [Port.isUp, h]
    · rw [(s.sendsBy_portSend q _).1 p ne]
      exact ⟨h, rfl⟩

@[simp] theorem State.port_noteCut (s : State) (m d q : Nat) : (s.noteCut m d).port q = s.port q := by
  unfold State.noteCut State.markLost
  dsimp only
  split
  · split
    · rfl
    · rw [State.port, State.level_ports]
      rfl
  · rfl

/-- The port has failed and holds nothing. -/
def Port.Emptied (x : Port) : Prop := x.state = .failed ∧ x.replay = [] ∧ x.txq = []

theorem State.portGone_of_emptied {s : State} {p : Nat} (h : (s.port p).Emptied) : s.portGone p = true := by
  obtain ⟨failed, replay, txq⟩ := h
  simp [State.portGone, failed, replay, txq]

theorem State.emptied_hxRoute {s : State} {p : Nat} (h : (s.port p).Emptied) (k : Pkt) (inp : Option Nat) :
    ((s.hxRoute k inp).port p).Emptied := by
  rw [State.port_hxRoute_of_gone (State.portGone_of_emptied h)]
  exact h

/-- The packets go by other ports, or are dropped. -/
theorem State.emptied_left {s : State} {p : Nat} (h : (s.port p).Emptied) (drop : Bool) (l : List Pkt) :
    ((l.foldl (fun s k => if drop then s.noRoute (some p) 0x60 else s.hxRoute k (some p)) s).port p).Emptied := by
  refine foldl_inv (fun t : State => (t.port p).Emptied) _ (fun t k ht => ?_) l s h
  split
  · rw [State.port_noRoute]
    exact ht
  · exact State.emptied_hxRoute ht k _

/-! ### Training and HELLO (R331, R332, R334) -/

/-- Lanes that the training took out set bit 0 of the port's errors. -/
def State.lanesNoted (s : State) (p : Nat) (x : Port) (gone : List Nat) : State :=
  if gone.isEmpty then s.setPort p x else (s.setPort p x).portErr p 0

theorem State.port_lanesNoted (s : State) (p : Nat) (x : Port) (gone : List Nat) : (s.lanesNoted p x gone).port p = x := by
  unfold State.lanesNoted
  split
  · rw [State.port_setPort_self]
  · rw [State.port_portErr, State.port_setPort_self]

theorem State.aget_lanesNoted (s : State) (p : Nat) (x : Port) (gone : List Nat) (e : W32) {o : Nat} (ho : o ≠ portBase p + 0x1C) :
    aget e (s.lanesNoted p x gone).regs o = aget e s.regs o := by
  unfold State.lanesNoted
  split
  · rfl
  · rw [State.portErr_regs, aget_aset_ne _ _ _ ho.symm]
    rfl

theorem State.bit_lanesNoted (s : State) (p : Nat) (x : Port) {gone : List Nat} (h : gone ≠ []) :
    (aget 0 (s.lanesNoted p x gone).regs (portBase p + 0x1C)).getLsbD 0 = true := by
  rw [State.lanesNoted, if_neg (by simpa using h), State.portErr_regs, aget_aset_self]
  simp

theorem exec_portTraining {s : State} {p m n : Nat} {gone bad : List Nat} (ht : (s.port p).state = .training) (hl : (s.port p).lanes = 0)
    (hg : gone = (lanesTried (s.laneMax p) (s.port p).bad).filter (bitAt m)) (hb : bad = gone.foldl sins (s.port p).bad)
    (hn : n = min (s.laneMax p) (widthOf bad)) :
    exec (.portTraining p m) s = .next
      (let u := s.lanesNoted p { s.port p with bad := bad, lanes := n } gone
       if n = 0 then u.portDead p
       else u.emit (.hello p { rev := 2, feat := 0x7F, dev := u.devId, port := p, gid := aget 0 u.regs 0x300014, stepping := stepping })) := by
  have down : (s.port p).state ≠ .down := by simp [ht]
  have begun : ¬((s.port p).state ≠ .training || decide ((s.port p).lanes ≠ 0)) = true := by simp [ht, hl]
  show execPortTraining p m s = _
  subst hn hb hg
  unfold execPortTraining
  rw [if_neg down]
  dsimp only
  rw [if_neg begun]
  rfl

theorem training_with_lanes (s : State) (p m n : Nat) (bad : List Nat) (ht : (s.port p).state = .training) (hl : (s.port p).lanes = 0)
    (hb : bad = ((lanesTried (s.laneMax p) (s.port p).bad).filter (bitAt m)).foldl sins (s.port p).bad)
    (hn : n = min (s.laneMax p) (widthOf bad)) (h0 : n ≠ 0) :
    ∃ t, exec (.portTraining p m) s = .next t ∧ t.port p = { s.port p with bad := bad, lanes := n }
      ∧ t.out.getLast? = some (.hello p { rev := 2, feat := 0x7F, dev := s.devId, port := p, gid := aget 0 s.regs 0x300014, stepping := 0 })
      ∧ (bad ≠ (s.port p).bad → (aget 0 t.regs (portBase p + 0x1C)).getLsbD 0 = true) := by
  obtain ⟨gone, hg⟩ : ∃ gone, gone = (lanesTried (s.laneMax p) (s.port p).bad).filter (bitAt m) := ⟨_, rfl⟩
  obtain ⟨u, hu⟩ : ∃ u, u = s.lanesNoted p { s.port p with bad := bad, lanes := n } gone := ⟨_, rfl⟩
  have dev : u.devId = s.devId := by
    rw [State.devId, State.devId, hu, State.aget_lanesNoted _ _ _ _ _ (by unfold portBase; omega)]
  have gid : aget 0 u.regs 0x300014 = aget 0 s.regs 0x300014 := by
    rw [hu, State.aget_lanesNoted _ _ _ _ _ (by unfold portBase; omega)]
  refine ⟨_, exec_portTraining ht hl hg (by rw [hg]; exact hb) hn, ?_⟩
  rw [← hu]
  dsimp only
  rw [if_neg h0, dev, gid]
  refine ⟨?_, List.getLast?_concat, fun hne => ?_⟩
  · show u.port p = _
    rw [hu, State.port_lanesNoted]
  · show (aget 0 u.regs (portBase p + 0x1C)).getLsbD 0 = true
    rw [hu]
    refine State.bit_lanesNoted s p _ fun he => hne ?_
    rw [hb, ← hg, he]
    rfl

theorem training_without_lanes (s : State) (p m : Nat) (ht : (s.port p).state = .training) (hl : (s.port p).lanes = 0)
    (hw : widthOf (((lanesTried (s.laneMax p) (s.port p).bad).filter (bitAt m)).foldl sins (s.port p).bad) = 0) :
    ∃ t, exec (.portTraining p m) s = .next t ∧ (t.port p).state = .failed ∧ (aget 0 t.regs (portBase p + 0x1C)).getLsbD 1 = true := by
  refine ⟨_, exec_portTraining (n := 0) ht hl rfl rfl (by rw [hw, Nat.min_zero]), ?_⟩
  dsimp only
  rw [if_pos rfl]
  refine ⟨by rw [State.port_portDead_self], ?_⟩
  rw [State.portDead_regs, aget_aset_self]
  simp

theorem exec_hello {s : State} {p : Nat} (m : Hello) (ht : (s.port p).state = .training) (hl : (s.port p).lanes ≠ 0) (hh : (s.port p).hello = false) :
    exec (.hello p m) s = .next
      (let x := { s.port p with hello := true, rev := min 2 m.rev, feat := m.feat &&& 0x7F, peerDev := m.dev, peerPort := m.port }
       if 2 ≤ min 2 m.rev then s.setPort p x else if s.sealed_ then s.setPort p { x with state := .refused } else (s.setPort p x).portUp p .upR1) := by
  have waits : ¬((s.port p).state ≠ .training || decide ((s.port p).lanes = 0) || (s.port p).hello) = true := by simp [ht, hl, hh]
  show execHello p m s = _
  unfold execHello
  dsimp only
  rw [if_neg waits]

theorem hello_of_revision_two (s : State) (p : Nat) (m : Hello) (ht : (s.port p).state = .training) (hl : (s.port p).lanes ≠ 0)
    (hh : (s.port p).hello = false) (hr : 2 ≤ m.rev) : exec (.hello p m) s
      = .next (s.setPort p { s.port p with hello := true, rev := 2, feat := m.feat &&& 0x7F, peerDev := m.dev, peerPort := m.port }) := by
  rw [exec_hello m ht hl hh, Nat.min_eq_left hr]
  rfl

theorem hello_of_revision_one (s : State) (p : Nat) (m : Hello) (ht : (s.port p).state = .training) (hl : (s.port p).lanes ≠ 0)
    (hh : (s.port p).hello = false) (hr : m.rev = 1) (hq : (s.port p).txq = []) :
    ∃ t, exec (.hello p m) s = .next t ∧ (t.port p).state = (if s.sealed_ then .refused else .upR1) ∧ (t.port p).rev = 1
      ∧ (t.port p).peerDev = m.dev ∧ (s.sealed_ = false → (t.port p).cred = s.pools p) := by
  refine ⟨_, exec_hello m ht hl hh, ?_⟩
  rw [hr]
  dsimp only
  rw [if_neg (by decide)]
  cases hs : s.sealed_ with
  | true =>
    rw [if_pos rfl, State.port_setPort_self]
    exact ⟨rfl, rfl, rfl, fun h => nomatch h⟩
  | false =>
    rw [if_neg Bool.false_ne_true]
    obtain ⟨o, e⟩ := State.portUp_of_nothing_waits
      (s.setPort p { s.port p with hello := true, rev := min 2 1, feat := m.feat &&& 0x7F, peerDev := m.dev, peerPort := m.port }) p .upR1
      (by rw [State.port_setPort_self]; exact hq)
    rw [e, State.port_setPort_self]
    exact ⟨rfl, rfl, rfl, fun _ => rfl⟩

/-! ### Keys (R331, R455) -/

theorem exec_keyExchangeMessage {s : State} {p n : Nat} (ht : (s.port p).state = .training) (hh : (s.port p).hello = true)
    (hn : n = (s.port p).keyMsg + 1) : exec (.keyExchangeMessage p n true true) s = .next
      (if n = 3 then (s.setPort p { s.port p with keyMsg := 3 }).portUp p .up else s.setPort p { s.port p with keyMsg := n }) := by
  have inOrder : ¬((s.port p).state ≠ .training || !(s.port p).hello || decide (n ≠ (s.port p).keyMsg + 1)) = true := by simp [ht, hh, hn]
  show execKeyExchangeMessage p n true true s = _
  unfold execKeyExchangeMessage
  dsimp only
  rw [if_neg inOrder, if_neg (by simp), if_pos rfl]

theorem third_key_message (s : State) (p : Nat) (ht : (s.port p).state = .training) (hh : (s.port p).hello = true) (hk : (s.port p).keyMsg = 2)
    (hq : (s.port p).txq = []) : ∃ t, exec (.keyExchangeMessage p 3 true true) s = .next t ∧ (t.port p).state = .up ∧ (t.port p).cred = s.pools p
      ∧ (t.port p).key = s.fresh ∧ (t.port p).pctr = 0 := by
  refine ⟨_, exec_keyExchangeMessage ht hh (by rw [hk]), ?_⟩
  rw [if_pos rfl]
  obtain ⟨o, e⟩ := State.portUp_of_nothing_waits (s.setPort p { s.port p with keyMsg := 3 }) p .up (by rw [State.port_setPort_self]; exact hq)
  rw [e]
  exact ⟨rfl, rfl, rfl, rfl⟩

/-! ### Groups that are received (R321, R322, R324) -/

theorem portPump_of_nothing_waits {s : State} {p : Nat} (h : (s.port p).txq = []) : s.portPump p (s.port p).txq.length = s := by
  rw [h]
  rfl

theorem good_group (s : State) (p g n : Nat) (cr : List Nat) (hu : (s.port p).isUp = true) (hg : g = ((s.port p).rxSeq + 1) % 4096)
    (hq : (s.port p).txq = []) :
    ∃ t, exec (.flitGroupReceive p g true false 0 false cr n) s = .next t ∧ (t.port p).rxSeq = g ∧ (t.port p).nakked = false
      ∧ t.count (portBase p + 0x44) = (s.count (portBase p + 0x44) + n) % 2 ^ 32 := by
  have inOrder : ¬(!true || decide (g ≠ ((s.port p).rxSeq + 1) % 4096)) = true := by simp [hg]
  obtain ⟨c, hc⟩ : ∃ c, c = (s.port p).cred.zipIdx.map fun y => min ((s.pools p).getD y.2 0) (y.1 + cr.getD y.2 0) := ⟨_, rfl⟩
  obtain ⟨u, hu'⟩ : ∃ u, u = (s.setPort p { s.port p with rxSeq := g, rxAny := true, nakked := false, cred := c }).portCount p 0x44 n := ⟨_, rfl⟩
  have own : u.port p = { s.port p with rxSeq := g, rxAny := true, nakked := false, cred := c } := by
    rw [hu', State.port_portCount, State.port_setPort_self]
  have counted : u.count (portBase p + 0x44) = (s.count (portBase p + 0x44) + n) % 2 ^ 32 := by
    rw [hu', State.count_portCount_self]
    rfl
  have taken : exec (.flitGroupReceive p g true false 0 false cr n) s
      = .next (if n = 0 && ((u.port p).owe.all fun n => n = 0) then u else u.portIdle p) := by
    show execFlitGroupReceive p g true false 0 false cr n s = _
    unfold execFlitGroupReceive
    dsimp only
    rw [hu, if_neg (by simp), if_neg inOrder]
    simp only [Bool.false_eq_true, if_false]
    rw [← hc, ← hu', portPump_of_nothing_waits (by rw [own]; exact hq)]
  refine ⟨_, taken, ?_⟩
  split
  · rw [own]
    exact ⟨rfl, rfl, counted⟩
  · obtain ⟨⟨a, b, o, e⟩, cnt⟩ := u.portIdle_keeps p
    rw [e, own, State.count_congr cnt]
    exact ⟨rfl, rfl, counted⟩

theorem bad_group (s : State) (p g n a : Nat) (av k : Bool) (cr : List Nat) (hu : (s.port p).isUp = true) :
    ∃ t, exec (.flitGroupReceive p g false av a k cr n) s = .next t ∧ (t.port p).rxSeq = (s.port p).rxSeq ∧ (t.port p).nakked = true
      ∧ (t.port p).cred = (s.port p).cred ∧ t.count (portBase p + 0x54) = (s.count (portBase p + 0x54) + 1) % 2 ^ 32 := by
  have refused : exec (.flitGroupReceive p g false av a k cr n) s = .next
      (if (s.port p).nakked then s.portCount p 0x54 1
       else ((s.portCount p 0x54 1).setPort p { s.port p with nakked := true }).portIdle p) := by
    show execFlitGroupReceive p g false av a k cr n s = _
    unfold execFlitGroupReceive
    dsimp only
    rw [hu]
    rfl
  have counted := s.count_portCount_self p 0x54 1
  refine ⟨_, refused, ?_⟩
  split
  · next hk => exact ⟨rfl, hk, rfl, counted⟩
  · obtain ⟨⟨b, r, o, e⟩, cnt⟩ := ((s.portCount p 0x54 1).setPort p { s.port p with nakked := true }).portIdle_keeps p
    rw [e, State.port_setPort_self, State.count_congr cnt]
    exact ⟨rfl, rfl, rfl, counted⟩

/-! ### Replay, lanes and retraining (R322, R330, R334) -/

theorem nak_replays (s : State) (p a : Nat) (hu : (s.port p).isUp = true) (hq : (s.port p).txq = []) (hs : ∀ g ∈ (s.port p).replay, g.sends < 8) :
    ∃ t, exec (.nakReceive p a) s = .next t ∧ (t.port p).state = (s.port p).state
      ∧ (t.port p).replay
        = ((s.port p).replay.filter fun g => 2048 ≤ (a + 4096 - g.gseq) % 4096).map (fun g => g.again s.lost (g.sends + 1)) := by
  obtain ⟨u, hu'⟩ : ∃ u, u = s.modPort p fun x => x.acked a := ⟨_, rfl⟩
  have own : u.port p = (s.port p).acked a := by rw [hu', State.port_modPort_self]
  have lost : u.lost = s.lost := by rw [hu']; rfl
  have few : ∀ g ∈ (u.port p).replay, g.sends < 8 := by
    rw [own]
    exact fun g hg => hs g (List.mem_of_mem_filter hg)
  obtain ⟨⟨o, e⟩, -⟩ := u.portReplay_keeps p few
  have taken : exec (.nakReceive p a) s = .next (u.portReplay p) := by
    show execNakReceive p a s = _
    unfold execNakReceive
    rw [hu, if_neg (by simp)]
    dsimp only
    rw [← hu', portPump_of_nothing_waits]
    rw [e, own]
    exact hq
  refine ⟨_, taken, ?_⟩
  rw [e, own, lost]
  exact ⟨rfl, rfl⟩

theorem timeout_replays (s : State) (p : Nat) (hu : (s.port p).isUp = true) (hr : (s.port p).replay ≠ [])
    (hs : ∀ g ∈ (s.port p).replay, g.sends < 8) :
    ∃ t, exec (.replayTimeout p) s = .next t ∧ (t.port p).replay = (s.port p).replay.map (fun g => g.again s.lost (g.sends + 1))
      ∧ t.count (portBase p + 0x48) = (s.count (portBase p + 0x48) + (s.port p).replay.length) % 2 ^ 32 := by
  have taken : exec (.replayTimeout p) s = .next (s.portReplay p) := by
    show execReplayTimeout p s = _
    unfold execReplayTimeout
    rw [if_neg (by simp [hu, hr])]
  obtain ⟨⟨o, e⟩, counted⟩ := s.portReplay_keeps p hs
  exact ⟨_, taken, by rw [e], counted⟩

theorem lane_taken_out (s : State) (p l n : Nat) (hu : (s.port p).isUp = true) (hl : l < 4) (hb : l ∉ (s.port p).bad) (hn : s.laneLim p < n)
    (hw : widthOf (sins (s.port p).bad l) ≠ 0) :
    ∃ t, exec (.laneErrorWindow p l n) s = .next t ∧ (t.port p).bad = sins (s.port p).bad l ∧ (t.port p).state = .training ∧ (t.port p).lanes = 0
      ∧ (t.port p).replay = (s.port p).replay ∧ t.count (portBase p + 0x4C) = (s.count (portBase p + 0x4C) + n) % 2 ^ 32 := by
  obtain ⟨u, hu'⟩ : ∃ u, u = ((s.portCount p 0x4C n).setPort p { s.port p with bad := sins (s.port p).bad l }).portErr p 0 := ⟨_, rfl⟩
  have own : u.port p = { s.port p with bad := sins (s.port p).bad l } := by
    rw [hu', State.port_portErr, State.port_setPort_self]
  have counted : u.count (portBase p + 0x4C) = (s.count (portBase p + 0x4C) + n) % 2 ^ 32 := by
    rw [hu', State.count_portErr]
    exact s.count_portCount_self p 0x4C n
  have beyond : ¬(!(s.port p).isUp || decide (4 ≤ l) || (s.port p).bad.contains l || decide (n ≤ (s.portCount p 0x4C n).laneLim p)) = true := by
    have lim : (s.portCount p 0x4C n).laneLim p = s.laneLim p := rfl
    simp [hu, hb, lim, hl, hn]
  have taken : exec (.laneErrorWindow p l n) s = .next (u.portRetrain p) := by
    show execLaneErrorWindow p l n s = _
    unfold execLaneErrorWindow
    dsimp only
    rw [if_neg beyond, if_neg hw, hu']
  refine ⟨_, taken, ?_⟩
  rw [State.port_portRetrain_self, own]
  refine ⟨rfl, rfl, rfl, rfl, ?_⟩
  rw [State.portRetrain, State.count_portCount_ne _ _ _ (by decide)]
  exact counted

theorem retrain_restarts (s : State) (p : Nat) (he : s.portEn p = true) (hl : (afind s.lport p).isSome = true) (hr : s.sec.recovery = false)
    (hp : s.powered = true) :
    ∃ t, exec (.retrain p) s = .next t ∧ (t.port p).state = .training ∧ (t.port p).bad = [] ∧ (t.port p).frozen = []
      ∧ (t.port p).replay = (s.port p).replay ∧ t.count (portBase p + 0x74) = (s.count (portBase p + 0x74) + 1) % 2 ^ 32 := by
  have allowed : ¬(!s.portEn p || (afind s.lport p).isNone || s.sec.recovery || !s.powered) = true := by
    simp [he, hr, hp, Option.isSome_iff_ne_none.mp hl]
  have taken : exec (.retrain p) s = .next ((s.modPort p fun x => { x with bad := [], frozen := [], frz := none }).portRetrain p) := by
    show execRetrain p s = _
    unfold execRetrain
    rw [if_neg allowed]
  refine ⟨_, taken, ?_⟩
  rw [State.port_portRetrain_self, State.port_modPort_self]
  exact ⟨rfl, rfl, rfl, rfl, State.count_portRetrain_self ..⟩

/-! ### PORT_FAILED and REFCLK_SER_LOSS (R335, R345, R486) -/

/-- The packets that the peer of a port did not accept, and those that wait. -/
def Port.left (x : Port) (last : Option Nat) : List Pkt := (last.elim x x.acked).replay.filterMap TxGroup.pkt ++ x.txq

/-- The packets left at a port that has failed go by other ports, or are dropped. -/
def State.leavePort (s : State) (p : Nat) (drop : Bool) (l : List Pkt) : State :=
  l.foldl (fun s k => if drop then s.noRoute (some p) 0x60 else s.hxRoute k (some p)) (s.modPort p fun x => { x with replay := [], txq := [] })

/-- A device with no link left is told to the anchor. -/
def State.noteLinks (s : State) (d : Nat) : State :=
  if s.cutOff d && d < 64 then if s.isAnchor then s.noteCut s.devId d else s.sendCtl s.anchor (.linksFailed d) else s

theorem exec_portFailed {s : State} {p : Nat} (last : Option Nat) (h : (s.port p).state ≠ .failed) :
    exec (.portFailed p last) s = .next (State.noteLinks
      (if last.isNone && ((s.portDead p).routeBut p (s.port p).peerDev).isSome then s.portDead p
       else (s.portDead p).leavePort p last.isNone ((s.port p).left last))
      (s.port p).peerDev) := by
  have works : ¬((s.port p).state = .failed && (s.port p).replay.isEmpty && (s.port p).txq.isEmpty) = true := by simp [h]
  show execPortFailed p last s = _
  unfold execPortFailed
  dsimp only
  rw [if_neg works, if_neg h]
  rfl

theorem State.emptied_leavePort {s : State} {p : Nat} (h : (s.port p).state = .failed) (drop : Bool) (l : List Pkt) :
    ((s.leavePort p drop l).port p).Emptied := by
  refine State.emptied_left ?_ drop l
  rw [State.port_modPort_self]
  exact ⟨h, rfl, rfl⟩

theorem State.emptied_noteLinks {s : State} {p : Nat} (h : (s.port p).Emptied) (d : Nat) : ((s.noteLinks d).port p).Emptied := by
  unfold State.noteLinks
  split
  · split
    · rw [State.port_noteCut]
      exact h
    · exact State.emptied_hxRoute h _ none
  · exact h

theorem State.noteLinks_of_failed {s : State} {p : Nat} (h : (s.port p).state = .failed) (d : Nat) :
    ((s.noteLinks d).port p).state = .failed ∧ ((s.noteLinks d).port p).replay = (s.port p).replay := by
  unfold State.noteLinks
  split
  · split
    · rw [State.port_noteCut]
      exact ⟨h, rfl⟩
    · exact State.hxRoute_of_failed h _ none
  · exact ⟨h, rfl⟩

theorem failed_port_is_emptied (s : State) (p : Nat) (g : Option Nat) (h : (s.port p).state ≠ .failed)
    (hg : g.isSome = true ∨ s.routeBut p (s.port p).peerDev = none) :
    ∃ t, exec (.portFailed p g) s = .next t ∧ (t.port p).Emptied := by
  have leaves : ¬(g.isNone && ((s.portDead p).routeBut p (s.port p).peerDev).isSome) = true := by
    obtain known | none := hg
    · simp [Option.isSome_iff_ne_none.mp known]
    · simp [State.routeBut_portDead_of_none none]
  have dead : ((s.portDead p).port p).state = .failed := by rw [State.port_portDead_self]
  refine ⟨_, exec_portFailed g h, State.emptied_noteLinks ?_ _⟩
  rw [if_neg leaves]
  exact State.emptied_leavePort dead _ _

theorem failed_port_waits (s : State) (p : Nat) (h : (s.port p).state ≠ .failed) (hr : (s.routeBut p (s.port p).peerDev).isSome = true) :
    ∃ t, exec (.portFailed p none) s = .next t ∧ (t.port p).state = .failed ∧ (t.port p).replay = (s.port p).replay := by
  have waits : (Option.isNone (α := Nat) none && ((s.portDead p).routeBut p (s.port p).peerDev).isSome) = true := by
    simp [State.routeBut_portDead_of_some hr]
  have dead : ((s.portDead p).port p).state = .failed := by rw [State.port_portDead_self]
  obtain ⟨failed, replay⟩ := State.noteLinks_of_failed dead (s.port p).peerDev
  refine ⟨_, exec_portFailed none h, ?_⟩
  rw [if_pos waits]
  refine ⟨failed, replay.trans ?_⟩
  rw [State.port_portDead_self]

/-- The ports of a list fail, and no other. -/
theorem failed_foldl_portDead (l : Amap MapEnt) (s : State) (n : Nat) :
    ((l.foldl (fun s x => if (s.port x.1).state = .failed then s else s.portDead x.1) s).port n).state = .failed
      ↔ (∃ x ∈ l, x.1 = n) ∨ (s.port n).state = .failed := by
  induction l generalizing s with
  | nil => simp
  | cons x l ih =>
    have one : ((if (s.port x.1).state = .failed then s else s.portDead x.1).port n).state = .failed ↔ x.1 = n ∨ (s.port n).state = .failed := by
      split
      · next h =>
        constructor
        · exact .inr
        · rintro (rfl | hn)
          · exact h
          · exact hn
      · rw [State.failed_portDead_iff, eq_comm (a := n)]
    rw [List.foldl_cons, ih, one]
    simp only [List.mem_cons, exists_eq_or_imp, or_assoc, or_left_comm]

theorem clock_loss_fails_quadrant (s : State) (q : Nat) :
    ∃ t, exec (.refclkSerLoss q) s = .next t ∧ (∀ x ∈ s.lport, x.2.phys / 6 = q → (t.port x.1).state = .failed)
      ∧ (∀ n, (∀ x ∈ s.lport, x.2.phys / 6 = q → x.1 ≠ n) → (t.port n).state = .failed → (s.port n).state = .failed) := by
  refine ⟨_, rfl, fun x hx hq => ?_, fun n hn hf => ?_⟩
  · exact (failed_foldl_portDead _ s x.1).mpr (.inl ⟨x, List.mem_filter.mpr ⟨hx, decide_eq_true hq⟩, rfl⟩)
  · obtain ⟨x, hx, e⟩ | same := (failed_foldl_portDead _ s n).mp hf
    · obtain ⟨listed, quad⟩ := List.mem_filter.mp hx
      exact absurd e (hn x listed (of_decide_eq_true quad))
    · exact same

/-- Settles O30: training, HELLO, keys, groups and replay act on the one port; a port that fails takes no packet once it holds none, and sending
its message by another port leaves it as it is. -/
theorem portsTrainAndReplay : Obligations.PortsTrainAndReplay := by
  refine ⟨training_with_lanes, training_without_lanes, hello_of_revision_two, hello_of_revision_one, fun s p n ht hh hn h3 => ?_, third_key_message,
    good_group, bad_group, nak_replays, timeout_replays, lane_taken_out, failed_port_is_emptied, failed_port_waits, retrain_restarts,
    clock_loss_fails_quadrant⟩
  rw [exec_keyExchangeMessage ht hh hn, if_neg h3]

end Sys2Proof.Machine
end
